-- ==== Sys2Proof/Word.lean ====
section
/-! DEFINITION. The word types of the OM96nn model and their plainest arithmetic. -/

namespace Sys2Proof

/-- A 64-bit value: a general register, a 64-bit register, an address while it is computed. -/
abbrev Word := BitVec 64

/-- A 32-bit register value. -/
abbrev W32 := BitVec 32

/-- One byte of memory. -/
abbrev Byte := BitVec 8

end Sys2Proof
end

