-- ==== Sys2Proof/Syntax.lean ====
section
/-! DEFINITION. The steps of spec/opcode_table.json as commands: one constructor of `Instr` per row, with the
operands that come from outside the step. -/

namespace Sys2Proof

/-- Block types of Table 2.13. -/
inductive Block where
  | die | core | loops | prism | cnt | fab | hom | d2d | dmc | qe | tbu | gpe | sdm | evr | hpa | hpb | spa | eth
  | canf | mvb | ser | gpio | psl | pwr | hup | jrn | smg | mcp | bse | csd | dbg | lns | err
  deriving DecidableEq, Repr

/-- The host port through which a host acts (R396). -/
inductive Port where
  | hpa | hpb
  deriving DecidableEq, Repr

/-- A global core number (R5). -/
abbrev CoreId := Fin 388
/-- A partition number. -/
abbrev Part := Fin 64
/-- A priority level, which is also a bank number. -/
abbrev Level := Fin 8
/-- A general register field of an instruction word (R154, R180). -/
abbrev R5 := BitVec 5

/-- Who makes an access: a core (its partition and privilege come from the state), a function of a host port (its
partition comes from HP_FMAP), or another Focal agent, named by its endpoint, acting for a partition. -/
inductive Initiator where
  | core (c : CoreId)
  | host (port : Port) (fn : Fin 33)
  | agent (ep : BitVec 9) (part : Part)
  deriving DecidableEq, Repr

/-- A register or data-page location: block type, unit number, page within the unit, byte offset within the page. -/
structure RegAddr where
  ty : Block
  inst : Nat
  page : Nat
  off : Nat
  deriving DecidableEq, Repr

/-- What an access to an absent block names (R6). -/
inductive AbsTarget where
  | page (r : RegAddr)
  | window (c : CoreId) (off : BitVec 20)
  deriving DecidableEq, Repr

/-- The guard of an instruction word: bits [31] PS and [30:28] PG of Table 7.1. -/
structure Guard where
  ps : Bool
  pg : BitVec 3
  deriving DecidableEq, Repr

/-- The lines of an encoder input. -/
inductive EncLine where
  | a | b | z
  deriving DecidableEq, Repr

/-- The registers of one hardware-loop level. -/
inductive LoopReg where
  | lstart | lend | lcount
  deriving DecidableEq, Repr

/-- An inbound TLP of a host function (R398): a read of a number of bytes, or a write of bytes with its EP flag. -/
inductive Tlp where
  | rd (len : Nat)
  | wr (data : List Byte) (ep : Bool)
  deriving DecidableEq, Repr

/-- A configuration request of a host: a read, or a write that sets Memory Space Enable of the function. -/
inductive CfgReq where
  | read
  | setMse (on : Bool)
  | other
  deriving DecidableEq, Repr

/-- A device's bus-master request at a storage root port (R406). -/
inductive DmaReq where
  | rd (len : Nat)
  | wr (data : List Byte)
  deriving DecidableEq, Repr

/-- A core-side machine-check condition (R227, R244): a control-store parity error at a micro-address, at a decode-table entry, an
uncorrectable error of register files or pipeline state; or the sequencer at a ROM or vendor word, with the micro-call stack, newest
first, and what its condition comes to, to be judged by R240. -/
inductive MCheck where
  | parityWord (addr : BitVec 14)
  | parityEntry (i : Fin 32)
  | coreState
  | romStep (addr : BitVec 14) (stack : List (BitVec 14)) (cond : Bool)
  deriving DecidableEq, Repr

/-- One frame of a Periscope port after its block code: the link word of Table 17.1, the payload, what the receiver's
check bytes found (number of corrected bytes, or more than it can correct). -/
structure PslFrame where
  word : Word
  payload : List Byte
  corrected : Nat
  uncorr : Bool
  deriving DecidableEq, Repr

/-- A CAN or CAN FD frame as the ring entry of R413 lays it out. -/
structure CanFrame where
  id : BitVec 32
  dlc : Byte
  data : List Byte
  deriving DecidableEq, Repr

/-- A CAN frame on the bus, and whether it carried an error (R413, ISO 11898-1). -/
structure CanRx where
  frame : CanFrame
  err : Bool
  deriving DecidableEq, Repr

/-- A transmission of a CAN controller, and whether it met an error (R413, ISO 11898-1). -/
structure CanTx where
  ctl : Fin 8
  err : Bool
  deriving DecidableEq, Repr

/-- A read of an enqueue's entry that completes (R380): its place among the reads of its ring that are under way, and whether it met an
error. -/
structure EnqRead where
  which : Nat
  err : Bool
  deriving DecidableEq, Repr

/-- A MirWr at a channel (R362): the value, and whether the granule that it reads is uncorrectable. -/
structure DmcMir where
  value : Word
  uncorr : Bool
  deriving DecidableEq, Repr

/-- A move between register files (R203): its format, binary64 or binary32, and its direction, to a general register or from one. -/
structure FmovForm where
  dbl : Bool
  toG : Bool
  deriving DecidableEq, Repr

/-- What an MVB frame does at a controller (R414): the bus polls a source port, delivers data to a sink port, or moves a
message in either direction; or the controller, as bus administrator, sends a master frame. -/
inductive MvbXfer where
  | master (frame : BitVec 16)
  | poll (port : Fin 4096)
  | sink (port : Fin 4096) (data : List Byte)
  | msgIn (data : List Byte)
  | msgOut
  deriving DecidableEq, Repr

/-- The panicking ports of DMC_PANIC (R365). -/
inductive PanicPort where
  | gpe (g : Fin 12) | sdm | psl
  deriving DecidableEq, Repr

/-- The steps of the package. -/
inductive Instr where
  -- register pages (02)
  | registerWrite (i : Initiator) (r : RegAddr) (width : Nat) (v : Word)
  | readClear (i : Initiator) (r : RegAddr) (width : Nat)
  | mwWrite (i : Initiator) (r : RegAddr) (v : Word) (mirror : Bool)
  | evtSet (i : Initiator) (r : RegAddr) (v : W32)
  | evtClear (i : Initiator) (r : RegAddr) (v : W32)
  | errorLogEntryWrite
  | errCopyWrite
  | errCopyConfig (i : Initiator) (v : W32)
  | errDataPageWrite (i : Initiator) (page : Fin 64) (off : BitVec 12) (width : Nat) (v : Word)
  | amminBuild
  | amminWrite (i : Initiator) (off : BitVec 16) (width : Nat) (v : Word)
  | absentBlockAccess (i : Initiator) (t : AbsTarget) (write : Bool)
  | globalAliasAccess (i : Initiator) (c : CoreId) (off : BitVec 20) (width : Nat) (wr : Option Word)
  | dataPageAccess (i : Initiator) (r : RegAddr) (width : Nat) (wr : Option Word)
  | debugViewRead (p : Part) (r : RegAddr) (width : Nat)
  -- time bases (03)
  | tbNanosecond
  | encEdge (e : Fin 8) (line : EncLine) (level : Bool)
  | encFilterAccept (e : Fin 8) (line : EncLine)
  | encIndexEdge (e : Fin 8)
  | encCtlWrite (i : Initiator) (e : Fin 8) (v : W32)
  | sdpTick (k : Fin 4) (phase : Word)
  | tbAsTick (m : Fin 12)
  | tbRefTick
  | tbStandstill (n : Fin 16)
  | tbTimeout (n : Fin 16)
  | tbHoldExpiry (n : Fin 16)
  | tbUncGrow (n : Fin 16)
  | tbEnable (i : Initiator) (n : Fin 16) (v : W32)
  | tbDisable (i : Initiator) (n : Fin 16) (v : W32)
  | tbRestart (i : Initiator) (n : Fin 16) (v : W32)
  | tbSet (i : Initiator) (n : Fin 16) (v : Word)
  | tbStep (i : Initiator) (n : Fin 16) (v : Word)
  | tbCapture (i : Initiator) (n : Fin 16)
  | sdpEnable (i : Initiator) (k : Fin 4) (v : W32)
  | sdpChkErr (k : Fin 4) (diff : Nat)
  | sdpClassify (k : Fin 4) (mean : Int) (rms : Nat) (freq : Nat)
  | sdpLock (k : Fin 4) (freq : Nat)
  | sdpLockLoss (k : Fin 4) (rms : Nat)
  | axleEvaluate
  | cmpArm (i : Initiator) (m : Fin 256) (v : W32)
  | cmpArmEffect (m : Fin 256)
  | cmpDisarm (i : Initiator) (m : Fin 256) (v : W32)
  | cmpActionDeliver
  | gpeSegmentStart (g : Fin 12)
  | gpeStart (i : Initiator) (g : Fin 12) (v : W32)
  | gpeEnable (i : Initiator) (g : Fin 12) (v : W32)
  | gpeEntryApply (g : Fin 12)
  | gpeDeadtimeExpiry (g : Fin 12) (out : Fin 4)
  | gpeForceClear (i : Initiator) (g : Fin 12) (v : W32)
  | gpeRefill (g : Fin 12)
  | sdmSinc3Output (n : Fin 32) (bits : List Bool)
  | sdmSinc2Output (n : Fin 32) (bits : List Bool)
  | sdmStuck (n : Fin 32)
  | sdmSnapshot (set : Fin 16)
  | sdmSnapRingWrite
  -- events (04)
  | evrSourceArrival
  | evrDispatch (src : Fin 1024)
  | poolFifoDeliver (q : Fin 64)
  | inboxOffer (c : CoreId) (l : Level)
  | eventPacket (c : CoreId)
  | evrOwnWrite (i : Initiator) (w : Fin 256) (v : W32)
  | evrSourceEnable (i : Initiator) (p : Part) (v : W32)
  | evrSourceDisable (i : Initiator) (p : Part) (v : W32)
  | evrCfgWrite (i : Initiator) (p : Part) (v : W32)
  | evrSetcfg (i : Initiator) (p : Part) (v : Word)
  | evrRaise (i : Initiator) (p : Part) (v : W32)
  | poolMaskWrite (i : Initiator) (p : Part) (k : Fin 13) (v : W32)
  | waite (c : CoreId) (g : Guard)
  | bankSwitch (c : CoreId)
  | levelEnable (i : Initiator) (c : CoreId) (v : W32)
  | schedEntryWrite (i : Initiator) (c : CoreId) (l : Level) (v : Word)
  | budgetExpiry (c : CoreId) (l : Level)
  | localEventEnter (c : CoreId)
  -- pipeline (05)
  | instructionFetch (c : CoreId)
  | xipLineFetch (c : CoreId) (line : BitVec 48)
  | xipLineReturn (c : CoreId) (line : BitVec 48) (uncorr : Bool)
  | btbInv (i : Initiator) (c : CoreId)
  | dirInv (i : Initiator) (c : CoreId)
  | rekey (i : Initiator) (c : CoreId)
  | predictorOpDone (c : CoreId)
  -- instructions (06, 07)
  | intAlu (c : CoreId) (g : Guard) (fn : BitVec 7) (rd ra rb : R5)
  | addi (c : CoreId) (g : Guard) (rd ra : R5) (imm : BitVec 12)
  | andi (c : CoreId) (g : Guard) (rd ra : R5) (imm : BitVec 12)
  | ori (c : CoreId) (g : Guard) (rd ra : R5) (imm : BitVec 12)
  | xori (c : CoreId) (g : Guard) (rd ra : R5) (imm : BitVec 12)
  | shi (c : CoreId) (g : Guard) (rd ra : R5) (imm : BitVec 12)
  | cmp (c : CoreId) (g : Guard) (pd pn : BitVec 3) (ra rb : R5) (cond : BitVec 4) (imm w : Bool)
  | predicateOp (c : CoreId) (g : Guard) (pd pa pb fn : BitVec 3)
  | sel (c : CoreId) (g : Guard) (neg : Bool) (ps : BitVec 3) (rd ra rb : R5)
  | cmov (c : CoreId) (g : Guard) (neg : Bool) (ps : BitVec 3) (rd ra : R5)
  | mul (c : CoreId) (g : Guard) (fn : BitVec 7) (rd ra rb : R5)
  | div (c : CoreId) (g : Guard) (fn : BitVec 7) (rd ra rb : R5)
  | fractionOp (c : CoreId) (g : Guard) (fn : BitVec 7) (rd ra rb : R5)
  | mac (c : CoreId) (g : Guard) (ac : BitVec 2) (sub clr int : Bool) (ra rb : R5) (form : BitVec 2) (uns : Bool)
  | acrd15 (c : CoreId) (g : Guard) (rd : R5) (ac : BitVec 2)
  | acrd31 (c : CoreId) (g : Guard) (rd : R5) (ac : BitVec 2)
  | acrd63 (c : CoreId) (g : Guard) (rd : R5) (ac : BitVec 2)
  | acrdl (c : CoreId) (g : Guard) (rd : R5) (ac : BitVec 2)
  | acrdg (c : CoreId) (g : Guard) (rd : R5) (ac : BitVec 2)
  | acwr (c : CoreId) (g : Guard) (ra : R5) (ac : BitVec 2)
  | acwrg (c : CoreId) (g : Guard) (ra : R5) (ac : BitVec 2)
  | acsh (c : CoreId) (g : Guard) (ac : BitVec 2) (rb : R5)
  | acadd (c : CoreId) (g : Guard) (ac : BitVec 2) (rb : R5)
  | acclr (c : CoreId) (g : Guard) (ac : BitVec 2)
  | macx (c : CoreId) (g : Guard) (ac xg yg : BitVec 2) (xpm ypm : Bool) (form : BitVec 2) (sub int clr uns : Bool)
  | load (c : CoreId) (g : Guard) (size : BitVec 2) (uns : Bool) (rd ra : R5) (off : BitVec 12)
  | store (c : CoreId) (g : Guard) (size : BitVec 2) (rs ra : R5) (off : BitVec 12)
  | ldxStx (c : CoreId) (g : Guard) (fn : BitVec 7) (rd ra rb : R5)
  | ldtStt (c : CoreId) (g : Guard) (rd : R5) (y : Bool) (gen : BitVec 2) (pm st : Bool) (size : BitVec 2) (uns : Bool)
  | ldmw (c : CoreId) (g : Guard) (rd ra rk : R5) (off : BitVec 6)
  | stmw (c : CoreId) (g : Guard) (rs ra rk : R5) (off : BitVec 6)
  | ldl (c : CoreId) (g : Guard) (rd ra : R5) (d : Bool)
  | stc (c : CoreId) (g : Guard) (rd ra rs : R5) (d : Bool)
  | fenceAcq (c : CoreId) (g : Guard)
  | fenceRel (c : CoreId) (g : Guard)
  | fenceAll (c : CoreId) (g : Guard)
  | ifence (c : CoreId) (g : Guard)
  | br (c : CoreId) (g : Guard) (disp : BitVec 22)
  | jr (c : CoreId) (g : Guard) (ra : R5)
  | call (c : CoreId) (g : Guard) (disp : BitVec 22)
  | callr (c : CoreId) (g : Guard) (ra : R5)
  | ret (c : CoreId) (g : Guard)
  | loop (c : CoreId) (g : Guard) (lv i : Bool) (cnt : BitVec 10) (cr : R5) (endOff : BitVec 10)
  | mfsr (c : CoreId) (g : Guard) (rd : R5) (sr : BitVec 6)
  | mtsr (c : CoreId) (g : Guard) (ra : R5) (sr : BitVec 6)
  | rfe (c : CoreId) (g : Guard)
  | wflush (c : CoreId) (g : Guard)
  | trap (c : CoreId) (g : Guard) (arg : BitVec 10)
  | brk (c : CoreId) (g : Guard) (arg : BitVec 10)
  | fpArith (c : CoreId) (g : Guard) (fn : BitVec 7) (fd fa fb : R5)
  | fdiv (c : CoreId) (g : Guard) (dbl : Bool) (fd fa fb : R5)
  | fsqrt (c : CoreId) (g : Guard) (dbl : Bool) (fd fa : R5)
  | fcvt (c : CoreId) (g : Guard) (fn : BitVec 7) (rd ra : R5)
  | fmov (c : CoreId) (g : Guard) (form : FmovForm) (rd ra : R5)
  | fcmp (c : CoreId) (g : Guard) (dbl : Bool) (pd : BitVec 3) (rel : BitVec 2) (fa fb : R5)
  | fld (c : CoreId) (g : Guard) (fd ra : R5) (sz : BitVec 2) (off : BitVec 9)
  | fst (c : CoreId) (g : Guard) (fd ra : R5) (sz : BitVec 2) (off : BitVec 9)
  | li (c : CoreId) (g : Guard) (rd : R5) (imm : W32)
  | lih (c : CoreId) (g : Guard) (rd : R5) (imm : W32)
  | addw (c : CoreId) (g : Guard) (rd ra : R5) (imm : W32)
  | andw (c : CoreId) (g : Guard) (rd ra : R5) (imm : W32)
  | orw (c : CoreId) (g : Guard) (rd ra : R5) (imm : W32)
  | cmpw (c : CoreId) (g : Guard) (pd pn : BitVec 3) (ra : R5) (cond : BitVec 4) (w : Bool) (imm : W32)
  | pset (c : CoreId) (g : Guard) (n : BitVec 4) (ra : R5)
  | pget (c : CoreId) (g : Guard) (rd : R5) (n : BitVec 4)
  | pstat (c : CoreId) (g : Guard) (rd : R5)
  | pwait (c : CoreId) (g : Guard)
  | pclr (c : CoreId) (g : Guard)
  | pfft (c : CoreId) (g : Guard) (log2n : BitVec 4) (inv q31 scale brev : Bool)
  | pfilt (c : CoreId) (g : Guard) (iir q31 : Bool)
  | pmat (c : CoreId) (g : Guard) (accum : Bool)
  | prismCommandStart (u : Fin 48)
  | prismCommandDone (u : Fin 48) (ecc : Bool)
  | customInstruction (c : CoreId) (g : Guard) (sub rd ra rb : R5)
  | xstateLazy (c : CoreId)
  | xsaveWrite (c : CoreId) (g : Guard) (ra : R5)
  | loopsRegWrite (i : Initiator) (c : CoreId) (l : Level) (k : Bool) (reg : LoopReg) (v : Word)
  -- exceptions and microcode (08, 09)
  | impreciseExceptionDelivery (c : CoreId)
  | storeErrorResponse (c : CoreId) (l : Level) (addr : BitVec 48) (absent : Bool)
  | machineCheck (c : CoreId) (k : MCheck)
  | coreRelease (i : Initiator) (c : CoreId)
  | mcWaitTimeout (c : CoreId)
  -- partitions, translation, caches (10)
  | partStart (i : Initiator) (p : Part) (same : List Part)
  | partStop (i : Initiator) (p : Part)
  | partStopDone (p : Part)
  | partCoresWrite (i : Initiator) (p : Part) (k : Fin 13) (v : W32)
  | partModesWrite (i : Initiator) (p : Part) (v : W32)
  | partTimingTakeEffect (c : CoreId)
  | l3waysWrite (i : Initiator) (p : Part) (v : W32)
  | tlbiAll (i : Initiator) (c : CoreId) (bcast : Bool)
  | tlbiAsn (i : Initiator) (c : CoreId) (bcast : Bool) (asn : BitVec 5)
  | tlbiVa (i : Initiator) (c : CoreId) (bcast : Bool) (asn : BitVec 5) (vpage : BitVec 36)
  | tlbiPstageAll (i : Initiator) (c : CoreId) (bcast : Bool)
  | tlbIlock (i : Initiator) (c : CoreId) (bcast : Bool) (bank : Level) (vpage : BitVec 36)
  | tlbIunlock (i : Initiator) (c : CoreId) (bcast : Bool) (bank : Level) (vpage : BitVec 36)
  | tlbiDone (c : CoreId)
  | cacheIlock (i : Initiator) (c : CoreId) (line : BitVec 42) (count : Fin 64) (way : Fin 8)
  | cacheIunlock (i : Initiator) (c : CoreId) (way : Fin 8)
  | l1dFlush (i : Initiator) (c : CoreId)
  | cacheClean (i : Initiator) (c : CoreId) (line : BitVec 42)
  | cacheCleanInv (i : Initiator) (c : CoreId) (line : BitVec 42)
  | cacheOpDone (c : CoreId)
  | ptbWrite (i : Initiator) (c : CoreId) (v : Word)
  | gtbWrite (i : Initiator) (c : CoreId) (l : Level) (v : Word)
  -- coherence (11): a is the caching agent, ep the endpoint of a non-caching agent
  | rdshared (a : Fin 13) (line : BitVec 42) (filterErr : Bool)
  | rdunique (a : Fin 13) (line : BitVec 42)
  | upgrade (a : Fin 13) (line : BitVec 42)
  | rdonce (ep : BitVec 9) (line : BitVec 42)
  | wrfull (ep : BitVec 9) (line : BitVec 42) (data : List Byte)
  | wrpartial (ep : BitVec 9) (line : BitVec 42) (mask : Word) (data : List Byte)
  | wbdata (a : Fin 13) (line : BitVec 42)
  | evict (a : Fin 13) (line : BitVec 42)
  | snpshared (a : Fin 13) (line : BitVec 42)
  | snpinv (a : Fin 13) (line : BitVec 42)
  | snponce (a : Fin 13) (line : BitVec 42)
  | snpflush (a : Fin 13) (line : BitVec 42)
  | snpresp (a : Fin 13) (line : BitVec 42)
  | snprespdata (a : Fin 13) (line : BitVec 42)
  | comp (a : Fin 13) (line : BitVec 42)
  | data (a : Fin 13) (line : BitVec 42)
  | datafwd (a : Fin 13) (line : BitVec 42)
  | retry (a : Fin 13) (line : BitVec 42)
  | creditgrant (a : Fin 13) (line : BitVec 42)
  | nack (a : Fin 13) (line : BitVec 42)
  | nackBackoffExpiry (a : Fin 13) (line : BitVec 42)
  | wback (a : Fin 13) (line : BitVec 42)
  | errresp (a : Fin 13) (line : BitVec 42) (errc : Byte)
  | holdWindowEnd (a : Fin 13) (line : BitVec 42)
  | dieAbsentMark (n : Fin 12)
  | homeLossScan (slice : Fin 16) (set : BitVec 14)
  | homeScanDone (slice : Fin 16)
  | dieRejoin (n : Fin 12)
  -- network, links, identity (12)
  | routeCommit (i : Initiator) (site : Fin 14) (v : Word)
  | routeInstall (site : Fin 14) (ni : BitVec 6) (entry : BitVec 9)
  | routerReconfig (i : Initiator) (site : Fin 14) (v : W32)
  | routerDrainDone (site : Fin 14) (cycles : Nat)
  | packetReceive (site : Fin 14) (ni : BitVec 6) (hdr : BitVec 256) (reqBytes cycles : Nat)
  | statsConfigWrite (i : Initiator) (site : Fin 14) (v : W32)
  | linkFrameReceive (l : Fin 49) (word : W32) (payload : BitVec 256) (corrected : Nat) (uncorr : Bool)
  | linkReplayRequest (l : Fin 49) (seq : BitVec 10)
  | linkReplayTimeout (l : Fin 49)
  | linkCredit (l : Fin 49) (counts : List (BitVec 16))
  | d2dRetrain (i : Initiator) (l : Fin 49) (v : W32)
  | d2dDisable (i : Initiator) (l : Fin 49) (v : W32)
  | linkTrainDone (l : Fin 49) (farSite : BitVec 4) (farSerial : Word) (farOffer : BitVec 4) (farRev : Byte) (ok : Bool)
  | heartbeatSend (l : Fin 49)
  | heartbeatLoss (l : Fin 49)
  | linkRecover (l : Fin 49) (seq : BitVec 10)
  | dieEmpty (n : Fin 12)
  | fuseRead (site : Fin 14) (corr err : Bool)
  -- mirror layer and safety (13)
  | mirrd (ep : BitVec 9) (addr : BitVec 48)
  | mirwr (ep : BitVec 9) (addr : BitVec 48) (v : Word)
  | pairWrite (i : Initiator) (q : Fin 192) (v : W32)
  | mcpChannelEnable (i : Initiator) (ch : Fin 256) (v : W32)
  | mcpChannelDisable (i : Initiator) (ch : Fin 256) (v : W32)
  | mcpResync (i : Initiator) (ch : Fin 256)
  | mcpHalfArrival (ch : Fin 256) (b : Bool)
  | mcpWindowOpen (ch : Fin 256)
  | mcpDeadline (ch : Fin 256)
  | enterOperate (i : Initiator)
  | recover (i : Initiator)
  | enterSafe (i : Initiator)
  | enterMaint (i : Initiator)
  | report (i : Initiator) (react : BitVec 2)
  | safeToggle
  | wdArm (i : Initiator) (v : Word)
  | wdService (i : Initiator) (slot : Bool) (v : Word) (mirror : Bool) (ticks : Nat)
  | wdTimeout
  | wdRefLost
  | wdExpiryReset
  | wdFreezeRelease
  -- DRAM controllers (14)
  | powerup (i : Initiator) (ch : Fin 16)
  | dmcPowerupDone (ch : Fin 16)
  | service (i : Initiator) (ch : Fin 16)
  | test (i : Initiator) (ch : Fin 16)
  | exitTest (i : Initiator) (ch : Fin 16)
  | fill (i : Initiator) (ch : Fin 16)
  | dmcFillDone (ch : Fin 16)
  | dmcSweep (i : Initiator) (ch : Fin 16) (v : W32)
  | dmcSweepDone (ch : Fin 16) (res : BitVec 128)
  | dmcMapWrite (i : Initiator) (ch : Fin 16) (v : W32)
  | dmcSlotEnable (i : Initiator) (ch : Fin 16) (v : W32)
  | dmcReadRequest (ch : Fin 16) (line : BitVec 42) (ep : BitVec 9) (part : Option Part) (rt : Bool)
  | dmcWriteRequest (ch : Fin 16) (line : BitVec 42) (ep : BitVec 9) (part : Option Part) (rt : Bool) (poison : Bool)
      (data : List Byte)
  | dmcMirwr (ch : Fin 16) (addr : BitVec 48) (ep : BitVec 9) (part : Option Part) (w : DmcMir)
  | dmcSchedule (ch : Fin 16) (busyBanks : List Nat)
  | dmcReadData (ch : Fin 16) (symbols0 symbols1 : BitVec 40) (uncorr0 uncorr1 : Bool)
  | dmcRefresh (ch : Fin 16)
  | dmcMr4Read (ch : Fin 16) (rank : Bool) (mult : Nat)
  | dmcTempRead (ch : Fin 16) (temp : Byte)
  | dmcOffsetApply (ch : Fin 16)
  | dmcPanic (port : PanicPort)
  | dmcSlotStart (ch : Fin 16)
  | dmcTokenRefill (ch : Fin 16) (p : Part)
  -- queue engine (15)
  | qeOwn (i : Initiator) (v : W32)
  | qeRingEnable (i : Initiator) (p : Part) (v : W32)
  | qeRingDisable (i : Initiator) (p : Part) (v : W32)
  | qeEnq (i : Initiator) (p : Part) (v : Word)
  | qeEnqSourceRead (ring : Fin 8192) (r : EnqRead)
  | qeEnqComplete (ring : Fin 8192) (err : Bool)
  | qeDeq (i : Initiator) (p : Part) (v : Word)
  | qeDeqComplete (ring : Fin 8192) (bufErr dstErr : Bool)
  | qeDmaEnable (i : Initiator) (p : Part) (v : W32)
  | qeDmaDisable (i : Initiator) (p : Part) (v : W32)
  | dmaCommandFetch (ch : Fin 64)
  | dmaCommandStart (ch : Fin 64)
  | dmaCommandComplete (ch : Fin 64) (tag : BitVec 16) (err : Bool)
  | dmaCompletionPost (ch : Fin 64)
  | qeDabort (i : Initiator) (p : Part) (v : W32) (done : Nat)
  -- host ports and networks (16)
  | hpInboundRequest (port : Port) (fn : Fin 33) (bar : BitVec 3) (off : BitVec 48) (tlp : Tlp)
  | hpConfigRequest (port : Port) (fn : Fin 33) (req : CfgReq)
  | hpOutboundAccess (i : Initiator) (addr : BitVec 48) (width : Nat) (wr : Option Word)
  | hpReadCompletion (port : Port) (tag : BitVec 10) (v : Word)
  | hpCompletionTimeout (port : Port) (tag : BitVec 10)
  | hpLinkDown (port : Port)
  | hpFlr (port : Port) (fn : Fin 33)
  | hpVmapEnable (i : Initiator) (port : Port) (k : Fin 256) (v : W32)
  | hpMsixSend (port : Port)
  | hsemRead (i : Initiator) (port : Port) (k : Fin 256) (both : Bool)
  | hsemWrite (i : Initiator) (port : Port) (k : Fin 256) (v : W32)
  | spaConfigAccess (i : Initiator) (port : Fin 2) (wr : Option W32) (dev : Option W32)
  | spaDeviceVector (port : Fin 2) (v : Fin 32)
  | spaDeviceDma (port : Fin 2) (addr : BitVec 48) (req : DmaReq)
  | spaLinkDown (port : Fin 2)
  | ethFrameReceive (m : Fin 12) (frame : List Byte) (fcsOk : Bool)
  | ethTxEntry (m : Fin 12) (t : Level)
  | ethTxComplete (m : Fin 12)
  | ptpStep (i : Initiator) (m : Fin 12) (v : Word)
  | gclChange (i : Initiator) (m : Fin 12) (v : W32)
  | ethGateInterval (m : Fin 12)
  | ethLaunch (m : Fin 12) (t : Level)
  | frerRecoveryReset (r : Fin 64)
  | canfFrameReceive (k : Fin 8) (x : CanRx)
  | canfFrameTransmit (x : CanTx)
  | canfBusOffRecovery (k : Fin 8)
  | mvbPortWrite (i : Initiator) (k : Fin 2) (port : Fin 4096) (data : List Byte)
  | mvbFrame (k : Fin 2) (x : MvbXfer)
  | serTransfer (k : Fin 13) (rx : Option (List Byte))
  | gpioEdge (pin : Fin 64) (level : Bool) (first : Word)
  -- Periscope (17): x = false is the upstream port
  | pslEnable (i : Initiator) (v : W32)
  | pslPortRetrain (i : Initiator) (x : Bool) (v : W32)
  | pslAlignDone (x : Bool)
  | pslIdent (x : Bool) (serial : Word) (addr : Option (BitVec 6)) (count : Option (BitVec 7))
  | pslCal (x : Bool) (t1 t2 t3 t4 : Word)
  | pslCalibrate (x : Bool)
  | pslTimeSample
  | pslTimeFrame (x : Bool) (f : PslFrame) (inside : Nat)
  | pslSampleAge (x : Bool) (idx : Fin 16)
  | pslMessageSend (k : Fin 8)
  | pslMessageFrame (x : Bool) (f : PslFrame)
  | pslReplay (x : Bool) (hseq : BitVec 9)
  | pslPortTimeout (x : Bool)
  | pslRenumber (i : Initiator)
  -- power, hold-up, journal, resets (18)
  | pwrDomainOn (i : Initiator) (d : BitVec 6)
  | pwrDomainOff (i : Initiator) (d : BitVec 6)
  | domainDone
  | pwrEnvelopeWrite (i : Initiator) (v : W32)
  | pwrEmissionWrite (i : Initiator) (v : W32)
  | pwrEmissionDone
  | pwrSample (power : Nat)
  | pwrEvaluate
  | hupSample (code : BitVec 12)
  | jrnRequest
  | jrnMarkerWrite
  | jrnNvmeCompletion (ok : Bool)
  | jrnNvmeTimeout
  | jrnErase
  | jrnEraseDone
  | jrnScan (i : Initiator) (v : W32)
  | jrnScanDone
  | powerOnReset
  | powerOnResetEnd
  | prst
  | pkgrst (i : Initiator)
  | vinCoreLow
  | packageReset
  | packageResetEnd
  | dierst (i : Initiator) (site : BitVec 4)
  | debugReset
  | thermtrip
  -- boot and security (19)
  | bootRom (flash : Option (List Byte))
  | provision (i : Initiator)
  | lock (i : Initiator)
  | enroll (i : Initiator)
  | keyop (i : Initiator)
  | advance (i : Initiator)
  | install (i : Initiator)
  | activate (i : Initiator)
  | loadmc (i : Initiator)
  | nopatch (i : Initiator)
  | verifyMc (i : Initiator)
  | handover (i : Initiator)
  | verify (i : Initiator) (p : Part)
  | reportAttest (i : Initiator) (p : Part)
  | chain (i : Initiator) (p : Part)
  | bseCommandDone
  | rcvOpen (i : Initiator)
  | rcvPush (i : Initiator) (count : BitVec 16)
  | rcvDone (i : Initiator)
  | rcvClose (i : Initiator)
  -- debug, trace, counters (20)
  | scanIrUpdate (codes : List Byte)
  | dieselUpdate (v : BitVec 14)
  | dbgaccUpdate (v : BitVec 80)
  | authReq (v : Word)
  | authGo
  | authVerifyDone
  | scanRevoke (p : Part)
  | dbgRevoke (i : Initiator) (v : W32)
  | stop
  | stopPart
  | run
  | mbxIn (v : Word)
  | mbxOut
  | coreMbxRead (i : Initiator) (c : CoreId)
  | coreMbxWrite (i : Initiator) (c : CoreId) (v : Word)
  | traceData
  | debugEntry (c : CoreId)
  | dbgWdExpiry (p : Part)
  | wdsvc (i : Initiator) (p : Part)
  | dbgViewRequest (i : Initiator) (p : Part) (v : Word)
  | lnsSessionEnable (i : Initiator) (p : Part) (v : W32)
  | lnsSync (c : CoreId)
  | lnsPacket (c : CoreId) (ty : BitVec 4) (bytes : List Byte)
  | lnsTrigger (p : Part) (k : Fin 4) (c : CoreId)
  | lnsCaptureStop (p : Part)
  | lnsRead (i : Initiator) (p : Part)
  | gfreezeWrite (i : Initiator) (v : W32)
  | snaptimeArm (i : Initiator) (v : Word)
  | counterSnapshot
  | counterWrap (c : CoreId) (k : Level)
  -- link events and later rows
  | hpLinkUp (port : Port) (rate : BitVec 3) (width : BitVec 4) (numvf : BitVec 6)
  | spaLinkUp (port : Fin 2)
  | ethLinkChange (m : Fin 12) (up : Bool) (speed : BitVec 3)
  | mvbLineChange (k : Fin 2) (lineB : Bool) (good : Bool)
  | pslIdleFrame (x : Bool) (f : PslFrame)
  | pslReplayTimeout (x : Bool)
  | pwrDomainOffDone
  | boundaryRegisterUpdate (cells : List Bool)
  | lnsSinkWrite (p : Part)
  deriving DecidableEq, Repr

end Sys2Proof
end

