-- ==== Sys2Proof/Config.lean ====
section
/-! DEFINITION. What the spec leaves open: uninterpreted constants. None has a body, so no proof sees a value. -/

namespace Sys2Proof.Config

/-- The value that stands for the n-th value the spec leaves open in a run (log entry 3). -/
opaque freeNat : Nat → Nat

/-- The place a part gives page 0 of a block: type code, then unit number (R54: taken from the Ammin table; log entry 4). -/
opaque pagePlace : Nat → Nat → Nat

/-- VERSION of a block type, 16 bits (Table 2.13a gives the field, not the value; log entry 4). -/
opaque version : Nat → Nat

/-- SHA-512 of a byte list, as 64 bytes' number (R50, R457; log entry 5). -/
opaque sha512 : List Byte → Nat

/-- AES-256-GCM under the KEK of a key class: initial value, additional data, cipher text and tag to plain text, or none where the tag does
not check (R457; log entry 5). -/
opaque aesGcmOpen : Nat → List Byte → List Byte → List Byte → List Byte → Option (List Byte)

/-- ECDSA P-521 verification: public point, hash value, signature (R456, R475; log entry 5). -/
opaque ecdsaOk : List Byte → Nat → List Byte → Bool

/-- The 132-byte ECDSA P-521 signature of a hash value by IDKEY (R468; log entry 5). -/
opaque ecdsaSign : Nat → Nat

/-- The ROM version of the cores (R246 names it and gives no number; log entry 4). -/
opaque romVersion : Nat

/-- The words of a microcode image's payload by patch RAM address, its match entries and its decode table; whether the image is valid
(R245, R250). The spec gives the payload no layout (log entry 5). -/
opaque mcWords : List Byte → List (Nat × BitVec 152)
opaque mcMatches : List Byte → List (Nat × Nat)
opaque mcTable : List Byte → List Nat
opaque mcValid : List Byte → Bool

/-- The 12,288 ROM microwords (R235 gives their number, not their contents; log entry 109). -/
opaque romWord : Nat → BitVec 152

/-- The ROM address of the WAIT at which the save of extended state waits for Prism commands (R239; log entry 109). -/
opaque lazyWait : Nat

/-- What a microword computes of its source operands, the datum that it loads and the micro-loop counter: Table 9.1 names the ALU, SHIFT,
MUL, IMM and SPR fields and gives them no codes (log entry 58). -/
opaque microAlu : BitVec 152 → BitVec 72 → BitVec 72 → Word → Nat → BitVec 72

/-- Whether the condition that COND names holds (log entry 58). -/
opaque microCond : BitVec 152 → BitVec 72 → BitVec 72 → Nat → Bool

/-- The address and the stored datum of a memory word (log entry 58). -/
opaque microAddr : BitVec 152 → BitVec 72 → BitVec 72 → Word
opaque microData : BitVec 152 → BitVec 72 → BitVec 72 → Word

/-- The micro-loop counter after a word, as CNT loads or decrements it (log entry 58). -/
opaque microCount : BitVec 152 → BitVec 72 → Nat → Nat

/-- What FLAGS sets: bit 0 SAT, bits [5:1] the flags of FPCSR (log entry 58). -/
opaque microFlags : BitVec 152 → BitVec 72 → Nat

/-- Whether a COMMIT code commits a result at END: 0 the accumulators, 1 SAT and the flags (log entry 58). -/
opaque microCommits : Nat → Nat → Bool

/-- SUB and t1 of a cause that FAULT raises where Tables 8.2 and 8.3 leave them to what was met (log entry 58). -/
opaque microSub : BitVec 152 → BitVec 72 → Nat
opaque microT1 : BitVec 152 → BitVec 72 → Word

/-- The boot ROM's 24 KiB (R464 gives what it does, not its bytes; log entry 4). -/
opaque bootRomByte : Nat → Byte

/-- The identity certificate chain that PROVISION writes (R459 gives its form, not its bytes; log entry 5). -/
opaque chainByte : Nat → Byte

/-- The n-th output of the random generator (log entry 5). -/
opaque random : Nat → Nat

/-- What a byte of DRAM reads as before anything has written it: by the number of times the contents were lost, and address (R374
gives no value; log entry 8). -/
opaque dramByte : Nat → Nat → Byte

/-- What a byte of host memory behind a window is when an engine reads it: by the number of free values taken before, and address (R400
gives no value; log entry 3). -/
opaque hostByte : Nat → Nat → Byte

/-- Whether a line of DRAM that holds a byte nothing has written reads as poisoned (R374; log entry 8). -/
opaque dramPoison : Nat → Nat → Bool

/-- DMC_SLOTSTAT.LINES: the most lines one slot can carry under CFG, TIM0 to TIM3 and SLOTCTL (R366 gives no formula; log entry
3). -/
opaque slotLines : List Word → Nat

/-- Offset of SPA_CFGDATA in page 0 of a storage root port (the spec gives none; log entry 4). -/
opaque spaCfgdata : Nat

/-- Offsets of SPA_CFGADDR and SPA_MWBASE in page 0 of a storage root port (the spec gives none; log entry 4). -/
opaque spaCfgaddr : Nat
opaque spaMwbase : Nat

/-- The default route of an NI to an endpoint: ROUTE_H with HOPS_H (40 bits), ROUTE_N with HOPS_N (40 bits) above them. R309 says that it
reaches the endpoint and gives no selectors (log entry 4). -/
opaque defaultRoute : Nat → Nat → Nat

/-- The router to which an NI of a site attaches (R305 gives the meshes, not the places; log entry 4). -/
opaque niRouter : Nat → Nat → Nat

/-- Whether tininess is detected before rounding (IEEE 754-2019 leaves the choice, R164 does not make it; log entry 3). -/
opaque tinyBefore : Bool

/-- Whether FMA of zero times infinity with a quiet NaN addend is invalid (IEEE 754-2019 leaves the choice; log entry 3). -/
opaque fmaNanInvalid : Bool

/-- Whether FCMP LT and LE are invalid on a quiet NaN (IEEE 754-2019 has both forms, R203 names none; log entry 3). -/
opaque fcmpSignaling : Bool

/-- Whether the state buffer of a FIR chain holds its newest input first (R206 says what it holds, not in which order; log entry 3). -/
opaque firNewestFirst : Bool

/-- Whether the coefficients of a FIR filter begin with the tap of the newest input (R206 names no order; log entry 3). -/
opaque firTapZeroFirst : Bool

/-- Whether an FFT decimates in frequency rather than in time (R206 gives the transform, not the order of its stages; log entry 108). -/
opaque fftDif : Bool

/-- Whether an FFT rounds and holds the results of every stage, or its outputs alone (R206; log entry 108). -/
opaque fftStageRounds : Bool

/-- Where the five coefficients b0, b1, b2, a1, a2 of a biquad lie in its section of the buffer (R206 gives no order; log entry 108). -/
opaque biquadCoef : Fin 5 → Fin 5

/-- Where the history x1, x2, y1, y2 of a biquad lies in its section of the buffer (R206 gives no order; log entry 108). -/
opaque biquadHist : Fin 4 → Fin 4

/-- Whether a biquad subtracts its feedback products (R206 gives no sign convention; log entry 108). -/
opaque biquadSub : Bool

end Sys2Proof.Config
end

