-- ==== Sys2Proof/Machine/Bits.lean ====
section
/-! DEFINITION. Bit fields of register values (R9), little-endian byte lists, and sparse tables in canonical order. -/

namespace Sys2Proof.Machine

/-- Field of `w` bits at bit `lo` of a value, as a number (R9). -/
def fld (v : Word) (lo w : Nat) : Nat := (v.toNat >>> lo) % 2 ^ w

/-- Bit `i` of a value. -/
def bit (v : Word) (i : Nat) : Bool := v.toNat.testBit i

/-- A value with the field of `w` bits at `lo` replaced by the low bits of `x`. -/
def setFld (v : Word) (lo w x : Nat) : Word :=
  (v &&& ~~~(BitVec.ofNat 64 ((2 ^ w - 1) <<< lo))) ||| BitVec.ofNat 64 ((x % 2 ^ w) <<< lo)

/-- A value with bit `i` set or cleared. -/
def setBit (v : Word) (i : Nat) (b : Bool) : Word := setFld v i 1 b.toNat

/-- Zero-extension of a 32-bit register value. -/
def w32 (v : W32) : Word := BitVec.ofNat 64 v.toNat

/-- The number of `w` bits that a signed value spells. -/
def sfld (v : Word) (lo w : Nat) : Int :=
  let n := fld v lo w
  if 2 * n < 2 ^ w then (n : Int) else (n : Int) - 2 ^ w

/-- A signed number as a 64-bit word, wrapping in two's complement. -/
def ofI (x : Int) : Word := BitVec.ofInt 64 x

/-- Saturating 32-bit count: the next value of a counter that stays at its largest value. -/
def satInc (v : Word) : Word := if v.toNat ≥ 0xFFFFFFFF then BitVec.ofNat 64 0xFFFFFFFF else BitVec.ofNat 64 (v.toNat + 1)

/-- The `k` little-endian bytes of a number (R9). -/
def leBytes : Nat → Nat → List Byte
  | 0, _ => []
  | k + 1, x => BitVec.ofNat 8 x :: leBytes k (x / 256)

/-- The number that little-endian bytes spell (R9). -/
def leNat : List Byte → Nat
  | [] => 0
  | b :: bs => b.toNat + 256 * leNat bs

/-- One bit per element, the first at bit 0. -/
def bitsToNat : List Bool → Nat
  | [] => 0
  | b :: bs => b.toNat + 2 * bitsToNat bs

/-- Whether `v` is a mirror word: the high half is the complement of the low half (R10). -/
def mirrorOk (v : Word) : Bool := v.toNat / 2 ^ 32 == 0xFFFFFFFF - v.toNat % 2 ^ 32

/-- The mirror word of a 32-bit number. -/
def mirrorOf (x : Nat) : Word :=
  BitVec.ofNat 64 ((0xFFFFFFFF - x % 2 ^ 32) * 2 ^ 32 + x % 2 ^ 32)

/-- A sparse table: entries in strictly rising order of key. -/
abbrev Tbl (α : Type) := List (Nat × α)

/-- The entry under a key. -/
def Tbl.get? {α : Type} : Tbl α → Nat → Option α
  | [], _ => none
  | (k, v) :: t, x => if k = x then some v else Tbl.get? t x

/-- The entry under a key, or a default. -/
def Tbl.get {α : Type} (t : Tbl α) (d : α) (x : Nat) : α := (Tbl.get? t x).getD d

/-- The table with one entry written. -/
def Tbl.set {α : Type} : Tbl α → Nat → α → Tbl α
  | [], x, v => [(x, v)]
  | (k, w) :: t, x, v =>
    if x < k then (x, v) :: (k, w) :: t
    else if x = k then (x, v) :: t
    else (k, w) :: Tbl.set t x v

/-- The table without the entries whose key satisfies `p`. -/
def Tbl.drop {α : Type} (t : Tbl α) (p : Nat → Bool) : Tbl α := t.filter fun e => !p e.1

/-- Strictly rising keys. -/
def Tbl.sorted {α : Type} : Tbl α → Bool
  | [] => true
  | [_] => true
  | (a, _) :: (b, w) :: t => a < b && Tbl.sorted ((b, w) :: t)

/-- Replace the element at a position; a position past the end changes nothing. -/
def listSet {α : Type} : List α → Nat → α → List α
  | [], _, _ => []
  | _ :: t, 0, v => v :: t
  | a :: t, n + 1, v => a :: listSet t n v

/-- The element at a position, or a default. -/
def nth {α : Type} (l : List α) (d : α) : Nat → α
  | n => l.getD n d

/-- The numbers below `n`, rising. -/
def upto (n : Nat) : List Nat := List.range n

/-- The sum of a list of numbers. -/
def sumNat (l : List Nat) : Nat := l.foldl (· + ·) 0

/-- The number of set bits among the low `w` bits. -/
def popcount (w x : Nat) : Nat := ((upto w).filter fun i => x.testBit i).length

end Sys2Proof.Machine
end

