-- ==== Sys2Proof/Machine/RegMap.lean ====
section
/-! DEFINITION. The register map: every register the spec's register tables give, with its place, width, access code
by bits, and reset value, and the named place of each. -/

namespace Sys2Proof.Machine

/-- One register, or one array of registers, of the pages `pLo` to `pHi` of a block type. `rw`, `w1c` and `wo` are the
bits with those access codes; bits in none of them are read-only or reserved (R10, R12). `rc` says that a read clears it,
`mw` that it is a mirror slot. -/
structure RegRow where
  name : String
  pLo : Nat
  pHi : Nat
  off : Nat
  width : Nat
  dims : List (Nat × Nat)
  rw : Nat
  w1c : Nat
  wo : Nat
  rc : Bool
  mw : Bool
  reset : Nat
  deriving DecidableEq, Repr

/-- A register of 32 bits, nothing writable, reset 0. -/
def row0 (name : String) (pLo pHi off width : Nat) : RegRow :=
  { name := name, pLo := pLo, pHi := pHi, off := off, width := width, dims := [], rw := 0, w1c := 0, wo := 0, rc := false,
    mw := false, reset := 0 }

/-- Error log page 0, Table 2.17. -/
def rowsERR : List RegRow := [
  row0 "ERR_HEADSEQ" 0 0 0x100 32,
  row0 "ERR_TAILSEQ" 0 0 0x104 32,
  { row0 "ERR_RDSEQ" 0 0 0x108 32 with rw := 0xFFFFFFFF },
  { row0 "ERR_LOST" 0 0 0x10C 32 with rc := true },
  { row0 "ERR_DROPPED" 0 0 0x110 32 with rc := true },
  { row0 "ERR_COPY" 0 0 0x118 32 with rw := 0x3F, w1c := 0x40 },
  { row0 "ERR_COPYBASE" 0 0 0x120 64 with rw := 0xFFFFFFFFF000 }]

/-- TBU page 0, Table 3.9. -/
def rowsTBU : List RegRow := [
  row0 "TBU_REFTIME" 0 0 0x100 64,
  { row0 "TBU_EVTSRC" 0 0 0x108 32 with rw := 0x1FF },
  { row0 "TBU_AXLE_CTL" 0 0 0x110 32 with rw := 0x1FFFF },
  { row0 "TBU_AXLE_THR" 0 0 0x114 32 with rw := 0xFFFFFFFF },
  { row0 "TBU_AXLE_VMIN" 0 0 0x118 64 with rw := 0xFFFFFFFFFFFFFFFF },
  row0 "TBU_AXLE_STATUS" 0 0 0x120 32]

/-- Time bases, Table 3.10. -/
def rowsTB : List RegRow := [
  { row0 "TB_CTL" 1 16 0x100 32 with rw := 0x17FFF, wo := 0x8000 },
  row0 "TB_STATE" 1 16 0x104 32,
  { row0 "TB_SCALE" 1 16 0x108 64 with rw := 0xFFFFFFFFFFFFFFFF },
  { row0 "TB_ORIGIN" 1 16 0x110 64 with rw := 0xFFFFFFFFFFFFFFFF },
  { row0 "TB_TIMEOUT" 1 16 0x118 32 with rw := 0xFFFFFFFF, reset := 0x989680 },
  { row0 "TB_HOLD" 1 16 0x11C 32 with rw := 0xFFFFFFFF },
  { row0 "TB_GROWTH" 1 16 0x120 64 with rw := 0xFFFFFFFFFFFFFFFF },
  { row0 "TB_INDEX" 1 16 0x128 64 with rw := 0xFFFFFFFF },
  { row0 "TB_ACCESS" 1 16 0x130 64 with rw := 0xFFFFFFFFFFFFFFFF },
  { row0 "TB_EVTSRC" 1 16 0x138 32 with rw := 0x1FF },
  row0 "TB_PHASE" 1 16 0x140 64,
  row0 "TB_RATE" 1 16 0x148 64,
  { row0 "TB_UNC" 1 16 0x150 64 with reset := 0xFFFFFFFFFFFFFFFF },
  row0 "TB_RELOCK" 1 16 0x158 64,
  { row0 "TB_SET" 1 16 0x160 64 with wo := 0xFFFFFFFFFFFFFFFF },
  { row0 "TB_STEP" 1 16 0x168 64 with wo := 0xFFFFFFFFFFFFFFFF },
  { row0 "TB_CAPTURE" 1 16 0x170 32 with wo := 0x1 },
  row0 "TB_CAP_PHASE" 1 16 0x178 64,
  row0 "TB_CAP_TIME" 1 16 0x180 64]

/-- Compare units, Tables 3.9 and 3.11. -/
def rowsCMP : List RegRow := [
  { row0 "CMP_CTL" 17 32 0x100 32 with dims := [(0x40, 16)], rw := 0x7FFF },
  { row0 "CMP_STATUS" 17 32 0x104 32 with dims := [(0x40, 16)], w1c := 0x73 },
  { row0 "CMP_INCR" 17 32 0x108 64 with dims := [(0x40, 16)], rw := 0xFFFFFFFFFFFFFFFF },
  { row0 "CMP_TARGET" 17 32 0x110 64 with dims := [(0x40, 16)], rw := 0xFFFFFFFFFFFFFFFF },
  { row0 "CMP_TARGET_MWL" 17 32 0x118 64 with dims := [(0x40, 16)], reset := 0xFFFFFFFF00000000, mw := true },
  { row0 "CMP_TARGET_MWH" 17 32 0x120 64 with dims := [(0x40, 16)], reset := 0xFFFFFFFF00000000, mw := true },
  { row0 "CMP_ARG" 17 32 0x128 32 with dims := [(0x40, 16)], rw := 0x3FFFF },
  { row0 "CMP_MISS" 17 32 0x12C 32 with dims := [(0x40, 16)], rc := true }]

/-- Encoder inputs, Table 3.9. -/
def rowsENC : List RegRow := [
  { row0 "ENC_CTL" 33 33 0x100 32 with dims := [(0x10, 8)], rw := 0xFFFF },
  { row0 "ENC_COUNT" 33 33 0x104 32 with dims := [(0x10, 8)] },
  { row0 "ENC_STATUS" 33 33 0x108 32 with dims := [(0x10, 8)] }]

/-- Gate pattern groups, Table 3.15. -/
def rowsGPE : List RegRow := [
  { row0 "GPE_CTL" 0 0 0x100 32 with rw := 0xFFF },
  { row0 "GPE_WINDOW" 0 0 0x104 32 with rw := 0x7FFF3FFF },
  { row0 "GPE_RING" 0 0 0x108 32 with rw := 0x1FFF },
  { row0 "GPE_START" 0 0 0x10C 32 with wo := 0x80003FFF },
  { row0 "GPE_DT0" 0 0 0x110 32 with rw := 0x3FFF3FFF, reset := 0x5 },
  { row0 "GPE_DT1" 0 0 0x114 32 with rw := 0x3FFF3FFF, reset := 0x5 },
  { row0 "GPE_FORCE" 0 0 0x118 32 with rw := 0x10, w1c := 0xF },
  { row0 "GPE_STATUS" 0 0 0x11C 32 with w1c := 0x180000 },
  row0 "GPE_TRIPSRC" 0 0 0x120 32,
  { row0 "GPE_DROPS" 0 0 0x124 32 with rc := true }]

/-- Sigma-delta clocks, Table 3.17. -/
def rowsSDM : List RegRow := [
  { row0 "SDM_CLK" 0 0 0x100 32 with dims := [(0x4, 8)], rw := 0x1FF }]

/-- Sigma-delta channels, Table 3.18. -/
def rowsSDMCH : List RegRow := [
  { row0 "SDMCH_CTL" 1 32 0x100 32 with rw := 0x7FFFF7F, reset := 0x104000 },
  row0 "SDMCH_DATA" 1 32 0x104 32,
  { row0 "SDMCH_TRIP" 1 32 0x108 32 with rw := 0xFFFFFFFF },
  { row0 "SDMCH_TRIPMASK" 1 32 0x10C 32 with rw := 0xFFF },
  { row0 "SDMCH_STATUS" 1 32 0x110 32 with w1c := 0x3 }]

/-- Supply-phase PLLs, Table 3.20. -/
def rowsSDP : List RegRow := [
  { row0 "SDP_CTL" 33 36 0x100 32 with rw := 0xFFF },
  { row0 "SDP_VSCALE" 33 36 0x104 32 with rw := 0xFFFFFFFF },
  { row0 "SDP_THR1" 33 36 0x108 32 with rw := 0xFFFFFFFF, reset := 0x7B70384 },
  { row0 "SDP_THR2" 33 36 0x10C 32 with rw := 0xFFFFFFFF, reset := 0xFA01F40 },
  { row0 "SDP_CHKTHR" 33 36 0x110 32 with rw := 0xFFFF, reset := 0x3E8 },
  { row0 "SDP_STATUS" 33 36 0x114 32 with w1c := 0x10 },
  row0 "SDP_FREQ" 33 36 0x118 32,
  row0 "SDP_VRMS" 33 36 0x11C 32,
  row0 "SDP_VDC" 33 36 0x120 32]

/-- Snapshot sets, Table 3.17. -/
def rowsSNAP : List RegRow := [
  { row0 "SNAP_MASK" 37 52 0x100 32 with rw := 0xFFFFFFFF },
  { row0 "SNAP_RING" 37 52 0x104 32 with rw := 0x1FFF },
  { row0 "SNAP_DROP" 37 52 0x108 32 with rc := true }]

/-- Event router page 0, Table 4.8. -/
def rowsEVR : List RegRow := [
  { row0 "EVR_CTL" 0 0 0x100 32 with rw := 0x1 },
  { row0 "EVR_QMAX" 0 0 0x104 32 with rc := true },
  { row0 "EVR_LOST" 0 0 0x108 32 with rc := true },
  { row0 "EVR_POOLOWN" 0 0 0x200 32 with dims := [(0x4, 16)], rw := 0x3F3F3F3F },
  { row0 "EVR_OWN" 0 0 0x400 32 with dims := [(0x4, 256)], rw := 0x3F3F3F3F }]

/-- Event router partition pages, Table 4.9. -/
def rowsEVRP : List RegRow := [
  { row0 "EVRP_SEL" 1 64 0x100 32 with rw := 0x3FF },
  { row0 "EVRP_CFG" 1 64 0x104 32 with rw := 0x3FFFFF },
  { row0 "EVRP_STAT" 1 64 0x108 32 with w1c := 0x4 },
  { row0 "EVRP_OVR" 1 64 0x10C 32 with rc := true },
  { row0 "EVRP_SETCFG" 1 64 0x110 64 with wo := 0x3FFFFFFFFFF },
  { row0 "EVRP_RAISE" 1 64 0x118 32 with wo := 0xC00003FF },
  { row0 "EVRP_POOLSEL" 1 64 0x11C 32 with rw := 0x3F },
  { row0 "EVRP_POOLMASK" 1 64 0x120 32 with dims := [(0x4, 13)], rw := 0xFFFFFFFF },
  row0 "EVRP_POOLSTAT" 1 64 0x160 32,
  { row0 "EVRP_POOLOVF" 1 64 0x164 32 with rc := true }]

/-- Core translation page, Table 10.7. -/
def rowsXL : List RegRow := [
  row0 "XL_PART" 0 0 0x100 32,
  { row0 "XL_PTB" 0 0 0x108 64 with rw := 0xFFFFFFFFF001 },
  row0 "XL_FINFO" 0 0 0x110 32,
  { row0 "XL_TLBI" 0 0 0x118 64 with wo := 0xFFFFFFFFFFFF },
  row0 "XL_TLBSTAT" 0 0 0x120 32,
  { row0 "XL_GTB" 0 0 0x140 64 with dims := [(0x8, 8)], rw := 0xFFFFFFFFF03F }]

/-- Core scheduler page, Table 4.11. -/
def rowsSCHED : List RegRow := [
  { row0 "SCHED_LVLEN" 1 1 0x100 32 with rw := 0xFE, reset := 0x1 },
  row0 "SCHED_STATE" 1 1 0x104 32,
  { row0 "SCHED_BCTL" 1 1 0x108 32 with rw := 0x7FE07 },
  { row0 "SCHED_OVR" 1 1 0x10C 32 with w1c := 0xFE },
  { row0 "SCHED_BUDGET" 1 1 0x120 32 with dims := [(0x4, 8)], rw := 0xFFFFFFFF },
  { row0 "SCHED_BLEFT" 1 1 0x140 32 with dims := [(0x4, 8)] },
  { row0 "SCHED_ENTRY" 1 1 0x160 64 with dims := [(0x8, 8)], rw := 0xFFFFFFFFFFFFFFFF }]

/-- Core fetch page, Table 5.8. -/
def rowsFE : List RegRow := [
  { row0 "FE_CTL" 2 2 0x100 32 with rw := 0x1F, wo := 0x700, reset := 0x11 },
  row0 "FE_STATUS" 2 2 0x104 32]

/-- Core exception page, Table 8.6. -/
def rowsEXC : List RegRow := [
  { row0 "EXC_VB_S" 3 3 0x100 64 with rw := 0xFFFFFFFFF000 },
  { row0 "EXC_VB_H" 3 3 0x108 64 with rw := 0xFFFFFFFFF000 },
  { row0 "EXC_VB_M" 3 3 0x110 64 with rw := 0xFFFFFFFFF000 },
  { row0 "EXC_DFV" 3 3 0x118 64 with rw := 0xFFFFFFFFFFFC, reset := 0xFF0000000100 },
  { row0 "EXC_RVEC" 3 3 0x120 64 with rw := 0xFFFFFFFFFFFC, reset := 0xFF0000000000 },
  { row0 "EXC_CAUSECFG" 3 3 0x140 32 with dims := [(0x4, 16)], rw := 0x1F1F1F1F, reset := 0x1F1F1F1F },
  row0 "EXC_DF_INFO" 3 3 0x180 32,
  { row0 "EXC_DF_PC" 3 3 0x188 64 with rw := 0xFFFFFFFFFFFC },
  row0 "EXC_DF_ADDR" 3 3 0x190 64,
  { row0 "EXC_DF_STATUS" 3 3 0x198 32 with rw := 0x1FF },
  row0 "EXC_DF_B7" 3 3 0x1A0 64,
  row0 "EXC_TF_INFO" 3 3 0x1A8 32,
  row0 "EXC_TF_PC" 3 3 0x1B0 64,
  { row0 "EXC_CTL" 3 3 0x1B8 32 with wo := 0x1 },
  row0 "EXC_STATUS" 3 3 0x1BC 32]

/-- Core microcode page, Table 9.4. -/
def rowsMC : List RegRow := [
  row0 "MC_STATE" 4 4 0x100 32,
  row0 "MC_PATCH_ID" 4 4 0x104 32,
  row0 "MC_CUST_ID" 4 4 0x108 32,
  { row0 "MC_PERR" 4 4 0x10C 32 with rc := true },
  { row0 "MC_PADDR" 4 4 0x110 32 with w1c := 0x80000000 },
  { row0 "MC_TOCNT" 4 4 0x114 32 with rc := true },
  { row0 "MC_CFAULT" 4 4 0x118 32 with w1c := 0x80000000 },
  { row0 "MC_DT" 4 4 0x180 32 with dims := [(0x4, 32)] }]

/-- Core cache page, Table 10.8. -/
def rowsCACHE : List RegRow := [
  { row0 "CACHE_OP" 5 5 0x100 64 with wo := 0x7F3FFFFFFFFFFFFF },
  row0 "CACHE_STATUS" 5 5 0x108 32,
  { row0 "CACHE_LOCKLOST" 5 5 0x10C 32 with rc := true }]

/-- Core debug page, Table 20.10. -/
def rowsCDBG : List RegRow := [
  { row0 "CDBG_CTL" 6 6 0x100 32 with rw := 0x1 },
  { row0 "CDBG_STATE" 6 6 0x104 32 with w1c := 0x64 },
  row0 "CDBG_MBXIN" 6 6 0x108 64,
  { row0 "CDBG_MBXOUT" 6 6 0x110 64 with rw := 0xFFFFFFFFFFFFFFFF },
  { row0 "CDBG_RSEL" 6 6 0x118 32 with rw := 0x1FFF },
  { row0 "CDBG_RDATA" 6 6 0x120 64 with rw := 0xFFFFFFFFFFFFFFFF },
  { row0 "CDBG_IBP" 6 6 0x140 64 with dims := [(0x8, 4)], rw := 0xFFFFFFFFFFFD },
  { row0 "CDBG_WPA" 6 6 0x160 64 with dims := [(0x10, 2)], rw := 0x8300FFFFFFFFFFFF },
  { row0 "CDBG_WPB" 6 6 0x168 64 with dims := [(0x10, 2)], rw := 0xFFFFFFFFFFFF }]

/-- Loop page, Table 6.10. -/
def rowsLOOPS : List RegRow := [
  { row0 "LOOPS_LSTART" 0 0 0x100 64 with dims := [(0x40, 8), (0x20, 2)], rw := 0xFFFFFFFFFFFFFFFC },
  { row0 "LOOPS_LEND" 0 0 0x108 64 with dims := [(0x40, 8), (0x20, 2)], rw := 0xFFFFFFFFFFFFFFFC },
  { row0 "LOOPS_LCOUNT" 0 0 0x110 32 with dims := [(0x40, 8), (0x20, 2)], rw := 0xFFFFFFFF },
  row0 "LOOPS_ACTIVE" 0 0 0x300 32,
  { row0 "LOOPS_LEFAULT" 0 0 0x304 32 with rc := true }]

/-- Prism page, Table 7.23. -/
def rowsPRISM : List RegRow := [
  row0 "PRISM_STATUS" 0 0 0x100 32,
  { row0 "PRISM_ECC" 0 0 0x104 32 with rc := true },
  { row0 "PRISM_WAITMAX" 0 0 0x108 32 with rc := true }]

/-- Counter page, Table 20.12. -/
def rowsCNT : List RegRow := [
  { row0 "CNT_CTL" 0 0 0x100 32 with rw := 0x3 },
  { row0 "CNT_STATUS" 0 0 0x104 32 with w1c := 0xFF },
  { row0 "CNT_CNT" 0 0 0x110 64 with dims := [(0x8, 8)], rw := 0xFFFFFFFFFFFF },
  { row0 "CNT_CFG" 0 0 0x150 32 with dims := [(0x4, 8)], rw := 0x9FFFFFFF },
  { row0 "CNT_ALO" 0 0 0x170 64 with dims := [(0x10, 2)], rw := 0xFFFFFFFFFFFFFFFF },
  { row0 "CNT_AHI" 0 0 0x178 64 with dims := [(0x10, 2)], rw := 0xFFFFFFFFFFFFFFFF },
  { row0 "CNT_SNAP" 0 0 0x190 64 with dims := [(0x8, 8)] }]

/-- Die identity page, Table 12.6. -/
def rowsDIE : List RegRow := [
  row0 "DIE_SITE" 0 0 0x100 32,
  row0 "DIE_REV" 0 0 0x104 32,
  row0 "DIE_SERIAL" 0 0 0x108 64,
  row0 "DIE_COREMASK" 0 0 0x110 32,
  row0 "DIE_PROTO" 0 0 0x114 32,
  row0 "DIE_FUSE_STATUS" 0 0 0x118 32]

/-- Partition descriptors, Table 10.1. -/
def rowsPART : List RegRow := [
  { row0 "PART_CMD" 1 64 0x100 32 with wo := 0x3 },
  row0 "PART_STATUS" 1 64 0x104 32,
  { row0 "PART_MODES" 1 64 0x108 32 with rw := 0x7 },
  { row0 "PART_L3WAYS" 1 64 0x10C 32 with rw := 0xFFFF },
  { row0 "PART_CORES" 1 64 0x120 32 with dims := [(0x4, 13)], rw := 0xFFFFFFFF },
  { row0 "PART_RBASE" 1 64 0x180 64 with dims := [(0x10, 16)], rw := 0xFFFFFFFFF00F },
  { row0 "PART_RLIMIT" 1 64 0x188 64 with dims := [(0x10, 16)], rw := 0xFFFFFFFFF000 }]

/-- Pad page, Table 21.6. -/
def rowsPAD : List RegRow := [
  { row0 "PAD_SLEW0" 65 65 0x100 32 with rw := 0xFFFFFF },
  { row0 "PAD_SLEW1" 65 65 0x104 32 with rw := 0xFFFFFF }]

/-- Home slices, Table 11.8. -/
def rowsHOM : List RegRow := [
  { row0 "HOM_CTL" 0 0 0x100 32 with rw := 0xFF01FF, reset := 0x200040 },
  row0 "HOM_STATUS" 0 0 0x104 32,
  row0 "HOM_TRK" 0 0 0x108 32,
  { row0 "HOM_TRKMAX" 0 0 0x10C 32 with rc := true },
  row0 "HOM_SF" 0 0 0x110 32,
  { row0 "HOM_BACKINV" 0 0 0x114 32 with rc := true },
  { row0 "HOM_RETRY" 0 0 0x118 32 with rc := true },
  { row0 "HOM_NACK" 0 0 0x11C 32 with rc := true },
  { row0 "HOM_STARVE" 0 0 0x120 32 with rc := true },
  { row0 "HOM_POISONED" 0 0 0x124 32 with rc := true },
  row0 "HOM_POISON_ADDR" 0 0 0x128 64]

/-- Fabric pages, Table 12.8. -/
def rowsFAB : List RegRow := [
  { row0 "FAB_CTL" 0 0 0x100 32 with rw := 0x1 },
  row0 "FAB_STATUS" 0 0 0x104 32,
  { row0 "FAB_RCFG" 0 0 0x108 32 with rw := 0xFFF, wo := 0x80000000, reset := 0xFC0 },
  { row0 "FAB_DRAINMAX" 0 0 0x10C 32 with rc := true },
  { row0 "FAB_RT_SEL" 0 0 0x110 32 with rw := 0x1FF3F },
  { row0 "FAB_RT_W0" 0 0 0x118 64 with rw := 0xFFFFFFFFFFFFFFFF },
  { row0 "FAB_RT_W1" 0 0 0x120 64 with rw := 0xFFFFFFFFFFFFFFFF },
  { row0 "FAB_ROUTE_ERR" 0 0 0x128 32 with rc := true },
  { row0 "FAB_ST_SEL" 0 0 0x130 32 with rw := 0x73F },
  { row0 "FAB_ST_CFG" 0 0 0x134 32 with rw := 0x1FFF },
  row0 "FAB_ST_BYTES" 0 0 0x138 64,
  row0 "FAB_ST_TXN" 0 0 0x140 32,
  { row0 "FAB_ST_BIN" 0 0 0x180 32 with dims := [(0x4, 16)] },
  { row0 "FAB_FSRC" 0 0 0x200 32 with dims := [(0x4, 64)], rw := 0x83FF },
  { row0 "FAB_PFAULT" 0 0 0x300 32 with dims := [(0x4, 64)], w1c := 0x3FFF }]

/-- Die links, Table 12.9. -/
def rowsD2D : List RegRow := [
  { row0 "D2D_CTL" 0 0 0x100 32 with rw := 0xFFF000E, wo := 0x1, reset := 0x8000000 },
  { row0 "D2D_STATUS" 0 0 0x104 32 with w1c := 0x100000 },
  { row0 "D2D_CORR" 0 0 0x108 32 with rc := true },
  { row0 "D2D_REPLAY" 0 0 0x10C 32 with rc := true },
  { row0 "D2D_RETRAINS" 0 0 0x110 32 with rc := true }]

/-- Safety manager, Table 13.4. -/
def rowsSMG : List RegRow := [
  { row0 "SMG_STATE" 0 0 0x100 32 with reset := 0xFF00 },
  { row0 "SMG_CMD" 0 0 0x108 64 with reset := 0xFFFFFFFF00000000, mw := true },
  { row0 "SMG_REACT" 0 0 0x110 32 with rw := 0xFFFF, reset := 0x56A5 },
  { row0 "SMG_REPORT" 0 0 0x114 32 with w1c := 0x1FF },
  row0 "SMG_LAST" 0 0 0x118 64,
  { row0 "SMG_WD_CTL" 0 0 0x120 64 with reset := 0xFFFFFFFF00000000, mw := true },
  { row0 "SMG_WD_WIN" 0 0 0x128 32 with rw := 0xFFFFFFFF, reset := 0x28 },
  { row0 "SMG_WD_SITES" 0 0 0x12C 32 with rw := 0xFF },
  row0 "SMG_WD_SEQ" 0 0 0x130 32,
  { row0 "SMG_WD_SVC0" 0 0 0x138 64 with reset := 0xFFFFFFFF00000000, mw := true },
  { row0 "SMG_WD_SVC1" 0 0 0x140 64 with reset := 0xFFFFFFFF00000000, mw := true },
  row0 "SMG_WD_LEFT" 0 0 0x148 32,
  row0 "SMG_WD_STATUS" 0 0 0x14C 32]

/-- Mirror comparator page 0, Table 13.5. -/
def rowsMCP : List RegRow := [
  row0 "MCP_STATUS" 0 0 0x100 32,
  { row0 "MCP_PAIR" 0 0 0x400 32 with dims := [(0x4, 192)], rw := 0x80FFFFFF }]

/-- Comparator channels, Table 13.6. -/
def rowsMCPCH : List RegRow := [
  { row0 "MCPCH_CTL" 1 4 0x100 32 with dims := [(0x30, 64)], rw := 0xFFFF, wo := 0x10000 },
  { row0 "MCPCH_RINGA" 1 4 0x104 32 with dims := [(0x30, 64)], rw := 0x1FFF },
  { row0 "MCPCH_RINGB" 1 4 0x108 32 with dims := [(0x30, 64)], rw := 0x1FFF },
  { row0 "MCPCH_RINGOUT" 1 4 0x10C 32 with dims := [(0x30, 64)], rw := 0x1FFF },
  { row0 "MCPCH_TRIG" 1 4 0x110 32 with dims := [(0x30, 64)], rw := 0x3FF },
  { row0 "MCPCH_STATUS" 1 4 0x114 32 with dims := [(0x30, 64)], w1c := 0xC },
  { row0 "MCPCH_DL" 1 4 0x118 64 with dims := [(0x30, 64)], rw := 0xFFFFFFFFFFFFFFFF },
  { row0 "MCPCH_SEQ" 1 4 0x120 32 with dims := [(0x30, 64)] },
  { row0 "MCPCH_RELMAX" 1 4 0x124 32 with dims := [(0x30, 64)], rc := true }]

/-- DRAM channels page 0, Table 14.4. -/
def rowsDMC : List RegRow := [
  { row0 "DMC_CMD" 0 0 0x100 32 with wo := 0x7 },
  { row0 "DMC_STATUS" 0 0 0x104 32 with w1c := 0x50 },
  { row0 "DMC_CFG" 0 0 0x108 32 with rw := 0x7F },
  { row0 "DMC_MAP" 0 0 0x10C 32 with rw := 0x1F01 },
  { row0 "DMC_TIM0" 0 0 0x110 32 with rw := 0xFFFFFFFF },
  { row0 "DMC_TIM1" 0 0 0x114 32 with rw := 0xFFFFFFFF },
  { row0 "DMC_TIM2" 0 0 0x118 32 with rw := 0xFFFFFFFF },
  { row0 "DMC_TIM3" 0 0 0x11C 32 with rw := 0xFFFF },
  row0 "DMC_QSTAT" 0 0 0x120 32,
  { row0 "DMC_WQCTL" 0 0 0x124 32 with rw := 0x7F7F, reset := 0x2060 },
  { row0 "DMC_REFCTL" 0 0 0x128 32 with rw := 0xFFFF0007, reset := 0x3E80004 },
  { row0 "DMC_PANIC" 0 0 0x12C 32 with rw := 0x3FFF },
  { row0 "DMC_PANICCNT" 0 0 0x130 32 with rc := true },
  { row0 "DMC_SLOTCTL" 0 0 0x140 32 with rw := 0xFF01 },
  row0 "DMC_SLOTSTAT" 0 0 0x144 32,
  { row0 "DMC_SLOT" 0 0 0x148 32 with dims := [(0x4, 8)], rw := 0xFFFFFFFF },
  { row0 "DMC_CECNT" 0 0 0x180 32 with rc := true },
  { row0 "DMC_UECNT" 0 0 0x184 32 with rc := true },
  { row0 "DMC_PRCNT" 0 0 0x188 32 with rc := true },
  { row0 "DMC_CE_LOGINT" 0 0 0x18C 32 with rw := 0xFFFFFFFF, reset := 0x3E8 },
  { row0 "DMC_ERASE" 0 0 0x190 64 with dims := [(0x8, 4)], rw := 0xFFFFFFFFFF },
  { row0 "DMC_PIN_SEL" 0 0 0x1B0 32 with rw := 0x7F },
  { row0 "DMC_PIN_CNT" 0 0 0x1B4 32 with rc := true },
  { row0 "DMC_PIN_THR" 0 0 0x1B8 32 with rw := 0xFFFFFFFF, reset := 0x100 },
  { row0 "DMC_FILL_BASE" 0 0 0x1C0 64 with rw := 0xFFFFFFFFFFC0 },
  { row0 "DMC_FILL_LIMIT" 0 0 0x1C8 64 with rw := 0xFFFFFFFFFFC0 },
  { row0 "DMC_REG" 0 0 0x200 32 with dims := [(0x4, 64)], rw := 0x1FF0FFF }]

/-- DRAM channels page 1, Table 14.5. -/
def rowsDPHY : List RegRow := [
  { row0 "DPHY_DQDLY" 1 1 0x100 32 with dims := [(0x4, 80)], rw := 0x7F7F },
  { row0 "DPHY_DQSDLY" 1 1 0x240 32 with dims := [(0x4, 20)], rw := 0x7F7F },
  { row0 "DPHY_CADLY" 1 1 0x290 32 with dims := [(0x4, 2)], rw := 0x7F },
  { row0 "DPHY_TCOMP" 1 1 0x2A0 32 with dims := [(0x4, 8)], rw := 0x80FFFFFF },
  row0 "DPHY_TEMP" 1 1 0x2C0 32,
  { row0 "DPHY_SWEEP_CTL" 1 1 0x2C4 32 with rw := 0xFFFF7F06, wo := 0x1 },
  row0 "DPHY_SWEEP_STATUS" 1 1 0x2C8 32,
  { row0 "DPHY_SWEEP_RES" 1 1 0x2D0 32 with dims := [(0x4, 4)] }]

/-- Queue engine page 0, Table 15.5. -/
def rowsQE : List RegRow := [
  { row0 "QE_OWN" 0 0 0x100 32 with wo := 0x803F1FFF },
  row0 "QE_DMAINFL" 0 0 0x104 32,
  { row0 "QE_ERRRING" 0 0 0x108 32 with w1c := 0x80000000 },
  { row0 "QE_QRINGS" 0 0 0x400 32 with dims := [(0x10, 64)], rw := 0x3FFF },
  { row0 "QE_QENT" 0 0 0x404 32 with dims := [(0x10, 64)], rw := 0x3FFFFFFF },
  { row0 "QE_QBYTES" 0 0 0x408 64 with dims := [(0x10, 64)], rw := 0x1FFFFFFFFF },
  { row0 "QE_DMAOWN" 0 0 0x800 32 with dims := [(0x4, 64)], rw := 0x3F }]

/-- Queue engine partition pages, Table 15.6. -/
def rowsQEP : List RegRow := [
  { row0 "QEP_ENQ" 1 64 0x100 64 with wo := 0x7FFFFFFFFFF1FFF },
  { row0 "QEP_DEQ" 1 64 0x108 64 with wo := 0x7FFFFFFFFFF1FFF },
  row0 "QEP_RESULT" 1 64 0x110 32,
  { row0 "QEP_RSEL" 1 64 0x114 32 with rw := 0x1FFF },
  { row0 "QEP_RCFG" 1 64 0x118 32 with rw := 0x3FFF },
  { row0 "QEP_RBASE" 1 64 0x120 64 with rw := 0xFFFFFFFFF000 },
  { row0 "QEP_RDB" 1 64 0x128 32 with rw := 0xFFFF03FF },
  { row0 "QEP_RFLIGHT" 1 64 0x12C 32 with rw := 0xFF, reset := 0x10 },
  row0 "QEP_RSTAT" 1 64 0x130 32,
  row0 "QEP_RPTR" 1 64 0x134 32,
  row0 "QEP_USE" 1 64 0x138 64,
  row0 "QEP_USEBYTES" 1 64 0x140 64,
  { row0 "QEP_DSEL" 1 64 0x148 32 with rw := 0x3F },
  { row0 "QEP_DCTL" 1 64 0x14C 32 with rw := 0x7FFFFFF },
  { row0 "QEP_DFLIGHT" 1 64 0x150 32 with rw := 0x1FFF, reset := 0x1 },
  row0 "QEP_DSTAT" 1 64 0x154 32,
  { row0 "QEP_DABORT" 1 64 0x158 32 with wo := 0xFFFF003F }]

/-- Host port page 0, Table 16.6. -/
def rowsHPA : List RegRow := [
  { row0 "HPA_CTL" 0 0 0x100 32 with rw := 0xFFFF0003, reset := 0x320000 },
  row0 "HPA_STATUS" 0 0 0x104 32,
  { row0 "HPA_FMAP" 0 0 0x140 32 with dims := [(0x4, 33)], rw := 0x8000003F },
  { row0 "HPA_IWIN" 0 0 0x200 64 with dims := [(0x8, 33)], rw := 0xFFFFC000003F },
  { row0 "HPA_OWIN" 0 0 0x400 64 with dims := [(0x8, 64)], rw := 0xFFFFFFFE0000007F },
  { row0 "HPA_VMAP" 0 0 0x800 32 with dims := [(0x4, 256)], rw := 0x803FFFFF }]

/-- Semaphore page, Table 16.7. -/
def rowsHPAS : List RegRow := [
  { row0 "HPAS_HSEM" 1 1 0x100 32 with dims := [(0x4, 256)], rw := 0x3 },
  { row0 "HPAS_OWN" 1 1 0x500 32 with dims := [(0x4, 64)], rw := 0x3F3F3F3F },
  row0 "HPAS_TIE" 1 1 0x600 32]

/-- Host port page 0, Table 16.6. -/
def rowsHPB : List RegRow := [
  { row0 "HPB_CTL" 0 0 0x100 32 with rw := 0xFFFF0003, reset := 0x320000 },
  row0 "HPB_STATUS" 0 0 0x104 32,
  { row0 "HPB_FMAP" 0 0 0x140 32 with dims := [(0x4, 33)], rw := 0x8000003F },
  { row0 "HPB_IWIN" 0 0 0x200 64 with dims := [(0x8, 33)], rw := 0xFFFFC000003F },
  { row0 "HPB_OWIN" 0 0 0x400 64 with dims := [(0x8, 64)], rw := 0xFFFFFFFE0000007F },
  { row0 "HPB_VMAP" 0 0 0x800 32 with dims := [(0x4, 256)], rw := 0x803FFFFF }]

/-- Semaphore page, Table 16.7. -/
def rowsHPBS : List RegRow := [
  { row0 "HPBS_HSEM" 1 1 0x100 32 with dims := [(0x4, 256)], rw := 0x3 },
  { row0 "HPBS_OWN" 1 1 0x500 32 with dims := [(0x4, 64)], rw := 0x3F3F3F3F },
  row0 "HPBS_TIE" 1 1 0x600 32]

/-- Ethernet page 0, Table 16.8. -/
def rowsETH : List RegRow := [
  { row0 "ETH_CTL" 0 0 0x100 32 with rw := 0x1F },
  row0 "ETH_STATUS" 0 0 0x104 32,
  { row0 "ETH_TXRING" 0 0 0x110 32 with dims := [(0x4, 8)], rw := 0x80001FFF },
  { row0 "ETH_TXCPL" 0 0 0x130 32 with rw := 0x1FFF },
  { row0 "ETH_RXFREE" 0 0 0x134 32 with rw := 0x1FFF },
  { row0 "ETH_RXRING" 0 0 0x138 32 with dims := [(0x4, 4)], rw := 0x1FFF },
  { row0 "ETH_RXMAP" 0 0 0x148 32 with rw := 0xFFFF },
  { row0 "ETH_RXDROP" 0 0 0x14C 32 with rc := true },
  row0 "ETH_PTP_T" 0 0 0x150 64,
  { row0 "ETH_PTP_RATE" 0 0 0x158 32 with rw := 0xFFFFFFFF },
  { row0 "ETH_PTP_STEP" 0 0 0x160 64 with wo := 0xFFFFFFFFFFFFFFFF },
  { row0 "ETH_PTP_CTL" 0 0 0x168 32 with rw := 0x1F },
  { row0 "ETH_GCL_BASE" 0 0 0x170 64 with rw := 0xFFFFFFFFFFFFFFFF },
  { row0 "ETH_GCL_CYCLE" 0 0 0x178 32 with rw := 0xFFFFFFFF },
  { row0 "ETH_GCL_CTL" 0 0 0x17C 32 with rw := 0x507FF, wo := 0x20000 },
  { row0 "ETH_CBS" 0 0 0x180 32 with dims := [(0x4, 8)], rw := 0x80FFFFFF }]

/-- FRER page, Table 16.11. -/
def rowsFRER : List RegRow := [
  { row0 "FRER_GEN" 3 3 0x100 32 with dims := [(0x4, 64)], rw := 0x8000FFFF },
  { row0 "FRER_MATCH" 3 3 0x200 64 with dims := [(0x20, 64)], rw := 0x8FFFFFFFFFFFFFFF },
  { row0 "FRER_CFG" 3 3 0x208 32 with dims := [(0x20, 64)], rw := 0xFFFF3F, reset := 0x102 },
  { row0 "FRER_PASSED" 3 3 0x20C 32 with dims := [(0x20, 64)], rc := true },
  { row0 "FRER_DISCARDED" 3 3 0x210 32 with dims := [(0x20, 64)], rc := true },
  { row0 "FRER_ROGUE" 3 3 0x214 32 with dims := [(0x20, 64)], rc := true },
  { row0 "FRER_RESETS" 3 3 0x218 32 with dims := [(0x20, 64)], rc := true }]

/-- CAN FD, Table 16.9. -/
def rowsCANF : List RegRow := [
  { row0 "CANF_CTL" 0 0 0x100 32 with rw := 0x3F },
  { row0 "CANF_NBT" 0 0 0x104 32 with rw := 0xFFFFFFFF },
  { row0 "CANF_DBT" 0 0 0x108 32 with rw := 0xFFFFFFFF },
  { row0 "CANF_TDC" 0 0 0x10C 32 with rw := 0x1FF },
  { row0 "CANF_RING" 0 0 0x110 32 with rw := 0x1FFF1FFF },
  row0 "CANF_ERR" 0 0 0x114 32,
  { row0 "CANF_FILT" 0 0 0x200 64 with dims := [(0x8, 64)], rw := 0x1FFFFFFF7FFFFFFF }]

/-- MVB, Table 16.9. -/
def rowsMVB : List RegRow := [
  { row0 "MVB_CTL" 0 0 0x100 32 with rw := 0x1FFFFFF7 },
  row0 "MVB_STATUS" 0 0 0x104 32]

/-- Serial, Table 16.9. -/
def rowsSER : List RegRow := [
  { row0 "SER_CTL" 0 0 0x100 32 with rw := 0xFFFFFFFF },
  { row0 "SER_RATE" 0 0 0x104 32 with rw := 0xFFFFFFFF },
  { row0 "SER_RING" 0 0 0x108 32 with rw := 0x1FFF1FFF }]

/-- GPIO pages, Table 16.10. -/
def rowsGPIO : List RegRow := [
  { row0 "GPIO_PIN" 0 3 0x100 32 with dims := [(0x4, 16)], rw := 0x3FFF7 },
  { row0 "GPIO_STAMP" 0 3 0x140 64 with dims := [(0x8, 16)] }]

/-- Periscope page 0, Table 17.5. -/
def rowsPSL : List RegRow := [
  { row0 "PSL_CTL" 0 0 0x100 32 with rw := 0x3FF000F, wo := 0x10, reset := 0x2580000 },
  row0 "PSL_STATUS" 0 0 0x104 32,
  { row0 "PSL_UNREACH" 0 0 0x108 32 with rc := true },
  { row0 "PSL_DUP" 0 0 0x10C 32 with rc := true },
  { row0 "PSL_MIRERR" 0 0 0x110 32 with rc := true },
  { row0 "PSL_TBTX" 0 0 0x180 32 with dims := [(0x4, 16)], rw := 0x8000000F },
  { row0 "PSL_TBRX" 0 0 0x1C0 32 with dims := [(0x4, 16)] },
  { row0 "PSL_TXRING" 0 0 0x200 32 with dims := [(0x4, 8)], rw := 0x80003FFF },
  { row0 "PSL_RXCH" 0 0 0x300 32 with dims := [(0x4, 64)], rw := 0x80003FFF }]

/-- Periscope ports, Table 17.6. -/
def rowsPSLP : List RegRow := [
  { row0 "PSLP_CTL" 1 2 0x100 32 with rw := 0x1, wo := 0x2 },
  { row0 "PSLP_STATUS" 1 2 0x104 32 with w1c := 0x20 },
  { row0 "PSLP_ASYM" 1 2 0x108 32 with rw := 0xFFFF },
  row0 "PSLP_DELAY" 1 2 0x10C 32,
  row0 "PSLP_NBR_SERIAL" 1 2 0x110 64,
  { row0 "PSLP_CORR" 1 2 0x118 32 with rc := true },
  { row0 "PSLP_REPLAY" 1 2 0x11C 32 with rc := true },
  { row0 "PSLP_UNCORR" 1 2 0x120 32 with rc := true }]

/-- Power manager, Table 18.9. -/
def rowsPWR : List RegRow := [
  { row0 "PWR_ENVELOPE" 0 0 0x100 32 with rw := 0x3, reset := 0x3 },
  { row0 "PWR_EMISSION" 0 0 0x104 32 with rw := 0x3, reset := 0x2 },
  { row0 "PWR_CTL" 0 0 0x108 32 with rw := 0x13C, wo := 0x3 },
  { row0 "PWR_STATUS" 0 0 0x10C 32 with w1c := 0x1 },
  { row0 "PWR_DOMCMD" 0 0 0x110 32 with wo := 0x33F },
  row0 "PWR_DOMSTAT" 0 0 0x114 32,
  row0 "PWR_DOMON" 0 0 0x118 64,
  { row0 "PWR_PFSHED" 0 0 0x120 64 with rw := 0xFFFFFFFFF },
  row0 "PWR_POWER" 0 0 0x128 32,
  { row0 "PWR_RSTCAUSE" 0 0 0x12C 32 with reset := 0x1 },
  { row0 "PWR_CLK" 0 0 0x140 32 with dims := [(0x4, 36)], rw := 0x700, reset := 0x400 }]

/-- Hold-up monitor, Table 18.10. -/
def rowsHUP : List RegRow := [
  { row0 "HUP_CTL" 0 0 0x100 32 with rw := 0x1 },
  { row0 "HUP_CAP" 0 0 0x104 32 with rw := 0xFFFFFFFF },
  { row0 "HUP_DIV" 0 0 0x108 32 with rw := 0xFFFFFFFF, reset := 0x10000 },
  { row0 "HUP_VMIN" 0 0 0x10C 32 with rw := 0xFFFFFFFF },
  { row0 "HUP_EFF" 0 0 0x110 32 with rw := 0xFFFF, reset := 0xE666 },
  { row0 "HUP_EFIX" 0 0 0x114 32 with rw := 0xFFFFFFFF },
  { row0 "HUP_EBYTE" 0 0 0x118 32 with rw := 0xFFFFFFFF },
  { row0 "HUP_MARGIN" 0 0 0x11C 32 with rw := 0xFFFF, reset := 0x200 },
  { row0 "HUP_VWARN" 0 0 0x120 32 with rw := 0xFFFFFFFF },
  { row0 "HUP_VHYST" 0 0 0x124 32 with rw := 0xFFFFFFFF, reset := 0x3E8 },
  row0 "HUP_V" 0 0 0x128 32,
  row0 "HUP_EAVAIL" 0 0 0x12C 32,
  row0 "HUP_STATUS" 0 0 0x130 32]

/-- Journal engine, Table 18.11. -/
def rowsJRN : List RegRow := [
  { row0 "JRN_CTL" 0 0 0x100 32 with rw := 0x3 },
  { row0 "JRN_REQRING" 0 0 0x104 32 with rw := 0x1FFF },
  { row0 "JRN_CPLRING" 0 0 0x108 32 with rw := 0x1FFF },
  { row0 "JRN_STATUS" 0 0 0x10C 32 with w1c := 0x4 },
  row0 "JRN_SEQ" 0 0 0x110 64,
  row0 "JRN_WPTR" 0 0 0x118 32,
  row0 "JRN_TAIL" 0 0 0x11C 32,
  { row0 "JRN_REFUSED" 0 0 0x120 32 with rc := true },
  { row0 "JRN_NVME_SQ" 0 0 0x128 64 with rw := 0xFFFFFFFFF000 },
  { row0 "JRN_NVME_CQ" 0 0 0x130 64 with rw := 0xFFFFFFFFF000 },
  { row0 "JRN_NVME_Q" 0 0 0x138 32 with rw := 0x1FFFF },
  { row0 "JRN_NVME_NSID" 0 0 0x13C 32 with rw := 0xFFFFFFFF },
  { row0 "JRN_NVME_DB" 0 0 0x140 64 with rw := 0xFFFFFFFFFFFFFFFF },
  { row0 "JRN_NVME_LBA" 0 0 0x148 64 with rw := 0xFFFFFFFFFFFFFFFF },
  { row0 "JRN_NVME_NLB" 0 0 0x150 64 with rw := 0xFFFFFFFFFFFFFFFF }]

/-- Boot and security engine page 0, Table 19.7. -/
def rowsBSE : List RegRow := [
  { row0 "BSE_CMD" 0 0 0x100 32 with wo := 0x1F },
  row0 "BSE_STATUS" 0 0 0x104 32,
  { row0 "BSE_SRC" 0 0 0x108 64 with rw := 0xFFFFFFFFFFFFFFFF },
  { row0 "BSE_ARG" 0 0 0x110 32 with rw := 0xFFFFFFFF },
  { row0 "BSE_HASH" 0 0 0x118 64 with rw := 0xFFFFFFFFFFFFFFFF },
  { row0 "BSE_CORES" 0 0 0x120 32 with dims := [(0x4, 13)], rw := 0xFFFFFFFF },
  { row0 "BSE_SKIP" 0 0 0x160 32 with dims := [(0x4, 13)] },
  { row0 "BSE_RCV_CTL" 0 0 0x1A0 32 with rw := 0xFFFF0000, wo := 0xF },
  row0 "BSE_RCV_STATUS" 0 0 0x1A4 32]

/-- Boot and security engine partition pages, Table 19.10. -/
def rowsBSEP : List RegRow := [
  { row0 "BSEP_CMD" 1 64 0x100 32 with wo := 0x3 },
  row0 "BSEP_STATUS" 1 64 0x104 32,
  { row0 "BSEP_SRC" 1 64 0x108 64 with rw := 0xFFFFFFFFFFFFFFFF },
  { row0 "BSEP_DST" 1 64 0x110 64 with rw := 0xFFFFFFFFFFC0 },
  row0 "BSEP_MEAS" 1 64 0x118 32,
  { row0 "BSEP_PSRC" 1 64 0x120 32 with rw := 0x83FF },
  { row0 "BSEP_NONCE" 1 64 0x140 64 with dims := [(0x8, 8)], rw := 0xFFFFFFFFFFFFFFFF }]

/-- Debug page 0, Table 20.8. -/
def rowsDBG : List RegRow := [
  { row0 "DBG_CTL" 0 0 0x100 32 with rw := 0x1 },
  { row0 "DBG_STATUS" 0 0 0x104 32 with w1c := 0x5 },
  { row0 "DBG_MONVEC" 0 0 0x108 64 with rw := 0xFFFFFFFFFFFC, reset := 0xFF0000000200 },
  { row0 "DBG_GFREEZE" 0 0 0x110 32 with rw := 0x1 },
  { row0 "DBG_SNAPTIME" 0 0 0x118 64 with rw := 0xFFFFFFFFFFFFFFFF },
  row0 "DBG_SNAPSEQ" 0 0 0x120 32,
  { row0 "DBG_REVOKE" 0 0 0x124 32 with wo := 0x8000003F }]

/-- Debug partition pages, Table 20.9. -/
def rowsDBGP : List RegRow := [
  { row0 "DBGP_CTL" 1 64 0x100 32 with rw := 0xF, reset := 0x6 },
  row0 "DBGP_STATUS" 1 64 0x104 32,
  { row0 "DBGP_KEYS" 1 64 0x108 32 with rw := 0xF },
  row0 "DBGP_GRANT" 1 64 0x110 64,
  { row0 "DBGP_WDPERIOD" 1 64 0x118 32 with rw := 0xFFFFFFFF },
  { row0 "DBGP_WDSVC" 1 64 0x11C 32 with wo := 0xFFFFFFFF },
  row0 "DBGP_WDLEFT" 1 64 0x120 32,
  { row0 "DBGP_WDSRC" 1 64 0x124 32 with rw := 0x83FF },
  { row0 "DBGP_WDSTAT" 1 64 0x128 32 with w1c := 0x1 },
  { row0 "DBGP_VADDR" 1 64 0x130 64 with wo := 0xFFFFFFFFFFFFFFFF },
  row0 "DBGP_VDATA" 1 64 0x138 64,
  { row0 "DBGP_PSRC" 1 64 0x140 32 with rw := 0x83FF }]

/-- Lens page 0, Table 20.11. -/
def rowsLNS : List RegRow := [
  { row0 "LNS_PORTCTL" 0 0 0x100 32 with rw := 0x1 },
  { row0 "LNS_PORTMASK" 0 0 0x108 64 with rw := 0xFFFFFFFFFFFFFFFF },
  { row0 "LNS_LOST0" 0 0 0x110 32 with rc := true },
  { row0 "LNS_PORTBLK" 0 0 0x114 32 with rc := true },
  { row0 "LNS_SEG" 0 0 0x200 32 with dims := [(0x4, 128)], rw := 0x8000003F }]

/-- Lens partition pages, Table 20.11. -/
def rowsLNSP : List RegRow := [
  { row0 "LNSP_CTL" 1 64 0x100 32 with rw := 0x3FFF },
  row0 "LNSP_STATUS" 1 64 0x104 32,
  { row0 "LNSP_PRIV" 1 64 0x108 32 with rw := 0xF },
  { row0 "LNSP_CORES" 1 64 0x120 32 with dims := [(0x4, 13)], rw := 0xFFFFFFFF },
  { row0 "LNSP_DBASE" 1 64 0x160 64 with rw := 0xFFFFFFFF003F },
  row0 "LNSP_WPTR" 1 64 0x168 64,
  { row0 "LNSP_DLO" 1 64 0x170 64 with rw := 0xFFFFFFFFFFFFFFFF },
  { row0 "LNSP_DHI" 1 64 0x178 64 with rw := 0xFFFFFFFFFFFFFFFF },
  { row0 "LNSP_STAMPTB" 1 64 0x180 32 with rw := 0xFFFFF },
  { row0 "LNSP_TRIG" 1 64 0x1A0 32 with dims := [(0x10, 4)], rw := 0xF },
  { row0 "LNSP_TRIGARG" 1 64 0x1A8 64 with dims := [(0x10, 4)], rw := 0xFFFFFFFFFFFFFFFF },
  { row0 "LNSP_POST" 1 64 0x1E0 64 with rw := 0xFFFFFFFFFFFFFFFF },
  { row0 "LNSP_POSTCTL" 1 64 0x1E8 32 with rw := 0x1F },
  { row0 "LNSP_DROP" 1 64 0x1F0 32 with dims := [(0x4, 4)], rc := true },
  { row0 "LNSP_RDADDR" 1 64 0x200 32 with rw := 0xFFFFFFFF },
  row0 "LNSP_RDDATA" 1 64 0x208 64,
  { row0 "LNSP_PSRC" 1 64 0x210 32 with rw := 0x83FF }]

/-- The register rows of a block type. -/
def rowsOf : Block → List RegRow
  | .die => rowsDIE ++ rowsPART ++ rowsPAD
  | .core => rowsXL ++ rowsSCHED ++ rowsFE ++ rowsEXC ++ rowsMC ++ rowsCACHE ++ rowsCDBG
  | .loops => rowsLOOPS
  | .prism => rowsPRISM
  | .cnt => rowsCNT
  | .fab => rowsFAB
  | .hom => rowsHOM
  | .d2d => rowsD2D
  | .dmc => rowsDMC ++ rowsDPHY
  | .qe => rowsQE ++ rowsQEP
  | .tbu => rowsTBU ++ rowsTB ++ rowsCMP ++ rowsENC
  | .gpe => rowsGPE
  | .sdm => rowsSDM ++ rowsSDMCH ++ rowsSDP ++ rowsSNAP
  | .evr => rowsEVR ++ rowsEVRP
  | .hpa => rowsHPA ++ rowsHPAS
  | .hpb => rowsHPB ++ rowsHPBS
  | .spa => []
  | .eth => rowsETH ++ rowsFRER
  | .canf => rowsCANF
  | .mvb => rowsMVB
  | .ser => rowsSER
  | .gpio => rowsGPIO
  | .psl => rowsPSL ++ rowsPSLP
  | .pwr => rowsPWR
  | .hup => rowsHUP
  | .jrn => rowsJRN
  | .smg => rowsSMG
  | .mcp => rowsMCP ++ rowsMCPCH
  | .bse => rowsBSE ++ rowsBSEP
  | .csd => []
  | .dbg => rowsDBG ++ rowsDBGP
  | .lns => rowsLNS ++ rowsLNSP
  | .err => rowsERR

namespace Reg

/-! Error log page 0, Table 2.17. -/
/-- ERR_HEADSEQ. -/
def ERR_HEADSEQ : RegAddr := ⟨.err, 0, 0, 0x100⟩
/-- ERR_TAILSEQ. -/
def ERR_TAILSEQ : RegAddr := ⟨.err, 0, 0, 0x104⟩
/-- ERR_RDSEQ. -/
def ERR_RDSEQ : RegAddr := ⟨.err, 0, 0, 0x108⟩
/-- ERR_LOST. -/
def ERR_LOST : RegAddr := ⟨.err, 0, 0, 0x10C⟩
/-- ERR_DROPPED. -/
def ERR_DROPPED : RegAddr := ⟨.err, 0, 0, 0x110⟩
/-- ERR_COPY. -/
def ERR_COPY : RegAddr := ⟨.err, 0, 0, 0x118⟩
/-- ERR_COPYBASE. -/
def ERR_COPYBASE : RegAddr := ⟨.err, 0, 0, 0x120⟩
/-! TBU page 0, Table 3.9. -/
/-- TBU_REFTIME. -/
def TBU_REFTIME : RegAddr := ⟨.tbu, 0, 0, 0x100⟩
/-- TBU_EVTSRC. -/
def TBU_EVTSRC : RegAddr := ⟨.tbu, 0, 0, 0x108⟩
/-- TBU_AXLE_CTL. -/
def TBU_AXLE_CTL : RegAddr := ⟨.tbu, 0, 0, 0x110⟩
/-- TBU_AXLE_THR. -/
def TBU_AXLE_THR : RegAddr := ⟨.tbu, 0, 0, 0x114⟩
/-- TBU_AXLE_VMIN. -/
def TBU_AXLE_VMIN : RegAddr := ⟨.tbu, 0, 0, 0x118⟩
/-- TBU_AXLE_STATUS. -/
def TBU_AXLE_STATUS : RegAddr := ⟨.tbu, 0, 0, 0x120⟩
/-! Time bases, Table 3.10. -/
/-- TB_CTL. -/
def TB_CTL (n : Nat) : RegAddr := ⟨.tbu, 0, n + 1, 0x100⟩
/-- TB_STATE. -/
def TB_STATE (n : Nat) : RegAddr := ⟨.tbu, 0, n + 1, 0x104⟩
/-- TB_SCALE. -/
def TB_SCALE (n : Nat) : RegAddr := ⟨.tbu, 0, n + 1, 0x108⟩
/-- TB_ORIGIN. -/
def TB_ORIGIN (n : Nat) : RegAddr := ⟨.tbu, 0, n + 1, 0x110⟩
/-- TB_TIMEOUT. -/
def TB_TIMEOUT (n : Nat) : RegAddr := ⟨.tbu, 0, n + 1, 0x118⟩
/-- TB_HOLD. -/
def TB_HOLD (n : Nat) : RegAddr := ⟨.tbu, 0, n + 1, 0x11C⟩
/-- TB_GROWTH. -/
def TB_GROWTH (n : Nat) : RegAddr := ⟨.tbu, 0, n + 1, 0x120⟩
/-- TB_INDEX. -/
def TB_INDEX (n : Nat) : RegAddr := ⟨.tbu, 0, n + 1, 0x128⟩
/-- TB_ACCESS. -/
def TB_ACCESS (n : Nat) : RegAddr := ⟨.tbu, 0, n + 1, 0x130⟩
/-- TB_EVTSRC. -/
def TB_EVTSRC (n : Nat) : RegAddr := ⟨.tbu, 0, n + 1, 0x138⟩
/-- TB_PHASE. -/
def TB_PHASE (n : Nat) : RegAddr := ⟨.tbu, 0, n + 1, 0x140⟩
/-- TB_RATE. -/
def TB_RATE (n : Nat) : RegAddr := ⟨.tbu, 0, n + 1, 0x148⟩
/-- TB_UNC. -/
def TB_UNC (n : Nat) : RegAddr := ⟨.tbu, 0, n + 1, 0x150⟩
/-- TB_RELOCK. -/
def TB_RELOCK (n : Nat) : RegAddr := ⟨.tbu, 0, n + 1, 0x158⟩
/-- TB_SET. -/
def TB_SET (n : Nat) : RegAddr := ⟨.tbu, 0, n + 1, 0x160⟩
/-- TB_STEP. -/
def TB_STEP (n : Nat) : RegAddr := ⟨.tbu, 0, n + 1, 0x168⟩
/-- TB_CAPTURE. -/
def TB_CAPTURE (n : Nat) : RegAddr := ⟨.tbu, 0, n + 1, 0x170⟩
/-- TB_CAP_PHASE. -/
def TB_CAP_PHASE (n : Nat) : RegAddr := ⟨.tbu, 0, n + 1, 0x178⟩
/-- TB_CAP_TIME. -/
def TB_CAP_TIME (n : Nat) : RegAddr := ⟨.tbu, 0, n + 1, 0x180⟩
/-! Compare units, Tables 3.9 and 3.11. -/
/-- CMP_CTL. -/
def CMP_CTL (m : Nat) : RegAddr := ⟨.tbu, 0, 17 + m / 16, 0x100 + 0x40 * (m % 16)⟩
/-- CMP_STATUS. -/
def CMP_STATUS (m : Nat) : RegAddr := ⟨.tbu, 0, 17 + m / 16, 0x104 + 0x40 * (m % 16)⟩
/-- CMP_INCR. -/
def CMP_INCR (m : Nat) : RegAddr := ⟨.tbu, 0, 17 + m / 16, 0x108 + 0x40 * (m % 16)⟩
/-- CMP_TARGET. -/
def CMP_TARGET (m : Nat) : RegAddr := ⟨.tbu, 0, 17 + m / 16, 0x110 + 0x40 * (m % 16)⟩
/-- CMP_TARGET_MWL. -/
def CMP_TARGET_MWL (m : Nat) : RegAddr := ⟨.tbu, 0, 17 + m / 16, 0x118 + 0x40 * (m % 16)⟩
/-- CMP_TARGET_MWH. -/
def CMP_TARGET_MWH (m : Nat) : RegAddr := ⟨.tbu, 0, 17 + m / 16, 0x120 + 0x40 * (m % 16)⟩
/-- CMP_ARG. -/
def CMP_ARG (m : Nat) : RegAddr := ⟨.tbu, 0, 17 + m / 16, 0x128 + 0x40 * (m % 16)⟩
/-- CMP_MISS. -/
def CMP_MISS (m : Nat) : RegAddr := ⟨.tbu, 0, 17 + m / 16, 0x12C + 0x40 * (m % 16)⟩
/-! Encoder inputs, Table 3.9. -/
/-- ENC_CTL. -/
def ENC_CTL (e : Nat) : RegAddr := ⟨.tbu, 0, 33, 0x100 + 0x10 * e⟩
/-- ENC_COUNT. -/
def ENC_COUNT (e : Nat) : RegAddr := ⟨.tbu, 0, 33, 0x104 + 0x10 * e⟩
/-- ENC_STATUS. -/
def ENC_STATUS (e : Nat) : RegAddr := ⟨.tbu, 0, 33, 0x108 + 0x10 * e⟩
/-! Gate pattern groups, Table 3.15. -/
/-- GPE_CTL. -/
def GPE_CTL (g : Nat) : RegAddr := ⟨.gpe, g, 0, 0x100⟩
/-- GPE_WINDOW. -/
def GPE_WINDOW (g : Nat) : RegAddr := ⟨.gpe, g, 0, 0x104⟩
/-- GPE_RING. -/
def GPE_RING (g : Nat) : RegAddr := ⟨.gpe, g, 0, 0x108⟩
/-- GPE_START. -/
def GPE_START (g : Nat) : RegAddr := ⟨.gpe, g, 0, 0x10C⟩
/-- GPE_DT0. -/
def GPE_DT0 (g : Nat) : RegAddr := ⟨.gpe, g, 0, 0x110⟩
/-- GPE_DT1. -/
def GPE_DT1 (g : Nat) : RegAddr := ⟨.gpe, g, 0, 0x114⟩
/-- GPE_FORCE. -/
def GPE_FORCE (g : Nat) : RegAddr := ⟨.gpe, g, 0, 0x118⟩
/-- GPE_STATUS. -/
def GPE_STATUS (g : Nat) : RegAddr := ⟨.gpe, g, 0, 0x11C⟩
/-- GPE_TRIPSRC. -/
def GPE_TRIPSRC (g : Nat) : RegAddr := ⟨.gpe, g, 0, 0x120⟩
/-- GPE_DROPS. -/
def GPE_DROPS (g : Nat) : RegAddr := ⟨.gpe, g, 0, 0x124⟩
/-! Sigma-delta clocks, Table 3.17. -/
/-- SDM_CLK. -/
def SDM_CLK (c : Nat) : RegAddr := ⟨.sdm, 0, 0, 0x100 + 0x4 * c⟩
/-! Sigma-delta channels, Table 3.18. -/
/-- SDMCH_CTL. -/
def SDMCH_CTL (n : Nat) : RegAddr := ⟨.sdm, 0, n + 1, 0x100⟩
/-- SDMCH_DATA. -/
def SDMCH_DATA (n : Nat) : RegAddr := ⟨.sdm, 0, n + 1, 0x104⟩
/-- SDMCH_TRIP. -/
def SDMCH_TRIP (n : Nat) : RegAddr := ⟨.sdm, 0, n + 1, 0x108⟩
/-- SDMCH_TRIPMASK. -/
def SDMCH_TRIPMASK (n : Nat) : RegAddr := ⟨.sdm, 0, n + 1, 0x10C⟩
/-- SDMCH_STATUS. -/
def SDMCH_STATUS (n : Nat) : RegAddr := ⟨.sdm, 0, n + 1, 0x110⟩
/-! Supply-phase PLLs, Table 3.20. -/
/-- SDP_CTL. -/
def SDP_CTL (k : Nat) : RegAddr := ⟨.sdm, 0, 33 + k, 0x100⟩
/-- SDP_VSCALE. -/
def SDP_VSCALE (k : Nat) : RegAddr := ⟨.sdm, 0, 33 + k, 0x104⟩
/-- SDP_THR1. -/
def SDP_THR1 (k : Nat) : RegAddr := ⟨.sdm, 0, 33 + k, 0x108⟩
/-- SDP_THR2. -/
def SDP_THR2 (k : Nat) : RegAddr := ⟨.sdm, 0, 33 + k, 0x10C⟩
/-- SDP_CHKTHR. -/
def SDP_CHKTHR (k : Nat) : RegAddr := ⟨.sdm, 0, 33 + k, 0x110⟩
/-- SDP_STATUS. -/
def SDP_STATUS (k : Nat) : RegAddr := ⟨.sdm, 0, 33 + k, 0x114⟩
/-- SDP_FREQ. -/
def SDP_FREQ (k : Nat) : RegAddr := ⟨.sdm, 0, 33 + k, 0x118⟩
/-- SDP_VRMS. -/
def SDP_VRMS (k : Nat) : RegAddr := ⟨.sdm, 0, 33 + k, 0x11C⟩
/-- SDP_VDC. -/
def SDP_VDC (k : Nat) : RegAddr := ⟨.sdm, 0, 33 + k, 0x120⟩
/-! Snapshot sets, Table 3.17. -/
/-- SNAP_MASK. -/
def SNAP_MASK (s : Nat) : RegAddr := ⟨.sdm, 0, 37 + s, 0x100⟩
/-- SNAP_RING. -/
def SNAP_RING (s : Nat) : RegAddr := ⟨.sdm, 0, 37 + s, 0x104⟩
/-- SNAP_DROP. -/
def SNAP_DROP (s : Nat) : RegAddr := ⟨.sdm, 0, 37 + s, 0x108⟩
/-! Event router page 0, Table 4.8. -/
/-- EVR_CTL. -/
def EVR_CTL : RegAddr := ⟨.evr, 0, 0, 0x100⟩
/-- EVR_QMAX. -/
def EVR_QMAX : RegAddr := ⟨.evr, 0, 0, 0x104⟩
/-- EVR_LOST. -/
def EVR_LOST : RegAddr := ⟨.evr, 0, 0, 0x108⟩
/-- EVR_POOLOWN. -/
def EVR_POOLOWN (w : Nat) : RegAddr := ⟨.evr, 0, 0, 0x200 + 0x4 * w⟩
/-- EVR_OWN. -/
def EVR_OWN (w : Nat) : RegAddr := ⟨.evr, 0, 0, 0x400 + 0x4 * w⟩
/-! Event router partition pages, Table 4.9. -/
/-- EVRP_SEL. -/
def EVRP_SEL (p : Nat) : RegAddr := ⟨.evr, 0, p + 1, 0x100⟩
/-- EVRP_CFG. -/
def EVRP_CFG (p : Nat) : RegAddr := ⟨.evr, 0, p + 1, 0x104⟩
/-- EVRP_STAT. -/
def EVRP_STAT (p : Nat) : RegAddr := ⟨.evr, 0, p + 1, 0x108⟩
/-- EVRP_OVR. -/
def EVRP_OVR (p : Nat) : RegAddr := ⟨.evr, 0, p + 1, 0x10C⟩
/-- EVRP_SETCFG. -/
def EVRP_SETCFG (p : Nat) : RegAddr := ⟨.evr, 0, p + 1, 0x110⟩
/-- EVRP_RAISE. -/
def EVRP_RAISE (p : Nat) : RegAddr := ⟨.evr, 0, p + 1, 0x118⟩
/-- EVRP_POOLSEL. -/
def EVRP_POOLSEL (p : Nat) : RegAddr := ⟨.evr, 0, p + 1, 0x11C⟩
/-- EVRP_POOLMASK. -/
def EVRP_POOLMASK (p k : Nat) : RegAddr := ⟨.evr, 0, p + 1, 0x120 + 0x4 * k⟩
/-- EVRP_POOLSTAT. -/
def EVRP_POOLSTAT (p : Nat) : RegAddr := ⟨.evr, 0, p + 1, 0x160⟩
/-- EVRP_POOLOVF. -/
def EVRP_POOLOVF (p : Nat) : RegAddr := ⟨.evr, 0, p + 1, 0x164⟩
/-! Core translation page, Table 10.7. -/
/-- XL_PART. -/
def XL_PART (c : Nat) : RegAddr := ⟨.core, c, 0, 0x100⟩
/-- XL_PTB. -/
def XL_PTB (c : Nat) : RegAddr := ⟨.core, c, 0, 0x108⟩
/-- XL_FINFO. -/
def XL_FINFO (c : Nat) : RegAddr := ⟨.core, c, 0, 0x110⟩
/-- XL_TLBI. -/
def XL_TLBI (c : Nat) : RegAddr := ⟨.core, c, 0, 0x118⟩
/-- XL_TLBSTAT. -/
def XL_TLBSTAT (c : Nat) : RegAddr := ⟨.core, c, 0, 0x120⟩
/-- XL_GTB. -/
def XL_GTB (c l : Nat) : RegAddr := ⟨.core, c, 0, 0x140 + 0x8 * l⟩
/-! Core scheduler page, Table 4.11. -/
/-- SCHED_LVLEN. -/
def SCHED_LVLEN (c : Nat) : RegAddr := ⟨.core, c, 1, 0x100⟩
/-- SCHED_STATE. -/
def SCHED_STATE (c : Nat) : RegAddr := ⟨.core, c, 1, 0x104⟩
/-- SCHED_BCTL. -/
def SCHED_BCTL (c : Nat) : RegAddr := ⟨.core, c, 1, 0x108⟩
/-- SCHED_OVR. -/
def SCHED_OVR (c : Nat) : RegAddr := ⟨.core, c, 1, 0x10C⟩
/-- SCHED_BUDGET. -/
def SCHED_BUDGET (c l : Nat) : RegAddr := ⟨.core, c, 1, 0x120 + 0x4 * l⟩
/-- SCHED_BLEFT. -/
def SCHED_BLEFT (c l : Nat) : RegAddr := ⟨.core, c, 1, 0x140 + 0x4 * l⟩
/-- SCHED_ENTRY. -/
def SCHED_ENTRY (c l : Nat) : RegAddr := ⟨.core, c, 1, 0x160 + 0x8 * l⟩
/-! Core fetch page, Table 5.8. -/
/-- FE_CTL. -/
def FE_CTL (c : Nat) : RegAddr := ⟨.core, c, 2, 0x100⟩
/-- FE_STATUS. -/
def FE_STATUS (c : Nat) : RegAddr := ⟨.core, c, 2, 0x104⟩
/-! Core exception page, Table 8.6. -/
/-- EXC_VB_S. -/
def EXC_VB_S (c : Nat) : RegAddr := ⟨.core, c, 3, 0x100⟩
/-- EXC_VB_H. -/
def EXC_VB_H (c : Nat) : RegAddr := ⟨.core, c, 3, 0x108⟩
/-- EXC_VB_M. -/
def EXC_VB_M (c : Nat) : RegAddr := ⟨.core, c, 3, 0x110⟩
/-- EXC_DFV. -/
def EXC_DFV (c : Nat) : RegAddr := ⟨.core, c, 3, 0x118⟩
/-- EXC_RVEC. -/
def EXC_RVEC (c : Nat) : RegAddr := ⟨.core, c, 3, 0x120⟩
/-- EXC_CAUSECFG. -/
def EXC_CAUSECFG (c i : Nat) : RegAddr := ⟨.core, c, 3, 0x140 + 0x4 * i⟩
/-- EXC_DF_INFO. -/
def EXC_DF_INFO (c : Nat) : RegAddr := ⟨.core, c, 3, 0x180⟩
/-- EXC_DF_PC. -/
def EXC_DF_PC (c : Nat) : RegAddr := ⟨.core, c, 3, 0x188⟩
/-- EXC_DF_ADDR. -/
def EXC_DF_ADDR (c : Nat) : RegAddr := ⟨.core, c, 3, 0x190⟩
/-- EXC_DF_STATUS. -/
def EXC_DF_STATUS (c : Nat) : RegAddr := ⟨.core, c, 3, 0x198⟩
/-- EXC_DF_B7. -/
def EXC_DF_B7 (c : Nat) : RegAddr := ⟨.core, c, 3, 0x1A0⟩
/-- EXC_TF_INFO. -/
def EXC_TF_INFO (c : Nat) : RegAddr := ⟨.core, c, 3, 0x1A8⟩
/-- EXC_TF_PC. -/
def EXC_TF_PC (c : Nat) : RegAddr := ⟨.core, c, 3, 0x1B0⟩
/-- EXC_CTL. -/
def EXC_CTL (c : Nat) : RegAddr := ⟨.core, c, 3, 0x1B8⟩
/-- EXC_STATUS. -/
def EXC_STATUS (c : Nat) : RegAddr := ⟨.core, c, 3, 0x1BC⟩
/-! Core microcode page, Table 9.4. -/
/-- MC_STATE. -/
def MC_STATE (c : Nat) : RegAddr := ⟨.core, c, 4, 0x100⟩
/-- MC_PATCH_ID. -/
def MC_PATCH_ID (c : Nat) : RegAddr := ⟨.core, c, 4, 0x104⟩
/-- MC_CUST_ID. -/
def MC_CUST_ID (c : Nat) : RegAddr := ⟨.core, c, 4, 0x108⟩
/-- MC_PERR. -/
def MC_PERR (c : Nat) : RegAddr := ⟨.core, c, 4, 0x10C⟩
/-- MC_PADDR. -/
def MC_PADDR (c : Nat) : RegAddr := ⟨.core, c, 4, 0x110⟩
/-- MC_TOCNT. -/
def MC_TOCNT (c : Nat) : RegAddr := ⟨.core, c, 4, 0x114⟩
/-- MC_CFAULT. -/
def MC_CFAULT (c : Nat) : RegAddr := ⟨.core, c, 4, 0x118⟩
/-- MC_DT. -/
def MC_DT (c i : Nat) : RegAddr := ⟨.core, c, 4, 0x180 + 0x4 * i⟩
/-! Core cache page, Table 10.8. -/
/-- CACHE_OP. -/
def CACHE_OP (c : Nat) : RegAddr := ⟨.core, c, 5, 0x100⟩
/-- CACHE_STATUS. -/
def CACHE_STATUS (c : Nat) : RegAddr := ⟨.core, c, 5, 0x108⟩
/-- CACHE_LOCKLOST. -/
def CACHE_LOCKLOST (c : Nat) : RegAddr := ⟨.core, c, 5, 0x10C⟩
/-! Core debug page, Table 20.10. -/
/-- CDBG_CTL. -/
def CDBG_CTL (c : Nat) : RegAddr := ⟨.core, c, 6, 0x100⟩
/-- CDBG_STATE. -/
def CDBG_STATE (c : Nat) : RegAddr := ⟨.core, c, 6, 0x104⟩
/-- CDBG_MBXIN. -/
def CDBG_MBXIN (c : Nat) : RegAddr := ⟨.core, c, 6, 0x108⟩
/-- CDBG_MBXOUT. -/
def CDBG_MBXOUT (c : Nat) : RegAddr := ⟨.core, c, 6, 0x110⟩
/-- CDBG_RSEL. -/
def CDBG_RSEL (c : Nat) : RegAddr := ⟨.core, c, 6, 0x118⟩
/-- CDBG_RDATA. -/
def CDBG_RDATA (c : Nat) : RegAddr := ⟨.core, c, 6, 0x120⟩
/-- CDBG_IBP. -/
def CDBG_IBP (c i : Nat) : RegAddr := ⟨.core, c, 6, 0x140 + 0x8 * i⟩
/-- CDBG_WPA. -/
def CDBG_WPA (c j : Nat) : RegAddr := ⟨.core, c, 6, 0x160 + 0x10 * j⟩
/-- CDBG_WPB. -/
def CDBG_WPB (c j : Nat) : RegAddr := ⟨.core, c, 6, 0x168 + 0x10 * j⟩
/-! Loop page, Table 6.10. -/
/-- LOOPS_LSTART. -/
def LOOPS_LSTART (c l k : Nat) : RegAddr := ⟨.loops, c, 0, 0x100 + 0x40 * l + 0x20 * k⟩
/-- LOOPS_LEND. -/
def LOOPS_LEND (c l k : Nat) : RegAddr := ⟨.loops, c, 0, 0x108 + 0x40 * l + 0x20 * k⟩
/-- LOOPS_LCOUNT. -/
def LOOPS_LCOUNT (c l k : Nat) : RegAddr := ⟨.loops, c, 0, 0x110 + 0x40 * l + 0x20 * k⟩
/-- LOOPS_ACTIVE. -/
def LOOPS_ACTIVE (c : Nat) : RegAddr := ⟨.loops, c, 0, 0x300⟩
/-- LOOPS_LEFAULT. -/
def LOOPS_LEFAULT (c : Nat) : RegAddr := ⟨.loops, c, 0, 0x304⟩
/-! Prism page, Table 7.23. -/
/-- PRISM_STATUS. -/
def PRISM_STATUS (u : Nat) : RegAddr := ⟨.prism, u, 0, 0x100⟩
/-- PRISM_ECC. -/
def PRISM_ECC (u : Nat) : RegAddr := ⟨.prism, u, 0, 0x104⟩
/-- PRISM_WAITMAX. -/
def PRISM_WAITMAX (u : Nat) : RegAddr := ⟨.prism, u, 0, 0x108⟩
/-! Counter page, Table 20.12. -/
/-- CNT_CTL. -/
def CNT_CTL (c : Nat) : RegAddr := ⟨.cnt, c, 0, 0x100⟩
/-- CNT_STATUS. -/
def CNT_STATUS (c : Nat) : RegAddr := ⟨.cnt, c, 0, 0x104⟩
/-- CNT_CNT. -/
def CNT_CNT (c k : Nat) : RegAddr := ⟨.cnt, c, 0, 0x110 + 0x8 * k⟩
/-- CNT_CFG. -/
def CNT_CFG (c k : Nat) : RegAddr := ⟨.cnt, c, 0, 0x150 + 0x4 * k⟩
/-- CNT_ALO. -/
def CNT_ALO (c r : Nat) : RegAddr := ⟨.cnt, c, 0, 0x170 + 0x10 * r⟩
/-- CNT_AHI. -/
def CNT_AHI (c r : Nat) : RegAddr := ⟨.cnt, c, 0, 0x178 + 0x10 * r⟩
/-- CNT_SNAP. -/
def CNT_SNAP (c k : Nat) : RegAddr := ⟨.cnt, c, 0, 0x190 + 0x8 * k⟩
/-! Die identity page, Table 12.6. -/
/-- DIE_SITE. -/
def DIE_SITE (n : Nat) : RegAddr := ⟨.die, n, 0, 0x100⟩
/-- DIE_REV. -/
def DIE_REV (n : Nat) : RegAddr := ⟨.die, n, 0, 0x104⟩
/-- DIE_SERIAL. -/
def DIE_SERIAL (n : Nat) : RegAddr := ⟨.die, n, 0, 0x108⟩
/-- DIE_COREMASK. -/
def DIE_COREMASK (n : Nat) : RegAddr := ⟨.die, n, 0, 0x110⟩
/-- DIE_PROTO. -/
def DIE_PROTO (n : Nat) : RegAddr := ⟨.die, n, 0, 0x114⟩
/-- DIE_FUSE_STATUS. -/
def DIE_FUSE_STATUS (n : Nat) : RegAddr := ⟨.die, n, 0, 0x118⟩
/-! Partition descriptors, Table 10.1. -/
/-- PART_CMD. -/
def PART_CMD (p : Nat) : RegAddr := ⟨.die, 12, p + 1, 0x100⟩
/-- PART_STATUS. -/
def PART_STATUS (p : Nat) : RegAddr := ⟨.die, 12, p + 1, 0x104⟩
/-- PART_MODES. -/
def PART_MODES (p : Nat) : RegAddr := ⟨.die, 12, p + 1, 0x108⟩
/-- PART_L3WAYS. -/
def PART_L3WAYS (p : Nat) : RegAddr := ⟨.die, 12, p + 1, 0x10C⟩
/-- PART_CORES. -/
def PART_CORES (p k : Nat) : RegAddr := ⟨.die, 12, p + 1, 0x120 + 0x4 * k⟩
/-- PART_RBASE. -/
def PART_RBASE (p r : Nat) : RegAddr := ⟨.die, 12, p + 1, 0x180 + 0x10 * r⟩
/-- PART_RLIMIT. -/
def PART_RLIMIT (p r : Nat) : RegAddr := ⟨.die, 12, p + 1, 0x188 + 0x10 * r⟩
/-! Pad page, Table 21.6. -/
/-- PAD_SLEW0. -/
def PAD_SLEW0 : RegAddr := ⟨.die, 12, 65, 0x100⟩
/-- PAD_SLEW1. -/
def PAD_SLEW1 : RegAddr := ⟨.die, 12, 65, 0x104⟩
/-! Home slices, Table 11.8. -/
/-- HOM_CTL. -/
def HOM_CTL (k : Nat) : RegAddr := ⟨.hom, k, 0, 0x100⟩
/-- HOM_STATUS. -/
def HOM_STATUS (k : Nat) : RegAddr := ⟨.hom, k, 0, 0x104⟩
/-- HOM_TRK. -/
def HOM_TRK (k : Nat) : RegAddr := ⟨.hom, k, 0, 0x108⟩
/-- HOM_TRKMAX. -/
def HOM_TRKMAX (k : Nat) : RegAddr := ⟨.hom, k, 0, 0x10C⟩
/-- HOM_SF. -/
def HOM_SF (k : Nat) : RegAddr := ⟨.hom, k, 0, 0x110⟩
/-- HOM_BACKINV. -/
def HOM_BACKINV (k : Nat) : RegAddr := ⟨.hom, k, 0, 0x114⟩
/-- HOM_RETRY. -/
def HOM_RETRY (k : Nat) : RegAddr := ⟨.hom, k, 0, 0x118⟩
/-- HOM_NACK. -/
def HOM_NACK (k : Nat) : RegAddr := ⟨.hom, k, 0, 0x11C⟩
/-- HOM_STARVE. -/
def HOM_STARVE (k : Nat) : RegAddr := ⟨.hom, k, 0, 0x120⟩
/-- HOM_POISONED. -/
def HOM_POISONED (k : Nat) : RegAddr := ⟨.hom, k, 0, 0x124⟩
/-- HOM_POISON_ADDR. -/
def HOM_POISON_ADDR (k : Nat) : RegAddr := ⟨.hom, k, 0, 0x128⟩
/-! Fabric pages, Table 12.8. -/
/-- FAB_CTL. -/
def FAB_CTL (n : Nat) : RegAddr := ⟨.fab, n, 0, 0x100⟩
/-- FAB_STATUS. -/
def FAB_STATUS (n : Nat) : RegAddr := ⟨.fab, n, 0, 0x104⟩
/-- FAB_RCFG. -/
def FAB_RCFG (n : Nat) : RegAddr := ⟨.fab, n, 0, 0x108⟩
/-- FAB_DRAINMAX. -/
def FAB_DRAINMAX (n : Nat) : RegAddr := ⟨.fab, n, 0, 0x10C⟩
/-- FAB_RT_SEL. -/
def FAB_RT_SEL (n : Nat) : RegAddr := ⟨.fab, n, 0, 0x110⟩
/-- FAB_RT_W0. -/
def FAB_RT_W0 (n : Nat) : RegAddr := ⟨.fab, n, 0, 0x118⟩
/-- FAB_RT_W1. -/
def FAB_RT_W1 (n : Nat) : RegAddr := ⟨.fab, n, 0, 0x120⟩
/-- FAB_ROUTE_ERR. -/
def FAB_ROUTE_ERR (n : Nat) : RegAddr := ⟨.fab, n, 0, 0x128⟩
/-- FAB_ST_SEL. -/
def FAB_ST_SEL (n : Nat) : RegAddr := ⟨.fab, n, 0, 0x130⟩
/-- FAB_ST_CFG. -/
def FAB_ST_CFG (n : Nat) : RegAddr := ⟨.fab, n, 0, 0x134⟩
/-- FAB_ST_BYTES. -/
def FAB_ST_BYTES (n : Nat) : RegAddr := ⟨.fab, n, 0, 0x138⟩
/-- FAB_ST_TXN. -/
def FAB_ST_TXN (n : Nat) : RegAddr := ⟨.fab, n, 0, 0x140⟩
/-- FAB_ST_BIN. -/
def FAB_ST_BIN (n k : Nat) : RegAddr := ⟨.fab, n, 0, 0x180 + 0x4 * k⟩
/-- FAB_FSRC. -/
def FAB_FSRC (n p : Nat) : RegAddr := ⟨.fab, n, 0, 0x200 + 0x4 * p⟩
/-- FAB_PFAULT. -/
def FAB_PFAULT (n p : Nat) : RegAddr := ⟨.fab, n, 0, 0x300 + 0x4 * p⟩
/-! Die links, Table 12.9. -/
/-- D2D_CTL. -/
def D2D_CTL (l : Nat) : RegAddr := ⟨.d2d, l, 0, 0x100⟩
/-- D2D_STATUS. -/
def D2D_STATUS (l : Nat) : RegAddr := ⟨.d2d, l, 0, 0x104⟩
/-- D2D_CORR. -/
def D2D_CORR (l : Nat) : RegAddr := ⟨.d2d, l, 0, 0x108⟩
/-- D2D_REPLAY. -/
def D2D_REPLAY (l : Nat) : RegAddr := ⟨.d2d, l, 0, 0x10C⟩
/-- D2D_RETRAINS. -/
def D2D_RETRAINS (l : Nat) : RegAddr := ⟨.d2d, l, 0, 0x110⟩
/-! Safety manager, Table 13.4. -/
/-- SMG_STATE. -/
def SMG_STATE : RegAddr := ⟨.smg, 0, 0, 0x100⟩
/-- SMG_CMD. -/
def SMG_CMD : RegAddr := ⟨.smg, 0, 0, 0x108⟩
/-- SMG_REACT. -/
def SMG_REACT : RegAddr := ⟨.smg, 0, 0, 0x110⟩
/-- SMG_REPORT. -/
def SMG_REPORT : RegAddr := ⟨.smg, 0, 0, 0x114⟩
/-- SMG_LAST. -/
def SMG_LAST : RegAddr := ⟨.smg, 0, 0, 0x118⟩
/-- SMG_WD_CTL. -/
def SMG_WD_CTL : RegAddr := ⟨.smg, 0, 0, 0x120⟩
/-- SMG_WD_WIN. -/
def SMG_WD_WIN : RegAddr := ⟨.smg, 0, 0, 0x128⟩
/-- SMG_WD_SITES. -/
def SMG_WD_SITES : RegAddr := ⟨.smg, 0, 0, 0x12C⟩
/-- SMG_WD_SEQ. -/
def SMG_WD_SEQ : RegAddr := ⟨.smg, 0, 0, 0x130⟩
/-- SMG_WD_SVC0. -/
def SMG_WD_SVC0 : RegAddr := ⟨.smg, 0, 0, 0x138⟩
/-- SMG_WD_SVC1. -/
def SMG_WD_SVC1 : RegAddr := ⟨.smg, 0, 0, 0x140⟩
/-- SMG_WD_LEFT. -/
def SMG_WD_LEFT : RegAddr := ⟨.smg, 0, 0, 0x148⟩
/-- SMG_WD_STATUS. -/
def SMG_WD_STATUS : RegAddr := ⟨.smg, 0, 0, 0x14C⟩
/-! Mirror comparator page 0, Table 13.5. -/
/-- MCP_STATUS. -/
def MCP_STATUS : RegAddr := ⟨.mcp, 0, 0, 0x100⟩
/-- MCP_PAIR. -/
def MCP_PAIR (q : Nat) : RegAddr := ⟨.mcp, 0, 0, 0x400 + 0x4 * q⟩
/-! Comparator channels, Table 13.6. -/
/-- MCPCH_CTL. -/
def MCPCH_CTL (c : Nat) : RegAddr := ⟨.mcp, 0, 1 + c / 64, 0x100 + 0x30 * (c % 64)⟩
/-- MCPCH_RINGA. -/
def MCPCH_RINGA (c : Nat) : RegAddr := ⟨.mcp, 0, 1 + c / 64, 0x104 + 0x30 * (c % 64)⟩
/-- MCPCH_RINGB. -/
def MCPCH_RINGB (c : Nat) : RegAddr := ⟨.mcp, 0, 1 + c / 64, 0x108 + 0x30 * (c % 64)⟩
/-- MCPCH_RINGOUT. -/
def MCPCH_RINGOUT (c : Nat) : RegAddr := ⟨.mcp, 0, 1 + c / 64, 0x10C + 0x30 * (c % 64)⟩
/-- MCPCH_TRIG. -/
def MCPCH_TRIG (c : Nat) : RegAddr := ⟨.mcp, 0, 1 + c / 64, 0x110 + 0x30 * (c % 64)⟩
/-- MCPCH_STATUS. -/
def MCPCH_STATUS (c : Nat) : RegAddr := ⟨.mcp, 0, 1 + c / 64, 0x114 + 0x30 * (c % 64)⟩
/-- MCPCH_DL. -/
def MCPCH_DL (c : Nat) : RegAddr := ⟨.mcp, 0, 1 + c / 64, 0x118 + 0x30 * (c % 64)⟩
/-- MCPCH_SEQ. -/
def MCPCH_SEQ (c : Nat) : RegAddr := ⟨.mcp, 0, 1 + c / 64, 0x120 + 0x30 * (c % 64)⟩
/-- MCPCH_RELMAX. -/
def MCPCH_RELMAX (c : Nat) : RegAddr := ⟨.mcp, 0, 1 + c / 64, 0x124 + 0x30 * (c % 64)⟩
/-! DRAM channels page 0, Table 14.4. -/
/-- DMC_CMD. -/
def DMC_CMD (h : Nat) : RegAddr := ⟨.dmc, h, 0, 0x100⟩
/-- DMC_STATUS. -/
def DMC_STATUS (h : Nat) : RegAddr := ⟨.dmc, h, 0, 0x104⟩
/-- DMC_CFG. -/
def DMC_CFG (h : Nat) : RegAddr := ⟨.dmc, h, 0, 0x108⟩
/-- DMC_MAP. -/
def DMC_MAP (h : Nat) : RegAddr := ⟨.dmc, h, 0, 0x10C⟩
/-- DMC_TIM0. -/
def DMC_TIM0 (h : Nat) : RegAddr := ⟨.dmc, h, 0, 0x110⟩
/-- DMC_TIM1. -/
def DMC_TIM1 (h : Nat) : RegAddr := ⟨.dmc, h, 0, 0x114⟩
/-- DMC_TIM2. -/
def DMC_TIM2 (h : Nat) : RegAddr := ⟨.dmc, h, 0, 0x118⟩
/-- DMC_TIM3. -/
def DMC_TIM3 (h : Nat) : RegAddr := ⟨.dmc, h, 0, 0x11C⟩
/-- DMC_QSTAT. -/
def DMC_QSTAT (h : Nat) : RegAddr := ⟨.dmc, h, 0, 0x120⟩
/-- DMC_WQCTL. -/
def DMC_WQCTL (h : Nat) : RegAddr := ⟨.dmc, h, 0, 0x124⟩
/-- DMC_REFCTL. -/
def DMC_REFCTL (h : Nat) : RegAddr := ⟨.dmc, h, 0, 0x128⟩
/-- DMC_PANIC. -/
def DMC_PANIC (h : Nat) : RegAddr := ⟨.dmc, h, 0, 0x12C⟩
/-- DMC_PANICCNT. -/
def DMC_PANICCNT (h : Nat) : RegAddr := ⟨.dmc, h, 0, 0x130⟩
/-- DMC_SLOTCTL. -/
def DMC_SLOTCTL (h : Nat) : RegAddr := ⟨.dmc, h, 0, 0x140⟩
/-- DMC_SLOTSTAT. -/
def DMC_SLOTSTAT (h : Nat) : RegAddr := ⟨.dmc, h, 0, 0x144⟩
/-- DMC_SLOT. -/
def DMC_SLOT (h k : Nat) : RegAddr := ⟨.dmc, h, 0, 0x148 + 0x4 * k⟩
/-- DMC_CECNT. -/
def DMC_CECNT (h : Nat) : RegAddr := ⟨.dmc, h, 0, 0x180⟩
/-- DMC_UECNT. -/
def DMC_UECNT (h : Nat) : RegAddr := ⟨.dmc, h, 0, 0x184⟩
/-- DMC_PRCNT. -/
def DMC_PRCNT (h : Nat) : RegAddr := ⟨.dmc, h, 0, 0x188⟩
/-- DMC_CE_LOGINT. -/
def DMC_CE_LOGINT (h : Nat) : RegAddr := ⟨.dmc, h, 0, 0x18C⟩
/-- DMC_ERASE. -/
def DMC_ERASE (h i : Nat) : RegAddr := ⟨.dmc, h, 0, 0x190 + 0x8 * i⟩
/-- DMC_PIN_SEL. -/
def DMC_PIN_SEL (h : Nat) : RegAddr := ⟨.dmc, h, 0, 0x1B0⟩
/-- DMC_PIN_CNT. -/
def DMC_PIN_CNT (h : Nat) : RegAddr := ⟨.dmc, h, 0, 0x1B4⟩
/-- DMC_PIN_THR. -/
def DMC_PIN_THR (h : Nat) : RegAddr := ⟨.dmc, h, 0, 0x1B8⟩
/-- DMC_FILL_BASE. -/
def DMC_FILL_BASE (h : Nat) : RegAddr := ⟨.dmc, h, 0, 0x1C0⟩
/-- DMC_FILL_LIMIT. -/
def DMC_FILL_LIMIT (h : Nat) : RegAddr := ⟨.dmc, h, 0, 0x1C8⟩
/-- DMC_REG. -/
def DMC_REG (h p : Nat) : RegAddr := ⟨.dmc, h, 0, 0x200 + 0x4 * p⟩
/-! DRAM channels page 1, Table 14.5. -/
/-- DPHY_DQDLY. -/
def DPHY_DQDLY (h j : Nat) : RegAddr := ⟨.dmc, h, 1, 0x100 + 0x4 * j⟩
/-- DPHY_DQSDLY. -/
def DPHY_DQSDLY (h j : Nat) : RegAddr := ⟨.dmc, h, 1, 0x240 + 0x4 * j⟩
/-- DPHY_CADLY. -/
def DPHY_CADLY (h j : Nat) : RegAddr := ⟨.dmc, h, 1, 0x290 + 0x4 * j⟩
/-- DPHY_TCOMP. -/
def DPHY_TCOMP (h j : Nat) : RegAddr := ⟨.dmc, h, 1, 0x2A0 + 0x4 * j⟩
/-- DPHY_TEMP. -/
def DPHY_TEMP (h : Nat) : RegAddr := ⟨.dmc, h, 1, 0x2C0⟩
/-- DPHY_SWEEP_CTL. -/
def DPHY_SWEEP_CTL (h : Nat) : RegAddr := ⟨.dmc, h, 1, 0x2C4⟩
/-- DPHY_SWEEP_STATUS. -/
def DPHY_SWEEP_STATUS (h : Nat) : RegAddr := ⟨.dmc, h, 1, 0x2C8⟩
/-- DPHY_SWEEP_RES. -/
def DPHY_SWEEP_RES (h w : Nat) : RegAddr := ⟨.dmc, h, 1, 0x2D0 + 0x4 * w⟩
/-! Queue engine page 0, Table 15.5. -/
/-- QE_OWN. -/
def QE_OWN : RegAddr := ⟨.qe, 0, 0, 0x100⟩
/-- QE_DMAINFL. -/
def QE_DMAINFL : RegAddr := ⟨.qe, 0, 0, 0x104⟩
/-- QE_ERRRING. -/
def QE_ERRRING : RegAddr := ⟨.qe, 0, 0, 0x108⟩
/-- QE_QRINGS. -/
def QE_QRINGS (p : Nat) : RegAddr := ⟨.qe, 0, 0, 0x400 + 0x10 * p⟩
/-- QE_QENT. -/
def QE_QENT (p : Nat) : RegAddr := ⟨.qe, 0, 0, 0x404 + 0x10 * p⟩
/-- QE_QBYTES. -/
def QE_QBYTES (p : Nat) : RegAddr := ⟨.qe, 0, 0, 0x408 + 0x10 * p⟩
/-- QE_DMAOWN. -/
def QE_DMAOWN (c : Nat) : RegAddr := ⟨.qe, 0, 0, 0x800 + 0x4 * c⟩
/-! Queue engine partition pages, Table 15.6. -/
/-- QEP_ENQ. -/
def QEP_ENQ (p : Nat) : RegAddr := ⟨.qe, 0, p + 1, 0x100⟩
/-- QEP_DEQ. -/
def QEP_DEQ (p : Nat) : RegAddr := ⟨.qe, 0, p + 1, 0x108⟩
/-- QEP_RESULT. -/
def QEP_RESULT (p : Nat) : RegAddr := ⟨.qe, 0, p + 1, 0x110⟩
/-- QEP_RSEL. -/
def QEP_RSEL (p : Nat) : RegAddr := ⟨.qe, 0, p + 1, 0x114⟩
/-- QEP_RCFG. -/
def QEP_RCFG (p : Nat) : RegAddr := ⟨.qe, 0, p + 1, 0x118⟩
/-- QEP_RBASE. -/
def QEP_RBASE (p : Nat) : RegAddr := ⟨.qe, 0, p + 1, 0x120⟩
/-- QEP_RDB. -/
def QEP_RDB (p : Nat) : RegAddr := ⟨.qe, 0, p + 1, 0x128⟩
/-- QEP_RFLIGHT. -/
def QEP_RFLIGHT (p : Nat) : RegAddr := ⟨.qe, 0, p + 1, 0x12C⟩
/-- QEP_RSTAT. -/
def QEP_RSTAT (p : Nat) : RegAddr := ⟨.qe, 0, p + 1, 0x130⟩
/-- QEP_RPTR. -/
def QEP_RPTR (p : Nat) : RegAddr := ⟨.qe, 0, p + 1, 0x134⟩
/-- QEP_USE. -/
def QEP_USE (p : Nat) : RegAddr := ⟨.qe, 0, p + 1, 0x138⟩
/-- QEP_USEBYTES. -/
def QEP_USEBYTES (p : Nat) : RegAddr := ⟨.qe, 0, p + 1, 0x140⟩
/-- QEP_DSEL. -/
def QEP_DSEL (p : Nat) : RegAddr := ⟨.qe, 0, p + 1, 0x148⟩
/-- QEP_DCTL. -/
def QEP_DCTL (p : Nat) : RegAddr := ⟨.qe, 0, p + 1, 0x14C⟩
/-- QEP_DFLIGHT. -/
def QEP_DFLIGHT (p : Nat) : RegAddr := ⟨.qe, 0, p + 1, 0x150⟩
/-- QEP_DSTAT. -/
def QEP_DSTAT (p : Nat) : RegAddr := ⟨.qe, 0, p + 1, 0x154⟩
/-- QEP_DABORT. -/
def QEP_DABORT (p : Nat) : RegAddr := ⟨.qe, 0, p + 1, 0x158⟩
/-! Host port page 0, Table 16.6. -/
/-- HPA_CTL. -/
def HPA_CTL : RegAddr := ⟨.hpa, 0, 0, 0x100⟩
/-- HPA_STATUS. -/
def HPA_STATUS : RegAddr := ⟨.hpa, 0, 0, 0x104⟩
/-- HPA_FMAP. -/
def HPA_FMAP (f : Nat) : RegAddr := ⟨.hpa, 0, 0, 0x140 + 0x4 * f⟩
/-- HPA_IWIN. -/
def HPA_IWIN (f : Nat) : RegAddr := ⟨.hpa, 0, 0, 0x200 + 0x8 * f⟩
/-- HPA_OWIN. -/
def HPA_OWIN (w : Nat) : RegAddr := ⟨.hpa, 0, 0, 0x400 + 0x8 * w⟩
/-- HPA_VMAP. -/
def HPA_VMAP (i : Nat) : RegAddr := ⟨.hpa, 0, 0, 0x800 + 0x4 * i⟩
/-! Semaphore page, Table 16.7. -/
/-- HPAS_HSEM. -/
def HPAS_HSEM (i : Nat) : RegAddr := ⟨.hpa, 0, 1, 0x100 + 0x4 * i⟩
/-- HPAS_OWN. -/
def HPAS_OWN (w : Nat) : RegAddr := ⟨.hpa, 0, 1, 0x500 + 0x4 * w⟩
/-- HPAS_TIE. -/
def HPAS_TIE : RegAddr := ⟨.hpa, 0, 1, 0x600⟩
/-! Host port page 0, Table 16.6. -/
/-- HPB_CTL. -/
def HPB_CTL : RegAddr := ⟨.hpb, 0, 0, 0x100⟩
/-- HPB_STATUS. -/
def HPB_STATUS : RegAddr := ⟨.hpb, 0, 0, 0x104⟩
/-- HPB_FMAP. -/
def HPB_FMAP (f : Nat) : RegAddr := ⟨.hpb, 0, 0, 0x140 + 0x4 * f⟩
/-- HPB_IWIN. -/
def HPB_IWIN (f : Nat) : RegAddr := ⟨.hpb, 0, 0, 0x200 + 0x8 * f⟩
/-- HPB_OWIN. -/
def HPB_OWIN (w : Nat) : RegAddr := ⟨.hpb, 0, 0, 0x400 + 0x8 * w⟩
/-- HPB_VMAP. -/
def HPB_VMAP (i : Nat) : RegAddr := ⟨.hpb, 0, 0, 0x800 + 0x4 * i⟩
/-! Semaphore page, Table 16.7. -/
/-- HPBS_HSEM. -/
def HPBS_HSEM (i : Nat) : RegAddr := ⟨.hpb, 0, 1, 0x100 + 0x4 * i⟩
/-- HPBS_OWN. -/
def HPBS_OWN (w : Nat) : RegAddr := ⟨.hpb, 0, 1, 0x500 + 0x4 * w⟩
/-- HPBS_TIE. -/
def HPBS_TIE : RegAddr := ⟨.hpb, 0, 1, 0x600⟩
/-! Ethernet page 0, Table 16.8. -/
/-- ETH_CTL. -/
def ETH_CTL (e : Nat) : RegAddr := ⟨.eth, e, 0, 0x100⟩
/-- ETH_STATUS. -/
def ETH_STATUS (e : Nat) : RegAddr := ⟨.eth, e, 0, 0x104⟩
/-- ETH_TXRING. -/
def ETH_TXRING (e t : Nat) : RegAddr := ⟨.eth, e, 0, 0x110 + 0x4 * t⟩
/-- ETH_TXCPL. -/
def ETH_TXCPL (e : Nat) : RegAddr := ⟨.eth, e, 0, 0x130⟩
/-- ETH_RXFREE. -/
def ETH_RXFREE (e : Nat) : RegAddr := ⟨.eth, e, 0, 0x134⟩
/-- ETH_RXRING. -/
def ETH_RXRING (e k : Nat) : RegAddr := ⟨.eth, e, 0, 0x138 + 0x4 * k⟩
/-- ETH_RXMAP. -/
def ETH_RXMAP (e : Nat) : RegAddr := ⟨.eth, e, 0, 0x148⟩
/-- ETH_RXDROP. -/
def ETH_RXDROP (e : Nat) : RegAddr := ⟨.eth, e, 0, 0x14C⟩
/-- ETH_PTP_T. -/
def ETH_PTP_T (e : Nat) : RegAddr := ⟨.eth, e, 0, 0x150⟩
/-- ETH_PTP_RATE. -/
def ETH_PTP_RATE (e : Nat) : RegAddr := ⟨.eth, e, 0, 0x158⟩
/-- ETH_PTP_STEP. -/
def ETH_PTP_STEP (e : Nat) : RegAddr := ⟨.eth, e, 0, 0x160⟩
/-- ETH_PTP_CTL. -/
def ETH_PTP_CTL (e : Nat) : RegAddr := ⟨.eth, e, 0, 0x168⟩
/-- ETH_GCL_BASE. -/
def ETH_GCL_BASE (e : Nat) : RegAddr := ⟨.eth, e, 0, 0x170⟩
/-- ETH_GCL_CYCLE. -/
def ETH_GCL_CYCLE (e : Nat) : RegAddr := ⟨.eth, e, 0, 0x178⟩
/-- ETH_GCL_CTL. -/
def ETH_GCL_CTL (e : Nat) : RegAddr := ⟨.eth, e, 0, 0x17C⟩
/-- ETH_CBS. -/
def ETH_CBS (e t : Nat) : RegAddr := ⟨.eth, e, 0, 0x180 + 0x4 * t⟩
/-! FRER page, Table 16.11. -/
/-- FRER_GEN. -/
def FRER_GEN (g : Nat) : RegAddr := ⟨.eth, 0, 3, 0x100 + 0x4 * g⟩
/-- FRER_MATCH. -/
def FRER_MATCH (r : Nat) : RegAddr := ⟨.eth, 0, 3, 0x200 + 0x20 * r⟩
/-- FRER_CFG. -/
def FRER_CFG (r : Nat) : RegAddr := ⟨.eth, 0, 3, 0x208 + 0x20 * r⟩
/-- FRER_PASSED. -/
def FRER_PASSED (r : Nat) : RegAddr := ⟨.eth, 0, 3, 0x20C + 0x20 * r⟩
/-- FRER_DISCARDED. -/
def FRER_DISCARDED (r : Nat) : RegAddr := ⟨.eth, 0, 3, 0x210 + 0x20 * r⟩
/-- FRER_ROGUE. -/
def FRER_ROGUE (r : Nat) : RegAddr := ⟨.eth, 0, 3, 0x214 + 0x20 * r⟩
/-- FRER_RESETS. -/
def FRER_RESETS (r : Nat) : RegAddr := ⟨.eth, 0, 3, 0x218 + 0x20 * r⟩
/-! CAN FD, Table 16.9. -/
/-- CANF_CTL. -/
def CANF_CTL (k : Nat) : RegAddr := ⟨.canf, k, 0, 0x100⟩
/-- CANF_NBT. -/
def CANF_NBT (k : Nat) : RegAddr := ⟨.canf, k, 0, 0x104⟩
/-- CANF_DBT. -/
def CANF_DBT (k : Nat) : RegAddr := ⟨.canf, k, 0, 0x108⟩
/-- CANF_TDC. -/
def CANF_TDC (k : Nat) : RegAddr := ⟨.canf, k, 0, 0x10C⟩
/-- CANF_RING. -/
def CANF_RING (k : Nat) : RegAddr := ⟨.canf, k, 0, 0x110⟩
/-- CANF_ERR. -/
def CANF_ERR (k : Nat) : RegAddr := ⟨.canf, k, 0, 0x114⟩
/-- CANF_FILT. -/
def CANF_FILT (k j : Nat) : RegAddr := ⟨.canf, k, 0, 0x200 + 0x8 * j⟩
/-! MVB, Table 16.9. -/
/-- MVB_CTL. -/
def MVB_CTL (k : Nat) : RegAddr := ⟨.mvb, k, 0, 0x100⟩
/-- MVB_STATUS. -/
def MVB_STATUS (k : Nat) : RegAddr := ⟨.mvb, k, 0, 0x104⟩
/-! Serial, Table 16.9. -/
/-- SER_CTL. -/
def SER_CTL (k : Nat) : RegAddr := ⟨.ser, k, 0, 0x100⟩
/-- SER_RATE. -/
def SER_RATE (k : Nat) : RegAddr := ⟨.ser, k, 0, 0x104⟩
/-- SER_RING. -/
def SER_RING (k : Nat) : RegAddr := ⟨.ser, k, 0, 0x108⟩
/-! GPIO pages, Table 16.10. -/
/-- GPIO_PIN. -/
def GPIO_PIN (q : Nat) : RegAddr := ⟨.gpio, 0, q / 16, 0x100 + 0x4 * (q % 16)⟩
/-- GPIO_STAMP. -/
def GPIO_STAMP (q : Nat) : RegAddr := ⟨.gpio, 0, q / 16, 0x140 + 0x8 * (q % 16)⟩
/-! Periscope page 0, Table 17.5. -/
/-- PSL_CTL. -/
def PSL_CTL : RegAddr := ⟨.psl, 0, 0, 0x100⟩
/-- PSL_STATUS. -/
def PSL_STATUS : RegAddr := ⟨.psl, 0, 0, 0x104⟩
/-- PSL_UNREACH. -/
def PSL_UNREACH : RegAddr := ⟨.psl, 0, 0, 0x108⟩
/-- PSL_DUP. -/
def PSL_DUP : RegAddr := ⟨.psl, 0, 0, 0x10C⟩
/-- PSL_MIRERR. -/
def PSL_MIRERR : RegAddr := ⟨.psl, 0, 0, 0x110⟩
/-- PSL_TBTX. -/
def PSL_TBTX (i : Nat) : RegAddr := ⟨.psl, 0, 0, 0x180 + 0x4 * i⟩
/-- PSL_TBRX. -/
def PSL_TBRX (i : Nat) : RegAddr := ⟨.psl, 0, 0, 0x1C0 + 0x4 * i⟩
/-- PSL_TXRING. -/
def PSL_TXRING (k : Nat) : RegAddr := ⟨.psl, 0, 0, 0x200 + 0x4 * k⟩
/-- PSL_RXCH. -/
def PSL_RXCH (c : Nat) : RegAddr := ⟨.psl, 0, 0, 0x300 + 0x4 * c⟩
/-! Periscope ports, Table 17.6. -/
/-- PSLP_CTL. -/
def PSLP_CTL (x : Nat) : RegAddr := ⟨.psl, 0, x + 1, 0x100⟩
/-- PSLP_STATUS. -/
def PSLP_STATUS (x : Nat) : RegAddr := ⟨.psl, 0, x + 1, 0x104⟩
/-- PSLP_ASYM. -/
def PSLP_ASYM (x : Nat) : RegAddr := ⟨.psl, 0, x + 1, 0x108⟩
/-- PSLP_DELAY. -/
def PSLP_DELAY (x : Nat) : RegAddr := ⟨.psl, 0, x + 1, 0x10C⟩
/-- PSLP_NBR_SERIAL. -/
def PSLP_NBR_SERIAL (x : Nat) : RegAddr := ⟨.psl, 0, x + 1, 0x110⟩
/-- PSLP_CORR. -/
def PSLP_CORR (x : Nat) : RegAddr := ⟨.psl, 0, x + 1, 0x118⟩
/-- PSLP_REPLAY. -/
def PSLP_REPLAY (x : Nat) : RegAddr := ⟨.psl, 0, x + 1, 0x11C⟩
/-- PSLP_UNCORR. -/
def PSLP_UNCORR (x : Nat) : RegAddr := ⟨.psl, 0, x + 1, 0x120⟩
/-! Power manager, Table 18.9. -/
/-- PWR_ENVELOPE. -/
def PWR_ENVELOPE : RegAddr := ⟨.pwr, 0, 0, 0x100⟩
/-- PWR_EMISSION. -/
def PWR_EMISSION : RegAddr := ⟨.pwr, 0, 0, 0x104⟩
/-- PWR_CTL. -/
def PWR_CTL : RegAddr := ⟨.pwr, 0, 0, 0x108⟩
/-- PWR_STATUS. -/
def PWR_STATUS : RegAddr := ⟨.pwr, 0, 0, 0x10C⟩
/-- PWR_DOMCMD. -/
def PWR_DOMCMD : RegAddr := ⟨.pwr, 0, 0, 0x110⟩
/-- PWR_DOMSTAT. -/
def PWR_DOMSTAT : RegAddr := ⟨.pwr, 0, 0, 0x114⟩
/-- PWR_DOMON. -/
def PWR_DOMON : RegAddr := ⟨.pwr, 0, 0, 0x118⟩
/-- PWR_PFSHED. -/
def PWR_PFSHED : RegAddr := ⟨.pwr, 0, 0, 0x120⟩
/-- PWR_POWER. -/
def PWR_POWER : RegAddr := ⟨.pwr, 0, 0, 0x128⟩
/-- PWR_RSTCAUSE. -/
def PWR_RSTCAUSE : RegAddr := ⟨.pwr, 0, 0, 0x12C⟩
/-- PWR_CLK. -/
def PWR_CLK (d : Nat) : RegAddr := ⟨.pwr, 0, 0, 0x140 + 0x4 * d⟩
/-! Hold-up monitor, Table 18.10. -/
/-- HUP_CTL. -/
def HUP_CTL : RegAddr := ⟨.hup, 0, 0, 0x100⟩
/-- HUP_CAP. -/
def HUP_CAP : RegAddr := ⟨.hup, 0, 0, 0x104⟩
/-- HUP_DIV. -/
def HUP_DIV : RegAddr := ⟨.hup, 0, 0, 0x108⟩
/-- HUP_VMIN. -/
def HUP_VMIN : RegAddr := ⟨.hup, 0, 0, 0x10C⟩
/-- HUP_EFF. -/
def HUP_EFF : RegAddr := ⟨.hup, 0, 0, 0x110⟩
/-- HUP_EFIX. -/
def HUP_EFIX : RegAddr := ⟨.hup, 0, 0, 0x114⟩
/-- HUP_EBYTE. -/
def HUP_EBYTE : RegAddr := ⟨.hup, 0, 0, 0x118⟩
/-- HUP_MARGIN. -/
def HUP_MARGIN : RegAddr := ⟨.hup, 0, 0, 0x11C⟩
/-- HUP_VWARN. -/
def HUP_VWARN : RegAddr := ⟨.hup, 0, 0, 0x120⟩
/-- HUP_VHYST. -/
def HUP_VHYST : RegAddr := ⟨.hup, 0, 0, 0x124⟩
/-- HUP_V. -/
def HUP_V : RegAddr := ⟨.hup, 0, 0, 0x128⟩
/-- HUP_EAVAIL. -/
def HUP_EAVAIL : RegAddr := ⟨.hup, 0, 0, 0x12C⟩
/-- HUP_STATUS. -/
def HUP_STATUS : RegAddr := ⟨.hup, 0, 0, 0x130⟩
/-! Journal engine, Table 18.11. -/
/-- JRN_CTL. -/
def JRN_CTL : RegAddr := ⟨.jrn, 0, 0, 0x100⟩
/-- JRN_REQRING. -/
def JRN_REQRING : RegAddr := ⟨.jrn, 0, 0, 0x104⟩
/-- JRN_CPLRING. -/
def JRN_CPLRING : RegAddr := ⟨.jrn, 0, 0, 0x108⟩
/-- JRN_STATUS. -/
def JRN_STATUS : RegAddr := ⟨.jrn, 0, 0, 0x10C⟩
/-- JRN_SEQ. -/
def JRN_SEQ : RegAddr := ⟨.jrn, 0, 0, 0x110⟩
/-- JRN_WPTR. -/
def JRN_WPTR : RegAddr := ⟨.jrn, 0, 0, 0x118⟩
/-- JRN_TAIL. -/
def JRN_TAIL : RegAddr := ⟨.jrn, 0, 0, 0x11C⟩
/-- JRN_REFUSED. -/
def JRN_REFUSED : RegAddr := ⟨.jrn, 0, 0, 0x120⟩
/-- JRN_NVME_SQ. -/
def JRN_NVME_SQ : RegAddr := ⟨.jrn, 0, 0, 0x128⟩
/-- JRN_NVME_CQ. -/
def JRN_NVME_CQ : RegAddr := ⟨.jrn, 0, 0, 0x130⟩
/-- JRN_NVME_Q. -/
def JRN_NVME_Q : RegAddr := ⟨.jrn, 0, 0, 0x138⟩
/-- JRN_NVME_NSID. -/
def JRN_NVME_NSID : RegAddr := ⟨.jrn, 0, 0, 0x13C⟩
/-- JRN_NVME_DB. -/
def JRN_NVME_DB : RegAddr := ⟨.jrn, 0, 0, 0x140⟩
/-- JRN_NVME_LBA. -/
def JRN_NVME_LBA : RegAddr := ⟨.jrn, 0, 0, 0x148⟩
/-- JRN_NVME_NLB. -/
def JRN_NVME_NLB : RegAddr := ⟨.jrn, 0, 0, 0x150⟩
/-! Boot and security engine page 0, Table 19.7. -/
/-- BSE_CMD. -/
def BSE_CMD : RegAddr := ⟨.bse, 0, 0, 0x100⟩
/-- BSE_STATUS. -/
def BSE_STATUS : RegAddr := ⟨.bse, 0, 0, 0x104⟩
/-- BSE_SRC. -/
def BSE_SRC : RegAddr := ⟨.bse, 0, 0, 0x108⟩
/-- BSE_ARG. -/
def BSE_ARG : RegAddr := ⟨.bse, 0, 0, 0x110⟩
/-- BSE_HASH. -/
def BSE_HASH : RegAddr := ⟨.bse, 0, 0, 0x118⟩
/-- BSE_CORES. -/
def BSE_CORES (i : Nat) : RegAddr := ⟨.bse, 0, 0, 0x120 + 0x4 * i⟩
/-- BSE_SKIP. -/
def BSE_SKIP (i : Nat) : RegAddr := ⟨.bse, 0, 0, 0x160 + 0x4 * i⟩
/-- BSE_RCV_CTL. -/
def BSE_RCV_CTL : RegAddr := ⟨.bse, 0, 0, 0x1A0⟩
/-- BSE_RCV_STATUS. -/
def BSE_RCV_STATUS : RegAddr := ⟨.bse, 0, 0, 0x1A4⟩
/-! Boot and security engine partition pages, Table 19.10. -/
/-- BSEP_CMD. -/
def BSEP_CMD (p : Nat) : RegAddr := ⟨.bse, 0, p + 1, 0x100⟩
/-- BSEP_STATUS. -/
def BSEP_STATUS (p : Nat) : RegAddr := ⟨.bse, 0, p + 1, 0x104⟩
/-- BSEP_SRC. -/
def BSEP_SRC (p : Nat) : RegAddr := ⟨.bse, 0, p + 1, 0x108⟩
/-- BSEP_DST. -/
def BSEP_DST (p : Nat) : RegAddr := ⟨.bse, 0, p + 1, 0x110⟩
/-- BSEP_MEAS. -/
def BSEP_MEAS (p : Nat) : RegAddr := ⟨.bse, 0, p + 1, 0x118⟩
/-- BSEP_PSRC. -/
def BSEP_PSRC (p : Nat) : RegAddr := ⟨.bse, 0, p + 1, 0x120⟩
/-- BSEP_NONCE. -/
def BSEP_NONCE (p i : Nat) : RegAddr := ⟨.bse, 0, p + 1, 0x140 + 0x8 * i⟩
/-! Debug page 0, Table 20.8. -/
/-- DBG_CTL. -/
def DBG_CTL : RegAddr := ⟨.dbg, 0, 0, 0x100⟩
/-- DBG_STATUS. -/
def DBG_STATUS : RegAddr := ⟨.dbg, 0, 0, 0x104⟩
/-- DBG_MONVEC. -/
def DBG_MONVEC : RegAddr := ⟨.dbg, 0, 0, 0x108⟩
/-- DBG_GFREEZE. -/
def DBG_GFREEZE : RegAddr := ⟨.dbg, 0, 0, 0x110⟩
/-- DBG_SNAPTIME. -/
def DBG_SNAPTIME : RegAddr := ⟨.dbg, 0, 0, 0x118⟩
/-- DBG_SNAPSEQ. -/
def DBG_SNAPSEQ : RegAddr := ⟨.dbg, 0, 0, 0x120⟩
/-- DBG_REVOKE. -/
def DBG_REVOKE : RegAddr := ⟨.dbg, 0, 0, 0x124⟩
/-! Debug partition pages, Table 20.9. -/
/-- DBGP_CTL. -/
def DBGP_CTL (p : Nat) : RegAddr := ⟨.dbg, 0, p + 1, 0x100⟩
/-- DBGP_STATUS. -/
def DBGP_STATUS (p : Nat) : RegAddr := ⟨.dbg, 0, p + 1, 0x104⟩
/-- DBGP_KEYS. -/
def DBGP_KEYS (p : Nat) : RegAddr := ⟨.dbg, 0, p + 1, 0x108⟩
/-- DBGP_GRANT. -/
def DBGP_GRANT (p : Nat) : RegAddr := ⟨.dbg, 0, p + 1, 0x110⟩
/-- DBGP_WDPERIOD. -/
def DBGP_WDPERIOD (p : Nat) : RegAddr := ⟨.dbg, 0, p + 1, 0x118⟩
/-- DBGP_WDSVC. -/
def DBGP_WDSVC (p : Nat) : RegAddr := ⟨.dbg, 0, p + 1, 0x11C⟩
/-- DBGP_WDLEFT. -/
def DBGP_WDLEFT (p : Nat) : RegAddr := ⟨.dbg, 0, p + 1, 0x120⟩
/-- DBGP_WDSRC. -/
def DBGP_WDSRC (p : Nat) : RegAddr := ⟨.dbg, 0, p + 1, 0x124⟩
/-- DBGP_WDSTAT. -/
def DBGP_WDSTAT (p : Nat) : RegAddr := ⟨.dbg, 0, p + 1, 0x128⟩
/-- DBGP_VADDR. -/
def DBGP_VADDR (p : Nat) : RegAddr := ⟨.dbg, 0, p + 1, 0x130⟩
/-- DBGP_VDATA. -/
def DBGP_VDATA (p : Nat) : RegAddr := ⟨.dbg, 0, p + 1, 0x138⟩
/-- DBGP_PSRC. -/
def DBGP_PSRC (p : Nat) : RegAddr := ⟨.dbg, 0, p + 1, 0x140⟩
/-! Lens page 0, Table 20.11. -/
/-- LNS_PORTCTL. -/
def LNS_PORTCTL : RegAddr := ⟨.lns, 0, 0, 0x100⟩
/-- LNS_PORTMASK. -/
def LNS_PORTMASK : RegAddr := ⟨.lns, 0, 0, 0x108⟩
/-- LNS_LOST0. -/
def LNS_LOST0 : RegAddr := ⟨.lns, 0, 0, 0x110⟩
/-- LNS_PORTBLK. -/
def LNS_PORTBLK : RegAddr := ⟨.lns, 0, 0, 0x114⟩
/-- LNS_SEG. -/
def LNS_SEG (k : Nat) : RegAddr := ⟨.lns, 0, 0, 0x200 + 0x4 * k⟩
/-! Lens partition pages, Table 20.11. -/
/-- LNSP_CTL. -/
def LNSP_CTL (p : Nat) : RegAddr := ⟨.lns, 0, p + 1, 0x100⟩
/-- LNSP_STATUS. -/
def LNSP_STATUS (p : Nat) : RegAddr := ⟨.lns, 0, p + 1, 0x104⟩
/-- LNSP_PRIV. -/
def LNSP_PRIV (p : Nat) : RegAddr := ⟨.lns, 0, p + 1, 0x108⟩
/-- LNSP_CORES. -/
def LNSP_CORES (p i : Nat) : RegAddr := ⟨.lns, 0, p + 1, 0x120 + 0x4 * i⟩
/-- LNSP_DBASE. -/
def LNSP_DBASE (p : Nat) : RegAddr := ⟨.lns, 0, p + 1, 0x160⟩
/-- LNSP_WPTR. -/
def LNSP_WPTR (p : Nat) : RegAddr := ⟨.lns, 0, p + 1, 0x168⟩
/-- LNSP_DLO. -/
def LNSP_DLO (p : Nat) : RegAddr := ⟨.lns, 0, p + 1, 0x170⟩
/-- LNSP_DHI. -/
def LNSP_DHI (p : Nat) : RegAddr := ⟨.lns, 0, p + 1, 0x178⟩
/-- LNSP_STAMPTB. -/
def LNSP_STAMPTB (p : Nat) : RegAddr := ⟨.lns, 0, p + 1, 0x180⟩
/-- LNSP_TRIG. -/
def LNSP_TRIG (p i : Nat) : RegAddr := ⟨.lns, 0, p + 1, 0x1A0 + 0x10 * i⟩
/-- LNSP_TRIGARG. -/
def LNSP_TRIGARG (p i : Nat) : RegAddr := ⟨.lns, 0, p + 1, 0x1A8 + 0x10 * i⟩
/-- LNSP_POST. -/
def LNSP_POST (p : Nat) : RegAddr := ⟨.lns, 0, p + 1, 0x1E0⟩
/-- LNSP_POSTCTL. -/
def LNSP_POSTCTL (p : Nat) : RegAddr := ⟨.lns, 0, p + 1, 0x1E8⟩
/-- LNSP_DROP. -/
def LNSP_DROP (p k : Nat) : RegAddr := ⟨.lns, 0, p + 1, 0x1F0 + 0x4 * k⟩
/-- LNSP_RDADDR. -/
def LNSP_RDADDR (p : Nat) : RegAddr := ⟨.lns, 0, p + 1, 0x200⟩
/-- LNSP_RDDATA. -/
def LNSP_RDDATA (p : Nat) : RegAddr := ⟨.lns, 0, p + 1, 0x208⟩
/-- LNSP_PSRC. -/
def LNSP_PSRC (p : Nat) : RegAddr := ⟨.lns, 0, p + 1, 0x210⟩

end Reg

end Sys2Proof.Machine
end

