-- ==== Sys2Proof/Machine/State.lean ====
section
/-! DEFINITION. The state of the package as plain data, the reasons a step can stop, and the state after reset. -/

namespace Sys2Proof.Machine

/-! ## Package and pages (01, 02) -/

/-- Speed grade (R1). -/
inductive Grade where
  | g24 | g20
  deriving DecidableEq, Repr

/-- The shipped part (R2): number of populated Facet dies and speed grade. -/
structure PartNo where
  facets : Nat
  grade : Grade
  deriving DecidableEq, Repr

/-- What the bus answered to the last access a command made. MODEL's own field: the value or the error a reader sees. -/
inductive Resp where
  | none
  | ok (v : Word)
  | err (code : Nat)
  | bytes (l : List Byte)
  deriving DecidableEq, Repr

/-- One error-log record before its SEQ and CRC (Table 2.15). -/
structure ErrRec where
  kind : Nat
  code : Nat
  site : Nat
  ty : Nat
  time : Nat
  inst : Nat
  part : Nat
  source : Nat
  initiator : Nat
  addr : Nat
  pc : Nat
  detail : List Byte
  deriving DecidableEq, Repr

/-- The error log (R46): causes staged, the written ring by slot with its SEQ, entries awaiting their DRAM copy. -/
structure ErrLog where
  staging : List ErrRec
  ring : Tbl (Nat × ErrRec)
  toCopy : List (Nat × ErrRec)
  deriving DecidableEq, Repr

/-! ## Time bases, compares, encoders (03) -/

/-- STATE codes of Table 3.14. -/
inductive TbState where
  | unlocked | tracking | holdover | failed
  deriving DecidableEq, Repr

/-- A tick that arrived in the present nanosecond: value in units of 2^-48 cycle, its time, its direction (encoder). -/
structure Tick where
  v : Int
  t : Nat
  rev : Bool
  deriving DecidableEq, Repr

/-- A phase change commanded in the present nanosecond, applied after its tick (R63): SET, STEP, or the snap to a phase
fraction of R59. -/
inductive PhaseWrite where
  | set (v : Word)
  | step (v : Word)
  | index (frac : Nat)
  deriving DecidableEq, Repr

/-- The fields of a time base that a write changes at the next tick (R93): TIMEOUT in ns, HOLD in µs, GROWTH, the index fraction, ERR_FAIL. -/
structure TbForce where
  timeout : Nat
  hold : Nat
  growth : Nat
  index : Nat
  errFail : Bool
  deriving DecidableEq, Repr

/-- One time base (R60). `acc` is the accumulator in units of 2^-48 cycle, signed, wrapping at 80 bits, `prev` the phase one nanosecond ago; `vLast`, `tLast` and
`lastRev` describe the last tick and `paired` says that it came in the present state; `count` is the edge number, `offset` the
shift between tick values and phase; `entered` is REFTIME of the entry into the present state and `grown` the microseconds
for which UNC has grown since, `force` the fields in force. -/
structure TimeBase where
  acc : Int
  prev : Word
  rate : Int
  vLast : Int
  tLast : Nat
  paired : Bool
  lastRev : Bool
  limit : Int
  restart : Bool
  rev : Bool
  st : TbState
  standstill : Bool
  stepExcess : Bool
  unc : Nat
  entered : Nat
  grown : Nat
  count : Int
  offset : Int
  tick : Option Tick
  writes : List PhaseWrite
  force : TbForce
  deriving DecidableEq, Repr

/-- One encoder ball: raw and accepted level, REFTIME of the last raw transition, and of the transition that a filtered
level will carry (R58). -/
structure EncPin where
  raw : Bool
  acc : Bool
  since : Nat
  first : Option Nat
  deriving DecidableEq, Repr

/-- One encoder input; `zRise` says that an accepted rising edge of Z awaits its index action (R59). -/
structure Encoder where
  a : EncPin
  b : EncPin
  z : EncPin
  zRise : Bool
  deriving DecidableEq, Repr

/-- Direction of a crossing. -/
inductive Cross where
  | rising | falling
  deriving DecidableEq, Repr

/-- Hidden state of a compare: armed in effect, REFTIME of an ARM write not yet in effect, a disarm pending (R75), a
re-fire owed with its direction (R76). -/
structure CmpSt where
  armed : Bool
  armAt : Option Nat
  disarm : Bool
  refire : Option Cross
  deriving DecidableEq, Repr

/-- A fire on its way to its action (R74), with the control and argument words that it found (R77). -/
structure Fire where
  m : Nat
  late : Bool
  time : Nat
  phase : Word
  target : Word
  tb : Nat
  ctl : Word
  arg : Word
  phases : List Word
  deriving DecidableEq, Repr

/-! ## Gate patterns and sigma-delta inputs (03) -/

/-- A running segment (R84): SRAM address of the current entry, start phase per time base, start time, directions of the time bases at the start,
whether the current entry's time had already passed when it was reached, and whether its phase has been reached by a change that is tested or lay
behind then. -/
structure Seg where
  next : Nat
  phase0 : List Word
  time0 : Nat
  revs : List Bool
  passed : Bool
  hit : Bool
  deriving DecidableEq, Repr

/-- One GPE output: state, REFTIME of the last turn-on and turn-off, and the commanded level waiting for DT or MINPW. -/
structure GpeOut where
  on : Bool
  onAt : Nat
  offAt : Nat
  want : Bool
  deriving DecidableEq, Repr

/-- One GPE group: the running segment, the outputs, the STREAM read and write pointers (slots within the window) and the number of
refilled slots ahead of the read pointer, the fetched refill entries not yet in the SRAM. -/
structure Gpe where
  seg : Option Seg
  outs : List GpeOut
  rptr : Nat
  wptr : Nat
  filled : Nat
  staging : List (List Byte)
  deriving DecidableEq, Repr

/-- A segment start that a compare action ordered. -/
structure SegReq where
  g : Nat
  addr : Nat
  phase0 : Word
  time0 : Nat
  deriving DecidableEq, Repr

/-- A snapshot that a compare action ordered. -/
structure SnapReq where
  set : Nat
  tb : Nat
  late : Bool
  phase : Word
  time : Nat
  deriving DecidableEq, Repr

/-- One sigma-delta channel: bits received for the two filters (newest first), consecutive outputs beyond a threshold,
and the sinc3 outputs with the REFTIME at which they completed (newest first). -/
structure SdmCh where
  hist3 : List Bool
  hist2 : List Bool
  beyond : Nat
  outs : List (Nat × Int)
  deriving DecidableEq, Repr

/-- Hidden state of a snapshot record in the staging buffer (R92). -/
structure SnapRec where
  set : Nat
  bytes : List Byte
  deriving DecidableEq, Repr

/-- The TBU, GPE and SDM. -/
structure Fio where
  tbs : List TimeBase
  encs : List Encoder
  cmps : Tbl CmpSt
  fires : List Fire
  slipCnt : List Nat
  slideCnt : List Nat
  sram : Tbl (BitVec 128)
  gpes : List Gpe
  segReq : List SegReq
  sdm : List SdmCh
  snapReq : List SnapReq
  snapStage : List SnapRec
  deriving DecidableEq, Repr

/-! ## Event router (04) -/

/-- One event: what Table 4.3 and Table 4.4 carry. A local event has `loc` set and `src` holds [9:3] cause, [2:0] argument. -/
structure EvRec where
  src : Nat
  level : Nat
  mode : Nat
  late : Bool
  stamped : Bool
  ovr : Bool
  half : Bool
  loc : Bool
  count : Nat
  phase : Word
  time : Nat
  deriving DecidableEq, Repr

/-- An assertion between its source instant and the EVR input (R96), with every time base's phase sampled at the instant (R82). -/
structure Arrival where
  src : Nat
  late : Bool
  phases : List Word
  time : Nat
  deriving DecidableEq, Repr

/-- One event source: configuration, event waiting in the EVR with the nanosecond in which it became waiting and the halves of a
pair event already sent (bit 0 channel A, bit 1 channel B), number of its events in service, ORPHAN, OVR, level of a software
source; in count mode, the assertions that arrived behind the waiting event in one nanosecond, with that nanosecond (R104). -/
structure Src where
  cfg : Word
  waiting : Option EvRec
  waitAt : Nat
  sent : Nat
  inService : Nat
  orphan : Bool
  ovr : Nat
  swLevel : Bool
  fresh : Option (Nat × EvRec)
  deriving DecidableEq, Repr

/-- One pool (R106, R107): member mask, FIFO, core chosen last, whether the next event delivered carries OVR, POOLOVF. -/
structure Pool where
  mask : Nat
  fifo : List EvRec
  last : Nat
  ovrNext : Bool
  ovf : Nat
  deriving DecidableEq, Repr

/-- The event router. `queue` holds the sources with a waiting event in the order in which they became waiting; `flight`
the events sent toward a core and not yet arrived. -/
structure Evr where
  srcs : Tbl Src
  pools : Tbl Pool
  queue : List Nat
  arrivals : List Arrival
  flight : List (Nat × EvRec)
  deriving DecidableEq, Repr

/-! ## Cores (04 to 10) -/

/-- State of a bank (R110, R111). -/
inductive BankSt where
  | active | parked | disabled
  deriving DecidableEq, Repr

/-- A pending imprecise exception of a bank (R229, R230): an arithmetic one with its flags, excepting PC and the number of
instructions it may still wait, or a store's error response. -/
inductive Imprecise where
  | arith (sub : Nat) (pc : Word) (left : Nat)
  | store (addr : Word) (sub : Nat) (pc : Word)
  deriving DecidableEq, Repr

/-- A return stack (R142): sixteen entries in a ring, the entry pushed last, how many are held. -/
structure Ras where
  ent : List Word
  ptr : Nat
  depth : Nat
  deriving DecidableEq, Repr

/-- A checkpoint (R143) of a transfer that PD passed on a prediction: its PC, the PC it was predicted to go on at, GHR, and the return
stack's pointer, depth and top entry. -/
structure Ckpt where
  pc : Word
  next : Word
  ghr : BitVec 12
  ptr : Nat
  depth : Nat
  top : Word
  deriving DecidableEq, Repr

/-- One register bank (Table 6.1) with its hidden frame bases and privileges (R159), resume PC, mode writes still in shadow
(R146: countdown, special register, value), budget timer, translation roots in force and whether the bank's own write of one awaits its
IFENCE (R277), the committed global history and return stack, their speculative copies and the checkpoints in use (R141 to R144). -/
structure Bank where
  st : BankSt
  pc : Word
  g : List Word
  win : List Word
  sp : List Word
  slim : List Word
  preds : BitVec 8
  xag : List Word
  yag : List Word
  lstart : List Word
  lend : List Word
  lcount : List Nat
  status : Word
  cwp : Nat
  wres : Nat
  tw : Bool
  depth : Nat
  wfb : Word
  xsave : Word
  fb : List Word
  fpriv : List Nat
  shadow : List (Nat × Nat × Word)
  imprecise : List Imprecise
  budget : Nat
  budgetOn : Bool
  serving : Option Nat
  gtb : Word
  ptb : Word
  gtbWait : Bool
  ptbWait : Bool
  ghr : BitVec 12
  ras : Ras
  sghr : BitVec 12
  sras : Ras
  ckpts : List Ckpt
  deriving DecidableEq, Repr

/-- One TLB entry: partition, ASN, global, page number at its size of `bits`, physical page at that size, and for each stage its
permissions ([0] R, [1] W, [2] X, [3] U, [4] stage disabled), attribute and leaf level; the bank for which an instruction entry is
locked (R268, R269); whether it is a partition-stage entry. -/
structure TlbE where
  part : Nat
  asn : Nat
  glob : Bool
  vpn : Nat
  bits : Nat
  ppn : Nat
  gperm : Nat
  gattr : Nat
  glevel : Nat
  pperm : Nat
  pattr : Nat
  plevel : Nat
  pstage : Bool
  lock : Option Nat
  deriving DecidableEq, Repr

/-- A BTB entry (R139). -/
structure BtbE where
  ctx : Nat
  tag : Nat
  off : Nat
  kind : Nat
  target : Word
  deriving DecidableEq, Repr

/-- A debug event (Table 20.4 reasons by bit). -/
abbrev DbgReason := Nat

/-- What a Prism command does (R206). -/
inductive PrismOp where
  | fft (log2n : Nat) (inv q31 scale brev : Bool)
  | filt (iir q31 : Bool)
  | mat (accum : Bool)
  deriving DecidableEq, Repr

/-- A Prism command issued: the parameters and STATUS.RND it captured (R205), and REFTIME of its issue. -/
structure PrismCmd where
  op : PrismOp
  prm : List Word
  rnd : Nat
  since : Nat
  deriving DecidableEq, Repr

/-- An L1I line: its number, its bytes as they were when it was filled, whether it is locked, whether it still holds or was invalidated in
a locked way (R273). -/
structure L1iE where
  line : Nat
  data : List Byte
  locked : Bool
  valid : Bool
  deriving DecidableEq, Repr

/-- A latched local event (R121): the level it is latched for, its argument, its source instant. -/
structure Latch where
  level : Nat
  arg : Nat
  time : Nat
  deriving DecidableEq, Repr

/-- The microsequencer where it holds at a WAIT word (R238, R239): its micro-address and the micro-call stack. -/
structure Useq where
  addr : Nat
  stack : List Nat
  deriving DecidableEq, Repr

/-- The answer to a core's load from a host window (R400): its physical address and length, the error code or 0, the data. -/
structure HostAns where
  addr : Nat
  len : Nat
  err : Nat
  data : Word
  deriving DecidableEq, Repr

/-- One core. `running` is false in core reset; `releaseWaits` says that a release waits for microcode (R247); `dbgPend` is
the set of pending debug events by bit; `matches_` the microcode match entries (R245),
`badWords` the patch RAM words, and from 2^14 on the decode entries, that hold a parity error (R244), `useq` a WAIT that holds; `btbBusy`, `dirBusy`, `rekeyBusy` when a
predictor operation started (R152), the last with its partition; `fetchQ` the fetched words, of which PD has passed the first `pdPos`;
`fetchEv` the counter events of fetches whose instruction has not reached ID (R145: its address, the code that counts if it does, the
code that counts if it is killed); `pairNew` and `pair` what an instruction paired with the last MACX reads of its generators (R168);
`soft` the 256-bit granules of the core's caches and TCMs that hold an error, and whether it is uncorrectable (R271), `corrected` the
correctable errors met by loads (R128); `hostAns` the answers to its loads from host windows that no load has taken yet (R400); `resv` the reservation (physical address, address, size), `l1i` and `l1d` by set and way (8 × set + way; Table 10.5), `ownSt` the lines that the core has stored to since its last IFENCE (R197). -/
structure CoreSt where
  running : Bool
  releaseWaits : Bool
  cur : Nat
  df : Bool
  justParked : Bool
  stalled : Bool
  banks : List Bank
  inbox : List (Option EvRec)
  latchBudget : Option Latch
  latchCnt : Option Latch
  ac : List (BitVec 72)
  f : List Word
  fpcsr : Word
  pr : List Word
  pstat : Word
  prismQ : List PrismCmd
  xown : Word
  avail : Bool
  hostAns : List HostAns
  resv : Option (Nat × Nat × Nat)
  timing : Bool
  btb : Tbl BtbE
  dir : Tbl Nat
  psecret : List Nat
  btbBusy : Option Nat
  dirBusy : Option Nat
  rekeyBusy : Option (Nat × Nat)
  fetchPc : Option Word
  fetchQ : List (Word × W32)
  pdPos : Nat
  fetchEv : List (Word × Nat × Nat)
  pairNew : List (Nat × Word)
  pair : List (Nat × Word)
  soft : List (Nat × Bool)
  corrected : Nat
  l1i : Tbl L1iE
  l1d : Tbl Nat
  ownSt : List Nat
  itlb : List TlbE
  dtlb : List TlbE
  l2tlb : List TlbE
  tlbBusy : Option Word
  cacheBusy : Option Word
  patch : Tbl (BitVec 152)
  matches_ : List (Nat × Nat)
  badWords : List Nat
  useq : Option Useq
  mcheck : Option (Word × Bool)
  dbgPend : Nat
  stopped : Bool
  stepping : Bool
  dbgDepth : Nat
  dbgArg : Word
  dbgIdx : Nat
  ibpSkip : Option Word
  deriving DecidableEq, Repr

/-- A cluster's XIP prefetch buffer: lines held and requests outstanding, oldest first, with the core that asked and
whether the line is wanted by a fetch rather than the prefetcher. -/
structure Prefetch where
  lines : List (Nat × Nat)
  asked : List (Nat × Nat)
  deriving DecidableEq, Repr

/-- A Prism unit: the local index of the core whose command runs, and of the core last served (R207). -/
structure PrismU where
  busy : Option Nat
  last : Nat
  deriving DecidableEq, Repr
/-! ## Safety manager and mirror comparator (13) -/

/-- Hidden state of the safety manager: output levels, the multiple of 62,500 ns of the last edge, severity of the report in SMG_LAST
and of the SW reports recorded, an expiry reset owed (R349). -/
structure Smg where
  safeA : Bool
  safeB : Bool
  edge : Nat
  lastSev : Option Nat
  swSev : Nat
  rstOwed : Bool
  deriving DecidableEq, Repr

/-- A deadline window (R337): the REFTIME at which D is reached, or the phase D with the direction to test and the REFTIME at which it was
reached. -/
inductive McpWin where
  | atTime (t : Nat)
  | atPhase (tb : Nat) (d : Word) (rising : Bool) (reached : Option Nat)
  deriving DecidableEq, Repr

/-- A half that has arrived at the comparator: REFTIME of its arrival, the window that its arrival opens if none is open (R337), its bytes. -/
structure McpHalf where
  at_ : Nat
  win : McpWin
  bytes : List Byte
  deriving DecidableEq, Repr

/-- One comparator channel: open window, TRIG assertions not yet acted on (their time and the window they open), the halves of each side
not yet compared, which the queue engine hands over when their enqueue completes (R385), oldest first. -/
structure McpCh where
  win : Option McpWin
  trig : List (Nat × McpWin)
  a : List McpHalf
  b : List McpHalf
  deriving DecidableEq, Repr

/-! ## Queue engine (15) -/

/-- A software operation in flight on a ring: who asked, through which page, its address, and for an enqueue the entry once it has
reserved its slot. -/
structure QeOp where
  deq : Bool
  ini : Initiator
  page : Nat
  addr : Nat
  entry : Option (List Byte)
  deriving DecidableEq, Repr

/-- One ring (R377, R378): owner, the R registers, pointers, COUNT, ERROR, operations in flight in order of acceptance. -/
structure Ring where
  owner : Nat
  cfg : Word
  base : Word
  db : Word
  flight : Word
  head : Nat
  tail : Nat
  count : Nat
  error : Bool
  ops : List QeOp
  deriving DecidableEq, Repr

/-- A DMA command fetched and not complete (Table 15.2). -/
structure DmaCmd where
  src : Nat
  dst : Nat
  len : Nat
  tag : Nat
  cpl : Bool
  fence : Bool
  started : Bool
  deriving DecidableEq, Repr

/-- One DMA channel: its registers, commands in order, completions not yet posted, TAGs of the last 256 completed commands. -/
structure DmaCh where
  ctl : Word
  flight : Word
  cmds : List DmaCmd
  cpls : List (List Byte)
  last : List Nat
  deriving DecidableEq, Repr

/-- The queue engine; `results` by initiator (R382). -/
structure Qe where
  rings : Tbl Ring
  dmas : Tbl DmaCh
  results : Tbl Word
  deriving DecidableEq, Repr

/-- The clock T of a MAC in units of 2^-40 ns (R409), and the microsecond of T at its last 802.1AS tick. -/
structure PtpClk where
  t : Int
  us : Int
  deriving DecidableEq, Repr

/-! ## DRAM controllers (14) -/

/-- A fill done since the contents were last lost (R374): number of channels, channel, first and last line. -/
structure Fill where
  nch : Nat
  ch : Nat
  lo : Nat
  hi : Nat
  deriving DecidableEq, Repr

/-- A request in a channel's read or write queue (R360), with its place in the order of arrival (R363). -/
structure DmcReq where
  line : Nat
  ep : Nat
  part : Option Nat
  rt : Bool
  poison : Bool
  age : Nat
  deriving DecidableEq, Repr

/-- One DRAM channel (R360 to R368): its queues and the reads issued whose data has not come back; requests that have arrived; refresh commands
owed, the refresh multiple and the bank index of the next REFsb per rank; whether writes drain; panicking ports (0–11 GPE, 12 SDM, 13 PSL)
and the intervals that each has panicked; the slot; tokens in hundredths; corrections per pin and the pins whose condition was raised;
REFTIME of the last corrected-error entry; the TCOMP entry selected, the offset it asks for and the one in effect; the fills that run. -/
structure Dmc where
  reads : List DmcReq
  writes : List DmcReq
  issued : List DmcReq
  arrivals : Nat
  owed : List Nat
  mult : List Nat
  refIdx : List Nat
  draining : Bool
  panics : List Nat
  panicLen : Tbl Nat
  slot : Nat
  tokens : Tbl Nat
  pins : Tbl Nat
  pinRaised : List Nat
  ceLogAt : Option Nat
  tsel : Option Nat
  offset : Nat × Nat
  applied : Nat × Nat
  fill : List (Nat × Nat)
  deriving DecidableEq, Repr

/-! ## Host ports, networks, serial interfaces (16) -/

/-- What the package last sent on one of its interfaces. MODEL's own field: what a reader outside sees. -/
inductive Sent where
  | none
  | tlp (port : Nat) (wr : Bool) (tag addr : Nat) (data : List Byte)
  | msix (port fn vec : Nat)
  | cfg (port : Nat) (wr : Bool) (addr : Word) (v : W32)
  | eth (m : Nat) (frame : List Byte)
  | can (k : Nat) (frame : List Byte)
  | mvb (k : Nat) (data : List Byte)
  | ser (k : Nat) (data : List Byte)
  | psl (port : Nat) (word : Word) (data : List Byte)
  | nvme (lba : Nat) (data : List Byte)
  | trace (data : List Byte)
  | jtag (data : Word)
  deriving DecidableEq, Repr

/-- A read outstanding at a host port: its tag, host address, length, who asked, REFTIME of its issue (R400), and of a core's load the
physical address that it reads. -/
structure HpOut where
  tag : Nat
  addr : Nat
  len : Nat
  ini : Initiator
  since : Nat
  load : Option Nat
  deriving DecidableEq, Repr

/-- One host port: outstanding reads, reads that wait for a tag, functions with Memory Space Enable, the MSI-X tables by byte (1,024 × function + offset), the
pending vectors (64 × function + vector) and the messages owed. -/
structure HostPort where
  outs : List HpOut
  waits : List HpOut
  mse : List Nat
  msix : Tbl Byte
  pba : List Nat
  msgs : List (Nat × Nat)
  deriving DecidableEq, Repr

/-- A storage root port (R406): SPA_CFGADDR, SPA_MWBASE, whether its link is up, the initiators whose requests to the device are
outstanding. -/
structure Spa where
  cfgAddr : Word
  mwBase : Word
  up : Bool
  outs : List Initiator
  deriving DecidableEq, Repr

/-- A TX entry taken by a MAC (Table 16.4): class, TAG, completion status, whether its time is reported, T in ns and REFTIME at the
start-frame delimiter, whether the frame itself is sent, MAC whose copy it awaits, MAC whose copy it is. -/
structure EthTx where
  cls : Nat
  tag : Nat
  status : Nat
  ts : Bool
  t : Int
  at_ : Nat
  sent : Bool
  waits : Option Nat
  copyOf : Option Nat
  deriving DecidableEq, Repr

/-- A gate control list in operation or about to be: bank, length, base and cycle, and the first T at which it runs. -/
structure Gcl where
  bank : Nat
  len : Nat
  base : Int
  cycle : Nat
  start : Int
  deriving DecidableEq, Repr

/-- One MAC: entries in transmission order, LAUNCH entries waiting per class (entry and frame), copies of other MACs' frames that wait to
start (R412), gate lists, the gates now applied, the
credit of each class in 2^0 kbit/s·ns. -/
structure Mac where
  txq : List EthTx
  launch : List (Option (List Byte × List Byte))
  copies : List (EthTx × List Byte)
  oper : Option Gcl
  pend : Option Gcl
  gates : Nat
  credit : List Int
  deriving DecidableEq, Repr

/-- A recovery function (R412): history, sequence number, whether the next frame is taken as the first, REFTIME of the last frame. -/
structure Frer where
  hist : Nat
  seq : Nat
  any : Bool
  last : Nat
  deriving DecidableEq, Repr

/-! ## Periscope chain link (17) -/

/-- One Periscope port: results of the last 16 calibration exchanges (newest first), retrains that failed, frames sent and not
acknowledged with their HSEQ and frames held back, next HSEQ to send and to receive, REPLAY requests without answer, the serial recorded,
the address received, whether only TIME frames may pass (R430), REFTIME of the last good frame, last sample of each index (REFTIME,
HOPS, SRC). -/
structure PslPort where
  cal : List Int
  failed : Nat
  replay : List (Nat × PslFrame)
  held : List PslFrame
  next : Nat
  expect : Nat
  asked : Option Nat
  serial : Option Word
  addr : Option Nat
  timeOnly : Bool
  good : Nat
  samples : Tbl (Nat × Nat × Nat)
  deriving DecidableEq, Repr

/-- The Periscope link: its ports, next SEQ of its own SAFETY and RING frames, what it has accepted by class and source (highest SEQ and
window), the receive staging buffer (ring and entry). -/
structure Psl where
  ports : List PslPort
  seqS : Nat
  seqR : Nat
  seen : Tbl (Nat × Nat)
  staging : List (Nat × List Byte)
  deriving DecidableEq, Repr

/-! ## Coherence (11) -/

/-- Stable line states (Table 11.1). -/
inductive LineSt where
  | i | s | e | m | o
  deriving DecidableEq, Repr

/-- What a home transaction does: the requests of Table 11.3, back-invalidation (R283), a filter entry with an uncorrectable error
(R284). -/
inductive CohKind where
  | rdShared | rdUnique | upgrade | rdOnce | wrFull | wrPartial | backInv | filterErr
  deriving DecidableEq, Repr

/-- Who asked: a caching agent, or another endpoint. -/
inductive CohReq where
  | agent (a : Nat)
  | ep (e : Nat)
  | none
  deriving DecidableEq, Repr

/-- A message under way (Table 11.3): code, the agent at its end that is not the home (for a non-caching endpoint 13 + its number, for a
DataFwd the receiver), line, the requester it serves, the state it carries, whether it carries dirty data or confers a dirty line, whether
it is poisoned, ERRC; the agent whose DataFwd it is, whether the line is real-time (R285), the neighbour link that carries it (R286). -/
structure CohMsg where
  code : Nat
  agent : Nat
  line : Nat
  req : CohReq
  st : LineSt
  dirty : Bool
  fwd : Bool
  poison : Bool
  errc : Nat
  src : Nat
  rt : Bool
  via : Option Nat
  deriving DecidableEq, Repr

/-- An active transaction of a slice (R287): agents whose snoop is unanswered, whether an owner forwarded data and whether it was dirty,
whether the owner answered I, whether an Upgrade became a RdUnique, the agents whose WbAck waits, the line that must be evicted first,
the bytes of a write with their mask. -/
structure CohTx where
  line : Nat
  kind : CohKind
  resume : CohKind
  req : CohReq
  snoops : List Nat
  fwd : Bool
  fwdDirty : Bool
  ownerI : Bool
  withData : Bool
  lost : Bool
  acks : List Nat
  victim : Option Nat
  mask : Word
  bytes : List Byte
  deriving DecidableEq, Repr

/-- A snoop filter entry (Table 11.2). -/
structure FiltE where
  line : Nat
  present : Nat
  owner : Option Nat
  deriving DecidableEq, Repr

/-- One home slice: active transactions, filter entries (the earliest allocated first), credits recorded in order of arrival, granted credits
that hold a tracker, lines reserved under R296, consecutive Nacks by agent and line, the next set of a loss scan, lines whose entry holds
an uncorrectable error (R284). -/
structure Slice where
  txs : List CohTx
  filter : List FiltE
  credits : List (Nat × CohReq)
  granted : List (Nat × CohReq)
  reserved : List (Nat × Nat)
  nacks : List (Nat × Nat × Nat)
  scan : Option Nat
  bad : List Nat
  deriving DecidableEq, Repr

/-- Phase of an agent's request: sent, answered Retry, reissue allowed, in backoff until an instant (in eighths of a ns). -/
inductive ReqPhase where
  | sent | retry | reissue | backoff (until_ : Nat)
  deriving DecidableEq, Repr

/-- One line at an agent (R281, R288, R290, R291): stable state, the request under way with what has arrived for it (data, its poison, the
granted state and whether data belongs to it), consecutive Nacks, end of the hold window (eighths of a ns), snoops that wait, the state in
which it left to the writeback buffer, whether it was last accessed with the real-time attribute (R267). -/
structure AgLine where
  st : LineSt
  req : Option CohKind
  phase : ReqPhase
  data : Bool
  dpoison : Bool
  comp : Option (LineSt × Bool)
  nacks : Nat
  hold : Nat
  waiting : List CohMsg
  wb : Option LineSt
  rt : Bool
  deriving DecidableEq, Repr

/-- Coherence: the home slices, the agents' lines (agent × 2^42 + line), the L2s ((cluster × 2048 + set) × 16 + way; the hub cores' is
cluster 48) with each line and whether it is real-time, the L3s ((die × 16384 + set) × 16 + way), the messages under way, oldest first, dies
whose EMPTY has come. -/
structure Coh where
  slices : Tbl Slice
  lines : Tbl AgLine
  l2 : Tbl (Nat × Bool)
  l3 : Tbl Nat
  msgs : List CohMsg
  empties : List Nat
  deriving DecidableEq, Repr

/-! ## Network and die links (12) -/

/-- A statistics slot of an NI (R315): its configuration, bytes, transactions, latency bins. -/
structure StatSlot where
  cfg : Word
  bytes : Nat
  txn : Nat
  bins : List Nat
  deriving DecidableEq, Repr

/-- The network (R305 to R315): installed route entries that differ from the defaults, by site, NI and destination (W0, W1), entries committed
and not installed, the running reconfiguration of each site (router and new PORT_EN), PORT_EN of each router, statistics slots, packets that
wait at an NI for a HELD entry (the entry; oldest first), requests injected and not answered (the entry, the header, and of a coherent read
whose Comp or data alone has come the response bytes so far). -/
structure Fab where
  routes : Tbl (Word × Word)
  commits : Tbl (Word × Word)
  rcfg : Tbl (Nat × Nat)
  ports : Tbl Nat
  stats : Tbl StatSlot
  waits : List (Nat × BitVec 256)
  outs : List (Nat × BitVec 256 × Option Nat)
  deriving DecidableEq, Repr

/-- The end of a die link that its page belongs to (R313, R316 to R322): next SEQ to receive and to send, frames unacknowledged, packets that a
switch-over put first (R319), packets held for room in the replay buffer or for the link to be UP again (R317, R318), real-time packets sent
in succession while others waited and the VC last served, REPLAY requests without answer, retrains that failed, the SEQ that LinkRecover
named when this end went DOWN, REFTIME of the last good frame and of the last frame sent, cumulative credits received. -/
structure Link where
  expect : Nat
  next : Nat
  unacked : List (Nat × BitVec 256)
  ahead : List (BitVec 256)
  held : List (BitVec 256)
  rtRun : Nat
  vcTurn : Nat
  recoverSeq : Option Nat
  asked : Option Nat
  failed : Nat
  good : Nat
  sentAt : Nat
  credits : List Nat
  deriving DecidableEq, Repr


/-! ## Power, hold-up, journal (18) -/

/-- The power manager, the hold-up monitor and the reset logic: the running domain command (domain, whether on), the emission mode that a
running change leaves, input power of the last ten samples in 0.1 W (newest first), last four ADC codes (newest first), consecutive
samples below VWARN and at or above VWARN + VHYST, causes of package resets that wait, package reset in force, power-on reset in
force, THERMTRIP_L driven low. -/
structure Pwr where
  op : Option (Nat × Bool)
  emisFrom : Option Nat
  powers : List Nat
  codes : List Nat
  below : Nat
  above : Nat
  causes : List Nat
  inReset : Bool
  por : Bool
  therm : Bool
  deriving DecidableEq, Repr

/-- A commit that has started (R444): its record's header and padded payload, marker, place (journal region offset or first logical
block), tag, target, the energies of its check, REFTIME of its start and of the NVMe write that runs, whether that is the marker's. -/
structure JrnRun where
  body : List Byte
  marker : List Byte
  at_ : Nat
  tag : Nat
  nvme : Bool
  seq : Nat
  avail : Nat
  req : Nat
  since : Nat
  last : Bool
  deriving DecidableEq, Repr

/-- The journal engine (R443 to R449): the running commit, the last SEQ used, erased blocks from the write pointer's own on, the block being
erased, intact records (offset and length, oldest first), whether the region has been scanned, completions not yet posted, blocks used of
the NVMe range and entries of its submission queue. -/
structure Jrn where
  run : Option JrnRun
  seq : Nat
  ahead : Nat
  erasing : Option Nat
  recs : List (Nat × Nat)
  scanned : Bool
  cpls : List (List Byte)
  nvBlk : Nat
  nvTail : Nat
  deriving DecidableEq, Repr

/-! ## Boot and security engine (19) -/

/-- A microcode image that the engine retains (R466): identifier, digest, plaintext payload. -/
structure McImg where
  id : Nat
  digest : Nat
  payload : List Byte
  deriving DecidableEq, Repr

/-- A command that the engine has accepted: its page (100 for a challenge response), code, and the registers as they were; the partition it
acts for; what a REPORT sampled when it started. -/
structure BseCmd where
  page : Nat
  op : Nat
  src : Nat
  arg : Nat
  hash : Nat
  cores : List Nat
  snap : List Byte
  deriving DecidableEq, Repr

/-- The boot and security engine: its fuses (slot hashes, revocations, thermometer level, whether IDKEY is written), whether an MNT token is
in effect, commands in order of acceptance, retained images, measurement lists (digests and FULL), the boot's source, slot, digest and
SVN, statuses of its attempts, whether the boot ROM waits in recovery, granules of 64 bytes programmed. -/
structure Bse where
  vkeys : List Nat
  ckeys : List Nat
  revoke : Nat
  therm : Nat
  idkey : Bool
  maint : Bool
  queue : List BseCmd
  mcp : Option McImg
  cmc : Option McImg
  meas : Tbl (List Nat × Bool)
  bootSrc : Nat
  bootSlot : Nat
  bootDigest : Nat
  bootSvn : Nat
  tried : List Nat
  waits : Bool
  prog : Nat
  deriving DecidableEq, Repr

/-! ## Debug, Lens, boundary scan (20, 21) -/

/-- A challenge (R475): the record, REFTIME of its issue, its level, partition and die mask, whether it was answered. -/
structure Chal where
  bytes : List Byte
  at_ : Nat
  level : Nat
  part : Nat
  mask : Nat
  answered : Bool
  deriving DecidableEq, Repr

/-- The debug block: instruction registers by site, DIESEL, DONE, ERR and data of the scan access, grants (16 × partition + site), STATE and
RESULT of the authorisation, the challenge, the response bytes, CORE_SEL, TRACE_SEL, the armed snapshot time, the boundary cells loaded
and those that drive the balls. -/
structure Dbg where
  irs : Tbl Nat
  diesel : Nat
  done : Bool
  err : Bool
  data : Word
  grants : Tbl Nat
  auth : Nat
  result : Nat
  chal : Option Chal
  resp : List Byte
  coreSel : Nat
  traceSel : Nat
  armed : Option Nat
  cells : Tbl (List Bool)
  drive : Tbl (List Bool)
  deriving DecidableEq, Repr

/-- One Lens session (R485 to R491): packets in staging (class, core, bytes; oldest first), drops by class since the last DROP packet, cores
whose packets were dropped, core of the last packet in the sink, bytes written and read since EN, the bytes of its hub segments, the
post-trigger count (REFTIME, phase and direction at the trigger). -/
structure Lens where
  staging : List (Nat × Nat × List Byte)
  dropped : List Nat
  resync : List Nat
  lastCore : Option Nat
  wrote : Nat
  read : Nat
  buf : Tbl Byte
  post : Option (Nat × Word × Bool)
  deriving DecidableEq, Repr


/-! ## The whole state -/

/-- Why the machine stops with a fault. None arises in this model: every failure the spec describes is an effect on the
state. Kept closed and empty of reasons but one, raised by nobody. Safe. -/
inductive Fault where
  /-- Raised by no meaning. Safe. -/
  | none
  deriving DecidableEq, Repr

/-- Why a step is refused. -/
inductive Refusal where
  /-- Raised by an arm of `exec` whose command has no meaning yet. Safe: nothing is proved about a refused step. -/
  | notModelled (mnemonic : String)
  deriving DecidableEq, Repr

/-- The state of the package. -/
structure State where
  part : PartNo
  serial : Word
  time : Nat
  resp : Resp
  freeCtr : Nat
  regs : Tbl Word
  mem : List Host.Cell
  poison : List Nat
  err : ErrLog
  ammin : Option (List Byte)
  fio : Fio
  evr : Evr
  cores : Tbl CoreSt
  prefetch : Tbl Prefetch
  prism : Tbl PrismU
  dom : List Nat
  smg : Smg
  mcp : Tbl McpCh
  qe : Qe
  ptp : List PtpClk
  life : Nat
  dmc : Tbl Dmc
  fills : List Fill
  dramGen : Nat
  sent : Sent
  pageBytes : Tbl Byte
  hps : List HostPort
  spas : List Spa
  macs : List Mac
  frer : Tbl Frer
  psl : Psl
  coh : Coh
  fab : Fab
  links : Tbl Link
  pwr : Pwr
  jrn : Jrn
  bse : Bse
  dbg : Dbg
  lens : Tbl Lens
  pending : List Instr
  deriving DecidableEq, Repr

/-! ## Reset values -/

/-- A time base after reset: disabled, showing UNLOCKED. -/
def TimeBase.reset : TimeBase :=
  { acc := 0, prev := 0, rate := 0, vLast := 0, tLast := 0, paired := false, lastRev := false, limit := 0, restart := false,
    rev := false, st := .unlocked, standstill := false, stepExcess := false, unc := 0xFFFFFFFFFFFFFFFF, entered := 0,
    grown := 0, count := 0, offset := 0, tick := none, writes := [],
    force := { timeout := 10000000, hold := 0, growth := 0, index := 0, errFail := false } }

/-- An encoder ball after reset: low. -/
def EncPin.reset : EncPin := { raw := false, acc := false, since := 0, first := none }

/-- An encoder input after reset. -/
def Encoder.reset : Encoder := { a := EncPin.reset, b := EncPin.reset, z := EncPin.reset, zRise := false }

/-- A compare after reset: not armed. -/
def CmpSt.reset : CmpSt := { armed := false, armAt := none, disarm := false, refire := none }

/-- A gate output after reset: inactive. -/
def GpeOut.reset : GpeOut := { on := false, onAt := 0, offAt := 0, want := false }

/-- A gate pattern group after reset: no segment. -/
def Gpe.reset : Gpe :=
  { seg := none, outs := List.replicate 4 GpeOut.reset, rptr := 0, wptr := 0, filled := 0, staging := [] }

/-- A sigma-delta channel after reset. -/
def SdmCh.reset : SdmCh := { hist3 := [], hist2 := [], beyond := 0, outs := [] }

/-- The TBU, GPE and SDM after reset. -/
def Fio.reset : Fio :=
  { tbs := List.replicate 16 TimeBase.reset, encs := List.replicate 8 Encoder.reset, cmps := [], fires := [],
    slipCnt := List.replicate 16 0, slideCnt := List.replicate 16 0, sram := [], gpes := List.replicate 12 Gpe.reset,
    segReq := [], sdm := List.replicate 32 SdmCh.reset, snapReq := [], snapStage := [] }

/-- A comparator channel after reset. -/
def McpCh.reset : McpCh := { win := none, trig := [], a := [], b := [] }

/-- A ring after reset: disabled, owned by partition 0 (R394). -/
def Ring.reset : Ring :=
  { owner := 0, cfg := 0, base := 0, db := 0, flight := 0x10, head := 0, tail := 0, count := 0, error := false, ops := [] }

/-- A DRAM channel after reset: empty queues, nothing owed. -/
def Dmc.reset : Dmc :=
  { reads := [], writes := [], issued := [], arrivals := 0, owed := [0, 0], mult := [1, 1], refIdx := [0, 0], draining := false, panics := [],
    panicLen := [], slot := 0,
    tokens := [], pins := [], pinRaised := [], ceLogAt := none, tsel := none, offset := (0, 0), applied := (0, 0),
    fill := [] }

/-- A host port after reset: nothing outstanding, no function enabled. -/
def HostPort.reset : HostPort := { outs := [], waits := [], mse := [], msix := [], pba := [], msgs := [] }

/-- A storage root port after reset. -/
def Spa.reset : Spa := { cfgAddr := 0, mwBase := 0, up := false, outs := [] }

/-- A MAC after reset: nothing queued, gates open. -/
def Mac.reset : Mac :=
  { txq := [], launch := List.replicate 8 none, copies := [], oper := none, pend := none, gates := 255, credit := List.replicate 8 0 }

/-- A recovery function after reset: no history. -/
def Frer.reset : Frer := { hist := 0, seq := 0, any := true, last := 0 }

/-- A Periscope port after reset: DOWN. -/
def PslPort.reset : PslPort :=
  { cal := [], failed := 0, replay := [], held := [], next := 0, expect := 0, asked := none, serial := none, addr := none,
    timeOnly := false, good := 0, samples := [] }

/-- The Periscope link after reset (R431). -/
def Psl.reset : Psl := { ports := [PslPort.reset, PslPort.reset], seqS := 0, seqR := 0, seen := [], staging := [] }

/-- A home slice after reset: empty (R303). -/
def Slice.reset : Slice := { txs := [], filter := [], credits := [], granted := [], reserved := [], nacks := [], scan := none, bad := [] }

/-- A line that an agent does not hold. -/
def AgLine.reset : AgLine :=
  { st := .i, req := none, phase := .sent, data := false, dpoison := false, comp := none, nacks := 0, hold := 0, waiting := [],
    wb := none, rt := false }

/-- The network after reset: default routes, every port enabled. -/
def Fab.reset : Fab := { routes := [], commits := [], rcfg := [], ports := [], stats := [], waits := [], outs := [] }

/-- A statistics slot after reset. -/
def StatSlot.reset : StatSlot := { cfg := 0, bytes := 0, txn := 0, bins := List.replicate 16 0 }

/-- A link end after reset. -/
def Link.reset : Link :=
  { expect := 0, next := 0, unacked := [], ahead := [], held := [], rtRun := 0, vcTurn := 0, recoverSeq := none, asked := none, failed := 0,
    good := 0, sentAt := 0, credits := List.replicate 6 0 }

/-- The power manager in power-on reset, which POWER_ON_RESET_END ends: nothing under way, no sample taken. -/
def Pwr.reset : Pwr :=
  { op := none, emisFrom := none, powers := [], codes := [], below := 0, above := 0, causes := [], inReset := false, por := true,
    therm := false }

/-- The journal engine after reset: not scanned. -/
def Jrn.reset : Jrn :=
  { run := none, seq := 0, ahead := 0, erasing := none, recs := [], scanned := false, cpls := [], nvBlk := 0, nvTail := 0 }

/-- The boot and security engine of a part before provisioning: no key fuse blown (log entry 31). -/
def Bse.reset : Bse :=
  { vkeys := [0, 0, 0, 0], ckeys := [0, 0, 0, 0], revoke := 0, therm := 0, idkey := false, maint := false, queue := [], mcp := none,
    cmc := none, meas := [], bootSrc := 0, bootSlot := 0, bootDigest := 0, bootSvn := 0, tried := [255, 255, 255, 255], waits := false,
    prog := 0 }

/-- The debug block after power-on reset (R326, R470, R474): only the Focal die in the chain, no grant. -/
def Dbg.reset : Dbg :=
  { irs := [], diesel := 0x1000, done := false, err := false, data := 0, grants := [], auth := 0, result := 0, chal := none,
    resp := List.replicate 280 0, coreSel := 0, traceSel := 0, armed := none, cells := [], drive := [] }

/-- A Lens session after reset. -/
def Lens.reset : Lens :=
  { staging := [], dropped := [0, 0, 0, 0], resync := [], lastCore := none, wrote := 0, read := 0, buf := [], post := none }

/-- A DMA channel after reset: disabled. -/
def DmaCh.reset : DmaCh := { ctl := 0, flight := 1, cmds := [], cpls := [], last := [] }

/-- An event source after reset: disabled. -/
def Src.reset : Src :=
  { cfg := 0, waiting := none, waitAt := 0, sent := 0, inService := 0, orphan := false, ovr := 0, swLevel := false, fresh := none }

/-- A pool after reset: empty. -/
def Pool.reset : Pool := { mask := 0, fifo := [], last := 0, ovrNext := false, ovf := 0 }

/-- The event router after reset (R125). -/
def Evr.reset : Evr := { srcs := [], pools := [], queue := [], arrivals := [], flight := [] }

/-- An empty return stack (R151). -/
def Ras.reset : Ras := { ent := List.replicate 16 0, ptr := 0, depth := 0 }

/-- Bank `l` after a reset of the core (R177, R212): bank 0 active at M at the reset vector, the others disabled. -/
def Bank.reset (l : Nat) (pc : Word) : Bank :=
  { st := if l = 0 then .active else .disabled, pc := if l = 0 then pc else 0, g := List.replicate 8 0,
    win := List.replicate 128 0, sp := List.replicate 4 0, slim := List.replicate 4 0, preds := 1,
    xag := List.replicate 4 0, yag := List.replicate 4 0, lstart := [0, 0], lend := [0, 0], lcount := [0, 0],
    status := if l = 0 then 3 else 0, cwp := 0, wres := 1, tw := false, depth := 0, wfb := 0, xsave := 0,
    fb := List.replicate 8 0, fpriv := List.replicate 8 0, shadow := [], imprecise := [], budget := 0,
    budgetOn := false, serving := none, gtb := 0,
    ptb := 0, gtbWait := false, ptbWait := false, ghr := 0, ras := Ras.reset, sghr := 0,
    sras := Ras.reset, ckpts := [] }

/-- Core `c` held in core reset, its banks as R177 states and its secrets drawn from the random generator. -/
def CoreSt.reset (secrets : Nat) (pc : Word) : CoreSt :=
  { running := false, releaseWaits := false, cur := 0, df := false, justParked := false, stalled := false,
    banks := (List.range 8).map fun l => Bank.reset l pc, inbox := List.replicate 8 none, latchBudget := none,
    latchCnt := none, ac := List.replicate 4 0, f := List.replicate 32 0, fpcsr := 0, pr := List.replicate 12 0,
    pstat := 0, prismQ := [], xown := 0, avail := false, hostAns := [], resv := none, timing := false, btb := [],
    dir := [], psecret := (List.range 64).map fun p => secrets + p, btbBusy := none, dirBusy := none,
    rekeyBusy := none, fetchPc := none, fetchQ := [], pdPos := 0, fetchEv := [], pairNew := [], pair := [], soft := [],
    corrected := 0, l1i := [], l1d := [], ownSt := [], itlb := [], dtlb := [], l2tlb := [],
    tlbBusy := none, cacheBusy := none, patch := [], matches_ := [], badWords := [], useq := none, mcheck := none, dbgPend := 0, stopped := false,
    stepping := false, dbgDepth := 0, dbgArg := 0, dbgIdx := 0, ibpSkip := none }

/-- RVEC's reset value (Table 8.6). -/
def rvecReset : Word := 0x0000FF0000000000

/-- Power domains after the power-on sequence of a part (Table 18.1, R4): 0 OFF, 3 ON, 4 ABSENT. -/
def domReset (facets : Nat) : List Nat :=
  ((List.range 12).map fun n => if n < facets then [0, 0, 3] else [4, 4, 4]).flatten ++
    [3, 3, 3, 0, 0, if facets = 4 then 4 else 0, if facets = 4 then 4 else 0, 0, 0, 0, 0, 0, 3, 3]

/-- The part a reset state models (log entry 1). -/
def partReset : PartNo := { facets := 12, grade := .g24 }

/-- The package at the end of power-on reset, before the Ammin table is built and before hub core 384 leaves reset: REFTIME 0,
every register at its reset value, the firmware-switched domains off, every application core held, memory with nothing
listed, no command waiting. -/
def State.reset : State :=
  { part := partReset, serial := 0, time := 0, resp := .none, freeCtr := 0, regs := [], mem := [], poison := [],
    err := { staging := [], ring := [], toCopy := [] }, ammin := none, fio := Fio.reset, evr := Evr.reset, cores := [],
    prefetch := [], prism := [], dom := domReset 12,
    smg := { safeA := false, safeB := false, edge := 0, lastSev := none, swSev := 0, rstOwed := false }, mcp := [],
    qe := { rings := [], dmas := [], results := [] },
    ptp := List.replicate 12 { t := 0, us := 0 },
    life := 0,
    dmc := [],
    fills := [],
    dramGen := 0,
    sent := .none,
    pageBytes := [],
    hps := [HostPort.reset, HostPort.reset],
    spas := [Spa.reset, Spa.reset],
    macs := List.replicate 12 Mac.reset,
    frer := [],
    psl := Psl.reset,
    coh := { slices := [], lines := [], l2 := [], l3 := [], msgs := [], empties := [] },
    fab := Fab.reset,
    links := [],
    pwr := Pwr.reset,
    jrn := Jrn.reset,
    bse := Bse.reset,
    dbg := Dbg.reset,
    lens := [],
    pending := [] }

end Sys2Proof.Machine
end

