-- ==== Sys2Proof/Machine/Ops.lean ====
section
/-! DEFINITION. The named operations: registers by place, memory by byte, partitions and presence, page conditions and
event sources, the error log, and the checks every register access passes. -/

namespace Sys2Proof.Machine

/-! ## Blocks (02) -/

/-- Block type code (Table 2.13). -/
def typeCode : Block → Nat
  | .die => 0x01 | .core => 0x02 | .loops => 0x03 | .prism => 0x04 | .cnt => 0x05 | .fab => 0x08 | .hom => 0x09
  | .d2d => 0x0A | .dmc => 0x0B | .qe => 0x0C | .tbu => 0x10 | .gpe => 0x11 | .sdm => 0x12 | .evr => 0x13
  | .hpa => 0x18 | .hpb => 0x19 | .spa => 0x1A | .eth => 0x1B | .canf => 0x1C | .mvb => 0x1D | .ser => 0x1E
  | .gpio => 0x1F | .psl => 0x20 | .pwr => 0x24 | .hup => 0x25 | .jrn => 0x26 | .smg => 0x28 | .mcp => 0x29
  | .bse => 0x2C | .csd => 0x2D | .dbg => 0x30 | .lns => 0x31 | .err => 0x32

/-- Every block type, in order of its code. -/
def allBlocks : List Block :=
  [.die, .core, .loops, .prism, .cnt, .fab, .hom, .d2d, .dmc, .qe, .tbu, .gpe, .sdm, .evr, .hpa, .hpb, .spa, .eth, .canf,
   .mvb, .ser, .gpio, .psl, .pwr, .hup, .jrn, .smg, .mcp, .bse, .csd, .dbg, .lns, .err]

/-- The unit numbers of a block type (Table 2.13). -/
def instsOf : Block → List Nat
  | .die | .fab => upto 14
  | .core | .loops | .cnt => upto 388
  | .prism => upto 48
  | .hom | .dmc => upto 16
  | .d2d => upto 12 ++ (upto 24).map (· + 16) ++ [48]
  | .gpe | .eth => upto 12
  | .spa | .mvb => upto 2
  | .canf => upto 8
  | .ser => upto 13
  | _ => [0]

/-- Number of pages of a unit. -/
def pageCount : Block → Nat → Nat
  | .die, n => if n = 12 then 66 else 1
  | .core, _ => 7
  | .dmc, _ | .hpa, _ | .hpb, _ => 2
  | .qe, _ | .evr, _ | .dbg, _ | .lns, _ | .err, _ => 65
  | .tbu, _ => 34
  | .sdm, _ => 53
  | .spa, _ => 32
  | .eth, n => if n = 0 then 4 else 3
  | .mvb, _ => 33
  | .gpio, _ => 4
  | .psl, _ => 3
  | .mcp, _ => 5
  | .bse, _ => 81
  | _, _ => 1

/-- Site of a core (R5). -/
def coreSite (c : Nat) : Nat := if c < 384 then c / 32 else 12

/-- Site of a block (Table 1.1, Table 12.1; the D2D pages of the hub ports and of the code store port lie on the Focal die,
log entry 6). -/
def siteOf : Block → Nat → Nat
  | .die, n | .fab, n => n
  | .core, c | .loops, c | .cnt, c => coreSite c
  | .prism, u => u / 4
  | .d2d, l => if l < 16 then 12 else if l = 48 then 12 else (l - 16) / 2
  | .csd, _ => 13
  | _, _ => 12

/-- Power domain of a core: CLA holds clusters 0 and 1, CLB clusters 2 and 3 (Table 1.1). -/
def coreDomain (c : Nat) : Nat :=
  if c < 384 then 3 * (c / 32) + (if c % 32 < 16 then 0 else 1) else 38

/-- Power domain of a block (Table 18.1, Table 2.14). -/
def domainOf (b : Block) (n : Nat) : Nat :=
  match b with
  | .core | .loops | .cnt => coreDomain n
  | .die | .fab | .d2d | .prism =>
    let st := siteOf b n
    if st < 12 then 3 * st + 2 else if st = 13 then 49 else 38
  | .pwr | .hup | .smg | .err => 36
  | .dbg | .lns => 37
  | .dmc => 39 + n / 4
  | .hpa => 43
  | .hpb => 44
  | .spa | .eth | .canf | .mvb | .ser | .gpio => 45
  | .tbu | .gpe | .sdm => 46
  | .psl => 47
  | .bse => 48
  | .csd => 49
  | .hom | .qe | .evr | .jrn | .mcp => 38

/-- Endpoint of a block (Table 12.1). -/
def endpointOf (b : Block) (n : Nat) : Nat :=
  match b with
  | .core | .loops | .cnt => if n < 384 then 32 * (n / 32) + n % 32 / 8 else 32 * 12 + 31
  | .prism => 32 * (n / 4) + n % 4
  | .die | .fab | .d2d =>
    let st := siteOf b n
    if st < 12 then 32 * st + 8 else if st = 13 then 32 * 13 else 32 * 12 + 29
  | .hom => 32 * 12 + n
  | .dmc => 32 * 12 + 16 + n / 4
  | .qe => 32 * 12 + 20
  | .evr => 32 * 12 + 21
  | .tbu | .gpe | .sdm => 32 * 12 + 22
  | .hpa => 32 * 12 + 23
  | .hpb => 32 * 12 + 24
  | .spa => 32 * 12 + 25
  | .eth | .canf | .mvb | .ser | .gpio => 32 * 12 + 26
  | .psl => 32 * 12 + 27
  | .smg | .mcp => 32 * 12 + 28
  | .pwr | .hup | .jrn | .bse | .err => 32 * 12 + 29
  | .dbg | .lns => 32 * 12 + 30
  | .csd => 32 * 13

/-- Whether a page of a block is a data page (R37). -/
def isDataPage (b : Block) (n page : Nat) : Bool :=
  match b with
  | .eth => page == 1 || page == 2
  | .spa => 16 ≤ page
  | .mvb => 1 ≤ page
  | .bse => 65 ≤ page
  | .err => 1 ≤ page
  | _ => n != n

/-- PAGE_CAP.EVT and EVT_COUNT of a page: the number of its conditions (chapters' register sections; 0 where PAGE_CAP.EVT is
0). -/
def condCount (b : Block) (page : Nat) : Nat :=
  match b with
  | .err => 3
  | .tbu => if page = 0 then 2 else if page ≤ 16 then 8 else 0
  | .gpe => 5
  | .sdm => if page = 0 then 0 else if page ≤ 32 then 2 else if page ≤ 36 then 3 else 1
  | .evr => if page = 0 then 4 else 0
  | .prism => 1
  | .hom => 4
  | .fab | .d2d => 4
  | .smg => 2
  | .mcp => if page = 0 then 0 else 2
  | .dmc => if page = 0 then 4 else 0
  | .qe => if page = 0 then 2 else 0
  | .hpa | .hpb => if page = 0 then 3 else 0
  | .spa => 1
  | .eth => 3
  | .canf => 2
  | .mvb => 2
  | .ser => 1
  | .gpio => 16
  | .psl => if page = 0 then 5 else 3
  | .pwr => 2
  | .hup => 2
  | .jrn => 2
  | .bse => if page = 0 then 3 else 1
  | .dbg => if page = 0 then 2 else 1
  | .lns => if page = 0 then 0 else 2
  | _ => 0

/-- PAGE_CAP.FRZ of a page. -/
def capFrz (b : Block) (page : Nat) : Bool :=
  match b with
  | .tbu => (1 ≤ page && page ≤ 32)
  | .smg | .eth | .canf | .mvb | .ser | .spa => true
  | .dbg => 1 ≤ page
  | _ => false

/-- PAGE_CAP.SG of a page (R515). -/
def capSg (b : Block) (page : Nat) : Bool :=
  match b with
  | .tbu | .gpe | .sdm | .spa | .eth | .canf | .mvb | .ser | .gpio | .psl | .jrn => true
  | .evr | .qe | .bse | .dbg | .lns => 1 ≤ page
  | _ => false

/-- PAGE_CAP.MW of a page: whether it holds mirror slots (R45, R351). -/
def capMw (b : Block) (page : Nat) : Bool :=
  match b with
  | .tbu => 17 ≤ page && page ≤ 32
  | .smg => true
  | _ => false

/-- Event source of condition `k` of a page (Table 4.1a, R80, R416), where it is fixed; the TBU pages and the partition pages of
BSE, DBG and LNS name theirs in a register. -/
def fixedSource (b : Block) (n page k : Nat) : Option Nat :=
  match b with
  | .hpa => if page = 0 then some 512 else none
  | .hpb => if page = 0 then some 513 else none
  | .spa => some (514 + 33 * n + 32)
  | .eth => some (580 + n)
  | .canf => some (592 + n)
  | .mvb => some (600 + n)
  | .ser => some (602 + n)
  | .psl => some (615 + page)
  | .gpe => some (618 + n)
  | .sdm => if page = 0 then none else if page ≤ 32 then some 630 else if page ≤ 36 then some (631 + (page - 33)) else some 635
  | .gpio => some (636 + 16 * page + k)
  | .err => some 704
  | .evr => if page = 0 then some 705 else none
  | .smg => some 706
  | .mcp => if page = 0 then none else some (707 + (page - 1))
  | .pwr => some 711
  | .hup => some 712
  | .jrn => some 713
  | .bse => if page = 0 then some 714 else none
  | .dbg => if page = 0 then some 715 else none
  | .qe => if page = 0 then some 716 else none
  | .hom => some (717 + n)
  | .dmc => some (733 + n)
  | .fab => some 749
  | .d2d => some 750
  | .prism => some (751 + n / 4)
  | _ => none

/-! ## Registers by place -/

/-- The number under which a register's value is held. -/
def rkey (r : RegAddr) : Nat := ((typeCode r.ty * 1024 + r.inst) * 1024 + r.page) * 4096 + r.off

/-- The key of a common register of a page. -/
def pageReg (b : Block) (n page off : Nat) : RegAddr := ⟨b, n, page, off⟩

/-- Whether an offset falls on an element of an array of the given strides and counts. -/
def matchDims : List (Nat × Nat) → Nat → Bool
  | [], d => d == 0
  | (st, n) :: t, d => (upto n).any fun i => st * i ≤ d && matchDims t (d - st * i)

/-- The row of the register map at a place. -/
@[irreducible] def findRow (b : Block) (page off : Nat) : Option RegRow :=
  (rowsOf b).find? fun r => r.pLo ≤ page && page ≤ r.pHi && r.off ≤ off && matchDims r.dims (off - r.off)

/-- Reset values that differ between elements of an array or between units (Tables 10.1, 12.6, 15.5, 16.6). -/
def specialReset (s : State) (r : RegAddr) : Option Word :=
  if r.ty = .die then
    if r.page = 0 then
      if r.off = 0x100 then some (BitVec.ofNat 64 r.inst)
      else if r.off = 0x104 then some 0x0B
      else if r.off = 0x108 then some s.serial
      else if r.off = 0x114 then some 2
      else none
    else if r.page = 1 then
      if r.off = 0x104 then some 1
      else if r.off = 0x10C then some 0xFFFF
      else if r.off = 0x150 then some 0xF
      else none
    else none
  else if r.ty = .qe ∧ r.page = 0 then
    if r.off = 0x400 then some 0x2000
    else if r.off = 0x404 then some 0x20000000
    else if r.off = 0x408 then some 0x1000000000
    else none
  else if (r.ty = .hpa ∨ r.ty = .hpb) ∧ r.page = 0 ∧ r.off = 0x140 then some 0x80000000
  else none

/-- The reset value of a register (R13). -/
def resetVal (s : State) (r : RegAddr) : Word :=
  match specialReset s r with
  | some v => v
  | none =>
    match findRow r.ty r.page r.off with
    | some row => BitVec.ofNat 64 row.reset
    | none => 0

/-- The value a register holds. -/
def rd (s : State) (r : RegAddr) : Word :=
  match s.regs.get? (rkey r) with
  | some v => v
  | none => resetVal s r

/-- The state with one register's value replaced. -/
def wr (s : State) (r : RegAddr) (v : Word) : State := { s with regs := s.regs.set (rkey r) v }

/-- A field of a register. -/
def rf (s : State) (r : RegAddr) (lo w : Nat) : Nat := fld (rd s r) lo w

/-- A bit of a register. -/
def rb (s : State) (r : RegAddr) (i : Nat) : Bool := bit (rd s r) i

/-- The state with one field of a register replaced. -/
def wf (s : State) (r : RegAddr) (lo w x : Nat) : State := wr s r (setFld (rd s r) lo w x)

/-- The state with one bit of a register set or cleared. -/
def wb (s : State) (r : RegAddr) (i : Nat) (b : Bool) : State := wf s r i 1 b.toNat

/-- A counting register, 32 bits, saturating. -/
def countReg (s : State) (r : RegAddr) : State := wr s r (satInc (rd s r))

/-- A counting register advanced by `n`, saturating. -/
def addReg (s : State) (r : RegAddr) (n : Nat) : State := wr s r (BitVec.ofNat 64 (min 0xFFFFFFFF ((rd s r).toNat + n)))

/-- Every register of the units that satisfy `p` back at its reset value. -/
def dropRegs (s : State) (p : Nat → Nat → Bool) : State :=
  { s with regs := s.regs.drop fun k => p (k / (4096 * 1024 * 1024)) (k / (4096 * 1024) % 1024) }

/-- Take a free value: a number nothing constrains (log entry 3). -/
def takeFree (s : State) : Nat × State := (Config.freeNat s.freeCtr, { s with freeCtr := s.freeCtr + 1 })

/-! ## Memory: every byte addressed space (10) -/

/-- Whether an address lies in DRAM's range (Table 10.3). -/
def isDram (a : Nat) : Bool := a < 0x020000000000

/-- The DRAM channel of a line, of 8 or of 16 channels (R354). -/
def chanOfLine (n line : Nat) : Nat :=
  if n = 8 then (line % 8) ^^^ (line / 256 % 8) else (line % 16) ^^^ (line / 256 % 16)

/-- Whether a fill has zeroed an address since DRAM last lost its contents (R374). -/
def filled (fs : List Fill) (a : Nat) : Bool :=
  fs.any fun f => f.lo ≤ a / 64 && a / 64 ≤ f.hi && chanOfLine f.nch (a / 64) == f.ch

/-- Whether an address lies in the host memory windows (Table 10.3). -/
def isHostWin (a : Nat) : Bool := 0xC00000000000 ≤ a && a < 0xC10000000000

/-- What an unlisted byte reads as: 0 in DRAM that a fill has zeroed and nothing otherwise, since nothing is known of DRAM before it is
written (R374), nor of host memory; every other array reads 0 (R435, R135; log entry 7). -/
def unlisted (fs : List Fill) (a : Nat) : Option Byte := if (isDram a && !filled fs a) || isHostWin a then none else some 0

/-- The byte held at an address, if any. -/
def memGet (fs : List Fill) (m : List Host.Cell) (a : Nat) : Option Byte :=
  match Tbl.get? m a with
  | some b => some b
  | none => unlisted fs a

/-- A byte written, keeping the canonical form: rising addresses, no entry equal to what an unlisted address reads as. -/
def memSet (fs : List Fill) (m : List Host.Cell) (a : Nat) (b : Byte) : List Host.Cell :=
  if unlisted fs a = some b then m.filter fun c => c.1 ≠ a else Tbl.set m a b

/-- The canonical form of memory. -/
def Memory.wf (fs : List Fill) (m : List Host.Cell) : Bool := Tbl.sorted m && m.all fun c => unlisted fs c.1 ≠ some c.2

/-- Bytes written at consecutive addresses. -/
def memSetBytes (fs : List Fill) (m : List Host.Cell) (a : Nat) : List Byte → List Host.Cell
  | [] => m
  | b :: bs => memSetBytes fs (memSet fs m a b) (a + 1) bs

/-- A byte as a read finds it; where nothing has written a byte of DRAM, and in host memory, a free value (log entry 8). -/
def rdByte (s : State) (a : Nat) : Byte :=
  (memGet s.fills s.mem a).getD (if isHostWin a then Config.hostByte s.freeCtr a else Config.dramByte s.dramGen a)

/-- `n` bytes read at consecutive addresses. -/
def rdBytes (s : State) (a : Nat) : Nat → List Byte
  | 0 => []
  | n + 1 => rdByte s a :: rdBytes s (a + 1) n

/-- A little-endian number of `n` bytes read from memory (R9). -/
def rdMem (s : State) (a n : Nat) : Nat := leNat (rdBytes s a n)

/-- Bytes written to memory. -/
def wrBytes (s : State) (a : Nat) (l : List Byte) : State := { s with mem := memSetBytes s.fills s.mem a l }

/-- A little-endian number written as `n` bytes. -/
def wrMem (s : State) (a n x : Nat) : State := wrBytes s a (leBytes n x)

/-! ## Data pages (R37) -/

/-- A byte of a data page. -/
def dpByte (s : State) (k : Nat) : Byte := s.pageBytes.get 0 k

/-- `n` bytes of a data page. -/
def dpBytes (s : State) (k n : Nat) : List Byte := (upto n).map fun j => dpByte s (k + j)

/-- One byte of a data page written; a byte of 0 is not listed. -/
def dpSet (s : State) (k : Nat) (b : Byte) : State :=
  { s with pageBytes := if b = 0 then s.pageBytes.filter fun e => e.1 ≠ k else s.pageBytes.set k b }

/-- Bytes of a data page written. -/
def dpWrite (s : State) (k : Nat) : List Byte → State
  | [] => s
  | b :: t => dpWrite (dpSet s k b) (k + 1) t

/-- The line of an address: its number, address bits [47:6]. -/
def lineOf (a : Nat) : Nat := a / 64

/-- The home slice of a line (R282). -/
def sliceOf (line : Nat) : Nat := (line ^^^ (line / 16) ^^^ (line / 256) ^^^ (line / 4096)) % 16

/-- Whether a line is poisoned: it holds the marker, or it is DRAM with a byte that nothing has written and its unknown contents are
not a codeword (R372, R374). -/
def poisoned (s : State) (line : Nat) : Bool :=
  s.poison.contains line ||
    (isDram (64 * line) && ((upto 64).any fun k => (memGet s.fills s.mem (64 * line + k)).isNone) && Config.dramPoison s.dramGen line)

/-- A line poisoned. -/
def setPoison (s : State) (line : Nat) : State :=
  if s.poison.contains line then s else { s with poison := line :: s.poison }

/-- A line no longer poisoned. -/
def clearPoison (s : State) (line : Nat) : State := { s with poison := s.poison.filter (· ≠ line) }

/-! ## Presence and partitions (00, 10) -/

/-- Whether a site holds a die on this part (Table 0.2). -/
def populated (s : State) (site : Nat) : Bool := site < s.part.facets || site == 12 || site == 13

/-- Whether a site is marked absent while populated (R323), as FAB_STATUS of site 12 shows. -/
def siteAbsent (s : State) (site : Nat) : Bool := rb s (Reg.FAB_STATUS 12) site

/-- Whether a block exists on this part (R4). -/
def blockPresent (s : State) (b : Block) (n : Nat) : Bool :=
  (instsOf b).contains n && populated s (siteOf b n) &&
    (match b with
     | .dmc => n < 8 || s.part.facets != 4
     | .d2d => (n < 16 && n < s.part.facets) || n == 48 ||
         (16 ≤ n && (s.part.facets == 12 || (n % 2 == 0 && 0 < (n - 16) / 2) ||
           (n % 2 == 1 && (n - 16) / 2 + 1 < s.part.facets)))
     | _ => true)

/-- State of a power domain: 0 OFF, 1 RAMP, 2 INIT, 3 ON, 4 ABSENT. -/
def domSt (s : State) (d : Nat) : Nat := nth s.dom 4 d

/-- Whether a power domain is ON. -/
def domOn (s : State) (d : Nat) : Bool := domSt s d == 3

/-- Whether a core belongs to a partition's mask. -/
def inPart (s : State) (p c : Nat) : Bool := rb s (Reg.PART_CORES p (c / 32)) (c % 32)

/-- The partition a core belongs to (R254). -/
def coreOwner (s : State) (c : Nat) : Option Nat := (upto 64).find? fun p => inPart s p c

/-- The cores of a partition. -/
def coresOf (s : State) (p : Nat) : List Nat := (upto 388).filter fun c => inPart s p c

/-- The monitor level L_D of a core: MONLVL 1 to 6, 0 and 7 acting as 6. -/
def monLevel (s : State) (c : Nat) : Nat :=
  match coreOwner s c with
  | some p => let l := rf s (Reg.DBGP_CTL p) 0 3; if l = 0 ∨ l = 7 then 6 else l
  | none => 6

/-- Whether a partition is RUNNING. -/
def partRunning (s : State) (p : Nat) : Bool := rb s (Reg.PART_STATUS p) 0

/-- Whether a partition runs STATIC. -/
def partStatic (s : State) (p : Nat) : Bool := rb s (Reg.PART_MODES p) 0

/-- One core's state. -/
def getCore (s : State) (c : Nat) : CoreSt := s.cores.get (CoreSt.reset (64 * c) rvecReset) c

/-- One core's state replaced. -/
def setCore (s : State) (c : Nat) (k : CoreSt) : State := { s with cores := s.cores.set c k }

/-- One bank of a core. -/
def CoreSt.bank (k : CoreSt) (l : Nat) : Bank := nth k.banks (Bank.reset 1 0) l

/-- One bank of a core replaced. -/
def CoreSt.setBank (k : CoreSt) (l : Nat) (b : Bank) : CoreSt := { k with banks := listSet k.banks l b }

/-- The privilege in force on a core: that of its current bank (R211). -/
def corePriv (s : State) (c : Nat) : Nat := fld ((getCore s c).bank (getCore s c).cur).status 0 2

/-- Where a port's registers lie. -/
def portBlock : Port → Block
  | .hpa => .hpa
  | .hpb => .hpb

/-- FMAP of a function of a host port (Table 16.6). -/
def fmapReg (p : Port) (f : Nat) : RegAddr :=
  match p with
  | .hpa => Reg.HPA_FMAP f
  | .hpb => Reg.HPB_FMAP f

/-- The partition for which an access acts (R42). DESIGN CHOICE: a core that belongs to no partition acts for partition 0, for the
spec names none (log entry 88). -/
def initPart (s : State) : Initiator → Nat
  | .core c => (coreOwner s c).getD 0
  | .host p f => rf s (fmapReg p f) 0 6
  | .agent _ p => p

/-- The privilege of an access: 0 U, 1 S, 2 H, 3 M. A host port or another agent acts at S (log entry 9). -/
def initPriv (s : State) : Initiator → Nat
  | .core c => corePriv s c
  | _ => 1

/-- M-level code of partition 0 (R27, R43). -/
def isM0 (s : State) (i : Initiator) : Bool := initPart s i == 0 && initPriv s i == 3

/-- PAGE_ERR.SOURCE of an access (Table 2.10). -/
def initSource : Initiator → Nat
  | .core _ => 0
  | .host .hpa _ => 1
  | .host .hpb _ => 2
  | .agent _ _ => 3

/-- SOURCE of an error-log entry by the endpoint of its initiator (Tables 2.10, 2.15, 12.1): a cluster or the hub cores, a host port, or
another agent. -/
def epSource (ep : Nat) : Nat :=
  if (ep < 384 && ep % 32 < 4) || ep = 32 * 12 + 31 then 0
  else if ep = 32 * 12 + 23 then 1
  else if ep = 32 * 12 + 24 then 2
  else 3

/-- Source endpoint of an access (R310). -/
def initEp : Initiator → Nat
  | .core c => endpointOf .core c.val
  | .host p _ => endpointOf (portBlock p) 0
  | .agent e _ => e.toNat

/-- The effective lifecycle state as BSE_STATUS.LC codes it (R458): 0 MANUFACTURE, 1 PROVISIONED, 2 FIELD, 3 MAINTENANCE,
4 DECOMMISSIONED. -/
def lcEff (s : State) : Nat := if s.life = 2 ∧ s.bse.maint then 3 else s.life

/-! ## Error log (02) -/

/-- The error-log cause codes of Table 2.11 and Table 12.3. -/
def cNOT_OWNER : Nat := 1
def cSEM_NOT_HELD : Nat := 2
def cMW_MISMATCH : Nat := 3
def cSIZE : Nat := 4
def cPRIVILEGE : Nat := 5
def cREFUSED : Nat := 6
def cCLAMP : Nat := 7
def eABSENT : Nat := 0x10
def eRANGE : Nat := 0x11
def ePOISON : Nat := 0x12
def eNOROUTE : Nat := 0x13
def eREGION : Nat := 0x14

/-- A cause reaches the ERR block (R46): it waits in the staging queue, or is counted in ERR_DROPPED where that is full. -/
def logErr (s : State) (e : ErrRec) : State :=
  if s.err.staging.length < 64 then { s with err := { s.err with staging := s.err.staging ++ [e] } }
  else countReg s Reg.ERR_DROPPED

/-- A record with the fields that most kinds leave at "none" (Table 2.15). -/
def errRec (s : State) (kind code : Nat) (b : Block) (n : Nat) : ErrRec :=
  { kind := kind, code := code, site := siteOf b n, ty := typeCode b, time := s.time, inst := n, part := 0xFF, source := 0,
    initiator := 0xFFFF, addr := 0, pc := 0, detail := List.replicate 16 0 }

/-- Sixteen detail bytes that begin with the given ones. -/
def detail (l : List Byte) : List Byte := l ++ List.replicate (16 - l.length) 0

/-! ## Where the pages lie (Tables 2.1 and 2.2) -/

/-- The pages among which a unit's pages lie: first address and number. The control pages of a core lie in its window, those of a
Facet die in the window of its site, the rest on the Focal die or the code store die. -/
def pageRegion (b : Block) (n : Nat) : Nat × Nat :=
  match b with
  | .core | .loops | .cnt => (0xF10000000000 + n * 0x100000 + 0xF0000, 16)
  | _ =>
    let st := siteOf b n
    if st < 12 then (0xF00001000000 + st * 0x400000, 1024)
    else if st = 13 then (0xF00000FE0000, 32)
    else (0xF00000010000, 4048)

/-- Where the spec itself places a unit: FAB of site 5 (02_register_pages.md:414). -/
def placeGiven (b : Block) (n : Nat) : Option Nat := if b = .fab ∧ n = 5 then some 0xF00002400000 else none

/-- Every unit of every block type. -/
def allUnits : List (Block × Nat) := (allBlocks.map fun b => (instsOf b).map fun n => (b, n)).flatten

/-- Whether a placement puts a unit's pages on page boundaries inside their region, and where the spec places them. -/
def placed (f : Block → Nat → Nat) (u : Block × Nat) : Bool :=
  let (lo, size) := pageRegion u.1 u.2
  (placeGiven u.1 u.2).all (· == f u.1 u.2) && f u.1 u.2 % 4096 == 0 && lo ≤ f u.1 u.2 && f u.1 u.2 + 4096 * pageCount u.1 u.2 ≤ lo + 4096 * size

/-- Whether the pages of two units do not overlap under a placement. -/
def apart (f : Block → Nat → Nat) (u v : Block × Nat) : Bool :=
  f u.1 u.2 + 4096 * pageCount u.1 u.2 ≤ f v.1 v.2 || f v.1 v.2 + 4096 * pageCount v.1 v.2 ≤ f u.1 u.2

/-- Whether a placement is one that Tables 2.1 and 2.2 allow: every unit in its region, no two units overlapping. -/
def placementOk (f : Block → Nat → Nat) : List (Block × Nat) → Bool
  | [] => true
  | u :: t => placed f u && t.all (apart f u) && placementOk f t

/-- The units in the order in which the packed placement takes them: FAB first, then by type codes and numbers. -/
def packOrder : List (Block × Nat) := allUnits.filter (fun u => u.1 == .fab) ++ allUnits.filter (fun u => u.1 != .fab)

/-- The placement that packs each region. -/
def packedBase (b : Block) (n : Nat) : Nat :=
  let before := (packOrder.takeWhile (· != (b, n))).filter fun u => pageRegion u.1 u.2 == pageRegion b n
  (pageRegion b n).1 + 4096 * (before.map fun u => pageCount u.1 u.2).sum

/-- The part's own placement, by block and unit (log entry 4). -/
def ownPlace (b : Block) (n : Nat) : Nat := Config.pagePlace (typeCode b) n

/-- Physical address of page 0 of a unit, as its Ammin entry gives it (R34, R36, R54): any placement that Tables 2.1 and 2.2
allow (log entry 4). -/
def pageBase (b : Block) (n : Nat) : Nat := if placementOk ownPlace allUnits then ownPlace b n else packedBase b n

/-- Physical address of a register or data-page location. -/
def physOf (r : RegAddr) : Nat := pageBase r.ty r.inst + 4096 * r.page + r.off

/-- The block and page at a physical address of the register pages (R54). -/
def locate (a : Nat) : Option RegAddr :=
  allBlocks.findSome? fun b => (instsOf b).findSome? fun n =>
    let base := pageBase b n
    if base ≤ a ∧ a < base + 4096 * pageCount b n then some ⟨b, n, (a - base) / 4096, (a - base) % 4096⟩ else none

/-- The site whose window of the register aperture holds an address (Table 2.1). -/
def apertureSite (a : Nat) : Option Nat :=
  if 0xF00001000000 ≤ a ∧ a < 0xF00004000000 then some ((a - 0xF00001000000) / 0x400000) else none

/-- The ACCESS entry of a failed access to a page (R41). -/
def accessRec (s : State) (i : Initiator) (r : RegAddr) (code : Nat) : ErrRec :=
  { errRec s 1 code r.ty r.inst with
    part := initPart s i, source := initSource i, initiator := initEp i, addr := physOf r,
    detail := detail (leBytes 2 r.off ++ [BitVec.ofNat 8 r.page]) }

/-- The ACCESS entry of an error response that no page records (R6, R36, R259). Where the address reaches no page the spec names no
reporting block: DESIGN CHOICE, the fabric block of the Focal die, FAB of site 12 (log entry 87). -/
def accessAddrRec (s : State) (i : Initiator) (addr code : Nat) : ErrRec :=
  { errRec s 1 code .fab 12 with
    part := initPart s i, source := initSource i, initiator := initEp i, addr := addr,
    detail := detail (leBytes 2 (addr % 4096)) }

/-- The page that answers for a location: page 0 for a data page (R37). -/
def govPage (r : RegAddr) : Nat := if isDataPage r.ty r.inst r.page then 0 else r.page

/-- PAGE_ERR of the page that answers for a location records a failed access (Table 2.10, R41). -/
def recordPageErr (s : State) (i : Initiator) (r : RegAddr) (cause : Nat) : State :=
  let e := pageReg r.ty r.inst (govPage r) 0x024
  let old := rd s e
  let ovf := bit old 31 || bit old 30
  let v := cause + 2 ^ 8 * initPart s i + 2 ^ 14 * initSource i + 2 ^ 16 * (r.off % 4096) + 2 ^ 30 * ovf.toNat + 2 ^ 31
  logErr (wr s e (BitVec.ofNat 64 v)) (accessRec s i r cause)

/-- The bus answers with an error. -/
def respErr (s : State) (code : Nat) : State := { s with resp := .err code }

/-- The bus answers with a value. -/
def respOk (s : State) (v : Word) : State := { s with resp := .ok v }

/-- A failed access: recorded, logged, and answered with an error response. -/
def failAccess (s : State) (i : Initiator) (r : RegAddr) (cause : Nat) : State :=
  respErr (recordPageErr s i r cause) cause

/-! ## Event sources (02, 04) -/

/-- The phase a time base shows (R60): the top 64 bits of its accumulator. -/
def TimeBase.phase (t : TimeBase) : Word := ofI (t.acc / 65536)

/-- One time base. -/
def getTb (s : State) (n : Nat) : TimeBase := nth s.fio.tbs TimeBase.reset n

/-- One time base replaced. -/
def setTb (s : State) (n : Nat) (t : TimeBase) : State := { s with fio := { s.fio with tbs := listSet s.fio.tbs n t } }

/-- One event source. -/
def getSrc (s : State) (n : Nat) : Src := s.evr.srcs.get Src.reset n

/-- One event source replaced. -/
def setSrc (s : State) (n : Nat) (x : Src) : State := { s with evr := { s.evr with srcs := s.evr.srcs.set n x } }

/-- The partition that owns a source: EVR_OWN[s] (R98). -/
def srcOwner (s : State) (n : Nat) : Nat := rf s (Reg.EVR_OWN (n / 4)) (8 * (n % 4)) 6

/-- Every time base's phase at the present nanosecond. -/
def phasesNow (s : State) : List Word := s.fio.tbs.map TimeBase.phase

/-- An assertion of a source at the present nanosecond: it travels to the EVR input with the phases of its instant (R82, R96). -/
def assertSrc (s : State) (n : Nat) (late : Bool) : State :=
  { s with evr := { s.evr with
      arrivals := s.evr.arrivals ++ [{ src := n, late := late, phases := phasesNow s, time := s.time }] } }

/-- Where a partition page of BSE, DBG or LNS names its software source (R514). -/
def psrcReg (b : Block) (page : Nat) : Option RegAddr :=
  match b with
  | .bse => some (Reg.BSEP_PSRC (page - 1))
  | .dbg => some (Reg.DBGP_PSRC (page - 1))
  | .lns => some (Reg.LNSP_PSRC (page - 1))
  | _ => none

/-- The source that condition `k` of a page raises, if any (R40, R80, R514). -/
def condSource (s : State) (b : Block) (n page k : Nat) : Option Nat :=
  match b with
  | .tbu =>
    let e := if page = 0 then Reg.TBU_EVTSRC else Reg.TB_EVTSRC (page - 1)
    if rb s e 8 && rb s (Reg.CMP_CTL (rf s e 0 8)) 14 then some (rf s e 0 8) else none
  | _ =>
    match fixedSource b n page k with
    | some x => some x
    | none =>
      if page = 0 then none else
      match psrcReg b page with
      | some r => if rb s r 15 then some (rf s r 0 10) else none
      | none => none

/-- EVT_STATUS and EVT_ENABLE of a page. -/
def evtStatus (b : Block) (n page : Nat) : RegAddr := pageReg b n page 0x010
def evtEnable (b : Block) (n page : Nat) : RegAddr := pageReg b n page 0x014

/-- Sources of the conditions that are raised after a change of a page's event registers and were not before: each rise
asserts its source (R40, R514; log entry 10). -/
def assertRises (s : State) (b : Block) (n page : Nat) (before after : Nat) : State :=
  (upto 32).foldl (fun t k =>
    if after.testBit k && !before.testBit k then
      match condSource t b n page k with
      | some x => assertSrc t x false
      | none => t
    else t) s

/-- EVT_STATUS or EVT_ENABLE of a page takes a new value; the conditions that become raised assert their sources. -/
def setEvt (s : State) (b : Block) (n page : Nat) (status enable : Word) : State :=
  let before := (rd s (evtStatus b n page) &&& rd s (evtEnable b n page)).toNat
  let t := wr (wr s (evtStatus b n page) status) (evtEnable b n page) enable
  assertRises t b n page before (status &&& enable).toNat

/-- After a change of the registers that name a page's source, a raised condition asserts a source that it did not reach before (R80,
R514); `old` is the state before the change. -/
def assertMoved (old s : State) (b : Block) (n page : Nat) : State :=
  let up := (rd s (evtStatus b n page) &&& rd s (evtEnable b n page)).toNat
  (upto 32).foldl (fun t k =>
    if up.testBit k then
      match condSource s b n page k with
      | some x => if condSource old b n page k = some x then t else assertSrc t x false
      | none => t
    else t) s

/-- Condition `k` of a page occurs (R40): its EVT_STATUS bit is set, and its source is asserted where it rises. -/
def raiseCond (s : State) (b : Block) (n page k : Nat) : State :=
  setEvt s b n page (setBit (rd s (evtStatus b n page)) k true) (rd s (evtEnable b n page))

/-- Whether some condition of some page holds a source asserted (R40). -/
def condAsserted (s : State) (src : Nat) : Bool :=
  s.regs.any fun e =>
    let k := e.1
    let page := k / 4096 % 1024
    let n := k / (4096 * 1024) % 1024
    k % 4096 == 0x010 &&
      match allBlocks.find? fun b => typeCode b == k / (4096 * 1024 * 1024) with
      | none => false
      | some b =>
        (upto 32).any fun i =>
          bit e.2 i && rb s (evtEnable b n page) i && condSource s b n page i == some src

/-! ## Crossings (R72, R76) -/

/-- Whether a target has been passed in a direction (R76). -/
def passed (t b : Word) : Cross → Bool
  | .rising => (t - b).toInt ≤ 0
  | .falling => 0 ≤ (t - b).toInt

/-- The crossing that a change from `a` to `b` makes of a target, as DIR selects (R72). -/
def crossing (dir : Nat) (t a b : Word) : Option Cross :=
  if dir ≠ 1 ∧ 0 < (t - a).toInt ∧ (t - b).toInt ≤ 0 then some .rising
  else if dir ≠ 0 ∧ (t - a).toInt < 0 ∧ 0 ≤ (t - b).toInt then some .falling
  else none

/-! ## Register accesses (02) -/

/-- Whether a register has a field whose access code accepts writes (R10): RW, W1C, WO or MW. The three registers of a storage port
that the spec does not place have one each. -/
def writable (r : RegAddr) : Bool :=
  match findRow r.ty r.page r.off with
  | some row => row.mw || row.rw ||| row.w1c ||| row.wo != 0
  | none => r.ty == .spa && r.page == 0 && 0x100 ≤ r.off &&
      (r.off == Config.spaCfgaddr % 4096 || r.off == Config.spaMwbase % 4096 || r.off == Config.spaCfgdata % 4096)

/-- Whether a location is guarded by its page's semaphore where firmware says so: a byte of a data page, or a register that accepts
writes of a page that can be guarded (R515). -/
def sgField (r : RegAddr) : Bool := capSg r.ty (govPage r) && (isDataPage r.ty r.inst r.page || writable r)

/-- Whether an access comes from a host whose port does not hold a page's semaphore while its page is guarded (R44, R515). -/
def semBlocked (s : State) (i : Initiator) (r : RegAddr) : Bool :=
  let o := rd s (pageReg r.ty r.inst (govPage r) 0x00C)
  sgField r && bit o 16 &&
    match i with
    | .host p _ => rf s (Reg.HPAS_HSEM (fld o 8 8)) 0 2 != (match p with | .hpa => 1 | .hpb => 2)
    | _ => false

/-- Whether a package reset leaves a block's registers as they are (Table 18.7). -/
def resetKeeps : Block → Bool
  | .err | .dbg | .lns => true
  | _ => false

/-- PAGE_STATUS.READY (R39): 1 once the initialisation after the block's last reset has ended: its domain is ON, power-on reset is
over, and so is a package reset that reinitialises the block (log entry 11). -/
def ready (s : State) (b : Block) (n : Nat) : Bool :=
  domOn s (domainOf b n) && !s.pwr.por && (resetKeeps b || !s.pwr.inReset)

/-- The registers that only M-level code of partition 0 writes, whichever partition owns the page: PAGE_OWNER (R43) and the pages and
registers that their chapters reserve to it (R27, R49, R98, R252, R304, R327, R333, R376, R395, R399, R434, R469, R497, R504). -/
def m0Only (r : RegAddr) : Bool :=
  !isDataPage r.ty r.inst r.page && (r.off == 0x00C ||
  match r.ty with
  | .err | .pwr | .hup | .hom | .fab | .d2d | .dmc | .mcp | .hpa | .hpb => true
  | .die => r.page != 0
  | .qe => r.page == 0
  | .bse => r.page == 0 && r.off != 0x1A0
  | .smg => r.off != 0x108 && r.off != 0x138 && r.off != 0x140
  | .dbg => r.page == 0 || r.off == 0x100 || r.off == 0x108 || r.off == 0x118
  | .lns => r.page == 0
  | .evr => r.page == 0 && 0x200 ≤ r.off
  | .core => r.page == 3 && r.off == 0x1B8
  | _ => false)

/-- Whether the partition of a write is not asked for: the watchdog's service slots and SMG_CMD, whose rules name their writers (R341,
R348), and RCV_CTL (R469). -/
def openToAll (r : RegAddr) : Bool :=
  (r.ty == .smg && (r.off == 0x108 || r.off == 0x138 || r.off == 0x140)) || (r.ty == .bse && r.page == 0 && r.off == 0x1A0)

/-- The owning partition of a page. -/
def pageOwner (s : State) (r : RegAddr) : Nat := rf s (pageReg r.ty r.inst (govPage r) 0x00C) 0 6

/-- Whether a partition reaches a page's registers (R42). -/
def reaches (s : State) (i : Initiator) (r : RegAddr) : Bool := initPart s i == 0 || initPart s i == pageOwner s r

/-- Whether a domain is without power: OFF, in RAMP or ABSENT (R435). In INIT its pages are reached, with READY 0 (R39). -/
def domDark (s : State) (d : Nat) : Bool := domSt s d != 2 && domSt s d != 3

/-- Whether an access cannot reach a page: the block or its site absent, or its domain off (R6, R41, R323). -/
def unreachable (s : State) (b : Block) (n : Nat) : Bool :=
  !blockPresent s b n || domDark s (domainOf b n) || (siteOf b n != 12 && siteAbsent s (siteOf b n))

/-- Whether a unit gives no service but its registers: not reached, or its domain not ON. -/
def away (s : State) (b : Block) (n : Nat) : Bool := unreachable s b n || !domOn s (domainOf b n)

/-- The key of a route entry: site, NI, destination endpoint. -/
def rtKey (site ni e : Nat) : Nat := (site * 64 + ni) * 512 + e

/-- Whether the installed entry of an endpoint's NI for a destination has VALID 0 (R309): its packets are not sent. A default entry of a
present block is VALID. -/
def noRoute (s : State) (src dst : Nat) : Bool :=
  src != dst &&
    match s.fab.routes.get? (rtKey (src / 32) (src % 32) dst) with
    | some w => !bit w.1 48
    | none => false

/-- Whether an access does not reach a block: the block is absent or off, or no route leads to it (R6, R309). -/
def cutOff (s : State) (i : Initiator) (b : Block) (n : Nat) : Bool :=
  unreachable s b n || noRoute s (initEp i) (endpointOf b n)

/-- The cause recorded for a write from a partition that does not reach the page: NOT_OWNER, and PRIVILEGE for what only M-level code of
partition 0 writes (R42, R43). -/
def ownerCause (r : RegAddr) : Nat := if m0Only r then cPRIVILEGE else cNOT_OWNER

/-- An error response and an ACCESS entry, where no page is reached (R6, R41, R309). -/
def absentAccess (s : State) (i : Initiator) (r : RegAddr) : State :=
  let code := if unreachable s r.ty r.inst then eABSENT else eNOROUTE
  respErr (logErr s { accessRec s i r code with detail := detail (leBytes 2 r.off) }) code

/-- An access to a register that another unit holds, which is not reached (R6, R41, R355). -/
def unitAbsent (s : State) (i : Initiator) (r : RegAddr) : State :=
  respErr (logErr s { accessRec s i r eABSENT with detail := detail (leBytes 2 r.off) }) eABSENT

/-- Whether an access to DMC_MAP meets HUB_MC0 without power: instance 0 holds the register for every channel (R355). -/
def mapDark (s : State) (r : RegAddr) : Bool := r.ty == .dmc && r.page == 0 && r.off == 0x10C && domDark s 39

/-- A write of a listed block register: presence, width (R35), ownership (R42), the privilege of the page or register
(`privOk`), READY (R39) and the semaphore (R44) are checked in this order (log entry 12); then the effect applies. -/
def regWrite (s : State) (i : Initiator) (r : RegAddr) (sizeOk privOk : Bool) (eff : State → State) : State :=
  if cutOff s i r.ty r.inst then absentAccess s i r
  else if !sizeOk then failAccess s i r cSIZE
  else if !openToAll r && !reaches s i r then failAccess s i r (ownerCause r)
  else if !privOk then failAccess s i r cPRIVILEGE
  else if !ready s r.ty r.inst then failAccess s i r cREFUSED
  else if semBlocked s i r then respOk (recordPageErr s i r cSEM_NOT_HELD) 0
  else eff (respOk s 0)

/-- A read of a listed block register: presence, width and ownership are checked; then the read is answered. -/
def regRead (s : State) (i : Initiator) (r : RegAddr) (sizeOk : Bool) (ans : State → State) : State :=
  if cutOff s i r.ty r.inst then absentAccess s i r
  else if !sizeOk then failAccess s i r cSIZE
  else if !reaches s i r then failAccess s i r cNOT_OWNER
  else ans s

/-- A write refused by a block's state rule (R41, R311). -/
def refuse (s : State) (i : Initiator) (r : RegAddr) : State := failAccess s i r cREFUSED

/-- A write of a listed block register whose effect may be refused by the block's state rule (`none`). -/
def regWriteOpt (s : State) (i : Initiator) (r : RegAddr) (privOk : Bool) (f : State → Option State) : State :=
  regWrite s i r true privOk fun t =>
    match f t with
    | some u => u
    | none => refuse t i r

/-- A requested value held at a limit: the write takes effect there and PAGE_ERR records CLAMP (Table 2.11). -/
def clampNote (s : State) (i : Initiator) (r : RegAddr) : State := recordPageErr s i r cCLAMP

/-- A partition is in debug stop (R482). -/
def debugStopped (s : State) (p : Nat) : Bool := rb s (Reg.DBGP_STATUS p) 0

/-- A page is frozen: its owner is in debug stop and FREEZE is 1 (R482). -/
def frozen (s : State) (b : Block) (n page : Nat) : Bool :=
  capFrz b page && rb s (pageReg b n page 0x020) 0 && debugStopped s (rf s (pageReg b n page 0x00C) 0 6)

/-- The state with the next free value used up. -/
def bumpFree (s : State) : State := { s with freeCtr := s.freeCtr + 1 }

end Sys2Proof.Machine
end

