-- ==== Sys2Proof/Machine/Cache.lean ====
section
/-! DEFINITION. The snoop filters of the home slices, the lines that agents and the caches of a die hold, and flows of a line that nothing
else concerns, taken as a whole (R195, R271 to R275, R278 to R291, R300). -/

namespace Sys2Proof.Machine

/-! ## Slices, filter, lines (R282) -/

/-- The filter set of a line within its slice: the 14 line-address bits above the four that the slice and the bits above them determine, so
that a slice's lines reach all 16,384 sets (R282; log entry 30). -/
def filtSet (line : Nat) : Nat := line / 16 % 16384

/-- TAG of an entry (Table 11.2). -/
def FiltE.tag (e : FiltE) : Nat := e.line / 65536

def getSl (s : State) (h : Nat) : Slice := s.coh.slices.get Slice.reset h
def setSl (s : State) (h : Nat) (x : Slice) : State := { s with coh := { s.coh with slices := s.coh.slices.set h x } }
def lineKey (a line : Nat) : Nat := a * 2 ^ 42 + line
def getLn (s : State) (a line : Nat) : AgLine := s.coh.lines.get AgLine.reset (lineKey a line)
def setLn (s : State) (a line : Nat) (x : AgLine) : State :=
  { s with coh := { s.coh with lines := s.coh.lines.set (lineKey a line) x } }

/-- The entry of a line. -/
def Slice.entry (x : Slice) (line : Nat) : Option FiltE := x.filter.find? fun e => e.line == line

/-- An entry written: in its place where there is one, else as the latest allocated; an entry that names no agent is freed. -/
def Slice.put (x : Slice) (e : FiltE) : Slice :=
  if e.present = 0 then { x with filter := x.filter.filter fun f => f.line != e.line }
  else if x.filter.any fun f => f.line == e.line then
    { x with filter := x.filter.map fun f => if f.line == e.line then e else f }
  else { x with filter := x.filter ++ [e] }

/-- An entry freed, with any error it held. -/
def Slice.free (x : Slice) (line : Nat) : Slice :=
  { x with filter := x.filter.filter fun f => f.line != line, bad := x.bad.filter (· != line) }

/-- An entry without an agent. -/
def FiltE.without (e : FiltE) (a : Nat) : FiltE :=
  { e with present := e.present - (if e.present.testBit a then 2 ^ a else 0), owner := if e.owner = some a then none else e.owner }

/-- An agent leaves the entry of a line (R290). -/
def Slice.leave (x : Slice) (a line : Nat) : Slice :=
  match x.entry line with
  | none => x
  | some e => x.put (e.without a)

/-- Agents that a mask names. -/
def agentsOf (mask : Nat) : List Nat := (upto 13).filter fun a => mask.testBit a

/-- Agents marked absent (R300). -/
def absentMask (s : State) (h : Nat) : Nat := rf s (Reg.HOM_STATUS h) 0 13

/-- A mask without the absent agents. -/
def liveMask (s : State) (h mask : Nat) : Nat := sumNat ((agentsOf mask).filter (fun a => !(absentMask s h).testBit a) |>.map (2 ^ ·))

/-- The active transaction of a line. -/
def Slice.tx (x : Slice) (line : Nat) : Option CohTx := x.txs.find? fun t => t.line == line

/-- Whether a caching agent takes part: HUB_CORE's agent 12 always, a Facet die while it is not absent, its FAB domain is ON and its hub port
has trained (R303). -/
def agentOn (s : State) (a : Nat) : Bool :=
  a == 12 || (populated s a && !siteAbsent s a && domOn s (3 * a + 2) && 2 ≤ rf s (Reg.D2D_STATUS a) 0 3)

/-! ## Poison at home (Table 11.7) -/

/-- A line that a lost die owned is poisoned at home: marker written, entry freed, counted, recorded, logged, POISON raised. -/
def poisonHome (s : State) (h line lost : Nat) : State :=
  let s := setSl (setPoison s line) h ((getSl s h).free line)
  let s := wr (countReg s (Reg.HOM_POISONED h)) (Reg.HOM_POISON_ADDR h) (BitVec.ofNat 64 (64 * line + 2 ^ 63))
  let s := logErr s { errRec s 4 1 .hom h with addr := 64 * line, detail := detail [BitVec.ofNat 8 h, BitVec.ofNat 8 lost] }
  raiseCond s .hom h 0 0

/-- What the loss of dies does to an entry (Table 11.7), applied by the scan and at every lookup. -/
def scrubEntry (s : State) (h line : Nat) : State :=
  match (getSl s h).entry line with
  | none => s
  | some e =>
    let lost := fun a => (absentMask s h).testBit a
    match e.owner with
    | some o => if lost o then poisonHome s h line o else setSl s h ((getSl s h).put { e with present := liveMask s h e.present })
    | none => setSl s h ((getSl s h).put { e with present := liveMask s h e.present })

/-- Whether a lost die owns a line that no lookup and no scan has reached yet (R300). -/
def lostOwner (s : State) (line : Nat) : Bool :=
  let h := sliceOf line
  match (getSl s h).entry line with
  | none => false
  | some e => e.owner.any fun o => (absentMask s h).testBit o

/-- Whether a read of a line gives poisoned data (R299, R300). -/
def lineBad (s : State) (line : Nat) : Bool := poisoned s line || (isDram (64 * line) && lostOwner s line)

/-! ## The caches of a die (R271, R280) -/

/-- The agent of a core. -/
def agentOfCore (c : Nat) : Nat := if c < 384 then c / 32 else 12

/-- The endpoint that an agent's requests come from (Table 12.1): that of its die, or of the hub cores. -/
def agentEp (a : Nat) : Nat := if a < 12 then 32 * a + 4 else endpointOf .core 384

/-- The agent of an L2; the hub cores' is the last. -/
def agentOfCluster (cl : Nat) : Nat := if cl < 48 then cl / 4 else 12

/-- Places in the L2s and L3s (Table 10.5). -/
def l2Key (cl line way : Nat) : Nat := (cl * 2048 + line % 2048) * 16 + way
def l3Key (die line way : Nat) : Nat := (die * 16384 + line % 16384) * 16 + way

/-- Whether an L2 holds a line. -/
def l2Has (s : State) (cl line : Nat) : Bool := s.coh.l2.any fun e => e.1 / 32768 == cl && e.2.1 == line

/-- Whether a die's L3 holds a line, in whatever way (R272). -/
def l3Has (s : State) (a line : Nat) : Bool := s.coh.l3.any fun e => e.1 / 262144 == a && e.2 == line

/-- The cluster filter of a die: the L2s that hold a line (R280). -/
def clusterFilter (s : State) (a line : Nat) : List Nat := (upto 49).filter fun cl => agentOfCluster cl == a && l2Has s cl line

/-- A line invalidated in a core's caches: its reservation is lost (R195); a locked L1I line keeps its way (R273). -/
def invLine (k : CoreSt) (line : Nat) : CoreSt :=
  { k with
    l1d := k.l1d.filter fun e => e.2 != line
    l1i := (k.l1i.filter fun e => e.2.locked || e.2.line != line).map fun e =>
      if e.2.line == line then (e.1, { e.2 with valid := false }) else e
    resv := match k.resv with
      | some (a, z) => if a / 64 = line then none else some (a, z)
      | none => none }

/-- A line invalidated in the caches of the cores that a test picks. -/
def invCores (s : State) (p : Nat → Bool) (line : Nat) : State :=
  { s with cores := s.cores.map fun e => if p e.1 then (e.1, invLine e.2 line) else e }

/-- The line leaves the L2s and L3s that the tests pick. -/
def dropShared (s : State) (p q : Nat → Bool) (line : Nat) : State :=
  { s with coh := { s.coh with
      l2 := s.coh.l2.filter fun e => !(p (e.1 / 32768) && e.2.1 == line)
      l3 := s.coh.l3.filter fun e => !(q (e.1 / 262144) && e.2 == line) } }

/-- A line leaves every cache of an agent. -/
def leaveAgent (s : State) (a line : Nat) : State :=
  dropShared (invCores s (fun c => agentOfCore c == a) line) (fun cl => agentOfCluster cl == a) (fun d => d == a) line

/-- A core writes a line: no other core of its agent, no other L2 and no L3 keeps a copy. -/
def soleInDie (s : State) (c line : Nat) : State :=
  let a := agentOfCore c
  dropShared (invCores s (fun d => agentOfCore d == a && d != c) line) (fun cl => agentOfCluster cl == a && cl != c / 8) (fun d => d == a)
    line

/-! ## Snoops answered (Table 11.5) -/

/-- A holder's answer: whether it forwards data and in which state, whether dirty, whether it returns data to the home, and its final
state. -/
def snoopAnswer (code : Nat) (st : LineSt) : Option LineSt × Bool × Bool × LineSt :=
  match code, st with
  | 0x10, .m => (some .s, true, false, .o)
  | 0x10, .o => (some .s, true, false, .o)
  | 0x10, .e => (some .s, false, false, .s)
  | 0x10, .s => (none, false, false, .s)
  | 0x11, .m => (some .m, true, false, .i)
  | 0x11, .o => (some .m, true, false, .i)
  | 0x11, .e => (some .e, false, false, .i)
  | 0x12, .m => (some .s, true, false, .m)
  | 0x12, .o => (some .s, true, false, .o)
  | 0x12, .e => (some .s, false, false, .e)
  | 0x12, .s => (none, false, false, .s)
  | 0x13, .m => (none, true, true, .i)
  | 0x13, .o => (none, true, true, .i)
  | _, _ => (none, false, false, .i)

/-- A holder of a line that nothing else concerns answers a snoop at once. -/
def snoopNow (s : State) (code line a : Nat) : State :=
  let x := getLn s a line
  let fin := (snoopAnswer code x.st).2.2.2
  let s := setLn s a line { x with st := fin }
  if fin = .i then leaveAgent s a line else s

/-! ## Whole flows of an access (R280, R281, R283, R287, R289, R290; log entry 63) -/

/-- Whether nothing about a line is under way: no transaction, credit or reservation at its home, no message, no request, waiting snoop or
writeback at an agent. -/
def lineQuiet (s : State) (line : Nat) : Bool :=
  let x := getSl s (sliceOf line)
  (x.tx line).isNone && !(x.granted.any fun g => g.1 == line) && !(x.credits.any fun g => g.1 == line) &&
    !(x.reserved.any fun g => g.1 == line) && !(s.coh.msgs.any fun m => m.line == line) &&
    s.coh.lines.all fun e => e.1 % 2 ^ 42 != line || (e.2.req.isNone && e.2.wb.isNone && e.2.waiting.isEmpty)

/-- A line is back-invalidated (R283): SnpFlush to its owner, SnpInv to the others, the entry freed. -/
def backInvNow (s : State) (h v : Nat) : State :=
  match (getSl s h).entry v with
  | none => s
  | some e =>
    let s := (agentsOf (liveMask s h e.present)).foldl (fun u a => snoopNow u (if e.owner == some a then 0x13 else 0x11) v a) s
    countReg (setSl s h ((getSl s h).free v)) (Reg.HOM_BACKINV h)

/-- The log entry of a filter entry with an uncorrectable error, counted as a back-invalidation (R284). -/
def badEntryLog (s : State) (h line : Nat) : State :=
  logErr (countReg s (Reg.HOM_BACKINV h))
    { errRec s 4 2 .hom h with addr := 64 * line, detail := detail [BitVec.ofNat 8 h, 0xFF] }

/-- A lookup of a line that nothing else concerns: an entry with an uncorrectable error is flushed from every agent and freed (R284). -/
def lookupNow (s : State) (h line : Nat) : State :=
  if (getSl s h).bad.contains line then
    let s := (agentsOf (liveMask s h (2 ^ 13 - 1))).foldl (fun u a => snoopNow u 0x13 line a) (badEntryLog s h line)
    setSl s h ((getSl s h).free line)
  else scrubEntry s h line

/-- Whether an agent holds a line within its hold window (R291). -/
def inWindow (s : State) (a line : Nat) : Bool := (getLn s a line).st != .i && 8 * s.time < (getLn s a line).hold

/-- Agents other than `a` that the entry of a line names and that hold it within their windows. -/
def heldBy (s : State) (a line : Nat) : List Nat :=
  match (getSl s (sliceOf line)).entry line with
  | none => []
  | some e => (agentsOf (liveMask s (sliceOf line) e.present)).filter fun b => b != a && inWindow s b line

/-- A place for a line in its filter set: a full set gives up its earliest entry of which nothing is under way (R283), once no holder's window
runs (R291). -/
def roomFor (s : State) (h line : Nat) : Option State :=
  let x := getSl s h
  let l := x.filter.filter fun e => filtSet e.line == filtSet line
  if (x.entry line).isSome || l.length < 16 then some s
  else match l.find? fun e => lineQuiet s e.line with
    | some e => if (heldBy s 13 e.line).isEmpty then some (backInvNow (scrubEntry s h e.line) h e.line) else none
    | none => none

/-- An agent takes a granted state; E and M open its hold window (R291). -/
def takeLine (s : State) (a line : Nat) (st : LineSt) : State :=
  let x := getLn s a line
  setLn s a line { x with
    st := st, hold := if st = .e ∨ st = .m then 8 * s.time + 5 * rf s (Reg.HOM_CTL 0) 0 9 else x.hold }

/-- RdShared as a whole (Tables 11.4, 11.5). -/
def grantShared (s : State) (a line : Nat) : State :=
  let h := sliceOf line
  match roomFor (lookupNow s h line) h line with
  | none => s
  | some s =>
    match (getSl s h).entry line with
    | none => takeLine (setSl s h ((getSl s h).put { line := line, present := 2 ^ a, owner := some a })) a line .e
    | some e =>
      let held := match e.owner with
        | some o => if (getLn s o line).st = LineSt.i then e.without o else e
        | none => e
      let s := match e.owner with
        | some o => if o = a then s else snoopNow s 0x10 line o
        | none => s
      takeLine (setSl s h ((getSl s h).put { held with present := held.present ||| 2 ^ a })) a line .s

/-- RdUnique or Upgrade as a whole, and the move to M of the store that asked for it. -/
def grantUnique (s : State) (a line : Nat) : State :=
  let h := sliceOf line
  match roomFor (lookupNow s h line) h line with
  | none => s
  | some s =>
    let others := match (getSl s h).entry line with
      | some e => (agentsOf (liveMask s h e.present)).filter (· != a)
      | none => []
    let s := others.foldl (fun u b => snoopNow u 0x11 line b) s
    takeLine (setSl s h ((getSl s h).put { line := line, present := 2 ^ a, owner := some a })) a line .m

/-- Whether an agent must ask the home before it reads or writes a line (R280, R281). -/
def asksHome (s : State) (a line : Nat) (store : Bool) : Bool :=
  match (getLn s a line).st with
  | .i => true
  | .m | .e => false
  | _ => store

/-- An agent needs a copy of a line to read: an own copy in any valid state, else a home request (R280). -/
def shareLine (s : State) (a line : Nat) : State :=
  if (getLn s a line).st ≠ .i || !agentOn s a || !lineQuiet s line then s else grantShared s a line

/-- An agent needs a line to write: M, E with its silent move to M (R281), else a home request. -/
def ownLine (s : State) (a line : Nat) : State :=
  match (getLn s a line).st with
  | .m => s
  | .e => setLn s a line { getLn s a line with st := .m }
  | _ => if !agentOn s a || !lineQuiet s line then s else grantUnique s a line

/-- Whether an access of an agent waits for a line (R281, R291): it must ask the home, and something of the line is under way there, the filter
set has no place, or a holder that its request would snoop is within its window. A read snoops the owner alone. -/
def lineWaits (s : State) (a line : Nat) (store : Bool) : Bool :=
  let h := sliceOf line
  let held := heldBy s a line
  let owner := ((getSl s h).entry line).bind FiltE.owner
  agentOn s a && asksHome s a line store &&
    (!lineQuiet s line || (roomFor s h line).isNone || if store then !held.isEmpty else held.any fun b => owner == some b)

/-- WbData or Evict as a whole: an agent gives a line up (R290). -/
def giveUp (s : State) (a line : Nat) : State :=
  let x := getLn s a line
  if x.st = .i || !lineQuiet s line then s
  else setLn (setSl s (sliceOf line) ((getSl s (sliceOf line)).leave a line)) a line { x with st := .i }

/-- Every copy of a line is invalidated and its entry freed: a write by a non-caching agent, or CLEAN_INV (R274, R289). -/
def homeFlush (s : State) (line : Nat) : State :=
  let h := sliceOf line
  if !isDram (64 * line) || !lineQuiet s line then s
  else
    let s := lookupNow s h line
    match (getSl s h).entry line with
    | none => s
    | some e =>
      let s := (agentsOf e.present).foldl (fun u a => snoopNow u 0x13 line a) s
      setSl s h ((getSl s h).free line)

end Sys2Proof.Machine
end

