-- ==== Sys2Proof/Machine/Gpe.lean ====
section
/-! DEFINITION. Gate pattern engine: outputs, forcing, segments, entries (R83 to R88). -/

namespace Sys2Proof.Machine

/-- The answer of a command that goes on. -/
abbrev Out := Host.Outcome State Fault Refusal

/-- A command's next state. -/
abbrev ok (s : State) : Out := .next s

def getGpe (s : State) (g : Nat) : Gpe := nth s.fio.gpes Gpe.reset g

def setGpe (s : State) (g : Nat) (u : Gpe) : State :=
  { s with fio := { s.fio with gpes := listSet s.fio.gpes g u } }

/-- Whether any force bit of a group is set (R87). -/
def gpeForced (s : State) (g : Nat) : Bool := rf s (Reg.GPE_FORCE g) 0 5 != 0

/-- An output driven to its inactive level, its turn-off time kept. -/
def GpeOut.clear (o : GpeOut) (now : Nat) : GpeOut :=
  { o with on := false, want := false, offAt := if o.on then now else o.offAt }

/-- A force cause drives a group's outputs inactive and abandons its segment (R87): bit 0 SAFE, 1 DEBUG, 2 TRIP, 3 FAULT, 4
SW. Conditions FORCED and, for an underflow, FAULT are raised. -/
def gpeForce (s : State) (g k : Nat) : State :=
  if !domOn s 46 then s else
  let s := wb s (Reg.GPE_FORCE g) k true
  let u := getGpe s g
  let s := setGpe s g { u with seg := none, outs := u.outs.map fun o => o.clear s.time }
  let s := raiseCond s .gpe g 0 1
  if k = 3 then raiseCond s .gpe g 0 0 else s

/-- Every group forced by one cause. -/
def gpeForceAll (s : State) (k : Nat) : State := (upto 12).foldl (fun t g => gpeForce t g k) s

/-- DT or MINPW of a pair (Table 3.15). -/
def gpeDt (s : State) (g pair : Nat) : Nat := rf s (if pair = 0 then Reg.GPE_DT0 g else Reg.GPE_DT1 g) 0 14
def gpeMinPw (s : State) (g pair : Nat) : Nat := rf s (if pair = 0 then Reg.GPE_DT0 g else Reg.GPE_DT1 g) 16 14

/-- Whether a pair is enabled. -/
def gpePaired (s : State) (g pair : Nat) : Bool := rb s (Reg.GPE_CTL g) (10 + pair)

/-- One output follows its commanded level as far as DT and MINPW let it (R86). -/
def gpeSettleOut (s : State) (g i : Nat) (outs : List GpeOut) : List GpeOut :=
  let o := nth outs GpeOut.reset i
  let j := if i % 2 = 0 then i + 1 else i - 1
  let q := nth outs GpeOut.reset j
  let paired := gpePaired s g (i / 2)
  if o.on && !o.want then
    if !paired || o.onAt + gpeMinPw s g (i / 2) ≤ s.time then listSet outs i { o with on := false, offAt := s.time } else outs
  else if !o.on && o.want then
    if !paired || (!q.on && q.offAt + gpeDt s g (i / 2) ≤ s.time) then listSet outs i { o with on := true, onAt := s.time }
    else outs
  else outs

/-- All outputs of a group follow, turn-offs first. -/
def gpeSettle (s : State) (g : Nat) : State :=
  let u := getGpe s g
  let offs := (upto 4).foldl (fun l i => if (nth l GpeOut.reset i).on then gpeSettleOut s g i l else l) u.outs
  setGpe s g { u with outs := (upto 4).foldl (fun l i => gpeSettleOut s g i l) offs }

/-- An entry of the pattern SRAM. -/
def sramAt (s : State) (a : Nat) : BitVec 128 := s.fio.sram.get 0 (a % 16384)

/-- A field of a pattern entry (Table 3.6). -/
def entFld (e : BitVec 128) (lo w : Nat) : Nat := (e.toNat >>> lo) % 2 ^ w

/-- Whether an entry's time lies behind at the moment it becomes the current one (R84), in the direction in which its time base ran at the
segment's start; a time base in FAILED starts no entry (Table 3.2). -/
def entReached (s : State) (seg : Seg) (e : BitVec 128) : Bool :=
  let t := entFld e 0 64
  let n := entFld e 72 4
  let tb := getTb s n
  let cross := fun (target : Word) =>
    let d := (target - tb.phase).toInt
    tb.st != .failed && (if nth seg.revs false n then 0 ≤ d else d ≤ 0)
  match entFld e 76 2 with
  | 0 => cross (BitVec.ofNat 64 t)
  | 1 => cross (nth seg.phase0 0 n + BitVec.ofNat 64 t)
  | 2 => seg.time0 + t ≤ s.time
  | _ => t ≤ s.time

/-- Whether an entry's time had already passed when it is reached (R84): it is not reached in the nanosecond that has just run. -/
def entPassed (s : State) (seg : Seg) (e : BitVec 128) : Bool :=
  let t := entFld e 0 64
  let n := entFld e 72 4
  let tb := getTb s n
  let before := fun (target : Word) =>
    let d := (target - tb.prev).toInt
    if nth seg.revs false n then 0 ≤ d else d ≤ 0
  entReached s seg e &&
    match entFld e 76 2 with
    | 0 => before (BitVec.ofNat 64 t)
    | 1 => before (nth seg.phase0 0 n + BitVec.ofNat 64 t)
    | 2 => seg.time0 + t < s.time
    | _ => t < s.time

/-- The window of a group: its base and length. -/
def gpeBase (s : State) (g : Nat) : Nat := rf s (Reg.GPE_WINDOW g) 0 14
def gpeLen (s : State) (g : Nat) : Nat := rf s (Reg.GPE_WINDOW g) 16 15

/-- Whether a group runs in STREAM mode. -/
def gpeStream (s : State) (g : Nat) : Bool := rb s (Reg.GPE_CTL g) 1

/-- The entry at an address becomes the segment's current one; in STREAM mode a slot not yet refilled is an underflow (R84). -/
def gpeReach (s : State) (g : Nat) (seg : Seg) : State :=
  let u := getGpe s g
  if gpeStream s g && u.filled == 0 then gpeForce s g 3
  else
    let a := if gpeStream s g then gpeBase s g + u.rptr else seg.next
    let seg := { seg with next := a % 16384 }
    let e := sramAt s a
    setGpe s g { u with seg := some { seg with passed := entPassed s seg e, hit := entReached s seg e } }

/-- A segment starts (R84): ignored while the group is disabled or forced (R87). The outputs keep their levels. -/
def gpeStartSeg (s : State) (g addr : Nat) (phase0 : List Word) (time0 : Nat) : State :=
  if !rb s (Reg.GPE_CTL g) 0 || gpeForced s g then s
  else gpeReach s g { next := addr, phase0 := phase0, time0 := time0,
                      revs := s.fio.tbs.map TimeBase.rev, passed := false, hit := false }

/-- The commanded levels after an entry, and whether both outputs of an enabled pair were commanded active (R86). -/
def gpeCommand (s : State) (g : Nat) (e : BitVec 128) : List GpeOut × Bool :=
  let outs := ((getGpe s g).outs.zipIdx).map fun (o, i) =>
    if entFld e (68 + i) 1 = 1 then { o with want := entFld e (64 + i) 1 = 1 } else o
  (upto 2).foldl (fun (l, bad) k =>
    let a := nth l GpeOut.reset (2 * k)
    let b := nth l GpeOut.reset (2 * k + 1)
    if gpePaired s g k && entFld e (68 + 2 * k) 2 == 3 && entFld e (64 + 2 * k) 2 == 3 then
      (listSet (listSet l (2 * k) { a with want := false }) (2 * k + 1) { b with want := false }, true)
    else (l, bad)) (outs, false)

/-- The read pointer passes the current slot. -/
def gpeAdvance (s : State) (g : Nat) : State :=
  let u := getGpe s g
  if gpeStream s g then setGpe s g { u with rptr := (u.rptr + 1) % max 1 (gpeLen s g), filled := u.filled - 1 } else s

/-- Whether the current entry may be applied (R84): its phase has been crossed by a tested change since it became current, or lay behind
then, and its time base is not FAILED; or its time has come. -/
def entDue (s : State) (seg : Seg) (e : BitVec 128) : Bool :=
  match entFld e 76 2 with
  | 0 | 1 => seg.hit && (getTb s (entFld e 72 4)).st != .failed
  | 2 => seg.time0 + entFld e 0 64 ≤ s.time
  | _ => entFld e 0 64 ≤ s.time

/-- The current entry is applied once its time is reached (R84); otherwise nothing changes. -/
def gpeApply (s : State) (g : Nat) : State :=
  match (getGpe s g).seg with
  | none => s
  | some seg =>
    let e := sramAt s seg.next
    if !entDue s seg e then s else
    let (outs, bad) := gpeCommand s g e
    let s := gpeSettle (setGpe s g { getGpe s g with outs := outs }) g
    let s := if bad then raiseCond (wb s (Reg.GPE_STATUS g) 20 true) .gpe g 0 3 else s
    let s := if seg.passed then raiseCond (wb s (Reg.GPE_STATUS g) 19 true) .gpe g 0 4 else s
    let s := if entFld e 78 1 = 1 then raiseCond s .gpe g 0 2 else s
    let s := gpeAdvance s g
    if entFld e 79 1 = 1 then setGpe s g { getGpe s g with seg := none }
    else gpeReach s g { seg with next := seg.next + 1 }

/-- GPE_STATUS as a read shows it (Table 3.15): levels, address of the next entry, RUN; LATE and PAIR_ERR are held. -/
def gpeStatus (s : State) (g : Nat) : Word :=
  let u := getGpe s g
  let lv := bitsToNat (u.outs.map GpeOut.on)
  let ptr := match u.seg with
    | some seg => seg.next
    | none => if gpeStream s g then (gpeBase s g + u.rptr) % 16384 else 0
  setFld (setFld (setFld (rd s (Reg.GPE_STATUS g)) 0 4 lv) 4 14 ptr) 18 1 u.seg.isSome.toNat

/-- Whether an enabled group's window overlaps, or the window leaves the SRAM (R83). -/
def gpeWindowBad (s : State) (g base len : Nat) : Bool :=
  len == 0 || 16384 < base + len ||
    (upto 12).any fun h => h != g && rb s (Reg.GPE_CTL h) 0 && base < gpeBase s h + gpeLen s h && gpeBase s h < base + len

/-- Whether the cause of a hardware force bit has ended (R87). -/
def gpeCauseEnded (s : State) (g : Nat) : Nat → Bool
  | 0 => rf s Reg.SMG_STATE 0 3 != 3 && !rb s Reg.SMG_WD_STATUS 2
  | 1 => !debugStopped s (rf s (pageReg .gpe g 0 0x00C) 0 6)
  | 2 => !(upto 32).any fun n => rb s (Reg.SDMCH_TRIPMASK n) g && rb s (Reg.SDMCH_STATUS n) 0
  | _ => true

/-- A GPO ball (R88, Table 3.16): high-impedance without OE or without power, else driven, active high or low as POL says. -/
def gpoBall (s : State) (g i : Nat) : Option Bool :=
  if domOn s 46 && rb s (Reg.GPE_CTL g) (6 + i) then
    some ((nth (getGpe s g).outs GpeOut.reset i).on == rb s (Reg.GPE_CTL g) (2 + i))
  else none

/-- The forces whose cause stands when HUB_FIO comes on (R87): the safety manager in SAFE or the watchdog expired, and a debug stop of the
owner. -/
def gpeForceAnew (s : State) : State :=
  (upto 12).foldl (fun t g => [0, 1].foldl (fun u k => if gpeCauseEnded u g k then u else gpeForce u g k) t) s

/-- A write of GPE_FORCE: ones clear the hardware bits whose cause has ended; bit 4 takes the value written (R87). -/
def gpeForceWrite (s : State) (g : Nat) (v : Word) : State :=
  let s := (upto 4).foldl (fun t k =>
    if bit v k && rb t (Reg.GPE_FORCE g) k && gpeCauseEnded t g k then wb t (Reg.GPE_FORCE g) k false else t) s
  if bit v 4 then (if rb s (Reg.GPE_FORCE g) 4 then s else gpeForce s g 4) else wb s (Reg.GPE_FORCE g) 4 false

end Sys2Proof.Machine
end

