-- ==== Sys2Proof/Machine/SafetyMgr.lean ====
section
/-! DEFINITION. Safety manager: reports, reactions, states and the safe outputs (R340 to R345). -/

namespace Sys2Proof.Machine

/-- State of the safety manager: 0 INIT, 1 OPERATE, 2 DEGRADED, 3 SAFE, 4 MAINTENANCE. -/
def smgState (s : State) : Nat := rf s Reg.SMG_STATE 0 3

/-- Whether both gates are open (R344). -/
def smgGates (s : State) : Bool :=
  (smgState s == 1 || smgState s == 2) && rb s Reg.SMG_WD_CTL 0 && !rb s Reg.SMG_WD_STATUS 2

/-- HEALTHY and the two outputs follow the gates (R344): driven low while not healthy; on becoming healthy SAFE_B stands high, so
that its first edge falls. -/
def smgHealth (s : State) : State :=
  if smgGates s then
    if rb s Reg.SMG_STATE 3 then s
    else { wb s Reg.SMG_STATE 3 true with smg := { s.smg with safeA := false, safeB := true } }
  else { wb s Reg.SMG_STATE 3 false with smg := { s.smg with safeA := false, safeB := false } }

/-- The state changes; condition STATE is raised. The watchdog is frozen in no state but MAINTENANCE (R350). -/
def smgGoto (s : State) (st : Nat) : State :=
  if smgState s = st then s else smgHealth (raiseCond (wb (wf s Reg.SMG_STATE 0 3 st) Reg.SMG_WD_STATUS 6 false) .smg 0 0 1)

/-- The state becomes SAFE (R345): the cause is recorded, every gate group is forced, both outputs go low. -/
def smgSafe (s : State) (cause : Nat) : State :=
  if smgState s = 3 then s
  else gpeForceAll (smgGoto (wf s Reg.SMG_STATE 8 8 cause) 3) 0

/-- What a report names. -/
structure Rep where
  cls : Nat
  core : Nat
  chan : Nat
  ty : Nat
  deriving DecidableEq, Repr

/-- A report that names nothing but its class. -/
def Rep.plain (cls : Nat) : Rep := { cls := cls, core := 0x3FF, chan := 0x1FF, ty := 0 }

/-- Severity of a reaction code: LOG 0, DEGRADE 1, SAFE 2. -/
def severity (react : Nat) : Nat := min react 2

/-- A report with its reaction (R342): class bit, SMG_LAST where at least as severe with ties to the lower class, error-log entry,
condition REPORT, then the reaction. -/
def smgReportWith (s : State) (r : Rep) (react : Nat) : State :=
  let sev := severity react
  let s := wb s Reg.SMG_REPORT r.cls true
  let upd := match s.smg.lastSev with
    | none => true
    | some o => o < sev || (o == sev && r.cls ≤ rf s Reg.SMG_LAST 0 4)
  let last := BitVec.ofNat 64 (r.cls + 2 ^ 4 * r.core + 2 ^ 14 * r.chan + 2 ^ 23 * r.ty + 2 ^ 32 * (s.time % 2 ^ 32))
  let s := if upd then { wr s Reg.SMG_LAST last with smg := { s.smg with lastSev := some sev } } else s
  let s := logErr s { errRec s 7 r.cls .smg 0 with detail := detail (leBytes 8 last.toNat) }
  let s := raiseCond s .smg 0 0 0
  if sev = 0 then s
  else if sev = 1 then (if smgState s = 1 then smgGoto s 2 else s)
  else smgSafe s r.cls

/-- A report of class 0 to 7, with the reaction SMG_REACT gives its class. -/
def smgReport (s : State) (r : Rep) : State := smgReportWith s r (rf s Reg.SMG_REACT (2 * r.cls) 2)

/-- A MW_MISMATCH record of a page and its report (R332). Its entry names the slot's address, and the compare unit of a target slot
(R47). -/
def mwMismatch (s : State) (i : Initiator) (r : RegAddr) : State :=
  let s := recordPageErr s i r cMW_MISMATCH
  let unit := if r.ty = .tbu then 16 * (r.page - 17) + (r.off - 0x100) / 0x40 else 0
  let s := logErr s { errRec s 6 2 r.ty r.inst with
    part := initPart s i, source := initSource i, initiator := initEp i, addr := physOf r, detail := detail (leBytes 2 unit) }
  smgReport s { Rep.plain 1 with ty := typeCode r.ty, core := match i with | .core c => c.val | _ => 0x3FF }

/-- The watchdog expires (R348, R349): cause recorded, gate 2 closes, the state becomes SAFE, and a package reset is owed where
EXP_RST is 1. -/
def wdExpire (s : State) (cause : Nat) : State :=
  if rb s Reg.SMG_WD_STATUS 2 then s else
  let s := wf (wb s Reg.SMG_WD_STATUS 2 true) Reg.SMG_WD_STATUS 3 3 cause
  let s := { s with smg := { s.smg with rstOwed := rb s Reg.SMG_WD_CTL 1 } }
  smgSafe (smgHealth (gpeForceAll s 0)) 0x11

end Sys2Proof.Machine
end

