-- ==== Sys2Proof/Machine/Evr.lean ====
section
/-! DEFINITION. Event router: creation and merging of events, targets, pools, delivery into inboxes (R95 to R110, R118, R119). -/

namespace Sys2Proof.Machine

/-! ## Sources -/

/-- Fields of EVR_P_CFG (Table 4.10). -/
def cfgEn (c : Word) : Bool := bit c 0
def cfgLevel (c : Word) : Nat := fld c 1 3
def cfgMode (c : Word) : Nat := fld c 4 2
def cfgTtype (c : Word) : Nat := fld c 6 2
def cfgTarget (c : Word) : Nat := fld c 8 9

/-- Whether a source stands asserted: a software source's level, or a raised condition (R40, R99, R514). -/
def srcAsserted (s : State) (n : Nat) : Bool := (getSrc s n).swLevel || condAsserted s n

/-- Loss of an event of a source: its OVR counts and OVERRUN is raised (R101, R102, R125). -/
def srcOverrun (s : State) (n : Nat) : State :=
  let x := getSrc s n
  raiseCond (setSrc s n { x with ovr := min 0xFFFFFFFF (x.ovr + 1) }) .evr 0 0 0

/-- ORPHAN of a source (R118). -/
def srcOrphan (s : State) (n : Nat) : State :=
  raiseCond (setSrc s n { getSrc s n with orphan := true }) .evr 0 0 2

/-- A source enters the EVR queue: in order of becoming waiting, then of source number (R110). QMAX keeps the greatest depth. -/
def enqueueSrc (s : State) (n : Nat) : State :=
  let before := s.evr.queue.filter fun m => (getSrc s m).waitAt < s.time || ((getSrc s m).waitAt == s.time && m < n)
  let after := s.evr.queue.filter fun m => !((getSrc s m).waitAt < s.time || ((getSrc s m).waitAt == s.time && m < n))
  let q := before ++ n :: after
  let s := { s with evr := { s.evr with queue := q } }
  wr s Reg.EVR_QMAX (BitVec.ofNat 64 (max (rd s Reg.EVR_QMAX).toNat (min q.length 2047)))

/-- The event that an assertion creates (R102, Tables 4.2 to 4.4). -/
def newEvent (s : State) (n : Nat) (late : Bool) (phases : List Word) (time : Nat) : EvRec :=
  let c := (getSrc s n).cfg
  { src := n, level := cfgLevel c, mode := cfgMode c, late := late, stamped := bit c 17, ovr := false, half := false,
    loc := false, count := 1, phase := if bit c 17 then nth phases 0 (fld c 18 4) else 0, time := time }

/-- A source with no waiting event gets one. -/
def createEvent (s : State) (n : Nat) (e : EvRec) : State :=
  enqueueSrc (setSrc s n { getSrc s n with waiting := some e, waitAt := s.time, sent := 0 }) n

/-- Whether a time base is TRACKING or in HOLDOVER. -/
def tbRuns (s : State) (n : Nat) : Bool := (getTb s n).st == .tracking || (getTb s n).st == .holdover

/-- The window that opens at an instant, with the phase and direction of DL_TB there (R337): RISING where the time base ran forward. A
deadline that lies between that phase and the present one is reached now. -/
def openWin (s : State) (c time : Nat) (phase : Word) (rev : Bool) : McpWin :=
  let dl := rd s (Reg.MCPCH_DL c)
  let n := rf s (Reg.MCPCH_CTL c) 4 4
  let d := phase + dl
  if rb s (Reg.MCPCH_CTL c) 3 then
    .atPhase n d (!rev)
      (if (crossing (if rev then 1 else 0) d phase (getTb s n).phase).isSome || !tbRuns s n then some s.time else none)
  else .atTime (time + fld dl 0 32)

/-- TRIG of the anchored comparator channels: an assertion that reaches the input while EN is 1 opens a window at its source
instant (R337). -/
def mcpTrig (s : State) (n : Nat) (phases : List Word) (time : Nat) : State :=
  let one := fun (t : State) (c : Nat) =>
    if rb t (Reg.MCPCH_CTL c) 0 && rb t (Reg.MCPCH_CTL c) 2 && rf t (Reg.MCPCH_TRIG c) 0 10 == n then
      let tb := rf t (Reg.MCPCH_CTL c) 4 4
      let h := t.mcp.get McpCh.reset c
      { t with mcp := t.mcp.set c { h with trig := h.trig ++ [(time, openWin t c time (nth phases 0 tb) (getTb t tb).rev)] } }
    else t
  (upto 256).foldl one s

/-- The VMAP entries of a host port that forward a source: function and vector, in order of entry (R402). An entry never written has
EN 0. -/
def vmapOf (s : State) (port : Nat) (n : Nat) : List (Nat × Nat) :=
  let lo := rkey (if port = 0 then Reg.HPA_VMAP 0 else Reg.HPB_VMAP 0)
  (s.regs.filter fun e => lo ≤ e.1 && e.1 < lo + 1024 && bit e.2 31 && fld e.2 0 10 == n).map fun e =>
    (fld e.2 10 6, fld e.2 16 6)

/-- An assertion at the EVR input is owed to the vectors that forward it, whatever the source's configuration (R402). -/
def vmapForward (s : State) (n : Nat) : State :=
  { s with hps := s.hps.zipIdx.map fun (h, port) => { h with msgs := h.msgs ++ vmapOf s port n } }

/-- Whether an event of a source waits in the FIFO of a pool (R107, R108). -/
def waitsInPool (s : State) (n : Nat) : Bool := s.evr.pools.any fun p => p.2.fifo.any fun e => e.src == n

/-- A count-mode event with later assertions merged into it: COUNT saturates, stamp and LATE are the later ones (Table 4.2). -/
def EvRec.merge (w e : EvRec) : EvRec := { e with count := min 65535 (w.count + e.count), ovr := w.ovr }

/-- The event that a source's waiting slot delivers at a nanosecond: without the assertions of that nanosecond (R104). -/
def Src.settled (x : Src) (now : Nat) : Option EvRec :=
  match x.waiting, x.fresh with
  | some w, some (t, e) => some (if t = now then w else w.merge e)
  | w, _ => w

/-- An assertion reaches the EVR input (R96, R102): an event is created or merged by the source's mode; a disabled source holds
nothing. DESIGN CHOICE: after one copy of a pair event has left, an assertion merges into the half that still waits (log entry 96). -/
def evrArrive (s : State) (a : Arrival) : State :=
  let s := vmapForward s a.src
  let x := getSrc s a.src
  if !cfgEn x.cfg then s else
  let s := mcpTrig s a.src a.phases a.time
  let e := newEvent s a.src a.late a.phases a.time
  match cfgMode x.cfg with
  | 0 =>
    match x.waiting with
    | none => createEvent s a.src e
    | some w => srcOverrun (setSrc s a.src { x with waiting := some { w with ovr := true } }) a.src
  | 1 => if x.waiting.isNone && x.inService == 0 && !waitsInPool s a.src then createEvent s a.src e else s
  | _ =>
    match x.waiting with
    | none => createEvent s a.src e
    | some _ =>
      let fresh := match x.fresh with
        | some (t, f) => if t = s.time then f.merge e else e
        | none => e
      setSrc s a.src { x with waiting := x.settled s.time, fresh := some (s.time, fresh) }

/-- A level-mode source that is still asserted creates a new event once none waits or is in service (R102, R103, R119). -/
def levelRecreate (s : State) (n : Nat) : State :=
  let x := getSrc s n
  if cfgEn x.cfg && cfgMode x.cfg == 1 && x.waiting.isNone && x.inService == 0 && !waitsInPool s n && srcAsserted s n then
    createEvent s n (newEvent s n false (phasesNow s) s.time)
  else s

/-- An event of a level-mode source leaves service. -/
def leaveService (s : State) (n : Nat) : State :=
  let x := getSrc s n
  levelRecreate (setSrc s n { x with inService := x.inService - 1 }) n

/-- An event already taken from the EVR is discarded: a level-mode event leaves service (R119). -/
def discardEvent (s : State) (e : EvRec) : State :=
  if e.loc then s else if e.mode = 1 then leaveService s e.src else s

/-- EVR_LOST counts a discarded event and LOST is raised (R119). -/
def evrLost (s : State) : State := raiseCond (countReg s Reg.EVR_LOST) .evr 0 0 3

/-- A waiting event leaves the EVR. -/
def freeSlot (s : State) (n : Nat) : State :=
  let s := setSrc s n { getSrc s n with waiting := none, sent := 0, fresh := none }
  { s with evr := { s.evr with queue := s.evr.queue.filter (· ≠ n) } }

/-- A delivered event leaves the EVR; assertions that arrived in the nanosecond of the delivery make the next event (R104). -/
def deliverSlot (s : State) (n : Nat) : State :=
  let x := getSrc s n
  let s := freeSlot s n
  match x.fresh with
  | some (t, e) => if t = s.time then createEvent s n e else s
  | none => s

/-! ## Cores as targets -/

/-- Effective mask level of a core (R115). -/
def coreEml (s : State) (c : Nat) : Nat :=
  let k := getCore s c
  if k.df then 7 else fld (k.bank k.cur).status 2 3

/-- Whether a level of a core is enabled. -/
def levelOn (s : State) (c l : Nat) : Bool := l == 0 || rb s (Reg.SCHED_LVLEN c) l

/-- Whether inbox L of a core holds an event. -/
def inboxFull (s : State) (c l : Nat) : Bool := (nth (getCore s c).inbox none l).isSome

/-- Whether an event for level L of a core is on its way. -/
def inFlight (s : State) (c l : Nat) : Bool := s.evr.flight.any fun x => x.1 == c && x.2.level == l

/-- Whether a latched local event is about to enter inbox L of a core: it goes ahead of the EVR's events (R121). -/
def localWaits (s : State) (c l : Nat) : Bool :=
  let k := getCore s c
  let at_ := fun (x : Option Latch) => x.elim false fun y => y.level == l
  at_ k.latchBudget || at_ k.latchCnt

/-- Whether inbox L of a core can take an event that the EVR sends now. DESIGN CHOICE: an event already sent toward the inbox makes it count
as full (log entry 95). -/
def inboxFree (s : State) (c l : Nat) : Bool := !inboxFull s c l && !inFlight s c l && !localWaits s c l

/-- Whether a core of a pool is eligible for an event at level L (R107). -/
def eligible (s : State) (c l : Nat) : Bool :=
  let k := getCore s c
  k.running && levelOn s c l && (k.bank l).st == .parked && inboxFree s c l && k.cur < l && coreEml s c < l

/-- An event sent toward a core on the real-time channel; a level-mode event enters service (R103; log entry 20). -/
def sendEvent (s : State) (c : Nat) (e : EvRec) : State :=
  let s := if e.mode = 1 then setSrc s e.src { getSrc s e.src with inService := (getSrc s e.src).inService + 1 } else s
  { s with evr := { s.evr with flight := s.evr.flight ++ [(c, e)] } }

/-! ## Pools -/

def getPool (s : State) (q : Nat) : Pool := s.evr.pools.get Pool.reset q
def setPool (s : State) (q : Nat) (p : Pool) : State := { s with evr := { s.evr with pools := s.evr.pools.set q p } }

/-- EVR_POOLOWN of a pool. -/
def poolOwner (s : State) (q : Nat) : Nat := rf s (Reg.EVR_POOLOWN (q / 4)) (8 * (q % 4)) 6

/-- The core a pool chooses for level L: the first eligible one after the core chosen last, wrapping (R107); before any choice, after core 0
(log entry 120). -/
def poolChoose (s : State) (q l : Nat) : Option Nat :=
  let p := getPool s q
  ((upto 388).map fun i => (p.last + 1 + i) % 388).find? fun c => p.mask.testBit c && eligible s c l

/-- A pool delivers an event to a core; it carries OVR where the pool lost events before (R107). -/
def poolSend (s : State) (q c : Nat) (e : EvRec) : State :=
  let p := getPool s q
  sendEvent (setPool s q { p with last := c, ovrNext := false }) c { e with ovr := e.ovr || p.ovrNext }

/-! ## Dispatch -/

/-- Cores and enable of a pair (Table 13.5). -/
def pairA (s : State) (q : Nat) : Nat := rf s (Reg.MCP_PAIR q) 0 9
def pairB (s : State) (q : Nat) : Nat := rf s (Reg.MCP_PAIR q) 9 9
def pairPart (s : State) (q : Nat) : Nat := rf s (Reg.MCP_PAIR q) 18 6
def pairOn (s : State) (q : Nat) : Bool := q < 192 && rb s (Reg.MCP_PAIR q) 31

/-- The inboxes for which a waiting event still waits: core and half. -/
def wantsInbox (s : State) (n : Nat) : List (Nat × Bool) :=
  let x := getSrc s n
  if x.waiting.isNone then []
  else if cfgTtype x.cfg = 0 then [(cfgTarget x.cfg, false)]
  else if cfgTtype x.cfg = 2 then
    (if x.sent.testBit 0 then [] else [(pairA s (cfgTarget x.cfg), false)]) ++
    (if x.sent.testBit 1 then [] else [(pairB s (cfgTarget x.cfg), true)])
  else []

/-- The first waiting source for inbox L of a core, and its half (R110). -/
def firstFor (s : State) (c l : Nat) : Option (Nat × Bool) :=
  s.evr.queue.findSome? fun n =>
    if cfgLevel (getSrc s n).cfg = l then
      match (wantsInbox s n).find? fun w => w.1 == c with
      | some w => some (n, w.2)
      | none => none
    else none

/-- One copy of a waiting event leaves for a core; once every copy has left, the source's slot is free (R104, R109). -/
def sendCopy (s : State) (n c : Nat) (half : Bool) : State :=
  let x := getSrc s n
  match x.settled s.time with
  | none => s
  | some e =>
    let s := sendEvent s c { e with half := half }
    if cfgTtype x.cfg = 2 then
      let sent := x.sent ||| (if half then 2 else 1)
      if sent = 3 then deliverSlot s n else setSrc s n { getSrc s n with sent := sent }
    else deliverSlot s n

/-- The EVR offers inbox L of a core the event that waits for it first (R110), if the inbox is free and EVR_CTL.EN is 1. -/
def offerInbox (s : State) (c l : Nat) : State :=
  if !rb s Reg.EVR_CTL 0 || !inboxFree s c l then s else
  match firstFor s c l with
  | some (n, h) => sendCopy s n c h
  | none => s

/-- The waiting event of a source goes to its target (R105 to R110); an event for a pair no longer enabled is discarded with
ORPHAN (R118). -/
def dispatchSrc (s : State) (n : Nat) : State :=
  let x := getSrc s n
  match x.settled s.time with
  | none => s
  | some e =>
    if !rb s Reg.EVR_CTL 0 then s
    else if cfgTtype x.cfg = 1 then
      let q := cfgTarget x.cfg % 64
      match poolChoose s q e.level with
      | some c => poolSend (deliverSlot s n) q c e
      | none =>
        let s := deliverSlot s n
        let p := getPool s q
        if p.fifo.length < 64 then setPool s q { p with fifo := p.fifo ++ [e] }
        else levelRecreate (raiseCond (setPool s q { p with ovrNext := true, ovf := min 0xFFFFFFFF (p.ovf + 1) }) .evr 0 0 1) n
    else if cfgTtype x.cfg = 2 && !pairOn s (cfgTarget x.cfg) then levelRecreate (srcOrphan (freeSlot s n) n) n
    else (wantsInbox s n).foldl (fun t w => if firstFor t w.1 e.level = some (n, w.2) then offerInbox t w.1 e.level else t) s

/-- The head of a pool's FIFO goes to a core that is eligible for its level (R108). -/
def poolDeliver (s : State) (q : Nat) : State :=
  let p := getPool s q
  match p.fifo with
  | [] => s
  | e :: rest =>
    if !rb s Reg.EVR_CTL 0 then s else
    match poolChoose s q e.level with
    | some c => poolSend (setPool s q { p with fifo := rest }) q c e
    | none => s

/-- The first event on its way to a core arrives (R118, R119, R123): it enters its inbox, or is discarded with ORPHAN where the
level is disabled, or is counted in EVR_LOST where the core is in core reset or belongs to no partition. One whose inbox a local event
has filled meanwhile, or is about to enter, waits (R121). -/
def packetArrive (s : State) (c : Nat) : State :=
  let lives := (getCore s c).running && (coreOwner s c).isSome
  match s.evr.flight.find? fun x => x.1 == c && !(lives && levelOn s c x.2.level && (inboxFull s c x.2.level || localWaits s c x.2.level)) with
  | none => s
  | some (_, e) =>
    let s := { s with evr := { s.evr with flight := s.evr.flight.erase (c, e) } }
    let k := getCore s c
    if !k.running || (coreOwner s c).isNone then evrLost (srcOrphan (discardEvent s e) e.src)
    else if !levelOn s c e.level then srcOrphan (discardEvent s e) e.src
    else setCore s c { k with inbox := listSet k.inbox e.level (some e) }

/-- Every event in a core's inboxes is discarded (R119). -/
def dropInboxes (s : State) (c : Nat) : State :=
  let k := getCore s c
  let evs := k.inbox.filterMap id
  let s := setCore s c { k with inbox := List.replicate 8 none }
  evs.foldl (fun t e => evrLost (if e.loc then t else srcOrphan (discardEvent t e) e.src)) s

/-- Level-mode events in service on a core's banks leave service (R119). -/
def dropServing (s : State) (c : Nat) : State :=
  let k := getCore s c
  let srcs := k.banks.filterMap Bank.serving
  let s := setCore s c { k with banks := k.banks.map fun b => { b with serving := none } }
  srcs.foldl leaveService s

/-- The event of a source that waits when EN is cleared is discarded and counted (R101). -/
def dropWaiting (s : State) (n : Nat) : State := if (getSrc s n).waiting.isSome then srcOverrun (freeSlot s n) n else s

/-- EN of a source cleared by hardware, with ORPHAN (R101, R118, R119, R333). -/
def disableOrphan (s : State) (n : Nat) : State :=
  let s := dropWaiting s n
  srcOrphan (setSrc s n { getSrc s n with cfg := setBit (getSrc s n).cfg 0 false }) n

/-- Every source whose target satisfies `p` (kind, number) loses EN and shows ORPHAN. -/
def orphanTargets (s : State) (p : Nat → Nat → Bool) : State :=
  (upto 1024).foldl (fun t n =>
    if p (cfgTtype (getSrc t n).cfg) (cfgTarget (getSrc t n).cfg) then disableOrphan t n else t) s

/-! ## Configuration (R98 to R101) -/

/-- Whether a core belongs to a partition; hub cores belong to partition 0 alone (R105). -/
def coreOf (s : State) (p c : Nat) : Bool := c < 388 && inPart s p c

/-- The conditions of R100 for a configuration that sets EN. -/
def cfgOk (s : State) (n : Nat) (c : Word) : Bool :=
  let p := srcOwner s n
  cfgLevel c != 0 && cfgMode c != 3 &&
    (match cfgTtype c with
     | 0 => coreOf s p (cfgTarget c) && levelOn s (cfgTarget c) (cfgLevel c)
     | 1 => cfgTarget c < 64 && poolOwner s (cfgTarget c) == p
     | 2 => pairOn s (cfgTarget c) && pairPart s (cfgTarget c) == p && rb s (Reg.PART_MODES p) 1
     | _ => false) &&
    (!bit c 17 ||
      rf s (pageReg .tbu 0 (fld c 18 4 + 1) 0x00C) 0 6 == p || rb s (Reg.TB_ACCESS (fld c 18 4)) p)

/-- A configuration word takes effect, or is refused (R100, R101); `none` is a refusal. -/
def cfgWrite (s : State) (n : Nat) (v : Word) : Option State :=
  let x := getSrc s n
  let v := BitVec.ofNat 64 (fld v 0 22)
  if cfgEn x.cfg && setBit v 0 true != x.cfg then none
  else if bit v 0 then
    if !cfgOk s n v then none
    else some (levelRecreate (setSrc s n { x with cfg := v }) n)
  else
    let t := dropWaiting s n
    some (setSrc t n { getSrc t n with cfg := v })

/-- A write of EVR_P_RAISE for a source (Table 4.9): GO makes one assertion in edge and count mode; in level mode the source takes the level
VAL. -/
def raiseSw (s : State) (n : Nat) (go val : Bool) : State :=
  let x := getSrc s n
  if cfgMode x.cfg = 1 then
    let s := setSrc s n { x with swLevel := val }
    if val && !x.swLevel then assertSrc s n false else s
  else if go then assertSrc s n false
  else s

end Sys2Proof.Machine
end

