-- ==== Sys2Proof/Machine/Access.lean ====
section
/-! DEFINITION. Accesses to memory by agents: installed DRAM, regions, TCM aliases, poison (R36, R259, R261, R299, R353, R516). -/

namespace Sys2Proof.Machine

/-- Number of DRAM channels of the part (R353). -/
def dramChannels (s : State) : Nat := if s.part.facets = 4 then 8 else 16

/-- The DRAM channel that serves an address (R354). -/
def chanOf (s : State) (a : Nat) : Nat := chanOfLine (dramChannels s) (lineOf a)

/-- Installed capacity in bytes as the configuration of channel 0 gives it (R353): a device of 1 Gb holds 2^27 bytes. -/
def dramCapacity (s : State) : Nat :=
  let c := rd s (Reg.DMC_CFG 0)
  let devices := if bit c 0 then 4 else 8
  let ranks := if bit c 1 then 2 else 1
  let gb := 16 + 8 * min 2 (fld c 2 2)
  dramChannels s * 2 * ranks * devices * gb * 2 ^ 27

/-- Whether the channel of an address serves requests: its domain is ON and it is in SERVICE (R375). -/
def dramServes (s : State) (a : Nat) : Bool :=
  domOn s (39 + chanOf s a / 4) && rf s (Reg.DMC_STATUS (chanOf s a)) 0 2 == 2

/-- The areas of Table 10.3. -/
inductive Area where
  | dram | host | xip | journal | page | core (c : Nat) (off : Nat) | own (off : Nat) | hole
  deriving DecidableEq, Repr

/-- The area of a physical address (Table 10.3). -/
def areaOf (a : Nat) : Area :=
  if a < 0x020000000000 then .dram
  else if 0xC00000000000 ≤ a ∧ a < 0xC10000000000 then .host
  else if 0xE00000000000 ≤ a ∧ a < 0xE00006000000 then .xip
  else if 0xE00006000000 ≤ a ∧ a < 0xE00008000000 then .journal
  else if 0xF00000000000 ≤ a ∧ a < 0xF00004000000 then .page
  else if 0xF10000000000 ≤ a ∧ a < 0xF10018400000 then .core ((a - 0xF10000000000) / 0x100000) (a % 0x100000)
  else if 0xFF0000000000 ≤ a ∧ a < 0xFF0000100000 then .own (a % 0x100000)
  else .hole

/-- Global alias of an offset of a core's window (R36). -/
def aliasAddr (c off : Nat) : Nat := 0xF10000000000 + c * 0x100000 + off

/-- Whether an offset of a core window lies in a TCM (Table 2.2). -/
def isTcm (off : Nat) : Bool := off < 0x8000 || (0x10000 ≤ off && off < 0x30000)

/-- Whether an offset lies in X-TCM or Y-TCM. -/
def isXyTcm (off : Nat) : Bool := 0x10000 ≤ off && off < 0x30000

/-- Whether an area is region-checked (Table 10.3). -/
def regionChecked : Area → Bool
  | .dram | .host | .xip | .journal => true
  | _ => false

/-- The region check (R261): `need` is bit 1 R, 2 W or 3 X; partition 0 is not checked. -/
def regionOk (s : State) (p a n need : Nat) : Bool :=
  p == 0 || (upto 16).any fun r =>
    rb s (Reg.PART_RBASE p r) 0 && rb s (Reg.PART_RBASE p r) need &&
      rf s (Reg.PART_RBASE p r) 12 36 ≤ a / 4096 && (a + n - 1) / 4096 ≤ rf s (Reg.PART_RLIMIT p r) 12 36

/-- Why the target of a fabric access refuses a partition, if it does: the region check where Table 10.3 asks for it (R261, R516), the owner of
a core for its global alias (R36), whose absence is found elsewhere. -/
def targetRefuses (s : State) (p a n need : Nat) : Option Nat :=
  match areaOf a with
  | .core c _ => if p ≠ 0 ∧ coreOwner s c ≠ some p ∧ !away s .core c then some cNOT_OWNER else none
  | area => if regionChecked area && !regionOk s p a n need then some eREGION else none

/-! ## Host ports as targets (R396, R400, R401) -/

/-- Number of a port. -/
def portNum : Port → Nat
  | .hpa => 0
  | .hpb => 1

/-- Registers of a port by offset of page 0. -/
def hpReg (p : Port) (off : Nat) : RegAddr := ⟨portBlock p, 0, 0, off⟩
def hpCtl (p : Port) : RegAddr := hpReg p 0x100
def hpStatus (p : Port) : RegAddr := hpReg p 0x104
def hpFmap (p : Port) (f : Nat) : RegAddr := hpReg p (0x140 + 4 * f)
def hpIwin (p : Port) (f : Nat) : RegAddr := hpReg p (0x200 + 8 * f)
def hpOwin (p : Port) (w : Nat) : RegAddr := hpReg p (0x400 + 8 * w)
def hpVmap (p : Port) (k : Nat) : RegAddr := hpReg p (0x800 + 4 * k)

/-- Whether a port's domain is ON. -/
def hpOn (s : State) (p : Port) : Bool := domOn s (domainOf (portBlock p) 0)

/-- Whether a port's link is up. -/
def hpUp (s : State) (p : Port) : Bool := hpOn s p && rb s (hpStatus p) 0

/-- Port and window of a host window address. -/
def owinOf (a : Nat) : Port × Nat :=
  let o := a - 0xC00000000000
  (if o < 0x8000000000 then .hpa else .hpb, o % 0x8000000000 / 0x200000000)

/-- Host address of a window access. -/
def owinHost (s : State) (a : Nat) : Nat :=
  let (p, w) := owinOf a
  fld (rd s (hpOwin p w)) 33 31 * 2 ^ 33 + a % 0x200000000

/-- A write to a host window is transmitted (R400). -/
def hostWrite (s : State) (a : Nat) (l : List Byte) : State :=
  { s with sent := .tlp (portNum (owinOf a).1) true 0 (owinHost s a) l, resp := .ok 0 }

/-! ## Memory by address -/

/-- What an access to the register aperture gives an agent that reads or writes memory there: no such access has the width of a register
(R35; log entry 100), and an absent block or site answers ABSENT (R6); a page that no entry covers answers as R34 says. -/
def pageErr (s : State) (a : Nat) : Option Nat :=
  if a < 0xF00000010000 then some cSIZE
  else match locate a with
    | some r => if unreachable s r.ty r.inst then some eABSENT else some cSIZE
    | none => match apertureSite a with
      | some n => if !populated s n || siteAbsent s n then some eABSENT else none
      | none => none

/-- The ERRC of an access to memory that cannot be performed, if any: RANGE outside installed storage, through a closed host window and
for stores to the code store, ABSENT where the unit behind the address is off or absent (R6, R259, R400). -/
def memErr (s : State) (a : Nat) (store : Bool) : Option Nat :=
  match areaOf a with
  | .dram => if dramCapacity s ≤ a then some eRANGE else if dramServes s a then none else some eABSENT
  | .xip | .journal => if store then some eRANGE else if away s .csd 0 then some eABSENT else none
  | .core c off => if away s .core c then some eABSENT else if isTcm off then none else some eRANGE
  | .own off => if isTcm off then none else some eRANGE
  | .host => if !hpUp s (owinOf a).1 then some eABSENT else if !rb s (hpOwin (owinOf a).1 (owinOf a).2) 0 then some eRANGE else none
  | .page => pageErr s a
  | .hole => some eRANGE

/-- What a read of memory gives: the error code, or the bytes with whether a poisoned line was touched. -/
inductive MemRd where
  | err (code : Nat)
  | data (l : List Byte) (poison : Bool)
  deriving DecidableEq, Repr

/-- The lines that an access touches. -/
def linesOf (a n : Nat) : List Nat := (upto ((a % 64 + n + 63) / 64)).map (· + a / 64)

/-- Whether an access touches a poisoned line, or one that the loss of its owner poisons (R300). -/
def touchesPoison (s : State) (a n : Nat) : Bool := (linesOf a n).any (lineBad s)

/-- A read of memory by an agent (R299). -/
def memRead (s : State) (a n : Nat) : MemRd :=
  match memErr s a false, memErr s (a + n - 1) false with
  | none, none => .data (rdBytes s a n) (touchesPoison s a n)
  | some e, _ | none, some e => .err e

/-- Lines that another agent writes are invalidated in every core: reservations on them are lost (R195). -/
def dropResv (s : State) (a n : Nat) : State :=
  (linesOf a n).foldl (fun t line => invCores t (fun _ => true) line) s

/-- A write of memory by an agent: whole lines clear poison, a poisoned payload poisons, a partial write of a poisoned line is
refused (R299); a write to a host window is transmitted (R400). Every cached copy of a line of DRAM is invalidated at its home (R289). -/
def memWrite (s : State) (a : Nat) (l : List Byte) (poison : Bool) : Except Nat State :=
  let n := l.length
  match memErr s a true, memErr s (a + n - 1) true with
  | none, none =>
    if isHostWin a then .ok { hostWrite s a l with resp := s.resp } else
    let whole := fun (ln : Nat) => a ≤ 64 * ln && 64 * ln + 64 ≤ a + n
    if (linesOf a n).any fun ln => lineBad s ln && !whole ln then
      .error ePOISON
    else
      let s := dropResv (wrBytes ((linesOf a n).foldl homeFlush s) a l) a n
      .ok ((linesOf a n).foldl (fun t ln => if poison then setPoison t ln else clearPoison t ln) s)
  | some e, _ | none, some e => .error e

/-! ## DRAM locations (R354) -/

/-- Ranks of a channel. -/
def dmcRanks (s : State) (ch : Nat) : Nat := if rb s (Reg.DMC_CFG ch) 1 then 2 else 1

/-- Fields of a DRAM address. -/
structure DramLoc where
  sc : Nat
  rank : Nat
  bg : Nat
  bank : Nat
  row : Nat
  col : Nat
  deriving DecidableEq, Repr

/-- The place of a line within its channel under the map in force (R354). -/
def dramDecode (s : State) (ch line : Nat) : DramLoc :=
  let n := if dramChannels s = 8 then line / 8 else line / 16
  let m := rd s (Reg.DMC_MAP 0)
  let cpos := fld m 8 5
  let bg := if bit m 0 then n / 2 ^ cpos % 8 else n / 8 % 8
  let rest := if bit m 0 then (n / 8) % 2 ^ (cpos - 3) + 2 ^ (cpos - 3) * (n / 2 ^ (cpos + 3)) else n / 64
  let colBits := if rb s (Reg.DMC_CFG ch) 0 then 6 else 7
  let up := rest / 2 ^ colBits
  let two := dmcRanks s ch == 2
  { sc := n % 2, rank := if two then up % 2 else 0, bg := bg, bank := n / 2 % 4, row := if two then up / 2 else up,
    col := rest % 2 ^ colBits }

/-- DETAIL of a DRAM entry (Table 2.16). -/
def dramDetail (s : State) (ch line mask : Nat) : List Byte :=
  let l := dramDecode s ch line
  detail (([ch, l.sc, l.rank, l.bg, l.bank].map (BitVec.ofNat 8)) ++ leBytes 3 l.row ++ leBytes 2 l.col ++ leBytes 5 mask)

/-- Bytes of a source outside memory that the spec does not give (a host window): free values. -/
def freeBytes (s : State) (n : Nat) : List Byte := (upto n).map fun k => BitVec.ofNat 8 (Config.freeNat (s.freeCtr + k))

/-! ## Accesses by agents -/

/-- The endpoint that serves an address: the home slice of a DRAM line, the code store, a host port, a core's cluster, the block of a register
page (Table 12.1). -/
def memEp (a : Nat) : Option Nat :=
  match areaOf a with
  | .dram => some (endpointOf .hom (sliceOf (lineOf a)))
  | .xip | .journal => some (endpointOf .csd 0)
  | .host => some (endpointOf (portBlock (owinOf a).1) 0)
  | .core c _ => some (endpointOf .core c)
  | .page => (locate a).map fun r => endpointOf r.ty r.inst
  | .own _ | .hole => none

/-- Whether no route leads from an endpoint to what serves an address (R309). An absent unit, other than the memory behind a home, answers
ABSENT whatever the route (R6). -/
def unrouted (s : State) (ep a : Nat) (store : Bool) : Bool :=
  (match memEp a with
    | some e => noRoute s ep e
    | none => false) && (isDram a || memErr s a store != some eABSENT)

/-- A read of memory by the agent at an endpoint, whose route must be VALID (R309). -/
def agRead (s : State) (ep a n : Nat) : MemRd := if unrouted s ep a false then .err eNOROUTE else memRead s a n

/-- A write of memory by the agent at an endpoint, whose route must be VALID (R309). -/
def agWrite (s : State) (ep a : Nat) (l : List Byte) (poison : Bool) : Except Nat State :=
  if unrouted s ep a true then .error eNOROUTE else memWrite s a l poison

/-- The lines of a copy's destination that take a byte of a poisoned source line are poisoned, and no others (R299, R381, R391); `s` is the
state in which the source was read. -/
def poisonCopied (s t : State) (src dst n : Nat) : State :=
  (upto n).foldl (fun u k => if lineBad s (lineOf (src + k)) then setPoison u (lineOf (dst + k)) else u) t

/-- The failed access of an agent to an address, as Table 2.11 and Table 2.15 have it: at a register page a width that no register has is
recorded in PAGE_ERR of that page (R41) and an absent block has its own entry, otherwise the address alone is logged (R6, R259). -/
def logFailed (s : State) (i : Initiator) (a code : Nat) : State :=
  match (if areaOf a = .page then locate a else none) with
  | some r =>
    if code = cSIZE then recordPageErr s i r cSIZE
    else if code = eABSENT then logErr s { accessRec s i r code with detail := detail (leBytes 2 r.off) }
    else logErr s (accessAddrRec s i a code)
  | none => logErr s (accessAddrRec s i a code)

/-- The initiator that stands for a Focal agent acting for a partition. -/
def agentIni (ep p : Nat) : Initiator := .agent (BitVec.ofNat 9 ep) (Fin.ofNat 64 p)

/-- The entry that an agent's failed read calls for (R6, R259); a poisoned line calls for none. -/
def agReadNote (s : State) (ep p a n : Nat) : State :=
  match agRead s ep a n with
  | .err e => logFailed s (agentIni ep p) a e
  | .data _ _ => s

/-- A COHERENCE entry for a partial write to a poisoned line (R299). -/
def logPartialPoison (s : State) (a : Nat) : State :=
  let h := sliceOf (lineOf a)
  logErr s { errRec s 4 4 .hom h with addr := a, detail := detail [BitVec.ofNat 8 h, 0xFF] }

/-- The state after a failed agent write: the entry its error calls for (R259, R299, R516). -/
def logBusErr (s : State) (i : Initiator) (a code : Nat) : State :=
  if code = ePOISON then logPartialPoison s a else logFailed s i a code

/-- The state after a write, with the error logged where it fails. -/
def memWriteLog (s : State) (i : Initiator) (a : Nat) (l : List Byte) : State × Bool :=
  match memWrite s a l false with
  | .ok t => (t, true)
  | .error e => (logBusErr s i a e, false)

/-- Why a host window refuses an access, if it does (R400, R401): link or domain down, EN 0, another partition. -/
def owinErr (s : State) (i : Initiator) (a : Nat) : Option Nat :=
  let (p, w) := owinOf a
  let v := rd s (hpOwin p w)
  if !hpUp s p then some eABSENT
  else if noRoute s (initEp i) (endpointOf (portBlock p) 0) then some eNOROUTE
  else if !bit v 0 then some eRANGE
  else if initPart s i != 0 && initPart s i != fld v 1 6 then some cNOT_OWNER
  else none

end Sys2Proof.Machine
end

