-- ==== Sys2Proof/Machine/Queue.lean ====
section
/-! DEFINITION. Queue engine: rings, operations, doorbells, hardware agents, DMA channels (R377 to R394). -/

namespace Sys2Proof.Machine

/-! ## Rings -/

def getRing (s : State) (r : Nat) : Ring := s.qe.rings.get Ring.reset r
def setRing (s : State) (r : Nat) (x : Ring) : State := { s with qe := { s.qe with rings := s.qe.rings.set r x } }
def getDma (s : State) (c : Nat) : DmaCh := s.qe.dmas.get DmaCh.reset c
def setDma (s : State) (c : Nat) (x : DmaCh) : State := { s with qe := { s.qe with dmas := s.qe.dmas.set c x } }

def Ring.en (x : Ring) : Bool := bit x.cfg 0
def Ring.size (x : Ring) : Nat := 2 ^ fld x.cfg 1 5
def Ring.esize (x : Ring) : Nat := 32 * 2 ^ fld x.cfg 6 2
def Ring.mirror (x : Ring) : Bool := bit x.cfg 13

/-- Slots reserved and not yet visible. -/
def Ring.reserved (x : Ring) : Nat := (x.ops.filter fun o => !o.deq && o.entry.isSome).length

/-- Visible slots that a dequeue has reserved. -/
def Ring.taking (x : Ring) : Nat := (x.ops.filter QeOp.deq).length

/-- Entries a ring holds for its owner's quota (R387). -/
def Ring.held (x : Ring) : Nat := x.count + x.reserved

/-- Address of a slot. -/
def Ring.slotAddr (x : Ring) (k : Nat) : Nat := x.base.toNat + x.esize * (k % x.size)

/-- A partition's use of its quotas (R387). -/
def heldEntries (s : State) (p : Nat) : Nat := sumNat ((s.qe.rings.filter fun e => e.2.owner == p).map fun e => e.2.held)
def heldBytes (s : State) (p : Nat) : Nat :=
  sumNat ((s.qe.rings.filter fun e => e.2.owner == p).map fun e => e.2.held * e.2.esize)
def ringsEnabled (s : State) (p : Nat) : Nat := (s.qe.rings.filter fun e => e.2.owner == p && e.2.en).length

/-- Whether one more entry of a ring stays within its owner's quotas. -/
def quotaOk (s : State) (x : Ring) : Bool :=
  heldEntries s x.owner + 1 ≤ rf s (Reg.QE_QENT x.owner) 0 30 &&
    heldBytes s x.owner + x.esize ≤ rf s (Reg.QE_QBYTES x.owner) 0 37

/-! ## Bindings (R385, R408, R426, R443) -/

/-- The half rings of enabled comparator channels: channel, and whether it is half B. -/
def halfOf (s : State) (r : Nat) : Option (Nat × Bool) :=
  (upto 256).findSome? fun c =>
    if !rb s (Reg.MCPCH_CTL c) 0 then none
    else if rf s (Reg.MCPCH_RINGA c) 0 13 = r then some (c, false)
    else if rf s (Reg.MCPCH_RINGB c) 0 13 = r then some (c, true)
    else none

/-- Whether a hardware agent is bound to the consuming side of a ring. -/
def hwCons (s : State) (r : Nat) : Bool :=
  ((upto 12).any fun g => rb s (Reg.GPE_CTL g) 0 && rf s (Reg.GPE_RING g) 0 13 == r) ||
  (halfOf s r).isSome ||
  (s.qe.dmas.any fun e => bit e.2.ctl 0 && fld e.2.ctl 1 13 == r) ||
  ((upto 12).any fun m => rb s (Reg.ETH_CTL m) 0 &&
    (((upto 8).any fun t => rb s (Reg.ETH_TXRING m t) 31 && rf s (Reg.ETH_TXRING m t) 0 13 == r) ||
      rf s (Reg.ETH_RXFREE m) 0 13 == r)) ||
  (rb s Reg.PSL_CTL 0 && (upto 8).any fun k => rb s (Reg.PSL_TXRING k) 31 && rf s (Reg.PSL_TXRING k) 0 13 == r) ||
  (rb s Reg.JRN_CTL 0 && rf s Reg.JRN_REQRING 0 13 == r)

/-- Whether a hardware agent is bound to the producing side of a ring. -/
def hwProd (s : State) (r : Nat) : Bool :=
  ((upto 16).any fun k => (rd s (Reg.SNAP_MASK k)).toNat != 0 && rf s (Reg.SNAP_RING k) 0 13 == r) ||
  ((upto 256).any fun c => rb s (Reg.MCPCH_CTL c) 0 && rf s (Reg.MCPCH_RINGOUT c) 0 13 == r) ||
  (halfOf s r).isSome ||
  (s.qe.dmas.any fun e => bit e.2.ctl 0 && fld e.2.ctl 14 13 == r) ||
  ((upto 12).any fun m => rb s (Reg.ETH_CTL m) 0 &&
    (rf s (Reg.ETH_TXCPL m) 0 13 == r || (upto 4).any fun k => rf s (Reg.ETH_RXRING m k) 0 13 == r)) ||
  (rb s Reg.PSL_CTL 0 && (upto 64).any fun c => rb s (Reg.PSL_RXCH c) 31 && rf s (Reg.PSL_RXCH c) 0 13 == r) ||
  (rb s Reg.JRN_CTL 0 && rf s Reg.JRN_CPLRING 0 13 == r)

/-- RCFG as a read shows it: with HWPROD and HWCONS (R385, Table 15.6). -/
def ringCfgShown (s : State) (r : Nat) : Word :=
  BitVec.ofNat 64 (fld (getRing s r).cfg 0 14 + 2 ^ 14 * (hwProd s r).toNat + 2 ^ 15 * (hwCons s r).toNat)

/-- Whether an agent of a page owner may bind to a ring (R385). -/
def mayBind (s : State) (owner r : Nat) : Bool := owner == 0 || (getRing s r).owner == owner

/-! ## Doorbells and errors -/

/-- The doorbell of a ring is posted (R386). -/
def postDoorbell (s : State) (r : Nat) : State := assertSrc s (256 + fld (getRing s r).db 0 8) false

/-- The doorbell after an enqueue that made COUNT `n` (R386). -/
def doorbellAfter (s : State) (r n : Nat) : State :=
  let x := getRing s r
  let due := match fld x.db 8 2 with
    | 0 => false
    | 1 => true
    | 2 => n == 1
    | _ => n == min (max 1 (fld x.db 16 16)) x.size
  if due then postDoorbell s r else s

/-- A ring enters ERROR (R389): logged, ERRRING and RING_ERR, doorbell once; later operations answer DISABLED. -/
def ringError (s : State) (r : Nat) : State :=
  if (getRing s r).error then s else
  let s := setRing s r { getRing s r with error := true }
  let s := logErr s { errRec s 8 0 .qe 0 with detail := detail (leBytes 2 r ++ [9]) }
  let s := wr s Reg.QE_ERRRING (BitVec.ofNat 64 (r + 2 ^ 31))
  postDoorbell (raiseCond s .qe 0 0 0) r

/-! ## Entries -/

/-- The 8-byte words of an entry. -/
def wordsOf : List Byte → List Word
  | a :: b :: c :: d :: e :: f :: g :: h :: t => BitVec.ofNat 64 (leNat [a, b, c, d, e, f, g, h]) :: wordsOf t
  | _ => []

/-- Whether every word of an entry is a mirror word (R384). -/
def pairsOk (l : List Byte) : Bool := (wordsOf l).all mirrorOk

/-- An entry as the slot receives it: its stamp in place where STAMP_EN is 1 (R383). -/
def stampEntry (s : State) (x : Ring) (l : List Byte) : List Byte :=
  if !bit x.cfg 8 then l else
  let ph := (getTb s (fld x.cfg 9 4)).phase.toNat
  if x.mirror then
    l.take (x.esize - 32) ++
      ([ph % 2 ^ 32, ph / 2 ^ 32, s.time % 2 ^ 32, s.time / 2 ^ 32].map fun v => leBytes 8 (mirrorOf v).toNat).flatten
  else l.take (x.esize - 16) ++ leBytes 8 ph ++ leBytes 8 s.time

/-- Exactly `n` bytes: cut or filled with zeros. -/
def padTo (n : Nat) (l : List Byte) : List Byte := l.take n ++ List.replicate (n - l.length) 0

/-- A half that arrives at a comparator channel at the present nanosecond (R336), with the window that its arrival would open. -/
def mcpHalf (s : State) (c : Nat) (l : List Byte) : McpHalf :=
  let tb := getTb s (rf s (Reg.MCPCH_CTL c) 4 4)
  { at_ := s.time, win := openWin s c s.time tb.phase tb.rev, bytes := l }

/-- The completion of an enqueue (R380): TAIL passes the slot, COUNT rises, the doorbell is posted as WHEN selects, and a half of a
comparator channel arrives with its bytes (R336, R385). -/
def slotDone (s : State) (r : Nat) (l : List Byte) : State :=
  let x := getRing s r
  let s := setRing s r { x with tail := (x.tail + 1) % x.size, count := x.count + 1 }
  let s := match halfOf s r with
    | none => s
    | some (c, b) =>
      let h := s.mcp.get McpCh.reset c
      let x := mcpHalf s c l
      { s with mcp := s.mcp.set c (if b then { h with b := h.b ++ [x] } else { h with a := h.a ++ [x] }) }
  doorbellAfter s r (x.count + 1)

/-- The initiator of the engine's accesses to a ring's buffer: the queue engine for the ring's owner. -/
def ringIni (x : Ring) : Initiator := agentIni (endpointOf .qe 0) x.owner

/-- A mirror mismatch found by the queue engine (R384): error-log entry and MIRROR_FAULT report. -/
def qeMirrorFault (s : State) (r : Nat) (i : Initiator) : State :=
  let s := logErr s { errRec s 6 5 .qe 0 with initiator := initEp i, part := initPart s i, source := initSource i,
                                              detail := detail (leBytes 2 r) }
  smgReport s { Rep.plain 0 with core := match i with | .core c => c.val | _ => 0x3FF }

/-- The line of a MIRROR ring's tail slot that refuses the MirWr of an entry: it holds the poison marker (R362, R384). -/
def mirrorStuck (s : State) (x : Ring) : Option Nat :=
  if x.mirror then [lineOf (x.slotAddr x.tail), lineOf (x.slotAddr x.tail + x.esize - 1)].find? (poisoned s) else none

/-- The error-log entry of a MirWr that a poisoned line refused (R362). -/
def mirrorStuckRec (s : State) (ep line : Nat) : ErrRec :=
  let ch := chanOf s (64 * line)
  { errRec s 3 3 .dmc ch with initiator := ep, source := epSource ep, addr := 64 * line, detail := dramDetail s ch line 0 }

/-- The write of an entry into the tail slot of a ring: with MIRROR by MirWr, which a poisoned line refuses (R362, R384). Of an error, its
code. -/
def slotWrite (s : State) (x : Ring) (e : List Byte) : State × Option Nat :=
  match mirrorStuck s x with
  | some line => (logErr s (mirrorStuckRec s (endpointOf .qe 0) line), some ePOISON)
  | none =>
    match agWrite s (endpointOf .qe 0) (x.slotAddr x.tail) e false with
    | .error c => (logBusErr s (ringIni x) (x.slotAddr x.tail) c, some c)
    | .ok t => (t, none)

/-- A hardware agent appends an entry (R385, R387): `none` where the ring is disabled, in ERROR, full, beyond a quota, or a half ring of a
comparator channel (R335), which the agent treats as a full ring. A mismatch on a MIRROR ring appends nothing (R384); a buffer write error
puts the ring in ERROR. -/
def hwEnq (s : State) (r : Nat) (l : List Byte) : Option State :=
  let x := getRing s r
  if !x.en || x.error || x.size ≤ x.held || !quotaOk s x || (halfOf s r).isSome then none
  else if x.mirror && !pairsOk (padTo x.esize l) then some (qeMirrorFault s r (ringIni x))
  else
    let e := stampEntry s x (padTo x.esize l)
    match slotWrite s x e with
    | (t, some _) => some (ringError t r)
    | (t, none) => some (slotDone t r e)

/-- A hardware agent takes the head entry, with whether it was poisoned; `none` where there is none. A read error leaves it and puts
the ring in ERROR (R381); a mismatch on a MIRROR ring leaves it there (R384). -/
def hwDeq (s : State) (r : Nat) : Option (List Byte × Bool × State) × State :=
  let x := getRing s r
  if !x.en || x.error || x.count ≤ x.taking then (none, s)
  else
    match agRead s (endpointOf .qe 0) (x.slotAddr x.head) x.esize with
    | .err e => (none, ringError (logBusErr s (ringIni x) (x.slotAddr x.head) e) r)
    | .data l p =>
      if x.mirror && !p && !pairsOk l then (none, qeMirrorFault s r (ringIni x))
      else (some (l, p, setRing s r { x with head := (x.head + 1) % x.size, count := x.count - 1 }), s)

/-- Whether a ring holds an entry an agent could take. -/
def ringHas (s : State) (r : Nat) : Bool :=
  let x := getRing s r
  x.en && !x.error && x.taking < x.count

/-! ## Software operations (R379 to R389) -/

/-- Where the outcome of an initiator's operations is kept (R382). -/
def initKey : Initiator → Nat
  | .core c => c
  | .host .hpa f => 1000 + f
  | .host .hpb f => 1100 + f
  | .agent e _ => 2000 + e.toNat

/-- An operation completes: its outcome and slot are the initiator's result, and the write is answered. -/
def postResult (s : State) (i : Initiator) (status slot : Nat) : State :=
  let v := BitVec.ofNat 64 (status + 2 ^ 16 * (slot % 65536))
  respOk { s with qe := { s.qe with results := s.qe.results.set (initKey i) v } } 0

/-- Whether an entry address is acceptable (R379); `need` is bit 1 R or 2 W. -/
def entryAddrOk (s : State) (p a n need : Nat) : Bool :=
  a % n == 0 &&
    match areaOf a with
    | .dram => areaOf (a + n - 1) == .dram && regionOk s p a n need
    | .core c off => isXyTcm off && inPart s p c
    | _ => false

/-- The status that ends an operation at once, if any: NOT_OWNER, DISABLED, BOUND, INFLIGHT, REGION, in this order (log entry 21). -/
def opRefusal (s : State) (i : Initiator) (p r a : Nat) (deq : Bool) : Option Nat :=
  let x := getRing s r
  if x.owner ≠ p ∧ p ≠ 0 then some 5
  else if !x.en || x.error then some 6
  else
    let bound :=
      if deq then (if hwCons s r then some 7 else none)
      else match halfOf s r with
        | some (c, b) =>
          let q := rf s (Reg.MCPCH_CTL c) 8 8
          let want := if b then pairB s q else pairA s q
          if (match i with | .core k => k.val == want | _ => false) then none else some 5
        | none => if hwProd s r then some 7 else none
    match bound with
    | some e => some e
    | none =>
      if max 1 (fld x.flight 0 8) ≤ x.ops.length then some 4
      else if !entryAddrOk s p a x.esize (if deq then 2 else 1) then some 0xA
      else none

/-- A write of ENQ (R379, R387): refused with its status, or accepted to read its source. -/
def enqStart (s : State) (i : Initiator) (p : Nat) (v : Word) : State :=
  let r := fld v 0 13
  let a := fld v 16 43 * 32
  let x := getRing s r
  match opRefusal s i p r a false with
  | some e => postResult s i e 0
  | none =>
    if !quotaOk s x then postResult s i 3 0
    else { setRing s r { x with ops := x.ops ++ [{ deq := false, ini := i, page := p, addr := a, entry := none }] } with
           resp := .none }

/-- A write of DEQ (R381): refused with its status, or accepted with the oldest visible slot reserved. -/
def deqStart (s : State) (i : Initiator) (p : Nat) (v : Word) : State :=
  let r := fld v 0 13
  let a := fld v 16 43 * 32
  let x := getRing s r
  match opRefusal s i p r a true with
  | some e => postResult s i e 0
  | none =>
    if x.count ≤ x.taking then postResult s i 1 0
    else { setRing s r { x with ops := x.ops ++ [{ deq := true, ini := i, page := p, addr := a, entry := none }] } with
           resp := .none }

/-- The operation number `k` of those that satisfy a test, and the others. -/
def takeOpAt (p : QeOp → Bool) (k : Nat) : List QeOp → Option (QeOp × List QeOp)
  | [] => none
  | o :: t =>
    if !p o then (takeOpAt p k t).map fun (q, u) => (q, o :: u)
    else match k with
      | 0 => some (o, t)
      | k + 1 => (takeOpAt p k t).map fun (q, u) => (q, o :: u)

/-- The first operation that satisfies a test, and the others. -/
def takeOp (p : QeOp → Bool) : List QeOp → Option (QeOp × List QeOp)
  | [] => none
  | o :: t => if p o then some (o, t) else (takeOp p t).map fun (q, u) => (q, o :: u)

def isReading (o : QeOp) : Bool := !o.deq && o.entry.isNone
def isWriting (o : QeOp) : Bool := !o.deq && o.entry.isSome

/-- The source read of an enqueue completes, of those that read the one numbered `k` in order of acceptance (R380, R384, R387); `err` is an
error response to it. Slots are reserved in the order of these completions. -/
def enqRead (s : State) (r k : Nat) (err : Bool) : State :=
  let x := getRing s r
  match takeOpAt isReading k x.ops with
  | none => s
  | some (o, rest) =>
    let stop := fun (t : State) (st : Nat) => postResult (setRing t r { getRing t r with ops := rest }) o.ini st 0
    if err then stop s 9
    else match targetRefuses s o.page o.addr x.esize 1 with
    | some e => stop (logBusErr s o.ini o.addr e) 9
    | none =>
    match agRead s (endpointOf .qe 0) o.addr x.esize with
    | .err e => stop (logBusErr s o.ini o.addr e) 9
    | .data l poison =>
      if poison then stop s 9
      else if x.mirror && !pairsOk l then qeMirrorFault (stop s 8) r o.ini
      else if x.size ≤ x.held then stop s 2
      else if !quotaOk s x then stop s 3
      else setRing s r { x with ops := rest ++ [{ o with entry := some (stampEntry s x l) }] }

/-- The oldest reserved slot is written (R380, R389); `err` is an error response to the buffer write. -/
def enqDone (s : State) (r : Nat) (err : Bool) : State :=
  let x := getRing s r
  match takeOp isWriting x.ops with
  | none => s
  | some (o, rest) =>
    let s0 := setRing s r { x with ops := rest }
    if err then postResult (ringError s0 r) o.ini 9 x.tail
    else match slotWrite s0 x (o.entry.getD []) with
    | (t, some _) => postResult (ringError t r) o.ini 9 x.tail
    | (t, none) => postResult (slotDone t r (o.entry.getD [])) o.ini 0 x.tail

/-- The oldest dequeue's copy is performed (R381, R384); `bufErr` and `dstErr` are error responses to the buffer read and to the
write of ADDR. -/
def deqDone (s : State) (r : Nat) (bufErr dstErr : Bool) : State :=
  let x := getRing s r
  match takeOp QeOp.deq x.ops with
  | none => s
  | some (o, rest) =>
    let s0 := setRing s r { x with ops := rest }
    let consumed := fun (t : State) (st : Nat) =>
      let y := getRing t r
      postResult (setRing t r { y with head := (y.head + 1) % y.size, count := y.count - 1 }) o.ini st x.head
    if bufErr then postResult (ringError s0 r) o.ini 9 x.head else
    match agRead s0 (endpointOf .qe 0) (x.slotAddr x.head) x.esize with
    | .err e => postResult (ringError (logBusErr s0 (ringIni x) (x.slotAddr x.head) e) r) o.ini 9 x.head
    | .data l poison =>
      if x.mirror && !poison && !pairsOk l then qeMirrorFault (postResult s0 o.ini 8 x.head) r o.ini
      else if dstErr then consumed s0 9
      else match targetRefuses s0 o.page o.addr x.esize 2 with
      | some e => consumed (logBusErr s0 o.ini o.addr e) 9
      | none =>
        match agWrite s0 (endpointOf .qe 0) o.addr l false with
        | .error e => consumed (logBusErr s0 o.ini o.addr e) 9
        | .ok t => consumed (poisonCopied s0 t (x.slotAddr x.head) o.addr x.esize) (if poison then 9 else 0)

/-! ## Ring configuration -/

/-- Whether a partition owns a time base or may select it (R77, R100, R378). -/
def tbAllowed (s : State) (p tb : Nat) : Bool :=
  rf s (pageReg .tbu 0 (tb + 1) 0x00C) 0 6 == p || rb s (Reg.TB_ACCESS tb) p

/-- The conditions of R378 for enabling a ring with a configuration. -/
def ringOk (s : State) (x : Ring) (cfg : Word) : Bool :=
  let lg := fld cfg 1 5
  let es := fld cfg 6 2
  let bytes := 2 ^ lg * (32 * 2 ^ es)
  let a := x.base.toNat
  4 ≤ lg && lg ≤ 16 && es ≤ 2 &&
    a + bytes ≤ dramCapacity s &&
    (x.owner == 0 || (upto 16).any fun r =>
      rb s (Reg.PART_RBASE x.owner r) 0 && rb s (Reg.PART_RBASE x.owner r) 1 && rb s (Reg.PART_RBASE x.owner r) 2 &&
        rf s (Reg.PART_RBASE x.owner r) 12 36 ≤ a / 4096 &&
        (a + bytes - 1) / 4096 ≤ rf s (Reg.PART_RLIMIT x.owner r) 12 36) &&
    srcOwner s (256 + fld x.db 0 8) == x.owner &&
    (!bit cfg 8 || tbAllowed s x.owner (fld cfg 9 4)) &&
    (!(bit cfg 8 && bit cfg 13) || 1 ≤ es) &&
    ringsEnabled s x.owner < rf s (Reg.QE_QRINGS x.owner) 0 14

/-- A write of RCFG (R378, R389); `none` is a refusal, as that of ESIZE 3 is (Table 15.6). -/
def rcfgWrite (s : State) (r : Nat) (v : Word) : Option State :=
  let x := getRing s r
  let v := BitVec.ofNat 64 (fld v 0 14)
  if fld v 6 2 = 3 then none
  else if x.en then
    if setBit v 0 true != x.cfg then none
    else if bit v 0 then some s
    else if !x.ops.isEmpty || hwCons s r || hwProd s r then none
    else some (setRing s r { x with cfg := v, count := 0, head := 0, tail := 0, error := false })
  else if bit v 0 then
    if ringOk s x v then some (setRing s r { x with cfg := v, head := 0, tail := 0, count := 0, error := false }) else none
  else some (setRing s r { x with cfg := v })

/-! ## DMA channels (R390 to R393) -/

def DmaCh.en (d : DmaCh) : Bool := bit d.ctl 0
def DmaCh.started (d : DmaCh) : Nat := (d.cmds.filter DmaCmd.started).length
def DmaCh.limit (d : DmaCh) : Nat := max 1 (fld d.flight 0 13)
def dmaOwner (s : State) (c : Nat) : Nat := rf s (Reg.QE_DMAOWN c) 0 6

/-- Commands started and not complete, package-wide (Table 15.5). -/
def dmaInflight (s : State) : Nat := sumNat (s.qe.dmas.map fun e => e.2.started)

/-- A write of DCTL (R390); `none` is a refusal. A write with EN at 1 binds the rings it names, so R390's conditions hold of it whatever EN
was (R385). -/
def dctlWrite (s : State) (c : Nat) (v : Word) : Option State :=
  let d := getDma s c
  let v := BitVec.ofNat 64 (fld v 0 27)
  let cmd := fld v 1 13
  let cpl := fld v 14 13
  let own := dmaOwner s c
  let sum := sumNat ((s.qe.dmas.filter fun e => e.1 != c && e.2.en).map fun e => e.2.limit) + d.limit
  if bit v 0 && (cmd == cpl || (getRing s cmd).owner != own || (getRing s cpl).owner != own ||
      (getRing s cmd).esize != 32 || (getRing s cpl).esize != 32 || 4096 < sum) then none
  else some (setDma s c { d with ctl := v })

/-- Whether one end of a command lies where DMA reaches and passes the region check of the owner (R391). -/
def dmaAddrOk (s : State) (own a n need : Nat) : Bool :=
  match areaOf a, areaOf (a + n - 1) with
  | .dram, .dram => regionOk s own a n need
  | .host, .host => regionOk s own a n need
  | .core c off, .core c' off' => c == c' && isTcm off && isTcm off' && inPart s own c
  | _, _ => false

/-- The completion entry of a command (Table 15.3). -/
def cplEntry (s : State) (tag status bytes : Nat) : List Byte :=
  padTo 32 (leBytes 2 tag ++ [BitVec.ofNat 8 status, 0] ++ leBytes 4 bytes ++ leBytes 8 s.time)

/-- A command of a channel ends with a status: remembered, and its completion entry queued where it has one. A BUS status writes an
error-log entry and raises DMA_ERR (R392, R395). -/
def dmaEnd (s : State) (c : Nat) (m : DmaCmd) (status bytes : Nat) : State :=
  let d := getDma s c
  let cpls := if m.cpl || status == 0xD then d.cpls ++ [cplEntry s m.tag status bytes] else d.cpls
  let last := if status == 0xD then d.last else (m.tag :: d.last).take 256
  let s := setDma s c { d with cmds := d.cmds.erase m, cpls := cpls, last := last }
  if status = 9 then
    raiseCond (logErr s { errRec s 8 1 .qe 0 with part := dmaOwner s c, detail := detail (leBytes 2 c ++ [9]) }) .qe 0 0 1
  else s

/-- A command entry (Table 15.2). -/
def parseCmd (l : List Byte) : DmaCmd :=
  let n := fun (lo k : Nat) => leNat ((l.drop lo).take k)
  { src := n 0 8, dst := n 8 8, len := n 0x10 4 % 2 ^ 24 + 1, tag := n 0x14 2, cpl := (n 0x16 2).testBit 0,
    fence := (n 0x16 2).testBit 1, started := false }

/-- An enabled channel takes its next command; a failed check completes it with REGION (R391). -/
def dmaFetch (s : State) (c : Nat) : State :=
  let d := getDma s c
  if !d.en then s else
  match hwDeq s (fld d.ctl 1 13) with
  | (none, t) => t
  | (some (l, poison, t), _) =>
    let m := parseCmd l
    let own := dmaOwner s c
    let t := setDma t c { getDma t c with cmds := (getDma t c).cmds ++ [m] }
    if poison then dmaEnd t c m 9 0
    else if dmaAddrOk t own m.src m.len 1 && dmaAddrOk t own m.dst m.len 2 then t
    else dmaEnd t c m 0xA 0

/-- The next fetched command starts where the in-flight limit, a fence and held completions allow (R391, R392). -/
def dmaStart (s : State) (c : Nat) : State :=
  let d := getDma s c
  match d.cmds.findIdx? fun m => !m.started with
  | none => s
  | some k =>
    match d.cmds[k]? with
    | none => s
    | some m =>
      if d.started < d.limit && d.cpls.isEmpty && (!m.fence || k == 0) then
        setDma s c { d with cmds := listSet d.cmds k { m with started := true } }
      else s

/-- The initiator of a channel's copies: the queue engine for the channel's owner. -/
def dmaIni (s : State) (c : Nat) : Initiator := agentIni (endpointOf .qe 0) (dmaOwner s c)

/-- The bytes that a channel may read or write at an address, or the error that answers it: the target's check (R516), then a host window or
memory. -/
def dmaTarget (s : State) (c a n need : Nat) : Option Nat :=
  match targetRefuses s (dmaOwner s c) a n need with
  | some e => some e
  | none => if areaOf a = .host then owinErr s (dmaIni s c) a else none

/-- The source of the first `n` bytes of a channel's command, with whether it is poisoned; `none` where it answers with an error. -/
def dmaSource (s : State) (c : Nat) (m : DmaCmd) (n : Nat) : Option (List Byte × Bool) × State :=
  match dmaTarget s c m.src n 1 with
  | some e => (none, logBusErr s (dmaIni s c) m.src e)
  | none =>
    if areaOf m.src = .host then (some (freeBytes s n, false), { s with freeCtr := s.freeCtr + n })
    else match agRead s (endpointOf .qe 0) m.src n with
      | .err e => (none, logBusErr s (dmaIni s c) m.src e)
      | .data l p => (some (l, p), s)

/-- The copy of the first `n` bytes of a channel's command: the bytes written, and whether it met poison or an error. What poisoned source
lines held is written poisoned (R391). -/
def dmaCopy (s : State) (c : Nat) (m : DmaCmd) (n : Nat) : State × Nat × Bool :=
  match dmaSource s c m n with
  | (none, t) => (t, 0, true)
  | (some (l, bad), t) =>
    match dmaTarget t c m.dst n 2 with
    | some e => (logBusErr t (dmaIni t c) m.dst e, 0, true)
    | none =>
      if areaOf m.dst = .host then ({ hostWrite t m.dst l with resp := t.resp }, n, bad)
      else match agWrite t (endpointOf .qe 0) m.dst l false with
        | .ok u => (if areaOf m.src = .host then u else poisonCopied t u m.src m.dst n, n, bad)
        | .error e => (logBusErr t (dmaIni t c) m.dst e, 0, true)

/-- The oldest started command with a TAG completes (R391); `err` is an error response during its copy. -/
def dmaDone (s : State) (c tag : Nat) (err : Bool) : State :=
  match (getDma s c).cmds.find? fun m => m.started && m.tag == tag with
  | none => s
  | some m =>
    let (t, n, bad) := dmaCopy s c m m.len
    dmaEnd t c m (if bad || err then 9 else 0) n

/-- The oldest completion entry not yet posted goes to CPLRING if there is room (R392). -/
def dmaPost (s : State) (c : Nat) : State :=
  let d := getDma s c
  match d.cpls with
  | [] => s
  | l :: rest =>
    match hwEnq s (fld d.ctl 14 13) l with
    | none => s
    | some t => setDma t c { getDma t c with cpls := rest }

/-- A write of DABORT (R393); `done` is what a started command has copied when the abort is decided. -/
def dmaAbort (s : State) (i : Initiator) (p : Nat) (v : Word) (done : Nat) : State :=
  let c := fld v 0 6
  let tag := fld v 16 16
  let d := getDma s c
  if dmaOwner s c ≠ p ∧ p ≠ 0 then postResult s i 5 0
  else if !d.en && d.cmds.isEmpty then postResult s i 6 0
  else match d.cmds.find? fun m => m.tag == tag with
    | some m =>
      let n := if m.started then min m.len ((done + 63) / 64 * 64) else 0
      let (t, n, _) := if n = 0 then (s, 0, false) else dmaCopy s c m n
      postResult (dmaEnd t c m 0xD n) i 0 0
    | none => postResult s i (if d.last.contains tag then 0xB else 0xC) 0

/-- The channels that are enabled with a ring as their CMDRING. -/
def channelsOf (s : State) (r : Nat) : List Nat := (upto 64).filter fun c => (getDma s c).en && fld (getDma s c).ctl 1 13 == r

/-- Whether an initiator waits for an operation that it gave on a partition page: its DevAck, and so its next read of RESULT, come when the
operation is complete (R382). -/
def resultWaits (s : State) (i : Initiator) (p : Nat) : Bool := s.qe.rings.any fun e => e.2.ops.any fun o => o.ini == i && o.page == p

/-- Every ring, channel and result at its reset value (R394). -/
def qeReset (s : State) : State := { s with qe := { rings := [], dmas := [], results := [] } }

end Sys2Proof.Machine
end

