-- ==== Sys2Proof/Machine/TimeBase.lean ====
section
/-! DEFINITION. Encoders, time bases and the nanosecond in which compares fire (R55 to R65, R69 to R76). -/

namespace Sys2Proof.Machine

/-! ## Encoders (R58, R59, R517) -/

def getEnc (s : State) (e : Nat) : Encoder := nth s.fio.encs Encoder.reset e
def setEnc (s : State) (e : Nat) (x : Encoder) : State := { s with fio := { s.fio with encs := listSet s.fio.encs e x } }

/-- Filter time of an input in ns. -/
def encFilt (s : State) (e : Nat) : Nat := 10 * max 1 (rf s (Reg.ENC_CTL e) 0 10)

/-- A raw transition of a ball at the present nanosecond (R58): the first transition toward a new level is kept until the accepted
level has again been held for a full filter time. -/
def EncPin.raw' (p : EncPin) (level : Bool) (now filt : Nat) : EncPin :=
  if level = p.raw then p
  else
    let first := if level = p.acc then p.first
      else if p.first.isNone || p.since + filt ≤ now then some now else p.first
    { p with raw := level, since := now, first := first }

/-- Whether a ball's raw level has been stable for the filter time and differs from the accepted one. -/
def EncPin.due (p : EncPin) (now filt : Nat) : Bool := p.raw != p.acc && p.since + filt ≤ now

/-- A ball with its raw level accepted. -/
def EncPin.take (p : EncPin) : EncPin := { p with acc := p.raw, first := none }

/-- The decoded pair (A, B) as its position 0 to 3 in the forward sequence 00, 10, 11, 01 (R517). -/
def encPos (ctl : Word) (x : Encoder) : Nat :=
  let a := x.a.acc != bit ctl 12
  let b := x.b.acc != bit ctl 13
  let (a, b) := if bit ctl 15 then (b, a) else (a, b)
  match a, b with
  | false, false => 0
  | true, false => 1
  | true, true => 2
  | false, true => 3

/-- Whether a legal step between two positions counts as an edge in a MODE (R517): ×1 the edge between 0 and 1, ×2 every transition
of A, ×4 every step. -/
def encCounts (mode before after : Nat) : Bool :=
  if 2 ≤ mode then true
  else if mode = 1 then before / 2 == after / 2
  else (before == 0 && after == 1) || (before == 1 && after == 0)

/-- Fields of TB_CTL (Table 3.13). -/
def tbSrc (s : State) (n : Nat) : Nat := rf s (Reg.TB_CTL n) 1 3
def tbIdx (s : State) (n : Nat) : Nat := rf s (Reg.TB_CTL n) 4 4
def tbEn (s : State) (n : Nat) : Bool := rb s (Reg.TB_CTL n) 0

/-- The enabled time bases that take ticks from one source. -/
def tbsOf (s : State) (src idx : Nat) : List Nat := (upto 16).filter fun n => tbEn s n && tbSrc s n == src && tbIdx s n == idx

/-- The accumulator's 80-bit two's complement wrap. -/
def wrap80 (x : Int) : Int := (x + 2 ^ 79) % 2 ^ 80 - 2 ^ 79

/-- A 32.32 value in accumulator units of 2^-48 cycle. -/
def accOf (v : Word) : Int := v.toInt * 65536

/-- A time base changes state (R64, R65): UNC follows, ticks of the old state no longer pair, condition STATE is raised. -/
def tbGoto (s : State) (n : Nat) (st : TbState) : State :=
  let t := getTb s n
  if t.st = st then s else
  let unc := match st with | .tracking | .holdover => 0 | _ => 0xFFFFFFFFFFFFFFFF
  raiseCond (setTb s n { t with st := st, unc := unc, grown := 0, entered := s.time, paired := false }) .tbu 0 (n + 1) 0

/-- The fields of a time base as its registers hold them, which its next tick puts in force (R93). -/
def tbForce (s : State) (n : Nat) : TbForce :=
  { timeout := rf s (Reg.TB_TIMEOUT n) 0 32, hold := rf s (Reg.TB_HOLD n) 0 32, growth := (rd s (Reg.TB_GROWTH n)).toNat,
    index := rf s (Reg.TB_INDEX n) 0 32, errFail := rb s (Reg.TB_CTL n) 14 }

/-- A tick reaches a time base; of several in one nanosecond the last counts (R60). -/
def giveTick (s : State) (n : Nat) (k : Tick) : State := setTb s n { getTb s n with tick := some k, force := tbForce s n }

/-- ERR_FAIL moves a tracking encoder time base to FAILED (Table 3.2). -/
def tbErrFail (s : State) (n : Nat) : State :=
  let t := getTb s n
  if t.force.errFail && t.st == .tracking then tbGoto s n .failed else s

/-- A counted step of an encoder reaches a time base that follows it (R517): the edge number follows the time base's own count and
direction. -/
def encTick (s : State) (n : Nat) (rev : Bool) (at' : Nat) : State :=
  let t := getTb s n
  let rev := rev != rb s (Reg.TB_CTL n) 16
  let e := if rev then t.count else t.count + 1
  let v := accOf (rd s (Reg.TB_ORIGIN n)) + e * accOf (rd s (Reg.TB_SCALE n)) + t.offset
  setTb s n { t with count := if rev then t.count - 1 else t.count + 1, tick := some { v := wrap80 v, t := at', rev := rev },
                     force := tbForce s n }

/-- The accepted levels of A and B have changed from a position to another at a stamped time (R58, R517). -/
def encStep (s : State) (e before after at' : Nat) : State :=
  if after = before then s
  else if (before + 2) % 4 = after then
    let st := rd s (Reg.ENC_STATUS e)
    let s := wr s (Reg.ENC_STATUS e) (setFld st 0 16 (min 0xFFFF (fld st 0 16 + 1)))
    (tbsOf s 1 e).foldl (fun t n => tbErrFail (raiseCond t .tbu 0 (n + 1) 3) n) s
  else
    let rev := (after + 1) % 4 == before
    if !encCounts (rf s (Reg.ENC_CTL e) 10 2) before after then s
    else
      let c := rd s (Reg.ENC_COUNT e)
      let s := wr s (Reg.ENC_COUNT e) (BitVec.ofNat 64 ((c.toNat + (if rev then 0xFFFFFFFF else 1)) % 2 ^ 32))
      (tbsOf s 1 e).foldl (fun t n => encTick t n rev at') s

/-- Lines A and B whose filter time has ended are accepted together; the tick is stamped at the first raw transition (R58). -/
def encAcceptAB (s : State) (e : Nat) : State :=
  let x := getEnc s e
  let f := encFilt s e
  let da := x.a.due s.time f
  let db := x.b.due s.time f
  let ctl := rd s (Reg.ENC_CTL e)
  let y := { x with a := if da then x.a.take else x.a, b := if db then x.b.take else x.b }
  let at' := if da then x.a.first.getD s.time else x.b.first.getD s.time
  encStep (setEnc s e y) e (encPos ctl x) (encPos ctl y) at'

/-- Line Z is accepted once its filter time has ended; a rise awaits its index action (R59). -/
def encAcceptZ (s : State) (e : Nat) : State :=
  let x := getEnc s e
  if !x.z.due s.time (encFilt s e) then s else
  let z := x.z.take
  let lv := z.acc != rb s (Reg.ENC_CTL e) 14
  wb (setEnc s e { x with z := z, zRise := lv }) (Reg.ENC_STATUS e) 16 lv

/-- The index action of one time base (R59): CHECK compares the fraction with INDEX by more than one SCALE step, CORRECT snaps, but for a
time base whose phase FAILED froze. -/
def indexAction (s : State) (n : Nat) : State :=
  let t := getTb s n
  let want := t.force.index
  let have' := fld t.phase 0 32
  match rf s (Reg.TB_CTL n) 12 2 with
  | 1 =>
    let d := (have' + 2 ^ 32 - want) % 2 ^ 32
    let d := min d (2 ^ 32 - d)
    if (rd s (Reg.TB_SCALE n)).toInt.natAbs < d then tbErrFail (raiseCond s .tbu 0 (n + 1) 4) n else s
  | 2 => if t.st = .failed then s else setTb s n { t with writes := t.writes ++ [.index want] }
  | _ => s

/-! ## The advance of one time base (R60 to R63, R69, R70) -/

/-- T_tick of a source in ns (Table 3.1). -/
def tickPeriod (src : Nat) : Int := if src = 2 then 10000 else 1000

/-- A phase change that is tested for crossings: from, to, whether a fire carries LATE, and the state in which it is made. -/
structure PhaseMove where
  a : Word
  b : Word
  late : Bool
  st : TbState

/-- What one nanosecond does to a time base: its new state, the phase changes to test, conditions of its page, the relock step. -/
structure TbRun where
  tb : TimeBase
  moves : List PhaseMove
  conds : List Nat
  relock : Option Word

/-- A phase change that is tested for crossings (move_to of R60). -/
def TbRun.move (r : TbRun) (p : Int) (late : Bool) : TbRun :=
  let tb := { r.tb with acc := wrap80 p }
  { r with tb := tb, moves := r.moves ++ [{ a := r.tb.phase, b := tb.phase, late := late, st := r.tb.st }] }

/-- The measured rate of two ticks, truncated toward zero; where their times do not rise it is open (log entry 14). -/
def rateOf (s : State) (tb : TimeBase) (k : Tick) : Int :=
  let dt : Int := k.t - tb.tLast
  if dt ≤ 0 then (Config.freeNat s.freeCtr : Int) else Int.tdiv (wrap80 (k.v - tb.vLast)) dt

/-- A state change within the nanosecond. -/
def TbRun.goto (r : TbRun) (st : TbState) (now : Nat) : TbRun :=
  if r.tb.st = st then r
  else
    let unc := match st with | .tracking | .holdover => 0 | _ => 0xFFFFFFFFFFFFFFFF
    { r with tb := { r.tb with st := st, unc := unc, grown := 0, entered := now, paired := false }, conds := r.conds ++ [0] }

/-- Whether a tick is the second of two in the present state (paired of R60). -/
def pairedTick (s : State) (n : Nat) (tb : TimeBase) (k : Tick) (enc : Bool) : Bool :=
  tb.paired && k.t - tb.tLast ≤ rf s (Reg.TB_TIMEOUT n) 0 32 && (!enc || k.rev == tb.lastRev)

/-- The relock step of R69: an SDP's phase moves by the fractional difference in (−0.5, +0.5] cycle, others by the full one. -/
def relockStep (tb : TimeBase) (v : Int) (sdp : Bool) : Int :=
  if sdp then
    let f := (v - tb.acc) % 2 ^ 48
    if 2 ^ 47 < f then f - 2 ^ 48 else f
  else wrap80 (v - tb.acc)

/-- A tick of a source other than software is applied (R60). -/
def applyTick (s : State) (n : Nat) (r : TbRun) (k : Tick) : TbRun :=
  let src := tbSrc s n
  let enc := src == 1
  let scale := accOf (rd s (Reg.TB_SCALE n))
  let tb := r.tb
  if tb.st = .failed then r else
  let r :=
    match tb.st with
    | .unlocked =>
      let pair := pairedTick s n tb k enc
      let m := rateOf s tb k
      let r := r.move k.v false
      let r := if pair then
          let r := { r with tb := { r.tb with rate := m, restart := false } }
          r.goto .tracking s.time
        else { r with tb := { r.tb with paired := true } }
      if enc then { r with tb := { r.tb with rev := k.rev } } else r
    | .holdover =>
      if pairedTick s n tb k enc then
        let m := rateOf s tb k
        let step := relockStep tb k.v (src == 2)
        let excess := decide (tb.unc < (step / 65536).natAbs)
        let r := { r with tb := { r.tb with rate := m, restart := false, stepExcess := excess } }
        let r := r.goto .tracking s.time
        let r := r.move (tb.acc + step) true
        let off := if src = 2 then tb.offset + (tb.acc + step - k.v) else tb.offset
        { r with tb := { r.tb with offset := off }, relock := some (ofI (step / 65536)),
                 conds := r.conds ++ 5 :: (if excess then [6] else []) }
      else
        let r := r.move (tb.acc + tb.rate) false
        { r with tb := { r.tb with paired := true } }
    | _ =>
      let r :=
        if enc && (k.rev != tb.rev || tb.standstill) then
          { r with tb := { tb with rev := k.rev, rate := 0, restart := true, standstill := false },
                   conds := r.conds ++ (if k.rev != tb.rev then [1] else []) }
        else
          let m := rateOf s tb k
          if tb.restart then { r with tb := { tb with rate := m, restart := false } }
          else { r with tb := { tb with rate := tb.rate + (m - tb.rate) / 2 ^ rf s (Reg.TB_CTL n) 8 4 } }
      r.move k.v true
  let vl := if tb.st = .holdover && src == 2 && r.relock.isSome then r.tb.acc else k.v
  let rev := if enc then r.tb.rev else r.tb.rate < 0
  let limit := if enc then wrap80 (r.tb.acc + (if rev then -1 else 1) * (scale - 65536))
    else wrap80 (r.tb.acc + r.tb.rate * (tickPeriod src - 16))
  { r with tb := { r.tb with vLast := vl, tLast := k.t, lastRev := k.rev, rev := rev, limit := limit } }

/-- A nanosecond without a tick: interpolation up to the limit, or extrapolation in holdover (R60). -/
def interpolate (s : State) (n : Nat) (r : TbRun) : TbRun :=
  let tb := r.tb
  if tb.st = .tracking ∧ tbSrc s n ≠ 0 then
    let p := tb.acc + tb.rate
    let dir : Int := if tbSrc s n = 1 then (if tb.rev then -1 else 1) else tb.rate.sign
    r.move (if 0 < dir * wrap80 (p - tb.limit) then tb.limit else p) false
  else if tb.st = .holdover then r.move (tb.acc + tb.rate) false
  else r

/-- A SET, STEP or index change of a source other than software, after the tick (R59, R63): the limit moves with the phase, and for
an encoder the offset too; in FAILED nothing is tested. DESIGN CHOICE: for an encoder the value of the last tick moves along, so that
the next measured rate spans ticks of one offset; the rule names the limit and the offset only (log entry 92). -/
def applyWrite (s : State) (n : Nat) (r : TbRun) (w : PhaseWrite) : TbRun :=
  let tb := r.tb
  let d : Int := match w with
    | .set v => accOf v - tb.acc
    | .step v => accOf v
    | .index f => ((f : Int) * 65536 - tb.acc + 2 ^ 47) % 2 ^ 48 - 2 ^ 47
  let enc := tbSrc s n == 1
  let r := if tb.st = .failed then { r with tb := { tb with acc := wrap80 (tb.acc + d) } } else r.move (tb.acc + d) true
  { r with tb := { r.tb with limit := wrap80 (tb.limit + d),
                             offset := if enc then tb.offset + d else tb.offset,
                             vLast := if enc then wrap80 (tb.vLast + d) else tb.vLast } }

/-- The SET and STEP writes of one nanosecond with the software source: together one tick, on time (R57, R60, R63). -/
def applySoftware (s : State) (n : Nat) (r : TbRun) : TbRun :=
  let tb := r.tb
  if tb.writes.isEmpty then r else
  let v := tb.writes.foldl (fun (a : Int) w => match w with
    | .set v => accOf v
    | .step v => wrap80 (a + accOf v)
    | .index _ => a) tb.acc
  if tb.st = .failed then { r with tb := { tb with acc := v } } else
  let k : Tick := { v := v, t := s.time, rev := false }
  let r := if tb.st = .unlocked then
      let r := r.move v false
      r.goto .tracking s.time
    else
      let m := rateOf s tb k
      let rate := if tb.restart then m else tb.rate + (m - tb.rate) / 2 ^ rf s (Reg.TB_CTL n) 8 4
      let r := { r with tb := { tb with rate := rate, restart := false } }
      r.move v false
  { r with tb := { r.tb with vLast := v, tLast := s.time, rev := r.tb.rate < 0, force := tbForce s n } }

/-- One time base in one nanosecond. A disabled one takes only the phase that a write gives it (log entry 14). -/
def tbAdvance (s : State) (n : Nat) : TbRun :=
  let tb := getTb s n
  let r : TbRun := { tb := tb, moves := [], conds := [], relock := none }
  let r :=
    if !tbEn s n then
      { r with tb := tb.writes.foldl (fun (t : TimeBase) w => match w with
          | .set v => { t with acc := accOf v }
          | .step v => { t with acc := wrap80 (t.acc + accOf v) }
          | .index _ => t) tb }
    else if tbSrc s n = 0 then applySoftware s n r
    else
      let r := match tb.tick with
        | some k => applyTick s n r k
        | none => interpolate s n r
      tb.writes.foldl (applyWrite s n) r
  { r with tb := { r.tb with tick := none, writes := [], prev := tb.phase } }

/-! ## Compares (R72 to R76) -/

def getCmp (s : State) (m : Nat) : CmpSt := s.fio.cmps.get CmpSt.reset m
def setCmp (s : State) (m : Nat) (c : CmpSt) : State := { s with fio := { s.fio with cmps := s.fio.cmps.set m c } }

/-- The target of a compare: the register, or the mirror pair (R78). -/
def cmpTarget (s : State) (m : Nat) : Word :=
  if rb s (Reg.CMP_CTL m) 3 then
    BitVec.ofNat 64 (rf s (Reg.CMP_TARGET_MWL m) 0 32 + 2 ^ 32 * rf s (Reg.CMP_TARGET_MWH m) 0 32)
  else rd s (Reg.CMP_TARGET m)

/-- The target replaced, both pairs rewritten where it is mirrored (R78). -/
def setTarget (s : State) (m : Nat) (t : Word) : State :=
  if rb s (Reg.CMP_CTL m) 3 then
    wr (wr s (Reg.CMP_TARGET_MWL m) (mirrorOf (t.toNat % 2 ^ 32))) (Reg.CMP_TARGET_MWH m) (mirrorOf (t.toNat / 2 ^ 32))
  else wr s (Reg.CMP_TARGET m) t

/-- Whether both pairs of a mirrored target match (R78). -/
def targetPairsOk (s : State) (m : Nat) : Bool :=
  !rb s (Reg.CMP_CTL m) 3 || (mirrorOk (rd s (Reg.CMP_TARGET_MWL m)) && mirrorOk (rd s (Reg.CMP_TARGET_MWH m)))

/-- A compare disarmed by hardware. -/
def cmpDisarmNow (s : State) (m : Nat) : State :=
  setCmp (wb s (Reg.CMP_CTL m) 0 false) m { CmpSt.reset with disarm := false }

/-- A mirror mismatch of a target (R78): disarmed, MIRROR_ERR, error log, CMP_MIRROR report. -/
def cmpMirrorErr (s : State) (m : Nat) : State :=
  let s := wb (cmpDisarmNow s m) (Reg.CMP_STATUS m) 5 true
  let s := logErr s { errRec s 6 3 .tbu 0 with detail := detail (leBytes 2 m) }
  smgReport s (Rep.plain 2)

/-- After a fire (R76): a one-shot compare disarms; a periodic one moves its target on, skipping or owing further fires, and disarms
where INCR cannot bring the target ahead. -/
def cmpRearm (s : State) (m : Nat) (dir : Cross) (b : Word) : State :=
  let ctl := rd s (Reg.CMP_CTL m)
  let incr := (rd s (Reg.CMP_INCR m)).toInt
  let hopeless := match dir with | .rising => decide (incr ≤ 0) | .falling => decide (0 ≤ incr)
  if !bit ctl 1 || hopeless then cmpDisarmNow s m
  else
    let t1 := cmpTarget s m + ofI incr
    if !passed t1 b dir then setCmp (setTarget s m t1) m { getCmp s m with refire := none }
    else if bit ctl 2 then
      let k := (t1 - b).toInt.natAbs / incr.natAbs + 1
      let s := setTarget s m (t1 + ofI (k * incr))
      setCmp (addReg s (Reg.CMP_MISS m) k) m { getCmp s m with refire := none }
    else setCmp (setTarget s m t1) m { getCmp s m with refire := some dir }

/-- The owner of a compare's page (R77). -/
def cmpOwner (s : State) (m : Nat) : Nat := rf s (pageReg .tbu 0 (17 + m / 16) 0x00C) 0 6

/-- Whether an ARG names a resource at all under a control word: a gate group must be below 12 (R77). -/
def cmpArgOk (ctl arg : Word) : Bool := fld ctl 11 2 != 1 || fld arg 0 4 < 12

/-- The ownership conditions of R77 for a compare with a control and an argument word. -/
def cmpOwned (s : State) (m : Nat) (ctl arg : Word) : Bool :=
  let p := cmpOwner s m
  let act := fld ctl 11 2
  let own := fun (q : Nat) => p == 0 || q == p
  (match act with
   | 1 => own (rf s (pageReg .gpe (fld arg 0 4) 0 0x00C) 0 6)
   | 2 => own (rf s (pageReg .sdm 0 (37 + fld arg 0 4) 0x00C) 0 6)
   | 3 => own (getRing s (fld arg 0 13)).owner
   | _ => true) &&
    (!(act == 0 || bit ctl 13) || own (srcOwner s m)) &&
    tbAllowed s p (fld ctl 7 4)

/-- A fire takes its place among those on their way: by nanosecond, and within one by ascending compare index (R74). -/
def putFire (f : Fire) : List Fire → List Fire
  | [] => [f]
  | g :: t => if f.time < g.time ∨ (f.time = g.time ∧ f.m < g.m) then f :: g :: t else g :: putFire f t

/-- A fire (R73, R74): FIRED, LATE and TBSTATE and the LATE condition of the time base, in the state `st` of the phase change that made
it. Ownership is checked (R77), then the mirror pairs (R78); a failure disarms. The compare is then re-armed or disarmed, and a fire
that is not suppressed (R79) goes on its way to its action. -/
def cmpFire (s : State) (m : Nat) (dir : Cross) (late : Bool) (b : Word) (st : TbState) : State :=
  let ctl := rd s (Reg.CMP_CTL m)
  let arg := rd s (Reg.CMP_ARG m)
  let n := fld ctl 7 4
  let code := match st with | .unlocked => 0 | .tracking => 1 | .holdover => 2 | .failed => 3
  let f : Fire := { m := m, late := late, time := s.time, phase := (getTb s n).phase, target := cmpTarget s m, tb := n,
                    ctl := ctl, arg := arg, phases := phasesNow s }
  let s := wr s (Reg.CMP_STATUS m) (setFld (setBit (setBit (rd s (Reg.CMP_STATUS m)) 0 true) 1 late) 2 2 code)
  let s := if late then raiseCond s .tbu 0 (n + 1) 7 else s
  if !cmpArgOk ctl arg || !cmpOwned s m ctl arg then wb (cmpDisarmNow s m) (Reg.CMP_STATUS m) 6 true
  else if !targetPairsOk s m then cmpMirrorErr s m
  else
    let s := cmpRearm s m dir b
    if frozen s .tbu 0 (17 + m / 16) || (bit ctl 4 && st != .tracking) then wb s (Reg.CMP_STATUS m) 4 true
    else { s with fio := { s.fio with fires := putFire f s.fio.fires } }

/-- One armed compare in one nanosecond, over the phase changes of its time base. -/
def cmpRun (s : State) (m : Nat) (moves : List PhaseMove) : State :=
  let c := getCmp s m
  if !c.armed || rb s (Reg.CMP_CTL m) 14 then s
  else
    let n := rf s (Reg.CMP_CTL m) 7 4
    match c.refire.filter (passed (cmpTarget s m) (getTb s n).phase) with
    | some dir => if (getTb s n).st = .failed then s else cmpFire s m dir true (getTb s n).phase (getTb s n).st
    | none =>
      let s := setCmp s m { c with refire := none }
      moves.foldl (fun t mv =>
        if !(getCmp t m).armed || (getCmp t m).refire.isSome then t
        else match crossing (rf t (Reg.CMP_CTL m) 5 2) (cmpTarget t m) mv.a mv.b with
          | some dir => cmpFire t m dir mv.late mv.b mv.st
          | none => t) s

/-- Disarms written in this nanosecond take effect after it (R75). -/
def cmpSettle (s : State) : State :=
  { s with fio := { s.fio with cmps := s.fio.cmps.map fun e =>
      (e.1, if e.2.disarm then { e.2 with armed := false, disarm := false, refire := none } else e.2) } }

/-! ## Pattern entries (R84) -/

/-- Whether a phase change makes the crossing that an entry waits for: RISING where its time base ran forward at the segment's start, else
FALLING (R84). -/
def entCrossed (seg : Seg) (e : BitVec 128) (mv : PhaseMove) : Bool :=
  let n := entFld e 72 4
  let hits := fun (t : Word) => (crossing (if nth seg.revs false n then 1 else 0) t mv.a mv.b).isSome
  mv.st != .failed &&
    match entFld e 76 2 with
    | 0 => hits (BitVec.ofNat 64 (entFld e 0 64))
    | 1 => hits (nth seg.phase0 0 n + BitVec.ofNat 64 (entFld e 0 64))
    | _ => false

/-- The phase changes of one nanosecond are tested against the entry for which a group waits (R60, R84). -/
def gpeCross (s : State) (runs : List TbRun) (g : Nat) : State :=
  match (getGpe s g).seg with
  | none => s
  | some seg =>
    let e := sramAt s seg.next
    let mvs := (runs[entFld e 72 4]?).elim [] TbRun.moves
    if mvs.any (entCrossed seg e) then setGpe s g { getGpe s g with seg := some { seg with hit := true } } else s

/-! ## Deadline windows (R337) -/

/-- A phase deadline over the changes of its time base in one nanosecond: reached by its crossing, or where the time base is neither TRACKING
nor HOLDOVER after it. -/
def McpWin.advance (s : State) (runs : List TbRun) : McpWin → McpWin
  | .atPhase tb d rising none =>
    let hit := ((runs[tb]?).elim [] TbRun.moves).any fun mv => (crossing (if rising then 0 else 1) d mv.a mv.b).isSome
    .atPhase tb d rising (if hit || !tbRuns s tb then some s.time else none)
  | w => w

/-- Every window of the comparator, open or that of a half or a TRIG assertion, in one nanosecond. -/
def mcpCross (s : State) (runs : List TbRun) : State :=
  { s with mcp := s.mcp.map fun (c, h) =>
      let f := McpWin.advance s runs
      let g := fun (x : McpHalf) => { x with win := f x.win }
      (c, { win := h.win.map f, trig := h.trig.map fun x => (x.1, f x.2), a := h.a.map g, b := h.b.map g }) }

/-! ## The nanosecond -/

/-- The partition watchdogs count down in µs of REFTIME; one that a debug stop holds does not (R483). -/
def wdogTick (s : State) : State :=
  if (s.time + 1) % 1000 ≠ 0 then s
  else
    ((upto 64).filter fun p => rf s (Reg.DBGP_WDPERIOD p) 0 32 != 0 && rf s (Reg.DBGP_WDLEFT p) 0 32 != 0 &&
      !frozen s .dbg 0 (p + 1)).foldl (fun t p => wf t (Reg.DBGP_WDLEFT p) 0 32 (rf t (Reg.DBGP_WDLEFT p) 0 32 - 1)) s

/-- The budget timers of a core count one nanosecond (R120, R122). -/
def budgetTick (s : State) : State :=
  { s with cores := s.cores.map fun e =>
      let k := e.2
      let ex := rf s (Reg.SCHED_BCTL e.1) 8 8
      let held := if k.stopped then monLevel s e.1 else 0
      (e.1, { k with banks := k.banks.zipIdx.map fun (b, l) =>
        if b.budgetOn && (!ex.testBit l || k.cur == l) && !(k.stopped && l ≤ held) then { b with budget := b.budget - 1 } else b }) }

/-- Every MAC clock advances by 1 + RATE × 2^-40 ns (R409). -/
def ptpTick (s : State) : State :=
  { s with ptp := s.ptp.zipIdx.map fun (c, m) => { c with t := c.t + 2 ^ 40 + sfld (rd s (Reg.ETH_PTP_RATE m)) 0 32 } }

/-- Rates of ETH_STATUS.SPEED in kbit/s. -/
def ethRate (speed : Nat) : Nat := nth [10000, 100000, 1000000, 2500000, 5000000, 10000000] 10000 speed

/-- The credit of a class after one nanosecond (R411): it falls while the class sends, grows while it waits or is in debt, is held while
its gate is closed and never stays positive while nothing waits. -/
def creditNext (idle rate : Int) (sending closed waiting : Bool) (c : Int) : Int :=
  if sending then c + idle - rate
  else if closed then c
  else if waiting then c + idle
  else if c < 0 then min 0 (c + idle) else 0

/-- The credit of one class of an enabled MAC after one nanosecond. -/
def cbsClass (s : State) (m : Nat) (x : Mac) (t : Nat) (c : Int) : Int :=
  let sending := x.txq.any fun q => q.cls == t && !q.sent && q.status == 0
  let ring := rb s (Reg.ETH_TXRING m t) 31 && ringHas s (rf s (Reg.ETH_TXRING m t) 0 13)
  let rate := ethRate (rf s (Reg.ETH_STATUS m) 1 3)
  if t = 0 || !rb s (Reg.ETH_CBS m t) 31 then 0
  else creditNext (rf s (Reg.ETH_CBS m t) 0 24) rate sending (!x.gates.testBit t) ((nth x.launch none t).isSome || ring) c

/-- The shaper credits of the enabled MACs count one nanosecond. -/
def cbsTick (s : State) : State :=
  { s with macs := s.macs.zipIdx.map fun (x, m) =>
      if !rb s (Reg.ETH_CTL m) 0 then x
      else { x with credit := x.credit.zipIdx.map fun (c, t) => cbsClass s m x t c } }

/-- One reference nanosecond (R56, R60, R74): every time base advances, every armed compare is tested in ascending order and every
pattern entry that a group waits for, then the count moves on. -/
def nanosecond (s : State) : State :=
  if s.pwr.por then s
  else if !domOn s 46 then { budgetTick (cbsTick (ptpTick (wdogTick (mcpCross s [])))) with time := s.time + 1 } else
  let runs := (upto 16).map (tbAdvance s)
  let s := { s with fio := { s.fio with tbs := runs.map TbRun.tb }, freeCtr := s.freeCtr + 1 }
  let s := runs.zipIdx.foldl (fun t (r, n) =>
    let t := match r.relock with
      | some w => wr t (Reg.TB_RELOCK n) w
      | none => t
    r.conds.foldl (fun u k => raiseCond u .tbu 0 (n + 1) k) t) s
  let s := (s.fio.cmps.map Prod.fst).foldl (fun t m =>
    cmpRun t m ((runs[rf t (Reg.CMP_CTL m) 7 4]?).elim [] TbRun.moves)) s
  let s := (upto 12).foldl (fun t g => gpeCross t runs g) s
  let s := cmpSettle (mcpCross s runs)
  { budgetTick (cbsTick (ptpTick (wdogTick s))) with time := s.time + 1 }

/-- Arming takes effect in the nanosecond after the write (R75); a target already passed fires at once with LATE. -/
def cmpArmEffect (s : State) (m : Nat) : State :=
  let c := getCmp s m
  match c.armAt with
  | none => s
  | some t =>
    if s.time ≤ t then s else
    let s := setCmp s m { c with armed := true, armAt := none, refire := none }
    let tb := getTb s (rf s (Reg.CMP_CTL m) 7 4)
    let dir := rf s (Reg.CMP_CTL m) 5 2
    if rb s (Reg.CMP_CTL m) 14 || tb.st = .failed then s
    else if dir = 0 ∧ passed (cmpTarget s m) tb.phase .rising then cmpFire s m .rising true tb.phase tb.st
    else if dir = 1 ∧ passed (cmpTarget s m) tb.phase .falling then cmpFire s m .falling true tb.phase tb.st
    else s

/-! ## Control of a time base (R62, R64, R65) -/

/-- UNLOCKED is entered by EN or RESTART (R64): an encoder time base takes ORIGIN, untested. DESIGN CHOICE: the rate is 0, the direction
forward and STANDSTILL 0 from then on, and the fields of R93 are in force as they stand; the rule names the phase only (log entry 113). -/
def tbRestart (s : State) (n : Nat) : State :=
  let s := tbGoto s n .unlocked
  let t := { getTb s n with tick := none, paired := false, rate := 0, restart := false, standstill := false, offset := 0, count := 0,
                            rev := false, entered := s.time, force := tbForce s n }
  setTb s n (if tbSrc s n = 1 then { t with acc := accOf (rd s (Reg.TB_ORIGIN n)) } else t)

/-- EN is cleared (R64): the phase is frozen, the state shows UNLOCKED, ticks stop. DESIGN CHOICE: the rate reads 0 from then on, and
SET and STEP writes not yet applied are dropped; the rule names neither (log entry 94). -/
def tbStop (s : State) (n : Nat) : State :=
  let s := tbGoto s n .unlocked
  setTb s n { getTb s n with tick := none, writes := [], rate := 0, standstill := false }

/-- Whether a source and its index are in range (Table 3.13). -/
def tbSrcOk (src idx : Nat) : Bool :=
  match src with
  | 0 | 5 => idx == 0
  | 1 => idx < 8
  | 2 => idx < 4
  | 3 => true
  | 4 => idx < 12
  | _ => false

/-- A write of TB_CTL (R64, R93); `none` is a refusal. -/
def tbCtlWrite (s : State) (n : Nat) (v : Word) : Option State :=
  let old := rd s (Reg.TB_CTL n)
  let new := BitVec.ofNat 64 (v.toNat % 2 ^ 15 + (if bit v 16 then 2 ^ 16 else 0))
  if !tbSrcOk (fld new 1 3) (fld new 4 4) then none
  else if bit old 0 && (fld new 1 3 != fld old 1 3 || fld new 4 4 != fld old 4 4 || fld new 12 2 != fld old 12 2) then none
  else
    let s := wr s (Reg.TB_CTL n) new
    if bit new 0 then (if !bit old 0 || bit v 15 then some (tbRestart s n) else some s)
    else if bit old 0 then some (tbStop s n) else some s

/-- An encoder time base in TRACKING without a tick for TIMEOUT stands still (R62). -/
def tbStandstillNow (s : State) (n : Nat) : State :=
  let t := getTb s n
  if tbEn s n && tbSrc s n == 1 && t.st == .tracking && !t.standstill && t.tLast + t.force.timeout ≤ s.time then
    raiseCond (setTb s n { t with standstill := true, rate := 0 }) .tbu 0 (n + 1) 2
  else s

/-- A tracking time base of sources 2 to 5 loses its ticks, or an SDP its voltage (Table 3.2). -/
def tbTimeoutNow (s : State) (n : Nat) : State :=
  let t := getTb s n
  let src := tbSrc s n
  let lost := src == 2 && !rb s (Reg.SDP_STATUS (tbIdx s n)) 3
  if tbEn s n && 2 ≤ src && t.st == .tracking && (lost || t.tLast + t.force.timeout ≤ s.time) then
    tbGoto s n (if t.force.hold = 0 then .failed else .holdover)
  else s

/-- HOLD µs in HOLDOVER have elapsed (Table 3.2). -/
def tbHoldNow (s : State) (n : Nat) : State :=
  let t := getTb s n
  if t.st == .holdover && t.entered + 1000 * t.force.hold ≤ s.time then tbGoto s n .failed else s

/-- UNC grows by GROWTH for a further microsecond in HOLDOVER, saturating (R65). -/
def tbGrowNow (s : State) (n : Nat) : State :=
  let t := getTb s n
  if t.st == .holdover && t.grown < (s.time - t.entered) / 1000 then
    setTb s n { t with unc := min 0xFFFFFFFFFFFFFFFF (t.unc + t.force.growth), grown := t.grown + 1 }
  else s

/-- T of a MAC in whole ns: its own clock or that of CLKSRC's MAC (R409). -/
def macT (s : State) (m : Nat) : Int :=
  let src := rf s (Reg.ETH_PTP_CTL m) 1 4
  let k := if src < 12 then src else m
  ((s.ptp[k]?).elim 0 PtpClk.t) / 2 ^ 40

/-- TB_STATE as a read shows it (Table 3.14). -/
def tbStateWord (s : State) (n : Nat) : Word :=
  let t := getTb s n
  let code := match t.st with | .unlocked => 0 | .tracking => 1 | .holdover => 2 | .failed => 3
  let sup := if tbSrc s n = 2 then rf s (Reg.SDP_STATUS (tbIdx s n)) 0 3 else 0
  BitVec.ofNat 64 (code + 4 * t.rev.toNat + 8 * t.standstill.toNat + 16 * sup + 128 * t.stepExcess.toNat)

end Sys2Proof.Machine
end

