-- ==== Sys2Proof/Machine/Compare.lean ====
section
/-! DEFINITION. Compare units: arming, actions (R75, R77 to R80); gate pattern refill (R83, R92); axle comparison (R71). -/

namespace Sys2Proof.Machine

/-- The outcome of a write of CMP_CTL. -/
inductive CtlRes where
  | done (s : State)
  | refused
  | notOwner

/-- A write of CMP_CTL (R75, R77, R78): TB and ACTION change only while ARM is 0; ARM := 1 is checked; clearing ARM takes effect in
the next nanosecond. -/
def cmpCtlWrite (s : State) (m : Nat) (v : Word) : CtlRes :=
  let old := rd s (Reg.CMP_CTL m)
  let new := BitVec.ofNat 64 (fld v 0 15)
  if bit old 0 && (fld new 7 4 != fld old 7 4 || fld new 11 2 != fld old 11 2) then .refused
  else if bit new 0 && !bit old 0 then
    if !cmpArgOk new (rd s (Reg.CMP_ARG m)) then .refused
    else if !cmpOwned s m new (rd s (Reg.CMP_ARG m)) then .notOwner
    else
      let s := wr s (Reg.CMP_CTL m) new
      if !targetPairsOk s m then .done (cmpMirrorErr s m)
      else .done (setCmp s m { getCmp s m with armAt := some s.time })
  else if !bit new 0 && bit old 0 then
    let c := getCmp s m
    .done (setCmp (wr s (Reg.CMP_CTL m) new) m { c with disarm := true, armAt := none })
  else .done (wr s (Reg.CMP_CTL m) new)

/-- A write of CMP_CTL as an access. -/
def cmpCtlAccess (s : State) (i : Initiator) (m : Nat) (v : Word) : State :=
  regWrite s i (Reg.CMP_CTL m) true true fun t =>
    match cmpCtlWrite t m v with
    | .done u => if bit v 14 && !rb t (Reg.CMP_CTL m) 14 then (upto 34).foldl (fun w pg => assertMoved t w .tbu 0 pg) u else u
    | .refused => refuse t i (Reg.CMP_CTL m)
    | .notOwner => failAccess t i (Reg.CMP_CTL m) cNOT_OWNER

/-- The source of a compare is asserted with its fire's instant and phases, and reaches the EVR in the same step (R74, R96). -/
def cmpEvent (s : State) (f : Fire) : State :=
  evrArrive s { src := f.m, late := f.late, phases := f.phases, time := f.time }

/-- The action of a fire (Table 3.5). A doorbell action starts the fetch pass of the DMA channels that take their commands from its ring
(R386): their next command is fetched, and DMA_COMMAND_FETCH goes on with the pass. -/
def cmpAction (s : State) (f : Fire) : State :=
  let arg := f.arg
  match fld f.ctl 11 2 with
  | 0 => cmpEvent s f
  | 1 => { s with fio := { s.fio with segReq := s.fio.segReq ++
      [{ g := fld arg 0 4, addr := fld arg 4 14, phase0 := f.target, time0 := f.time }] } }
  | 2 => { s with fio := { s.fio with snapReq := s.fio.snapReq ++
      [{ set := fld arg 0 4, tb := f.tb, late := f.late, phase := f.phase, time := f.time }] } }
  | _ =>
    let r := fld arg 0 13
    let t := { s with evr := { s.evr with arrivals := s.evr.arrivals ++
      [{ src := 256 + fld (getRing s r).db 0 8, late := false, phases := f.phases, time := f.time }] } }
    (channelsOf s r).foldl dmaFetch t

/-- The oldest fire reaches its action, once its nanosecond is over (R74): the action and the ALSO_EVT source. -/
def cmpDeliver (s : State) : State :=
  match s.fio.fires with
  | [] => s
  | f :: rest =>
    if s.time ≤ f.time then s
    else
      let s := cmpAction { s with fio := { s.fio with fires := rest } } f
      if bit f.ctl 13 && fld f.ctl 11 2 != 0 then cmpEvent s f else s

/-! ## Gate pattern commands -/

/-- The oldest segment start that a compare ordered for a group. -/
def segStart (s : State) (g : Nat) : State :=
  match s.fio.segReq.find? fun q => q.g == g with
  | none => s
  | some q =>
    let s := { s with fio := { s.fio with segReq := s.fio.segReq.erase q } }
    gpeStartSeg s g q.addr (List.replicate 16 q.phase0) q.time0

/-- A write of GPE_CTL (R83); `none` is a refusal. -/
def gpeCtlWrite (s : State) (g : Nat) (v : Word) : Option State :=
  let old := rd s (Reg.GPE_CTL g)
  let new := BitVec.ofNat 64 (fld v 0 12)
  let r := rf s (Reg.GPE_RING g) 0 13
  let own := rf s (pageReg .gpe g 0 0x00C) 0 6
  if bit new 0 && !bit old 0 then
    if gpeWindowBad s g (gpeBase s g) (gpeLen s g) || (getRing s r).esize != 32 || !mayBind s own r then none
    else
      let s := wr s (Reg.GPE_CTL g) new
      some (setGpe s g { getGpe s g with seg := none, rptr := 0, wptr := 0, filled := 0, staging := [] })
  else if !bit new 0 && bit old 0 then
    some (setGpe (wr s (Reg.GPE_CTL g) new) g { getGpe s g with seg := none })
  else some (wr s (Reg.GPE_CTL g) new)

/-- One staged refill entry reaches the SRAM (R83): in TABLE mode at the address it names, dropped and counted outside the window; in
STREAM mode at the write pointer. -/
def gpeStore (s : State) (g : Nat) (l : List Byte) : State :=
  let e : BitVec 128 := BitVec.ofNat 128 (leNat ((l.drop 16).take 16) % 2 ^ 80)
  let u := getGpe s g
  let base := gpeBase s g
  let len := gpeLen s g
  let put := fun (t : State) (a : Nat) => { t with fio := { t.fio with sram := t.fio.sram.set a e } }
  if gpeStream s g then
    put (setGpe s g { u with wptr := (u.wptr + 1) % max 1 len, filled := u.filled + 1 }) ((base + u.wptr) % 16384)
  else
    let a := leNat (l.take 2)
    if base ≤ a ∧ a < base + len then put s a else countReg s (Reg.GPE_DROPS g)

/-- Staged entries go to the SRAM in ring order while the window has room (R83, R92). -/
def gpeDrain (s : State) (g : Nat) : Nat → State
  | 0 => s
  | k + 1 =>
    let u := getGpe s g
    match u.staging with
    | [] => s
    | l :: rest =>
      if gpeStream s g && gpeLen s g ≤ u.filled then s
      else gpeDrain (gpeStore (setGpe s g { u with staging := rest }) g l) g k

/-- Entries fetched from the refill ring until the buffer holds 32 or the ring is empty; a poisoned entry is dropped and counted
(R92; log entry 22). -/
def gpeFetch (s : State) (g : Nat) : Nat → State
  | 0 => s
  | k + 1 =>
    if 32 ≤ (getGpe s g).staging.length then s else
    match hwDeq s (rf s (Reg.GPE_RING g) 0 13) with
    | (none, t) => t
    | (some (l, poison, t), _) =>
      if poison then gpeFetch (countReg t (Reg.GPE_DROPS g)) g k
      else gpeFetch (setGpe t g { getGpe t g with staging := (getGpe t g).staging ++ [l] }) g k

/-- A group's refill (R92): the staging buffer drains to the SRAM, and a buffer of 24 entries or fewer fetches more. -/
def gpeRefillNow (s : State) (g : Nat) : State :=
  if !rb s (Reg.GPE_CTL g) 0 then s else
  let s := gpeDrain s g 32
  if (getGpe s g).staging.length ≤ 24 then gpeFetch s g 32 else s

/-- Whether a group asserts DRAM panic (R92). -/
def gpePanics (s : State) (g : Nat) : Bool :=
  let u := getGpe s g
  rb s (Reg.GPE_CTL g) 0 && ringHas s (rf s (Reg.GPE_RING g) 0 13) &&
    (u.staging.length < 8 || (gpeStream s g && u.filled < 16))

/-! ## Axle comparison (R71) -/

/-- A list sorted by rising value. -/
def insertInt (x : Int) : List Int → List Int
  | [] => [x]
  | y :: t => if x ≤ y then x :: y :: t else y :: insertInt x t

/-- The median; of an even count the lower of the two middle values. -/
def median (l : List Int) : Option Int :=
  let s := l.foldl (fun a x => insertInt x a) []
  s[(s.length - 1) / 2]?

/-- Whether a mask names at most eight time bases, all with an encoder source (R71). -/
def axleMaskOk (s : State) (mask : Nat) : Bool :=
  popcount 16 mask ≤ 8 && (upto 16).all fun n => !mask.testBit n || tbSrc s n == 1

/-- One comparator bit with its count of evaluations that differ from it (R71): it changes after PERSIST of them. -/
def persistBit (old : Bool) (cnt persist : Nat) (now : Bool) : Bool × Nat :=
  if now = old then (old, 0) else if persist ≤ cnt + 1 then (now, 0) else (old, cnt + 1)

/-- The axle comparator's evaluation (R71): every named time base is judged against the median of those in TRACKING. DESIGN CHOICE: with
none in TRACKING there is no reference and every bit is held at 0, as below VMIN; while EN is 0 the bits stay (log entry 93). -/
def axleRun (s : State) : State :=
  let ctl := rd s Reg.TBU_AXLE_CTL
  if !bit ctl 16 then s else
  let tracking := (upto 16).filter fun n => bit ctl n && (getTb s n).st == .tracking && tbEn s n
  let persist := max 1 (rf s Reg.TBU_AXLE_THR 16 16)
  let thr : Int := rf s Reg.TBU_AXLE_THR 0 16
  let old := rd s Reg.TBU_AXLE_STATUS
  let vmin := (rd s Reg.TBU_AXLE_VMIN).toInt
  let zero := { wr s Reg.TBU_AXLE_STATUS 0 with
    fio := { s.fio with slipCnt := List.replicate 16 0, slideCnt := List.replicate 16 0 } }
  match median (tracking.map fun n => (getTb s n).rate) with
  | none => zero
  | some ref =>
    if (ref.natAbs : Int) < vmin then zero else
    let slip := (upto 16).map fun n =>
      persistBit (bit old n) (nth s.fio.slipCnt 0 n) persist
        (bit ctl n && decide (ref * (65536 + thr) < (getTb s n).rate * 65536))
    let slide := (upto 16).map fun n =>
      persistBit (bit old (16 + n)) (nth s.fio.slideCnt 0 n) persist
        (bit ctl n && decide ((getTb s n).rate * 65536 < ref * (65536 - thr)))
    let st := BitVec.ofNat 64 (bitsToNat (slip.map Prod.fst) + 2 ^ 16 * bitsToNat (slide.map Prod.fst))
    let t := { wr s Reg.TBU_AXLE_STATUS st with
      fio := { s.fio with slipCnt := slip.map Prod.snd, slideCnt := slide.map Prod.snd } }
    let rose := fun (lo : Nat) => (upto 16).any fun n => bit st (lo + n) && !bit old (lo + n)
    let t := if rose 0 then raiseCond t .tbu 0 0 0 else t
    if rose 16 then raiseCond t .tbu 0 0 1 else t

/-- A write of AXLE_CTL (R71); `none` is a refusal. DESIGN CHOICE: the bits of a time base that leaves the mask are cleared (log entry
93). -/
def axleCtlWrite (s : State) (v : Word) : Option State :=
  if axleMaskOk s (fld v 0 16) then
    let s := wr s Reg.TBU_AXLE_CTL (BitVec.ofNat 64 (fld v 0 17))
    let st := rd s Reg.TBU_AXLE_STATUS
    let keep := fld v 0 16
    some (wr s Reg.TBU_AXLE_STATUS (BitVec.ofNat 64 ((fld st 0 16 &&& keep) + 2 ^ 16 * (fld st 16 16 &&& keep))))
  else none

end Sys2Proof.Machine
end

