-- ==== Sys2Proof/Machine/Sdm.lean ====
section
/-! DEFINITION. Sigma-delta inputs: filters, trips, snapshots; supply-phase PLLs (R66 to R69, R89 to R92). -/

namespace Sys2Proof.Machine

def getSdm (s : State) (n : Nat) : SdmCh := nth s.fio.sdm SdmCh.reset n
def setSdm (s : State) (n : Nat) (x : SdmCh) : State := { s with fio := { s.fio with sdm := listSet s.fio.sdm n x } }

/-- The convolution of two coefficient lists. -/
def conv (a b : List Int) : List Int :=
  (upto (a.length + b.length - 1)).map fun k =>
    ((upto (k + 1)).map fun i => a.getD i 0 * b.getD (k - i) 0).foldl (· + ·) 0

/-- The impulse response of a sinc filter of order 2 or 3 and ratio `n`: boxcars convolved (R90). -/
def sincTaps (order n : Nat) : List Int :=
  let box := List.replicate n (1 : Int)
  if order = 3 then conv box (conv box box) else conv box box

/-- The filter's output over the newest bits, each +1 for a 1 and −1 for a 0 (R89, R90). -/
def sincOut (order n : Nat) (newestFirst : List Bool) : Int :=
  ((sincTaps order n).zip (newestFirst.map fun b => if b then (1 : Int) else -1)).foldl (fun a x => a + x.1 * x.2) 0

/-- SDM_CH fields (Table 3.19). -/
def sinc3Osr (s : State) (n : Nat) : Nat := rf s (Reg.SDMCH_CTL n) 8 9
def sinc2Osr (s : State) (n : Nat) : Nat := rf s (Reg.SDMCH_CTL n) 17 6

/-- Whether a channel and its clock run. -/
def sdmRuns (s : State) (n : Nat) : Bool :=
  rb s (Reg.SDMCH_CTL n) 0 && rb s (Reg.SDM_CLK (rf s (Reg.SDMCH_CTL n) 1 3)) 8

/-- The bits as the filters see them: newest first, inverted where INV is 1. -/
def sdmBits (s : State) (n : Nat) (bits : List Bool) : List Bool :=
  (bits.map fun b => b != rb s (Reg.SDMCH_CTL n) 5).reverse

/-- A sinc3 output (R90): N bits are filtered and the result stands in DATA. -/
def sinc3Run (s : State) (n : Nat) (bits : List Bool) : State :=
  let r := sinc3Osr s n
  if !sdmRuns s n || bits.length != r then s else
  let c := getSdm s n
  let h := (sdmBits s n bits ++ c.hist3).take (3 * r - 2)
  let y := sincOut 3 r h
  let s := setSdm s n { c with hist3 := h, outs := ((s.time, y) :: c.outs).take 64 }
  wr s (Reg.SDMCH_DATA n) (BitVec.ofNat 64 (BitVec.ofInt 32 y).toNat)

/-- A trip of a channel (R90): TRIPPED, its condition, the groups of TRIPMASK forced with the channel in TRIPSRC. -/
def sdmTrip (s : State) (n : Nat) : State :=
  let s := raiseCond (wb s (Reg.SDMCH_STATUS n) 0 true) .sdm 0 (n + 1) 0
  (upto 12).foldl (fun t g =>
    if rb t (Reg.SDMCH_TRIPMASK n) g then gpeForce (wr t (Reg.GPE_TRIPSRC g) (BitVec.ofNat 64 (n + 2 ^ 31))) g 2 else t) s

/-- A sinc2 output (R90): checked against the thresholds; TRIP_CNT + 1 consecutive outputs beyond one trip the channel. -/
def sinc2Run (s : State) (n : Nat) (bits : List Bool) : State :=
  let r := sinc2Osr s n
  if !sdmRuns s n || bits.length != r then s else
  let c := getSdm s n
  let h := (sdmBits s n bits ++ c.hist2).take (2 * r - 1)
  let y := sincOut 2 r h
  let beyond := decide (sfld (rd s (Reg.SDMCH_TRIP n)) 0 16 < y) || decide (y < sfld (rd s (Reg.SDMCH_TRIP n)) 16 16)
  let cnt := if beyond then c.beyond + 1 else 0
  let s := setSdm s n { c with hist2 := h, beyond := cnt }
  if rb s (Reg.SDMCH_CTL n) 6 && rf s (Reg.SDMCH_CTL n) 23 4 + 1 ≤ cnt then sdmTrip s n else s

/-- An input unchanged for 64 clock periods (R90). -/
def sdmStuckRun (s : State) (n : Nat) : State :=
  if !sdmRuns s n then s else
  let s := raiseCond (wb s (Reg.SDMCH_STATUS n) 1 true) .sdm 0 (n + 1) 1
  if rb s (Reg.SDMCH_CTL n) 6 then sdmTrip s n else s

/-! ## Snapshots (R91, R92) -/

/-- A record dropped (R91, R92). -/
def snapDrop (s : State) (k : Nat) : State := raiseCond (countReg s (Reg.SNAP_DROP k)) .sdm 0 (37 + k) 0

/-- The 128-byte record of a snapshot (Table 3.7). -/
def snapRecord (s : State) (q : SnapReq) : List Byte :=
  let mask := rd s (Reg.SNAP_MASK q.set)
  let chans := (upto 32).filter fun n => bit mask n
  let outs := chans.map fun n => ((getSdm s n).outs.find? fun o => o.1 ≤ q.time).getD (q.time, 0)
  let age := outs.foldl (fun a o => max a (q.time - o.1)) 0
  padTo 128 (leBytes 4 mask.toNat ++ leBytes 4 (q.set + 2 ^ 8 * q.tb + 2 ^ 16 * q.late.toNat) ++ leBytes 8 q.phase.toNat ++
    leBytes 8 q.time ++ leBytes 4 age ++ leBytes 4 0 ++ (outs.map fun o => leBytes 4 (BitVec.ofInt 32 o.2).toNat).flatten)

/-- The oldest snapshot ordered for a set is latched into the staging buffer of 16 records, or dropped (R91, R92). -/
def snapRun (s : State) (k : Nat) : State :=
  match s.fio.snapReq.find? fun q => q.set == k with
  | none => s
  | some q =>
    let s := { s with fio := { s.fio with snapReq := s.fio.snapReq.erase q } }
    if 16 ≤ s.fio.snapStage.length then snapDrop s k
    else { s with fio := { s.fio with snapStage := s.fio.snapStage ++ [{ set := k, bytes := snapRecord s q }] } }

/-- The oldest staged record is written to its ring, or dropped where the ring takes none (R91, R92). -/
def snapWrite (s : State) : State :=
  match s.fio.snapStage with
  | [] => s
  | r :: rest =>
    let s := { s with fio := { s.fio with snapStage := rest } }
    match hwEnq s (rf s (Reg.SNAP_RING r.set) 0 13) r.bytes with
    | some t => t
    | none => snapDrop s r.set

/-- Whether the SDM asserts DRAM panic (R92). -/
def sdmPanics (s : State) : Bool := 8 < s.fio.snapStage.length

/-! ## Supply-phase PLLs (R66 to R68) -/

/-- SUPPLY and LOCK of a PLL change; the conditions of their changes are raised. -/
def sdpSet (s : State) (k supply : Nat) (lock : Bool) : State :=
  let st := rd s (Reg.SDP_STATUS k)
  let s := wr s (Reg.SDP_STATUS k) (setBit (setFld st 0 3 supply) 3 lock)
  let s := if fld st 0 3 != supply then raiseCond s .sdm 0 (33 + k) 0 else s
  if bit st 3 != lock then raiseCond s .sdm 0 (33 + k) 1 else s

/-- Whether the primary channel delivers sinc3 outputs at 100 kS/s or more (R66). -/
def sdpPrimaryOk (s : State) (pri : Nat) : Bool :=
  sdmRuns s pri && rf s (Reg.SDM_CLK (rf s (Reg.SDMCH_CTL pri) 1 3)) 0 8 * sinc3Osr s pri ≤ 10000

/-- A write of SDM_SDP_CTL (R66); `none` is a refusal. -/
def sdpCtlWrite (s : State) (k : Nat) (v : Word) : Option State :=
  if bit v 0 && !sdpPrimaryOk s (fld v 1 5) then none
  else
    let s := wr s (Reg.SDP_CTL k) (BitVec.ofNat 64 (fld v 0 12))
    if bit v 0 then some s else some (sdpSet s k 0 false)

/-- µV per LSB of a PLL's primary channel (Table 3.20). -/
def vscale (s : State) (k : Nat) : Nat := rf s (Reg.SDP_VSCALE k) 0 32

/-- A threshold in V as µV. -/
def microV (v : Nat) : Nat := v * 1000000

/-- The supply class of Table 3.3, of a mean and an RMS in DATA units, converted with VSCALE (R67); the fundamental in mHz. -/
def supplyClass (s : State) (k : Nat) (mean : Int) (rms freq : Nat) : Nat :=
  let mean := mean * vscale s k
  let rms := rms * vscale s k
  let dcMin := microV (rf s (Reg.SDP_THR1 k) 0 16)
  let split := microV (rf s (Reg.SDP_THR1 k) 16 16)
  let acMin := microV (rf s (Reg.SDP_THR2 k) 0 16)
  let dc := 5 * rms < mean.natAbs
  if dc ∧ dcMin ≤ mean.natAbs ∧ mean.natAbs < split then 1
  else if dc ∧ split ≤ mean.natAbs then 2
  else if acMin ≤ rms ∧ 15500 ≤ freq ∧ freq ≤ 17500 then 3
  else if acMin ≤ rms ∧ 47000 ≤ freq ∧ freq ≤ 53000 then 4
  else if acMin ≤ rms ∧ 57000 ≤ freq ∧ freq ≤ 63000 then 5
  else 0

/-- A value in DATA units as a register shows it, in whole volts. DESIGN CHOICE: truncated toward zero, for the spec names no rounding
(log entry 101). -/
def voltsOf (s : State) (k : Nat) (x : Int) : Word := BitVec.ofNat 64 (BitVec.ofInt 32 (Int.tdiv (x * vscale s k) 1000000)).toNat

/-- The PLL decides its supply class (R67); outside the AC classes it holds no lock (R68). -/
def sdpClassifyRun (s : State) (k : Nat) (mean : Int) (rms freq : Nat) : State :=
  if !rb s (Reg.SDP_CTL k) 0 then s else
  let c := supplyClass s k mean rms freq
  let s := wr s (Reg.SDP_VDC k) (voltsOf s k mean)
  let s := wr s (Reg.SDP_VRMS k) (voltsOf s k rms)
  let s := wr s (Reg.SDP_FREQ k) (BitVec.ofNat 64 (freq % 2 ^ 32))
  sdpSet s k c (rb s (Reg.SDP_STATUS k) 3 && 3 ≤ c)

/-- LOCK is declared in an AC class (R68). -/
def sdpLockRun (s : State) (k freq : Nat) : State :=
  let c := rf s (Reg.SDP_STATUS k) 0 3
  if rb s (Reg.SDP_CTL k) 0 && 3 ≤ c then sdpSet (wr s (Reg.SDP_FREQ k) (BitVec.ofNat 64 (freq % 2 ^ 32))) k c true else s

/-- The half-cycle RMS has fallen below AC_LOSS (R68). -/
def sdpLossRun (s : State) (k rms : Nat) : State :=
  if rb s (Reg.SDP_STATUS k) 3 && rms * vscale s k < microV (rf s (Reg.SDP_THR2 k) 16 16) then
    sdpSet (wr s (Reg.SDP_VRMS k) (voltsOf s k rms)) k 0 false
  else s

/-- The primary and check channels have differed by more than CHKTHR for 1 ms (R66). -/
def sdpChkRun (s : State) (k diff : Nat) : State :=
  if rb s (Reg.SDP_CTL k) 0 && rb s (Reg.SDP_CTL k) 11 && microV (rf s (Reg.SDP_CHKTHR k) 0 16) < diff * vscale s k then
    raiseCond (wb s (Reg.SDP_STATUS k) 4 true) .sdm 0 (33 + k) 2
  else s

/-- A write of SDM_CH_CTL: ratios outside their ranges are refused (Table 3.19). -/
def sdmCtlWrite (s : State) (n : Nat) (v : Word) : Option State :=
  let r3 := fld v 8 9
  let r2 := fld v 17 6
  if r3 < 8 ∨ 256 < r3 ∨ r2 < 8 ∨ 32 < r2 then none
  else
    let old := rd s (Reg.SDMCH_CTL n)
    let s := wr s (Reg.SDMCH_CTL n) (BitVec.ofNat 64 (fld v 0 7 + 2 ^ 8 * fld v 8 19))
    if fld v 8 15 = fld old 8 15 ∧ bit v 0 = bit old 0 then some s
    else some (setSdm s n { SdmCh.reset with outs := (getSdm s n).outs })

/-- A write of SDM_CLK: a DIV outside 40 to 200 is refused (Table 3.17). -/
def sdmClkWrite (s : State) (c : Nat) (v : Word) : Option State :=
  if fld v 0 8 < 40 ∨ 200 < fld v 0 8 then none else some (wr s (Reg.SDM_CLK c) (BitVec.ofNat 64 (fld v 0 9)))

/-- A write of SDM_SNAP_MASK: more than 24 channels are refused (R91); the ring must be one the page's owner may bind. -/
def snapMaskWrite (s : State) (k : Nat) (v : Word) : Option State :=
  if 24 < popcount 32 v.toNat ∨ (fld v 0 32 ≠ 0 ∧
      !mayBind s (rf s (pageReg .sdm 0 (37 + k) 0x00C) 0 6) (rf s (Reg.SNAP_RING k) 0 13)) then none
  else some (wr s (Reg.SNAP_MASK k) (BitVec.ofNat 64 (fld v 0 32)))

end Sys2Proof.Machine
end

