-- ==== Sys2Proof/Machine/FieldIo.lean ====
section
/-! DEFINITION. Commands of the field I/O: encoders, time bases, compares, gate patterns, sigma-delta inputs (03). -/

namespace Sys2Proof.Machine

/-- A step of the field I/O happens only while HUB_FIO is ON. -/
def inFio (s : State) (f : State → State) : Out := ok (if domOn s 46 then f s else s)

/-- TB_NANOSECOND (R60). -/
def execTbNanosecond (s : State) : Out := ok (nanosecond s)

/-- ENC_EDGE (R58, R517). -/
def execEncEdge (e : Fin 8) (line : EncLine) (level : Bool) (s : State) : Out :=
  inFio s fun s =>
    let x := getEnc s e
    let f := encFilt s e
    setEnc s e (match line with
      | .a => { x with a := x.a.raw' level s.time f }
      | .b => { x with b := x.b.raw' level s.time f }
      | .z => { x with z := x.z.raw' level s.time f })

/-- ENC_FILTER_ACCEPT (R58). -/
def execEncFilterAccept (e : Fin 8) (line : EncLine) (s : State) : Out :=
  inFio s fun s => match line with
    | .a | .b => encAcceptAB s e
    | .z => encAcceptZ s e

/-- ENC_INDEX_EDGE (R59). -/
def execEncIndexEdge (e : Fin 8) (s : State) : Out :=
  inFio s fun s =>
    let x := getEnc s e
    if x.zRise then (tbsOf s 1 e).foldl indexAction (setEnc s e { x with zRise := false }) else s

/-- A write of ENC_CTL (R517, Table 3.9): the state decoded after it is the new reference, and nothing is counted. -/
def encCtlEffect (s : State) (i : Initiator) (e : Nat) (v : Word) : State :=
  let f := fld v 0 10
  let s := if 1000 < f then clampNote s i (Reg.ENC_CTL e) else s
  let v := setFld (BitVec.ofNat 64 (fld v 0 16)) 0 10 (min 1000 f)
  let s := wr s (Reg.ENC_CTL e) v
  wb s (Reg.ENC_STATUS e) 16 ((getEnc s e).z.acc != bit v 14)

/-- ENC_CTL_WRITE (R517). -/
def execEncCtlWrite (i : Initiator) (e : Fin 8) (v : W32) (s : State) : Out :=
  ok (regWrite s i (Reg.ENC_CTL e) true true fun t => encCtlEffect t i e (w32 v))

/-- SDP_TICK (R68): every time base that follows the locked PLL receives its phase. -/
def execSdpTick (k : Fin 4) (phase : Word) (s : State) : Out :=
  inFio s fun s =>
    if rb s (Reg.SDP_CTL k) 0 && rb s (Reg.SDP_STATUS k) 3 then
      (tbsOf s 2 k).foldl (fun t n =>
        giveTick t n { v := wrap80 (accOf phase + (getTb t n).offset), t := t.time, rev := false }) s
    else s

/-- (T − ORIGIN) × SCALE of sources 4 and 5 (Table 3.1). -/
def scaledTick (s : State) (n : Nat) (t : Int) : Tick :=
  { v := wrap80 ((t - (rd s (Reg.TB_ORIGIN n)).toNat) * (rd s (Reg.TB_SCALE n)).toInt), t := s.time, rev := false }

/-- TB_AS_TICK (R57, R409): once per microsecond of T while SYNC is 1. -/
def execTbAsTick (m : Fin 12) (s : State) : Out :=
  inFio s fun s =>
    let us := macT s m / 1000
    match s.ptp[m.val]? with
    | none => s
    | some c =>
      if rb s (Reg.ETH_PTP_CTL m) 0 && us != c.us then
        let s := { s with ptp := listSet s.ptp m { c with us := us } }
        (tbsOf s 4 m).foldl (fun t n => giveTick t n (scaledTick t n (macT t m))) s
      else s

/-- TB_REF_TICK (R57): at multiples of 1,000 ns of REFTIME (log entry 14). -/
def execTbRefTick (s : State) : Out :=
  inFio s fun s =>
    if s.time % 1000 = 0 then (tbsOf s 5 0).foldl (fun t n => giveTick t n (scaledTick t n t.time)) s else s

/-- TB_STANDSTILL (R62). -/
def execTbStandstill (n : Fin 16) (s : State) : Out := inFio s fun s => tbStandstillNow s n

/-- TB_TIMEOUT (R64). -/
def execTbTimeout (n : Fin 16) (s : State) : Out := inFio s fun s => tbTimeoutNow s n

/-- TB_HOLD_EXPIRY (R64). -/
def execTbHoldExpiry (n : Fin 16) (s : State) : Out := inFio s fun s => tbHoldNow s n

/-- TB_UNC_GROW (R65). -/
def execTbUncGrow (n : Fin 16) (s : State) : Out := inFio s fun s => tbGrowNow s n

/-- TB_ENABLE (R64): a write of TB_CTL that sets EN. -/
def execTbEnable (i : Initiator) (n : Fin 16) (v : W32) (s : State) : Out :=
  ok (regWriteOpt s i (Reg.TB_CTL n) true fun t => tbCtlWrite t n (w32 v))

/-- TB_DISABLE (R64): a write of TB_CTL that clears EN. -/
def execTbDisable (i : Initiator) (n : Fin 16) (v : W32) (s : State) : Out :=
  ok (regWriteOpt s i (Reg.TB_CTL n) true fun t => tbCtlWrite t n (w32 v))

/-- TB_RESTART (R64): a write of TB_CTL with RESTART. -/
def execTbRestart (i : Initiator) (n : Fin 16) (v : W32) (s : State) : Out :=
  ok (regWriteOpt s i (Reg.TB_CTL n) true fun t => tbCtlWrite t n (w32 v))

/-- A phase write reaches a time base. -/
def tbPhaseWrite (s : State) (n : Nat) (w : PhaseWrite) : State :=
  setTb s n { getTb s n with writes := (getTb s n).writes ++ [w] }

/-- TB_SET (R63). -/
def execTbSet (i : Initiator) (n : Fin 16) (v : Word) (s : State) : Out :=
  ok (regWrite s i (Reg.TB_SET n) true true fun t => tbPhaseWrite t n (.set v))

/-- TB_STEP (R63). -/
def execTbStep (i : Initiator) (n : Fin 16) (v : Word) (s : State) : Out :=
  ok (regWrite s i (Reg.TB_STEP n) true true fun t => tbPhaseWrite t n (.step v))

/-- CAPTURE latches phase and REFTIME (R81). -/
def captureEffect (s : State) (n : Nat) : State :=
  wr (wr s (Reg.TB_CAP_PHASE n) (getTb s n).phase) (Reg.TB_CAP_TIME n) (BitVec.ofNat 64 s.time)

/-- TB_CAPTURE (R81). -/
def execTbCapture (i : Initiator) (n : Fin 16) (s : State) : Out :=
  ok (regWrite s i (Reg.TB_CAPTURE n) true true fun t => captureEffect t n)

/-- SDP_ENABLE (R66). -/
def execSdpEnable (i : Initiator) (k : Fin 4) (v : W32) (s : State) : Out :=
  ok (regWriteOpt s i (Reg.SDP_CTL k) true fun t => sdpCtlWrite t k (w32 v))

/-- SDP_CHK_ERR (R66). -/
def execSdpChkErr (k : Fin 4) (diff : Nat) (s : State) : Out := inFio s fun s => sdpChkRun s k diff

/-- SDP_CLASSIFY (R67). -/
def execSdpClassify (k : Fin 4) (mean : Int) (rms freq : Nat) (s : State) : Out :=
  inFio s fun s => sdpClassifyRun s k mean rms freq

/-- SDP_LOCK (R68). -/
def execSdpLock (k : Fin 4) (freq : Nat) (s : State) : Out := inFio s fun s => sdpLockRun s k freq

/-- SDP_LOCK_LOSS (R68). -/
def execSdpLockLoss (k : Fin 4) (rms : Nat) (s : State) : Out := inFio s fun s => sdpLossRun s k rms

/-- AXLE_EVALUATE (R71). -/
def execAxleEvaluate (s : State) : Out := inFio s axleRun

/-- CMP_ARM (R75, R77, R78): a write of CMP_CTL that sets ARM. -/
def execCmpArm (i : Initiator) (m : Fin 256) (v : W32) (s : State) : Out := ok (cmpCtlAccess s i m (w32 v))

/-- CMP_ARM_EFFECT (R75). -/
def execCmpArmEffect (m : Fin 256) (s : State) : Out := inFio s fun s => cmpArmEffect s m

/-- CMP_DISARM (R75): a write of CMP_CTL that clears ARM. -/
def execCmpDisarm (i : Initiator) (m : Fin 256) (v : W32) (s : State) : Out := ok (cmpCtlAccess s i m (w32 v))

/-- CMP_ACTION_DELIVER (R74). -/
def execCmpActionDeliver (s : State) : Out := inFio s cmpDeliver

/-- GPE_SEGMENT_START (R84). -/
def execGpeSegmentStart (g : Fin 12) (s : State) : Out := inFio s fun s => segStart s g

/-- A write of GPE_START: with GO a segment starts from software (R84). -/
def gpeStartEffect (s : State) (g : Nat) (v : Word) : State :=
  if bit v 31 then gpeStartSeg s g (fld v 0 14) (phasesNow s) s.time else s

/-- GPE_START (R84). -/
def execGpeStart (i : Initiator) (g : Fin 12) (v : W32) (s : State) : Out :=
  ok (regWrite s i (Reg.GPE_START g) true true fun t => gpeStartEffect t g (w32 v))

/-- GPE_ENABLE (R83): a write of GPE_CTL. -/
def execGpeEnable (i : Initiator) (g : Fin 12) (v : W32) (s : State) : Out :=
  ok (regWriteOpt s i (Reg.GPE_CTL g) true fun t => gpeCtlWrite t g (w32 v))

/-- GPE_ENTRY_APPLY (R84). -/
def execGpeEntryApply (g : Fin 12) (s : State) : Out := inFio s fun s => gpeApply s g

/-- GPE_DEADTIME_EXPIRY (R86). -/
def execGpeDeadtimeExpiry (g : Fin 12) (out : Fin 4) (s : State) : Out :=
  inFio s fun s => setGpe s g { getGpe s g with outs := gpeSettleOut s g out (getGpe s g).outs }

/-- GPE_FORCE_CLEAR (R87): a write of GPE_FORCE. -/
def execGpeForceClear (i : Initiator) (g : Fin 12) (v : W32) (s : State) : Out :=
  ok (regWrite s i (Reg.GPE_FORCE g) true true fun t => gpeForceWrite t g (w32 v))

/-- GPE_REFILL (R92). -/
def execGpeRefill (g : Fin 12) (s : State) : Out := inFio s fun s => gpeRefillNow s g

/-- SDM_SINC3_OUTPUT (R90). -/
def execSdmSinc3Output (n : Fin 32) (bits : List Bool) (s : State) : Out := inFio s fun s => sinc3Run s n bits

/-- SDM_SINC2_OUTPUT (R90). -/
def execSdmSinc2Output (n : Fin 32) (bits : List Bool) (s : State) : Out := inFio s fun s => sinc2Run s n bits

/-- SDM_STUCK (R90). -/
def execSdmStuck (n : Fin 32) (s : State) : Out := inFio s fun s => sdmStuckRun s n

/-- SDM_SNAPSHOT (R91). -/
def execSdmSnapshot (set : Fin 16) (s : State) : Out := inFio s fun s => snapRun s set

/-- SDM_SNAP_RING_WRITE (R92). -/
def execSdmSnapRingWrite (s : State) : Out := inFio s snapWrite

end Sys2Proof.Machine
end

