-- ==== Sys2Proof/Machine/HostPort.lean ====
section
/-! DEFINITION. Host ports and their semaphores, storage root ports (R396 to R406). -/

namespace Sys2Proof.Machine

def getHp (s : State) (p : Port) : HostPort := nth s.hps HostPort.reset (match p with | .hpa => 0 | .hpb => 1)
def setHp (s : State) (p : Port) (x : HostPort) : State :=
  { s with hps := listSet s.hps (match p with | .hpa => 0 | .hpb => 1) x }

/-- What a host sees in place of data. MODEL's own codes beside the ERRC codes: configuration retry, Unsupported Request, Completer
Abort. -/
def hCRS : Nat := 0x100
def hUR : Nat := 0x101
def hCA : Nat := 0x102

/-! ## Outbound reads (R400) -/

/-- The smallest tag below 256 that is free. -/
def freeTag (x : HostPort) : Option Nat := (upto 256).find? fun t => !(x.outs.any fun o => o.tag == t)

/-- A read that a port shall send: with a free tag it goes out as a TLP, with every tag in use it waits for one (Table 16.1). -/
def hpSend (s : State) (p : Port) (o : HpOut) : State :=
  let x := getHp s p
  match freeTag x with
  | none => setHp s p { x with waits := x.waits ++ [o] }
  | some t =>
    { setHp s p { x with outs := x.outs ++ [{ o with tag := t, since := s.time }] } with sent := .tlp (portNum p) false t o.addr [] }

/-- A read of a host window is sent, and not answered yet; `load` is the physical address that a core's load reads. -/
def hostRead (s : State) (i : Initiator) (a n : Nat) (load : Option Nat) : State :=
  hpSend { s with resp := .none } (owinOf a).1 { tag := 0, addr := owinHost s a, len := n, ini := i, since := s.time, load := load }

/-- An access to a host window: checked, then sent as a TLP, or refused. -/
def hostAccess (s : State) (i : Initiator) (a n : Nat) (wr : Option Word) : State :=
  if areaOf a ≠ .host then s else
  match owinErr s i a with
  | some e => respErr (logErr s (accessAddrRec s i a e)) e
  | none =>
    if !regionOk s (initPart s i) a n (if wr.isSome then 2 else 1) then
      match i with
      | .core _ => respErr s eREGION
      | _ => respErr (logErr s (accessAddrRec s i a eREGION)) eREGION
    else match wr with
      | some v => hostWrite s a (leBytes n v.toNat)
      | none => hostRead s i a n none

/-- HP_OUTBOUND_ACCESS (R400). -/
def execHpOutboundAccess (i : Initiator) (addr : BitVec 48) (width : Nat) (wr : Option Word) (s : State) : Out :=
  ok (hostAccess s i addr.toNat width wr)

/-- An outstanding read is answered, with data or with an error: the answer of a core's load waits for that load. -/
def hpAnswer (s : State) (o : HpOut) (err : Nat) (v : Word) : State :=
  match o.ini, o.load with
  | .core c, some a =>
    setCore s c { getCore s c with hostAns := (getCore s c).hostAns ++ [{ addr := a, len := o.len, err := err, data := v }] }
  | _, _ => if err = 0 then respOk s v else respErr s err

/-- A tag is free again: the oldest read that waits for one is sent. -/
def hpEnd (s : State) (p : Port) (tag : Nat) : State :=
  let x := getHp s p
  let outs := x.outs.filter fun o => o.tag != tag
  match x.waits with
  | [] => setHp s p { x with outs := outs }
  | o :: rest => hpSend (setHp s p { x with outs := outs, waits := rest }) p o

/-- HP_READ_COMPLETION (R400). -/
def execHpReadCompletion (port : Port) (tag : BitVec 10) (v : Word) (s : State) : Out :=
  ok (match (getHp s port).outs.find? fun o => o.tag == tag.toNat with
    | some o => hpAnswer (hpEnd s port tag.toNat) o 0 (BitVec.ofNat 64 (v.toNat % 2 ^ (8 * min 8 o.len)))
    | none => s)

/-- HP_COMPLETION_TIMEOUT (R400): after CTO µs; the error is neither poison nor absence. -/
def execHpCompletionTimeout (port : Port) (tag : BitVec 10) (s : State) : Out :=
  ok (match (getHp s port).outs.find? fun o => o.tag == tag.toNat with
    | some o =>
      if o.since + 1000 * max 1 (rf s (hpCtl port) 16 16) ≤ s.time then hpAnswer (hpEnd s port tag.toNat) o eRANGE 0 else s
    | none => s)

/-! ## Links and functions (R399, R401) -/

/-- Every semaphore that a port holds becomes FREE, and SEM_LOST is raised (R401; Table 16.3, step 4: not where it holds none). -/
def semRelease (s : State) (p : Port) : State :=
  let code := portNum p + 1
  let held := (upto 256).filter fun k => rf s (Reg.HPAS_HSEM k) 0 2 == code
  if held.isEmpty then s
  else raiseCond (held.foldl (fun t k => wr t (Reg.HPAS_HSEM k) 0) s) (portBlock p) 0 0 2

/-- DL_Down, hot reset or switching off (R401): every outstanding read receives ABSENT, semaphores are freed, the host's setting of the functions
is lost with the link (log entry 27), LINK is raised. -/
def hpDown (s : State) (p : Port) : State :=
  let s := ((getHp s p).outs ++ (getHp s p).waits).foldl (fun t o => hpAnswer t o eABSENT 0) s
  let s := semRelease (setHp s p HostPort.reset) p
  raiseCond (wr s (hpStatus p) 0) (portBlock p) 0 0 0

/-- HP_LINK_DOWN (R401). -/
def execHpLinkDown (port : Port) (s : State) : Out := ok (if hpUp s port then hpDown s port else s)

/-- Whether a port's link comes up so: 2.5 to 32 GT/s, x1, x2, x4 or x8, at most 32 VFs (Table 16.1, Table 16.6). -/
def hpLinkOk (rate width numvf : Nat) : Bool := 1 ≤ rate && rate ≤ 5 && [1, 2, 4, 8].contains width && numvf ≤ 32

/-- HP_LINK_UP (R396, R417): a link that Table 16.1 does not name does not come up. -/
def execHpLinkUp (port : Port) (rate : BitVec 3) (width : BitVec 4) (numvf : BitVec 6) (s : State) : Out :=
  ok (if !hpOn s port || !hpLinkOk rate.toNat width.toNat numvf.toNat then s else
    let v := 1 + 2 * rate.toNat + 2 ^ 4 * width.toNat + 2 ^ 8 * numvf.toNat
    raiseCond (wr s (hpStatus port) (BitVec.ofNat 64 v)) (portBlock port) 0 0 0)

/-- A function-level reset (R401): the function's pending bits clear, Memory Space Enable with them (log entry 27); FLR is raised. -/
def flr (s : State) (p : Port) (f : Nat) : State :=
  let x := getHp s p
  raiseCond (setHp s p { x with
    pba := x.pba.filter fun b => b / 64 != f
    mse := x.mse.filter (· != f)
    msix := x.msix.drop fun k => k / 1024 == f }) (portBlock p) 0 0 1

/-- HP_FLR (R401). -/
def execHpFlr (port : Port) (fn : Fin 33) (s : State) : Out := ok (if hpUp s port then flr s port fn else s)

/-- A configuration request (R399): Configuration Request Retry Status until READY. The contents of configuration space are not in the
spec: a read gives a free value. -/
def execHpConfigRequest (port : Port) (fn : Fin 33) (req : CfgReq) (s : State) : Out :=
  ok (if !hpUp s port then s
    else if !rb s (hpCtl port) 0 then respErr s hCRS
    else match req with
      | .read =>
        let (v, s) := takeFree s
        respOk s (BitVec.ofNat 64 (v % 2 ^ 32))
      | .setMse on =>
        let x := getHp s port
        let rest := x.mse.filter (· != fn.val)
        respOk (setHp s port { x with mse := if on then fn.val :: rest else rest }) 0
      | .other => respOk s 0)

/-- A write of FMAP or IWIN (R399): refused while the function has Memory Space Enable; LOG2SIZE outside 30 to 41 and a BASE that is not
aligned to it are refused. -/
def hpMapEffect (s : State) (p : Port) (r : RegAddr) (v : Word) : Option State :=
  if 0x200 ≤ r.off then
    let f := (r.off - 0x200) / 8
    let n := fld v 0 6
    if (getHp s p).mse.contains f ∨ n < 30 ∨ 41 < n ∨ fld v 30 18 % 2 ^ (n - 30) ≠ 0 then none
    else some (wr s r (BitVec.ofNat 64 (n + 2 ^ 30 * fld v 30 18)))
  else
    let f := (r.off - 0x140) / 4
    if (getHp s p).mse.contains f then none else some (wr s r (BitVec.ofNat 64 (fld v 0 6 + 2 ^ 31 * fld v 31 1)))

/-- A write of VMAP (R402): EN is refused unless the source belongs to the function's partition or that partition is 0; there are 33
functions. -/
def vmapEffect (s : State) (p : Port) (k : Nat) (v : Word) : Option State :=
  let f := fld v 10 6
  let part := rf s (hpFmap p f) 0 6
  if bit v 31 && (32 < f || (part != 0 && srcOwner s (fld v 0 10) != part)) then none
  else some (wr s (hpVmap p k) (BitVec.ofNat 64 (fld v 0 22 + 2 ^ 31 * fld v 31 1)))

/-- HP_VMAP_ENABLE (R402). -/
def execHpVmapEnable (i : Initiator) (port : Port) (k : Fin 256) (v : W32) (s : State) : Out :=
  ok (regWriteOpt s i (hpVmap port k) (isM0 s i) fun t => vmapEffect t port k (w32 v))

/-! ## MSI-X (R396, R402) -/

/-- Vector Control bit 0 of a vector: masked, as PCI Express has it after reset, until the host clears it (log entry 27). -/
def msixMasked (x : HostPort) (f v : Nat) : Bool := (x.msix.get 1 (1024 * f + 16 * v + 12)).toNat % 2 == 1

/-- A vector's message is sent, or becomes pending where the vector is masked (R402). -/
def msixGo (s : State) (p : Port) (f v : Nat) : State :=
  let x := getHp s p
  if msixMasked x f v then
    if x.pba.contains (64 * f + v) then s else setHp s p { x with pba := (64 * f + v) :: x.pba }
  else { s with sent := .msix (portNum p) f v }

/-- HP_MSIX_SEND (R402): the oldest message owed. -/
def execHpMsixSend (port : Port) (s : State) : Out :=
  let x := getHp s port
  ok (match x.msgs with
    | [] => s
    | (f, v) :: rest =>
      let s := setHp s port { x with msgs := rest }
      if hpUp s port then msixGo s port f v else s)

/-- A host's write of its MSI-X table; a vector unmasked while pending sends its message. -/
def msixWrite (s : State) (p : Port) (f off : Nat) (l : List Byte) : State :=
  let x := getHp s p
  let t := (l.zipIdx).foldl (fun (t : Tbl Byte) (b, k) => t.set (1024 * f + off + k) b) x.msix
  let x := { x with msix := t }
  let due := (upto 64).filter fun v => x.pba.contains (64 * f + v) && !msixMasked x f v
  let s := setHp s p { x with pba := x.pba.filter fun b => !(b / 64 == f && due.contains (b % 64)) }
  due.foldl (fun u v => msixGo u p f v) s

/-- A host's read of its MSI-X table or pending-bit array. -/
def msixRead (s : State) (p : Port) (f off n : Nat) (pba : Bool) : List Byte :=
  let x := getHp s p
  if pba then
    ((leBytes 8 (sumNat ((upto 64).map fun v => if x.pba.contains (64 * f + v) then 2 ^ v else 0))).drop off).take n
  else (upto n).map fun k => x.msix.get (if (off + k) % 16 = 12 then 1 else 0) (1024 * f + off + k)

/-! ## Semaphores (R403, R404) -/

/-- The code of the port through which an access arrives. -/
def semCode : Initiator → Option Nat
  | .host p _ => some (portNum p + 1)
  | _ => none

/-- HSEM_OWN of a semaphore. -/
def semOwner (s : State) (k : Nat) : Nat := rf s (Reg.HPAS_OWN (k / 4)) (8 * (k % 4)) 6

/-- A read of HSEM[k] (R403, R404); `both` says that the other port reads the same FREE semaphore in the same cycle. -/
def semRead (s : State) (i : Initiator) (r : RegAddr) (k : Nat) (both : Bool) : State :=
  let h := rf s (Reg.HPAS_HSEM k) 0 2
  match semCode i with
  | none => respOk s (BitVec.ofNat 64 h)
  | some c =>
    let p := initPart s i
    if p ≠ 0 ∧ p ≠ semOwner s k then respOk (recordPageErr s i r cNOT_OWNER) 0
    else if h = 0 then
      if both then
        let win := rf s Reg.HPAS_TIE 0 1 + 1
        let s := wr (wr s (Reg.HPAS_HSEM k) (BitVec.ofNat 64 win)) Reg.HPAS_TIE (BitVec.ofNat 64 (2 - win))
        respOk s (if win = c then 1 else 0)
      else respOk (wr s (Reg.HPAS_HSEM k) (BitVec.ofNat 64 c)) 1
    else respOk s (if h = c then 1 else 0)

/-- A write of HSEM[k] (R403), refused while the page is not READY (R39). -/
def semWrite (s : State) (i : Initiator) (r : RegAddr) (k : Nat) (v : Word) : State :=
  let h := rf s (Reg.HPAS_HSEM k) 0 2
  if !ready s r.ty r.inst then failAccess s i r cREFUSED else
  match semCode i with
  | none => if isM0 s i && v == 0 then respOk (wr s (Reg.HPAS_HSEM k) 0) 0 else failAccess s i r cPRIVILEGE
  | some c =>
    if v ≠ 0 then respOk s 0
    else if h = c then respOk (wr s (Reg.HPAS_HSEM k) 0) 0
    else respOk (recordPageErr s i r cSEM_NOT_HELD) 0

/-- HSEM[k] as it is addressed through a port's page. -/
def hsemReg (p : Port) (k : Nat) : RegAddr := ⟨portBlock p, 0, 1, 0x100 + 4 * k⟩

/-- HSEM_READ (R403): R403 says what every access does, so ownership of the page is not asked. -/
def execHsemRead (i : Initiator) (port : Port) (k : Fin 256) (both : Bool) (s : State) : Out :=
  ok (if cutOff s i (portBlock port) 0 then absentAccess s i (hsemReg port k) else semRead s i (hsemReg port k) k both)

/-- HSEM_WRITE (R403). -/
def execHsemWrite (i : Initiator) (port : Port) (k : Fin 256) (v : W32) (s : State) : Out :=
  ok (if cutOff s i (portBlock port) 0 then absentAccess s i (hsemReg port k) else semWrite s i (hsemReg port k) k (w32 v))

/-! ## Storage root ports (R406) -/

def getSpa (s : State) (n : Nat) : Spa := nth s.spas Spa.reset n
def setSpa (s : State) (n : Nat) (x : Spa) : State := { s with spas := listSet s.spas n x }

/-- SPA_CFGDATA. -/
def spaCfgdata (n : Nat) : RegAddr := ⟨.spa, n, 0, Config.spaCfgdata % 4096⟩

/-- SPA_CONFIG_ACCESS (R406): a write is sent to the device, a read answers what the device returns (`dev`), or stays outstanding where it
has returned nothing yet; with the link down, ABSENT. -/
def execSpaConfigAccess (i : Initiator) (port : Fin 2) (wr : Option W32) (dev : Option W32) (s : State) : Out :=
  let act := fun (t : State) =>
    let x := getSpa t port
    if !x.up then failAccess t i (spaCfgdata port) eABSENT
    else match wr with
      | some v => { t with sent := .cfg port true x.cfgAddr v }
      | none => match dev with
        | some v => respOk { setSpa t port { x with outs := x.outs.erase i } with sent := .cfg port false x.cfgAddr 0 } (w32 v)
        | none => { setSpa t port { x with outs := x.outs ++ [i] } with sent := .cfg port false x.cfgAddr 0, resp := .none }
  ok (if wr.isSome then regWrite s i (spaCfgdata port) true true act else regRead s i (spaCfgdata port) true act)

/-- Whether HUB_NET is ON. -/
def netOn (s : State) : Bool := domOn s 45

/-- A device's write to interrupt address `v` raises source EVT_BASE + v of its port (R406). -/
def spaVector (s : State) (n v : Nat) : State := assertSrc s (514 + 33 * n + v) false

/-- SPA_DEVICE_VECTOR (R406): a device write to an interrupt address raises the port's source. -/
def execSpaDeviceVector (port : Fin 2) (v : Fin 32) (s : State) : Out :=
  ok (if netOn s && (getSpa s port).up then spaVector s port v else s)

/-- The storage device's bus-master access, for the partition that owns the port's page 0 (R406). -/
def spaIni (s : State) (n : Nat) : Initiator :=
  .agent (BitVec.ofNat 9 (endpointOf .spa n)) (Fin.ofNat 64 (rf s (pageReg .spa n 0 0x00C) 0 6))

/-- An access that R406 answers with Completer Abort, with its entry. -/
def deviceAbort (s : State) (i : Initiator) (a code : Nat) : State := respErr (logBusErr s i a code) hCA

/-- A device's read or write of DRAM, region-checked for the port's owner; a write to an interrupt address is no write of memory (R406). -/
def spaDma (s : State) (n a : Nat) : DmaReq → State
  | .rd len =>
    let i := spaIni s n
    if areaOf a ≠ .dram then deviceAbort s i a eRANGE
    else if !regionOk s (initPart s i) a len 1 then deviceAbort s i a eREGION
    else match agRead s (initEp i) a len with
      | .err e => deviceAbort s i a e
      | .data l p => if p then respErr s ePOISON else { s with resp := .bytes l }
  | .wr l =>
    let i := spaIni s n
    if 0xFEE00000 ≤ a ∧ a < 0xFEE00080 ∧ a % 4 = 0 then respOk (spaVector s n ((a - 0xFEE00000) / 4)) 0
    else if areaOf a ≠ .dram then deviceAbort s i a eRANGE
    else if !regionOk s (initPart s i) a l.length 2 then deviceAbort s i a eREGION
    else match agWrite s (initEp i) a l false with
      | .error e => deviceAbort s i a e
      | .ok t => respOk t 0

/-- SPA_DEVICE_DMA (R406). -/
def execSpaDeviceDma (port : Fin 2) (addr : BitVec 48) (req : DmaReq) (s : State) : Out :=
  ok (if netOn s && (getSpa s port).up then spaDma s port addr.toNat req else s)

/-- A storage link goes up or down; LINK is raised, and requests outstanding when it goes down receive ABSENT (R406). -/
def spaLink (s : State) (n : Nat) (up : Bool) : State :=
  let x := getSpa s n
  let s := if up || x.outs.isEmpty then s else respErr s eABSENT
  raiseCond (setSpa s n { x with up := up, outs := [] }) .spa n 0 0

/-- SPA_LINK_DOWN (R406). -/
def execSpaLinkDown (port : Fin 2) (s : State) : Out := ok (if netOn s && (getSpa s port).up then spaLink s port false else s)

/-- SPA_LINK_UP (R406). -/
def execSpaLinkUp (port : Fin 2) (s : State) : Out := ok (if netOn s && !(getSpa s port).up then spaLink s port true else s)

end Sys2Proof.Machine
end

