-- ==== Sys2Proof/Machine/Events.lean ====
section
/-! DEFINITION. Commands of the event router and of a core's scheduler registers (04). -/

namespace Sys2Proof.Machine

/-- EVR_SOURCE_ARRIVAL (R96): the oldest assertion on its way reaches the EVR input. -/
def execEvrSourceArrival (s : State) : Out :=
  ok (match s.evr.arrivals with
    | [] => s
    | a :: rest => evrArrive { s with evr := { s.evr with arrivals := rest } } a)

/-- EVR_DISPATCH (R105 to R110, R118). -/
def execEvrDispatch (src : Fin 1024) (s : State) : Out := ok (dispatchSrc s src)

/-- POOL_FIFO_DELIVER (R108). -/
def execPoolFifoDeliver (q : Fin 64) (s : State) : Out := ok (poolDeliver s q)

/-- INBOX_OFFER (R110). -/
def execInboxOffer (c : CoreId) (l : Level) (s : State) : Out := ok (offerInbox s c l)

/-- EVENT_PACKET (R118, R119, R123). -/
def execEventPacket (c : CoreId) (s : State) : Out := ok (packetArrive s c)

/-- A write of EVR_OWN (R98): each byte is judged on its own; a byte that would change the owner of an enabled source is refused. -/
def evrOwnEffect (s : State) (i : Initiator) (w : Nat) (v : Word) : State :=
  let bad := fun (k : Nat) => cfgEn (getSrc s (4 * w + k)).cfg && fld v (8 * k) 6 != srcOwner s (4 * w + k)
  let new := (upto 4).foldl (fun (a : Word) k => if bad k then a else setFld a (8 * k) 6 (fld v (8 * k) 6)) (rd s (Reg.EVR_OWN w))
  let s := wr s (Reg.EVR_OWN w) new
  if (upto 4).any bad then recordPageErr s i (Reg.EVR_OWN w) cREFUSED else s

/-- EVR_OWN_WRITE (R98). -/
def execEvrOwnWrite (i : Initiator) (w : Fin 256) (v : W32) (s : State) : Out :=
  ok (regWrite s i (Reg.EVR_OWN w) true (isM0 s i) fun t => evrOwnEffect t i w (w32 v))

/-- Whether a partition page reaches a source (R99). -/
def pageReachesSrc (s : State) (p n : Nat) : Bool := p == 0 || srcOwner s n == p

/-- A configuration of source `n` through a partition page (R99, R100). -/
def evrCfgEffect (s : State) (i : Initiator) (r : RegAddr) (p n : Nat) (v : Word) : State :=
  if !pageReachesSrc s p n then failAccess s i r cNOT_OWNER
  else match cfgWrite s n v with
    | some t => t
    | none => refuse s i r

/-- A write of EVR_P_CFG for the source in SEL. -/
def evrCfgAccess (s : State) (i : Initiator) (p : Nat) (v : Word) : State :=
  regWrite s i (Reg.EVRP_CFG p) true true fun t => evrCfgEffect t i (Reg.EVRP_CFG p) p (rf t (Reg.EVRP_SEL p) 0 10) v

/-- EVR_SOURCE_ENABLE (R100). -/
def execEvrSourceEnable (i : Initiator) (p : Part) (v : W32) (s : State) : Out := ok (evrCfgAccess s i p (w32 v))

/-- EVR_SOURCE_DISABLE (R101). -/
def execEvrSourceDisable (i : Initiator) (p : Part) (v : W32) (s : State) : Out := ok (evrCfgAccess s i p (w32 v))

/-- EVR_CFG_WRITE (R100). -/
def execEvrCfgWrite (i : Initiator) (p : Part) (v : W32) (s : State) : Out := ok (evrCfgAccess s i p (w32 v))

/-- A write of EVR_P_SETCFG (R99): source in [41:32], configuration in [31:0]. It selects a source that the page reaches, and configures
it. -/
def setcfgEffect (s : State) (i : Initiator) (p : Nat) (v : Word) : State :=
  let n := fld v 32 10
  let s := if pageReachesSrc s p n then wr s (Reg.EVRP_SEL p) (BitVec.ofNat 64 n) else s
  evrCfgEffect s i (Reg.EVRP_SETCFG p) p n (BitVec.ofNat 64 (fld v 0 32))

/-- EVR_SETCFG (R99). -/
def execEvrSetcfg (i : Initiator) (p : Part) (v : Word) (s : State) : Out :=
  ok (regWrite s i (Reg.EVRP_SETCFG p) true true fun t => setcfgEffect t i p v)

/-- A write of EVR_P_RAISE (Table 4.9). -/
def evrRaiseEffect (s : State) (i : Initiator) (p : Nat) (v : Word) : State :=
  let n := fld v 0 10
  if n < 768 then refuse s i (Reg.EVRP_RAISE p)
  else if !pageReachesSrc s p n then failAccess s i (Reg.EVRP_RAISE p) cNOT_OWNER
  else raiseSw s n (bit v 31) (bit v 30)

/-- EVR_RAISE (R99). -/
def execEvrRaise (i : Initiator) (p : Part) (v : W32) (s : State) : Out :=
  ok (regWrite s i (Reg.EVRP_RAISE p) true true fun t => evrRaiseEffect t i p (w32 v))

/-- A write of EVR_P_POOLMASK (R106): bits of cores not assigned to the pool's owner stay 0, with cause REFUSED. -/
def poolMaskEffect (s : State) (i : Initiator) (p k : Nat) (v : Word) : State :=
  let q := rf s (Reg.EVRP_POOLSEL p) 0 6
  let r := Reg.EVRP_POOLMASK p k
  if p ≠ 0 ∧ poolOwner s q ≠ p then failAccess s i r cNOT_OWNER
  else
    let o := poolOwner s q
    let want := if k = 12 then fld v 0 4 else fld v 0 32
    let good := (upto 32).filter fun b => want.testBit b && inPart s o (32 * k + b)
    let bits := sumNat (good.map fun b => 2 ^ b)
    let x := getPool s q
    let rest := x.mask - ((x.mask >>> (32 * k)) % 2 ^ 32) <<< (32 * k)
    let s := setPool s q { x with mask := rest + bits <<< (32 * k) }
    if bits = want then s else recordPageErr s i r cREFUSED

/-- POOL_MASK_WRITE (R106). -/
def execPoolMaskWrite (i : Initiator) (p : Part) (k : Fin 13) (v : W32) (s : State) : Out :=
  ok (regWrite s i (Reg.EVRP_POOLMASK p k) true true fun t => poolMaskEffect t i p k (w32 v))

/-! ## Scheduler registers (R111, R120, R121, R126) -/

/-- Whether a level of a core accepts a change: its bank is PARKED with an empty inbox, or disabled (R126). -/
def levelIdle (s : State) (c l : Nat) : Bool :=
  let b := (getCore s c).bank l
  b.st == .disabled || (b.st == .parked && !inboxFull s c l)

/-- A bank as enabling its level leaves it (R111, R177). -/
def parkedBank (s : State) (c l : Nat) : Bank :=
  let e := rd s (Reg.SCHED_ENTRY c l)
  { Bank.reset l 0 with st := .parked, pc := BitVec.ofNat 64 (e.toNat / 4 * 4), status := BitVec.ofNat 64 (fld e 0 2) }

/-- A latched local event whose level is disabled is discarded (R121). -/
def dropLatches (s : State) (c : Nat) : State :=
  let k := getCore s c
  let keep := fun (x : Option Latch) => x.filter fun y => levelOn s c y.level
  setCore s c { k with latchBudget := keep k.latchBudget, latchCnt := keep k.latchCnt }

/-- A write of LVLEN (R111, R126); `none` is a refusal. -/
def lvlenWrite (s : State) (c : Nat) (v : Word) : Option State :=
  let old := rd s (Reg.SCHED_LVLEN c)
  let new := BitVec.ofNat 64 (1 + 2 * fld v 1 7)
  let changed := (upto 8).filter fun l => bit old l != bit new l
  if changed.any fun l => !levelIdle s c l then none
  else
    let s := wr s (Reg.SCHED_LVLEN c) new
    let s := changed.foldl (fun t l =>
      let k := getCore t c
      setCore t c (k.setBank l (if bit new l then parkedBank t c l else { k.bank l with st := .disabled }))) s
    some (dropLatches s c)

/-- A level of privilege that may write the scheduler page: H or M (R126). -/
def isHM (s : State) (i : Initiator) : Bool := 2 ≤ initPriv s i

/-- LEVEL_ENABLE (R111). -/
def execLevelEnable (i : Initiator) (c : CoreId) (v : W32) (s : State) : Out :=
  ok (regWriteOpt s i (Reg.SCHED_LVLEN c) (isHM s i) fun t => lvlenWrite t c (w32 v))

/-- A write of ENTRY[L] (R126): accepted while the level is idle; PRIV is held at the writer's privilege. -/
def entryWrite (s : State) (i : Initiator) (c l : Nat) (v : Word) : Option State :=
  if l = 0 then some s
  else if !levelIdle s c l then none
  else some (wr s (Reg.SCHED_ENTRY c l) (setFld v 0 2 (min (fld v 0 2) (initPriv s i))))

/-- SCHED_ENTRY_WRITE (R126). -/
def execSchedEntryWrite (i : Initiator) (c : CoreId) (l : Level) (v : Word) (s : State) : Out :=
  ok (regWriteOpt s i (Reg.SCHED_ENTRY c l) (isHM s i) fun t => entryWrite t i c l v)

/-- A budget timer at 0 (R121): it stops, its OVR bit is set, and a local BUDGET event is latched where none is and a level is named
and enabled. -/
def budgetExpired (s : State) (c l : Nat) : State :=
  let k := getCore s c
  let b := k.bank l
  if !b.budgetOn || b.budget != 0 then s else
  let k := k.setBank l { b with budgetOn := false }
  let s := wb (setCore s c k) (Reg.SCHED_OVR c) l true
  let lv := rf s (Reg.SCHED_BCTL c) 0 3
  if lv = 0 || !levelOn s c lv || k.latchBudget.isSome then s
  else setCore s c { k with latchBudget := some { level := lv, arg := l, time := s.time } }

/-- BUDGET_EXPIRY (R121). -/
def execBudgetExpiry (c : CoreId) (l : Level) (s : State) : Out := ok (budgetExpired s c l)

/-- A local event (Tables 4.4, 4.6). -/
def localEvent (cause arg level time : Nat) : EvRec :=
  { src := 8 * cause + arg, level := level, mode := 0, late := false, stamped := false, ovr := false, half := false, loc := true,
    count := 1, phase := 0, time := time }

/-- A latch whose inbox is empty: the event enters it. -/
def Latch.enter (x : Latch) (cause : Nat) (inbox : List (Option EvRec)) : List (Option EvRec) :=
  listSet inbox x.level (some (localEvent cause x.arg x.level x.time))

/-- A latched local event enters its level's inbox when that is empty (R121): BUDGET first, then CNT_OVF. -/
def localEnter (s : State) (c : Nat) : State :=
  let s := dropLatches s c
  let k := getCore s c
  let ready := fun (x : Option Latch) => x.filter fun y => !inboxFull s c y.level
  match ready k.latchBudget, ready k.latchCnt with
  | some x, _ => setCore s c { k with latchBudget := none, inbox := x.enter 0 k.inbox }
  | none, some x => setCore s c { k with latchCnt := none, inbox := x.enter 1 k.inbox }
  | none, none => s

/-- LOCAL_EVENT_ENTER (R121). -/
def execLocalEventEnter (c : CoreId) (s : State) : Out := ok (localEnter s c)

end Sys2Proof.Machine
end

