-- ==== Sys2Proof/Machine/Counter.lean ====
section
/-! DEFINITION. Performance counters: what counts, wraps, the CNT_OVF latch (R492 to R494). -/

namespace Sys2Proof.Machine

/-- What an event carries for the filters of R492: privilege and level of the executing bank, an address, an attribute. -/
structure CntCtx where
  priv : Nat
  level : Nat
  addr : Option Nat
  attr : Option Nat
  deriving DecidableEq, Repr

/-- Position of an attribute code in CFG.ATTR (normal, real-time, device, mirrored, XIP). -/
def attrBit : Nat → Nat
  | 0 => 0
  | 4 => 1
  | 1 => 2
  | 2 => 3
  | _ => 4

/-- Whether the counters of a core count at all now (R493). -/
def cntLive (s : State) (c : Nat) : Bool :=
  !rb s (Reg.CNT_CTL c) 0 && !rb s Reg.DBG_GFREEZE 0 && !(getCore s c).stopped &&
    !frozen s .cnt c 0

/-- Whether a counter's filters pass an event (R492). -/
def cntPasses (s : State) (c : Nat) (cfg : Word) (x : CntCtx) : Bool :=
  bit cfg (8 + x.priv) && bit cfg (12 + x.level) &&
    (match x.addr with
     | none => true
     | some a => !bit cfg 20 ||
         (let r := fld cfg 21 1
          (rd s (Reg.CNT_ALO c r)).toNat ≤ a && a ≤ (rd s (Reg.CNT_AHI c r)).toNat)) &&
    (match x.attr with
     | none => true
     | some t => bit cfg (22 + attrBit t))

/-- A counter advanced by `n`; the flag says whether it wrapped (R494). -/
def cntBump (s : State) (c k n : Nat) : State × Bool :=
  let v := (rd s (Reg.CNT_CNT c k)).toNat + n
  let s := wr s (Reg.CNT_CNT c k) (BitVec.ofNat 64 (v % 2 ^ 48))
  if 2 ^ 48 ≤ v then (wb s (Reg.CNT_STATUS c) k true, true) else (s, false)

/-- An odd counter's wrap latches the local CNT_OVF event of its pair (R494). -/
def cntOvf (s : State) (c k : Nat) : State :=
  let l := rf s (Reg.SCHED_BCTL c) 16 3
  let x := getCore s c
  if rb s (Reg.CNT_CFG c k) 28 && l != 0 && levelOn s c l && x.latchCnt.isNone then
    setCore s c { x with latchCnt := some { level := l, arg := k / 2, time := s.time } }
  else s

/-- A counter adds `n` events: wraps set OVF, carry into a chained odd counter, and latch CNT_OVF (R494). -/
def cntAdd (s : State) (c k n : Nat) : State :=
  let (s, w) := cntBump s c k n
  if !w then s
  else if k % 2 = 1 then cntOvf s c k
  else if rb s (Reg.CNT_CFG c (k + 1)) 27 && rb s (Reg.CNT_CFG c (k + 1)) 31 then
    let (s, w) := cntBump s c (k + 1) 1
    if w then cntOvf s c (k + 1) else s
  else s

/-- `n` events of a code occur on a core (R492). -/
def countEvt (s : State) (c code n : Nat) (x : CntCtx) : State :=
  if !cntLive s c then s else
  (upto 8).foldl (fun t k =>
    let cfg := rd t (Reg.CNT_CFG c k)
    let chained := k % 2 == 1 && bit cfg 27
    if bit cfg 31 && fld cfg 0 8 == code && !chained && cntPasses t c cfg x then cntAdd t c k n else t) s

/-- The context of a core's current bank. -/
def curCtx (s : State) (c : Nat) : CntCtx :=
  { priv := corePriv s c, level := (getCore s c).cur, addr := none, attr := none }

/-- An event without address or attribute. -/
def countCur (s : State) (c code : Nat) : State := countEvt s c code 1 (curCtx s c)

/-- COUNTER_WRAP (R494): an enabled counter at its largest value takes one more event. -/
def execCounterWrap (c : CoreId) (k : Level) (s : State) : Out :=
  let cfg := rd s (Reg.CNT_CFG c k)
  ok (if cntLive s c && bit cfg 31 && (rd s (Reg.CNT_CNT c k)).toNat == 2 ^ 48 - 1 && !(k.val % 2 == 1 && bit cfg 27) then
    cntAdd s c k 1 else s)

end Sys2Proof.Machine
end

