-- ==== Sys2Proof/Machine/CoreCache.lean ====
section
/-! DEFINITION. A core's accesses through L1D, L2, L3 and the home; evictions (R267, R268, R271 to R273, R278 to R281). -/

namespace Sys2Proof.Machine

/-! ## Evictions (R272, R273) -/

/-- Lines that the L1Is of a core's cluster hold locked in one L2 set, XIP lines apart (R271, R273). -/
def lockedInSet (s : State) (c set : Nat) : List Nat :=
  ((s.cores.filter fun e => e.1 / 8 == c / 8).map fun e =>
    (e.2.l1i.filter fun x => x.2.locked && x.2.line % 2048 == set && isDram (x.2.line * 64)).map fun x => x.2.line).flatten.eraseDups

/-- Whether any cache of a die still holds a line. -/
def dieHolds (s : State) (a line : Nat) : Bool := !(clusterFilter s a line).isEmpty || l3Has s a line

/-- A line that left one of a die's caches: with no other copy the die gives it up (R290). -/
def lastCopy (s : State) (a line : Nat) : State := if dieHolds s a line then s else giveUp s a line

/-- The line at a place of an L3 is replaced. -/
def evictL3 (s : State) (a key : Nat) : State :=
  match s.coh.l3.get? key with
  | none => s
  | some line => lastCopy { s with coh := { s.coh with l3 := s.coh.l3.drop (· == key) } } a line

/-- A line put into an L3: in a free way of those given, else in one of them that a free value names (log entry 16). -/
def fillL3 (s : State) (a line : Nat) (ways : List Nat) : State :=
  let put := fun (t : State) (key : Nat) => { t with coh := { t.coh with l3 := t.coh.l3.set key line } }
  if l3Has s a line then s
  else match ways.find? fun w => (s.coh.l3.get? (l3Key a line w)).isNone with
    | some w => put s (l3Key a line w)
    | none =>
      let (v, s) := takeFree s
      let key := l3Key a line (nth ways 0 (v % max 1 ways.length))
      put (evictL3 s a key) key

/-- The L3 ways in which a core's evictions allocate (R272): those of its partition. -/
def l3Ways (s : State) (c : Nat) : List Nat :=
  match coreOwner s c with
  | none => []
  | some p => (upto 16).filter fun w => rb s (Reg.PART_L3WAYS p) w

/-- The line at a place of a core's L2 is evicted: it leaves the cluster's L1s (R271); a normal line goes to the die's L3 in the ways of the
core's partition, and with no way nothing is allocated (R272). A real-time line goes to no L3 (R267), nor does a hub core's (R258). -/
def evictL2 (s : State) (c key : Nat) : State :=
  match s.coh.l2.get? key with
  | none => s
  | some (line, rt) =>
    let a := agentOfCore c
    let s := dropShared (invCores s (fun d => d / 8 == c / 8) line) (· == c / 8) (fun _ => false) line
    let ways := if rt || a == 12 then [] else l3Ways s c
    if ways.isEmpty then lastCopy s a line else fillL3 s a line ways

/-- A line put into a core's L2: in a free way, else in one that a free value names among those whose line no L1I of the cluster holds locked
(R273). -/
def fillL2 (s : State) (c line : Nat) (rt : Bool) : State :=
  let cl := c / 8
  let put := fun (t : State) (key : Nat) => { t with coh := { t.coh with l2 := t.coh.l2.set key (line, rt) } }
  if l2Has s cl line then s
  else match (upto 16).find? fun w => (s.coh.l2.get? (l2Key cl line w)).isNone with
    | some w => put s (l2Key cl line w)
    | none =>
      let held := lockedInSet s c (line % 2048)
      let ways := (upto 16).filter fun w => !((s.coh.l2.get? (l2Key cl line w)).any fun e => held.contains e.1)
      let (v, s) := takeFree s
      let key := l2Key cl line (nth ways 0 (v % max 1 ways.length))
      put (evictL2 s c key) key

/-- The line at a place of a core's L1D is evicted: its reservation is lost (R195). -/
def evictL1d (k : CoreSt) (key : Nat) : CoreSt :=
  match k.l1d.get? key with
  | none => k
  | some line => { k with l1d := k.l1d.drop (· == key), resv := k.resv.filter fun r => r.1 / 64 != line }

/-- A line put into a core's L1D. -/
def fillL1d (s : State) (c line : Nat) : State :=
  let k := getCore s c
  let at_ := fun w => 8 * (line % 64) + w
  if k.l1d.any fun e => e.2 == line then s
  else match (upto 8).find? fun w => (k.l1d.get? (at_ w)).isNone with
    | some w => setCore s c { k with l1d := k.l1d.set (at_ w) line }
    | none =>
      let (v, s) := takeFree s
      let k := evictL1d (getCore s c) (at_ (v % 8))
      setCore s c { k with l1d := k.l1d.set (at_ (v % 8)) line }

/-! ## Accesses (R267, R280, R492) -/

/-- The ERRC of an access to DRAM by core `c` that must ask a home slice to which its route is not VALID (R309). -/
def homeErr (s : State) (c a n : Nat) (store : Bool) : Option Nat :=
  let g := agentOfCore c
  if areaOf a == .dram && (linesOf a n).any fun line =>
      asksHome s g line store && noRoute s (agentEp g) (endpointOf .hom (sliceOf line)) then some eNOROUTE
  else none

/-- What an access to memory is: the line, whether it is real-time, whether it writes. -/
structure LineAcc where
  line : Nat
  rt : Bool
  store : Bool
  deriving DecidableEq, Repr

/-- The agent of an access notes its attribute. -/
def noteAttr (s : State) (a : Nat) (x : LineAcc) : State :=
  if (getLn s a x.line).rt = x.rt then s else setLn s a x.line { getLn s a x.line with rt := x.rt }

/-- An access reaches L2: its misses are noted, a store becomes the only copy of its die, the die gets the line in the state that the access
needs (R280, R281), and the L2 is filled. -/
def reachL2 (s : State) (c : Nat) (x : LineAcc) (note : State → Nat → State) : State :=
  let a := agentOfCore c
  let s :=
    if l2Has s (c / 8) x.line then s
    else
      let s := note s 0x08
      if c < 384 && !l3Has s a x.line then note s 0x09 else s
  let s := noteAttr s a x
  let s := if x.store then ownLine (soleInDie s c x.line) a x.line else shareLine s a x.line
  fillL2 s c x.line x.rt

/-- A miss that counts as an event of a memory access (R492). -/
def missEvt (c va attr : Nat) (s : State) (code : Nat) : State :=
  countEvt s c code 1 { curCtx s c with addr := some va, attr := some attr }

/-- A load or store of a core reaches its L1D, and on a miss the caches beyond it. -/
def cacheLine (s : State) (c va attr : Nat) (store : Bool) (line : Nat) : State :=
  let hit := (getCore s c).l1d.any fun e => e.2 == line
  let s := if hit then s else missEvt c va attr s 0x07
  let x : LineAcc := { line := line, rt := attr == 4, store := store }
  fillL1d (if hit && !store then s else reachL2 s c x (missEvt c va attr)) c line

/-- A load or store of a core to DRAM reaches its caches, line by line. -/
def cacheLines (s : State) (c va attr : Nat) (store : Bool) (a n : Nat) : State :=
  if areaOf a == .dram then (linesOf a n).foldl (fun t line => cacheLine t c va attr store line) s else s

/-- A core's own copies and reservation stay through its own write. -/
def keepOwn (s t : State) (c : Nat) : State :=
  let k := getCore s c
  setCore t c { getCore t c with resv := k.resv, l1d := k.l1d, l1i := k.l1i }

/-- A store to memory that a core may write: other cores lose their copies (R195); a line that is written whole is poisoned no longer, one
that is written in part stays as it was (R299). The core's own fetches do not see it before an IFENCE (R197). -/
def coreStore (s : State) (c pa : Nat) (l : List Byte) : State :=
  let lines := linesOf pa l.length
  let whole := fun (n : Nat) => pa ≤ 64 * n && 64 * n + 64 ≤ pa + l.length
  let t := keepOwn s (dropResv (wrBytes s pa l) pa l.length) c
  let t := lines.foldl (fun t n => if !poisoned s n then t else if whole n then clearPoison t n else setPoison t n) t
  if areaOf pa == .dram then
    let k := getCore t c
    setCore t c { k with ownSt := lines.foldl (fun x n => if x.contains n then x else n :: x) k.ownSt }
  else t

/-- The ERRC of a core's write to memory, if it cannot be performed. -/
def storeErrc (s : State) (c a n : Nat) : Option Nat :=
  match memErr s a true with
  | some e => some e
  | none => homeErr s c a n true

/-- A write by core `c` at a physical address, with the error it is answered with. -/
def memWriteBy (s : State) (c a : Nat) (l : List Byte) : Except Nat State :=
  match storeErrc s c a l.length, memErr s (a + l.length - 1) true with
  | none, none => .ok (coreStore (cacheLines s c a 0 true a l.length) c a l)
  | some e, _ | none, some e => .error e

end Sys2Proof.Machine
end

