-- ==== Sys2Proof/Machine/CoreReset.lean ====
section
/-! DEFINITION. A core entering and leaving core reset, and a partition's debug stop (R119, R177, R212, R234, R246, R247, R275, R482,
R518). -/

namespace Sys2Proof.Machine

/-! ## Debug stop of a partition (R482, R483) -/

/-- DBG_P_STATUS.STOPPED follows the cores of a partition (R482): a change raises the page's condition; the stop forces the gate
groups of the partition, ends their DEBUG cause when it ends, and reloads a held watchdog at its end (R87, R483). -/
def stopUpdate (s : State) (p : Nat) : State :=
  let now := (coresOf s p).any fun c => (getCore s c).stopped
  if now == debugStopped s p then s else
  let s := raiseCond (wb s (Reg.DBGP_STATUS p) 0 now) .dbg 0 (p + 1) 0
  if now then
    (upto 12).foldl (fun t g => if rf t (pageReg .gpe g 0 0x00C) 0 6 == p then gpeForce t g 1 else t) s
  else if rb s (pageReg .dbg 0 (p + 1) 0x020) 0 then
    wr s (Reg.DBGP_WDLEFT p) (rd s (Reg.DBGP_WDPERIOD p))
  else s

/-! ## Core reset -/

/-- Whether core reset reinitialises a register of a CORE page: the translation, scheduler, fetch and cache pages (log entry 15), the
double-fault record (R234) and the microcode counters and records (R251). -/
def coreResetReg (page off : Nat) : Bool :=
  0x100 ≤ off && (page == 0 || page == 1 || page == 2 || page == 5 || (page == 3 && 0x180 ≤ off && off < 0x1A8) ||
    (page == 4 && 0x10C ≤ off && off < 0x180))

/-- The registers of a core that core reset reinitialises, its LOOPS page among them (R172). -/
def coreRegsReset (s : State) (c : Nat) : State :=
  { s with regs := s.regs.drop fun k =>
      let n := k / (4096 * 1024) % 1024
      let b := k / (4096 * 1024 * 1024)
      n == c && ((b == typeCode .core && coreResetReg (k / 4096 % 1024) (k % 4096)) ||
        (b == typeCode .loops && 0x100 ≤ k % 4096)) }

/-- A core enters core reset (R119, R151, R177, R275): its inbox events are discarded and counted, level-mode events in service leave
service, its secrets are drawn anew; patch RAM and match entries stay (R246). -/
def coreHold (s : State) (c : Nat) : State :=
  let k := getCore s c
  let s := dropInboxes (dropServing s c) c
  let fresh := { CoreSt.reset (24832 + s.freeCtr) 0 with patch := k.patch, matches_ := k.matches_, badWords := k.badWords, soft := k.soft }
  let s := setCore (coreRegsReset s c) c fresh
  let s := { s with freeCtr := s.freeCtr + 64 }
  let u := c / 8
  let s := match s.prism.get? u with
    | some p => if c < 384 && p.busy == some (c % 8) then { s with prism := s.prism.set u { p with busy := none } } else s
    | none => s
  if k.stopped then
    match coreOwner s c with
    | some p => stopUpdate s p
    | none => s
  else s

/-- A core leaves core reset (R212): bank 0 runs at RVEC at M, in the timing mode of its partition (R30). -/
def coreStart (s : State) (c : Nat) : State :=
  let k := getCore s c
  let k := k.setBank 0 { k.bank 0 with pc := rd s (Reg.EXC_RVEC c) }
  let st := match coreOwner s c with
    | some p => partStatic s p
    | none => false
  setCore s c { k with running := true, releaseWaits := false, timing := st, fetchPc := none }

/-- Whether a core's microcode state lets it leave reset (R247). -/
def mcReady (s : State) (c : Nat) : Bool := 2 ≤ rf s (Reg.MC_STATE c) 0 2

/-- A core is released (R247): at once where its microcode is LOADED or NONE, else when that comes about. -/
def coreGo (s : State) (c : Nat) : State :=
  if (getCore s c).running then s
  else if mcReady s c then coreStart s c
  else setCore s c { getCore s c with releaseWaits := true }

/-- STATE.PATCH of a core changes (R246); a release that waits for it takes effect (R247). -/
def setPatchState (s : State) (c v : Nat) : State :=
  let s := wf s (Reg.MC_STATE c) 0 2 v
  if (getCore s c).releaseWaits && mcReady s c then coreStart s c else s

/-- CORE_EXC_STATUS.HELD (R518). -/
def setHeld (s : State) (c : Nat) (b : Bool) : State := wb s (Reg.EXC_STATUS c) 0 b
def heldCore (s : State) (c : Nat) : Bool := rb s (Reg.EXC_STATUS c) 0

/-- The cores of a domain. -/
def domainCores (d : Nat) : List Nat := (upto 384).filter fun c => coreDomain c == d

/-- The CORE, LOOPS and CNT pages of a core get an owner (R255, R256). -/
def setCoreOwner (s : State) (c p : Nat) : State :=
  let s := (upto 7).foldl (fun t pg => wf t (pageReg .core c pg 0x00C) 0 6 p) s
  wf (wf s (pageReg .loops c 0 0x00C) 0 6 p) (pageReg .cnt c 0 0x00C) 0 6 p

/-- A write of CORE_EXC_CTL (R518); `none` is a refusal. -/
def releaseWrite (s : State) (c : Nat) (v : Word) : Option State :=
  if !bit v 0 then some s
  else
    let run := match coreOwner s c with
      | some p => partRunning s p
      | none => false
    if heldCore s c && run && domOn s (coreDomain c) then
      some (coreGo (setHeld (wb s (Reg.EXC_TF_INFO c) 12 false) c false) c)
    else none

/-- Whether a RELEASE names a core whose page its domain keeps out of reach (R41); it is refused all the same (R518). -/
def releaseDark (s : State) (i : Initiator) (c : Nat) : Bool := blockPresent s .core c && domDark s (coreDomain c) && isM0 s i

/-- A RELEASE refused with an error-log entry and no record in the page (R41, R518). -/
def refuseDark (s : State) (i : Initiator) (c : Nat) : State :=
  let r := Reg.EXC_CTL c
  respErr (logErr s { accessRec s i r cREFUSED with detail := detail (leBytes 2 r.off) }) cREFUSED

/-- CORE_RELEASE (R226, R518). -/
def execCoreRelease (i : Initiator) (c : CoreId) (s : State) : Out :=
  ok (if releaseDark s i c then refuseDark s i c else regWriteOpt s i (Reg.EXC_CTL c) (isM0 s i) fun t => releaseWrite t c 1)

end Sys2Proof.Machine
end

