-- ==== Sys2Proof/Machine/Xlate.lean ====
section
/-! DEFINITION. Translation of a core's accesses: table walks, stages, TLBs, attributes, regions (R260 to R269). -/

namespace Sys2Proof.Machine

/-- What an access does. -/
inductive Acc where
  | load | store | fetch
  deriving DecidableEq, Repr

/-- SUB of a translation cause (Table 8.3). -/
def Acc.sub : Acc → Nat
  | .load => 0
  | .store => 1
  | .fetch => 2

/-- The region right an access needs: bit 1 R, 2 W, 3 X of RBASE (R261). -/
def Acc.need : Acc → Nat
  | .load => 1
  | .store => 2
  | .fetch => 3

/-- A fault of an access: cause code, SUB, t1, FINFO where a translation rule raised it, and the address and error code of a table read that
the bus answered with an error. -/
structure XlFault where
  cause : Nat
  sub : Nat
  addr : Nat
  info : Option Nat
  bus : Option (Nat × Nat)
  deriving DecidableEq, Repr

/-- SUB of DATA_BUS and INSTR_BUS for an error code (Table 8.3). -/
def busSub (code : Nat) : Nat := if code = ePOISON then 1 else if code = eABSENT then 2 else 4

/-- The fault of an access whose table read at `pa` failed on the bus. -/
def busFault (acc : Acc) (addr pa code : Nat) : XlFault :=
  { cause := if acc = .fetch then 0x05 else 0x0A, sub := busSub code, addr := addr, info := none, bus := some (pa, code) }

/-- FINFO (Table 10.7): kind 0 table entry, 1 region, 2 attribute, 3 physical type; stage 0 guest, 1 partition. -/
def finfo (kind stage level : Nat) : Nat := kind + 4 * stage + 16 * level

/-- A guest-stage fault (R266); `perm` says that the page is mapped. -/
def guestFault (acc : Acc) (va : Nat) (perm : Bool) (info : Nat) : XlFault :=
  { cause := if acc = .fetch then 0x04 else 0x09, sub := acc.sub + (if perm then 4 else 0), addr := va, info := some info, bus := none }

/-- Any other translation fault (R266). -/
def partFault (acc : Acc) (va : Nat) (perm : Bool) (info : Nat) : XlFault :=
  { cause := 0x1C, sub := acc.sub + (if perm then 4 else 0), addr := va, info := some info, bus := none }

/-! ## Ranges and attributes (Table 10.3, R267) -/

/-- Where a core's own window lies in the package (Table 10.3). -/
def coreAddr (c a : Nat) : Nat :=
  match areaOf a with
  | .own off => aliasAddr c off
  | _ => a

/-- Attribute codes: 0 normal, 1 device, 2 mirrored, 3 XIP, 4 real-time (Table 10.4). -/
def defaultAttr (a : Nat) : Nat :=
  match areaOf a with
  | .dram => 0
  | .xip => 3
  | _ => 1

/-- Whether a range permits an attribute (Table 10.3). -/
def permitsAttr (a attr : Nat) : Bool :=
  match areaOf a with
  | .dram => attr == 0 || attr == 4 || attr == 2
  | .xip => attr == 3
  | .core _ off | .own off => attr == 1 || (attr == 0 && isTcm off)
  | _ => attr == 1

/-! ## Table entries (R262, R263) -/

/-- What a stage's leaf gives: output page number at its size, size in bits, permissions, attribute, G, level. -/
structure Leaf where
  out : Nat
  bits : Nat
  perm : Nat
  attr : Nat
  glob : Bool
  level : Nat
  deriving DecidableEq, Repr

/-- A stage that is disabled: its input passes unchanged with the attribute normal (R260). -/
def Leaf.pass (a : Nat) : Leaf := { out := a / 4096, bits := 12, perm := 16, attr := 0, glob := false, level := 0 }

/-- Whether a leaf entry is valid (R263). -/
def leafOk (e : Word) (pstage : Bool) (bits : Nat) : Bool :=
  bit e 0 && fld e 10 2 == 0 && fld e 48 16 == 0 && !(bit e 3 && !bit e 2) && fld e 7 3 ≤ 4 &&
    (!pstage || fld e 5 2 == 0) && fld e 12 (bits - 12) == 0

/-- Whether a table entry is valid (R263). -/
def tableOk (e : Word) : Bool := fld e 0 2 == 3 && fld e 2 10 == 0 && fld e 48 16 == 0

/-- The leaf that an entry describes. -/
def mkLeaf (e : Word) (bits level : Nat) : Leaf :=
  { out := fld e bits (48 - bits), bits := bits, perm := fld e 2 4, attr := fld e 7 3, glob := bit e 6, level := level }

/-- A walk over the levels that remain, from a table (R262): `rd` reads an entry, `bad` is the not-mapped fault at a level. -/
def walkGo (rd : Nat → Nat → Except XlFault Word) (bad : Nat → XlFault) (pstage : Bool) (va : Nat) :
    List Nat → Nat → Except XlFault Leaf
  | [], _ => .error (bad 3)
  | l :: ls, t =>
    let idx := va / 2 ^ (39 - 9 * l) % 512
    if l = 3 then
      match rd (t + 8 * (idx / 16 * 16)) 3 with
      | .error f => .error f
      | .ok e0 =>
        if bit e0 1 && leafOk e0 pstage 16 then .ok (mkLeaf e0 16 3)
        else
          match rd (t + 8 * idx) 3 with
          | .error f => .error f
          | .ok e => if leafOk e pstage 12 then .ok (mkLeaf e 12 3) else .error (bad 3)
    else
      match rd (t + 8 * idx) l with
      | .error f => .error f
      | .ok e =>
        if bit e 0 && bit e 1 then
          if tableOk e then walkGo rd bad pstage va ls (fld e 12 36 * 4096) else .error (bad l)
        else if l ≠ 0 && leafOk e pstage (39 - 9 * l) then .ok (mkLeaf e (39 - 9 * l) l)
        else .error (bad l)

/-- A table entry read at a physical address for a partition: region-checked as a load (R261), read with the normal attribute. -/
def tableRead (s : State) (c p : Nat) (acc : Acc) (va a level : Nat) : Except XlFault Word :=
  let pa := coreAddr c a
  if regionChecked (areaOf a) && !regionOk s p a 8 1 then .error (partFault acc va true (finfo 1 1 level))
  else if areaOf a ≠ .hole && !(permitsAttr a 0 || permitsAttr a 3) then .error (partFault acc va true (finfo 3 1 level))
  else match (match homeErr s c pa 8 false with
      | some e => MemRd.err e
      | none => memRead s pa 8) with
    | .err e => .error (busFault acc va pa e)
    | .data l poison => if poison then .error (busFault acc va pa ePOISON) else .ok (BitVec.ofNat 64 (leNat l))

/-! ## Stages -/

/-- Where a core's translation stands: its partition, the roots in force, the ASN. -/
structure XlCtx where
  core : Nat
  part : Nat
  gtb : Word
  ptb : Word
  priv : Nat
  deriving DecidableEq, Repr

def XlCtx.asn (x : XlCtx) : Nat := fld x.gtb 1 5
def XlCtx.gEn (x : XlCtx) : Bool := bit x.gtb 0
def XlCtx.pEn (x : XlCtx) : Bool := bit x.ptb 0

/-- The entry of a TLB that matches an address. -/
def tlbFind (l : List TlbE) (x : XlCtx) (va : Nat) : Option TlbE :=
  l.find? fun e => e.part == x.part && e.vpn == va / 2 ^ e.bits &&
    (if x.gEn then !e.pstage && (e.glob || e.asn == x.asn) else e.pstage)

/-- The partition-stage entry of the second-level TLB that matches an address (R268). -/
def pstageHit (s : State) (x : XlCtx) (a : Nat) : Option TlbE := tlbFind (getCore s x.core).l2tlb { x with gtb := 0 } a

/-- The leaf that a partition-stage entry holds. -/
def leafOfEntry (e : TlbE) : Leaf := { out := e.ppn, bits := e.bits, perm := e.pperm, attr := e.pattr, glob := false, level := e.plevel }

/-- The partition stage of an address (R260): as the second-level TLB holds it, else walked. -/
def pstage (s : State) (x : XlCtx) (acc : Acc) (va a : Nat) : Except XlFault Leaf :=
  if !x.pEn then .ok (Leaf.pass a)
  else if 2 ^ 48 ≤ a then .error (partFault acc va false (finfo 0 1 0))
  else match pstageHit s x a with
    | some e => .ok (leafOfEntry e)
    | none => walkGo (tableRead s x.core x.part acc va) (fun l => partFault acc va false (finfo 0 1 l)) true a [0, 1, 2, 3]
        (fld x.ptb 12 36 * 4096)

/-- The physical address that a leaf gives for an input address. -/
def Leaf.addr (l : Leaf) (a : Nat) : Nat := l.out * 2 ^ l.bits + a % 2 ^ l.bits

/-- A guest table entry read: translated by the partition stage, which must grant R, and region-checked (R264). -/
def guestRead (s : State) (x : XlCtx) (acc : Acc) (va a level : Nat) : Except XlFault Word :=
  match pstage s x acc va a with
  | .error f => .error f
  | .ok l =>
    if l.perm ≠ 16 && !l.perm.testBit 0 then .error (partFault acc va true (finfo 0 1 l.level))
    else tableRead s x.core x.part acc va (l.addr a) level

/-- The guest stage of an address (R260). -/
def gstage (s : State) (x : XlCtx) (acc : Acc) (va : Nat) : Except XlFault Leaf :=
  if !x.gEn then .ok (Leaf.pass va)
  else if 2 ^ 48 ≤ va then .error (guestFault acc va false (finfo 0 0 0))
  else walkGo (guestRead s x acc va) (fun l => guestFault acc va false (finfo 0 0 l)) false va [0, 1, 2, 3]
    (fld x.gtb 12 36 * 4096)

/-- Whether permissions ([0] R, [1] W, [2] X, or 16 for a disabled stage) grant an access. -/
def grants (perm : Nat) : Acc → Bool
  | .load => perm == 16 || perm.testBit 0
  | .store => perm == 16 || perm.testBit 1
  | .fetch => perm == 16 || perm.testBit 2

/-- Whether a guest-stage leaf grants an access at a privilege (R264). -/
def guestGrants (perm priv : Nat) (acc : Acc) : Bool :=
  perm == 16 || (grants perm acc && (if priv = 0 then perm.testBit 3 else !(perm.testBit 3 && acc == .fetch)))

/-- The entry that a walk of both stages yields (R268), or the first fault of checks 1 to 3 of R266. -/
def walkBoth (s : State) (x : XlCtx) (acc : Acc) (va : Nat) : Except XlFault TlbE :=
  match gstage s x acc va with
  | .error f => .error f
  | .ok g =>
    if !guestGrants g.perm x.priv acc then .error (guestFault acc va true (finfo 0 0 g.level))
    else
      let ipa := g.addr va
      match pstage s x acc va ipa with
      | .error f => .error f
      | .ok l =>
        let bits := min g.bits l.bits
        .ok { part := x.part, asn := x.asn, glob := g.glob, vpn := va / 2 ^ bits, bits := bits, ppn := l.addr ipa / 2 ^ bits,
              gperm := g.perm, gattr := g.attr, glevel := g.level, pperm := l.perm, pattr := l.attr, plevel := l.level,
              pstage := !x.gEn, lock := none }

/-- The attribute that two stages' attributes combine to (R265). -/
def combineAttr (g p : Nat) : Option Nat := if g = p then some g else if g = 0 then some p else if p = 0 then some g else none

/-- Checks 2 to 6 of R266 on an entry: the physical address and attribute of the access of `n` bytes. DESIGN CHOICE: where no stage but the
range's default makes a fetch's attribute device, the fault is the partition stage's; R265 names the stage that gave the attribute
(log entry 112). -/
def checkEntry (s : State) (x : XlCtx) (acc : Acc) (va n : Nat) (e : TlbE) : Except XlFault (Nat × Nat) :=
  let pa := e.ppn * 2 ^ e.bits + va % 2 ^ e.bits
  if !guestGrants e.gperm x.priv acc then .error (guestFault acc va true (finfo 0 0 e.glevel))
  else if !grants e.pperm acc then .error (partFault acc va true (finfo 0 1 e.plevel))
  else if regionChecked (areaOf pa) && !regionOk s x.part pa n acc.need then .error (partFault acc va true (finfo 1 1 0))
  else match combineAttr e.gattr e.pattr with
    | none => .error (partFault acc va true (finfo 2 1 e.plevel))
    | some a =>
      let attr := if a = 0 && !permitsAttr pa 0 then defaultAttr pa else a
      if areaOf pa ≠ .hole && !permitsAttr pa attr then .error (partFault acc va true (finfo 3 1 e.plevel))
      else if acc = .fetch && (attr = 1 || attr = 2) then
        (if e.gattr = attr then .error (guestFault acc va true (finfo 2 0 e.glevel))
         else .error (partFault acc va true (finfo 2 1 e.plevel)))
      else .ok (pa, attr)

/-! ## TLBs (R268) -/

/-- A list without its element at a position. -/
def dropAt {α : Type} : List α → Nat → List α
  | [], _ => []
  | _ :: t, 0 => t
  | a :: t, n + 1 => a :: dropAt t n

/-- An entry put into a TLB of `cap` entries; where it is full an unlocked entry that the free number names makes room (log entry
16). -/
def tlbPut (cap : Nat) (l : List TlbE) (e : TlbE) (victim : Nat) : List TlbE :=
  if l.length < cap then e :: l
  else
    let locked := l.filter fun t => t.lock.isSome
    let free := l.filter fun t => t.lock.isNone
    if free.isEmpty then l else e :: (locked ++ dropAt free (victim % free.length))

/-- The first-level TLB of an access. -/
def firstTlb (k : CoreSt) (acc : Acc) : List TlbE := if acc = .fetch then k.itlb else k.dtlb

/-- An entry placed in a first-level TLB. -/
def fillFirst (s : State) (c : Nat) (acc : Acc) (e : TlbE) : State :=
  let (r, s) := takeFree s
  let k := getCore s c
  setCore s c (if acc = .fetch then { k with itlb := tlbPut 32 k.itlb e r } else { k with dtlb := tlbPut 32 k.dtlb e r })

/-- An entry put into the second-level TLB: 4 ways in the set of its page (log entry 110), where a full set gives up the entry that a free
number names. -/
def tlbPutWay (l : List TlbE) (e : TlbE) (victim : Nat) : List TlbE :=
  let set := l.filter fun t => t.vpn % 256 == e.vpn % 256
  if set.length < 4 then e :: l else e :: l.erase (nth set e (victim % 4))

/-- An entry placed in the second-level TLB. -/
def fillSecond (s : State) (c : Nat) (e : TlbE) : State :=
  let (r, s) := takeFree s
  let k := getCore s c
  setCore s c { k with l2tlb := tlbPutWay k.l2tlb e r }

/-! ## What a walk reads and keeps (R262, R268) -/

/-- The addresses of the entries that a walk reads. -/
def walkReads (rd : Nat → Nat → Except XlFault Word) (pstage : Bool) (va : Nat) : List Nat → Nat → List Nat
  | [], _ => []
  | l :: ls, t =>
    let idx := va / 2 ^ (39 - 9 * l) % 512
    if l = 3 then
      let a := t + 8 * (idx / 16 * 16)
      match rd a 3 with
      | .error _ => [a]
      | .ok e => if bit e 1 && leafOk e pstage 16 then [a] else [a, t + 8 * idx]
    else
      match rd (t + 8 * idx) l with
      | .error _ => [t + 8 * idx]
      | .ok e => (t + 8 * idx) :: (if fld e 0 2 = 3 then walkReads rd pstage va ls (fld e 12 36 * 4096) else [])

/-- The table entries that the partition stage of an address reads. -/
def pstageReads (s : State) (x : XlCtx) (acc : Acc) (va a : Nat) : List Nat :=
  if !x.pEn || (pstageHit s x a).isSome then []
  else walkReads (tableRead s x.core x.part acc va) true a [0, 1, 2, 3] (fld x.ptb 12 36 * 4096)

/-- The guest-physical addresses of the guest's table entries that a walk reads. -/
def guestTables (s : State) (x : XlCtx) (acc : Acc) (va : Nat) : List Nat :=
  if x.gEn then walkReads (guestRead s x acc va) false va [0, 1, 2, 3] (fld x.gtb 12 36 * 4096) else []

/-- The guest-physical addresses that a walk translates: those of the guest's table entries, and the page's where it comes so far. -/
def guestAddrs (s : State) (x : XlCtx) (acc : Acc) (va : Nat) : List Nat :=
  guestTables s x acc va ++
    match gstage s x acc va with
    | .ok g => if guestGrants g.perm x.priv acc then [g.addr va] else []
    | .error _ => []

/-- The physical addresses of the table entries that a walk of both stages reads. -/
def tableReads (s : State) (x : XlCtx) (acc : Acc) (va : Nat) : List Nat :=
  ((guestAddrs s x acc va).map (pstageReads s x acc va)).flatten ++ ((guestTables s x acc va).filterMap fun a =>
    match pstage s x acc va a with
    | .ok l => some (l.addr a)
    | .error _ => none)

/-- Whether a table read reaches DRAM: it passes the region check and memory answers. -/
def tableReached (s : State) (x : XlCtx) (a : Nat) : Bool := isDram a && regionOk s x.part a 8 1 && (memErr s a false).isNone

/-- The partition-stage entry of an address. -/
def pstageEntry (x : XlCtx) (a : Nat) (l : Leaf) : TlbE :=
  { part := x.part, asn := 0, glob := false, vpn := a / 2 ^ l.bits, bits := l.bits, ppn := l.out, gperm := 16, gattr := 0, glevel := 0,
    pperm := l.perm, pattr := l.attr, plevel := l.level, pstage := true, lock := none }

/-- A walk's table reads go through L2 and allocate in no L1D; its partition-stage translations stay in the second-level TLB, also where the
walk ends in a fault (R268). -/
def walkKeeps (s : State) (x : XlCtx) (acc : Acc) (va : Nat) : State :=
  let c := x.core
  let lines := ((tableReads s x acc va).filter (tableReached s x)).map lineOf
  let t := lines.foldl (fun t n => reachL2 t c { line := n, rt := false, store := false } (missEvt c va 0)) s
  if !x.pEn then t
  else (guestAddrs s x acc va).foldl (fun t a =>
    match pstage s x acc va a with
    | .ok l => if (pstageHit t x a).isSome then t else fillSecond t c (pstageEntry x a l)
    | .error _ => t) t

/-- An access at S or U through the TLBs (R260, R268): the state after fills and the translation. -/
def translateSU (s : State) (x : XlCtx) (acc : Acc) (va n : Nat) : State × Except XlFault (Nat × Nat) :=
  let c := x.core
  match tlbFind (firstTlb (getCore s c) acc) x va with
  | some e => (s, checkEntry s x acc va n e)
  | none =>
    let s := countCur s c (if acc = .fetch then 0x0A else 0x0B)
    match tlbFind (getCore s c).l2tlb x va with
    | some e => (fillFirst s c acc e, checkEntry s x acc va n e)
    | none =>
      let s := countCur s c 0x0C
      match walkBoth s x acc va with
      | .error f => (walkKeeps s x acc va, .error f)
      | .ok e =>
        let t := walkKeeps s x acc va
        (fillFirst (if e.pstage then t else fillSecond t c e) c acc e, checkEntry s x acc va n e)

/-- An access at H or M (R260): physical, with the default attribute, or mirrored for a mirror access to DRAM; region-checked for a
partition other than 0; a fetch reaches memory or the core's own I-TCM (R134, log entry 17). -/
def translateHM (s : State) (x : XlCtx) (acc : Acc) (va n : Nat) (mirror : Bool) : Except XlFault (Nat × Nat) :=
  let attr := if mirror && areaOf va == .dram then 2 else defaultAttr va
  if regionChecked (areaOf va) && !regionOk s x.part va n acc.need then .error (partFault acc va true (finfo 1 1 0))
  else if acc = .fetch && attr = 1 && areaOf va ≠ .hole &&
      !(match areaOf va with | .own off => off < 0x8000 | _ => false) then
    .error (partFault acc va true (finfo 2 1 0))
  else .ok (va, attr)

/-- The translation context of a core's bank at a privilege. -/
def xlCtx (s : State) (c l priv : Nat) : XlCtx :=
  let b := (getCore s c).bank l
  { core := c, part := (coreOwner s c).getD 0, gtb := b.gtb, ptb := b.ptb, priv := priv }

/-- The translation of an access of `n` bytes by a core's current bank at a privilege (R260). -/
def translate (s : State) (c priv : Nat) (acc : Acc) (va n : Nat) (mirror : Bool) : State × Except XlFault (Nat × Nat) :=
  let x := xlCtx s c (getCore s c).cur priv
  if 2 ≤ priv then (s, translateHM s x acc va n mirror)
  else if !x.gEn && !x.pEn then
    (s, checkEntry s x acc va n
      { part := x.part, asn := 0, glob := false, vpn := va / 4096, bits := 12, ppn := va / 4096, gperm := 16, gattr := 0,
        glevel := 0, pperm := 16, pattr := 0, plevel := 0, pstage := true, lock := none })
  else translateSU s x acc va n

end Sys2Proof.Machine
end

