-- ==== Sys2Proof/Machine/Part.lean ====
section
/-! DEFINITION. Partition descriptors, TLB and cache operations, translation roots (R31, R32, R252 to R258, R269 to R277, R334). -/

namespace Sys2Proof.Machine

/-! ## Floor clock (R24, R25) -/

/-- The floor clock of an envelope and emission mode, as a step: 0 1.0, 1 1.4, 2 1.6, 3 2.0, 4 2.4 GHz (Table 1.8). -/
def floorOf (s : State) (env emission : Nat) : Nat :=
  let total := match env with
    | 0 => 360000
    | 1 => 280000
    | 2 => 200000
    | _ => 120000
  let b := min 26000 ((total - 41000) / s.part.facets)
  let step := if 26000 ≤ b then 4 else if 19500 ≤ b then 3 else if 13000 ≤ b then 2 else if 9500 ≤ b then 1 else 0
  let step := if s.part.grade = .g20 then min 3 step else step
  if emission = 2 then min 2 step else step

/-- The floor clock in force. -/
def floorNow (s : State) : Nat := floorOf s (rf s Reg.PWR_ENVELOPE 0 2) (rf s Reg.PWR_EMISSION 0 2)

/-! ## START and STOP (R255, R256) -/

/-- R32: an even number of application cores on at least two Facet dies. -/
def pairedMaskOk (cores : List Nat) : Bool :=
  cores.length % 2 == 0 && cores.all (· < 384) && 2 ≤ (cores.map (· / 32)).eraseDups.length

/-- R334: whether the enabled pairs agree with a partition's safety mode and mask. -/
def pairsOfOk (s : State) (p : Nat) (cores : List Nat) : Bool :=
  let qs := (upto 192).filter fun q => pairOn s q && pairPart s q == p
  if rb s (Reg.PART_MODES p) 1 then
    pairedMaskOk cores &&
      (cores.all fun c => (qs.filter fun q => pairA s q == c || pairB s q == c).length == 1) &&
      (qs.all fun q => cores.contains (pairA s q) && cores.contains (pairB s q))
  else qs.isEmpty

/-- L3 ways that two partitions share. -/
def waysShared (s : State) (p q : Nat) : Bool :=
  (rf s (Reg.PART_L3WAYS p) 0 16 &&& rf s (Reg.PART_L3WAYS q) 0 16) != 0

/-- The REFUSE code of a START (Table 10.2): the first condition of R255 that fails; `same` are the partitions whose START arrives in
the same cycle. -/
def startRefuse (s : State) (p : Nat) (same : List Nat) : Nat :=
  let cores := coresOf s p
  if cores.isEmpty then 1
  else if partStatic s p && (cores.any (· < 384)) && floorNow s < 2 then 2
  else if !pairsOfOk s p cores then 3
  else if partStatic s p && (upto 64).any fun q =>
      q != p && q != 0 && (partRunning s q || same.contains q) && waysShared s p q then 4
  else 0

/-- START (R255); `none` is a refusal in PAGE_ERR. DESIGN CHOICE: a partition whose STOP is still BUSY counts as stopped, so its START is
accepted (log entry 112). -/
def partStartNow (s : State) (p : Nat) (same : List Nat) : Option State :=
  if partRunning s p then none
  else
    let r := startRefuse s p same
    let s := wf s (Reg.PART_STATUS p) 8 3 r
    if r ≠ 0 then some s
    else
      let s := wb s (Reg.PART_STATUS p) 0 true
      let cores := coresOf s p
      let s := cores.foldl (fun t c => setCoreOwner t c p) s
      some (cores.foldl (fun t c => if domOn t (coreDomain c) then coreGo t c else setHeld t c true) s)

/-- PART_START (R255). -/
def execPartStart (i : Initiator) (p : Part) (same : List Part) (s : State) : Out :=
  ok (regWriteOpt s i (Reg.PART_CMD p) (isM0 s i) fun t => partStartNow t p (same.map Fin.val))

/-- STOP (R256); `none` is a refusal. -/
def partStopNow (s : State) (p : Nat) : Option State :=
  if p = 0 || !partRunning s p then none
  else
    let cores := coresOf s p
    let s := wb (wb s (Reg.PART_STATUS p) 0 false) (Reg.PART_STATUS p) 1 true
    let s := { s with bse := { s.bse with meas := s.bse.meas.drop (· == p) } }
    some (cores.foldl (fun t c => setHeld (setCoreOwner (coreHold t c) c 0) c false) s)

/-- PART_STOP (R256). -/
def execPartStop (i : Initiator) (p : Part) (s : State) : Out :=
  ok (regWriteOpt s i (Reg.PART_CMD p) (isM0 s i) fun t => partStopNow t p)

/-- PART_STOP_DONE (R256): BUSY ends once every core is held. -/
def execPartStopDone (p : Part) (s : State) : Out :=
  ok (if (coresOf s p).all fun c => !(getCore s c).running || partRunning s p then wb s (Reg.PART_STATUS p) 1 false else s)

/-- A write of PART_CMD. -/
def partCmd (s : State) (p : Nat) (v : Word) : Option State :=
  match fld v 0 2 with
  | 1 => partStartNow s p []
  | 2 => partStopNow s p
  | _ => some s

/-! ## Masks, modes, ways (R253, R254, R257, R258) -/

/-- Whether a core may join a partition's mask (R254). -/
def mayJoin (s : State) (p c : Nat) : Bool :=
  c < 384 && populated s (c / 32) && !siteAbsent s (c / 32) && (inPart s p c || (coreOwner s c).isNone)

/-- A core leaves a partition's mask: the effects of R119. -/
def removeCore (s : State) (p c : Nat) : State :=
  let s := orphanTargets s fun ty n => ty == 0 && n == c
  let s := (upto 64).foldl (fun t q =>
    if poolOwner t q == p then
      let x := getPool t q
      if x.mask.testBit c then setPool t q { x with mask := x.mask - 2 ^ c } else t
    else t) s
  dropInboxes (dropServing s c) c

/-- A write of CORES[k] (R253, R254, R257): partition 0's is ignored; a bit that may not be set stays 0 with cause REFUSED. -/
def partCoresEffect (s : State) (i : Initiator) (p k : Nat) (v : Word) : Option State :=
  if p = 0 then some s
  else if partRunning s p then none
  else
    let bits := (upto 32).filter fun b => 32 * k + b < 388
    let want := bits.filter fun b => bit v b
    let good := want.filter fun b => mayJoin s p (32 * k + b)
    let gone := bits.filter fun b => inPart s p (32 * k + b) && !good.contains b
    let s := gone.foldl (fun t b => removeCore t p (32 * k + b)) s
    let s := wr s (Reg.PART_CORES p k) (BitVec.ofNat 64 (sumNat (good.map (2 ^ ·))))
    some (if good.length = want.length then s else recordPageErr s i (Reg.PART_CORES p k) cREFUSED)

/-- PART_CORES_WRITE (R254). -/
def execPartCoresWrite (i : Initiator) (p : Part) (k : Fin 13) (v : W32) (s : State) : Out :=
  ok (regWriteOpt s i (Reg.PART_CORES p k) (isM0 s i) fun t => partCoresEffect t i p k (w32 v))

/-- A write of MODES (R30, R257, R258); `none` is a refusal. -/
def partModesEffect (s : State) (p : Nat) (v : Word) : Option State :=
  let new := BitVec.ofNat 64 (fld v 0 3)
  if p = 0 then
    if bit v 1 != rb s (Reg.PART_MODES 0) 1 then none else some (wr s (Reg.PART_MODES 0) new)
  else if partRunning s p then none
  else some (wr s (Reg.PART_MODES p) new)

/-- PART_MODES_WRITE (R258). -/
def execPartModesWrite (i : Initiator) (p : Part) (v : W32) (s : State) : Out :=
  ok (regWriteOpt s i (Reg.PART_MODES p) (isM0 s i) fun t => partModesEffect t p (w32 v))

/-- PART_TIMING_TAKE_EFFECT (R258): on a hub core that runs bank 0 with every other bank parked or disabled. -/
def execPartTimingTakeEffect (c : CoreId) (s : State) : Out :=
  let k := getCore s c
  ok (if 384 ≤ c.val && k.running && k.cur == 0 && (upto 7).all (fun l => (k.bank (l + 1)).st != .active) then
    setCore s c { k with timing := partStatic s 0 } else s)

/-- A write of L3WAYS (R257, R258); `none` is a refusal. -/
def l3waysEffect (s : State) (p : Nat) (v : Word) : Option State :=
  let t := wr s (Reg.PART_L3WAYS p) (BitVec.ofNat 64 (fld v 0 16))
  if p ≠ 0 && partRunning s p && (upto 64).any fun q =>
      q != p && q != 0 && partRunning s q && (partStatic s p || partStatic s q) && waysShared t p q then none
  else some t

/-- L3WAYS_WRITE (R257). -/
def execL3waysWrite (i : Initiator) (p : Part) (v : W32) (s : State) : Out :=
  ok (regWriteOpt s i (Reg.PART_L3WAYS p) (isM0 s i) fun t => l3waysEffect t p (w32 v))

/-! ## TLB operations (R269, R270) -/

/-- The entries of a core's TLBs that satisfy a test removed. -/
def tlbDrop (s : State) (c : Nat) (p : TlbE → Bool) : State :=
  let k := getCore s c
  let f := fun (l : List TlbE) => l.filter fun e => !p e
  setCore s c { k with itlb := f k.itlb, dtlb := f k.dtlb, l2tlb := f k.l2tlb }

/-- ILOCK on one core (R269): the bank's page is walked, as every walk reads (R268), and locked, or LOCK_ERR is set. DESIGN CHOICE: a bank at H
or M, which no stage translates, sets LOCK_ERR (log entry 112). -/
def tlbLock (s : State) (c l vpage : Nat) : State :=
  let b := (getCore s c).bank l
  let s := wb s (Reg.XL_TLBSTAT c) 5 false
  let bad := fun (t : State) => wb t (Reg.XL_TLBSTAT c) 5 true
  let x := { xlCtx s c l (fld b.status 0 2) with gtb := rd s (Reg.XL_GTB c l), ptb := rd s (Reg.XL_PTB c) }
  let va := vpage * 4096
  if 2 ≤ x.priv || 8 ≤ ((getCore s c).itlb.filter fun e => e.lock.isSome).length then bad s
  else
    let t := walkKeeps s x .fetch va
    match walkBoth s x .fetch va with
    | .error _ => bad t
    | .ok e =>
      match checkEntry s x .fetch va 4 e with
      | .error _ => bad t
      | .ok _ =>
        let (r, t) := takeFree t
        setCore t c { getCore t c with itlb := tlbPut 32 (getCore t c).itlb { e with lock := some l } r }

/-- The effect of a TLBI operation on one core (Table 10.7). DESIGN CHOICE: op ASN leaves entries with G in place; the table names them for op VA
alone (log entry 112). -/
def tlbiCore (s : State) (c : Nat) (v : Word) : State :=
  let asn := fld v 8 5
  let va := fld v 12 36 * 4096
  match fld v 0 4 with
  | 1 => tlbDrop s c fun e => e.lock.isNone && !e.pstage
  | 2 => tlbDrop s c fun e => e.lock.isNone && !e.pstage && !e.glob && e.asn == asn
  | 3 => tlbDrop s c fun e => e.lock.isNone && !e.pstage && (e.glob || e.asn == asn) && e.vpn == va / 2 ^ e.bits
  | 4 => tlbDrop s c fun _ => true
  | 5 => tlbLock s c (fld v 5 3) (fld v 12 36)
  | _ => tlbDrop s c fun e => e.lock == some (fld v 5 3) && e.vpn == va / 2 ^ e.bits

/-- A write of CORE_XL_TLBI (R270); `none` is a refusal. -/
def tlbiEffect (s : State) (c : Nat) (v : Word) : Option State :=
  let op := fld v 0 4
  if (getCore s c).tlbBusy.isSome then none
  else if op = 0 || 6 < op then some s
  else
    let cores := if bit v 4 then (match coreOwner s c with | some p => coresOf s p | none => [c]) else [c]
    let s := cores.foldl (fun t d => tlbiCore t d v) s
    some (setCore s c { getCore s c with tlbBusy := some v })

/-- The lowest privilege of a TLBI operation (R270); another value is no operation. -/
def tlbiPriv (v : Word) : Nat := if 4 ≤ fld v 0 4 ∧ fld v 0 4 ≤ 6 then 2 else if 1 ≤ fld v 0 4 ∧ fld v 0 4 ≤ 3 then 1 else 0

/-- A TLBI access. -/
def tlbiWrite (s : State) (i : Initiator) (c op : Nat) (bcast : Bool) (bank asn vpage : Nat) : State :=
  let v := BitVec.ofNat 64 (op + (if bcast then 16 else 0) + 2 ^ 5 * bank + 2 ^ 8 * asn + 2 ^ 12 * vpage)
  regWriteOpt s i (Reg.XL_TLBI c) (tlbiPriv v ≤ initPriv s i) fun t => tlbiEffect t c v

/-- TLBI_ALL (R270). -/
def execTlbiAll (i : Initiator) (c : CoreId) (bcast : Bool) (s : State) : Out := ok (tlbiWrite s i c 1 bcast 0 0 0)

/-- TLBI_ASN (R270). -/
def execTlbiAsn (i : Initiator) (c : CoreId) (bcast : Bool) (asn : BitVec 5) (s : State) : Out :=
  ok (tlbiWrite s i c 2 bcast 0 asn.toNat 0)

/-- TLBI_VA (R270). -/
def execTlbiVa (i : Initiator) (c : CoreId) (bcast : Bool) (asn : BitVec 5) (vpage : BitVec 36) (s : State) : Out :=
  ok (tlbiWrite s i c 3 bcast 0 asn.toNat vpage.toNat)

/-- TLBI_PSTAGE_ALL (R270). -/
def execTlbiPstageAll (i : Initiator) (c : CoreId) (bcast : Bool) (s : State) : Out := ok (tlbiWrite s i c 4 bcast 0 0 0)

/-- TLB_ILOCK (R269). -/
def execTlbIlock (i : Initiator) (c : CoreId) (bcast : Bool) (bank : Level) (vpage : BitVec 36) (s : State) : Out :=
  ok (tlbiWrite s i c 5 bcast bank 0 vpage.toNat)

/-- TLB_IUNLOCK (R269). -/
def execTlbIunlock (i : Initiator) (c : CoreId) (bcast : Bool) (bank : Level) (vpage : BitVec 36) (s : State) : Out :=
  ok (tlbiWrite s i c 6 bcast bank 0 vpage.toNat)

/-- TLBI_DONE (R270). -/
def execTlbiDone (c : CoreId) (s : State) : Out :=
  ok (if (getCore s c).tlbBusy.isSome then setCore s c { getCore s c with tlbBusy := none } else s)

/-! ## Cache operations (R273, R274) -/

/-- One line read through L2 into a way and locked, or the ERR code that stops the operation (R273); a copy in another way is dropped. DESIGN
CHOICE: a locked line that the way held loses its lock, and a line whose read gets an error response ends the operation with REGION
(log entry 112). -/
def lockLine (s : State) (c line way : Nat) : Except Nat State :=
  let p := (coreOwner s c).getD 0
  let held := lockedInSet s c (line % 2048)
  if !regionOk s p (line * 64) 64 3 then .error 3
  else match memRead s (line * 64) 64 with
    | .err _ => .error 3
    | .data l poison =>
      if poison then .error 2
      else if isDram (line * 64) && !held.contains line && 8 ≤ held.length then .error 1
      else
        let s := if isDram (line * 64) then reachL2 s c { line := line, rt := false, store := false } fun t code => countCur t c code else s
        let k := getCore s c
        let rest := k.l1i.filter fun e => e.2.line != line
        .ok (setCore s c { k with
          l1i := Tbl.set rest (line % 64 * 8 + way) { line := line, data := l, locked := true, valid := true } })

/-- COUNT lines locked in order; a failure stops with ERR and leaves the earlier lines locked (R273). -/
def lockLines (s : State) (c way line : Nat) : Nat → State
  | 0 => s
  | n + 1 =>
    match lockLine s c line way with
    | .error e => wf s (Reg.CACHE_STATUS c) 8 3 e
    | .ok t => lockLines t c way (line + 1) n

/-- A write of CORE_CACHE_OP (R273, R274); `none` is a refusal. -/
def cacheOpEffect (s : State) (c : Nat) (v : Word) : Option State :=
  let line := fld v 6 42
  let n := fld v 48 6 + 1
  let way := fld v 60 3
  let k := getCore s c
  let p := (coreOwner s c).getD 0
  let busy := fun (t : State) => some (setCore t c { getCore t c with cacheBusy := some v })
  if k.cacheBusy.isSome then none
  else
    let s := wf s (Reg.CACHE_STATUS c) 8 3 0
    let clean := fun (f : State → State) =>
      if regionOk s p (line * 64) 64 2 then busy (f s) else busy (wf s (Reg.CACHE_STATUS c) 8 3 3)
    match fld v 56 4 with
    | 1 =>
      let a := defaultAttr (line * 64)
      if way = 0 || 64 < line % 64 + n || !(a = 0 || a = 3) then none else busy (lockLines s c way line n)
    | 2 => busy (setCore s c { k with l1i := k.l1i.map fun e =>
        if e.1 % 8 = way then (e.1, { e.2 with locked := false }) else e })
    | 3 => busy (setCore s c { k with l1d := [], resv := none })
    | 4 => clean id
    | 5 => clean fun t => invCores (homeFlush t line) (fun _ => true) line
    | _ => some s

/-- The lowest privilege of a cache operation (R274); another value is no operation. -/
def cachePriv (v : Word) : Nat := if fld v 56 4 = 4 ∨ fld v 56 4 = 5 then 1 else if 1 ≤ fld v 56 4 ∧ fld v 56 4 ≤ 3 then 2 else 0

/-- A cache operation as an access. -/
def cacheWrite (s : State) (i : Initiator) (c op line count way : Nat) : State :=
  let v := BitVec.ofNat 64 (2 ^ 6 * line + 2 ^ 48 * count + 2 ^ 56 * op + 2 ^ 60 * way)
  regWriteOpt s i (Reg.CACHE_OP c) (cachePriv v ≤ initPriv s i) fun t => cacheOpEffect t c v

/-- CACHE_ILOCK (R273): `count` is COUNT − 1. -/
def execCacheIlock (i : Initiator) (c : CoreId) (line : BitVec 42) (count : Fin 64) (way : Fin 8) (s : State) : Out :=
  ok (cacheWrite s i c 1 line.toNat count way)

/-- CACHE_IUNLOCK (R273). -/
def execCacheIunlock (i : Initiator) (c : CoreId) (way : Fin 8) (s : State) : Out := ok (cacheWrite s i c 2 0 0 way)

/-- L1D_FLUSH (R274). -/
def execL1dFlush (i : Initiator) (c : CoreId) (s : State) : Out := ok (cacheWrite s i c 3 0 0 0)

/-- CACHE_CLEAN (R274). -/
def execCacheClean (i : Initiator) (c : CoreId) (line : BitVec 42) (s : State) : Out := ok (cacheWrite s i c 4 line.toNat 0 0)

/-- CACHE_CLEAN_INV (R274). -/
def execCacheCleanInv (i : Initiator) (c : CoreId) (line : BitVec 42) (s : State) : Out :=
  ok (cacheWrite s i c 5 line.toNat 0 0)

/-- CACHE_OP_DONE (R274). -/
def execCacheOpDone (c : CoreId) (s : State) : Out :=
  ok (if (getCore s c).cacheBusy.isSome then setCore s c { getCore s c with cacheBusy := none } else s)

/-! ## Translation roots (R277) -/

/-- Whether an access comes from the current bank of a core. -/
def writesOwn (i : Initiator) (c : Nat) : Bool :=
  match i with
  | .core d => d.val == c
  | _ => false

/-- A write of PTB (R277): the writing bank waits for its IFENCE. -/
def ptbEffect (s : State) (i : Initiator) (c : Nat) (v : Word) : State :=
  let s := wr s (Reg.XL_PTB c) (BitVec.ofNat 64 (fld v 0 1 + 2 ^ 12 * fld v 12 36))
  if writesOwn i c then
    let k := getCore s c
    setCore s c (k.setBank k.cur { k.bank k.cur with ptbWait := true })
  else s

/-- PTB_WRITE (R277). -/
def execPtbWrite (i : Initiator) (c : CoreId) (v : Word) (s : State) : Out :=
  ok (regWrite s i (Reg.XL_PTB c) true (2 ≤ initPriv s i) fun t => ptbEffect t i c v)

/-- A write of GTB[L] (R277): the writing bank waits for its IFENCE. -/
def gtbEffect (s : State) (i : Initiator) (c l : Nat) (v : Word) : State :=
  let s := wr s (Reg.XL_GTB c l) (BitVec.ofNat 64 (fld v 0 6 + 2 ^ 12 * fld v 12 36))
  let k := getCore s c
  if writesOwn i c && k.cur == l then setCore s c (k.setBank l { k.bank l with gtbWait := true }) else s

/-- GTB_WRITE (R277). -/
def execGtbWrite (i : Initiator) (c : CoreId) (l : Level) (v : Word) (s : State) : Out :=
  ok (regWrite s i (Reg.XL_GTB c l) true (1 ≤ initPriv s i) fun t => gtbEffect t i c l v)

end Sys2Proof.Machine
end

