-- ==== Sys2Proof/Machine/Coherence.lean ====
section
/-! DEFINITION. Coherence: home slices, caching agents, the messages between them, loss of a die (R278 to R304). -/

namespace Sys2Proof.Machine

/-! ## Route tables and links, as far as messages need them (R286, R305 to R309, R316) -/

/-- Number of NIs of a site (Table 12.1). -/
def niCount (site : Nat) : Nat := if site < 12 then 9 else if site = 12 then 45 else 2

/-- The link behind a link NI (Table 12.1): its D2D instance. -/
def niLink (site ni : Nat) : Option Nat :=
  if site < 12 then
    if ni = 5 then some site else if ni = 6 then some (16 + 2 * site) else if ni = 7 then some (17 + 2 * site) else none
  else if site = 12 then
    if 32 ≤ ni ∧ ni < 44 then some (ni - 32) else if ni = 44 then some 48 else none
  else if ni = 1 then some 48 else none

/-- Whether an endpoint number names a block of this part. -/
def endpointUsed (s : State) (e : Nat) : Bool :=
  let site := e / 32
  let ni := e % 32
  site < 14 && populated s site && ni < niCount site && (niLink site ni).isNone

/-- Sites next to a Facet site that the part populates (R19): the twelve sites form a ring. -/
def adjacentSites (s : State) (site : Nat) : List Nat :=
  if 12 ≤ site then [] else [(site + 11) % 12, (site + 1) % 12].filter fun n => n < s.part.facets && n != site

/-- The default entry (R309): reached by ROUTE_H where the destination exists, ROUTE_N enabled toward an adjacent site. -/
def defaultEntry (s : State) (site ni e : Nat) : Word × Word :=
  let r := Config.defaultRoute (site * 64 + ni) e
  let valid := endpointUsed s e
  let nbr := (adjacentSites s site).contains (e / 32)
  (BitVec.ofNat 64 (r % 2 ^ 40 + 2 ^ 48 * valid.toNat + 2 ^ 49 * nbr.toNat), BitVec.ofNat 64 (r / 2 ^ 40 % 2 ^ 40))

/-- The installed entry. -/
def routeEntry (s : State) (site ni e : Nat) : Word × Word :=
  (s.fab.routes.get? (rtKey site ni e)).getD (defaultEntry s site ni e)

/-- STATE of a link: 0 DOWN, 1 TRAINING, 2 UP, 3 RETRAINING. -/
def linkState (s : State) (l : Nat) : Nat := rf s (Reg.D2D_STATUS l) 0 3
def linkGoto (s : State) (l st : Nat) : State := wf s (Reg.D2D_STATUS l) 0 3 st

/-- Whether a link exists on this part. -/
def linkExists (s : State) (l : Nat) : Bool := blockPresent s .d2d l

/-- The neighbour port's far site. -/
def farSiteOf (l : Nat) : Nat :=
  if l < 12 then l else if l = 48 then 13
  else
    let n := (l - 16) / 2
    if l % 2 = 0 then (n + 11) % 12 else (n + 1) % 12

/-- The neighbour link that carries data from one Facet die to another (R286): adjacent, UP, and the die agent's route entry uses it. -/
def nbrLink (s : State) (a b : Nat) : Option Nat :=
  if 12 ≤ a ∨ 12 ≤ b then none
  else [16 + 2 * a, 17 + 2 * a].find? fun l =>
    linkExists s l && farSiteOf l == b && linkState s l == 2 && bit (routeEntry s a 4 (32 * b + 4)).1 49

/-! ## Messages -/

/-- Virtual channel of a message (Table 11.3, R285). -/
def CohMsg.vc (m : CohMsg) : Nat :=
  if m.code < 0x08 then (if m.rt then 5 else 0)
  else if m.code < 0x10 then 4
  else if m.code < 0x18 then 1
  else if m.code < 0x20 then 2
  else if m.rt then 5 else 3

/-- The endpoints between which a message goes: from its holder to the home or to the requester, or from the home to the agent (Table 11.3). -/
def CohMsg.ends (m : CohMsg) : Nat × Nat :=
  let home := endpointOf .hom (sliceOf m.line)
  let far := if m.agent < 13 then agentEp m.agent else m.agent - 13
  if m.code == 0x21 then (agentEp m.src, far) else if m.code == 0x18 || m.code == 0x22 then (far, home) else (home, far)

/-- A message as it sets out, if it does: a DataFwd between adjacent Facet dies by their neighbour link, every other through the Focal die
(R286). One whose route entry has VALID 0 is not sent (R309). -/
def sentAs (s : State) (m : CohMsg) : List CohMsg :=
  if noRoute s m.ends.1 m.ends.2 then []
  else [{ m with rt := (getLn s m.agent m.line).rt, via := if m.code == 0x21 then nbrLink s m.src m.agent else none }]

/-- A message sets out (R286, R309). -/
def post (s : State) (m : CohMsg) : State := { s with coh := { s.coh with msgs := s.coh.msgs ++ sentAs s m } }

/-- The oldest message of a code that concerns an agent and a line. -/
def findMsg (s : State) (code a line : Nat) : Option CohMsg :=
  s.coh.msgs.find? fun m => m.code == code && m.agent == a && m.line == line

/-- A message has arrived. -/
def takeMsg (s : State) (m : CohMsg) : State := { s with coh := { s.coh with msgs := s.coh.msgs.erase m } }

/-- A message to an agent that carries nothing more. -/
def msg (code a line : Nat) (req : CohReq) : CohMsg :=
  { code := code, agent := a, line := line, req := req, st := .i, dirty := false, fwd := false, poison := false, errc := 0, src := 13,
    rt := false, via := none }

/-- The agent number of a requester in messages: an agent's own, 13 and more for other endpoints. -/
def CohReq.num : CohReq → Nat
  | .agent a => a
  | .ep e => 13 + e
  | .none => 13

/-- Trackers in use: active transactions and those that granted credits reserve. -/
def Slice.trackers (x : Slice) : Nat := x.txs.length + x.granted.length

/-- TRKMAX follows the trackers in use (R304). -/
def noteTrk (s : State) (h : Nat) : State :=
  wr s (Reg.HOM_TRKMAX h) (BitVec.ofNat 64 (max (rf s (Reg.HOM_TRKMAX h) 0 11) (getSl s h).trackers))

/-- An active transaction replaced. -/
def Slice.putTx (x : Slice) (t : CohTx) : Slice := { x with txs := x.txs.map fun u => if u.line == t.line then t else u }

/-! ## Transactions at the home (R283, R284, R287, R293) -/

/-- The snoops of Table 11.4: message code and agents. -/
def snoopsFor (s : State) (h : Nat) (t : CohTx) : List (Nat × Nat) :=
  let e := ((getSl s h).entry t.line).getD { line := t.line, present := 0, owner := none }
  let me := fun a => t.req == .agent a
  let live := (agentsOf (liveMask s h e.present)).filter fun a => !me a
  let owner := match e.owner with
    | some o => if me o then [] else [o]
    | none => []
  match t.kind with
  | .rdShared => owner.map fun a => (0x10, a)
  | .rdUnique | .upgrade => live.map fun a => (0x11, a)
  | .rdOnce => owner.map fun a => (0x12, a)
  | .wrFull => live.map fun a => (0x11, a)
  | .wrPartial => live.map fun a => (0x13, a)
  | .backInv => live.map fun a => (if e.owner == some a then 0x13 else 0x11, a)
  | .filterErr => ((agentsOf (liveMask s h (2 ^ 13 - 1)))).map fun a => (0x13, a)

/-- Credits in order of arrival are granted to lines that have no transaction, no granted credit and no reservation, while trackers are
free (R293). -/
def grantCredits (s : State) (h : Nat) : State :=
  (getSl s h).credits.foldl (fun u c =>
    let x := getSl u h
    if x.trackers < 1024 && (x.tx c.1).isNone && !(x.granted.any fun g => g.1 == c.1) && !(x.reserved.any fun g => g.1 == c.1) then
      post (noteTrk (setSl u h { x with credits := x.credits.erase c, granted := x.granted ++ [c] }) h) (msg 0x1B c.2.num c.1 c.2)
    else u) s

/-- Data for a requester: from DRAM to an agent, or as the answer to another endpoint. -/
def sendData (s : State) (line : Nat) (req : CohReq) : State :=
  match req with
  | .agent a => post s { msg 0x20 a line req with poison := poisoned s line }
  | .ep _ => { s with resp := if poisoned s line then .err ePOISON else .bytes (rdBytes s (64 * line) 64) }
  | .none => s

/-- The bytes of a partial write merged over a line. -/
def mergeLine (s : State) (line : Nat) (mask : Word) (l : List Byte) : State :=
  (upto 64).foldl (fun t k => if bit mask k then wrBytes t (64 * line + k) [l.getD k 0] else t) s

/-- A refusal of a partial write to a poisoned line (R299). -/
def partialRefused (s : State) (h line : Nat) : State :=
  respErr (logErr s { errRec s 4 4 .hom h with addr := 64 * line, detail := detail [BitVec.ofNat 8 h, 0xFF] }) ePOISON

/-- Every snoop of a transaction is answered: data, Comp and the filter as Table 11.4 states; a lost owner's line goes out poisoned. -/
def txFinish (s : State) (h : Nat) (t : CohTx) : State :=
  let x := getSl s h
  let e := (x.entry t.line).getD { line := t.line, present := 0, owner := none }
  let bitOf := fun (r : CohReq) => match r with | .agent a => 2 ^ a | _ => 0
  let me := bitOf t.req
  let own := match t.req with | .agent a => some a | _ => none
  let grant := fun (u : State) (st : LineSt) (data : Bool) =>
    match t.req with
    | .agent a => post u { msg 0x19 a t.line t.req with st := st, fwd := data }
    | _ => u
  let dropOwner := match e.owner with
    | some o => if t.ownerI then { e with owner := none, present := e.present - (if e.present.testBit o then 2 ^ o else 0) } else e
    | none => e
  match t.kind with
  | .rdShared =>
    let e := dropOwner
    if e.present = 0 ∧ !t.ownerI then
      grant (sendData (setSl s h (x.put { line := t.line, present := e.present ||| me, owner := own })) t.line t.req) .e true
    else
      let s := setSl s h (x.put { e with present := e.present ||| me })
      grant (if t.fwd then s else sendData s t.line t.req) .s true
  | .rdUnique =>
    let s := setSl s h (x.put { line := t.line, present := me, owner := own })
    grant (if t.fwd then s else sendData s t.line t.req) (if t.fwdDirty then .m else .e) true
  | .upgrade =>
    let s := setSl s h (x.put { line := t.line, present := me, owner := own })
    if t.withData then grant (if t.fwd then s else sendData s t.line t.req) (if t.fwdDirty then .m else .e) true
    else grant s .m false
  | .rdOnce => sendData (setSl s h (x.put dropOwner)) t.line t.req
  | .wrFull =>
    let s := dropResv (clearPoison (setSl s h (x.free t.line)) t.line) (64 * t.line) 64
    respOk (wrBytes s (64 * t.line) (padTo 64 t.bytes)) 0
  | .wrPartial =>
    let s := dropResv (setSl s h (x.free t.line)) (64 * t.line) 64
    if poisoned s t.line then partialRefused s h t.line else respOk (mergeLine s t.line t.mask t.bytes) 0
  | .backInv => setSl s h (x.free t.line)
  | .filterErr => setSl s h (x.free t.line)

/-- The writeback acknowledgements that waited for a transaction's snoops (R297). -/
def sendAcks (s : State) (t : CohTx) : State := t.acks.foldl (fun u a => post u (msg 0x1D a t.line .none)) s

/-- The entry that a new line of a full set pushes out: the earliest allocated whose line is idle (R283); `none` where the set has room. -/
def victimOf (x : Slice) (line : Nat) : Option (Option Nat) :=
  let l := x.filter.filter fun e => filtSet e.line == filtSet line
  if (x.entry line).isSome || l.length < 16 then none
  else some ((l.find? fun e => (x.tx e.line).isNone && !(x.granted.any fun g => g.1 == e.line)).map FiltE.line)

/-- Whether a kind of request needs a filter entry. -/
def needsEntry : CohKind → Bool
  | .rdShared | .rdUnique | .upgrade => true
  | _ => false

/-- The snoops of a transaction go out. -/
def sendSnoops (s : State) (h : Nat) (t : CohTx) : State × CohTx :=
  let l := snoopsFor s h t
  let t := { t with snoops := l.map Prod.snd }
  (l.foldl (fun u m => post u (msg m.1 m.2 t.line t.req)) (setSl s h ((getSl s h).putTx t)), t)

/-- A transaction closes: it leaves its tracker, the next are chosen (R287, R293). -/
def txClose (s : State) (h line : Nat) : State :=
  let x := getSl s h
  grantCredits (setSl s h { x with txs := x.txs.filter fun u => u.line != line }) h

/-- A transaction's own snoops go out; with none to wait for it ends at once. -/
def txSnoop (s : State) (h : Nat) (t : CohTx) : State :=
  let (s, t) := sendSnoops s h t
  if t.snoops.isEmpty then txClose (txFinish s h t) h t.line else s

/-- A line is back-invalidated for a transaction that needs its place (R283). -/
def backInvalidate (s : State) (h v : Nat) (t : CohTx) : State :=
  let s := countReg (setSl s h ((getSl s h).putTx { t with victim := some v })) (Reg.HOM_BACKINV h)
  let b : CohTx := { t with line := v, kind := .backInv, req := .none, victim := none, acks := [] }
  (sendSnoops (noteTrk (setSl s h { getSl s h with txs := (getSl s h).txs ++ [b] }) h) h b).1

/-- A transaction begins its flow: lookup, and in a full set the eviction of its earliest entry, then its snoops. -/
def txGo (s : State) (h : Nat) (t : CohTx) : State :=
  let s := scrubEntry s h t.line
  let x := getSl s h
  let present := match x.entry t.line, t.req with
    | some e, .agent a => e.present.testBit a
    | _, _ => false
  let t := { t with withData := t.kind != .upgrade || !present }
  match (if needsEntry t.kind then victimOf x t.line else none) with
  | some (some v) =>
    let s := scrubEntry s h v
    if ((getSl s h).entry v).isSome then backInvalidate s h v t else txSnoop s h t
  | _ => txSnoop s h t

/-- Transactions that waited for a back-invalidated line begin their flow. -/
def wakeVictims (s : State) (h v : Nat) : State :=
  ((getSl s h).txs.filter fun t => t.victim == some v).foldl (fun u t => txGo u h { t with victim := none }) s

/-- A transaction with no snoop unanswered ends; one that flushed a bad filter entry logs it and goes on with its request (R284). -/
def txStep (s : State) (h line : Nat) : State :=
  match (getSl s h).tx line with
  | none => s
  | some t =>
    if !t.snoops.isEmpty || t.victim.isSome then s
    else
      let s := sendAcks s t
      let s := txClose (txFinish s h { t with acks := [] }) h line
      if t.kind = .backInv then wakeVictims s h line else s

/-- A request is accepted into a tracker (R287); a lookup that meets an uncorrectable error flushes the line first (R284). -/
def accept (s : State) (h : Nat) (t : CohTx) (filterErr : Bool) : State :=
  let s := { s with coh := { s.coh with msgs := s.coh.msgs.filter fun m =>
    !(m.line == t.line && 13 ≤ m.agent && m.agent == t.req.num && (m.code == 0x1A || m.code == 0x1B)) } }
  let x := getSl s h
  let filterErr := filterErr || x.bad.contains t.line
  let x := { x with
    txs := x.txs ++ [t]
    granted := x.granted.erase (t.line, t.req)
    reserved := x.reserved.filter fun r => !(r.1 == t.line && t.req == .agent r.2)
    nacks := x.nacks.filter fun n => !(n.2.1 == t.line && t.req == .agent n.1) }
  let s := noteTrk (setSl s h x) h
  if filterErr then
    let s := badEntryLog s h t.line
    let live := agentsOf (liveMask s h (2 ^ 13 - 1))
    let t := { t with snoops := live, kind := .filterErr, resume := t.kind, victim := none }
    let s := setSl s h (((getSl s h).free t.line).putTx t)
    live.foldl (fun u a => post u (msg 0x13 a t.line t.req)) s
  else txGo s h t

/-- Whether a requester's link runs revision 1 (R294, R321). -/
def revA (s : State) : CohReq → Bool
  | .agent a => a < 12 && rf s (Reg.D2D_STATUS a) 4 2 == 1
  | _ => false

/-- A request that is not accepted: Nack on a revision-A link, with the reservation of R296, else Retry with a credit (R292, R294). -/
def turnAway (s : State) (h line : Nat) (req : CohReq) : State :=
  let x := getSl s h
  match req with
  | .agent a =>
    if revA s req then
      let n := ((x.nacks.find? fun k => k.1 == a && k.2.1 == line).map fun k => k.2.2).getD 0 + 1
      let x := { x with nacks := (a, line, n) :: x.nacks.filter fun k => !(k.1 == a && k.2.1 == line) }
      let s := countReg (post (setSl s h x) (msg 0x1C a line req)) (Reg.HOM_NACK h)
      if max 1 (rf s (Reg.HOM_CTL h) 16 8) ≤ n && !(x.reserved.any fun r => r.1 == line) then
        raiseCond (countReg (setSl s h { x with reserved := x.reserved ++ [(line, a)] }) (Reg.HOM_STARVE h)) .hom h 0 2
      else s
    else
      countReg (post (setSl s h { x with credits := x.credits ++ [(line, req)] }) (msg 0x1A a line req)) (Reg.HOM_RETRY h)
  | _ => countReg (post (setSl s h { x with credits := x.credits ++ [(line, req)] }) (msg 0x1A req.num line req)) (Reg.HOM_RETRY h)

/-- The endpoint a request comes from (Table 12.1): a die's agent, the hub cores, or another. -/
def reqEp : CohReq → Nat
  | .agent a => agentEp a
  | .ep e => e
  | .none => endpointOf .hom 0

/-- Transaction tags in use at a requester's die (R292): requests of its agent that have no Comp yet, and for the Focal die those of every
other endpoint that are active or hold a credit. -/
def tagsUsed (s : State) (a : Nat) : Nat :=
  let own := (s.coh.lines.filter fun e => e.1 / 2 ^ 42 == a && e.2.req.isSome).length
  let isEp := fun (r : CohReq) => match r with | .ep _ => true | _ => false
  if a < 12 then own
  else own + sumNat (s.coh.slices.map fun e =>
    (e.2.txs.filter fun t => isEp t.req).length + ((e.2.credits ++ e.2.granted).filter fun g => isEp g.2).length)

/-- Whether a requester has a transaction tag for one more request (R292): 2,048 for each Facet die, 4,096 for the Focal agents. -/
def tagFree (s : State) : CohReq → Bool
  | .agent a => if a < 12 then tagsUsed s a < 2048 else tagsUsed s 12 < 4096
  | _ => tagsUsed s 12 < 4096

/-- A request refused with ErrResp: its consecutive Nacks end with it. -/
def errResp (s : State) (h : Nat) (t : CohTx) (e : Nat) : State :=
  match t.req with
  | .agent a =>
    let x := getSl s h
    let s := if e = eNOROUTE then logErr s { errRec s 2 1 .fab 12 with initiator := agentEp a, addr := 64 * t.line } else s
    post (setSl s h { x with nacks := x.nacks.filter fun k => !(k.1 == a && k.2.1 == t.line) }) { msg 0x1E a t.line t.req with errc := e }
  | .ep k => respErr (logErr s { errRec s 1 e .fab 12 with initiator := k, addr := 64 * t.line }) e
  | .none => s

/-- A request reaches its home (R287, R292, R296): refused with ErrResp where its line does not exist or cannot be served, else accepted or
turned away. -/
def homeRequest (s : State) (t : CohTx) (filterErr : Bool) : State :=
  let h := sliceOf t.line
  let x := getSl s h
  let bad := if areaOf (64 * t.line) ≠ .dram then some eRANGE
    else if noRoute s (reqEp t.req) (endpointOf .hom h) then some eNOROUTE
    else memErr s (64 * t.line) false
  if x.granted.contains (t.line, t.req) then accept s h t filterErr
  else match bad with
  | some e => errResp s h t e
  | none =>
    if (x.tx t.line).isSome || (x.granted.any fun g => g.1 == t.line) ||
        1024 ≤ x.trackers + (needsEntry t.kind && (victimOf x t.line).isSome).toNat ||
        (x.reserved.any fun r => r.1 == t.line && t.req != .agent r.2) ||
        (needsEntry t.kind && victimOf x t.line == some none) then turnAway s h t.line t.req
    else accept s h t filterErr

/-- A transaction as a request begins it. -/
def newTx (line : Nat) (kind : CohKind) (req : CohReq) : CohTx :=
  { line := line, kind := kind, resume := kind, req := req, snoops := [], fwd := false, fwdDirty := false, ownerI := false, withData := true,
    lost := false, acks := [], victim := none, mask := 0, bytes := [] }

/-- Whether an agent may send a request now: none of its own is unanswered for the line, unless it may reissue it; the line is not on its way
out; and its state calls for it. -/
def mayAsk (x : AgLine) (kind : CohKind) : Bool :=
  x.wb.isNone &&
    match x.req with
    | some k => k == kind && x.phase == .reissue
    | none => if kind == .upgrade then x.st == .s || x.st == .o else x.st == .i

/-- A caching agent's request reaches the home. -/
def agentRequest (s : State) (a line : Nat) (kind : CohKind) (filterErr : Bool) : State :=
  let x := getLn s a line
  if !agentOn s a || !mayAsk x kind || (x.req.isNone && !tagFree s (.agent a)) then s
  else homeRequest (setLn s a line { x with
      req := some kind, phase := .sent, data := false, dpoison := false, comp := none, nacks := if x.req.isNone then 0 else x.nacks })
    (newTx line kind (.agent a)) filterErr

/-- A request of an endpoint that is no caching agent: one that holds a granted credit is reissued, another needs a tag (R292). -/
def epRequest (s : State) (t : CohTx) : State :=
  if (getSl s (sliceOf t.line)).granted.contains (t.line, t.req) || tagFree s t.req then homeRequest s t false else s

/-- RDSHARED (R287). -/
def execRdshared (a : Fin 13) (line : BitVec 42) (filterErr : Bool) (s : State) : Out :=
  ok (agentRequest s a line.toNat .rdShared filterErr)

/-- RDUNIQUE (R287). -/
def execRdunique (a : Fin 13) (line : BitVec 42) (s : State) : Out := ok (agentRequest s a line.toNat .rdUnique false)

/-- UPGRADE (R287). -/
def execUpgrade (a : Fin 13) (line : BitVec 42) (s : State) : Out := ok (agentRequest s a line.toNat .upgrade false)

/-- RDONCE (R287). -/
def execRdonce (ep : BitVec 9) (line : BitVec 42) (s : State) : Out :=
  ok (epRequest s (newTx line.toNat .rdOnce (.ep ep.toNat)))

/-- WRFULL (R289, R299). -/
def execWrfull (ep : BitVec 9) (line : BitVec 42) (data : List Byte) (s : State) : Out :=
  ok (epRequest s { newTx line.toNat .wrFull (.ep ep.toNat) with bytes := data })

/-- WRPARTIAL (R289, R293, R299): to a poisoned line it is refused; one reissued with its granted credit is accepted first. -/
def execWrpartial (ep : BitVec 9) (line : BitVec 42) (mask : Word) (data : List Byte) (s : State) : Out :=
  let x := getSl s (sliceOf line.toNat)
  ok (if poisoned s line.toNat && !x.granted.contains (line.toNat, .ep ep.toNat) then partialRefused s (sliceOf line.toNat) line.toNat
    else epRequest s { newTx line.toNat .wrPartial (.ep ep.toNat) with bytes := data, mask := mask })

/-! ## Writebacks (R290, R297, R298) -/

/-- Writeback credits in use by an agent at a slice. -/
def wbUsed (s : State) (a h : Nat) : Nat :=
  (s.coh.lines.filter fun e => e.1 / 2 ^ 42 == a && sliceOf (e.1 % 2 ^ 42) == h && e.2.wb.isSome).length

/-- Whether a snoop of the home to an agent for a line is unanswered: on its way, waiting at the agent, or its answer not yet arrived. -/
def snoopPending (s : State) (a line : Nat) : Bool :=
  !(getLn s a line).waiting.isEmpty ||
    s.coh.msgs.any fun m => m.agent == a && m.line == line && [0x10, 0x11, 0x12, 0x13, 0x18, 0x22].contains m.code

/-- An entry with an uncorrectable error that a writeback or the scan meets is flushed from every agent and freed (R284), in a tracker of its
own, for which it waits (R282). -/
def flushBad (s : State) (h line : Nat) : State :=
  if !(getSl s h).bad.contains line || ((getSl s h).tx line).isSome || 1024 ≤ (getSl s h).trackers then s
  else
    let s := badEntryLog s h line
    let live := agentsOf (liveMask s h (2 ^ 13 - 1))
    let x := (getSl s h).free line
    let s := noteTrk (setSl s h { x with txs := x.txs ++ [{ newTx line .backInv .none with snoops := live }] }) h
    live.foldl (fun u a => post u (msg 0x13 a line .none)) s

/-- The home absorbs a writeback: with no transaction active the agent leaves the filter; WbAck waits for every snoop of the home to that
agent (R290, R297). DESIGN CHOICE: while a transaction is active, of which R290 does not speak, the agent leaves the filter at once where
the transaction does not snoop it, and with its answer where it does (log entry 115). -/
def absorb (s : State) (a line : Nat) : State :=
  let h := sliceOf line
  let s := flushBad s h line
  let x := getSl s h
  let gone := setSl s h (x.leave a line)
  match x.tx line with
  | some t =>
    if t.snoops.contains a then setSl s h (x.putTx { t with acks := t.acks ++ [a] })
    else if snoopPending s a line then gone else post gone (msg 0x1D a line .none)
  | none => if snoopPending s a line then gone else post gone (msg 0x1D a line .none)

/-- Whether an L1I of an agent holds a line locked: its L2 never evicts it (R273). -/
def lockedLine (s : State) (a line : Nat) : Bool :=
  s.cores.any fun e => agentOfCore e.1 == a && e.2.l1i.any fun x => x.2.locked && x.2.valid && x.2.line == line

/-- An agent evicts a line it holds, with a writeback credit: it leaves the caches of the die. -/
def evictLine (s : State) (a line : Nat) (dirty : Bool) : State :=
  let x := getLn s a line
  let holds := if dirty then x.st == .m || x.st == .o else x.st == .e || x.st == .s
  if !agentOn s a || !holds || x.req.isSome || x.wb.isSome || lockedLine s a line || 16 ≤ wbUsed s a (sliceOf line) then s
  else absorb (setLn (leaveAgent s a line) a line { x with st := .i, wb := some x.st }) a line

/-- WBDATA (R290). -/
def execWbdata (a : Fin 13) (line : BitVec 42) (s : State) : Out := ok (evictLine s a line.toNat true)

/-- EVICT (R290). -/
def execEvict (a : Fin 13) (line : BitVec 42) (s : State) : Out := ok (evictLine s a line.toNat false)

/-- WBACK (R290): the buffer entry is freed and the credit returns. -/
def execWback (a : Fin 13) (line : BitVec 42) (s : State) : Out :=
  ok (match findMsg s 0x1D a line.toNat with
    | none => s
    | some m => setLn (takeMsg s m) a line.toNat { getLn s a line.toNat with wb := none })

/-! ## Snoops at a holder (Table 11.5, R291, R297) -/

/-- A snoop is answered, from the cache or from the writeback buffer (R297). -/
def answerSnoop (s : State) (m : CohMsg) : State :=
  let x := getLn s m.agent m.line
  let st := x.wb.getD x.st
  let (fwd, dirty, back, fin) := snoopAnswer m.code st
  let fin := match x.wb with
    | some .m | some .o => .i
    | _ => fin
  let s := setLn s m.agent m.line (if x.wb.isSome then { x with wb := some fin } else { x with st := fin })
  let s := if fin = .i then leaveAgent s m.agent m.line else s
  let s := match fwd, m.req with
    | some f, .agent b => post s { msg 0x21 b m.line m.req with st := f, dirty := dirty, poison := poisoned s m.line, src := m.agent }
    | _, _ => s
  post s { msg (if back then 0x22 else 0x18) m.agent m.line m.req with
    st := fin, dirty := dirty, fwd := fwd.isSome, poison := poisoned s m.line }

/-- Whether a snoop waits at an agent (R291): its hold window runs, or a grant is on its way to it. -/
def snoopWaits (s : State) (a line : Nat) : Bool :=
  let x := getLn s a line
  8 * s.time < x.hold || (x.req.isSome && (x.comp.isSome || x.data || (findMsg s 0x19 a line).isSome))

/-- A snoop arrives at an agent. -/
def snoopRun (s : State) (code a line : Nat) : State :=
  match findMsg s code a line with
  | none => s
  | some m =>
    let s := takeMsg s m
    if snoopWaits s a line then
      let x := getLn s a line
      setLn s a line { x with waiting := x.waiting ++ [m] }
    else answerSnoop s m

/-- SNPSHARED (R287). -/
def execSnpshared (a : Fin 13) (line : BitVec 42) (s : State) : Out := ok (snoopRun s 0x10 a line.toNat)

/-- SNPINV (R287). -/
def execSnpinv (a : Fin 13) (line : BitVec 42) (s : State) : Out := ok (snoopRun s 0x11 a line.toNat)

/-- SNPONCE (R287). -/
def execSnponce (a : Fin 13) (line : BitVec 42) (s : State) : Out := ok (snoopRun s 0x12 a line.toNat)

/-- SNPFLUSH (R287). -/
def execSnpflush (a : Fin 13) (line : BitVec 42) (s : State) : Out := ok (snoopRun s 0x13 a line.toNat)

/-- HOLD_WINDOW_END (R291): the snoops that wait are answered. -/
def execHoldWindowEnd (a : Fin 13) (line : BitVec 42) (s : State) : Out :=
  let x := getLn s a line.toNat
  ok (if 8 * s.time < x.hold || x.req.isSome then s
    else x.waiting.foldl answerSnoop (setLn s a line.toNat { x with waiting := [] }))

/-! ## Snoop responses at the home (R287, R297) -/

/-- The request that goes on once its filter entry is flushed. -/
def afterFlush (t : CohTx) : CohTx := { t with kind := t.resume }

/-- The WbAck of a writeback that waited for its agent's snoop when the transaction was discarded (R297, R300). -/
def lateAck (s : State) (a line : Nat) : State :=
  if (getLn s a line).wb.isSome && (findMsg s 0x1D a line).isNone then post s (msg 0x1D a line .none) else s

/-- A response that belongs to no transaction only clears the filter: its requester's die is lost. -/
def strayResp (s : State) (m : CohMsg) : State :=
  let h := sliceOf m.line
  let s := if snoopPending s m.agent m.line then s else lateAck s m.agent m.line
  if m.st = .i then setSl s h ((getSl s h).leave m.agent m.line) else s

/-- A snoop response is taken in; the last one lets the transaction end. One that answers for another requester belongs to a transaction
that was discarded (R300). -/
def snoopDone (s : State) (m : CohMsg) : State :=
  let h := sliceOf m.line
  let x := getSl s h
  match x.tx m.line with
  | none => strayResp s m
  | some t =>
    if m.req != t.req then strayResp s m else
    let owner := match x.entry m.line with
      | some e => e.owner == some m.agent
      | none => false
    let t' := { t with
      snoops := t.snoops.erase m.agent
      fwd := t.fwd || m.fwd
      fwdDirty := t.fwdDirty || (m.fwd && m.dirty)
      ownerI := t.ownerI || (owner && m.st == .i)
      acks := t.acks.erase m.agent }
    let s := setSl s h (x.putTx t')
    let s := if t.acks.contains m.agent then post s (msg 0x1D m.agent m.line .none) else s
    if t'.kind = .filterErr ∧ t'.snoops.isEmpty then txGo s h (afterFlush t') else txStep s h m.line

/-- SNPRESP (R287). -/
def execSnpresp (a : Fin 13) (line : BitVec 42) (s : State) : Out :=
  ok (match findMsg s 0x18 a line.toNat with
    | none => s
    | some m => snoopDone (takeMsg s m) m)

/-- SNPRESPDATA (R297). -/
def execSnprespdata (a : Fin 13) (line : BitVec 42) (s : State) : Out :=
  ok (match findMsg s 0x22 a line.toNat with
    | none => s
    | some m => snoopDone (takeMsg s m) m)

/-! ## At the requester (R288, R291 to R294) -/

/-- A request with its Comp and, where data belongs to it, its data takes the granted state; E and M open the hold window. -/
def settleLine (s : State) (a line : Nat) : State :=
  let x := getLn s a line
  match x.comp with
  | none => s
  | some (st, needs) =>
    if needs && !x.data then s
    else
      let hold := if st = .e ∨ st = .m then 8 * s.time + 5 * rf s (Reg.HOM_CTL 0) 0 9 else x.hold
      setLn s a line { x with st := st, req := none, comp := none, data := false, nacks := 0, hold := hold }

/-- COMP (R288). -/
def execComp (a : Fin 13) (line : BitVec 42) (s : State) : Out :=
  ok (match findMsg s 0x19 a line.toNat with
    | none => s
    | some m =>
      let s := takeMsg s m
      settleLine (setLn s a line.toNat { getLn s a line.toNat with comp := some (m.st, m.fwd) }) a line.toNat)

/-- Data arrives at an agent that has a request under way. -/
def dataRun (s : State) (code a line : Nat) : State :=
  match findMsg s code a line with
  | none => s
  | some m =>
    let s := takeMsg s m
    let x := getLn s a line
    if x.req.isNone then s else settleLine (setLn s a line { x with data := true, dpoison := m.poison }) a line

/-- DATA (R288). -/
def execData (a : Fin 13) (line : BitVec 42) (s : State) : Out := ok (dataRun s 0x20 a line.toNat)

/-- DATAFWD (R288). -/
def execDatafwd (a : Fin 13) (line : BitVec 42) (s : State) : Out := ok (dataRun s 0x21 a line.toNat)

/-- A reply that changes the phase of an agent's request. -/
def phaseRun (s : State) (code a line : Nat) (f : AgLine → AgLine) : State :=
  match findMsg s code a line with
  | none => s
  | some m => setLn (takeMsg s m) a line (f (getLn s a line))

/-- RETRY (R292). -/
def execRetry (a : Fin 13) (line : BitVec 42) (s : State) : Out :=
  ok (phaseRun s 0x1A a line.toNat fun x => { x with phase := .retry })

/-- CREDITGRANT (R293): the requester reissues its request. -/
def execCreditgrant (a : Fin 13) (line : BitVec 42) (s : State) : Out :=
  ok (phaseRun s 0x1B a line.toNat fun x => { x with phase := .reissue })

/-- NACK (R294): a backoff drawn from 0 to 16 × 2^min(n, 8) fabric cycles begins. -/
def execNack (a : Fin 13) (line : BitVec 42) (s : State) : Out :=
  let n := (getLn s a line.toNat).nacks + 1
  let (v, t) := takeFree s
  ok (match findMsg s 0x1C a line.toNat with
    | none => s
    | some m =>
      let u := takeMsg t m
      setLn u a line.toNat { getLn u a line.toNat with
        nacks := n, phase := .backoff (8 * s.time + 5 * (v % (16 * 2 ^ min n 8 + 1))) })

/-- NACK_BACKOFF_EXPIRY (R294). -/
def execNackBackoffExpiry (a : Fin 13) (line : BitVec 42) (s : State) : Out :=
  let x := getLn s a line.toNat
  ok (match x.phase with
    | .backoff t => if t ≤ 8 * s.time then setLn s a line.toNat { x with phase := .reissue } else s
    | _ => s)

/-- ERRRESP (R285): the request ends, refused with its ERRC. -/
def execErrresp (a : Fin 13) (line : BitVec 42) (errc : Byte) (s : State) : Out :=
  ok (match s.coh.msgs.find? fun m => m.code == 0x1E && m.agent == a.val && m.line == line.toNat && m.errc == errc.toNat with
    | none => s
    | some m =>
      let x := getLn s a line.toNat
      respErr (setLn (takeMsg s m) a line.toNat { x with req := none, comp := none, data := false, phase := .sent, nacks := 0 })
        errc.toNat)

/-! ## Loss of a die (R300 to R302) -/

/-- A transaction of a slice after a die is lost (Table 11.7): its own requests go, its unanswered snoops count as answered I; a line that the
die owned is poisoned unless its data had fully arrived. -/
def loseTx (s : State) (h n line : Nat) : State :=
  match (getSl s h).tx line with
  | none => s
  | some t =>
    if t.req = .agent n then
      let s := txClose s h line
      wakeVictims s h line
    else
      let arrived := t.acks.contains n || (t.ownerI && !t.snoops.contains n)
      let owner := ((getSl s h).entry line).any fun e => e.owner == some n
      let owned := owner && !arrived
      let s := if owned then poisonHome s h line n else s
      let waits := t.snoops.contains n
      let t := { t with snoops := t.snoops.erase n, ownerI := t.ownerI || owner, lost := t.lost || owned, acks := t.acks.erase n }
      let s := setSl s h ((getSl s h).putTx t)
      if waits then (if t.kind = .filterErr ∧ t.snoops.isEmpty then txGo s h (afterFlush t) else txStep s h line) else s

/-- A slice learns that a die is absent: its bit, DIE_LOST, the scan from set 0, its credits and requests gone. -/
def sliceLose (s : State) (h n : Nat) : State :=
  let s := wb (wb s (Reg.HOM_STATUS h) n true) (Reg.HOM_STATUS h) 14 true
  let x := getSl s h
  let mine := fun (c : Nat × CohReq) => c.2 == .agent n
  let s := setSl s h { x with
    credits := x.credits.filter fun c => !mine c
    granted := x.granted.filter fun c => !mine c
    reserved := x.reserved.filter fun r => r.2 != n
    nacks := x.nacks.filter fun k => k.1 != n
    scan := some 0 }
  let s := raiseCond s .hom h 0 1
  grantCredits ((x.txs.map CohTx.line).foldl (fun u l => loseTx u h n l) s) h

/-- Every slice learns that a die is absent (R300); what the die had sent or held is gone. -/
def homesLose (s : State) (n : Nat) : State :=
  let s := { s with coh := { s.coh with
    lines := s.coh.lines.drop fun k => k / 2 ^ 42 == n
    l2 := s.coh.l2.drop fun k => agentOfCluster (k / 32768) == n
    l3 := s.coh.l3.drop fun k => k / 262144 == n
    msgs := s.coh.msgs.filter fun m => m.agent != n && !(m.code == 0x21 && m.src == n)
    empties := s.coh.empties.filter (· != n) } }
  (upto 16).foldl (fun u h => sliceLose u h n) s

/-- HOME_LOSS_SCAN (R300): the next set of a slice's scan. -/
def execHomeLossScan (slice : Fin 16) (set : BitVec 14) (s : State) : Out :=
  let x := getSl s slice
  ok (if x.scan = some set.toNat then
    let lines := (x.filter.filter fun e => filtSet e.line == set.toNat).map FiltE.line
    let s := setSl s slice { x with scan := some (set.toNat + 1) }
    lines.foldl (fun u l => scrubEntry (flushBad u slice l) slice l) s
  else s)

/-- HOME_SCAN_DONE (R300): after the last set. -/
def execHomeScanDone (slice : Fin 16) (s : State) : Out :=
  let x := getSl s slice
  ok (if x.scan = some 16384 then
    raiseCond (wb (setSl s slice { x with scan := none }) (Reg.HOM_STATUS slice) 14 false) .hom slice 0 3
  else s)

/-- Whether a slice still scans. -/
def scanning (s : State) : Bool := (upto 16).any fun h => (getSl s h).scan.isSome

/-- HOM_TRK and HOM_SF. -/
def homTrk (s : State) (h : Nat) : Nat := (getSl s h).trackers
def homSf (s : State) (h : Nat) : Nat := (getSl s h).filter.length

/-- A write of HOM_CTL (R304): HOLD is held at 16 to 256, belongs to instance 0, and reads the same everywhere. The flag says it was held. -/
def homCtlEffect (s : State) (h : Nat) (v : Word) : State × Bool :=
  let hold := if h = 0 then min 256 (max 16 (fld v 0 9)) else rf s (Reg.HOM_CTL h) 0 9
  let s := wr s (Reg.HOM_CTL h) (BitVec.ofNat 64 (hold + 2 ^ 16 * fld v 16 8))
  let s := if h = 0 then (upto 16).foldl (fun u k => wf u (Reg.HOM_CTL k) 0 9 hold) s else s
  (s, h = 0 && hold != fld v 0 9)

end Sys2Proof.Machine
end

