-- ==== Sys2Proof/Machine/Mirror.lean ====
section
/-! DEFINITION. Mirror words at the home, pairs, comparator channels, the safety manager's commands and watchdog (R328 to R350). -/

namespace Sys2Proof.Machine

/-! ## Mirror words at the home slice (R329, R330) -/

/-- The ACCESS entry of a mirror access that no memory answers (R6, R259). -/
def mirErrRec (s : State) (ep a code : Nat) : ErrRec :=
  { accessAddrRec s (.agent (BitVec.ofNat 9 ep) 0) a code with part := 0xFF, source := epSource ep }

/-- MIRRD (R329): the home reads one slot; poison is answered as such. -/
def execMirrd (ep : BitVec 9) (addr : BitVec 48) (s : State) : Out :=
  ok (match agRead s ep.toNat (addr.toNat / 8 * 8) 8 with
    | .err e => respErr (logErr s (mirErrRec s ep.toNat (addr.toNat / 8 * 8) e)) e
    | .data l poison => if poison then respErr s ePOISON else respOk s (BitVec.ofNat 64 (leNat l)))

/-- A MirWr at the home (R329): a mismatch writes nothing, is answered MW_MISMATCH, logged and reported; a poisoned line is refused
and logged (R362). -/
def mirWrite (s : State) (ep a : Nat) (v : Word) : State :=
  match (if unrouted s ep a true then some eNOROUTE else memErr s a true) with
  | some e => respErr (logErr s (mirErrRec s ep a e)) e
  | none =>
    if !mirrorOk v then
      let s := logErr s { errRec s 6 4 .hom (sliceOf (lineOf a)) with initiator := ep, source := epSource ep, addr := a }
      respErr (smgReport s (Rep.plain 7)) cMW_MISMATCH
    else if poisoned s (lineOf a) then
      let ch := chanOf s a
      respErr (logErr s { errRec s 3 3 .dmc ch with
        initiator := ep, source := epSource ep, addr := a, detail := dramDetail s ch (lineOf a) 0 }) ePOISON
    else respOk (wrMem s a 8 v.toNat) 0

/-- MIRWR (R329). -/
def execMirwr (ep : BitVec 9) (addr : BitVec 48) (v : Word) (s : State) : Out :=
  ok (mirWrite s ep.toNat (addr.toNat / 8 * 8) v)

/-! ## Pairs (R333) -/

/-- Whether a pair word could be enabled: two application cores on different present sites. -/
def pairCoresOk (s : State) (v : Word) : Bool :=
  let a := fld v 0 9
  let b := fld v 9 9
  a < 384 && b < 384 && a / 32 != b / 32 && populated s (a / 32) && populated s (b / 32) &&
    !siteAbsent s (a / 32) && !siteAbsent s (b / 32)

/-- A comparator channel's EN cleared: the window closes, the rings stay (R338). -/
def mcpClose (s : State) (c : Nat) : State :=
  let s := wb s (Reg.MCPCH_CTL c) 0 false
  let s := if rf s (Reg.MCPCH_STATUS c) 0 2 = 1 then wf s (Reg.MCPCH_STATUS c) 0 2 0 else s
  { s with mcp := s.mcp.set c McpCh.reset }

/-- A write of MCP_PAIR (R333); a disabled pair names no partition (log entry 23). `none` is a refusal. -/
def pairEffect (s : State) (q : Nat) (v : Word) : Option State :=
  let v := BitVec.ofNat 64 (fld v 0 24 + (if bit v 31 then 2 ^ 31 else 0))
  let old := rd s (Reg.MCP_PAIR q)
  let names := fun (w : Word) => bit w 31 && partRunning s (fld w 18 6)
  if names old || names v then none
  else if bit v 31 && !pairCoresOk s v then none
  else
    let s' := wr s (Reg.MCP_PAIR q) v
    if fld v 0 24 != fld old 0 24 || (bit old 31 && !bit v 31) then
      let s' := orphanTargets s' fun ty n => ty == 2 && n == q
      some ((upto 256).foldl (fun t c =>
        if rb t (Reg.MCPCH_CTL c) 0 && rf t (Reg.MCPCH_CTL c) 8 8 == q then mcpClose t c else t) s')
    else some s'

/-- PAIR_WRITE (R333). -/
def execPairWrite (i : Initiator) (q : Fin 192) (v : W32) (s : State) : Out :=
  ok (regWriteOpt s i (Reg.MCP_PAIR q) (isM0 s i) fun t => pairEffect t q (w32 v))

/-! ## Comparator channels (R335 to R339) -/

def getMcp (s : State) (c : Nat) : McpCh := s.mcp.get McpCh.reset c
def setMcp (s : State) (c : Nat) (h : McpCh) : State := { s with mcp := s.mcp.set c h }

def mcpRingA (s : State) (c : Nat) : Nat := rf s (Reg.MCPCH_RINGA c) 0 13
def mcpRingB (s : State) (c : Nat) : Nat := rf s (Reg.MCPCH_RINGB c) 0 13
def mcpRingOut (s : State) (c : Nat) : Nat := rf s (Reg.MCPCH_RINGOUT c) 0 13

/-- The conditions of R335 for enabling a channel with a control word. -/
def mcpOk (s : State) (c : Nat) (ctl : Word) : Bool :=
  let q := fld ctl 8 8
  let rs := [mcpRingA s c, mcpRingB s c, mcpRingOut s c]
  pairOn s q && rs.eraseDups.length == 3 &&
    (rs.all fun r => (getRing s r).owner == pairPart s q && (getRing s r).esize == (getRing s (mcpRingA s c)).esize)

/-- A ring emptied of its visible entries. -/
def ringEmpty (s : State) (r : Nat) : State :=
  let x := getRing s r
  setRing s r { x with head := x.tail, count := 0 }

/-- The head entry of a ring is consumed without a read of its buffer. -/
def ringDrop (s : State) (r : Nat) : State :=
  let x := getRing s r
  if x.count = 0 then s else setRing s r { x with head := (x.head + 1) % x.size, count := x.count - 1 }

/-- The visible entries of a ring, oldest first. -/
def ringEntries (s : State) (r : Nat) : List (List Byte) :=
  let x := getRing s r
  (upto x.count).map fun k => match agRead s (endpointOf .qe 0) (x.slotAddr (x.head + k)) x.esize with
    | .err _ => []
    | .data l _ => l

/-- RESYNC (R338): both half rings are emptied, the window closes, the channel is IDLE; SEQ stays. -/
def mcpResyncNow (s : State) (c : Nat) : State :=
  let s := ringEmpty (ringEmpty s (mcpRingA s c)) (mcpRingB s c)
  setMcp (wf s (Reg.MCPCH_STATUS c) 0 2 0) c McpCh.reset

/-- A write of MCP_CH_CTL (R335, R338); `none` is a refusal. Halves already in the rings count as arriving when EN is set (log entry
24). -/
def mcpCtlWrite (s : State) (c : Nat) (v : Word) : Option State :=
  let old := rd s (Reg.MCPCH_CTL c)
  let new := BitVec.ofNat 64 (fld v 0 16)
  let res := fun (t : State) => if bit v 16 then mcpResyncNow t c else t
  if bit old 0 && setBit new 0 true != old then none
  else if bit new 0 && !bit old 0 then
    if !mcpOk s c new then none
    else
      let s := res (wr s (Reg.MCPCH_CTL c) new)
      some (setMcp s c { McpCh.reset with
        a := (ringEntries s (mcpRingA s c)).map (mcpHalf s c), b := (ringEntries s (mcpRingB s c)).map (mcpHalf s c) })
  else if !bit new 0 && bit old 0 then some (res (mcpClose s c))
  else some (res (wr s (Reg.MCPCH_CTL c) new))

/-- MCP_CHANNEL_ENABLE (R335). -/
def execMcpChannelEnable (i : Initiator) (ch : Fin 256) (v : W32) (s : State) : Out :=
  ok (regWriteOpt s i (Reg.MCPCH_CTL ch) (isM0 s i) fun t => mcpCtlWrite t ch (w32 v))

/-- MCP_CHANNEL_DISABLE (R338). -/
def execMcpChannelDisable (i : Initiator) (ch : Fin 256) (v : W32) (s : State) : Out :=
  ok (regWriteOpt s i (Reg.MCPCH_CTL ch) (isM0 s i) fun t => mcpCtlWrite t ch (w32 v))

/-- MCP_RESYNC (R338): a write of the held control word with RESYNC. -/
def execMcpResync (i : Initiator) (ch : Fin 256) (s : State) : Out :=
  ok (regWriteOpt s i (Reg.MCPCH_CTL ch) (isM0 s i) fun t =>
    mcpCtlWrite t ch (setBit (rd t (Reg.MCPCH_CTL ch)) 16 true))

/-- A MISMATCH or MISSING outcome (R338): its bit and KIND, FAULT, the page condition, the report that names the channel. -/
def mcpFault (s : State) (c : Nat) (missing : Bool) (kind : Nat) : State :=
  let st := rd s (Reg.MCPCH_STATUS c)
  let st := setFld (setFld (setBit st (if missing then 3 else 2) true) 4 2 kind) 0 2 2
  let s := setMcp (wr s (Reg.MCPCH_STATUS c) st) c { getMcp s c with win := none }
  let s := raiseCond s .mcp 0 (1 + c / 64) (if missing then 1 else 0)
  smgReport s { Rep.plain (if missing then 4 else 3) with chan := c }

/-- The REFTIME at which a window's deadline was reached, if it was (R337). -/
def winReached (s : State) : McpWin → Option Nat
  | .atTime t => if t ≤ s.time then some t else none
  | .atPhase _ _ _ r => r

/-- The halves absent at a deadline: 1 A, 2 B, 3 both. -/
def absentHalves (h : McpCh) (d : Nat) : Nat :=
  let out := fun (l : List McpHalf) => l.head?.elim true fun x => decide (d ≤ x.at_)
  (out h.a).toNat + 2 * (out h.b).toNat

/-- The earlier of the oldest halves. -/
def firstHalf (h : McpCh) : Option McpHalf :=
  match h.a.head?, h.b.head? with
  | some x, some y => some (if y.at_ < x.at_ then y else x)
  | some x, none | none, some x => some x
  | none, none => none

/-- A window opens at the first half where none is anchored to a source (R337). -/
def mcpOpenFirst (s : State) (c : Nat) : State :=
  let h := getMcp s c
  if rb s (Reg.MCPCH_CTL c) 2 || h.win.isSome then s else
  match firstHalf h with
  | none => s
  | some x => setMcp (wf s (Reg.MCPCH_STATUS c) 0 2 1) c { h with win := some x.win }

/-- The comparison and release of the oldest halves (R336). The window of the output after it opened at that output's first half, where one
waits (R337). -/
def mcpCompare (s : State) (c : Nat) (later : Nat) : State :=
  let h := getMcp s c
  let s := setMcp s c { h with win := none, a := h.a.tail, b := h.b.tail }
  let s := ringDrop (ringDrop (wf s (Reg.MCPCH_STATUS c) 0 2 0) (mcpRingA s c)) (mcpRingB s c)
  let bytes := fun (l : List McpHalf) => l.head?.elim [] McpHalf.bytes
  let a := bytes h.a
  let b := bytes h.b
  if a ≠ (if rb s (Reg.MCPCH_CTL c) 1 then b.map fun x => ~~~x else b) then mcpFault s c false 0
  else match hwEnq s (mcpRingOut s c) a with
    | none => mcpFault s c true 0
    | some w =>
      if (getRing w (mcpRingOut s c)).error then mcpFault w c true 0 else
      let w := wr w (Reg.MCPCH_SEQ c) (BitVec.ofNat 64 (((rd w (Reg.MCPCH_SEQ c)).toNat + 1) % 2 ^ 32))
      mcpOpenFirst (wr w (Reg.MCPCH_RELMAX c)
        (BitVec.ofNat 64 (max (rd w (Reg.MCPCH_RELMAX c)).toNat (min 0xFFFFFFFF (w.time - later))))) c

/-- The halves of an open window are matched, or found late (R336, R337). A phase deadline is judged once the nanosecond of the later half is
over. -/
def mcpMatch (s : State) (c : Nat) : State :=
  let h := getMcp s c
  match h.win, h.a.head?, h.b.head? with
  | some w, some x, some y =>
    let later := max x.at_ y.at_
    let late := fun (t : Nat) => mcpFault s c true (absentHalves h t)
    match w with
    | .atTime t => if t ≤ later then late t else mcpCompare s c later
    | .atPhase _ _ _ r =>
      if s.time ≤ later then s
      else match r with
        | some t => if t ≤ later then late t else mcpCompare s c later
        | none => mcpCompare s c later
  | _, _, _ => s

/-- Whether a channel works: enabled and not in FAULT (R338). -/
def mcpActive (s : State) (c : Nat) : Bool := rb s (Reg.MCPCH_CTL c) 0 && rf s (Reg.MCPCH_STATUS c) 0 2 != 2

/-- MCP_HALF_ARRIVAL (R336, R337). -/
def execMcpHalfArrival (ch : Fin 256) (b : Bool) (s : State) : Out :=
  ok (if mcpActive s ch && !(if b then (getMcp s ch).b else (getMcp s ch).a).isEmpty then mcpMatch (mcpOpenFirst s ch) ch
    else s)

/-- MCP_WINDOW_OPEN (R337): a TRIG assertion opens the window of an anchored channel, or makes a window still open MISSING. -/
def execMcpWindowOpen (ch : Fin 256) (s : State) : Out :=
  ok (if !mcpActive s ch then s else
    let h := getMcp s ch
    match h.trig with
    | [] => mcpOpenFirst s ch
    | (t, w) :: rest =>
      if h.win.isSome then mcpFault (setMcp s ch { h with trig := rest }) ch true (absentHalves h (t + 1))
      else mcpMatch (setMcp (wf s (Reg.MCPCH_STATUS ch) 0 2 1) ch { h with trig := rest, win := some w }) ch)

/-- MCP_DEADLINE (R337): D is reached with a half absent. -/
def execMcpDeadline (ch : Fin 256) (s : State) : Out :=
  ok (match (getMcp s ch).win with
    | none => s
    | some w =>
      match winReached s w with
      | none => s
      | some t =>
        let k := absentHalves (getMcp s ch) t
        if !mcpActive s ch || k = 0 then s else mcpFault s ch true k)

/-- The loss of a site makes every enabled channel of a pair with a core there MISSING (R339). -/
def mcpSiteLost (s : State) (site : Nat) : State :=
  (upto 256).foldl (fun t c =>
    let q := rf t (Reg.MCPCH_CTL c) 8 8
    let a := pairA t q / 32 == site
    let b := pairB t q / 32 == site
    if rb t (Reg.MCPCH_CTL c) 0 && pairOn t q && (a || b) && rf t (Reg.MCPCH_STATUS c) 0 2 != 2 then
      mcpFault t c true (a.toNat + 2 * b.toNat) else t) s

/-- Whether some core is stopped in the debug monitor. -/
def anyStopped (s : State) : Bool := s.cores.any fun e => e.2.stopped

/-- FROZEN (R350): in MAINTENANCE with SMG_FREEZE set, the watchdog holds from the moment a core is stopped in the debug monitor, until the
last is released (WD_FREEZE_RELEASE) or SMG_FREEZE is cleared. -/
def wdFreeze (s : State) : State :=
  if !(smgState s == 4 && rb s (pageReg .smg 0 0 0x020) 0) then wb s Reg.SMG_WD_STATUS 6 false
  else if anyStopped s then wb s Reg.SMG_WD_STATUS 6 true else s

/-! ## Safety manager commands (R340, R341) -/

/-- M-level code of partition 0 on a hub core (R341). -/
def isHubM0 (s : State) : Initiator → Bool
  | .core c => decide (384 ≤ c.val) && isM0 s (.core c)
  | _ => false

/-- A command word written to SMG_CMD: refused (`none`) where Table 13.1 does not allow it; an accepted one is what CMD reads. -/
def smgCommand (s : State) (code react : Nat) : Option State :=
  let st := smgState s
  let go := fun (t : State) => some (wr t Reg.SMG_CMD (mirrorOf (code + 2 ^ 8 * react)))
  match code with
  | 1 =>
    if st = 0 ∧ rb s Reg.SMG_WD_CTL 0 ∧ 1 ≤ (rd s Reg.SMG_WD_SEQ).toNat ∧ rd s Reg.SMG_REPORT = 0 then go (smgGoto s 1)
    else none
  | 2 =>
    let rep := rd s Reg.SMG_REPORT
    let grave := ((upto 8).any fun k => bit rep k && rf s Reg.SMG_REACT (2 * k) 2 != 0) || (bit rep 8 && s.smg.swSev != 0)
    if st = 2 ∧ ¬ grave then go (smgGoto s 1) else none
  | 3 => if st = 3 then none else go (smgSafe s 0x10)
  | 4 => if st = 0 ∧ (lcEff s = 0 ∨ lcEff s = 3) then go (wdFreeze (smgGoto s 4)) else none
  | 5 =>
    let s := { s with smg := { s.smg with swSev := max (if rb s Reg.SMG_REPORT 8 then s.smg.swSev else 0) (severity react) } }
    go (smgReportWith s (Rep.plain 8) react)
  | _ => none

/-- A command of the safety manager as an access. -/
def smgAccess (s : State) (i : Initiator) (code react : Nat) : State :=
  regWriteOpt s i Reg.SMG_CMD (isHubM0 s i) fun t => smgCommand t code react

/-- ENTER_OPERATE (R340). -/
def execEnterOperate (i : Initiator) (s : State) : Out := ok (smgAccess s i 1 0)

/-- RECOVER (R340). -/
def execRecover (i : Initiator) (s : State) : Out := ok (smgAccess s i 2 0)

/-- ENTER_SAFE (R340, R345). -/
def execEnterSafe (i : Initiator) (s : State) : Out := ok (smgAccess s i 3 0)

/-- ENTER_MAINT (R340). -/
def execEnterMaint (i : Initiator) (s : State) : Out := ok (smgAccess s i 4 0)

/-- REPORT (R341). -/
def execReport (i : Initiator) (react : BitVec 2) (s : State) : Out := ok (smgAccess s i 5 react.toNat)

/-- SAFE_TOGGLE (R344): once at each multiple of 62,500 ns of REFTIME, within 2 ns. -/
def execSafeToggle (s : State) : Out :=
  let k := (s.time + 2) / 62500
  ok (if rb s Reg.SMG_STATE 3 && (s.time + 2) % 62500 ≤ 4 && k != s.smg.edge then
    { s with smg := { s.smg with safeA := !s.smg.safeA, safeB := s.smg.safeA, edge := k } } else s)

/-! ## Watchdog (R346 to R350) -/

/-- WD_WIN fields; MAX 0 acts as 1. -/
def wdMax (s : State) : Nat := max 1 (rf s Reg.SMG_WD_WIN 0 16)
def wdMin (s : State) : Nat := rf s Reg.SMG_WD_WIN 16 16

/-- A new cycle at MAX ticks. -/
def wdCycle (s : State) : State := wr (wf s Reg.SMG_WD_STATUS 0 2 0) Reg.SMG_WD_LEFT (BitVec.ofNat 64 (wdMax s))

/-- A write of WD_CTL's value (R347); `none` is a refusal. One with ARM = 1 has the whole effect also while the watchdog is armed (log entry
25). -/
def wdCtlWrite (s : State) (v : Word) : Option State :=
  let site := fun (k : Nat) => rf s Reg.SMG_WD_SITES (4 * k) 4
  let bad := fun (n : Nat) => !(populated s n) || n == 13 || (n < 12 && siteAbsent s n)
  let armed := rb s Reg.SMG_WD_CTL 0
  let new := mirrorOf (fld v 0 2)
  if !bit v 0 then (if armed then none else some (wr s Reg.SMG_WD_CTL new))
  else if site 0 = site 1 ∨ bad (site 0) ∨ bad (site 1) then none
  else some (smgHealth (wdCycle (wr (wr s Reg.SMG_WD_CTL new) Reg.SMG_WD_SEQ 0)))

/-- WD_ARM (R347). -/
def execWdArm (i : Initiator) (v : Word) (s : State) : Out :=
  ok (regWrite s i Reg.SMG_WD_CTL true (isM0 s i) fun t =>
    if !mirrorOk v then mwMismatch t i Reg.SMG_WD_CTL
    else match wdCtlWrite t v with
      | some u => u
      | none => refuse t i Reg.SMG_WD_CTL)

/-- A service of a slot that the watchdog judges (R348): `ticks` have passed since the cycle began. A breach expires the watchdog with its
cause; causes are judged NOT_MIRROR, MISMATCH, TIMEOUT, BAD_SITE, BAD_VALUE, EARLY (log entry 25). -/
def wdJudge (s : State) (i : Initiator) (slot : Bool) (v : Word) (mirror : Bool) (ticks : Nat) : State :=
  let k := slot.toNat
  if !rb s Reg.SMG_WD_CTL 0 || rb s Reg.SMG_WD_STATUS 2 then s
  else if !mirror then wdExpire s 5
  else if !mirrorOk v then wdExpire s 6
  else if wdMax s ≤ ticks then wdExpire s 1
  else if initEp i / 32 ≠ rf s Reg.SMG_WD_SITES (4 * k) 4 then wdExpire s 4
  else if fld v 0 32 ≠ (rd s Reg.SMG_WD_SEQ).toNat ∨ rb s Reg.SMG_WD_STATUS k then wdExpire s 3
  else if ticks < wdMin s then wdExpire s 2
  else
    let s := wr (wb s Reg.SMG_WD_STATUS k true) Reg.SMG_WD_LEFT (BitVec.ofNat 64 (wdMax s - ticks))
    if rf s Reg.SMG_WD_STATUS 0 2 = 3 then
      wdCycle (wr s Reg.SMG_WD_SEQ (BitVec.ofNat 64 (((rd s Reg.SMG_WD_SEQ).toNat + 1) % 2 ^ 32)))
    else s

/-- A write of a service slot (R348). An expiry takes effect ahead of the report of the same write (R343). -/
def wdServiceNow (s : State) (i : Initiator) (slot : Bool) (v : Word) (mirror : Bool) (ticks : Nat) : State :=
  let r := if slot then Reg.SMG_WD_SVC1 else Reg.SMG_WD_SVC0
  let t := wdJudge (if mirrorOk v then wr s r v else s) i slot v mirror ticks
  if mirrorOk v then t else mwMismatch t i r

/-- WD_SERVICE (R348): the slots accept writes from every partition. -/
def execWdService (i : Initiator) (slot : Bool) (v : Word) (mirror : Bool) (ticks : Nat) (s : State) : Out :=
  let r := if slot then Reg.SMG_WD_SVC1 else Reg.SMG_WD_SVC0
  ok (if cutOff s i .smg 0 then absentAccess s i r
    else if !ready s .smg 0 then failAccess s i r cREFUSED
    else wdServiceNow (respOk s 0) i slot v mirror ticks)

/-- WD_TIMEOUT (R348): the cycle reaches MAX before both slots were served; not while frozen (R350). -/
def execWdTimeout (s : State) : Out :=
  ok (if rb s Reg.SMG_WD_CTL 0 && !rb s Reg.SMG_WD_STATUS 6 then wdExpire s 1 else s)

/-- WD_REF_LOST (R346). -/
def execWdRefLost (s : State) : Out := ok (if rb s Reg.SMG_WD_CTL 0 then wdExpire s 7 else s)

/-- WD_FREEZE_RELEASE (R350): the last stopped core has been released; a new cycle starts, WD_SEQ stays. -/
def execWdFreezeRelease (s : State) : Out :=
  ok (if rb s Reg.SMG_WD_STATUS 6 && !anyStopped s then wdCycle (wb s Reg.SMG_WD_STATUS 6 false) else s)

end Sys2Proof.Machine
end

