-- ==== Sys2Proof/Machine/Link.lean ====
section
/-! DEFINITION. The on-package network, the die links, loss and return of a die, identity fuses (R305 to R327). -/

namespace Sys2Proof.Machine

/-! ## Route tables (R305 to R309) -/

/-- Selectors of a route word: those it uses, in order. -/
def selectors (w : Word) : List Nat := (upto (min 12 (fld w 36 4))).map fun k => fld w (3 * k) 3

/-- Router mesh of a site: width and height. -/
def meshOf (site : Nat) : Nat × Nat := if site < 12 then (4, 3) else if site = 12 then (6, 6) else (1, 1)

/-- Routers that a route passes, each with the selector it takes there; north is the row above. -/
def routePath (w : Nat) : Nat → List Nat → List (Nat × Nat)
  | _, [] => []
  | r, k :: rest =>
    let next := match k with | 0 => r - w | 1 => r + 1 | 2 => r + w | _ => r - 1
    (r, k) :: (if k < 4 then routePath w next rest else [])

/-- Paths of an installed entry: ROUTE_H, and ROUTE_N when NBR_EN is 1 (R314). -/
def entryPaths (s : State) (site ni e : Nat) : List (Nat × Nat) :=
  let v := routeEntry s site ni e
  let w := (meshOf site).1
  let r := Config.niRouter site ni
  routePath w r (selectors v.1) ++ (if bit v.1 49 then routePath w r (selectors v.2) else [])

/-- PORT_EN bit that a selector needs: N, E, S, W, die link, NIs. -/
def portBit (sel : Nat) : Nat := if sel < 4 then sel else if sel = 5 ∨ sel = 6 then 4 else 5

/-- Whether an entry is HELD (R308, R314). -/
def entryHeld (s : State) (site ni e : Nat) : Bool :=
  (s.fab.commits.get? (rtKey site ni e)).isSome ||
    match s.fab.rcfg.get? site with
    | some (router, _) => (entryPaths s site ni e).any fun p => p.1 == router
    | none => false

/-- Whether a committed entry is acceptable (R307). -/
def routeOk (w0 w1 : Word) : Bool :=
  let hops := fld w0 36 4
  let h := selectors w0
  let n := selectors w1
  let ends := fun (l : List Nat) => match l.getLast? with | some k => 4 ≤ k | none => false
  1 ≤ hops && hops ≤ 12 && !h.contains 6 && ends h &&
    (if bit w0 49 then fld w1 36 4 ≤ 12 && n.getLast? == some 6 && n.count 6 == 1 else n.isEmpty || ends n)

/-- A write of FAB_RT_W0 commits the selected entry (R307, R308); `none` is a refusal. -/
def routeCommitEffect (s : State) (site : Nat) (v : Word) : Option State :=
  let sel := rd s (Reg.FAB_RT_SEL site)
  let ni := fld sel 0 6
  let e := fld sel 8 9
  if niCount site ≤ ni then some s
  else
    let w0 := BitVec.ofNat 64 (fld v 0 40 + 2 ^ 48 * fld v 48 2)
    let w1 := BitVec.ofNat 64 (rf s (Reg.FAB_RT_W1 site) 0 40)
    if entryHeld s site ni e || !routeOk w0 w1 then none
    else some { s with fab := { s.fab with commits := s.fab.commits.set (rtKey site ni e) (w0, w1) } }

/-- ROUTE_COMMIT (R308). -/
def execRouteCommit (i : Initiator) (site : Fin 14) (v : Word) (s : State) : Out :=
  ok (regWriteOpt s i (Reg.FAB_RT_W0 site) (isM0 s i) fun t => routeCommitEffect t site v)

/-- RT_W0 and RT_W1 as a read shows them: the installed entry, with HELD. -/
def routeRead (s : State) (site : Nat) : Word × Word :=
  let sel := rd s (Reg.FAB_RT_SEL site)
  let ni := fld sel 0 6
  let e := fld sel 8 9
  if niCount site ≤ ni then (0, 0)
  else
    let v := routeEntry s site ni e
    (setFld v.1 50 1 (entryHeld s site ni e).toNat, v.2)

/-! ## Router reconfiguration (R314) -/

/-- Whether a VALID entry of the die routes through a port that a new PORT_EN disables. -/
def portInUse_ (s : State) (site router portEn : Nat) : Bool :=
  (upto (niCount site)).any fun ni => (upto 512).any fun e =>
    bit (routeEntry s site ni e).1 48 && (entryPaths s site ni e).any fun p => p.1 == router && !portEn.testBit (portBit p.2)

/-- A write of FAB_RCFG; `none` is a refusal. -/
def rcfgEffect (s : State) (site : Nat) (v : Word) : Option State :=
  let router := fld v 0 6
  let pe := fld v 6 6
  if !bit v 31 then some (wr s (Reg.FAB_RCFG site) (BitVec.ofNat 64 (fld v 0 12)))
  else if (s.fab.rcfg.get? site).isSome || portInUse_ s site router pe then none
  else
    let s := wr s (Reg.FAB_RCFG site) (BitVec.ofNat 64 (fld v 0 12))
    some { s with fab := { s.fab with rcfg := s.fab.rcfg.set site (router, pe) } }

/-- ROUTER_RECONFIG (R314). -/
def execRouterReconfig (i : Initiator) (site : Fin 14) (v : W32) (s : State) : Out :=
  ok (regWriteOpt s i (Reg.FAB_RCFG site) (isM0 s i) fun t => rcfgEffect t site (w32 v))

/-- Whether an entry of any NI of a site is HELD (Table 12.8). -/
def anyHeld (s : State) (site : Nat) : Bool :=
  (s.fab.commits.any fun e => e.1 / (64 * 512) == site) ||
    match s.fab.rcfg.get? site with
    | some (router, _) => (upto (niCount site)).any fun ni => (upto 512).any fun e => (entryPaths s site ni e).any fun p => p.1 == router
    | none => false

/-- FAB_STATUS as a read shows it: ABSENT, RCFG_BUSY, RT_BUSY. -/
def fabStatus (s : State) (site : Nat) : Word :=
  let busy := (s.fab.rcfg.get? site).isSome
  let held := anyHeld s site
  BitVec.ofNat 64 (rf s (Reg.FAB_STATUS 12) 0 14 + 2 ^ 16 * busy.toNat + 2 ^ 17 * held.toNat)

/-! ## Packets and statistics (R309 to R315) -/

/-- Command codes of Tables 11.3 and 12.4. -/
def cmdKnown (c : Nat) : Bool :=
  [0x01, 0x02, 0x03, 0x04, 0x05, 0x06, 0x08, 0x09, 0x10, 0x11, 0x12, 0x13, 0x18, 0x19, 0x1A, 0x1B, 0x1C, 0x1D, 0x1E, 0x20, 0x21, 0x22,
   0x30, 0x31, 0x32, 0x33, 0x34, 0x35, 0x36, 0x38, 0x3A, 0x3B, 0x3C, 0x3E].contains c

/-- A field of a header flit (Table 12.3). -/
def hdrFld (h : BitVec 256) (lo w : Nat) : Nat := (h.toNat >>> lo) % 2 ^ w

/-- Whether a packet is a request: on VC 0, or a request of a real-time line on VC 5 (R285, R312). -/
def isRequest (h : BitVec 256) : Bool :=
  hdrFld h 48 3 == 0 ||
    (hdrFld h 48 3 == 5 && [0x01, 0x02, 0x03, 0x04, 0x05, 0x06, 0x30, 0x31, 0x34, 0x35, 0x36].contains (hdrFld h 40 8))

/-- A request that gets an error response is answered: its entry waits for it no longer. -/
def refused (s : State) (h : BitVec 256) : State :=
  { s with fab := { s.fab with
    outs := s.fab.outs.filter fun o => !(hdrFld o.2.1 55 9 == hdrFld h 55 9 && hdrFld o.2.1 68 12 == hdrFld h 68 12) } }

/-- A packet is discarded as a route error (R309): counted, logged, ROUTE_ERR raised; the source of a request receives NOROUTE. -/
def routeError (s : State) (site : Nat) (h : BitVec 256) : State :=
  let s := logErr (countReg s (Reg.FAB_ROUTE_ERR site)) { errRec s 2 1 .fab site with
    part := hdrFld h 80 6, source := hdrFld h 86 2, initiator := hdrFld h 55 9, addr := hdrFld h 112 48 }
  let s := raiseCond s .fab site 0 2
  if isRequest h then respErr (refused s h) eNOROUTE else s

/-- The latency bin of R315. -/
def latencyBin (cycles : Nat) : Nat := ((upto 15).find? fun k => cycles < 16 * 2 ^ k).getD 15

/-- Key of a statistics slot. -/
def statKey (site ni k : Nat) : Nat := (site * 64 + ni) * 8 + k

/-- Data bytes of a response. -/
def respBytes (h : BitVec 256) : Nat := if [0x20, 0x21, 0x32].contains (hdrFld h 40 8) then hdrFld h 92 6 + 1 else 0

/-- A completed transaction counts in the slots of its NI that match the PARTITION and LOCAL of a header (R315). -/
def statsCount (s : State) (site ni : Nat) (h : BitVec 256) (bytes cycles : Nat) : State :=
  if !rb s (Reg.FAB_CTL site) 0 then s else
  let part := hdrFld h 80 6
  let loc := hdrFld h 64 4
  let one := fun (t : Tbl StatSlot) (k : Nat) =>
    let x := t.get StatSlot.reset (statKey site ni k)
    if bit x.cfg 12 && (bit x.cfg 6 || fld x.cfg 0 6 == part) && (bit x.cfg 11 || fld x.cfg 7 4 == loc) then
      let b := latencyBin cycles
      t.set (statKey site ni k) { x with
        bytes := min (2 ^ 48 - 1) (x.bytes + bytes), txn := min (2 ^ 32 - 1) (x.txn + 1),
        bins := listSet x.bins b (min (2 ^ 32 - 1) (nth x.bins 0 b + 1)) }
    else t
  { s with fab := { s.fab with stats := (upto 8).foldl one s.fab.stats } }

/-- The unanswered request of an NI that a response belongs to, by its transaction tag (Table 12.3). -/
def outOf (s : State) (site ni : Nat) (h : BitVec 256) : Option (Nat × BitVec 256 × Option Nat) :=
  s.fab.outs.find? fun o => o.1 / 512 == site * 64 + ni && hdrFld o.2.1 68 12 == hdrFld h 68 12

/-- A completing response arrives at the NI that made the request (R308, R315). A coherent read is complete with both its Comp and its data
(R288). A response to a request that the network has not seen counts with its own header. -/
def responded (s : State) (site ni : Nat) (h : BitVec 256) (reqBytes cycles : Nat) : State :=
  match outOf s site ni h with
  | none => statsCount s site ni h (reqBytes + respBytes h) cycles
  | some o =>
    let reads := [0x01, 0x02].contains (hdrFld o.2.1 40 8) && [0x19, 0x20, 0x21].contains (hdrFld h 40 8)
    let rest := s.fab.outs.erase o
    if reads && o.2.2.isNone then { s with fab := { s.fab with outs := rest ++ [(o.1, o.2.1, some (respBytes h))] } }
    else statsCount { s with fab := { s.fab with outs := rest } } site ni o.2.1 (reqBytes + o.2.2.getD 0 + respBytes h) cycles

/-! ## Link ends (R313, R316 to R322) -/

def getLink (s : State) (l : Nat) : Link := s.links.get Link.reset l
def setLink (s : State) (l : Nat) (x : Link) : State := { s with links := s.links.set l x }

/-- The same neighbour link as the far site's page names it. -/
def farLink (l : Nat) : Nat := if l % 2 = 0 then 17 + 2 * farSiteOf l else 16 + 2 * farSiteOf l

/-- A FABRIC entry about a link (Table 2.16). -/
def linkLog (s : State) (l code : Nat) : State :=
  logErr s { errRec s 2 code .d2d l with detail := detail (leBytes 2 l ++ leBytes 1 (linkState s l)) }

/-- A request whose far die is absent is answered ABSENT, with its entry (R319, R323). -/
def requestAbsent (s : State) (h : BitVec 256) : State :=
  respErr (logErr (refused s h) { errRec s 1 eABSENT .fab 12 with
    part := hdrFld h 80 6, source := hdrFld h 86 2, initiator := hdrFld h 55 9, addr := hdrFld h 112 48,
    detail := detail (leBytes 2 (hdrFld h 112 12)) }) eABSENT

/-- What an end still holds is lost with the die behind the link: its requests are answered ABSENT (R319, R323). -/
def linkLose (s : State) (l : Nat) : State :=
  let x := getLink s l
  ((x.unacked.map Prod.snd ++ x.ahead ++ x.held).filter isRequest).foldl requestAbsent
    (setLink s l { x with unacked := [], ahead := [], held := [] })

/-- A link becomes DOWN. The die behind a hub port is absent from then on; a neighbour link's traffic goes by the hub, its unacknowledged
frames with it, and this end names in LinkRecover the last frame it delivered (R318, R319). -/
def linkFall (s : State) (l : Nat) : State :=
  if linkState s l = 0 then s
  else
    let s := linkLog (raiseCond (linkGoto s l 0) .d2d l 0 0) l 2
    let x := getLink s l
    let s := setLink s l { x with asked := none, failed := 0, recoverSeq := some ((x.expect + 1023) % 1024) }
    if l < 16 ∨ l = 48 then linkLose s l else s

/-! ## A die lost (R300, R301, R322, R323, R450) -/

/-- The block that a register key belongs to. -/
def blockOfKey (b : Nat) : Option Block := allBlocks.find? fun x => typeCode x == b

/-- Whether a register key names the semaphore array: it is reached through the pages of the host ports and lies in HUB_CORE (R403, R405). -/
def isHsemKey (k : Nat) : Bool := k / 4096 == rkey (Reg.HPAS_HSEM 0) / 4096 && 0x100 ≤ k % 4096

/-- A domain's registers back at their reset values. -/
def domRegsReset (s : State) (d : Nat) : State :=
  { s with regs := s.regs.drop fun k =>
      !isHsemKey k && match blockOfKey (k / (4096 * 1024 * 1024)) with
        | some x => domainOf x (k / (4096 * 1024) % 1024) == d
        | none => false }

/-- A Facet domain is initialised (R435, Table 18.7): registers, cores with fresh secrets, TCMs zero, Prism units, links and routes. -/
def facetInit (s : State) (d : Nat) : State :=
  let site := d / 3
  if d % 3 = 2 then
    let s := domRegsReset s d
    { s with
      coh := { s.coh with l3 := s.coh.l3.drop fun k => k / 262144 == site }
      prism := s.prism.drop fun u => u / 4 == site
      links := s.links.drop fun l => 16 ≤ l && l < 48 && (l - 16) / 2 == site
      fab := { routes := s.fab.routes.drop fun k => k / (64 * 512) == site
               commits := s.fab.commits.drop fun k => k / (64 * 512) == site
               rcfg := s.fab.rcfg.drop fun k => k == site
               ports := s.fab.ports.drop fun k => k / 64 == site
               stats := s.fab.stats.drop fun k => k / 512 == site
               waits := s.fab.waits.filter fun w => w.1 / (64 * 512) != site
               outs := s.fab.outs.filter fun o => o.1 / (64 * 512) != site } }
  else
    let cs := domainCores d
    let s := cs.foldl coreHold s
    let inDom := fun (a : Nat) => match areaOf a with
      | .core c _ => coreDomain c == d
      | _ => false
    let s := { s with
      coh := { s.coh with l2 := s.coh.l2.drop fun k => k / 32768 / 2 == site * 2 + d % 3 }
      mem := s.mem.filter fun c => !inDom c.1
      poison := s.poison.filter fun l => !inDom (64 * l)
      prefetch := s.prefetch.drop fun k => k / 4 == site && (k % 4 / 2 == d % 3)
      cores := s.cores.map fun (e : Nat × CoreSt) =>
        if coreDomain e.1 == d then (e.1, { CoreSt.reset (24832 + s.freeCtr + 64 * (e.1 % 32)) 0 with running := false }) else e }
    domRegsReset { s with freeCtr := s.freeCtr + 2048 } d

/-- A partition's fault event (R323): the bit of FAB_PFAULT, and the source that FAB_FSRC names as EVR_P_RAISE would raise it. -/
def partLost (s : State) (site p : Nat) : State :=
  if !((coresOf s p).any fun c => c < 384 && c / 32 == site) then s
  else
    let s := wb s (Reg.FAB_PFAULT 12 p) site true
    let f := rd s (Reg.FAB_FSRC 12 p)
    if bit f 15 then raiseSw s (fld f 0 10) true true else s

/-- The neighbour links of a site, from both sides. -/
def nbrLinksOf (s : State) (site : Nat) : List Nat :=
  ((upto 24).map (· + 16)).filter fun l => linkExists s l && ((l - 16) / 2 == site || farSiteOf l == site)

/-- Site `n` is marked absent (R300, R323): ABSENT, the slices, the safety report, the partitions' fault events, the cores' events, the
comparator channels, the links; its domains that are not OFF are switched off as a per-die reset does (Table 18.6). -/
def markAbsent (s : State) (n : Nat) : State :=
  if siteAbsent s n || !populated s n then s
  else
    let s := raiseCond (wb s (Reg.FAB_STATUS 12) n true) .fab 12 0 0
    let s := linkFall s n
    let s := (nbrLinksOf s n).foldl (fun t l => if farSiteOf l = n then linkLose (linkFall t l) l else linkFall t l) s
    let s := homesLose s n
    let s := (upto 64).foldl (fun t p => partLost t n p) s
    let s := mcpSiteLost s n
    let s := smgReport s (Rep.plain 6)
    let s := { s with dom := listSet (listSet (listSet s.dom (3 * n) 0) (3 * n + 1) 0) (3 * n + 2) 0 }
    [3 * n, 3 * n + 1, 3 * n + 2].foldl facetInit s

/-- DIE_ABSENT_MARK (R322, R323): the hub port is DOWN or the site's FAB domain is not ON. -/
def execDieAbsentMark (n : Fin 12) (s : State) : Out :=
  ok (if populated s n && (linkState s n == 0 || !domOn s (3 * n + 2)) then markAbsent s n else s)

/-- The pages of a link: a neighbour link has one at either end (R327). -/
def linkEnds (l : Nat) : List Nat := if 16 ≤ l ∧ l < 48 then [l, farLink l] else [l]

/-- The code store die becomes absent (R320). -/
def storeAbsent (s : State) : State :=
  if siteAbsent s 13 then s else raiseCond (wb s (Reg.FAB_STATUS 12) 13 true) .fab 12 0 0

/-- A link goes DOWN; the die behind a hub port or the code store port becomes absent (R318, R320). DEDUCED: the code store die is absent
while its only link is DOWN, however that came about, and present again when the link is UP (log entry 119). -/
def linkDown (s : State) (l : Nat) : State :=
  let s := (linkEnds l).foldl linkFall s
  if l < 12 then markAbsent s l else if l = 48 then storeAbsent s else s

/-! ## Frames (R316, R317) -/

/-- The REPLAY request is sent, or repeated (R317). -/
def linkAsk (s : State) (l : Nat) : State :=
  let x := getLink s l
  countReg (setLink s l { x with asked := some (x.asked.getD 0 + 1) }) (Reg.D2D_REPLAY l)

/-- A retrain of one end of a link that is UP (R318): the replay buffer is kept. -/
def retrainEnd (s : State) (l : Nat) : State :=
  if linkState s l < 2 then s
  else
    let s := raiseCond (countReg (linkGoto s l 3) (Reg.D2D_RETRAINS l)) .d2d l 0 2
    linkLog (setLink s l { getLink s l with asked := none, good := s.time }) l 2

/-- A retrain of a link, at both its ends. -/
def linkRetrain (s : State) (l : Nat) : State := (linkEnds l).foldl retrainEnd s

/-- One end of a link that is DOWN starts to train (R320). What a neighbour port still holds stays for the switch-over (R21, R319). -/
def trainEnd (s : State) (l : Nat) : State :=
  if linkState s l ≠ 0 || rb s (Reg.D2D_CTL l) 1 then s
  else
    let x := getLink s l
    setLink (linkGoto s l 1) l { (if 16 ≤ l ∧ l < 48 then x else Link.reset) with asked := none, failed := 0, good := s.time }

/-- Frames up to an acknowledged SEQ leave the replay buffer. -/
def linkAck (x : Link) (seq : Nat) : Link :=
  if x.unacked.any fun f => f.1 == seq then { x with unacked := (x.unacked.dropWhile fun f => f.1 != seq).drop 1 } else x

/-- The sender resends from a SEQ: those before it have arrived. -/
def linkFrom (x : Link) (seq : Nat) : Link :=
  if x.unacked.any fun f => f.1 == seq then { x with unacked := x.unacked.dropWhile fun f => f.1 != seq } else x

/-- A frame enters the replay buffer and sets out. -/
def linkPut (now : Nat) (x : Link) (h : BitVec 256) : Link :=
  { x with unacked := x.unacked ++ [(x.next, h)], next := (x.next + 1) % 1024, sentAt := now }

/-- The VC that sends next of those that packets wait on (R313): real-time, but one turn in four for the others, and those in round robin. -/
def nextVc (x : Link) : Option Nat :=
  let waits := fun (v : Nat) => x.held.any fun h => hdrFld h 48 3 == v
  let other := ((upto 7).map fun k => (x.vcTurn + 1 + k) % 8).find? fun v => v != 5 && waits v
  if waits 5 && (x.rtRun < 3 || other.isNone) then some 5 else other.orElse fun _ => if waits x.vcTurn then some x.vcTurn else none

/-- The packet that leaves next: of the VC whose turn it is the highest QOS, then the oldest (R313). -/
def nextHeld (x : Link) : Option (Nat × BitVec 256) :=
  (nextVc x).bind fun v =>
    let l := x.held.filter fun h => hdrFld h 48 3 == v
    let top := (l.map fun h => hdrFld h 88 4).foldl max 0
    (l.find? fun h => hdrFld h 88 4 == top).map fun h => (v, h)

/-- One packet enters the replay buffer: of those that a switch-over put first in their order, else as the arbitration says. -/
def pumpOne (now : Nat) (x : Link) : Link :=
  match x.ahead with
  | h :: l => linkPut now { x with ahead := l } h
  | [] =>
    match nextHeld x with
    | none => x
    | some (v, h) =>
      linkPut now { x with
        held := x.held.erase h
        rtRun := if v = 5 then x.rtRun + 1 else 0
        vcTurn := if v = 5 then x.vcTurn else v } h

/-- Packets that are held enter the replay buffer of an UP link while it has room (R313, R317, R318). -/
def linkPump (s : State) (l : Nat) : State :=
  let x := getLink s l
  if linkState s l ≠ 2 then s
  else setLink s l ((upto (min (256 - x.unacked.length) (x.ahead.length + x.held.length))).foldl (fun y _ => pumpOne s.time y) x)

/-- Bytes of a 256-bit payload. -/
def payByte (p : BitVec 256) (k : Nat) : Nat := (p.toNat >>> (8 * k)) % 256

/-- A die reports its caches empty (R302, R324). -/
def dieEmptyRun (s : State) (n : Nat) : State :=
  if n < 12 ∧ !s.coh.empties.contains n then { s with coh := { s.coh with empties := n :: s.coh.empties } } else s

/-- A control frame (R316). -/
def controlFrame (s : State) (l : Nat) (p : BitVec 256) : State :=
  match payByte p 0 with
  | 2 => setLink s l (linkFrom (getLink s l) ((payByte p 2 + 256 * payByte p 3) % 1024))
  | 3 => setLink s l { getLink s l with credits := (upto 6).map fun k => payByte p (4 + 2 * k) + 256 * payByte p (5 + 2 * k) }
  | 6 => if l < 12 then dieEmptyRun s l else s
  | _ => s

/-- CRC-6 with polynomial x^6 + x + 1 over a number's low `n` bits, highest bit first, from 0 (log entry 29). -/
def crc6 (x : Nat) : Nat → Nat → Nat
  | 0, c => c
  | n + 1, c => crc6 x n ((2 * c % 64) ^^^ (if Nat.testBit c 5 != x.testBit n then 3 else 0))

/-- Whether a link word's CRC holds (Table 12.5). -/
def linkCrcOk (w : Word) : Bool := fld w 26 6 == crc6 (fld w 0 26) 26 0

/-- A frame arrives at a link end: discarded, a control frame, or a flit in or out of its turn (R316, R317). A frame whose CRC holds is a
heartbeat whatever becomes of its flit (R322). -/
def linkFrame (s : State) (l : Nat) (w : Word) (p : BitVec 256) (corrected : Nat) (uncorr : Bool) : State :=
  let ask := fun (t : State) => if (getLink t l).asked.isSome then t else linkAsk t l
  if !linkCrcOk w then ask s
  else
    let x := { getLink s l with good := s.time }
    if uncorr || 2 < corrected then ask (setLink s l x) else
    let s := if 0 < corrected then countReg s (Reg.D2D_CORR l) else s
    let x := linkAck x (fld w 16 10)
    let s := linkPump (setLink s l x) l
    if bit w 3 then controlFrame s l p
    else if fld w 6 10 = x.expect then setLink s l { getLink s l with expect := (x.expect + 1) % 1024, asked := none }
    else if x.asked.isSome then s
    else linkAsk s l

/-- LINK_FRAME_RECEIVE (R317). -/
def execLinkFrameReceive (l : Fin 49) (word : W32) (payload : BitVec 256) (corrected : Nat) (uncorr : Bool) (s : State) : Out :=
  ok (if linkExists s l && linkState s l != 0 then linkFrame s l (w32 word) payload corrected uncorr else s)

/-- LINK_REPLAY_REQUEST (R317). -/
def execLinkReplayRequest (l : Fin 49) (seq : BitVec 10) (s : State) : Out :=
  ok (if linkExists s l && linkState s l != 0 then
    linkPump (setLink s l { linkFrom (getLink s l) seq.toNat with good := s.time, sentAt := s.time }) l else s)

/-- LINK_REPLAY_TIMEOUT (R317, R318): REPLAY is repeated; after 8 requests the link retrains. -/
def execLinkReplayTimeout (l : Fin 49) (s : State) : Out :=
  ok (if !linkExists s l || linkState s l != 2 then s else
    let x := getLink s l
    match x.asked with
    | none => s
    | some n =>
      if n < 8 then linkAsk s l else linkRetrain s l)

/-- LINK_CREDIT (R316): cumulative counts per VC. -/
def execLinkCredit (l : Fin 49) (counts : List (BitVec 16)) (s : State) : Out :=
  ok (if linkExists s l && linkState s l != 0 then
    setLink s l { getLink s l with good := s.time, credits := (upto 6).map fun k => (counts.getD k 0).toNat } else s)

/-- A packet leaves by a die link: it waits for room in the replay buffer and for the link to be UP. A hub port that is DOWN has no die
behind it, so a request is answered ABSENT (R318, R323). -/
def linkSend (s : State) (l : Nat) (h : BitVec 256) : State :=
  if linkState s l = 0 then (if isRequest h then requestAbsent s h else s)
  else linkPump (setLink s l { getLink s l with held := (getLink s l).held ++ [h] }) l

/-- The Focal die's link to the site of an endpoint, if one leads there. -/
def hubLink (dst : Nat) : Option Nat := if dst / 32 < 12 then some (dst / 32) else if dst / 32 = 13 then some 48 else none

/-- A packet goes by the hub ports: through the Focal die, and out by the link to its site. -/
def hubSend (s : State) (h : BitVec 256) : State :=
  match hubLink (hdrFld h 160 9) with
  | some l => linkSend s l h
  | none => s

/-- Whether a packet is of the two kinds that a neighbour link carries: a DataFwd, or a device packet in the global-alias range, without the
mirror flag (R19, R20, R307). -/
def nbrKind (h : BitVec 256) : Bool :=
  let cmd := hdrFld h 40 8
  let a := hdrFld h 112 48
  hdrFld h 51 1 == 0 && (cmd == 0x21 || ([0x30, 0x31, 0x32, 0x33].contains cmd && 0xF10000000000 ≤ a && a < 0xF10018400000))

/-- A packet leaves by the link behind a link NI; one that a neighbour link may not carry, or cannot because it is not UP, takes the hub
ports instead (R19 to R21, R307). -/
def sendBy (s : State) (l : Nat) (h : BitVec 256) : State :=
  if 16 ≤ l ∧ l < 48 ∧ !(nbrKind h && linkState s l == 2) then hubSend s h else linkSend s l h

/-! ## Routing of a packet (R305 to R309, R311) -/

/-- NIs attached to a router other than link NIs, in ascending order. -/
def routerNis (site r : Nat) : List Nat :=
  (upto (niCount site)).filter fun n => (niLink site n).isNone && Config.niRouter site n == r

/-- The die link at a router: its neighbour port, or the port other than a neighbour port (R306). -/
def routerLink (site r : Nat) (nbr : Bool) : Option Nat :=
  ((upto (niCount site)).filter fun n => Config.niRouter site n == r).findSome? fun n =>
    match niLink site n with
    | some l => if nbr == (16 ≤ l && l < 48 : Bool) then some l else none
    | none => none

/-- PORT_EN of a router; every port is on at reset (Table 12.8). -/
def portsOn (s : State) (site r : Nat) : Nat := s.fab.ports.get 0x3F (64 * site + r)

/-- Where a packet's route on a die ends: at a router that lacks the port or NI selected, at an NI, or at a die link. -/
inductive RouteEnd where
  | missing
  | ni (n : Nat)
  | link (l : Nat)
  deriving DecidableEq, Repr

/-- Whether a router has the port or NI that a selector names, turned on (R306, R309, R314). -/
def routerHas (s : State) (site r sel : Nat) : Bool :=
  let (w, h) := meshOf site
  (portsOn s site r).testBit (portBit sel) &&
    match sel with
    | 0 => w ≤ r
    | 1 => r % w + 1 < w
    | 2 => r + w < w * h
    | 3 => r % w != 0
    | 4 => 1 ≤ (routerNis site r).length
    | 5 => (routerLink site r false).isSome
    | 6 => (routerLink site r true).isSome
    | _ => 2 ≤ (routerNis site r).length

/-- The end of a route word followed from an NI. -/
def routeEnd (s : State) (site ni : Nat) (w : Word) : RouteEnd :=
  let path := routePath (meshOf site).1 (Config.niRouter site ni) (selectors w)
  if !path.all fun p => routerHas s site p.1 p.2 then .missing
  else match path.getLast? with
    | some (r, 4) => .ni (nth (routerNis site r) 0 0)
    | some (r, 7) => .ni (nth (routerNis site r) 0 1)
    | some (r, 5) => ((routerLink site r false).map RouteEnd.link).getD .missing
    | some (r, 6) => ((routerLink site r true).map RouteEnd.link).getD .missing
    | _ => .missing

/-- The link by which a default route leaves a die: the neighbour link to an adjacent site, or the hub ports. -/
def defaultLink (site dst : Nat) (nbr : Bool) : Option Nat :=
  if nbr then [16 + 2 * site, 17 + 2 * site].find? fun l => farSiteOf l == dst / 32
  else if site = 12 then hubLink dst
  else some (if site = 13 then 48 else site)

/-- The end of the hub route or of the neighbour route of an installed entry. A default route reaches its destination (R309). -/
def entryEnd (s : State) (site ni dst : Nat) (nbr : Bool) : RouteEnd :=
  match s.fab.routes.get? (rtKey site ni dst) with
  | some w => routeEnd s site ni (if nbr then w.2 else w.1)
  | none => if dst / 32 = site then .ni (dst % 32) else ((defaultLink site dst nbr).map RouteEnd.link).getD .missing

/-- Whether an NI sends a packet by ROUTE_N (R307): NBR_EN, the neighbour link UP, the packet of a kind that may take it. -/
def takesNbr (s : State) (site ni : Nat) (h : BitVec 256) : Bool :=
  let dst := hdrFld h 160 9
  bit (routeEntry s site ni dst).1 49 && nbrKind h &&
    match entryEnd s site ni dst true with
    | .link l => linkState s l == 2
    | _ => false

/-- A header with the selectors of the route it takes, those of this die used up (R306). -/
def withRoute (h : BitVec 256) (w : Word) : BitVec 256 :=
  BitVec.ofNat 256 (h.toNat / 2 ^ 40 * 2 ^ 40 + (fld w 0 36 >>> (3 * fld w 36 4)))

/-- A packet that its NI does not send, as its entry has VALID 0: a request is answered ABSENT where its destination's site is absent, NOROUTE
otherwise, and logged (R309). -/
def unsent (s : State) (site : Nat) (h : BitVec 256) : State :=
  let dst := hdrFld h 160 9
  if !isRequest h then s
  else if siteAbsent s (dst / 32) || !populated s (dst / 32) then requestAbsent s h
  else respErr (logErr (refused s h) { errRec s 2 1 .fab site with
    part := hdrFld h 80 6, source := hdrFld h 86 2, initiator := hdrFld h 55 9, addr := hdrFld h 112 48 }) eNOROUTE

/-- A request that an NI injects waits for its response under its entry (R308). -/
def injected (s : State) (site ni : Nat) (h : BitVec 256) : State :=
  if (niLink site ni).isNone && isRequest h then
    { s with fab := { s.fab with outs := s.fab.outs ++ [(rtKey site ni (hdrFld h 160 9), h, none)] } }
  else s

/-- An NI sends a packet by its table: unsent, waiting for a HELD entry, discarded where the route meets a router without the port, at its NI,
or out by a link with the rest of its route, as `out` says (R306 to R309). A link NI takes ROUTE_H always (R306). -/
def routeStep (s : State) (site ni : Nat) (h : BitVec 256) (out : State → Nat → BitVec 256 → State) : State :=
  let dst := hdrFld h 160 9
  let v := routeEntry s site ni dst
  if !bit v.1 48 then unsent s site h
  else if entryHeld s site ni dst then { s with fab := { s.fab with waits := s.fab.waits ++ [(rtKey site ni dst, h)] } }
  else
    let nbr := (niLink site ni).isNone && takesNbr s site ni h
    match entryEnd s site ni dst nbr with
    | .missing => routeError s site h
    | .ni n => if dst = 32 * site + n then injected s site ni h else routeError s site h
    | .link l => out (injected s site ni h) l (withRoute h (if nbr then v.2 else v.1))

/-- The Focal die's link NI behind a hub port or the code store port (Table 12.1). -/
def focalNi (l : Nat) : Nat := if l < 12 then 32 + l else 44

/-- A packet leaves another die by its own hub port: the link NI at the Focal end sends it on by its own table (R306). -/
def toFocal (s : State) (l : Nat) (h : BitVec 256) : State :=
  if linkState s l = 0 then (if isRequest h then requestAbsent s h else s) else routeStep s 12 (focalNi l) h sendBy

/-- An NI of any die sends a packet. -/
def routeOn (s : State) (site ni : Nat) (h : BitVec 256) : State :=
  if site = 12 then routeStep s 12 ni h sendBy
  else routeStep s site ni h fun t l g => if l < 16 ∨ l = 48 then toFocal t l g else sendBy t l g

/-- Packets that waited at the NIs of a site go on where their entry is no longer HELD (R308, R314). -/
def releaseWaits (s : State) (site : Nat) : State :=
  let go := fun (w : Nat × BitVec 256) => w.1 / (64 * 512) == site && !entryHeld s site (w.1 / 512 % 64) (w.1 % 512)
  (s.fab.waits.filter go).foldl (fun t w => routeOn t site (w.1 / 512 % 64) w.2)
    { s with fab := { s.fab with waits := s.fab.waits.filter fun w => !go w } }

/-- ROUTE_INSTALL (R308): once every request that the NI injected under the old value has its response. -/
def execRouteInstall (site : Fin 14) (ni : BitVec 6) (entry : BitVec 9) (s : State) : Out :=
  let k := rtKey site ni.toNat entry.toNat
  ok (match s.fab.commits.get? k with
    | none => s
    | some w => if s.fab.outs.any fun o => o.1 == k then s else releaseWaits { s with fab := { s.fab with
        routes := s.fab.routes.set k w, commits := s.fab.commits.drop (· == k) } } site)

/-- ROUTER_DRAIN_DONE (R314): `cycles` is the length of the drain. -/
def execRouterDrainDone (site : Fin 14) (cycles : Nat) (s : State) : Out :=
  ok (match s.fab.rcfg.get? site.val with
    | none => s
    | some (router, pe) =>
      let s := { s with fab := { s.fab with
        ports := s.fab.ports.set (64 * site + router) pe, rcfg := s.fab.rcfg.drop (· == site.val) } }
      let d := max (rf s (Reg.FAB_DRAINMAX site) 0 24) (min cycles (2 ^ 24 - 1))
      releaseWaits (raiseCond (wr s (Reg.FAB_DRAINMAX site) (BitVec.ofNat 64 d)) .fab site 0 3) site)

/-- PACKET_RECEIVE (R305 to R309, R311, R312, R315). VC 6 and 7 never occur. An unknown command and a destination that is a link NI are route errors. A packet that came by
a link looks up its destination in the table of the link NI; one that came by a neighbour port for another die is a route error. At
another NI a packet addressed to it is delivered (a completing response counts), one that the NI itself sends takes its route, and any other
is a route error. `reqBytes` and `cycles` describe the request that a response completes. -/
def execPacketReceive (site : Fin 14) (ni : BitVec 6) (hdr : BitVec 256) (reqBytes cycles : Nat) (s : State) : Out :=
  let cmd := hdrFld hdr 40 8
  let dst := hdrFld hdr 160 9
  ok (if !populated s site || niCount site ≤ ni.toNat || 5 < hdrFld hdr 48 3 then s
    else if !cmdKnown cmd || (niLink (dst / 32) (dst % 32)).isSome then routeError s site hdr
    else match niLink site ni.toNat with
      | some l => if 16 ≤ l ∧ l < 48 ∧ dst / 32 ≠ site then routeError s site hdr else routeOn s site ni.toNat hdr
      | none =>
        if dst = 32 * site + ni.toNat then
          if [0x19, 0x20, 0x21, 0x32, 0x33, 0x1E].contains cmd then responded s site ni.toNat hdr reqBytes cycles else s
        else if hdrFld hdr 55 9 = 32 * site + ni.toNat then routeOn s site ni.toNat hdr
        else routeError s site hdr)

/-- A write of ST_CFG (R315): the selected slot takes it and its counts clear. -/
def statsCfgEffect (s : State) (site : Nat) (v : Word) : State :=
  let sel := rd s (Reg.FAB_ST_SEL site)
  let ni := fld sel 0 6
  if niCount site ≤ ni then s
  else { s with fab := { s.fab with
    stats := s.fab.stats.set (statKey site ni (fld sel 8 3)) { StatSlot.reset with cfg := BitVec.ofNat 64 (fld v 0 13) } } }

/-- STATS_CONFIG_WRITE (R315). -/
def execStatsConfigWrite (i : Initiator) (site : Fin 14) (v : W32) (s : State) : Out :=
  ok (regWrite s i (Reg.FAB_ST_CFG site) true (isM0 s i) fun t => statsCfgEffect t site (w32 v))

/-- The selected statistics slot, as its registers show it. -/
def statSel (s : State) (site : Nat) : StatSlot :=
  let sel := rd s (Reg.FAB_ST_SEL site)
  if niCount site ≤ fld sel 0 6 then StatSlot.reset else s.fab.stats.get StatSlot.reset (statKey site (fld sel 0 6) (fld sel 8 3))

/-! ## Training, heartbeats (R318 to R322) -/

/-- A write of D2D_CTL: HB_TIMEOUT is held at 512 to 2,048; DISABLE takes the link down; RETRAIN trains it (R320). The flag says that a value
was held. -/
def d2dCtlEffect (s : State) (l : Nat) (v : Word) : State × Bool :=
  let hb := min 2048 (max 512 (fld v 16 12))
  let s := wr s (Reg.D2D_CTL l) (BitVec.ofNat 64 (2 * fld v 1 3 + 2 ^ 16 * hb))
  let s :=
    if bit v 1 then (if linkState s l = 0 then s else linkDown s l)
    else if bit v 0 then
      if linkState s l = 0 then (linkEnds l).foldl trainEnd s
      else if linkState s l = 2 then linkRetrain s l
      else s
    else s
  (s, hb != fld v 16 12)

/-- A write of D2D_CTL as an access. -/
def d2dCtlAccess (s : State) (i : Initiator) (l : Nat) (v : Word) : State :=
  regWrite s i (Reg.D2D_CTL l) true (isM0 s i) fun t =>
    let (u, clamp) := d2dCtlEffect t l v
    if clamp then clampNote u i (Reg.D2D_CTL l) else u

/-- D2D_RETRAIN (R320). -/
def execD2dRetrain (i : Initiator) (l : Fin 49) (v : W32) (s : State) : Out := ok (d2dCtlAccess s i l (w32 v))

/-- D2D_DISABLE (R319). -/
def execD2dDisable (i : Initiator) (l : Fin 49) (v : W32) (s : State) : Out := ok (d2dCtlAccess s i l (w32 v))

/-- The offer of this end (R320): the die's highest protocol revision under MAXREV. -/
def linkOffer (s : State) (l : Nat) : Nat :=
  let own := rf s (Reg.DIE_PROTO (siteOf .d2d l)) 0 4
  if rf s (Reg.D2D_CTL l) 2 2 = 1 then min 1 own else own

/-- Training of a link that succeeds: revision, far die, UP (R320, R321). -/
def linkUp (s : State) (l farSite farOffer farRev : Nat) : State :=
  let rev := min (linkOffer s l) farOffer
  let v := setFld (setFld (setFld (rd s (Reg.D2D_STATUS l)) 4 2 rev) 8 8 farRev) 16 4 farSite
  let s := linkGoto (setLink (wr s (Reg.D2D_STATUS l) v) l { getLink s l with failed := 0, recoverSeq := none, good := s.time }) l 2
  let s := if l = 48 then wb s (Reg.FAB_STATUS 12) 13 false else s
  raiseCond (linkPump s l) .d2d l 0 1

/-- Whether a die at either end of a link has a fuse word without a good copy (R320, R325). -/
def fuseBad (s : State) (l : Nat) : Bool :=
  rb s (Reg.DIE_FUSE_STATUS (farSiteOf l)) 1 || rb s (Reg.DIE_FUSE_STATUS (siteOf .d2d l)) 1

/-- LINK_TRAIN_DONE (R320): `ok_` says that the lanes aligned. IDENT names another site or another package, or a die whose fuses fail, leave
the link DOWN with ID_ERR; a failed retrain is followed by another until three have failed (R318). -/
def execLinkTrainDone (l : Fin 49) (farSite : BitVec 4) (farSerial : Word) (farOffer : BitVec 4) (farRev : Byte) (ok_ : Bool)
    (s : State) : Out :=
  ok (if !linkExists s l || !(linkState s l == 1 || linkState s l == 3) then s
    else if !ok_ then
      let n := (getLink s l).failed + 1
      if linkState s l = 3 ∧ n < 3 then linkRetrain (setLink s l { getLink s l with failed := n }) l
      else linkDown s l
    else if farSite.toNat ≠ farSiteOf l ∨ farSerial ≠ s.serial ∨ fuseBad s l then
      linkDown (raiseCond (linkLog (wb s (Reg.D2D_STATUS l) 20 true) l 3) .d2d l 0 3) l
    else linkUp s l farSite.toNat farOffer.toNat farRev.toNat)

/-- HEARTBEAT_SEND (R322): an end that has sent no frame for 128 fabric cycles (80 ns). -/
def execHeartbeatSend (l : Fin 49) (s : State) : Out :=
  ok (if linkExists s l && linkState s l != 0 && (getLink s l).sentAt + 80 ≤ s.time then
    setLink s l { getLink s l with sentAt := s.time } else s)

/-- HEARTBEAT_LOSS (R322): no good frame for HB_TIMEOUT fabric cycles of 5/8 ns. -/
def execHeartbeatLoss (l : Fin 49) (s : State) : Out :=
  ok (if linkExists s l && linkState s l != 0 && 8 * (getLink s l).good + 5 * rf s (Reg.D2D_CTL l) 16 12 ≤ 8 * s.time then
    linkDown s l else s)

/-- Packets go by the hub in their order, ahead of those that wait there (R319). -/
def hubAhead (s : State) (site : Nat) (hs : List (BitVec 256)) : State :=
  linkPump (setLink s site { getLink s site with ahead := (getLink s site).ahead ++ hs }) site

/-- LINK_RECOVER (R319): the far die names the last frame it delivered; the later packets go by the hub, or are answered ABSENT where the far
die is absent. A link that trains again in the meantime still holds them (R21). -/
def execLinkRecover (l : Fin 49) (seq : BitVec 10) (s : State) : Out :=
  ok (if !linkExists s l || l.val < 16 || l.val == 48 || 2 ≤ linkState s l then s else
    let x := linkAck (getLink s l) seq.toNat
    let l_ := x.unacked.map Prod.snd ++ x.ahead ++ x.held
    let s := setLink s l { x with unacked := [], ahead := [], held := [] }
    if siteAbsent s (farSiteOf l) then (l_.filter isRequest).foldl requestAbsent s
    else hubAhead s (farSiteOf l) l_)

/-- DIE_EMPTY (R324). -/
def execDieEmpty (n : Fin 12) (s : State) : Out := ok (if populated s n && linkState s n != 0 then dieEmptyRun s n else s)

/-- DIE_REJOIN (R302, R324): the die has reported empty caches, every scan has ended, its hub port is UP and its FAB domain ON. -/
def execDieRejoin (n : Fin 12) (s : State) : Out :=
  ok (if siteAbsent s n && s.coh.empties.contains n.val && !scanning s && linkState s n == 2 && domOn s (3 * n + 2) then
    let s := (upto 16).foldl (fun t h => wb t (Reg.HOM_STATUS h) n false) s
    let s := { s with coh := { s.coh with empties := s.coh.empties.filter (· != n.val) } }
    let s := raiseCond (wb s (Reg.FAB_STATUS 12) n false) .fab 12 0 1
    (nbrLinksOf s n).foldl (fun t l =>
      if linkState t l = 0 ∧ !rb t (Reg.D2D_CTL l) 1 then setLink (linkGoto t l 1) l { Link.reset with good := t.time } else t) s
  else s)

/-- A write of FAB_FSRC (Table 12.8): site 12 only; a SOURCE below 768 is refused. -/
def fsrcEffect (s : State) (site p : Nat) (v : Word) : Option State :=
  if site ≠ 12 then some s
  else if fld v 0 10 < 768 then none
  else some (wr s (Reg.FAB_FSRC 12 p) (BitVec.ofNat 64 (fld v 0 10 + 2 ^ 15 * fld v 15 1)))

/-! ## Identity (R325) -/

/-- FUSE_READ (R325): a word whose copies differ is corrected; one with no good copy is an error, and the die fails training. -/
def execFuseRead (site : Fin 14) (corr err : Bool) (s : State) : Out :=
  ok (if !populated s site || !domOn s (domainOf .die site) then s else
    let s := wr s (Reg.DIE_FUSE_STATUS site) (BitVec.ofNat 64 (corr.toNat + 2 * err.toNat))
    if err then logErr s (errRec s 2 4 .die site) else s)

end Sys2Proof.Machine
end

