-- ==== Sys2Proof/Machine/Net.lean ====
section
/-! DEFINITION. Ethernet, CAN FD, MVB, serial interfaces and GPIO (R407 to R417). -/

namespace Sys2Proof.Machine

def getMac (s : State) (m : Nat) : Mac := nth s.macs Mac.reset m
def setMac (s : State) (m : Nat) (x : Mac) : State := { s with macs := listSet s.macs m x }

/-- A block of HUB_NET acting by itself for its page's owner (R385, R406). -/
def netIni (s : State) (b : Block) (n : Nat) : Initiator :=
  .agent (BitVec.ofNat 9 (endpointOf b n)) (Fin.ofNat 64 (rf s (pageReg b n 0 0x00C) 0 6))

/-- Whether a MAC runs: its domain is ON and EN is 1. -/
def macOn (s : State) (m : Nat) : Bool := netOn s && rb s (Reg.ETH_CTL m) 0

/-- A ring field of a register. -/
def ringOf (s : State) (r : RegAddr) : Nat := rf s r 0 13

/-! ## Gate control lists (R410) -/

/-- Gate states and interval of entry `e` of a bank. -/
def gclEntry (s : State) (m bank e : Nat) : Nat × Nat :=
  let v := leNat (dpBytes s (rkey ⟨.eth, m, 1 + bank, 4 * e⟩) 4)
  (v % 256, v / 256)

/-- The entries of a list, in order. -/
def gclEntries (s : State) (m : Nat) (g : Gcl) : List (Nat × Nat) := (upto g.len).map (gclEntry s m g.bank)

/-- Gate states at a position of the cycle; the last entry holds to the end of the cycle. -/
def gateAt : List (Nat × Nat) → Nat → Nat
  | [], _ => 255
  | [(g, _)], _ => g
  | (g, w) :: t, pos => if pos < w then g else gateAt t (pos - w)

/-- Position of an instant within the cycle of a list. -/
def gclPos (g : Gcl) (t : Int) : Nat := ((t - g.base) % (g.cycle : Int)).toNat

/-- Gate states at an instant. -/
def gatesAt (s : State) (m : Nat) (g : Gcl) (t : Int) : Nat := gateAt (gclEntries s m g) (gclPos g t)

/-- The pending list becomes operational where its first cycle has begun, and the gates take the state of the instant (R410). -/
def gatesRun (s : State) (m : Nat) : State :=
  let x := getMac s m
  let t := macT s m
  let x := match x.pend with
    | some g => if g.start ≤ t then { x with oper := some g, pend := none } else x
    | none => x
  match x.oper with
  | some g => setMac s m { x with gates := if rb s (Reg.ETH_GCL_CTL m) 18 then gatesAt s m g t else 255 }
  | none => setMac s m { x with gates := 255 }

/-- ETH_GATE_INTERVAL (R410). -/
def execEthGateInterval (m : Fin 12) (s : State) : Out := ok (if macOn s m then gatesRun s m else s)

/-- Segments of a list within one cycle: whether the class is open, and for how long. -/
def gateSegs (cls : Nat) : List (Nat × Nat) → Nat → List (Bool × Nat)
  | [], _ => []
  | [(g, _)], left => [(g.testBit cls, left)]
  | (g, w) :: t, left => (g.testBit cls, min w left) :: gateSegs cls t (left - min w left)

/-- The first run of open segments: how long a class stays open from the head of a list. -/
def openRun : List (Bool × Nat) → Nat
  | [] => 0
  | (b, w) :: t => if b then w + openRun t else 0

/-- The longest run of open segments. -/
def longestOpen : List (Bool × Nat) → Nat
  | [] => 0
  | (b, w) :: t => max (openRun ((b, w) :: t)) (longestOpen t)

/-- Segments from a position on, the list followed by itself. -/
def dropSegs : List (Bool × Nat) → Nat → List (Bool × Nat)
  | [], _ => []
  | (b, w) :: t, pos => if pos < w then (b, w - pos) :: t else dropSegs t (pos - w)

/-- Whether a frame of `dur` ns may start now: its gate stays open until it ends (R410). -/
def gateFits (s : State) (m cls dur : Nat) : Bool :=
  let x := getMac s m
  match x.oper with
  | none => true
  | some g =>
    if !rb s (Reg.ETH_GCL_CTL m) 18 then true else
    let segs := gateSegs cls (gclEntries s m g) g.cycle
    segs.all Prod.fst || (x.gates.testBit cls && dur ≤ openRun (dropSegs (segs ++ segs) (gclPos g (macT s m))))

/-- Whether a frame is longer than every open interval of its class. -/
def gateNever (s : State) (m cls dur : Nat) : Bool :=
  match (getMac s m).oper with
  | none => false
  | some g =>
    if !rb s (Reg.ETH_GCL_CTL m) 18 then false else
    let segs := gateSegs cls (gclEntries s m g) g.cycle
    !(segs.all Prod.fst) && longestOpen (segs ++ segs) < dur

/-- A write of GCL_CTL (R410): LEN outside 1 to 1,024, and CHANGE with GCL_CYCLE outside 1 to 10^9, are refused (log entry 28). -/
def gclEffect (s : State) (m : Nat) (v : Word) : Option State :=
  let len := fld v 0 11
  let cyc := rf s (Reg.ETH_GCL_CYCLE m) 0 32
  if 1024 < len ∨ ((bit v 17 ∨ bit v 18) ∧ len = 0) ∨ (bit v 17 ∧ (cyc = 0 ∨ 1000000000 < cyc)) then none
  else
    let s := wr s (Reg.ETH_GCL_CTL m) (BitVec.ofNat 64 (len + 2 ^ 16 * fld v 16 1 + 2 ^ 18 * fld v 18 1))
    if !bit v 17 then some s
    else
      let base : Int := (rd s (Reg.ETH_GCL_BASE m)).toNat
      let t := macT s m
      let start := if t ≤ base then base else base + (((t - base) + cyc - 1) / cyc) * cyc
      some (setMac s m { getMac s m with pend := some { bank := fld v 16 1, len := len, base := base, cycle := cyc, start := start } })

/-- GCL_CHANGE (R410). -/
def execGclChange (i : Initiator) (m : Fin 12) (v : W32) (s : State) : Out :=
  ok (regWriteOpt s i (Reg.ETH_GCL_CTL m) true fun t => gclEffect t m (w32 v))

/-! ## Clock (R409) -/

/-- A write of PTP_STEP: T moves, and the gates take the state of the entry in which the new T falls. -/
def ptpStepEffect (s : State) (m : Nat) (v : Word) : State :=
  let c := nth s.ptp { t := 0, us := 0 } m
  let s := { s with ptp := listSet s.ptp m { c with t := c.t + v.toInt * 2 ^ 40 } }
  (upto 12).foldl (fun u k => if (getMac u k).oper.isSome || (getMac u k).pend.isSome then gatesRun u k else u) s

/-- PTP_STEP (R409). -/
def execPtpStep (i : Initiator) (m : Fin 12) (v : Word) (s : State) : Out :=
  ok (regWrite s i (Reg.ETH_PTP_STEP m) true true fun t => ptpStepEffect t m v)

/-! ## Frames (R407, R408, R412) -/

/-- A VLAN tag's PCP and VID, if the frame carries one. -/
def vlanOf (f : List Byte) : Option (Nat × Nat) :=
  if (f.getD 12 0).toNat = 0x81 ∧ (f.getD 13 0).toNat = 0 then
    let tci := (f.getD 14 0).toNat * 256 + (f.getD 15 0).toNat
    some (tci / 8192, tci % 4096)
  else none

/-- Where the EtherType that follows any VLAN tag stands. -/
def typeAt (f : List Byte) : Nat := if (vlanOf f).isSome then 16 else 12

/-- The sequence number of a frame's R-TAG (IEEE 802.1CB, EtherType 0xF1C1; log entry 28). -/
def rtagOf (f : List Byte) : Option Nat :=
  let k := typeAt f
  if (f.getD k 0).toNat = 0xF1 ∧ (f.getD (k + 1) 0).toNat = 0xC1 then
    some ((f.getD (k + 4) 0).toNat * 256 + (f.getD (k + 5) 0).toNat)
  else none

/-- A frame with an R-TAG inserted. -/
def addRtag (f : List Byte) (seq : Nat) : List Byte :=
  let k := typeAt f
  f.take k ++ [0xF1, 0xC1, 0, 0, BitVec.ofNat 8 (seq / 256), BitVec.ofNat 8 seq] ++ f.drop k

/-- A frame without its R-TAG. -/
def dropRtag (f : List Byte) : List Byte := f.take (typeAt f) ++ f.drop (typeAt f + 6)

/-- Destination address as the MATCH register numbers it: the first byte on the wire in bits [47:40] (log entry 28). -/
def destOf (f : List Byte) : Nat := (f.take 6).foldl (fun a b => a * 256 + b.toNat) 0

/-- The recovery function that applies to a frame with an R-TAG: the lowest enabled one that matches (R412). -/
def frerMatch (s : State) (f : List Byte) : Option Nat :=
  let vid := (vlanOf f).elim 0 Prod.snd
  (upto 64).find? fun r =>
    let m := rd s (Reg.FRER_MATCH r)
    bit m 63 && fld m 0 48 == destOf f && fld m 48 12 == vid

/-- Vector recovery (R412; IEEE 802.1CB, log entry 28): 0 pass, 1 duplicate, 2 outside the window, with the function's new state. -/
def frerStep (h : Frer) (n seq now : Nat) : Nat × Frer :=
  if h.any then (0, { hist := 1, seq := seq, any := false, last := now })
  else
    let d := (seq + 65536 - h.seq) % 65536
    if d = 0 then (1, { h with last := now })
    else if d < 32768 then
      if n ≤ d then (2, { h with last := now })
      else (0, { hist := (h.hist * 2 ^ d + 1) % 2 ^ n, seq := seq, any := false, last := now })
    else
      let b := 65536 - d
      if n ≤ b then (2, { h with last := now })
      else if h.hist.testBit b then (1, { h with last := now })
      else (0, { h with hist := h.hist + 2 ^ b, last := now })

/-- A received frame through its recovery function: the frame to pass on, if any (R412). -/
def frerRun (s : State) (f : List Byte) : Option (List Byte) × State :=
  match rtagOf f, frerMatch s f with
  | some seq, some r =>
    let (what, h) := frerStep (s.frer.get Frer.reset r) (rf s (Reg.FRER_CFG r) 0 6) seq s.time
    let s := { s with frer := s.frer.set r h }
    match what with
    | 0 => (some (dropRtag f), countReg s (Reg.FRER_PASSED r))
    | 1 => (none, countReg s (Reg.FRER_DISCARDED r))
    | _ => (none, countReg s (Reg.FRER_ROGUE r))
  | _, _ => (some f, s)

/-- A frame dropped (R408). -/
def rxDrop (s : State) (m : Nat) : State := raiseCond (countReg s (Reg.ETH_RXDROP m)) .eth m 0 1

/-- Whether a MAC's buffer lies in memory that it may reach: DRAM or TCM, within the regions of its page's owner (R261, R516). -/
def bufOk (s : State) (i : Initiator) (a n need : Nat) : Bool :=
  match areaOf a with
  | .dram => regionOk s (initPart s i) a n need
  | .core c off => isTcm off && (initPart s i == 0 || inPart s (initPart s i) c)
  | _ => false

/-- The RX entry of Table 16.4. -/
def rxEntry (s : State) (m a : Nat) (f : List Byte) : List Byte :=
  let w := match vlanOf f with
    | some (pcp, vid) => pcp + 8 + 16 * vid
    | none => 0
  leBytes 8 a ++ leBytes 2 f.length ++ leBytes 2 w ++ leBytes 4 0 ++ leBytes 8 (ofI (macT s m)).toNat ++ leBytes 8 s.time

/-- A passed frame is placed: a free buffer and a ring slot are needed (R408). -/
def rxPlace (s : State) (m : Nat) (f : List Byte) : State :=
  let pcp := (vlanOf f).elim 0 Prod.fst
  let ring := ringOf s (Reg.ETH_RXRING m (rf s (Reg.ETH_RXMAP m) (2 * pcp) 2))
  let x := getRing s ring
  if !x.en || x.error || x.size ≤ x.held || !quotaOk s x then rxDrop s m
  else match hwDeq s (ringOf s (Reg.ETH_RXFREE m)) with
    | (none, s) => rxDrop s m
    | (some (e, poison, s), _) =>
      let a := leNat (e.take 8)
      let i := netIni s .eth m
      if poison || !bufOk s i a f.length 2 then rxDrop s m
      else match agWrite s (endpointOf .eth m) a f false with
        | .error c => rxDrop (logBusErr s i a c) m
        | .ok t => match hwEnq t ring (rxEntry t m a f) with
          | some u => u
          | none => rxDrop t m

/-- A frame arrives at a MAC. -/
def ethReceive (s : State) (m : Nat) (f : List Byte) (fcsOk : Bool) : State :=
  let limit := if rb s (Reg.ETH_CTL m) 4 then 9216 else 1514
  if !fcsOk || f.length < 60 || limit < f.length then rxDrop s m
  else match frerRun s f with
    | (none, s) => s
    | (some f, s) => rxPlace s m f

/-- ETH_FRAME_RECEIVE (R408, R412). -/
def execEthFrameReceive (m : Fin 12) (frame : List Byte) (fcsOk : Bool) (s : State) : Out :=
  ok (if macOn s m && rb s (Reg.ETH_STATUS m) 0 then ethReceive s m frame fcsOk else s)

/-- FRER_RECOVERY_RESET (R412). -/
def execFrerRecoveryReset (r : Fin 64) (s : State) : Out :=
  let h := s.frer.get Frer.reset r
  let us := max 1 (rf s (Reg.FRER_CFG r) 8 16)
  ok (if netOn s && rb s (Reg.FRER_MATCH r) 63 && !h.any && h.last + 1000 * us ≤ s.time then
    countReg { s with frer := s.frer.set r { h with any := true, hist := 0 } } (Reg.FRER_RESETS r) else s)

/-! ## Transmission (R408 to R412) -/

/-- Duration in ns of a frame on the wire with preamble, FCS and inter-frame gap. -/
def frameNs (s : State) (m len : Nat) : Nat :=
  let bits := 8 * (8 + len + 4 + 12)
  let r := ethRate (rf s (Reg.ETH_STATUS m) 1 3)
  (bits * 1000000 + r - 1) / r

/-- An item that completes without being sent. -/
def txDone (e : List Byte) (cls status : Nat) : EthTx :=
  { cls := cls, tag := leNat ((e.drop 14).take 2), status := status, ts := false, t := 0, at_ := 0, sent := true, waits := none,
    copyOf := none }

/-- An item put in transmission order. -/
def txPut (s : State) (m : Nat) (q : EthTx) : State := setMac s m { getMac s m with txq := (getMac s m).txq ++ [q] }

/-- A frame with the sequence number of its generator, where GEN is 1 and the generator enabled (R412). -/
def genRun (s : State) (e f : List Byte) : List Byte × State :=
  let fl := BitVec.ofNat 64 (leNat ((e.drop 10).take 2))
  let g := leNat ((e.drop 12).take 2) % 64
  if !bit fl 2 || !rb s (Reg.FRER_GEN g) 31 then (f, s)
  else
    let n := rf s (Reg.FRER_GEN g) 0 16
    (addRtag f n, wf s (Reg.FRER_GEN g) 0 16 ((n + 1) % 65536))

/-- Whether a MAC's shaper lets a class send (R411). -/
def shaperOk (s : State) (m cls : Nat) : Bool :=
  cls == 0 || !rb s (Reg.ETH_CBS m cls) 31 || decide (0 ≤ nth (getMac s m).credit 0 cls)

/-- The first of a MAC's items of a class that waits for its copy on MAC `d`, changed. -/
def mapWait (d cls : Nat) (f : EthTx → EthTx) : List EthTx → List EthTx
  | [] => []
  | q :: t => if q.waits == some d && q.cls == cls then f q :: t else q :: mapWait d cls f t

/-- The original of a copy on MAC `d` waits for it no longer; `status` is its own where the copy was not sent. -/
def copyEnd (s : State) (m0 d cls : Nat) (status : Option Nat) : State :=
  let x := getMac s m0
  setMac s m0 { x with txq := mapWait d cls (fun q => { q with waits := none, status := status.getD q.status }) x.txq }

/-- The oldest copy of a class on a MAC starts where the MAC is free and its gate and shaper allow it (R410, R412). A copy longer than every
open interval is not sent, and its frame completes with GATE. -/
def copyGo (s : State) (d cls : Nat) : State :=
  let x := getMac s d
  match x.copies.find? fun e => e.1.cls == cls with
  | none => s
  | some (q, f) =>
    let t := setMac s d { x with copies := x.copies.erase (q, f) }
    let dur := frameNs s d f.length
    if gateNever s d cls dur then raiseCond (copyEnd t (q.copyOf.getD d) d cls (some 2)) .eth d 0 2
    else if x.txq.all EthTx.sent && gateFits s d cls dur && shaperOk s d cls then { txPut t d q with sent := .eth d f }
    else s

/-- A frame starts on a MAC, and where DUP names a second MAC that runs a copy goes there in the same class (R412). -/
def txStart (s : State) (m cls : Nat) (e f : List Byte) : State :=
  let fl := BitVec.ofNat 64 (leNat ((e.drop 10).take 2))
  let (f, s) := genRun s e f
  let d := fld fl 3 4 - 1
  let dup := fld fl 3 4 != 0 && d < 12 && d != m && macOn s d && rb s (Reg.ETH_STATUS d) 0
  let q := { txDone e cls 0 with ts := bit fl 0, t := macT s m, at_ := s.time, sent := false, waits := if dup then some d else none }
  let s := txPut s m q
  let s := if dup then
    copyGo (setMac s d { getMac s d with copies := (getMac s d).copies ++ [({ q with waits := none, copyOf := some m }, f)] }) d cls else s
  { s with sent := .eth m f }

/-- Whether a frame has a length that a MAC sends (R407). -/
def lengthOk (s : State) (m len : Nat) : Bool := 60 ≤ len && len ≤ (if rb s (Reg.ETH_CTL m) 4 then 9216 else 1514)

/-- A MAC takes the head entry of a TX ring: BUS where its buffer cannot be read, LATE, GATE, or the frame starts or waits for its launch
time. An entry whose gate or shaper does not allow it now stays in the ring. An entry of a length that R407 does not give frames is not
sent, and completes with a free status (log entry 28). -/
def txTake (s : State) (m t : Nat) : State :=
  match hwDeq s (ringOf s (Reg.ETH_TXRING m t)) with
  | (none, s) => s
  | (some (e, poison, u), _) =>
    let fl := BitVec.ofNat 64 (leNat ((e.drop 10).take 2))
    let a := leNat (e.take 8)
    let len := leNat ((e.drop 8).take 2)
    let i := netIni s .eth m
    if !lengthOk s m len then (let (v, w) := takeFree u; txPut w m (txDone e t (v % 256))) else
    let data := if poison || !bufOk u i a len 1 then MemRd.err eREGION else agRead u (endpointOf .eth m) a len
    match data with
    | .err c => txPut (if c = eREGION then u else logBusErr u i a c) m (txDone e t 3)
    | .data _ true => txPut u m (txDone e t 3)
    | .data f false =>
      let dur := frameNs s m (len + (if bit fl 2 then 6 else 0))
      let at_ := sfld (BitVec.ofNat 64 (leNat ((e.drop 16).take 8))) 0 64
      if gateNever s m t dur then raiseCond (txPut u m (txDone e t 2)) .eth m 0 2
      else if bit fl 1 then
        if at_ < macT s m then txPut u m (txDone e t 1)
        else setMac u m { getMac u m with launch := listSet (getMac u m).launch t (some (e, f)) }
      else if gateFits s m t dur && shaperOk s m t then txStart u m t e f
      else s

/-- Whether a MAC may start a frame: it runs, its link is up, and no frame is on the wire. -/
def txFree (s : State) (m : Nat) : Bool := macOn s m && rb s (Reg.ETH_STATUS m) 0 && (getMac s m).txq.all EthTx.sent

/-- ETH_TX_ENTRY (R408, R410 to R412): one frame is on the wire at a time; a copy that waits goes before the ring's entries; a frozen page
takes no new entry (R417). -/
def execEthTxEntry (m : Fin 12) (t : Level) (s : State) : Out :=
  let x := getMac s m
  ok (if !txFree s m then s
    else if x.copies.any fun e => e.1.cls == t.val then copyGo s m t
    else if !frozen s .eth m 0 && rb s (Reg.ETH_TXRING m t) 31 && (nth x.launch none t.val).isNone then txTake s m t
    else s)

/-- Whether an entry asks for a sequence number (Table 16.4). -/
def genAsked (e : List Byte) : Bool := bit (BitVec.ofNat 64 (leNat ((e.drop 10).take 2))) 2

/-- ETH_LAUNCH (R410): when T has reached the launch time and the gate is open. -/
def execEthLaunch (m : Fin 12) (t : Level) (s : State) : Out :=
  let x := getMac s m
  ok (match nth x.launch none t.val with
    | none => s
    | some (e, f) =>
      let at_ := sfld (BitVec.ofNat 64 (leNat ((e.drop 16).take 8))) 0 64
      if macOn s m && x.txq.all EthTx.sent && at_ ≤ macT s m && gateFits s m t (frameNs s m (f.length + (if genAsked e then 6 else 0))) &&
          shaperOk s m t then
        txStart (setMac s m { x with launch := listSet x.launch t none }) m t e f
      else s)

/-- The TXCPL entry of an item (Table 16.4). -/
def txcplEntry (q : EthTx) : List Byte :=
  leBytes 2 q.tag ++ leBytes 1 q.status ++ leBytes 5 0 ++
    (if q.ts then leBytes 8 (ofI q.t).toNat ++ leBytes 8 q.at_ else leBytes 16 0) ++ leBytes 8 0

/-- The completion of a MAC's oldest item is written; with a full ring it waits. -/
def txPost (s : State) (m : Nat) : State :=
  match (getMac s m).txq with
  | [] => s
  | q :: rest =>
    match hwEnq s (ringOf s (Reg.ETH_TXCPL m)) (txcplEntry q) with
    | none => s
    | some t => setMac t m { getMac t m with txq := rest }

/-- A copy has been sent: its original no longer waits for it, and its entry is posted where it was sent itself (R412). -/
def copyDone (s : State) (m0 d cls : Nat) : State :=
  let s := copyEnd s m0 d cls none
  match (getMac s m0).txq with
  | q :: _ => if q.sent && q.waits.isNone then txPost s m0 else s
  | [] => s

/-- ETH_TX_COMPLETE (R408): in transmission order; a frame with a copy waits for the copy. -/
def execEthTxComplete (m : Fin 12) (s : State) : Out :=
  ok (if !netOn s then s else
    match (getMac s m).txq with
    | [] => s
    | q :: rest =>
      match q.copyOf with
      | some m0 => copyDone (setMac s m { getMac s m with txq := rest }) m0 m q.cls
      | none =>
        let s := setMac s m { getMac s m with txq := { q with sent := true } :: rest }
        if q.waits.isSome then s else txPost s m)

/-- Whether a MAC has a speed (R407). -/
def speedOk (m speed : Nat) : Bool := if m < 4 then 1 ≤ speed && speed ≤ 5 else speed ≤ 2

/-- Rings that a MAC binds to while EN is 1 (R385, R408). -/
def macRings (s : State) (m : Nat) : List Nat :=
  ((upto 8).filter fun t => rb s (Reg.ETH_TXRING m t) 31).map (fun t => ringOf s (Reg.ETH_TXRING m t)) ++
    ([Reg.ETH_TXCPL m, Reg.ETH_RXFREE m] ++ (upto 4).map (Reg.ETH_RXRING m)).map (ringOf s)

/-- What is under way on a MAC is dropped; no frame waits for a copy there any longer. -/
def macDrop (s : State) (m : Nat) : State :=
  let s := setMac s m { getMac s m with txq := [], launch := List.replicate 8 none, copies := [] }
  (upto 12).foldl (fun t k =>
    setMac t k { getMac t k with txq := (getMac t k).txq.map fun q => if q.waits == some m then { q with waits := none } else q }) s

/-- A write of ETH_CTL (R385, R407); `none` is a refusal. Clearing EN drops what is under way. -/
def ethCtlEffect (s : State) (m : Nat) (v : Word) : Option State :=
  let owner := rf s (pageReg .eth m 0 0x00C) 0 6
  if (bit v 0 && !speedOk m (fld v 1 3)) || 5 < fld v 1 3 then none
  else if bit v 0 && !rb s (Reg.ETH_CTL m) 0 && (macRings s m).any fun r => !mayBind s owner r then none
  else
    let s := wr s (Reg.ETH_CTL m) (BitVec.ofNat 64 (fld v 0 5))
    some (if bit v 0 then s else macDrop s m)

/-- A write of a ring register of a MAC: while EN is 1 the ring must be one that the page's owner may bind to (R385). -/
def ethRingRule (s : State) (m : Nat) (v : Word) : Bool :=
  !rb s (Reg.ETH_CTL m) 0 || mayBind s (rf s (pageReg .eth m 0 0x00C) 0 6) (fld v 0 13)

/-- A write of an FRER register (R412): configuration fields only while EN is 0; HISTORY outside 2 to 32 refused. -/
def frerEffect (s : State) (off : Nat) (v : Word) : Option State :=
  if off < 0x200 then
    let r := Reg.FRER_GEN ((off - 0x100) / 4)
    if rb s r 31 && fld v 0 16 != rf s r 0 16 then none
    else some (wr s r (BitVec.ofNat 64 (fld v 0 16 + 2 ^ 31 * fld v 31 1)))
  else
    let k := (off - 0x200) / 32
    let m := Reg.FRER_MATCH k
    if (off - 0x200) % 32 = 0 then
      if rb s m 63 && fld v 0 60 != rf s m 0 60 then none
      else
        let s := wr s m (BitVec.ofNat 64 (fld v 0 60 + 2 ^ 63 * fld v 63 1))
        some (if bit v 63 then s else { s with frer := s.frer.set k Frer.reset })
    else
      if rb s m 63 ∨ fld v 0 6 < 2 ∨ 32 < fld v 0 6 then none
      else some (wr s (Reg.FRER_CFG k) (BitVec.ofNat 64 (fld v 0 6 + 2 ^ 8 * fld v 8 16)))

/-- ETH_LINK_CHANGE (R407, R417): a link comes up only at a speed of its MAC. -/
def execEthLinkChange (m : Fin 12) (up : Bool) (speed : BitVec 3) (s : State) : Out :=
  ok (if netOn s && (!up || speedOk m speed.toNat) then
    raiseCond (wr s (Reg.ETH_STATUS m) (BitVec.ofNat 64 (up.toNat + 2 * speed.toNat))) .eth m 0 0 else s)

/-! ## CAN FD (R413) -/

/-- Fault confinement state after counters change (ISO 11898-1; log entry 28). -/
def canState (tec rec : Nat) : Nat := if 256 ≤ tec then 2 else if 128 ≤ tec ∨ 128 ≤ rec then 1 else 0

/-- Error counters and state written. -/
def canErr (s : State) (k tec rec st : Nat) : State :=
  wr s (Reg.CANF_ERR k) (BitVec.ofNat 64 (tec % 256 + 2 ^ 8 * (rec % 256) + 2 ^ 16 * st))

/-- Counters after an error, with the state that follows from them: entering bus-off raises BUSOFF, entering error-passive ERRPASSIVE
(R417; ISO 11898-1, log entry 28). -/
def canFault (s : State) (k tec rec : Nat) : State :=
  let old := rf s (Reg.CANF_ERR k) 16 2
  let st := canState tec rec
  let s := canErr s k (min 255 tec) (min 255 rec) st
  if st = old ∨ st = 0 then s else raiseCond s .canf k 0 (2 - st)

/-- Whether a controller takes part on the bus. -/
def canOn (s : State) (k : Nat) : Bool := netOn s && rb s (Reg.CANF_CTL k) 0 && rf s (Reg.CANF_ERR k) 16 2 != 2

/-- Whether a frame passes a filter: identifier under its mask, and IDE. -/
def canPasses (s : State) (k : Nat) (id : BitVec 32) : Bool :=
  (upto 64).any fun j =>
    let f := rd s (Reg.CANF_FILT k j)
    bit f 30 && bit f 29 == bit (w32 id) 29 &&
      (fld (w32 id) 0 29 &&& fld f 32 29) == (fld f 0 29 &&& fld f 32 29)

/-- The ring entry of R413. -/
def canEntry (s : State) (f : CanFrame) : List Byte :=
  leBytes 4 f.id.toNat ++ [f.dlc] ++ leBytes 3 0 ++ padTo 64 f.data ++ leBytes 8 s.time ++ leBytes 48 0

/-- A received frame that passes a filter enters the RX ring; a full ring takes none. -/
def canPlace (s : State) (k : Nat) (f : CanFrame) : State :=
  if !canPasses s k f.id then s else (hwEnq s (rf s (Reg.CANF_RING k) 16 13) (canEntry s f)).getD s

/-- A frame is received: the receive error counter falls (ISO 11898-1), the filters are asked. A frame in FD format reaches a classical
controller as no frame. -/
def canReceive (s : State) (k : Nat) (f : CanFrame) : State :=
  if bit (w32 f.id) 30 && !rb s (Reg.CANF_CTL k) 1 then s else
  let tec := rf s (Reg.CANF_ERR k) 0 8
  let rec_ := rf s (Reg.CANF_ERR k) 8 8
  let (w, s) := if 127 < rec_ then (let (n, t) := takeFree s; (119 + n % 9, t)) else (rec_ - 1, s)
  canPlace (canErr s k tec w (canState tec w)) k f

/-- CANF_FRAME_RECEIVE (R413): a loopback controller does not hear the bus. A frame with an error is not received, and the receive
error counter rises by 1 (ISO 11898-1). -/
def execCanfFrameReceive (k : Fin 8) (x : CanRx) (s : State) : Out :=
  ok (if !(canOn s k && rf s (Reg.CANF_CTL k) 3 2 != 2) then s
    else if x.err then canFault s k (rf s (Reg.CANF_ERR k) 0 8) (rf s (Reg.CANF_ERR k) 8 8 + 1)
    else canReceive s k x.frame)

/-- The frame of a ring entry. -/
def canFrameOf (e : List Byte) : CanFrame :=
  { id := BitVec.ofNat 32 (leNat (e.take 4)), dlc := e.getD 4 0, data := (e.drop 8).take 64 }

/-- An entry as the bus gets it: the bit rate switches only in FD format and with CTL.BRS at 1. -/
def canWire (s : State) (k : Nat) (e : List Byte) : List Byte :=
  let id := leNat (e.take 4)
  if id.testBit 30 && rb s (Reg.CANF_CTL k) 2 then e.take 72 else leBytes 4 (id % 2 ^ 31) ++ (e.drop 4).take 68

/-- A frame of the TX ring is transmitted: the transmit error counter falls, and in loopback the controller receives it itself. An entry in
FD format for a controller with CTL.FD at 0 is taken and not sent (log entry 28). -/
def canTransmit (s : State) (k : Nat) : State :=
  match hwDeq s (rf s (Reg.CANF_RING k) 0 13) with
  | (none, s) => s
  | (some (_, true, s), _) => s
  | (some (e, false, s), _) =>
    if (leNat (e.take 4)).testBit 30 && !rb s (Reg.CANF_CTL k) 1 then s else
    let tec := rf s (Reg.CANF_ERR k) 0 8 - 1
    let rec_ := rf s (Reg.CANF_ERR k) 8 8
    let s := canErr s k tec rec_ (canState tec rec_)
    if rf s (Reg.CANF_CTL k) 3 2 = 2 then canPlace s k (canFrameOf e) else { s with sent := .can k (canWire s k e) }

/-- CANF_FRAME_TRANSMIT (R413); not in listen-only mode, nor on a frozen page (R417). A transmission that meets an error leaves its
entry in the ring to be sent again, and the transmit error counter rises by 8 (ISO 11898-1). -/
def execCanfFrameTransmit (x : CanTx) (s : State) : Out :=
  let k := x.ctl.val
  ok (if !(canOn s k && rf s (Reg.CANF_CTL k) 3 2 != 1 && !frozen s .canf k 0) then s
    else if x.err then
      if ringHas s (rf s (Reg.CANF_RING k) 0 13) then canFault s k (rf s (Reg.CANF_ERR k) 0 8 + 8) (rf s (Reg.CANF_ERR k) 8 8) else s
    else canTransmit s k)

/-- CANF_BUS_OFF_RECOVERY (R413): 128 occurrences of 11 recessive bits with AUTO_REC. -/
def execCanfBusOffRecovery (k : Fin 8) (s : State) : Out :=
  ok (if netOn s && rb s (Reg.CANF_CTL k) 0 && rf s (Reg.CANF_ERR k) 16 2 == 2 && rb s (Reg.CANF_CTL k) 5 then
    wr s (Reg.CANF_ERR k) 0 else s)

/-- A write of CANF_CTL: MODE 3 is refused; a bus-off controller leaves that state when EN is written (R413). -/
def canCtlEffect (s : State) (k : Nat) (v : Word) : Option State :=
  if fld v 3 2 = 3 then none
  else
    let s := wr s (Reg.CANF_CTL k) (BitVec.ofNat 64 (fld v 0 6))
    some (if rf s (Reg.CANF_ERR k) 16 2 = 2 then wr s (Reg.CANF_ERR k) 0 else s)

/-! ## MVB (R414) -/

/-- Where a port of the traffic store lies. -/
def mvbPort (k n : Nat) : RegAddr := ⟨.mvb, k, 1 + n / 128, n % 128 * 32⟩

/-- MVB_PORT_WRITE (R414): up to the 32 bytes of the port, whole. -/
def execMvbPortWrite (i : Initiator) (k : Fin 2) (port : Fin 4096) (data : List Byte) (s : State) : Out :=
  ok (regWrite s i (mvbPort k port) true true fun t => dpWrite t (rkey (mvbPort k port)) (data.take 32))

/-- What an MVB frame does (R414); the bus administrator alone sends master frames. -/
def mvbRun (s : State) (k : Nat) : MvbXfer → State
  | .master f => if rb s (Reg.MVB_CTL k) 1 then { s with sent := .mvb k (leBytes 2 f.toNat) } else s
  | .poll n => { s with sent := .mvb k (dpBytes s (rkey (mvbPort k n)) 32) }
  | .sink n l => dpWrite s (rkey (mvbPort k n)) (l.take 32)
  | .msgIn l => (hwEnq s (rf s (Reg.MVB_CTL k) 16 13) (padTo 128 l)).getD s
  | .msgOut =>
    if frozen s .mvb k 0 then s else
    match hwDeq s (rf s (Reg.MVB_CTL k) 16 13) with
    | (none, s) => s
    | (some (e, _, s), _) => { s with sent := .mvb k e }

/-- MVB_FRAME (R414). -/
def execMvbFrame (k : Fin 2) (x : MvbXfer) (s : State) : Out :=
  ok (if netOn s && rb s (Reg.MVB_CTL k) 0 then mvbRun s k x else s)

/-- MVB_LINE_CHANGE (R417). -/
def execMvbLineChange (k : Fin 2) (lineB good : Bool) (s : State) : Out :=
  ok (if netOn s then raiseCond (wb s (Reg.MVB_STATUS k) lineB.toNat good) .mvb k 0 lineB.toNat else s)

/-! ## Serial interfaces (R415, R29) -/

/-- The limit of a serial rate, under the emission mode (R29, Table 16.5): QUIET is emission mode 2. -/
def serLimit (quiet : Bool) (k : Nat) : Nat :=
  if k < 4 then 12500000
  else if k < 8 then if quiet then 25000000 else 50000000
  else if k < 12 then if quiet then 400000 else 1000000
  else if quiet then 25000000 else 200000000

/-- What a write of SER_RATE stores: `none` is a refusal; the flag says that it is held at the limit. I2C takes the highest of its three
rates that the value reaches. -/
def serRateRule (quiet : Bool) (k : Nat) (v : Word) : Option (Word × Bool) :=
  let x := fld v 0 32
  let lim := serLimit quiet k
  let held := min x lim
  if 8 ≤ k ∧ k < 12 then
    if x < 100000 then none
    else
      let r := if 1000000 ≤ held then 1000000 else if 400000 ≤ held then 400000 else 100000
      some (BitVec.ofNat 64 r, lim < x)
  else some (BitVec.ofNat 64 held, lim < x)

/-- Writable bits of SER_CTL (Tables 16.12 to 16.15). -/
def serMask (k : Nat) : Nat := if k < 4 then 0xFF3F else if k < 8 then 0xFFF else if k < 12 then 0x3FFF else 0x1FF

/-- A write of SER_CTL: fields other than EN only while EN is 0; PARITY 3 and WORD above 24 are refused. -/
def serCtlRule (s : State) (k : Nat) (v : Word) : Option Word :=
  let v := BitVec.ofNat 64 (v.toNat &&& serMask k)
  let old := rd s (Reg.SER_CTL k)
  if bit old 0 && fld v 1 31 != fld old 1 31 then none
  else if k < 4 ∧ fld v 2 2 = 3 then none
  else if 4 ≤ k ∧ k < 8 ∧ 24 < fld v 5 5 then none
  else some v

/-- Whether an I2C target stretches the clock and the transfer waits: STRETCH is 1 and the RX ring has no free slot, or the TX ring is empty
(Table 16.14). -/
def serStretch (s : State) (k : Nat) (rx : Option (List Byte)) : Bool :=
  let x := getRing s (rf s (Reg.SER_RING k) 16 13)
  8 ≤ k && k < 12 && rb s (Reg.SER_CTL k) 1 && rb s (Reg.SER_CTL k) 13 &&
    (if rx.isSome then x.size ≤ x.held else !ringHas s (rf s (Reg.SER_RING k) 0 13))

/-- A transfer of a serial interface (R415): the head of the TX ring is sent; what came in enters the RX ring, and a full ring raises ERR
(log entry 28). xSPI moves nothing through rings. -/
def serRun (s : State) (k : Nat) (rx : Option (List Byte)) : State :=
  let s := if frozen s .ser k 0 then s else
    match hwDeq s (rf s (Reg.SER_RING k) 0 13) with
    | (none, s) => s
    | (some (e, _, s), _) => { s with sent := .ser k e }
  match rx with
  | none => s
  | some l =>
    match hwEnq s (rf s (Reg.SER_RING k) 16 13) (padTo 32 l) with
    | some t => t
    | none => raiseCond s .ser k 0 0

/-- SER_TRANSFER (R415). -/
def execSerTransfer (k : Fin 13) (rx : Option (List Byte)) (s : State) : Out :=
  ok (if netOn s && rb s (Reg.SER_CTL k) 0 && k.val < 12 && !serStretch s k rx then serRun s k rx else s)

/-! ## GPIO (R416) -/

/-- Whether a level change matches EDGE. -/
def edgeMatches (edge : Nat) (rising : Bool) : Bool := edge == 3 || (edge == 1 && rising) || (edge == 2 && !rising)

/-- An accepted edge of a pin: IN and STAMP follow, and the pin's condition is set where EDGE matches. -/
def gpioAccept (s : State) (pin : Nat) (level : Bool) (first : Nat) : State :=
  let r := Reg.GPIO_PIN pin
  let s := wr (wb s r 3 level) (Reg.GPIO_STAMP pin) (BitVec.ofNat 64 first)
  if edgeMatches (rf s r 14 2) level then raiseCond s .gpio 0 (pin / 16) (pin % 16) else s

/-- GPIO_EDGE (R416): the level has been stable for FILT × 10 ns since its first raw transition. -/
def execGpioEdge (pin : Fin 64) (level : Bool) (first : Word) (s : State) : Out :=
  let r := Reg.GPIO_PIN pin
  ok (if netOn s && rb s r 3 != level && first.toNat + 10 * rf s r 4 10 ≤ s.time then gpioAccept s pin level first.toNat else s)

/-- What drives a GPIO ball (R416, Table 16.10): nothing unless its domain is ON and DIR is output; an open-drain output drives 0 alone. -/
def gpioBall (s : State) (pin : Nat) : Option Bool :=
  let v := rd s (Reg.GPIO_PIN pin)
  if domOn s 45 && bit v 0 && !(bit v 1 && bit v 2) then some (bit v 2) else none

/-- A write of GPIO_PIN: FILT above 1,000 is held; IN is read-only. -/
def gpioRule (s : State) (pin : Nat) (v : Word) : Word × Bool :=
  let w := setFld (setFld v 4 10 (min 1000 (fld v 4 10))) 3 1 (rf s (Reg.GPIO_PIN pin) 3 1)
  (BitVec.ofNat 64 (fld w 0 18), 1000 < fld v 4 10)

end Sys2Proof.Machine
end

