-- ==== Sys2Proof/Machine/Dram.lean ====
section
/-! DEFINITION. DRAM controllers: states, queues, scheduling, refresh, slots, regulators, correction, fill (R352 to R376). -/

namespace Sys2Proof.Machine

def getDmc (s : State) (ch : Nat) : Dmc := s.dmc.get Dmc.reset ch
def setDmc (s : State) (ch : Nat) (d : Dmc) : State := { s with dmc := s.dmc.set ch d }

/-- STATE of a channel: 0 INIT, 1 TEST, 2 SERVICE. -/
def dmcState (s : State) (ch : Nat) : Nat := rf s (Reg.DMC_STATUS ch) 0 2

/-- Whether a channel exists and its domain is ON. -/
def dmcUp (s : State) (ch : Nat) : Bool := blockPresent s .dmc ch && domOn s (39 + ch / 4)

/-- Whether a channel serves requests. -/
def dmcServing (s : State) (ch : Nat) : Bool := dmcUp s ch && dmcState s ch == 2

/-- Data rate of a channel in MT/s. -/
def dmcRate (s : State) (ch : Nat) : Nat := 4800 + 400 * rf s (Reg.DMC_CFG ch) 4 3

/-! ## Address map (R354, R355) -/

/-- The number under which a bank of a channel is named: subchannel, rank, bank group, bank. -/
def bankIdx (l : DramLoc) : Nat := ((l.sc * 2 + l.rank) * 8 + l.bg) * 4 + l.bank

/-- Lines of one channel as its configuration gives them. -/
def linesPerChannel (s : State) : Nat := dramCapacity s / dramChannels s / 64

/-- A write of DMC_MAP (R355): instances 1 to 15 ignore it; `none` is a refusal. -/
def dmcMapEffect (s : State) (ch : Nat) (v : Word) : Option State :=
  if ch ≠ 0 then some s
  else if (upto 16).any fun c => dmcUp s c && dmcState s c != 0 then none
  else if bit v 0 && (fld v 8 5 < 3 || linesPerChannel s < 2 ^ (fld v 8 5 + 3)) then none
  else some (wr s (Reg.DMC_MAP 0) (BitVec.ofNat 64 (fld v 0 1 + 2 ^ 8 * fld v 8 5)))

/-- DMC_MAP_WRITE (R355). -/
def execDmcMapWrite (i : Initiator) (ch : Fin 16) (v : W32) (s : State) : Out :=
  ok (if mapDark s (Reg.DMC_MAP ch) && !cutOff s i .dmc ch then unitAbsent s i (Reg.DMC_MAP ch)
    else regWriteOpt s i (Reg.DMC_MAP ch) (isM0 s i) fun t => dmcMapEffect t ch (w32 v))

/-! ## States (R375) -/

/-- Whether a rank of x8 devices has eight pins marked (R370): every granule is corrected and no further error is detected. -/
def blindX8 (s : State) (ch i : Nat) : Bool := rb s (Reg.DMC_CFG ch) 0 && popcount 40 (rd s (Reg.DMC_ERASE ch i)).toNat == 8

/-- STATUS as a read shows it: MARGIN0 of a channel of x8 devices while some rank has eight pins marked (R370; log entry 26). -/
def dmcStatus (s : State) (ch : Nat) : Word :=
  setFld (rd s (Reg.DMC_STATUS ch)) 5 1 ((upto 4).any fun i => blindX8 s ch i).toNat

/-- A DMC command (Table 14.3); `none` is a refusal. SERVICE and TEST come after a POWERUP that has ended; a FILL that meets another one runs
with it (log entry 26). -/
def dmcCommand (s : State) (ch cmd : Nat) : Option State :=
  let st := Reg.DMC_STATUS ch
  let state := dmcState s ch
  let busy := rb s st 2
  let powered := rb s st 3 && !busy
  if cmd = 1 ∧ state = 0 then some (wb s st 2 true)
  else if cmd = 2 ∧ state = 0 ∧ powered ∧ rd s (Reg.DMC_CFG ch) = rd s (Reg.DMC_CFG 0) then some (wf s st 0 2 2)
  else if cmd = 3 ∧ state = 0 ∧ powered then some (wf s st 0 2 1)
  else if cmd = 4 ∧ state = 1 then some (wb (wf s st 0 2 0) (Reg.DPHY_SWEEP_STATUS ch) 0 false)
  else if cmd = 5 ∧ state = 2 then
    some (setDmc s ch { getDmc s ch with
      fill := (getDmc s ch).fill ++ [(rf s (Reg.DMC_FILL_BASE ch) 6 42, rf s (Reg.DMC_FILL_LIMIT ch) 6 42)] })
  else none

/-- A write of DMC_CMD. -/
def dmcCmdAccess (s : State) (i : Initiator) (ch cmd : Nat) : State :=
  regWriteOpt s i (Reg.DMC_CMD ch) (isM0 s i) fun t => dmcCommand t ch cmd

/-- POWERUP (R375). -/
def execPowerup (i : Initiator) (ch : Fin 16) (s : State) : Out := ok (dmcCmdAccess s i ch 1)

/-- SERVICE (R353, R375). -/
def execService (i : Initiator) (ch : Fin 16) (s : State) : Out := ok (dmcCmdAccess s i ch 2)

/-- TEST (R375). -/
def execTest (i : Initiator) (ch : Fin 16) (s : State) : Out := ok (dmcCmdAccess s i ch 3)

/-- EXIT_TEST (R375). -/
def execExitTest (i : Initiator) (ch : Fin 16) (s : State) : Out := ok (dmcCmdAccess s i ch 4)

/-- FILL (R374). -/
def execFill (i : Initiator) (ch : Fin 16) (s : State) : Out := ok (dmcCmdAccess s i ch 5)

/-- DMC_POWERUP_DONE (R375). -/
def execDmcPowerupDone (ch : Fin 16) (s : State) : Out :=
  ok (if dmcUp s ch && rb s (Reg.DMC_STATUS ch) 2 then wb (wb s (Reg.DMC_STATUS ch) 2 false) (Reg.DMC_STATUS ch) 3 true else s)

/-- Whether an address belongs to a channel's fill range. -/
def inFill (s : State) (ch lo hi a : Nat) : Bool :=
  isDram a && lo ≤ a / 64 && a / 64 ≤ hi && chanOf s a == ch

/-- The oldest fill of a channel completes: its lines in the range hold zeros, FILL_DONE is raised (R374). -/
def fillDone (s : State) (ch : Nat) : State :=
  match (getDmc s ch).fill with
  | [] => s
  | (lo, hi) :: rest =>
    let s := setDmc s ch { getDmc s ch with fill := rest }
    let s := { s with
      mem := s.mem.filter fun c => !inFill s ch lo hi c.1
      poison := s.poison.filter fun l => !inFill s ch lo hi (64 * l)
      fills := { nch := dramChannels s, ch := ch, lo := lo, hi := hi } :: s.fills }
    raiseCond (wb s (Reg.DMC_STATUS ch) 6 true) .dmc ch 0 3

/-- DMC_FILL_DONE (R374). -/
def execDmcFillDone (ch : Fin 16) (s : State) : Out := ok (if dmcServing s ch then fillDone s ch else s)

/-- The DRAM contents of the channels of a group are lost (R374, R375): what nothing writes again reads as a new unknown value. -/
def loseDram (s : State) (g : Nat) : State :=
  let lost := s.fills.filter fun f => f.ch / 4 == g
  let hit := fun (a : Nat) => isDram a && (chanOf s a / 4 == g || filled lost a)
  { s with
    mem := s.mem.filter fun c => !hit c.1
    poison := s.poison.filter fun l => !hit (64 * l)
    fills := s.fills.filter fun f => f.ch / 4 != g
    dmc := s.dmc.drop fun c => c / 4 == g
    dramGen := s.dramGen + 1 }

/-! ## Sweep (R358) -/

/-- A write of SWEEP_CTL: GO is refused outside TEST, and while a sweep runs (log entry 26); `none` is a refusal. -/
def dmcSweepEffect (s : State) (ch : Nat) (v : Word) : Option State :=
  if bit v 0 && (dmcState s ch != 1 || rb s (Reg.DPHY_SWEEP_STATUS ch) 0) then none
  else
    let s := wr s (Reg.DPHY_SWEEP_CTL ch) (BitVec.ofNat 64 (fld v 0 32 &&& 0xFFFF7F06))
    some (if bit v 0 then wb s (Reg.DPHY_SWEEP_STATUS ch) 0 true else s)

/-- DMC_SWEEP (R358). -/
def execDmcSweep (i : Initiator) (ch : Fin 16) (v : W32) (s : State) : Out :=
  ok (regWriteOpt s i (Reg.DPHY_SWEEP_CTL ch) (isM0 s i) fun t => dmcSweepEffect t ch (w32 v))

/-- DMC_SWEEP_DONE (R358): bit i of the result says whether every burst at step i passed; the lane's programmed delay stands. -/
def execDmcSweepDone (ch : Fin 16) (res : BitVec 128) (s : State) : Out :=
  ok (if dmcUp s ch && rb s (Reg.DPHY_SWEEP_STATUS ch) 0 then
    (upto 4).foldl (fun t w => wr t (Reg.DPHY_SWEEP_RES ch w) (BitVec.ofNat 64 (res.toNat / 2 ^ (32 * w) % 2 ^ 32)))
      (wb s (Reg.DPHY_SWEEP_STATUS ch) 0 false)
  else s)

/-! ## Requests (R360 to R362) -/

/-- A request of a home slice. -/
def dmcReq (line : BitVec 42) (ep : BitVec 9) (part : Option Part) (rt poison : Bool) : DmcReq :=
  { line := line.toNat, ep := ep.toNat, part := part.map (·.val), rt := rt, poison := poison, age := 0 }

/-- A line sent to the home: its bytes, or POISON. -/
def dmcAnswer (s : State) (line : Nat) (poison : Bool) : State :=
  { s with resp := if poison then .err ePOISON else .bytes (rdBytes s (64 * line) 64) }

/-- Whether a line belongs to a channel. -/
def dmcOwns (s : State) (ch line : Nat) : Bool := isDram (64 * line) && chanOf s (64 * line) == ch

/-- A read arrives (R360, R361): served from the newest matching write, or queued; without a credit it is not sent. -/
def dmcReadArrive (s : State) (ch : Nat) (q : DmcReq) : State :=
  let d := getDmc s ch
  if !dmcServing s ch || !dmcOwns s ch q.line then s
  else match d.writes.reverse.find? fun w => w.line == q.line with
    | some w => dmcAnswer s q.line w.poison
    | none =>
      if d.reads.length < 128 then setDmc s ch { d with reads := d.reads ++ [{ q with age := d.arrivals }], arrivals := d.arrivals + 1 }
      else s

/-- A write put into the write queue: it replaces an entry of its line not yet issued (R361), in its place. -/
def dmcPutWrite (d : Dmc) (q : DmcReq) : Dmc :=
  if d.writes.any fun w => w.line == q.line then
    { d with writes := d.writes.map fun w => if w.line == q.line then { q with age := w.age } else w }
  else { d with writes := d.writes ++ [{ q with age := d.arrivals }], arrivals := d.arrivals + 1 }

/-- Whether the write queue takes a write of a line. -/
def dmcTakes (d : Dmc) (line : Nat) : Bool := d.writes.length < 128 || d.writes.any fun w => w.line == line

/-- The drain of R360 after a change of the write queue. -/
def dmcDrain (s : State) (ch : Nat) (d : Dmc) : Dmc :=
  let hi := rf s (Reg.DMC_WQCTL ch) 0 7
  let lo := rf s (Reg.DMC_WQCTL ch) 8 7
  { d with draining := if hi < d.writes.length then true else if d.writes.length ≤ lo then false else d.draining }

/-- A full-line write arrives (R361); one that carries POISON leaves the marker (R372). -/
def dmcWriteArrive (s : State) (ch : Nat) (q : DmcReq) (l : List Byte) : State :=
  let d := getDmc s ch
  if !dmcServing s ch || !dmcOwns s ch q.line || !dmcTakes d q.line then s
  else
    let s := setDmc s ch (dmcDrain s ch (dmcPutWrite d q))
    if q.poison then setPoison s q.line else clearPoison (wrBytes s (64 * q.line) (padTo 64 l)) q.line

/-- DMC_READ_REQUEST (R360, R361). -/
def execDmcReadRequest (ch : Fin 16) (line : BitVec 42) (ep : BitVec 9) (part : Option Part) (rt : Bool) (s : State) : Out :=
  ok (dmcReadArrive s ch (dmcReq line ep part rt false))

/-- DMC_WRITE_REQUEST (R360, R361). -/
def execDmcWriteRequest (ch : Fin 16) (line : BitVec 42) (ep : BitVec 9) (part : Option Part) (rt poison : Bool)
    (data : List Byte) (s : State) : Out :=
  ok (dmcWriteArrive s ch (dmcReq line ep part rt poison) data)

/-- A DRAM entry of the error log (R362, R373). -/
def dramLog (s : State) (ch code : Nat) (q : DmcReq) (granule mask : Nat) : State :=
  logErr s { errRec s 3 code .dmc ch with
    part := q.part.getD 0xFF, source := epSource q.ep, initiator := q.ep, addr := 64 * q.line + 32 * granule, detail := dramDetail s ch q.line mask }

/-- A MirWr at the controller (R362): the 8 bytes merge over the granule; where the granule is uncorrectable, as `uncorr` says of its
decode, or holds the marker, POISON is answered and logged. -/
def dmcMirwrRun (s : State) (ch a : Nat) (q : DmcReq) (v : Word) (uncorr : Bool) : State :=
  let d := getDmc s ch
  if !dmcServing s ch || !dmcOwns s ch q.line || !dmcTakes d q.line then s
  else if uncorr || poisoned s q.line then respErr (dramLog s ch 3 q (a / 32 % 2) 0) ePOISON
  else respOk (wrMem (setDmc s ch (dmcDrain s ch (dmcPutWrite d q))) a 8 v.toNat) 0

/-- DMC_MIRWR (R362). -/
def execDmcMirwr (ch : Fin 16) (addr : BitVec 48) (ep : BitVec 9) (part : Option Part) (w : DmcMir) (s : State) : Out :=
  let a := addr.toNat / 8 * 8
  ok (dmcMirwrRun s ch a { line := lineOf a, ep := ep.toNat, part := part.map (·.val), rt := false, poison := false, age := 0 } w.value w.uncorr)

/-! ## Scheduling (R359, R363 to R368) -/

/-- Type and owner of the current slot (Table 14.4): 0 free, 1 owned, 2 refresh. -/
def slotType (s : State) (ch : Nat) : Nat × Nat :=
  let k := (getDmc s ch).slot
  let b := rf s (Reg.DMC_SLOT ch (k / 4)) (8 * (k % 4)) 8
  (if b / 64 = 3 then 0 else b / 64, b % 64)

/-- Whether a request comes from a panicking port (R365): the GPE and SDM act as one endpoint, the Periscope link as another. -/
def fromPanic (d : Dmc) (q : DmcReq) : Bool :=
  (q.ep == 32 * 12 + 22 && d.panics.any (· < 13)) || (q.ep == 32 * 12 + 27 && d.panics.contains 13)

/-- Whether refresh of a rank can no longer be postponed: it is more than DEFER intervals behind (R364). -/
def refreshMust (s : State) (ch : Nat) (d : Dmc) (r : Nat) : Bool :=
  4 * nth d.mult 1 r * rf s (Reg.DMC_REFCTL ch) 0 3 < nth d.owed 0 r

/-- The rank that is owed refresh, restricted to ranks that satisfy `p`. -/
def owedRank (s : State) (ch : Nat) (d : Dmc) (p : Nat → Bool) : Option Nat :=
  (upto (dmcRanks s ch)).find? fun r => 0 < nth d.owed 0 r && p r

/-- What the scheduler issues. -/
inductive DmcItem where
  | read (q : DmcReq) (token : Bool)
  | write (q : DmcReq)
  | refresh (rank : Nat)
  deriving DecidableEq, Repr

/-- The oldest read that satisfies `p`. -/
def oldestRead (d : Dmc) (p : DmcReq → Bool) : Option DmcItem := (d.reads.find? p).map fun q => .read q false

/-- The oldest write that satisfies `p`. -/
def oldestWrite (d : Dmc) (p : DmcReq → Bool) : Option DmcItem := (d.writes.find? p).map .write

/-- The older of the oldest read that satisfies `r` and the oldest write that satisfies `w` (R363); `charge` says whether a read consumes a
token. -/
def oldestItem (d : Dmc) (r w charge : DmcReq → Bool) : Option DmcItem :=
  match d.reads.find? r, d.writes.find? w with
  | some a, some b => some (if a.age ≤ b.age then .read a (charge a) else .write b)
  | some a, none => some (.read a (charge a))
  | none, b => b.map .write

/-- Whether a partition's reads are regulated (R368). -/
def regulated (s : State) (ch : Nat) (q : DmcReq) : Bool :=
  match q.part with
  | some p => rf s (Reg.DMC_REG ch p) 0 12 != 0
  | none => false

/-- Whether a read finds a token. -/
def hasToken (d : Dmc) (q : DmcReq) : Bool :=
  match q.part with
  | some p => 100 ≤ d.tokens.get 0 p
  | none => true

/-- Whether a read may run without a token where nothing else of step 6 can (R368). -/
def softRead (s : State) (ch : Nat) (q : DmcReq) : Bool :=
  match q.part with
  | some p => rb s (Reg.DMC_REG ch p) 24
  | none => false

/-- Step 6 of R363: normal reads then writes, under the regulators. -/
def step6 (s : State) (ch : Nat) (d : Dmc) (el : DmcReq → Bool) : Option DmcItem :=
  match d.reads.find? fun q => el q && !q.rt && (!regulated s ch q || hasToken d q) with
  | some q => some (.read q (regulated s ch q))
  | none =>
    match oldestWrite d el with
    | some w => some w
    | none => oldestRead d fun q => el q && !q.rt && softRead s ch q

/-- The first eligible item in the order of R363. Owed refresh that nothing delays comes last (R364: at the first opportunity). -/
def dmcPick (s : State) (ch : Nat) (busy : List Nat) : Option DmcItem :=
  let d := dmcDrain s ch (getDmc s ch)
  let slots := rb s (Reg.DMC_SLOTCTL ch) 0
  let (ty, owner) := slotType s ch
  let free := fun (q : DmcReq) => !busy.contains (bankIdx (dramDecode s ch q.line))
  if slots && ty == 1 then
    let mine := fun q => free q && q.part == some owner
    oldestItem d mine mine fun _ => false
  else
    let el := fun (q : DmcReq) => free q && !(slots && (match q.part with | some p => partStatic s p | none => false))
    let must := (owedRank s ch d fun r => refreshMust s ch d r).map DmcItem.refresh
    let paid := fun (p : DmcReq → Bool) => oldestItem d (fun q => el q && p q && (!regulated s ch q || hasToken d q)) (fun q => el q && p q)
      (regulated s ch)
    let panic := fun _ => paid (fromPanic d)
    let owed := fun _ => (owedRank s ch d fun _ => d.panics.isEmpty).map DmcItem.refresh
    if slots && ty == 2 then (must.orElse panic).orElse owed
    else
      let rt := fun _ => paid DmcReq.rt
      let drain := fun _ => if d.draining then oldestWrite d el else none
      ((((must.orElse panic).orElse rt).orElse drain).orElse fun _ => step6 s ch d el).orElse owed

/-- The item picked issues. -/
def dmcIssue (s : State) (ch : Nat) : DmcItem → State
  | .read q token =>
    let d := getDmc s ch
    let tk := match q.part with
      | some p => if token then d.tokens.set p (d.tokens.get 0 p - 100) else d.tokens
      | none => d.tokens
    setDmc s ch { d with reads := d.reads.erase q, issued := d.issued ++ [q], tokens := tk }
  | .write q => setDmc s ch (dmcDrain s ch { getDmc s ch with writes := (getDmc s ch).writes.erase q })
  | .refresh r =>
    let d := getDmc s ch
    setDmc s ch { d with owed := listSet d.owed r (nth d.owed 0 r - 1), refIdx := listSet d.refIdx r ((nth d.refIdx 0 r + 1) % 4) }

/-- What a channel issues now: in INIT and TEST, once powered, refresh alone (R364). -/
def dmcNext (s : State) (ch : Nat) (busy : List Nat) : Option DmcItem :=
  if dmcServing s ch then dmcPick s ch busy
  else if dmcUp s ch && rb s (Reg.DMC_STATUS ch) 3 then (owedRank s ch (getDmc s ch) fun _ => true).map .refresh
  else none

/-- DMC_SCHEDULE (R363): `busyBanks` are the banks that the timing values still hold. -/
def execDmcSchedule (ch : Fin 16) (busyBanks : List Nat) (s : State) : Out :=
  ok (match dmcNext s ch busyBanks with
    | some it => dmcIssue s ch it
    | none => s)

/-- A tREFI passes (R364): four REFsb more are owed per rank, times the rate that MR4 asked for; a panic that outlasts DEFER sets
DEFER_MAX (R365). -/
def refreshDue (s : State) (ch : Nat) : State :=
  let d := getDmc s ch
  let d := { d with
    owed := (upto 2).map fun r => if r < dmcRanks s ch then nth d.owed 0 r + 4 * nth d.mult 1 r else 0
    panicLen := d.panics.foldl (fun t n => t.set n (t.get 0 n + 1)) d.panicLen }
  let s := setDmc s ch d
  let long := d.panics.any fun n => rf s (Reg.DMC_REFCTL ch) 0 3 < d.panicLen.get 0 n
  if long && !rb s (Reg.DMC_STATUS ch) 4 then
    raiseCond (wb s (Reg.DMC_STATUS ch) 4 true) .dmc ch 0 2
  else s

/-- DMC_REFRESH (R364). -/
def execDmcRefresh (ch : Fin 16) (s : State) : Out :=
  ok (if dmcUp s ch && rb s (Reg.DMC_STATUS ch) 3 then refreshDue s ch else s)

/-- DMC_MR4_READ (R364): the rate that the rank's MR4 asks for, as a multiple. -/
def execDmcMr4Read (ch : Fin 16) (rank : Bool) (mult : Nat) (s : State) : Out :=
  ok (if dmcUp s ch && rb s (Reg.DMC_STATUS ch) 3 then
    setDmc s ch { getDmc s ch with mult := listSet (getDmc s ch).mult rank.toNat (max 1 mult) } else s)

/-- DMC_SLOT_START (R366). -/
def execDmcSlotStart (ch : Fin 16) (s : State) : Out :=
  ok (if dmcUp s ch && rb s (Reg.DMC_SLOTCTL ch) 0 then setDmc s ch { getDmc s ch with slot := ((getDmc s ch).slot + 1) % 32 } else s)

/-- The bucket of a partition gains one step of RATE / 100 tokens and holds at most BURST (R368). -/
def refillTokens (s : State) (ch p : Nat) : State :=
  let r := rd s (Reg.DMC_REG ch p)
  let d := getDmc s ch
  setDmc s ch { d with tokens := d.tokens.set p (min (100 * max 1 (fld r 16 8)) (d.tokens.get 0 p + fld r 0 12)) }

/-- DMC_TOKEN_REFILL (R368). -/
def execDmcTokenRefill (ch : Fin 16) (p : Part) (s : State) : Out :=
  ok (if dmcUp s ch && rf s (Reg.DMC_REG ch p) 0 12 != 0 then refillTokens s ch p else s)

/-- Refresh slots of a channel's frame. -/
def refreshSlots (s : State) (ch : Nat) : Nat :=
  ((upto 32).filter fun k => rf s (Reg.DMC_SLOT ch (k / 4)) (8 * (k % 4) + 6) 2 == 2).length

/-- Whether SLOTCTL may set EN under a slot length (R367). -/
def slotsSuffice (s : State) (ch ns : Nat) : Bool :=
  let mt := dmcRate s ch
  let trefi := rf s (Reg.DMC_TIM3 ch) 0 16
  rf s (Reg.DMC_TIM2 ch) 20 12 * 2000 ≤ ns * mt && 0 < trefi &&
    8 * dmcRanks s ch * 32 * ns * mt ≤ refreshSlots s ch * trefi * 2000

/-- A write of SLOTCTL (R367); `none` is a refusal. A frame that begins, begins with slot 0. -/
def slotctlEffect (s : State) (ch : Nat) (v : Word) : Option State :=
  let ns := fld v 8 8
  let on := rb s (Reg.DMC_SLOTCTL ch) 0
  if ns < 40 ∨ (bit v 0 ∧ !slotsSuffice s ch ns) then none
  else
    let s := wr s (Reg.DMC_SLOTCTL ch) (BitVec.ofNat 64 (fld v 0 1 + 2 ^ 8 * ns))
    some (if bit v 0 && !on then setDmc s ch { getDmc s ch with slot := 0 } else s)

/-- DMC_SLOT_ENABLE (R367). -/
def execDmcSlotEnable (i : Initiator) (ch : Fin 16) (v : W32) (s : State) : Out :=
  ok (regWriteOpt s i (Reg.DMC_SLOTCTL ch) (isM0 s i) fun t => slotctlEffect t ch (w32 v))

/-- Panic of a real-time port changes at every channel that enables it (R365); `n` is its bit of DMC_PANIC. -/
def panicSet (s : State) (n : Nat) (on : Bool) : State :=
  (upto 16).foldl (fun t ch =>
    let d := getDmc t ch
    if !dmcUp t ch then t
    else if on && rb t (Reg.DMC_PANIC ch) n then
      if d.panics.contains n then t
      else countReg (setDmc t ch { d with panics := n :: d.panics, panicLen := d.panicLen.set n 0 }) (Reg.DMC_PANICCNT ch)
    else if d.panics.contains n then setDmc t ch { d with panics := d.panics.erase n } else t) s

/-! ## Read data (R369 to R373) -/

/-- Whether the decoder corrects a granule whose wrong symbols are `mask` (R370). -/
def granuleOk (s : State) (ch i mask : Nat) (uncorr : Bool) : Bool :=
  let marks := (rd s (Reg.DMC_ERASE ch i)).toNat % 2 ^ 40
  let f := popcount 40 marks
  let extra := popcount 40 (mask &&& (2 ^ 40 - 1 - marks))
  let t := if rb s (Reg.DMC_CFG ch) 0 then 0 else (8 - f) / 2
  blindX8 s ch i || (!uncorr && f ≤ 8 && extra ≤ t)

/-- Corrections counted per pin, and the PIN condition at PIN_THR (R373). -/
def countPins (s : State) (ch sc mask : Nat) : State :=
  (upto 40).foldl (fun t j =>
    if !mask.testBit j then t else
    let d := getDmc t ch
    let pin := 40 * sc + j
    let n := min 0xFFFFFFFF (d.pins.get 0 pin + 1)
    let d := { d with pins := d.pins.set pin n }
    let thr := rf t (Reg.DMC_PIN_THR ch) 0 32
    if thr ≠ 0 ∧ thr ≤ n ∧ !d.pinRaised.contains pin then
      raiseCond (setDmc t ch { d with pinRaised := pin :: d.pinRaised }) .dmc ch 0 1
    else setDmc t ch d) s

/-- One granule of a read: counts and entries (R373). -/
def granuleRead (s : State) (ch : Nat) (q : DmcReq) (g mask : Nat) (uncorr : Bool) : State :=
  let l := dramDecode s ch q.line
  if !granuleOk s ch (2 * l.rank + l.sc) mask uncorr then
    raiseCond (dramLog (countReg s (Reg.DMC_UECNT ch)) ch 1 q g 0) .dmc ch 0 0
  else if mask = 0 then s
  else
    let s := countPins (countReg s (Reg.DMC_CECNT ch)) ch l.sc mask
    let d := getDmc s ch
    let due := match d.ceLogAt with
      | none => true
      | some t => t + 1000 * rf s (Reg.DMC_CE_LOGINT ch) 0 32 ≤ s.time
    if due then dramLog (setDmc s ch { d with ceLogAt := some s.time }) ch 0 q g mask else s

/-- Data of the oldest issued read comes back: decoded, corrected, or poisoned, and sent to the home; a corrected line whose write finds no
place in the write queue waits (R360, R371). A line with a granule that cannot be corrected reads as poisoned until it is written (log entry
70); what an undetected error makes of a line is free (log entry 111). DESIGN CHOICE: a read with one granule corrected and one
uncorrectable queues no write, for R371 writes the corrected line and there is none (log entry 116). -/
def readData (s : State) (ch m0 m1 : Nat) (u0 u1 : Bool) : State :=
  let d := getDmc s ch
  match d.issued with
  | [] => s
  | q :: rest =>
    let l := dramDecode s ch q.line
    let i := 2 * l.rank + l.sc
    let bad := !granuleOk s ch i m0 u0 || !granuleOk s ch i m1 u1
    let fix := fun (m : Nat) => (m &&& (2 ^ 40 - 1 - (rd s (Reg.DMC_ERASE ch i)).toNat % 2 ^ 40)) != 0
    let old := s
    let s := setDmc s ch { d with issued := rest }
    if !bad && poisoned s q.line then dmcAnswer (dramLog (countReg s (Reg.DMC_PRCNT ch)) ch 2 q 0 0) q.line true
    else
      let scrub := !bad && !blindX8 s ch i && (fix m0 || fix m1)
      if scrub && !dmcTakes d q.line then old else
      let seen := fun (m : Nat) => if blindX8 s ch i then m &&& (rd s (Reg.DMC_ERASE ch i)).toNat else m
      let s := granuleRead (granuleRead s ch q 0 (seen m0) u0) ch q 1 (seen m1) u1
      let s := if bad then setPoison s q.line else s
      let s := if scrub then
        setDmc s ch (dmcDrain s ch (dmcPutWrite (getDmc s ch) { q with part := none, rt := false })) else s
      if blindX8 s ch i && (u0 || u1 || fix m0 || fix m1) then
        { s with resp := .bytes (freeBytes s 64), freeCtr := s.freeCtr + 64 }
      else dmcAnswer s q.line bad

/-- DMC_READ_DATA (R370 to R374). -/
def execDmcReadData (ch : Fin 16) (symbols0 symbols1 : BitVec 40) (uncorr0 uncorr1 : Bool) (s : State) : Out :=
  ok (if dmcServing s ch then readData s ch symbols0.toNat symbols1.toNat uncorr0 uncorr1 else s)

/-! ## Temperature compensation (R357) -/

/-- A byte as a signed number. -/
def sbyte (x : Nat) : Int := if x < 128 then (x : Int) else (x : Int) - 256

/-- TEMP of an entry. -/
def tcompTemp (s : State) (ch i : Nat) : Int := sbyte (rf s (Reg.DPHY_TCOMP ch i) 0 8)

/-- The enabled entry with the highest TEMP that does not exceed a reading. -/
def tcompBest (s : State) (ch : Nat) (t : Int) : Option Nat :=
  ((upto 8).filter fun i => rb s (Reg.DPHY_TCOMP ch i) 31 && decide (tcompTemp s ch i ≤ t)).foldl (fun b i =>
    match b with
    | none => some i
    | some j => if tcompTemp s ch j < tcompTemp s ch i then some i else some j) none

/-- The temperature is read (R357): an entry is left downward only when the reading is 2 °C below its TEMP. -/
def tempRead (s : State) (ch : Nat) (temp : Byte) : State :=
  let t := sbyte temp.toNat
  let s := wr s (Reg.DPHY_TEMP ch) (BitVec.ofNat 64 temp.toNat)
  let d := getDmc s ch
  let best := tcompBest s ch t
  let sel := match d.tsel with
    | none => best
    | some i =>
      if rb s (Reg.DPHY_TCOMP ch i) 31 && decide (t < tcompTemp s ch i) && decide (tcompTemp s ch i < t + 2) then some i else best
  let off := match sel with
    | none => (0, 0)
    | some i => (rf s (Reg.DPHY_TCOMP ch i) 8 8, rf s (Reg.DPHY_TCOMP ch i) 16 8)
  setDmc s ch { d with tsel := sel, offset := off }

/-- DMC_TEMP_READ (R357). -/
def execDmcTempRead (ch : Fin 16) (temp : Byte) (s : State) : Out := ok (if dmcUp s ch then tempRead s ch temp else s)

/-- DMC_OFFSET_APPLY (R357). -/
def execDmcOffsetApply (ch : Fin 16) (s : State) : Out :=
  ok (if dmcUp s ch then setDmc s ch { getDmc s ch with applied := (getDmc s ch).offset } else s)

/-- The delay in effect on a pin: its programmed value plus the offset, held at 0 to 127 (R356). -/
def effDelay (prog off : Nat) : Nat := (min 127 (max 0 ((prog : Int) + sbyte off))).toNat

/-! ## Rules of the other registers (Tables 14.4, 14.5) -/

/-- QSTAT. -/
def dmcQstat (s : State) (ch : Nat) : Nat := min 255 (getDmc s ch).reads.length + 2 ^ 8 * min 255 (getDmc s ch).writes.length

/-- SLOTSTAT. -/
def dmcSlotstat (s : State) (ch : Nat) : Nat :=
  (getDmc s ch).slot + 2 ^ 8 * (Config.slotLines ([Reg.DMC_CFG ch, Reg.DMC_TIM0 ch, Reg.DMC_TIM1 ch, Reg.DMC_TIM2 ch,
    Reg.DMC_TIM3 ch, Reg.DMC_SLOTCTL ch].map (rd s)) % 256)

/-- PIN_CNT of the selected pin. -/
def dmcPinCnt (s : State) (ch : Nat) : Nat := (getDmc s ch).pins.get 0 (rf s (Reg.DMC_PIN_SEL ch) 0 7)

/-- PIN_CNT of the selected pin read and cleared. -/
def dmcPinClear (s : State) (ch : Nat) : State :=
  setDmc s ch { getDmc s ch with pins := (getDmc s ch).pins.set (rf s (Reg.DMC_PIN_SEL ch) 0 7) 0 }

/-- What a write of a register of Table 14.4 or 14.5 that has no row of its own stores: `none` is a refusal; the flag says that the
value is held at a limit. -/
def dmcFieldRule (s : State) (ch page off : Nat) (v : Word) : Option (Word × Bool) :=
  let st := dmcState s ch
  if page = 0 then
    if off = 0x108 then if st ≠ 0 ∨ fld v 2 2 = 3 ∨ 4 < fld v 4 3 then none else some (v, false)
    else if 0x110 ≤ off ∧ off < 0x120 then if st ≠ 0 then none else some (v, false)
    else if off = 0x124 then if fld v 0 7 ≤ fld v 8 7 then none else some (v, false)
    else if off = 0x128 then if 4 < fld v 0 3 then some (setFld v 0 3 4, true) else some (v, false)
    else if 0x148 ≤ off ∧ off < 0x168 then if rb s (Reg.DMC_SLOTCTL ch) 0 then none else some (v, false)
    else if 0x200 ≤ off then if 800 < fld v 0 12 then some (setFld v 0 12 800, true) else some (v, false)
    else some (v, false)
  else if off < 0x2A0 then if st = 2 then none else some (v, false)
  else some (v, false)

end Sys2Proof.Machine
end

