-- ==== Sys2Proof/Machine/Psl.lean ====
section
/-! DEFINITION. The Periscope chain link (R418 to R432). -/

namespace Sys2Proof.Machine

/-- Number of a port: 0 upstream, 1 downstream. -/
def px (x : Bool) : Nat := x.toNat

def getPp (s : State) (x : Bool) : PslPort := nth s.psl.ports PslPort.reset (px x)
def setPp (s : State) (x : Bool) (p : PslPort) : State := { s with psl := { s.psl with ports := listSet s.psl.ports (px x) p } }

/-- Whether the link's domain is ON and CTL.EN is 1. -/
def pslOn (s : State) : Bool := domOn s 47 && rb s Reg.PSL_CTL 0

/-- STATE of a port: 0 DOWN, 1 ALIGN, 2 IDENT, 3 CAL, 4 UP. -/
def ppState (s : State) (x : Bool) : Nat := rf s (Reg.PSLP_STATUS (px x)) 0 3
def ppGoto (s : State) (x : Bool) (st : Nat) : State := wf s (Reg.PSLP_STATUS (px x)) 0 3 st

/-- Whether a port is UP. -/
def ppUp (s : State) (x : Bool) : Bool := pslOn s && ppState s x == 4

/-- Whether a port carries SAFETY and RING frames: UP, and not left with TIME frames only by a neighbour with another serial (Table 17.4). -/
def ppCarries (s : State) (x : Bool) : Bool := ppUp s x && !(getPp s x).timeOnly

/-- A condition of a port's page. -/
def ppCond (s : State) (x : Bool) (k : Nat) : State := raiseCond s .psl 0 (px x + 1) k

def pslHead (s : State) : Bool := rb s Reg.PSL_CTL 1
def pslAddr (s : State) : Nat := rf s Reg.PSL_STATUS 0 6
def pslValid (s : State) : Bool := rb s Reg.PSL_STATUS 6
def pslRing (s : State) : Bool := rb s Reg.PSL_STATUS 7

/-- Frames discarded and counted in UNREACH; the condition is raised. -/
def pslUnreach (s : State) (n : Nat) : State := if n = 0 then s else raiseCond (addReg s Reg.PSL_UNREACH n) .psl 0 0 3

/-! ## Frames (R418, R419, R429) -/

/-- CRC-8 with polynomial x^8 + x^2 + x + 1 over a number's low `n` bits, highest bit first (log entry 29). -/
def crc8 (x : Nat) : Nat → Nat → Nat
  | 0, c => c
  | n + 1, c =>
    let top := Nat.testBit c 7 != x.testBit n
    crc8 x n ((2 * c % 256) ^^^ (if top then 7 else 0))

/-- Whether a device sends SAFE on a port (R429). -/
def safeOut (s : State) (x : Bool) : Bool :=
  (smgState s == 3 && rb s Reg.PSL_CTL 2) ||
    (rb s Reg.PSL_CTL 3 && rb s (Reg.PSLP_STATUS (px !x)) 4 && !(pslHead s && pslRing s && x))

/-- A link word before its HSEQ, HACK, SAFE and CRC (Table 17.1). -/
def pslWord (type src dst hops chan seq : Nat) : Word :=
  BitVec.ofNat 64 (type + 2 ^ 5 * (src % 64) + 2 ^ 11 * (dst % 128) + 2 ^ 18 * (hops % 64) + 2 ^ 24 * (chan % 64) + 2 ^ 30 * (seq % 256))

/-- The link word as a port sends it. -/
def wordOut (s : State) (x : Bool) (w : Word) (hseq : Nat) : Word :=
  let w := setFld w 3 2 (if safeOut s x then 2 else 1)
  let w := setFld (setFld w 38 9 hseq) 47 9 ((getPp s x).expect + 511)
  setFld w 56 8 (crc8 (w.toNat % 2 ^ 56) 56 0)

/-- A frame leaves a port. -/
def frameOut (s : State) (x : Bool) (w : Word) (hseq : Nat) (l : List Byte) : State :=
  { s with sent := .psl (px x) (wordOut s x w hseq) l }

/-- Held frames leave while fewer than 511 are unacknowledged (R419); `n` bounds their number. -/
def pump (s : State) (x : Bool) : Nat → State
  | 0 => s
  | n + 1 =>
    let p := getPp s x
    match p.held with
    | [] => s
    | f :: rest =>
      if !ppUp s x || 511 ≤ p.replay.length then s
      else
        let p' := { p with held := rest, replay := p.replay ++ [(p.next, f)], next := (p.next + 1) % 512 }
        pump (frameOut (setPp s x p') x f.word p.next f.payload) x n

/-- A SAFETY or RING frame goes to a port. -/
def sendOn (s : State) (x : Bool) (f : PslFrame) : State :=
  let s := setPp s x { getPp s x with held := (getPp s x).held ++ [f] }
  pump s x (getPp s x).held.length

/-- HACK acknowledges every frame up to the one it names (R419). -/
def ackTo (l : List (Nat × PslFrame)) (hack : Nat) : List (Nat × PslFrame) :=
  if l.any fun e => e.1 == hack then (l.dropWhile fun e => e.1 != hack).drop 1 else l

/-- What every good frame brings: the time it came, HACK, and the SAFE field (R419, R429). -/
def frameIn (s : State) (x : Bool) (w : Word) : State :=
  let p := getPp s x
  let s := setPp s x { p with good := s.time, replay := ackTo p.replay (fld w 47 9) }
  let s := pump s x (getPp s x).held.length
  let r := Reg.PSLP_STATUS (px x)
  let was := rb s r 4
  match fld w 3 2 with
  | 1 =>
    let s := wb s r 4 false
    wb s Reg.PSL_STATUS 15 (rb s (Reg.PSLP_STATUS 0) 4 || rb s (Reg.PSLP_STATUS 1) 4)
  | 2 =>
    let s := wb (wb s r 4 true) Reg.PSL_STATUS 15 true
    if was then s else raiseCond s .psl 0 0 0
  | _ => countReg s (Reg.PSLP_UNCORR (px x))

/-- Whether a link word's CRC holds (Table 17.1). -/
def pslCrcOk (w : Word) : Bool := fld w 56 8 == crc8 (fld w 0 56) 56 0

/-- Whether a frame is discarded on arrival (R419): its CRC fails or more than four bytes are bad; TYPE 7 is counted with them. -/
def frameBad (f : PslFrame) : Bool := !pslCrcOk f.word || f.uncorr || 4 < f.corrected || fld f.word 0 3 == 7

/-- A frame is discarded and counted; a good CRC still shows that the neighbour is there (R419, R420). -/
def frameDiscard (s : State) (x : Bool) (f : PslFrame) : State :=
  let s := if pslCrcOk f.word then setPp s x { getPp s x with good := s.time } else s
  countReg s (Reg.PSLP_UNCORR (px x))

/-- A good frame is taken in; corrections are counted. -/
def frameTake (s : State) (x : Bool) (f : PslFrame) : State :=
  let s := frameIn s x f.word
  if 0 < f.corrected then countReg s (Reg.PSLP_CORR (px x)) else s

/-- A REPLAY request is sent for the expected HSEQ (R419). -/
def askReplay (s : State) (x : Bool) : State :=
  let p := getPp s x
  let s := countReg (setPp s x { p with asked := some ((p.asked.getD 0) + 1) }) (Reg.PSLP_REPLAY (px x))
  frameOut s x (pslWord 6 (pslAddr s) 0 0 0 0) p.expect []

/-! ## Bring-up (R420, R421) -/

/-- A port's frames under way are dropped and counted (Table 17.4). -/
def dropFlight (s : State) (x : Bool) : State :=
  let p := getPp s x
  pslUnreach (setPp s x { p with replay := [], held := [], asked := none }) (p.replay.length + p.held.length)

/-- A port goes DOWN (Table 17.4). -/
def ppDown (s : State) (x : Bool) : State := ppCond (ppGoto (dropFlight s x) x 0) x 0

/-- A port begins at ALIGN. -/
def ppAlign (s : State) (x : Bool) : State :=
  ppGoto (setPp s x { getPp s x with cal := [], good := s.time }) x 1

/-- An UP port whose delay no longer fits BUDGET returns to CAL (Table 17.4). -/
def ppBudget (s : State) (x : Bool) : State :=
  if ppState s x = 4 && decide ((rf s Reg.PSL_CTL 16 10 : Int) < sfld (rd s (Reg.PSLP_DELAY (px x))) 0 16 + 160) then
    ppCond (ppGoto (wb s (Reg.PSLP_STATUS (px x)) 3 true) x 3) x 2
  else s

/-- The Periscope link with EN at 0: nothing under way; the far serials stay recorded (R420). -/
def pslIdle (p : Psl) : Psl := { Psl.reset with ports := p.ports.map fun q => { PslPort.reset with serial := q.serial } }

/-- A write of PSL_CTL: BUDGET is held at 200 to 600; EN starts or stops the enabled ports; RENUMBER acts at the head (R420, R421). The
flag says that BUDGET was held. -/
def pslCtlEffect (s : State) (v : Word) : State × Bool :=
  let b := fld v 16 10
  let b' := min 600 (max 200 b)
  let was := rb s Reg.PSL_CTL 0
  let s := wr s Reg.PSL_CTL (BitVec.ofNat 64 (fld v 0 4 + 2 ^ 16 * b'))
  let s :=
    if bit v 0 && !was then
      let s := if bit v 1 then wf s Reg.PSL_STATUS 0 6 0 else s
      [false, true].foldl (fun t x => if rb t (Reg.PSLP_CTL (px x)) 0 then t else ppAlign t x) s
    else if !bit v 0 && was then
      let s := [false, true].foldl (fun t x => if ppState t x = 0 then t else ppDown t x) s
      wb { s with psl := pslIdle s.psl } Reg.PSL_STATUS 6 false
    else s
  (ppBudget (ppBudget s false) true, b != b')

/-- The address state that a port's IDENT carries (R421): downstream the device's address once it has one, with bit 6 set, which the
head always has; 0 otherwise. -/
def identState (s : State) (x : Bool) : Nat :=
  if x && (pslHead s || (getPp s false).addr.isSome) then 2 ^ 6 + pslAddr s else 0

/-- Every address is assigned again (R421): frames under way are dropped and counted; the ports carry messages again. -/
def renumber (s : State) : State :=
  let s := [false, true].foldl (fun t x => setPp (dropFlight t x) x { getPp (dropFlight t x) x with timeOnly := false, addr := none }) s
  let s := pslUnreach { s with psl := { s.psl with seen := [], staging := [] } } s.psl.staging.length
  let s := wb (wf s Reg.PSL_STATUS 0 6 0) Reg.PSL_STATUS 6 false
  if ppUp s true then frameOut s true (pslWord 1 0 0x7F 0 0 0) 0 [0] else s

/-- A write of PSL_CTL with its RENUMBER bit, which acts at the head of an enabled link only (R421). -/
def pslCtlNow (s : State) (v : Word) : State × Bool :=
  let (u, clamp) := pslCtlEffect s v
  (if bit v 4 && bit v 1 && bit v 0 then renumber u else u, clamp)

/-- A write of PSL_CTL as an access. -/
def pslCtlAccess (s : State) (i : Initiator) (v : Word) : State :=
  regWrite s i Reg.PSL_CTL true true fun t =>
    let (u, clamp) := pslCtlNow t v
    if clamp then clampNote u i Reg.PSL_CTL else u

/-- PSL_ENABLE (R420). -/
def execPslEnable (i : Initiator) (v : W32) (s : State) : Out := ok (pslCtlAccess s i (w32 v))

/-- PSL_RENUMBER (R421): a write of CTL that keeps its fields and sets RENUMBER; it acts at the head only. -/
def execPslRenumber (i : Initiator) (s : State) : Out :=
  ok (pslCtlAccess s i (BitVec.ofNat 64 (rf s Reg.PSL_CTL 0 4 + 2 ^ 4 + 2 ^ 16 * rf s Reg.PSL_CTL 16 10)))

/-- A write of a port's CTL (R420): DISABLE takes the port down, RETRAIN starts it at ALIGN. -/
def pslPortCtl (s : State) (x : Bool) (v : Word) : State :=
  let s := wr s (Reg.PSLP_CTL (px x)) (BitVec.ofNat 64 (fld v 0 1))
  if bit v 0 then (if ppState s x = 0 then s else ppDown s x)
  else if bit v 1 && pslOn s then ppAlign (setPp s x { getPp s x with failed := 0 }) x
  else s

/-- PSL_PORT_RETRAIN (R420). -/
def execPslPortRetrain (i : Initiator) (x : Bool) (v : W32) (s : State) : Out :=
  ok (regWrite s i (Reg.PSLP_CTL (px x)) true true fun t => pslPortCtl t x (w32 v))

/-- PSL_ALIGN_DONE (R420): the port sends its IDENT. -/
def execPslAlignDone (x : Bool) (s : State) : Out :=
  ok (if pslOn s && ppState s x == 1 then
    let s := setPp (ppGoto s x 2) x { getPp s x with good := s.time }
    frameOut s x (pslWord 1 (pslAddr s) 0x7F 0 0 0) 0 (leBytes 8 s.serial.toNat ++ leBytes 1 (identState s x))
  else s)

/-- COUNT becomes known (R421). -/
def setCount (s : State) (n : Nat) : State := wb (wf s Reg.PSL_STATUS 8 7 n) Reg.PSL_STATUS 6 true

/-- COUNT leaves by a port: upstream from the tail, around the ring from its head, on its way at every other device (R421). -/
def countOut (s : State) (x : Bool) (n : Nat) : State :=
  frameOut (setCount s n) x (pslWord 1 (pslAddr s) 0x7F 0 0 0) 0 [BitVec.ofNat 8 n]

/-- An address received upstream (R421). -/
def takeAddr (s : State) (a : Nat) : State :=
  let p := getPp s false
  if pslHead s then countOut (wb s Reg.PSL_STATUS 7 true) true (a + 1)
  else match p.addr with
    | some old =>
      if old = a then s else raiseCond s .psl 0 0 1
    | none =>
      let s := wf (setPp s false { p with addr := some a }) Reg.PSL_STATUS 0 6 (a + 1)
      if ppUp s true then frameOut s true (pslWord 1 (pslAddr s) 0x7F 0 0 0) 0 [BitVec.ofNat 8 (pslAddr s)]
      else countOut s false (a + 2)

/-- An IDENT frame (R420, R421): serial, the address that the head's side gives, COUNT, which every device but the head relays. -/
def identRun (s : State) (x : Bool) (serial : Word) (addr : Option Nat) (count : Option Nat) : State :=
  let p := getPp s x
  let changed := match p.serial with
    | some o => o != serial
    | none => false
  let s := setPp (wr s (Reg.PSLP_NBR_SERIAL (px x)) serial) x
    { p with serial := some serial, good := s.time, timeOnly := p.timeOnly || changed }
  let s := if changed then raiseCond (wb s (Reg.PSLP_STATUS (px x)) 5 true) .psl 0 0 1 else s
  let s := if ppState s x = 2 then ppGoto (setPp s x { getPp s x with cal := [] }) x 3 else s
  let s := match addr with
    | some a => if x then s else takeAddr s a
    | none => s
  match count with
  | some n => if pslHead s then setCount s n else countOut s (!x) n
  | none => s

/-- PSL_IDENT (R421). -/
def execPslIdent (x : Bool) (serial : Word) (addr : Option (BitVec 6)) (count : Option (BitVec 7)) (s : State) : Out :=
  ok (if pslOn s && 2 ≤ ppState s x then identRun s x serial (addr.map BitVec.toNat) (count.map BitVec.toNat) else s)

/-- A calibration exchange (R423): DELAY is the mean of the last 16; a port in CAL with 16 exchanges, or UP, is judged by BUDGET. -/
def calRun (s : State) (x : Bool) (t1 t2 t3 t4 : Int) : State :=
  let p := getPp s x
  let one := ((t4 - t1) - (t3 - t2)) / 2 + sfld (rd s (Reg.PSLP_ASYM (px x))) 0 16
  let cal := (one :: p.cal).take 16
  let mean := (cal.foldl (· + ·) 0) / (cal.length : Int)
  let s := setPp s x { p with cal := cal, good := s.time }
  let s := wr s (Reg.PSLP_DELAY (px x)) (BitVec.ofNat 64 (BitVec.ofInt 16 mean).toNat)
  if cal.length < 16 then s
  else if decide ((rf s Reg.PSL_CTL 16 10 : Int) < mean + 160) then
    let new := !rb s (Reg.PSLP_STATUS (px x)) 3
    let s := ppGoto (wb s (Reg.PSLP_STATUS (px x)) 3 true) x 3
    if new then ppCond s x 2 else s
  else
    let s := wb s (Reg.PSLP_STATUS (px x)) 3 false
    if ppState s x = 4 then s
    else
      let s := ppCond (ppGoto (setPp s x { getPp s x with asked := none }) x 4) x 1
      pump s x (getPp s x).held.length

/-- PSL_CAL (R423). -/
def execPslCal (x : Bool) (t1 t2 t3 t4 : Word) (s : State) : Out :=
  ok (if pslOn s && 3 ≤ ppState s x then calRun s x t1.toNat t2.toNat t3.toNat t4.toNat else s)

/-- PSL_CALIBRATE (R423): an UP port starts an exchange at its REFTIME t1. -/
def execPslCalibrate (x : Bool) (s : State) : Out :=
  ok (if ppUp s x then frameOut s x (pslWord 2 (pslAddr s) 0x7F 0 0 0) 0 (leBytes 8 s.time) else s)

/-- PSL_PORT_TIMEOUT (R420, Table 17.4): 10 µs without a good frame take the port down, and it starts again at ALIGN. -/
def execPslPortTimeout (x : Bool) (s : State) : Out :=
  ok (if pslOn s && 2 ≤ ppState s x && (getPp s x).good + 10000 ≤ s.time then ppAlign (ppDown s x) x else s)

/-! ## Time transfer (R422 to R425) -/

/-- Code of a time base state (Table 3.14). -/
def tbStateCode : TbState → Nat
  | .unlocked => 0
  | .tracking => 1
  | .holdover => 2
  | .failed => 3

/-- The payload of a sample (Table 17.2). -/
def timePayload (s : State) (n : Nat) : List Byte :=
  let t := getTb s n
  leBytes 8 t.phase.toNat ++ leBytes 8 (ofI t.rate).toNat ++ leBytes 4 0 ++
    leBytes 1 (tbStateCode t.st + 4 * t.rev.toNat) ++ leBytes 3 0 ++ leBytes 8 t.unc

/-- PSL_TIME_SAMPLE (R422): at multiples of 1,000 ns every enabled index is sampled and sent on both UP ports. -/
def execPslTimeSample (s : State) : Out :=
  ok (if !pslOn s || s.time % 1000 != 0 then s else
    (upto 16).foldl (fun t i =>
      if !rb t (Reg.PSL_TBTX i) 31 then t else
      [false, true].foldl (fun u x =>
        if ppUp u x then frameOut u x (pslWord 3 (pslAddr u) 0x7F 0 i 0) 0 (timePayload u (rf u (Reg.PSL_TBTX i) 0 4)) else u) t) s)

/-- The last sample of an index on a port, while it is less than 2 µs old (R424). -/
def sampleOf (s : State) (x : Bool) (i : Nat) : Option (Nat × Nat × Nat) :=
  match (getPp s x).samples.get? i with
  | some e => if s.time < e.1 + 2000 then some e else none
  | none => none

/-- The port in use for an index (R424): the lower HOPS, upstream on a tie. -/
def portInUse (s : State) (i : Nat) : Option Bool :=
  match sampleOf s false i, sampleOf s true i with
  | some a, some b => some (decide (b.2.1 < a.2.1))
  | some _, none => some false
  | none, some _ => some true
  | none, none => none

/-- TBRX of an index shows the port in use, its HOPS and SRC. -/
def tbrxShow (s : State) (i : Nat) : State :=
  let c := rf s (Reg.PSL_TBRX i) 14 1
  match portInUse s i with
  | none => wr s (Reg.PSL_TBRX i) (BitVec.ofNat 64 (2 ^ 14 * c))
  | some x =>
    let e := (sampleOf s x i).getD (0, 0, 0)
    wr s (Reg.PSL_TBRX i) (BitVec.ofNat 64 (1 + px x + 2 ^ 2 * (e.2.1 % 64) + 2 ^ 8 * (e.2.2 % 64) + 2 ^ 14 * c))

/-- The tick that a TIME frame gives (R424). -/
def pslTick (s : State) (x : Bool) (l : List Byte) : Word :=
  let rate := sfld (BitVec.ofNat 64 (leNat ((l.drop 8).take 8))) 0 64
  let age := leNat ((l.drop 16).take 4)
  let d : Int := age + (rf s (Reg.PSLP_DELAY (px x)) 0 16 : Int) + sfld (rd s (Reg.PSLP_ASYM (px x))) 0 16
  BitVec.ofNat 64 (leNat (l.take 8)) + ofI ((rate * d).tdiv 65536)

/-- A TIME frame (R422, R424): sample recorded, conflict noted, tick given where its port is in use, forwarded. -/
def timeFrame (s : State) (x : Bool) (f : PslFrame) (inside : Nat) : State :=
  let i := fld f.word 24 6 % 16
  let src := fld f.word 5 6
  let hops := fld f.word 18 6
  let s := setPp s x { getPp s x with samples := (getPp s x).samples.set i (s.time, hops, src) }
  let s := if rb s (Reg.PSL_TBTX i) 31 then raiseCond (wb s (Reg.PSL_TBRX i) 14 true) .psl 0 0 2 else s
  let s := tbrxShow s i
  let st := (f.payload.getD 20 0).toNat % 4
  let s := if (st == 1 || st == 2) && portInUse s i == some x && domOn s 46 then
    let v := pslTick s x f.payload
    (tbsOf s 3 i).foldl (fun t n => giveTick t n { v := wrap80 (accOf v + (getTb t n).offset), t := t.time, rev := false }) s else s
  if ppUp s (!x) && !(pslValid s && src == pslAddr s) && hops < 63 then
    let age := leNat ((f.payload.drop 16).take 4) + inside
    frameOut s (!x) (setFld f.word 18 6 (hops + 1)) 0 (f.payload.take 16 ++ leBytes 4 age ++ f.payload.drop 20)
  else s

/-- PSL_TIME_FRAME (R422, R424): `inside` is the time the frame spent in the device before it left again. -/
def execPslTimeFrame (x : Bool) (f : PslFrame) (inside : Nat) (s : State) : Out :=
  ok (if !ppUp s x then s
    else if frameBad f then frameDiscard s x f
    else timeFrame (frameTake s x f) x f inside)

/-- PSL_SAMPLE_AGE (R424): a sample 2 µs old no longer counts, and the other port is used where it has one. -/
def execPslSampleAge (x : Bool) (idx : Fin 16) (s : State) : Out :=
  ok (if !pslOn s then s else
    match (getPp s x).samples.get? idx.val with
    | some e =>
      if s.time < e.1 + 2000 then s
      else tbrxShow (setPp s x { getPp s x with samples := (getPp s x).samples.drop (· == idx.val) }) idx
    | none => s)

/-! ## Messages (R426 to R428) -/

/-- Staged entries enter their rings in order, as long as each ring takes one; `n` bounds their number. -/
def pslDrain (s : State) : Nat → State
  | 0 => s
  | n + 1 =>
    match s.psl.staging with
    | [] => s
    | (r, e) :: rest =>
      match hwEnq s r e with
      | none => s
      | some t => pslDrain { t with psl := { t.psl with staging := rest } } n

/-- Whether a link's frame window of 32 accepts a SEQ, and what it holds then (R427). -/
def seqWindow (w : Option (Nat × Nat)) (seq : Nat) : Option (Nat × Nat) :=
  match w with
  | none => some (seq, 1)
  | some (hi, m) =>
    let d := (seq + 256 - hi) % 256
    if 0 < d ∧ d < 128 then some (seq, (m * 2 ^ d + 1) % 2 ^ 32)
    else
      let b := (256 - d) % 256
      if 32 ≤ b ∨ m.testBit b then none else some (hi, m + 2 ^ b)

/-- The RX entry of Table 17.3. -/
def pslRxEntry (s : State) (f : PslFrame) (mirror : Bool) : List Byte :=
  let lo := fld f.word 5 6 + 2 ^ 8 * fld f.word 24 6 + 2 ^ 16 * fld f.word 30 8
  let m := fun v => leBytes 8 (mirrorOf v).toNat
  (if mirror then m lo ++ m (s.time % 2 ^ 32) ++ m (s.time / 2 ^ 32) ++ m 0
   else leBytes 8 lo ++ leBytes 8 s.time ++ leBytes 16 0) ++ padTo 32 f.payload

/-- A frame is delivered: the first copy of its SEQ, its pairs good, its channel enabled for its class, room in the staging buffer. -/
def deliver (s : State) (f : PslFrame) : State :=
  let safety := fld f.word 0 3 == 4
  let chan := fld f.word 24 6
  let key := 64 * safety.toNat + fld f.word 5 6
  match seqWindow (s.psl.seen.get? key) (fld f.word 30 8) with
  | none => countReg s Reg.PSL_DUP
  | some w =>
    let s := { s with psl := { s.psl with seen := s.psl.seen.set key w } }
    if safety && !pairsOk (padTo 32 f.payload) then
      let s := logErr (countReg s Reg.PSL_MIRERR) { errRec s 6 6 .psl 0 with detail := detail (leBytes 2 chan) }
      raiseCond s .psl 0 0 4
    else
      let ch := rd s (Reg.PSL_RXCH chan)
      if !bit ch 31 || bit ch 13 != safety || 256 ≤ s.psl.staging.length then pslUnreach s 1
      else
        let s := { s with psl := { s.psl with staging := s.psl.staging ++ [(fld ch 0 13, pslRxEntry s f safety)] } }
        pslDrain s s.psl.staging.length

/-- A frame is forwarded out of the other port, with HOPS + 1, except to oneself, from oneself, or past 63 hops (R427). -/
def forward (s : State) (x : Bool) (f : PslFrame) : State :=
  let dst := fld f.word 11 7
  if dst == pslAddr s || fld f.word 5 6 == pslAddr s || 63 ≤ fld f.word 18 6 then s
  else if ppCarries s (!x) then sendOn s (!x) { f with word := setFld f.word 18 6 (fld f.word 18 6 + 1) }
  else if !pslRing s && dst != 0x7F then pslUnreach s 1
  else s

/-- A good SAFETY or RING frame in its turn. -/
def messageTake (s : State) (x : Bool) (f : PslFrame) : State :=
  let dst := fld f.word 11 7
  if !pslValid s || (getPp s x).timeOnly then pslUnreach s 1
  else if fld f.word 5 6 = pslAddr s then s
  else
    let s := forward s x f
    if dst == pslAddr s || dst == 0x7F then deliver s f else s

/-- A SAFETY or RING frame arrives (R419): out of its turn or uncorrectable it is discarded and asked for again. -/
def messageFrame (s : State) (x : Bool) (f : PslFrame) : State :=
  let s := pslDrain s s.psl.staging.length
  if frameBad f then
    let s := frameDiscard s x f
    if (getPp s x).asked.isSome then s else askReplay s x
  else
    let s := frameTake s x f
    let p := getPp s x
    if fld f.word 38 9 ≠ p.expect then (if p.asked.isSome then s else askReplay s x)
    else messageTake (setPp s x { p with expect := (p.expect + 1) % 512, asked := none, failed := 0 }) x f

/-- PSL_MESSAGE_FRAME (R419, R426 to R428). -/
def execPslMessageFrame (x : Bool) (f : PslFrame) (s : State) : Out :=
  ok (if ppUp s x && (fld f.word 0 3 == 4 || fld f.word 0 3 == 5) then messageFrame s x f else s)

/-- Whether TX ring `k` is enabled, of a class, and holds an entry. -/
def txWaits (s : State) (k : Nat) (safety : Bool) : Bool :=
  let r := rd s (Reg.PSL_TXRING k)
  bit r 31 && bit r 13 == safety && ringHas s (fld r 0 13)

/-- Whether TX ring `k` is the next to send (R427): SAFETY before RING, the lowest index first. -/
def txTurn (s : State) (k : Nat) : Bool :=
  let safety := rb s (Reg.PSL_TXRING k) 13
  txWaits s k safety && (upto 8).all fun j =>
    !(txWaits s j true && !safety) && !(j < k && txWaits s j safety)

/-- Ports by which a frame leaves (R427): toward its destination in a chain, both for a broadcast or in a ring; `none` where its
destination lies beyond a port that is not UP. -/
def pslPortsFor (s : State) (dst : Nat) : Option (List Bool) :=
  let ups := [false, true].filter (ppCarries s)
  if pslRing s || dst == 0x7F then some ups
  else
    let x := decide (pslAddr s < dst)
    if dst != pslAddr s && ppCarries s x then some [x] else none

/-- The head entry of a TX ring leaves as a frame (R426, R427). -/
def messageSend (s : State) (k : Nat) : State :=
  let r := rd s (Reg.PSL_TXRING k)
  let safety := bit r 13
  match hwDeq s (fld r 0 13) with
  | (none, s) => s
  | (some (e, poison, u), _) =>
    let w := BitVec.ofNat 64 (leNat (e.take 8))
    let dst := fld w 0 7
    if poison then pslUnreach u 1
    else if safety && !pairsOk e then
      let u := logErr (countReg u Reg.PSL_MIRERR) { errRec u 6 6 .psl 0 with detail := detail (leBytes 2 (fld w 8 6)) }
      raiseCond u .psl 0 0 4
    else match pslPortsFor u dst with
      | none => pslUnreach u 1
      | some ports =>
        if ports.any fun x => 511 ≤ (getPp u x).replay.length || !(getPp u x).held.isEmpty then s
        else
          let seq := if safety then u.psl.seqS else u.psl.seqR
          let u := { u with psl := if safety then { u.psl with seqS := (seq + 1) % 256 } else { u.psl with seqR := (seq + 1) % 256 } }
          let word := pslWord (if safety then 4 else 5) (pslAddr u) dst 0 (fld w 8 6) seq
          ports.foldl (fun t x => sendOn t x { word := word, payload := (e.drop 32).take 32, corrected := 0, uncorr := false }) u

/-- PSL_MESSAGE_SEND (R427). -/
def execPslMessageSend (k : Fin 8) (s : State) : Out :=
  ok (if pslOn s && pslValid s && txTurn s k then messageSend s k else s)

/-- PSL_IDLE_FRAME (R429). -/
def execPslIdleFrame (x : Bool) (f : PslFrame) (s : State) : Out :=
  ok (if !pslOn s || ppState s x < 2 then s
    else if frameBad f then frameDiscard s x f
    else
      let s := frameTake s x f
      pslDrain s s.psl.staging.length)

/-- PSL_REPLAY (R419): the sender resends every frame from an HSEQ; those before it have arrived. -/
def execPslReplay (x : Bool) (hseq : BitVec 9) (s : State) : Out :=
  ok (if !ppUp s x then s else
    let p := getPp s x
    let rest := if p.replay.any fun e => e.1 == hseq.toNat then p.replay.dropWhile fun e => e.1 != hseq.toNat else p.replay
    let s := setPp s x { p with replay := rest, good := s.time }
    rest.foldl (fun t e => frameOut t x e.2.word e.1 e.2.payload) s)

/-- PSL_REPLAY_TIMEOUT (R419): the request is repeated; after 8 the port retrains, and after three failed retrains it is DOWN. -/
def execPslReplayTimeout (x : Bool) (s : State) : Out :=
  ok (if !ppUp s x then s else
    let p := getPp s x
    match p.asked with
    | none => s
    | some n =>
      if n < 8 then askReplay s x
      else if 3 ≤ p.failed then ppDown s x
      else ppAlign (setPp s x { p with failed := p.failed + 1, asked := none }) x)

/-- Whether the link asserts DRAM panic (R428). -/
def pslPanics (s : State) : Bool := 128 < s.psl.staging.length

/-- DMC_PANIC (R365, R92, R428): the port's buffer level is compared with its threshold. -/
def execDmcPanic (port : PanicPort) (s : State) : Out :=
  ok (match port with
    | .gpe g => panicSet s g (domOn s 46 && gpePanics s g)
    | .sdm => panicSet s 12 (domOn s 46 && sdmPanics s)
    | .psl => panicSet s 13 (domOn s 47 && pslPanics s))

/-- A write of TBTX, TXRING or RXCH (R426, R432): configuration only while EN is 0; an enabled ring has 64-byte entries, may be bound by the
page's owner, and is a mirror ring for SAFETY. -/
def pslEntryRule (s : State) (r : RegAddr) (v : Word) : Bool :=
  let old := rd s r
  if bit old 31 then fld v 0 31 == fld old 0 31
  else if r.off < 0x200 || !bit v 31 then true
  else
    let ring := fld v 0 13
    mayBind s (rf s (pageReg .psl 0 0 0x00C) 0 6) ring && (getRing s ring).esize == 64 && (!bit v 13 || (getRing s ring).mirror)

end Sys2Proof.Machine
end

