-- ==== Sys2Proof/Machine/Power.lean ====
section
/-! DEFINITION. Power domains, envelope and emission, clocks, hold-up monitor (R24 to R31, R433 to R442). -/

namespace Sys2Proof.Machine

/-! ## Microcode written into a core (R245, R246, R250, R466) -/

/-- The decode table of a core takes its entries; their reserved bits read 0 (Table 9.6). -/
def mcTableWrite (s : State) (c : Nat) (l : List Nat) : State :=
  (upto 32).foldl (fun t i => wr t (Reg.MC_DT c i) (BitVec.ofNat 64 (l.getD i 0) &&& 0x1F3FFF)) s

/-- The words of an image that lie in a region of patch RAM: the vendor's or the customer's (R235). -/
def mcRegion (vendor : Bool) (m : Option McImg) : List (Nat × BitVec 152) :=
  match m with
  | none => []
  | some x => (Config.mcWords x.payload).filter fun w => 12288 ≤ w.1 && w.1 < 13312 && (w.1 < 13056) == vendor

/-- The engine writes the retained images into a core held in reset (R246, R466). -/
def mcLoadCore (s : State) (c : Nat) : State :=
  if s.bse.mcp.isNone && s.bse.cmc.isNone then s
  else
    let s := setPatchState s c 1
    let patch := (mcRegion true s.bse.mcp ++ mcRegion false s.bse.cmc).foldl (fun (t : Tbl (BitVec 152)) w => t.set w.1 w.2) []
    let ms := match s.bse.mcp with
      | some m => (Config.mcMatches m.payload).take 32
      | none => []
    let s := setCore s c { getCore s c with patch := patch, matches_ := ms, badWords := [] }
    let s := wr s (Reg.MC_PATCH_ID c) (match s.bse.mcp with
      | some m => BitVec.ofNat 64 m.id
      | none => 0)
    let s := match s.bse.cmc with
      | some x => mcTableWrite (wr s (Reg.MC_CUST_ID c) (BitVec.ofNat 64 x.id)) c (Config.mcTable x.payload)
      | none => mcTableWrite (wr s (Reg.MC_CUST_ID c) 0) c []
    let s := wb s (Reg.MC_STATE c) 2 s.bse.cmc.isSome
    let s := wf s (Reg.MC_STATE c) 8 6 ms.length
    setPatchState s c 2

/-! ## Clocks (R25, R437, R442) -/

/-- Whether a domain is a cluster domain. -/
def isCluster (d : Nat) : Bool := d < 36 && d % 3 != 2

/-- Whether a power-fail warning is active (R441). -/
def pfwActive (s : State) : Bool := rb s Reg.HUP_STATUS 0

/-- Whether a domain is shed (R442). -/
def shedOn (s : State) (d : Nat) : Bool := pfwActive s && rb s Reg.PWR_PFSHED d

/-- Whether QUIET's cap holds: in QUIET, and until the last step of a change that leaves it (R28). -/
def quietCap (s : State) : Bool := rf s Reg.PWR_EMISSION 0 2 == 2 || s.pwr.emisFrom == some 2

/-- The floor of a domain's clock step. -/
def clkFloor (s : State) : Nat := if quietCap s then min 2 (floorNow s) else floorNow s

/-- The upper bound of a domain's clock step (R437). -/
def clkUpper (s : State) (d : Nat) : Nat :=
  let g := match s.part.grade with
    | .g24 => 4
    | .g20 => 3
  max (clkFloor s) (min (min g (if quietCap s then 2 else 4)) (rf s (Reg.PWR_CLK d) 8 3))

/-- CLK.CUR. -/
def clkCur (s : State) (d : Nat) : Nat := rf s (Reg.PWR_CLK d) 0 3
def setClk (s : State) (d x : Nat) : State := wf s (Reg.PWR_CLK d) 0 3 x

/-- Every running cluster domain within its bounds. -/
def clkSettle (s : State) : State :=
  ((upto 36).filter fun d => isCluster d && domOn s d).foldl (fun t d =>
    setClk t d (if shedOn t d then 0 else max (clkFloor t) (min (clkCur t d) (clkUpper t d)))) s

/-- A write of PWR_CLK (Table 18.9): CAP below FLOOR or above 4 is held; the flag says so. FAB codes read 0. -/
def clkEffect (s : State) (d : Nat) (v : Word) : State × Bool :=
  if !isCluster d then (s, false)
  else
    let want := fld v 8 3
    let cap := min 4 (max (clkFloor s) want)
    (clkSettle (wf s (Reg.PWR_CLK d) 8 3 cap), cap != want)

/-- PWR_CLK as a read shows it. -/
def clkRead (s : State) (d : Nat) : Word :=
  if !isCluster d then 0 else setFld (rd s (Reg.PWR_CLK d)) 4 3 (clkFloor s)

/-! ## Envelope and emission (R27, R28, R31) -/

/-- Whether a STATIC partition that runs holds an application core. -/
def staticRuns (s : State) : Bool := (upto 64).any fun p => partRunning s p && partStatic s p && (coresOf s p).any (· < 384)

/-- A write of PWR_ENVELOPE; `none` is a refusal (R31). -/
def envelopeEffect (s : State) (v : Word) : Option State :=
  let e := fld v 0 2
  if staticRuns s && floorOf s e (rf s Reg.PWR_EMISSION 0 2) < 2 then none
  else some (clkSettle (wr s Reg.PWR_ENVELOPE (BitVec.ofNat 64 e)))

/-- PWR_ENVELOPE_WRITE (R31). -/
def execPwrEnvelopeWrite (i : Initiator) (v : W32) (s : State) : Out :=
  ok (regWriteOpt s i Reg.PWR_ENVELOPE (isM0 s i) fun t => envelopeEffect t (w32 v))

/-- A serial rate above the limit of QUIET is held at it when QUIET is entered, and PAGE_ERR of its page records the clamp (R29).
DESIGN CHOICE: the record names the power manager, acting for partition 0 (log entry 91). -/
def serQuiet (s : State) (k : Nat) : State :=
  let r := Reg.SER_RATE k
  if domOn s (domainOf .ser k) && serLimit true k < rf s r 0 32 then
    clampNote (wr s r (BitVec.ofNat 64 (serLimit true k))) (agentIni (endpointOf .pwr 0) 0) r
  else s

/-- A write of PWR_EMISSION (R28): entry to a more restrictive mode lowers the clocks first, exit lifts the cap last. -/
def emissionEffect (s : State) (v : Word) : Option State :=
  let e := fld v 0 2
  let old := rf s Reg.PWR_EMISSION 0 2
  if e = 3 || s.pwr.emisFrom.isSome then none
  else if e = old then some s
  else
    let s := wr s Reg.PWR_EMISSION (BitVec.ofNat 64 e)
    some (clkSettle { s with pwr := { s.pwr with emisFrom := some old } })

/-- PWR_EMISSION_WRITE (R28). -/
def execPwrEmissionWrite (i : Initiator) (v : W32) (s : State) : Out :=
  ok (regWriteOpt s i Reg.PWR_EMISSION (isM0 s i) fun t => emissionEffect t (w32 v))

/-- The last step of a change of emission mode: slew; in QUIET the rates above its limits are held (R28, R29). -/
def emissionDone (s : State) : State :=
  let s := clkSettle { s with pwr := { s.pwr with emisFrom := none } }
  if rf s Reg.PWR_EMISSION 0 2 = 2 then (upto 13).foldl serQuiet s else s

/-- PWR_EMISSION_DONE (R28). -/
def execPwrEmissionDone (s : State) : Out := ok (if s.pwr.emisFrom.isSome then emissionDone s else s)

/-- Whether every output runs at its slowest edges: in QUIET, once the last step of its entry is done (R28, R29, R503). -/
def slowEdges (s : State) : Bool := rf s Reg.PWR_EMISSION 0 2 == 2 && s.pwr.emisFrom.isNone

/-- The slew code by which outputs of a pad field behave (R503, Table 21.6): word 0 holds the GPO groups, word 1 the others. -/
def padSlew (s : State) (w f : Nat) : Nat :=
  if slowEdges s then 0 else rf s (if w = 0 then Reg.PAD_SLEW0 else Reg.PAD_SLEW1) (2 * f) 2

/-- The slew code by which a GPIO ball behaves (R503, Table 16.10). -/
def gpioSlew (s : State) (pin : Nat) : Nat := if slowEdges s then 0 else rf s (Reg.GPIO_PIN pin) 16 2

/-- Whether the core, fabric and DRAM clocks are down-spread (R505); none while a change of mode that moves it runs (R28). -/
def clocksSpread (s : State) : Option Bool :=
  let now := rf s Reg.PWR_EMISSION 0 2 != 0
  match s.pwr.emisFrom with
  | none => some now
  | some old => if (old != 0) == now then some now else none

/-- The highest rate of TRC_CLK and of TCK, in MHz (R29, R470, R489). -/
def trcClkMax (s : State) : Nat := if slowEdges s then 100 else 400
def tckMax (s : State) : Nat := if slowEdges s then 25 else 50

/-- The envelope in 0.1 W (Table 1.7). -/
def envelopeW (s : State) : Nat :=
  match rf s Reg.PWR_ENVELOPE 0 2 with
  | 0 => 3600
  | 1 => 2800
  | 2 => 2000
  | _ => 1200

/-- The sum of the samples held and their number. -/
def powerSum (s : State) : Nat := sumNat s.pwr.powers
def powerCnt (s : State) : Nat := s.pwr.powers.length

/-- Cluster domains that run, by code. -/
def clusters (s : State) : List Nat := (upto 36).filter fun d => isCluster d && domOn s d

/-- A power sample, in 0.1 W, taken: the mean of the last ten is shown. -/
def powerTake (s : State) (power : Nat) : State :=
  let s := { s with pwr := { s.pwr with powers := (power :: s.pwr.powers).take 10 } }
  wr s Reg.PWR_POWER (BitVec.ofNat 64 (min 65535 (powerSum s / powerCnt s)))

/-- PWR_SAMPLE (R437): while the mean exceeds 98 % of the envelope, the highest-coded domain above its floor is lowered. -/
def execPwrSample (power : Nat) (s : State) : Out :=
  let s := powerTake s power
  ok (if 98 * envelopeW s * powerCnt s < 100 * powerSum s then
    match (clusters s).reverse.find? fun d => clkFloor s < clkCur s d with
    | some d => setClk s d (clkCur s d - 1)
    | none => s
  else s)

/-- PWR_EVALUATE (R437, R442). -/
def execPwrEvaluate (s : State) : Out :=
  ok (if s.pwr.powers.isEmpty then s
    else if 100 * powerSum s ≤ 95 * envelopeW s * powerCnt s then
      if pfwActive s then s else
      match (clusters s).find? fun d => clkCur s d < clkUpper s d with
      | some d => setClk s d (clkCur s d + 1)
      | none => s
    else if (clusters s).all (fun d => clkCur s d ≤ clkFloor s) && envelopeW s * powerCnt s < powerSum s then
      raiseCond (wb s Reg.PWR_STATUS 0 true) .pwr 0 0 0
    else s)

/-! ## Domains (R433 to R436) -/

/-- Whether firmware switches a domain (Table 18.1). -/
def switchable (d : Nat) : Bool := d < 36 || (39 ≤ d && d ≤ 47)

/-- DOMON. -/
def domonWord (s : State) : Word := BitVec.ofNat 64 (bitsToNat ((upto 50).map (domOn s)))

/-- DOMSTAT names the last command; BUSY while it runs. -/
def domstat (s : State) (d : Nat) (busy : Bool) : State := wr s Reg.PWR_DOMSTAT (BitVec.ofNat 64 (d + 2 ^ 8 * busy.toNat))

/-- The domain's state changes. -/
def setDom (s : State) (d x : Nat) : State := { s with dom := listSet s.dom d x }

/-- Data-page bytes of a domain's blocks go. -/
def domPagesReset (s : State) (d : Nat) : State :=
  { s with pageBytes := s.pageBytes.drop fun k =>
      match blockOfKey (k / (4096 * 1024 * 1024)) with
      | some b => domainOf b (k / (4096 * 1024) % 1024) == d
      | none => false }

/-- A Focal domain's blocks at their reset values (R435, Table 18.7). -/
def focalInit (s : State) (d : Nat) : State :=
  let s := domPagesReset (domRegsReset s d) d
  match d with
  | 43 => { s with hps := listSet s.hps 0 HostPort.reset }
  | 44 => { s with hps := listSet s.hps 1 HostPort.reset }
  | 45 => { s with macs := State.reset.macs, frer := [], spas := State.reset.spas, ptp := State.reset.ptp }
  | 46 => { s with fio := Fio.reset }
  | 47 => { s with psl := Psl.reset }
  | _ => if 39 ≤ d ∧ d ≤ 42 then loseDram s (d - 39) else s

/-- Whether a half of a site holds a core of a RUNNING partition (R434). -/
def halfRuns (s : State) (d : Nat) : Bool :=
  (domainCores d).any fun c => match coreOwner s c with
    | some p => partRunning s p
    | none => false

/-- A domain initialised; HELD of its cores stands, for the register reset of a switch-on does not clear it (R255, R518). -/
def facetInitHeld (s : State) (d : Nat) : State :=
  ((domainCores d).filter (heldCore s)).foldl (fun t c => setHeld t c true) (facetInit s d)

/-- Switching on starts: arrays and registers are initialised, the hub port trains, microcode is loaded (R435). -/
def domSwitchOn (s : State) (d : Nat) : State :=
  let s := setDom (domstat { s with pwr := { s.pwr with op := some (d, true) } } d true) d 2
  if d < 36 then
    let s := facetInitHeld s d
    if d % 3 = 2 then
      if linkState s (d / 3) = 0 ∧ !rb s (Reg.D2D_CTL (d / 3)) 1 then
        setLink (linkGoto s (d / 3) 1) (d / 3) { Link.reset with good := s.time }
      else s
    else (domainCores d).foldl (fun t c => if t.bse.mcp.isSome || t.bse.cmc.isSome then setPatchState t c 1 else t) s
  else focalInit s d

/-- Switching off starts: the cores of a half are held (R436). -/
def domSwitchOff (s : State) (d : Nat) : State :=
  let s := domstat { s with pwr := { s.pwr with op := some (d, false) } } d true
  let cs := if d < 36 then (if d % 3 = 2 then domainCores (d - 2) ++ domainCores (d - 1) else domainCores d) else []
  cs.foldl (fun t c => setHeld (coreHold t c) c false) s

/-- A write of PWR_DOMCMD (R434); `none` is a refusal. -/
def domCmdEffect (s : State) (v : Word) : Option State :=
  let d := fld v 0 6
  let op := fld v 8 2
  if op = 0 ∨ op = 3 then some s
  else if s.pwr.op.isSome then none
  else if domSt s d = 4 ∨ !switchable d then none
  else if op = 1 then
    if domOn s d then some (domstat s d false)
    else if isCluster d && !domOn s (d / 3 * 3 + 2) then none
    else some (domSwitchOn s d)
  else if domSt s d = 0 then some (domstat s d false)
  else if isCluster d && halfRuns s d then none
  else if 36 ≤ d && (smgState s == 1 || smgState s == 2) then none
  else some (domSwitchOff s d)

/-- PWR_DOMAIN_ON (R435). -/
def execPwrDomainOn (i : Initiator) (d : BitVec 6) (s : State) : Out :=
  ok (regWriteOpt s i Reg.PWR_DOMCMD (isM0 s i) fun t => domCmdEffect t (BitVec.ofNat 64 (d.toNat + 0x100)))

/-- PWR_DOMAIN_OFF (R436). -/
def execPwrDomainOff (i : Initiator) (d : BitVec 6) (s : State) : Out :=
  ok (regWriteOpt s i Reg.PWR_DOMCMD (isM0 s i) fun t => domCmdEffect t (BitVec.ofNat 64 (d.toNat + 0x200)))

/-- A cluster domain reaches ON: microcode is loaded, the clock stands at the floor, cores of RUNNING partitions are HELD (R255, R435, R518). -/
def clusterOn (s : State) (d : Nat) : State :=
  let s := (domainCores d).foldl (fun t c =>
    let t := mcLoadCore t c
    match coreOwner t c with
    | some p => if partRunning t p then setHeld (setCoreOwner t c p) c true else t
    | none => t) s
  clkSettle (setClk s d (clkFloor s))

/-- DOMAIN_DONE (R435): a domain whose training failed meanwhile does not reach ON; gate groups are forced by the causes that stand (R87). -/
def execDomainDone (s : State) : Out :=
  ok (match s.pwr.op with
    | some (d, true) =>
      if isCluster d = false ∧ d < 36 ∧ linkState s (d / 3) = 1 then s
      else
        let s := domstat { s with pwr := { s.pwr with op := none } } d false
        if domSt s d ≠ 2 then s
        else
          let s := setDom s d 3
          raiseCond (if isCluster d then clusterOn s d else if d = 46 then gpeForceAnew s else s) .pwr 0 0 1
    | _ => s)

/-- Every line of a die written back (R436): the die holds nothing, no filter entry names it. -/
def homesEmpty (s : State) (n : Nat) : State :=
  let s := { s with coh := { s.coh with
    lines := s.coh.lines.drop fun k => k / 2 ^ 42 == n
    l2 := s.coh.l2.drop fun k => agentOfCluster (k / 32768) == n
    l3 := s.coh.l3.drop fun k => k / 262144 == n
    msgs := s.coh.msgs.filter fun m => m.agent != n } }
  (upto 16).foldl (fun u h =>
    let x := getSl u h
    let f := x.filter.map fun e =>
      { e with present := if e.present.testBit n then e.present - 2 ^ n else e.present, owner := if e.owner == some n then none else e.owner }
    setSl u h { x with filter := f.filter fun e => e.present != 0 || e.owner.isSome }) s

/-- The L2s of a half of a site written back (R436): the die gives up the lines that nothing else of it holds. -/
def halfFlush (s : State) (d : Nat) : State :=
  let gone := s.coh.l2.filter fun e => e.1 / 32768 / 2 == d / 3 * 2 + d % 3
  let s := { s with coh := { s.coh with l2 := s.coh.l2.drop fun k => k / 32768 / 2 == d / 3 * 2 + d % 3 } }
  gone.foldl (fun t e => lastCopy t (d / 3) e.2.1) s

/-- Power is removed from a half of a site. -/
def clusterOff (s : State) (d : Nat) : State := setClk (facetInitHeld (setDom (halfFlush s d) d 0) d) d 0

/-- Power is removed from a Focal domain: outstanding requests are answered ABSENT (R436); of a host port's domain R401 holds whether its link
is up or not. -/
def focalOff (s : State) (d : Nat) : State :=
  let s := match d with
    | 43 => hpDown s .hpa
    | 44 => hpDown s .hpb
    | _ => s
  focalInit (setDom s d 0) d

/-- PWR_DOMAIN_OFF_DONE (R436): a FAB domain's link goes DOWN and its site is marked absent; no line is poisoned. -/
def execPwrDomainOffDone (s : State) : Out :=
  ok (match s.pwr.op with
    | some (d, false) =>
      let s := domstat { s with pwr := { s.pwr with op := none } } d false
      if isCluster d then clusterOff s d
      else if d < 36 then
        let s := clusterOff (clusterOff s (d - 2)) (d - 1)
        let s := setDom (homesEmpty s (d / 3)) d 0
        facetInit (markAbsent (linkFall s (d / 3)) (d / 3)) d
      else focalOff s d
    | _ => s)

/-! ## Hold-up monitor (R439 to R442) -/

/-- The configuration registers of the monitor. -/
def isHupCfg (off : Nat) : Bool := 0x104 ≤ off && off ≤ 0x124

/-- A write of a configuration register (R440): only while EN is 0; MARGIN is held at 1.0. The flag says that a value was held. -/
def hupEffect (s : State) (off : Nat) (v : Word) : Option (State × Bool) :=
  let r := pageReg .hup 0 0 off
  if off = 0x100 then some (wr s r (BitVec.ofNat 64 (fld v 0 1)), false)
  else if rb s Reg.HUP_CTL 0 then none
  else if off = 0x11C then some (wr s r (BitVec.ofNat 64 (max 0x100 (fld v 0 16))), fld v 0 16 < 0x100)
  else if off = 0x110 then some (wr s r (BitVec.ofNat 64 (fld v 0 16)), false)
  else some (wr s r (BitVec.ofNat 64 (fld v 0 32)), false)

/-- A 32-bit result; one outside the register's range is a free value (log entry 3). -/
def reg32 (s : State) (x : Nat) : Nat × State :=
  if x < 2 ^ 32 then (x, s)
  else
    let (f, t) := takeFree s
    (f % 2 ^ 32, t)

/-- V of the codes held (R439), rounded down. -/
def hupV (s : State) : Nat := sumNat s.pwr.codes * 1200 * rf s Reg.HUP_DIV 0 32 / (s.pwr.codes.length * 4096 * 65536)

/-- The available energy (R439), rounded down. -/
def hupE (s : State) (v : Nat) : Nat :=
  let vmin := rf s Reg.HUP_VMIN 0 32
  if v ≤ vmin then 0 else rf s Reg.HUP_CAP 0 32 * (v * v - vmin * vmin) * rf s Reg.HUP_EFF 0 16 / (2000000 * 65536)

/-- Shedding follows PFW (R442). -/
def pfwSet (s : State) (on : Bool) : State :=
  let s := wb (wb s Reg.HUP_STATUS 0 on) Reg.PWR_STATUS 1 on
  clkSettle (raiseCond s .hup 0 0 (if on then 0 else 1))

/-- A sample taken (R439): V and EAVAIL of the last four, and how many in succession lie below VWARN or at or above VWARN + VHYST. -/
def hupTake (s : State) (code : BitVec 12) : State :=
  let s := { s with pwr := { s.pwr with codes := (code.toNat :: s.pwr.codes).take 4 } }
  let (v, s) := reg32 s (hupV s)
  let (e, s) := reg32 s (hupE s v)
  let s := wr (wr s Reg.HUP_V (BitVec.ofNat 64 v)) Reg.HUP_EAVAIL (BitVec.ofNat 64 e)
  let warn := rf s Reg.HUP_VWARN 0 32
  let below := if v < warn then s.pwr.below + 1 else 0
  let above := if warn + rf s Reg.HUP_VHYST 0 32 ≤ v then s.pwr.above + 1 else 0
  { s with pwr := { s.pwr with below := below, above := above } }

/-- HUP_SAMPLE (R439, R441). -/
def execHupSample (code : BitVec 12) (s : State) : Out :=
  let s := hupTake s code
  ok (if !pfwActive s && 3 ≤ s.pwr.below then pfwSet { s with pwr := { s.pwr with above := 0 } } true
    else if pfwActive s && 100 ≤ s.pwr.above then pfwSet { s with pwr := { s.pwr with below := 0 } } false
    else s)

end Sys2Proof.Machine
end

