-- ==== Sys2Proof/Machine/Journal.lean ====
section
/-! DEFINITION. The journal engine: commit requests, records, erase blocks, scan, NVMe (R443 to R449). -/

namespace Sys2Proof.Machine

/-! ## Records (Table 18.4) -/

/-- One step of CRC-32 (IEEE 802.3, reflected). -/
def crc32Step (c : Nat) : Nat → Nat
  | 0 => c
  | n + 1 => crc32Step (if c % 2 = 1 then (c / 2) ^^^ 0xEDB88320 else c / 2) n

/-- CRC-32 of a byte list. -/
def crc32 (l : List Byte) : Nat := (l.foldl (fun c b => crc32Step (c ^^^ b.toNat) 8) 0xFFFFFFFF) ^^^ 0xFFFFFFFF

/-- First byte of the journal region and its length (Table 10.3, R447). -/
def jrnBase : Nat := 0xE00006000000
def jrnSize : Nat := 0x2000000

/-- Length of a payload padded to granules. -/
def padLen (n : Nat) : Nat := (n + 31) / 32 * 32

/-- The first 28 bytes of a header. -/
def jrnHead (len seq at_ part tag : Nat) : List Byte :=
  leBytes 4 0x314E524A ++ leBytes 4 len ++ leBytes 8 seq ++ leBytes 8 at_ ++ leBytes 2 part ++ leBytes 2 tag

/-- Header and padded payload. -/
def jrnBody (seq at_ part tag : Nat) (p : List Byte) : List Byte :=
  let h := jrnHead p.length seq at_ part tag
  h ++ leBytes 4 (crc32 (h ++ p)) ++ padTo (padLen p.length) p

/-- The marker granule. -/
def jrnMark (seq : Nat) : List Byte :=
  leBytes 4 0x4B524D43 ++ leBytes 4 (0xFFFFFFFF - 0x4B524D43) ++ leBytes 8 seq ++ List.replicate 16 0

/-- Bytes of the journal region from an offset on, which wraps. -/
def jrnBytes (s : State) (off n : Nat) : List Byte := (upto n).map fun k => rdByte s (jrnBase + (off + k) % jrnSize)

/-- Granules programmed from an offset on. -/
def jrnWrite (s : State) (off : Nat) : List Byte → State
  | [] => s
  | b :: t => jrnWrite { s with mem := memSet s.fills s.mem (jrnBase + off % jrnSize) b } (off + 1) t

/-! ## Energy and completions (R443, R444) -/

/-- e_req in µJ, rounded down. -/
def jrnReq (s : State) (len : Nat) : Nat := rf s Reg.HUP_EFIX 0 32 + rf s Reg.HUP_EBYTE 0 32 * len / 1000

/-- Whether the check fails (R444). -/
def holdupLow (s : State) (len : Nat) : Bool :=
  !rb s Reg.HUP_CTL 0 || rf s Reg.HUP_EAVAIL 0 32 * 256 < jrnReq s len * rf s Reg.HUP_MARGIN 0 16

/-- e_req × MARGIN / 256. -/
def jrnNeed (s : State) (len : Nat) : Nat := jrnReq s len * rf s Reg.HUP_MARGIN 0 16 / 256

/-- Completions owed enter CPLRING while it has room, in request order (R443). -/
def jrnFlush (s : State) : Nat → State
  | 0 => s
  | n + 1 =>
    match s.jrn.cpls with
    | [] => s
    | e :: t =>
      match hwEnq s (rf s Reg.JRN_CPLRING 0 13) e with
      | none => s
      | some u => jrnFlush { u with jrn := { u.jrn with cpls := t } } n

/-- A request completes (Table 18.3). -/
def jrnComplete (s : State) (tag status seq avail need : Nat) : State :=
  let e := leBytes 2 tag ++ leBytes 1 status ++ leBytes 5 0 ++ leBytes 8 seq ++ leBytes 4 avail ++ leBytes 4 need ++ leBytes 8 s.time
  jrnFlush { s with jrn := { s.jrn with cpls := s.jrn.cpls ++ [e] } } 2

/-- A request refused before the check: the energies of a check that was not made are free values (log entry 3). -/
def jrnRefuse (s : State) (tag status : Nat) : State :=
  let (a, s) := takeFree s
  let (b, s) := takeFree s
  jrnComplete s tag status 0 a b

/-- The owner of the request ring. -/
def jrnOwner (s : State) : Nat := (getRing s (rf s Reg.JRN_REQRING 0 13)).owner

/-- Erased bytes ahead of the write pointer. -/
def jrnRoom (s : State) : Nat := if s.jrn.ahead = 0 then 0 else s.jrn.ahead * 65536 - rf s Reg.JRN_WPTR 0 32 % 65536

/-- An engine write to the NVMe range (R449): the submission entry, whose layout this spec does not give, is free bytes; what leaves the
package is the Write command's data. -/
def nvmeWrite (s : State) (data : List Byte) (last : Bool) : State :=
  let depth := rf s Reg.JRN_NVME_Q 0 16 + 1
  let slot := (rd s Reg.JRN_NVME_SQ).toNat + 64 * (s.jrn.nvTail % depth)
  let s := wrBytes s slot (freeBytes s 64)
  let nlb := max 1 (rd s Reg.JRN_NVME_NLB).toNat
  let lba := (rd s Reg.JRN_NVME_LBA).toNat + s.jrn.nvBlk % nlb
  let run := s.jrn.run.map fun (r : JrnRun) => { r with since := s.time, last := last }
  { s with
    freeCtr := s.freeCtr + 64
    sent := .nvme lba data
    jrn := { s.jrn with nvTail := (s.jrn.nvTail + 1) % depth, nvBlk := (s.jrn.nvBlk + (data.length + 4095) / 4096) % nlb, run := run } }

/-- A commit starts (R444): the first write of its record is issued. -/
def jrnStart (s : State) (tag part : Nat) (nvme : Bool) (p : List Byte) : State :=
  let seq := s.jrn.seq + 1
  let avail := rf s Reg.HUP_EAVAIL 0 32
  let run : JrnRun := { body := jrnBody seq s.time part tag p, marker := jrnMark seq, at_ := rf s Reg.JRN_WPTR 0 32, tag := tag, nvme := nvme,
                        seq := seq, avail := avail, req := jrnNeed s p.length, since := s.time, last := false }
  let s := wb { s with jrn := { s.jrn with run := some run, seq := seq } } Reg.JRN_STATUS 0 true
  if nvme then nvmeWrite s run.body false else s

/-- A request taken from the ring: the checks of R443 in order, the source read, then the energy check of R444. -/
def jrnCheck (s : State) (l : List Byte) : State :=
  let src := leNat (l.take 8)
  let len := leNat ((l.drop 8).take 4)
  let target := leNat ((l.drop 12).take 1)
  let tag := leNat ((l.drop 14).take 2)
  let own := jrnOwner s
  if len = 0 ∨ 65472 < len ∨ 1 < target then jrnRefuse s tag 2
  else if !regionOk s own src len 1 then jrnRefuse s tag 3
  else if (target = 0 ∧ jrnRoom s < 64 + padLen len) ∨ (target = 1 ∧ !rb s Reg.JRN_CTL 1) then jrnRefuse s tag 5
  else
    match agRead s (endpointOf .jrn 0) src len with
    | .err e => jrnRefuse (logFailed s (agentIni (endpointOf .jrn 0) own) src e) tag 4
    | .data p poison =>
      if poison then jrnRefuse s tag 4
      else if holdupLow s len then
        let s := raiseCond (countReg s Reg.JRN_REFUSED) .jrn 0 0 0
        jrnComplete s tag 1 0 (rf s Reg.HUP_EAVAIL 0 32) (jrnNeed s len)
      else jrnStart s tag own (target == 1) p

/-- Whether the engine takes requests: enabled, not scanning, no commit running, its completions posted. -/
def jrnIdle (s : State) : Bool :=
  rb s Reg.JRN_CTL 0 && !rb s Reg.JRN_STATUS 1 && s.jrn.run.isNone && s.jrn.cpls.isEmpty && domOn s 38

/-- JRN_REQUEST (R443, R444). -/
def execJrnRequest (s : State) : Out :=
  let s := jrnFlush s s.jrn.cpls.length
  ok (if !jrnIdle s then s else
    match hwDeq s (rf s Reg.JRN_REQRING 0 13) with
    | (none, t) => t
    | (some (l, poison, t), _) => if poison then jrnRefuse t (leNat ((l.drop 14).take 2)) 4 else jrnCheck t l)

/-- The write pointer moves past a record; entering a block leaves one erased block less ahead (R447). -/
def jrnAdvance (s : State) (n : Nat) : State :=
  let w := rf s Reg.JRN_WPTR 0 32
  let blocks := (w + n) / 65536 - w / 65536
  let s := wr s Reg.JRN_WPTR (BitVec.ofNat 64 ((w + n) % jrnSize))
  { s with jrn := { s.jrn with ahead := s.jrn.ahead - blocks, recs := s.jrn.recs ++ [(w, n)] } }

/-- JRN_TAIL: the oldest intact record, or the write pointer. -/
def jrnTail (s : State) : State :=
  wr s Reg.JRN_TAIL (BitVec.ofNat 64 (match s.jrn.recs with
    | [] => rf s Reg.JRN_WPTR 0 32
    | r :: _ => r.1))

/-- The commit that runs ends (R445). -/
def jrnEnd (s : State) (r : JrnRun) (status : Nat) : State :=
  let s := wb { s with jrn := { s.jrn with run := none } } Reg.JRN_STATUS 0 false
  let s := if status = 0 then wr s Reg.JRN_SEQ (BitVec.ofNat 64 r.seq) else s
  jrnComplete s r.tag status r.seq r.avail r.req

/-- JRN_MARKER_WRITE (R444): once every granule is programmed, at one per µs (R446). -/
def execJrnMarkerWrite (s : State) : Out :=
  ok (match s.jrn.run with
    | none => s
    | some r =>
      if r.nvme || s.time < r.since + 1000 * (r.body.length / 32) then s
      else
        let s := jrnWrite (jrnWrite s r.at_ r.body) (r.at_ + r.body.length) r.marker
        jrnEnd (jrnTail (jrnAdvance s (r.body.length + 32))) r 0)

/-- JRN_NVME_COMPLETION (R449). -/
def execJrnNvmeCompletion (ok_ : Bool) (s : State) : Out :=
  ok (match s.jrn.run with
    | none => s
    | some r =>
      if !r.nvme then s
      else if !ok_ then jrnEnd s r 4
      else if r.last then jrnEnd s r 0
      else nvmeWrite s r.marker true)

/-- JRN_NVME_TIMEOUT (R445): 10 ms. -/
def execJrnNvmeTimeout (s : State) : Out :=
  ok (match s.jrn.run with
    | none => s
    | some r => if r.nvme && r.since + 10000000 ≤ s.time then jrnEnd s r 4 else s)

/-- A reset tears the commit that runs: the granules programmed so far stay, without a marker (R445, R446). -/
def jrnTear (s : State) : State :=
  match s.jrn.run with
  | none => s
  | some r => if r.nvme then s else jrnWrite s r.at_ (r.body.take (32 * ((s.time - r.since) / 1000)))

/-! ## Erase blocks (R447) -/

/-- Whether a record touches a block. -/
def recTouches (b : Nat) (r : Nat × Nat) : Bool :=
  (upto 3).any fun k => (r.1 / 65536 + k) % 512 == b && 65536 * k < r.1 % 65536 + r.2

/-- JRN_ERASE (R442, R447): the block beyond the erased ones; its records are intact no more. -/
def execJrnErase (s : State) : Out :=
  ok (if !rb s Reg.JRN_CTL 0 || rb s Reg.JRN_STATUS 1 || s.jrn.erasing.isSome || 3 ≤ s.jrn.ahead || pfwActive s then s
    else
      let b := (rf s Reg.JRN_WPTR 0 32 / 65536 + s.jrn.ahead) % 512
      jrnTail { s with jrn := { s.jrn with erasing := some b, recs := s.jrn.recs.filter fun r => !recTouches b r } })

/-- A block of the region erased. -/
def eraseBlock (s : State) (b : Nat) : State :=
  { s with mem := s.mem.filter fun c => !(jrnBase + 65536 * b ≤ c.1 && c.1 < jrnBase + 65536 * (b + 1)) }

/-- JRN_ERASE_DONE (R447). -/
def execJrnEraseDone (s : State) : Out :=
  ok (match s.jrn.erasing with
    | none => s
    | some b => eraseBlock { s with jrn := { s.jrn with erasing := none, ahead := s.jrn.ahead + 1 } } b)

/-! ## Scan (R448) -/

/-- Offsets of the granules that begin with MAGIC, rising. -/
def jrnCands (s : State) : List Nat :=
  (s.mem.filterMap fun c =>
    if jrnBase ≤ c.1 ∧ c.1 < jrnBase + jrnSize ∧ c.1 % 32 = 0 then some (c.1 - jrnBase) else none).filter fun o =>
      leNat (jrnBytes s o 4) == 0x314E524A

/-- The record at an offset where it is valid: its whole length and SEQ. -/
def jrnValid (s : State) (o : Nat) : Option (Nat × Nat) :=
  let h := jrnBytes s o 32
  let len := leNat ((h.drop 4).take 4)
  let seq := leNat ((h.drop 8).take 8)
  if len = 0 ∨ 65472 < len then none
  else if leNat (h.drop 28) ≠ crc32 (h.take 28 ++ jrnBytes s (o + 32) len) then none
  else if jrnBytes s (o + 32 + padLen len) 32 ≠ jrnMark seq then none
  else some (64 + padLen len, seq)

/-- Records that check and do not lie inside one before them: offset, length, SEQ. -/
def jrnFind (s : State) (from_ : Nat) : List Nat → List (Nat × Nat × Nat)
  | [] => []
  | o :: t =>
    if o < from_ then jrnFind s from_ t
    else match jrnValid s o with
      | none => jrnFind s from_ t
      | some (n, q) => (o, n, q) :: jrnFind s (o + n) t

/-- The record of the highest SEQ. -/
def jrnLast : List (Nat × Nat × Nat) → Option (Nat × Nat × Nat)
  | [] => none
  | r :: t => match jrnLast t with
    | none => some r
    | some q => some (if q.2.2 < r.2.2 then r else q)

/-- Whether a range of the region reads erased. -/
def jrnErased (s : State) (lo n : Nat) : Bool := s.mem.all fun c => !(jrnBase + lo ≤ c.1 && c.1 < jrnBase + lo + n)

/-- Records in order of SEQ, oldest first. -/
def insertRec (r : Nat × Nat × Nat) : List (Nat × Nat × Nat) → List (Nat × Nat × Nat)
  | [] => [r]
  | q :: t => if r.2.2 ≤ q.2.2 then r :: q :: t else q :: insertRec r t

/-- A write of JRN_CTL (R443, R448, R454): EN asks that the owner may bind both rings; the first EN after a reset starts the scan. -/
def jrnCtlEffect (s : State) (v : Word) : Option State :=
  let en := bit v 0
  let own := rf s (pageReg .jrn 0 0 0x00C) 0 6
  if en && !rb s Reg.JRN_CTL 0 && !(mayBind s own (rf s Reg.JRN_REQRING 0 13) && mayBind s own (rf s Reg.JRN_CPLRING 0 13)) then none
  else
    let was := rb s Reg.JRN_CTL 0
    let s := wr s Reg.JRN_CTL (BitVec.ofNat 64 (fld v 0 2))
    some (if en && !was && !s.jrn.scanned then wb s Reg.JRN_STATUS 1 true else s)

/-- The rings and the NVMe registers accept writes only while EN is 0. -/
def jrnLocked (s : State) (off : Nat) : Bool := rb s Reg.JRN_CTL 0 && (off == 0x104 || off == 0x108 || 0x128 ≤ off)

/-- JRN_SCAN (R448). -/
def execJrnScan (i : Initiator) (v : W32) (s : State) : Out :=
  ok (regWriteOpt s i Reg.JRN_CTL true fun t => jrnCtlEffect t (w32 v))

/-- The scan's results: SEQ, write pointer, erased blocks, intact records, whether a torn record was found. -/
def jrnResume (s : State) : State :=
  let found := jrnFind s 0 (jrnCands s)
  let torn := (jrnCands s).any fun o => !(found.any fun r => r.1 ≤ o && o < r.1 + r.2.1)
  let after := match jrnLast found with
    | none => 0
    | some (o, n, _) => (o + n) % jrnSize
  let free := jrnErased s after (65536 - after % 65536)
  let w := if free then after else (after / 65536 + 1) * 65536 % jrnSize
  let blk := fun (k : Nat) => jrnErased s (65536 * ((w / 65536 + k) % 512)) 65536
  let ahead := if !free then 0 else if blk 1 then (if blk 2 then 3 else 2) else 1
  let seq := match jrnLast found with
    | none => 0
    | some r => r.2.2
  let recs := (found.foldl (fun l r => insertRec r l) []).map fun r => (r.1, r.2.1)
  let s := { s with jrn := { s.jrn with seq := seq, ahead := ahead, recs := recs, scanned := true } }
  let s := wr (wr s Reg.JRN_SEQ (BitVec.ofNat 64 seq)) Reg.JRN_WPTR (BitVec.ofNat 64 w)
  let s := if torn then raiseCond (wb s Reg.JRN_STATUS 2 true) .jrn 0 0 1 else s
  jrnTail (wb s Reg.JRN_STATUS 1 false)

/-- JRN_SCAN_DONE (R448). -/
def execJrnScanDone (s : State) : Out := ok (if rb s Reg.JRN_STATUS 1 then jrnResume s else s)

end Sys2Proof.Machine
end

