-- ==== Sys2Proof/Machine/ErrLog.lean ====
section
/-! DEFINITION. The error log and the Ammin table (R46 to R53). -/

namespace Sys2Proof.Machine

/-! ## Error log (R46 to R49) -/

/-- An entry's bytes (Table 2.15). -/
def errBytes (seq : Nat) (e : ErrRec) : List Byte :=
  let l := leBytes 4 seq ++ leBytes 1 e.kind ++ leBytes 1 e.code ++ leBytes 1 e.site ++ leBytes 1 e.ty ++ leBytes 8 e.time ++
    leBytes 2 e.inst ++ leBytes 1 e.part ++ leBytes 1 e.source ++ leBytes 2 e.initiator ++ leBytes 2 0 ++ leBytes 8 e.addr ++
    leBytes 8 e.pc ++ padTo 16 e.detail ++ leBytes 4 0
  l ++ leBytes 4 (crc32 l)

/-- A byte of an error-log data page, `page` counted from the first of them: slot `64 page` and on (R49). -/
def errPageByte (s : State) (page off : Nat) : Byte :=
  match s.err.ring.get? (64 * page + off / 64) with
  | some (seq, e) => (errBytes seq e).getD (off % 64) 0
  | none => 0

/-- Endpoint of the block that reports a staged cause. -/
def errEp (e : ErrRec) : Nat :=
  match allBlocks.find? fun b => typeCode b == e.ty with
  | some b => endpointOf b e.inst
  | none => 0

/-- The staged cause written next: of those of the earliest nanosecond, the lowest endpoint (R46). -/
def errPick : List ErrRec → Option ErrRec
  | [] => none
  | e :: t => match errPick t with
    | none => some e
    | some f => some (if f.time < e.time ∨ (f.time = e.time ∧ errEp f < errEp e) then f else e)

/-- The next SEQ. -/
def nextSeq (s : State) : Nat :=
  let h := rf s Reg.ERR_HEADSEQ 0 32
  if h = 0xFFFFFFFF then 1 else h + 1

/-- One entry enters the ring (R46): an unread entry overwritten is lost. -/
def errWrite (s : State) (e : ErrRec) : State :=
  let seq := nextSeq s
  let slot := seq % 4096
  let rdSeq := rf s Reg.ERR_RDSEQ 0 32
  let old := s.err.ring.get? slot
  let s := match old with
    | some (q, _) => if rdSeq < q then raiseCond (countReg s Reg.ERR_LOST) .err 0 0 1 else s
    | none => s
  let copy := if rb s Reg.ERR_COPY 0 then s.err.toCopy ++ [(seq, e)] else s.err.toCopy
  let s := { s with err := { staging := s.err.staging.erase e, ring := s.err.ring.set slot (seq, e), toCopy := copy } }
  let tail := match old with
    | some (q, _) => if q = 0xFFFFFFFF then 1 else q + 1
    | none => if rf s Reg.ERR_TAILSEQ 0 32 = 0 then seq else rf s Reg.ERR_TAILSEQ 0 32
  let s := wr (wr s Reg.ERR_HEADSEQ (BitVec.ofNat 64 seq)) Reg.ERR_TAILSEQ (BitVec.ofNat 64 tail)
  if rdSeq < seq then raiseCond s .err 0 0 0 else s

/-- ERROR_LOG_ENTRY_WRITE (R46). -/
def execErrorLogEntryWrite (s : State) : Out :=
  ok (match errPick s.err.staging with
    | some e => errWrite s e
    | none => s)

/-- ERR_COPY_WRITE (R48): one WrFull; an error response ends the copying. -/
def execErrCopyWrite (s : State) : Out :=
  ok (match s.err.toCopy with
    | [] => s
    | (seq, e) :: t =>
      let s := { s with err := { s.err with toCopy := t } }
      if !rb s Reg.ERR_COPY 0 then s
      else
        let a := (rd s Reg.ERR_COPYBASE).toNat + 64 * (seq % 2 ^ rf s Reg.ERR_COPY 1 5)
        match agWrite s (endpointOf .err 0) a (errBytes seq e) false with
        | .ok u => u
        | .error e =>
          let s := logBusErr s (agentIni (endpointOf .err 0) 0) a e
          raiseCond (wb (wb s Reg.ERR_COPY 0 false) Reg.ERR_COPY 6 true) .err 0 0 2)

/-- A write of ERR_COPY (R48); `none` is a refusal. DESIGN CHOICE: a write that clears EN and changes LOG2 at once while EN is 1 is
refused, by the rule for EN at 1 and not by the one for a write with EN = 0 (log entry 89). -/
def errCopyEffect (s : State) (v : Word) : Option State :=
  let en := bit v 0
  let log2 := fld v 1 5
  let base := (rd s Reg.ERR_COPYBASE).toNat
  let good := 12 ≤ log2 && log2 ≤ 24 && base % (64 * 2 ^ log2) == 0 && base + 64 * 2 ^ log2 ≤ dramCapacity s
  if (en && !good) || (rb s Reg.ERR_COPY 0 && log2 != rf s Reg.ERR_COPY 1 5) then none
  else
    let err := rb s Reg.ERR_COPY 6 && !bit v 6
    some (wr s Reg.ERR_COPY (BitVec.ofNat 64 (fld v 0 6 + 2 ^ 6 * err.toNat)))

/-- ERR_COPY_CONFIG (R48). -/
def execErrCopyConfig (i : Initiator) (v : W32) (s : State) : Out :=
  ok (regWriteOpt s i Reg.ERR_COPY (isM0 s i) fun t => errCopyEffect t (w32 v))

/-- Whether an access of a data page has an allowed width and is aligned (R35). -/
def dataWidthOk (off width : Nat) : Bool := (width == 8 || width == 16 || width == 32 || width == 64) && off % (width / 8) == 0

/-- ERR_DATA_PAGE_WRITE (R49). -/
def execErrDataPageWrite (i : Initiator) (page : Fin 64) (off : BitVec 12) (width : Nat) (_v : Word) (s : State) : Out :=
  let r : RegAddr := ⟨.err, 0, 1 + page.val, off.toNat⟩
  ok (regWrite s i r (dataWidthOk off.toNat width) true fun t => refuse t i r)

/-! ## Ammin table (R50 to R53) -/

/-- The part number in ASCII (R1). -/
def skuBytes (s : State) : List Byte :=
  let n := s.part.facets
  let g : List Byte := match s.part.grade with
    | .g24 => [0x34]
    | .g20 => [0x30]
  padTo 16 ([0x4F, 0x4D, 0x39, 0x36, BitVec.ofNat 8 (0x30 + n / 10), BitVec.ofNat 8 (0x30 + n % 10), 0x2D, 0x32] ++ g ++ [0x45])

/-- First event source and number of sources of a block (Table 4.1a). -/
def evtAlloc (b : Block) (n : Nat) : Nat × Nat :=
  match b with
  | .hpa => (512, 1) | .hpb => (513, 1) | .spa => (514 + 33 * n, 33) | .eth => (580 + n, 1) | .canf => (592 + n, 1)
  | .mvb => (600 + n, 1) | .ser => (602 + n, 1) | .psl => (615, 3) | .gpe => (618 + n, 1) | .sdm => (630, 6) | .gpio => (636, 64)
  | .err => (704, 1) | .evr => (705, 1) | .smg => (706, 1) | .mcp => (707, 4) | .pwr => (711, 1) | .hup => (712, 1)
  | .jrn => (713, 1) | .bse => (714, 1) | .dbg => (715, 1) | .qe => (716, 1) | .hom => (717 + n, 1) | .dmc => (733 + n, 1)
  | .fab => (749, 1) | .d2d => (750, 1) | .prism => (751 + n / 4, 1) | .tbu => (0, 256)
  | _ => (0xFFFF, 0)

/-- The link mode of a D2D page as it reads (R321). -/
def linkMode (s : State) (l : Nat) : Nat := if rf s (Reg.D2D_STATUS l) 4 2 = 0 then 3 else rf s (Reg.D2D_STATUS l) 4 2

/-- Whether a block is ABSENT in the table: not of this part, or its site did not train (R50, R320). -/
def ammAbsent (s : State) (b : Block) (n : Nat) : Bool :=
  let site := siteOf b n
  !blockPresent s b n || (site != 12 && (siteAbsent s site || linkState s (if site = 13 then 48 else site) != 2))

/-- FLAGS of an entry (Table 2.13a). -/
def ammFlags (s : State) (b : Block) (n : Nat) : Nat :=
  let mode := match b with
    | .d2d => if ammAbsent s b n || linkState s n != 2 then 3 else linkMode s n
    | .die => if n = 12 then 0 else if ammAbsent s b n then 3 else linkMode s (if n = 13 then 48 else n)
    | _ => 0
  ((upto (pageCount b n)).any (capMw b)).toNat + 2 * (capSg b 0).toNat + 4 * mode

/-- AUX of an entry. -/
def ammAux (s : State) (b : Block) (n : Nat) : Nat :=
  match b with
  | .die => rf s (Reg.DIE_COREMASK n) 0 32 + 2 ^ 32 * rf s (Reg.DIE_REV n) 0 8
  | .core => n
  | _ => 0

/-- One entry (Table 2.13a). -/
def ammEntry (s : State) (b : Block) (n : Nat) : List Byte :=
  leBytes 1 (typeCode b) ++ leBytes 1 (siteOf b n) ++ leBytes 2 n ++ leBytes 1 (if ammAbsent s b n then 2 else 0) ++
    leBytes 1 (domainOf b n) ++ leBytes 2 (Config.version (typeCode b)) ++ leBytes 8 (pageBase b n) ++
    leBytes 2 (pageCount b n) ++ leBytes 2 (evtAlloc b n).1 ++ leBytes 2 (evtAlloc b n).2 ++ leBytes 2 (ammFlags s b n) ++
    leBytes 8 (ammAux s b n)

/-- Every entry, by type code and instance. -/
def ammEntries (s : State) : List (List Byte) := (allBlocks.map fun b => (instsOf b).map (ammEntry s b)).flatten

/-- The table: header and entries (R50, R52). -/
def ammTable (s : State) : List Byte :=
  let es := ammEntries s
  let h := leBytes 4 0x4E4D4D41 ++ leBytes 2 0x0100 ++ leBytes 2 0x80 ++ leBytes 2 es.length ++ leBytes 2 0x20 ++ leBytes 4 0 ++
    skuBytes s ++ leBytes 8 s.serial.toNat ++ leBytes 24 0
  h ++ leBytes 64 (Config.sha512 (h ++ es.flatten)) ++ es.flatten

/-- AMMIN_BUILD (R50): once, after the links have trained and before hub core 384 leaves reset; while a link still trains nothing
happens. A site whose hub port is not UP is marked absent (R320). -/
def execAmminBuild (s : State) : Out :=
  ok (if s.ammin.isSome || s.pwr.inReset || s.pwr.por || (getCore s 384).running ||
        (upto 49).any (fun l => linkExists s l && linkState s l == 1) then s
    else
      let s := ((upto 12).filter fun n => populated s n && linkState s n == 0 && !siteAbsent s n).foldl markAbsent s
      let s := if linkState s 48 = 0 then storeAbsent s else s
      { s with ammin := some (ammTable s) })

/-- A read of the table: naturally aligned 8, 16, 32 or 64 bits (R51); any other is a SIZE error of no page. DESIGN CHOICE: before the
table is built its pages read 0, for the spec gives them no contents (log entry 90). -/
def amminRead (s : State) (i : Initiator) (off width : Nat) : State :=
  let t := s.ammin.getD []
  if dataWidthOk off width then respOk s (BitVec.ofNat 64 (leNat ((upto (width / 8)).map fun k => t.getD (off + k) 0)))
  else respErr (logErr s (accessAddrRec s i (0xF00000000000 + off) cSIZE)) cSIZE

/-- A write of the table changes nothing (R51). -/
def amminRefuse (s : State) (i : Initiator) (off : Nat) : State :=
  respErr (logErr s (accessAddrRec s i (0xF00000000000 + off) cREFUSED)) cREFUSED

/-- AMMIN_WRITE (R51). -/
def execAmminWrite (i : Initiator) (off : BitVec 16) (_width : Nat) (_v : Word) (s : State) : Out := ok (amminRefuse s i off.toNat)

end Sys2Proof.Machine
end

