-- ==== Sys2Proof/Machine/Boot.lean ====
section
/-! DEFINITION. The boot and security engine: images, lifecycle, keys, microcode, boot ROM, recovery, services (R455 to R469). -/

namespace Sys2Proof.Machine

/-! ## Cloand images (R456, R457) -/

/-- Status codes of Table 19.3. -/
def stFORMAT : Nat := 1
def stCLASS : Nat := 2
def stKEY : Nat := 3
def stSERIAL : Nat := 4
def stROLLBACK : Nat := 5
def stDIGEST : Nat := 6
def stSIGNATURE : Nat := 7
def stDECRYPT : Nat := 8
def stCONTENT : Nat := 9
def stREGION : Nat := 10
def stBUS : Nat := 11
def stSTATE : Nat := 12

/-- A number at an offset of a byte list. -/
def at_ (l : List Byte) (off n : Nat) : Nat := leNat ((l.drop off).take n)

/-- An image as read: its header and all of its bytes. -/
structure Img where
  hdr : List Byte
  all : List Byte
  deriving DecidableEq, Repr

def Img.type (x : Img) : Nat := at_ x.hdr 4 4 / 65536 % 65536
def Img.size (x : Img) : Nat := at_ x.hdr 8 4
def Img.cls (x : Img) : Nat := at_ x.hdr 12 1
def Img.slot (x : Img) : Nat := at_ x.hdr 13 1
def Img.enc (x : Img) : Bool := at_ x.hdr 14 1 % 2 == 1
def Img.svn (x : Img) : Nat := at_ x.hdr 15 1
def Img.romver (x : Img) : Nat := at_ x.hdr 16 4
def Img.id (x : Img) : Nat := at_ x.hdr 20 4
def Img.serial (x : Img) : Nat := at_ x.hdr 24 8
def Img.entry (x : Img) : Nat := at_ x.hdr 32 8
def Img.pubkey (x : Img) : List Byte := (x.hdr.drop 0x80).take 133
def Img.padded (x : Img) : Nat := (x.size + 63) / 64 * 64
def Img.stored (x : Img) : List Byte := (x.all.drop 512).take x.padded
def Img.digest (x : Img) : Nat := at_ x.all (512 + x.padded) 64
def Img.sig (x : Img) : List Byte := (x.all.drop (512 + x.padded + 64)).take 132

/-- Length of a stored image with a payload of `n` bytes. -/
def imgLen (n : Nat) : Nat := 512 + (n + 63) / 64 * 64 + 64 + 132

/-- The sizes that a type allows (Table 19.2). -/
def sizeOk (ty n : Nat) : Bool :=
  match ty with
  | 1 => 1 ≤ n && n ≤ 0x400000
  | 2 | 3 => 1 ≤ n && n ≤ 0x40000
  | 4 => 1 ≤ n && n ≤ 0x10000000
  | 5 => n == 64
  | 6 => n == 128
  | _ => false

/-- Step 1 of Table 19.3. -/
def fmtOk (x : Img) (types : List Nat) : Bool :=
  at_ x.hdr 0 4 == 0x444E4C43 && at_ x.hdr 4 2 == 0x0100 && types.contains x.type && sizeOk x.type x.size

/-- Step 2: the classes of Table 19.5. -/
def classOk (s : State) (ty cls : Nat) : Bool :=
  let lc := lcEff s
  if lc = 4 ∨ 1 < cls then false
  else match ty with
    | 2 => cls == 0
    | 5 => cls == 1
    | 6 => true
    | _ => if lc = 0 then cls == 0 else if lc = 1 then true else cls == 1

/-- The slot hashes of a class. -/
def slotsOf (s : State) (cls : Nat) : List Nat := if cls = 0 then s.bse.vkeys else s.bse.ckeys

/-- Whether a slot is revoked. -/
def revoked (s : State) (cls slot : Nat) : Bool := s.bse.revoke.testBit (4 * cls + slot)

/-- Step 3: a slot matches a key (R455). -/
def slotMatches (s : State) (cls slot : Nat) (key : List Byte) : Bool :=
  slot < 4 && nth (slotsOf s cls) 0 slot != 0 && !revoked s cls slot && nth (slotsOf s cls) 0 slot == Config.sha512 key

/-- Additional data of the GCM (R457). -/
def Img.aad (x : Img) : List Byte := x.hdr.take 0x40 ++ (x.hdr.drop 0x50).take 0x1B0

/-- The payload in plain, where the tag checks. -/
def Img.plain (x : Img) : Option (List Byte) :=
  if x.enc then (Config.aesGcmOpen x.cls ((x.hdr.drop 0x28).take 12) x.aad x.stored ((x.hdr.drop 0x40).take 16)).map (·.take x.size)
  else some (x.stored.take x.size)

/-- Class and slot of a KEYOP's target. -/
def koOp (p : List Byte) : Nat := at_ p 0 1
def koCls (p : List Byte) : Nat := at_ p 1 1
def koSlot (p : List Byte) : Nat := at_ p 2 1

/-- The slots of a class that are in use: not empty and not revoked. -/
def liveSlots (s : State) (cls : Nat) : List Nat := (upto 4).filter fun k => nth (slotsOf s cls) 0 k != 0 && !revoked s cls k

/-- The content checks of a KEYOP (R461). -/
def koOk (s : State) (x : Img) (p : List Byte) : Bool :=
  let op := koOp p
  1 ≤ op && op ≤ 3 && koCls p ≤ 1 && koSlot p ≤ 3 && ((p.drop 3).take 61).all (· == 0) && (op == 1 || (p.drop 64).all (· == 0)) &&
    x.serial != 0 && x.slot != koSlot p && x.cls == koCls p && (op != 3 || x.cls == 1) &&
    (op != 2 || !((liveSlots s (koCls p)).filter (· != koSlot p)).isEmpty)

/-- Whether an MCP writes vendor words alone, with at most 32 match entries, each from a ROM address to a vendor word and no two from one
ROM address (R245). -/
def mcpImgOk (p : List Byte) : Bool :=
  let ms := Config.mcMatches p
  Config.mcValid p && (Config.mcWords p).all (fun w => 12288 ≤ w.1 && w.1 < 13056) && ms.length ≤ 32 &&
    ms.all (fun e => e.1 < 12288 && 12288 ≤ e.2 && e.2 < 13056) && decide (ms.map (·.1)).Nodup

/-- Whether a CMC writes the customer region alone (R250). -/
def cmcImgOk (p : List Byte) : Bool :=
  Config.mcValid p && (Config.mcWords p).all (fun w => 13056 ≤ w.1 && w.1 ≤ 13311) && (Config.mcMatches p).isEmpty

/-- Step 9 of Table 19.3. -/
def contentOk (s : State) (x : Img) (p : List Byte) : Bool :=
  match x.type with
  | 2 => x.romver == Config.romVersion && mcpImgOk p
  | 3 => cmcImgOk p
  | 6 => koOk s x p
  | _ => true

/-- Verification of an image that has been read (Table 19.3): a status, or the plain payload. -/
def imgVerify (s : State) (x : Img) (types : List Nat) : Except Nat (List Byte) :=
  if !fmtOk x types then .error stFORMAT
  else if !classOk s x.type x.cls then .error stCLASS
  else if !slotMatches s x.cls x.slot x.pubkey then .error stKEY
  else if x.serial ≠ 0 ∧ x.serial ≠ s.serial.toNat then .error stSERIAL
  else if x.cls = 1 ∧ x.svn < s.bse.therm then .error stROLLBACK
  else if Config.sha512 (x.hdr ++ x.stored) ≠ x.digest then .error stDIGEST
  else if !Config.ecdsaOk x.pubkey x.digest x.sig then .error stSIGNATURE
  else match x.plain with
    | none => .error stDECRYPT
    | some p => if contentOk s x p then .ok p else .error stCONTENT

/-- Bytes that the engine reads for a partition: REGION or BUS where they cannot be had. -/
def bseRead (s : State) (p a n : Nat) : Except Nat (List Byte) :=
  if !regionOk s p a n 1 then .error stREGION
  else match agRead s (endpointOf .bse 0) a n with
    | .data l false => .ok l
    | _ => .error stBUS

/-- An image read at an address: its header, and the rest where its form is valid. -/
def imgRead (s : State) (p a : Nat) (types : List Nat) : Except Nat Img :=
  match bseRead s p a 512 with
  | .error e => .error e
  | .ok h =>
    if !fmtOk { hdr := h, all := h } types then .error stFORMAT
    else match bseRead s p a (imgLen (at_ h 8 4)) with
      | .error e => .error e
      | .ok l => .ok { hdr := h, all := l }

/-- The entries that a failed read of the engine calls for (R6, R259): of a status BUS, of `n` bytes at an address. -/
def bseNote (s : State) (p a n st : Nat) : State := if st = stBUS then agReadNote s (endpointOf .bse 0) p a n else s

/-- The same for an image: its header, and all of it where the header was read. -/
def imgNote (s : State) (p a st : Nat) : State :=
  match bseRead s p a 512 with
  | .error _ => bseNote s p a 512 st
  | .ok h => bseNote s p a (imgLen (at_ h 8 4)) st

/-- An image read and verified. -/
def imgLoad (s : State) (p a : Nat) (types : List Nat) : Except Nat (Img × List Byte) :=
  match imgRead s p a types with
  | .error e => .error e
  | .ok x => match imgVerify s x types with
    | .error e => .error e
    | .ok pl => .ok (x, pl)

/-! ## Code store (R463) -/

/-- First byte of the XIP region and of the areas of Table 19.4. -/
def xipBase : Nat := 0xE00000000000
def slotOff (k : Nat) : Nat := if k = 0 then 0x100000 else 0x500000
def mcpOff : Nat := 0x900000
def cmcOff : Nat := 0xD00000
def mntOff : Nat := 0x1100000
def chainOff : Nat := 0x5FFC000

/-- The ACTIVE slot. -/
def activeSlot (s : State) : Nat := (rdByte s (xipBase + 4)).toNat % 2

/-- The directory names a slot. -/
def setActive (s : State) (k : Nat) : State := wrMem s (xipBase + 4) 1 k

/-- A platform firmware image in place: ENC must be 0 (R464). -/
def pfwVerify (s : State) (slot : Nat) : Except Nat (Img × List Byte) :=
  match imgLoad s 0 (xipBase + slotOff slot) [1] with
  | .ok (x, p) => if x.enc then .error stFORMAT else .ok (x, p)
  | .error e => .error e

/-- Status of a verification. -/
def statusOf {α : Type} : Except Nat α → Nat
  | .ok _ => 0
  | .error e => e

/-! ## Commands (R459 to R467) -/

/-- STATUS of page 0 as a read shows it: LC and the level come from the engine. -/
def bseStatus (s : State) : Word :=
  setFld (setFld (rd s Reg.BSE_STATUS) 16 3 (lcEff s)) 20 7 s.bse.therm

/-- A slot written. -/
def enrollSlot (s : State) (cls slot h : Nat) : State :=
  if cls = 0 then { s with bse := { s.bse with vkeys := listSet s.bse.vkeys slot h } }
  else { s with bse := { s.bse with ckeys := listSet s.bse.ckeys slot h } }

/-- Whether EXTEST, CLAMP and HIGHZ may take effect (R471). -/
def bscanOk (s : State) : Bool := (lcEff s == 0 || lcEff s == 3) && rb s Reg.DBG_CTL 0

/-- Whether a scan code drives the balls. -/
def irDrives (code : Nat) : Bool := code == 0x00 || code == 0x02 || code == 0x03

/-- BSREF is set. -/
def bsref (s : State) : State := wb s Reg.DBG_STATUS 0 true

/-- Where a condition of R471 ends, the instructions that drive the balls select the bypass register, drive nothing and set BSREF. -/
def bscanJudge (s : State) : State :=
  if bscanOk s || !(s.dbg.irs.any fun e => irDrives e.2) then s
  else bsref { s with dbg := { s.dbg with irs := s.dbg.irs.map (fun e => if irDrives e.2 then (e.1, 0xFF) else e), drive := [] } }

/-- PROVISION (R459). -/
def bseProvision (s : State) : State × Nat :=
  if s.life ≠ 0 ∨ s.bse.vkeys.all (· == 0) then (s, stSTATE)
  else
    let s := wrBytes s (xipBase + chainOff) ((upto 0x4000).map Config.chainByte)
    (bscanJudge { s with life := 1, bse := { s.bse with idkey := true } }, 0)

/-- LOCK (R459). -/
def bseLock (s : State) : State × Nat :=
  if s.life ≠ 1 ∨ s.bse.ckeys.all (· == 0) then (s, stSTATE) else ({ s with life := 2 }, 0)

/-- ENROLL (R460). -/
def bseEnroll (s : State) (arg hash : Nat) : State × Nat :=
  if s.life ≠ 1 ∨ nth s.bse.ckeys 0 (arg % 4) ≠ 0 then (s, stSTATE)
  else match bseRead s 0 hash 64 with
    | .error e => (bseNote s 0 hash 64 e, e)
    | .ok l => (enrollSlot s 1 (arg % 4) (leNat l), 0)

/-- A KEYOP that has verified is performed (R461). -/
def keyopDo (s : State) (p : List Byte) : State × Nat :=
  match koOp p with
  | 1 =>
    if lcEff s = 0 ∨ nth (slotsOf s (koCls p)) 0 (koSlot p) ≠ 0 then (s, stSTATE)
    else (enrollSlot s (koCls p) (koSlot p) (leNat (p.drop 64)), 0)
  | 2 => ({ s with bse := { s.bse with revoke := s.bse.revoke ||| 2 ^ (4 * koCls p + koSlot p) } }, 0)
  | _ => (bscanJudge { s with life := 4 }, 0)

/-- KEYOP (R461). -/
def bseKeyop (s : State) (src : Nat) : State × Nat :=
  match imgLoad s 0 src [6] with
  | .error e => (imgNote s 0 src e, e)
  | .ok (_, p) => keyopDo s p

/-- ADVANCE (R462). -/
def bseAdvance (s : State) (arg : Nat) : State × Nat :=
  if s.bse.bootSvn < arg ∨ arg < s.bse.therm then (s, stROLLBACK) else ({ s with bse := { s.bse with therm := min arg 64 } }, 0)

/-- An image written to a slot and verified in place; one that does not fit its slot is refused (R463). -/
def slotInstall (s : State) (x : Img) (slot : Nat) : State × Nat :=
  if x.enc ∨ 0x400000 < imgLen x.size then (s, stFORMAT)
  else
    let s := wrBytes s (xipBase + slotOff slot) x.all
    (s, statusOf (pfwVerify s slot))

/-- INSTALL (R463). -/
def bseInstall (s : State) (src arg : Nat) : State × Nat :=
  if arg % 2 = s.bse.bootSlot then (s, stSTATE)
  else match imgLoad s 0 src [1] with
    | .error e => (imgNote s 0 src e, e)
    | .ok (x, _) => slotInstall s x (arg % 2)

/-- Whether a core is held in core reset in a domain that is ON. -/
def mcHeld (s : State) (c : Nat) : Bool :=
  blockPresent s .core c && domOn s (coreDomain c) && !siteAbsent s (coreSite c) && !(getCore s c).running

/-- Cores that a selection names. -/
def selCores (l : List Nat) : List Nat := (upto 388).filter fun c => (nth l 0 (c / 32)).testBit (c % 32)

/-- LOADMC (R466): cores not held are skipped. -/
def bseLoadmc (s : State) (cores : List Nat) : State × Nat :=
  if s.bse.mcp.isNone && s.bse.cmc.isNone then (s, stSTATE)
  else
    let sel := selCores cores
    let skip := sel.filter fun c => !mcHeld s c
    let s := (upto 13).foldl (fun t i =>
      wr t (Reg.BSE_SKIP i) (BitVec.ofNat 64 (sumNat ((skip.filter fun c => c / 32 == i).map fun c => 2 ^ (c % 32))))) s
    ((sel.filter (mcHeld s)).foldl mcLoadCore s, 0)

/-- NOPATCH (R246, R466). DESIGN CHOICE: of a core that was loaded before it keeps patch RAM, match entries, MATCHES, CUST, CUST_ID and DT, and
clears PATCH_ID alone (log entry 114). -/
def bseNopatch (s : State) (cores : List Nat) : State × Nat :=
  (((selCores cores).filter (mcHeld s)).foldl (fun t c => setPatchState (wr t (Reg.MC_PATCH_ID c) 0) c 3) s, 0)

/-- A verified microcode image replaces the retained copy (R466). -/
def retain (s : State) (x : Img) (p : List Byte) : State :=
  let m : McImg := { id := x.id, digest := x.digest, payload := p }
  if x.type = 2 then { s with bse := { s.bse with mcp := some m } } else { s with bse := { s.bse with cmc := some m } }

/-- VERIFY_MC (R466). -/
def bseVerifyMc (s : State) (src : Nat) : State × Nat :=
  match imgLoad s 0 src [2, 3] with
  | .error e => (imgNote s 0 src e, e)
  | .ok (x, p) => (retain s x p, 0)

/-- HANDOVER (R464): hub core 384 is held and patched, and 384 to 387 are released together. -/
def bseHandover (s : State) : State × Nat :=
  let s := mcLoadCore (coreHold s 384) 384
  ([384, 385, 386, 387].foldl coreGo s, 0)

/-- A page 0 command is executed. -/
def bsePage0 (s : State) (m : BseCmd) : State × Nat :=
  match m.op with
  | 1 => bseProvision s
  | 2 => bseLock s
  | 3 => bseEnroll s m.arg m.hash
  | 4 => bseKeyop s m.src
  | 5 => bseAdvance s m.arg
  | 6 => bseInstall s m.src m.arg
  | 7 => (setActive s (m.arg % 2), 0)
  | 8 => bseLoadmc s m.cores
  | 9 => bseNopatch s m.cores
  | 10 => bseVerifyMc s m.src
  | _ => bseHandover s

/-! ## Partition services (R467, R468) -/

/-- A result written for a partition: REGION or BUS where it cannot be. -/
def bseWrite (s : State) (p a : Nat) (l : List Byte) : State × Nat :=
  if !regionOk s p a l.length 2 then (s, stREGION)
  else match agWrite s (endpointOf .bse 0) a l false with
    | .ok t => (t, 0)
    | .error e => (logBusErr s (agentIni (endpointOf .bse 0) p) a e, stBUS)

/-- A partition's measurement list. -/
def getMeas (s : State) (p : Nat) : List Nat × Bool := s.bse.meas.get ([], false) p

/-- MEAS as a read shows it. -/
def measWord (s : State) (p : Nat) : Word := BitVec.ofNat 64 ((getMeas s p).1.length + 2 ^ 31 * (getMeas s p).2.toNat)

/-- A digest appended; a ninth sets FULL. -/
def measAdd (s : State) (p d : Nat) : State :=
  let (l, full) := getMeas s p
  let v := if l.length < 8 then (l ++ [d], full) else (l, true)
  { s with bse := { s.bse with meas := s.bse.meas.set p v } }

/-- VERIFY (R467). -/
def svcVerify (s : State) (p src dst : Nat) : State × Nat :=
  match imgLoad s p src [4] with
  | .error e => (imgNote s p src e, e)
  | .ok (x, pl) =>
    let (t, st) := bseWrite s p dst pl
    if st = 0 then (measAdd t p x.digest, 0) else (t, st)

/-- One site of a report: site, die revision, Ammin STATE, link mode. -/
def reportSite (s : State) (n : Nat) : List Byte :=
  let mode := if n = 12 then 0 else if ammAbsent s .die n then 3 else linkMode s (if n = 13 then 48 else n)
  leBytes 1 n ++ leBytes 1 (rf s (Reg.DIE_REV n) 0 8) ++ leBytes 1 (if ammAbsent s .die n then 2 else 0) ++ leBytes 1 mode

/-- A digest of a retained image, or 0. -/
def mcDigest : Option McImg → Nat
  | some m => m.digest
  | none => 0
def mcId : Option McImg → Nat
  | some m => m.id
  | none => 0

/-- Bytes 0x000 to 0x3BF of a report (Table 19.9). -/
def reportBody (s : State) (p : Nat) : List Byte :=
  let (ms, full) := getMeas s p
  leBytes 4 0x50525441 ++ leBytes 2 0x0100 ++ leBytes 2 p ++ leBytes 8 s.serial.toNat ++ skuBytes s ++
    ((upto 8).map fun i => leBytes 8 (rd s (Reg.BSEP_NONCE p i)).toNat).flatten ++
    leBytes 8 s.time ++ leBytes 1 (lcEff s) ++ leBytes 1 s.bse.therm ++ leBytes 1 s.bse.revoke ++ leBytes 1 s.bse.bootSrc ++
    leBytes 4 (mcId s.bse.mcp) ++ leBytes 4 (mcId s.bse.cmc) ++ leBytes 12 0 ++
    leBytes 64 s.bse.bootDigest ++ leBytes 64 (mcDigest s.bse.mcp) ++ leBytes 64 (mcDigest s.bse.cmc) ++
    ((upto 14).map (reportSite s)).flatten ++ leBytes 8 0 ++
    leBytes 4 (rd s (Reg.PART_MODES p)).toNat ++ ((upto 13).map fun k => leBytes 4 (rd s (Reg.PART_CORES p k)).toNat).flatten ++
    leBytes 4 0 ++ leBytes 4 (ms.length + 2 ^ 31 * full.toNat) ++ ((upto 8).map fun k => leBytes 64 (ms.getD k 0)).flatten

/-- REPORT (R468): IDKEY signs once it is written, and not in DECOMMISSIONED. -/
def svcReport (s : State) (p dst : Nat) (body : List Byte) : State × Nat :=
  if !s.bse.idkey ∨ s.life = 4 then (s, stSTATE)
  else bseWrite s p dst (body ++ padTo 132 (leBytes 132 (Config.ecdsaSign (Config.sha512 body))) ++ leBytes 60 0)

/-- CHAIN (R467). -/
def svcChain (s : State) (p dst : Nat) : State × Nat := bseWrite s p dst (rdBytes s (xipBase + chainOff) 0x4000)

/-- A partition command is executed. -/
def bseService (s : State) (m : BseCmd) : State × Nat :=
  let p := m.page - 1
  match m.op with
  | 1 => svcVerify s p m.src m.arg
  | 2 => svcReport s p m.arg m.snap
  | _ => svcChain s p m.arg

/-- A command starts: a REPORT samples its values (R468). -/
def bseBegin (s : State) (m : BseCmd) : BseCmd :=
  if 1 ≤ m.page ∧ m.page ≤ 64 ∧ m.op = 2 then { m with snap := reportBody s (m.page - 1) } else m

/-- A command is accepted: it starts at once where none runs. -/
def bseAccept (s : State) (m : BseCmd) : State :=
  let m := if s.bse.queue.isEmpty then bseBegin s m else m
  { s with bse := { s.bse with queue := s.bse.queue ++ [m] } }

/-- STATUS of a page. -/
def bseStatReg (page : Nat) : RegAddr := if page = 0 then Reg.BSE_STATUS else Reg.BSEP_STATUS (page - 1)

/-- A write of BSE_CMD (R459, R469); `none` is a refusal. -/
def bseCmdEffect (s : State) (v : Word) : Option State :=
  let op := fld v 0 5
  if op = 0 ∨ 11 < op ∨ rb s Reg.BSE_STATUS 0 then none
  else
    let m : BseCmd := { page := 0, op := op, src := fld (rd s Reg.BSE_SRC) 0 48, arg := rf s Reg.BSE_ARG 0 32,
                        hash := fld (rd s Reg.BSE_HASH) 0 48, cores := (upto 13).map fun i => rf s (Reg.BSE_CORES i) 0 32, snap := [] }
    some (bseAccept (wb s Reg.BSE_STATUS 0 true) m)

/-- A write of BSE_P_CMD (R467); `none` is a refusal. -/
def bsePartEffect (s : State) (p : Nat) (v : Word) : Option State :=
  let op := fld v 0 2
  if rb s (Reg.BSEP_STATUS p) 0 then none
  else if op = 0 then some s
  else
    let m : BseCmd := { page := p + 1, op := op, src := fld (rd s (Reg.BSEP_SRC p)) 0 48, arg := fld (rd s (Reg.BSEP_DST p)) 0 48,
                        hash := 0, cores := [], snap := [] }
    some (bseAccept (wb s (Reg.BSEP_STATUS p) 0 true) m)

/-- A page 0 command as an access. -/
def bseAccess (s : State) (i : Initiator) (op : Nat) : State :=
  regWriteOpt s i Reg.BSE_CMD (isM0 s i) fun t => bseCmdEffect t (BitVec.ofNat 64 op)

/-- A partition command as an access. -/
def svcAccess (s : State) (i : Initiator) (p op : Nat) : State :=
  regWriteOpt s i (Reg.BSEP_CMD p) true fun t => bsePartEffect t p (BitVec.ofNat 64 op)

/-- PROVISION (R459). -/
def execProvision (i : Initiator) (s : State) : Out := ok (bseAccess s i 1)
/-- LOCK (R459). -/
def execLock (i : Initiator) (s : State) : Out := ok (bseAccess s i 2)
/-- ENROLL (R460). -/
def execEnroll (i : Initiator) (s : State) : Out := ok (bseAccess s i 3)
/-- KEYOP (R461). -/
def execKeyop (i : Initiator) (s : State) : Out := ok (bseAccess s i 4)
/-- ADVANCE (R462). -/
def execAdvance (i : Initiator) (s : State) : Out := ok (bseAccess s i 5)
/-- INSTALL (R463). -/
def execInstall (i : Initiator) (s : State) : Out := ok (bseAccess s i 6)
/-- ACTIVATE (R463). -/
def execActivate (i : Initiator) (s : State) : Out := ok (bseAccess s i 7)
/-- LOADMC (R466). -/
def execLoadmc (i : Initiator) (s : State) : Out := ok (bseAccess s i 8)
/-- NOPATCH (R466). -/
def execNopatch (i : Initiator) (s : State) : Out := ok (bseAccess s i 9)
/-- VERIFY_MC (R466). -/
def execVerifyMc (i : Initiator) (s : State) : Out := ok (bseAccess s i 10)
/-- HANDOVER (R464). -/
def execHandover (i : Initiator) (s : State) : Out := ok (bseAccess s i 11)
/-- VERIFY (R467). -/
def execVerify (i : Initiator) (p : Part) (s : State) : Out := ok (svcAccess s i p 1)
/-- REPORT_ATTEST (R468). -/
def execReportAttest (i : Initiator) (p : Part) (s : State) : Out := ok (svcAccess s i p 2)
/-- CHAIN (R467). -/
def execChain (i : Initiator) (p : Part) (s : State) : Out := ok (svcAccess s i p 3)

/-- The command that runs leaves the queue and the next starts (R467). -/
def bseNext (s : State) : State :=
  { s with bse := { s.bse with queue := match s.bse.queue.drop 1 with
      | [] => []
      | m :: t => bseBegin s m :: t } }

/-- A command ends: result, BUSY, DONE or FAIL (R467, R469). -/
def bseEnd (s : State) (page st : Nat) : State :=
  let s := wf (wb s (bseStatReg page) 0 false) (bseStatReg page) 8 8 st
  raiseCond s .bse 0 page (if page = 0 ∧ st ≠ 0 then 1 else 0)

/-- BSE_COMMAND_DONE (R467): a challenge response ends with AUTH_VERIFY_DONE. -/
def execBseCommandDone (s : State) : Out :=
  ok (match s.bse.queue with
    | [] => s
    | m :: _ =>
      if 64 < m.page then s
      else
        let (t, st) := if m.page = 0 then bsePage0 s m else bseService s m
        bseNext (bseEnd t m.page st))

/-! ## Boot ROM (R464, R465) -/

/-- The ROM is in hub core 384's I-TCM, which is zero above it, and the core runs it. -/
def romStart (s : State) : State :=
  let a := aliasAddr 384 0
  let s := wrBytes s a ((upto 0x6000).map Config.bootRomByte)
  let s := wrBytes s (a + 0x6000) (List.replicate 0x2000 0)
  coreGo (setPatchState s 384 3) 384

/-- Whether the MNT token puts a FIELD package in MAINTENANCE (R458). -/
def mntOk (s : State) : Bool :=
  s.life == 2 && match imgLoad s 0 (xipBase + mntOff) [5] with
    | .ok (x, _) => x.serial != 0
    | .error _ => false

/-- The handover record (Table 19.8). -/
def handoverRecord (s : State) : List Byte :=
  leBytes 1 s.bse.bootSrc ++ leBytes 1 (lcEff s) ++ (s.bse.tried.map (leBytes 1)).flatten ++ List.replicate 58 0 ++ leBytes 64 s.bse.bootDigest

/-- An image retained where it verifies in place. -/
def retainAt (s : State) (off ty : Nat) : State :=
  match imgLoad s 0 (xipBase + off) [ty] with
  | .ok (x, p) => retain s x p
  | .error _ => s

/-- handover(s) of R464. -/
def bootHandover (s : State) (slot src : Nat) (x : Img) : State :=
  let s := { s with bse := { s.bse with bootSrc := src, bootSlot := slot, bootDigest := x.digest, bootSvn := x.svn, waits := false } }
  let s := retainAt (retainAt s mcpOff 2) cmcOff 3
  let s := [385, 386, 387].foldl mcLoadCore s
  let s := wrBytes s (aliasAddr 384 0x10000) (handoverRecord s)
  let pc := xipBase + slotOff slot + 0x200 + x.entry
  let s := [384, 385, 386, 387].foldl (fun t c => wr t (Reg.EXC_RVEC c) (BitVec.ofNat 64 (pc % 2 ^ 48))) s
  (bseHandover s).1

/-- record(k, st) of R464. -/
def bootRecord (s : State) (k st : Nat) : State := { s with bse := { s.bse with tried := listSet s.bse.tried k st } }

/-- recovery() of R464, R465: both host ports are ready, and the ROM waits for a host. -/
def bootRecovery (s : State) : State :=
  let one := fun (t : State) (p : Port) =>
    let d := domainOf (portBlock p) 0
    if domSt t d = 4 then t else wb (if domOn t d then t else setDom (focalInit t d) d 3) (hpCtl p) 0 true
  let s := one (one s .hpa) .hpb
  raiseCond { s with bse := { s.bse with waits := true, prog := 0 } } .bse 0 0 2

/-- The image on the xSPI flash, installed in the slot that is not ACTIVE (R464). -/
def bootXspi (s : State) (flash : Option (List Byte)) : State :=
  let slot := 1 - activeSlot s
  match flash with
  | none => bootRecovery (bootRecord s 2 stBUS)
  | some l =>
    let x : Img := { hdr := padTo 512 l, all := padTo (imgLen (at_ l 8 4)) l }
    match imgVerify s x [1] with
    | .error e => bootRecovery (bootRecord s 2 e)
    | .ok _ =>
      let (t, st) := slotInstall s x slot
      let t := bootRecord t 2 st
      if st = 0 then bootHandover (setActive t slot) slot (2 + slot) x else bootRecovery t

/-- The two slots in order, then xSPI, then recovery. -/
def bootSlots (s : State) (flash : Option (List Byte)) : List Nat → State
  | [] => bootXspi s flash
  | k :: t =>
    match pfwVerify s k with
    | .ok (x, _) => bootHandover (bootRecord s k 0) k k x
    | .error e => bootSlots (bootRecord s k e) flash t

/-- DECOMMISSIONED: the journal region and both slots are erased and the ROM waits for good (R464). -/
def bootHalt (s : State) : State :=
  let lo := xipBase + slotOff 0
  let s := { s with mem := s.mem.filter fun c =>
    !((jrnBase ≤ c.1 && c.1 < jrnBase + jrnSize) || (lo ≤ c.1 && c.1 < lo + 0x800000)) }
  let s := wb s Reg.BSE_STATUS 19 true
  let k := getCore s 384
  setCore s 384 (k.setBank 0 { k.bank 0 with st := .parked })

/-- BOOT_ROM (R464): once per reset, after the Ammin table is built; `flash` is what the xSPI flash holds at offset 0, if anything. -/
def execBootRom (flash : Option (List Byte)) (s : State) : Out :=
  ok (if s.ammin.isNone || (getCore s 384).running || rb s Reg.BSE_STATUS 19 || s.bse.waits then s
    else
      let s := romStart s
      if s.life = 4 then bootHalt s
      else
        let s := { s with bse := { s.bse with maint := mntOk s } }
        bootSlots s flash [activeSlot s, 1 - activeSlot s])

/-! ## Recovery (R465, R469) -/

/-- The port through which a host may write RCV_CTL and the staging pages. -/
def rcvPort : Initiator → Option Nat
  | .host .hpa fn => if fn.val = 0 then some 1 else none
  | .host .hpb fn => if fn.val = 0 then some 2 else none
  | _ => none

/-- RCV_CTL.HOLDER. -/
def rcvHolder (s : State) : Nat := rf s Reg.BSE_RCV_CTL 4 2

/-- PUSH: staged bytes are programmed at the next offset of the slot that is not ACTIVE. -/
def rcvPush (s : State) (bytes : Nat) : State :=
  let n := min bytes 65536
  let l := (upto n).map fun k => dpByte s (rkey ⟨.bse, 0, 65 + k / 4096, k % 4096⟩)
  let room := 0x400000 - s.bse.prog
  let s := wrBytes s (xipBase + slotOff (1 - activeSlot s) + s.bse.prog) (l.take room)
  let s := { s with bse := { s.bse with prog := s.bse.prog + min n room } }
  wf s Reg.BSE_RCV_STATUS 8 24 (s.bse.prog / 64)

/-- DONE: the slot is verified in place; on success the directory is switched and the ROM hands over. -/
def rcvDone (s : State) (port : Nat) : State :=
  let slot := 1 - activeSlot s
  match pfwVerify s slot with
  | .error e => bootRecord (wf s Reg.BSE_RCV_STATUS 0 8 e) 3 e
  | .ok (x, _) => bootHandover (bootRecord (setActive (wf s Reg.BSE_RCV_STATUS 0 8 0) slot) 3 0) slot (3 + port) x

/-- A write of RCV_CTL (R465); `none` is a refusal. -/
def rcvEffect (s : State) (i : Initiator) (v : Word) : Option State :=
  match rcvPort i with
  | none => none
  | some p =>
    if !s.bse.waits ∨ (rcvHolder s ≠ 0 ∧ rcvHolder s ≠ p) then none
    else
      let s := if bit v 0 then wr { wf s Reg.BSE_RCV_CTL 4 2 p with bse := { s.bse with prog := 0 } } Reg.BSE_RCV_STATUS 0 else s
      if rcvHolder s ≠ p then some s
      else
        let s := wf s Reg.BSE_RCV_CTL 16 16 (fld v 16 16)
        let s := if bit v 1 then rcvPush s (4 * fld v 16 16) else s
        let s := if bit v 2 then rcvDone s p else s
        some (if bit v 3 then wf s Reg.BSE_RCV_CTL 4 2 0 else s)

/-- A write of RCV_CTL as an access. -/
def rcvAccess (s : State) (i : Initiator) (v : Word) : State := regWriteOpt s i Reg.BSE_RCV_CTL true fun t => rcvEffect t i v

/-- RCV_OPEN (R465). -/
def execRcvOpen (i : Initiator) (s : State) : Out := ok (rcvAccess s i 1)
/-- RCV_PUSH (R465): `count` is the byte count over 4. -/
def execRcvPush (i : Initiator) (count : BitVec 16) (s : State) : Out := ok (rcvAccess s i (BitVec.ofNat 64 (2 + 65536 * count.toNat)))
/-- RCV_DONE (R465). -/
def execRcvDone (i : Initiator) (s : State) : Out := ok (rcvAccess s i 4)
/-- RCV_CLOSE (R465). -/
def execRcvClose (i : Initiator) (s : State) : Out := ok (rcvAccess s i 8)

/-- The engine's requests and copies after any reset that reinitialises HUB_SEC: idle, recovery closed; the fuses are read again (R469). -/
def bseReset (s : State) : State :=
  { s with bse := { Bse.reset with
      vkeys := s.bse.vkeys, ckeys := s.bse.ckeys, revoke := s.bse.revoke, therm := s.bse.therm, idkey := s.bse.idkey } }

end Sys2Proof.Machine
end

