-- ==== Sys2Proof/Machine/Debug.lean ====
section
/-! DEFINITION. Scan port, authorisation, debug events, partition watchdogs, counter snapshots, boundary scan (R470 to R496). -/

namespace Sys2Proof.Machine

/-! ## Grants (R474, R476) -/

/-- The grant of a partition on a site: 0 NONE, 1 NON_INVASIVE, 2 FULL. -/
def getGrant (s : State) (p site : Nat) : Nat := s.dbg.grants.get 0 (16 * p + site)

/-- A grant that applies to a core: its partition's on its site; hub cores: partition 0's on site 12. -/
def coreGrant (s : State) (c : Nat) : Nat :=
  if 384 ≤ c then getGrant s 0 12
  else match coreOwner s c with
    | some p => getGrant s p (coreSite c)
    | none => 0

/-- DBG_P_GRANT. -/
def grantWord (s : State) (p : Nat) : Word := BitVec.ofNat 64 (sumNat ((upto 14).map fun n => getGrant s p n * 4 ^ n))

/-- Grants of a partition on the sites of a mask take a level; a change raises GRANT. -/
def setGrants (s : State) (p mask level : Nat) : State :=
  let sites := (upto 14).filter fun n => mask.testBit n && getGrant s p n != level
  if sites.isEmpty then s
  else
    let g := sites.foldl (fun (t : Tbl Nat) n => t.set (16 * p + n) level) s.dbg.grants
    raiseCond { s with dbg := { s.dbg with grants := g } } .dbg 0 0 1

/-- A revocation (R476): no grant, and RUNREQ on each stopped core of the partition. -/
def revokeNow (s : State) (p : Nat) : State :=
  let s := setGrants s p 0x3FFF 0
  ((coresOf s p).filter fun c => (getCore s c).stopped).foldl (fun t c => wb t (Reg.CDBG_STATE c) 2 true) s

/-- A write of DBG_REVOKE. -/
def dbgRevokeEffect (s : State) (v : Word) : State := if bit v 31 then revokeNow s (fld v 0 6) else s

/-- DBG_REVOKE (R476). -/
def execDbgRevoke (i : Initiator) (v : W32) (s : State) : Out :=
  ok (regWrite s i Reg.DBG_REVOKE true (isM0 s i) fun t => dbgRevokeEffect t (w32 v))

/-! ## Debug events (R477, R481) -/

/-- CORE_DBG_STATE as a read shows it. -/
def dbgStateWord (s : State) (c : Nat) : Word :=
  let k := getCore s c
  let v := rf s (Reg.CDBG_STATE c) 0 7
  BitVec.ofNat 64 (v / 4 * 4 + k.stopped.toNat + 2 * (k.dbgPend != 0).toNat + 2 ^ 7 * monLevel s c)

/-- A debug event is raised on a core; its argument and index are those of the first one. -/
def raiseDbg (s : State) (c reason : Nat) (arg : Word) (idx : Nat) : State :=
  let k := getCore s c
  let first := k.dbgPend == 0
  setCore s c { k with
    dbgPend := k.dbgPend ||| 2 ^ reason
    dbgArg := if first ∨ reason = 2 ∨ reason = 4 then arg else k.dbgArg
    dbgIdx := if first then idx else k.dbgIdx }

/-- A stop request on one core: FULL is held; ERR LEVEL where its bank L_D is disabled. -/
def stopCore (s : State) (c reason : Nat) : State :=
  if !rb s (Reg.SCHED_LVLEN c) (monLevel s c) then wf s (Reg.CDBG_STATE c) 5 2 1 else raiseDbg s c reason 0 0

/-- CORE_CMD (R477, R481); `none` where the grant is missing. -/
def coreCmd (s : State) (v : Nat) : Option State :=
  let c := s.dbg.coreSel
  if 388 ≤ c ∨ !blockPresent s .core c ∨ coreGrant s c ≠ 2 then none
  else match v % 4 with
    | 1 => some (stopCore s c 0)
    | 2 =>
      let cs := match coreOwner s c with
        | some p => (coresOf s p).filter fun d => coreGrant s d == 2
        | none => []
      some (cs.foldl (fun t d => stopCore t d 1) s)
    | 3 => some (wb s (Reg.CDBG_STATE c) 2 true)
    | _ => some s

/-! ## Lens sinks (R488 to R490), which TRACE_DATA reads -/

def getLens (s : State) (p : Nat) : Lens := s.lens.get Lens.reset p
def setLens (s : State) (p : Nat) (x : Lens) : State := { s with lens := s.lens.set p x }

/-- Bytes of a session's hub segments. -/
def hubCap (s : State) (p : Nat) : Nat :=
  65536 * ((upto 128).filter fun k => rb s (Reg.LNS_SEG k) 31 && rf s (Reg.LNS_SEG k) 0 6 == p).length

/-- The oldest byte held. -/
def hubOldest (s : State) (p : Nat) : Nat := (getLens s p).wrote - hubCap s p

/-- Eight bytes at the read pointer, which advances (R490); a byte not yet written is a free value (log entry 3). -/
def lensRead (s : State) (p : Nat) : State × Word :=
  let x := getLens s p
  let from_ := max x.read (hubOldest s p)
  let have_ := min 8 (x.wrote - from_)
  let cap := max 1 (hubCap s p)
  let l := (upto have_).map fun k => x.buf.get (BitVec.ofNat 8 (Config.freeNat (s.freeCtr + k))) ((from_ + k) % cap)
  let l := l ++ (upto (8 - have_)).map fun k => BitVec.ofNat 8 (Config.freeNat (s.freeCtr + have_ + k))
  let s := setLens { s with freeCtr := s.freeCtr + 8 } p { x with read := from_ + have_ }
  (wr s (Reg.LNSP_RDADDR p) (BitVec.ofNat 64 ((from_ + have_) % cap)), BitVec.ofNat 64 (leNat l))

/-! ## Authorisation (R475) -/

/-- A challenge record (Table 20.3). -/
def chalBytes (s : State) (level part mask : Nat) : List Byte :=
  leBytes 4 0x44524E53 ++ leBytes 2 0x0100 ++ leBytes 1 level ++ leBytes 1 part ++ leBytes 2 mask ++ leBytes 6 0 ++
    leBytes 8 s.serial.toNat ++ leBytes 8 s.time ++ ((upto 64).map fun k => BitVec.ofNat 8 (Config.random (s.freeCtr + k))) ++
    leBytes 1 (lcEff s) ++ leBytes 31 0

/-- AUTH_REQ: a challenge is issued; any earlier one is discarded. -/
def authRequest (s : State) (v : Nat) : Option State :=
  let level := v % 4
  let part := v / 2 ^ 8 % 64
  let mask := v / 2 ^ 16 % 2 ^ 14
  if level = 0 ∨ level = 3 then none
  else
    let c : Chal := { bytes := chalBytes s level part mask, at_ := s.time, level := level, part := part, mask := mask, answered := false }
    some { s with freeCtr := s.freeCtr + 64, dbg := { s.dbg with chal := some c, auth := 1 } }

/-- AUTH_GO: the response goes to the engine, in order of acceptance (R467). -/
def authSubmit (s : State) : State :=
  let (fresh, c) := match s.dbg.chal with
    | some c => ((!c.answered && s.time < c.at_ + 10000000000), c)
    | none => (false, { bytes := [], at_ := 0, level := 0, part := 0, mask := 0, answered := true })
  let m : BseCmd := { page := 100, op := fresh.toNat, src := c.level, arg := c.part, hash := c.mask, cores := [], snap := c.bytes ++ s.dbg.resp }
  let s := { s with dbg := { s.dbg with auth := 2, chal := s.dbg.chal.map fun (d : Chal) => { d with answered := true } } }
  bseAccept s m

/-- The result of a response (R475): 0 OK, 1 EXPIRED, 2 KEY, 3 SIGNATURE, 4 STATE. -/
def authResult (s : State) (m : BseCmd) : Nat :=
  let rec_ := m.snap.take 128
  let pub := (m.snap.drop 128).take 133
  let sig := (m.snap.drop 261).take 132
  let cust := (upto 4).any fun k => rb s (Reg.DBGP_KEYS m.arg) k && slotMatches s 1 k pub
  let vend := lcEff s == 0 && (upto 4).any fun k => slotMatches s 0 k pub
  if m.op = 0 then 1
  else if !(cust || vend) then 2
  else if !Config.ecdsaOk pub (Config.sha512 rec_) sig then 3
  else if lcEff s = 4 ∨ (m.src = 2 ∧ m.arg = 0 ∧ lcEff s ≠ 0 ∧ lcEff s ≠ 3) then 4
  else 0

/-- AUTH_VERIFY_DONE (R475). -/
def execAuthVerifyDone (s : State) : Out :=
  ok (match s.bse.queue with
    | [] => s
    | m :: _ =>
      if m.page ≤ 64 then s
      else
        let r := authResult s m
        let s := { s with dbg := { s.dbg with auth := 3, result := r } }
        bseNext (if r = 0 then setGrants s m.arg m.hash m.src else s))

/-! ## Scan registers (R473, Table 20.2) -/

/-- SSTATUS. -/
def sstatus (s : State) : Word := BitVec.ofNat 64 (lcEff s + 8 * (rb s Reg.DBG_STATUS 0).toNat)

/-- Eight bytes of a list as a word. -/
def wordAt (l : List Byte) (i : Nat) : Word := BitVec.ofNat 64 (leNat ((l.drop (8 * i)).take 8))

/-- A read of a scan register; `none` sets ERR. -/
def scanRead (s : State) (idx : Nat) : Option (State × Word) :=
  let c := s.dbg.coreSel
  let g := coreGrant s c
  let here := c < 388 && blockPresent s .core c
  if idx = 0x000 then some (s, sstatus s)
  else if idx = 0x051 ∨ idx = 0x053 then (if here ∧ g = 2 then some (s, 0) else none)
  else if idx = 0x001 ∨ idx = 0x003 ∨ idx = 0x004 ∨ (0x020 ≤ idx ∧ idx ≤ 0x042) then some (s, 0)
  else if idx = 0x002 then some (s, BitVec.ofNat 64 (s.dbg.auth + 2 ^ 8 * s.dbg.result))
  else if 0x010 ≤ idx ∧ idx ≤ 0x01F then
    some (s, match s.dbg.chal with
      | some x => wordAt x.bytes (idx - 0x010)
      | none => 0)
  else if idx = 0x050 then some (s, BitVec.ofNat 64 c)
  else if idx = 0x052 then (if here ∧ 1 ≤ g then some (s, dbgStateWord s c) else none)
  else if idx = 0x054 then (if here ∧ g = 2 then some (wb s (Reg.CDBG_STATE c) 4 false, rd s (Reg.CDBG_MBXOUT c)) else none)
  else if idx = 0x060 then some (s, BitVec.ofNat 64 s.dbg.traceSel)
  else if idx = 0x061 then (if 1 ≤ getGrant s s.dbg.traceSel 12 then some (lensRead s s.dbg.traceSel) else none)
  else if 0x070 ≤ idx ∧ idx ≤ 0x077 then (if here ∧ 1 ≤ g then some (s, rd s (Reg.CNT_SNAP c (idx - 0x070))) else none)
  else if 0x100 ≤ idx ∧ idx < 0x140 then some (s, grantWord s (idx - 0x100))
  else none

/-- A write of a scan register; `none` sets ERR. -/
def scanWrite (s : State) (idx v : Nat) : Option State :=
  let c := s.dbg.coreSel
  if idx = 0x001 then authRequest s v
  else if idx = 0x003 then some (if v % 2 = 1 then authSubmit s else s)
  else if idx = 0x004 then some (if v.testBit 8 then revokeNow s (v % 64) else s)
  else if 0x020 ≤ idx ∧ idx ≤ 0x042 then
    let off := 8 * (idx - 0x020)
    some { s with dbg := { s.dbg with resp := s.dbg.resp.take off ++ leBytes 8 v ++ s.dbg.resp.drop (off + 8) } }
  else if idx = 0x050 then
    if v % 512 < 388 then some { s with dbg := { s.dbg with coreSel := v % 512 } } else none
  else if idx = 0x051 then coreCmd s v
  else if idx = 0x053 then
    if 388 ≤ c ∨ !blockPresent s .core c ∨ coreGrant s c ≠ 2 ∨ rb s (Reg.CDBG_STATE c) 3 then none
    else some (wb (wr s (Reg.CDBG_MBXIN c) (BitVec.ofNat 64 v)) (Reg.CDBG_STATE c) 3 true)
  else if idx = 0x060 then some { s with dbg := { s.dbg with traceSel := v % 64 } }
  else if (scanRead s idx).isSome then some s
  else none

/-- A DBGACC access: DONE, ERR and the data of a completed read (R473). -/
def scanAccess (s : State) (write : Bool) (idx v : Nat) : State :=
  if write then
    match scanWrite s idx v with
    | some t => { t with dbg := { t.dbg with done := true, err := false } }
    | none => { s with dbg := { s.dbg with done := true, err := true } }
  else
    match scanRead s idx with
    | some (t, w) => { t with dbg := { t.dbg with done := true, err := false, data := w }, sent := .jtag w }
    | none => { s with dbg := { s.dbg with done := true, err := true } }

/-- DBGACC_UPDATE (R473). -/
def execDbgaccUpdate (v : BitVec 80) (s : State) : Out :=
  ok (scanAccess s (v.toNat % 2 == 1) (v.toNat / 2 % 2 ^ 11) (v.toNat / 2 ^ 16))

/-- AUTH_REQ (R475). -/
def execAuthReq (v : Word) (s : State) : Out := ok (scanAccess s true 0x001 v.toNat)
/-- AUTH_GO (R475). -/
def execAuthGo (s : State) : Out := ok (scanAccess s true 0x003 1)
/-- SCAN_REVOKE (R476). -/
def execScanRevoke (p : Part) (s : State) : Out := ok (scanAccess s true 0x004 (256 + p.val))
/-- STOP (R477). -/
def execStop (s : State) : Out := ok (scanAccess s true 0x051 1)
/-- STOP_PART (R477). -/
def execStopPart (s : State) : Out := ok (scanAccess s true 0x051 2)
/-- RUN (R481). -/
def execRun (s : State) : Out := ok (scanAccess s true 0x051 3)
/-- MBX_IN (R481). -/
def execMbxIn (v : Word) (s : State) : Out := ok (scanAccess s true 0x053 v.toNat)
/-- MBX_OUT (R481). -/
def execMbxOut (s : State) : Out := ok (scanAccess s false 0x054 0)
/-- TRACE_DATA (R490). -/
def execTraceData (s : State) : Out := ok (scanAccess s false 0x061 0)

/-- A core's read of MBXIN (R481). -/
def mbxinRead (s : State) (c : Nat) : State := respOk (wb s (Reg.CDBG_STATE c) 3 false) (rd s (Reg.CDBG_MBXIN c))

/-- CORE_MBX_READ (R481). -/
def execCoreMbxRead (i : Initiator) (c : CoreId) (s : State) : Out := ok (regRead s i (Reg.CDBG_MBXIN c) true fun t => mbxinRead t c)

/-- Whether an initiator acts at M. -/
def isM (s : State) (i : Initiator) : Bool := initPriv s i == 3

/-- A core's write of MBXOUT (R481); `none` is a refusal. -/
def mbxoutEffect (s : State) (c : Nat) (v : Word) : Option State :=
  if rb s (Reg.CDBG_STATE c) 4 then none else some (wb (wr s (Reg.CDBG_MBXOUT c) v) (Reg.CDBG_STATE c) 4 true)

/-- CORE_MBX_WRITE (R481). -/
def execCoreMbxWrite (i : Initiator) (c : CoreId) (v : Word) (s : State) : Out :=
  ok (regWriteOpt s i (Reg.CDBG_MBXOUT c) (isM s i) fun t => mbxoutEffect t c v)

/-! ## Scan chain, boundary (R326, R470 to R472) -/

/-- Sites whose segment is in the chain, in its order (R326). -/
def chainSites (s : State) : List Nat :=
  ([12, 13] ++ upto 12).filter fun n =>
    s.dbg.diesel.testBit n && populated s n && !siteAbsent s n && (n == 12 || domOn s (if n = 13 then 49 else 3 * n + 2))

/-- The instruction that a code selects on a site (Table 20.1). -/
def irOf (site code : Nat) : Nat :=
  if [0x00, 0x01, 0x02, 0x03, 0x11].contains code then code
  else if site = 12 ∧ (code = 0x10 ∨ code = 0x20) then code
  else 0xFF

/-- SCAN_IR_UPDATE (R470, R471): `codes` in chain order, one per selected die. -/
def execScanIrUpdate (codes : List Byte) (s : State) : Out :=
  let l := (chainSites s).zip (codes.map BitVec.toNat)
  let okB := bscanOk s
  let irs := l.foldl (fun (t : Tbl Nat) e =>
    t.set e.1 (if irDrives (irOf e.1 e.2) && !okB then 0xFF else irOf e.1 e.2)) s.dbg.irs
  let refused := !okB && l.any fun e => irDrives (irOf e.1 e.2)
  let drives := okB && l.any fun e => e.2 == 0x00 || e.2 == 0x02
  let out := s.dbg.cells.drop fun n => irs.get 0xFF n != 0x00 && irs.get 0xFF n != 0x02
  let s := { s with dbg := { s.dbg with irs := irs, drive := if drives then out else [] } }
  ok (if refused then bsref s else s)

/-- DIESEL_UPDATE (R472): bit 12 stays 1. -/
def execDieselUpdate (v : BitVec 14) (s : State) : Out :=
  ok { s with dbg := { s.dbg with diesel := v.toNat ||| 0x1000 } }

/-- Boundary cells of a site's segment (Table 12.7). -/
def boundaryLen (site : Nat) : Nat := if site = 12 then 3702 else if site = 13 then 96 else 416

/-- Bits that a site contributes to a DR scan (R326, Table 20.1): one bypass bit where it is deselected, unpowered or absent, else the register
that its instruction selects. -/
def scanLen (s : State) (site : Nat) : Nat :=
  if !(chainSites s).contains site then 1
  else match s.dbg.irs.get 0xFF site with
    | 0x00 | 0x01 => boundaryLen site
    | 0x10 => 14
    | 0x11 => 96
    | 0x20 => 80
    | _ => 1

/-- The bits of a DR scan by site, in the order of the chain; bits that the scan does not bring are 0. -/
def scanParts (s : State) : List Nat → List Bool → List (Nat × List Bool)
  | [], _ => []
  | n :: t, l =>
    let k := scanLen s n
    (n, l.take k ++ List.replicate (k - l.length) false) :: scanParts s t (l.drop k)

/-- The boundary registers that a DR scan loads, of the sites with an instruction. -/
def scanLoads (s : State) (bits : List Bool) (code : Nat) : List (Nat × List Bool) :=
  (scanParts s ([12, 13] ++ upto 12) bits).filter fun e => (chainSites s).contains e.1 && s.dbg.irs.get 0xFF e.1 == code

/-- Boundary registers with what a scan loaded. -/
def loadCells (t : Tbl (List Bool)) (l : List (Nat × List Bool)) : Tbl (List Bool) := l.foldl (fun t e => t.set e.1 e.2) t

/-- BOUNDARY_REGISTER_UPDATE (R326, R471): `cells` are the bits of the whole scan, in the order of the chain. Each selected die's boundary
register is loaded under EXTEST and SAMPLE/PRELOAD, and drives its balls under a permitted EXTEST. -/
def execBoundaryRegisterUpdate (cells : List Bool) (s : State) : Out :=
  let ext := scanLoads s cells 0x00
  let pre := scanLoads s cells 0x01
  let s' := { s with dbg := { s.dbg with cells := loadCells s.dbg.cells pre } }
  ok (if ext.isEmpty then s'
    else if bscanOk s then { s' with dbg := { s'.dbg with cells := loadCells s'.dbg.cells ext, drive := loadCells s.dbg.drive ext } }
    else bsref { s' with dbg := { s'.dbg with drive := [] } })

/-- DEBUG_RESET (R451): the TAP controller alone; every instruction is BYPASS. -/
def execDebugReset (s : State) : Out := ok { s with dbg := { s.dbg with irs := [], drive := [] } }

/-- THERMTRIP (R508). -/
def execThermtrip (s : State) : Out := ok { s with pwr := { s.pwr with therm := true } }

/-! ## Partition watchdogs (R483) -/

/-- A write of WDPERIOD: a watchdog that starts counts a whole period. -/
def wdPeriodEffect (s : State) (p : Nat) (v : Word) : State :=
  let was := rf s (Reg.DBGP_WDPERIOD p) 0 32
  let s := wr s (Reg.DBGP_WDPERIOD p) (BitVec.ofNat 64 (fld v 0 32))
  if was = 0 ∨ fld v 0 32 = 0 then wr s (Reg.DBGP_WDLEFT p) (BitVec.ofNat 64 (fld v 0 32)) else s

/-- A write of WDSVC. -/
def wdsvcEffect (s : State) (p : Nat) : State := wr s (Reg.DBGP_WDLEFT p) (rd s (Reg.DBGP_WDPERIOD p))

/-- Whether an initiator serves a partition's watchdog: code of that partition at S or above. -/
def mayServe (s : State) (i : Initiator) (p : Nat) : Bool := initPart s i == p && 1 ≤ initPriv s i

/-- WDSVC (R483). -/
def execWdsvc (i : Initiator) (p : Part) (s : State) : Out :=
  ok (regWrite s i (Reg.DBGP_WDSVC p) true (mayServe s i p) fun t => wdsvcEffect t p)

/-- DBG_WD_EXPIRY (R483). -/
def execDbgWdExpiry (p : Part) (s : State) : Out :=
  ok (if rf s (Reg.DBGP_WDPERIOD p) 0 32 = 0 ∨ rf s (Reg.DBGP_WDLEFT p) 0 32 ≠ 0 ∨ frozen s .dbg 0 (p + 1) then s
    else
      let s := wb s (Reg.DBGP_WDSTAT p) 0 true
      let s := if rb s (Reg.DBGP_WDSRC p) 15 then raiseSw s (rf s (Reg.DBGP_WDSRC p) 0 10) true true else s
      wdsvcEffect s p)

/-! ## Counter freeze and snapshots (R496) -/

/-- A write of DBG_GFREEZE. -/
def gfreezeEffect (s : State) (v : Word) : State := wb (wr s Reg.DBG_GFREEZE (BitVec.ofNat 64 (fld v 0 1))) Reg.DBG_STATUS 3 (bit v 0)

/-- GFREEZE_WRITE (R496). -/
def execGfreezeWrite (i : Initiator) (v : W32) (s : State) : Out :=
  ok (regWrite s i Reg.DBG_GFREEZE true (isM0 s i) fun t => gfreezeEffect t (w32 v))

/-- A write of DBG_SNAPTIME arms a snapshot; a time already past latches in the next nanosecond. -/
def snaptimeEffect (s : State) (v : Word) : State :=
  let s := wb (wr s Reg.DBG_SNAPTIME v) Reg.DBG_STATUS 1 true
  let late := decide (v.toNat < s.time)
  let s := if late then wb s Reg.DBG_STATUS 2 true else s
  { s with dbg := { s.dbg with armed := some (if late then s.time + 1 else v.toNat) } }

/-- SNAPTIME_ARM (R496). -/
def execSnaptimeArm (i : Initiator) (v : Word) (s : State) : Out :=
  ok (regWrite s i Reg.DBG_SNAPTIME true (isM0 s i) fun t => snaptimeEffect t v)

/-- A register takes a value, unless it holds it. -/
def wrNew (s : State) (r : RegAddr) (v : Word) : State := if rd s r = v then s else wr s r v

/-- One core copies its counters, or writes 0 where it is held or its domain is off. -/
def snapCore (s : State) (c : Nat) : State :=
  let live := (getCore s c).running && domOn s (coreDomain c)
  let s := (upto 8).foldl (fun t k => wrNew t (Reg.CNT_SNAP c k) (if live then rd t (Reg.CNT_CNT c k) else 0)) s
  if rb s (Reg.CNT_STATUS c) 8 = live then s else wb s (Reg.CNT_STATUS c) 8 live

/-- COUNTER_SNAPSHOT (R496). -/
def execCounterSnapshot (s : State) : Out :=
  ok (match s.dbg.armed with
    | none => s
    | some t =>
      if s.time < t then s
      else
        let s := ((upto 388).filter fun c => blockPresent s .core c && !siteAbsent s (coreSite c)).foldl snapCore s
        let s := wr s Reg.DBG_SNAPSEQ (BitVec.ofNat 64 ((rf s Reg.DBG_SNAPSEQ 0 32 + 1) % 2 ^ 32))
        let s := wb { s with dbg := { s.dbg with armed := none } } Reg.DBG_STATUS 1 false
        raiseCond s .dbg 0 0 0)

end Sys2Proof.Machine
end

