-- ==== Sys2Proof/Machine/Trace.lean ====
section
/-! DEFINITION. Lens trace sessions: encoders, staging, sinks, triggers (R485 to R491). -/

namespace Sys2Proof.Machine

/-! ## Sessions and contexts (R485) -/

/-- The session that a core feeds: its partition's, hub cores partition 0's. -/
def lensOf (s : State) (c : Nat) : Option Nat := if 384 ≤ c then some 0 else coreOwner s c

/-- Whether a core feeds a session that runs. -/
def lensOn (s : State) (p c : Nat) : Bool :=
  rb s (Reg.LNSP_CTL p) 0 && !rb s (Reg.LNSP_STATUS p) 1 && rb s (Reg.LNSP_CORES p (c / 32)) (c % 32) && lensOf s c == some p

/-- The partition of a core's context: M-level code counts as partition 0. -/
def ctxPart (s : State) (c : Nat) : Nat := if corePriv s c = 3 then 0 else (coreOwner s c).getD 0

/-- Whether a core's context passes both filters of a session. -/
def lensPasses (s : State) (p c : Nat) : Bool := ctxPart s c == p && rb s (Reg.LNSP_PRIV p) (corePriv s c)

/-! ## Staging (R486 to R488) -/

/-- Class of a packet type (Table 20.6). -/
def lensClass : Nat → Option Nat
  | 0x1 | 0x5 | 0x7 | 0x8 | 0x9 | 0xA => some 0
  | 0x3 | 0x4 => some 1
  | 0x2 => some 2
  | 0x6 => some 3
  | _ => none

/-- Bytes staged, of all classes or of classes 1 to 3. -/
def stagedBytes (x : Lens) : Nat := sumNat (x.staging.map fun e => e.2.2.length)
def stagedOthers (x : Lens) : Nat := sumNat ((x.staging.filter fun e => e.1 != 0).map fun e => e.2.2.length)

/-- Occupancy above which a class is dropped, in percent. -/
def lensLimit : Nat → Nat
  | 1 => 90
  | 2 => 75
  | 3 => 50
  | _ => 100

/-- Whether a packet finds room (R488). -/
def lensRoom (x : Lens) (cls n : Nat) : Bool :=
  if cls = 0 then stagedBytes x + n ≤ 4096
  else 100 * stagedBytes x ≤ lensLimit cls * 4096 && stagedOthers x + n ≤ 3584

/-- A packet of a core enters staging or is dropped (R488). -/
def lensStage (s : State) (p c cls : Nat) (l : List Byte) : State :=
  let x := getLens s p
  if lensRoom x cls l.length then setLens s p { x with staging := x.staging ++ [(cls, c, l)] }
  else
    let x := { x with dropped := listSet x.dropped cls (nth x.dropped 0 cls + 1), resync := if x.resync.contains c then x.resync else c :: x.resync }
    let s := countReg (setLens s p x) (Reg.LNSP_DROP p cls)
    if cls = 0 then countReg s Reg.LNS_LOST0 else s

/-- The time bases of STAMPTB that a session may stamp (R487). -/
def lensStamps (s : State) (p : Nat) : List Nat :=
  let v := rd s (Reg.LNSP_STAMPTB p)
  ((upto 4).filter fun i => bit v (5 * i + 4)).map (fun i => fld v (5 * i) 4) |>.filter (tbAllowed s p)

/-- A SYNC packet of a core (Table 20.6); the count of its cycle counter is a free value (log entry 3). -/
def syncBytes (s : State) (p c : Nat) : List Byte :=
  let k := getCore s c
  let b := k.bank k.cur
  let st := lensStamps s p
  leBytes 1 (0x70 + st.length) ++ leBytes 8 (Config.freeNat s.freeCtr) ++ leBytes 8 s.time ++ leBytes 6 b.pc.toNat ++
    leBytes 1 (ctxPart s c) ++ leBytes 1 (fld b.gtb 1 5 + 32 * k.cur) ++
    (st.map fun t => leBytes 1 t ++ leBytes 8 (getTb s t).phase.toNat).flatten

/-- An encoder emits SYNC. -/
def lensSync (s : State) (p c : Nat) : State :=
  let l := syncBytes s p c
  let x := getLens s p
  let s := setLens { s with freeCtr := s.freeCtr + 1 } p { x with resync := x.resync.filter (· != c) }
  lensStage s p c 0 l

/-- A packet that an encoder emits: SYNC first where a drop affected its core. -/
def lensEmit (s : State) (p c cls : Nat) (l : List Byte) : State :=
  lensStage (if (getLens s p).resync.contains c then lensSync s p c else s) p c cls l

/-- LNS_SYNC (R487). -/
def execLnsSync (c : CoreId) (s : State) : Out :=
  ok (match lensOf s c with
    | none => s
    | some p => if lensOn s p c && lensPasses s p c then lensSync s p c else s)

/-- Whether a DATA packet is one that the session asks for: CTL.DATA is 1 and an address it carries lies in [DLO, DHI] (R486). -/
def dataTraced (s : State) (p : Nat) (bytes : List Byte) : Bool :=
  rb s (Reg.LNSP_CTL p) 3 &&
    (!(leNat (bytes.take 1)).testBit 3 ||
      (let a := leNat ((bytes.drop 1).take 6)
       (rd s (Reg.LNSP_DLO p)).toNat ≤ a && a ≤ (rd s (Reg.LNSP_DHI p)).toNat))

/-- Whether an encoder emits a packet of a type: its context passes, but for PWR, and DATA is asked for (R485 to R487). -/
def mayEmit (s : State) (p c : Nat) (ty : BitVec 4) (bytes : List Byte) : Bool :=
  (ty == 8 || lensPasses s p c) && (ty != 6 || dataTraced s p bytes)

/-- LNS_PACKET (R486, R488): `bytes` is the packet from its header on, of type `ty`. -/
def execLnsPacket (c : CoreId) (ty : BitVec 4) (bytes : List Byte) (s : State) : Out :=
  ok (match lensOf s c, lensClass ty.toNat, bytes with
    | some p, some cls, h :: _ =>
      if h.toNat / 16 = ty.toNat && lensOn s p c && mayEmit s p c ty bytes then lensEmit s p c cls bytes else s
    | _, _, _ => s)

/-! ## Enabling (R485, R489) -/

/-- Whether a session's DRAM sink is granted. -/
def lensDramOk (s : State) (p : Nat) : Bool :=
  let v := rd s (Reg.LNSP_DBASE p)
  16 ≤ fld v 0 6 && fld v 0 6 ≤ 32 && regionOk s p (fld v 16 32 * 65536) (2 ^ fld v 0 6) 2

/-- A write of LNS_P_CTL (R485, R489); `none` is a refusal. Setting EN starts the session anew. -/
def lnsCtlEffect (s : State) (p : Nat) (v : Word) : Option State :=
  let sink := fld v 1 2
  if sink = 3 ∨ (bit v 0 ∧ sink = 1 ∧ !lensDramOk s p) then none
  else
    let was := rb s (Reg.LNSP_CTL p) 0
    let s := wr s (Reg.LNSP_CTL p) (BitVec.ofNat 64 (fld v 0 14))
    if bit v 0 && !was then
      let s := setLens (wr (wr s (Reg.LNSP_STATUS p) 0) (Reg.LNSP_WPTR p) 0) p Lens.reset
      let cs := (upto 388).filter fun c => lensOn s p c && (getCore s c).running && lensPasses s p c
      some (cs.foldl (fun t c => lensSync t p c) s)
    else some s

/-- LNS_SESSION_ENABLE (R485). -/
def execLnsSessionEnable (i : Initiator) (p : Part) (v : W32) (s : State) : Out :=
  ok (regWriteOpt s i (Reg.LNSP_CTL p) true fun t => lnsCtlEffect t p (w32 v))

/-- A write of LNS_P_PRIV (R485): PRIV.H is set at H or M, PRIV.M at M; the flag says that a bit was refused. -/
def lnsPrivEffect (s : State) (i : Initiator) (p : Nat) (v : Word) : State × Bool :=
  let pr := initPriv s i
  let h := bit v 2 && 2 ≤ pr
  let m := bit v 3 && 3 ≤ pr
  (wr s (Reg.LNSP_PRIV p) (BitVec.ofNat 64 (fld v 0 2 + 4 * h.toNat + 8 * m.toNat)), (bit v 2 && !h) || (bit v 3 && !m))

/-! ## Sinks (R486, R489) -/

/-- Capacity of a session's sink. -/
def sinkCap (s : State) (p : Nat) : Nat :=
  match rf s (Reg.LNSP_CTL p) 1 2 with
  | 0 => hubCap s p
  | _ => 2 ^ rf s (Reg.LNSP_DBASE p) 0 6

/-- WPTR and WRAP follow. -/
def sinkMoved (s : State) (p n : Nat) : State :=
  let x := getLens s p
  let w := x.wrote + n
  let cap := max 1 (sinkCap s p)
  let s := wr (setLens s p { x with wrote := w }) (Reg.LNSP_WPTR p) (BitVec.ofNat 64 (w % cap))
  if cap ≤ w then wb s (Reg.LNSP_STATUS p) 2 true else s

/-- Bytes into the hub segments, one circular buffer. -/
def hubWrite (s : State) (p : Nat) (l : List Byte) : State :=
  let cap := hubCap s p
  if cap = 0 then s
  else
    let x := getLens s p
    let buf := l.zipIdx.foldl (fun (t : Tbl Byte) e => t.set ((x.wrote + e.2) % cap) e.1) x.buf
    sinkMoved (setLens s p { x with buf := buf }) p l.length

/-- Bytes into the DRAM buffer. -/
def dramSink (s : State) (p : Nat) : List Byte → State
  | [] => s
  | b :: t =>
    let v := rd s (Reg.LNSP_DBASE p)
    let a := fld v 16 32 * 65536 + (getLens s p).wrote % 2 ^ fld v 0 6
    let s := match agWrite s (endpointOf .lns 0) a [b] false with
      | .ok t => t
      | .error _ => s
    dramSink (sinkMoved s p 1) p t

/-- Frames of 32 bytes: partition, payload length, up to 30 bytes, zeros (R489). -/
def portFrames (p : Nat) : Nat → List Byte → List Byte
  | 0, _ => []
  | _, [] => []
  | k + 1, l =>
    leBytes 1 p ++ leBytes 1 (min 30 l.length) ++ padTo 30 (l.take 30) ++ portFrames p k (l.drop 30)

/-- Bytes through the trace port (R489). -/
def portSink (s : State) (p : Nat) (l : List Byte) : State := { s with sent := .trace (portFrames p l.length l) }

/-- Whether a session takes part in the trace port (R489). -/
def portTakes (s : State) (p : Nat) : Bool := rb s Reg.LNS_PORTCTL 0 && rb s Reg.LNS_PORTMASK p

/-- Whether a session's packets go to the port. -/
def toPort (s : State) (p : Nat) : Bool := 2 ≤ rf s (Reg.LNSP_CTL p) 1 2

/-- A packet goes to the sink, after SRC where its core differs from the previous packet's there; one that the port withholds is counted
and is no packet of the sink (R486, R489). -/
def sinkPacket (s : State) (p c : Nat) (l : List Byte) : State :=
  if toPort s p && !portTakes s p then s
  else if toPort s p && coreGrant s c == 0 then countReg s Reg.LNS_PORTBLK
  else
  let x := getLens s p
  let src := if x.lastCore = some c then [] else leBytes 1 (0x10 + c / 256) ++ leBytes 1 (c % 256)
  let s := setLens s p { x with lastCore := some c }
  match rf s (Reg.LNSP_CTL p) 1 2 with
  | 0 => hubWrite s p (src ++ l)
  | 1 => dramSink s p (src ++ l)
  | _ => portSink s p (src ++ l)

/-- A count written 7 bits per byte, low group first (R486). -/
def deltaBytes : Nat → Nat → List Byte
  | 0, _ => []
  | k + 1, n => if n < 128 then leBytes 1 n else leBytes 1 (n % 128 + 128) ++ deltaBytes k (n / 128)

/-- DROP packets of the classes that are below their thresholds again (R488). -/
def lensDrops (s : State) (p : Nat) : State :=
  (upto 4).foldl (fun t cls =>
    let x := getLens t p
    let n := nth x.dropped 0 cls
    if n ≠ 0 ∧ lensRoom x cls 10 then
      lensStage (setLens t p { x with dropped := listSet x.dropped cls 0 }) p (x.lastCore.getD 0) 0 (leBytes 1 (0x90 + cls) ++ deltaBytes 9 n)
    else t) s

/-- LNS_SINK_WRITE (R488, R489): the oldest staged packet. -/
def execLnsSinkWrite (p : Part) (s : State) : Out :=
  let x := getLens s p
  ok (match x.staging with
    | [] => s
    | (_, c, l) :: t => lensDrops (sinkPacket (setLens s p { x with staging := t }) p c l) p)

/-- LNS_READ (R490). -/
def execLnsRead (i : Initiator) (p : Part) (s : State) : Out :=
  ok (regRead s i (Reg.LNSP_RDDATA p) true fun t =>
    let (u, w) := lensRead t p
    respOk u w)

/-- A write of RDADDR moves the read pointer within what the sink holds. -/
def rdaddrEffect (s : State) (p : Nat) (v : Word) : State :=
  let x := getLens s p
  let cap := max 1 (hubCap s p)
  let o := hubOldest s p
  let at_ := o + (fld v 0 32 % cap + cap - o % cap) % cap
  setLens (wr s (Reg.LNSP_RDADDR p) (BitVec.ofNat 64 (fld v 0 32))) p { x with read := min at_ x.wrote }

/-! ## Triggers (R491) -/

/-- Cores whose encoders feed a session. -/
def lensCores (s : State) (p : Nat) : List Nat := (upto 388).filter (lensOn s p)

/-- A trigger's debug event on a core. -/
def trigStop (s : State) (c k : Nat) : State :=
  if coreGrant s c = 2 then raiseDbg s c 6 0 k else s

/-- Whether a trigger of its kind can fire on a core: ADDR on an instruction that is traced, EVENT on a traced core, PHASE on a compare that
the partition owns (R491). -/
def trigReady (s : State) (p k c : Nat) : Bool :=
  lensOn s p c &&
    (match rf s (Reg.LNSP_TRIG p k) 0 2 with
     | 1 => lensPasses s p c
     | 2 => true
     | 3 => rf s (pageReg .tbu 0 (17 + fld (rd s (Reg.LNSP_TRIGARG p k)) 0 8 / 16) 0x00C) 0 6 == p
     | _ => false)

/-- A trigger fires; TRIG is emitted where the core's context passes (R485). -/
def lensFire (s : State) (p k c : Nat) : State :=
  let v := rd s (Reg.LNSP_TRIG p k)
  let s := if lensPasses s p c then lensEmit s p c 0 (leBytes 1 (0xA0 + k) ++ leBytes 8 s.time) else s
  let s := if bit v 3 then (if fld v 0 2 = 3 then lensCores s p else [c]).foldl (fun t d => trigStop t d k) s else s
  if bit v 2 && !rb s (Reg.LNSP_STATUS p) 0 then
    let tb := getTb s (rf s (Reg.LNSP_POSTCTL p) 1 4)
    let s := setLens s p { getLens s p with post := some (s.time, tb.phase, tb.rev) }
    raiseCond (wf (wb s (Reg.LNSP_STATUS p) 0 true) (Reg.LNSP_STATUS p) 4 2 k) .lns 0 (p + 1) 0
  else s

/-- LNS_TRIGGER (R491): trigger `k` of a session fires on a core it traces. -/
def execLnsTrigger (p : Part) (k : Fin 4) (c : CoreId) (s : State) : Out :=
  ok (if trigReady s p k c then lensFire s p k c else s)

/-- Whether the post-trigger count has ended. -/
def postDone (s : State) (p t0 : Nat) (phase : Word) (rev : Bool) : Bool :=
  let n := (rd s (Reg.LNSP_POST p)).toNat
  if rb s (Reg.LNSP_POSTCTL p) 0 then
    let tb := getTb s (rf s (Reg.LNSP_POSTCTL p) 1 4)
    let moved := (if rev then phase - tb.phase else tb.phase - phase).toInt
    (tb.st != .tracking && tb.st != .holdover) || (n : Int) ≤ moved
  else 2 * t0 + 5 * n ≤ 2 * s.time

/-- LNS_CAPTURE_STOP (R491). -/
def execLnsCaptureStop (p : Part) (s : State) : Out :=
  let x := getLens s p
  ok (match x.post with
    | none => s
    | some (t0, ph, rev) =>
      if postDone s p t0 ph rev then
        raiseCond (wb (setLens s p { x with post := none }) (Reg.LNSP_STATUS p) 1 true) .lns 0 (p + 1) 1
      else s)

end Sys2Proof.Machine
end

