-- ==== Sys2Proof/Machine/Resets.lean ====
section
/-! DEFINITION. Power-on, package and per-die reset (R450 to R453). -/

namespace Sys2Proof.Machine

/-- Whether a register keeps its value through a package reset (Table 18.7): error log, hold-up configuration, HUB_DBG. -/
def regKept (k : Nat) : Bool :=
  let b := k / (4096 * 1024 * 1024)
  let off := k % 4096
  b == typeCode .err || b == typeCode .dbg || b == typeCode .lns || (b == typeCode .hup && 0x100 ≤ off && off ≤ 0x124)

/-- Whether an address lies in the code store. -/
def inCodeStore (a : Nat) : Bool :=
  match areaOf a with
  | .xip | .journal => true
  | _ => false

/-- Every core as it stands after a reset, with fresh secrets (R151, R177). -/
def freshCores (s : State) : Tbl CoreSt :=
  (upto 388).map fun c => (c, CoreSt.reset (24832 + s.freeCtr + 64 * c) rvecReset)

/-- What both resets of the whole package leave: code store contents and fuses are kept, DRAM loses its contents. -/
def resetAll (s : State) : State :=
  { State.reset with
    part := s.part
    serial := s.serial
    freeCtr := s.freeCtr + 24832
    mem := s.mem.filter fun c => inCodeStore c.1
    cores := freshCores s
    dom := domReset s.part.facets
    life := s.life
    dramGen := s.dramGen + 1
    bse := (bseReset s).bse
    pending := s.pending }

/-- Causes as bits of PWR_RSTCAUSE. -/
def causeBits (l : List Nat) : Nat := l.foldl (fun v k => v ||| 2 ^ k) 0

/-- POWER_ON_RESET (R450, R451): never held; a commit that runs is torn. -/
def execPowerOnReset (s : State) : Out := ok (resetAll (jrnTear s))

/-- Every link trains (R320). -/
def trainLinks (s : State) : State :=
  ((upto 49).filter fun l => linkExists s l).foldl (fun t l => setLink (linkGoto t l 1) l { Link.reset with good := t.time }) s

/-- POWER_ON_RESET_END (R450, R453): REFTIME starts, the links train. -/
def execPowerOnResetEnd (s : State) : Out :=
  ok (if s.pwr.por then trainLinks { s with time := 0, pwr := { s.pwr with por := false } } else s)

/-- A cause of a package reset is present. -/
def rstTrigger (s : State) (k : Nat) : State :=
  if s.pwr.por then s else { s with pwr := { s.pwr with causes := if s.pwr.causes.contains k then s.pwr.causes else s.pwr.causes ++ [k] } }

/-- PRST (R450). -/
def execPrst (s : State) : Out := ok (rstTrigger s 1)

/-- VIN_CORE_LOW (R450). -/
def execVinCoreLow (s : State) : Out := ok (rstTrigger s 3)

/-- WD_EXPIRY_RESET (R349). -/
def execWdExpiryReset (s : State) : Out :=
  ok (if s.smg.rstOwed then rstTrigger { s with smg := { s.smg with rstOwed := false } } 2 else s)

/-- The package reset itself (Table 18.7). -/
def packageInit (s : State) : State :=
  let t := resetAll s
  let t := { t with
    time := s.time
    regs := s.regs.drop fun k => !regKept k
    err := s.err
    dbg := s.dbg
    lens := s.lens
    pwr := { Pwr.reset with por := false, inReset := true, therm := s.pwr.therm } }
  bscanJudge (wr t Reg.PWR_RSTCAUSE (BitVec.ofNat 64 (causeBits s.pwr.causes)))

/-- PACKAGE_RESET (R445, R450, R451): held while a commit runs, unless VIN_CORE is low; a cause that comes while the reset is in force is
recorded. -/
def execPackageReset (s : State) : Out :=
  ok (if s.pwr.por || s.pwr.causes.isEmpty then s
    else if s.pwr.inReset then
      let v := rf s Reg.PWR_RSTCAUSE 0 5 ||| causeBits s.pwr.causes
      wr { s with pwr := { s.pwr with causes := [] } } Reg.PWR_RSTCAUSE (BitVec.ofNat 64 v)
    else if s.jrn.run.isSome && !s.pwr.causes.contains 3 then s
    else packageInit (jrnTear s))

/-- PACKAGE_RESET_END (R450): the links train. -/
def execPackageResetEnd (s : State) : Out :=
  ok (if s.pwr.inReset && s.pwr.causes.isEmpty then trainLinks { s with pwr := { s.pwr with inReset := false } } else s)

/-- The per-die reset of a site: its domains are switched off at once, without write-back; what it owned is poisoned (R450). -/
def dieReset (s : State) (n : Nat) : State :=
  if domSt s (3 * n) = 0 ∧ domSt s (3 * n + 1) = 0 ∧ domSt s (3 * n + 2) = 0 then s
  else if siteAbsent s n then
    [3 * n, 3 * n + 1, 3 * n + 2].foldl (fun t d => facetInit (setDom t d 0) d) (linkFall s n)
  else markAbsent s n

/-- RSTOUT_L is driven low while PWR_CTL.RSTOUT is 0 and released while it is 1 (R452). -/
def rstoutLow (s : State) : Bool := !rb s Reg.PWR_CTL 8

/-- A write of PWR_CTL (R450, R452); `none` is a refusal. -/
def pwrCtlEffect (s : State) (v : Word) : Option State :=
  let site := fld v 2 4
  if bit v 1 && (11 < site || !populated s site) then none
  else
    let s := wr s Reg.PWR_CTL (v &&& 0x13C)
    let s := if bit v 1 then dieReset s site else s
    some (if bit v 0 then rstTrigger s 4 else s)

/-- A write of PWR_CTL that leaves RSTOUT as it is. -/
def pwrCtlAccess (s : State) (i : Initiator) (v : Nat) : State :=
  regWriteOpt s i Reg.PWR_CTL (isM0 s i) fun t => pwrCtlEffect t (BitVec.ofNat 64 (v + 2 ^ 8 * rf t Reg.PWR_CTL 8 1))

/-- PKGRST (R450). -/
def execPkgrst (i : Initiator) (s : State) : Out := ok (pwrCtlAccess s i 1)

/-- DIERST (R450). -/
def execDierst (i : Initiator) (site : BitVec 4) (s : State) : Out := ok (pwrCtlAccess s i (2 + 4 * site.toNat))

end Sys2Proof.Machine
end

