-- ==== Sys2Proof/Machine/CoreRegs.lean ====
section
/-! DEFINITION. The registers that a program sees on a bank: general registers through windows, special registers, mode writes and
their shadow (R146, R153 to R156, R180, R201). -/

namespace Sys2Proof.Machine

/-! ## General registers (R154, R156) -/

/-- The physical windowed register that a field 8 to 31 selects in window `cwp`. -/
def winIdx (cwp f : Nat) : Nat := if f < 24 then 16 * cwp + (f - 8) else 16 * ((cwp + 1) % 8) + (f - 24)

/-- The value of the general register that a field selects; g0 reads 0. -/
def Bank.rg (b : Bank) (f : Nat) : Word :=
  if f = 0 then 0 else if f < 8 then nth b.g 0 f else nth b.win 0 (winIdx b.cwp f)

/-- A general register written; a write of g0 is ignored. -/
def Bank.wg (b : Bank) (f : Nat) (v : Word) : Bank :=
  if f = 0 then b else if f < 8 then { b with g := listSet b.g f v } else { b with win := listSet b.win (winIdx b.cwp f) v }

/-- Whether a register field is one of d0 to d7. -/
def isD (f : Nat) : Bool := 24 ≤ f

/-- A predicate; p0 reads 1. -/
def Bank.pred (b : Bank) (p : Nat) : Bool := p == 0 || b.preds.getLsbD p

/-- The privilege of a bank. -/
def Bank.priv (b : Bank) : Nat := fld b.status 0 2

/-- ML of a bank (Table 6.3). -/
def Bank.ml (b : Bank) : Nat := fld b.status 2 3

/-- Whether a bank's arithmetic mode is IMPRECISE (R33). -/
def Bank.imp (b : Bank) : Bool := bit b.status 5

/-- RND of a bank. -/
def Bank.rnd (b : Bank) : Nat := fld b.status 7 2

/-- STATUS.SAT set, in a mode write still in shadow too: the saturation comes after the write in program order. -/
def Bank.setSat (b : Bank) : Bank :=
  { b with
    status := setBit b.status 6 true
    shadow := b.shadow.map fun e => if e.2.1 = 0 then (e.1, e.2.1, setBit e.2.2 6 true) else e }

/-- A predicate written; a write of p0 is ignored. -/
def Bank.setPred (b : Bank) (p : Nat) (v : Bool) : Bank :=
  if p = 0 then b
  else
    { b with
      preds := if v then b.preds ||| BitVec.ofNat 8 (2 ^ p) else b.preds &&& ~~~(BitVec.ofNat 8 (2 ^ p))
      shadow := b.shadow.map fun e => if e.2.1 = 0x0F then (e.1, e.2.1, setBit e.2.2 p v) else e }

/-- WSTATE (Table 6.4). -/
def Bank.wstate (b : Bank) : Word := BitVec.ofNat 64 (b.cwp + 8 * b.wres + 128 * b.tw.toNat + 256 * (b.depth % 2 ^ 24))

/-! ## Special registers (Table 6.2) -/

/-- Whether Table 6.2 lists a special register. -/
def srListed (n : Nat) : Bool :=
  n ≤ 2 || (4 ≤ n && n ≤ 0x0B) || n == 0x0F || (0x10 ≤ n && n ≤ 0x1A) || (0x1C ≤ n && n ≤ 0x1E) || (0x20 ≤ n && n ≤ 0x22)

/-- Whether Table 6.2 gives a special register a write. -/
def srWritable (n : Nat) : Bool := srListed n && n != 0x21

/-- The least privilege that reads a special register (Table 6.2). -/
def srReadPriv (n : Nat) : Nat :=
  if 4 ≤ n ∧ n ≤ 7 then n - 4 else if 8 ≤ n ∧ n ≤ 0x0B then n - 8 else if n = 0x20 then 2 else if n = 0x21 then 1 else 0

/-- The least privilege that writes a special register (Table 6.2). -/
def srWritePriv (n : Nat) : Nat :=
  if 4 ≤ n ∧ n ≤ 7 then n - 4
  else if 8 ≤ n ∧ n ≤ 0x0B then min 3 (n - 8 + 1)
  else if n = 1 ∨ n = 2 then 1 else if n = 0x20 then 2 else 0

/-- Whether a special register belongs to the extended state (R173). -/
def srExt (n : Nat) : Bool := n == 0x22

/-- The value of a special register of bank `l` of a core, zero-extended from its width. -/
def srGet (k : CoreSt) (b : Bank) (n : Nat) : Word :=
  if n = 0 then b.status
  else if n = 1 then b.wstate
  else if n = 2 then b.wfb
  else if 4 ≤ n ∧ n ≤ 7 then nth b.sp 0 (n - 4)
  else if 8 ≤ n ∧ n ≤ 0x0B then nth b.slim 0 (n - 8)
  else if n = 0x0F then BitVec.ofNat 64 (b.preds.toNat ||| 1)
  else if 0x10 ≤ n ∧ n ≤ 0x13 then nth b.xag 0 (n - 0x10)
  else if 0x14 ≤ n ∧ n ≤ 0x17 then nth b.yag 0 (n - 0x14)
  else if n = 0x18 ∨ n = 0x1C then nth b.lstart 0 ((n - 0x18) / 4)
  else if n = 0x19 ∨ n = 0x1D then nth b.lend 0 ((n - 0x18) / 4)
  else if n = 0x1A ∨ n = 0x1E then BitVec.ofNat 64 (nth b.lcount 0 ((n - 0x18) / 4))
  else if n = 0x20 then b.xsave
  else if n = 0x21 then k.xown
  else if n = 0x22 then k.fpcsr
  else 0

/-- STATUS after a write of `v`: PRIV and the reserved bits stay, ML holds at most 6 (R117, Table 6.3). -/
def statusPut (old v : Word) : Word :=
  BitVec.ofNat 64 (fld old 0 2 + 4 * min 6 (fld v 2 3) + 32 * fld v 5 4)

/-- The addresses of LSTART and LEND, whose bits [1:0] read 0. -/
def wordAddr (v : Word) : Word := BitVec.ofNat 64 (v.toNat / 4 * 4)

/-- A special register of a bank takes a value: fields marked RO stay, reserved bits read 0. -/
def srPut (k : CoreSt) (l n : Nat) (v : Word) : CoreSt :=
  let b := k.bank l
  let put := fun (x : Bank) => k.setBank l x
  if n = 0 then put { b with status := statusPut b.status v }
  else if n = 1 then put { b with depth := fld v 8 24 }
  else if n = 2 then put { b with wfb := v, fb := listSet b.fb b.cwp v }
  else if 4 ≤ n ∧ n ≤ 7 then put { b with sp := listSet b.sp (n - 4) v }
  else if 8 ≤ n ∧ n ≤ 0x0B then put { b with slim := listSet b.slim (n - 8) v }
  else if n = 0x0F then put { b with preds := BitVec.ofNat 8 (fld v 0 8 ||| 1) }
  else if 0x10 ≤ n ∧ n ≤ 0x13 then put { b with xag := listSet b.xag (n - 0x10) v }
  else if 0x14 ≤ n ∧ n ≤ 0x17 then put { b with yag := listSet b.yag (n - 0x14) v }
  else if n = 0x18 ∨ n = 0x1C then put { b with lstart := listSet b.lstart ((n - 0x18) / 4) (wordAddr v) }
  else if n = 0x19 ∨ n = 0x1D then put { b with lend := listSet b.lend ((n - 0x18) / 4) (wordAddr v) }
  else if n = 0x1A ∨ n = 0x1E then put { b with lcount := listSet b.lcount ((n - 0x18) / 4) (fld v 0 32) }
  else if n = 0x20 then put { b with xsave := BitVec.ofNat 64 (fld v 0 2 + 512 * fld v 9 39) }
  else if n = 0x22 then { k with fpcsr := BitVec.ofNat 64 (fld v 0 12) }
  else k

/-! ## Mode shadow (R146) -/

/-- A mode write of bank `l`: its value is in force for the fourth instruction after it. -/
def shadowPut (k : CoreSt) (l n : Nat) (v : Word) : CoreSt :=
  let b := k.bank l
  k.setBank l { b with shadow := b.shadow ++ [(3, n, v)] }

/-- Every mode write still in shadow takes effect (R146, R232: entry, return and switch kill and refetch). -/
def flushShadow (k : CoreSt) (l : Nat) : CoreSt :=
  let b := k.bank l
  b.shadow.foldl (fun (x : CoreSt) e => srPut x l e.2.1 e.2.2) (k.setBank l { b with shadow := [] })

/-- One instruction of the bank retires: each mode write in shadow comes one instruction closer, and one with none left takes
effect. -/
def tickShadow (k : CoreSt) (l : Nat) : CoreSt :=
  let b := k.bank l
  let due := b.shadow.filter fun e => e.1 ≤ 1
  let rest := (b.shadow.filter fun e => 1 < e.1).map fun e => (e.1 - 1, e.2)
  due.foldl (fun (x : CoreSt) e => srPut x l e.2.1 e.2.2) (k.setBank l { b with shadow := rest })

/-- A write in shadow of a register that a later instruction has written whole has no effect any more. -/
def dropShadow (b : Bank) (n : Nat) : Bank := { b with shadow := b.shadow.filter fun e => e.2.1 != n }

/-! ## Loop page (R172) -/

/-- A loop register of a bank as its retired writes leave it: LSTART, LEND or LCOUNT of a level. -/
def loopGet (s : State) (c l n : Nat) : Word :=
  let k := getCore s c
  srGet (flushShadow k l) ((flushShadow k l).bank l) n

/-- The special register that an offset of the LOOPS page shows, with its bank. -/
def loopReg (off : Nat) : Option (Nat × Nat) :=
  if off < 0x100 ∨ 0x300 ≤ off then none
  else
    let d := (off - 0x100) % 0x20
    let k := (off - 0x100) / 0x20 % 2
    let l := (off - 0x100) / 0x40
    if d = 0 then some (l, 0x18 + 4 * k) else if d = 8 then some (l, 0x19 + 4 * k) else if d = 0x10 then some (l, 0x1A + 4 * k)
    else none

/-- LOOPS_ACTIVE (Table 6.10). -/
def loopsActive (s : State) (c : Nat) : Word :=
  BitVec.ofNat 64 (sumNat ((upto 8).map fun l =>
    (loopGet s c l 0x1A != 0).toNat * 2 ^ l + (loopGet s c l 0x1E != 0).toNat * 2 ^ (8 + l)))

/-- A write of a loop register through the LOOPS page (R172); `none` is a refusal. -/
def loopsWrite (s : State) (c l n : Nat) (v : Word) : Option State :=
  let k := getCore s c
  if l = k.cur || (k.bank l).st == .active then none
  else some (setCore s c (srPut (flushShadow k l) l n v))

/-- The special register number of a loop register. -/
def loopSr (k : Bool) : LoopReg → Nat
  | .lstart => 0x18 + 4 * k.toNat
  | .lend => 0x19 + 4 * k.toNat
  | .lcount => 0x1A + 4 * k.toNat

/-- LOOPS_REG_WRITE (R172). -/
def execLoopsRegWrite (i : Initiator) (c : CoreId) (l : Level) (k : Bool) (reg : LoopReg) (v : Word) (s : State) : Out :=
  let r := match reg with
    | .lstart => Reg.LOOPS_LSTART c l k.toNat
    | .lend => Reg.LOOPS_LEND c l k.toNat
    | .lcount => Reg.LOOPS_LCOUNT c l k.toNat
  ok (regWriteOpt s i r (isHM s i) fun t => loopsWrite t c l (loopSr k reg) v)

/-! ## The save area of the extended state (R173 to R176) -/

/-- The extended state of a core as its save area holds it (Tables 6.8, 7.22). -/
def xstateBytes (k : CoreSt) : List Byte :=
  (k.ac.map fun a => leBytes 9 a.toNat ++ List.replicate 7 0).flatten ++ leBytes 4 k.fpcsr.toNat ++ List.replicate 60 0 ++
    (k.f.map fun x => leBytes 8 x.toNat).flatten ++ (k.pr.map fun x => leBytes 8 x.toNat).flatten ++
    leBytes 8 (k.pstat.toNat / 16 * 16) ++ List.replicate 24 0

/-- The number that `n` bytes of a list spell from a position. -/
def numAt (l : List Byte) (o n : Nat) : Nat := leNat ((l.drop o).take n)

/-- The extended state that 512 bytes of a save area describe. -/
def xstateOf (k : CoreSt) (l : List Byte) : CoreSt :=
  { k with
    ac := (upto 4).map fun i => BitVec.ofNat 72 (numAt l (16 * i) 9)
    fpcsr := BitVec.ofNat 64 (numAt l 0x40 4 % 2 ^ 12)
    f := (upto 32).map fun j => BitVec.ofNat 64 (numAt l (0x80 + 8 * j) 8)
    pr := (upto 12).map fun i => BitVec.ofNat 64 (numAt l (0x180 + 8 * i) 8)
    pstat := BitVec.ofNat 64 (numAt l 0x1E0 8 % 2 ^ 21 / 256 * 256) }

/-- The extended state of a bank that has saved none: all 0 (R173). -/
def xstateZero (k : CoreSt) : CoreSt := xstateOf k []

/-- XSAVE.ADDR of a bank. -/
def xsaveAddr (k : CoreSt) (l : Nat) : Nat := fld (k.bank l).xsave 9 39 * 512

/-- The ERRC of an access to a save area, if it may not be made (R175): DRAM that the core's partition owns, or the core's own X-TCM
or Y-TCM through its global alias. -/
def xsaveErr (s : State) (c a need : Nat) : Option Nat :=
  match areaOf a with
  | .dram => if regionOk s ((coreOwner s c).getD 0) a 512 need then (memErr s a (need == 2)).orElse fun _ => homeErr s c a 512 (need == 2)
    else some eREGION
  | .core d off => if d = c && isXyTcm off then none else some eREGION
  | _ => some eREGION

/-- The entry of a failed save or load (R175, Table 2.15). -/
def xstateLog (s : State) (c a : Nat) : State :=
  let k := getCore s c
  logErr s { errRec s 5 4 .core c with
    part := (coreOwner s c).getD 0xFF, initiator := 0x8000 + c, addr := a, pc := (k.bank k.cur).pc.toNat }

/-- The save phase (R173): the loaded state goes to the area of the bank that owns it. The flag says whether it failed, with the area's
address. -/
def xstateSave (s : State) (c : Nat) : State × Option Nat :=
  let k := getCore s c
  let o := fld k.xown 0 3
  let a := xsaveAddr k o
  match xsaveErr s c a 2 with
  | some _ => (xstateLog s c a, some a)
  | none =>
    match memWriteBy s c a (xstateBytes k) with
    | .error _ => (xstateLog s c a, some a)
    | .ok s =>
      let k := getCore s c
      let k := k.setBank o { k.bank o with xsave := setBit (k.bank o).xsave 1 true }
      (setCore s c { k with xown := setBit k.xown 3 false }, none)

/-- The load phase (R173): the area of bank `l`, or zeros where its VALID is 0. -/
def xstateLoad (s : State) (c l : Nat) : State × Option Nat :=
  let k := getCore s c
  let own := fun (x : CoreSt) => { x with xown := BitVec.ofNat 64 (l + 8), avail := true }
  if !bit (k.bank l).xsave 1 then (setCore s c (own (xstateZero k)), none)
  else
    let a := xsaveAddr k l
    match xsaveErr s c a 1 with
    | some _ => (xstateLog s c a, some a)
    | none =>
      let s := cacheLines s c a 0 false a 512
      match memRead s a 512 with
      | .err _ => (xstateLog s c a, some a)
      | .data b p => if p then (xstateLog s c a, some a) else (setCore s c (own (xstateOf k b)), none)

/-- Whether bank `l` owns the loaded extended state. -/
def xstateOwned (k : CoreSt) (l : Nat) : Bool := bit k.xown 3 && fld k.xown 0 3 == l

/-- A write of XSAVE of bank `l` (R176): while that bank owns the loaded state, the state goes to the old area first. The result is the
area's address where that save failed. -/
def xsavePut (s : State) (c l : Nat) (v : Word) : State × Option Nat :=
  if xstateOwned (getCore s c) l then
    match xstateSave s c with
    | (s, some a) => (s, some a)
    | (s, none) => (setCore s c (srPut { getCore s c with avail := false } l 0x20 v), none)
  else (setCore s c (srPut (getCore s c) l 0x20 v), none)

/-! ## The monitor's view of a bank (R481, Table 20.10) -/

/-- Whether RDATA of a core reaches the selected bank: the core is STOPPED and the bank lies below L_D. -/
def rdataOk (s : State) (c : Nat) : Bool := (getCore s c).stopped && rf s (Reg.CDBG_RSEL c) 0 3 < monLevel s c

/-- The register that RSEL selects. -/
def rdataGet (s : State) (c : Nat) : Word :=
  let k := getCore s c
  let l := rf s (Reg.CDBG_RSEL c) 0 3
  let n := rf s (Reg.CDBG_RSEL c) 3 10
  if n < 32 then (k.bank l).rg n else if 0x100 ≤ n then srGet (flushShadow k l) ((flushShadow k l).bank l) (n - 0x100) else 0

/-- A write of RDATA; `none` is a refusal. A register that Table 6.2 gives no write keeps its value, and WSTATE and WFB refuse it
while WRES is not 1 (R155). -/
def rdataPut (s : State) (c : Nat) (v : Word) : Option State :=
  let k := getCore s c
  let l := rf s (Reg.CDBG_RSEL c) 0 3
  let n := rf s (Reg.CDBG_RSEL c) 3 10
  if !rdataOk s c then none
  else if n < 32 then some (setCore s c (k.setBank l ((k.bank l).wg n v)))
  else if (n = 0x101 ∨ n = 0x102) ∧ (k.bank l).wres ≠ 1 then none
  else if n = 0x120 then some (xsavePut (setCore s c (flushShadow k l)) c l v).1
  else if 0x100 ≤ n && srWritable (n - 0x100) then some (setCore s c (srPut (flushShadow k l) l (n - 0x100) v))
  else some s

end Sys2Proof.Machine
end

