-- ==== Sys2Proof/Machine/Operands.lean ====
section
/-! DEFINITION. Operand forms of instruction words: guards, immediates, widths, sign extension, address generators (R154, R164, R168, R178,
R180, R191). -/

namespace Sys2Proof.Machine

/-- The signed number that the low `w` bits of a value spell (R164). -/
def sintOf (w : Nat) (v : Word) : Int := sfld v 0 w

/-- The low `w` bits of a value, unsigned. -/
def uintOf (w : Nat) (v : Word) : Nat := fld v 0 w

/-- The low `w` bits of a number, sign-extended to 64 bits. -/
def sextW (w : Nat) (x : Nat) : Word := ofI (sfld (BitVec.ofNat 64 x) 0 w)

/-- The low `w` bits of a number, zero-extended to 64 bits. -/
def zextW (w : Nat) (x : Nat) : Word := BitVec.ofNat 64 (x % 2 ^ w)

/-- A signed immediate field. -/
def sImm {w : Nat} (x : BitVec w) : Word := ofI x.toInt

/-- An unsigned immediate field. -/
def zImm {w : Nat} (x : BitVec w) : Word := BitVec.ofNat 64 x.toNat

/-- Whether a guard lets its instruction execute (Table 7.1). -/
def Bank.guard (b : Bank) (g : Guard) : Bool := b.pred g.pg.toNat != g.ps

/-- Whether a transfer with this guard is conditional (R198). -/
def isCond (g : Guard) : Bool := g.pg != 0

/-- The size in bytes that a two-bit size field codes (R191). -/
def sizeBytes (z : BitVec 2) : Nat := 2 ^ z.toNat

/-- A loaded value extended under R164. -/
def extend (n : Nat) (uns : Bool) (l : List Byte) : Word := if uns then zextW (8 * n) (leNat l) else sextW (8 * n) (leNat l)

/-- The address of format M: ra + sext(OFF) × size (Table 7.9). -/
def offAddr {w : Nat} (ra : Word) (off : BitVec w) (n : Nat) : Nat := (ra + ofI (off.toInt * n)).toNat

/-! ## Address generators (R167, R168) -/

/-- The generator that a field names. -/
def Bank.gen (b : Bank) (y : Bool) (i : Nat) : Word := if y then nth b.yag 0 i else nth b.xag 0 i

/-- A of a generator. -/
def genA (v : Word) : Nat := fld v 0 16

/-- A after post-modify (R168). -/
def genNext (v : Word) : Nat :=
  let m := sfld v 16 16
  let l := fld v 32 16
  let b := fld v 48 16
  if l = 0 then ((genA v + m) % 65536).toNat
  else (((b : Int) + ((genA v : Int) - b + m) % l) % 65536).toNat

/-- A of a generator replaced, in a mode write still in shadow too: the update comes after the write in program order. -/
def Bank.putA (b : Bank) (y : Bool) (i a : Nat) : Bank :=
  let n := if y then 0x14 + i else 0x10 + i
  let b := if y then { b with yag := listSet b.yag i (setFld (nth b.yag 0 i) 0 16 a) }
    else { b with xag := listSet b.xag i (setFld (nth b.xag 0 i) 0 16 a) }
  { b with shadow := b.shadow.map fun e => if e.2.1 = n then (e.1, e.2.1, setFld e.2.2 0 16 a) else e }

/-- Post-modify of a generator. -/
def Bank.postModify (b : Bank) (y : Bool) (i : Nat) : Bank := b.putA y i (genNext (b.gen y i))

/-- The global alias of an offset of a core's X-TCM or Y-TCM (Table 2.2). -/
def tcmAddr (c : Nat) (y : Bool) (off : Nat) : Nat := aliasAddr c ((if y then 0x20000 else 0x10000) + off % 65536)

end Sys2Proof.Machine
end

