-- ==== Sys2Proof/Machine/Encoding.lean ====
section
/-! DEFINITION. The encoding of the core's instructions: from the words of an instruction to its command (R178 to R181, Tables 7.1 to 7.19). -/

namespace Sys2Proof.Machine

/-! ## Which field values are assigned (R179) -/

/-- Whether Table 7.4 assigns a function with its fields. -/
def aluLegal (fn : BitVec 7) (rb : R5) : Bool :=
  let f := fn.toNat % 64
  f ≤ 0x13 && (!(f == 0x0E || f == 0x0F || f == 0x11) || rb == 0) && (f != 0x10 || fn.toNat < 64)

/-- Whether Table 7.5 assigns SHI with its immediate. -/
def shiLegal (imm : BitVec 12) : Bool := imm.toNat / 64 % 8 == 0 && !(imm.getLsbD 9 && imm.getLsbD 5)

/-- Whether a compare's fields are assigned. -/
def cmpLegal (pd pn : BitVec 3) (cond : BitVec 4) : Bool := cond.toNat < 8 && (pd != pn || pn == 0)

/-- Whether a decode entry assigns an instruction with these fields. -/
def customLegal (dt : Word) (rd ra rb : R5) : Bool :=
  bit dt 0 && (bit dt 9 || rd == 0) && (bit dt 10 || ra == 0) && (bit dt 11 || rb == 0)

/-! ## Fields of an instruction word (Tables 7.1, 7.2) -/

/-- The guard of an instruction word. -/
def wGuard (w : W32) : Guard := { ps := w.getLsbD 31, pg := w.extractLsb' 28 3 }

/-- The major opcode of an instruction word. -/
def wMajor (w : W32) : Nat := (w.extractLsb' 22 6).toNat

/-- The fields RD, RA, RB and FN of format R, and IMM12 of format I. -/
def wRd (w : W32) : R5 := w.extractLsb' 17 5
def wRa (w : W32) : R5 := w.extractLsb' 12 5
def wRb (w : W32) : R5 := w.extractLsb' 7 5
def wFn (w : W32) : BitVec 7 := w.extractLsb' 0 7
def wImm (w : W32) : BitVec 12 := w.extractLsb' 0 12

/-- Whether the `n` bits of a word from `lo` on are 0. -/
def wZero (w : W32) (lo n : Nat) : Bool := w.toNat / 2 ^ lo % 2 ^ n == 0

/-- Whether a word is the first of a two-word instruction (R178). -/
def isWide (w : W32) : Bool := 0x30 ≤ wMajor w && wMajor w ≤ 0x35

/-- An instruction where its fields are assigned. -/
def enc (legal : Bool) (i : Instr) : Option Instr := if legal then some i else none

/-! ## Majors (R181, Table 7.3) -/

/-- Majors 0x01 to 0x0D (R182 to R186). -/
def decInt (c : CoreId) (w : W32) : Option Instr :=
  let g := wGuard w
  let pd : BitVec 3 := w.extractLsb' 19 3
  let pn : BitVec 3 := w.extractLsb' 16 3
  match wMajor w with
  | 0x01 => enc (aluLegal (wFn w) (wRb w)) (.intAlu c g (wFn w) (wRd w) (wRa w) (wRb w))
  | 0x02 => some (.addi c g (wRd w) (wRa w) (wImm w))
  | 0x03 => some (.andi c g (wRd w) (wRa w) (wImm w))
  | 0x04 => some (.ori c g (wRd w) (wRa w) (wImm w))
  | 0x05 => some (.xori c g (wRd w) (wRa w) (wImm w))
  | 0x06 => enc (shiLegal (wImm w)) (.shi c g (wRd w) (wRa w) (wImm w))
  | 0x08 =>
    enc (cmpLegal pd pn (w.extractLsb' 2 4))
      (.cmp c g pd pn (w.extractLsb' 11 5) (w.extractLsb' 6 5) (w.extractLsb' 2 4) (w.getLsbD 1) (w.getLsbD 0))
  | 0x09 =>
    let fn : BitVec 3 := w.extractLsb' 0 3
    let pb : BitVec 3 := w.extractLsb' 13 3
    enc (wZero w 3 10 && (fn.toNat < 4 || (fn == 4 && pb == 0))) (.predicateOp c g pd pn pb fn)
  | 0x0A =>
    match (w.extractLsb' 0 3).toNat with
    | 0 => some (.sel c g (w.getLsbD 6) (w.extractLsb' 3 3) (wRd w) (wRa w) (wRb w))
    | 1 => some (.cmov c g (w.getLsbD 6) (w.extractLsb' 3 3) (wRd w) (wRa w))
    | _ => none
  | 0x0B => enc ((wFn w).toNat ≤ 4) (.mul c g (wFn w) (wRd w) (wRa w) (wRb w))
  | 0x0C => enc ((wFn w).toNat % 64 < 4) (.div c g (wFn w) (wRd w) (wRa w) (wRb w))
  | 0x0D => enc ((wFn w).toNat ≤ 9) (.fractionOp c g (wFn w) (wRd w) (wRa w) (wRb w))
  | _ => none

/-- Majors 0x0E to 0x10 (R187, R188). -/
def decAcc (c : CoreId) (w : W32) : Option Instr :=
  let g := wGuard w
  let ac : BitVec 2 := w.extractLsb' 5 2
  match wMajor w with
  | 0x0E =>
    enc (wZero w 0 4 && ac != 3 && (!w.getLsbD 4 || w.getLsbD 17))
      (.mac c g (w.extractLsb' 20 2) (w.getLsbD 19) (w.getLsbD 18) (w.getLsbD 17) (wRa w) (wRb w) ac (w.getLsbD 4))
  | 0x0F =>
    match (w.extractLsb' 0 5).toNat with
    | 0 => some (.acrd15 c g (wRd w) ac)
    | 1 => some (.acrd31 c g (wRd w) ac)
    | 2 => some (.acrd63 c g (wRd w) ac)
    | 3 => some (.acrdl c g (wRd w) ac)
    | 4 => some (.acrdg c g (wRd w) ac)
    | 5 => some (.acwr c g (wRa w) ac)
    | 6 => some (.acwrg c g (wRa w) ac)
    | 7 => some (.acsh c g ac (wRb w))
    | 8 => enc (wZero w 9 3) (.acadd c g ac (wRb w))
    | 9 => some (.acclr c g ac)
    | _ => none
  | 0x10 =>
    enc (wZero w 0 8 && (!w.getLsbD 8 || w.getLsbD 10))
      (.macx c g (w.extractLsb' 20 2) (w.extractLsb' 18 2) (w.extractLsb' 16 2) (w.getLsbD 15) (w.getLsbD 14) (w.extractLsb' 12 2)
        (w.getLsbD 11) (w.getLsbD 10) (w.getLsbD 9) (w.getLsbD 8))
  | _ => none

/-- Majors 0x11 to 0x1F (R191, R193, R194). -/
def decMem (c : CoreId) (w : W32) : Option Instr :=
  let g := wGuard w
  match wMajor w with
  | 0x11 => some (.load c g 0 false (wRd w) (wRa w) (wImm w))
  | 0x12 => some (.load c g 0 true (wRd w) (wRa w) (wImm w))
  | 0x13 => some (.load c g 1 false (wRd w) (wRa w) (wImm w))
  | 0x14 => some (.load c g 1 true (wRd w) (wRa w) (wImm w))
  | 0x15 => some (.load c g 2 false (wRd w) (wRa w) (wImm w))
  | 0x16 => some (.load c g 2 true (wRd w) (wRa w) (wImm w))
  | 0x17 => some (.load c g 3 false (wRd w) (wRa w) (wImm w))
  | 0x18 => some (.store c g 0 (wRd w) (wRa w) (wImm w))
  | 0x19 => some (.store c g 1 (wRd w) (wRa w) (wImm w))
  | 0x1A => some (.store c g 2 (wRd w) (wRa w) (wImm w))
  | 0x1B => some (.store c g 3 (wRd w) (wRa w) (wImm w))
  | 0x1C =>
    enc (!w.getLsbD 0 && (!w.getLsbD 3 || (!w.getLsbD 6 && w.extractLsb' 4 2 != 3)))
      (.ldxStx c g (wFn w) (wRd w) (wRa w) (wRb w))
  | 0x1D =>
    enc (wZero w 0 9 && (!w.getLsbD 9 || (!w.getLsbD 12 && w.extractLsb' 10 2 != 3)))
      (.ldtStt c g (wRd w) (w.getLsbD 16) (w.extractLsb' 14 2) (w.getLsbD 13) (w.getLsbD 12) (w.extractLsb' 10 2) (w.getLsbD 9))
  | 0x1E =>
    if w.getLsbD 6 then some (.stmw c g (wRd w) (wRa w) (wRb w) (w.extractLsb' 0 6))
    else enc (wRd w != wRb w) (.ldmw c g (wRd w) (wRa w) (wRb w) (w.extractLsb' 0 6))
  | 0x1F =>
    if w.getLsbD 6 then enc (wZero w 0 5 && wRd w != wRb w) (.stc c g (wRd w) (wRa w) (wRb w) (w.getLsbD 5))
    else enc (wZero w 0 5) (.ldl c g (wRd w) (wRa w) (w.getLsbD 5))
  | _ => none

/-- Majors 0x20 to 0x28 (R196 to R202); "RA only" leaves the other fields 0 (log entry 59). -/
def decCtl (c : CoreId) (w : W32) : Option Instr :=
  let g := wGuard w
  let raOnly := wZero w 17 5 && wZero w 0 12
  let sr : BitVec 6 := w.extractLsb' 6 6
  let arg : BitVec 10 := w.extractLsb' 12 10
  match wMajor w with
  | 0x20 =>
    match (w.extractLsb' 0 22).toNat with
    | 0 => some (.fenceAcq c g)
    | 1 => some (.fenceRel c g)
    | 2 => some (.fenceAll c g)
    | 3 => some (.ifence c g)
    | _ => none
  | 0x21 => some (.br c g (w.extractLsb' 0 22))
  | 0x22 => enc raOnly (.jr c g (wRa w))
  | 0x23 => some (.call c g (w.extractLsb' 0 22))
  | 0x24 => enc raOnly (.callr c g (wRa w))
  | 0x25 => enc (wZero w 0 22) (.ret c g)
  | 0x26 =>
    enc (w.getLsbD 20 || wZero w 15 5)
      (.loop c g (w.getLsbD 21) (w.getLsbD 20) (w.extractLsb' 10 10) (w.extractLsb' 10 5) (w.extractLsb' 0 10))
  | 0x27 =>
    if w.getLsbD 0 then
      enc (wZero w 1 5 && srWritable sr.toNat) (if sr = 0x20 then .xsaveWrite c g (wRa w) else .mtsr c g (wRa w) sr)
    else enc (wZero w 1 5 && srListed sr.toNat) (.mfsr c g (wRd w) sr)
  | 0x28 =>
    match (w.extractLsb' 0 12).toNat with
    | 0 => some (.waite c g)
    | 1 => some (.rfe c g)
    | 2 => some (.wflush c g)
    | 3 => some (.trap c g arg)
    | 4 => some (.brk c g arg)
    | _ => none
  | _ => none

/-- Majors 0x29 to 0x2B (R203). -/
def decFp (c : CoreId) (w : W32) : Option Instr :=
  let g := wGuard w
  match wMajor w with
  | 0x29 =>
    match (w.extractLsb' 0 6).toNat with
    | 3 => some (.fdiv c g (w.getLsbD 6) (wRd w) (wRa w) (wRb w))
    | 4 => some (.fsqrt c g (w.getLsbD 6) (wRd w) (wRa w))
    | n => enc (n ≤ 9) (.fpArith c g (wFn w) (wRd w) (wRa w) (wRb w))
  | 0x2A =>
    match (w.extractLsb' 0 6).toNat with
    | 4 => some (.fmov c g { dbl := w.getLsbD 6, toG := false } (wRd w) (wRa w))
    | 5 => some (.fmov c g { dbl := w.getLsbD 6, toG := true } (wRd w) (wRa w))
    | 6 => some (.fcmp c g (w.getLsbD 6) (w.extractLsb' 19 3) (w.extractLsb' 17 2) (wRa w) (wRb w))
    | n => enc (n < 4) (.fcvt c g (wFn w) (wRd w) (wRa w))
  | 0x2B =>
    let sz : BitVec 2 := w.extractLsb' 10 2
    if w.getLsbD 9 then enc (sz != 3) (.fst c g (wRd w) (wRa w) sz (w.extractLsb' 0 9))
    else enc (sz != 3) (.fld c g (wRd w) (wRa w) sz (w.extractLsb' 0 9))
  | _ => none

/-- Majors 0x30 to 0x35 (R204), whose second word is `imm`. -/
def decWide (c : CoreId) (w imm : W32) : Option Instr :=
  let g := wGuard w
  let pd : BitVec 3 := w.extractLsb' 19 3
  let pn : BitVec 3 := w.extractLsb' 16 3
  match wMajor w with
  | 0x30 => enc (wZero w 0 17) (.li c g (wRd w) imm)
  | 0x31 => enc (wZero w 0 17) (.lih c g (wRd w) imm)
  | 0x32 => enc (wZero w 0 12) (.addw c g (wRd w) (wRa w) imm)
  | 0x33 => enc (wZero w 0 12) (.andw c g (wRd w) (wRa w) imm)
  | 0x34 => enc (wZero w 0 12) (.orw c g (wRd w) (wRa w) imm)
  | 0x35 =>
    enc (wZero w 6 5 && !w.getLsbD 1 && cmpLegal pd pn (w.extractLsb' 2 4))
      (.cmpw c g pd pn (w.extractLsb' 11 5) (w.extractLsb' 2 4) (w.getLsbD 0) imm)
  | _ => none

/-- Majors 0x38 to 0x3C (R206, R210): `dt` is the decode table of customer instructions. -/
def decPrism (dt : Nat → Word) (c : CoreId) (w : W32) : Option Instr :=
  let g := wGuard w
  let n : BitVec 4 := w.extractLsb' 8 4
  match wMajor w with
  | 0x38 =>
    match (w.extractLsb' 0 8).toNat with
    | 0 => enc (n.toNat < 12) (.pset c g n (wRa w))
    | 1 => enc (n.toNat < 12) (.pget c g (wRd w) n)
    | 2 => enc (n.toNat < 12) (.pstat c g (wRd w))
    | 3 => enc (n.toNat < 12) (.pwait c g)
    | 4 => enc (n.toNat < 12) (.pclr c g)
    | _ => none
  | 0x39 =>
    let l : BitVec 4 := w.extractLsb' 18 4
    enc (wZero w 0 14 && 3 ≤ l.toNat && l.toNat ≤ 12)
      (.pfft c g l (w.getLsbD 17) (w.getLsbD 16) (w.getLsbD 15) (w.getLsbD 14))
  | 0x3A => enc (wZero w 0 20) (.pfilt c g (w.getLsbD 21) (w.getLsbD 20))
  | 0x3B => enc (wZero w 0 21) (.pmat c g (w.getLsbD 21))
  | 0x3C =>
    enc (wZero w 0 2 && customLegal (dt (wRd w).toNat) (wRa w) (wRb w) (w.extractLsb' 2 5))
      (.customInstruction c g (wRd w) (wRa w) (wRb w) (w.extractLsb' 2 5))
  | _ => none

/-- The command that the words of an instruction spell for core `c`; `none` where no table assigns them (R179). -/
def instrOf (s : State) (c : CoreId) (w imm : W32) : Option Instr :=
  (decInt c w).orElse fun _ => (decAcc c w).orElse fun _ => (decMem c w).orElse fun _ => (decCtl c w).orElse fun _ =>
    (decFp c w).orElse fun _ => (decWide c w imm).orElse fun _ => decPrism (fun n => rd s (Reg.MC_DT c n)) c w

/-- Whether the tables assign an instruction word, whatever its second word holds. -/
def encodingAssigned (s : State) (c : Nat) (w : W32) : Bool := (instrOf s (Fin.ofNat 388 c) w 0).isSome

end Sys2Proof.Machine
end

