-- ==== Sys2Proof/Machine/QueueCmd.lean ====
section
/-! DEFINITION. Commands of the queue engine: ownership, ring and channel control, enqueue, dequeue, DMA (R377 to R393). -/

namespace Sys2Proof.Machine

/-- A write of QE_OWN (R377): with GO set it assigns the owner of a disabled ring; `none` is a refusal. -/
def qeOwnEffect (s : State) (v : Word) : Option State :=
  let r := fld v 0 13
  if !bit v 31 then some s
  else if (getRing s r).en then none
  else some (setRing s r { getRing s r with owner := fld v 16 6 })

/-- QE_OWN (R377). -/
def execQeOwn (i : Initiator) (v : W32) (s : State) : Out :=
  ok (regWriteOpt s i Reg.QE_OWN (isM0 s i) fun t => qeOwnEffect t (w32 v))

/-- A write of a ring register through page p + 1: a ring of another owner is not reached, except from page 1 (R377). -/
def ringRegWrite (s : State) (i : Initiator) (p : Nat) (r : RegAddr) (f : State → Nat → Option State) : State :=
  regWrite s i r true true fun t =>
    let n := rf t (Reg.QEP_RSEL p) 0 13
    if p ≠ 0 ∧ (getRing t n).owner ≠ p then failAccess t i r cNOT_OWNER
    else match f t n with
      | some u => u
      | none => refuse t i r

/-- A write of a DMA channel register through page p + 1 (R390). -/
def dmaRegWrite (s : State) (i : Initiator) (p : Nat) (r : RegAddr) (f : State → Nat → Option State) : State :=
  regWrite s i r true true fun t =>
    let c := rf t (Reg.QEP_DSEL p) 0 6
    if p ≠ 0 ∧ dmaOwner t c ≠ p then failAccess t i r cNOT_OWNER
    else match f t c with
      | some u => u
      | none => refuse t i r

/-- QE_RING_ENABLE (R378). -/
def execQeRingEnable (i : Initiator) (p : Part) (v : W32) (s : State) : Out :=
  ok (ringRegWrite s i p (Reg.QEP_RCFG p) fun t n => rcfgWrite t n (w32 v))

/-- QE_RING_DISABLE (R389). -/
def execQeRingDisable (i : Initiator) (p : Part) (v : W32) (s : State) : Out :=
  ok (ringRegWrite s i p (Reg.QEP_RCFG p) fun t n => rcfgWrite t n (w32 v))

/-- QE_ENQ (R379). -/
def execQeEnq (i : Initiator) (p : Part) (v : Word) (s : State) : Out :=
  ok (regWrite s i (Reg.QEP_ENQ p) true true fun t => enqStart t i p v)

/-- QE_ENQ_SOURCE_READ (R380). -/
def execQeEnqSourceRead (ring : Fin 8192) (r : EnqRead) (s : State) : Out := ok (enqRead s ring r.which r.err)

/-- QE_ENQ_COMPLETE (R380). -/
def execQeEnqComplete (ring : Fin 8192) (err : Bool) (s : State) : Out := ok (enqDone s ring err)

/-- QE_DEQ (R381). -/
def execQeDeq (i : Initiator) (p : Part) (v : Word) (s : State) : Out :=
  ok (regWrite s i (Reg.QEP_DEQ p) true true fun t => deqStart t i p v)

/-- QE_DEQ_COMPLETE (R381). -/
def execQeDeqComplete (ring : Fin 8192) (bufErr dstErr : Bool) (s : State) : Out := ok (deqDone s ring bufErr dstErr)

/-- QE_DMA_ENABLE (R390). -/
def execQeDmaEnable (i : Initiator) (p : Part) (v : W32) (s : State) : Out :=
  ok (dmaRegWrite s i p (Reg.QEP_DCTL p) fun t c => dctlWrite t c (w32 v))

/-- QE_DMA_DISABLE (R391). -/
def execQeDmaDisable (i : Initiator) (p : Part) (v : W32) (s : State) : Out :=
  ok (dmaRegWrite s i p (Reg.QEP_DCTL p) fun t c => dctlWrite t c (w32 v))

/-- DMA_COMMAND_FETCH (R391). -/
def execDmaCommandFetch (ch : Fin 64) (s : State) : Out := ok (dmaFetch s ch)

/-- DMA_COMMAND_START (R391). -/
def execDmaCommandStart (ch : Fin 64) (s : State) : Out := ok (dmaStart s ch)

/-- DMA_COMMAND_COMPLETE (R391). -/
def execDmaCommandComplete (ch : Fin 64) (tag : BitVec 16) (err : Bool) (s : State) : Out := ok (dmaDone s ch tag.toNat err)

/-- DMA_COMPLETION_POST (R392). -/
def execDmaCompletionPost (ch : Fin 64) (s : State) : Out := ok (dmaPost s ch)

/-- QE_DABORT (R393). -/
def execQeDabort (i : Initiator) (p : Part) (v : W32) (done : Nat) (s : State) : Out :=
  ok (regWrite s i (Reg.QEP_DABORT p) true true fun t => dmaAbort t i p (w32 v) done)

end Sys2Proof.Machine
end

