-- ==== Sys2Proof/Machine/RegRead.lean ====
section
/-! DEFINITION. What a read of a register shows and what it does: computed registers, windows, RC fields, semaphores, debug-view reads
(R10, R11, R39, R42, R484, R495). -/

namespace Sys2Proof.Machine

/-! ## Common registers (Tables 2.3 to 2.10) -/

/-- PAGE_ID (Table 2.4). -/
def pageId (r : RegAddr) : Word :=
  BitVec.ofNat 64 (typeCode r.ty * 2 ^ 24 + r.inst % 1024 * 2 ^ 14 + Config.version (typeCode r.ty) / 256 % 64 * 2 ^ 8 + r.page % 256)

/-- PAGE_CAP (Table 2.5). -/
def pageCapWord (r : RegAddr) : Word :=
  let n := condCount r.ty r.page
  BitVec.ofNat 64 ((n != 0).toNat + 2 * (capFrz r.ty r.page).toNat + 4 * (capSg r.ty r.page).toNat + 8 * (capMw r.ty r.page).toNat +
    2 ^ 8 * n)

/-- Holder of a page's semaphore as PAGE_STATUS shows it; a page that cannot be guarded shows none. -/
def sgHolder (s : State) (r : RegAddr) : Nat :=
  if capSg r.ty r.page then rf s (Reg.HPAS_HSEM (rf s (pageReg r.ty r.inst r.page 0x00C) 8 8)) 0 2 % 3 else 0

/-- PAGE_STATUS (Table 2.6). No chapter defines a STATE code; the PWR page shows BUSY while an emission change runs (R28). -/
def pageStatus (s : State) (r : RegAddr) : Word :=
  BitVec.ofNat 64 ((ready s r.ty r.inst).toNat + 2 * (r.ty == .pwr && s.pwr.emisFrom.isSome).toNat +
    4 * (frozen s r.ty r.inst r.page).toNat + 8 * (rb s (pageReg r.ty r.inst r.page 0x024) 31).toNat + 16 * sgHolder s r)

/-- A common register as a read shows it; the rest of the first 256 bytes reads 0 (R37). -/
def commonShown (s : State) (r : RegAddr) : Word :=
  if r.off = 0x000 then pageId r
  else if r.off = 0x004 then pageCapWord r
  else if r.off = 0x008 then pageStatus s r
  else if r.off = 0x00C ∨ r.off = 0x024 then rd s r
  else if r.off = 0x010 ∨ r.off = 0x014 then if condCount r.ty r.page = 0 then 0 else rd s r
  else if r.off = 0x020 then if capFrz r.ty r.page then rd s r else 0
  else 0

/-! ## Computed registers -/

/-- Time base registers that a read computes (Table 3.10). -/
def tbShown (s : State) (n off : Nat) : Option Word :=
  let t := getTb s n
  if off = 0x104 then some (tbStateWord s n)
  else if off = 0x140 then some t.phase
  else if off = 0x148 then some (ofI t.rate)
  else if off = 0x150 then some (BitVec.ofNat 64 t.unc)
  else none

/-- TBU registers that a read computes. -/
def tbuShown (s : State) (page off : Nat) : Option Word :=
  if page = 0 then if off = 0x100 then some (BitVec.ofNat 64 s.time) else none
  else if page ≤ 16 then tbShown s (page - 1) off
  else if page ≤ 32 then
    let m := 16 * (page - 17) + (off - 0x100) / 0x40
    if 0x100 ≤ off ∧ (off - 0x100) % 0x40 = 0x10 then some (cmpTarget s m) else none
  else none

/-- EVR partition page windows: the selected source or pool (Table 4.9). -/
def evrpShown (s : State) (p off : Nat) : Option Word :=
  let n := rf s (Reg.EVRP_SEL p) 0 10
  let x := getSrc s n
  let q := getPool s (rf s (Reg.EVRP_POOLSEL p) 0 6)
  if off = 0x104 then some x.cfg
  else if off = 0x108 then some (BitVec.ofNat 64 (x.waiting.isSome.toNat + 2 * (x.inService != 0).toNat + 4 * x.orphan.toNat))
  else if off = 0x10C then some (BitVec.ofNat 64 x.ovr)
  else if 0x120 ≤ off ∧ off < 0x154 ∧ off % 4 = 0 then some (BitVec.ofNat 64 ((q.mask >>> (8 * (off - 0x120))) % 2 ^ 32))
  else if off = 0x160 then some (BitVec.ofNat 64 (min 127 q.fifo.length + 2 ^ 8 * q.last))
  else if off = 0x164 then some (BitVec.ofNat 64 q.ovf)
  else none

/-- CORE_SCHED_STATE (Table 4.11). -/
def schedState (s : State) (c : Nat) : Word :=
  let k := getCore s c
  BitVec.ofNat 64 (k.cur + 2 ^ 8 * coreEml s c + 2 ^ 11 * k.df.toNat +
    2 ^ 16 * bitsToNat ((upto 8).map fun l => (k.bank l).st == .parked) + 2 ^ 24 * bitsToNat ((upto 8).map (inboxFull s c)))

/-- Lines of the cluster's prefetch buffer held ahead by a core (Table 5.10). -/
def xlines (s : State) (c : Nat) : Nat :=
  match s.prefetch.get? (c / 8) with
  | some p => min 8 (p.lines.filter fun e => e.2 == c).length
  | none => 0

/-- Registers of a CORE instance that a read computes. -/
def coreShown (s : State) (c page off : Nat) : Option Word :=
  let k := getCore s c
  if page = 0 then
    if off = 0x100 then
      match coreOwner s c with
      | some p => some (BitVec.ofNat 64 (p + 2 ^ 8))
      | none => some 0
    else if off = 0x120 then
      some (BitVec.ofNat 64 (k.tlbBusy.isSome.toNat + 2 * (k.itlb.filter fun e => e.lock.isSome).length +
        2 ^ 5 * (rb s (Reg.XL_TLBSTAT c) 5).toNat))
    else none
  else if page = 1 then
    if off = 0x104 then some (schedState s c)
    else if 0x140 ≤ off ∧ off < 0x160 ∧ off % 4 = 0 then some (BitVec.ofNat 64 (k.bank ((off - 0x140) / 4)).budget)
    else none
  else if page = 2 then
    if off = 0x104 then
      let st := if 384 ≤ c then k.timing else match coreOwner s c with
        | some p => partRunning s p && partStatic s p
        | none => false
      some (BitVec.ofNat 64 (st.toNat + 2 * xlines s c + 2 ^ 8 * (k.btbBusy.isSome || k.dirBusy.isSome).toNat + 2 ^ 9 * k.rekeyBusy.isSome.toNat))
    else none
  else if page = 5 then
    if off = 0x108 then
      let ways := (upto 8).map fun w => k.l1i.any fun e => e.1 % 8 == w && e.2.locked
      some (BitVec.ofNat 64 (k.cacheBusy.isSome.toNat + bitsToNat ways / 2 * 2 + 2 ^ 8 * rf s (Reg.CACHE_STATUS c) 8 3))
    else none
  else if page = 6 then
    if off = 0x104 then some (dbgStateWord s c) else if off = 0x120 then some (rdataGet s c) else none
  else none

/-- Queue engine windows: the selected ring or channel (Table 15.6). -/
def qepShown (s : State) (i : Initiator) (p off : Nat) : Option Word :=
  let r := getRing s (rf s (Reg.QEP_RSEL p) 0 13)
  let c := rf s (Reg.QEP_DSEL p) 0 6
  let d := getDma s c
  if off = 0x110 then some (s.qe.results.get 0 (initKey i))
  else if off = 0x118 then some (ringCfgShown s (rf s (Reg.QEP_RSEL p) 0 13))
  else if off = 0x120 then some r.base
  else if off = 0x128 then some r.db
  else if off = 0x12C then some r.flight
  else if off = 0x130 then some (BitVec.ofNat 64 (r.count + 2 ^ 17 * r.error.toNat + 2 ^ 18 * min 255 r.ops.length))
  else if off = 0x134 then some (BitVec.ofNat 64 (r.head % 2 ^ 16 + 2 ^ 16 * (r.tail % 2 ^ 16)))
  else if off = 0x138 then some (BitVec.ofNat 64 (ringsEnabled s p + 2 ^ 16 * heldEntries s p))
  else if off = 0x140 then some (BitVec.ofNat 64 (heldBytes s p))
  else if off = 0x14C then some d.ctl
  else if off = 0x150 then some d.flight
  else if off = 0x154 then some (BitVec.ofNat 64 ((0 < d.started : Bool).toNat + 2 * d.started))
  else none

/-- FAB registers that a read computes (Table 12.8). -/
def fabShown (s : State) (n off : Nat) : Option Word :=
  let st := statSel s n
  if off = 0x104 then some (fabStatus s n)
  else if off = 0x118 then some (routeRead s n).1
  else if off = 0x120 then some (routeRead s n).2
  else if off = 0x134 then some st.cfg
  else if off = 0x138 then some (BitVec.ofNat 64 (st.bytes % 2 ^ 48))
  else if off = 0x140 then some (BitVec.ofNat 64 (st.txn % 2 ^ 32))
  else if 0x180 ≤ off ∧ off < 0x1C0 ∧ off % 4 = 0 then some (BitVec.ofNat 64 (nth st.bins 0 ((off - 0x180) / 4) % 2 ^ 32))
  else if 0x200 ≤ off ∧ off < 0x300 ∧ n ≠ 12 then some 0
  else none

/-- DMC registers that a read computes (Table 14.4). -/
def dmcShown (s : State) (ch off : Nat) : Option Word :=
  if off = 0x104 then some (dmcStatus s ch)
  else if off = 0x10C then some (rd s (Reg.DMC_MAP 0))
  else if off = 0x120 then some (BitVec.ofNat 64 (dmcQstat s ch))
  else if off = 0x144 then some (BitVec.ofNat 64 (dmcSlotstat s ch))
  else if off = 0x1B4 then some (BitVec.ofNat 64 (dmcPinCnt s ch))
  else none

/-- Channels of the mirror comparator in FAULT (Table 13.7). -/
def mcpFaults (s : State) : Nat := ((upto 256).filter fun c => rf s (Reg.MCPCH_STATUS c) 0 2 == 2).length

/-- Whether the watchdog counts: armed, not expired, not frozen (R350). -/
def wdCounts (s : State) : Bool := rb s Reg.SMG_WD_CTL 0 && !rb s Reg.SMG_WD_STATUS 2 && !rb s Reg.SMG_WD_STATUS 6

/-- WD_LEFT as a read shows it (R351). The oscillator's ticks since the register was last known are counted by no command: while the watchdog
counts, what is left is a free value that is at most what was left then (log entry 25). -/
def wdLeftShown (s : State) : Word :=
  let left := rf s Reg.SMG_WD_LEFT 0 16
  BitVec.ofNat 64 (if wdCounts s then Config.freeNat s.freeCtr % (left + 1) else left)

/-- A register that a read computes from hidden state, where it is one. -/
def regComputed (s : State) (i : Initiator) (r : RegAddr) : Option Word :=
  match r.ty with
  | .tbu => tbuShown s r.page r.off
  | .gpe => if r.off = 0x11C then some (gpeStatus s r.inst) else none
  | .evr => if r.page = 0 then none else evrpShown s (r.page - 1) r.off
  | .core => coreShown s r.inst r.page r.off
  | .loops =>
    if r.off = 0x300 then some (loopsActive s r.inst)
    else match loopReg r.off with
      | some (l, n) => some (loopGet s r.inst l n)
      | none => none
  | .prism =>
    if r.off = 0x100 then
      match s.prism.get? r.inst with
      | some u => some (match u.busy with | some k => BitVec.ofNat 64 (k + 8) | none => 0)
      | none => some 0
    else none
  | .hom => if r.off = 0x108 then some (BitVec.ofNat 64 (homTrk s r.inst)) else if r.off = 0x110 then some (BitVec.ofNat 64 (homSf s r.inst)) else none
  | .fab => fabShown s r.inst r.off
  | .d2d => if r.off = 0x104 then some (setFld (rd s r) 4 2 (linkMode s r.inst)) else none
  | .dmc => if r.page = 0 then dmcShown s r.inst r.off else none
  | .qe => if r.page = 0 then if r.off = 0x104 then some (BitVec.ofNat 64 (dmaInflight s)) else none else qepShown s i (r.page - 1) r.off
  | .hpb => if r.page = 1 ∧ 0x100 ≤ r.off then some (rd s ⟨.hpa, 0, 1, r.off⟩) else none
  | .mvb => if r.page = 0 ∧ r.off = 0x104 then some (setFld (rd s r) 2 1 (rf s (Reg.MVB_CTL r.inst) 0 2 / 3)) else none
  | .eth => if r.page = 0 ∧ r.off = 0x150 then some (ofI (macT s r.inst)) else none
  | .mcp => if r.page = 0 ∧ r.off = 0x100 then some (BitVec.ofNat 64 (mcpFaults s)) else none
  | .pwr =>
    if r.off = 0x118 then some (domonWord s)
    else if 0x140 ≤ r.off ∧ r.off < 0x1D0 ∧ r.off % 4 = 0 then some (clkRead s ((r.off - 0x140) / 4))
    else none
  | .bse =>
    if r.page = 0 then if r.off = 0x104 then some (bseStatus s) else none
    else if r.off = 0x118 then some (measWord s (r.page - 1)) else none
  | .lns =>
    if r.page ≠ 0 ∧ 0x120 ≤ r.off ∧ r.off < 0x154 ∧ r.off % 4 = 0 then
      some (rd s r &&& rd s (Reg.PART_CORES (r.page - 1) ((r.off - 0x120) / 4)))
    else none
  | .smg => if r.off = 0x148 then some (wdLeftShown s) else none
  | .dbg => if r.page ≠ 0 ∧ r.off = 0x110 then some (grantWord s (r.page - 1)) else none
  | .spa =>
    if r.page ≠ 0 then none
    else if r.off = Config.spaCfgaddr % 4096 then some (getSpa s r.inst).cfgAddr
    else if r.off = Config.spaMwbase % 4096 then some (getSpa s r.inst).mwBase
    else none
  | _ => none

/-- What a register shows: computed, or held with its write-only bits reading 0 (R10); a place that the map does not list reads 0
(R12). -/
def regShown (s : State) (i : Initiator) (r : RegAddr) : Word :=
  if r.off < 0x100 then commonShown s r
  else if r.ty != .spa && (findRow r.ty r.page r.off).isNone then 0
  else match regComputed s i r with
    | some v => v
    | none =>
      match findRow r.ty r.page r.off with
      | some row => rd s r &&& ~~~(BitVec.ofNat 64 row.wo)
      | none => 0

/-! ## Widths (R35) -/

/-- The width of the register that covers an offset, if one does: the register at it, or a 64-bit one four bytes below. -/
def regWidth (r : RegAddr) : Option Nat :=
  if r.off < 0x100 then some 32
  else match findRow r.ty r.page r.off with
    | some row => some row.width
    | none =>
      if r.off % 8 != 4 then none
      else match findRow r.ty r.page (r.off - 4) with
        | some row => if row.width = 64 then some 64 else none
        | none => none

/-- R35 for a register page: the access is aligned and has the width of the register. A place that no register covers takes either
width, 64 bits where none covers its upper half (R12). -/
def widthOk (r : RegAddr) (width : Nat) : Bool :=
  r.off % (width / 8) == 0 && (width == 32 || width == 64) &&
    match regWidth r with
    | some w => width == w
    | none => width == 32 || (regWidth { r with off := r.off + 4 }).isNone

/-! ## Reads -/

/-- The cause for which a block refuses a read, if any: a window on another partition's source, pool, ring or channel, counters and
loop registers at too low a privilege (R99, R172, R377, R481, R495). -/
def readCause (s : State) (i : Initiator) (r : RegAddr) : Option Nat :=
  if r.off < 0x100 ∧ r.ty ≠ .loops then none
  else match r.ty with
  | .evr =>
    let p := r.page - 1
    if r.page = 0 then none
    else if 0x104 ≤ r.off ∧ r.off ≤ 0x10C then
      if pageReachesSrc s p (rf s (Reg.EVRP_SEL p) 0 10) then none else some cNOT_OWNER
    else if 0x120 ≤ r.off then
      if p = 0 ∨ poolOwner s (rf s (Reg.EVRP_POOLSEL p) 0 6) = p then none else some cNOT_OWNER
    else none
  | .qe =>
    let p := r.page - 1
    if r.page = 0 ∨ p = 0 then none
    else if 0x118 ≤ r.off ∧ r.off ≤ 0x134 then
      if (getRing s (rf s (Reg.QEP_RSEL p) 0 13)).owner = p then none else some cNOT_OWNER
    else if 0x14C ≤ r.off ∧ r.off ≤ 0x154 then
      if dmaOwner s (rf s (Reg.QEP_DSEL p) 0 6) = p then none else some cNOT_OWNER
    else none
  | .loops => if isHM s i then none else some cPRIVILEGE
  | .cnt =>
    if isHM s i then none
    else if initPriv s i = 1 ∧ rb s (Reg.CNT_CTL r.inst) 1 then none
    else some cPRIVILEGE
  | .core => if r.page = 6 ∧ r.off = 0x120 ∧ !rdataOk s r.inst then some cREFUSED else none
  | .dmc => if mapDark s r then some eABSENT else none
  | _ => none

/-- A refused read: on a LOOPS or CNT page it is recorded and returns 0 (R172, R495); DMC_MAP is out of reach with its domain (R355);
elsewhere it gets an error response (R99, R481). -/
def refuseRead (s : State) (i : Initiator) (r : RegAddr) (cause : Nat) : State :=
  if r.ty = .loops ∨ r.ty = .cnt then respOk (recordPageErr s i r cause) 0
  else if r.ty = .dmc then unitAbsent s i r
  else failAccess s i r cause

/-- What an ordinary read does beside answering: RC fields clear, IN_FULL clears, the trace pointer advances (R10, R481, R490). -/
def readEffect (s : State) (r : RegAddr) : State :=
  match r.ty with
  | .evr =>
    if r.page ≠ 0 ∧ r.off = 0x10C then
      let n := rf s (Reg.EVRP_SEL (r.page - 1)) 0 10
      setSrc s n { getSrc s n with ovr := 0 }
    else if r.page ≠ 0 ∧ r.off = 0x164 then
      let q := rf s (Reg.EVRP_POOLSEL (r.page - 1)) 0 6
      setPool s q { getPool s q with ovf := 0 }
    else match findRow r.ty r.page r.off with
      | some row => if row.rc then wr s r 0 else s
      | none => s
  | .core =>
    if r.page = 6 ∧ r.off = 0x108 then mbxinRead s r.inst
    else match findRow r.ty r.page r.off with
      | some row => if row.rc then wr s r 0 else s
      | none => s
  | .smg => if r.off = 0x148 then bumpFree (wr s r (wdLeftShown s)) else s
  | .dmc => if r.page = 0 ∧ r.off = 0x1B4 then dmcPinClear s r.inst else
    match findRow r.ty r.page r.off with
    | some row => if row.rc then wr s r 0 else s
    | none => s
  | .lns => if r.page ≠ 0 ∧ r.off = 0x208 then (lensRead s (r.page - 1)).1 else
    match findRow r.ty r.page r.off with
    | some row => if row.rc then wr s r 0 else s
    | none => s
  | _ =>
    match findRow r.ty r.page r.off with
    | some row => if row.rc then wr s r 0 else s
    | none => s

/-- Whether a read is a debug-view read: its source endpoint is the DBG network interface (R484). -/
def isDebugView (i : Initiator) : Bool := initEp i == 414

/-- Whether a location is a semaphore. -/
def isHsem (r : RegAddr) : Bool := (r.ty == .hpa || r.ty == .hpb) && r.page == 1 && 0x100 ≤ r.off && r.off < 0x500

/-- A read of a semaphore through the register page (R403). -/
def semReadReg (s : State) (i : Initiator) (r : RegAddr) : State :=
  if isDebugView i then respOk s (rd s (Reg.HPAS_HSEM ((r.off - 0x100) / 4)) &&& 3)
  else semRead s i r ((r.off - 0x100) / 4) false

/-- The value and the state after a read of LNS_P_RDDATA: what lies at the pointer. -/
def shownOrLens (s : State) (i : Initiator) (r : RegAddr) : Word :=
  if r.ty = .lns ∧ r.page ≠ 0 ∧ r.off = 0x208 then (lensRead s (r.page - 1)).2 else regShown s i r

/-- Whether a register is part of a die's identity, which any partition reads (R325). -/
def identity (r : RegAddr) : Bool := r.ty == .die && r.page == 0 && 0x100 ≤ r.off && r.off ≤ 0x118

/-- Whether a register is RESULT of a partition page of the queue engine. -/
def isResult (r : RegAddr) : Bool := r.ty == .qe && r.page != 0 && r.off == 0x110

/-- A read of a register page (R10, R35, R42). A read of RESULT by an initiator whose operation on the page is in flight is not answered
yet: its device accesses keep program order, and it sends the read again (R382). Any partition reads PAGE_ID, PAGE_CAP and PAGE_STATUS. -/
def readReg (s : State) (i : Initiator) (r : RegAddr) (width : Nat) : State :=
  if cutOff s i r.ty r.inst then absentAccess s i r
  else if !widthOk r width then failAccess s i r cSIZE
  else if isHsem r then semReadReg s i r
  else if isResult r && !isDebugView i && resultWaits s i (r.page - 1) then { s with resp := .none }
  else if 0x00C ≤ r.off && !identity r && !reaches s i r then failAccess s i r cNOT_OWNER
  else match readCause s i r with
    | some c => refuseRead s i r c
    | none =>
      if r.ty = .spa ∧ r.page = 0 ∧ r.off = Config.spaCfgdata % 4096 ∧ 0x100 ≤ r.off then
        let x := getSpa s r.inst
        if !x.up then failAccess s i r eABSENT
        else
          let (v, s) := takeFree s
          respOk { s with sent := .cfg r.inst false x.cfgAddr 0 } (BitVec.ofNat 64 (v % 2 ^ 32))
      else
        let v := shownOrLens s i r
        respOk (if isDebugView i then s else readEffect s r) v

/-- READ_CLEAR (R10). -/
def execReadClear (i : Initiator) (r : RegAddr) (width : Nat) (s : State) : Out := ok (readReg s i r width)

end Sys2Proof.Machine
end

