-- ==== Sys2Proof/Machine/RegWrite.lean ====
section
/-! DEFINITION. A write of any register of any page, by its access code, its page's rules and its block's rules (R10, R37 to R45). -/

namespace Sys2Proof.Machine

/-- The outcome of a block's rule for a write: taken, taken with a value held at a limit, or refused with a cause. -/
inductive WRes where
  | done (s : State)
  | clamp (s : State)
  | fail (cause : Nat)

/-- A write that a state rule may refuse. -/
def wOpt : Option State → WRes
  | some s => .done s
  | none => .fail cREFUSED

/-- A write of which a value may be held at a limit. -/
def wClamp (x : State × Bool) : WRes := if x.2 then .clamp x.1 else .done x.1

/-- A write refused where `ok` fails. -/
def wIf (ok : Bool) (s : State) : WRes := if ok then .done s else .fail cREFUSED

/-- A register written by the access codes of its fields alone (R10): RW bits take the value, W1C bits clear on ones, every other bit
stays. -/
def plainWrite (s : State) (r : RegAddr) (v : Word) : State :=
  match findRow r.ty r.page r.off with
  | none => s
  | some row =>
    let rw := BitVec.ofNat 64 row.rw
    let w1c := BitVec.ofNat 64 row.w1c
    let old := rd s r
    wr s r ((old &&& ~~~(rw ||| w1c)) ||| (v &&& rw) ||| (old &&& w1c &&& ~~~v))

/-- A configuration register that its block takes only while `busy` is false. -/
def wIdle (s : State) (r : RegAddr) (v : Word) (busy : Bool) : WRes := wIf (!busy) (plainWrite s r v)

/-! ## Predictor operations (R152) -/

/-- BTB_INV starts; while it runs a write is ignored. -/
def btbInvStart (s : State) (c : Nat) : State :=
  let k := getCore s c
  setCore s c { k with btbBusy := some (k.btbBusy.getD s.time) }

/-- DIR_INV starts; while it runs a write is ignored. -/
def dirInvStart (s : State) (c : Nat) : State :=
  let k := getCore s c
  setCore s c { k with dirBusy := some (k.dirBusy.getD s.time) }

/-- The partition whose secret a core's REKEY replaces. -/
def rekeyPart (s : State) (c : Nat) : Nat := (coreOwner s c).getD 0

/-- REKEY: the owning partition has a new secret; its contexts miss until the operation ends. -/
def rekeyStart (s : State) (c : Nat) : State :=
  let k := getCore s c
  match k.rekeyBusy with
  | some _ => s
  | none =>
    let p := rekeyPart s c
    let s := setCore s c { k with psecret := listSet k.psecret p (24832 + s.freeCtr), rekeyBusy := some (p, s.time) }
    { s with freeCtr := s.freeCtr + 1 }

/-- A write of CORE_FE_CTL. -/
def feCtlEffect (s : State) (c : Nat) (v : Word) : State × Bool :=
  let depth := fld v 1 4
  let s := wr s (Reg.FE_CTL c) (BitVec.ofNat 64 (fld v 0 1 + 2 * min 8 depth))
  let s := if bit v 8 then btbInvStart s c else s
  let s := if bit v 9 then dirInvStart s c else s
  (if bit v 10 then rekeyStart s c else s, 8 < depth)

/-- BTB_INV (R152): XPF_EN and XPF_DEPTH are written back as they stand. -/
def execBtbInv (i : Initiator) (c : CoreId) (s : State) : Out :=
  ok (regWrite s i (Reg.FE_CTL c) true (isHM s i) fun t => btbInvStart t c)

/-- DIR_INV (R152). -/
def execDirInv (i : Initiator) (c : CoreId) (s : State) : Out :=
  ok (regWrite s i (Reg.FE_CTL c) true (isHM s i) fun t => dirInvStart t c)

/-- REKEY (R152). -/
def execRekey (i : Initiator) (c : CoreId) (s : State) : Out :=
  ok (regWrite s i (Reg.FE_CTL c) true (isHM s i) fun t => rekeyStart t c)

/-- A core's clock in MHz (R16, R437). -/
def coreMhz (s : State) (c : Nat) : Nat :=
  if 384 ≤ c then 1600 else nth [1000, 1400, 1600, 2000, 2400] 2400 (rf s (Reg.PWR_CLK (coreDomain c)) 0 3)

/-- When a predictor operation started at `t` that takes `n` core cycles ends, in thousandths of a core cycle (log entry 102). -/
def opEnd (s : State) (c n : Nat) (t : Option Nat) : Option Nat := t.map fun t => t * coreMhz s c + 1000 * n

/-- Whether an operation runs and ends no later than another. -/
def endsFirst (x y : Option Nat) : Bool := x.any fun a => y.all fun b => a ≤ b

/-- Every BTB entry is invalid. -/
def btbInvDone (k : CoreSt) : CoreSt := { k with btb := [], btbBusy := none }

/-- Every direction counter is 0b01. -/
def dirInvDone (k : CoreSt) : CoreSt := { k with dir := [], dirBusy := none }

/-- The BTB entries of the rekeyed partition's contexts are invalid; a context holds its partition in [13:8]. -/
def rekeyDone (k : CoreSt) : CoreSt :=
  match k.rekeyBusy with
  | some (p, _) => { k with btb := k.btb.filter fun e => e.2.ctx / 256 != p, rekeyBusy := none }
  | none => k

/-- PREDICTOR_OP_DONE (R152): of the operations that run, the one that is over first ends. -/
def execPredictorOpDone (c : CoreId) (s : State) : Out :=
  let k := getCore s c
  let b := opEnd s c 512 k.btbBusy
  let d := opEnd s c 1024 k.dirBusy
  let r := opEnd s c 512 (k.rekeyBusy.map (·.2))
  ok (setCore s c (if endsFirst b d && endsFirst b r then btbInvDone k else if endsFirst d r then dirInvDone k else rekeyDone k))

/-! ## Privilege of a write -/

/-- The lowest privilege that writes a register of a core's exception page (Table 8.6): read-only registers name none. -/
def excPriv (off : Nat) : Nat :=
  if off = 0x100 then 1
  else if off = 0x108 then 2
  else if off = 0x110 ∨ off = 0x118 ∨ off = 0x120 ∨ (0x140 ≤ off ∧ off < 0x180) ∨ off = 0x188 ∨ off = 0x198 then 3
  else 0

/-- The other privilege rules of the pages (R126, R152, R172, R234, R251, R274, R277, R341, R483, R495). -/
def writePriv (s : State) (i : Initiator) (r : RegAddr) (v : Word) : Bool :=
  let p := initPriv s i
  match r.ty with
  | .smg => r.off != 0x108 || isHubM0 s i
  | .dbg => r.page == 0 || r.off != 0x11C || mayServe s i (r.page - 1)
  | .loops | .cnt => isHM s i
  | .core =>
    match r.page with
    | 0 =>
      if r.off = 0x108 then 2 ≤ p
      else if 0x140 ≤ r.off ∧ r.off < 0x180 then 1 ≤ p
      else r.off != 0x118 || tlbiPriv v ≤ p
    | 3 => excPriv r.off ≤ p
    | 5 => r.off != 0x100 || cachePriv v ≤ p
    | 6 => p == 3
    | _ => 2 ≤ p
  | _ => true

/-! ## What each block does with a write -/

/-- Time base registers (R63, R64, R80, R81, R93). -/
def tbWrite (s : State) (r : RegAddr) (n : Nat) (v : Word) : WRes :=
  match r.off with
  | 0x100 => wOpt (tbCtlWrite s n v)
  | 0x108 | 0x110 => wIdle s r v (rb s (Reg.TB_CTL n) 0)
  | 0x138 => .done (assertMoved s (plainWrite s r v) .tbu 0 r.page)
  | 0x160 => .done (tbPhaseWrite s n (.set v))
  | 0x168 => .done (tbPhaseWrite s n (.step v))
  | 0x170 => .done (if bit v 0 then captureEffect s n else s)
  | _ => .done (plainWrite s r v)

/-- Compare registers (R75 to R78): target and increment only while ARM is 0, TARGET only while MIRROR is 0. -/
def cmpWrite (s : State) (i : Initiator) (r : RegAddr) (m off : Nat) (v : Word) : WRes :=
  let armed := rb s (Reg.CMP_CTL m) 0
  match off with
  | 0x00 => .done (cmpCtlAccess s i m v)
  | 0x08 => wIdle s r v armed
  | 0x10 => wIdle s r v (armed || rb s (Reg.CMP_CTL m) 3)
  | 0x18 | 0x20 => wIf (!armed) (wr s r v)
  | _ => .done (plainWrite s r v)

/-- TBU pages. -/
def tbuWrite (s : State) (i : Initiator) (r : RegAddr) (v : Word) : WRes :=
  if r.page = 0 then
    match r.off with
    | 0x108 => .done (assertMoved s (plainWrite s r v) .tbu 0 0)
    | 0x110 => wOpt (axleCtlWrite s v)
    | _ => .done (plainWrite s r v)
  else if r.page ≤ 16 then tbWrite s r (r.page - 1) v
  else if r.page ≤ 32 then cmpWrite s i r (16 * (r.page - 17) + (r.off - 0x100) / 0x40) ((r.off - 0x100) % 0x40) v
  else if (r.off - 0x100) % 0x10 = 0 then .done (encCtlEffect s i ((r.off - 0x100) / 0x10) v)
  else .done (plainWrite s r v)

/-- GPE_DT: dead times of 5 to 10,000 ns, minimum pulses up to 10,000 ns, held at the limits (Table 3.15). -/
def gpeDtRule (v : Word) : Word × Bool :=
  let dt := min 10000 (max 5 (fld v 0 14))
  let mp := min 10000 (fld v 16 14)
  (BitVec.ofNat 64 (dt + 2 ^ 16 * mp), dt != fld v 0 14 || mp != fld v 16 14)

/-- GPE pages. -/
def gpeWrite (s : State) (r : RegAddr) (v : Word) : WRes :=
  match r.off with
  | 0x108 => wIf (!rb s (Reg.GPE_CTL r.inst) 0 || mayBind s (rf s (pageReg .gpe r.inst 0 0x00C) 0 6) (fld v 0 13)) (plainWrite s r v)
  | 0x100 => wOpt (gpeCtlWrite s r.inst v)
  | 0x10C => .done (gpeStartEffect s r.inst v)
  | 0x110 | 0x114 => wClamp (wr s r (gpeDtRule v).1, (gpeDtRule v).2)
  | 0x118 => .done (gpeForceWrite s r.inst v)
  | _ => .done (plainWrite s r v)

/-- SDM pages. -/
def sdmWrite (s : State) (r : RegAddr) (v : Word) : WRes :=
  if r.page = 0 then wOpt (sdmClkWrite s ((r.off - 0x100) / 4) v)
  else if r.page ≤ 32 then if r.off = 0x100 then wOpt (sdmCtlWrite s (r.page - 1) v) else .done (plainWrite s r v)
  else if r.page ≤ 36 then if r.off = 0x100 then wOpt (sdpCtlWrite s (r.page - 33) v) else .done (plainWrite s r v)
  else if r.off = 0x100 then wOpt (snapMaskWrite s (r.page - 37) v)
  else if r.off = 0x104 then
    wIf (rf s (Reg.SNAP_MASK (r.page - 37)) 0 32 == 0 || mayBind s (rf s (pageReg .sdm 0 r.page 0x00C) 0 6) (fld v 0 13)) (plainWrite s r v)
  else .done (plainWrite s r v)

/-- EVR pages (R98 to R107). -/
def evrWrite (s : State) (i : Initiator) (r : RegAddr) (v : Word) : WRes :=
  let p := r.page - 1
  if r.page = 0 then
    if 0x400 ≤ r.off then .done (evrOwnEffect s i ((r.off - 0x400) / 4) v) else .done (plainWrite s r v)
  else match r.off with
    | 0x104 => .done (evrCfgEffect s i r p (rf s (Reg.EVRP_SEL p) 0 10) v)
    | 0x108 =>
      let n := rf s (Reg.EVRP_SEL p) 0 10
      if !pageReachesSrc s p n then .fail cNOT_OWNER
      else .done (if bit v 2 then setSrc s n { getSrc s n with orphan := false } else s)
    | 0x110 => .done (setcfgEffect s i p v)
    | 0x118 => .done (evrRaiseEffect s i p v)
    | 0x11C => if p ≠ 0 ∧ poolOwner s (fld v 0 6) ≠ p then .fail cNOT_OWNER else .done (plainWrite s r v)
    | _ =>
      if 0x120 ≤ r.off ∧ r.off < 0x154 then .done (poolMaskEffect s i p ((r.off - 0x120) / 4) v) else .done (plainWrite s r v)

/-- CORE pages. -/
def coreWrite (s : State) (i : Initiator) (r : RegAddr) (v : Word) : WRes :=
  let c := r.inst
  match r.page with
  | 0 =>
    if r.off = 0x108 then .done (ptbEffect s i c v)
    else if r.off = 0x118 then wOpt (tlbiEffect s c v)
    else if 0x140 ≤ r.off ∧ r.off < 0x180 then .done (gtbEffect s i c ((r.off - 0x140) / 8) v)
    else .done (plainWrite s r v)
  | 1 =>
    if r.off = 0x100 then wOpt (lvlenWrite s c v)
    else if r.off = 0x120 then .done s
    else if 0x160 ≤ r.off ∧ r.off < 0x1A0 then wOpt (entryWrite s i c ((r.off - 0x160) / 8) v)
    else .done (plainWrite s r v)
  | 2 => if r.off = 0x100 then wClamp (feCtlEffect s c v) else .done (plainWrite s r v)
  | 3 =>
    if r.off = 0x188 ∨ r.off = 0x198 then wIf (getCore s c).df (plainWrite s r v)
    else if r.off = 0x1B8 then wOpt (releaseWrite s c v)
    else .done (plainWrite s r v)
  | 5 => if r.off = 0x100 then wOpt (cacheOpEffect s c v) else .done (plainWrite s r v)
  | 6 =>
    if r.off = 0x110 then wOpt (mbxoutEffect s c v)
    else if r.off = 0x120 then wOpt (rdataPut s c v)
    else .done (plainWrite s r v)
  | _ => .done (plainWrite s r v)

/-- Bits 27 and 28 of CNT_CFG (CHAIN, OVF_EVT) belong to odd counters only (Table 20.13). -/
def cntWrite (s : State) (r : RegAddr) (v : Word) : WRes :=
  if 0x150 ≤ r.off ∧ r.off < 0x170 ∧ (r.off - 0x150) / 4 % 2 = 0 then .done (plainWrite s r (setFld v 27 2 0))
  else .done (plainWrite s r v)

/-- DIE pages: partition descriptors and pads (R253 to R258, Table 21.6). -/
def dieWrite (s : State) (i : Initiator) (r : RegAddr) (v : Word) : WRes :=
  let p := r.page - 1
  if r.page = 0 ∨ 64 < r.page then .done (plainWrite s r v)
  else if r.off = 0x100 then wOpt (partCmd s p v)
  else if r.off = 0x108 then wOpt (partModesEffect s p v)
  else if r.off = 0x10C then wOpt (l3waysEffect s p v)
  else if r.off < 0x180 then wOpt (partCoresEffect s i p ((r.off - 0x120) / 4) v)
  else wIdle s r v (partRunning s p)

/-- FAB pages. -/
def fabWrite (s : State) (r : RegAddr) (v : Word) : WRes :=
  if r.off = 0x108 then wOpt (rcfgEffect s r.inst v)
  else if r.off = 0x118 then wOpt (routeCommitEffect s r.inst v)
  else if r.off = 0x120 then .done (if niCount r.inst ≤ rf s (Reg.FAB_RT_SEL r.inst) 0 6 then s else plainWrite s r v)
  else if r.off = 0x134 then .done (statsCfgEffect s r.inst v)
  else if 0x200 ≤ r.off ∧ r.off < 0x300 then wOpt (fsrcEffect s r.inst ((r.off - 0x200) / 4) v)
  else .done (plainWrite s r v)

/-- Safety manager registers that are no mirror slots (R342, R347). -/
def smgWrite (s : State) (r : RegAddr) (v : Word) : WRes :=
  let armed := rb s Reg.SMG_WD_CTL 0
  match r.off with
  | 0x110 => wIf (smgState s == 0) (plainWrite s r v)
  | 0x128 => wIf (!armed && fld v 16 16 < max 1 (fld v 0 16)) (plainWrite s r v)
  | 0x12C => wIdle s r v armed
  | _ => .done (plainWrite s r v)

/-- Mirror comparator (R333 to R335). -/
def mcpWrite (s : State) (r : RegAddr) (v : Word) : WRes :=
  if r.page = 0 then
    if 0x400 ≤ r.off then wOpt (pairEffect s ((r.off - 0x400) / 4) v) else .done (plainWrite s r v)
  else
    let c := 64 * (r.page - 1) + (r.off - 0x100) / 0x30
    match (r.off - 0x100) % 0x30 with
    | 0x00 => wOpt (mcpCtlWrite s c v)
    | 0x14 | 0x24 => .done (plainWrite s r v)
    | _ => wIdle s r v (rb s (Reg.MCPCH_CTL c) 0)

/-- DRAM channels. -/
def dmcWrite (s : State) (i : Initiator) (r : RegAddr) (v : Word) : WRes :=
  let ch := r.inst
  if r.page = 0 ∧ r.off = 0x100 then wOpt (dmcCommand s ch (fld v 0 3))
  else if r.page = 0 ∧ r.off = 0x10C then (if mapDark s r then .done (unitAbsent s i r) else if ch = 0 then wOpt (dmcMapEffect s ch v) else .done s)
  else if r.page = 0 ∧ r.off = 0x140 then wOpt (slotctlEffect s ch v)
  else if r.page = 0 ∧ r.off = 0x12C then
    .done (setDmc (plainWrite s r v) ch { getDmc s ch with panics := (getDmc s ch).panics.filter fun n => bit v n })
  else if r.page = 1 ∧ r.off = 0x2C4 then wOpt (dmcSweepEffect s ch v)
  else match dmcFieldRule s ch r.page r.off v with
    | none => .fail cREFUSED
    | some (w, cl) => wClamp (plainWrite s r w, cl)

/-- Queue engine pages (R377 to R393). -/
def qeWrite (s : State) (i : Initiator) (r : RegAddr) (v : Word) : WRes :=
  let p := r.page - 1
  let ring := fun (f : State → Nat → Option State) => WRes.done (ringRegWrite s i p r f)
  let idle := fun (f : Ring → Ring) => ring fun t n => if (getRing t n).en then none else some (setRing t n (f (getRing t n)))
  if r.page = 0 then
    if r.off = 0x100 then wOpt (qeOwnEffect s v)
    else if 0x800 ≤ r.off then wIdle s r v (bit (getDma s ((r.off - 0x800) / 4)).ctl 0)
    else .done (plainWrite s r v)
  else match r.off with
    | 0x100 => .done (enqStart s i p v)
    | 0x108 => .done (deqStart s i p v)
    | 0x118 => ring fun t n => rcfgWrite t n v
    | 0x120 => idle fun x => { x with base := BitVec.ofNat 64 (4096 * fld v 12 36) }
    | 0x128 => idle fun x => { x with db := BitVec.ofNat 64 (fld v 0 10 + 2 ^ 16 * fld v 16 16) }
    | 0x12C => idle fun x => { x with flight := BitVec.ofNat 64 (fld v 0 8) }
    | 0x148 => if p ≠ 0 ∧ dmaOwner s (fld v 0 6) ≠ p then .fail cNOT_OWNER else .done (plainWrite s r v)
    | 0x14C => .done (dmaRegWrite s i p r fun t c => dctlWrite t c v)
    | 0x150 => .done (dmaRegWrite s i p r fun t c =>
        let d := getDma t c
        if bit d.ctl 0 then none else some (setDma t c { d with flight := BitVec.ofNat 64 (fld v 0 13) }))
    | 0x158 =>
      let (n, s) := takeFree s
      .done (dmaAbort s i p v n)
    | _ => .done (plainWrite s r v)

/-- Host port pages (R399 to R403). -/
def hpWrite (s : State) (p : Port) (r : RegAddr) (v : Word) : WRes :=
  if r.page ≠ 0 then .done (plainWrite s ⟨.hpa, 0, r.page, r.off⟩ v)
  else if 0x140 ≤ r.off ∧ r.off < 0x400 then wOpt (hpMapEffect s p r v)
  else if 0x800 ≤ r.off then wOpt (vmapEffect s p ((r.off - 0x800) / 4) v)
  else .done (plainWrite s r v)

/-- Ethernet pages (R385, R409, R410, R412). -/
def ethWrite (s : State) (r : RegAddr) (v : Word) : WRes :=
  let m := r.inst
  if r.page = 3 then wOpt (frerEffect s r.off v)
  else match r.off with
    | 0x100 => wOpt (ethCtlEffect s m v)
    | 0x160 => .done (ptpStepEffect s m v)
    | 0x17C => wOpt (gclEffect s m v)
    | _ =>
      if 0x110 ≤ r.off ∧ r.off < 0x130 then wIf (!bit v 31 || ethRingRule s m v) (plainWrite s r v)
      else if 0x130 ≤ r.off ∧ r.off < 0x148 then wIf (ethRingRule s m v) (plainWrite s r v)
      else .done (plainWrite s r v)

/-- Serial interfaces (R29, R415). -/
def serWrite (s : State) (r : RegAddr) (v : Word) : WRes :=
  let quiet := rf s Reg.PWR_EMISSION 0 2 == 2
  match r.off with
  | 0x100 => match serCtlRule s r.inst v with
    | some w => .done (wr s r w)
    | none => .fail cREFUSED
  | 0x104 => match serRateRule quiet r.inst v with
    | some (w, cl) => wClamp (wr s r w, cl)
    | none => .fail cREFUSED
  | _ => .done (plainWrite s r v)

/-- GPIO pins (R416). -/
def gpioWrite (s : State) (r : RegAddr) (v : Word) : WRes :=
  if 0x100 ≤ r.off ∧ r.off < 0x140 then
    let (w, cl) := gpioRule s (16 * r.page + (r.off - 0x100) / 4) v
    wClamp (wr s r w, cl)
  else .done (plainWrite s r v)

/-- Periscope pages (R432). -/
def pslWrite (s : State) (r : RegAddr) (v : Word) : WRes :=
  if r.page = 0 then
    if r.off = 0x100 then wClamp (pslCtlNow s v)
    else if 0x180 ≤ r.off then wIf (pslEntryRule s r v) (plainWrite s r v)
    else .done (plainWrite s r v)
  else if r.off = 0x100 then .done (pslPortCtl s (r.page == 2) v)
  else .done (plainWrite s r v)

/-- Power manager (R26 to R31, R436, R450). -/
def pwrWrite (s : State) (r : RegAddr) (v : Word) : WRes :=
  match r.off with
  | 0x100 => wOpt (envelopeEffect s v)
  | 0x104 => wOpt (emissionEffect s v)
  | 0x108 => wOpt (pwrCtlEffect s v)
  | 0x110 => wOpt (domCmdEffect s v)
  | 0x120 => .done (clkSettle (plainWrite s r v))
  | _ => if 0x140 ≤ r.off ∧ r.off < 0x1D0 then wClamp (clkEffect s ((r.off - 0x140) / 4) v) else .done (plainWrite s r v)

/-- A PSRC register: a SOURCE outside the software sources, or of another partition, is refused (R514). -/
def psrcWrite (s : State) (r : RegAddr) (v : Word) : WRes :=
  let p := r.page - 1
  let n := fld v 0 10
  if n < 768 ∨ (p ≠ 0 ∧ srcOwner s n ≠ p) then .fail cREFUSED
  else .done (assertMoved s (plainWrite s r v) r.ty r.inst r.page)

/-- Boot and security engine (R455 to R469). -/
def bseWriteReg (s : State) (i : Initiator) (r : RegAddr) (v : Word) : WRes :=
  if r.page = 0 then
    if r.off = 0x100 then wOpt (bseCmdEffect s v)
    else if r.off = 0x1A0 then wOpt (rcvEffect s i v)
    else .done (plainWrite s r v)
  else if r.off = 0x100 then wOpt (bsePartEffect s (r.page - 1) v)
  else if r.off = 0x120 then psrcWrite s r v
  else .done (plainWrite s r v)

/-- Debug pages but for VADDR, whose read of another page comes after (R476, R483, R496). -/
def dbgWrite (s : State) (r : RegAddr) (v : Word) : WRes :=
  let p := r.page - 1
  if r.page = 0 then
    match r.off with
    | 0x100 => .done (bscanJudge (plainWrite s r v))
    | 0x110 => .done (gfreezeEffect s v)
    | 0x118 => .done (snaptimeEffect s v)
    | 0x124 => .done (dbgRevokeEffect s v)
    | _ => .done (plainWrite s r v)
  else match r.off with
    | 0x118 => .done (wdPeriodEffect s p v)
    | 0x11C => .done (wdsvcEffect s p)
    | 0x124 => wIf (768 ≤ fld v 0 10) (plainWrite s r v)
    | 0x140 => psrcWrite s r v
    | _ => .done (plainWrite s r v)

/-- Lens pages (R485 to R491). -/
def lnsWrite (s : State) (i : Initiator) (r : RegAddr) (v : Word) : WRes :=
  let p := r.page - 1
  if r.page = 0 then .done (plainWrite s r v)
  else match r.off with
    | 0x100 => wOpt (lnsCtlEffect s p v)
    | 0x108 =>
      let (t, refused) := lnsPrivEffect s i p v
      .done (if refused then recordPageErr t i r cPRIVILEGE else t)
    | 0x200 => .done (rdaddrEffect s p v)
    | 0x210 => psrcWrite s r v
    | _ => .done (plainWrite s r v)

/-- What a block does with a write of one of its registers. -/
def blockWrite (s : State) (i : Initiator) (r : RegAddr) (v : Word) : WRes :=
  match r.ty with
  | .tbu => tbuWrite s i r v
  | .gpe => gpeWrite s r v
  | .sdm => sdmWrite s r v
  | .evr => evrWrite s i r v
  | .core => coreWrite s i r v
  | .loops => match loopReg r.off with
    | some (l, n) => wOpt (loopsWrite s r.inst l n v)
    | none => .done s
  | .cnt => cntWrite s r v
  | .die => dieWrite s i r v
  | .hom => if r.off = 0x100 then wClamp (homCtlEffect s r.inst v) else .done (plainWrite s r v)
  | .fab => fabWrite s r v
  | .d2d => if r.off = 0x100 then wClamp (d2dCtlEffect s r.inst v) else .done (plainWrite s r v)
  | .smg => smgWrite s r v
  | .mcp => mcpWrite s r v
  | .dmc => dmcWrite s i r v
  | .qe => qeWrite s i r v
  | .hpa => hpWrite s .hpa r v
  | .hpb => hpWrite s .hpb r v
  | .spa =>
    if r.off = Config.spaCfgaddr % 4096 then .done (setSpa s r.inst { getSpa s r.inst with cfgAddr := v })
    else if r.off = Config.spaMwbase % 4096 then .done (setSpa s r.inst { getSpa s r.inst with mwBase := v })
    else if r.off = Config.spaCfgdata % 4096 then
      let x := getSpa s r.inst
      .done (if x.up then { s with sent := .cfg r.inst true x.cfgAddr (BitVec.ofNat 32 v.toNat) } else failAccess s i r eABSENT)
    else .done s
  | .eth => ethWrite s r v
  | .canf => if r.off = 0x100 then wOpt (canCtlEffect s r.inst v) else .done (plainWrite s r v)
  | .ser => serWrite s r v
  | .gpio => gpioWrite s r v
  | .psl => pslWrite s r v
  | .pwr => pwrWrite s r v
  | .hup => match hupEffect s r.off v with
    | some x => wClamp x
    | none => .fail cREFUSED
  | .jrn => if r.off = 0x100 then wOpt (jrnCtlEffect s v) else wIdle s r v (jrnLocked s r.off)
  | .bse => bseWriteReg s i r v
  | .dbg => dbgWrite s r v
  | .lns => lnsWrite s i r v
  | .err =>
    if r.off = 0x118 then wOpt (errCopyEffect s v)
    else if r.off = 0x120 then wIdle s r v (rb s Reg.ERR_COPY 0)
    else .done (plainWrite s r v)
  | .prism | .mvb | .csd => .done (plainWrite s r v)

/-! ## Mirror slots (R45, R78, R341, R347, R348) -/

/-- Whether a register is a mirror slot. -/
def isMwSlot (r : RegAddr) : Bool :=
  match findRow r.ty r.page r.off with
  | some row => row.mw && 0x100 ≤ r.off
  | none => false

/-- A write of a mirror slot; `mirror` says that it carried MIRROR = 1. The ticks since a watchdog cycle began are measured by no other
step: a free value. -/
def mwEffect (s : State) (i : Initiator) (r : RegAddr) (v : Word) (mirror : Bool) : State :=
  if r.ty = .smg ∧ (r.off = 0x138 ∨ r.off = 0x140) then
    let (n, s) := takeFree s
    wdServiceNow s i (r.off == 0x140) v mirror n
  else if !mirrorOk v then mwMismatch s i r
  else if r.ty = .smg then
    let res := if r.off = 0x108 then smgCommand s (fld v 0 8) (fld v 8 2) else wdCtlWrite s v
    match res with
    | some t => t
    | none => refuse s i r
  else match blockWrite s i r v with
    | .done t => t
    | .clamp t => clampNote t i r
    | .fail c => failAccess s i r c

/-! ## Common registers (R37 to R45) -/

/-- The pages whose PAGE_OWNER.PARTITION stays 0 (R49, R252, R304, R327, R347, R376, R395, R453, R469, R504). -/
def ownerFixed (r : RegAddr) : Bool :=
  match r.ty with
  | .err | .hom | .fab | .d2d | .smg | .mcp | .dmc | .pwr | .hup => true
  | .die => r.page != 0
  | .qe | .bse => r.page == 0
  | _ => false

/-- A write of PAGE_OWNER: PARTITION only where it does not stay 0, SG_EN only where the page can be guarded (Table 2.7). -/
def ownerWrite (s : State) (r : RegAddr) (v : Word) : State :=
  let p := if ownerFixed r then 0 else fld v 0 6
  let sg := if capSg r.ty r.page then fld v 16 1 else 0
  wr s r (BitVec.ofNat 64 (p + 2 ^ 8 * fld v 8 8 + 2 ^ 16 * sg))

/-- EVT_STATUS bits of a page set for test, or cleared; a page without conditions ignores both (R39). -/
def evtBits (s : State) (r : RegAddr) (v : Word) (on : Bool) : State :=
  let n := condCount r.ty r.page
  let st := evtStatus r.ty r.inst r.page
  let m := BitVec.ofNat 64 (2 ^ n - 1) &&& v
  if n = 0 then s
  else setEvt s r.ty r.inst r.page (if on then rd s st ||| m else rd s st &&& ~~~m) (rd s (evtEnable r.ty r.inst r.page))

/-- A write of a common register. -/
def commonWrite (s : State) (r : RegAddr) (v : Word) : State :=
  let n := condCount r.ty r.page
  match r.off with
  | 0x00C => ownerWrite s r v
  | 0x010 => evtBits s r v false
  | 0x014 =>
    if n = 0 then s
    else setEvt s r.ty r.inst r.page (rd s (evtStatus r.ty r.inst r.page)) (v &&& BitVec.ofNat 64 (2 ^ n - 1))
  | 0x018 => evtBits s r v true
  | 0x01C => evtBits s r v false
  | 0x020 => if capFrz r.ty r.page then wdFreeze (wr s r (BitVec.ofNat 64 (fld v 0 1))) else s
  | 0x024 => if bit v 31 then wr s r 0 else s
  | _ => s

/-- A write of a register page after presence and width: ownership, privilege, READY, semaphore (log entry 12), then the effect. What
only M-level code of partition 0 writes is refused elsewhere with PRIVILEGE whoever owns the page. A register without a writable field
and a place that the map does not list ignore the write (R10, R12). -/
def regWriteNow (s : State) (i : Initiator) (r : RegAddr) (v : Word) (mirror : Bool) : State :=
  if !openToAll r && !reaches s i r then failAccess s i r (ownerCause r)
  else if (m0Only r && !isM0 s i) || !writePriv s i r v then failAccess s i r cPRIVILEGE
  else if r.off < 0x100 then respOk (commonWrite s r v) 0
  else if !ready s r.ty r.inst then failAccess s i r cREFUSED
  else if !writable r then respOk s 0
  else if semBlocked s i r then respOk (recordPageErr s i r cSEM_NOT_HELD) 0
  else if isMwSlot r then mwEffect (respOk s 0) i r v mirror
  else match blockWrite (respOk s 0) i r v with
    | .done t => t
    | .clamp t => clampNote t i r
    | .fail c => failAccess s i r c

/-! ## Data pages (R35, R37) -/

/-- Device address of an offset of a storage port's window (R406). -/
def spaDevAddr (s : State) (r : RegAddr) : Nat := ((getSpa s r.inst).mwBase.toNat + 4096 * (r.page - 16) + r.off) % 2 ^ 64

/-- Bytes written to a data page; of a storage device whose link is down the answer is ABSENT (R406; log entry 117). -/
def dataPut (s : State) (i : Initiator) (r : RegAddr) (l : List Byte) : State :=
  match r.ty with
  | .err => refuse s i r
  | .bse =>
    if s.bse.waits && rcvHolder s != 0 && rcvPort i == some (rcvHolder s) then dpWrite s (rkey r) l else refuse s i r
  | .spa =>
    if (getSpa s r.inst).up then { s with sent := .tlp (2 + r.inst) true 0 (spaDevAddr s r) l } else failAccess s i r eABSENT
  | _ => dpWrite s (rkey r) l

/-- Bytes read from a data page; what a storage device returns is a free value (log entry 3), and ABSENT while its link is down (R406; log
entry 117). -/
def dataGet (s : State) (i : Initiator) (r : RegAddr) (n : Nat) : State :=
  match r.ty with
  | .err => respOk s (BitVec.ofNat 64 (leNat ((upto n).map fun k => errPageByte s (r.page - 1) (r.off + k))))
  | .spa =>
    if (getSpa s r.inst).up then
      let (v, s) := takeFree s
      respOk { s with sent := .tlp (2 + r.inst) false 0 (spaDevAddr s r) [] } (BitVec.ofNat 64 (v % 2 ^ (8 * n)))
    else failAccess s i r eABSENT
  | _ => respOk s (BitVec.ofNat 64 (leNat (dpBytes s (rkey r) n)))

/-- An access to a data page, under its instance's page 0. -/
def dataAccess (s : State) (i : Initiator) (r : RegAddr) (width : Nat) (w : Option Word) : State :=
  match w with
  | some v => regWrite s i r (dataWidthOk r.off width) true fun t => dataPut t i r (leBytes (width / 8) v.toNat)
  | none => regRead s i r (dataWidthOk r.off width) fun t => dataGet t i r (width / 8)

/-- A write of a page of any kind. VADDR's own effect, a read through other pages, is given with the debug view. -/
def writeReg (s : State) (i : Initiator) (r : RegAddr) (width : Nat) (v : Word) (mirror : Bool) : State :=
  if isDataPage r.ty r.inst r.page then dataAccess s i r width (some v)
  else if r = Reg.EXC_CTL r.inst ∧ bit v 0 ∧ releaseDark s i r.inst then refuseDark s i r.inst
  else if cutOff s i r.ty r.inst then absentAccess s i r
  else if !widthOk r width then failAccess s i r cSIZE
  else if isHsem r then semWrite s i r ((r.off - 0x100) / 4) v
  else regWriteNow s i r v mirror

end Sys2Proof.Machine
end

