-- ==== Sys2Proof/Machine/PageCmd.lean ====
section
/-! DEFINITION. Accesses by address and the commands of the register pages: data pages, absent blocks, core windows, debug view, inbound
host requests (R6, R34 to R45, R397, R398, R484). -/

namespace Sys2Proof.Machine

/-! ## Debug view (R484) -/

/-- Whether a location is DBG_P_VADDR. -/
def isVaddr (r : RegAddr) : Bool := r.ty == .dbg && r.page != 0 && r.off == 0x130

/-- An access whose page no block answers for: an absent site's window gives ABSENT (R6), any other page reads 0 (R34). -/
def strayAccess (s : State) (i : Initiator) (a : Nat) : State :=
  match apertureSite a with
  | some n => if !populated s n || siteAbsent s n then respErr (logErr s (accessAddrRec s i a eABSENT)) eABSENT else respOk s 0
  | none => respOk s 0

/-- A read of a page of any kind. -/
def loadReg (s : State) (i : Initiator) (r : RegAddr) (width : Nat) : State :=
  if isDataPage r.ty r.inst r.page then dataAccess s i r width none else readReg s i r width

/-- A read at an address of the register aperture. -/
def pageRead (s : State) (i : Initiator) (a width : Nat) : State :=
  if a < 0xF00000010000 then amminRead s i (a - 0xF00000000000) width
  else match locate a with
    | some r => loadReg s i r width
    | none => strayAccess s i a

/-- The error response to an access of a core window, with its entry (R6, R36). -/
def windowErr (s : State) (i : Initiator) (c off code : Nat) : State :=
  respErr (logErr s (accessAddrRec s i (aliasAddr c off) code)) code

/-- Whether a partition reaches a core through its global alias: partition 0 and the core's own (R36). -/
def reachesWindow (s : State) (i : Initiator) (c : Nat) : Bool := initPart s i == 0 || coreOwner s c == some (initPart s i)

/-- Whether a partition reaches the control pages of a core through its global alias: as its memories, and any partition for PAGE_ID,
PAGE_CAP and PAGE_STATUS (R36, R42). -/
def reachesCore (s : State) (i : Initiator) (c off : Nat) : Bool := reachesWindow s i c || off % 4096 < 0x00C

/-- Why a core window refuses an access to its memories, if it does (R36). -/
def windowRefuses (s : State) (i : Initiator) (c off n : Nat) : Option Nat :=
  if away s .core c then some eABSENT
  else if noRoute s (initEp i) (endpointOf .core c) then some eNOROUTE
  else if !reachesWindow s i c then some cNOT_OWNER
  else if !isTcm off ∨ !isTcm (off + n - 1) then some eRANGE
  else none

/-- A read of `n` bytes through a core's global alias. -/
def aliasRead (s : State) (i : Initiator) (c off n : Nat) : State :=
  if 0xF0000 ≤ off ∧ !cutOff s i .core c then
    match locate (aliasAddr c off) with
    | some r => if reachesCore s i c off then readReg s i r (8 * n) else failAccess s i r cNOT_OWNER
    | none => if reachesWindow s i c then respOk s 0 else windowErr s i c off cNOT_OWNER
  else match windowRefuses s i c off n with
    | some e => windowErr s i c off e
    | none =>
      match memRead s (aliasAddr c off) n with
      | .err e => windowErr s i c off e
      | .data l p => if p then respErr s ePOISON else respOk s (BitVec.ofNat 64 (leNat l))

/-- A read by an agent at any address: register pages, core windows, memory after the region check (R36, R42, R259, R261). -/
def agentRead (s : State) (i : Initiator) (a n : Nat) : State :=
  let fail := fun (e : Nat) => respErr (logErr s (accessAddrRec s i a e)) e
  match areaOf a with
  | .page => pageRead s i a (8 * n)
  | .core c off => aliasRead s i c off n
  | .host =>
    if !regionOk s (initPart s i) a n 1 then fail eREGION
    else match owinErr s i a with
    | some e => fail e
    | none =>
      let (v, s) := takeFree s
      respOk s (BitVec.ofNat 64 (v % 2 ^ (8 * n)))
  | .dram | .xip | .journal =>
    if !regionOk s (initPart s i) a n 1 then fail eREGION
    else match agRead s (initEp i) a n with
      | .err e => fail e
      | .data l p => if p then respErr s ePOISON else respOk s (BitVec.ofNat 64 (leNat l))
  | .own _ | .hole => fail eRANGE

/-- The initiator of debug-view reads made for a partition (R484). -/
def viewIni (p : Part) : Initiator := .agent 414 p

/-- A write of VADDR (R484): the read leaves nothing behind but VDATA, or 0 and a record in the page of the partition. -/
def vaddrEffect (s : State) (p : Part) (v : Word) : State :=
  let n := if bit v 63 then 8 else 4
  let a := fld v 0 48
  let t := if a % n = 0 then agentRead s (viewIni p) a n else respErr s cSIZE
  let s := { s with freeCtr := t.freeCtr }
  match t.resp with
  | .ok w => wr s (Reg.DBGP_VDATA p) w
  | .err c => recordPageErr (wr s (Reg.DBGP_VDATA p) 0) (viewIni p) (Reg.DBGP_VADDR p) c
  | _ => wr s (Reg.DBGP_VDATA p) 0

/-- A write of DBG_P_VADDR as an access. -/
def vaddrAccess (s : State) (i : Initiator) (p : Part) (width : Nat) (v : Word) : State :=
  regWrite s i (Reg.DBGP_VADDR p) (width == 64) true fun t => vaddrEffect t p v

/-- DBG_VIEW_REQUEST (R484). -/
def execDbgViewRequest (i : Initiator) (p : Part) (v : Word) (s : State) : Out := ok (vaddrAccess s i p 64 v)

/-- DEBUG_VIEW_READ (R484, R11). -/
def execDebugViewRead (p : Part) (r : RegAddr) (width : Nat) (s : State) : Out := ok (loadReg s (viewIni p) r width)

/-! ## Writes by address -/

/-- A write of a page of any kind, VADDR included. -/
def storeReg (s : State) (i : Initiator) (r : RegAddr) (width : Nat) (v : Word) (mirror : Bool) : State :=
  if isVaddr r then vaddrAccess s i (Fin.ofNat 64 (r.page - 1)) width v else writeReg s i r width v mirror

/-- A write at an address of the register aperture. -/
def pageWrite (s : State) (i : Initiator) (a width : Nat) (v : Word) (mirror : Bool) : State :=
  if a < 0xF00000010000 then amminRefuse s i (a - 0xF00000000000)
  else match locate a with
    | some r => storeReg s i r width v mirror
    | none => strayAccess s i a

/-- A write of bytes through a core's global alias. -/
def aliasWrite (s : State) (i : Initiator) (c off : Nat) (l : List Byte) (mirror : Bool) : State :=
  if 0xF0000 ≤ off ∧ !cutOff s i .core c then
    match locate (aliasAddr c off) with
    | some r =>
      if reachesCore s i c off then storeReg s i r (8 * l.length) (BitVec.ofNat 64 (leNat l)) mirror else failAccess s i r cNOT_OWNER
    | none => if reachesWindow s i c then respOk s 0 else windowErr s i c off cNOT_OWNER
  else match windowRefuses s i c off l.length with
    | some e => windowErr s i c off e
    | none =>
      match memWrite s (aliasAddr c off) l false with
      | .ok t => respOk t 0
      | .error e => respErr (logBusErr s i (aliasAddr c off) e) e

/-! ## Commands of the register pages -/

/-- REGISTER_WRITE (R10). -/
def execRegisterWrite (i : Initiator) (r : RegAddr) (width : Nat) (v : Word) (s : State) : Out := ok (storeReg s i r width v false)

/-- MW_WRITE (R45). -/
def execMwWrite (i : Initiator) (r : RegAddr) (v : Word) (mirror : Bool) (s : State) : Out := ok (storeReg s i r 64 v mirror)

/-- EVT_SET (R39). -/
def execEvtSet (i : Initiator) (r : RegAddr) (v : W32) (s : State) : Out :=
  ok (if isDataPage r.ty r.inst r.page then s else writeReg s i { r with off := 0x018 } 32 (w32 v) false)

/-- EVT_CLEAR (R39, R40). -/
def execEvtClear (i : Initiator) (r : RegAddr) (v : W32) (s : State) : Out :=
  ok (if isDataPage r.ty r.inst r.page then s else writeReg s i { r with off := 0x01C } 32 (w32 v) false)

/-- DATA_PAGE_ACCESS (R35, R37). -/
def execDataPageAccess (i : Initiator) (r : RegAddr) (width : Nat) (wr : Option Word) (s : State) : Out :=
  ok (if isDataPage r.ty r.inst r.page then dataAccess s i r width wr else s)

/-- ABSENT_BLOCK_ACCESS (R6). -/
def execAbsentBlockAccess (i : Initiator) (t : AbsTarget) (_write : Bool) (s : State) : Out :=
  ok (match t with
    | .page r => if unreachable s r.ty r.inst then absentAccess s i r else s
    | .window c off => if unreachable s .core c then windowErr s i c off.toNat eABSENT else s)

/-- GLOBAL_ALIAS_ACCESS (R36). -/
def execGlobalAliasAccess (i : Initiator) (c : CoreId) (off : BitVec 20) (width : Nat) (wr : Option Word) (s : State) : Out :=
  ok (match wr with
    | some v => aliasWrite s i c off.toNat (leBytes (width / 8) v.toNat) false
    | none => aliasRead s i c off.toNat (width / 8))

/-! ## Inbound host requests (R397, R398) -/

/-- What a host is told of an access: an error becomes Completer Abort, but for poison, which the completion carries as EP. -/
def hostAnswer (s : State) : State :=
  match s.resp with
  | .err c => if c = ePOISON then s else respErr s hCA
  | _ => s

/-- A request to DRAM through BAR2: the region check of the function's partition, then installed DRAM (R261, R398). -/
def hpDram (s : State) (i : Initiator) (a : Nat) (t : Tlp) : State :=
  let fail := fun (e : Nat) => respErr (logBusErr s i a e) e
  match t with
  | .rd n =>
    if areaOf a ≠ .dram then fail eRANGE
    else if !regionOk s (initPart s i) a n 1 then fail eREGION
    else match agRead s (initEp i) a n with
      | .err e => fail e
      | .data l p => if p then respErr s ePOISON else { s with resp := .bytes l }
  | .wr l _ =>
    if areaOf a ≠ .dram then fail eRANGE
    else if !regionOk s (initPart s i) a l.length 2 then fail eREGION
    else match agWrite s (initEp i) a l false with
      | .ok u => respOk u 0
      | .error e => fail e

/-- A request through a BAR (Table 16.2). -/
def hpServe (s : State) (p : Port) (f : Nat) (i : Initiator) (bar off : Nat) (t : Tlp) : State :=
  let w := rd s (hpIwin p f)
  if bar = 0 ∧ off < 0x4000000 then
    hostAnswer (match t with
      | .rd n => pageRead s i (0xF00000000000 + off) (8 * n)
      | .wr l _ => pageWrite s i (0xF00000000000 + off) (8 * l.length) (BitVec.ofNat 64 (leNat l)) false)
  else if bar = 2 ∧ 30 ≤ fld w 0 6 ∧ off < 2 ^ fld w 0 6 then hostAnswer (hpDram s i (2 ^ 30 * fld w 30 18 + off) t)
  else if bar = 4 ∧ off < 0x18400000 then
    hostAnswer (match t with
      | .rd n => aliasRead s i (off / 0x100000) (off % 0x100000) n
      | .wr l _ => aliasWrite s i (off / 0x100000) (off % 0x100000) l false)
  else if bar = 4 ∧ 0x1F000000 ≤ off ∧ off < 0x1F000400 then
    match t with
    | .rd n => { s with resp := .bytes (msixRead s p f (off - 0x1F000000) n false) }
    | .wr l _ => respOk (msixWrite s p f (off - 0x1F000000) l) 0
  else if bar = 4 ∧ 0x1F001000 ≤ off ∧ off < 0x1F001008 then
    match t with
    | .rd n => { s with resp := .bytes (msixRead s p f (off - 0x1F001000) n true) }
    | .wr _ _ => respOk s 0
  else respErr s hUR

/-- The physical address that a request through a BAR names (Table 16.2), or 0 where it names none: the MSI-X tables and places outside
every window. -/
def hpAddr (s : State) (p : Port) (f bar off : Nat) : Nat :=
  let w := rd s (hpIwin p f)
  if bar = 0 ∧ off < 0x4000000 then 0xF00000000000 + off
  else if bar = 2 ∧ 30 ≤ fld w 0 6 ∧ off < 2 ^ fld w 0 6 then 2 ^ 30 * fld w 30 18 + off
  else if bar = 4 ∧ off < 0x18400000 then 0xF10000000000 + off
  else 0

/-- HP_INBOUND_REQUEST (R398). A write that arrives poisoned is not performed; its entry names the address (R41). -/
def execHpInboundRequest (port : Port) (fn : Fin 33) (bar : BitVec 3) (off : BitVec 48) (tlp : Tlp) (s : State) : Out :=
  let i := Initiator.host port fn
  ok (if !hpUp s port then s
    else if !rb s (hpFmap port fn) 31 then respErr s hUR
    else match tlp with
      | .wr _ true => respOk (logErr s (accessAddrRec s i (hpAddr s port fn bar.toNat off.toNat) ePOISON)) 0
      | _ => hpServe s port fn i bar.toNat off.toNat tlp)

end Sys2Proof.Machine
end

