-- ==== Sys2Proof/Machine/CoreMem.lean ====
section
/-! DEFINITION. A core's loads and stores through translation, attributes and the address map; emulated unaligned accesses (R191 to
R195, R230, R259, R267, R299, R328, R330). -/

namespace Sys2Proof.Machine

/-! ## Faults of an instruction (Table 8.2) -/

/-- A synchronous fault: cause code, SUB, t1. -/
structure Flt where
  cause : Nat
  sub : Nat
  t1 : Word
  deriving DecidableEq, Repr

/-- A fault whose SUB is 0. -/
def Flt.plain (cause : Nat) (t1 : Word) : Flt := { cause := cause, sub := 0, t1 := t1 }

/-- Cause codes of Table 8.2. -/
def xILLEGAL : Nat := 0x01
def xPRIVILEGE : Nat := 0x02
def xINSTR_ADDR : Nat := 0x03
def xINSTR_BUS : Nat := 0x05
def xFETCH_CONFINE : Nat := 0x06
def xALIGN : Nat := 0x08
def xDATA_BUS : Nat := 0x0A
def xMIRROR : Nat := 0x0B
def xMIRROR_ATTR : Nat := 0x0C
def xATOMIC_ATTR : Nat := 0x0D
def xSTACK_ALIGN : Nat := 0x0E
def xSTACK_LIMIT : Nat := 0x0F
def xRET_UNDERFLOW : Nat := 0x10
def xWINDOW_STATE : Nat := 0x11
def xLOOP_END : Nat := 0x12
def xXSTATE_DISABLED : Nat := 0x13
def xXSTATE : Nat := 0x14
def xCOPROCESSOR : Nat := 0x15
def xILLEGAL_RETURN : Nat := 0x16
def xSYSCALL : Nat := 0x18
def xBREAKPOINT : Nat := 0x19
def xARITH : Nat := 0x20
def xMICRO_PRIV : Nat := 0x24
def xMACHINE_CHECK : Nat := 0x30

/-- A physical or virtual address as a register value. -/
def adr (a : Nat) : Word := BitVec.ofNat 64 a

/-- The initiator of a core's accesses. -/
def coreIni (c : Nat) : Initiator := .core (Fin.ofNat 388 c)

/-- The entry of a poisoned line that a core consumed (R299). -/
def poisonRec (s : State) (c pa : Nat) : ErrRec :=
  let k := getCore s c
  { errRec s 4 3 .core c with
    part := (coreOwner s c).getD 0xFF, initiator := 0x8000 + c, addr := pa, pc := (k.bank k.cur).pc.toNat
    detail := detail [BitVec.ofNat 8 (sliceOf (lineOf pa)), 0xFF] }

/-- A translation fault as it is raised: FINFO records it where a rule of translation did (R266); a table read that the bus answered with an
error, or with poison, has its entry in the error log (R259, R299). -/
def raiseXl (s : State) (c : Nat) (f : XlFault) : State × Flt :=
  let s := match f.info with
    | some v => wr s (Reg.XL_FINFO c) (BitVec.ofNat 64 v)
    | none => s
  (match f.bus with
    | some (pa, e) => if e = ePOISON then logErr s (poisonRec s c pa) else logFailed s (coreIni c) pa e
    | none => s,
   { cause := f.cause, sub := f.sub, t1 := adr f.addr })

/-! ## Fetched instructions that reach ID or are killed (R133, R144 to R146) -/

/-- Beside a fetched address in place of an event's code: nothing counts, or the lock that the fetch lost (R273). -/
def noEvt : Nat := 0
def lostLockEvt : Nat := 0x100

/-- Counter events of fetches: each counts with the address of its fetch (R492). -/
def countFetches (s : State) (c : Nat) (l : List (Word × Nat)) : State :=
  l.foldl (fun t e =>
    if e.2 = noEvt then t
    else if e.2 = lostLockEvt then countReg t (Reg.CACHE_LOCKLOST c)
    else countEvt t c e.2 1 { curCtx t c with addr := some e.1.toNat }) s

/-- The instruction at `pc`, of `words` words, has reached ID on the correct path: the events of its fetch count. -/
def issueFetch (s : State) (c : Nat) (pc : Word) (words : Nat) : State :=
  let k := getCore s c
  let own := fun (e : Word × Nat × Nat) => e.1 == pc || (words == 2 && e.1 == pc + 4)
  let s := setCore s c { k with fetchEv := k.fetchEv.filter fun e => !own e }
  countFetches s c ((k.fetchEv.filter own).map fun e => (e.1, e.2.1))

/-- A bank's speculative history is its committed one, and its checkpoints are free (R144). -/
def Bank.settle (b : Bank) : Bank := { b with sghr := b.ghr, sras := b.ras, ckpts := [] }

/-- The fetch state of a core when everything that was fetched is killed. -/
def emptyFetch (k : CoreSt) : CoreSt :=
  { k with fetchQ := [], fetchPc := none, pdPos := 0, fetchEv := [], pairNew := [], pair := [], useq := none }

/-- What was fetched and not executed is killed (R133, R146): killed fetches count in the wrong-path events alone (R145). -/
def killFetch (s : State) (c : Nat) : State :=
  let k := getCore s c
  countFetches (setCore s c (emptyFetch (k.setBank k.cur (k.bank k.cur).settle))) c (k.fetchEv.map fun e => (e.1, e.2.2))

/-! ## Errors in the arrays (R128, R271) -/

/-- The 256-bit granules that `n` bytes at an address touch. -/
def granulesOf (a n : Nat) : List Nat := (upto ((a + n - 1) / 32 + 1 - a / 32)).map fun k => a / 32 + k

/-- A read of `n` bytes of a core's caches or TCMs: a correctable error is corrected in place, an uncorrectable one marks its line poisoned
(R271). The flag says whether one was corrected. -/
def checkArrays (s : State) (c a n : Nat) : State × Bool :=
  let k := getCore s c
  let met := k.soft.filter fun e => (granulesOf a n).contains e.1
  if met.isEmpty then (s, false)
  else
    let s := setCore s c { k with soft := k.soft.filter fun e => !(granulesOf a n).contains e.1 }
    ((met.filter (·.2)).foldl (fun t e => setPoison t (e.1 / 2)) s, met.any fun e => !e.2)

/-- A load's data after its check in MEM (R128): where an error was corrected, the younger instructions are killed and fetched again, and it
counts in the core's error statistics. -/
def loadCheck (s : State) (c a n : Nat) : State :=
  match checkArrays s c a n with
  | (s, false) => s
  | (s, true) =>
    let k := getCore s c
    let pc := (k.bank k.cur).pc
    let own := fun (e : Word × Nat × Nat) => e.1 == pc
    let s := setCore s c { k.setBank k.cur (k.bank k.cur).settle with
      fetchQ := (k.fetchQ.take 1).filter fun e => e.1 == pc
      fetchPc := none
      pdPos := 0
      fetchEv := k.fetchEv.filter own
      corrected := k.corrected + 1 }
    countFetches s c ((k.fetchEv.filter fun e => !own e).map fun e => (e.1, e.2.2))

/-! ## Which access an attribute lets through (R193, R194, R328) -/

/-- How an instruction accesses memory: an ordinary access, a mirror access, an LDL or STC. -/
inductive Way where
  | plain | mirror | locked
  deriving DecidableEq, Repr

/-- A register page in the sense of R193: the register aperture and the control pages of a core window. -/
def isRegisterPage (pa : Nat) : Bool :=
  match areaOf pa with
  | .page => true
  | .core _ off | .own off => 0xF0000 ≤ off
  | _ => false

/-- The TCM parts of a core window, which mirror accesses never reach (R193). -/
def isTcmPart (pa : Nat) : Bool :=
  match areaOf pa with
  | .core _ off | .own off => off < 0xF0000
  | _ => false

/-- The fault of an access whose attribute its kind does not permit. -/
def wayFault (way : Way) (pa attr : Nat) : Option Nat :=
  match way with
  | .plain => if attr = 2 then some xMIRROR_ATTR else none
  | .mirror => if isRegisterPage pa || (attr == 2 && !isTcmPart pa) then none else some xMIRROR_ATTR
  | .locked => if attr = 0 && areaOf pa == .dram then none else some xATOMIC_ATTR

/-! ## Reads -/

/-- The bytes that a register page or a core window answered with, or DATA_BUS. -/
def answered (s t : State) (c va pa n : Nat) : State × Except Flt (List Byte) :=
  let u := { t with resp := s.resp }
  match t.resp with
  | .ok v => (u, .ok (leBytes n v.toNat))
  | .bytes l => (u, .ok l)
  | .err e =>
    (if e = ePOISON then logErr u (poisonRec u c pa) else u, .error { cause := xDATA_BUS, sub := busSub e, t1 := adr va })
  | .none => (u, .ok (List.replicate n 0))

/-- Whether a host answer is that of a load of `n` bytes at a physical address. -/
def HostAns.is (h : HostAns) (pa n : Nat) : Bool := h.addr == pa && h.len == n

/-- A load from a host window takes its answer: data, or DATA_BUS (R400). A read that never waits for one, a microword's or a half of an
unaligned load, is answered by a free value (log entry 3). -/
def hostLoad (s : State) (c va pa n : Nat) : State × Except Flt (List Byte) :=
  let k := getCore s c
  match k.hostAns.find? fun h => h.is pa n with
  | some h =>
    let s := setCore s c { k with hostAns := k.hostAns.erase h }
    if h.err = 0 then (s, .ok (leBytes n h.data.toNat)) else (s, .error { cause := xDATA_BUS, sub := busSub h.err, t1 := adr va })
  | none =>
    match owinErr s (coreIni c) pa with
    | some e =>
      (logErr s (accessAddrRec s (coreIni c) pa e), .error { cause := xDATA_BUS, sub := busSub e, t1 := adr va })
    | none =>
      let (v, s) := takeFree s
      (s, .ok (leBytes n v))

/-- Whether a core's load from a host window is outstanding, or waits for a tag. -/
def hostAsked (s : State) (c pa n : Nat) : Bool :=
  let x := getHp s (owinOf pa).1
  (x.outs ++ x.waits).any fun o => o.ini == coreIni c && o.load == some pa && o.len == n

/-- A core's load of `n` bytes at a virtual address that has to wait for a host's completion, with the read sent where it was not (R400);
`none` where it waits for none. -/
def hostAsk (s : State) (c priv va n : Nat) : Option State :=
  match (translate s c priv .load va n false).2 with
  | .error _ => none
  | .ok (pa, attr) =>
    if areaOf pa != .host || va % n != 0 || (wayFault .plain pa attr).isSome || ((getCore s c).hostAns.any fun h => h.is pa n) then none
    else if hostAsked s c pa n then some s
    else if (owinErr s (coreIni c) pa).isSome then none
    else some { hostRead s (coreIni c) pa n (some pa) with resp := s.resp }

/-- Whether an address lies in the code store, whose lines are read uncached (R267). -/
def isXip (a : Nat) : Bool := areaOf a == .xip || areaOf a == .journal

/-- A read of `n` bytes at a physical address by a core (R259, R299, R309); a read of DRAM that is not mirrored goes through its caches
(R267). -/
def physRead (s : State) (c va pa attr n : Nat) : State × Except Flt (List Byte) :=
  let e := if attr == 2 then none else homeErr s c pa n false
  let s := if attr == 2 || e.isSome || (memErr s pa false).isSome then s else cacheLines s c va attr false pa n
  let s := loadCheck s c (coreAddr c pa) n
  match areaOf pa with
  | .page => answered s (pageRead s (coreIni c) pa (8 * n)) c va pa n
  | .core d off => answered s (aliasRead s (coreIni c) d off n) c va pa n
  | .own off => answered s (aliasRead s (coreIni c) c off n) c va pa n
  | .host => hostLoad s c va pa n
  | .dram | .xip | .journal | .hole =>
    match (if isXip pa || attr == 2 then agRead s (endpointOf .core c) pa n else
        match memErr s pa false, e with
        | none, some x => MemRd.err x
        | _, _ => memRead s pa n) with
    | .err e =>
      (logErr s (accessAddrRec s (coreIni c) pa e), .error { cause := xDATA_BUS, sub := busSub e, t1 := adr va })
    | .data l p =>
      if p then (logErr s (poisonRec s c pa), .error { cause := xDATA_BUS, sub := 1, t1 := adr va }) else (s, .ok l)

/-- A naturally aligned read of `n` bytes at a virtual address: the bytes and the attribute. -/
def dataRead (s : State) (c priv va n : Nat) (way : Way) : State × Except Flt (List Byte × Nat) :=
  if va % n ≠ 0 then (s, .error (.plain xALIGN (adr va)))
  else
    match translate s c priv .load va n (way == .mirror) with
    | (s, .error f) => let (s, g) := raiseXl s c f; (s, .error g)
    | (s, .ok (pa, attr)) =>
      match wayFault way pa attr with
      | some x => (s, .error (.plain x (adr va)))
      | none =>
        match physRead s c va pa attr n with
        | (s, .ok l) => (s, .ok (l, attr))
        | (s, .error g) => (s, .error g)

/-! ## Writes -/

/-- SUB of a store that was answered with an error (Table 8.3). -/
def storeSub (code : Nat) : Nat := if code = eABSENT then 2 else 4

/-- An imprecise exception becomes pending on a bank (R229, R230). -/
def pendImprecise (s : State) (c l : Nat) (e : Imprecise) : State :=
  let k := getCore s c
  setCore s c (k.setBank l { k.bank l with imprecise := (k.bank l).imprecise ++ [e] })

/-- A store answered with an error: precise, or pending on the bank where it went to normal memory and has retired (R230). -/
def storeErr (s : State) (c va code : Nat) (precise : Bool) : State × Option Flt :=
  if precise then (s, some { cause := xDATA_BUS, sub := storeSub code, t1 := adr va })
  else
    let k := getCore s c
    (pendImprecise s c k.cur (.store (adr va) (storeSub code) (k.bank k.cur).pc), none)

/-- A write through a register page or a core window, as it was answered. -/
def stored (s t : State) (c va : Nat) (precise : Bool) : State × Option Flt :=
  let u := { t with resp := s.resp }
  match t.resp with
  | .err e => storeErr u c va e precise
  | _ => (u, none)

/-- A mirror write to DRAM (R329, R330): its response is awaited. -/
def mirStore (s : State) (c va pa : Nat) (l : List Byte) : State × Option Flt :=
  match memErr s pa true with
  | some e => (logErr s (accessAddrRec s (coreIni c) pa e), some { cause := xDATA_BUS, sub := storeSub e, t1 := adr va })
  | none => stored s (mirWrite s (initEp (coreIni c)) pa (BitVec.ofNat 64 (leNat l))) c va true

/-- A write of bytes at a physical address by a core (R230, R259, R299). `half` says that the response is awaited, as that of a half of an
emulated access is. -/
def physWrite (s : State) (c va pa attr : Nat) (l : List Byte) (way : Way) (half : Bool) : State × Option Flt :=
  let precise := half || !(attr == 0 || attr == 4)
  match areaOf pa with
  | .page => stored s (pageWrite s (coreIni c) pa (8 * l.length) (BitVec.ofNat 64 (leNat l)) (way == .mirror)) c va precise
  | .core d off =>
    if d = c ∧ isTcm off then (coreStore s c pa l, none)
    else stored s (aliasWrite s (coreIni c) d off l (way == .mirror)) c va precise
  | .own off =>
    if isTcm off then (coreStore s c (aliasAddr c off) l, none)
    else stored s (aliasWrite s (coreIni c) c off l (way == .mirror)) c va precise
  | .host =>
    match owinErr s (coreIni c) pa with
    | some e => storeErr (logErr s (accessAddrRec s (coreIni c) pa e)) c va e precise
    | none => ({ hostWrite s pa l with resp := s.resp }, none)
  | .dram | .xip | .journal | .hole =>
    if way = .mirror then mirStore s c va pa l
    else
      match storeErrc s c pa l.length with
      | some e => storeErr (logErr s (accessAddrRec s (coreIni c) pa e)) c va e precise
      | none => (coreStore (cacheLines s c va attr true pa l.length) c pa l, none)

/-- A naturally aligned write at a virtual address: the attribute, or the fault. `await` says that the response is awaited even in normal
memory. -/
def dataWrite (s : State) (c priv va : Nat) (l : List Byte) (way : Way) (await : Bool) : State × Except Flt Nat :=
  let n := l.length
  if va % n ≠ 0 then (s, .error (.plain xALIGN (adr va)))
  else
    match translate s c priv .store va n (way == .mirror) with
    | (s, .error f) => let (s, g) := raiseXl s c f; (s, .error g)
    | (s, .ok (pa, attr)) =>
      match wayFault way pa attr with
      | some x => (s, .error (.plain x (adr va)))
      | none =>
        match physWrite s c va pa attr l way await with
        | (s, none) => (s, .ok attr)
        | (s, some g) => (s, .error g)

/-- Whether a core reads at a physical address a RESULT whose operation is in flight (R382). -/
def resultHeld (s : State) (c pa : Nat) : Bool :=
  match areaOf pa, locate pa with
  | .page, some r => isResult r && resultWaits s (coreIni c) (r.page - 1)
  | _, _ => false

/-- Whether an access of a core to `n` bytes at a virtual address waits, for a line of DRAM (R281, R291) or for the outcome of a queue
operation (R382): the instruction has not executed, and its command is sent again. -/
def accessWaits (s : State) (c priv : Nat) (acc : Acc) (va n : Nat) : Bool :=
  [va, va + n - 1].any fun a =>
    match (translate s c priv acc a 1 false).2 with
    | .ok (pa, _) =>
      (areaOf pa == .dram && lineWaits s (agentOfCore c) (lineOf pa) (acc == .store)) || (acc == .load && resultHeld s c pa)
    | .error _ => false

/-! ## Unaligned accesses (R192) -/

/-- Whether a core's partition has unaligned emulation enabled. -/
def unalignOn (s : State) (c : Nat) : Bool :=
  match coreOwner s c with
  | some p => rb s (Reg.PART_MODES p) 2
  | none => false

/-- The two halves of an access that crosses its natural unit: address and length. -/
def halves (va n : Nat) : (Nat × Nat) × (Nat × Nat) :=
  let b := (va / n + 1) * n
  ((va, b - va), (b, va + n - b))

/-- Both halves translated before any access: two physical addresses with their attributes, or the first fault in address order; a page
that is device, mirrored or XIP raises ALIGN (R192). -/
def translateHalves (s : State) (c priv va n : Nat) (acc : Acc) :
    State × Except Flt ((Nat × Nat) × (Nat × Nat)) :=
  let ((a, x), (b, y)) := halves va n
  match translate s c priv acc a x false with
  | (s, .error f) => let (s, g) := raiseXl s c f; (s, .error g)
  | (s, .ok p) =>
    match translate s c priv acc b y false with
    | (s, .error f) => let (s, g) := raiseXl s c f; (s, .error g)
    | (s, .ok q) =>
      let normal := fun (t : Nat) => t == 0 || t == 4
      if normal p.2 && normal q.2 then (s, .ok (p, q)) else (s, .error (.plain xALIGN (adr va)))

/-- An emulated load. -/
def emuRead (s : State) (c priv va n : Nat) : State × Except Flt (List Byte × Nat) :=
  let ((a, x), (b, y)) := halves va n
  match translateHalves s c priv va n .load with
  | (s, .error g) => (s, .error g)
  | (s, .ok (p, q)) =>
    match physRead s c a p.1 p.2 x with
    | (s, .error g) => (s, .error g)
    | (s, .ok l) =>
      match physRead s c b q.1 q.2 y with
      | (s, .error g) => (s, .error g)
      | (s, .ok m) => (s, .ok (l ++ m, p.2))

/-- An emulated store: an error of the second half leaves the first half written. -/
def emuWrite (s : State) (c priv va : Nat) (l : List Byte) : State × Except Flt Nat :=
  let ((a, x), (b, _)) := halves va l.length
  match translateHalves s c priv va l.length .store with
  | (s, .error g) => (s, .error g)
  | (s, .ok (p, q)) =>
    match physWrite s c a p.1 p.2 (l.take x) .plain true with
    | (s, some g) => (s, .error g)
    | (s, none) =>
      match physWrite s c b q.1 q.2 (l.drop x) .plain true with
      | (s, some g) => (s, .error g)
      | (s, none) => (s, .ok p.2)

/-- An ordinary load, emulated where it is unaligned and the partition allows it. -/
def anyRead (s : State) (c priv va n : Nat) : State × Except Flt (List Byte × Nat) :=
  if va % n ≠ 0 ∧ unalignOn s c then emuRead s c priv va n else dataRead s c priv va n .plain

/-- An ordinary store, emulated where it is unaligned and the partition allows it. -/
def anyWrite (s : State) (c priv va : Nat) (l : List Byte) : State × Except Flt Nat :=
  if va % l.length ≠ 0 ∧ unalignOn s c then emuWrite s c priv va l else dataWrite s c priv va l .plain false

/-! ## Frames and windows (R159 to R162) -/

/-- load64 of the pseudocode. -/
def load64 (s : State) (c priv a : Nat) : State × Except Flt Word :=
  match dataRead s c priv (a % 2 ^ 64) 8 .plain with
  | (s, .ok (l, _)) => (s, .ok (BitVec.ofNat 64 (leNat l)))
  | (s, .error f) => (s, .error f)

/-- store64 of the pseudocode: its fault leaves the routine unexecuted, so its response is awaited (R160, R218). -/
def store64 (s : State) (c priv a : Nat) (v : Word) : State × Option Flt :=
  match dataWrite s c priv (a % 2 ^ 64) (leBytes 8 v.toNat) .plain true with
  | (s, .ok _) => (s, none)
  | (s, .error f) => (s, some f)

/-- Several 64-bit loads at rising addresses. -/
def loadMany (s : State) (c priv a : Nat) : Nat → State × Except Flt (List Word)
  | 0 => (s, .ok [])
  | n + 1 =>
    match load64 s c priv a with
    | (s, .error f) => (s, .error f)
    | (s, .ok v) =>
      match loadMany s c priv (a + 8) n with
      | (s, .error f) => (s, .error f)
      | (s, .ok l) => (s, .ok (v :: l))

/-- Several 64-bit stores at rising addresses. -/
def storeMany (s : State) (c priv a : Nat) : List Word → State × Option Flt
  | [] => (s, none)
  | v :: l =>
    match store64 s c priv a v with
    | (s, some f) => (s, some f)
    | (s, none) => storeMany s c priv (a + 8) l

/-- An event of the core's current bank counted `n` times. -/
def countN (s : State) (c code n : Nat) : State := countEvt s c code n (curCtx s c)

/-- The oldest resident window of a bank (R156). -/
def Bank.oldest (b : Bank) : Nat := (b.cwp + 9 - b.wres) % 8

/-- The sixteen registers of group `w`. -/
def Bank.group (b : Bank) (w : Nat) : List Word := (b.win.drop (16 * w)).take 16

/-- The sixteen registers of group `w` replaced. -/
def Bank.putGroup (b : Bank) (w : Nat) (l : List Word) : Bank :=
  { b with win := b.win.take (16 * w) ++ l ++ b.win.drop (16 * w + 16) }

/-- Memory as it was in `s`: the stores of a routine that faults have no effect (R160). -/
def restoreMem (s t : State) : State := { t with mem := s.mem, poison := s.poison, fills := s.fills, dramGen := s.dramGen }

/-- spill of R160: the oldest resident window of the current bank goes to its frame, checked with its frame privilege. A spill that faults
leaves the window resident and memory as it was. -/
def spill (s : State) (c : Nat) : State × Option Flt :=
  let b := (getCore s c).bank (getCore s c).cur
  let w := b.oldest
  match storeMany s c (nth b.fpriv 0 w) ((nth b.fb 0 w).toNat + 0x10) (b.group w) with
  | (t, some f) => (restoreMem s t, some f)
  | (t, none) =>
    let k := getCore t c
    let b := k.bank k.cur
    let t := setCore t c (k.setBank k.cur { b with wres := b.wres - 1, tw := false })
    (countN t c 0x15 1, none)

/-- Spills while more than `n` windows are resident (R160, R202); `fuel` bounds them by eight. -/
def spillTo (n c : Nat) : Nat → State → State × Option Flt
  | 0, s => (s, none)
  | fuel + 1, s =>
    if ((getCore s c).bank (getCore s c).cur).wres ≤ n then (s, none)
    else match spill s c with
      | (t, some f) => (t, some f)
      | (t, none) => spillTo n c fuel t

/-- The fill of R161 and R221: the window below the current one from the frame at `pf`, checked with a privilege. -/
def fill (s : State) (c priv : Nat) (pf : Word) : State × Option Flt :=
  match loadMany s c priv (pf.toNat + 0x10) 16 with
  | (t, .error f) => (t, some f)
  | (t, .ok l) =>
    let k := getCore t c
    let b := k.bank k.cur
    let w := (b.cwp + 7) % 8
    let b := { b.putGroup w l with fb := listSet b.fb w pf, fpriv := listSet b.fpriv w priv }
    (countN (setCore t c (k.setBank k.cur b)) c 0x16 1, none)

end Sys2Proof.Machine
end

