-- ==== Sys2Proof/Machine/Micro.lean ====
section
/-! DEFINITION. Microwords and the micro-address of the next word (R235 to R240, R244, R245). -/

namespace Sys2Proof.Machine

/-! ## Microwords (Table 9.1) -/

/-- A field of a microword. -/
def mfld (w : BitVec 152) (lo n : Nat) : Nat := (w.toNat >>> lo) % 2 ^ n

/-- Fields of a microword. -/
def uNext (w : BitVec 152) : Nat := mfld w 0 14
def uSeq (w : BitVec 152) : Nat := mfld w 14 4
def uSrcA (w : BitVec 152) : Nat := mfld w 32 7
def uSrcB (w : BitVec 152) : Nat := mfld w 39 7
def uDst (w : BitVec 152) : Nat := mfld w 46 7
def uMem (w : BitVec 152) : Nat := mfld w 85 4
def uSize (w : BitVec 152) : Nat := 2 ^ mfld w 89 2
def uFlags (w : BitVec 152) : Nat := mfld w 117 6
def uCommit (w : BitVec 152) : Nat := mfld w 123 3
def uFault (w : BitVec 152) : Nat := mfld w 126 6

/-- Whether the parity bits of a microword agree (R236). -/
def microParity (w : BitVec 152) : Bool := (upto 8).all fun j => popcount 18 (mfld w (18 * j) 18) % 2 == (w.getLsbD (144 + j)).toNat

/-! ## The control store (R235, R245) -/

/-- First words of patch RAM and of the customer region, and the last assigned micro-address. -/
def patchLo : Nat := 12288
def custLo : Nat := 13056
def custHi : Nat := 13311

/-- The address whose word the sequencer executes for a micro-address: a match entry names a patch word in place of a ROM word. -/
def matched (k : CoreSt) (a : Nat) : Nat :=
  match k.matches_.find? fun e => e.1 == a with
  | some e => if a < patchLo then e.2 else a
  | none => a

/-- The word that the sequencer executes at a micro-address. -/
def microWord (k : CoreSt) (a : Nat) : BitVec 152 :=
  let b := matched k a
  if b < patchLo then Config.romWord b else k.patch.get 0 b

/-- Whether the word at a micro-address has a parity error: its own bits, or an error that the store keeps (R244). -/
def wordBad (k : CoreSt) (a : Nat) : Bool := !microParity (microWord k a) || k.badWords.contains (matched k a)

/-! ## Sequencing (R237, R238, R240) -/

/-- What the sequencer comes to after a word: another word with the micro-call stack, newest first; the end of the instruction; or an
error of the word. -/
inductive Useqs where
  | go (addr : Nat) (stack : List Nat)
  | stop
  | bad
  deriving DecidableEq, Repr

/-- The word after a ROM or vendor word (Table 9.2, R240): `cond` says whether COND is true; a WAIT whose condition stays false has timed
out. -/
def romNext (w : BitVec 152) (a : Nat) (stack : List Nat) (cond : Bool) : Useqs :=
  let go := fun (x : Nat) (l : List Nat) => if x ≤ custHi then Useqs.go x l else Useqs.bad
  match uSeq w with
  | 0 => .go (a + 1) stack
  | 1 => go (uNext w) stack
  | 2 => if cond then go (uNext w) stack else .go (a + 1) stack
  | 3 => if cond then .go (a + 1) stack else go (uNext w) stack
  | 4 => if 4 ≤ stack.length then .bad else go (uNext w) ((a + 1) :: stack)
  | 5 =>
    match stack with
    | [] => .bad
    | x :: l => go x l
  | 6 => if cond then .go (a + 1) stack else go (uNext w) stack
  | 7 => .stop
  | 8 => .stop
  | _ => .bad

end Sys2Proof.Machine
end

