-- ==== Sys2Proof/Machine/Except.lean ====
section
/-! DEFINITION. Bank switches, exception entry, the double and third fault, imprecise delivery, machine checks, debug entry (R110 to
R122, R147, R150, R211 to R234, R477 to R482). -/

namespace Sys2Proof.Machine

/-! ## Where a fetch comes from (R134, R150, R269) -/

/-- The L1I entry that holds a physical address. -/
def l1iFind (k : CoreSt) (pa : Nat) : Option (Nat × L1iE) :=
  k.l1i.find? fun e => e.1 / 8 == lineOf pa % 64 && e.2.line == lineOf pa

/-- Whether a physical address lies in the core's own I-TCM. -/
def inItcm (c pa : Nat) : Bool :=
  match areaOf pa with
  | .own off => off < 0x8000
  | .core d off => d == c && off < 0x8000
  | _ => false

/-- Whether R150 confines the fetches of a core's current bank. -/
def confined (k : CoreSt) : Bool := k.timing && k.cur != 0

/-- Whether the translation of a fetch is held in a locked entry, or none applies (R269). -/
def fetchLocked (s : State) (c priv va : Nat) : Bool :=
  let x := xlCtx s c (getCore s c).cur priv
  2 ≤ priv || (!x.gEn && !x.pEn) ||
    match tlbFind (getCore s c).itlb x va with
    | some e => e.lock.isSome
    | none => false

/-- A fetch translated and confined: its physical address and attribute, or its fault (R134, R150). -/
def fetchXl (s : State) (c priv va : Nat) : State × Except Flt (Nat × Nat) :=
  if confined (getCore s c) && !fetchLocked s c priv va then (s, .error (.plain xFETCH_CONFINE (adr va)))
  else
    match translate s c priv .fetch va 4 false with
    | (s, .error f) => let (s, g) := raiseXl s c f; (s, .error g)
    | (s, .ok (pa, attr)) =>
      let locked := match l1iFind (getCore s c) pa with
        | some e => e.2.locked
        | none => false
      if confined (getCore s c) && !inItcm c pa && !locked then (s, .error (.plain xFETCH_CONFINE (adr va)))
      else (s, .ok (pa, attr))

/-- The fault of a fetch of a word, if it has one; an XIP line that has not come yet is no fault. -/
def fetchFault (s : State) (c priv va : Nat) : State × Option Flt :=
  match fetchXl s c priv va with
  | (s, .error f) => (s, some f)
  | (s, .ok (pa, _)) =>
    if (l1iFind (getCore s c) pa).isSome then (s, none)
    else
      let a := coreAddr c pa
      let line := adr (va / 64 * 64)
      match memRead s a 4 with
      | .err e => (logFailed s (coreIni c) a e, some { cause := xINSTR_BUS, sub := busSub e, t1 := line })
      | .data _ p =>
        if p && !(areaOf a == .xip) then (logErr s (poisonRec s c a), some { cause := xINSTR_BUS, sub := 1, t1 := line })
        else (s, none)

/-! ## Bank switches (R114 to R116) -/

/-- The event word (Table 4.4). -/
def eventWord (e : EvRec) : Word :=
  BitVec.ofNat 64 (e.src % 2 ^ 10 + 2 ^ 10 * e.level + 2 ^ 13 * e.mode + 2 ^ 15 * e.late.toNat + 2 ^ 16 * e.stamped.toNat +
    2 ^ 17 * e.ovr.toNat + 2 ^ 18 * e.half.toNat + 2 ^ 19 * e.loc.toNat + 2 ^ 32 * (e.count % 2 ^ 16))

/-- g5 to g7 of a resumption (Table 4.3). -/
def Bank.loadEvent (b : Bank) (e : EvRec) : Bank :=
  let g := listSet (listSet b.g 5 (eventWord e)) 6 (if e.stamped then e.phase else 0)
  { b with g := listSet g 7 (BitVec.ofNat 64 e.time) }

/-- A bank resumed by the event in its inbox (R103, R114, R120): the event is in service, its inbox is empty, the budget timer
loads. -/
def resumeEvent (s : State) (c l : Nat) : State :=
  let k := getCore s c
  match nth k.inbox none l with
  | none => s
  | some e =>
    let n := rf s (Reg.SCHED_BUDGET c l) 0 32
    let b := (k.bank l).loadEvent e
    let b := { b with
      serving := if e.loc then none else some e.src
      budget := n
      budgetOn := n != 0 }
    let s := setCore s c { k.setBank l b with inbox := listSet k.inbox l none }
    let s := if e.loc || e.mode == 1 then s else setSrc s e.src { getSrc s e.src with inService := (getSrc s e.src).inService + 1 }
    countEvt s c 0x13 1 { priv := b.priv, level := l, addr := none, attr := none }

/-- The translation roots that a bank finds at a switch into it (R277): the registers, but for one that the bank itself wrote and for
which it has not yet executed IFENCE. -/
def Bank.roots (b : Bank) (s : State) (c l : Nat) : Bank :=
  { b with
    gtb := if b.gtbWait then b.gtb else rd s (Reg.XL_GTB c l)
    ptb := if b.ptbWait then b.ptb else rd s (Reg.XL_PTB c) }

/-- What every switch does to the core (R116, R146, R195): the old bank's mode writes take effect, extended state is unavailable, the
reservation and what was fetched are lost. -/
def leaveBank (s : State) (c : Nat) : State :=
  let s := killFetch s c
  let k := getCore s c
  setCore s c { flushShadow k k.cur with avail := false, resv := none, justParked := false }

/-- A bank that resumes has its pending exceptions delivered before its first instruction (R229). -/
def Bank.dueNow (b : Bank) : Bank :=
  { b with imprecise := b.imprecise.map fun e =>
      match e with
      | .arith sub pc _ => .arith sub pc 0
      | .store a sub pc => .store a sub pc }

/-- Bank `l` made current; a bank 0 that WAITE stalls completes it with g5 to g7 set to 0 (R113). -/
def makeCurrent (s : State) (c l : Nat) : State :=
  let s := leaveBank s c
  let k := getCore s c
  let b := ((k.bank l).roots s c l).dueNow
  let wake := l == 0 && k.stalled
  let b := if wake then { b with g := listSet (listSet (listSet b.g 5 0) 6 0) 7 0 } else b
  countCur (setCore s c { k.setBank l b with cur := l, stalled := k.stalled && !wake }) c 0x12

/-- switch_to of R115. -/
def switchTo (s : State) (c l : Nat) : State :=
  let s := makeCurrent s c l
  let k := getCore s c
  if (k.bank l).st == .parked then
    let s := resumeEvent s c l
    let k := getCore s c
    setCore s c (k.setBank l { k.bank l with st := .active })
  else s

/-! ## Routing (R215 to R217) -/

/-- The configuration byte of a cause. -/
def causeCfg (s : State) (c x : Nat) : Nat := rf s (Reg.EXC_CAUSECFG c (x / 4)) (8 * (x % 4)) 5

/-- The delivery level of a cause; ILLEGAL_RETURN has 7 (R216). -/
def causeDl (s : State) (c x : Nat) : Nat := if x = xILLEGAL_RETURN then 7 else causeCfg s c x / 4

/-- The least privilege that can handle a cause (Table 8.2). -/
def causeMin (x : Nat) : Nat := if x = 0x1C then 2 else if x = xMACHINE_CHECK then 3 else 1

/-- The handling privilege of a cause raised at a privilege (R215, R216). -/
def handlePriv (s : State) (c x priv : Nat) : Nat :=
  if x = xILLEGAL_RETURN then priv else max priv (max (causeMin x) (causeCfg s c x % 4))

/-- VB_P (R217). -/
def vecBase (s : State) (c p : Nat) : Word :=
  if p = 1 then rd s (Reg.EXC_VB_S c) else if p = 2 then rd s (Reg.EXC_VB_H c) else rd s (Reg.EXC_VB_M c)

/-- An exception to be taken in a bank: its cause, SUB, t1, saved PC, excepting PC, whether it is delivered imprecisely, whether the bank
was parked. -/
structure Exc where
  cause : Nat
  sub : Nat
  t1 : Word
  save : Word
  exc : Word
  imp : Bool
  park : Bool
  deriving DecidableEq, Repr

/-- The cause word (Table 8.3). -/
def causeWord (e : Exc) (tw : Bool) (level from_ : Nat) : Word :=
  BitVec.ofNat 64 (e.cause % 64 + 2 ^ 6 * e.imp.toNat + 2 ^ 7 * tw.toNat + 2 ^ 8 * level + 2 ^ 11 * from_ + 2 ^ 16 * (e.sub % 256))

/-- The frame word (Table 8.4). -/
def frameWord (save status : Word) (park : Bool) : Word :=
  BitVec.ofNat 64 (1 + 2 * park.toNat + 4 * fld save 2 46 + 2 ^ 48 * fld status 0 9)

/-! ## Third fault (R226) -/

/-- A fault while the double-fault handler runs: recorded, logged, reported; the core is held in core reset. -/
def thirdFault (s : State) (c cause : Nat) (pc : Word) : State :=
  let info := BitVec.ofNat 64 (cause % 64 + 2 ^ 6 * rf s (Reg.EXC_DF_INFO c) 0 6 + 2 ^ 12)
  let s := wr (wr s (Reg.EXC_TF_INFO c) info) (Reg.EXC_TF_PC c) pc
  let s := logErr s { errRec s 5 1 .core c with
    part := (coreOwner s c).getD 0xFF, initiator := 0x8000 + c, pc := pc.toNat, detail := detail (leBytes 4 info.toNat) }
  let s := smgReport s { Rep.plain 5 with core := c }
  setHeld (coreHold s c) c true

/-! ## Double fault (R224) -/

/-- A rotation without a frame, as step 4 of R224 does. -/
def Bank.rotate (b : Bank) : Bank :=
  let w := (b.cwp + 1) % 8
  let n := min 8 (b.wres + 1)
  { b with cwp := w, wres := n, tw := n == 8, wfb := 0, fb := listSet b.fb w 0, fpriv := listSet b.fpriv w 3 }

/-- STATUS with PRIV, ML and AMODE as entry leaves them. -/
def statusEnter (v : Word) (priv : Nat) : Word := setFld (setFld v 0 2 priv) 5 1 0

/-- The first t registers of the current window take values. -/
def Bank.putT (b : Bank) (l : List Word) : Bank :=
  { b with win := b.win.take (16 * b.cwp + 8) ++ l ++ b.win.drop (16 * b.cwp + 8 + l.length) }

/-- Double-fault entry: `l` is the faulting bank, `first` the cause whose entry was under way. -/
def doubleFault (s : State) (c l : Nat) (e : Exc) (kind first : Nat) : State :=
  let k := flushShadow (getCore s c) l
  let b := k.bank l
  let seven := k.bank 7
  let lost := seven.wres == 8
  let info := BitVec.ofNat 64 (e.cause % 64 + 2 ^ 6 * first + 2 ^ 12 * l + 2 ^ 15 * lost.toNat + 2 ^ 16 * kind)
  let b7 := BitVec.ofNat 64 ((seven.st == .parked).toNat + 2 * (seven.st == .disabled).toNat + 4 * fld seven.pc 2 46)
  let save := BitVec.ofNat 64 (4 * fld e.save 2 46)
  let s := wr (wr s (Reg.EXC_DF_INFO c) info) (Reg.EXC_DF_ADDR c) e.t1
  let s := wr (wr s (Reg.EXC_DF_PC c) save) (Reg.EXC_DF_STATUS c) (BitVec.ofNat 64 (fld b.status 0 9))
  let s := wr s (Reg.EXC_DF_B7 c) b7
  let s := setCore s c (k.setBank l { b with pc := save })
  let s := if (getCore s c).cur = 7 then leaveBank s c else makeCurrent s c 7
  let k := getCore s c
  let b := (k.bank 7).rotate
  let dfv := BitVec.ofNat 64 (4 * rf s (Reg.EXC_DFV c) 2 46)
  let b := { b.putT [info, e.t1, save, BitVec.ofNat 64 (fld (k.bank l).status 0 9)] with
    st := .active
    pc := dfv
    status := setFld (statusEnter b.status 3) 2 3 6 }
  let s := countCur (setCore s c { k.setBank 7 b with df := true }) c 0x14
  match fetchFault s c 3 dfv.toNat with
  | (t, some f) => thirdFault t c f.cause dfv
  | (_, none) => s

/-! ## Ordinary entry (R218) -/

/-- The checks and frame stores of an entry in bank `l` at privilege `p`: the frame's address, or the fault of a stack check (R158, R160)
or of a store. -/
def pushFrame (s : State) (c l p : Nat) (e : Exc) : State × Except Flt Nat :=
  let b := (getCore s c).bank l
  let sp := (nth b.sp 0 p).toNat
  let f := (sp + 2 ^ 64 - 144) % 2 ^ 64
  if sp % 16 ≠ 0 then (s, .error (.plain xSTACK_ALIGN (adr sp)))
  else if f < (nth b.slim 0 p).toNat ∨ b.depth = 0xFFFFFF then (s, .error (.plain xSTACK_LIMIT (adr f)))
  else
    match store64 s c p f (frameWord e.save b.status e.park) with
    | (t, some x) => (t, .error x)
    | (t, none) =>
      match store64 t c p (f + 8) b.wfb with
      | (u, some x) => (u, .error x)
      | (u, none) => (u, .ok f)

/-- The bank after entry at privilege `p` with the frame at `f`. -/
def Bank.entered (b : Bank) (p f : Nat) (e : Exc) (l : Nat) (pc : Word) : Bank :=
  let w := (b.cwp + 1) % 8
  let tw := b.wres == 7
  let cw := causeWord e tw l b.priv
  let b := { b with
    cwp := w
    wres := b.wres + 1
    tw := tw
    fb := listSet b.fb w (adr f)
    fpriv := listSet b.fpriv w p
    wfb := adr f
    sp := listSet b.sp p (adr f)
    depth := b.depth + 1
    status := statusEnter b.status p
    pc := pc }
  b.putT [cw, e.t1, e.exc, 0, 0, 0, 0, 0]

/-- Exception entry in the current bank of a core (R218); a fault of the stack checks, of the frame or of the first fetch takes the
double-fault path with kind ENTRY, as its second fault (Tables 8.6 and 8.7), and leaves the bank as it was. DESIGN CHOICE: a fault that is
masked and also arises in the trap window records MASKED, for R223 names no order (log entry 114). -/
def enterExc (s : State) (c : Nat) (e : Exc) : State :=
  let k := flushShadow (getCore s c) (getCore s c).cur
  let s := setCore s c k
  let l := k.cur
  let b := k.bank l
  let p := handlePriv s c e.cause b.priv
  if causeDl s c e.cause ≤ coreEml s c then doubleFault s c l e 0 0
  else if b.tw then doubleFault s c l e 2 0
  else
    let entryFault := fun (t : State) (x : Flt) => doubleFault t c l { e with cause := x.cause, t1 := x.t1, save := b.pc } 1 e.cause
    match pushFrame s c l p e with
    | (t, .error x) => entryFault t x
    | (t, .ok f) =>
      let pc := vecBase t c p + adr (e.cause * 0x40)
      match fetchFault t c p pc.toNat with
      | (u, some g) => entryFault u g
      | (u, none) =>
        let k := getCore u c
        let b := (k.bank l).entered p f e l pc
        countCur (killFetch (setCore u c { k.setBank l b with resv := none }) c) c 0x14

/-! ## Faults and imprecise exceptions (R228 to R231) -/

/-- An imprecise exception as it is taken: the saved PC is the next PC of its bank, t2 the excepting PC (R229, R230). -/
def Imprecise.exc (b : Bank) : Imprecise → Exc
  | .arith sub pc _ => { cause := xARITH, sub := sub, t1 := pc, save := b.pc, exc := pc, imp := true, park := false }
  | .store a sub pc => { cause := xDATA_BUS, sub := sub, t1 := a, save := b.pc, exc := pc, imp := true, park := false }

/-- Delivery of a bank's oldest pending imprecise exception at the present boundary (R229, R230); within the double-fault handler it is a
third fault (R226, log entry 50). -/
def deliverImprecise (s : State) (c : Nat) : State :=
  let k := getCore s c
  let b := k.bank k.cur
  match b.imprecise with
  | [] => s
  | e :: rest =>
    if k.df then thirdFault s c (e.exc b).cause b.pc
    else enterExc (setCore s c (k.setBank k.cur { b with imprecise := rest })) c (e.exc b)

/-- Whether a pending imprecise exception can wait no longer: a store's response, or an arithmetic exception with no instruction left. -/
def impreciseDue (b : Bank) : Bool :=
  b.imprecise.any fun e =>
    match e with
    | .arith _ _ left => left == 0
    | .store .. => true

/-- A synchronous exception of the instruction at the current PC, or an imprecise one that is pending first (R226, R231). -/
def raiseExc (s : State) (c : Nat) (f : Flt) (save : Word) : State :=
  let s := issueFetch s c ((getCore s c).bank (getCore s c).cur).pc 1
  let k := getCore s c
  let b := k.bank k.cur
  if k.df then thirdFault s c f.cause b.pc
  else if !b.imprecise.isEmpty then deliverImprecise s c
  else enterExc s c { cause := f.cause, sub := f.sub, t1 := f.t1, save := save, exc := b.pc, imp := false, park := false }

/-- A fault whose saved PC is the instruction's own. -/
def raiseFault (s : State) (c : Nat) (f : Flt) : State := raiseExc s c f ((getCore s c).bank (getCore s c).cur).pc

/-- Whether a core can take a step of its own: it runs, and its current bank is ACTIVE, is no bank 0 that WAITE stalls (R113), and does not
wait for a switch. -/
def canStep (k : CoreSt) : Bool := k.running && !(k.stalled && k.cur == 0) && !k.justParked && (k.bank k.cur).st == .active

/-- IMPRECISE_EXCEPTION_DELIVERY (R229, R230): at a boundary of its bank; within the double-fault handler it is a third fault. -/
def execImpreciseExceptionDelivery (c : CoreId) (s : State) : Out :=
  let k := getCore s c
  ok (if canStep k && !(k.bank k.cur).imprecise.isEmpty then deliverImprecise s c else s)

/-- STORE_ERROR_RESPONSE (R230): a retired store of bank `l` is answered with an error; the PC of the store is a free value, for the
command does not name it (log entry 3). -/
def execStoreErrorResponse (c : CoreId) (l : Level) (addr : BitVec 48) (absent : Bool) (s : State) : Out :=
  ok (if (getCore s c).running then
      let (v, s) := takeFree s
      pendImprecise s c l (.store (adr addr.toNat) (if absent then 2 else 4) (adr (v % 2 ^ 46 * 4)))
    else s)

/-! ## Machine check (R227, R244) -/

/-- The record of a parity error (R244). -/
def parityNote (s : State) (c v : Nat) : State :=
  let s := countReg (wr s (Reg.MC_PADDR c) (BitVec.ofNat 64 (v + 2 ^ 31))) (Reg.MC_PERR c)
  let k := getCore s c
  logErr s { errRec s 5 2 .core c with
    part := (coreOwner s c).getD 0xFF, initiator := 0x8000 + c, pc := (k.bank k.cur).pc.toNat,
    detail := detail (leBytes 4 (v + 2 ^ 31)) }

/-- Delivery to bank 7 of a machine check met at `at_` (R227); t2 is the PC of the instruction that met it (R244). DESIGN CHOICE: for an
error of register files or pipeline state, which has no such instruction, t2 is the PC of the bank then current (log entry 99). DESIGN
CHOICE: where KIND MCHECK applies, the faulting bank of DF_INFO is the current bank and DF_PC is its PC, for R224 names neither (log entry
114). -/
def machineCheckNow (s : State) (c : Nat) (at_ : Word) : State :=
  let k := getCore s c
  let seven := k.bank 7
  let pc := (k.bank k.cur).pc
  let e : Exc := { cause := xMACHINE_CHECK, sub := 0, t1 := 0, save := pc, exc := at_, imp := false, park := false }
  if !levelOn s c 7 || seven.tw then doubleFault s c k.cur e 3 0
  else if k.cur = 7 then
    let park := seven.st == .parked
    enterExc (setCore s c { k.setBank 7 { seven with st := .active } with justParked := false }) c { e with park := park }
  else
    let parked := seven.st == .parked
    let s := makeCurrent s c 7
    let k := getCore s c
    let s := setCore s c (k.setBank 7 { k.bank 7 with st := .active })
    enterExc s c { e with save := seven.pc, park := parked }

/-- A machine-check condition: it waits while the double-fault handler runs. -/
def machineCheckRaise (s : State) (c : Nat) : State :=
  let k := getCore s c
  if !k.running then s
  else if k.df then setCore s c { k with mcheck := some ((k.bank k.cur).pc, true) }
  else machineCheckNow s c (k.bank k.cur).pc

/-- A patch RAM word or decode entry keeps a parity error until it is loaded again (R244). -/
def keepBad (s : State) (c v : Nat) : State :=
  let k := getCore s c
  if v < patchLo ∨ k.badWords.contains v then s else setCore s c { k with badWords := v :: k.badWords }

/-- A parity error met at a micro-address, or at 2^14 and a decode entry (R244). -/
def parityMet (s : State) (c v : Nat) : State := machineCheckRaise (parityNote (keepBad s c v) c v) c

/-- The sequencer at a ROM or vendor word (R240, R244): a bad word is not executed. What a good one does belongs to its instruction. -/
def romStep (s : State) (c a : Nat) (stack : List Nat) (cond : Bool) : State :=
  let k := getCore s c
  if custLo ≤ a then s
  else if wordBad k a then parityMet s c (matched k a)
  else if romNext (microWord k a) (matched k a) stack cond = .bad then machineCheckRaise s c
  else s

/-- MACHINE_CHECK (R227, R240, R244). -/
def execMachineCheck (c : CoreId) (m : MCheck) (s : State) : Out :=
  ok (if !(getCore s c).running then s
    else match m with
      | .parityWord a => parityMet s c a.toNat
      | .parityEntry i => parityMet s c (2 ^ 14 + i.val)
      | .coreState => machineCheckRaise s c
      | .romStep a stack cond => romStep s c a.toNat (stack.map BitVec.toNat) cond)

/-- The microsequencer leaves a WAIT for an address (R239, R240): an unassigned one is a machine check; from any other the timeout path
reissues the WAIT, which holds again. -/
def leaveWait (s : State) (c next : Nat) : State :=
  if custHi < next then machineCheckRaise (setCore s c { getCore s c with useq := none }) c else s

/-- MC_WAIT_TIMEOUT (R239): while a WAIT holds, the timeout counts, and the sequencer goes on at NEXT. -/
def execMcWaitTimeout (c : CoreId) (s : State) : Out :=
  ok (match (getCore s c).useq with
    | none => s
    | some q =>
      if !(getCore s c).running then s
      else leaveWait (countReg s (Reg.MC_TOCNT c)) c (uNext (microWord (getCore s c) q.addr)))

/-! ## Debug entry (R478, R482) -/

/-- Whether pending debug events can enter: the current level lies below L_D, and bank L_D is PARKED in an ordinary window. -/
def dbgCanEnter (s : State) (c : Nat) : Bool :=
  let k := getCore s c
  let d := monLevel s c
  k.running && k.dbgPend != 0 && k.cur < d && !k.df && (k.bank d).st == .parked && !(k.bank d).tw

/-- The debug entry word (Table 20.5). -/
def dbgWord (k : CoreSt) : Word :=
  BitVec.ofNat 64 (k.dbgPend % 128 + 2 ^ 7 * k.cur + 2 ^ 10 * (k.bank k.cur).priv + 2 ^ 12 * (k.dbgIdx % 4))

/-- The entry is abandoned: ERR ENTRY, the events are discarded, an IBP at this instruction does not match again. -/
def dbgAbandon (s : State) (c : Nat) : State :=
  let k := getCore s c
  let skip := if k.dbgPend.testBit 3 then some (k.bank k.cur).pc else k.ibpSkip
  wf (setCore s c { k with dbgPend := 0, dbgArg := 0, dbgIdx := 0, ibpSkip := skip }) (Reg.CDBG_STATE c) 5 2 2

/-- Entry into the monitor: the frame goes on SP_M of bank L_D with PARK 1, its saved PC being the bank's resume address. -/
def dbgEnter (s : State) (c : Nat) : State :=
  let k := getCore s c
  let d := monLevel s c
  let b := k.bank d
  let resume := (k.bank k.cur).pc
  let e : Exc := { cause := 0, sub := 0, t1 := k.dbgArg, save := b.pc, exc := resume, imp := false, park := true }
  let x := xlCtx s c d 3
  match pushFrame s c d 3 e with
  | (t, .error _) => dbgAbandon t c
  | (t, .ok f) =>
    let word := dbgWord k
    let skip := if k.dbgPend.testBit 3 then some resume else k.ibpSkip
    let step := k.dbgPend.testBit 5
    let t := makeCurrent t c d
    let k := getCore t c
    let b := (k.bank d).entered 3 f e d (rd t Reg.DBG_MONVEC)
    let b := { b.putT [word, e.t1, resume] with st := .active }
    let t := setCore t c { k.setBank d b with
      dbgPend := 0
      dbgArg := 0
      dbgIdx := 0
      ibpSkip := skip
      stopped := true
      dbgDepth := b.depth }
    let t := if step then wb t (Reg.CDBG_CTL c) 0 false else t
    wdFreeze (stopUpdate t x.part)

/-- DEBUG_ENTRY (R478). -/
def execDebugEntry (c : CoreId) (s : State) : Out := ok (if dbgCanEnter s c then dbgEnter s c else s)

/-! ## Which level preempts (R115, R480) -/

/-- Whether the scheduler may switch a parked bank in for its event: a pending step holds back levels up to L_D (R480). -/
def eventReady (s : State) (c l : Nat) : Bool :=
  let k := getCore s c
  levelOn s c l && (k.bank l).st == .parked && inboxFull s c l && !(k.stepping && l ≤ monLevel s c)

/-- EML once bank `l` runs. -/
def emlOf (s : State) (c l : Nat) : Nat := if (getCore s c).df then 7 else ((getCore s c).bank l).ml

/-- The level that preempts (R115). -/
def levelUp (s : State) (c : Nat) : Option Nat :=
  let k := getCore s c
  [7, 6, 5, 4, 3, 2, 1].find? fun l => k.cur < l && coreEml s c < l && eventReady s c l

end Sys2Proof.Machine
end

