-- ==== Sys2Proof/Machine/Flags.lean ====
section
/-! DEFINITION. Conditions, saturation and rounding of fixed-point values, and IEEE 754 arithmetic with its flags (R164 to R166, R183,
R203). -/

namespace Sys2Proof.Machine

/-! ## Compare conditions (Table 7.6a) -/

/-- COND on `w`-bit operands. -/
def condHolds (w cond : Nat) (a b : Word) : Bool :=
  match cond with
  | 0 => uintOf w a == uintOf w b
  | 1 => uintOf w a != uintOf w b
  | 2 => sintOf w a < sintOf w b
  | 3 => sintOf w b ≤ sintOf w a
  | 4 => uintOf w a < uintOf w b
  | 5 => uintOf w b ≤ uintOf w a
  | 6 => uintOf w (a &&& b) != 0
  | _ => uintOf w (a &&& b) == 0

/-! ## Fixed-point (R165, R166) -/

/-- A value rounded by discarding its low `k` bits under STATUS.RND: 0 truncate, 1 half-up, 2 half-even, 3 toward zero. -/
def roundOff (rnd k : Nat) (v : Int) : Int :=
  let q := v / 2 ^ k
  let d := v % 2 ^ k
  let h : Int := 2 ^ (k - 1)
  if k = 0 then v
  else match rnd with
    | 0 => q
    | 1 => if h ≤ d then q + 1 else q
    | 2 => if h < d ∨ (d = h ∧ q % 2 = 1) then q + 1 else q
    | _ => if v < 0 ∧ d ≠ 0 then q + 1 else q

/-- A number held in the range of `w` signed bits; the flag says that it lay outside. -/
def satI (w : Nat) (v : Int) : Int × Bool :=
  let hi : Int := 2 ^ (w - 1) - 1
  let lo : Int := -(2 ^ (w - 1))
  if hi < v then (hi, true) else if v < lo then (lo, true) else (v, false)

/-- A value rounded at bit `k` and held in `w` bits. -/
def roundSat (w rnd k : Nat) (v : Int) : Int × Bool := satI w (roundOff rnd k v)

/-- A product of two 16-bit lanes, as m16 of R189. -/
def m16 (int uns : Bool) (a b : Nat) : Int :=
  let f := fun (x : Nat) => if uns then ((x % 65536 : Nat) : Int) else sintOf 16 (BitVec.ofNat 64 x)
  let p := f a * f b
  if int then p else p * 2 ^ 33

/-- A product of two 32-bit words, as m32 of R189. -/
def m32 (int uns : Bool) (a b : Nat) : Int :=
  let f := fun (x : Nat) => if uns then ((x % 2 ^ 32 : Nat) : Int) else sintOf 32 (BitVec.ofNat 64 x)
  let p := f a * f b
  if int then p else p * 2

/-! ## Floating-point formats (Table 6.6) -/

/-- An IEEE 754 binary format: exponent bits, fraction bits. -/
structure Fmt where
  eb : Nat
  mb : Nat
  deriving DecidableEq, Repr

def fmt16 : Fmt := { eb := 5, mb := 10 }
def fmt32 : Fmt := { eb := 8, mb := 23 }
def fmt64 : Fmt := { eb := 11, mb := 52 }

def Fmt.bias (f : Fmt) : Int := 2 ^ (f.eb - 1) - 1
def Fmt.emin (f : Fmt) : Int := 1 - f.bias
def Fmt.infBits (f : Fmt) : Nat := (2 ^ f.eb - 1) * 2 ^ f.mb
def Fmt.signBit (f : Fmt) : Nat := 2 ^ (f.eb + f.mb)

/-- The default NaN of a format. -/
def Fmt.nan (f : Fmt) : Nat := f.infBits + 2 ^ (f.mb - 1)

/-- A floating-point datum: NaN (whether signaling), infinity, or the finite value m × 2^e with its sign. -/
inductive Fp where
  | nan (sig : Bool)
  | inf (neg : Bool)
  | fin (neg : Bool) (m : Nat) (e : Int)
  deriving DecidableEq, Repr

/-- The datum that bits of a format hold. -/
def unpack (f : Fmt) (x : Nat) : Fp :=
  let neg := x.testBit (f.eb + f.mb)
  let e := x / 2 ^ f.mb % 2 ^ f.eb
  let m := x % 2 ^ f.mb
  if e = 2 ^ f.eb - 1 then (if m = 0 then .inf neg else .nan (!m.testBit (f.mb - 1)))
  else if e = 0 then .fin neg m (f.emin - f.mb)
  else .fin neg (m + 2 ^ f.mb) ((e : Int) - f.bias - f.mb)

/-- Exception flags: bit 0 NX, 1 UF, 2 OF, 3 DZ, 4 NV (Table 6.6). -/
def fNX : Nat := 1
def fUF : Nat := 2
def fOF : Nat := 4
def fDZ : Nat := 8
def fNV : Nat := 16

/-- What an operation gives: the bits and the flags it raises. -/
structure FpRes where
  bits : Nat
  flags : Nat
  deriving DecidableEq, Repr

/-- Sign applied to bits. -/
def Fmt.withSign (f : Fmt) (neg : Bool) (x : Nat) : Nat := if neg then f.signBit + x else x

/-- Zero and infinity. -/
def Fmt.zero (f : Fmt) (neg : Bool) : FpRes := { bits := f.withSign neg 0, flags := 0 }
def Fmt.inf (f : Fmt) (neg : Bool) : FpRes := { bits := f.withSign neg f.infBits, flags := 0 }

/-- The default result of an invalid operation. -/
def Fmt.invalid (f : Fmt) : FpRes := { bits := f.nan, flags := fNV }

/-- The result of an operation on a NaN: a quiet NaN whose sign and payload are free (R164 names IEEE 754-2019, which fixes none; log
entry 3); a signaling operand is invalid. -/
def Fmt.nanOf (f : Fmt) (free : Nat) (sig : Bool) : FpRes :=
  { bits := f.withSign (free.testBit f.mb) (f.nan + free % 2 ^ (f.mb - 1)), flags := if sig then fNV else 0 }

/-- Whether rounding adds one unit: FRM 0 nearest even, 1 toward zero, 2 toward +∞, 3 toward −∞. -/
def roundUp (rm : Nat) (neg : Bool) (q rem half : Nat) : Bool :=
  match rm with
  | 0 => half < rem || (rem == half && q % 2 == 1)
  | 1 => false
  | 2 => !neg && rem != 0
  | _ => neg && rem != 0

/-- m × 2^e shifted to a unit of 2^q and rounded: the multiple and whether it is inexact. -/
def roundTo (rm : Nat) (neg : Bool) (m : Nat) (e q : Int) : Nat × Bool :=
  if q ≤ e then (m * 2 ^ (e - q).toNat, false)
  else
    let s := (q - e).toNat
    let x := m / 2 ^ s
    let r := m % 2 ^ s
    (x + (roundUp rm neg x r (2 ^ (s - 1))).toNat, r != 0)

/-- What an overflow gives under each rounding mode. -/
def overflowBits (f : Fmt) (rm : Nat) (neg : Bool) : Nat :=
  let toInf := rm == 0 || (rm == 2 && !neg) || (rm == 3 && neg)
  f.withSign neg (if toInf then f.infBits else f.infBits - 1)

/-- Whether a nonzero value m × 2^e is tiny. -/
def isTiny (f : Fmt) (rm : Nat) (neg : Bool) (m : Nat) (e : Int) : Bool :=
  let ex := (Nat.log2 m : Int) + e
  let after := (roundTo rm neg m e (ex - f.mb)).1
  ex < f.emin && (Config.tinyBefore || !(after == 2 ^ (f.mb + 1) && ex == f.emin - 1))

/-- The value m × 2^e rounded to a format, with its flags. A value that is not exactly m × 2^e is given with an odd m of at least two bits
more than the format's precision. -/
def pack (f : Fmt) (rm : Nat) (neg : Bool) (m : Nat) (e : Int) : FpRes :=
  if m = 0 then f.zero neg
  else
    let ex := (Nat.log2 m : Int) + e
    let q := max (ex - f.mb) (f.emin - f.mb)
    let (x, inexact) := roundTo rm neg m e q
    let bits := (q - (f.emin - f.mb)).toNat * 2 ^ f.mb + x
    if f.infBits ≤ bits then { bits := overflowBits f rm neg, flags := fOF + fNX }
    else
      let uf := inexact && isTiny f rm neg m e
      { bits := f.withSign neg bits, flags := (if inexact then fNX else 0) + (if uf then fUF else 0) }

/-- A signed sum m × 2^e rounded; an exact zero has the sign `zneg`. -/
def packI (f : Fmt) (rm : Nat) (m e : Int) (zneg : Bool) : FpRes :=
  if m = 0 then f.zero zneg else pack f rm (m < 0) m.natAbs e

/-- The signed mantissa of a finite datum. -/
def sgn (neg : Bool) (m : Nat) : Int := if neg then -(m : Int) else m

/-- The exact sum of two finite values. -/
def addExact (m1 : Int) (e1 : Int) (m2 : Int) (e2 : Int) : Int × Int :=
  let e := min e1 e2
  (m1 * 2 ^ (e1 - e).toNat + m2 * 2 ^ (e2 - e).toNat, e)

/-- The sum of two data. -/
def fpAdd (f : Fmt) (rm free : Nat) (a b : Fp) : FpRes :=
  match a, b with
  | .nan s, .nan t => f.nanOf free (s || t)
  | .nan s, _ | _, .nan s => f.nanOf free s
  | .inf x, .inf y => if x = y then f.inf x else f.invalid
  | .inf x, _ | _, .inf x => f.inf x
  | .fin x m e, .fin y n d =>
    let (r, z) := addExact (sgn x m) e (sgn y n) d
    packI f rm r z (if x = y then x else rm == 3)

/-- The sign of a datum turned. -/
def Fp.neg : Fp → Fp
  | .nan s => .nan s
  | .inf x => .inf !x
  | .fin x m e => .fin (!x) m e

/-- The product of two data. -/
def fpMul (f : Fmt) (rm free : Nat) (a b : Fp) : FpRes :=
  match a, b with
  | .nan s, .nan t => f.nanOf free (s || t)
  | .nan s, _ | _, .nan s => f.nanOf free s
  | .inf x, .inf y => f.inf (x != y)
  | .inf x, .fin y m _ | .fin y m _, .inf x => if m = 0 then f.invalid else f.inf (x != y)
  | .fin x m e, .fin y n d => pack f rm (x != y) (m * n) (e + d)

/-- The product of two data plus a third, rounded once. -/
def fpFma (f : Fmt) (rm free : Nat) (a b c : Fp) : FpRes :=
  let isNan := fun (x : Fp) => match x with | .nan _ => true | _ => false
  let isSig := fun (x : Fp) => match x with | .nan s => s | _ => false
  let zeroInf := match a, b with
    | .inf _, .fin _ m _ | .fin _ m _, .inf _ => m == 0
    | _, _ => false
  if isNan a || isNan b || isNan c then
    f.nanOf free (isSig a || isSig b || isSig c || (zeroInf && Config.fmaNanInvalid))
  else if zeroInf then f.invalid
  else match a, b with
    | .fin x m e, .fin y n d =>
      (match c with
       | .fin z k g =>
         let p := sgn (x != y) (m * n)
         let (r, h) := addExact p (e + d) (sgn z k) g
         packI f rm r h (if (x != y) = z then z else rm == 3)
       | .inf z => f.inf z
       | .nan s => f.nanOf free s)
    | _, _ =>
      let sign := fun (x : Fp) => match x with | .inf s => s | .fin s _ _ => s | .nan _ => false
      let neg := sign a != sign b
      match c with
      | .inf z => if z = neg then f.inf neg else f.invalid
      | _ => f.inf neg

/-- The quotient of two data. -/
def fpDiv (f : Fmt) (rm free : Nat) (a b : Fp) : FpRes :=
  match a, b with
  | .nan s, .nan t => f.nanOf free (s || t)
  | .nan s, _ | _, .nan s => f.nanOf free s
  | .inf _, .inf _ => f.invalid
  | .inf x, .fin y _ _ => f.inf (x != y)
  | .fin x _ _, .inf y => f.zero (x != y)
  | .fin x m e, .fin y n d =>
    if n = 0 then (if m = 0 then f.invalid else { f.inf (x != y) with flags := fDZ })
    else if m = 0 then f.zero (x != y)
    else
      let k := 2 * f.mb + 8 + Nat.log2 n
      let q := m * 2 ^ k / n
      pack f rm (x != y) (2 * q + (m * 2 ^ k % n != 0).toNat) (e - d - k - 1)

/-- The integer square root, bit by bit from bit `i - 1` down. -/
def isqrt (n : Nat) : Nat → Nat → Nat
  | 0, r => r
  | i + 1, r => let t := r + 2 ^ i; isqrt n i (if t * t ≤ n then t else r)

/-- The square root of a datum. -/
def fpSqrt (f : Fmt) (rm free : Nat) (a : Fp) : FpRes :=
  match a with
  | .nan s => f.nanOf free s
  | .inf x => if x then f.invalid else f.inf false
  | .fin x m e =>
    if m = 0 then f.zero x
    else if x then f.invalid
    else
      let (m, e) := if e % 2 = 0 then (m, e) else (2 * m, e - 1)
      let k := f.mb + 4
      let n := m * 2 ^ (2 * k)
      let r := isqrt n (f.mb + 2 + k) 0
      pack f rm false (2 * r + (r * r != n).toNat) (e / 2 - k - 1)

/-- Whether a datum lies below another; no NaN; −0 below +0 where `z` says so. -/
def fpLt (z : Bool) : Fp → Fp → Bool
  | .inf x, .inf y => x && !y
  | .inf x, .fin .. => x
  | .fin .., .inf y => !y
  | .fin x m e, .fin y n d =>
    let (r, _) := addExact (sgn x m) e (-(sgn y n)) d
    r < 0 || (z && m == 0 && n == 0 && x && !y)
  | _, _ => false

/-- minimum and maximum of IEEE 754-2019 on bits `x` and `y`. -/
def fpMinMax (f : Fmt) (free : Nat) (max : Bool) (x y : Nat) : FpRes :=
  match unpack f x, unpack f y with
  | .nan s, .nan t => f.nanOf free (s || t)
  | .nan s, _ | _, .nan s => f.nanOf free s
  | a, b => { bits := if fpLt true a b != max then x else y, flags := 0 }

/-- FCMP: REL 0 EQ, 1 LT, 2 LE, 3 unordered; the truth and the flags. -/
def fpCmp (rel : Nat) (a b : Fp) : Bool × Nat :=
  let isNan := fun (x : Fp) => match x with | .nan _ => true | _ => false
  let isSig := fun (x : Fp) => match x with | .nan s => s | _ => false
  if isNan a || isNan b then
    (rel == 3, if isSig a || isSig b || ((rel == 1 || rel == 2) && Config.fcmpSignaling) then fNV else 0)
  else
    let lt := fpLt false a b
    let gt := fpLt false b a
    (match rel with | 0 => !lt && !gt | 1 => lt | 2 => !gt | _ => false, 0)

/-- A datum in another format. -/
def fpConv (f : Fmt) (rm free : Nat) : Fp → FpRes
  | .nan s => f.nanOf free s
  | .inf x => f.inf x
  | .fin x m e => pack f rm x m e

/-- A datum as a signed 64-bit integer: out-of-range values saturate and are invalid; a NaN is invalid and its value free. -/
def fpToInt (rm free : Nat) : Fp → FpRes
  | .nan _ => { bits := free % 2 ^ 64, flags := fNV }
  | .inf x => { bits := if x then 2 ^ 63 else 2 ^ 63 - 1, flags := fNV }
  | .fin x m e =>
    let (r, inexact) := roundTo rm x m e 0
    let (v, out) := satI 64 (sgn x r)
    { bits := (ofI v).toNat, flags := if out then fNV else if inexact then fNX else 0 }

/-- A signed integer in a format. -/
def fpOfInt (f : Fmt) (rm : Nat) (v : Int) : FpRes := packI f rm v 0 false

/-! ## Floating-point registers (R164) -/

/-- The bits of a binary32 operand: the default NaN where [63:32] is not all ones. -/
def unbox32 (v : Word) : Nat := if fld v 32 32 = 0xFFFFFFFF then fld v 0 32 else fmt32.nan

/-- A binary32 result in an f register. -/
def box32 (x : Nat) : Word := BitVec.ofNat 64 (0xFFFFFFFF * 2 ^ 32 + x % 2 ^ 32)

/-- The format that FN[6] selects. -/
def fmtOf (dbl : Bool) : Fmt := if dbl then fmt64 else fmt32

/-- The bits of an operand. -/
def fbits (dbl : Bool) (v : Word) : Nat := if dbl then v.toNat else unbox32 v

/-- A result in an f register. -/
def fbox (dbl : Bool) (x : Nat) : Word := if dbl then BitVec.ofNat 64 x else box32 x

/-- A binary16 value as the binary32 value it equals; a NaN keeps its sign and payload. -/
def widen16 (x : Nat) : Nat :=
  match unpack fmt16 x with
  | .nan _ => fmt32.withSign (x.testBit 15) (fmt32.infBits + x % 2 ^ 10 * 2 ^ 13)
  | .inf s => (fmt32.inf s).bits
  | .fin s m e => (pack fmt32 0 s m e).bits

end Sys2Proof.Machine
end

