-- ==== Sys2Proof/Machine/CoreRun.lean ====
section
/-! DEFINITION. Executing one instruction on a core: checks at ID, guard, extended state, retirement, loop ends, prediction (R129 to R157,
R169 to R175, R179, R198, R228 to R232, R477, R480). -/

namespace Sys2Proof.Machine

/-! ## What an instruction comes to -/

/-- What executing an instruction comes to: it retires and goes on at the next instruction or at a target; it retires as a mode write;
it raises a fault and does not commit; it holds at ID; or its routine has ended it. -/
inductive Exe where
  | done (s : State) (next : Option Word)
  | mode (s : State) (n : Nat) (v : Word)
  | fault (s : State) (f : Flt)
  | hold (s : State)
  | over (s : State)

/-- An instruction as ID sees it: whether its encoding is assigned, whether it is of class B, K or C, its length in words, whether it
uses extended state, the general registers it writes, and what a false guard does beside retiring it (a predicted transfer's history). -/
structure Ins where
  legal : Bool := true
  ctl : Bool := false
  words : Nat := 1
  ext : Bool := false
  dst : List R5 := []
  miss : State → State := id

/-- The current bank of a core. -/
def curBank (s : State) (c : Nat) : Bank := (getCore s c).bank (getCore s c).cur

/-- The current bank of a core replaced. -/
def setCur (s : State) (c : Nat) (b : Bank) : State := setCore s c ((getCore s c).setBank (getCore s c).cur b)

/-- A general register of the current bank. -/
def rg (s : State) (c : Nat) (r : R5) : Word := (curBank s c).rg r.toNat

/-- A general register of the current bank written. -/
def wg (s : State) (c : Nat) (r : R5) (v : Word) : State := setCur s c ((curBank s c).wg r.toNat v)

/-! ## Hardware loops (R169, R170) -/

/-- Whether an active loop level of a bank ends at an address. -/
def Bank.loopEndAt (b : Bank) (pc : Word) : Bool :=
  (upto 2).any fun k => nth b.lcount 0 k != 0 && nth b.lend 0 k == pc

/-- One level of the loop-end test: LCOUNT counts down, in place of a mode write still in shadow; the back-edge target, if the level goes
on. -/
def Bank.loopStep (b : Bank) (pc : Word) (k : Nat) : Bank × Option Word :=
  if nth b.lcount 0 k != 0 && nth b.lend 0 k == pc then
    let n := nth b.lcount 0 k - 1
    (dropShadow { b with lcount := listSet b.lcount k n } (0x1A + 4 * k), if n = 0 then none else some (nth b.lstart 0 k))
  else (b, none)

/-- The loop-end test (R169): the inner level first. -/
def Bank.loopTest (b : Bank) (pc : Word) : Bank × Option Word :=
  match b.loopStep pc 1 with
  | (b, some t) => (b, some t)
  | (b, none) => b.loopStep pc 0

/-! ## Retirement -/

/-- Where a fetch queue that starts with the instruction at `pc` goes on after it: the words behind it, and the address that follows. -/
def afterHead (k : CoreSt) (pc : Word) (words : Nat) : List (Word × W32) × Option Word :=
  match k.fetchQ with
  | [] => ([], k.fetchPc)
  | e :: t =>
    let rest := if e.1 = pc then (e :: t).drop words else []
    (rest, match rest with
      | [] => if e.1 = pc then k.fetchPc else none
      | x :: _ => some x.1)

/-- The fetched words that an instruction used leave the queue; where the fetch does not go on at `np`, the rest is killed (R133). -/
def fetchAdvance (s : State) (c : Nat) (pc np : Word) (words : Nat) : State :=
  let k := getCore s c
  let (rest, next) := afterHead k pc words
  if next = some np then setCore s c { k with fetchQ := rest, pdPos := k.pdPos - words }
  else
    let s := killFetch s c
    setCore s c { getCore s c with fetchPc := some np }

/-- The pending arithmetic exceptions of a bank come one retired instruction closer (R229). -/
def impreciseTick (l : List Imprecise) : List Imprecise :=
  l.map fun e =>
    match e with
    | .arith sub pc left => .arith sub pc (left - 1)
    | .store a sub pc => .store a sub pc

/-- STEP (R480): the instruction that a step waits for has retired. -/
def stepDone (s : State) (c l : Nat) : State :=
  if (getCore s c).stepping && l < monLevel s c then
    let s := raiseDbg s c 5 0 0
    setCore s c { getCore s c with stepping := false }
  else s

/-- The instruction of the current bank retires: counted, the loop-end test runs, the PC advances, mode writes in shadow come closer. -/
def retire (s : State) (c : Nat) (words : Nat) (next : Option Word) : State :=
  let k := getCore s c
  let l := k.cur
  let pc := (k.bank l).pc
  let s := issueFetch (countEvt s c 0x02 1 { curCtx s c with addr := some pc.toNat }) c pc words
  let k := getCore s c
  let (b, back) := (k.bank l).loopTest pc
  let np := match back with
    | some t => t
    | none => next.getD (pc + adr (4 * words))
  let b := { b with pc := np, imprecise := impreciseTick b.imprecise }
  let s := fetchAdvance (setCore s c (k.setBank l b)) c pc np words
  let k := getCore s c
  let k := { tickShadow k l with
    ibpSkip := if k.ibpSkip = some pc then none else k.ibpSkip
    pair := k.pairNew
    pairNew := [] }
  stepDone (setCore s c k) c l

/-! ## Debug comparators (R477) -/

/-- Whether the debug comparators of a core match at all: FULL is held, bank L_D is enabled, and the current level lies below it. -/
def dbgArmed (s : State) (c : Nat) : Bool :=
  coreGrant s c == 2 && rb s (Reg.SCHED_LVLEN c) (monLevel s c) && (getCore s c).cur < monLevel s c

/-- The instruction breakpoint that the next instruction meets. -/
def ibpHit (s : State) (c : Nat) : Option Nat :=
  let pc := (curBank s c).pc
  if !dbgArmed s c || (getCore s c).ibpSkip == some pc then none
  else (upto 4).find? fun i => rb s (Reg.CDBG_IBP c i) 0 && rf s (Reg.CDBG_IBP c i) 2 46 == fld pc 2 46

/-- The watchpoint whose range an access touches: WPA [56] LOAD, [57] STORE, [63] EN. -/
def wpHit (s : State) (c va n : Nat) (store : Bool) : Option Nat :=
  if !dbgArmed s c then none
  else (upto 2).find? fun j =>
    let a := rd s (Reg.CDBG_WPA c j)
    bit a 63 && bit a (if store then 57 else 56) && fld a 0 48 < va + n && va ≤ rf s (Reg.CDBG_WPB c j) 0 48

/-- A load or store that a watchpoint matches raises WP; the access is performed (R478). -/
def watch (s : State) (c va n : Nat) (store : Bool) : State :=
  match wpHit s c va n store with
  | some j => raiseDbg s c 4 (adr va) j
  | none => s

/-! ## Extended state (R173 to R175) -/

/-- What the lazy sequence comes to: extended state is available; the sequence waits, or a bank switch has abandoned it; a fault. -/
inductive Lazy where
  | ready (s : State)
  | wait (s : State)
  | fault (s : State) (f : Flt)

/-- A save that a switch abandons at a line boundary (R174, R242): some of the area's eight lines are written, how many is a free value;
XOWN and the owner's registers stay. -/
def saveCut (s : State) (c : Nat) : State :=
  let k := getCore s c
  let a := xsaveAddr k (fld k.xown 0 3)
  let (v, s) := takeFree s
  match xsaveErr s c a 2 with
  | some _ => s
  | none =>
    match memWriteBy s c a ((xstateBytes k).take (64 * (v % 8 + 1))) with
    | .error _ => s
    | .ok t => t

/-- The load phase; a switch that falls in it leaves LOADED 0 (R174). -/
def lazyLoad (s : State) (c l : Nat) (cut : Bool) : Lazy :=
  if cut && bit ((getCore s c).bank l).xsave 1 then .wait (setCore s c { getCore s c with xown := setBit (getCore s c).xown 3 false })
  else match xstateLoad s c l with
    | (t, some a) => .fault t (.plain xXSTATE (adr a))
    | (t, none) => .ready (countCur t c 0x11)

/-- The sequencer holds at the WAIT for the owner's Prism commands (R173, R239). -/
def lazyHold (s : State) (c : Nat) : State :=
  let k := getCore s c
  setCore s c { k with useq := some (k.useq.getD { addr := Config.lazyWait % patchLo, stack := [] }) }

/-- The sequence of R173 for the current bank. A level that preempts takes the switch at the next line boundary (R174): in the save phase, or
after it in the load phase, as a free value says (log entry 3). -/
def lazySeq (s : State) (c : Nat) : Lazy :=
  let k := getCore s c
  let l := k.cur
  let cut := (levelUp s c).isSome
  if k.avail then .ready s
  else if xstateOwned k l then .ready (countCur (setCore s c { k with avail := true }) c 0x11)
  else if !bit (k.bank l).xsave 0 then .fault s (.plain xXSTATE_DISABLED 0)
  else if !bit k.xown 3 then lazyLoad s c l cut
  else if !k.prismQ.isEmpty then .wait (lazyHold s c)
  else
    let s := setCore s c { k with useq := none }
    let (v, s) := if cut then takeFree s else (0, s)
    if cut && v % 2 == 0 then .wait (saveCut s c)
    else match xstateSave s c with
      | (t, some a) => .fault t (.plain xXSTATE (adr a))
      | (t, none) => lazyLoad t c l cut

/-! ## One instruction -/

/-- A fault at ID: LOOP_END also counts in LEFAULT (Table 6.10). -/
def loopEndFault (s : State) (c : Nat) (pc : Word) : State :=
  raiseFault (countReg s (Reg.LOOPS_LEFAULT c)) c (.plain xLOOP_END pc)

/-- What an executed instruction comes to, as a state. -/
def conclude (c words : Nat) : Exe → State
  | .done t next => retire t c words next
  | .mode t n v =>
    let l := (getCore t c).cur
    let u := retire t c words none
    setCore u c (shadowPut (getCore u c) l n v)
  | .fault t f => raiseFault t c f
  | .hold t => t
  | .over t => t

/-- The part of an instruction after its guard: a write of d0 to d7 in the trap window first spills (R157), extended state is made
available, then the operation. -/
def execute (s : State) (c : Nat) (i : Ins) (body : State → Exe) : State :=
  let need := (curBank s c).tw && i.dst.any fun r => isD r.toNat
  match (if need then spill s c else (s, none)) with
  | (t, some f) => raiseFault t c f
  | (t, none) =>
    if !i.ext then conclude c i.words (body t)
    else match lazySeq t c with
      | .ready u => conclude c i.words (body u)
      | .wait u => u
      | .fault u f => raiseFault u c f

/-- Whether an unassigned word lies at the PC in the fetch queue (R135, R179). -/
def illegalHead (s : State) (c : Nat) : Bool :=
  match (getCore s c).fetchQ with
  | [] => false
  | (a, w) :: _ => a == (curBank s c).pc && !encodingAssigned s c w

/-- What an instruction meets at ID before its encoding is judged (R229, R477). A core that cannot step leaves the command without
effect. -/
def atId (s : State) (c : Nat) (go : State → State) : State :=
  if !canStep (getCore s c) then s
  else if impreciseDue (curBank s c) then deliverImprecise s c
  else match ibpHit s c with
    | some j => raiseDbg s c 3 0 j
    | none => go s

/-- One instruction of a core (R135, R154, R170, R179). -/
def runInstr (s : State) (c : Nat) (g : Guard) (i : Ins) (body : State → Exe) : State :=
  atId s c fun s =>
    let b := curBank s c
    if !i.legal || illegalHead s c then raiseFault s c (.plain xILLEGAL 0)
    else if !b.guard g then retire (i.miss s) c i.words none
    else if i.ctl && b.loopEndAt b.pc then loopEndFault s c b.pc
    else execute s c i body

/-- XSTATE_LAZY (R173): the sequence alone, at the first use of extended state. -/
def execXstateLazy (c : CoreId) (s : State) : Out :=
  ok (if !canStep (getCore s c) then s
    else match lazySeq s c with
      | .ready u => u
      | .wait u => u
      | .fault u f => raiseFault u c f)

/-! ## Prediction (R139 to R143, R149) -/

/-- K of R140 for the context of a core's current bank. -/
def predKey (s : State) (c : Nat) : Nat :=
  let k := getCore s c
  let p := (coreOwner s c).getD 0
  let v := Config.random (nth k.psecret 0 p) % 2 ^ 64
  let n := (8 * k.cur + fld (k.bank k.cur).gtb 1 5) % 64
  (v * 2 ^ n) % 2 ^ 64 + v / 2 ^ (64 - n)

/-- The 14-bit context of a core's current bank (R139). -/
def predCtx (s : State) (c : Nat) : Nat :=
  let k := getCore s c
  256 * (coreOwner s c).getD 0 + 8 * fld (k.bank k.cur).gtb 1 5 + k.cur

/-- Set and tag of a PC under a key. -/
def btbSet (key : Nat) (pc : Word) : Nat := fld pc 6 9 ^^^ (key % 512)
def btbTag (key : Nat) (pc : Word) : Nat := fld pc 15 16 ^^^ (key / 512 % 65536)

/-- The direction counter's index. -/
def dirIdx (key : Nat) (pc : Word) (ghr : BitVec 12) : Nat := fld pc 2 12 ^^^ ghr.toNat ^^^ (key / 2 ^ 52 % 4096)

/-- Kinds of transfer of a BTB entry. -/
def kCond : Nat := 0
def kJump : Nat := 1
def kCall : Nat := 2
def kRet : Nat := 3
def kInd : Nat := 4

/-- A direction counter after an outcome. -/
def dirNext (n : Nat) (taken : Bool) : Nat := if taken then min 3 (n + 1) else n - 1

/-- The BTB entry of the transfer at a PC in a core's current context; the contexts of a partition whose secret is being replaced miss
(R139, R152). -/
def btbAt (s : State) (c : Nat) (pc : Word) : Option (Nat × BtbE) :=
  let k := getCore s c
  let key := predKey s c
  let ctx := predCtx s c
  if k.rekeyBusy.any fun r => r.1 == ctx / 256 then none
  else k.btb.find? fun e =>
    e.1 / 4 == btbSet key pc && e.2.tag == btbTag key pc && e.2.ctx == ctx && e.2.off == fld pc 2 4

/-- A BTB allocation for the transfer at a PC: the entry it has takes the target (log entry 105), else a free way of the set, else the one
that a free value names (log entry 16). In STATIC timing mode the BTB is not updated (R149). -/
def btbPut (s : State) (c : Nat) (pc : Word) (kind : Nat) (target : Word) : State :=
  let k := getCore s c
  let key := predKey s c
  let set := btbSet key pc
  let e : BtbE := { ctx := predCtx s c, tag := btbTag key pc, off := fld pc 2 4, kind := kind, target := target }
  if k.timing then s
  else match btbAt s c pc with
    | some (i, _) => setCore s c { k with btb := k.btb.set i e }
    | none =>
      match (upto 4).find? fun w => (k.btb.get? (4 * set + w)).isNone with
      | some w => setCore s c { k with btb := k.btb.set (4 * set + w) e }
      | none =>
        let (v, s) := takeFree s
        setCore s c { getCore s c with btb := (getCore s c).btb.set (4 * set + v % 4) e }

/-- The return stack after a push; a full stack loses its oldest entry (R142). -/
def Ras.push (r : Ras) (v : Word) : Ras :=
  let p := (r.ptr + 1) % 16
  { ent := listSet r.ent p v, ptr := p, depth := min 16 (r.depth + 1) }

/-- The return stack after a pop. -/
def Ras.pop (r : Ras) : Ras := if r.depth = 0 then r else { r with ptr := (r.ptr + 15) % 16, depth := r.depth - 1 }

/-- The entry pushed last. -/
def Ras.top (r : Ras) : Option Word := if r.depth = 0 then none else some (nth r.ent 0 r.ptr)

/-- The return stack after a transfer with an outcome. -/
def Ras.after (r : Ras) (kind : Nat) (taken : Bool) (pc : Word) : Ras :=
  if kind = kCall ∧ taken then r.push (pc + 4) else if kind = kRet ∧ taken then r.pop else r

/-- A global history after an outcome. -/
def ghrNext (h : BitVec 12) (taken : Bool) : BitVec 12 := BitVec.ofNat 12 (2 * h.toNat + taken.toNat)

/-- A checkpoint of a bank's speculative state (R143). -/
def Bank.mark (b : Bank) (pc next : Word) : Ckpt :=
  { pc := pc, next := next, ghr := b.sghr, ptr := b.sras.ptr, depth := b.sras.depth, top := nth b.sras.ent 0 b.sras.ptr }

/-- The speculative state restored from a checkpoint (R144). -/
def Bank.restore (b : Bank) (m : Ckpt) : Bank :=
  { b with sghr := m.ghr, sras := { ent := listSet b.sras.ent m.ptr m.top, ptr := m.ptr, depth := m.depth }, ckpts := [] }

/-- The committed history of a bank after a transfer (R144). -/
def Bank.commitXfer (b : Bank) (kind : Nat) (cond taken : Bool) : Bank :=
  { b with ghr := if cond then ghrNext b.ghr taken else b.ghr, ras := b.ras.after kind taken b.pc }

/-- The speculative history of a bank after a transfer at `pc`: `goes` says that it is passed as one that transfers, whether or not its target
is known, for the return stack (R142). -/
def Bank.guessXfer (b : Bank) (kind : Nat) (cond taken goes : Bool) (pc : Word) : Bank :=
  { b with sghr := if cond then ghrNext b.sghr taken else b.sghr, sras := b.sras.after kind goes pc }

/-- What a mispredicted transfer kills (R144): every younger instruction. Its own word stays until it retires; the speculative state is
that of its checkpoint, updated with the true outcome; fetch goes on at `next`. -/
def mispredicted (s : State) (c kind : Nat) (cond taken : Bool) (next : Word) (m : Ckpt) : State :=
  let s := countCur s c 0x04
  let k := getCore s c
  let b := ((k.bank k.cur).restore m).guessXfer kind cond taken taken m.pc
  let own := fun (e : Word × Nat × Nat) => e.1 == m.pc
  let s := setCore s c { k.setBank k.cur b with
    fetchQ := k.fetchQ.take 1
    fetchPc := some next
    pdPos := min 1 k.pdPos
    fetchEv := k.fetchEv.filter own }
  countFetches s c ((k.fetchEv.filter fun e => !own e).map fun e => (e.1, e.2.2))

/-- A transfer of the current bank resolves: its checkpoint is freed, and where it was mispredicted the younger instructions are killed. A
transfer that PD did not pass has neither. -/
def resolve (s : State) (c kind : Nat) (cond taken : Bool) (next : Word) : State :=
  let k := getCore s c
  let b := k.bank k.cur
  match b.ckpts with
  | [] => s
  | m :: rest =>
    if m.pc ≠ b.pc then s
    else if m.next = next then setCore s c (k.setBank k.cur { b with ckpts := rest })
    else mispredicted s c kind cond taken next m

/-- A control transfer that retires (R141 to R144): direction counter and history of a conditional one, the return stack, allocation in the
BTB of one that was taken, but for the direct jumps and CALLs, which PD allocates. In STATIC timing mode the tables are not updated
(R149). -/
def predict (s : State) (c : Nat) (kind : Nat) (cond taken direct : Bool) (target : Word) : State :=
  let k := getCore s c
  let b := k.bank k.cur
  let i := dirIdx (predKey s c) b.pc b.ghr
  let dir := if cond && !k.timing then k.dir.set i (dirNext (k.dir.get 1 i) taken) else k.dir
  let s := resolve (setCore s c { k with dir := dir }) c kind cond taken (if taken then target else b.pc + 4)
  let k := getCore s c
  let s := setCore s c (k.setBank k.cur ((k.bank k.cur).commitXfer kind cond taken))
  if taken && !(direct && (kind == kJump || kind == kCall)) then btbPut s c b.pc kind target else s

end Sys2Proof.Machine
end

