-- ==== Sys2Proof/Machine/CoreInt.lean ====
section
/-! DEFINITION. Integer, predicate, select, multiply, divide and fraction instructions, and the two-word forms (R182 to R186, R204). -/

namespace Sys2Proof.Machine

/-! ## How an instruction writes its result -/

/-- The instruction writes one general register and goes on. -/
def setReg (c : CoreId) (rd : R5) (f : State → Word) (t : State) : Exe := .done (wg t c rd (f t)) none

/-- The instruction as ID sees it, where it writes one general register. -/
def insReg (legal : Bool) (rd : R5) : Ins := { legal := legal, dst := [rd] }

/-- A one-word instruction that computes a general register from the state. -/
def runReg (s : State) (c : CoreId) (g : Guard) (legal : Bool) (rd : R5) (f : State → Word) : Out :=
  ok (runInstr s c g (insReg legal rd) (setReg c rd f))

/-- A two-word instruction that computes a general register from the state. -/
def runRegW (s : State) (c : CoreId) (g : Guard) (rd : R5) (f : State → Word) : Out :=
  ok (runInstr s c g { insReg true rd with words := 2 } (setReg c rd f))

/-! ## Integer ALU (Table 7.4) -/

/-- Leading zeros of an `n`-bit number. -/
def clz (n x : Nat) : Nat := if x = 0 then n else n - 1 - Nat.log2 x

/-- The field of `w` bits at `lsb` of a number, as EXT and EXTU take it; a width of 0 acts as 64. -/
def extField (x b : Nat) : Nat × Nat :=
  let lsb := b % 64
  let w := if b / 64 % 64 = 0 then 64 else b / 64 % 64
  (x / 2 ^ lsb % 2 ^ w, w)

/-- The operation of FN[5:0] on `n`-bit operands, PACKH apart. -/
def aluN {n : Nat} (f : Nat) (a b : BitVec n) : BitVec n :=
  let k := b.toNat % n
  match f with
  | 0x00 => a + b
  | 0x01 => a - b
  | 0x02 => a &&& b
  | 0x03 => a ||| b
  | 0x04 => a ^^^ b
  | 0x05 => a &&& ~~~b
  | 0x06 => a <<< k
  | 0x07 => a >>> k
  | 0x08 => a.sshiftRight k
  | 0x09 => a.rotateLeft k
  | 0x0A => if a.slt b then a else b
  | 0x0B => if a.slt b then b else a
  | 0x0C => if a.ult b then a else b
  | 0x0D => if a.ult b then b else a
  | 0x0E => BitVec.ofNat n (clz n a.toNat)
  | 0x0F => BitVec.ofNat n (popcount n a.toNat)
  | 0x11 => BitVec.ofNat n (leNat (leBytes (n / 8) a.toNat).reverse)
  | 0x12 =>
    let (x, w) := extField a.toNat b.toNat
    BitVec.ofInt n (if 2 * x < 2 ^ w then (x : Int) else (x : Int) - 2 ^ w)
  | _ => BitVec.ofNat n (extField a.toNat b.toNat).1

/-- PACKH (Table 7.4). -/
def packh (a b : Word) : Word := sextW 32 (fld a 0 16 + 2 ^ 16 * fld b 0 16)

/-- The result of an integer ALU function, in its W form where `w`. -/
def aluVal (w : Bool) (f : Nat) (a b : Word) : Word :=
  if f = 0x10 then packh a b
  else if w then (aluN f (a.setWidth 32) (b.setWidth 32)).signExtend 64
  else aluN f a b

/-- INT_ALU (R182). -/
def execIntAlu (c : CoreId) (g : Guard) (fn : BitVec 7) (rd ra rb : R5) (s : State) : Out :=
  runReg s c g (aluLegal fn rb) rd fun t => aluVal (64 ≤ fn.toNat) (fn.toNat % 64) (rg t c ra) (rg t c rb)

/-- ADDI (Table 7.5). -/
def execAddi (c : CoreId) (g : Guard) (rd ra : R5) (imm : BitVec 12) (s : State) : Out :=
  runReg s c g true rd fun t => rg t c ra + sImm imm

/-- ANDI (Table 7.5). -/
def execAndi (c : CoreId) (g : Guard) (rd ra : R5) (imm : BitVec 12) (s : State) : Out :=
  runReg s c g true rd fun t => rg t c ra &&& sImm imm

/-- ORI (Table 7.5). -/
def execOri (c : CoreId) (g : Guard) (rd ra : R5) (imm : BitVec 12) (s : State) : Out :=
  runReg s c g true rd fun t => rg t c ra ||| zImm imm

/-- XORI (Table 7.5). -/
def execXori (c : CoreId) (g : Guard) (rd ra : R5) (imm : BitVec 12) (s : State) : Out :=
  runReg s c g true rd fun t => rg t c ra ^^^ zImm imm

/-- SHI (Table 7.5). -/
def execShi (c : CoreId) (g : Guard) (rd ra : R5) (imm : BitVec 12) (s : State) : Out :=
  runReg s c g (shiLegal imm) rd fun t =>
    aluVal (imm.getLsbD 9) (6 + imm.toNat / 1024) (rg t c ra) (BitVec.ofNat 64 (imm.toNat % 64))

/-! ## Compares, predicates, selects (R183 to R185) -/

/-- The two predicates of a compare written: PD gets the outcome and PN, where it is not p0, its inverse. -/
def setPreds (c : CoreId) (pd pn : BitVec 3) (v : Bool) (t : State) : State :=
  let b := (curBank t c).setPred pd.toNat v
  setCur t c (if pn = 0 then b else b.setPred pn.toNat !v)

/-- The width of a compare. -/
def cmpWidth (w : Bool) : Nat := if w then 32 else 64

/-- CMP (R183). -/
def execCmp (c : CoreId) (g : Guard) (pd pn : BitVec 3) (ra rb : R5) (cond : BitVec 4) (imm w : Bool) (s : State) : Out :=
  ok (runInstr s c g { legal := cmpLegal pd pn cond } fun t =>
    let b := if imm then sImm rb else rg t c rb
    .done (setPreds c pd pn (condHolds (cmpWidth w) cond.toNat (rg t c ra) b) t) none)

/-- The predicate functions (R184). -/
def predOp (f : Nat) (a b : Bool) : Bool :=
  match f with
  | 0 => a && b
  | 1 => a || b
  | 2 => a != b
  | 3 => a && !b
  | _ => !a

/-- PREDICATE_OP (R184). -/
def execPredicateOp (c : CoreId) (g : Guard) (pd pa pb fn : BitVec 3) (s : State) : Out :=
  ok (runInstr s c g { legal := fn.toNat < 4 || (fn == 4 && pb == 0) } fun t =>
    let b := curBank t c
    .done (setCur t c (b.setPred pd.toNat (predOp fn.toNat (b.pred pa.toNat) (b.pred pb.toNat)))) none)

/-- The predicate that SEL and CMOV test, with its sense. -/
def selCond (t : State) (c : CoreId) (neg : Bool) (ps : BitVec 3) : Bool := (curBank t c).pred ps.toNat != neg

/-- SEL (R185). -/
def execSel (c : CoreId) (g : Guard) (neg : Bool) (ps : BitVec 3) (rd ra rb : R5) (s : State) : Out :=
  runReg s c g true rd fun t => if selCond t c neg ps then rg t c ra else rg t c rb

/-- CMOV (R185). -/
def execCmov (c : CoreId) (g : Guard) (neg : Bool) (ps : BitVec 3) (rd ra : R5) (s : State) : Out :=
  runReg s c g true rd fun t => if selCond t c neg ps then rg t c ra else rg t c rd

/-! ## Multiply and divide (Table 7.6) -/

/-- The multiply functions. -/
def mulVal (f : Nat) (a b : Word) : Word :=
  match f with
  | 0 => a * b
  | 1 => ofI (a.toInt * b.toInt / 2 ^ 64)
  | 2 => BitVec.ofNat 64 (a.toNat * b.toNat / 2 ^ 64)
  | 3 => ofI (sintOf 32 a * sintOf 32 b)
  | _ => BitVec.ofNat 64 (uintOf 32 a * uintOf 32 b)

/-- MUL (R186). -/
def execMul (c : CoreId) (g : Guard) (fn : BitVec 7) (rd ra rb : R5) (s : State) : Out :=
  runReg s c g (fn.toNat ≤ 4) rd fun t => mulVal fn.toNat (rg t c ra) (rg t c rb)

/-- The divide functions on `w`-bit operands, the divisor not 0: quotient toward zero, remainder with the sign of the dividend; the most
negative value by −1 wraps (R186). -/
def divVal (w f : Nat) (a b : Word) : Word :=
  match f with
  | 0 => sextW w (ofI ((sintOf w a).tdiv (sintOf w b))).toNat
  | 1 => zextW w (uintOf w a / uintOf w b)
  | 2 => sextW w (ofI ((sintOf w a).tmod (sintOf w b))).toNat
  | _ => zextW w (uintOf w a % uintOf w b)

/-- An arithmetic exception under IMPRECISE becomes pending, unless one is (R229); the instruction that raises it retires once more. -/
def Bank.pendArith (b : Bank) (sub : Nat) : Bank :=
  let have_ := b.imprecise.any fun e =>
    match e with
    | .arith .. => true
    | .store .. => false
  if have_ then b else { b with imprecise := b.imprecise ++ [.arith sub b.pc 17] }

/-- DIV_ZERO under the bank's AMODE (R186, R228, R229). -/
def divZero (t : State) (c : CoreId) : Exe :=
  let b := curBank t c
  if b.imp then .done (setCur t c (b.pendArith 32)) none else .fault t { cause := xARITH, sub := 32, t1 := b.pc }

/-- DIV (R186). -/
def execDiv (c : CoreId) (g : Guard) (fn : BitVec 7) (rd ra rb : R5) (s : State) : Out :=
  let w := if 64 ≤ fn.toNat then 32 else 64
  ok (runInstr s c g (insReg (fn.toNat % 64 < 4) rd) fun t =>
    if uintOf w (rg t c rb) = 0 then divZero t c
    else .done (wg t c rd (divVal w (fn.toNat % 64) (rg t c ra) (rg t c rb))) none)

/-! ## Fraction arithmetic (Table 7.6) -/

/-- The fraction functions: the exact value held in 16 or 32 bits, and whether it saturated. -/
def fracVal (f rnd : Nat) (a b : Word) : Int × Bool :=
  match f with
  | 0 => satI 16 (sintOf 16 a + sintOf 16 b)
  | 1 => satI 16 (sintOf 16 a - sintOf 16 b)
  | 2 => satI 32 (sintOf 32 a + sintOf 32 b)
  | 3 => satI 32 (sintOf 32 a - sintOf 32 b)
  | 4 => satI 16 (-(sintOf 16 a))
  | 5 => satI 32 (-(sintOf 32 a))
  | 6 => satI 16 (sintOf 16 a).natAbs
  | 7 => satI 32 (sintOf 32 a).natAbs
  | 8 => roundSat 16 rnd 16 (sintOf 16 a * sintOf 16 b * 2)
  | _ => roundSat 32 rnd 32 (sintOf 32 a * sintOf 32 b * 2)

/-- STATUS.SAT of the current bank set where a result saturated. -/
def noteSat (t : State) (c : Nat) (sat : Bool) : State := if sat then setCur t c (curBank t c).setSat else t

/-- A fraction result written to a general register. -/
def setFrac (t : State) (c : CoreId) (rd : R5) (r : Int × Bool) : Exe := .done (noteSat (wg t c rd (ofI r.1)) c r.2) none

/-- FRACTION_OP (R186). -/
def execFractionOp (c : CoreId) (g : Guard) (fn : BitVec 7) (rd ra rb : R5) (s : State) : Out :=
  ok (runInstr s c g (insReg (fn.toNat ≤ 9) rd) fun t =>
    setFrac t c rd (fracVal fn.toNat (curBank t c).rnd (rg t c ra) (rg t c rb)))

/-! ## Two-word forms (Table 7.16) -/

/-- LI. -/
def execLi (c : CoreId) (g : Guard) (rd : R5) (imm : W32) (s : State) : Out :=
  runRegW s c g rd fun _ => sImm imm

/-- LIH. -/
def execLih (c : CoreId) (g : Guard) (rd : R5) (imm : W32) (s : State) : Out :=
  runRegW s c g rd fun t => setFld (rg t c rd) 32 32 imm.toNat

/-- ADDW. -/
def execAddw (c : CoreId) (g : Guard) (rd ra : R5) (imm : W32) (s : State) : Out :=
  runRegW s c g rd fun t => rg t c ra + sImm imm

/-- ANDW. -/
def execAndw (c : CoreId) (g : Guard) (rd ra : R5) (imm : W32) (s : State) : Out :=
  runRegW s c g rd fun t => rg t c ra &&& sImm imm

/-- ORW. -/
def execOrw (c : CoreId) (g : Guard) (rd ra : R5) (imm : W32) (s : State) : Out :=
  runRegW s c g rd fun t => rg t c ra ||| zImm imm

/-- CMPW. -/
def execCmpw (c : CoreId) (g : Guard) (pd pn : BitVec 3) (ra : R5) (cond : BitVec 4) (w : Bool) (imm : W32) (s : State) : Out :=
  ok (runInstr s c g { legal := cmpLegal pd pn cond, words := 2 } fun t =>
    .done (setPreds c pd pn (condHolds (cmpWidth w) cond.toNat (rg t c ra) (sImm imm)) t) none)

end Sys2Proof.Machine
end

