-- ==== Sys2Proof/Machine/CoreAcc.lean ====
section
/-! DEFINITION. Accumulators, MAC, MACX and the accesses through address generators (R165 to R168, R187 to R191). -/

namespace Sys2Proof.Machine

/-! ## Accumulators -/

/-- One accumulator. -/
def acGet (t : State) (c : Nat) (a : BitVec 2) : BitVec 72 := nth (getCore t c).ac 0 a.toNat

/-- One accumulator replaced. -/
def acPut (t : State) (c : Nat) (a : BitVec 2) (v : BitVec 72) : State :=
  let k := getCore t c
  setCore t c { k with ac := listSet k.ac a.toNat v }

/-- An accumulator takes a number, held in the 72-bit range; SAT where it lay outside (R165). -/
def acSat (t : State) (c : Nat) (a : BitVec 2) (v : Int) : State :=
  let r := satI 72 v
  noteSat (acPut t c a (BitVec.ofInt 72 r.1)) c r.2

/-- An instruction that writes a general register from an accumulator. -/
def insAcRd (rd : R5) : Ins := { ext := true, dst := [rd] }

/-- An instruction that writes an accumulator. -/
def insAc : Ins := { ext := true }

/-- ACRD15: rounded to Q15 at bit 48 (Table 7.7). -/
def execAcrd15 (c : CoreId) (g : Guard) (rd : R5) (ac : BitVec 2) (s : State) : Out :=
  ok (runInstr s c g (insAcRd rd) fun t => setFrac t c rd (roundSat 16 (curBank t c).rnd 48 (acGet t c ac).toInt))

/-- ACRD31: rounded to Q31 at bit 32 (Table 7.7). -/
def execAcrd31 (c : CoreId) (g : Guard) (rd : R5) (ac : BitVec 2) (s : State) : Out :=
  ok (runInstr s c g (insAcRd rd) fun t => setFrac t c rd (roundSat 32 (curBank t c).rnd 32 (acGet t c ac).toInt))

/-- ACRD63: held in the Q63 range (Table 7.7). -/
def execAcrd63 (c : CoreId) (g : Guard) (rd : R5) (ac : BitVec 2) (s : State) : Out :=
  ok (runInstr s c g (insAcRd rd) fun t => setFrac t c rd (satI 64 (acGet t c ac).toInt))

/-- ACRDL: bits [63:0], raw (Table 7.7). -/
def execAcrdl (c : CoreId) (g : Guard) (rd : R5) (ac : BitVec 2) (s : State) : Out :=
  ok (runInstr s c g (insAcRd rd) (setReg c rd fun t => (acGet t c ac).setWidth 64))

/-- ACRDG: the guard bits, sign-extended (Table 7.7). -/
def execAcrdg (c : CoreId) (g : Guard) (rd : R5) (ac : BitVec 2) (s : State) : Out :=
  ok (runInstr s c g (insAcRd rd) (setReg c rd fun t => ofI ((acGet t c ac).toInt / 2 ^ 64)))

/-- ACWR (Table 7.7). -/
def execAcwr (c : CoreId) (g : Guard) (ra : R5) (ac : BitVec 2) (s : State) : Out :=
  ok (runInstr s c g insAc fun t => .done (acPut t c ac ((rg t c ra).signExtend 72)) none)

/-- ACWRG: the guard bits replaced (Table 7.7). -/
def execAcwrg (c : CoreId) (g : Guard) (ra : R5) (ac : BitVec 2) (s : State) : Out :=
  ok (runInstr s c g insAc fun t =>
    .done (acPut t c ac (BitVec.ofNat 72 ((acGet t c ac).toNat % 2 ^ 64 + 2 ^ 64 * fld (rg t c ra) 0 8))) none)

/-- A shift by a signed count: to the left where it is positive (Table 7.7). -/
def shiftI (v n : Int) : Int := if 0 ≤ n then v * 2 ^ n.toNat else v / 2 ^ (-n).toNat

/-- ACSH (Table 7.7). -/
def execAcsh (c : CoreId) (g : Guard) (ac : BitVec 2) (rb : R5) (s : State) : Out :=
  ok (runInstr s c g insAc fun t => .done (acSat t c ac (shiftI (acGet t c ac).toInt (sintOf 7 (rg t c rb)))) none)

/-- ACADD: RB[4:2] must be 0 (Table 7.7). -/
def execAcadd (c : CoreId) (g : Guard) (ac : BitVec 2) (rb : R5) (s : State) : Out :=
  ok (runInstr s c g { insAc with legal := rb.toNat < 4 } fun t =>
    .done (acSat t c ac ((acGet t c ac).toInt + (acGet t c (rb.setWidth 2)).toInt)) none)

/-- ACCLR (Table 7.7). -/
def execAcclr (c : CoreId) (g : Guard) (ac : BitVec 2) (s : State) : Out :=
  ok (runInstr s c g insAc fun t => .done (acPut t c ac 0) none)

/-! ## Products (R187 to R189) -/

/-- Forms of a product sum, by MACX's codes; S16 is MAC's own. -/
inductive MacForm where
  | d16 | d16x | s32 | d16r | s16
  deriving DecidableEq, Repr

/-- FORM of MACX (Table 7.8). -/
def macxForm (f : BitVec 2) : MacForm :=
  match f.toNat with
  | 0 => .d16
  | 1 => .d16x
  | 2 => .s32
  | _ => .d16r

/-- FORM of MAC (R187); 3 is unassigned. -/
def macForm (f : BitVec 2) : MacForm :=
  match f.toNat with
  | 0 => .s16
  | 1 => .s32
  | _ => .d16

/-- The product sum of two 32-bit words (R189). -/
def macSum (f : MacForm) (int uns : Bool) (x y : Nat) : Int :=
  let h := fun (n : Nat) => n / 65536
  match f with
  | .d16 => m16 int uns x y + m16 int uns (h x) (h y)
  | .d16x => m16 int uns x (h y) + m16 int uns (h x) y
  | .d16r => m16 int uns x y - m16 int uns (h x) (h y)
  | .s32 => m32 int uns x y
  | .s16 => m16 int uns x y

/-- The accumulation (R189). -/
def accumulate (t : State) (c : Nat) (ac : BitVec 2) (sub clr : Bool) (p : Int) : State :=
  let a := if clr then 0 else (acGet t c ac).toInt
  acSat t c ac (if sub then a - p else a + p)

/-- MAC (R187). -/
def execMac (c : CoreId) (g : Guard) (ac : BitVec 2) (sub clr int : Bool) (ra rb : R5) (form : BitVec 2) (uns : Bool) (s : State) :
    Out :=
  ok (runInstr s c g { insAc with legal := form != 3 && (int || !uns) } fun t =>
    .done (accumulate t c ac sub clr (macSum (macForm form) int uns (uintOf 32 (rg t c ra)) (uintOf 32 (rg t c rb)))) none)

/-! ## TCM accesses through generators (R167, R168, R190, R191) -/

/-- A read of `n` bytes of a core's own X-TCM or Y-TCM; an offset that is not a multiple of the size raises ALIGN (log entry 53). -/
def tcmLoad (t : State) (c : Nat) (y : Bool) (off n : Nat) : State × Except Flt (List Byte) :=
  if off % n ≠ 0 then (t, .error (.plain xALIGN (adr off)))
  else
    let a := tcmAddr c y off
    let t := loadCheck t c a n
    if poisoned t (lineOf a) then (logErr t (poisonRec t c a), .error { cause := xDATA_BUS, sub := 1, t1 := adr off })
    else (t, .ok (rdBytes t a n))

/-- A write of bytes to a core's own X-TCM or Y-TCM. -/
def tcmStore (t : State) (c : Nat) (y : Bool) (off : Nat) (l : List Byte) : State × Option Flt :=
  if off % l.length ≠ 0 then (t, some (.plain xALIGN (adr off))) else (coreStore t c (tcmAddr c y off) l, none)

/-- Post-modify of a generator of the current bank, where it is selected. -/
def postMod (t : State) (c : Nat) (y : Bool) (i : BitVec 2) (pm : Bool) : State :=
  if pm then setCur t c ((curBank t c).postModify y i.toNat) else t

/-- A of a generator of the current bank. -/
def genOff (t : State) (c : Nat) (y : Bool) (i : BitVec 2) : Nat := genA ((curBank t c).gen y i.toNat)

/-- The special register that the instruction behind the one at the PC reads, if that is an MFSR which the queue already holds: it issues in
a pair with a MACX before it (R129, R130; log entry 107). -/
def pairedRead (k : CoreSt) : Option Nat :=
  match k.fetchQ with
  | (a, _) :: (_, w) :: _ =>
    if a ≠ (k.bank k.cur).pc then none
    else match decCtl 0 w with
      | some (.mfsr _ _ _ sr) => some sr.toNat
      | _ => none
  | _ => none

/-- What the instruction paired with a MACX reads of a generator that the MACX updates: its value before the update (R168). -/
def notePair (t : State) (c n : Nat) (upd : Bool) : State :=
  let k := getCore t c
  if upd ∧ pairedRead k = some n then setCore t c { k with pairNew := [(n, srGet k (k.bank k.cur) n)] } else t

/-- Both generators of a MACX after it: post-modified where selected. -/
def macxMod (t : State) (c : Nat) (xg yg : BitVec 2) (xpm ypm : Bool) : State :=
  let t := notePair (notePair t c (0x10 + xg.toNat) xpm) c (0x14 + yg.toNat) ypm
  postMod (postMod t c false xg xpm) c true yg ypm

/-- MACX (R188, R189). -/
def execMacx (c : CoreId) (g : Guard) (ac xg yg : BitVec 2) (xpm ypm : Bool) (form : BitVec 2) (sub int clr uns : Bool) (s : State) :
    Out :=
  ok (runInstr s c g { insAc with legal := int || !uns } fun t =>
    match tcmLoad t c false (genOff t c false xg) 4 with
    | (t, .error f) => .fault t f
    | (t, .ok x) =>
      match tcmLoad t c true (genOff t c true yg) 4 with
      | (t, .error f) => .fault t f
      | (t, .ok y) =>
        let t := macxMod t c xg yg xpm ypm
        let t := accumulate t c ac sub clr (macSum (macxForm form) int uns (leNat x) (leNat y))
        .done (countCur t c 0x17) none)

/-- LDT and STT (R191): U with ST or with 8 bytes is unassigned. -/
def execLdtStt (c : CoreId) (g : Guard) (rd : R5) (y : Bool) (gen : BitVec 2) (pm st : Bool) (size : BitVec 2) (uns : Bool) (s : State) :
    Out :=
  let n := sizeBytes size
  ok (runInstr s c g { legal := !uns || (!st && size != 3), dst := if st then [] else [rd] } fun t =>
    if st then
      match tcmStore t c y (genOff t c y gen) (leBytes n (rg t c rd).toNat) with
      | (t, some f) => .fault t f
      | (t, none) => .done (countCur (postMod t c y gen pm) c 0x1C) none
    else
      match tcmLoad t c y (genOff t c y gen) n with
      | (t, .error f) => .fault t f
      | (t, .ok l) => .done (countCur (wg (postMod t c y gen pm) c rd (extend n uns l)) c 0x1B) none)

end Sys2Proof.Machine
end

