-- ==== Sys2Proof/Machine/CoreLs.lean ====
section
/-! DEFINITION. Ordinary loads and stores, mirror accesses, load-locked and store-conditional, fences (R191 to R197, R328, R330). -/

namespace Sys2Proof.Machine

/-! ## Ordinary accesses (R191, R192) -/

/-- An event of a load or store that retires: its address and attribute pass the filters of R492. -/
def countAcc (t : State) (c code va attr : Nat) : State :=
  countEvt t c code 1 { curCtx t c with addr := some va, attr := some attr }

/-- An ordinary load of `n` bytes, with what its value is put to. -/
def loadBy (c n va : Nat) (put : State → List Byte → Exe) (t : State) : Exe :=
  if accessWaits t c (curBank t c).priv .load va n then .hold t
  else match hostAsk t c (curBank t c).priv va n with
  | some u => .hold u
  | none => match anyRead t c (curBank t c).priv va n with
  | (t, .error f) => .fault t f
  | (t, .ok (l, attr)) => put (watch (countAcc t c 0x1B va attr) c va n false) l

/-- An ordinary store of bytes, with what follows it. -/
def storeBy (c va : Nat) (l : List Byte) (after : State → State) (t : State) : Exe :=
  if accessWaits t c (curBank t c).priv .store va l.length then .hold t
  else match anyWrite t c (curBank t c).priv va l with
  | (t, .error f) => .fault t f
  | (t, .ok attr) => .done (after (watch (countAcc t c 0x1C va attr) c va l.length true)) none

/-- A loaded value, extended, written to a general register. -/
def putReg (c n : Nat) (uns : Bool) (rd : R5) (t : State) (l : List Byte) : Exe := .done (wg t c rd (extend n uns l)) none

/-- LOAD, majors 0x11 to 0x17 (R191); an unsigned double is none of them. -/
def execLoad (c : CoreId) (g : Guard) (size : BitVec 2) (uns : Bool) (rd ra : R5) (off : BitVec 12) (s : State) : Out :=
  let n := sizeBytes size
  ok (runInstr s c g (insReg (!(uns && size == 3)) rd) fun t => loadBy c n (offAddr (rg t c ra) off n) (putReg c n uns rd) t)

/-- STORE, majors 0x18 to 0x1B (R191). -/
def execStore (c : CoreId) (g : Guard) (size : BitVec 2) (rs ra : R5) (off : BitVec 12) (s : State) : Out :=
  let n := sizeBytes size
  ok (runInstr s c g {} fun t => storeBy c (offAddr (rg t c ra) off n) (leBytes n (rg t c rs).toNat) id t)

/-- LDX and STX (R191): FN [6] ST, [5:4] SIZE, [3] U, [2:1] SC, [0] 0. -/
def execLdxStx (c : CoreId) (g : Guard) (fn : BitVec 7) (rd ra rb : R5) (s : State) : Out :=
  let f := fn.toNat
  let st := f.testBit 6
  let n := 2 ^ (f / 16 % 4)
  let uns := f.testBit 3
  let legal := !f.testBit 0 && (!uns || (!st && f / 16 % 4 != 3))
  ok (runInstr s c g { legal := legal, dst := if st then [] else [rd] } fun t =>
    let va := (rg t c ra + rg t c rb <<< (f / 2 % 4)).toNat
    if st then storeBy c va (leBytes n (rg t c rd).toNat) id t else loadBy c n va (putReg c n uns rd) t)

/-! ## Mirror accesses (R193, R330) -/

/-- A MIRROR fault: logged, and reported with the core's name (R330). -/
def mirrorFault (t : State) (c va : Nat) : Exe :=
  let k := getCore t c
  let t := logErr t { errRec t 6 1 .core c with
    part := (coreOwner t c).getD 0xFF, initiator := 0x8000 + c, addr := va, pc := (k.bank k.cur).pc.toNat }
  .fault (smgReport t { Rep.plain 0 with core := c }) (.plain xMIRROR (adr va))

/-- Whether two 32-bit values are each other's complement. -/
def complements (lo hi : Word) : Bool := uintOf 32 hi == 0xFFFFFFFF - uintOf 32 lo

/-- LDMW (R193): RD = RK is unassigned. -/
def execLdmw (c : CoreId) (g : Guard) (rd ra rk : R5) (off : BitVec 6) (s : State) : Out :=
  ok (runInstr s c g { legal := rd != rk, dst := [rd, rk] } fun t =>
    let va := offAddr (rg t c ra) off 8
    match dataRead t c (curBank t c).priv va 8 .mirror with
    | (t, .error f) => .fault t f
    | (t, .ok (l, attr)) =>
      let v := BitVec.ofNat 64 (leNat l)
      if !mirrorOk v then mirrorFault t c va
      else
        let t := wg (wg t c rd (sextW 32 (fld v 0 32))) c rk (sextW 32 (fld v 32 32))
        .done (watch (countAcc t c 0x1D va attr) c va 8 false) none)

/-- The checks of STMW that come before its values are compared: alignment and attribute (R193). -/
def mirrorReach (t : State) (c priv va : Nat) : State × Option Flt :=
  if va % 8 ≠ 0 then (t, some (.plain xALIGN (adr va)))
  else
    match translate t c priv .store va 8 true with
    | (t, .error f) => let (t, x) := raiseXl t c f; (t, some x)
    | (t, .ok (pa, attr)) => (t, (wayFault .mirror pa attr).map fun x => .plain x (adr va))

/-- STMW (R193). -/
def execStmw (c : CoreId) (g : Guard) (rs ra rk : R5) (off : BitVec 6) (s : State) : Out :=
  ok (runInstr s c g {} fun t =>
    let va := offAddr (rg t c ra) off 8
    let lo := rg t c rs
    let hi := rg t c rk
    match mirrorReach t c (curBank t c).priv va with
    | (t, some f) => .fault t f
    | (t, none) =>
      if !complements lo hi then mirrorFault t c va
      else
        match dataWrite t c (curBank t c).priv va (leBytes 4 lo.toNat ++ leBytes 4 hi.toNat) .mirror true with
        | (t, .error f) => .fault t f
        | (t, .ok attr) => .done (watch (countAcc t c 0x1D va attr) c va 8 true) none)

/-! ## Load-locked and store-conditional (R194, R195) -/

/-- The checks that LDL and STC share: the physical address. -/
def lockedXl (t : State) (c priv : Nat) (acc : Acc) (va n : Nat) : State × Except Flt Nat :=
  if va % n ≠ 0 then (t, .error (.plain xALIGN (adr va)))
  else
    match translate t c priv acc va n false with
    | (t, .error f) => let (t, x) := raiseXl t c f; (t, .error x)
    | (t, .ok (pa, attr)) =>
      match wayFault .locked pa attr with
      | some x => (t, .error (.plain x (adr va)))
      | none => (t, .ok pa)

/-- The size of LDL and STC. -/
def lockedSize (d : Bool) : Nat := if d then 8 else 4

/-- Whether LDL waits for its line, which it obtains with ownership (R194), as `accessWaits` says of a store. -/
def ownWaits (t : State) (c va n : Nat) : Bool :=
  match (translate t c (curBank t c).priv .load va n false).2 with
  | .ok (pa, _) => areaOf pa == .dram && lineWaits t (agentOfCore c) (lineOf pa) true
  | .error _ => false

/-- The state in which LDL holds its line (Tables 11.1, 11.4): RdUnique grants E, or M where the owner's data was dirty; Upgrade grants M. -/
def ldlState (t : State) (a line : Nat) : LineSt :=
  let owner := ((getSl t (sliceOf line)).entry line).bind FiltE.owner
  match (getLn t a line).st with
  | .e => .e
  | .i => if owner.any fun o => (getLn t o line).st == .m || (getLn t o line).st == .o then .m else .e
  | _ => .m

/-- LDL obtains its line with ownership (R194), where the read that follows meets no error. -/
def obtainLine (t : State) (c va pa n : Nat) : State :=
  let a := agentOfCore c
  let line := lineOf pa
  if (storeErrc t c pa n).isSome || lineBad t line then t
  else
    let u := cacheLines t c va 0 true pa n
    if (getLn u a line).st = .m then setLn u a line { getLn u a line with st := ldlState t a line } else u

/-- LDL (R194). -/
def execLdl (c : CoreId) (g : Guard) (rd ra : R5) (d : Bool) (s : State) : Out :=
  let n := lockedSize d
  ok (runInstr s c g (insReg true rd) fun t =>
    let va := (rg t c ra).toNat
    if ownWaits t c va n then .hold t
    else match lockedXl t c (curBank t c).priv .load va n with
    | (t, .error f) => .fault t f
    | (t, .ok pa) =>
      match physRead (obtainLine t c va pa n) c va pa 0 n with
      | (t, .error f) => .fault t f
      | (t, .ok l) =>
        let t := wg t c rd (extend n false l)
        let t := setCore t c { getCore t c with resv := some (pa, va, n) }
        .done (watch (countAcc t c 0x1B va 0) c va n false) none)

/-- A core's reservation ends. -/
def dropOwnResv (t : State) (c : Nat) : State := setCore t c { getCore t c with resv := none }

/-- Whether the reservation of a core is of an address and a size (R194); a bank switch has cleared that of another bank (R195). -/
def reserved (t : State) (c va n : Nat) : Bool := (getCore t c).resv.any fun r => r.2 == (va, n)

/-- STC (R194): RD = RS is unassigned. -/
def execStc (c : CoreId) (g : Guard) (rd ra rs : R5) (d : Bool) (s : State) : Out :=
  let n := lockedSize d
  ok (runInstr s c g { legal := rd != rs, dst := [rd] } fun t =>
    let va := (rg t c ra).toNat
    let l := leBytes n (rg t c rs).toNat
    if reserved t c va n && accessWaits t c (curBank t c).priv .store va n then .hold t
    else match lockedXl t c (curBank t c).priv .store va n with
    | (t, .error f) => .fault t f
    | (t, .ok pa) =>
      if reserved t c va n then
        match physWrite t c va pa 0 l .locked false with
        | (t, some f) => .fault t f
        | (t, none) => .done (watch (countAcc (dropOwnResv (wg t c rd 1) c) c 0x1C va 0) c va n true) none
      else .done (countCur (countAcc (dropOwnResv (wg t c rd 0) c) c 0x1C va 0) c 0x1E) none)

/-! ## Fences (R196, R197) -/

/-- FENCE.ACQ: accesses are performed in program order here, so it only retires (log entry 54). -/
def execFenceAcq (c : CoreId) (g : Guard) (s : State) : Out := ok (runInstr s c g { ctl := true } fun t => .done t none)

/-- FENCE.REL. -/
def execFenceRel (c : CoreId) (g : Guard) (s : State) : Out := ok (runInstr s c g { ctl := true } fun t => .done t none)

/-- FENCE.ALL. -/
def execFenceAll (c : CoreId) (g : Guard) (s : State) : Out := ok (runInstr s c g { ctl := true } fun t => .done t none)

/-- A core's L1I and fetch queue catch up with its own stores (R197): its copies of the lines it wrote are invalidated. -/
def ownStores (k : CoreSt) : CoreSt :=
  { k.ownSt.foldl (fun x line => { x with l1i := (invLine x line).l1i }) k with ownSt := [] }

/-- IFENCE (R197, R277): what was fetched is killed, the core's own stores reach its fetches, a translation root that the bank wrote is in
force. -/
def execIfence (c : CoreId) (g : Guard) (s : State) : Out :=
  ok (runInstr s c g { ctl := true } fun t =>
    let k := getCore t c
    let b := { k.bank k.cur with
      gtb := if (k.bank k.cur).gtbWait then rd t (Reg.XL_GTB c k.cur) else (k.bank k.cur).gtb
      ptb := if (k.bank k.cur).ptbWait then rd t (Reg.XL_PTB c) else (k.bank k.cur).ptb
      gtbWait := false
      ptbWait := false }
    .done (killFetch (issueFetch (setCore t c (ownStores (k.setBank k.cur b))) c b.pc 1) c) none)

end Sys2Proof.Machine
end

