-- ==== Sys2Proof/Machine/CoreCtl.lean ====
section
/-! DEFINITION. Control transfers, calls and returns, hardware loops (R158 to R163, R169 to R171, R198 to R200). -/

namespace Sys2Proof.Machine

/-! ## Branches (R198) -/

/-- A control transfer as ID sees it; a conditional one that is not taken still trains the predictor. -/
def insXfer (c : CoreId) (g : Guard) (kind : Nat) : Ins :=
  { ctl := true, miss := fun t => if isCond g then predict t c kind true false false 0 else t }

/-- The target of a direct transfer. -/
def dispTarget (pc : Word) (disp : BitVec 22) : Word := pc + ofI (4 * disp.toInt)

/-- Whether a target is misaligned (R198). -/
def badTarget (a : Word) : Bool := fld a 0 2 != 0

/-- A jump to a target. -/
def jumpTo (c : CoreId) (g : Guard) (kind : Nat) (target : Word) (t : State) : Exe :=
  if badTarget target then .fault t (.plain xINSTR_ADDR target)
  else .done (predict t c kind (isCond g) true (kind != kInd) target) (some target)

/-- The kind of a direct branch. -/
def brKind (g : Guard) : Nat := if isCond g then kCond else kJump

/-- BR. -/
def execBr (c : CoreId) (g : Guard) (disp : BitVec 22) (s : State) : Out :=
  ok (runInstr s c g (insXfer c g (brKind g)) fun t => jumpTo c g (brKind g) (dispTarget (curBank t c).pc disp) t)

/-- JR. -/
def execJr (c : CoreId) (g : Guard) (ra : R5) (s : State) : Out :=
  ok (runInstr s c g (insXfer c g kInd) fun t => jumpTo c g kInd (rg t c ra) t)

/-! ## Calls (R160) -/

/-- A window pushed: the frame lies at `f`. DESIGN CHOICE: a mode write of DEPTH that is still in shadow stays there, and its value stands in
place of the count when it takes effect (R146, R155; log entry 97). -/
def Bank.pushed (b : Bank) (f : Word) : Bank :=
  let w := (b.cwp + 1) % 8
  dropShadow (dropShadow { b with
    cwp := w
    wres := b.wres + 1
    tw := false
    fb := listSet b.fb w f
    fpriv := listSet b.fpriv w b.priv
    wfb := f
    sp := listSet b.sp b.priv f
    depth := b.depth + 1 } 0x02) (0x04 + b.priv)

/-- The checks of a CALL that come before any effect (log entry 55): stack alignment, stack limit, target. -/
def callFault (b : Bank) (target : Word) : Option Flt :=
  let sp := nth b.sp 0 b.priv
  if fld sp 0 4 ≠ 0 then some (.plain xSTACK_ALIGN sp)
  else if (sp - 144).toNat < (nth b.slim 0 b.priv).toNat || b.depth == 0xFFFFFF then some (.plain xSTACK_LIMIT (sp - 144))
  else if badTarget target then some (.plain xINSTR_ADDR target)
  else none

/-- The frame stores of a CALL and its rotation. -/
def callPush (c : CoreId) (g : Guard) (direct : Bool) (target : Word) (t : State) : Exe :=
  let b := curBank t c
  let f := nth b.sp 0 b.priv - 144
  match store64 t c b.priv f.toNat (b.pc + 4) with
  | (u, some x) => .fault u x
  | (u, none) =>
    match store64 u c b.priv (f.toNat + 8) b.wfb with
    | (v, some x) => .fault (restoreMem t v) x
    | (v, none) =>
      let v := predict v c kCall (isCond g) true direct target
      .done (setCur v c ((curBank v c).pushed f)) (some target)

/-- call of R160. -/
def callTo (c : CoreId) (g : Guard) (direct : Bool) (target : Word) (t : State) : Exe :=
  match callFault (curBank t c) target with
  | some x => .fault t x
  | none =>
    match spillTo 6 c 8 t with
    | (t, some x) => .fault t x
    | (t, none) => callPush c g direct target t

/-- CALL. -/
def execCall (c : CoreId) (g : Guard) (disp : BitVec 22) (s : State) : Out :=
  ok (runInstr s c g (insXfer c g kCall) fun t => callTo c g true (dispTarget (curBank t c).pc disp) t)

/-- CALLR. -/
def execCallr (c : CoreId) (g : Guard) (ra : R5) (s : State) : Out :=
  ok (runInstr s c g (insXfer c g kCall) fun t => callTo c g false (rg t c ra) t)

/-! ## Returns (R161) -/

/-- The window below becomes current: `pf` is its frame base; a write of DEPTH in shadow as for a push (log entry 97). -/
def Bank.popped (b : Bank) (pf : Word) : Bank :=
  dropShadow (dropShadow { b with
    cwp := (b.cwp + 7) % 8
    wres := if b.wres = 1 then 1 else b.wres - 1
    tw := false
    wfb := pf
    sp := listSet b.sp b.priv (b.wfb + 144)
    depth := b.depth - 1 } 0x02) (0x04 + b.priv)

/-- The frame base of the window below: read from the frame and the window filled where it is not resident. `fp` is the privilege that the
fill is checked with; the frame itself is read with the current one. -/
def below (t : State) (c fp : Nat) : State × Except Flt Word :=
  let b := curBank t c
  if b.wres = 1 then
    match load64 t c b.priv (b.wfb.toNat + 8) with
    | (t, .error x) => (t, .error x)
    | (t, .ok pf) =>
      match fill t c fp pf with
      | (t, some x) => (t, .error x)
      | (t, none) => (t, .ok pf)
  else (t, .ok (nth b.fb 0 ((b.cwp + 7) % 8)))

/-- Whether releasing the current frame would put sp below its limit (R158, log entry 55). -/
def Bank.popLow (b : Bank) : Bool := (b.wfb + 144).toNat < (nth b.slim 0 b.priv).toNat

/-- ret of R161. -/
def retBody (c : CoreId) (g : Guard) (t : State) : Exe :=
  let b := curBank t c
  if b.depth = 0 then .fault t (.plain xRET_UNDERFLOW 0)
  else
    match load64 t c b.priv b.wfb.toNat with
    | (t, .error x) => .fault t x
    | (t, .ok ra) =>
      if badTarget ra then .fault t (.plain xINSTR_ADDR ra)
      else if b.popLow then .fault t (.plain xSTACK_LIMIT (b.wfb + 144))
      else
        match below t c b.priv with
        | (t, .error x) => .fault t x
        | (t, .ok pf) =>
          let t := predict t c kRet (isCond g) true false ra
          .done (setCur t c ((curBank t c).popped pf)) (some ra)

/-- RET. -/
def execRet (c : CoreId) (g : Guard) (s : State) : Out := ok (runInstr s c g (insXfer c g kRet) (retBody c g))

/-! ## Hardware loops (R169, R200) -/

/-- A loop level set in one step; mode writes of its registers that are still in shadow come before it in program order. -/
def Bank.setLoop (b : Bank) (k n : Nat) (last : Word) : Bank :=
  let b := dropShadow (dropShadow (dropShadow b (0x18 + 4 * k)) (0x19 + 4 * k)) (0x1A + 4 * k)
  { b with
    lstart := listSet b.lstart k (b.pc + 4)
    lend := listSet b.lend k last
    lcount := listSet b.lcount k n }

/-- The size in bytes of the instruction at an address, as a fetch would find it (R178); 4 where it cannot be read (log entry 56). -/
def instrSize (s : State) (c : Nat) (va : Word) : Nat :=
  match (translate s c (curBank s c).priv .fetch va.toNat 4 false).2 with
  | .error _ => 4
  | .ok (pa, _) =>
    match memRead s (coreAddr c pa) 4 with
    | .err _ => 4
    | .data l _ => if isWide (BitVec.ofNat 32 (leNat l)) then 8 else 4

/-- LOOP (R200): a count of 0 continues after LEND. -/
def execLoop (c : CoreId) (g : Guard) (lv i : Bool) (cnt : BitVec 10) (cr : R5) (endOff : BitVec 10) (s : State) : Out :=
  ok (runInstr s c g {} fun t =>
    let b := curBank t c
    let n := if i then cnt.toNat else uintOf 32 (rg t c cr)
    let last := b.pc + 4 + adr (4 * endOff.toNat)
    .done (setCur t c (b.setLoop lv.toNat n last)) (if n = 0 then some (last + adr (instrSize t c last)) else none))

end Sys2Proof.Machine
end

