-- ==== Sys2Proof/Machine/CoreSys.lean ====
section
/-! DEFINITION. Special registers, system instructions, return from exception and from the double-fault handler, the scheduler's bank
switch (R112 to R118, R146, R155, R176, R201, R202, R221, R222, R225, R480). -/

namespace Sys2Proof.Machine

/-! ## Special registers (R155, R201) -/

/-- A privilege fault. -/
def privFault (t : State) : Exe := .fault t (.plain xPRIVILEGE 0)

/-- The value that MFSR reads of a special register: a generator as the MACX paired with it found it (R168). -/
def mfsrVal (t : State) (c n : Nat) : Word :=
  match (getCore t c).pair.find? fun e => e.1 == n with
  | some e => e.2
  | none => srGet (getCore t c) (curBank t c) n

/-- MFSR (R201): while a mode write of the register is in shadow, its previous value (R146, log entry 57). -/
def execMfsr (c : CoreId) (g : Guard) (rd : R5) (sr : BitVec 6) (s : State) : Out :=
  let n := sr.toNat
  ok (runInstr s c g { legal := srListed n, dst := [rd], ext := srExt n } fun t =>
    if (curBank t c).priv < srReadPriv n then privFault t
    else .done (wg t c rd (mfsrVal t c n)) none)

/-- ML in force at once (R117), in STATUS writes still in shadow too. -/
def Bank.setMl (b : Bank) (v : Word) : Bank :=
  let m := min 6 (fld v 2 3)
  { b with
    status := setFld b.status 2 3 m
    shadow := b.shadow.map fun e => if e.2.1 = 0 then (e.1, e.2.1, setFld e.2.2 2 3 m) else e }

/-- A write of STATUS: at U it may change neither ML nor AMODE (R33, R117, log entry 57); a pending imprecise exception comes first
(R231). -/
def statusWrite (c : CoreId) (v : Word) (t : State) : Exe :=
  let b := curBank t c
  if b.priv = 0 && (min 6 (fld v 2 3) != b.ml || bit v 5 != b.imp) then privFault t
  else if !b.imprecise.isEmpty then .over (deliverImprecise t c)
  else .mode (setCur t c (b.setMl v)) 0 v

/-- A write of XSAVE (R176): while its bank owns the loaded state, that state goes to the old area first, after the owner's Prism
commands. -/
def xsaveWrite (c : CoreId) (v : Word) (t : State) : Exe :=
  let k := getCore t c
  if !xstateOwned k k.cur then .mode t 0x20 v
  else if !k.prismQ.isEmpty then .hold t
  else
    match xstateSave t c with
    | (t, some a) => .fault t (.plain xXSTATE (adr a))
    | (t, none) => .mode (setCore t c { getCore t c with avail := false }) 0x20 v

/-- The write of a special register (R155, R158). -/
def mtsrBody (c : CoreId) (n : Nat) (v : Word) (t : State) : Exe :=
  let b := curBank t c
  if b.priv < srWritePriv n then privFault t
  else if n = 0 then statusWrite c v t
  else if (n = 1 ∨ n = 2) ∧ b.wres ≠ 1 then .fault t (.plain xWINDOW_STATE 0)
  else if n = 4 + b.priv ∧ v.toNat < (nth b.slim 0 b.priv).toNat then .fault t (.plain xSTACK_LIMIT v)
  else if n = 0x20 then xsaveWrite c v t
  else .mode t n v

/-- A special-register write as ID sees it. -/
def insMtsr (n : Nat) : Ins := { legal := srWritable n, ctl := true, ext := srExt n }

/-- MTSR (R201). -/
def execMtsr (c : CoreId) (g : Guard) (ra : R5) (sr : BitVec 6) (s : State) : Out :=
  ok (runInstr s c g (insMtsr sr.toNat) fun t => mtsrBody c sr.toNat (rg t c ra) t)

/-- XSAVE_WRITE (R176): MTSR of XSAVE. -/
def execXsaveWrite (c : CoreId) (g : Guard) (ra : R5) (s : State) : Out :=
  ok (runInstr s c g (insMtsr 0x20) fun t => mtsrBody c 0x20 (rg t c ra) t)

/-! ## WAITE and the scheduler (R112 to R115) -/

/-- The event that a bank was serving is finished: a level-mode event leaves service (R103), the budget timer stops (R120). -/
def endService (t : State) (c : Nat) : State :=
  let b := curBank t c
  let t := setCur t c { b with serving := none, budgetOn := false }
  match b.serving with
  | some n => leaveService t n
  | none => t

/-- The current bank parks (R112, R222). -/
def park (t : State) (c : Nat) : State :=
  let t := setCur t c { curBank t c with st := .parked }
  setCore t c { getCore t c with justParked := true }

/-- WAITE (R112, R113, R479). -/
def execWaite (c : CoreId) (g : Guard) (s : State) : Out :=
  ok (runInstr s c g { ctl := true } fun t =>
    let k := getCore t c
    let l := k.cur
    if l = 0 then
      let t := retire t c 1 none
      .over (setCore t c { getCore t c with stalled := true })
    else if k.stopped && l == monLevel t c then .fault t (.plain xILLEGAL 0)
    else
      let t := endService t c
      if inboxFull t c l then .done (resumeEvent t c l) none
      else .over (park (retire t c 1 none) c))

/-- The level that a core drops to after its bank has parked (R115). -/
def levelDown (s : State) (c : Nat) : Option Nat :=
  let k := getCore s c
  [6, 5, 4, 3, 2, 1, 0].find? fun l =>
    l < k.cur && levelOn s c l && ((k.bank l).st == .active || (eventReady s c l && emlOf s c l < l))

/-- BANK_SWITCH (R115): the scheduler's rule at an instruction boundary. -/
def execBankSwitch (c : CoreId) (s : State) : Out :=
  let k := getCore s c
  ok (if !k.running then s
    else match levelUp s c with
      | some l => switchTo s c l
      | none =>
        if !k.justParked then s
        else match levelDown s c with
          | some l => switchTo s c l
          | none => s)

/-! ## Return from exception (R221, R222, R225, R480) -/

/-- The stop of a core ends with the RFE that releases the debug entry's frame. -/
def endStop (s : State) (c : Nat) : State :=
  let k := getCore s c
  stopUpdate (setCore s c { k with stopped := false, stepping := k.stepping || rb s (Reg.CDBG_CTL c) 0 }) ((coreOwner s c).getD 0)

/-- Whether a frame word is an exception frame that the returning privilege may release. -/
def frameOk (w : Word) (priv : Nat) : Bool := bit w 0 && fld w 57 7 == 0 && fld w 48 2 ≤ priv

/-- STATUS as nine bits of a frame word or of DF_STATUS load it: ML takes the values 0 to 6 alone (R117). -/
def statusLoad (n : Nat) : Word := setFld (BitVec.ofNat 64 n) 2 3 (min 6 (n / 4 % 8))

/-- The bank after RFE, but for its program counter: the window rotates back, and STATUS is the frame's. -/
def Bank.rfePop (b : Bank) (pf w : Word) : Bank := { b.popped pf with status := statusLoad (fld w 48 9) }

/-- The current bank's inbox is empty (R222; log entry 49). -/
def emptyInbox (t : State) (c : Nat) : State :=
  let k := getCore t c
  setCore t c { k with inbox := listSet k.inbox k.cur none }

/-- The return itself: nothing stays in shadow, the reservation is lost, the bank goes on or parks. -/
def rfeGo (t : State) (c : Nat) (pf w : Word) : State :=
  let k := flushShadow (getCore t c) (getCore t c).cur
  let b := k.bank k.cur
  let leaves := k.stopped && k.cur == monLevel t c && b.depth == k.dbgDepth
  let t := setCore t c { k with resv := none }
  let t := retire t c 1 (some (adr (4 * fld w 2 46)))
  let t := setCur t c ((curBank t c).rfePop pf w)
  let t := killFetch t c
  let t := if bit w 1 then emptyInbox (park t c) c else t
  if leaves then endStop t c else t

/-- RFE outside the double-fault handler (R221). -/
def rfeBody (c : CoreId) (t : State) : Exe :=
  let b := curBank t c
  let bad := Flt.plain xILLEGAL_RETURN b.wfb
  if b.depth = 0 then .fault t bad
  else
    match load64 t c b.priv b.wfb.toNat with
    | (t, .error x) => .fault t x
    | (t, .ok w) =>
      if !frameOk w b.priv then .fault t bad
      else if b.popLow then .fault t (.plain xSTACK_LIMIT (b.wfb + 144))
      else
        match below t c (fld w 48 2) with
        | (t, .error x) => .fault t x
        | (t, .ok pf) => .over (rfeGo t c pf w)

/-- Bank 7 rotated back and restored from DF_B7 (R225). -/
def Bank.dfRestore (b : Bank) (v : Word) : Bank :=
  let w := (b.cwp + 7) % 8
  { b with
    cwp := w
    wres := b.wres - 1
    tw := false
    wfb := nth b.fb 0 w
    st := if bit v 0 then .parked else if bit v 1 then .disabled else .active
    pc := adr (4 * fld v 2 46) }

/-- A machine check that waited for the double-fault handler, with the PC of the instruction that met it (R227, R244). -/
def dueMcheck (s : State) (c : Nat) : State :=
  let k := getCore s c
  match k.mcheck with
  | some m => machineCheckNow (setCore s c { k with mcheck := none }) c m.1
  | none => s

/-- rfe_df (R225). -/
def rfeDf (c : CoreId) (t : State) : Exe :=
  if rb t (Reg.EXC_DF_INFO c) 15 then .fault t (.plain xILLEGAL_RETURN (curBank t c).wfb)
  else
    let l := rf t (Reg.EXC_DF_INFO c) 12 3
    let t := countEvt t c 0x02 1 { curCtx t c with addr := some (curBank t c).pc.toNat }
    let t := issueFetch t c (curBank t c).pc 1
    let k := flushShadow (getCore t c) 7
    let k := k.setBank 7 ((k.bank 7).dfRestore (rd t (Reg.EXC_DF_B7 c)))
    let t := setCore t c { k with df := false, resv := none }
    let t := if l = 7 then killFetch t c else makeCurrent t c l
    let b := { (getCore t c).bank l with
      st := .active
      pc := adr (4 * rf t (Reg.EXC_DF_PC c) 2 46)
      status := statusLoad (rf t (Reg.EXC_DF_STATUS c) 0 9) }
    let k := getCore t c
    .over (dueMcheck (setCore t c (k.setBank l b)) c)

/-- RFE (R221, R225). -/
def execRfe (c : CoreId) (g : Guard) (s : State) : Out :=
  ok (runInstr s c g { ctl := true } fun t =>
    if (curBank t c).priv = 0 then privFault t else if (getCore t c).df then rfeDf c t else rfeBody c t)

/-! ## The other system instructions (R202) -/

/-- The spills of WFLUSH: each commits, and a level that preempts takes the switch between two of them, which abandons the rest (R241 to
R243). The fuel is the number of windows. -/
def flushWindows (c : Nat) : Nat → State → Exe
  | 0, t => .done t none
  | n + 1, t =>
    if (curBank t c).wres ≤ 1 then .done t none
    else match spill t c with
      | (t, some f) => .fault t f
      | (t, none) => if (curBank t c).wres ≤ 1 then .done t none else if (levelUp t c).isSome then .over t else flushWindows c n t

/-- WFLUSH (R202, R242). -/
def execWflush (c : CoreId) (g : Guard) (s : State) : Out := ok (runInstr s c g {} (flushWindows c 8))

/-- TRAP (R202): SYSCALL, with the next PC saved. -/
def execTrap (c : CoreId) (g : Guard) (arg : BitVec 10) (s : State) : Out :=
  ok (runInstr s c g { ctl := true } fun t => .over (raiseExc t c (.plain xSYSCALL (zImm arg)) ((curBank t c).pc + 4)))

/-- BRK (R202, R477): a debug event where FULL is held and BRK_EN is 1, else BREAKPOINT with the next PC saved. -/
def execBrk (c : CoreId) (g : Guard) (arg : BitVec 10) (s : State) : Out :=
  ok (runInstr s c g { ctl := true } fun t =>
    let en := match coreOwner t c with
      | some p => rb t (Reg.DBGP_CTL p) 3
      | none => false
    if coreGrant t c == 2 && en then .done (raiseDbg t c 2 (zImm arg) 0) none
    else .over (raiseExc t c (.plain xBREAKPOINT (zImm arg)) ((curBank t c).pc + 4)))

end Sys2Proof.Machine
end

