-- ==== Sys2Proof/Machine/CoreFp.lean ====
section
/-! DEFINITION. Floating-point instructions: registers, flags, traps (R164, R203, R228, R229). -/

namespace Sys2Proof.Machine

/-! ## Registers, rounding mode, flags -/

/-- A floating-point register. -/
def fr (t : State) (c : Nat) (r : R5) : Word := nth (getCore t c).f 0 r.toNat

/-- A floating-point register written. -/
def fw (t : State) (c : Nat) (r : R5) (v : Word) : State :=
  let k := getCore t c
  setCore t c { k with f := listSet k.f r.toNat v }

/-- FPCSR.FRM. -/
def frm (t : State) (c : Nat) : Nat := fld (getCore t c).fpcsr 0 2

/-- FPCSR with flags set. -/
def orFlags (v : Word) (flags : Nat) : Word := v ||| BitVec.ofNat 64 (flags % 32 * 4)

/-- The sticky flags set, in an FPCSR write still in shadow too: they come after the write in program order. -/
def noteFlags (t : State) (c flags : Nat) : State :=
  let k := getCore t c
  let b := k.bank k.cur
  let b := { b with shadow := b.shadow.map fun e => if e.2.1 = 0x22 then (e.1, e.2.1, orFlags e.2.2 flags) else e }
  setCore t c { k.setBank k.cur b with fpcsr := orFlags k.fpcsr flags }

/-- How a floating-point operation ends (R164, R228, R229): its flags are set; where one has its trap enabled, PRECISE raises ARITH and
writes nothing, and IMPRECISE goes on with the result and a pending exception. -/
def fpEnd (c flags : Nat) (put : State → Exe) (t : State) : Exe :=
  let t := noteFlags t c flags
  let b := curBank t c
  if flags &&& fld (getCore t c).fpcsr 7 5 = 0 then put t
  else if b.imp then put (setCur t c (b.pendArith flags))
  else .fault t { cause := xARITH, sub := flags, t1 := b.pc }

/-- A free value where an operand is a NaN, for the sign and payload of its result (log entry 3). -/
def freeIf (need : Bool) (t : State) : Nat × State := if need then takeFree t else (0, t)

/-- Whether bits of a format are a NaN. -/
def nanBits (f : Fmt) (x : Nat) : Bool :=
  match unpack f x with
  | .nan _ => true
  | _ => false

/-! ## Arithmetic (Table 7.15) -/

/-- The operation of FN[5:0] on operand bits; `d` is the addend of FMA. -/
def fpOp (f : Fmt) (fn rm free x y d : Nat) : FpRes :=
  let a := unpack f x
  let b := unpack f y
  match fn with
  | 0 => fpAdd f rm free a b
  | 1 => fpAdd f rm free a b.neg
  | 2 => fpMul f rm free a b
  | 3 => fpDiv f rm free a b
  | 4 => fpSqrt f rm free a
  | 5 => fpMinMax f free false x y
  | 6 => fpMinMax f free true x y
  | 7 => { bits := x % f.signBit, flags := 0 }
  | 8 => { bits := if x < f.signBit then x + f.signBit else x - f.signBit, flags := 0 }
  | _ => fpFma f rm free a b (unpack f d)

/-- A floating-point operation of `fn` in binary64 or binary32. -/
def fpBody (c : CoreId) (dbl : Bool) (fn : Nat) (fd fa fb : R5) (t : State) : Exe :=
  let f := fmtOf dbl
  let x := fbits dbl (fr t c fa)
  let y := fbits dbl (fr t c fb)
  let d := fbits dbl (fr t c fd)
  let (v, t) := freeIf (nanBits f x || nanBits f y || nanBits f d) t
  let r := fpOp f fn (frm t c) v x y d
  fpEnd c r.flags (fun t => .done (fw t c fd (fbox dbl r.bits)) none) t

/-- FP_ARITH (R203). -/
def execFpArith (c : CoreId) (g : Guard) (fn : BitVec 7) (fd fa fb : R5) (s : State) : Out :=
  ok (runInstr s c g { legal := fn.toNat % 64 ≤ 9, ext := true } (fpBody c (64 ≤ fn.toNat) (fn.toNat % 64) fd fa fb))

/-- FDIV (R203). -/
def execFdiv (c : CoreId) (g : Guard) (dbl : Bool) (fd fa fb : R5) (s : State) : Out :=
  ok (runInstr s c g { ext := true } (fpBody c dbl 3 fd fa fb))

/-- FSQRT (R203). -/
def execFsqrt (c : CoreId) (g : Guard) (dbl : Bool) (fd fa : R5) (s : State) : Out :=
  ok (runInstr s c g { ext := true } (fpBody c dbl 4 fd fa fa))

/-! ## Conversions, moves, compare (Table 7.15) -/

/-- A move between register files: bits, no flags. DEDUCED: FN[6] selects the form as for the other functions (R203), so the binary32 form
moves the low 32 bits of a general register into a binary32 value, and a binary32 operand's bits sign-extended into a general register (R164;
log entry 118). -/
def fmovBody (c : CoreId) (dbl toG : Bool) (rd ra : R5) (t : State) : Exe :=
  if toG then .done (wg t c rd (if dbl then fr t c ra else sextW 32 (unbox32 (fr t c ra)))) none
  else .done (fw t c rd (if dbl then rg t c ra else box32 (uintOf 32 (rg t c ra)))) none

/-- FCMP: the predicate gets the outcome. -/
def fcmpBody (c : CoreId) (dbl : Bool) (pd : BitVec 3) (rel : BitVec 2) (fa fb : R5) (t : State) : Exe :=
  let f := fmtOf dbl
  let r := fpCmp rel.toNat (unpack f (fbits dbl (fr t c fa))) (unpack f (fbits dbl (fr t c fb)))
  fpEnd c r.2 (fun t => .done (setCur t c ((curBank t c).setPred pd.toNat r.1)) none) t

/-- A conversion that writes an f register. -/
def fcvtF (c : CoreId) (dbl : Bool) (rd : R5) (src : Fmt) (x : Nat) (t : State) : Exe :=
  let (v, t) := freeIf (nanBits src x) t
  let r := fpConv (fmtOf dbl) (frm t c) v (unpack src x)
  fpEnd c r.flags (fun t => .done (fw t c rd (fbox dbl r.bits)) none) t

/-- The conversion of FN[5:0]; 4 to 6 are the encodings of FMOVGF, FMOVFG and FCMP with RB 0. -/
def fcvtBody (c : CoreId) (fn : BitVec 7) (rd ra : R5) (t : State) : Exe :=
  let dbl := decide (64 ≤ fn.toNat)
  match fn.toNat % 64 with
  | 0 => fcvtF c false rd fmt64 (fr t c ra).toNat t
  | 1 => fcvtF c true rd fmt32 (unbox32 (fr t c ra)) t
  | 2 =>
    let x := fbits dbl (fr t c ra)
    let (v, t) := freeIf (nanBits (fmtOf dbl) x) t
    let r := fpToInt (frm t c) v (unpack (fmtOf dbl) x)
    fpEnd c r.flags (fun t => .done (wg t c rd (BitVec.ofNat 64 r.bits)) none) t
  | 3 =>
    let r := fpOfInt (fmtOf dbl) (frm t c) (rg t c ra).toInt
    fpEnd c r.flags (fun t => .done (fw t c rd (fbox dbl r.bits)) none) t
  | 4 => fmovBody c dbl false rd ra t
  | 5 => fmovBody c dbl true rd ra t
  | _ => fcmpBody c dbl (rd.extractLsb' 2 3) (rd.extractLsb' 0 2) ra 0 t

/-- Whether a function of major 0x2A writes a general register. -/
def fcvtDst (fn : BitVec 7) (rd : R5) : List R5 := if fn.toNat % 64 = 2 ∨ fn.toNat % 64 = 5 then [rd] else []

/-- FCVT (R203). -/
def execFcvt (c : CoreId) (g : Guard) (fn : BitVec 7) (rd ra : R5) (s : State) : Out :=
  ok (runInstr s c g { legal := fn.toNat % 64 ≤ 6, ext := true, dst := fcvtDst fn rd } (fcvtBody c fn rd ra))

/-- FMOVGF and FMOVFG (R203). -/
def execFmov (c : CoreId) (g : Guard) (form : FmovForm) (rd ra : R5) (s : State) : Out :=
  ok (runInstr s c g { ext := true, dst := if form.toG then [rd] else [] } (fmovBody c form.dbl form.toG rd ra))

/-- FCMP (R203). -/
def execFcmp (c : CoreId) (g : Guard) (dbl : Bool) (pd : BitVec 3) (rel : BitVec 2) (fa fb : R5) (s : State) : Out :=
  ok (runInstr s c g { ext := true } (fcmpBody c dbl pd rel fa fb))

/-! ## Loads and stores (R164, R203) -/

/-- The size in bytes of SZ. -/
def fpSize (sz : BitVec 2) : Nat := 2 * 2 ^ sz.toNat

/-- What a load puts into an f register: binary16 converts exactly to binary32. -/
def fldVal (sz : BitVec 2) (x : Nat) : Word :=
  match sz.toNat with
  | 0 => box32 (widen16 x)
  | 1 => box32 x
  | _ => BitVec.ofNat 64 x

/-- FLD (R203): SZ 3 is unassigned. -/
def execFld (c : CoreId) (g : Guard) (fd ra : R5) (sz : BitVec 2) (off : BitVec 9) (s : State) : Out :=
  let n := fpSize sz
  ok (runInstr s c g { legal := sz != 3, ext := true } fun t =>
    loadBy c n (offAddr (rg t c ra) off n) (fun t l => .done (fw t c fd (fldVal sz (leNat l))) none) t)

/-- The store of a binary16 result: its flags are set when the store commits, or where they trap under PRECISE, without the store. -/
def halfStore (c va : Nat) (l : List Byte) (flags : Nat) (t : State) : Exe :=
  let b := curBank t c
  if flags &&& fld (getCore t c).fpcsr 7 5 = 0 then storeBy c va l (fun t => noteFlags t c flags) t
  else if b.imp then storeBy c va l (fun t => setCur (noteFlags t c flags) c ((curBank (noteFlags t c flags) c).pendArith flags)) t
  else .fault (noteFlags t c flags) { cause := xARITH, sub := flags, t1 := b.pc }

/-- FST (R203): binary16 converts from binary32 under FRM and sets the flags. -/
def execFst (c : CoreId) (g : Guard) (fd ra : R5) (sz : BitVec 2) (off : BitVec 9) (s : State) : Out :=
  let n := fpSize sz
  ok (runInstr s c g { legal := sz != 3, ext := true } fun t =>
    let va := offAddr (rg t c ra) off n
    if sz = 0 then
      let x := unbox32 (fr t c fd)
      let (v, t) := freeIf (nanBits fmt32 x) t
      let r := fpConv fmt16 (frm t c) v (unpack fmt32 x)
      halfStore c va (leBytes n r.bits) r.flags t
    else if sz = 1 then storeBy c va (leBytes n (unbox32 (fr t c fd))) id t
    else storeBy c va (leBytes n (fr t c fd).toNat) id t)

end Sys2Proof.Machine
end

