-- ==== Sys2Proof/Machine/Prism.lean ====
section
/-! DEFINITION. Prism commands: issue, the unit's turn, completion (R205 to R209). -/

namespace Sys2Proof.Machine

/-! ## Control instructions (Table 7.18) -/

/-- An instruction that uses the Prism context. -/
def insPrism (legal : Bool) : Ins := { legal := legal, ext := true }

/-- PSET: N 12 to 15 is unassigned. -/
def execPset (c : CoreId) (g : Guard) (n : BitVec 4) (ra : R5) (s : State) : Out :=
  ok (runInstr s c g (insPrism (n.toNat < 12)) fun t =>
    let k := getCore t c
    .done (setCore t c { k with pr := listSet k.pr n.toNat (rg t c ra) }) none)

/-- PGET. -/
def execPget (c : CoreId) (g : Guard) (rd : R5) (n : BitVec 4) (s : State) : Out :=
  ok (runInstr s c g { insPrism (n.toNat < 12) with dst := [rd] } (setReg c rd fun t => nth (getCore t c).pr 0 n.toNat))

/-- Whether one of a core's commands is running. -/
def prismRuns (s : State) (c : Nat) : Bool :=
  c < 384 && match s.prism.get? (c / 8) with
    | some u => u.busy == some (c % 8)
    | none => false

/-- PSTAT of a core (Table 7.21): QUEUED and BUSY are those of its commands now. -/
def pstatWord (s : State) (c : Nat) : Word :=
  let k := getCore s c
  BitVec.ofNat 64 (k.prismQ.length % 8 + 8 * (prismRuns s c).toNat + 2 ^ 8 * fld k.pstat 8 13)

/-- PSTAT. -/
def execPstat (c : CoreId) (g : Guard) (rd : R5) (s : State) : Out :=
  ok (runInstr s c g { insPrism true with dst := [rd] } (setReg c rd fun t => pstatWord t c))

/-- PWAIT: holds while a command is queued or running, then faults where ERR is not 0. -/
def execPwait (c : CoreId) (g : Guard) (s : State) : Out :=
  ok (runInstr s c g (insPrism true) fun t =>
    let k := getCore t c
    let err := fld k.pstat 16 4
    if !k.prismQ.isEmpty then .hold t
    else if err ≠ 0 then .fault t { cause := xCOPROCESSOR, sub := err, t1 := 0 }
    else .done t none)

/-- PCLR. -/
def execPclr (c : CoreId) (g : Guard) (s : State) : Out :=
  ok (runInstr s c g (insPrism true) fun t =>
    let k := getCore t c
    .done (setCore t c { k with pstat := setFld k.pstat 16 5 0 }) none)

/-! ## Issue (R205) -/

/-- A command issues with the parameters and STATUS.RND of now; a fifth command holds at ID. -/
def prismIssue (c : CoreId) (op : PrismOp) (t : State) : Exe :=
  let k := getCore t c
  if 4 ≤ k.prismQ.length then .hold t
  else
    let cmd : PrismCmd := { op := op, prm := k.pr, rnd := (curBank t c).rnd, since := t.time }
    .done (countCur (setCore t c { k with prismQ := k.prismQ ++ [cmd] }) c 0x18) none

/-- PFFT: LOG2N 3 to 12. -/
def execPfft (c : CoreId) (g : Guard) (log2n : BitVec 4) (inv q31 scale brev : Bool) (s : State) : Out :=
  ok (runInstr s c g (insPrism (3 ≤ log2n.toNat && log2n.toNat ≤ 12)) (prismIssue c (.fft log2n.toNat inv q31 scale brev)))

/-- PFILT. -/
def execPfilt (c : CoreId) (g : Guard) (iir q31 : Bool) (s : State) : Out :=
  ok (runInstr s c g (insPrism true) (prismIssue c (.filt iir q31)))

/-- PMAT. -/
def execPmat (c : CoreId) (g : Guard) (accum : Bool) (s : State) : Out :=
  ok (runInstr s c g (insPrism true) (prismIssue c (.mat accum)))

/-! ## The unit's turn (R207) -/

/-- A unit. DESIGN CHOICE: before it has served any command, core 0 comes first (log entry 98). -/
def getPrism (s : State) (u : Nat) : PrismU := s.prism.get { busy := none, last := 7 } u

/-- The core that a free unit serves next: the first after the last served that has a command. -/
def prismNext (s : State) (u : Nat) : Option Nat :=
  let p := getPrism s u
  ((upto 8).map fun k => (p.last + 1 + k) % 8).find? fun i => !(getCore s (8 * u + i)).prismQ.isEmpty

/-- A wait in fabric cycles of 0.625 ns. -/
def fabricCycles (ns : Nat) : Nat := ns * 8 / 5

/-- PRISM_COMMAND_START (R207). -/
def execPrismCommandStart (u : Fin 48) (s : State) : Out :=
  ok (if (getPrism s u).busy.isSome || away s .prism u then s
    else match prismNext s u with
      | none => s
      | some i =>
        let r := Reg.PRISM_WAITMAX u
        let since := match (getCore s (8 * u + i)).prismQ with
          | [] => s.time
          | x :: _ => x.since
        let w := min 0xFFFFFFFF (max (rd s r).toNat (fabricCycles (s.time - since)))
        wr { s with prism := s.prism.set u { busy := some i, last := i } } r (BitVec.ofNat 64 w))

/-! ## Buffers (Table 7.19) -/

/-- A buffer: whether it lies in Y-TCM, its offset, its length. -/
structure Buf where
  y : Bool
  off : Nat
  len : Nat
  deriving DecidableEq, Repr

/-- Whether a buffer lies wholly within its TCM (R206). -/
def Buf.fits (b : Buf) : Bool := b.off + b.len ≤ 65536

/-- Where a buffer of a core begins. -/
def Buf.addr (b : Buf) (c : Nat) : Nat := tcmAddr c b.y b.off

/-- A parameter captured at issue. -/
def PrismCmd.p (x : PrismCmd) (i : Nat) : Nat := (nth x.prm 0 i).toNat

/-- Bytes of a real sample. -/
def qBytes (q31 : Bool) : Nat := if q31 then 4 else 2

/-- Whether the counts of a command lie in their ranges (Table 7.19). -/
def PrismCmd.paramOk (x : PrismCmd) : Bool :=
  match x.op with
  | .fft .. => true
  | .filt iir _ => 1 ≤ x.p 4 && x.p 4 ≤ 16384 && 1 ≤ x.p 5 && x.p 5 ≤ (if iir then 32 else 256)
  | .mat _ => 1 ≤ x.p 4 && x.p 4 ≤ 64

/-- The buffers that a command reads; a biquad has five coefficients and four history values (R206, R207). -/
def PrismCmd.ins (x : PrismCmd) : List Buf :=
  match x.op with
  | .fft n _ q31 _ _ => [⟨false, x.p 0, 2 ^ n * 2 * qBytes q31⟩, ⟨true, x.p 1, 2 ^ (n - 1) * 2 * qBytes q31⟩]
  | .filt iir q31 =>
    let b := qBytes q31
    [⟨false, x.p 0, x.p 4 * b⟩, ⟨true, x.p 1, (if iir then 5 * x.p 5 else x.p 5) * b⟩,
      ⟨true, x.p 3, (if iir then 4 * x.p 5 else x.p 5 - 1) * b⟩]
  | .mat acc => [⟨false, x.p 0, 128 * x.p 4⟩, ⟨true, x.p 1, 128 * x.p 4⟩] ++ (if acc then [⟨false, x.p 2, 128 * x.p 4⟩] else [])

/-- The buffers that a command writes. -/
def PrismCmd.outs (x : PrismCmd) : List Buf :=
  match x.op with
  | .fft n _ q31 _ _ => [⟨false, x.p 0, 2 ^ n * 2 * qBytes q31⟩]
  | .filt iir q31 =>
    let b := qBytes q31
    [⟨false, x.p 2, x.p 4 * b⟩, ⟨true, x.p 3, (if iir then 4 * x.p 5 else x.p 5 - 1) * b⟩]
  | .mat _ => [⟨false, x.p 2, 128 * x.p 4⟩]

/-! ## Results -/

/-- A signed value of `w` bytes read from memory. -/
def rdSigned (s : State) (a w : Nat) : Int := sfld (BitVec.ofNat 64 (rdMem s a w)) 0 (8 * w)

/-- `n` signed values of `w` bytes. -/
def rdVec (s : State) (a w n : Nat) : List Int := (upto n).map fun k => rdSigned s (a + w * k) w

/-- The bytes of signed values. -/
def vecBytes (w : Nat) (l : List Int) : List Byte := (l.map fun v => leBytes w (ofI v).toNat).flatten

/-- The sum of products of two vectors. -/
def dotI : List Int → List Int → Int
  | x :: l, y :: m => x * y + dotI l m
  | _, _ => 0

/-- Values rounded and held in range, and whether one saturated. -/
def satList (w rnd k : Nat) (l : List Int) : List Int × Bool :=
  let r := l.map (roundSat w rnd k)
  (r.map Prod.fst, r.any Prod.snd)

/-- What a command writes at addresses, and whether a result saturated. -/
structure PrismRes where
  writes : List (Nat × List Byte)
  sat : Bool
  deriving DecidableEq, Repr

/-- A FIR chain: `h` from the tap of the newest input on, `past` the inputs before the block, newest first. -/
def firRun (h past : List Int) : List Int → List Int
  | [] => []
  | x :: rest => dotI h (x :: past) :: firRun h ((x :: past).take (h.length - 1)) rest

/-- PFILT FIR (R165, R206): S outputs, and the last T − 1 inputs kept. -/
def firRes (s : State) (c : Nat) (x : PrismCmd) (q31 : Bool) : PrismRes :=
  let w := qBytes q31
  let n := x.p 4
  let taps := x.p 5
  let rev := fun (b : Bool) (l : List Int) => if b then l else l.reverse
  let inp := rdVec s (tcmAddr c false (x.p 0)) w n
  let h := rev Config.firTapZeroFirst (rdVec s (tcmAddr c true (x.p 1)) w taps)
  let past := rev Config.firNewestFirst (rdVec s (tcmAddr c true (x.p 3)) w (taps - 1))
  let (out, sat) := satList (8 * w) x.rnd (8 * w - 1) (firRun h past inp)
  let kept := rev Config.firNewestFirst ((inp.reverse ++ past).take (taps - 1))
  { writes := [(tcmAddr c false (x.p 2), vecBytes w out), (tcmAddr c true (x.p 3), vecBytes w kept)], sat := sat }

/-- One 8×8 matrix product (R206): rows of A by columns of B, with C added where ACCUM is 1. -/
def matOne (acc : Bool) (a b d : List Int) : List Int :=
  ((upto 8).map fun i => (upto 8).map fun j =>
    dotI ((a.drop (8 * i)).take 8) ((upto 8).map fun k => nth b 0 (8 * k + j)) +
      (if acc then nth d 0 (8 * i + j) * 2 ^ 15 else 0)).flatten

/-- Matrix `m` of a PMAT command, its result stored. -/
def matStep (c : Nat) (x : PrismCmd) (acc : Bool) (r : State × Bool) (m : Nat) : State × Bool :=
  let (s, sat) := r
  let at_ := fun (y : Bool) (i : Nat) => rdVec s (tcmAddr c y (x.p i + 128 * m)) 2 64
  let (out, z) := satList 16 x.rnd 15 (matOne acc (at_ false 0) (at_ true 1) (at_ false 2))
  (wrBytes s (tcmAddr c false (x.p 2 + 128 * m)) (vecBytes 2 out), sat || z)

/-! ## PFFT (R206) -/

/-- A complex number with integer parts, at the scale that the transform has reached. -/
abbrev Cplx := Int × Int

/-- Products and sums of complex numbers. -/
def cMul (a b : Cplx) : Cplx := (a.1 * b.1 - a.2 * b.2, a.1 * b.2 + a.2 * b.1)
def cAdd (a b : Cplx) : Cplx := (a.1 + b.1, a.2 + b.2)
def cSub (a b : Cplx) : Cplx := (a.1 - b.1, a.2 - b.2)
def cScale (m : Int) (a : Cplx) : Cplx := (m * a.1, m * a.2)

/-- `n` complex points of `w`-byte parts, real part first. -/
def rdCplx (s : State) (a w n : Nat) : List Cplx := (upto n).map fun k => (rdSigned s (a + 2 * w * k) w, rdSigned s (a + 2 * w * k + w) w)

/-- One butterfly of a radix-2 stage, with its twiddle factor: `one` is 1 at the scale of the factor. -/
def butterfly (dif : Bool) (one : Int) (w a b : Cplx) : Cplx × Cplx :=
  if dif then (cScale one (cAdd a b), cMul w (cSub a b))
  else (cAdd (cScale one a) (cMul w b), cSub (cScale one a) (cMul w b))

/-- A stage over blocks of `2 * h` points. -/
def fftStage (dif : Bool) (one : Int) (tw : Nat → Cplx) (n h : Nat) (x : List Cplx) : List Cplx :=
  (upto n).map fun i =>
    let j := i % (2 * h)
    let lo := if j < h then i else i - h
    let r := butterfly dif one (tw (j % h * (n / (2 * h)))) (nth x (0, 0) lo) (nth x (0, 0) (lo + h))
    if j < h then r.1 else r.2

/-- Bits of an index reversed. -/
def bitRev : Nat → Nat → Nat
  | 0, _ => 0
  | k + 1, i => i % 2 * 2 ^ k + bitRev k (i / 2)

/-- Points in bit-reversed order. -/
def reorder (log2n : Nat) (x : List Cplx) : List Cplx := (upto (2 ^ log2n)).map fun i => nth x (0, 0) (bitRev log2n i)

/-- Complex values rounded and held in range, and whether a part saturated. -/
def satCplx (w rnd k : Nat) (x : List Cplx) : List Cplx × Bool :=
  (x.map fun a => ((roundSat w rnd k a.1).1, (roundSat w rnd k a.2).1),
    x.any fun a => (roundSat w rnd k a.1).2 || (roundSat w rnd k a.2).2)

/-- The stages of a transform, by the half sizes of their blocks: `k` is the number of bits that a stage adds to the scale. -/
def fftRun (dif : Bool) (w rnd k n : Nat) (one : Int) (tw : Nat → Cplx) (hs : List Nat) (x : List Cplx) : List Cplx × Bool :=
  if Config.fftStageRounds then
    hs.foldl (fun r h =>
      let z := satCplx w rnd k (fftStage dif one tw n h r.1)
      (z.1, r.2 || z.2)) (x, false)
  else satCplx w rnd (k * hs.length) (hs.foldl (fun y h => fftStage dif one tw n h y) x)

/-- The bytes of complex points. -/
def cplxBytes (w : Nat) (x : List Cplx) : List Byte := vecBytes w (x.flatMap fun a => [a.1, a.2])

/-- PFFT: an in-place radix-2 transform with the twiddle table, whose entries the inverse transform conjugates; SCALE halves after each
stage, and BREV leaves the output in bit-reversed order (log entry 108). -/
def fftRes (s : State) (c : Nat) (x : PrismCmd) (l : Nat) (inv q31 scale brev : Bool) : PrismRes :=
  let w := qBytes q31
  let n := 2 ^ l
  let table := rdCplx s (tcmAddr c true (x.p 1)) w (n / 2)
  let tw := fun (k : Nat) =>
    let v := nth table (0, 0) k
    if inv then (v.1, -v.2) else v
  let k := 8 * w - 1 + scale.toNat
  let one : Int := 2 ^ (8 * w - 1)
  let inp := rdCplx s (tcmAddr c false (x.p 0)) w n
  let dif := Config.fftDif
  let hs := if dif then (upto l).map fun i => 2 ^ (l - 1 - i) else (upto l).map fun i => 2 ^ i
  let (out, sat) := fftRun dif (8 * w) x.rnd k n one tw hs (if dif then inp else reorder l inp)
  let out := if dif != brev then reorder l out else out
  { writes := [(tcmAddr c false (x.p 0), cplxBytes w out)], sat := sat }

/-! ## PFILT IIR (R206) -/

/-- A biquad of direct form I: coefficients b0, b1, b2, a1, a2, and history x1, x2, y1, y2. -/
structure Biquad where
  coef : List Int
  hist : List Int
  deriving DecidableEq, Repr

/-- A biquad's next output, its history after it, and whether the output saturated. -/
def Biquad.next (w rnd : Nat) (q : Biquad) (x : Int) : Biquad × Int × Bool :=
  let b := nth q.coef 0
  let h := nth q.hist 0
  let back := b 3 * h 2 + b 4 * h 3
  let (y, z) := roundSat w rnd (w - 1) (b 0 * x + b 1 * h 0 + b 2 * h 1 + (if Config.biquadSub then -back else back))
  ({ q with hist := [x, h 0, y, h 2] }, y, z)

/-- A sample through a chain of biquads. -/
def chainNext (w rnd : Nat) : List Biquad → Int → List Biquad × Int × Bool
  | [], x => ([], x, false)
  | q :: l, x =>
    let (q', y, z) := q.next w rnd x
    let (l', v, z') := chainNext w rnd l y
    (q' :: l', v, z || z')

/-- A block of samples through a chain. -/
def chainRun (w rnd : Nat) : List Biquad → List Int → List Biquad × List Int × Bool
  | q, [] => (q, [], false)
  | q, x :: rest =>
    let (q', y, z) := chainNext w rnd q x
    let (q'', l, z') := chainRun w rnd q' rest
    (q'', y :: l, z || z')

/-- PFILT IIR: Q sections, each with its coefficients and its history kept in the state buffer (log entry 108). -/
def iirRes (s : State) (c : Nat) (x : PrismCmd) (q31 : Bool) : PrismRes :=
  let w := qBytes q31
  let coef := fun (i : Nat) => rdVec s (tcmAddr c true (x.p 1 + 5 * w * i)) w 5
  let hist := fun (i : Nat) => rdVec s (tcmAddr c true (x.p 3 + 4 * w * i)) w 4
  let secs := (upto (x.p 5)).map fun i =>
    { coef := (upto 5).map fun k => nth (coef i) 0 (Config.biquadCoef (Fin.ofNat 5 k))
      hist := (upto 4).map fun k => nth (hist i) 0 (Config.biquadHist (Fin.ofNat 4 k)) : Biquad }
  let (secs', out, sat) := chainRun (8 * w) x.rnd secs (rdVec s (tcmAddr c false (x.p 0)) w (x.p 4))
  let kept := fun (q : Biquad) => (upto 4).map fun p =>
    match (upto 4).find? fun k => (Config.biquadHist (Fin.ofNat 4 k)).val == p with
    | some k => nth q.hist 0 k
    | none => 0
  { writes := [(tcmAddr c false (x.p 2), vecBytes w out), (tcmAddr c true (x.p 3), vecBytes w (secs'.flatMap kept))], sat := sat }

/-- What a command other than PMAT writes. -/
def putRes (s : State) (r : PrismRes) : State × Bool := (r.writes.foldl (fun t e => wrBytes t e.1 e.2) s, r.sat)

/-- The outputs of a command, and whether one saturated. -/
def prismWork (s : State) (c : Nat) (x : PrismCmd) : State × Bool :=
  match x.op with
  | .fft l inv q31 scale brev => putRes s (fftRes s c x l inv q31 scale brev)
  | .filt true q31 => putRes s (iirRes s c x q31)
  | .filt false q31 => putRes s (firRes s c x q31)
  | .mat acc => (upto (x.p 4)).foldl (matStep c x acc) (s, false)

/-- The outputs of a command that meets an uncorrectable word: those before that point are written, and which they are is free (R208). -/
def prismPartial (s : State) (c : Nat) (x : PrismCmd) : State × Bool :=
  let (t, sat) := prismWork s c x
  let keep := fun (r : State × Bool) (b : Buf) =>
    let (v, u) := takeFree r.1
    let n := v % (b.len + 1)
    (wrBytes u (b.addr c + n) (rdBytes s (b.addr c + n) (b.len - n)), r.2)
  let (u, _) := x.outs.foldl keep (t, false)
  let (v, u) := takeFree u
  (u, sat && v.testBit 0)

/-! ## Completion (R208) -/

/-- The running command leaves its core's queue and the unit is free. -/
def prismPop (s : State) (u c : Nat) (all : Bool) : State :=
  let k := getCore s c
  let s := setCore s c { k with prismQ := if all then [] else k.prismQ.drop 1 }
  { s with prism := s.prism.set u { getPrism s u with busy := none } }

/-- A command stops with an error: the core's other commands are discarded. -/
def prismFail (s : State) (u c err : Nat) : State :=
  let s := prismPop s u c true
  let k := getCore s c
  setCore s c { k with pstat := setFld k.pstat 16 4 err }

/-- SAT and DONE of a command. -/
def prismNote (s : State) (c : Nat) (sat done : Bool) : State :=
  let k := getCore s c
  let v := if sat then setBit k.pstat 20 true else k.pstat
  setCore s c { k with pstat := if done then setFld v 8 8 (fld v 8 8 + 1) else v }

/-- A command stopped by an uncorrectable word: counted, raised, logged. -/
def prismEcc (s : State) (u c : Nat) (x : PrismCmd) : State :=
  let (s, sat) := prismPartial s c x
  let s := prismNote (prismFail s u c 3) c sat false
  let s := raiseCond (countReg s (Reg.PRISM_ECC u)) .prism u 0 0
  logErr s { errRec s 5 5 .prism u with part := (coreOwner s c).getD 0xFF, initiator := 0x8000 + c }

/-- The running command of a unit ends. -/
def prismDone (s : State) (u c : Nat) (x : PrismCmd) (ecc : Bool) : State :=
  if !x.paramOk then prismFail s u c 2
  else if !(x.ins ++ x.outs).all Buf.fits then prismFail s u c 1
  else if ecc || x.ins.any (fun b => b.len != 0 && touchesPoison s (b.addr c) b.len) then prismEcc s u c x
  else
    let (s, sat) := prismWork s c x
    prismNote (prismPop s u c false) c sat true

/-- PRISM_COMMAND_DONE (R208). -/
def execPrismCommandDone (u : Fin 48) (ecc : Bool) (s : State) : Out :=
  ok (match (getPrism s u).busy with
    | none => s
    | some i =>
      let c := 8 * u + i
      match (getCore s c).prismQ with
      | [] => s
      | x :: _ => prismDone s u c x ecc)

end Sys2Proof.Machine
end

