-- ==== Sys2Proof/Machine/Custom.lean ====
section
/-! DEFINITION. Customer instructions: the microsequencer over the customer region (R210, R235 to R244, R248, R249). The spec gives the
fields of a microword, and no codes of its ALU operations and conditions: what they compute are opaque functions of the word and its
operands (log entry 58). -/

namespace Sys2Proof.Machine

/-! ## What a customer word may name (R248, R249) -/

/-- Reasons of CFAULT (Table 9.4). -/
def rPRIV_OP : Nat := 1
def rRANGE : Nat := 2
def rLIMIT : Nat := 3
def rSTACK : Nat := 4
def rUNDECLARED : Nat := 5

/-- Whether a decode entry lets a word name a register (R249): the declared fields, s0 to s7, and ac0 to ac3 with XS. -/
def nameOk (dt : Word) (n : Nat) : Bool :=
  (n == 0x20 && bit dt 9) || (n == 0x21 && bit dt 10) || (n == 0x22 && bit dt 11) || (0x40 ≤ n && n ≤ 0x47) ||
    (0x50 ≤ n && n ≤ 0x53 && bit dt 12)

/-- Whether a word uses what user micro-privilege forbids (R249); codes of MEM and MATTR follow the order of Table 9.1 (log entry 58). -/
def privOp (dt : Word) (w : BitVec 152) : Bool :=
  w.getLsbD 24 || uSeq w == 6 || 9 ≤ uSeq w || mfld w 105 8 != 0 || mfld w 91 3 != 0 || 3 ≤ uMem w || (uMem w != 0 && !bit dt 13)

/-- Where a word leads, with the micro-call stack, or the reason of its fault (Table 9.2, R238, R249). -/
def microNext (w : BitVec 152) (a : Nat) (stack : List Nat) (cond : Bool) : Except Nat (Nat × List Nat) :=
  let go := fun (x : Nat) (l : List Nat) => if custLo ≤ x && x ≤ custHi then Except.ok (x, l) else Except.error rRANGE
  match uSeq w with
  | 0 => go (a + 1) stack
  | 1 => go (uNext w) stack
  | 2 => go (if cond then uNext w else a + 1) stack
  | 3 => go (if cond then a + 1 else uNext w) stack
  | 4 => if 4 ≤ stack.length then .error rSTACK else go (uNext w) ((a + 1) :: stack)
  | _ =>
    match stack with
    | [] => .error rSTACK
    | x :: l => go x l

/-! ## A routine -/

/-- A routine under way: the SUB, its decode entry, the registers that RD, RA and RB name, what it has written of those and of the
accumulators (by DST code), scratch s0 to s7, the micro-loop counter, and the flag updates owed at END. -/
structure Micro where
  sub : Nat
  dt : Word
  regs : List R5
  vals : Tbl (BitVec 72)
  cnt : Nat
  flags : Nat
  deriving DecidableEq, Repr

/-- A routine at its entry: scratch reads 0, nothing is written. -/
def Micro.start (sub : Nat) (dt : Word) (rd ra rb : R5) : Micro :=
  { sub := sub, dt := dt, regs := [rd, ra, rb], vals := [], cnt := 0, flags := 0 }

/-- The value of a source (Table 9.1): what the routine wrote to it, else a visible register, the register that an instruction field names,
an f register, an accumulator, or 0 for a scratch register (R248). -/
def Micro.src (m : Micro) (t : State) (c n : Nat) : BitVec 72 :=
  match m.vals.get? n with
  | some v => v
  | none =>
    if n < 0x20 then (rg t c (BitVec.ofNat 5 n)).setWidth 72
    else if n ≤ 0x22 then (rg t c (nth m.regs 0 (n - 0x20))).setWidth 72
    else if 0x60 ≤ n then (fr t c (BitVec.ofNat 5 n)).setWidth 72
    else if 0x50 ≤ n ∧ n ≤ 0x53 then acGet t c (BitVec.ofNat 2 (n - 0x50))
    else 0

/-- What a word adds to a routine: its destination, the counter, flag updates. `x` is the datum that it loaded. -/
def Micro.note (m : Micro) (w : BitVec 152) (a b : BitVec 72) (x : Word) : Micro :=
  let v := Config.microAlu w a b x m.cnt
  { m with
    vals := m.vals.set (uDst w) v
    cnt := Config.microCount w v m.cnt
    flags := if uFlags w = 0 then m.flags else m.flags ||| Config.microFlags w v % 64 }

/-- A fault of a routine at a word: CFAULT records it (R249). -/
def microFault (t : State) (c : Nat) (m : Micro) (a reason : Nat) : Exe :=
  let v := reason + 2 ^ 8 * m.sub + 2 ^ 16 * ((a - custLo) % 256) + 2 ^ 31
  .fault (wr t (Reg.MC_CFAULT c) (BitVec.ofNat 64 v)) (.plain xMICRO_PRIV 0)

/-- A load or store of a word: the datum loaded; only normal memory is reached (R249). -/
def microMem (t : State) (c : Nat) (m : Micro) (at_ : Nat) (w : BitVec 152) (a b : BitVec 72) : State × Except Exe Word :=
  let n := uSize w
  let store := uMem w == 2
  let va := (Config.microAddr w a b).toNat
  if va % n ≠ 0 then (t, .error (.fault t (.plain xALIGN (adr va))))
  else
    match translate t c (curBank t c).priv (if store then .store else .load) va n false with
    | (t, .error f) => let (t, f) := raiseXl t c f; (t, .error (.fault t f))
    | (t, .ok (pa, attr)) =>
      if attr ≠ 0 ∧ attr ≠ 4 then (t, .error (microFault t c m at_ rRANGE))
      else if store then
        match physWrite t c va pa attr (leBytes n (Config.microData w a b).toNat) .plain false with
        | (t, some f) => (t, .error (.fault t f))
        | (t, none) => (t, .ok 0)
      else
        match physRead t c va pa attr n with
        | (t, .error f) => (t, .error (.fault t f))
        | (t, .ok l) => (t, .ok (BitVec.ofNat 64 (leNat l)))

/-- The instruction fields' registers that a routine wrote take their values. -/
def microRegs (c : Nat) (m : Micro) (t : State) : State :=
  (upto 3).foldl (fun t i =>
    match m.vals.get? (0x20 + i) with
    | some v => wg t c (nth m.regs 0 i) (v.setWidth 64)
    | none => t) t

/-- The accumulators that a routine wrote take their values. -/
def microAcs (c : Nat) (m : Micro) (t : State) : State :=
  (upto 4).foldl (fun t i =>
    match m.vals.get? (0x50 + i) with
    | some v => acPut t c (BitVec.ofNat 2 i) v
    | none => t) t

/-- The spill that a write of d0 to d7 in the trap window waits for, where a routine wrote an instruction field's register (R157). -/
def microSpill (t : State) (c : Nat) (m : Micro) : State × Option Flt :=
  if (curBank t c).tw && (upto 3).any fun i => (m.vals.get? (0x20 + i)).isSome && isD (nth m.regs 0 i).toNat then spill t c
  else (t, none)

/-- END (R242, R248): the results commit, the accumulators and flags as COMMIT says. -/
def microEnd (t : State) (c : Nat) (m : Micro) (w : BitVec 152) : Exe :=
  match microSpill t c m with
  | (t, some f) => .fault t f
  | (t, none) =>
    let t := if Config.microCommits (uCommit w) 0 then microAcs c m t else t
    let t := if Config.microCommits (uCommit w) 1 then
        noteSat (if bit m.dt 12 then noteFlags t c (m.flags / 2) else t) c (m.flags.testBit 0)
      else t
    .done (microRegs c m t) none

/-- Causes of Table 8.2. -/
def causeListed (x : Nat) : Bool :=
  [0x01, 0x02, 0x03, 0x04, 0x05, 0x06, 0x08, 0x09, 0x0A, 0x0B, 0x0C, 0x0D, 0x0E, 0x0F, 0x10, 0x11, 0x12, 0x13, 0x14, 0x15, 0x16, 0x18,
    0x19, 0x1C, 0x20, 0x24, 0x30].contains x

/-- SUB of a cause that FAULT raises: PSTAT.ERR for COPROCESSOR, 0 but for the causes to which Table 8.3 gives bits. -/
def microSubOf (k : CoreSt) (x : Nat) (w : BitVec 152) (v : BitVec 72) : Nat :=
  if x = 0x15 then fld k.pstat 16 4
  else if x = 0x04 ∨ x = 0x05 ∨ x = 0x09 ∨ x = 0x0A ∨ x = 0x1C ∨ x = 0x20 then Config.microSub w v % 256 else 0

/-- LEND of the loop level that the loop-end test takes first: the inner one while it is active (R169). -/
def Bank.loopEnd (b : Bank) : Word := if nth b.lcount 0 1 != 0 then nth b.lend 0 1 else nth b.lend 0 0

/-- t1 of a cause that FAULT raises (Table 8.2). -/
def microT1Of (k : CoreSt) (x : Nat) (w : BitVec 152) (v : BitVec 72) : Word :=
  let b := k.bank k.cur
  if x = 0x01 ∨ x = 0x02 ∨ x = 0x10 ∨ x = 0x11 ∨ x = 0x13 ∨ x = 0x15 ∨ x = 0x24 ∨ x = 0x30 then 0
  else if x = xARITH then b.pc
  else if x = xILLEGAL_RETURN then b.wfb
  else if x = xSTACK_ALIGN then nth b.sp 0 b.priv
  else if x = xLOOP_END then b.loopEnd
  else if x = xXSTATE then adr (xsaveAddr k k.cur)
  else Config.microT1 w v

/-- SEQ FAULT (R213, R214): the cause that the word names, with the saved PC that Table 8.2 gives it; a code that the table does not list
is none the core raises, so the word is refused as PRIV_OP (log entry 58). -/
def microRaise (t : State) (c : Nat) (m : Micro) (a : Nat) (w : BitVec 152) (v : BitVec 72) : Exe :=
  let x := uFault w
  let k := getCore t c
  let f : Flt := { cause := x, sub := microSubOf k x w v, t1 := microT1Of k x w v }
  if !causeListed x then microFault t c m a rPRIV_OP
  else if x = xSYSCALL ∨ x = xBREAKPOINT then .over (raiseExc t c f ((k.bank k.cur).pc + 4))
  else .fault t f

/-- A parity error (R244). -/
def microPerr (t : State) (c a : Nat) : Exe := .over (parityMet t c a)

/-- The fault that a word raises before it does anything (R248, R249): `last` says that it reaches the entry's limit. DESIGN CHOICE: of
several reasons CFAULT records PRIV_OP before UNDECLARED before LIMIT, for R249 gives no order (log entry 114). -/
def microBad (m : Micro) (w : BitVec 152) (last : Bool) : Option Nat :=
  if privOp m.dt w then some rPRIV_OP
  else if !nameOk m.dt (uSrcA w) || !nameOk m.dt (uSrcB w) || !nameOk m.dt (uDst w) then some rUNDECLARED
  else if last && uSeq w != 7 && uSeq w != 8 then some rLIMIT
  else none

/-- The words of a routine, from address `a` on; the fuel is the words left to the entry's limit. DESIGN CHOICE: a word's own load or store is
performed before its RANGE or STACK fault, for R249 gives no order (log entry 114). -/
def microRun (c : Nat) : Nat → Micro → Nat → List Nat → State → Exe
  | 0, m, a, _, t => microFault t c m a rLIMIT
  | n + 1, m, a, stack, t =>
    let w := microWord (getCore t c) a
    if wordBad (getCore t c) a then microPerr t c a
    else
      match microBad m w (n == 0) with
      | some r => microFault t c m a r
      | none =>
        let x := m.src t c (uSrcA w)
        let y := m.src t c (uSrcB w)
        match (if uMem w = 0 then (t, .ok 0) else microMem t c m a w x y) with
        | (_, .error e) => e
        | (t, .ok d) =>
          let cond := Config.microCond w x y m.cnt
          let m := m.note w x y d
          if uSeq w = 7 then microEnd t c m w
          else if uSeq w = 8 then microRaise t c m a w (m.vals.get 0 (uDst w))
          else
            match microNext w a stack cond with
            | .error r => microFault t c m a r
            | .ok (x, l) => microRun c n m x l t

/-! ## The instruction (R248) -/

/-- CUSTOM_INSTRUCTION (R210, R237, R244, R248): a decode entry with a parity error is not dispatched. -/
def execCustomInstruction (c : CoreId) (g : Guard) (sub rd ra rb : R5) (s : State) : Out :=
  let dt := Sys2Proof.Machine.rd s (Reg.MC_DT c sub.toNat)
  ok (runInstr s c g { legal := customLegal dt rd ra rb, ext := bit dt 12, dst := if bit dt 9 then [rd] else [] } fun t =>
    if (getCore t c).badWords.contains (2 ^ 14 + sub.toNat) then microPerr t c (2 ^ 14 + sub.toNat)
    else microRun c (8 * (fld dt 16 5 + 1)) (Micro.start sub.toNat dt rd ra rb) (custLo + fld dt 1 8) [] t)

end Sys2Proof.Machine
end

