-- ==== Sys2Proof/Machine/Fetch.lean ====
section
/-! DEFINITION. Instruction fetch, predecode and prediction, the XIP prefetch buffer (R132 to R145, R149, R179, R197, R273). -/

namespace Sys2Proof.Machine

/-! ## Where a fetch stands -/

/-- The virtual address of a core's next fetch. -/
def fetchAt (k : CoreSt) : Word := k.fetchPc.getD (k.bank k.cur).pc

/-- Whether the next fetch lies on the correct path (R134, R138): nothing older waits in the queue, but for the first word of a two-word
instruction at the PC. -/
def onPath (k : CoreSt) : Bool :=
  let pc := (k.bank k.cur).pc
  match k.fetchQ with
  | [] => fetchAt k == pc
  | [(a, w)] => a == pc && isWide w && fetchAt k == pc + 4
  | _ => false

/-- The instructions that fetched words make up; the first word of a two-word one whose second has not come is none yet. -/
def instrCount : List (Word × W32) → Nat
  | [] => 0
  | [(_, w)] => if isWide w then 0 else 1
  | (_, w) :: e :: l => if isWide w then 1 + instrCount l else 1 + instrCount (e :: l)

/-- Whether the queue can take the line of an address (R132): it holds 16 instructions. -/
def queueTakes (k : CoreSt) (va : Word) : Bool := instrCount k.fetchQ + (16 - fld va 0 6 / 4) ≤ 16

/-- Whether a fetch finds its translation without a walk: it needs none, or the instruction TLB has it (R134). -/
def itlbHas (s : State) (c priv va : Nat) : Bool :=
  let x := xlCtx s c (getCore s c).cur priv
  2 ≤ priv || (!x.gEn && !x.pEn) || (tlbFind (getCore s c).itlb x va).isSome

/-- Whether a fetch address may be translated now: a walk waits until nothing older is in the way (R134), and a predicted target starts
none. -/
def mayTranslate (s : State) (c : Nat) (va : Word) : Bool :=
  itlbHas s c (curBank s c).priv va.toNat || (onPath (getCore s c) && fetchAt (getCore s c) == va)

/-- The physical line that a virtual fetch address names, if it may be translated now and is executable. -/
def fetchLine (s : State) (c : Nat) (va : Word) : Option Nat :=
  if !mayTranslate s c va then none
  else match (fetchXl s c (curBank s c).priv va.toNat).2 with
    | .ok (pa, _) => some (lineOf (coreAddr c pa))
    | .error _ => none

/-! ## L1I (R197, R273) -/

/-- The ways of a set without a locked line. -/
def openWays (k : CoreSt) (set : Nat) : List Nat :=
  (upto 8).filter fun w =>
    match k.l1i.get? (8 * set + w) with
    | some e => !e.locked
    | none => true

/-- A line put into L1I: where it is already, else into a free way, else in place of one that a free value names (log entry 16). -/
def fillL1i (s : State) (c line : Nat) (data : List Byte) : State :=
  let k := getCore s c
  let set := line % 64
  let put := fun (t : State) (key : Nat) (locked : Bool) =>
    setCore t c { getCore t c with l1i := (getCore t c).l1i.set key { line := line, data := data, locked := locked, valid := true } }
  match k.l1i.find? fun e => e.1 / 8 == set && e.2.line == line with
  | some e => put s e.1 e.2.locked
  | none =>
    match (upto 8).find? fun w => (k.l1i.get? (8 * set + w)).isNone with
    | some w => put s (8 * set + w) false
    | none =>
      let (v, s) := takeFree s
      let ways := openWays k set
      put s (8 * set + nth ways 0 (v % max 1 ways.length)) false

/-! ## Control transfers as predecode sees them (R133, R139 to R143, R149) -/

/-- The target of a direct branch, jump or CALL. -/
def dispAt (pc : Word) (disp : BitVec 22) : Word := pc + ofI (4 * disp.toInt)

/-- A control transfer as PD sees it: its kind, whether it is conditional, its target where the word holds it. One that never executes is
none (R198). -/
structure Xfer where
  kind : Nat
  cond : Bool
  target : Option Word
  deriving DecidableEq, Repr

/-- A transfer with a guard. -/
def xfer (g : Guard) (kind : Nat) (target : Option Word) : Option Xfer :=
  if g.pg = 0 ∧ g.ps then none else some { kind := kind, cond := isCond g, target := target }

/-- The transfer at a PC, if its word is one. -/
def xferOf (pc : Word) (w : W32) : Option Xfer :=
  match decCtl 0 w with
  | some (.br _ g d) => xfer g (if isCond g then kCond else kJump) (some (dispAt pc d))
  | some (.jr _ g _) => xfer g kInd none
  | some (.call _ g d) => xfer g kCall (some (dispAt pc d))
  | some (.callr _ g _) => xfer g kCall none
  | some (.ret _ g) => xfer g kRet none
  | _ => none

/-- The direction counter of a transfer, read with a bank's speculative history: whether it predicts taken (R140, R141). -/
def dirTaken (s : State) (c : Nat) (pc : Word) : Bool :=
  let k := getCore s c
  2 ≤ k.dir.get 1 (dirIdx (predKey s c) pc (k.bank k.cur).sghr)

/-- Whether IF1 finds a transfer predicted taken in the BTB, and its target (R139, R142). -/
def btbTaken (s : State) (c : Nat) (pc : Word) : Option Word :=
  let k := getCore s c
  if k.timing then none
  else match btbAt s c pc with
    | none => none
    | some (_, e) =>
      if e.kind = kCond then (if dirTaken s c pc then some e.target else none)
      else if e.kind = kRet then some ((k.bank k.cur).sras.top.getD e.target)
      else some e.target

/-- Where the loop hardware goes on after the instruction at an address, as IF1 predicts it (R169, Table 5.7): LCOUNT less the passes that
wait in the queue (log entry 106). -/
def loopTaken (k : CoreSt) (pc : Word) : Option Word :=
  let b := k.bank k.cur
  let n := (k.fetchQ.filter fun e => e.1 == pc).length
  ([1, 0].find? fun l => nth b.lend 0 l == pc && n + 1 < nth b.lcount 0 l).map fun l => nth b.lstart 0 l

/-- Where IF1 leaves a line: how many of its words are fetched, and the address of the next fetch. The first hardware loop end or transfer
predicted taken ends it (R133, R139); a two-word instruction that the line cuts is no end. -/
def lineEnd (s : State) (c : Nat) : Nat → List (Word × W32) → Nat × Option Word
  | n, [] => (n, none)
  | n, (a, w) :: l =>
    match (loopTaken (getCore s c) a).orElse fun _ => btbTaken s c a with
    | none => lineEnd s c (n + 1) l
    | some t =>
      if !isWide w then (n + 1, some t)
      else match l with
        | [] => (n + 1, none)
        | _ => (n + 2, some t)

/-- The target that PD predicts for a transfer if it is taken: the word's own, the return stack's, or the BTB's (R142, R149). -/
def predTarget (s : State) (c : Nat) (pc : Word) (x : Xfer) : Option Word :=
  let k := getCore s c
  let btb := if k.timing then none else (btbAt s c pc).map fun e => e.2.target
  match x.target with
  | some t => some t
  | none => if x.kind = kRet then (k.bank k.cur).sras.top.orElse fun _ => btb else btb

/-- Whether PD predicts a transfer taken: the static rule of Table 5.7, the direction counter, or what IF1 predicted. -/
def predTaken (s : State) (c : Nat) (pc follow : Word) (x : Xfer) : Bool :=
  if !x.cond then true
  else if (getCore s c).timing then
    match x.target with
    | some t => t.toNat < pc.toNat
    | none => x.kind == kRet
  else follow != pc + 4 || dirTaken s c pc

/-- PD redirects fetch (R133): what lies behind `n` words of the queue is dropped; the redirect counts if its transfer reaches ID. -/
def redirect (s : State) (c n : Nat) (pc next : Word) : State :=
  let k := getCore s c
  let gone := (k.fetchQ.drop n).map (·.1)
  let dropped := fun (e : Word × Nat × Nat) => gone.contains e.1
  let s := setCore s c { k with
    fetchQ := k.fetchQ.take n
    fetchPc := some next
    fetchEv := k.fetchEv.filter (fun e => !dropped e) ++ [(pc, 0x05, 0)] }
  countFetches s c ((k.fetchEv.filter dropped).map fun e => (e.1, e.2.2))

/-- The BTB allocation at PD of a direct jump or CALL that misses (R141). -/
def passAlloc (s : State) (c : Nat) (pc : Word) (x : Xfer) : State :=
  match x.target with
  | some t => if (x.kind == kJump || x.kind == kCall) && (btbAt s c pc).isNone then btbPut s c pc x.kind t else s
  | none => s

/-- PD passes a transfer on its prediction: a checkpoint where it can be mispredicted, the speculative history, the BTB allocation of a
direct jump or CALL, a redirect where fetch goes on elsewhere (R133, R141 to R143). DEDUCED: the return stack moves with a CALL or RET that is
predicted to transfer, its target known or not, and not with a guarded one that is predicted not taken (R142; log entry 106). -/
def passXfer (s : State) (c : Nat) (pc follow : Word) (x : Xfer) : State :=
  let t := predTarget s c pc x
  let goes := predTaken s c pc follow x
  let taken := goes && t.isSome
  let next := if taken then t.getD 0 else pc + 4
  let needs := x.cond || x.target.isNone
  let s := passAlloc s c pc x
  let k := getCore s c
  let b := k.bank k.cur
  let n := k.pdPos + 1
  let b := { b.guessXfer x.kind x.cond taken goes pc with ckpts := if needs then b.ckpts ++ [b.mark pc next] else b.ckpts }
  let s := setCore s c { k.setBank k.cur b with pdPos := n }
  if next = follow then s else redirect s c n pc next

/-- One instruction passes PD, if one can: a two-word one waits for its second word, a transfer that needs a fifth checkpoint for a free one
(R143). -/
def passOne (s : State) (c : Nat) : Option State :=
  let k := getCore s c
  match k.fetchQ.drop k.pdPos with
  | [] => none
  | (a, w) :: l =>
    if isWide w then (if l.isEmpty then none else some (setCore s c { k with pdPos := k.pdPos + 2 }))
    else match xferOf a w with
      | none => some (setCore s c { k with pdPos := k.pdPos + 1 })
      | some x =>
        if (x.cond || x.target.isNone) && 4 ≤ (k.bank k.cur).ckpts.length then none
        else
          let follow := match l with
            | [] => k.fetchPc.getD (a + 4)
            | e :: _ => e.1
          some (passXfer s c a follow x)

/-- PD passes what it can of the fetched words; the fuel is at least their number. -/
def predecode (c : Nat) : Nat → State → State
  | 0, s => s
  | n + 1, s =>
    match passOne s c with
    | none => s
    | some t => predecode c n t

/-! ## Fetch (R132) -/

/-- The words of a line from an offset on, with their virtual addresses. -/
def lineWords (va : Word) (data : List Byte) : List (Word × W32) :=
  let o := fld va 0 6 / 4
  (upto (16 - o)).map fun k => (va + adr (4 * k), BitVec.ofNat 32 (leNat ((data.drop (4 * (o + k))).take 4)))

/-- A fetched line reaches the queue, up to where IF1 leaves it, and PD. -/
def fetched (s : State) (c : Nat) (va : Word) (data : List Byte) : State :=
  let k := getCore s c
  let l := lineWords va data
  let (n, next) := lineEnd s c 0 l
  predecode c 32 (setCore s c { k with
    fetchQ := k.fetchQ ++ l.take n
    fetchPc := some (next.getD (va + adr (64 - fld va 0 6))) })

/-- A fetch that fails: its fault is raised where it lies on the correct path; elsewhere the fetch waits (R134, R138). -/
def fetchFails (s : State) (c : Nat) (f : Flt) (noted : State → State) : State :=
  if !onPath (getCore s c) then s
  else raiseFault (noted s) c f

/-- The virtual address of a line. -/
def lineVa (va : Word) : Word := adr (va.toNat / 64 * 64)

/-- A line read from memory, with what is done where it is good. -/
def fetchMem (s : State) (c : Nat) (va : Word) (a : Nat) (good : State → List Byte → State) : State :=
  match (if isXip a then agRead s (endpointOf .core c) (a / 64 * 64) 64 else
      match homeErr s c (a / 64 * 64) 64 false with
      | some e => MemRd.err e
      | none => memRead s (a / 64 * 64) 64) with
  | .err e =>
    fetchFails s c { cause := xINSTR_BUS, sub := busSub e, t1 := lineVa va } fun s => logFailed s (coreIni c) a e
  | .data l p =>
    if p then fetchFails s c { cause := xINSTR_BUS, sub := 1, t1 := lineVa va } fun s => logErr s (poisonRec s c a) else good s l

/-- A counter event that waits for the fetch at an address to reach ID or to be killed (R145). -/
def noteFetch (s : State) (c : Nat) (va : Word) (code wrong : Nat) : State :=
  let k := getCore s c
  setCore s c { k with fetchEv := k.fetchEv ++ [(va, code, wrong)] }

/-- A line missing from L1I: a line of DRAM comes through L2 (R271), it is filled and delivered; the miss counts, or the wrong-path fill;
misses beyond count with the instruction alone. -/
def fetchFill (s : State) (c : Nat) (va : Word) (a attr : Nat) : State :=
  let x : LineAcc := { line := lineOf a, rt := attr == 4, store := false }
  fetchMem s c va a fun t l =>
    let t := if areaOf a == .dram then reachL2 t c x fun u code => noteFetch u c va code 0 else t
    fetched (noteFetch (fillL1i t c (lineOf a) l) c va 0x06 0x0E) c va l

/-- A line that L1I holds as it was filled (R197); one that was invalidated in a locked way is filled again there and counts in LOCKLOST
(R273); one whose data is uncorrectable fails (R271, R299). -/
def fetchHit (s : State) (c : Nat) (va : Word) (a attr : Nat) (e : L1iE) : State :=
  let s := (checkArrays s c (a / 64 * 64) 64).1
  if !e.valid then fetchFill (if e.locked then noteFetch s c va lostLockEvt noEvt else s) c va a attr
  else if poisoned s (lineOf a) then
    fetchFails s c { cause := xINSTR_BUS, sub := 1, t1 := lineVa va } fun s => logErr s (poisonRec s c a)
  else fetched s c va e.data

/-- A cluster's prefetch buffer. -/
def getPrefetch (s : State) (c : Nat) : Prefetch := s.prefetch.get { lines := [], asked := [] } (c / 8)

/-- A cluster's prefetch buffer replaced. -/
def setPrefetch (s : State) (c : Nat) (p : Prefetch) : State := { s with prefetch := s.prefetch.set (c / 8) p }

/-- What stands for "ahead of no core" beside a line of the prefetch buffer. -/
def aheadNone : Nat := 388

/-- A line used by a fetch is ahead no longer, and is the most recently used. -/
def useLine (s : State) (c line : Nat) : State :=
  let p := getPrefetch s c
  setPrefetch s c { p with lines := (p.lines.filter fun e => e.1 != line) ++ [(line, aheadNone)] }

/-- A fetch of a line at an executable address (R132, R136): from I-TCM, L1I, the prefetch buffer or memory. An XIP line that has not come
is waited for. -/
def fetchFrom (s : State) (c : Nat) (va : Word) (pa attr : Nat) : State :=
  let a := coreAddr c pa
  match areaOf a with
  | .core .. => fetchMem (checkArrays s c (a / 64 * 64) 64).1 c va a fun t l => fetched t c va l
  | area =>
    match l1iFind (getCore s c) a with
    | some (_, e) => fetchHit s c va a attr e
    | none =>
      if area == .xip then
        if (getPrefetch s c).lines.any fun e => e.1 == lineOf a then fetchFill (useLine s c (lineOf a)) c va a attr else s
      else fetchFill s c va a attr

/-- IF1 of a core whose fetched words have passed PD as far as they can. A miss in the instruction TLB waits until nothing older is in the
way (R134, R145). -/
def fetchLineAt (s : State) (c : Nat) (va : Word) : State :=
  let priv := (curBank s c).priv
  if (!itlbHas s c priv va.toNat && !onPath (getCore s c)) || accessWaits s c priv .fetch va.toNat 4 then s
  else match fetchXl s c priv va.toNat with
    | (t, .error f) => if onPath (getCore s c) then raiseFault t c f else s
    | (t, .ok (pa, attr)) => fetchFrom t c va pa attr

/-- INSTRUCTION_FETCH (R132, R135): an unassigned word at the PC raises ILLEGAL at ID; words that wait in PD pass it as they can; IF1 holds
while the queue cannot take a whole line. -/
def execInstructionFetch (c : CoreId) (s : State) : Out :=
  ok (if !canStep (getCore s c) then s
    else if illegalHead s c then atId s c fun s => raiseFault s c (.plain xILLEGAL 0)
    else
      let s := predecode c 32 s
      let va := fetchAt (getCore s c)
      if queueTakes (getCore s c) va then fetchLineAt s c va else s)

/-! ## XIP lines (R136 to R138) -/

/-- XPF_DEPTH; 0 acts as 1. -/
def xpfDepth (s : State) (c : Nat) : Nat := max 1 (rf s (Reg.FE_CTL c) 1 4)

/-- Lines of the buffer ahead of a core's fetch, held or asked for. -/
def aheadOf (p : Prefetch) (c : Nat) : Nat := ((p.lines ++ p.asked).filter fun e => e.2 == c).length

/-- The PC of the transfer of a BTB entry of a core's current context, as far as the fetch's upper bits give it. -/
def btbPc (s : State) (c : Nat) (e : Nat × BtbE) : Word :=
  let key := predKey s c
  let low := 64 * ((e.1 / 4) ^^^ (key % 512)) + 4 * e.2.off
  setFld (setFld (fetchAt (getCore s c)) 0 15 low) 15 16 (e.2.tag ^^^ (key / 512 % 65536))

/-- Whether a BTB entry predicts its transfer taken (R136, R141). -/
def btbGoes (s : State) (c : Nat) (e : Nat × BtbE) : Bool := e.2.kind != kCond || dirTaken s c (btbPc s c e)

/-- Whether a line lies ahead of a core's fetch: it is the fetch's own or one of those that follow, or in DYNAMIC timing mode a predicted
taken target of the BTB (R136). -/
def lineAhead (s : State) (c line : Nat) : Bool :=
  let k := getCore s c
  let seq := match fetchLine s c (fetchAt k) with
    | some l => l ≤ line && line ≤ l + xpfDepth s c
    | none => false
  let ctx := predCtx s c
  let live := !k.timing && !k.rekeyBusy.any fun r => r.1 == ctx / 256
  let btb := live && k.btb.any fun e =>
    e.2.ctx == ctx && btbGoes s c e && fetchLine s c e.2.target == some line
  seq || btb

/-- Whether the prefetcher of a core asks for a line. -/
def prefetchWants (s : State) (c line : Nat) : Bool := rb s (Reg.FE_CTL c) 0 && lineAhead s c line

/-- The core of a cluster that a line is ahead of: the one that it was marked for while its fetch still leads there, else the first other whose
fetch does (R136). -/
def aheadMark (s : State) (c : Nat) (e : Nat × Nat) : Nat :=
  let leads := fun (d : Nat) => (getCore s d).running && lineAhead s d e.1
  if e.2 < aheadNone && leads e.2 then e.2
  else (((upto 8).map (8 * (c / 8) + ·)).find? leads).getD aheadNone

/-- A cluster's prefetch buffer as it stands: each line marked with a core whose fetch PC it is ahead of, if there is one. -/
def livePrefetch (s : State) (c : Nat) : Prefetch :=
  let p := getPrefetch s c
  { p with lines := p.lines.map fun e => (e.1, aheadMark s c e) }

/-- Whether the buffer has room for one more line: a place is kept for every line asked for, and a line ahead of a fetch keeps its own
(R136). -/
def prefetchRoom (p : Prefetch) : Bool := (p.lines.filter fun e => e.2 < aheadNone).length + p.asked.length < 32

/-- Whether a core asks for a line now (R136, R137). -/
def xipAsks (s : State) (c line : Nat) : Bool :=
  let k := getCore s c
  let p := livePrefetch s c
  let demand := fetchLine s c (fetchAt k) == some line && (l1iFind k (64 * line)).isNone
  canStep k && areaOf (64 * line) == .xip && !((p.lines ++ p.asked).any fun e => e.1 == line) && prefetchRoom p &&
    sumNat (s.prefetch.map fun e => e.2.asked.length) < 32 &&
    (demand || (prefetchWants s c line && aheadOf p c < xpfDepth s c))

/-- XIP_LINE_FETCH (R136, R137): `line` is the line's address. -/
def execXipLineFetch (c : CoreId) (line : BitVec 48) (s : State) : Out :=
  let n := lineOf line.toNat
  ok (if xipAsks s c n then
      let p := livePrefetch s c
      noteFetch (setPrefetch s c { p with asked := p.asked ++ [(n, c.val)] }) c (fetchAt (getCore s c)) 0x0D 0x0F
    else s)

/-- A returned line enters the buffer, in place of the least recently used line that is ahead of no core where it is full. -/
def bufferLine (p : Prefetch) (line c : Nat) : Prefetch :=
  let l := if p.lines.length < 32 then p.lines
    else match p.lines.find? fun e => aheadNone ≤ e.2 with
      | some x => p.lines.filter fun e => e.1 != x.1
      | none => p.lines
  { p with lines := l ++ [(line, c)] }

/-- The entry of an uncorrectable XIP line (R138). -/
def xipUncorr (s : State) (c line : Nat) : State :=
  let k := getCore s c
  logErr s { errRec s 5 3 .core c with
    part := (coreOwner s c).getD 0xFF, initiator := 0x8000 + c, addr := 64 * line, pc := (k.bank k.cur).pc.toNat }

/-- A line comes back for the core that asked for it. -/
def xipReturn (s : State) (c line : Nat) (bad : Bool) : State :=
  let p := livePrefetch s c
  let p := { p with asked := p.asked.filter fun e => e.1 != line }
  let va := fetchAt (getCore s c)
  let wanted := canStep (getCore s c) && fetchLine s c va == some line
  let s := setPrefetch s c (if bad then p else bufferLine p line c)
  if bad then
    let s := xipUncorr s c line
    if wanted then fetchFails s c { cause := xINSTR_BUS, sub := 1, t1 := lineVa va } id else s
  else if wanted then fillL1i (useLine s c line) c line (rdBytes s (64 * line) 64)
  else s

/-- XIP_LINE_RETURN (R136 to R138). -/
def execXipLineReturn (c : CoreId) (line : BitVec 48) (uncorr : Bool) (s : State) : Out :=
  let n := lineOf line.toNat
  ok (if (getPrefetch s c).asked.any fun e => e.1 == n && e.2 == c.val then xipReturn s c n (uncorr || poisoned s n) else s)

end Sys2Proof.Machine
end

