-- ==== Sys2Proof/Machine/Dispatch.lean ====
section
/-! DEFINITION. One arm per command: its meaning, or its name where it has none yet. -/

namespace Sys2Proof.Machine

def exec (i : Instr) (s : State) : Host.Outcome State Fault Refusal :=
  match i with
  | .registerWrite ini r width v => Sys2Proof.Machine.execRegisterWrite ini r width v s
  | .readClear ini r width => Sys2Proof.Machine.execReadClear ini r width s
  | .mwWrite ini r v mirror => Sys2Proof.Machine.execMwWrite ini r v mirror s
  | .evtSet ini r v => Sys2Proof.Machine.execEvtSet ini r v s
  | .evtClear ini r v => Sys2Proof.Machine.execEvtClear ini r v s
  | .errorLogEntryWrite => Sys2Proof.Machine.execErrorLogEntryWrite s
  | .errCopyWrite => Sys2Proof.Machine.execErrCopyWrite s
  | .errCopyConfig ini v => Sys2Proof.Machine.execErrCopyConfig ini v s
  | .errDataPageWrite ini page off width v => Sys2Proof.Machine.execErrDataPageWrite ini page off width v s
  | .amminBuild => Sys2Proof.Machine.execAmminBuild s
  | .amminWrite ini off width v => Sys2Proof.Machine.execAmminWrite ini off width v s
  | .absentBlockAccess ini t write => Sys2Proof.Machine.execAbsentBlockAccess ini t write s
  | .globalAliasAccess ini c off width wr => Sys2Proof.Machine.execGlobalAliasAccess ini c off width wr s
  | .dataPageAccess ini r width wr => Sys2Proof.Machine.execDataPageAccess ini r width wr s
  | .debugViewRead p r width => Sys2Proof.Machine.execDebugViewRead p r width s
  | .tbNanosecond => Sys2Proof.Machine.execTbNanosecond s
  | .encEdge e line level => Sys2Proof.Machine.execEncEdge e line level s
  | .encFilterAccept e line => Sys2Proof.Machine.execEncFilterAccept e line s
  | .encIndexEdge e => Sys2Proof.Machine.execEncIndexEdge e s
  | .encCtlWrite ini e v => Sys2Proof.Machine.execEncCtlWrite ini e v s
  | .sdpTick k phase => Sys2Proof.Machine.execSdpTick k phase s
  | .tbAsTick m => Sys2Proof.Machine.execTbAsTick m s
  | .tbRefTick => Sys2Proof.Machine.execTbRefTick s
  | .tbStandstill n => Sys2Proof.Machine.execTbStandstill n s
  | .tbTimeout n => Sys2Proof.Machine.execTbTimeout n s
  | .tbHoldExpiry n => Sys2Proof.Machine.execTbHoldExpiry n s
  | .tbUncGrow n => Sys2Proof.Machine.execTbUncGrow n s
  | .tbEnable ini n v => Sys2Proof.Machine.execTbEnable ini n v s
  | .tbDisable ini n v => Sys2Proof.Machine.execTbDisable ini n v s
  | .tbRestart ini n v => Sys2Proof.Machine.execTbRestart ini n v s
  | .tbSet ini n v => Sys2Proof.Machine.execTbSet ini n v s
  | .tbStep ini n v => Sys2Proof.Machine.execTbStep ini n v s
  | .tbCapture ini n => Sys2Proof.Machine.execTbCapture ini n s
  | .sdpEnable ini k v => Sys2Proof.Machine.execSdpEnable ini k v s
  | .sdpChkErr k diff => Sys2Proof.Machine.execSdpChkErr k diff s
  | .sdpClassify k mean rms freq => Sys2Proof.Machine.execSdpClassify k mean rms freq s
  | .sdpLock k freq => Sys2Proof.Machine.execSdpLock k freq s
  | .sdpLockLoss k rms => Sys2Proof.Machine.execSdpLockLoss k rms s
  | .axleEvaluate => Sys2Proof.Machine.execAxleEvaluate s
  | .cmpArm ini m v => Sys2Proof.Machine.execCmpArm ini m v s
  | .cmpArmEffect m => Sys2Proof.Machine.execCmpArmEffect m s
  | .cmpDisarm ini m v => Sys2Proof.Machine.execCmpDisarm ini m v s
  | .cmpActionDeliver => Sys2Proof.Machine.execCmpActionDeliver s
  | .gpeSegmentStart g => Sys2Proof.Machine.execGpeSegmentStart g s
  | .gpeStart ini g v => Sys2Proof.Machine.execGpeStart ini g v s
  | .gpeEnable ini g v => Sys2Proof.Machine.execGpeEnable ini g v s
  | .gpeEntryApply g => Sys2Proof.Machine.execGpeEntryApply g s
  | .gpeDeadtimeExpiry g out => Sys2Proof.Machine.execGpeDeadtimeExpiry g out s
  | .gpeForceClear ini g v => Sys2Proof.Machine.execGpeForceClear ini g v s
  | .gpeRefill g => Sys2Proof.Machine.execGpeRefill g s
  | .sdmSinc3Output n bits => Sys2Proof.Machine.execSdmSinc3Output n bits s
  | .sdmSinc2Output n bits => Sys2Proof.Machine.execSdmSinc2Output n bits s
  | .sdmStuck n => Sys2Proof.Machine.execSdmStuck n s
  | .sdmSnapshot set => Sys2Proof.Machine.execSdmSnapshot set s
  | .sdmSnapRingWrite => Sys2Proof.Machine.execSdmSnapRingWrite s
  | .evrSourceArrival => Sys2Proof.Machine.execEvrSourceArrival s
  | .evrDispatch src => Sys2Proof.Machine.execEvrDispatch src s
  | .poolFifoDeliver q => Sys2Proof.Machine.execPoolFifoDeliver q s
  | .inboxOffer c l => Sys2Proof.Machine.execInboxOffer c l s
  | .eventPacket c => Sys2Proof.Machine.execEventPacket c s
  | .evrOwnWrite ini w v => Sys2Proof.Machine.execEvrOwnWrite ini w v s
  | .evrSourceEnable ini p v => Sys2Proof.Machine.execEvrSourceEnable ini p v s
  | .evrSourceDisable ini p v => Sys2Proof.Machine.execEvrSourceDisable ini p v s
  | .evrCfgWrite ini p v => Sys2Proof.Machine.execEvrCfgWrite ini p v s
  | .evrSetcfg ini p v => Sys2Proof.Machine.execEvrSetcfg ini p v s
  | .evrRaise ini p v => Sys2Proof.Machine.execEvrRaise ini p v s
  | .poolMaskWrite ini p k v => Sys2Proof.Machine.execPoolMaskWrite ini p k v s
  | .waite c g => Sys2Proof.Machine.execWaite c g s
  | .bankSwitch c => Sys2Proof.Machine.execBankSwitch c s
  | .levelEnable ini c v => Sys2Proof.Machine.execLevelEnable ini c v s
  | .schedEntryWrite ini c l v => Sys2Proof.Machine.execSchedEntryWrite ini c l v s
  | .budgetExpiry c l => Sys2Proof.Machine.execBudgetExpiry c l s
  | .localEventEnter c => Sys2Proof.Machine.execLocalEventEnter c s
  | .instructionFetch c => Sys2Proof.Machine.execInstructionFetch c s
  | .xipLineFetch c line => Sys2Proof.Machine.execXipLineFetch c line s
  | .xipLineReturn c line uncorr => Sys2Proof.Machine.execXipLineReturn c line uncorr s
  | .btbInv ini c => Sys2Proof.Machine.execBtbInv ini c s
  | .dirInv ini c => Sys2Proof.Machine.execDirInv ini c s
  | .rekey ini c => Sys2Proof.Machine.execRekey ini c s
  | .predictorOpDone c => Sys2Proof.Machine.execPredictorOpDone c s
  | .intAlu c g fn rd ra rb => Sys2Proof.Machine.execIntAlu c g fn rd ra rb s
  | .addi c g rd ra imm => Sys2Proof.Machine.execAddi c g rd ra imm s
  | .andi c g rd ra imm => Sys2Proof.Machine.execAndi c g rd ra imm s
  | .ori c g rd ra imm => Sys2Proof.Machine.execOri c g rd ra imm s
  | .xori c g rd ra imm => Sys2Proof.Machine.execXori c g rd ra imm s
  | .shi c g rd ra imm => Sys2Proof.Machine.execShi c g rd ra imm s
  | .cmp c g pd pn ra rb cond imm w => Sys2Proof.Machine.execCmp c g pd pn ra rb cond imm w s
  | .predicateOp c g pd pa pb fn => Sys2Proof.Machine.execPredicateOp c g pd pa pb fn s
  | .sel c g neg ps rd ra rb => Sys2Proof.Machine.execSel c g neg ps rd ra rb s
  | .cmov c g neg ps rd ra => Sys2Proof.Machine.execCmov c g neg ps rd ra s
  | .mul c g fn rd ra rb => Sys2Proof.Machine.execMul c g fn rd ra rb s
  | .div c g fn rd ra rb => Sys2Proof.Machine.execDiv c g fn rd ra rb s
  | .fractionOp c g fn rd ra rb => Sys2Proof.Machine.execFractionOp c g fn rd ra rb s
  | .mac c g ac sub clr int ra rb form uns => Sys2Proof.Machine.execMac c g ac sub clr int ra rb form uns s
  | .acrd15 c g rd ac => Sys2Proof.Machine.execAcrd15 c g rd ac s
  | .acrd31 c g rd ac => Sys2Proof.Machine.execAcrd31 c g rd ac s
  | .acrd63 c g rd ac => Sys2Proof.Machine.execAcrd63 c g rd ac s
  | .acrdl c g rd ac => Sys2Proof.Machine.execAcrdl c g rd ac s
  | .acrdg c g rd ac => Sys2Proof.Machine.execAcrdg c g rd ac s
  | .acwr c g ra ac => Sys2Proof.Machine.execAcwr c g ra ac s
  | .acwrg c g ra ac => Sys2Proof.Machine.execAcwrg c g ra ac s
  | .acsh c g ac rb => Sys2Proof.Machine.execAcsh c g ac rb s
  | .acadd c g ac rb => Sys2Proof.Machine.execAcadd c g ac rb s
  | .acclr c g ac => Sys2Proof.Machine.execAcclr c g ac s
  | .macx c g ac xg yg xpm ypm form sub int clr uns => Sys2Proof.Machine.execMacx c g ac xg yg xpm ypm form sub int clr uns s
  | .load c g size uns rd ra off => Sys2Proof.Machine.execLoad c g size uns rd ra off s
  | .store c g size rs ra off => Sys2Proof.Machine.execStore c g size rs ra off s
  | .ldxStx c g fn rd ra rb => Sys2Proof.Machine.execLdxStx c g fn rd ra rb s
  | .ldtStt c g rd y gen pm st size uns => Sys2Proof.Machine.execLdtStt c g rd y gen pm st size uns s
  | .ldmw c g rd ra rk off => Sys2Proof.Machine.execLdmw c g rd ra rk off s
  | .stmw c g rs ra rk off => Sys2Proof.Machine.execStmw c g rs ra rk off s
  | .ldl c g rd ra d => Sys2Proof.Machine.execLdl c g rd ra d s
  | .stc c g rd ra rs d => Sys2Proof.Machine.execStc c g rd ra rs d s
  | .fenceAcq c g => Sys2Proof.Machine.execFenceAcq c g s
  | .fenceRel c g => Sys2Proof.Machine.execFenceRel c g s
  | .fenceAll c g => Sys2Proof.Machine.execFenceAll c g s
  | .ifence c g => Sys2Proof.Machine.execIfence c g s
  | .br c g disp => Sys2Proof.Machine.execBr c g disp s
  | .jr c g ra => Sys2Proof.Machine.execJr c g ra s
  | .call c g disp => Sys2Proof.Machine.execCall c g disp s
  | .callr c g ra => Sys2Proof.Machine.execCallr c g ra s
  | .ret c g => Sys2Proof.Machine.execRet c g s
  | .loop c g lv ini cnt cr endOff => Sys2Proof.Machine.execLoop c g lv ini cnt cr endOff s
  | .mfsr c g rd sr => Sys2Proof.Machine.execMfsr c g rd sr s
  | .mtsr c g ra sr => Sys2Proof.Machine.execMtsr c g ra sr s
  | .rfe c g => Sys2Proof.Machine.execRfe c g s
  | .wflush c g => Sys2Proof.Machine.execWflush c g s
  | .trap c g arg => Sys2Proof.Machine.execTrap c g arg s
  | .brk c g arg => Sys2Proof.Machine.execBrk c g arg s
  | .fpArith c g fn fd fa fb => Sys2Proof.Machine.execFpArith c g fn fd fa fb s
  | .fdiv c g dbl fd fa fb => Sys2Proof.Machine.execFdiv c g dbl fd fa fb s
  | .fsqrt c g dbl fd fa => Sys2Proof.Machine.execFsqrt c g dbl fd fa s
  | .fcvt c g fn rd ra => Sys2Proof.Machine.execFcvt c g fn rd ra s
  | .fmov c g form rd ra => Sys2Proof.Machine.execFmov c g form rd ra s
  | .fcmp c g dbl pd rel fa fb => Sys2Proof.Machine.execFcmp c g dbl pd rel fa fb s
  | .fld c g fd ra sz off => Sys2Proof.Machine.execFld c g fd ra sz off s
  | .fst c g fd ra sz off => Sys2Proof.Machine.execFst c g fd ra sz off s
  | .li c g rd imm => Sys2Proof.Machine.execLi c g rd imm s
  | .lih c g rd imm => Sys2Proof.Machine.execLih c g rd imm s
  | .addw c g rd ra imm => Sys2Proof.Machine.execAddw c g rd ra imm s
  | .andw c g rd ra imm => Sys2Proof.Machine.execAndw c g rd ra imm s
  | .orw c g rd ra imm => Sys2Proof.Machine.execOrw c g rd ra imm s
  | .cmpw c g pd pn ra cond w imm => Sys2Proof.Machine.execCmpw c g pd pn ra cond w imm s
  | .pset c g n ra => Sys2Proof.Machine.execPset c g n ra s
  | .pget c g rd n => Sys2Proof.Machine.execPget c g rd n s
  | .pstat c g rd => Sys2Proof.Machine.execPstat c g rd s
  | .pwait c g => Sys2Proof.Machine.execPwait c g s
  | .pclr c g => Sys2Proof.Machine.execPclr c g s
  | .pfft c g log2n inv q31 scale brev => Sys2Proof.Machine.execPfft c g log2n inv q31 scale brev s
  | .pfilt c g iir q31 => Sys2Proof.Machine.execPfilt c g iir q31 s
  | .pmat c g accum => Sys2Proof.Machine.execPmat c g accum s
  | .prismCommandStart u => Sys2Proof.Machine.execPrismCommandStart u s
  | .prismCommandDone u ecc => Sys2Proof.Machine.execPrismCommandDone u ecc s
  | .customInstruction c g sub rd ra rb => Sys2Proof.Machine.execCustomInstruction c g sub rd ra rb s
  | .xstateLazy c => Sys2Proof.Machine.execXstateLazy c s
  | .xsaveWrite c g ra => Sys2Proof.Machine.execXsaveWrite c g ra s
  | .loopsRegWrite ini c l k reg v => Sys2Proof.Machine.execLoopsRegWrite ini c l k reg v s
  | .impreciseExceptionDelivery c => Sys2Proof.Machine.execImpreciseExceptionDelivery c s
  | .storeErrorResponse c l addr absent => Sys2Proof.Machine.execStoreErrorResponse c l addr absent s
  | .machineCheck c k => Sys2Proof.Machine.execMachineCheck c k s
  | .coreRelease ini c => Sys2Proof.Machine.execCoreRelease ini c s
  | .mcWaitTimeout c => Sys2Proof.Machine.execMcWaitTimeout c s
  | .partStart ini p same => Sys2Proof.Machine.execPartStart ini p same s
  | .partStop ini p => Sys2Proof.Machine.execPartStop ini p s
  | .partStopDone p => Sys2Proof.Machine.execPartStopDone p s
  | .partCoresWrite ini p k v => Sys2Proof.Machine.execPartCoresWrite ini p k v s
  | .partModesWrite ini p v => Sys2Proof.Machine.execPartModesWrite ini p v s
  | .partTimingTakeEffect c => Sys2Proof.Machine.execPartTimingTakeEffect c s
  | .l3waysWrite ini p v => Sys2Proof.Machine.execL3waysWrite ini p v s
  | .tlbiAll ini c bcast => Sys2Proof.Machine.execTlbiAll ini c bcast s
  | .tlbiAsn ini c bcast asn => Sys2Proof.Machine.execTlbiAsn ini c bcast asn s
  | .tlbiVa ini c bcast asn vpage => Sys2Proof.Machine.execTlbiVa ini c bcast asn vpage s
  | .tlbiPstageAll ini c bcast => Sys2Proof.Machine.execTlbiPstageAll ini c bcast s
  | .tlbIlock ini c bcast bank vpage => Sys2Proof.Machine.execTlbIlock ini c bcast bank vpage s
  | .tlbIunlock ini c bcast bank vpage => Sys2Proof.Machine.execTlbIunlock ini c bcast bank vpage s
  | .tlbiDone c => Sys2Proof.Machine.execTlbiDone c s
  | .cacheIlock ini c line count way => Sys2Proof.Machine.execCacheIlock ini c line count way s
  | .cacheIunlock ini c way => Sys2Proof.Machine.execCacheIunlock ini c way s
  | .l1dFlush ini c => Sys2Proof.Machine.execL1dFlush ini c s
  | .cacheClean ini c line => Sys2Proof.Machine.execCacheClean ini c line s
  | .cacheCleanInv ini c line => Sys2Proof.Machine.execCacheCleanInv ini c line s
  | .cacheOpDone c => Sys2Proof.Machine.execCacheOpDone c s
  | .ptbWrite ini c v => Sys2Proof.Machine.execPtbWrite ini c v s
  | .gtbWrite ini c l v => Sys2Proof.Machine.execGtbWrite ini c l v s
  | .rdshared a line filterErr => Sys2Proof.Machine.execRdshared a line filterErr s
  | .rdunique a line => Sys2Proof.Machine.execRdunique a line s
  | .upgrade a line => Sys2Proof.Machine.execUpgrade a line s
  | .rdonce ep line => Sys2Proof.Machine.execRdonce ep line s
  | .wrfull ep line data => Sys2Proof.Machine.execWrfull ep line data s
  | .wrpartial ep line mask data => Sys2Proof.Machine.execWrpartial ep line mask data s
  | .wbdata a line => Sys2Proof.Machine.execWbdata a line s
  | .evict a line => Sys2Proof.Machine.execEvict a line s
  | .snpshared a line => Sys2Proof.Machine.execSnpshared a line s
  | .snpinv a line => Sys2Proof.Machine.execSnpinv a line s
  | .snponce a line => Sys2Proof.Machine.execSnponce a line s
  | .snpflush a line => Sys2Proof.Machine.execSnpflush a line s
  | .snpresp a line => Sys2Proof.Machine.execSnpresp a line s
  | .snprespdata a line => Sys2Proof.Machine.execSnprespdata a line s
  | .comp a line => Sys2Proof.Machine.execComp a line s
  | .data a line => Sys2Proof.Machine.execData a line s
  | .datafwd a line => Sys2Proof.Machine.execDatafwd a line s
  | .retry a line => Sys2Proof.Machine.execRetry a line s
  | .creditgrant a line => Sys2Proof.Machine.execCreditgrant a line s
  | .nack a line => Sys2Proof.Machine.execNack a line s
  | .nackBackoffExpiry a line => Sys2Proof.Machine.execNackBackoffExpiry a line s
  | .wback a line => Sys2Proof.Machine.execWback a line s
  | .errresp a line errc => Sys2Proof.Machine.execErrresp a line errc s
  | .holdWindowEnd a line => Sys2Proof.Machine.execHoldWindowEnd a line s
  | .dieAbsentMark n => Sys2Proof.Machine.execDieAbsentMark n s
  | .homeLossScan slice set => Sys2Proof.Machine.execHomeLossScan slice set s
  | .homeScanDone slice => Sys2Proof.Machine.execHomeScanDone slice s
  | .dieRejoin n => Sys2Proof.Machine.execDieRejoin n s
  | .routeCommit ini site v => Sys2Proof.Machine.execRouteCommit ini site v s
  | .routeInstall site ni entry => Sys2Proof.Machine.execRouteInstall site ni entry s
  | .routerReconfig ini site v => Sys2Proof.Machine.execRouterReconfig ini site v s
  | .routerDrainDone site cycles => Sys2Proof.Machine.execRouterDrainDone site cycles s
  | .packetReceive site ni hdr reqBytes cycles => Sys2Proof.Machine.execPacketReceive site ni hdr reqBytes cycles s
  | .statsConfigWrite ini site v => Sys2Proof.Machine.execStatsConfigWrite ini site v s
  | .linkFrameReceive l word payload corrected uncorr => Sys2Proof.Machine.execLinkFrameReceive l word payload corrected uncorr s
  | .linkReplayRequest l seq => Sys2Proof.Machine.execLinkReplayRequest l seq s
  | .linkReplayTimeout l => Sys2Proof.Machine.execLinkReplayTimeout l s
  | .linkCredit l counts => Sys2Proof.Machine.execLinkCredit l counts s
  | .d2dRetrain ini l v => Sys2Proof.Machine.execD2dRetrain ini l v s
  | .d2dDisable ini l v => Sys2Proof.Machine.execD2dDisable ini l v s
  | .linkTrainDone l farSite farSerial farOffer farRev ok => Sys2Proof.Machine.execLinkTrainDone l farSite farSerial farOffer farRev ok s
  | .heartbeatSend l => Sys2Proof.Machine.execHeartbeatSend l s
  | .heartbeatLoss l => Sys2Proof.Machine.execHeartbeatLoss l s
  | .linkRecover l seq => Sys2Proof.Machine.execLinkRecover l seq s
  | .dieEmpty n => Sys2Proof.Machine.execDieEmpty n s
  | .fuseRead site corr err => Sys2Proof.Machine.execFuseRead site corr err s
  | .mirrd ep addr => Sys2Proof.Machine.execMirrd ep addr s
  | .mirwr ep addr v => Sys2Proof.Machine.execMirwr ep addr v s
  | .pairWrite ini q v => Sys2Proof.Machine.execPairWrite ini q v s
  | .mcpChannelEnable ini ch v => Sys2Proof.Machine.execMcpChannelEnable ini ch v s
  | .mcpChannelDisable ini ch v => Sys2Proof.Machine.execMcpChannelDisable ini ch v s
  | .mcpResync ini ch => Sys2Proof.Machine.execMcpResync ini ch s
  | .mcpHalfArrival ch b => Sys2Proof.Machine.execMcpHalfArrival ch b s
  | .mcpWindowOpen ch => Sys2Proof.Machine.execMcpWindowOpen ch s
  | .mcpDeadline ch => Sys2Proof.Machine.execMcpDeadline ch s
  | .enterOperate ini => Sys2Proof.Machine.execEnterOperate ini s
  | .recover ini => Sys2Proof.Machine.execRecover ini s
  | .enterSafe ini => Sys2Proof.Machine.execEnterSafe ini s
  | .enterMaint ini => Sys2Proof.Machine.execEnterMaint ini s
  | .report ini react => Sys2Proof.Machine.execReport ini react s
  | .safeToggle => Sys2Proof.Machine.execSafeToggle s
  | .wdArm ini v => Sys2Proof.Machine.execWdArm ini v s
  | .wdService ini slot v mirror ticks => Sys2Proof.Machine.execWdService ini slot v mirror ticks s
  | .wdTimeout => Sys2Proof.Machine.execWdTimeout s
  | .wdRefLost => Sys2Proof.Machine.execWdRefLost s
  | .wdExpiryReset => Sys2Proof.Machine.execWdExpiryReset s
  | .wdFreezeRelease => Sys2Proof.Machine.execWdFreezeRelease s
  | .powerup ini ch => Sys2Proof.Machine.execPowerup ini ch s
  | .dmcPowerupDone ch => Sys2Proof.Machine.execDmcPowerupDone ch s
  | .service ini ch => Sys2Proof.Machine.execService ini ch s
  | .test ini ch => Sys2Proof.Machine.execTest ini ch s
  | .exitTest ini ch => Sys2Proof.Machine.execExitTest ini ch s
  | .fill ini ch => Sys2Proof.Machine.execFill ini ch s
  | .dmcFillDone ch => Sys2Proof.Machine.execDmcFillDone ch s
  | .dmcSweep ini ch v => Sys2Proof.Machine.execDmcSweep ini ch v s
  | .dmcSweepDone ch res => Sys2Proof.Machine.execDmcSweepDone ch res s
  | .dmcMapWrite ini ch v => Sys2Proof.Machine.execDmcMapWrite ini ch v s
  | .dmcSlotEnable ini ch v => Sys2Proof.Machine.execDmcSlotEnable ini ch v s
  | .dmcReadRequest ch line ep part rt => Sys2Proof.Machine.execDmcReadRequest ch line ep part rt s
  | .dmcWriteRequest ch line ep part rt poison data => Sys2Proof.Machine.execDmcWriteRequest ch line ep part rt poison data s
  | .dmcMirwr ch addr ep part w => Sys2Proof.Machine.execDmcMirwr ch addr ep part w s
  | .dmcSchedule ch busyBanks => Sys2Proof.Machine.execDmcSchedule ch busyBanks s
  | .dmcReadData ch symbols0 symbols1 uncorr0 uncorr1 => Sys2Proof.Machine.execDmcReadData ch symbols0 symbols1 uncorr0 uncorr1 s
  | .dmcRefresh ch => Sys2Proof.Machine.execDmcRefresh ch s
  | .dmcMr4Read ch rank mult => Sys2Proof.Machine.execDmcMr4Read ch rank mult s
  | .dmcTempRead ch temp => Sys2Proof.Machine.execDmcTempRead ch temp s
  | .dmcOffsetApply ch => Sys2Proof.Machine.execDmcOffsetApply ch s
  | .dmcPanic port => Sys2Proof.Machine.execDmcPanic port s
  | .dmcSlotStart ch => Sys2Proof.Machine.execDmcSlotStart ch s
  | .dmcTokenRefill ch p => Sys2Proof.Machine.execDmcTokenRefill ch p s
  | .qeOwn ini v => Sys2Proof.Machine.execQeOwn ini v s
  | .qeRingEnable ini p v => Sys2Proof.Machine.execQeRingEnable ini p v s
  | .qeRingDisable ini p v => Sys2Proof.Machine.execQeRingDisable ini p v s
  | .qeEnq ini p v => Sys2Proof.Machine.execQeEnq ini p v s
  | .qeEnqSourceRead ring r => Sys2Proof.Machine.execQeEnqSourceRead ring r s
  | .qeEnqComplete ring err => Sys2Proof.Machine.execQeEnqComplete ring err s
  | .qeDeq ini p v => Sys2Proof.Machine.execQeDeq ini p v s
  | .qeDeqComplete ring bufErr dstErr => Sys2Proof.Machine.execQeDeqComplete ring bufErr dstErr s
  | .qeDmaEnable ini p v => Sys2Proof.Machine.execQeDmaEnable ini p v s
  | .qeDmaDisable ini p v => Sys2Proof.Machine.execQeDmaDisable ini p v s
  | .dmaCommandFetch ch => Sys2Proof.Machine.execDmaCommandFetch ch s
  | .dmaCommandStart ch => Sys2Proof.Machine.execDmaCommandStart ch s
  | .dmaCommandComplete ch tag err => Sys2Proof.Machine.execDmaCommandComplete ch tag err s
  | .dmaCompletionPost ch => Sys2Proof.Machine.execDmaCompletionPost ch s
  | .qeDabort ini p v done => Sys2Proof.Machine.execQeDabort ini p v done s
  | .hpInboundRequest port fn bar off tlp => Sys2Proof.Machine.execHpInboundRequest port fn bar off tlp s
  | .hpConfigRequest port fn req => Sys2Proof.Machine.execHpConfigRequest port fn req s
  | .hpOutboundAccess ini addr width wr => Sys2Proof.Machine.execHpOutboundAccess ini addr width wr s
  | .hpReadCompletion port tag v => Sys2Proof.Machine.execHpReadCompletion port tag v s
  | .hpCompletionTimeout port tag => Sys2Proof.Machine.execHpCompletionTimeout port tag s
  | .hpLinkDown port => Sys2Proof.Machine.execHpLinkDown port s
  | .hpFlr port fn => Sys2Proof.Machine.execHpFlr port fn s
  | .hpVmapEnable ini port k v => Sys2Proof.Machine.execHpVmapEnable ini port k v s
  | .hpMsixSend port => Sys2Proof.Machine.execHpMsixSend port s
  | .hsemRead ini port k both => Sys2Proof.Machine.execHsemRead ini port k both s
  | .hsemWrite ini port k v => Sys2Proof.Machine.execHsemWrite ini port k v s
  | .spaConfigAccess ini port wr dev => Sys2Proof.Machine.execSpaConfigAccess ini port wr dev s
  | .spaDeviceVector port v => Sys2Proof.Machine.execSpaDeviceVector port v s
  | .spaDeviceDma port addr req => Sys2Proof.Machine.execSpaDeviceDma port addr req s
  | .spaLinkDown port => Sys2Proof.Machine.execSpaLinkDown port s
  | .ethFrameReceive m frame fcsOk => Sys2Proof.Machine.execEthFrameReceive m frame fcsOk s
  | .ethTxEntry m t => Sys2Proof.Machine.execEthTxEntry m t s
  | .ethTxComplete m => Sys2Proof.Machine.execEthTxComplete m s
  | .ptpStep ini m v => Sys2Proof.Machine.execPtpStep ini m v s
  | .gclChange ini m v => Sys2Proof.Machine.execGclChange ini m v s
  | .ethGateInterval m => Sys2Proof.Machine.execEthGateInterval m s
  | .ethLaunch m t => Sys2Proof.Machine.execEthLaunch m t s
  | .frerRecoveryReset r => Sys2Proof.Machine.execFrerRecoveryReset r s
  | .canfFrameReceive k x => Sys2Proof.Machine.execCanfFrameReceive k x s
  | .canfFrameTransmit x => Sys2Proof.Machine.execCanfFrameTransmit x s
  | .canfBusOffRecovery k => Sys2Proof.Machine.execCanfBusOffRecovery k s
  | .mvbPortWrite ini k port data => Sys2Proof.Machine.execMvbPortWrite ini k port data s
  | .mvbFrame k x => Sys2Proof.Machine.execMvbFrame k x s
  | .serTransfer k rx => Sys2Proof.Machine.execSerTransfer k rx s
  | .gpioEdge pin level first => Sys2Proof.Machine.execGpioEdge pin level first s
  | .pslEnable ini v => Sys2Proof.Machine.execPslEnable ini v s
  | .pslPortRetrain ini x v => Sys2Proof.Machine.execPslPortRetrain ini x v s
  | .pslAlignDone x => Sys2Proof.Machine.execPslAlignDone x s
  | .pslIdent x serial addr count => Sys2Proof.Machine.execPslIdent x serial addr count s
  | .pslCal x t1 t2 t3 t4 => Sys2Proof.Machine.execPslCal x t1 t2 t3 t4 s
  | .pslCalibrate x => Sys2Proof.Machine.execPslCalibrate x s
  | .pslTimeSample => Sys2Proof.Machine.execPslTimeSample s
  | .pslTimeFrame x f inside => Sys2Proof.Machine.execPslTimeFrame x f inside s
  | .pslSampleAge x idx => Sys2Proof.Machine.execPslSampleAge x idx s
  | .pslMessageSend k => Sys2Proof.Machine.execPslMessageSend k s
  | .pslMessageFrame x f => Sys2Proof.Machine.execPslMessageFrame x f s
  | .pslReplay x hseq => Sys2Proof.Machine.execPslReplay x hseq s
  | .pslPortTimeout x => Sys2Proof.Machine.execPslPortTimeout x s
  | .pslRenumber ini => Sys2Proof.Machine.execPslRenumber ini s
  | .pwrDomainOn ini d => Sys2Proof.Machine.execPwrDomainOn ini d s
  | .pwrDomainOff ini d => Sys2Proof.Machine.execPwrDomainOff ini d s
  | .domainDone => Sys2Proof.Machine.execDomainDone s
  | .pwrEnvelopeWrite ini v => Sys2Proof.Machine.execPwrEnvelopeWrite ini v s
  | .pwrEmissionWrite ini v => Sys2Proof.Machine.execPwrEmissionWrite ini v s
  | .pwrEmissionDone => Sys2Proof.Machine.execPwrEmissionDone s
  | .pwrSample power => Sys2Proof.Machine.execPwrSample power s
  | .pwrEvaluate => Sys2Proof.Machine.execPwrEvaluate s
  | .hupSample code => Sys2Proof.Machine.execHupSample code s
  | .jrnRequest => Sys2Proof.Machine.execJrnRequest s
  | .jrnMarkerWrite => Sys2Proof.Machine.execJrnMarkerWrite s
  | .jrnNvmeCompletion ok => Sys2Proof.Machine.execJrnNvmeCompletion ok s
  | .jrnNvmeTimeout => Sys2Proof.Machine.execJrnNvmeTimeout s
  | .jrnErase => Sys2Proof.Machine.execJrnErase s
  | .jrnEraseDone => Sys2Proof.Machine.execJrnEraseDone s
  | .jrnScan ini v => Sys2Proof.Machine.execJrnScan ini v s
  | .jrnScanDone => Sys2Proof.Machine.execJrnScanDone s
  | .powerOnReset => Sys2Proof.Machine.execPowerOnReset s
  | .powerOnResetEnd => Sys2Proof.Machine.execPowerOnResetEnd s
  | .prst => Sys2Proof.Machine.execPrst s
  | .pkgrst ini => Sys2Proof.Machine.execPkgrst ini s
  | .vinCoreLow => Sys2Proof.Machine.execVinCoreLow s
  | .packageReset => Sys2Proof.Machine.execPackageReset s
  | .packageResetEnd => Sys2Proof.Machine.execPackageResetEnd s
  | .dierst ini site => Sys2Proof.Machine.execDierst ini site s
  | .debugReset => Sys2Proof.Machine.execDebugReset s
  | .thermtrip => Sys2Proof.Machine.execThermtrip s
  | .bootRom flash => Sys2Proof.Machine.execBootRom flash s
  | .provision ini => Sys2Proof.Machine.execProvision ini s
  | .lock ini => Sys2Proof.Machine.execLock ini s
  | .enroll ini => Sys2Proof.Machine.execEnroll ini s
  | .keyop ini => Sys2Proof.Machine.execKeyop ini s
  | .advance ini => Sys2Proof.Machine.execAdvance ini s
  | .install ini => Sys2Proof.Machine.execInstall ini s
  | .activate ini => Sys2Proof.Machine.execActivate ini s
  | .loadmc ini => Sys2Proof.Machine.execLoadmc ini s
  | .nopatch ini => Sys2Proof.Machine.execNopatch ini s
  | .verifyMc ini => Sys2Proof.Machine.execVerifyMc ini s
  | .handover ini => Sys2Proof.Machine.execHandover ini s
  | .verify ini p => Sys2Proof.Machine.execVerify ini p s
  | .reportAttest ini p => Sys2Proof.Machine.execReportAttest ini p s
  | .chain ini p => Sys2Proof.Machine.execChain ini p s
  | .bseCommandDone => Sys2Proof.Machine.execBseCommandDone s
  | .rcvOpen ini => Sys2Proof.Machine.execRcvOpen ini s
  | .rcvPush ini count => Sys2Proof.Machine.execRcvPush ini count s
  | .rcvDone ini => Sys2Proof.Machine.execRcvDone ini s
  | .rcvClose ini => Sys2Proof.Machine.execRcvClose ini s
  | .scanIrUpdate codes => Sys2Proof.Machine.execScanIrUpdate codes s
  | .dieselUpdate v => Sys2Proof.Machine.execDieselUpdate v s
  | .dbgaccUpdate v => Sys2Proof.Machine.execDbgaccUpdate v s
  | .authReq v => Sys2Proof.Machine.execAuthReq v s
  | .authGo => Sys2Proof.Machine.execAuthGo s
  | .authVerifyDone => Sys2Proof.Machine.execAuthVerifyDone s
  | .scanRevoke p => Sys2Proof.Machine.execScanRevoke p s
  | .dbgRevoke ini v => Sys2Proof.Machine.execDbgRevoke ini v s
  | .stop => Sys2Proof.Machine.execStop s
  | .stopPart => Sys2Proof.Machine.execStopPart s
  | .run => Sys2Proof.Machine.execRun s
  | .mbxIn v => Sys2Proof.Machine.execMbxIn v s
  | .mbxOut => Sys2Proof.Machine.execMbxOut s
  | .coreMbxRead ini c => Sys2Proof.Machine.execCoreMbxRead ini c s
  | .coreMbxWrite ini c v => Sys2Proof.Machine.execCoreMbxWrite ini c v s
  | .traceData => Sys2Proof.Machine.execTraceData s
  | .debugEntry c => Sys2Proof.Machine.execDebugEntry c s
  | .dbgWdExpiry p => Sys2Proof.Machine.execDbgWdExpiry p s
  | .wdsvc ini p => Sys2Proof.Machine.execWdsvc ini p s
  | .dbgViewRequest ini p v => Sys2Proof.Machine.execDbgViewRequest ini p v s
  | .lnsSessionEnable ini p v => Sys2Proof.Machine.execLnsSessionEnable ini p v s
  | .lnsSync c => Sys2Proof.Machine.execLnsSync c s
  | .lnsPacket c ty bytes => Sys2Proof.Machine.execLnsPacket c ty bytes s
  | .lnsTrigger p k c => Sys2Proof.Machine.execLnsTrigger p k c s
  | .lnsCaptureStop p => Sys2Proof.Machine.execLnsCaptureStop p s
  | .lnsRead ini p => Sys2Proof.Machine.execLnsRead ini p s
  | .gfreezeWrite ini v => Sys2Proof.Machine.execGfreezeWrite ini v s
  | .snaptimeArm ini v => Sys2Proof.Machine.execSnaptimeArm ini v s
  | .counterSnapshot => Sys2Proof.Machine.execCounterSnapshot s
  | .counterWrap c k => Sys2Proof.Machine.execCounterWrap c k s
  | .hpLinkUp port rate width numvf => Sys2Proof.Machine.execHpLinkUp port rate width numvf s
  | .spaLinkUp port => Sys2Proof.Machine.execSpaLinkUp port s
  | .ethLinkChange m up speed => Sys2Proof.Machine.execEthLinkChange m up speed s
  | .mvbLineChange k lineB good => Sys2Proof.Machine.execMvbLineChange k lineB good s
  | .pslIdleFrame x f => Sys2Proof.Machine.execPslIdleFrame x f s
  | .pslReplayTimeout x => Sys2Proof.Machine.execPslReplayTimeout x s
  | .pwrDomainOffDone => Sys2Proof.Machine.execPwrDomainOffDone s
  | .boundaryRegisterUpdate cells => Sys2Proof.Machine.execBoundaryRegisterUpdate cells s
  | .lnsSinkWrite p => Sys2Proof.Machine.execLnsSinkWrite p s

end Sys2Proof.Machine
end

