-- ==== Sys2Proof/Machine/Step.lean ====
section
/-! DEFINITION. One step: the command at the front of the queue, or idling. -/

namespace Sys2Proof.Machine

/-- The state with a command at the front of its queue. -/
def State.pushFront (s : State) (c : Instr) : State := { s with pending := c :: s.pending }

/-- Take the command at the front of the queue and run it with the queue's rest; on an empty queue the package idles (log
entry 13). -/
def step (s : State) : Host.Outcome State Fault Refusal :=
  match s.pending with
  | [] => .next s
  | c :: rest => exec c { s with pending := rest }

/-- The state with the command that a word spells put at the front of its queue; unchanged where the word spells none. -/
def State.withFetchWord (s : State) (nbits w : Nat) : State :=
  match decodeTableWord nbits w with
  | some c => s.pushFront c
  | none => s

end Sys2Proof.Machine
end

