-- ==== Sys2Proof/Safety.lean ====
section
/-! DEFINITION. What counts as a safe run, and the conditions under which a command has its effect, in the terms that statements use. -/

namespace Sys2Proof.Safety

open Sys2Proof.Machine

/-- Memory is in its canonical form. -/
abbrev MemOk (s : State) : Prop := Memory.wf s.fills s.mem = true

/-- A run is safe while no step faults and none is refused. -/
def Runs (s : State) : Prop := ∃ t, step s = .next t

/-- A register access reaches its register and none of the common rules turns it away: the block is present and powered and a route leads
to it (R6, R309), it is READY (R39), the initiator's partition is 0 or owns the page (R42), and no semaphore holds a host off (R44). -/
abbrev Accepted (s : State) (i : Initiator) (r : RegAddr) : Prop :=
  cutOff s i r.ty r.inst = false ∧ reaches s i r = true ∧ semBlocked s i r = false ∧ ready s r.ty r.inst = true

/-- The same for a write that only M-level code of partition 0 may make (R27, R43). -/
abbrev AcceptedM0 (s : State) (i : Initiator) (r : RegAddr) : Prop := Accepted s i r ∧ isM0 s i = true

/-- The same for a write that needs H or M. -/
abbrev AcceptedHM (s : State) (i : Initiator) (r : RegAddr) : Prop := Accepted s i r ∧ isHM s i = true

/-- The compare conditions of Table 7.6a on operands of one width: EQ, NE, LT and GE signed, LTU and GEU, BSET, BCLR. -/
def compareSpec {n : Nat} (cond : Nat) (a b : BitVec n) : Bool :=
  match cond with
  | 0 => a == b
  | 1 => a != b
  | 2 => a.slt b
  | 3 => b.sle a
  | 4 => a.ult b
  | 5 => b.ule a
  | 6 => a &&& b != 0
  | _ => a &&& b == 0

/-- The predicate functions of R184: PAND, POR, PXOR, PANDN, PNOT. -/
def predicateSpec (fn : Nat) (a b : Bool) : Bool :=
  match fn with
  | 0 => a && b
  | 1 => a || b
  | 2 => xor a b
  | 3 => a && !b
  | _ => !a

/-- A core executes its next instruction, with guard `g`, at once: it runs, its current bank is ACTIVE (R113), no imprecise exception is
due (R229), no breakpoint matches (R477), the guard holds (R198), the bank is not in its trap window (R157), and no unassigned word lies at
its PC (R179). -/
abbrev CoreReady (s : State) (c : CoreId) (g : Guard) : Prop :=
  canStep (getCore s c) = true ∧ impreciseDue (curBank s c) = false ∧ ibpHit s c = none ∧ (curBank s c).guard g = true ∧
    (curBank s c).tw = false ∧ illegalHead s c = false

/-- The same where no active hardware loop ends at the instruction, as one of class B, K or C asks (R170). -/
abbrev CoreReadyCtl (s : State) (c : CoreId) (g : Guard) : Prop := CoreReady s c g ∧ (curBank s c).loopEndAt (curBank s c).pc = false

/-- The same where the extended state of the current bank is available (R173). -/
abbrev CoreReadyExt (s : State) (c : CoreId) (g : Guard) : Prop := CoreReady s c g ∧ (getCore s c).avail = true

/-- A core passes its next instruction by, because the guard `g` is false (R154): it runs, its current bank is ACTIVE, no imprecise
exception is due, no breakpoint matches, no unassigned word lies at its PC. -/
abbrev CoreSkips (s : State) (c : CoreId) (g : Guard) : Prop :=
  canStep (getCore s c) = true ∧ impreciseDue (curBank s c) = false ∧ ibpHit s c = none ∧ (curBank s c).guard g = false ∧
    illegalHead s c = false

/-- A core meets its next instruction, whatever its guard. -/
abbrev CoreMeets (s : State) (c : CoreId) : Prop :=
  canStep (getCore s c) = true ∧ impreciseDue (curBank s c) = false ∧ ibpHit s c = none

/-- What an instruction of core `c` that only computes leaves as it was: memory, every other core, every block register but the core's
performance counters and CACHE_LOCKLOST, every other bank of the core, the accumulators, floating-point and Prism registers and the reservation of the core, and
of its current bank every general register but `dst`, and, where no write in shadow comes due (R146), the predicates, the status, the stack
registers, the address generators and the registers that a frame saves. -/
def OnlyComputes (s t : State) (c : Nat) (dst : Option R5) : Prop :=
  t.mem = s.mem ∧ t.fills = s.fills ∧ (t.poison = s.poison ∧ t.dramGen = s.dramGen) ∧ (∀ d, d ≠ c → getCore t d = getCore s d) ∧
    (∀ q : RegAddr, (∀ k, rkey q ≠ rkey (Reg.CNT_CNT c k)) → rkey q ≠ rkey (Reg.CNT_STATUS c) → rkey q ≠ rkey (Reg.CACHE_LOCKLOST c) → rd t q = rd s q) ∧
    (getCore t c).cur = (getCore s c).cur ∧ (∀ m, m ≠ (getCore s c).cur → (getCore t c).bank m = (getCore s c).bank m) ∧
    (∀ r : R5, dst ≠ some r → rg t c r = rg s c r) ∧
    (getCore t c).ac = (getCore s c).ac ∧ (getCore t c).f = (getCore s c).f ∧ (getCore t c).pr = (getCore s c).pr ∧
    (getCore t c).resv = (getCore s c).resv ∧
    ((curBank s c).shadow = [] →
      (getCore t c).fpcsr = (getCore s c).fpcsr ∧ (curBank t c).preds = (curBank s c).preds ∧ (curBank t c).status = (curBank s c).status ∧
        (curBank t c).sp = (curBank s c).sp ∧ (curBank t c).slim = (curBank s c).slim ∧ (curBank t c).xag = (curBank s c).xag ∧
        (curBank t c).yag = (curBank s c).yag ∧ (curBank t c).depth = (curBank s c).depth ∧ (curBank t c).wfb = (curBank s c).wfb ∧
        (curBank t c).cwp = (curBank s c).cwp ∧ (curBank t c).xsave = (curBank s c).xsave)

/-- Memory after a store of bytes: outside them every cell is as it was, and every byte reads as it did, but for bytes of a host's memory,
which that host may change at any time; the bytes stored read back. -/
abbrev WritesOnly (s t : State) (a : Nat) (l : List Byte) : Prop :=
  (∀ x, x < a ∨ a + l.length ≤ x →
    memGet t.fills t.mem x = memGet s.fills s.mem x ∧ (isHostWin x = false → rdByte t x = rdByte s x)) ∧
    rdBytes t a l.length = l

/-- A home slice takes a request in: its line exists, is served and is reached (R285, R309), and the slice holds the requester's granted
credit, or has neither transaction nor credit nor another's reservation on the line, a free tracker, one more for the entry's eviction, and room for its entry (R283, R287, R292, R296). -/
abbrev HomeTakes (s : State) (t : CohTx) : Prop :=
  areaOf (64 * t.line) = .dram ∧ noRoute s (reqEp t.req) (endpointOf .hom (sliceOf t.line)) = false ∧ memErr s (64 * t.line) false = none ∧
    ((getSl s (sliceOf t.line)).granted.contains (t.line, t.req) = true ∨
      ((getSl s (sliceOf t.line)).tx t.line).isSome = false ∧ ((getSl s (sliceOf t.line)).granted.any fun g => g.1 == t.line) = false ∧
        (getSl s (sliceOf t.line)).trackers +
          (needsEntry t.kind && (victimOf (getSl s (sliceOf t.line)) t.line).isSome).toNat < 1024 ∧
        ((getSl s (sliceOf t.line)).reserved.any fun r => r.1 == t.line && t.req != .agent r.2) = false ∧
        (needsEntry t.kind && victimOf (getSl s (sliceOf t.line)) t.line == some none) = false)

end Sys2Proof.Safety
end

