-- ==== Sys2Proof/WellFormed.lean ====
section
/-! DEFINITION. Which commands are well formed: what no sender of a command can get wrong by a value alone. An encoding that the
instruction tables leave unassigned is well formed; its meaning raises ILLEGAL (R179). -/

namespace Sys2Proof

/-- The widths of an access in bits (R35). -/
def accessWidth (w : Nat) : Bool := w == 8 || w == 16 || w == 32 || w == 64

/-- A location within its page of 4 KiB (R34). -/
def inPage (r : RegAddr) : Bool := decide (r.off < 4096)

/-- A location of an absent block. -/
def absTarget : AbsTarget → Bool
  | .page r => inPage r
  | .window .. => true

/-- Well-formedness, one arm per command: an access has a width of R35 and lies in its page, WrFull and WrPartial carry 64 bytes (Table 11.2), FCVT has a
conversion's function (Table 7.15), a CREDIT frame has a count for each of VCs 0 to 5 (R316), an MVB port holds at most 32
bytes (R414), a CAN frame at most 64 (R413). -/
def WellFormed (i : Instr) : Bool :=
  match i with
  | .registerWrite _ r width _ => accessWidth width && inPage r
  | .readClear _ r width => accessWidth width && inPage r
  | .mwWrite _ r _ _ => inPage r
  | .evtSet _ r _ => inPage r
  | .evtClear _ r _ => inPage r
  | .errorLogEntryWrite => true
  | .errCopyWrite => true
  | .errCopyConfig .. => true
  | .errDataPageWrite _ _ _ width _ => accessWidth width
  | .amminBuild => true
  | .amminWrite _ _ width _ => accessWidth width
  | .absentBlockAccess _ t _ => absTarget t
  | .globalAliasAccess _ _ _ width _ => accessWidth width
  | .dataPageAccess _ r width _ => accessWidth width && inPage r
  | .debugViewRead _ r width => accessWidth width && inPage r
  | .tbNanosecond => true
  | .encEdge .. => true
  | .encFilterAccept .. => true
  | .encIndexEdge .. => true
  | .encCtlWrite .. => true
  | .sdpTick .. => true
  | .tbAsTick .. => true
  | .tbRefTick => true
  | .tbStandstill .. => true
  | .tbTimeout .. => true
  | .tbHoldExpiry .. => true
  | .tbUncGrow .. => true
  | .tbEnable .. => true
  | .tbDisable .. => true
  | .tbRestart .. => true
  | .tbSet .. => true
  | .tbStep .. => true
  | .tbCapture .. => true
  | .sdpEnable .. => true
  | .sdpChkErr .. => true
  | .sdpClassify .. => true
  | .sdpLock .. => true
  | .sdpLockLoss .. => true
  | .axleEvaluate => true
  | .cmpArm .. => true
  | .cmpArmEffect .. => true
  | .cmpDisarm .. => true
  | .cmpActionDeliver => true
  | .gpeSegmentStart .. => true
  | .gpeStart .. => true
  | .gpeEnable .. => true
  | .gpeEntryApply .. => true
  | .gpeDeadtimeExpiry .. => true
  | .gpeForceClear .. => true
  | .gpeRefill .. => true
  | .sdmSinc3Output .. => true
  | .sdmSinc2Output .. => true
  | .sdmStuck .. => true
  | .sdmSnapshot .. => true
  | .sdmSnapRingWrite => true
  | .evrSourceArrival => true
  | .evrDispatch .. => true
  | .poolFifoDeliver .. => true
  | .inboxOffer .. => true
  | .eventPacket .. => true
  | .evrOwnWrite .. => true
  | .evrSourceEnable .. => true
  | .evrSourceDisable .. => true
  | .evrCfgWrite .. => true
  | .evrSetcfg .. => true
  | .evrRaise .. => true
  | .poolMaskWrite .. => true
  | .waite .. => true
  | .bankSwitch .. => true
  | .levelEnable .. => true
  | .schedEntryWrite .. => true
  | .budgetExpiry .. => true
  | .localEventEnter .. => true
  | .instructionFetch .. => true
  | .xipLineFetch .. => true
  | .xipLineReturn .. => true
  | .btbInv .. => true
  | .dirInv .. => true
  | .rekey .. => true
  | .predictorOpDone .. => true
  | .intAlu .. => true
  | .addi .. => true
  | .andi .. => true
  | .ori .. => true
  | .xori .. => true
  | .shi .. => true
  | .cmp .. => true
  | .predicateOp .. => true
  | .sel .. => true
  | .cmov .. => true
  | .mul .. => true
  | .div .. => true
  | .fractionOp .. => true
  | .mac .. => true
  | .acrd15 .. => true
  | .acrd31 .. => true
  | .acrd63 .. => true
  | .acrdl .. => true
  | .acrdg .. => true
  | .acwr .. => true
  | .acwrg .. => true
  | .acsh .. => true
  | .acadd .. => true
  | .acclr .. => true
  | .macx .. => true
  | .load .. => true
  | .store .. => true
  | .ldxStx .. => true
  | .ldtStt .. => true
  | .ldmw .. => true
  | .stmw .. => true
  | .ldl .. => true
  | .stc .. => true
  | .fenceAcq .. => true
  | .fenceRel .. => true
  | .fenceAll .. => true
  | .ifence .. => true
  | .br .. => true
  | .jr .. => true
  | .call .. => true
  | .callr .. => true
  | .ret .. => true
  | .loop .. => true
  | .mfsr .. => true
  | .mtsr .. => true
  | .rfe .. => true
  | .wflush .. => true
  | .trap .. => true
  | .brk .. => true
  | .fpArith .. => true
  | .fdiv .. => true
  | .fsqrt .. => true
  | .fcvt _ _ fn _ _ => fn.toNat % 64 < 4
  | .fmov .. => true
  | .fcmp .. => true
  | .fld .. => true
  | .fst .. => true
  | .li .. => true
  | .lih .. => true
  | .addw .. => true
  | .andw .. => true
  | .orw .. => true
  | .cmpw .. => true
  | .pset .. => true
  | .pget .. => true
  | .pstat .. => true
  | .pwait .. => true
  | .pclr .. => true
  | .pfft .. => true
  | .pfilt .. => true
  | .pmat .. => true
  | .prismCommandStart .. => true
  | .prismCommandDone .. => true
  | .customInstruction .. => true
  | .xstateLazy .. => true
  | .xsaveWrite .. => true
  | .loopsRegWrite .. => true
  | .impreciseExceptionDelivery .. => true
  | .storeErrorResponse .. => true
  | .machineCheck .. => true
  | .coreRelease .. => true
  | .mcWaitTimeout .. => true
  | .partStart .. => true
  | .partStop .. => true
  | .partStopDone .. => true
  | .partCoresWrite .. => true
  | .partModesWrite .. => true
  | .partTimingTakeEffect .. => true
  | .l3waysWrite .. => true
  | .tlbiAll .. => true
  | .tlbiAsn .. => true
  | .tlbiVa .. => true
  | .tlbiPstageAll .. => true
  | .tlbIlock .. => true
  | .tlbIunlock .. => true
  | .tlbiDone .. => true
  | .cacheIlock .. => true
  | .cacheIunlock .. => true
  | .l1dFlush .. => true
  | .cacheClean .. => true
  | .cacheCleanInv .. => true
  | .cacheOpDone .. => true
  | .ptbWrite .. => true
  | .gtbWrite .. => true
  | .rdshared .. => true
  | .rdunique .. => true
  | .upgrade .. => true
  | .rdonce .. => true
  | .wrfull _ _ data => data.length == 64
  | .wrpartial _ _ _ data => data.length == 64
  | .wbdata .. => true
  | .evict .. => true
  | .snpshared .. => true
  | .snpinv .. => true
  | .snponce .. => true
  | .snpflush .. => true
  | .snpresp .. => true
  | .snprespdata .. => true
  | .comp .. => true
  | .data .. => true
  | .datafwd .. => true
  | .retry .. => true
  | .creditgrant .. => true
  | .nack .. => true
  | .nackBackoffExpiry .. => true
  | .wback .. => true
  | .errresp .. => true
  | .holdWindowEnd .. => true
  | .dieAbsentMark .. => true
  | .homeLossScan .. => true
  | .homeScanDone .. => true
  | .dieRejoin .. => true
  | .routeCommit .. => true
  | .routeInstall .. => true
  | .routerReconfig .. => true
  | .routerDrainDone .. => true
  | .packetReceive .. => true
  | .statsConfigWrite .. => true
  | .linkFrameReceive .. => true
  | .linkReplayRequest .. => true
  | .linkReplayTimeout .. => true
  | .linkCredit _ counts => counts.length == 6
  | .d2dRetrain .. => true
  | .d2dDisable .. => true
  | .linkTrainDone .. => true
  | .heartbeatSend .. => true
  | .heartbeatLoss .. => true
  | .linkRecover .. => true
  | .dieEmpty .. => true
  | .fuseRead .. => true
  | .mirrd .. => true
  | .mirwr .. => true
  | .pairWrite .. => true
  | .mcpChannelEnable .. => true
  | .mcpChannelDisable .. => true
  | .mcpResync .. => true
  | .mcpHalfArrival .. => true
  | .mcpWindowOpen .. => true
  | .mcpDeadline .. => true
  | .enterOperate .. => true
  | .recover .. => true
  | .enterSafe .. => true
  | .enterMaint .. => true
  | .report .. => true
  | .safeToggle => true
  | .wdArm .. => true
  | .wdService .. => true
  | .wdTimeout => true
  | .wdRefLost => true
  | .wdExpiryReset => true
  | .wdFreezeRelease => true
  | .powerup .. => true
  | .dmcPowerupDone .. => true
  | .service .. => true
  | .test .. => true
  | .exitTest .. => true
  | .fill .. => true
  | .dmcFillDone .. => true
  | .dmcSweep .. => true
  | .dmcSweepDone .. => true
  | .dmcMapWrite .. => true
  | .dmcSlotEnable .. => true
  | .dmcReadRequest .. => true
  | .dmcWriteRequest _ _ _ _ _ _ data => data.length == 64
  | .dmcMirwr .. => true
  | .dmcSchedule .. => true
  | .dmcReadData .. => true
  | .dmcRefresh .. => true
  | .dmcMr4Read .. => true
  | .dmcTempRead .. => true
  | .dmcOffsetApply .. => true
  | .dmcPanic .. => true
  | .dmcSlotStart .. => true
  | .dmcTokenRefill .. => true
  | .qeOwn .. => true
  | .qeRingEnable .. => true
  | .qeRingDisable .. => true
  | .qeEnq .. => true
  | .qeEnqSourceRead .. => true
  | .qeEnqComplete .. => true
  | .qeDeq .. => true
  | .qeDeqComplete .. => true
  | .qeDmaEnable .. => true
  | .qeDmaDisable .. => true
  | .dmaCommandFetch .. => true
  | .dmaCommandStart .. => true
  | .dmaCommandComplete .. => true
  | .dmaCompletionPost .. => true
  | .qeDabort .. => true
  | .hpInboundRequest .. => true
  | .hpConfigRequest .. => true
  | .hpOutboundAccess _ _ width _ => accessWidth width
  | .hpReadCompletion .. => true
  | .hpCompletionTimeout .. => true
  | .hpLinkDown .. => true
  | .hpFlr .. => true
  | .hpVmapEnable .. => true
  | .hpMsixSend .. => true
  | .hsemRead .. => true
  | .hsemWrite .. => true
  | .spaConfigAccess .. => true
  | .spaDeviceVector .. => true
  | .spaDeviceDma .. => true
  | .spaLinkDown .. => true
  | .ethFrameReceive .. => true
  | .ethTxEntry .. => true
  | .ethTxComplete .. => true
  | .ptpStep .. => true
  | .gclChange .. => true
  | .ethGateInterval .. => true
  | .ethLaunch .. => true
  | .frerRecoveryReset .. => true
  | .canfFrameReceive _ x => x.frame.data.length ≤ 64
  | .canfFrameTransmit .. => true
  | .canfBusOffRecovery .. => true
  | .mvbPortWrite _ _ _ data => data.length ≤ 32
  | .mvbFrame .. => true
  | .serTransfer .. => true
  | .gpioEdge .. => true
  | .pslEnable .. => true
  | .pslPortRetrain .. => true
  | .pslAlignDone .. => true
  | .pslIdent .. => true
  | .pslCal .. => true
  | .pslCalibrate .. => true
  | .pslTimeSample => true
  | .pslTimeFrame .. => true
  | .pslSampleAge .. => true
  | .pslMessageSend .. => true
  | .pslMessageFrame .. => true
  | .pslReplay .. => true
  | .pslPortTimeout .. => true
  | .pslRenumber .. => true
  | .pwrDomainOn .. => true
  | .pwrDomainOff .. => true
  | .domainDone => true
  | .pwrEnvelopeWrite .. => true
  | .pwrEmissionWrite .. => true
  | .pwrEmissionDone => true
  | .pwrSample .. => true
  | .pwrEvaluate => true
  | .hupSample .. => true
  | .jrnRequest => true
  | .jrnMarkerWrite => true
  | .jrnNvmeCompletion .. => true
  | .jrnNvmeTimeout => true
  | .jrnErase => true
  | .jrnEraseDone => true
  | .jrnScan .. => true
  | .jrnScanDone => true
  | .powerOnReset => true
  | .powerOnResetEnd => true
  | .prst => true
  | .pkgrst .. => true
  | .vinCoreLow => true
  | .packageReset => true
  | .packageResetEnd => true
  | .dierst .. => true
  | .debugReset => true
  | .thermtrip => true
  | .bootRom .. => true
  | .provision .. => true
  | .lock .. => true
  | .enroll .. => true
  | .keyop .. => true
  | .advance .. => true
  | .install .. => true
  | .activate .. => true
  | .loadmc .. => true
  | .nopatch .. => true
  | .verifyMc .. => true
  | .handover .. => true
  | .verify .. => true
  | .reportAttest .. => true
  | .chain .. => true
  | .bseCommandDone => true
  | .rcvOpen .. => true
  | .rcvPush .. => true
  | .rcvDone .. => true
  | .rcvClose .. => true
  | .scanIrUpdate .. => true
  | .dieselUpdate .. => true
  | .dbgaccUpdate .. => true
  | .authReq .. => true
  | .authGo => true
  | .authVerifyDone => true
  | .scanRevoke .. => true
  | .dbgRevoke .. => true
  | .stop => true
  | .stopPart => true
  | .run => true
  | .mbxIn .. => true
  | .mbxOut => true
  | .coreMbxRead .. => true
  | .coreMbxWrite .. => true
  | .traceData => true
  | .debugEntry .. => true
  | .dbgWdExpiry .. => true
  | .wdsvc .. => true
  | .dbgViewRequest .. => true
  | .lnsSessionEnable .. => true
  | .lnsSync .. => true
  | .lnsPacket .. => true
  | .lnsTrigger .. => true
  | .lnsCaptureStop .. => true
  | .lnsRead .. => true
  | .gfreezeWrite .. => true
  | .snaptimeArm .. => true
  | .counterSnapshot => true
  | .counterWrap .. => true
  | .hpLinkUp .. => true
  | .spaLinkUp .. => true
  | .ethLinkChange .. => true
  | .mvbLineChange .. => true
  | .pslIdleFrame .. => true
  | .pslReplayTimeout .. => true
  | .pwrDomainOffDone => true
  | .boundaryRegisterUpdate .. => true
  | .lnsSinkWrite .. => true

end Sys2Proof
end

