-- ==== Sys2Proof/Certificates/Slice0/Obligations.lean ====
section
/-! DEFINITION. Statements for the provers. -/

open Sys2Proof Sys2Proof.Machine

/-- One step is the command at the front of the queue on the state with the queue's rest; an empty queue idles (log entry 13). -/
def Obligations.FrontCommandRuns : Prop :=
  (∀ (c : Instr) (s : State) (l : List Instr), step { s with pending := c :: l } = exec c { s with pending := l }) ∧
  ∀ (s : State), s.pending = [] → step s = .next s

/-- Writes of block registers (R10, R34) and of mirror slots (R45) have their effect. -/
def Obligations.RegisterWritesComplete : Prop :=
  (∀ (s : State) (i : Initiator) (r : RegAddr) (width : Nat) (v : Word), isVaddr r = false → isDataPage r.ty r.inst r.page = false → isHsem r = false → openToAll r = false → 0x100 ≤ r.off → widthOk r width = true → Safety.Accepted s i r → (m0Only r && !isM0 s i) = false → writePriv s i r v = true → writable r = true → isMwSlot r = false → 
      exec (.registerWrite i r width v) s = .next (match blockWrite (respOk s 0) i r v with
        | .done u => u
        | .clamp u => clampNote u i r
        | .fail k => failAccess s i r k)) ∧
  (∀ (s : State) (i : Initiator) (r : RegAddr) (width : Nat) (v : Word) (row : RegRow), isVaddr r = false → isDataPage r.ty r.inst r.page = false → isHsem r = false → openToAll r = false → 0x100 ≤ r.off → widthOk r width = true → Safety.Accepted s i r → (m0Only r && !isM0 s i) = false → writePriv s i r v = true → writable r = true → isMwSlot r = false → findRow r.ty r.page r.off = some row → r.ty = .err ∨ r.ty = .prism ∨ r.ty = .csd → r.off ≠ 0x118 → r.off ≠ 0x120 → 
      ∃ t, exec (.registerWrite i r width v) s = .next t ∧ t.resp = .ok 0 ∧ (∀ q, rkey r ≠ rkey q → rd t q = rd s q) ∧
        rd t r = (rd s r &&& ~~~(BitVec.ofNat 64 row.rw ||| BitVec.ofNat 64 row.w1c)) ||| (v &&& BitVec.ofNat 64 row.rw) |||
          (rd s r &&& BitVec.ofNat 64 row.w1c &&& ~~~v)) ∧
  (∀ (s : State) (i : Initiator) (r : RegAddr) (width : Nat) (v : Word), isVaddr r = false → isDataPage r.ty r.inst r.page = false → isHsem r = false → openToAll r = false → 0x100 ≤ r.off → widthOk r width = true → Safety.Accepted s i r → (m0Only r && !isM0 s i) = false → writePriv s i r v = true → writable r = false → 
      exec (.registerWrite i r width v) s = .next (respOk s 0)) ∧
  (∀ (s : State) (i : Initiator) (r : RegAddr) (v : Word) (mirror : Bool), isVaddr r = false → isDataPage r.ty r.inst r.page = false → isHsem r = false → openToAll r = false → 0x100 ≤ r.off → widthOk r 64 = true → Safety.Accepted s i r → (m0Only r && !isM0 s i) = false → writePriv s i r v = true → writable r = true → isMwSlot r = true → r.ty = .tbu → 
      exec (.mwWrite i r v mirror) s = .next (if mirrorOk v then (match blockWrite (respOk s 0) i r v with
        | .done u => u
        | .clamp u => clampNote u i r
        | .fail k => failAccess (respOk s 0) i r k) else mwMismatch (respOk s 0) i r)) ∧
  (∀ (s : State) (i : Initiator) (r : RegAddr) (v : Word) (mirror : Bool), isVaddr r = false → isDataPage r.ty r.inst r.page = false → isHsem r = false → openToAll r = false → 0x100 ≤ r.off → widthOk r 64 = true → Safety.Accepted s i r → (m0Only r && !isM0 s i) = false → writePriv s i r v = true → writable r = true → isMwSlot r = true → r.ty = .tbu → 17 ≤ r.page ∧ r.page ≤ 32 → (r.off - 0x100) % 0x40 = 0x18 → mirrorOk v = true → rb s (Reg.CMP_CTL (16 * (r.page - 17) + (r.off - 0x100) / 0x40)) 0 = false → 
      ∃ t, exec (.mwWrite i r v mirror) s = .next t ∧ rd t r = v ∧ t.resp = .ok 0 ∧ ∀ q, rkey r ≠ rkey q → rd t q = rd s q)

/-- The commands of the register pages have their effect (R6, R10, R35 to R37, R39, R49, R51, R484). -/
def Obligations.PageCommandsComplete : Prop :=
  (∀ (s : State) (i : Initiator) (r : RegAddr) (row : RegRow) (width : Nat), cutOff s i r.ty r.inst = false → reaches s i r = true → widthOk r width = true → isDebugView i = false → r.ty = .err ∨ r.ty = .pwr ∨ r.ty = .fab ∨ r.ty = .gpe → 0x100 ≤ r.off → regComputed s i r = none → findRow r.ty r.page r.off = some row → row.rc = true → 
      ∃ t, exec (.readClear i r width) s = .next t ∧ t.resp = .ok (rd s r &&& ~~~(BitVec.ofNat 64 row.wo)) ∧ rd t r = 0 ∧
        ∀ q, rkey r ≠ rkey q → rd t q = rd s q) ∧
  (∀ (s : State) (i : Initiator) (b : Block) (n page off : Nat) (v : W32) (m old : Word), isDataPage b n page = false → cutOff s i b n = false → reaches s i ⟨b, n, page, 0x018⟩ = true → (m0Only ⟨b, n, page, 0x018⟩ && !isM0 s i) = false → writePriv s i ⟨b, n, page, 0x018⟩ (w32 v) = true → condCount b page ≠ 0 → m = BitVec.ofNat 64 (2 ^ condCount b page - 1) &&& w32 v → old = rd s (evtStatus b n page) → 
      ∃ t, exec (.evtSet i ⟨b, n, page, off⟩ v) s = .next t ∧ rd t (evtStatus b n page) = old ||| m ∧ t.resp = .ok 0 ∧
        rd t (evtEnable b n page) = rd s (evtEnable b n page)) ∧
  (∀ (s : State) (i : Initiator) (b : Block) (n page off : Nat) (v : W32) (m old : Word), isDataPage b n page = false → cutOff s i b n = false → reaches s i ⟨b, n, page, 0x01C⟩ = true → (m0Only ⟨b, n, page, 0x01C⟩ && !isM0 s i) = false → writePriv s i ⟨b, n, page, 0x01C⟩ (w32 v) = true → condCount b page ≠ 0 → m = BitVec.ofNat 64 (2 ^ condCount b page - 1) &&& w32 v → old = rd s (evtStatus b n page) → 
      ∃ t, exec (.evtClear i ⟨b, n, page, off⟩ v) s = .next t ∧ rd t (evtStatus b n page) = old &&& ~~~m ∧ t.resp = .ok 0 ∧
        rd t (evtEnable b n page) = rd s (evtEnable b n page)) ∧
  (∀ (s : State) (i : Initiator) (r : RegAddr) (width : Nat) (v : Word), isDataPage r.ty r.inst r.page = true → r.ty = .eth ∨ r.ty = .mvb → Safety.Accepted s i r → dataWidthOk r.off width = true → 
      ∃ t, exec (.dataPageAccess i r width (some v)) s = .next t ∧ t.resp = .ok 0 ∧ t.pageBytes = (dpWrite s (rkey r) (leBytes (width / 8) v.toNat)).pageBytes) ∧
  (∀ (s : State) (i : Initiator) (r : RegAddr) (width : Nat), isDataPage r.ty r.inst r.page = true → r.ty = .eth ∨ r.ty = .mvb ∨ r.ty = .bse → Safety.Accepted s i r → dataWidthOk r.off width = true → 
      exec (.dataPageAccess i r width none) s = .next (respOk s (BitVec.ofNat 64 (leNat (dpBytes s (rkey r) (width / 8)))))) ∧
  (∀ (s : State) (i : Initiator) (r : RegAddr) (width : Nat), r.ty = .err → 1 ≤ r.page → Safety.Accepted s i r → dataWidthOk r.off width = true → 
      exec (.dataPageAccess i r width none) s =
        .next (respOk s (BitVec.ofNat 64 (leNat ((upto (width / 8)).map fun k => errPageByte s (r.page - 1) (r.off + k)))))) ∧
  (∀ (s : State) (i : Initiator) (r : RegAddr) (width : Nat) (v : Word), r.ty = .spa → 16 ≤ r.page → Safety.Accepted s i r → dataWidthOk r.off width = true → (getSpa s r.inst).up = true → 
      (∃ t, exec (.dataPageAccess i r width (some v)) s = .next t ∧ t.resp = .ok 0 ∧
          t.sent = .tlp (2 + r.inst) true 0 (spaDevAddr s r) (leBytes (width / 8) v.toNat)) ∧
        ∃ t, exec (.dataPageAccess i r width none) s = .next t ∧ t.sent = .tlp (2 + r.inst) false 0 (spaDevAddr s r) [] ∧
          t.resp = .ok (BitVec.ofNat 64 (Config.freeNat s.freeCtr % 2 ^ (8 * (width / 8))))) ∧
  (∀ (s : State) (i : Initiator) (r : RegAddr) (write : Bool), unreachable s r.ty r.inst = true → 
      ∃ t, exec (.absentBlockAccess i (.page r) write) s = .next t ∧ t.resp = .err eABSENT ∧ t.mem = s.mem ∧ t.cores = s.cores) ∧
  (∀ (s : State) (i : Initiator) (c : CoreId) (off : BitVec 20) (write : Bool), unreachable s .core c = true → 
      ∃ t, exec (.absentBlockAccess i (.window c off) write) s = .next t ∧ t.resp = .err eABSENT ∧ t.mem = s.mem ∧ t.cores = s.cores) ∧
  (∀ (s : State) (i : Initiator) (c : CoreId) (off : BitVec 20) (width : Nat) (v : Word) (u : State), off.toNat < 0xF0000 → windowRefuses s i c off.toNat (width / 8) = none → (memWrite s (aliasAddr c off.toNat) (leBytes (width / 8) v.toNat) false).toOption = some u → (leBytes (width / 8) v.toNat).length = width / 8 → 
      exec (.globalAliasAccess i c off width (some v)) s = .next (respOk u 0)) ∧
  (∀ (s : State) (i : Initiator) (c : CoreId) (off : BitVec 20) (width : Nat) (l : List Byte) (p : Bool), off.toNat < 0xF0000 → windowRefuses s i c off.toNat (width / 8) = none → memRead s (aliasAddr c off.toNat) (width / 8) = .data l p → 
      exec (.globalAliasAccess i c off width none) s = .next (if p then respErr s ePOISON else respOk s (BitVec.ofNat 64 (leNat l)))) ∧
  (∀ (s : State) (p : Part) (r : RegAddr) (width : Nat), isDataPage r.ty r.inst r.page = false → cutOff s (viewIni p) r.ty r.inst = false → widthOk r width = true → isHsem r = false → reaches s (viewIni p) r = true → readCause s (viewIni p) r = none → r.ty ≠ .spa → 
      exec (.debugViewRead p r width) s = .next (respOk s (shownOrLens s (viewIni p) r))) ∧
  (∀ (s : State) (i : Initiator) (page : Fin 64) (off : BitVec 12) (width : Nat) (v : Word), Safety.Accepted s i ⟨.err, 0, 1 + page.val, off.toNat⟩ → dataWidthOk off.toNat width = true → 
      ∃ t, exec (.errDataPageWrite i page off width v) s = .next t ∧ t.resp = .err cREFUSED ∧ t.err.ring = s.err.ring ∧ t.pageBytes = s.pageBytes) ∧
  (∀ (s : State) (i : Initiator) (off : BitVec 16) (width : Nat) (v : Word), 
      ∃ t, exec (.amminWrite i off width v) s = .next t ∧ t.resp = .err cREFUSED ∧ t.ammin = s.ammin)

/-- ERROR_LOG_ENTRY_WRITE, ERR_COPY_WRITE, ERR_COPY_CONFIG (R46, R48) and AMMIN_BUILD (R50) have their effect. -/
def Obligations.ErrorLogCommandsComplete : Prop :=
  (∀ (s : State) (e : ErrRec), errPick s.err.staging = some e → 
      ∃ t, exec .errorLogEntryWrite s = .next t ∧ rd t Reg.ERR_HEADSEQ = BitVec.ofNat 64 (nextSeq s) ∧ t.err.staging = s.err.staging.erase e ∧
        t.err.ring.get? (nextSeq s % 4096) = some (nextSeq s, e)) ∧
  (∀ (s u : State) (seq : Nat) (e : ErrRec) (l : List (Nat × ErrRec)), s.err.toCopy = (seq, e) :: l → rb s Reg.ERR_COPY 0 = true → (agWrite { s with err := { s.err with toCopy := l } } (endpointOf .err 0) ((rd s Reg.ERR_COPYBASE).toNat + 64 * (seq % 2 ^ rf s Reg.ERR_COPY 1 5)) (errBytes seq e) false).toOption = some u → 
      exec .errCopyWrite s = .next u) ∧
  (∀ (s : State) (i : Initiator) (v : W32), Safety.AcceptedM0 s i Reg.ERR_COPY → 12 ≤ fld (w32 v) 1 5 ∧ fld (w32 v) 1 5 ≤ 24 → (rd s Reg.ERR_COPYBASE).toNat % (64 * 2 ^ fld (w32 v) 1 5) = 0 → (rd s Reg.ERR_COPYBASE).toNat + 64 * 2 ^ fld (w32 v) 1 5 ≤ dramCapacity s → rb s Reg.ERR_COPY 0 = false → 
      ∃ t, exec (.errCopyConfig i v) s = .next t ∧ t.resp = .ok 0 ∧ rd t Reg.ERR_COPY =
        BitVec.ofNat 64 (fld (w32 v) 0 6 + 2 ^ 6 * (rb s Reg.ERR_COPY 6 && !bit (w32 v) 6).toNat)) ∧
  (∀ (s u v : State), s.ammin = none → s.pwr.inReset = false → s.pwr.por = false → (getCore s 384).running = false → (((upto 49).any fun l => linkExists s l && linkState s l == 1) = false) → (v = ((upto 12).filter fun n => populated s n && linkState s n == 0 && !siteAbsent s n).foldl markAbsent s) → (u = if linkState v 48 = 0 then storeAbsent v else v) → 
      exec .amminBuild s = .next { u with ammin := some (ammTable u) })

/-- Encoders (R58, R59, R517), ticks (R57, R68, R409) and the nanosecond (R56, R60) have their effect. -/
def Obligations.EncoderAndTickCommandsComplete : Prop :=
  (∀ (s : State), s.pwr.por = false → 
      ∃ t, exec .tbNanosecond s = .next t ∧ t.time = s.time + 1) ∧
  (∀ (s : State) (e : Fin 8) (level : Bool), domOn s 46 = true → 
      exec (.encEdge e .a level) s = .next (setEnc s e { getEnc s e with a := (getEnc s e).a.raw' level s.time (encFilt s e) })) ∧
  (∀ (s : State) (e : Fin 8) (level : Bool), domOn s 46 = true → 
      exec (.encEdge e .b level) s = .next (setEnc s e { getEnc s e with b := (getEnc s e).b.raw' level s.time (encFilt s e) })) ∧
  (∀ (s : State) (e : Fin 8) (level : Bool), domOn s 46 = true → 
      exec (.encEdge e .z level) s = .next (setEnc s e { getEnc s e with z := (getEnc s e).z.raw' level s.time (encFilt s e) })) ∧
  (∀ (s : State) (e : Fin 8), domOn s 46 = true → (getEnc s e).a.due s.time (encFilt s e) = true → 
      exec (.encFilterAccept e .a) s = .next (encStep (setEnc s e { getEnc s e with
          a := (getEnc s e).a.take, b := if (getEnc s e).b.due s.time (encFilt s e) then (getEnc s e).b.take else (getEnc s e).b }) e
        (encPos (rd s (Reg.ENC_CTL e)) (getEnc s e))
        (encPos (rd s (Reg.ENC_CTL e)) { getEnc s e with
          a := (getEnc s e).a.take, b := if (getEnc s e).b.due s.time (encFilt s e) then (getEnc s e).b.take else (getEnc s e).b })
        ((getEnc s e).a.first.getD s.time))) ∧
  (∀ (s : State) (e : Fin 8), domOn s 46 = true → (getEnc s e).a.due s.time (encFilt s e) = false → (getEnc s e).b.due s.time (encFilt s e) = true → 
      exec (.encFilterAccept e .a) s = .next (encStep (setEnc s e { getEnc s e with b := (getEnc s e).b.take }) e
        (encPos (rd s (Reg.ENC_CTL e)) (getEnc s e)) (encPos (rd s (Reg.ENC_CTL e)) { getEnc s e with b := (getEnc s e).b.take })
        ((getEnc s e).b.first.getD s.time))) ∧
  (∀ (s : State) (e : Fin 8), domOn s 46 = true → (getEnc s e).a.due s.time (encFilt s e) = true → 
      exec (.encFilterAccept e .b) s = .next (encStep (setEnc s e { getEnc s e with
          a := (getEnc s e).a.take, b := if (getEnc s e).b.due s.time (encFilt s e) then (getEnc s e).b.take else (getEnc s e).b }) e
        (encPos (rd s (Reg.ENC_CTL e)) (getEnc s e))
        (encPos (rd s (Reg.ENC_CTL e)) { getEnc s e with
          a := (getEnc s e).a.take, b := if (getEnc s e).b.due s.time (encFilt s e) then (getEnc s e).b.take else (getEnc s e).b })
        ((getEnc s e).a.first.getD s.time))) ∧
  (∀ (s : State) (e : Fin 8), domOn s 46 = true → (getEnc s e).a.due s.time (encFilt s e) = false → (getEnc s e).b.due s.time (encFilt s e) = true → 
      exec (.encFilterAccept e .b) s = .next (encStep (setEnc s e { getEnc s e with b := (getEnc s e).b.take }) e
        (encPos (rd s (Reg.ENC_CTL e)) (getEnc s e)) (encPos (rd s (Reg.ENC_CTL e)) { getEnc s e with b := (getEnc s e).b.take })
        ((getEnc s e).b.first.getD s.time))) ∧
  (∀ (s : State) (e : Fin 8) (lv : Bool), domOn s 46 = true → (getEnc s e).z.due s.time (encFilt s e) = true → lv = ((getEnc s e).z.take.acc != rb s (Reg.ENC_CTL e) 14) → 
      exec (.encFilterAccept e .z) s = .next (wb (setEnc s e { getEnc s e with z := (getEnc s e).z.take, zRise := lv }) (Reg.ENC_STATUS e) 16 lv)) ∧
  (∀ (s : State) (e : Fin 8), domOn s 46 = true → (getEnc s e).zRise = true → 
      exec (.encIndexEdge e) s = .next ((tbsOf s 1 e).foldl indexAction (setEnc s e { getEnc s e with zRise := false }))) ∧
  (∀ (s : State) (i : Initiator) (e : Fin 8) (v : W32), Safety.Accepted s i (Reg.ENC_CTL e) → fld (w32 v) 0 10 ≤ 1000 → 
      ∃ t, exec (.encCtlWrite i e v) s = .next t ∧ t.resp = .ok 0 ∧ rd t (Reg.ENC_CTL e) = setFld (BitVec.ofNat 64 (fld (w32 v) 0 16)) 0 10 (min 1000 (fld (w32 v) 0 10)) ∧
        rb t (Reg.ENC_STATUS e) 16 = ((getEnc s e).z.acc != bit (setFld (BitVec.ofNat 64 (fld (w32 v) 0 16)) 0 10 (min 1000 (fld (w32 v) 0 10))) 14)) ∧
  (∀ (s : State) (i : Initiator) (e : Fin 8) (v : W32), Safety.Accepted s i (Reg.ENC_CTL e) → 1000 < fld (w32 v) 0 10 → 
      ∃ t, exec (.encCtlWrite i e v) s = .next t ∧ rf t (Reg.ENC_CTL e) 0 10 = 1000) ∧
  (∀ (s : State) (k : Fin 4) (phase : Word), domOn s 46 = true → rb s (Reg.SDP_CTL k) 0 = true → rb s (Reg.SDP_STATUS k) 3 = true → 
      exec (.sdpTick k phase) s = .next ((tbsOf s 2 k).foldl (fun t n =>
          giveTick t n { v := wrap80 (accOf phase + (getTb t n).offset), t := t.time, rev := false }) s)) ∧
  (∀ (s : State) (m : Fin 12) (c : PtpClk), domOn s 46 = true → s.ptp[m.val]? = some c → rb s (Reg.ETH_PTP_CTL m) 0 = true → macT s m / 1000 ≠ c.us → 
      exec (.tbAsTick m) s = .next ((tbsOf s 4 m).foldl (fun t n => giveTick t n (scaledTick t n (macT t m)))
        { s with ptp := listSet s.ptp m { c with us := macT s m / 1000 } })) ∧
  (∀ (s : State), domOn s 46 = true → s.time % 1000 = 0 → 
      exec .tbRefTick s = .next ((tbsOf s 5 0).foldl (fun t n => giveTick t n (scaledTick t n t.time)) s))

/-- Time bases (R62 to R65, R81), SDPs (R66 to R68) and the axle comparator (R71) have their effect. Volts are truncated toward zero (log
entry 101, the model's choice). -/
def Obligations.TimeBaseCommandsComplete : Prop :=
  (∀ (s : State) (n : Fin 16), domOn s 46 = true → tbEn s n = true → tbSrc s n = 1 → (getTb s n).st = .tracking → (getTb s n).standstill = false → (getTb s n).tLast + (getTb s n).force.timeout ≤ s.time → 
      exec (.tbStandstill n) s = .next (raiseCond (setTb s n { getTb s n with standstill := true, rate := 0 }) .tbu 0 (n + 1) 2)) ∧
  (∀ (s : State) (n : Fin 16), domOn s 46 = true → tbEn s n = true → 2 ≤ tbSrc s n → (getTb s n).st = .tracking → (getTb s n).tLast + (getTb s n).force.timeout ≤ s.time → 
      exec (.tbTimeout n) s = .next (tbGoto s n (if (getTb s n).force.hold = 0 then .failed else .holdover))) ∧
  (∀ (s : State) (n : Fin 16), domOn s 46 = true → (getTb s n).st = .holdover → (getTb s n).entered + 1000 * (getTb s n).force.hold ≤ s.time → 
      exec (.tbHoldExpiry n) s = .next (tbGoto s n .failed)) ∧
  (∀ (s : State) (n : Fin 16), domOn s 46 = true → (getTb s n).st = .holdover → (getTb s n).grown < (s.time - (getTb s n).entered) / 1000 → 
      exec (.tbUncGrow n) s = .next (setTb s n { getTb s n with
        unc := min 0xFFFFFFFFFFFFFFFF ((getTb s n).unc + (getTb s n).force.growth), grown := (getTb s n).grown + 1 })) ∧
  (∀ (s : State) (i : Initiator) (n : Fin 16) (v : W32) (new : Word), Safety.Accepted s i (Reg.TB_CTL n) → (new = BitVec.ofNat 64 ((w32 v).toNat % 2 ^ 15 + (if bit (w32 v) 16 then 2 ^ 16 else 0))) → tbSrcOk (fld new 1 3) (fld new 4 4) = true → rb s (Reg.TB_CTL n) 0 = false → bit new 0 = true → 
      exec (.tbEnable i n v) s = .next (tbRestart (wr (respOk s 0) (Reg.TB_CTL n) new) n)) ∧
  (∀ (s : State) (i : Initiator) (n : Fin 16) (v : W32) (new : Word), Safety.Accepted s i (Reg.TB_CTL n) → (new = BitVec.ofNat 64 ((w32 v).toNat % 2 ^ 15 + (if bit (w32 v) 16 then 2 ^ 16 else 0))) → tbSrcOk (fld new 1 3) (fld new 4 4) = true → rb s (Reg.TB_CTL n) 0 = true → bit new 0 = false → fld new 1 3 = tbSrc s n → fld new 4 4 = tbIdx s n → fld new 12 2 = rf s (Reg.TB_CTL n) 12 2 → 
      exec (.tbDisable i n v) s = .next (tbStop (wr (respOk s 0) (Reg.TB_CTL n) new) n)) ∧
  (∀ (s : State) (i : Initiator) (n : Fin 16) (v : W32) (new : Word), Safety.Accepted s i (Reg.TB_CTL n) → (new = BitVec.ofNat 64 ((w32 v).toNat % 2 ^ 15 + (if bit (w32 v) 16 then 2 ^ 16 else 0))) → tbSrcOk (fld new 1 3) (fld new 4 4) = true → rb s (Reg.TB_CTL n) 0 = true → bit new 0 = true → bit (w32 v) 15 = true → fld new 1 3 = tbSrc s n → fld new 4 4 = tbIdx s n → fld new 12 2 = rf s (Reg.TB_CTL n) 12 2 → 
      exec (.tbRestart i n v) s = .next (tbRestart (wr (respOk s 0) (Reg.TB_CTL n) new) n)) ∧
  (∀ (s : State) (i : Initiator) (n : Fin 16) (v : Word), Safety.Accepted s i (Reg.TB_SET n) → 
      exec (.tbSet i n v) s = .next (setTb (respOk s 0) n { getTb s n with writes := (getTb s n).writes ++ [.set v] })) ∧
  (∀ (s : State) (i : Initiator) (n : Fin 16) (v : Word), Safety.Accepted s i (Reg.TB_STEP n) → 
      exec (.tbStep i n v) s = .next (setTb (respOk s 0) n { getTb s n with writes := (getTb s n).writes ++ [.step v] })) ∧
  (∀ (s : State) (i : Initiator) (n : Fin 16), Safety.Accepted s i (Reg.TB_CAPTURE n) → 
      ∃ t, exec (.tbCapture i n) s = .next t ∧ t.resp = .ok 0 ∧ rd t (Reg.TB_CAP_PHASE n) = (getTb s n).phase ∧ rd t (Reg.TB_CAP_TIME n) = BitVec.ofNat 64 s.time) ∧
  (∀ (s : State) (i : Initiator) (k : Fin 4) (v : W32), Safety.Accepted s i (Reg.SDP_CTL k) → bit (w32 v) 0 = true → sdpPrimaryOk s (fld (w32 v) 1 5) = true → 
      exec (.sdpEnable i k v) s = .next (wr (respOk s 0) (Reg.SDP_CTL k) (BitVec.ofNat 64 (fld (w32 v) 0 12)))) ∧
  (∀ (s : State) (i : Initiator) (k : Fin 4) (v : W32), Safety.Accepted s i (Reg.SDP_CTL k) → bit (w32 v) 0 = false → 
      exec (.sdpEnable i k v) s = .next (sdpSet (wr (respOk s 0) (Reg.SDP_CTL k) (BitVec.ofNat 64 (fld (w32 v) 0 12))) k 0 false)) ∧
  (∀ (s : State) (k : Fin 4) (diff : Nat), domOn s 46 = true → rb s (Reg.SDP_CTL k) 0 = true → rb s (Reg.SDP_CTL k) 11 = true → rf s (Reg.SDP_CHKTHR k) 0 16 * 1000000 < diff * rf s (Reg.SDP_VSCALE k) 0 32 → 
      exec (.sdpChkErr k diff) s = .next (raiseCond (wb s (Reg.SDP_STATUS k) 4 true) .sdm 0 (33 + k) 2)) ∧
  (∀ (s : State) (k : Fin 4) (mean : Int) (rms freq c : Nat), domOn s 46 = true → rb s (Reg.SDP_CTL k) 0 = true → c = supplyClass s k mean rms freq → 
      ∃ t, exec (.sdpClassify k mean rms freq) s = .next t ∧ rf t (Reg.SDP_STATUS k) 0 3 = c % 8 ∧
        rb t (Reg.SDP_STATUS k) 3 = (rb s (Reg.SDP_STATUS k) 3 && 3 ≤ c) ∧ rd t (Reg.SDP_VDC k) = BitVec.ofNat 64 (BitVec.ofInt 32 (Int.tdiv (mean * rf s (Reg.SDP_VSCALE k) 0 32) 1000000)).toNat ∧
        rd t (Reg.SDP_VRMS k) = BitVec.ofNat 64 (BitVec.ofInt 32 (Int.tdiv ((rms : Int) * rf s (Reg.SDP_VSCALE k) 0 32) 1000000)).toNat ∧ rd t (Reg.SDP_FREQ k) = BitVec.ofNat 64 (freq % 2 ^ 32)) ∧
  (∀ (s : State) (k : Fin 4) (freq : Nat), domOn s 46 = true → rb s (Reg.SDP_CTL k) 0 = true → 3 ≤ rf s (Reg.SDP_STATUS k) 0 3 → 
      exec (.sdpLock k freq) s = .next (sdpSet (wr s (Reg.SDP_FREQ k) (BitVec.ofNat 64 (freq % 2 ^ 32))) k (rf s (Reg.SDP_STATUS k) 0 3) true)) ∧
  (∀ (s : State) (k : Fin 4) (rms : Nat), domOn s 46 = true → rb s (Reg.SDP_STATUS k) 3 = true → rms * rf s (Reg.SDP_VSCALE k) 0 32 < rf s (Reg.SDP_THR2 k) 16 16 * 1000000 → 
      exec (.sdpLockLoss k rms) s = .next (sdpSet (wr s (Reg.SDP_VRMS k) (voltsOf s k rms)) k 0 false)) ∧
  (∀ (s : State), domOn s 46 = true → rb s Reg.TBU_AXLE_CTL 16 = true → (((upto 16).filter fun n => rb s Reg.TBU_AXLE_CTL n && (getTb s n).st == .tracking && tbEn s n) = []) → 
      exec .axleEvaluate s = .next { wr s Reg.TBU_AXLE_STATUS 0 with
        fio := { s.fio with slipCnt := List.replicate 16 0, slideCnt := List.replicate 16 0 } }) ∧
  (∀ (s : State) (ref vmin : Int), domOn s 46 = true → rb s Reg.TBU_AXLE_CTL 16 = true → (median (((upto 16).filter fun n => rb s Reg.TBU_AXLE_CTL n && (getTb s n).st == .tracking && tbEn s n).map fun n => (getTb s n).rate) = some ref) → vmin = (rd s Reg.TBU_AXLE_VMIN).toInt → vmin ≤ (ref.natAbs : Int) → 
      ∃ t, exec .axleEvaluate s = .next t ∧ ∀ n, n < 16 →
        rb t Reg.TBU_AXLE_STATUS n = (persistBit (rb s Reg.TBU_AXLE_STATUS n) (nth s.fio.slipCnt 0 n) (max 1 (rf s Reg.TBU_AXLE_THR 16 16))
          (rb s Reg.TBU_AXLE_CTL n && decide (ref * (65536 + (rf s Reg.TBU_AXLE_THR 0 16 : Int)) < (getTb s n).rate * 65536))).1 ∧
        rb t Reg.TBU_AXLE_STATUS (16 + n) = (persistBit (rb s Reg.TBU_AXLE_STATUS (16 + n)) (nth s.fio.slideCnt 0 n) (max 1 (rf s Reg.TBU_AXLE_THR 16 16))
          (rb s Reg.TBU_AXLE_CTL n && decide ((getTb s n).rate * 65536 < ref * (65536 - (rf s Reg.TBU_AXLE_THR 0 16 : Int))))).1)

/-- Compares (R74 to R78) and gate pattern groups (R83 to R87, R92) have their effect. -/
def Obligations.CompareAndGateCommandsComplete : Prop :=
  (∀ (s : State) (i : Initiator) (m : Fin 256) (v : W32) (new : Word), Safety.Accepted s i (Reg.CMP_CTL m) → new = BitVec.ofNat 64 (fld (w32 v) 0 15) → rb s (Reg.CMP_CTL m) 0 = false → bit new 0 = true → cmpArgOk new (rd s (Reg.CMP_ARG m)) = true → cmpOwned s m new (rd s (Reg.CMP_ARG m)) = true → bit (w32 v) 3 = false → bit (w32 v) 14 = false → 
      exec (.cmpArm i m v) s = .next (setCmp (wr (respOk s 0) (Reg.CMP_CTL m) new) m { getCmp s m with armAt := some s.time })) ∧
  (∀ (s : State) (i : Initiator) (m : Fin 256) (v : W32) (new : Word), Safety.Accepted s i (Reg.CMP_CTL m) → new = BitVec.ofNat 64 (fld (w32 v) 0 15) → rb s (Reg.CMP_CTL m) 0 = true → bit new 0 = false → fld new 7 4 = rf s (Reg.CMP_CTL m) 7 4 → fld new 11 2 = rf s (Reg.CMP_CTL m) 11 2 → bit (w32 v) 14 = false → 
      exec (.cmpDisarm i m v) s = .next (setCmp (wr (respOk s 0) (Reg.CMP_CTL m) new) m { getCmp s m with disarm := true, armAt := none })) ∧
  (∀ (s a : State) (m : Fin 256) (t0 : Nat), domOn s 46 = true → (getCmp s m).armAt = some t0 → t0 < s.time → a = setCmp s m { getCmp s m with armed := true, armAt := none, refire := none } → rb s (Reg.CMP_CTL m) 14 = false → (getTb s (rf s (Reg.CMP_CTL m) 7 4)).st ≠ .failed → rf s (Reg.CMP_CTL m) 5 2 = 0 → passed (cmpTarget s m) (getTb s (rf s (Reg.CMP_CTL m) 7 4)).phase .rising = true → 
      exec (.cmpArmEffect m) s = .next (cmpFire a m .rising true (getTb s (rf s (Reg.CMP_CTL m) 7 4)).phase (getTb s (rf s (Reg.CMP_CTL m) 7 4)).st)) ∧
  (∀ (s a : State) (m : Fin 256) (t0 : Nat), domOn s 46 = true → (getCmp s m).armAt = some t0 → t0 < s.time → a = setCmp s m { getCmp s m with armed := true, armAt := none, refire := none } → rb s (Reg.CMP_CTL m) 14 = false → (getTb s (rf s (Reg.CMP_CTL m) 7 4)).st ≠ .failed → rf s (Reg.CMP_CTL m) 5 2 = 1 → passed (cmpTarget s m) (getTb s (rf s (Reg.CMP_CTL m) 7 4)).phase .falling = true → 
      exec (.cmpArmEffect m) s = .next (cmpFire a m .falling true (getTb s (rf s (Reg.CMP_CTL m) 7 4)).phase (getTb s (rf s (Reg.CMP_CTL m) 7 4)).st)) ∧
  (∀ (s a : State) (m : Fin 256) (t0 : Nat), domOn s 46 = true → (getCmp s m).armAt = some t0 → t0 < s.time → a = setCmp s m { getCmp s m with armed := true, armAt := none, refire := none } → rb s (Reg.CMP_CTL m) 14 = true ∨ (getTb s (rf s (Reg.CMP_CTL m) 7 4)).st = .failed ∨ 2 ≤ rf s (Reg.CMP_CTL m) 5 2 ∨
        (rf s (Reg.CMP_CTL m) 5 2 = 0 ∧ passed (cmpTarget s m) (getTb s (rf s (Reg.CMP_CTL m) 7 4)).phase .rising = false) ∨
        (rf s (Reg.CMP_CTL m) 5 2 = 1 ∧ passed (cmpTarget s m) (getTb s (rf s (Reg.CMP_CTL m) 7 4)).phase .falling = false) → 
      exec (.cmpArmEffect m) s = .next a) ∧
  (∀ (s a : State) (f : Fire) (l : List Fire), domOn s 46 = true → s.fio.fires = f :: l → f.time < s.time → fld f.ctl 11 2 = 0 → a = evrArrive { s with fio := { s.fio with fires := l } } { src := f.m, late := f.late, phases := f.phases, time := f.time } → 
      exec .cmpActionDeliver s = .next a) ∧
  (∀ (s a : State) (f : Fire) (l : List Fire), domOn s 46 = true → s.fio.fires = f :: l → f.time < s.time → fld f.ctl 11 2 = 1 → a = { s with fio := { s.fio with fires := l, segReq := s.fio.segReq ++ [{ g := fld f.arg 0 4, addr := fld f.arg 4 14, phase0 := f.target, time0 := f.time }] } } → 
      exec .cmpActionDeliver s = .next (if bit f.ctl 13 then cmpEvent a f else a)) ∧
  (∀ (s a : State) (f : Fire) (l : List Fire), domOn s 46 = true → s.fio.fires = f :: l → f.time < s.time → fld f.ctl 11 2 = 2 → a = { s with fio := { s.fio with fires := l, snapReq := s.fio.snapReq ++ [{ set := fld f.arg 0 4, tb := f.tb, late := f.late, phase := f.phase, time := f.time }] } } → 
      exec .cmpActionDeliver s = .next (if bit f.ctl 13 then cmpEvent a f else a)) ∧
  (∀ (s a : State) (f : Fire) (l : List Fire), domOn s 46 = true → s.fio.fires = f :: l → f.time < s.time → fld f.ctl 11 2 = 3 → a = (channelsOf s (fld f.arg 0 13)).foldl dmaFetch { s with fio := { s.fio with fires := l }, evr := { s.evr with arrivals := s.evr.arrivals ++
        [{ src := 256 + fld (getRing s (fld f.arg 0 13)).db 0 8, late := false, phases := f.phases, time := f.time }] } } → 
      exec .cmpActionDeliver s = .next (if bit f.ctl 13 then cmpEvent a f else a)) ∧
  (∀ (s : State) (g : Fin 12) (q : SegReq), domOn s 46 = true → ((s.fio.segReq.find? fun q => q.g == g.val) = some q) → 
      exec (.gpeSegmentStart g) s = .next (gpeStartSeg { s with fio := { s.fio with segReq := s.fio.segReq.erase q } } g q.addr (List.replicate 16 q.phase0) q.time0)) ∧
  (∀ (s : State) (i : Initiator) (g : Fin 12) (v : W32), Safety.Accepted s i (Reg.GPE_START g) → bit (w32 v) 31 = true → 
      exec (.gpeStart i g v) s = .next (gpeStartSeg (respOk s 0) g (fld (w32 v) 0 14) (phasesNow s) s.time)) ∧
  (∀ (s : State) (i : Initiator) (g : Fin 12) (v : W32), Safety.Accepted s i (Reg.GPE_CTL g) → bit (w32 v) 0 = true → rb s (Reg.GPE_CTL g) 0 = false → gpeWindowBad s g (gpeBase s g) (gpeLen s g) = false → (getRing s (rf s (Reg.GPE_RING g) 0 13)).esize = 32 → mayBind s (rf s (pageReg .gpe g 0 0x00C) 0 6) (rf s (Reg.GPE_RING g) 0 13) = true → 
      exec (.gpeEnable i g v) s = .next (setGpe (wr (respOk s 0) (Reg.GPE_CTL g) (BitVec.ofNat 64 (fld (w32 v) 0 12))) g
        { getGpe s g with seg := none, rptr := 0, wptr := 0, filled := 0, staging := [] })) ∧
  (∀ (s : State) (g : Fin 12) (seg : Seg), domOn s 46 = true → (getGpe s g).seg = some seg → entDue s seg (sramAt s seg.next) = false → 
      exec (.gpeEntryApply g) s = .next s) ∧
  (∀ (s u : State) (g : Fin 12) (seg : Seg) (e : BitVec 128) (outs : List GpeOut), domOn s 46 = true → (getGpe s g).seg = some seg → e = sramAt s seg.next → entDue s seg e = true → gpeCommand s g e = (outs, false) → seg.passed = false → entFld e 78 1 = 0 → entFld e 79 1 = 1 → u = gpeSettle (setGpe s g { getGpe s g with outs := outs }) g → 
      exec (.gpeEntryApply g) s = .next (setGpe (gpeAdvance u g) g { getGpe (gpeAdvance u g) g with seg := none })) ∧
  (∀ (s u : State) (g : Fin 12) (seg : Seg) (e : BitVec 128) (outs : List GpeOut), domOn s 46 = true → (getGpe s g).seg = some seg → e = sramAt s seg.next → entDue s seg e = true → gpeCommand s g e = (outs, false) → seg.passed = false → entFld e 78 1 = 0 → entFld e 79 1 = 0 → u = gpeSettle (setGpe s g { getGpe s g with outs := outs }) g → 
      exec (.gpeEntryApply g) s = .next (gpeReach (gpeAdvance u g) g { seg with next := seg.next + 1 })) ∧
  (∀ (s : State) (g : Fin 12) (out : Fin 4), domOn s 46 = true → 
      exec (.gpeDeadtimeExpiry g out) s = .next (setGpe s g { getGpe s g with outs := gpeSettleOut s g out (getGpe s g).outs })) ∧
  (∀ (s : State) (i : Initiator) (g : Fin 12) (v : W32), Safety.Accepted s i (Reg.GPE_FORCE g) → 
      exec (.gpeForceClear i g v) s = .next (gpeForceWrite (respOk s 0) g (w32 v))) ∧
  (∀ (s : State) (i : Initiator) (g : Fin 12) (v : W32), Safety.Accepted s i (Reg.GPE_FORCE g) → bit (w32 v) 4 = false → 
      ∃ t, exec (.gpeForceClear i g v) s = .next t ∧ rb t (Reg.GPE_FORCE g) 4 = false ∧
        ∀ k, k < 4 → rb t (Reg.GPE_FORCE g) k = (rb s (Reg.GPE_FORCE g) k && !(bit (w32 v) k && gpeCauseEnded s g k))) ∧
  (∀ (s : State) (g : Fin 12), domOn s 46 = true → rb s (Reg.GPE_CTL g) 0 = true → (getGpe s g).staging = [] → 
      exec (.gpeRefill g) s = .next (gpeFetch s g 32))

/-- Sigma-delta filters, trips and snapshots (R90 to R92) have their effect. -/
def Obligations.SigmaDeltaCommandsComplete : Prop :=
  (∀ (s : State) (n : Fin 32) (bits : List Bool) (h3 : List Bool), domOn s 46 = true → sdmRuns s n = true → bits.length = sinc3Osr s n → h3 = (sdmBits s n bits ++ (getSdm s n).hist3).take (3 * sinc3Osr s n - 2) → 
      exec (.sdmSinc3Output n bits) s = .next (wr (setSdm s n { getSdm s n with hist3 := h3, outs := ((s.time, sincOut 3 (sinc3Osr s n) h3) :: (getSdm s n).outs).take 64 })
        (Reg.SDMCH_DATA n) (BitVec.ofNat 64 (BitVec.ofInt 32 (sincOut 3 (sinc3Osr s n) h3)).toNat))) ∧
  (∀ (s : State) (n : Fin 32) (bits : List Bool) (h2 : List Bool) (cnt : Nat) (u : State), domOn s 46 = true → sdmRuns s n = true → bits.length = sinc2Osr s n → h2 = (sdmBits s n bits ++ (getSdm s n).hist2).take (2 * sinc2Osr s n - 1) → (cnt = if sfld (rd s (Reg.SDMCH_TRIP n)) 0 16 < sincOut 2 (sinc2Osr s n) h2 ∨ sincOut 2 (sinc2Osr s n) h2 < sfld (rd s (Reg.SDMCH_TRIP n)) 16 16 then (getSdm s n).beyond + 1 else 0) → u = setSdm s n { getSdm s n with hist2 := h2, beyond := cnt } → 
      exec (.sdmSinc2Output n bits) s = .next (if rb s (Reg.SDMCH_CTL n) 6 && rf s (Reg.SDMCH_CTL n) 23 4 + 1 ≤ cnt then sdmTrip u n else u)) ∧
  (∀ (s : State) (n : Fin 32), domOn s 46 = true → sdmRuns s n = true → rb s (Reg.SDMCH_CTL n) 6 = false → 
      ∃ t, exec (.sdmStuck n) s = .next t ∧ rb t (Reg.SDMCH_STATUS n) 1 = true ∧ rb t (evtStatus .sdm 0 (n + 1)) 1 = true) ∧
  (∀ (s : State) (set : Fin 16) (q : SnapReq), domOn s 46 = true → ((s.fio.snapReq.find? fun q => q.set == set.val) = some q) → s.fio.snapStage.length < 16 → 
      ∃ t, exec (.sdmSnapshot set) s = .next t ∧ t.fio.snapReq = s.fio.snapReq.erase q ∧ t.fio.snapStage = s.fio.snapStage ++ [{ set := set, bytes := snapRecord s q }]) ∧
  (∀ (s u : State) (r : SnapRec) (l : List SnapRec), domOn s 46 = true → s.fio.snapStage = r :: l → hwEnq { s with fio := { s.fio with snapStage := l } } (rf s (Reg.SNAP_RING r.set) 0 13) r.bytes = some u → 
      exec .sdmSnapRingWrite s = .next u) ∧
  (∀ (s : State) (r : SnapRec) (l : List SnapRec), domOn s 46 = true → s.fio.snapStage = r :: l → hwEnq { s with fio := { s.fio with snapStage := l } } (rf s (Reg.SNAP_RING r.set) 0 13) r.bytes = none → 
      exec .sdmSnapRingWrite s = .next (snapDrop { s with fio := { s.fio with snapStage := l } } r.set))

/-- The event router (R96 to R110) has its effect. -/
def Obligations.EventRouterCommandsComplete : Prop :=
  (∀ (s : State) (a : Arrival) (l : List Arrival), s.evr.arrivals = a :: l → 
      exec .evrSourceArrival s = .next (evrArrive { s with evr := { s.evr with arrivals := l } } a)) ∧
  (∀ (s : State) (n : Fin 1024) (e : EvRec), (getSrc s n).settled s.time = some e → rb s Reg.EVR_CTL 0 = true → cfgTtype (getSrc s n).cfg = 0 → firstFor s (cfgTarget (getSrc s n).cfg) e.level = some (n.val, false) → inboxFree s (cfgTarget (getSrc s n).cfg) e.level = true → 
      exec (.evrDispatch n) s = .next (deliverSlot (sendEvent s (cfgTarget (getSrc s n).cfg) { e with half := false }) n)) ∧
  (∀ (s : State) (n : Fin 1024) (e : EvRec) (c : Nat), (getSrc s n).settled s.time = some e → rb s Reg.EVR_CTL 0 = true → cfgTtype (getSrc s n).cfg = 1 → poolChoose s (cfgTarget (getSrc s n).cfg % 64) e.level = some c → 
      exec (.evrDispatch n) s = .next (poolSend (deliverSlot s n) (cfgTarget (getSrc s n).cfg % 64) c e)) ∧
  (∀ (s : State) (n : Fin 1024) (e : EvRec), (getSrc s n).settled s.time = some e → rb s Reg.EVR_CTL 0 = true → cfgTtype (getSrc s n).cfg = 1 → poolChoose s (cfgTarget (getSrc s n).cfg % 64) e.level = none → (getPool (deliverSlot s n) (cfgTarget (getSrc s n).cfg % 64)).fifo.length < 64 → 
      exec (.evrDispatch n) s = .next (setPool (deliverSlot s n) (cfgTarget (getSrc s n).cfg % 64) { getPool (deliverSlot s n) (cfgTarget (getSrc s n).cfg % 64) with
        fifo := (getPool (deliverSlot s n) (cfgTarget (getSrc s n).cfg % 64)).fifo ++ [e] })) ∧
  (∀ (s : State) (q : Fin 64) (e : EvRec) (l : List EvRec) (c : Nat), (getPool s q).fifo = e :: l → rb s Reg.EVR_CTL 0 = true → poolChoose s q e.level = some c → 
      exec (.poolFifoDeliver q) s = .next (poolSend (setPool s q { getPool s q with fifo := l }) q c e)) ∧
  (∀ (s : State) (c : CoreId) (l : Level) (n : Nat) (h : Bool), rb s Reg.EVR_CTL 0 = true → inboxFree s c l = true → firstFor s c l = some (n, h) → 
      exec (.inboxOffer c l) s = .next (sendCopy s n c h)) ∧
  (∀ (s : State) (c : CoreId) (e : EvRec), s.evr.flight = [(c.val, e)] → (getCore s c).running = true → (coreOwner s c).isSome = true → levelOn s c e.level = true → inboxFull s c e.level = false → localWaits s c e.level = false → e.level < (getCore s c).inbox.length → 
      ∃ t, exec (.eventPacket c) s = .next t ∧ (getCore t c).inbox = listSet (getCore s c).inbox e.level (some e) ∧ t.evr.flight = []) ∧
  (∀ (s : State) (i : Initiator) (w : Fin 256) (v : W32), Safety.AcceptedM0 s i (Reg.EVR_OWN w) → (∀ k, k < 4 → cfgEn (getSrc s (4 * w + k)).cfg = false) → 
      ∃ t, exec (.evrOwnWrite i w v) s = .next t ∧ ∀ k, k < 4 → srcOwner t (4 * w + k) = fld (w32 v) (8 * k) 6) ∧
  (∀ (s : State) (i : Initiator) (p : Part) (v : W32) (n : Nat) (c : Word), Safety.Accepted s i (Reg.EVRP_CFG p) → n = rf s (Reg.EVRP_SEL p) 0 10 → c = BitVec.ofNat 64 (fld (w32 v) 0 22) → pageReachesSrc s p n = true → cfgEn (getSrc s n).cfg = false → bit c 0 = true → cfgOk s n c = true → 
      exec (.evrSourceEnable i p v) s = .next (levelRecreate (setSrc (respOk s 0) n { getSrc s n with cfg := c }) n)) ∧
  (∀ (s : State) (i : Initiator) (p : Part) (v : W32) (n : Nat) (c : Word), Safety.Accepted s i (Reg.EVRP_CFG p) → n = rf s (Reg.EVRP_SEL p) 0 10 → c = BitVec.ofNat 64 (fld (w32 v) 0 22) → pageReachesSrc s p n = true → cfgEn (getSrc s n).cfg = false → bit c 0 = true → cfgOk s n c = true → 
      exec (.evrCfgWrite i p v) s = .next (levelRecreate (setSrc (respOk s 0) n { getSrc s n with cfg := c }) n)) ∧
  (∀ (s u : State) (i : Initiator) (p : Part) (v : W32) (n : Nat), Safety.Accepted s i (Reg.EVRP_CFG p) → n = rf s (Reg.EVRP_SEL p) 0 10 → pageReachesSrc s p n = true → setBit (BitVec.ofNat 64 (fld (w32 v) 0 22)) 0 true = (getSrc s n).cfg → bit (w32 v) 0 = false → u = dropWaiting (respOk s 0) n → 
      exec (.evrSourceDisable i p v) s = .next (setSrc u n { getSrc u n with cfg := BitVec.ofNat 64 (fld (w32 v) 0 22) })) ∧
  (∀ (s u : State) (i : Initiator) (p : Part) (v : Word) (n : Nat) (c : Word), Safety.Accepted s i (Reg.EVRP_SETCFG p) → n = fld v 32 10 → c = BitVec.ofNat 64 (fld (BitVec.ofNat 64 (fld v 0 32)) 0 22) → u = wr (respOk s 0) (Reg.EVRP_SEL p) (BitVec.ofNat 64 n) → pageReachesSrc s p n = true → cfgEn (getSrc s n).cfg = false → bit c 0 = true → cfgOk u n c = true → 
      exec (.evrSetcfg i p v) s = .next (levelRecreate (setSrc u n { getSrc s n with cfg := c }) n)) ∧
  (∀ (s : State) (i : Initiator) (p : Part) (v : W32), Safety.Accepted s i (Reg.EVRP_RAISE p) → 768 ≤ fld (w32 v) 0 10 → pageReachesSrc s p (fld (w32 v) 0 10) = true → 
      exec (.evrRaise i p v) s = .next (raiseSw (respOk s 0) (fld (w32 v) 0 10) (bit (w32 v) 31) (bit (w32 v) 30))) ∧
  (∀ (s : State) (i : Initiator) (p : Part) (k : Fin 13) (v : W32) (q want : Nat), Safety.Accepted s i (Reg.EVRP_POOLMASK p k) → q = rf s (Reg.EVRP_POOLSEL p) 0 6 → p = 0 ∨ poolOwner s q = p → (want = if k.val = 12 then fld (w32 v) 0 4 else fld (w32 v) 0 32) → (∀ b, b < 32 → want.testBit b = true → inPart s (poolOwner s q) (32 * k + b) = true) → 
      ∃ t, exec (.poolMaskWrite i p k v) s = .next t ∧ ∀ b, b < 32 → (getPool t q).mask.testBit (32 * k + b) = want.testBit b)

/-- WAITE, bank switches, level enables, entries, budgets and local events (R111 to R126) have their effect. -/
def Obligations.SchedulerCommandsComplete : Prop :=
  (∀ (s : State) (c : CoreId) (g : Guard), Safety.CoreReadyCtl s c g → (getCore s c).cur = 0 → 
      exec (.waite c g) s = .next (setCore (retire s c 1 none) c { getCore (retire s c 1 none) c with stalled := true })) ∧
  (∀ (s : State) (c : CoreId) (g : Guard), Safety.CoreReadyCtl s c g → (getCore s c).cur ≠ 0 → ((getCore s c).stopped && (getCore s c).cur == monLevel s c) = false → inboxFull (endService s c) c (getCore s c).cur = false → 
      exec (.waite c g) s = .next (park (retire (endService s c) c 1 none) c)) ∧
  (∀ (s : State) (c : CoreId) (g : Guard), Safety.CoreReadyCtl s c g → (getCore s c).cur ≠ 0 → ((getCore s c).stopped && (getCore s c).cur == monLevel s c) = false → inboxFull (endService s c) c (getCore s c).cur = true → 
      exec (.waite c g) s = .next (retire (resumeEvent (endService s c) c (getCore s c).cur) c 1 none)) ∧
  (∀ (s : State) (c : CoreId) (l : Nat), (getCore s c).running = true → levelUp s c = some l → 
      exec (.bankSwitch c) s = .next (switchTo s c l)) ∧
  (∀ (s : State) (c : CoreId) (l : Nat), (getCore s c).running = true → levelUp s c = none → (getCore s c).justParked = true → levelDown s c = some l → 
      exec (.bankSwitch c) s = .next (switchTo s c l)) ∧
  (∀ (s u : State) (i : Initiator) (c : CoreId) (v : W32), Safety.AcceptedHM s i (Reg.SCHED_LVLEN c) → lvlenWrite (respOk s 0) c (w32 v) = some u → 
      exec (.levelEnable i c v) s = .next u) ∧
  (∀ (s : State) (i : Initiator) (c : CoreId) (v : W32), Safety.AcceptedHM s i (Reg.SCHED_LVLEN c) → (∀ l ∈ [1, 2, 3, 4, 5, 6, 7], levelIdle s c l = true) → rb s (Reg.SCHED_LVLEN c) 0 = true → 
      ∃ t, exec (.levelEnable i c v) s = .next t ∧ rd t (Reg.SCHED_LVLEN c) = BitVec.ofNat 64 (1 + 2 * fld (w32 v) 1 7)) ∧
  (∀ (s : State) (i : Initiator) (c : CoreId) (l : Level) (v : Word), Safety.AcceptedHM s i (Reg.SCHED_ENTRY c l) → l ≠ 0 → levelIdle s c l = true → 
      exec (.schedEntryWrite i c l v) s = .next (wr (respOk s 0) (Reg.SCHED_ENTRY c l) (setFld v 0 2 (min (fld v 0 2) (initPriv s i))))) ∧
  (∀ (s : State) (c : CoreId) (l : Level), ((getCore s c).bank l).budgetOn = true → ((getCore s c).bank l).budget = 0 → 
      ∃ t, exec (.budgetExpiry c l) s = .next t ∧ rb t (Reg.SCHED_OVR c) l = true ∧ (l.val < (getCore s c).banks.length → ((getCore t c).bank l).budgetOn = false)) ∧
  (∀ (s : State) (c : CoreId) (x : Latch), (getCore s c).latchBudget = some x → levelOn s c x.level = true → inboxFull s c x.level = false → 
      ∃ t, exec (.localEventEnter c) s = .next t ∧ (getCore t c).latchBudget = none ∧
        (getCore t c).inbox = listSet (getCore s c).inbox x.level (some (localEvent 0 x.arg x.level x.time))) ∧
  (∀ (s : State) (c : CoreId) (x : Latch), (getCore s c).latchCnt = some x → (getCore s c).latchBudget = none → levelOn s c x.level = true → inboxFull s c x.level = false → 
      ∃ t, exec (.localEventEnter c) s = .next t ∧ (getCore t c).latchCnt = none ∧
        (getCore t c).inbox = listSet (getCore s c).inbox x.level (some (localEvent 1 x.arg x.level x.time)))

/-- Fetch (R132 to R138) and the predictor operations (R152) have their effect. -/
def Obligations.FetchAndPredictorCommandsComplete : Prop :=
  (∀ (s u : State) (c : CoreId) (pa a : Nat), canStep (getCore s c) = true → illegalHead s c = false → u = predecode c 32 s → queueTakes (getCore u c) (fetchAt (getCore u c)) = true → (itlbHas u c (curBank u c).priv (fetchAt (getCore u c)).toNat || onPath (getCore u c)) = true → accessWaits u c (curBank u c).priv .fetch (fetchAt (getCore u c)).toNat 4 = false → (fetchXl u c (curBank u c).priv (fetchAt (getCore u c)).toNat).2.toOption = some (pa, a) → 
      exec (.instructionFetch c) s = .next (fetchFrom (fetchXl u c (curBank u c).priv (fetchAt (getCore u c)).toNat).1 c (fetchAt (getCore u c)) pa a)) ∧
  (∀ (s u : State) (c : CoreId), canStep (getCore s c) = true → illegalHead s c = false → u = predecode c 32 s → queueTakes (getCore u c) (fetchAt (getCore u c)) = true → onPath (getCore u c) = true → accessWaits u c (curBank u c).priv .fetch (fetchAt (getCore u c)).toNat 4 = false → 
      exec (.instructionFetch c) s = .next (match fetchXl u c (curBank u c).priv (fetchAt (getCore u c)).toNat with
        | (t, .error f) => raiseFault t c f
        | (t, .ok (pa, a)) => fetchFrom t c (fetchAt (getCore u c)) pa a)) ∧
  (∀ (s u : State) (c : CoreId), canStep (getCore s c) = true → illegalHead s c = false → u = predecode c 32 s → queueTakes (getCore u c) (fetchAt (getCore u c)) = false → 
      exec (.instructionFetch c) s = .next u) ∧
  (∀ (s : State) (c : CoreId), canStep (getCore s c) = true → impreciseDue (curBank s c) = false → ibpHit s c = none → illegalHead s c = true → 
      exec (.instructionFetch c) s = .next (raiseFault s c (.plain xILLEGAL 0))) ∧
  (∀ (s : State) (c : CoreId) (line : BitVec 48), xipAsks s c (lineOf line.toNat) = true → 
      exec (.xipLineFetch c line) s = .next (noteFetch (setPrefetch s c { livePrefetch s c with asked := (livePrefetch s c).asked ++ [(lineOf line.toNat, c.val)] }) c (fetchAt (getCore s c)) 0x0D 0x0F)) ∧
  (∀ (s : State) (c : CoreId) (line : BitVec 48), (((getPrefetch s c).asked.any fun e => e.1 == lineOf line.toNat && e.2 == c.val) = true) → poisoned s (lineOf line.toNat) = false → (canStep (getCore s c) && fetchLine s c (fetchAt (getCore s c)) == some (lineOf line.toNat)) = false → 
      exec (.xipLineReturn c line false) s = .next (setPrefetch s c (bufferLine { livePrefetch s c with asked := (livePrefetch s c).asked.filter fun e => e.1 != lineOf line.toNat } (lineOf line.toNat) c))) ∧
  (∀ (s u : State) (c : CoreId) (line : BitVec 48), (((getPrefetch s c).asked.any fun e => e.1 == lineOf line.toNat && e.2 == c.val) = true) → poisoned s (lineOf line.toNat) = false → (canStep (getCore s c) && fetchLine s c (fetchAt (getCore s c)) == some (lineOf line.toNat)) = true → (u = setPrefetch s c (bufferLine { livePrefetch s c with asked := (livePrefetch s c).asked.filter fun e => e.1 != lineOf line.toNat } (lineOf line.toNat) c)) → 
      exec (.xipLineReturn c line false) s = .next (fillL1i (useLine u c (lineOf line.toNat)) c (lineOf line.toNat) (rdBytes u (64 * lineOf line.toNat) 64))) ∧
  (∀ (s : State) (c : CoreId) (line : BitVec 48), (((getPrefetch s c).asked.any fun e => e.1 == lineOf line.toNat && e.2 == c.val) = true) → (canStep (getCore s c) && fetchLine s c (fetchAt (getCore s c)) == some (lineOf line.toNat)) = false → 
      exec (.xipLineReturn c line true) s = .next (xipUncorr (setPrefetch s c { livePrefetch s c with asked := (livePrefetch s c).asked.filter fun e => e.1 != lineOf line.toNat }) c (lineOf line.toNat))) ∧
  (∀ (s : State) (i : Initiator) (c : CoreId), Safety.AcceptedHM s i (Reg.FE_CTL c) → 
      exec (.btbInv i c) s = .next (setCore (respOk s 0) c { getCore s c with btbBusy := some ((getCore s c).btbBusy.getD s.time) })) ∧
  (∀ (s : State) (i : Initiator) (c : CoreId), Safety.AcceptedHM s i (Reg.FE_CTL c) → 
      exec (.dirInv i c) s = .next (setCore (respOk s 0) c { getCore s c with dirBusy := some ((getCore s c).dirBusy.getD s.time) })) ∧
  (∀ (s : State) (i : Initiator) (c : CoreId) (p : Nat), Safety.AcceptedHM s i (Reg.FE_CTL c) → (getCore s c).rekeyBusy = none → p = (coreOwner s c).getD 0 → 
      ∃ t, exec (.rekey i c) s = .next t ∧ (getCore t c).rekeyBusy = some (p, s.time) ∧ (getCore t c).psecret = listSet (getCore s c).psecret p (24832 + s.freeCtr)) ∧
  (∀ (s : State) (c : CoreId), endsFirst (opEnd s c 512 (getCore s c).btbBusy) (opEnd s c 1024 (getCore s c).dirBusy) = true → endsFirst (opEnd s c 512 (getCore s c).btbBusy) (opEnd s c 512 ((getCore s c).rekeyBusy.map (·.2))) = true → 
      exec (.predictorOpDone c) s = .next (setCore s c { getCore s c with btb := [], btbBusy := none })) ∧
  (∀ (s : State) (c : CoreId), endsFirst (opEnd s c 512 (getCore s c).btbBusy) (opEnd s c 1024 (getCore s c).dirBusy) = false → endsFirst (opEnd s c 1024 (getCore s c).dirBusy) (opEnd s c 512 ((getCore s c).rekeyBusy.map (·.2))) = true → 
      exec (.predictorOpDone c) s = .next (setCore s c { getCore s c with dir := [], dirBusy := none })) ∧
  (∀ (s : State) (c : CoreId) (p t : Nat), (getCore s c).rekeyBusy = some (p, t) → endsFirst (opEnd s c 512 (getCore s c).btbBusy) (opEnd s c 512 ((getCore s c).rekeyBusy.map (·.2))) = false → endsFirst (opEnd s c 1024 (getCore s c).dirBusy) (opEnd s c 512 ((getCore s c).rekeyBusy.map (·.2))) = false → 
      exec (.predictorOpDone c) s = .next (setCore s c { getCore s c with btb := (getCore s c).btb.filter (fun e => e.2.ctx / 256 != p), rekeyBusy := none })) ∧
  (∀ (s : State) (c : CoreId), (getCore s c).btbBusy = none → (getCore s c).dirBusy = none → (getCore s c).rekeyBusy = none → 
      exec (.predictorOpDone c) s = .next (setCore s c (getCore s c)))

/-- Table 7.4, 7.5, 7.6 and 7.16 instructions (R182, R186, R204) have their effect. -/
def Obligations.IntegerInstructionsComplete : Prop :=
  (∀ (s : State) (c : CoreId) (g : Guard) (fn : BitVec 7) (rd ra rb : R5), Safety.CoreReady s c g → aluLegal fn rb = true → 
      exec (.intAlu c g fn rd ra rb) s = .next (retire (wg s c rd (aluVal (64 ≤ fn.toNat) (fn.toNat % 64) (rg s c ra) (rg s c rb))) c 1 none)) ∧
  (∀ (s : State) (c : CoreId) (g : Guard) (rd ra : R5) (imm : BitVec 12), Safety.CoreReady s c g → 
      exec (.addi c g rd ra imm) s = .next (retire (wg s c rd (rg s c ra + imm.signExtend 64)) c 1 none)) ∧
  (∀ (s : State) (c : CoreId) (g : Guard) (rd ra : R5) (imm : BitVec 12), Safety.CoreReady s c g → 
      exec (.andi c g rd ra imm) s = .next (retire (wg s c rd (rg s c ra &&& imm.signExtend 64)) c 1 none)) ∧
  (∀ (s : State) (c : CoreId) (g : Guard) (rd ra : R5) (imm : BitVec 12), Safety.CoreReady s c g → 
      exec (.ori c g rd ra imm) s = .next (retire (wg s c rd (rg s c ra ||| BitVec.ofNat 64 imm.toNat)) c 1 none)) ∧
  (∀ (s : State) (c : CoreId) (g : Guard) (rd ra : R5) (imm : BitVec 12), Safety.CoreReady s c g → 
      exec (.xori c g rd ra imm) s = .next (retire (wg s c rd (rg s c ra ^^^ BitVec.ofNat 64 imm.toNat)) c 1 none)) ∧
  (∀ (s : State) (c : CoreId) (g : Guard) (rd ra : R5) (imm : BitVec 12), Safety.CoreReady s c g → shiLegal imm = true → 
      exec (.shi c g rd ra imm) s = .next (retire (wg s c rd (aluVal (imm.getLsbD 9) (6 + imm.toNat / 1024) (rg s c ra) (BitVec.ofNat 64 (imm.toNat % 64)))) c 1 none)) ∧
  (∀ (s : State) (c : CoreId) (g : Guard) (fn : BitVec 7) (rd ra rb : R5), Safety.CoreReady s c g → decide (fn.toNat ≤ 4) = true → 
      exec (.mul c g fn rd ra rb) s = .next (retire (wg s c rd (mulVal fn.toNat (rg s c ra) (rg s c rb))) c 1 none)) ∧
  (∀ (s : State) (c : CoreId) (g : Guard) (fn : BitVec 7) (rd ra rb : R5) (w : Nat), Safety.CoreReady s c g → decide (fn.toNat % 64 < 4) = true → (w = if 64 ≤ fn.toNat then 32 else 64) → uintOf w (rg s c rb) ≠ 0 → 
      exec (.div c g fn rd ra rb) s = .next (retire (wg s c rd (divVal w (fn.toNat % 64) (rg s c ra) (rg s c rb))) c 1 none)) ∧
  (∀ (s : State) (c : CoreId) (g : Guard) (fn : BitVec 7) (rd ra rb : R5) (w : Nat), Safety.CoreReady s c g → decide (fn.toNat % 64 < 4) = true → (w = if 64 ≤ fn.toNat then 32 else 64) → uintOf w (rg s c rb) = 0 → (curBank s c).imp = false → 
      exec (.div c g fn rd ra rb) s = .next (raiseFault s c { cause := xARITH, sub := 32, t1 := (curBank s c).pc })) ∧
  (∀ (s : State) (c : CoreId) (g : Guard) (fn : BitVec 7) (rd ra rb : R5) (w : Nat), Safety.CoreReady s c g → decide (fn.toNat % 64 < 4) = true → (w = if 64 ≤ fn.toNat then 32 else 64) → uintOf w (rg s c rb) = 0 → (curBank s c).imp = true → 
      exec (.div c g fn rd ra rb) s = .next (retire (setCur s c ((curBank s c).pendArith 32)) c 1 none)) ∧
  (∀ (s : State) (c : CoreId) (g : Guard) (fn : BitVec 7) (rd ra rb : R5) (r : Int × Bool), Safety.CoreReady s c g → decide (fn.toNat ≤ 9) = true → r = fracVal fn.toNat (curBank s c).rnd (rg s c ra) (rg s c rb) → 
      exec (.fractionOp c g fn rd ra rb) s = .next (retire (noteSat (wg s c rd (ofI r.1)) c r.2) c 1 none)) ∧
  (∀ (s : State) (c : CoreId) (g : Guard) (rd : R5) (imm : W32), Safety.CoreReady s c g → 
      exec (.li c g rd imm) s = .next (retire (wg s c rd (imm.signExtend 64)) c 2 none)) ∧
  (∀ (s : State) (c : CoreId) (g : Guard) (rd : R5) (imm : W32), Safety.CoreReady s c g → 
      exec (.lih c g rd imm) s = .next (retire (wg s c rd (setFld (rg s c rd) 32 32 imm.toNat)) c 2 none)) ∧
  (∀ (s : State) (c : CoreId) (g : Guard) (rd ra : R5) (imm : W32), Safety.CoreReady s c g → 
      exec (.addw c g rd ra imm) s = .next (retire (wg s c rd (rg s c ra + imm.signExtend 64)) c 2 none)) ∧
  (∀ (s : State) (c : CoreId) (g : Guard) (rd ra : R5) (imm : W32), Safety.CoreReady s c g → 
      exec (.andw c g rd ra imm) s = .next (retire (wg s c rd (rg s c ra &&& imm.signExtend 64)) c 2 none)) ∧
  (∀ (s : State) (c : CoreId) (g : Guard) (rd ra : R5) (imm : W32), Safety.CoreReady s c g → 
      exec (.orw c g rd ra imm) s = .next (retire (wg s c rd (rg s c ra ||| BitVec.ofNat 64 imm.toNat)) c 2 none))

/-- R183 and the wide form CMPW of Table 7.16. -/
def Obligations.CompareWritesPredicates : Prop :=
  (∀ (s : State) (c : CoreId) (g : Guard) (pd pn : BitVec 3) (ra rb : R5) (cond : BitVec 4) (imm w : Bool) (v : Bool), Safety.CoreReady s c g → (getCore s c).cur < (getCore s c).banks.length → cond.toNat < 8 → pd ≠ pn ∨ pn = 0 → (v = (if w then Safety.compareSpec cond.toNat ((rg s c ra).setWidth 32) ((if imm then rb.signExtend 64 else rg s c rb).setWidth 32)
        else Safety.compareSpec cond.toNat (rg s c ra) (if imm then rb.signExtend 64 else rg s c rb))) → 
      ∃ u, exec (.cmp c g pd pn ra rb cond imm w) s = .next (retire u c 1 none) ∧ (pd ≠ 0 → (curBank u c).pred pd.toNat = v) ∧
        (pn ≠ 0 → (curBank u c).pred pn.toNat = !v) ∧ (∀ p : BitVec 3, p ≠ pd → p ≠ pn → (curBank u c).pred p.toNat = (curBank s c).pred p.toNat) ∧
        (∀ r : R5, rg u c r = rg s c r) ∧ (∀ d, d ≠ c.val → getCore u d = getCore s d) ∧ u.mem = s.mem) ∧
  (∀ (s : State) (c : CoreId) (g : Guard) (pd pn : BitVec 3) (ra : R5) (cond : BitVec 4) (w : Bool) (imm : W32) (v : Bool), Safety.CoreReady s c g → (getCore s c).cur < (getCore s c).banks.length → cond.toNat < 8 → pd ≠ pn ∨ pn = 0 → (v = (if w then Safety.compareSpec cond.toNat ((rg s c ra).setWidth 32) ((imm.signExtend 64).setWidth 32)
        else Safety.compareSpec cond.toNat (rg s c ra) (imm.signExtend 64))) → 
      ∃ u, exec (.cmpw c g pd pn ra cond w imm) s = .next (retire u c 2 none) ∧ (pd ≠ 0 → (curBank u c).pred pd.toNat = v) ∧
        (pn ≠ 0 → (curBank u c).pred pn.toNat = !v) ∧ (∀ p : BitVec 3, p ≠ pd → p ≠ pn → (curBank u c).pred p.toNat = (curBank s c).pred p.toNat) ∧
        (∀ r : R5, rg u c r = rg s c r) ∧ (∀ d, d ≠ c.val → getCore u d = getCore s d) ∧ u.mem = s.mem) ∧
  (∀ (s : State) (c : CoreId) (g : Guard) (pd pn : BitVec 3) (ra rb : R5) (cond : BitVec 4) (imm w : Bool), Safety.CoreReady s c g → 8 ≤ cond.toNat ∨ (pd = pn ∧ pn ≠ 0) → 
      exec (.cmp c g pd pn ra rb cond imm w) s = .next (raiseFault s c (.plain xILLEGAL 0)))

/-- R184. -/
def Obligations.PredicateInstructionsWritePredicates : Prop :=
  (∀ (s : State) (c : CoreId) (g : Guard) (pd pa pb fn : BitVec 3), Safety.CoreReady s c g → (getCore s c).cur < (getCore s c).banks.length → fn.toNat < 4 ∨ (fn = 4 ∧ pb = 0) → 
      ∃ u, exec (.predicateOp c g pd pa pb fn) s = .next (retire u c 1 none) ∧
        (pd ≠ 0 → (curBank u c).pred pd.toNat = Safety.predicateSpec fn.toNat ((curBank s c).pred pa.toNat) ((curBank s c).pred pb.toNat)) ∧
        (∀ p : BitVec 3, p ≠ pd → (curBank u c).pred p.toNat = (curBank s c).pred p.toNat) ∧
        (∀ r : R5, rg u c r = rg s c r) ∧ (∀ d, d ≠ c.val → getCore u d = getCore s d) ∧ u.mem = s.mem) ∧
  (∀ (s : State) (c : CoreId) (g : Guard) (pd pa pb fn : BitVec 3), Safety.CoreReady s c g → 5 ≤ fn.toNat ∨ (fn = 4 ∧ pb ≠ 0) → 
      exec (.predicateOp c g pd pa pb fn) s = .next (raiseFault s c (.plain xILLEGAL 0)))

/-- R185. -/
def Obligations.SelectsChooseTheirSource : Prop :=
  (∀ (s : State) (c : CoreId) (g : Guard) (neg : Bool) (ps : BitVec 3) (rd ra rb : R5), Safety.CoreReady s c g → 
      exec (.sel c g neg ps rd ra rb) s = .next (retire (wg s c rd (if (curBank s c).pred ps.toNat ≠ neg then rg s c ra else rg s c rb)) c 1 none)) ∧
  (∀ (s : State) (c : CoreId) (g : Guard) (neg : Bool) (ps : BitVec 3) (rd ra rb : R5), canStep (getCore s c) = true → impreciseDue (curBank s c) = false → ibpHit s c = none → illegalHead s c = false → (curBank s c).guard g = false → 
      exec (.sel c g neg ps rd ra rb) s = .next (retire s c 1 none)) ∧
  (∀ (s : State) (c : CoreId) (g : Guard) (neg : Bool) (ps : BitVec 3) (rd ra : R5), Safety.CoreReady s c g → 
      exec (.cmov c g neg ps rd ra) s = .next (retire (wg s c rd (if (curBank s c).pred ps.toNat ≠ neg then rg s c ra else rg s c rd)) c 1 none)) ∧
  (∀ (s : State) (c : CoreId) (g : Guard) (neg : Bool) (ps : BitVec 3) (rd ra : R5), canStep (getCore s c) = true → impreciseDue (curBank s c) = false → ibpHit s c = none → illegalHead s c = false → (curBank s c).guard g = false → 
      exec (.cmov c g neg ps rd ra) s = .next (retire s c 1 none))

/-- The instructions of 7.5 over accumulators and address generators. -/
def Obligations.AccumulatorInstructionsComplete : Prop :=
  (∀ (s : State) (c : CoreId) (g : Guard) (ac : BitVec 2) (sub clr int : Bool) (ra rb : R5) (form : BitVec 2) (uns : Bool), Safety.CoreReadyExt s c g → (form != 3 && (int || !uns)) = true → 
      exec (.mac c g ac sub clr int ra rb form uns) s = .next (retire (accumulate s c ac sub clr (macSum (macForm form) int uns (uintOf 32 (rg s c ra)) (uintOf 32 (rg s c rb)))) c 1 none)) ∧
  (∀ (s : State) (c : CoreId) (g : Guard) (rd : R5) (ac : BitVec 2) (r : Int × Bool), Safety.CoreReadyExt s c g → r = roundSat 16 (curBank s c).rnd 48 (acGet s c ac).toInt → 
      exec (.acrd15 c g rd ac) s = .next (retire (noteSat (wg s c rd (ofI r.1)) c r.2) c 1 none)) ∧
  (∀ (s : State) (c : CoreId) (g : Guard) (rd : R5) (ac : BitVec 2) (r : Int × Bool), Safety.CoreReadyExt s c g → r = roundSat 32 (curBank s c).rnd 32 (acGet s c ac).toInt → 
      exec (.acrd31 c g rd ac) s = .next (retire (noteSat (wg s c rd (ofI r.1)) c r.2) c 1 none)) ∧
  (∀ (s : State) (c : CoreId) (g : Guard) (rd : R5) (ac : BitVec 2) (r : Int × Bool), Safety.CoreReadyExt s c g → r = satI 64 (acGet s c ac).toInt → 
      exec (.acrd63 c g rd ac) s = .next (retire (noteSat (wg s c rd (ofI r.1)) c r.2) c 1 none)) ∧
  (∀ (s : State) (c : CoreId) (g : Guard) (rd : R5) (ac : BitVec 2), Safety.CoreReadyExt s c g → 
      exec (.acrdl c g rd ac) s = .next (retire (wg s c rd ((acGet s c ac).setWidth 64)) c 1 none)) ∧
  (∀ (s : State) (c : CoreId) (g : Guard) (rd : R5) (ac : BitVec 2), Safety.CoreReadyExt s c g → 
      exec (.acrdg c g rd ac) s = .next (retire (wg s c rd (ofI ((acGet s c ac).toInt / 2 ^ 64))) c 1 none)) ∧
  (∀ (s : State) (c : CoreId) (g : Guard) (ra : R5) (ac : BitVec 2), Safety.CoreReadyExt s c g → 
      exec (.acwr c g ra ac) s = .next (retire (acPut s c ac ((rg s c ra).signExtend 72)) c 1 none)) ∧
  (∀ (s : State) (c : CoreId) (g : Guard) (ra : R5) (ac : BitVec 2), Safety.CoreReadyExt s c g → 
      exec (.acwrg c g ra ac) s = .next (retire (acPut s c ac (BitVec.ofNat 72 ((acGet s c ac).toNat % 2 ^ 64 + 2 ^ 64 * fld (rg s c ra) 0 8))) c 1 none)) ∧
  (∀ (s : State) (c : CoreId) (g : Guard) (ac : BitVec 2) (rb : R5), Safety.CoreReadyExt s c g → 
      exec (.acsh c g ac rb) s = .next (retire (acSat s c ac (shiftI (acGet s c ac).toInt (sintOf 7 (rg s c rb)))) c 1 none)) ∧
  (∀ (s : State) (c : CoreId) (g : Guard) (ac : BitVec 2) (rb : R5), Safety.CoreReadyExt s c g → decide (rb.toNat < 4) = true → 
      exec (.acadd c g ac rb) s = .next (retire (acSat s c ac ((acGet s c ac).toInt + (acGet s c (rb.setWidth 2)).toInt)) c 1 none)) ∧
  (∀ (s : State) (c : CoreId) (g : Guard) (ac : BitVec 2), Safety.CoreReadyExt s c g → 
      exec (.acclr c g ac) s = .next (retire (acPut s c ac 0) c 1 none)) ∧
  (∀ (s : State) (c : CoreId) (g : Guard) (ac xg yg : BitVec 2) (xpm ypm : Bool) (form : BitVec 2) (sub int clr uns : Bool) (t u v : State), Safety.CoreReadyExt s c g → (int || !uns) = true → genOff s c false xg % 4 = 0 → u = loadCheck s c (tcmAddr c false (genOff s c false xg)) 4 → poisoned u (lineOf (tcmAddr c false (genOff s c false xg))) = false → genOff u c true yg % 4 = 0 → v = loadCheck u c (tcmAddr c true (genOff u c true yg)) 4 → poisoned v (lineOf (tcmAddr c true (genOff u c true yg))) = false → t = macxMod v c xg yg xpm ypm → 
      exec (.macx c g ac xg yg xpm ypm form sub int clr uns) s = .next (retire (countCur (accumulate t c ac sub clr (macSum (macxForm form) int uns
      (leNat (rdBytes u (tcmAddr c false (genOff s c false xg)) 4)) (leNat (rdBytes v (tcmAddr c true (genOff u c true yg)) 4)))) c 0x17) c 1 none)) ∧
  (∀ (s : State) (c : CoreId) (g : Guard) (rd : R5) (y : Bool) (gen : BitVec 2) (pm : Bool) (size : BitVec 2) (uns : Bool) (u : State), Safety.CoreReady s c g → (!uns || size != 3) = true → genOff s c y gen % sizeBytes size = 0 → u = loadCheck s c (tcmAddr c y (genOff s c y gen)) (sizeBytes size) → poisoned u (lineOf (tcmAddr c y (genOff s c y gen))) = false → 
      exec (.ldtStt c g rd y gen pm false size uns) s = .next (retire (countCur (wg (postMod u c y gen pm) c rd (extend (sizeBytes size) uns (rdBytes u (tcmAddr c y (genOff s c y gen)) (sizeBytes size)))) c 0x1B) c 1 none)) ∧
  (∀ (s : State) (c : CoreId) (g : Guard) (rd : R5) (y : Bool) (gen : BitVec 2) (pm : Bool) (size : BitVec 2) (l : List Byte), Safety.CoreReady s c g → l = leBytes (sizeBytes size) (rg s c rd).toNat → genOff s c y gen % l.length = 0 → 
      exec (.ldtStt c g rd y gen pm true size false) s = .next (retire (countCur (postMod (coreStore s c (tcmAddr c y (genOff s c y gen)) l) c y gen pm) c 0x1C) c 1 none))

/-- The memory instructions of 7.7 where their access is performed. -/
def Obligations.MemoryInstructionsComplete : Prop :=
  (∀ (s : State) (c : CoreId) (g : Guard) (size : BitVec 2) (uns : Bool) (rd ra : R5) (off : BitVec 12) (n va : Nat) (l : List Byte) (attr : Nat), Safety.CoreReady s c g → (!(uns && size == 3)) = true → n = sizeBytes size → va = offAddr (rg s c ra) off n → accessWaits s c (curBank s c).priv .load va n = false → hostAsk s c (curBank s c).priv va n = none → (anyRead s c (curBank s c).priv va n).2.toOption = some (l, attr) → 
      exec (.load c g size uns rd ra off) s = .next (retire (wg (watch (countAcc (anyRead s c (curBank s c).priv va n).1 c 0x1B va attr) c va n false) c rd (extend n uns l)) c 1 none)) ∧
  (∀ (s : State) (c : CoreId) (g : Guard) (size : BitVec 2) (rs ra : R5) (off : BitVec 12) (va attr : Nat) (l : List Byte), Safety.CoreReady s c g → l = leBytes (sizeBytes size) (rg s c rs).toNat → va = offAddr (rg s c ra) off (sizeBytes size) → accessWaits s c (curBank s c).priv .store va l.length = false → (anyWrite s c (curBank s c).priv va l).2.toOption = some attr → 
      exec (.store c g size rs ra off) s = .next (retire (watch (countAcc (anyWrite s c (curBank s c).priv va l).1 c 0x1C va attr) c va l.length true) c 1 none)) ∧
  (∀ (s : State) (c : CoreId) (g : Guard) (size : BitVec 2) (uns : Bool) (rd ra : R5) (off : BitVec 12) (n va : Nat), Safety.CoreReady s c g → (!(uns && size == 3)) = true → n = sizeBytes size → va = offAddr (rg s c ra) off n → accessWaits s c (curBank s c).priv .load va n = true → 
      exec (.load c g size uns rd ra off) s = .next (s)) ∧
  (∀ (s : State) (c : CoreId) (g : Guard) (size : BitVec 2) (rs ra : R5) (off : BitVec 12) (n va : Nat), Safety.CoreReady s c g → n = sizeBytes size → va = offAddr (rg s c ra) off n → accessWaits s c (curBank s c).priv .store va n = true → 
      exec (.store c g size rs ra off) s = .next (s)) ∧
  (∀ (s : State) (c : CoreId) (g : Guard) (fn : BitVec 7) (rd ra rb : R5) (n va : Nat) (l : List Byte) (attr : Nat), Safety.CoreReady s c g → fn.toNat.testBit 6 = false → fn.toNat.testBit 0 = false → (!fn.toNat.testBit 3 || fn.toNat / 16 % 4 != 3) = true → n = 2 ^ (fn.toNat / 16 % 4) → va = (rg s c ra + rg s c rb <<< (fn.toNat / 2 % 4)).toNat → accessWaits s c (curBank s c).priv .load va n = false → hostAsk s c (curBank s c).priv va n = none → (anyRead s c (curBank s c).priv va n).2.toOption = some (l, attr) → 
      exec (.ldxStx c g fn rd ra rb) s = .next (retire (wg (watch (countAcc (anyRead s c (curBank s c).priv va n).1 c 0x1B va attr) c va n false) c rd (extend n (fn.toNat.testBit 3) l)) c 1 none)) ∧
  (∀ (s : State) (c : CoreId) (g : Guard) (fn : BitVec 7) (rd ra rb : R5) (va : Nat) (l : List Byte) (attr : Nat), Safety.CoreReady s c g → fn.toNat.testBit 6 = true → fn.toNat.testBit 0 = false → fn.toNat.testBit 3 = false → l = leBytes (2 ^ (fn.toNat / 16 % 4)) (rg s c rd).toNat → va = (rg s c ra + rg s c rb <<< (fn.toNat / 2 % 4)).toNat → accessWaits s c (curBank s c).priv .store va l.length = false → (anyWrite s c (curBank s c).priv va l).2.toOption = some attr → 
      exec (.ldxStx c g fn rd ra rb) s = .next (retire (watch (countAcc (anyWrite s c (curBank s c).priv va l).1 c 0x1C va attr) c va l.length true) c 1 none)) ∧
  (∀ (s : State) (c : CoreId) (g : Guard) (rd ra rk : R5) (off : BitVec 6) (va : Nat) (l : List Byte) (attr : Nat) (v : Word), Safety.CoreReady s c g → rd ≠ rk → va = offAddr (rg s c ra) off 8 → (dataRead s c (curBank s c).priv va 8 .mirror).2.toOption = some (l, attr) → v = BitVec.ofNat 64 (leNat l) → mirrorOk v = true → 
      exec (.ldmw c g rd ra rk off) s = .next (retire (watch (countAcc (wg (wg (dataRead s c (curBank s c).priv va 8 .mirror).1 c rd (sextW 32 (fld v 0 32))) c rk (sextW 32 (fld v 32 32))) c 0x1D va attr) c va 8 false) c 1 none)) ∧
  (∀ (s : State) (c : CoreId) (g : Guard) (rs ra rk : R5) (off : BitVec 6) (va attr : Nat), Safety.CoreReady s c g → va = offAddr (rg s c ra) off 8 → mirrorReach s c (curBank s c).priv va = (s, none) → complements (rg s c rs) (rg s c rk) = true → (dataWrite s c (curBank s c).priv va (leBytes 4 (rg s c rs).toNat ++ leBytes 4 (rg s c rk).toNat) .mirror true).2.toOption = some attr → 
      exec (.stmw c g rs ra rk off) s = .next (retire (watch (countAcc (dataWrite s c (curBank s c).priv va (leBytes 4 (rg s c rs).toNat ++ leBytes 4 (rg s c rk).toNat) .mirror true).1 c 0x1D va attr) c va 8 true) c 1 none)) ∧
  (∀ (s : State) (c : CoreId) (g : Guard) (rd ra : R5) (d : Bool) (n va pa : Nat) (l : List Byte) (u : State), Safety.CoreReady s c g → n = lockedSize d → va = (rg s c ra).toNat → ownWaits s c va n = false → (lockedXl s c (curBank s c).priv .load va n).1 = s → (lockedXl s c (curBank s c).priv .load va n).2.toOption = some pa → (physRead (obtainLine s c va pa n) c va pa 0 n).1 = u → (physRead (obtainLine s c va pa n) c va pa 0 n).2.toOption = some l → 
      exec (.ldl c g rd ra d) s = .next (retire (watch (countAcc (setCore (wg u c rd (extend n false l)) c { getCore (wg u c rd (extend n false l)) c with resv := some (pa, va, n) }) c 0x1B va 0) c va n false) c 1 none)) ∧
  (∀ (s : State) (c : CoreId) (g : Guard) (rd ra rs : R5) (d : Bool) (n va pa : Nat), Safety.CoreReady s c g → rd ≠ rs → n = lockedSize d → va = (rg s c ra).toNat → (lockedXl s c (curBank s c).priv .store va n).1 = s → (lockedXl s c (curBank s c).priv .store va n).2.toOption = some pa → reserved s c va n = false → 
      exec (.stc c g rd ra rs d) s = .next (retire (countCur (countAcc (dropOwnResv (wg s c rd 0) c) c 0x1C va 0) c 0x1E) c 1 none)) ∧
  (∀ (s : State) (c : CoreId) (g : Guard) (rd ra rs : R5) (d : Bool) (n va pa : Nat) (l : List Byte), Safety.CoreReady s c g → rd ≠ rs → n = lockedSize d → va = (rg s c ra).toNat → (lockedXl s c (curBank s c).priv .store va n).1 = s → (lockedXl s c (curBank s c).priv .store va n).2.toOption = some pa → reserved s c va n = true → accessWaits s c (curBank s c).priv .store va n = false → l = leBytes n (rg s c rs).toNat → (physWrite s c va pa 0 l .locked false).2 = none → 
      exec (.stc c g rd ra rs d) s = .next (retire (watch (countAcc (dropOwnResv (wg (physWrite s c va pa 0 l .locked false).1 c rd 1) c) c 0x1C va 0) c va n true) c 1 none)) ∧
  (∀ (s : State) (c : CoreId) (g : Guard), Safety.CoreReadyCtl s c g → 
      exec (.fenceAcq c g) s = .next (retire s c 1 none)) ∧
  (∀ (s : State) (c : CoreId) (g : Guard), Safety.CoreReadyCtl s c g → 
      exec (.fenceRel c g) s = .next (retire s c 1 none)) ∧
  (∀ (s : State) (c : CoreId) (g : Guard), Safety.CoreReadyCtl s c g → 
      exec (.fenceAll c g) s = .next (retire s c 1 none)) ∧
  (∀ (s u : State) (c : CoreId) (g : Guard) (b : Bank), Safety.CoreReadyCtl s c g → (b = { curBank s c with
        gtb := (if (curBank s c).gtbWait then rd s (Reg.XL_GTB c (getCore s c).cur) else (curBank s c).gtb)
        ptb := (if (curBank s c).ptbWait then rd s (Reg.XL_PTB c) else (curBank s c).ptb)
        gtbWait := false
        ptbWait := false }) → u = killFetch (issueFetch (setCore s c (ownStores ((getCore s c).setBank (getCore s c).cur b))) c b.pc 1) c → 
      exec (.ifence c g) s = .next (retire u c 1 none) ∧ (getCore u c).ownSt = [])

/-- The control instructions of 7.8 and the window routines of 6.5. -/
def Obligations.ControlInstructionsComplete : Prop :=
  (∀ (s : State) (c : CoreId) (g : Guard) (disp : BitVec 22) (a : Word), Safety.CoreReadyCtl s c g → a = (curBank s c).pc + ofI (4 * disp.toInt) → badTarget a = false → 
      exec (.br c g disp) s = .next (retire (predict s c (brKind g) (isCond g) true true a) c 1 (some a))) ∧
  (∀ (s : State) (c : CoreId) (g : Guard) (ra : R5), Safety.CoreReadyCtl s c g → badTarget (rg s c ra) = false → 
      exec (.jr c g ra) s = .next (retire (predict s c kInd (isCond g) true false (rg s c ra)) c 1 (some (rg s c ra)))) ∧
  (∀ (s : State) (c : CoreId) (g : Guard) (ra : R5), Safety.CoreReadyCtl s c g → badTarget (rg s c ra) = true → 
      exec (.jr c g ra) s = .next (raiseFault s c (.plain xINSTR_ADDR (rg s c ra)))) ∧
  (∀ (s : State) (c : CoreId) (g : Guard) (disp : BitVec 22) (t u v w : State) (f : Word) (a : Word), Safety.CoreReadyCtl s c g → a = (curBank s c).pc + ofI (4 * disp.toInt) → callFault (curBank s c) a = none → spillTo 6 c 8 s = (t, none) → f = nth (curBank t c).sp 0 (curBank t c).priv - 144 → store64 t c (curBank t c).priv f.toNat ((curBank t c).pc + 4) = (u, none) → store64 u c (curBank t c).priv (f.toNat + 8) (curBank t c).wfb = (v, none) → w = predict v c kCall (isCond g) true true a → 
      exec (.call c g disp) s = .next (retire (setCur w c ((curBank w c).pushed f)) c 1 (some a))) ∧
  (∀ (s : State) (c : CoreId) (g : Guard) (ra : R5) (t u v w : State) (f : Word) (a : Word), Safety.CoreReadyCtl s c g → a = rg s c ra → callFault (curBank s c) a = none → spillTo 6 c 8 s = (t, none) → f = nth (curBank t c).sp 0 (curBank t c).priv - 144 → store64 t c (curBank t c).priv f.toNat ((curBank t c).pc + 4) = (u, none) → store64 u c (curBank t c).priv (f.toNat + 8) (curBank t c).wfb = (v, none) → w = predict v c kCall (isCond g) true false a → 
      exec (.callr c g ra) s = .next (retire (setCur w c ((curBank w c).pushed f)) c 1 (some a))) ∧
  (∀ (s : State) (c : CoreId) (g : Guard) (t u w : State) (ra pf : Word), Safety.CoreReadyCtl s c g → (curBank s c).depth ≠ 0 → (load64 s c (curBank s c).priv (curBank s c).wfb.toNat).1 = t → (load64 s c (curBank s c).priv (curBank s c).wfb.toNat).2.toOption = some ra → badTarget ra = false → (curBank s c).popLow = false → (below t c (curBank s c).priv).1 = u → (below t c (curBank s c).priv).2.toOption = some pf → w = predict u c kRet (isCond g) true false ra → 
      exec (.ret c g) s = .next (retire (setCur w c ((curBank w c).popped pf)) c 1 (some ra))) ∧
  (∀ (s : State) (c : CoreId) (g : Guard), Safety.CoreReadyCtl s c g → (curBank s c).depth = 0 → 
      exec (.ret c g) s = .next (raiseFault s c (.plain xRET_UNDERFLOW 0))) ∧
  (∀ (s : State) (c : CoreId) (g : Guard) (lv i : Bool) (cnt : BitVec 10) (cr : R5) (endOff : BitVec 10) (n : Nat) (last : Word), Safety.CoreReady s c g → (n = (if i then cnt.toNat else uintOf 32 (rg s c cr))) → last = (curBank s c).pc + 4 + adr (4 * endOff.toNat) → 
      exec (.loop c g lv i cnt cr endOff) s = .next (retire (setCur s c ((curBank s c).setLoop lv.toNat n last)) c 1
      (if n = 0 then some (last + adr (instrSize s c last)) else none)))

/-- The system instructions of 7.9. -/
def Obligations.SystemInstructionsComplete : Prop :=
  (∀ (s : State) (c : CoreId) (g : Guard) (rd : R5) (sr : BitVec 6), Safety.CoreReadyExt s c g → srListed sr.toNat = true → srReadPriv sr.toNat ≤ (curBank s c).priv → (((getCore s c).pair.find? fun e => e.1 == sr.toNat) = none) → 
      exec (.mfsr c g rd sr) s = .next (retire (wg s c rd (srGet (getCore s c) (curBank s c) sr.toNat)) c 1 none)) ∧
  (∀ (s : State) (c : CoreId) (g : Guard) (rd : R5) (sr : BitVec 6) (v : Word), Safety.CoreReadyExt s c g → srListed sr.toNat = true → srReadPriv sr.toNat ≤ (curBank s c).priv → (((getCore s c).pair.find? fun e => e.1 == sr.toNat) = some (sr.toNat, v)) → 
      exec (.mfsr c g rd sr) s = .next (retire (wg s c rd (v)) c 1 none)) ∧
  (∀ (s : State) (c : CoreId) (g : Guard) (rd : R5) (sr : BitVec 6), Safety.CoreReadyExt s c g → srListed sr.toNat = true → (curBank s c).priv < srReadPriv sr.toNat → 
      exec (.mfsr c g rd sr) s = .next (raiseFault s c (.plain xPRIVILEGE 0))) ∧
  (∀ (s : State) (c : CoreId) (g : Guard) (ra : R5) (sr : BitVec 6) (n : Nat) (u : State), Safety.CoreReadyCtl s c g → n = sr.toNat → srWritable n = true → srExt n = false → srWritePriv n ≤ (curBank s c).priv → n ≠ 0 ∧ n ≠ 0x20 → ((n = 1 ∨ n = 2) → (curBank s c).wres = 1) → (n = 4 + (curBank s c).priv → ¬ (rg s c ra).toNat < (nth (curBank s c).slim 0 (curBank s c).priv).toNat) → u = retire s c 1 none → 
      exec (.mtsr c g ra sr) s = .next (setCore u c (shadowPut (getCore u c) (getCore s c).cur n (rg s c ra)))) ∧
  (∀ (s : State) (c : CoreId) (g : Guard) (ra : R5) (u : State), Safety.CoreReadyCtl s c g → 2 ≤ (curBank s c).priv → (curBank s c).imprecise = [] → u = retire (setCur s c ((curBank s c).setMl (rg s c ra))) c 1 none → 
      exec (.mtsr c g ra 0) s = .next (setCore u c (shadowPut (getCore u c) (getCore (setCur s c ((curBank s c).setMl (rg s c ra))) c).cur 0 (rg s c ra)))) ∧
  (∀ (s : State) (c : CoreId) (g : Guard) (ra : R5) (u : State), Safety.CoreReadyCtl s c g ∧ (getCore s c).avail = true → srWritePriv 0x20 ≤ (curBank s c).priv → xstateOwned (getCore s c) (getCore s c).cur = false → u = retire s c 1 none → 
      exec (.xsaveWrite c g ra) s = .next (setCore u c (shadowPut (getCore u c) (getCore s c).cur 0x20 (rg s c ra)))) ∧
  (∀ (s : State) (c : CoreId) (g : Guard) (t u : State) (w pf : Word), Safety.CoreReadyCtl s c g → (curBank s c).priv ≠ 0 → (getCore s c).df = false → (curBank s c).depth ≠ 0 → (load64 s c (curBank s c).priv (curBank s c).wfb.toNat).1 = t → (load64 s c (curBank s c).priv (curBank s c).wfb.toNat).2.toOption = some w → frameOk w (curBank s c).priv = true → (curBank s c).popLow = false → (below t c (fld w 48 2)).1 = u → (below t c (fld w 48 2)).2.toOption = some pf → 
      exec (.rfe c g) s = .next (rfeGo u c pf w)) ∧
  (∀ (s t u v : State) (c : CoreId) (g : Guard) (l : Nat), Safety.CoreReadyCtl s c g → (curBank s c).priv ≠ 0 → (getCore s c).df = true → rb s (Reg.EXC_DF_INFO c) 15 = false → l = rf s (Reg.EXC_DF_INFO c) 12 3 → t = issueFetch (countEvt s c 0x02 1 { curCtx s c with addr := some (curBank s c).pc.toNat }) c (curBank (countEvt s c 0x02 1 { curCtx s c with addr := some (curBank s c).pc.toNat }) c).pc 1 → u = setCore t c { (flushShadow (getCore t c) 7).setBank 7 (((flushShadow (getCore t c) 7).bank 7).dfRestore (rd t (Reg.EXC_DF_B7 c))) with df := false, resv := none } → (v = (if l = 7 then killFetch u c else makeCurrent u c (l))) → 
      exec (.rfe c g) s = .next (dueMcheck (setCore v c ((getCore v c).setBank l { (getCore v c).bank l with
      st := .active, pc := adr (4 * rf v (Reg.EXC_DF_PC c) 2 46), status := statusLoad (rf v (Reg.EXC_DF_STATUS c) 0 9) })) c)) ∧
  (∀ (s : State) (c : CoreId) (g : Guard), Safety.CoreReadyCtl s c g → (curBank s c).priv = 0 → 
      exec (.rfe c g) s = .next (raiseFault s c (.plain xPRIVILEGE 0))) ∧
  (∀ (s : State) (c : CoreId) (g : Guard), Safety.CoreReady s c g → (curBank s c).wres ≤ 1 → 
      exec (.wflush c g) s = .next (retire s c 1 none)) ∧
  (∀ (s : State) (c : CoreId) (g : Guard) (t : State), Safety.CoreReady s c g → 1 < (curBank s c).wres → spill s c = (t, none) → (curBank t c).wres ≤ 1 → 
      exec (.wflush c g) s = .next (retire t c 1 none)) ∧
  (∀ (s : State) (c : CoreId) (g : Guard) (t : State), Safety.CoreReady s c g → 1 < (curBank s c).wres → spill s c = (t, none) → 1 < (curBank t c).wres → (levelUp t c).isSome = false → 
      exec (.wflush c g) s = .next (conclude c 1 (flushWindows c 7 t))) ∧
  (∀ (s : State) (c : CoreId) (g : Guard) (t : State), Safety.CoreReady s c g → 1 < (curBank s c).wres → spill s c = (t, none) → 1 < (curBank t c).wres → (levelUp t c).isSome = true → 
      exec (.wflush c g) s = .next t) ∧
  (∀ (s : State) (c : CoreId) (g : Guard) (t : State) (f : Flt), Safety.CoreReady s c g → 1 < (curBank s c).wres → spill s c = (t, some f) → 
      exec (.wflush c g) s = .next (raiseFault t c f)) ∧
  (∀ (s : State) (c : CoreId) (g : Guard) (arg : BitVec 10), Safety.CoreReadyCtl s c g → 
      exec (.trap c g arg) s = .next (raiseExc s c (.plain xSYSCALL (BitVec.ofNat 64 arg.toNat)) ((curBank s c).pc + 4))) ∧
  (∀ (s : State) (c : CoreId) (g : Guard) (arg : BitVec 10), Safety.CoreReadyCtl s c g → coreGrant s c ≠ 2 → 
      exec (.brk c g arg) s = .next (raiseExc s c (.plain xBREAKPOINT (BitVec.ofNat 64 arg.toNat)) ((curBank s c).pc + 4))) ∧
  (∀ (s : State) (c : CoreId) (g : Guard) (arg : BitVec 10) (p : Part), Safety.CoreReadyCtl s c g → coreGrant s c = 2 → coreOwner s c = some p.val → rb s (Reg.DBGP_CTL p) 3 = true → 
      exec (.brk c g arg) s = .next (retire (raiseDbg s c 2 (BitVec.ofNat 64 arg.toNat) 0) c 1 none))

/-- The floating-point instructions of 7.10. NaN payloads and signs are free values (log entry 3). -/
def Obligations.FloatingPointInstructionsComplete : Prop :=
  (∀ (s : State) (c : CoreId) (g : Guard) (fn : BitVec 7) (fd fa fb : R5) (v : Nat) (t : State) (r : FpRes), Safety.CoreReadyExt s c g → decide (fn.toNat % 64 ≤ 9) = true → (v, t) = freeIf (nanBits (fmtOf (decide (64 ≤ fn.toNat))) (fbits (decide (64 ≤ fn.toNat)) (fr s c fa)) || nanBits (fmtOf (decide (64 ≤ fn.toNat))) (fbits (decide (64 ≤ fn.toNat)) (fr s c fb)) || nanBits (fmtOf (decide (64 ≤ fn.toNat))) (fbits (decide (64 ≤ fn.toNat)) (fr s c fd))) s → r = fpOp (fmtOf (decide (64 ≤ fn.toNat))) (fn.toNat % 64) (frm t c) v (fbits (decide (64 ≤ fn.toNat)) (fr s c fa)) (fbits (decide (64 ≤ fn.toNat)) (fr s c fb)) (fbits (decide (64 ≤ fn.toNat)) (fr s c fd)) → r.flags &&& fld (getCore (noteFlags t c r.flags) c).fpcsr 7 5 = 0 → 
      exec (.fpArith c g fn fd fa fb) s = .next (retire (fw (noteFlags t c r.flags) c fd (fbox (decide (64 ≤ fn.toNat)) r.bits)) c 1 none)) ∧
  (∀ (s : State) (c : CoreId) (g : Guard) (dbl : Bool) (fd fa fb : R5) (v : Nat) (t : State) (r : FpRes), Safety.CoreReadyExt s c g → (v, t) = freeIf (nanBits (fmtOf dbl) (fbits dbl (fr s c fa)) || nanBits (fmtOf dbl) (fbits dbl (fr s c fb)) || nanBits (fmtOf dbl) (fbits dbl (fr s c fd))) s → r = fpOp (fmtOf dbl) 3 (frm t c) v (fbits dbl (fr s c fa)) (fbits dbl (fr s c fb)) (fbits dbl (fr s c fd)) → r.flags &&& fld (getCore (noteFlags t c r.flags) c).fpcsr 7 5 = 0 → 
      exec (.fdiv c g dbl fd fa fb) s = .next (retire (fw (noteFlags t c r.flags) c fd (fbox dbl r.bits)) c 1 none)) ∧
  (∀ (s : State) (c : CoreId) (g : Guard) (dbl : Bool) (fd fa fb : R5) (v : Nat) (t : State) (r : FpRes), Safety.CoreReadyExt s c g → (v, t) = freeIf (nanBits (fmtOf dbl) (fbits dbl (fr s c fa)) || nanBits (fmtOf dbl) (fbits dbl (fr s c fb)) || nanBits (fmtOf dbl) (fbits dbl (fr s c fd))) s → r = fpOp (fmtOf dbl) 3 (frm t c) v (fbits dbl (fr s c fa)) (fbits dbl (fr s c fb)) (fbits dbl (fr s c fd)) → r.flags &&& fld (getCore (noteFlags t c r.flags) c).fpcsr 7 5 ≠ 0 → (curBank (noteFlags t c r.flags) c).imp = false → 
      exec (.fdiv c g dbl fd fa fb) s = .next (raiseFault (noteFlags t c r.flags) c { cause := xARITH, sub := r.flags, t1 := (curBank (noteFlags t c r.flags) c).pc })) ∧
  (∀ (s : State) (c : CoreId) (g : Guard) (dbl : Bool) (fd fa : R5) (v : Nat) (t : State) (r : FpRes), Safety.CoreReadyExt s c g → (v, t) = freeIf (nanBits (fmtOf dbl) (fbits dbl (fr s c fa)) || nanBits (fmtOf dbl) (fbits dbl (fr s c fa)) || nanBits (fmtOf dbl) (fbits dbl (fr s c fd))) s → r = fpOp (fmtOf dbl) 4 (frm t c) v (fbits dbl (fr s c fa)) (fbits dbl (fr s c fa)) (fbits dbl (fr s c fd)) → r.flags &&& fld (getCore (noteFlags t c r.flags) c).fpcsr 7 5 = 0 → 
      exec (.fsqrt c g dbl fd fa) s = .next (retire (fw (noteFlags t c r.flags) c fd (fbox dbl r.bits)) c 1 none)) ∧
  (∀ (s : State) (c : CoreId) (g : Guard) (fn : BitVec 7) (rd ra : R5) (v : Nat) (t : State) (r : FpRes), Safety.CoreReadyExt s c g → fn.toNat % 64 = 0 → (v, t) = freeIf (nanBits (fmt64) ((fr s c ra).toNat)) s → r = fpConv (fmtOf false) (frm t c) v (unpack fmt64 (fr s c ra).toNat) → r.flags &&& fld (getCore (noteFlags t c r.flags) c).fpcsr 7 5 = 0 → 
      exec (.fcvt c g fn rd ra) s = .next (retire (fw (noteFlags t c r.flags) c rd (fbox false r.bits)) c 1 none)) ∧
  (∀ (s : State) (c : CoreId) (g : Guard) (fn : BitVec 7) (rd ra : R5) (v : Nat) (t : State) (r : FpRes), Safety.CoreReadyExt s c g → fn.toNat % 64 = 1 → (v, t) = freeIf (nanBits (fmt32) (unbox32 (fr s c ra))) s → r = fpConv (fmtOf true) (frm t c) v (unpack fmt32 (unbox32 (fr s c ra))) → r.flags &&& fld (getCore (noteFlags t c r.flags) c).fpcsr 7 5 = 0 → 
      exec (.fcvt c g fn rd ra) s = .next (retire (fw (noteFlags t c r.flags) c rd (fbox true r.bits)) c 1 none)) ∧
  (∀ (s : State) (c : CoreId) (g : Guard) (fn : BitVec 7) (rd ra : R5) (v : Nat) (t : State) (r : FpRes), Safety.CoreReadyExt s c g → fn.toNat % 64 = 2 → (v, t) = freeIf (nanBits (fmtOf (decide (64 ≤ fn.toNat))) (fbits (decide (64 ≤ fn.toNat)) (fr s c ra))) s → r = fpToInt (frm t c) v (unpack (fmtOf (decide (64 ≤ fn.toNat))) (fbits (decide (64 ≤ fn.toNat)) (fr s c ra))) → r.flags &&& fld (getCore (noteFlags t c r.flags) c).fpcsr 7 5 = 0 → 
      exec (.fcvt c g fn rd ra) s = .next (retire (wg (noteFlags t c r.flags) c rd (BitVec.ofNat 64 r.bits)) c 1 none)) ∧
  (∀ (s : State) (c : CoreId) (g : Guard) (fn : BitVec 7) (rd ra : R5) (r : FpRes), Safety.CoreReadyExt s c g → fn.toNat % 64 = 3 → r = fpOfInt (fmtOf (decide (64 ≤ fn.toNat))) (frm s c) (rg s c ra).toInt → r.flags &&& fld (getCore (noteFlags s c r.flags) c).fpcsr 7 5 = 0 → 
      exec (.fcvt c g fn rd ra) s = .next (retire (fw (noteFlags s c r.flags) c rd (fbox (decide (64 ≤ fn.toNat)) r.bits)) c 1 none)) ∧
  (∀ (s : State) (c : CoreId) (g : Guard) (dbl : Bool) (rd ra : R5), Safety.CoreReadyExt s c g → 
      exec (.fmov c g ⟨dbl, false⟩ rd ra) s = .next (retire (fw s c rd (if dbl then rg s c ra else box32 (uintOf 32 (rg s c ra)))) c 1 none)) ∧
  (∀ (s : State) (c : CoreId) (g : Guard) (dbl : Bool) (rd ra : R5), Safety.CoreReadyExt s c g → 
      exec (.fmov c g ⟨dbl, true⟩ rd ra) s = .next (retire (wg s c rd (if dbl then fr s c ra else sextW 32 (unbox32 (fr s c ra)))) c 1 none)) ∧
  (∀ (s : State) (c : CoreId) (g : Guard) (dbl : Bool) (pd : BitVec 3) (rel : BitVec 2) (fa fb : R5) (r : Bool × Nat), Safety.CoreReadyExt s c g → r = fpCmp rel.toNat (unpack (fmtOf dbl) (fbits dbl (fr s c fa))) (unpack (fmtOf dbl) (fbits dbl (fr s c fb))) → r.2 &&& fld (getCore (noteFlags s c r.2) c).fpcsr 7 5 = 0 → 
      exec (.fcmp c g dbl pd rel fa fb) s = .next (retire (setCur (noteFlags s c r.2) c ((curBank (noteFlags s c r.2) c).setPred pd.toNat r.1)) c 1 none)) ∧
  (∀ (s : State) (c : CoreId) (g : Guard) (fd ra : R5) (sz : BitVec 2) (off : BitVec 9) (n va : Nat) (l : List Byte) (attr : Nat), Safety.CoreReadyExt s c g → (sz != 3) = true → n = fpSize sz → va = offAddr (rg s c ra) off n → accessWaits s c (curBank s c).priv .load va n = false → hostAsk s c (curBank s c).priv va n = none → (anyRead s c (curBank s c).priv va n).2.toOption = some (l, attr) → 
      exec (.fld c g fd ra sz off) s = .next (retire (fw (watch (countAcc (anyRead s c (curBank s c).priv va n).1 c 0x1B va attr) c va n false) c fd (fldVal sz (leNat l))) c 1 none)) ∧
  (∀ (s : State) (c : CoreId) (g : Guard) (fd ra : R5) (off : BitVec 9) (va attr : Nat) (l : List Byte), Safety.CoreReadyExt s c g → l = leBytes 4 (unbox32 (fr s c fd)) → va = offAddr (rg s c ra) off 4 → accessWaits s c (curBank s c).priv .store va l.length = false → (anyWrite s c (curBank s c).priv va l).2.toOption = some attr → 
      exec (.fst c g fd ra 1 off) s = .next (retire (watch (countAcc (anyWrite s c (curBank s c).priv va l).1 c 0x1C va attr) c va l.length true) c 1 none)) ∧
  (∀ (s : State) (c : CoreId) (g : Guard) (fd ra : R5) (off : BitVec 9) (va attr : Nat) (l : List Byte), Safety.CoreReadyExt s c g → l = leBytes 8 (fr s c fd).toNat → va = offAddr (rg s c ra) off 8 → accessWaits s c (curBank s c).priv .store va l.length = false → (anyWrite s c (curBank s c).priv va l).2.toOption = some attr → 
      exec (.fst c g fd ra 2 off) s = .next (retire (watch (countAcc (anyWrite s c (curBank s c).priv va l).1 c 0x1C va attr) c va l.length true) c 1 none)) ∧
  (∀ (s : State) (c : CoreId) (g : Guard) (fd ra : R5) (off : BitVec 9) (va attr : Nat) (l : List Byte) (v : Nat) (t : State) (r : FpRes), Safety.CoreReadyExt s c g → (v, t) = freeIf (nanBits fmt32 (unbox32 (fr s c fd))) s → r = fpConv fmt16 (frm t c) v (unpack fmt32 (unbox32 (fr s c fd))) → l = leBytes 2 r.bits → va = offAddr (rg s c ra) off 2 → r.flags &&& fld (getCore t c).fpcsr 7 5 = 0 → accessWaits t c (curBank t c).priv .store va l.length = false → (anyWrite t c (curBank t c).priv va l).2.toOption = some attr → 
      exec (.fst c g fd ra 0 off) s = .next (retire (noteFlags (watch (countAcc (anyWrite t c (curBank t c).priv va l).1 c 0x1C va attr) c va l.length true) c r.flags) c 1 none))

/-- The instructions and events of 7.11 and 9.6. -/
def Obligations.PrismAndCustomerCommandsComplete : Prop :=
  (∀ (s : State) (c : CoreId) (g : Guard) (n : BitVec 4) (ra : R5), Safety.CoreReadyExt s c g → decide (n.toNat < 12) = true → 
      exec (.pset c g n ra) s = .next (retire (setCore s c { getCore s c with pr := listSet (getCore s c).pr n.toNat (rg s c ra) }) c 1 none)) ∧
  (∀ (s : State) (c : CoreId) (g : Guard) (rd : R5) (n : BitVec 4), Safety.CoreReadyExt s c g → decide (n.toNat < 12) = true → 
      exec (.pget c g rd n) s = .next (retire (wg s c rd (nth (getCore s c).pr 0 n.toNat)) c 1 none)) ∧
  (∀ (s : State) (c : CoreId) (g : Guard) (rd : R5), Safety.CoreReadyExt s c g → 
      exec (.pstat c g rd) s = .next (retire (wg s c rd (pstatWord s c)) c 1 none)) ∧
  (∀ (s : State) (c : CoreId) (g : Guard) , Safety.CoreReadyExt s c g → 
      exec (.pclr c g) s = .next (retire (setCore s c { getCore s c with pstat := setFld (getCore s c).pstat 16 5 0 }) c 1 none)) ∧
  (∀ (s : State) (c : CoreId) (g : Guard) , Safety.CoreReadyExt s c g → (getCore s c).prismQ = [] → fld (getCore s c).pstat 16 4 = 0 → 
      exec (.pwait c g) s = .next (retire s c 1 none)) ∧
  (∀ (s : State) (c : CoreId) (g : Guard) , Safety.CoreReadyExt s c g → (getCore s c).prismQ = [] → fld (getCore s c).pstat 16 4 ≠ 0 → 
      exec (.pwait c g) s = .next (raiseFault s c { cause := xCOPROCESSOR, sub := fld (getCore s c).pstat 16 4, t1 := 0 })) ∧
  (∀ (s : State) (c : CoreId) (g : Guard) (log2n : BitVec 4) (inv q31 scale brev : Bool), Safety.CoreReadyExt s c g → (decide (3 ≤ log2n.toNat) && decide (log2n.toNat ≤ 12)) = true → (getCore s c).prismQ.length < 4 → 
      exec (.pfft c g log2n inv q31 scale brev) s = .next (retire (countCur (setCore s c { getCore s c with prismQ := (getCore s c).prismQ ++
      [{ op := .fft log2n.toNat inv q31 scale brev, prm := (getCore s c).pr, rnd := (curBank s c).rnd, since := s.time }] }) c 0x18) c 1 none)) ∧
  (∀ (s : State) (c : CoreId) (g : Guard) (iir q31 : Bool), Safety.CoreReadyExt s c g → (getCore s c).prismQ.length < 4 → 
      exec (.pfilt c g iir q31) s = .next (retire (countCur (setCore s c { getCore s c with prismQ := (getCore s c).prismQ ++
      [{ op := .filt iir q31, prm := (getCore s c).pr, rnd := (curBank s c).rnd, since := s.time }] }) c 0x18) c 1 none)) ∧
  (∀ (s : State) (c : CoreId) (g : Guard) (accum : Bool), Safety.CoreReadyExt s c g → (getCore s c).prismQ.length < 4 → 
      exec (.pmat c g accum) s = .next (retire (countCur (setCore s c { getCore s c with prismQ := (getCore s c).prismQ ++
      [{ op := .mat accum, prm := (getCore s c).pr, rnd := (curBank s c).rnd, since := s.time }] }) c 0x18) c 1 none)) ∧
  (∀ (s : State) (u : Fin 48) (i : Nat) (x : PrismCmd) (l : List PrismCmd), (getPrism s u).busy = none → away s .prism u = false → prismNext s u = some i → (getCore s (8 * u + i)).prismQ = x :: l → 
      exec (.prismCommandStart u) s = .next (wr { s with prism := s.prism.set u { busy := some i, last := i } } (Reg.PRISM_WAITMAX u)
      (BitVec.ofNat 64 (min 0xFFFFFFFF (max (rd s (Reg.PRISM_WAITMAX u)).toNat (fabricCycles (s.time - x.since))))))) ∧
  (∀ (s : State) (u : Fin 48) (i : Nat) (x : PrismCmd) (l : List PrismCmd) (c : Nat), (getPrism s u).busy = some i → c = 8 * u + i → (getCore s c).prismQ = x :: l → x.paramOk = true → (x.ins ++ x.outs).all Buf.fits = true → (x.ins.any (fun b => b.len != 0 && touchesPoison s (b.addr c) b.len) = false) → 
      exec (.prismCommandDone u false) s = .next (prismNote (prismPop (prismWork s c x).1 u c false) c (prismWork s c x).2 true)) ∧
  (∀ (s : State) (c : CoreId) (g : Guard) (sub rd ra rb : R5) (dt : Word) (w : BitVec 152) (m : Micro), Safety.CoreReadyExt s c g → dt = Machine.rd s (Reg.MC_DT c sub.toNat) → customLegal dt rd ra rb = true → (getCore s c).badWords.contains (2 ^ 14 + sub.toNat) = false → wordBad (getCore s c) (custLo + fld dt 1 8) = false → w = microWord (getCore s c) (custLo + fld dt 1 8) → m = Micro.start sub.toNat dt rd ra rb → microBad m w false = none → uMem w = 0 → uSeq w = 7 → 
      exec (.customInstruction c g sub rd ra rb) s = .next (conclude c 1 (microEnd s c
      (m.note w (m.src s c (uSrcA w)) (m.src s c (uSrcB w)) 0) w))) ∧
  (∀ (s : State) (c : CoreId), canStep (getCore s c) = true → (getCore s c).avail = false → xstateOwned (getCore s c) (getCore s c).cur = true → 
      exec (.xstateLazy c) s = .next (countCur (setCore s c { getCore s c with avail := true }) c 0x11)) ∧
  (∀ (s : State) (c : CoreId), canStep (getCore s c) = true → (getCore s c).avail = false → xstateOwned (getCore s c) (getCore s c).cur = false → bit (curBank s c).xsave 0 = false → 
      exec (.xstateLazy c) s = .next (raiseFault s c (.plain xXSTATE_DISABLED 0)))

/-- The commands of chapters 8 and 10.1. -/
def Obligations.ExceptionAndPartitionCommandsComplete : Prop :=
  (∀ (s : State) (i : Initiator) (c : CoreId) (u : State), Safety.AcceptedM0 s i (Reg.EXC_CTL c) → releaseWrite (respOk s 0) c 1 = some u → 
      exec (.coreRelease i c) s = .next u) ∧
  (∀ (s : State) (i : Initiator) (c : CoreId), releaseDark s i c = true → 
      exec (.coreRelease i c) s = .next (refuseDark s i c)) ∧
  (∀ (s : State) (i : Initiator) (c : CoreId) (l : Level) (k : Bool) (v : Word) (u : State), Safety.AcceptedHM s i (Reg.LOOPS_LSTART c l k.toNat) → loopsWrite (respOk s 0) c l (loopSr k .lstart) v = some u → 
      exec (.loopsRegWrite i c l k .lstart v) s = .next u) ∧
  (∀ (s : State) (i : Initiator) (c : CoreId) (l : Level) (k : Bool) (v : Word) (u : State), Safety.AcceptedHM s i (Reg.LOOPS_LEND c l k.toNat) → loopsWrite (respOk s 0) c l (loopSr k .lend) v = some u → 
      exec (.loopsRegWrite i c l k .lend v) s = .next u) ∧
  (∀ (s : State) (i : Initiator) (c : CoreId) (l : Level) (k : Bool) (v : Word) (u : State), Safety.AcceptedHM s i (Reg.LOOPS_LCOUNT c l k.toNat) → loopsWrite (respOk s 0) c l (loopSr k .lcount) v = some u → 
      exec (.loopsRegWrite i c l k .lcount v) s = .next u) ∧
  (∀ (s : State) (c : CoreId), canStep (getCore s c) = true → (curBank s c).imprecise ≠ [] → 
      exec (.impreciseExceptionDelivery c) s = .next (deliverImprecise s c)) ∧
  (∀ (s : State) (c : CoreId) (l : Level) (addr : BitVec 48) (absent : Bool), (getCore s c).running = true → 
      exec (.storeErrorResponse c l addr absent) s = .next (pendImprecise { s with freeCtr := s.freeCtr + 1 } c l
      (.store (adr addr.toNat) (if absent then 2 else 4) (adr (Config.freeNat s.freeCtr % 2 ^ 46 * 4))))) ∧
  (∀ (s : State) (c : CoreId), (getCore s c).running = true → 
      exec (.machineCheck c .coreState) s = .next (machineCheckRaise s c)) ∧
  (∀ (s : State) (c : CoreId), (getCore s c).useq = none → 
      exec (.mcWaitTimeout c) s = .next (s)) ∧
  (∀ (s : State) (c : CoreId) (q : Useq), (getCore s c).running = true → (getCore s c).useq = some q → 
      exec (.mcWaitTimeout c) s = .next (leaveWait (countReg s (Reg.MC_TOCNT c)) c (uNext (microWord (getCore s c) q.addr)))) ∧
  (∀ (s : State) (i : Initiator) (p : Part) (same : List Part) (u : State), Safety.AcceptedM0 s i (Reg.PART_CMD p) → partStartNow (respOk s 0) p (same.map Fin.val) = some u → 
      exec (.partStart i p same) s = .next u) ∧
  (∀ (s : State) (i : Initiator) (p : Part) (u : State), Safety.AcceptedM0 s i (Reg.PART_CMD p) → partStopNow (respOk s 0) p = some u → 
      exec (.partStop i p) s = .next u) ∧
  (∀ (s : State) (p : Part), (((coresOf s p).all fun c => !(getCore s c).running || partRunning s p) = true) → 
      exec (.partStopDone p) s = .next (wb s (Reg.PART_STATUS p) 1 false)) ∧
  (∀ (s : State) (i : Initiator) (p : Part) (k : Fin 13) (v : W32) (u : State), Safety.AcceptedM0 s i (Reg.PART_CORES p k) → partCoresEffect (respOk s 0) i p k (w32 v) = some u → 
      exec (.partCoresWrite i p k v) s = .next u) ∧
  (∀ (s : State) (i : Initiator) (p : Part) (v : W32) (u : State), Safety.AcceptedM0 s i (Reg.PART_MODES p) → partModesEffect (respOk s 0) p (w32 v) = some u → 
      exec (.partModesWrite i p v) s = .next u) ∧
  (∀ (s : State) (i : Initiator) (p : Part) (v : W32) (u : State), Safety.AcceptedM0 s i (Reg.PART_L3WAYS p) → l3waysEffect (respOk s 0) p (w32 v) = some u → 
      exec (.l3waysWrite i p v) s = .next u) ∧
  (∀ (s : State) (c : CoreId), 384 ≤ c.val → (getCore s c).running = true → (getCore s c).cur = 0 → (((upto 7).all fun l => ((getCore s c).bank (l + 1)).st != .active) = true) → 
      exec (.partTimingTakeEffect c) s = .next (setCore s c { getCore s c with timing := partStatic s 0 }))

/-- The commands of 10.3 and 11. -/
def Obligations.TranslationAndCacheCommandsComplete : Prop :=
  (∀ (s : State) (i : Initiator) (c : CoreId) (bcast : Bool)  (v : Word) (u : State), (v = BitVec.ofNat 64 (1 + (if bcast then 16 else 0) + 2 ^ 5 * 0 + 2 ^ 8 * 0 + 2 ^ 12 * 0)) → Safety.Accepted s i (Reg.XL_TLBI c) ∧ tlbiPriv v ≤ initPriv s i → tlbiEffect (respOk s 0) c v = some u → 
      exec (.tlbiAll i c bcast) s = .next u) ∧
  (∀ (s : State) (i : Initiator) (c : CoreId) (bcast : Bool) (asn : BitVec 5) (v : Word) (u : State), (v = BitVec.ofNat 64 (2 + (if bcast then 16 else 0) + 2 ^ 5 * 0 + 2 ^ 8 * asn.toNat + 2 ^ 12 * 0)) → Safety.Accepted s i (Reg.XL_TLBI c) ∧ tlbiPriv v ≤ initPriv s i → tlbiEffect (respOk s 0) c v = some u → 
      exec (.tlbiAsn i c bcast asn) s = .next u) ∧
  (∀ (s : State) (i : Initiator) (c : CoreId) (bcast : Bool) (asn : BitVec 5) (vpage : BitVec 36) (v : Word) (u : State), (v = BitVec.ofNat 64 (3 + (if bcast then 16 else 0) + 2 ^ 5 * 0 + 2 ^ 8 * asn.toNat + 2 ^ 12 * vpage.toNat)) → Safety.Accepted s i (Reg.XL_TLBI c) ∧ tlbiPriv v ≤ initPriv s i → tlbiEffect (respOk s 0) c v = some u → 
      exec (.tlbiVa i c bcast asn vpage) s = .next u) ∧
  (∀ (s : State) (i : Initiator) (c : CoreId) (bcast : Bool)  (v : Word) (u : State), (v = BitVec.ofNat 64 (4 + (if bcast then 16 else 0) + 2 ^ 5 * 0 + 2 ^ 8 * 0 + 2 ^ 12 * 0)) → Safety.Accepted s i (Reg.XL_TLBI c) ∧ tlbiPriv v ≤ initPriv s i → tlbiEffect (respOk s 0) c v = some u → 
      exec (.tlbiPstageAll i c bcast) s = .next u) ∧
  (∀ (s : State) (i : Initiator) (c : CoreId) (bcast : Bool) (bank : Level) (vpage : BitVec 36) (v : Word) (u : State), (v = BitVec.ofNat 64 (5 + (if bcast then 16 else 0) + 2 ^ 5 * bank.val + 2 ^ 8 * 0 + 2 ^ 12 * vpage.toNat)) → Safety.Accepted s i (Reg.XL_TLBI c) ∧ tlbiPriv v ≤ initPriv s i → tlbiEffect (respOk s 0) c v = some u → 
      exec (.tlbIlock i c bcast bank vpage) s = .next u) ∧
  (∀ (s : State) (i : Initiator) (c : CoreId) (bcast : Bool) (bank : Level) (vpage : BitVec 36) (v : Word) (u : State), (v = BitVec.ofNat 64 (6 + (if bcast then 16 else 0) + 2 ^ 5 * bank.val + 2 ^ 8 * 0 + 2 ^ 12 * vpage.toNat)) → Safety.Accepted s i (Reg.XL_TLBI c) ∧ tlbiPriv v ≤ initPriv s i → tlbiEffect (respOk s 0) c v = some u → 
      exec (.tlbIunlock i c bcast bank vpage) s = .next u) ∧
  (∀ (s : State) (i : Initiator) (c : CoreId) (line : BitVec 42) (count : Fin 64) (way : Fin 8) (v : Word) (u : State), v = BitVec.ofNat 64 (2 ^ 6 * line.toNat + 2 ^ 48 * count.val + 2 ^ 56 * 1 + 2 ^ 60 * way.val) → Safety.Accepted s i (Reg.CACHE_OP c) ∧ cachePriv v ≤ initPriv s i → cacheOpEffect (respOk s 0) c v = some u → 
      exec (.cacheIlock i c line count way) s = .next u) ∧
  (∀ (s : State) (i : Initiator) (c : CoreId) (way : Fin 8) (v : Word) (u : State), v = BitVec.ofNat 64 (2 ^ 6 * 0 + 2 ^ 48 * 0 + 2 ^ 56 * 2 + 2 ^ 60 * way.val) → Safety.Accepted s i (Reg.CACHE_OP c) ∧ cachePriv v ≤ initPriv s i → cacheOpEffect (respOk s 0) c v = some u → 
      exec (.cacheIunlock i c way) s = .next u) ∧
  (∀ (s : State) (i : Initiator) (c : CoreId)  (v : Word) (u : State), v = BitVec.ofNat 64 (2 ^ 6 * 0 + 2 ^ 48 * 0 + 2 ^ 56 * 3 + 2 ^ 60 * 0) → Safety.Accepted s i (Reg.CACHE_OP c) ∧ cachePriv v ≤ initPriv s i → cacheOpEffect (respOk s 0) c v = some u → 
      exec (.l1dFlush i c) s = .next u) ∧
  (∀ (s : State) (i : Initiator) (c : CoreId) (line : BitVec 42) (v : Word) (u : State), v = BitVec.ofNat 64 (2 ^ 6 * line.toNat + 2 ^ 48 * 0 + 2 ^ 56 * 4 + 2 ^ 60 * 0) → Safety.Accepted s i (Reg.CACHE_OP c) ∧ cachePriv v ≤ initPriv s i → cacheOpEffect (respOk s 0) c v = some u → 
      exec (.cacheClean i c line) s = .next u) ∧
  (∀ (s : State) (i : Initiator) (c : CoreId) (line : BitVec 42) (v : Word) (u : State), v = BitVec.ofNat 64 (2 ^ 6 * line.toNat + 2 ^ 48 * 0 + 2 ^ 56 * 5 + 2 ^ 60 * 0) → Safety.Accepted s i (Reg.CACHE_OP c) ∧ cachePriv v ≤ initPriv s i → cacheOpEffect (respOk s 0) c v = some u → 
      exec (.cacheCleanInv i c line) s = .next u) ∧
  (∀ (s : State) (c : CoreId), (getCore s c).tlbBusy.isSome = true → 
      exec (.tlbiDone c) s = .next (setCore s c { getCore s c with tlbBusy := none })) ∧
  (∀ (s : State) (c : CoreId), (getCore s c).cacheBusy.isSome = true → 
      exec (.cacheOpDone c) s = .next (setCore s c { getCore s c with cacheBusy := none })) ∧
  (∀ (s : State) (i : Initiator) (c : CoreId) (v : Word), Safety.Accepted s i (Reg.XL_PTB c) ∧ 2 ≤ initPriv s i → 
      exec (.ptbWrite i c v) s = .next (ptbEffect (respOk s 0) i c v)) ∧
  (∀ (s : State) (i : Initiator) (c : CoreId) (l : Level) (v : Word), Safety.Accepted s i (Reg.XL_GTB c l) ∧ 1 ≤ initPriv s i → 
      exec (.gtbWrite i c l v) s = .next (gtbEffect (respOk s 0) i c l v))

/-- Each message of Table 11.1 to 11.5 and the home loss scan. -/
def Obligations.CoherenceMessagesComplete : Prop :=
  (∀ (s : State) (a : Fin 13) (line : BitVec 42) (f : Bool) (u : State) (t : CohTx), agentOn s a = true → mayAsk (getLn s a line.toNat) .rdShared = true → ((getLn s a line.toNat).req.isNone && !tagFree s (.agent a)) = false → (u = setLn s a line.toNat { getLn s a line.toNat with req := some .rdShared, phase := .sent, data := false, dpoison := false, comp := none, nacks := if (getLn s a line.toNat).req.isNone then 0 else (getLn s a line.toNat).nacks }) → t = newTx line.toNat .rdShared (.agent a) → Safety.HomeTakes u t → 
      exec (.rdshared a line f) s = .next (accept u (sliceOf line.toNat) t f)) ∧
  (∀ (s : State) (a : Fin 13) (line : BitVec 42) (u : State) (t : CohTx), agentOn s a = true → mayAsk (getLn s a line.toNat) .rdUnique = true → ((getLn s a line.toNat).req.isNone && !tagFree s (.agent a)) = false → (u = setLn s a line.toNat { getLn s a line.toNat with req := some .rdUnique, phase := .sent, data := false, dpoison := false, comp := none, nacks := if (getLn s a line.toNat).req.isNone then 0 else (getLn s a line.toNat).nacks }) → t = newTx line.toNat .rdUnique (.agent a) → Safety.HomeTakes u t → 
      exec (.rdunique a line) s = .next (accept u (sliceOf line.toNat) t false)) ∧
  (∀ (s : State) (a : Fin 13) (line : BitVec 42) (u : State) (t : CohTx), agentOn s a = true → mayAsk (getLn s a line.toNat) .upgrade = true → ((getLn s a line.toNat).req.isNone && !tagFree s (.agent a)) = false → (u = setLn s a line.toNat { getLn s a line.toNat with req := some .upgrade, phase := .sent, data := false, dpoison := false, comp := none, nacks := if (getLn s a line.toNat).req.isNone then 0 else (getLn s a line.toNat).nacks }) → t = newTx line.toNat .upgrade (.agent a) → Safety.HomeTakes u t → 
      exec (.upgrade a line) s = .next (accept u (sliceOf line.toNat) t false)) ∧
  (∀ (s : State) (ep : BitVec 9) (line : BitVec 42) (t : CohTx), t = newTx line.toNat .rdOnce (.ep ep.toNat) → ((getSl s (sliceOf t.line)).granted.contains (t.line, t.req) || tagFree s t.req) = true → Safety.HomeTakes s t → 
      exec (.rdonce ep line) s = .next (accept s (sliceOf line.toNat) t false)) ∧
  (∀ (s : State) (ep : BitVec 9) (line : BitVec 42) (data : List Byte) (t : CohTx), t = { newTx line.toNat .wrFull (.ep ep.toNat) with bytes := data } → ((getSl s (sliceOf t.line)).granted.contains (t.line, t.req) || tagFree s t.req) = true → Safety.HomeTakes s t → 
      exec (.wrfull ep line data) s = .next (accept s (sliceOf line.toNat) t false)) ∧
  (∀ (s : State) (ep : BitVec 9) (line : BitVec 42) (mask : Word) (data : List Byte) (t : CohTx), (poisoned s line.toNat && !(getSl s (sliceOf line.toNat)).granted.contains (line.toNat, .ep ep.toNat)) = false → t = { newTx line.toNat .wrPartial (.ep ep.toNat) with bytes := data, mask := mask } → ((getSl s (sliceOf t.line)).granted.contains (t.line, t.req) || tagFree s t.req) = true → Safety.HomeTakes s t → 
      exec (.wrpartial ep line mask data) s = .next (accept s (sliceOf line.toNat) t false)) ∧
  (∀ (s : State) (ep : BitVec 9) (line : BitVec 42) (mask : Word) (data : List Byte), (poisoned s line.toNat && !(getSl s (sliceOf line.toNat)).granted.contains (line.toNat, .ep ep.toNat)) = true → 
      exec (.wrpartial ep line mask data) s = .next (partialRefused s (sliceOf line.toNat) line.toNat)) ∧
  (∀ (s : State) (a : Fin 13) (line : BitVec 42), agentOn s a = true → (getLn s a line.toNat).st = .m ∨ (getLn s a line.toNat).st = .o → (getLn s a line.toNat).req = none → (getLn s a line.toNat).wb = none → lockedLine s a line.toNat = false → wbUsed s a (sliceOf line.toNat) < 16 → 
      exec (.wbdata a line) s = .next (absorb (setLn (leaveAgent s a line.toNat) a line.toNat { getLn s a line.toNat with st := .i, wb := some (getLn s a line.toNat).st }) a line.toNat)) ∧
  (∀ (s : State) (a : Fin 13) (line : BitVec 42), agentOn s a = true → (getLn s a line.toNat).st = .e ∨ (getLn s a line.toNat).st = .s → (getLn s a line.toNat).req = none → (getLn s a line.toNat).wb = none → lockedLine s a line.toNat = false → wbUsed s a (sliceOf line.toNat) < 16 → 
      exec (.evict a line) s = .next (absorb (setLn (leaveAgent s a line.toNat) a line.toNat { getLn s a line.toNat with st := .i, wb := some (getLn s a line.toNat).st }) a line.toNat)) ∧
  (∀ (s : State) (a : Fin 13) (line : BitVec 42) (m : CohMsg), findMsg s 0x1D a line.toNat = some m → 
      exec (.wback a line) s = .next (setLn (takeMsg s m) a line.toNat { getLn s a line.toNat with wb := none })) ∧
  (∀ (s : State) (a : Fin 13) (line : BitVec 42) (m : CohMsg), findMsg s 0x10 a line.toNat = some m → snoopWaits (takeMsg s m) a line.toNat = false → 
      exec (.snpshared a line) s = .next (answerSnoop (takeMsg s m) m)) ∧
  (∀ (s : State) (a : Fin 13) (line : BitVec 42) (m : CohMsg), findMsg s 0x11 a line.toNat = some m → snoopWaits (takeMsg s m) a line.toNat = false → 
      exec (.snpinv a line) s = .next (answerSnoop (takeMsg s m) m)) ∧
  (∀ (s : State) (a : Fin 13) (line : BitVec 42) (m : CohMsg), findMsg s 0x12 a line.toNat = some m → snoopWaits (takeMsg s m) a line.toNat = false → 
      exec (.snponce a line) s = .next (answerSnoop (takeMsg s m) m)) ∧
  (∀ (s : State) (a : Fin 13) (line : BitVec 42) (m : CohMsg), findMsg s 0x13 a line.toNat = some m → snoopWaits (takeMsg s m) a line.toNat = false → 
      exec (.snpflush a line) s = .next (answerSnoop (takeMsg s m) m)) ∧
  (∀ (s : State) (a : Fin 13) (line : BitVec 42) (m : CohMsg), findMsg s 0x11 a line.toNat = some m → snoopWaits (takeMsg s m) a line.toNat = true → 
      exec (.snpinv a line) s = .next (setLn (takeMsg s m) a line.toNat { getLn s a line.toNat with waiting := (getLn s a line.toNat).waiting ++ [m] })) ∧
  (∀ (s : State) (a : Fin 13) (line : BitVec 42) (m : CohMsg), findMsg s 0x18 a line.toNat = some m → 
      exec (.snpresp a line) s = .next (snoopDone (takeMsg s m) m)) ∧
  (∀ (s : State) (a : Fin 13) (line : BitVec 42) (m : CohMsg), findMsg s 0x22 a line.toNat = some m → 
      exec (.snprespdata a line) s = .next (snoopDone (takeMsg s m) m)) ∧
  (∀ (s : State) (a : Fin 13) (line : BitVec 42) (m : CohMsg), findMsg s 0x19 a line.toNat = some m → 
      exec (.comp a line) s = .next (settleLine (setLn (takeMsg s m) a line.toNat { getLn s a line.toNat with comp := some (m.st, m.fwd) }) a line.toNat)) ∧
  (∀ (s : State) (a : Fin 13) (line : BitVec 42) (m : CohMsg), findMsg s 0x20 a line.toNat = some m → (getLn (takeMsg s m) a line.toNat).req.isNone = false → 
      exec (.data a line) s = .next (settleLine (setLn (takeMsg s m) a line.toNat { getLn s a line.toNat with data := true, dpoison := m.poison }) a line.toNat)) ∧
  (∀ (s : State) (a : Fin 13) (line : BitVec 42) (m : CohMsg), findMsg s 0x21 a line.toNat = some m → (getLn (takeMsg s m) a line.toNat).req.isNone = false → 
      exec (.datafwd a line) s = .next (settleLine (setLn (takeMsg s m) a line.toNat { getLn s a line.toNat with data := true, dpoison := m.poison }) a line.toNat)) ∧
  (∀ (s : State) (a : Fin 13) (line : BitVec 42) (m : CohMsg), findMsg s 0x1A a line.toNat = some m → 
      exec (.retry a line) s = .next (setLn (takeMsg s m) a line.toNat { getLn s a line.toNat with phase := .retry })) ∧
  (∀ (s : State) (a : Fin 13) (line : BitVec 42) (m : CohMsg), findMsg s 0x1B a line.toNat = some m → 
      exec (.creditgrant a line) s = .next (setLn (takeMsg s m) a line.toNat { getLn s a line.toNat with phase := .reissue })) ∧
  (∀ (s : State) (a : Fin 13) (line : BitVec 42) (m : CohMsg) (n : Nat) (t : State), findMsg s 0x1C a line.toNat = some m → n = (getLn s a line.toNat).nacks + 1 → t = takeMsg { s with freeCtr := s.freeCtr + 1 } m → 
      exec (.nack a line) s = .next (setLn t a line.toNat { getLn s a line.toNat with
      nacks := n, phase := .backoff (8 * s.time + 5 * (Config.freeNat s.freeCtr % (16 * 2 ^ min n 8 + 1))) })) ∧
  (∀ (s : State) (a : Fin 13) (line : BitVec 42) (t : Nat), (getLn s a line.toNat).phase = .backoff t → t ≤ 8 * s.time → 
      exec (.nackBackoffExpiry a line) s = .next (setLn s a line.toNat { getLn s a line.toNat with phase := .reissue })) ∧
  (∀ (s : State) (a : Fin 13) (line : BitVec 42) (errc : Byte) (m : CohMsg), ((s.coh.msgs.find? fun m => m.code == 0x1E && m.agent == a.val && m.line == line.toNat && m.errc == errc.toNat) = some m) → 
      exec (.errresp a line errc) s = .next (respErr (setLn (takeMsg s m) a line.toNat
      { getLn s a line.toNat with req := none, comp := none, data := false, phase := .sent, nacks := 0 }) errc.toNat)) ∧
  (∀ (s : State) (a : Fin 13) (line : BitVec 42), (getLn s a line.toNat).hold ≤ 8 * s.time → (getLn s a line.toNat).req = none → 
      exec (.holdWindowEnd a line) s = .next ((getLn s a line.toNat).waiting.foldl answerSnoop (setLn s a line.toNat { getLn s a line.toNat with waiting := [] }))) ∧
  (∀ (s : State) (slice : Fin 16) (set : BitVec 14), (getSl s slice).scan = some set.toNat → 
      exec (.homeLossScan slice set) s = .next ((((getSl s slice).filter.filter fun e => filtSet e.line == set.toNat).map FiltE.line).foldl
      (fun u l => scrubEntry (flushBad u slice l) slice l) (setSl s slice { getSl s slice with scan := some (set.toNat + 1) }))) ∧
  (∀ (s : State) (slice : Fin 16), (getSl s slice).scan = some 16384 → 
      exec (.homeScanDone slice) s = .next (raiseCond (wb (setSl s slice { getSl s slice with scan := none }) (Reg.HOM_STATUS slice) 14 false) .hom slice 0 3))

/-- The commands and events of chapter 12. -/
def Obligations.FabricCommandsComplete : Prop :=
  (∀ (s : State) (i : Initiator) (site : Fin 14) (v : Word) (u : State), Safety.AcceptedM0 s i (Reg.FAB_RT_W0 site) → routeCommitEffect (respOk s 0) site v = some u → 
      exec (.routeCommit i site v) s = .next u) ∧
  (∀ (s : State) (site : Fin 14) (ni : BitVec 6) (entry : BitVec 9) (w : Word × Word), s.fab.commits.get? (rtKey site ni.toNat entry.toNat) = some w → ((s.fab.outs.any fun o => o.1 == rtKey site ni.toNat entry.toNat) = false) → 
      exec (.routeInstall site ni entry) s = .next (releaseWaits { s with fab := { s.fab with routes := s.fab.routes.set (rtKey site ni.toNat entry.toNat) w, commits := s.fab.commits.drop (· == rtKey site ni.toNat entry.toNat) } } site)) ∧
  (∀ (s : State) (i : Initiator) (site : Fin 14) (v : W32) (u : State), Safety.AcceptedM0 s i (Reg.FAB_RCFG site) → rcfgEffect (respOk s 0) site (w32 v) = some u → 
      exec (.routerReconfig i site v) s = .next u) ∧
  (∀ (s : State) (site : Fin 14) (cycles router pe : Nat) (u : State), s.fab.rcfg.get? site.val = some (router, pe) → u = { s with fab := { s.fab with ports := s.fab.ports.set (64 * site + router) pe, rcfg := s.fab.rcfg.drop (· == site.val) } } → 
      exec (.routerDrainDone site cycles) s = .next (releaseWaits (raiseCond (wr u (Reg.FAB_DRAINMAX site)
      (BitVec.ofNat 64 (max (rf u (Reg.FAB_DRAINMAX site) 0 24) (min cycles (2 ^ 24 - 1))))) .fab site 0 3) site)) ∧
  (∀ (s : State) (i : Initiator) (site : Fin 14) (v : W32), Safety.AcceptedM0 s i (Reg.FAB_ST_CFG site) → 
      exec (.statsConfigWrite i site v) s = .next (statsCfgEffect (respOk s 0) site (w32 v))) ∧
  (∀ (s : State) (i : Initiator) (l : Fin 49) (v : W32), Safety.AcceptedM0 s i (Reg.D2D_CTL l) → (d2dCtlEffect (respOk s 0) l (w32 v)).2 = false → 
      exec (.d2dRetrain i l v) s = .next (d2dCtlEffect (respOk s 0) l (w32 v)).1) ∧
  (∀ (s : State) (i : Initiator) (l : Fin 49) (v : W32), Safety.AcceptedM0 s i (Reg.D2D_CTL l) → (d2dCtlEffect (respOk s 0) l (w32 v)).2 = false → 
      exec (.d2dDisable i l v) s = .next (d2dCtlEffect (respOk s 0) l (w32 v)).1) ∧
  (∀ (s : State) (n : Fin 12), populated s n = true → linkState s n = 0 → 
      exec (.dieAbsentMark n) s = .next (markAbsent s n)) ∧
  (∀ (s : State) (l : Fin 49) (word : W32) (payload : BitVec 256) (corrected : Nat) (uncorr : Bool), linkExists s l = true → linkState s l ≠ 0 → 
      exec (.linkFrameReceive l word payload corrected uncorr) s = .next (linkFrame s l (w32 word) payload corrected uncorr)) ∧
  (∀ (s : State) (l : Fin 49) (seq : BitVec 10), linkExists s l = true → linkState s l ≠ 0 → 
      exec (.linkReplayRequest l seq) s = .next (linkPump (setLink s l { linkFrom (getLink s l) seq.toNat with good := s.time, sentAt := s.time }) l)) ∧
  (∀ (s : State) (l : Fin 49) (counts : List (BitVec 16)), linkExists s l = true → linkState s l ≠ 0 → 
      exec (.linkCredit l counts) s = .next (setLink s l { getLink s l with good := s.time, credits := (upto 6).map fun k => (counts.getD k 0).toNat })) ∧
  (∀ (s : State) (l : Fin 49), linkExists s l = true → linkState s l ≠ 0 → (decide ((getLink s l).sentAt + 80 ≤ s.time)) = true → 
      exec (.heartbeatSend l) s = .next (setLink s l { getLink s l with sentAt := s.time })) ∧
  (∀ (s : State) (l : Fin 49), linkExists s l = true → linkState s l ≠ 0 → (decide (8 * (getLink s l).good + 5 * rf s (Reg.D2D_CTL l) 16 12 ≤ 8 * s.time)) = true → 
      exec (.heartbeatLoss l) s = .next (linkDown s l)) ∧
  (∀ (s : State) (l : Fin 49) (n : Nat), linkExists s l = true → linkState s l = 2 → (getLink s l).asked = some n → n < 8 → 
      exec (.linkReplayTimeout l) s = .next (linkAsk s l)) ∧
  (∀ (s : State) (l : Fin 49) (n : Nat), linkExists s l = true → linkState s l = 2 → (getLink s l).asked = some n → ¬ n < 8 → 
      exec (.linkReplayTimeout l) s = .next (linkRetrain s l)) ∧
  (∀ (s : State)  (l : Fin 49) (farSite : BitVec 4) (farSerial : Word) (farOffer : BitVec 4) (farRev : Byte), linkExists s l = true → linkState s l = 1 → farSite.toNat = farSiteOf l → farSerial = s.serial → fuseBad s l = false → 
      exec (.linkTrainDone l farSite farSerial farOffer farRev true) s = .next (linkUp s l farSite.toNat farOffer.toNat farRev.toNat)) ∧
  (∀ (s : State)  (l : Fin 49) (farSite : BitVec 4) (farSerial : Word) (farOffer : BitVec 4) (farRev : Byte), linkExists s l = true → linkState s l = 1 → farSite.toNat ≠ farSiteOf l ∨ farSerial ≠ s.serial ∨ fuseBad s l = true → 
      exec (.linkTrainDone l farSite farSerial farOffer farRev true) s = .next (linkDown (raiseCond (linkLog (wb s (Reg.D2D_STATUS l) 20 true) l 3) .d2d l 0 3) l)) ∧
  (∀ (s : State) (l : Fin 49) (seq : BitVec 10), linkExists s l = true → 16 ≤ l.val ∧ l.val < 48 → linkState s l < 2 → siteAbsent s (farSiteOf l) = true → 
      exec (.linkRecover l seq) s = .next ((((linkAck (getLink s l) seq.toNat).unacked.map Prod.snd ++ (linkAck (getLink s l) seq.toNat).ahead ++ (linkAck (getLink s l) seq.toNat).held).filter isRequest).foldl requestAbsent
      (setLink s l { (linkAck (getLink s l) seq.toNat) with unacked := [], ahead := [], held := [] }))) ∧
  (∀ (s : State) (l : Fin 49) (seq : BitVec 10), linkExists s l = true → 16 ≤ l.val ∧ l.val < 48 → linkState s l < 2 → siteAbsent s (farSiteOf l) = false → 
      exec (.linkRecover l seq) s = .next (hubAhead (setLink s l { (linkAck (getLink s l) seq.toNat) with unacked := [], ahead := [], held := [] }) (farSiteOf l) ((linkAck (getLink s l) seq.toNat).unacked.map Prod.snd ++ (linkAck (getLink s l) seq.toNat).ahead ++ (linkAck (getLink s l) seq.toNat).held))) ∧
  (∀ (s : State) (n : Fin 12), populated s n = true → linkState s n ≠ 0 → 
      exec (.dieEmpty n) s = .next (dieEmptyRun s n)) ∧
  (∀ (s : State) (n : Fin 12) (t u : State), siteAbsent s n = true → s.coh.empties.contains n.val = true → scanning s = false → linkState s n = 2 → domOn s (3 * n + 2) = true → (t = (upto 16).foldl (fun t h => wb t (Reg.HOM_STATUS h) n.val false) s) → u = raiseCond (wb { t with coh := { t.coh with empties := t.coh.empties.filter (· != n.val) } } (Reg.FAB_STATUS 12) n false) .fab 12 0 1 → 
      exec (.dieRejoin n) s = .next ((nbrLinksOf u n).foldl (fun t l =>
      if linkState t l = 0 ∧ !rb t (Reg.D2D_CTL l) 1 then setLink (linkGoto t l 1) l { Link.reset with good := t.time } else t) u)) ∧
  (∀ (s : State) (site : Fin 14) (corr err : Bool), populated s site = true → domOn s (domainOf .die site) = true → 
      exec (.fuseRead site corr err) s = .next (if err then logErr (wr s (Reg.DIE_FUSE_STATUS site) (BitVec.ofNat 64 (corr.toNat + 2 * err.toNat)))
      (errRec (wr s (Reg.DIE_FUSE_STATUS site) (BitVec.ofNat 64 (corr.toNat + 2 * err.toNat))) 2 4 .die site)
    else wr s (Reg.DIE_FUSE_STATUS site) (BitVec.ofNat 64 (corr.toNat + 2 * err.toNat)))) ∧
  (∀ (s : State) (site : Fin 14) (ni : BitVec 6) (hdr : BitVec 256) (reqBytes cycles : Nat), populated s site = true → ni.toNat < niCount site → hdrFld hdr 48 3 ≤ 5 → cmdKnown (hdrFld hdr 40 8) = false → 
      exec (.packetReceive site ni hdr reqBytes cycles) s = .next (routeError s site hdr)) ∧
  (∀ (s : State) (site : Fin 14) (ni : BitVec 6) (hdr : BitVec 256) (reqBytes cycles : Nat), populated s site = true → ni.toNat < niCount site → hdrFld hdr 48 3 ≤ 5 → cmdKnown (hdrFld hdr 40 8) = true → niLink (hdrFld hdr 160 9 / 32) (hdrFld hdr 160 9 % 32) = none → niLink site ni.toNat = none → hdrFld hdr 160 9 = 32 * site + ni.toNat → [0x19, 0x20, 0x21, 0x32, 0x33, 0x1E].contains (hdrFld hdr 40 8) = true → 
      exec (.packetReceive site ni hdr reqBytes cycles) s = .next (responded s site ni.toNat hdr reqBytes cycles)) ∧
  (∀ (s : State) (site : Fin 14) (ni : BitVec 6) (hdr : BitVec 256) (reqBytes cycles : Nat), populated s site = true → ni.toNat < niCount site → hdrFld hdr 48 3 ≤ 5 → cmdKnown (hdrFld hdr 40 8) = true → niLink (hdrFld hdr 160 9 / 32) (hdrFld hdr 160 9 % 32) = none → niLink site ni.toNat = none → hdrFld hdr 160 9 ≠ 32 * site + ni.toNat → hdrFld hdr 55 9 = 32 * site + ni.toNat → 
      exec (.packetReceive site ni hdr reqBytes cycles) s = .next (routeOn s site ni.toNat hdr)) ∧
  (∀ (s : State) (site : Fin 14) (ni : BitVec 6) (hdr : BitVec 256) (reqBytes cycles : Nat), 5 < hdrFld hdr 48 3 → 
      exec (.packetReceive site ni hdr reqBytes cycles) s = .next (s)) ∧
  (∀ (s : State) (site : Fin 14) (ni : BitVec 6) (entry : BitVec 9), ((s.fab.outs.any fun o => o.1 == rtKey site ni.toNat entry.toNat) = true) → 
      exec (.routeInstall site ni entry) s = .next (s))

/-- The commands of chapter 13. -/
def Obligations.MirrorAndSafetyCommandsComplete : Prop :=
  (∀ (s : State) (ep : BitVec 9) (addr : BitVec 48) (l : List Byte), agRead s ep.toNat (addr.toNat / 8 * 8) 8 = .data l false → 
      exec (.mirrd ep addr) s = .next (respOk s (BitVec.ofNat 64 (leNat l)))) ∧
  (∀ (s : State) (ep : BitVec 9) (addr : BitVec 48) (l : List Byte), agRead s ep.toNat (addr.toNat / 8 * 8) 8 = .data l true → 
      exec (.mirrd ep addr) s = .next (respErr s ePOISON)) ∧
  (∀ (s : State) (ep : BitVec 9) (addr : BitVec 48) (v : Word) (a : Nat), a = addr.toNat / 8 * 8 → mirrorOk v = true → unrouted s ep.toNat a true = false → memErr s a true = none → poisoned s (lineOf a) = false → 
      exec (.mirwr ep addr v) s = .next (respOk (wrMem s a 8 v.toNat) 0)) ∧
  (∀ (s : State) (i : Initiator) (q : Fin 192) (v : W32) (u : State), Safety.AcceptedM0 s i (Reg.MCP_PAIR q) → pairEffect (respOk s 0) q (w32 v) = some u → 
      exec (.pairWrite i q v) s = .next u) ∧
  (∀ (s : State) (i : Initiator) (ch : Fin 256) (v : W32) (u : State), Safety.AcceptedM0 s i (Reg.MCPCH_CTL ch) → mcpCtlWrite (respOk s 0) ch (w32 v) = some u → 
      exec (.mcpChannelEnable i ch v) s = .next u) ∧
  (∀ (s : State) (i : Initiator) (ch : Fin 256) (v : W32) (u : State), Safety.AcceptedM0 s i (Reg.MCPCH_CTL ch) → mcpCtlWrite (respOk s 0) ch (w32 v) = some u → 
      exec (.mcpChannelDisable i ch v) s = .next u) ∧
  (∀ (s : State) (i : Initiator) (ch : Fin 256) (u : State), Safety.AcceptedM0 s i (Reg.MCPCH_CTL ch) → mcpCtlWrite (respOk s 0) ch (setBit (rd (respOk s 0) (Reg.MCPCH_CTL ch)) 16 true) = some u → 
      exec (.mcpResync i ch) s = .next u) ∧
  (∀ (s : State) (ch : Fin 256), mcpActive s ch = true → (getMcp s ch).b.isEmpty = false → 
      exec (.mcpHalfArrival ch true) s = .next (mcpMatch (mcpOpenFirst s ch) ch)) ∧
  (∀ (s : State) (ch : Fin 256), mcpActive s ch = true → (getMcp s ch).a.isEmpty = false → 
      exec (.mcpHalfArrival ch false) s = .next (mcpMatch (mcpOpenFirst s ch) ch)) ∧
  (∀ (s : State) (ch : Fin 256) (t : Nat) (w : McpWin) (rest : List (Nat × McpWin)), mcpActive s ch = true → (getMcp s ch).trig = (t, w) :: rest → (getMcp s ch).win = none → 
      exec (.mcpWindowOpen ch) s = .next (mcpMatch (setMcp (wf s (Reg.MCPCH_STATUS ch) 0 2 1) ch { getMcp s ch with trig := rest, win := some w }) ch)) ∧
  (∀ (s : State) (ch : Fin 256) (t : Nat) (w : McpWin) (rest : List (Nat × McpWin)) (x : McpWin), mcpActive s ch = true → (getMcp s ch).trig = (t, w) :: rest → (getMcp s ch).win = some x → 
      exec (.mcpWindowOpen ch) s = .next (mcpFault (setMcp s ch { getMcp s ch with trig := rest }) ch true (absentHalves (getMcp s ch) (t + 1)))) ∧
  (∀ (s : State) (ch : Fin 256) (d k : Nat), (getMcp s ch).win = some (.atTime d) → mcpActive s ch = true → d ≤ s.time → k = absentHalves (getMcp s ch) d → k ≠ 0 → 
      exec (.mcpDeadline ch) s = .next (mcpFault s ch true k)) ∧
  (∀ (s : State) (i : Initiator) (u : State), Safety.Accepted s i Reg.SMG_CMD → isHubM0 s i = true → smgCommand (respOk s 0) 1 0 = some u → 
      exec (.enterOperate i) s = .next u) ∧
  (∀ (s : State) (i : Initiator) (u : State), Safety.Accepted s i Reg.SMG_CMD → isHubM0 s i = true → smgCommand (respOk s 0) 2 0 = some u → 
      exec (.recover i) s = .next u) ∧
  (∀ (s : State) (i : Initiator) (u : State), Safety.Accepted s i Reg.SMG_CMD → isHubM0 s i = true → smgCommand (respOk s 0) 3 0 = some u → 
      exec (.enterSafe i) s = .next u) ∧
  (∀ (s : State) (i : Initiator) (u : State), Safety.Accepted s i Reg.SMG_CMD → isHubM0 s i = true → smgCommand (respOk s 0) 4 0 = some u → 
      exec (.enterMaint i) s = .next u) ∧
  (∀ (s : State) (i : Initiator) (react : BitVec 2) (u : State), Safety.Accepted s i Reg.SMG_CMD → isHubM0 s i = true → smgCommand (respOk s 0) 5 react.toNat = some u → 
      exec (.report i react) s = .next u) ∧
  (∀ (s : State) , rb s Reg.SMG_STATE 3 = true → (s.time + 2) % 62500 ≤ 4 → (s.time + 2) / 62500 ≠ s.smg.edge → 
      exec .safeToggle s = .next ({ s with smg := { s.smg with safeA := !s.smg.safeA, safeB := s.smg.safeA, edge := (s.time + 2) / 62500 } })) ∧
  (∀ (s : State) (i : Initiator) (v : Word) (u : State), Safety.AcceptedM0 s i Reg.SMG_WD_CTL → mirrorOk v = true → wdCtlWrite (respOk s 0) v = some u → 
      exec (.wdArm i v) s = .next u) ∧
  (∀ (s : State) (i : Initiator) (slot : Bool) (v : Word) (mirror : Bool) (ticks : Nat), cutOff s i .smg 0 = false → ready s .smg 0 = true → 
      exec (.wdService i slot v mirror ticks) s = .next (wdServiceNow (respOk s 0) i slot v mirror ticks)) ∧
  (∀ (s : State) (i : Initiator) (slot : Bool) (v : Word) (mirror : Bool) (ticks : Nat), cutOff s i .smg 0 = false → ready s .smg 0 = false → 
      exec (.wdService i slot v mirror ticks) s = .next (failAccess s i (if slot then Reg.SMG_WD_SVC1 else Reg.SMG_WD_SVC0) cREFUSED)) ∧
  (∀ (s : State) , rb s Reg.SMG_WD_CTL 0 = true → rb s Reg.SMG_WD_STATUS 6 = false → 
      exec .wdTimeout s = .next (wdExpire s 1)) ∧
  (∀ (s : State) , rb s Reg.SMG_WD_CTL 0 = true → 
      exec .wdRefLost s = .next (wdExpire s 7)) ∧
  (∀ (s : State) , rb s Reg.SMG_WD_STATUS 6 = true → anyStopped s = false → 
      exec .wdFreezeRelease s = .next (wdCycle (wb s Reg.SMG_WD_STATUS 6 false)))

/-- The commands of chapter 14. -/
def Obligations.DramCommandsComplete : Prop :=
  (∀ (s : State) (i : Initiator) (ch : Fin 16) (v : W32) (u : State), Safety.AcceptedM0 s i (Reg.DMC_MAP ch) → mapDark s (Reg.DMC_MAP ch) = false → dmcMapEffect (respOk s 0) ch (w32 v) = some u → 
      exec (.dmcMapWrite i ch v) s = .next u) ∧
  (∀ (s : State) (i : Initiator) (ch : Fin 16) (v : W32), mapDark s (Reg.DMC_MAP ch) = true → cutOff s i .dmc ch = false → 
      exec (.dmcMapWrite i ch v) s = .next (unitAbsent s i (Reg.DMC_MAP ch))) ∧
  (∀ (s : State) (i : Initiator) (ch : Fin 16) (u : State), Safety.AcceptedM0 s i (Reg.DMC_CMD ch) → dmcCommand (respOk s 0) ch 1 = some u → 
      exec (.powerup i ch) s = .next u) ∧
  (∀ (s : State) (i : Initiator) (ch : Fin 16) (u : State), Safety.AcceptedM0 s i (Reg.DMC_CMD ch) → dmcCommand (respOk s 0) ch 2 = some u → 
      exec (.service i ch) s = .next u) ∧
  (∀ (s : State) (i : Initiator) (ch : Fin 16) (u : State), Safety.AcceptedM0 s i (Reg.DMC_CMD ch) → dmcCommand (respOk s 0) ch 3 = some u → 
      exec (.test i ch) s = .next u) ∧
  (∀ (s : State) (i : Initiator) (ch : Fin 16) (u : State), Safety.AcceptedM0 s i (Reg.DMC_CMD ch) → dmcCommand (respOk s 0) ch 4 = some u → 
      exec (.exitTest i ch) s = .next u) ∧
  (∀ (s : State) (i : Initiator) (ch : Fin 16) (u : State), Safety.AcceptedM0 s i (Reg.DMC_CMD ch) → dmcCommand (respOk s 0) ch 5 = some u → 
      exec (.fill i ch) s = .next u) ∧
  (∀ (s : State) (ch : Fin 16), dmcUp s ch = true → rb s (Reg.DMC_STATUS ch) 2 = true → 
      exec (.dmcPowerupDone ch) s = .next (wb (wb s (Reg.DMC_STATUS ch) 2 false) (Reg.DMC_STATUS ch) 3 true)) ∧
  (∀ (s : State) (ch : Fin 16), dmcServing s ch = true → (getDmc s ch).fill ≠ [] → 
      exec (.dmcFillDone ch) s = .next (fillDone s ch)) ∧
  (∀ (s : State) (i : Initiator) (ch : Fin 16) (v : W32) (u : State), Safety.AcceptedM0 s i (Reg.DPHY_SWEEP_CTL ch) → dmcSweepEffect (respOk s 0) ch (w32 v) = some u → 
      exec (.dmcSweep i ch v) s = .next u) ∧
  (∀ (s : State) (ch : Fin 16) (res : BitVec 128), dmcUp s ch = true → rb s (Reg.DPHY_SWEEP_STATUS ch) 0 = true → 
      exec (.dmcSweepDone ch res) s = .next ((upto 4).foldl (fun t w => wr t (Reg.DPHY_SWEEP_RES ch w) (BitVec.ofNat 64 (res.toNat / 2 ^ (32 * w) % 2 ^ 32)))
      (wb s (Reg.DPHY_SWEEP_STATUS ch) 0 false))) ∧
  (∀ (s : State) (ch : Fin 16) (line : BitVec 42) (ep : BitVec 9) (part : Option Part) (rt : Bool), dmcServing s ch = true → dmcOwns s ch line.toNat = true → (((getDmc s ch).writes.reverse.find? fun w => w.line == line.toNat) = none) → (getDmc s ch).reads.length < 128 → 
      exec (.dmcReadRequest ch line ep part rt) s = .next (setDmc s ch { getDmc s ch with reads := (getDmc s ch).reads ++ [{ dmcReq line ep part rt false with age := (getDmc s ch).arrivals }], arrivals := (getDmc s ch).arrivals + 1 })) ∧
  (∀ (s : State) (ch : Fin 16) (line : BitVec 42) (ep : BitVec 9) (part : Option Part) (rt : Bool) (w : DmcReq), dmcServing s ch = true → dmcOwns s ch line.toNat = true → (((getDmc s ch).writes.reverse.find? fun w => w.line == line.toNat) = some w) → 
      exec (.dmcReadRequest ch line ep part rt) s = .next (dmcAnswer s line.toNat w.poison)) ∧
  (∀ (s : State) (ch : Fin 16) (line : BitVec 42) (ep : BitVec 9) (part : Option Part) (rt : Bool) (poison : Bool) (data : List Byte) (u : State), dmcServing s ch = true → dmcOwns s ch line.toNat = true → dmcTakes (getDmc s ch) line.toNat = true → u = setDmc s ch (dmcDrain s ch (dmcPutWrite (getDmc s ch) (dmcReq line ep part rt poison))) → 
      exec (.dmcWriteRequest ch line ep part rt poison data) s = .next (if poison then setPoison u line.toNat else clearPoison (wrBytes u (64 * line.toNat) (padTo 64 data)) line.toNat)) ∧
  (∀ (s : State) (ch : Fin 16) (addr : BitVec 48) (ep : BitVec 9) (part : Option Part) (v : Word) (a : Nat) (q : DmcReq), a = addr.toNat / 8 * 8 → q = { line := lineOf a, ep := ep.toNat, part := part.map (·.val), rt := false, poison := false, age := 0 } → dmcServing s ch = true → dmcOwns s ch q.line = true → dmcTakes (getDmc s ch) q.line = true → poisoned s q.line = false → 
      exec (.dmcMirwr ch addr ep part ⟨v, false⟩) s = .next (respOk (wrMem (setDmc s ch (dmcDrain s ch (dmcPutWrite (getDmc s ch) q))) a 8 v.toNat) 0)) ∧
  (∀ (s : State) (ch : Fin 16) (busy : List Nat) (it : DmcItem), dmcNext s ch busy = some it → 
      exec (.dmcSchedule ch busy) s = .next (dmcIssue s ch it)) ∧
  (∀ (s : State) (ch : Fin 16), dmcUp s ch = true → rb s (Reg.DMC_STATUS ch) 3 = true → 
      exec (.dmcRefresh ch) s = .next (refreshDue s ch)) ∧
  (∀ (s : State) (ch : Fin 16) (rank : Bool) (mult : Nat), dmcUp s ch = true → rb s (Reg.DMC_STATUS ch) 3 = true → 
      exec (.dmcMr4Read ch rank mult) s = .next (setDmc s ch { getDmc s ch with mult := listSet (getDmc s ch).mult rank.toNat (max 1 mult) })) ∧
  (∀ (s : State) (ch : Fin 16), dmcUp s ch = true → rb s (Reg.DMC_SLOTCTL ch) 0 = true → 
      exec (.dmcSlotStart ch) s = .next (setDmc s ch { getDmc s ch with slot := ((getDmc s ch).slot + 1) % 32 })) ∧
  (∀ (s : State) (ch : Fin 16) (p : Part), dmcUp s ch = true → rf s (Reg.DMC_REG ch p) 0 12 ≠ 0 → 
      exec (.dmcTokenRefill ch p) s = .next (refillTokens s ch p)) ∧
  (∀ (s : State) (i : Initiator) (ch : Fin 16) (v : W32) (u : State), Safety.AcceptedM0 s i (Reg.DMC_SLOTCTL ch) → slotctlEffect (respOk s 0) ch (w32 v) = some u → 
      exec (.dmcSlotEnable i ch v) s = .next u) ∧
  (∀ (s : State) (ch : Fin 16) (m0 m1 : BitVec 40) (u0 u1 : Bool), dmcServing s ch = true → (getDmc s ch).issued ≠ [] → 
      exec (.dmcReadData ch m0 m1 u0 u1) s = .next (readData s ch m0.toNat m1.toNat u0 u1)) ∧
  (∀ (s : State) (ch : Fin 16) (temp : Byte), dmcUp s ch = true → 
      exec (.dmcTempRead ch temp) s = .next (tempRead s ch temp)) ∧
  (∀ (s : State) (ch : Fin 16), dmcUp s ch = true → 
      exec (.dmcOffsetApply ch) s = .next (setDmc s ch { getDmc s ch with applied := (getDmc s ch).offset })) ∧
  (∀ (s : State) (g : Fin 12), 
      exec (.dmcPanic (.gpe g)) s = .next (panicSet s g (domOn s 46 && gpePanics s g))) ∧
  (∀ (s : State) , 
      exec (.dmcPanic .sdm) s = .next (panicSet s 12 (domOn s 46 && sdmPanics s))) ∧
  (∀ (s : State) , 
      exec (.dmcPanic .psl) s = .next (panicSet s 13 (domOn s 47 && pslPanics s)))

/-- The commands of chapter 15. -/
def Obligations.QueueEngineCommandsComplete : Prop :=
  (∀ (s : State) (i : Initiator) (v : W32) (u : State), Safety.AcceptedM0 s i (Reg.QE_OWN) → qeOwnEffect (respOk s 0) (w32 v) = some u → 
      exec (.qeOwn i v) s = .next u) ∧
  (∀ (s : State) (i : Initiator) (p : Part) (v : W32) (n : Nat) (u : State), Safety.Accepted s i (Reg.QEP_RCFG p) → n = rf s (Reg.QEP_RSEL p) 0 13 → p = 0 ∨ (getRing s n).owner = p.val → rcfgWrite (respOk s 0) n (w32 v) = some u → 
      exec (.qeRingEnable i p v) s = .next u) ∧
  (∀ (s : State) (i : Initiator) (p : Part) (v : W32) (n : Nat) (u : State), Safety.Accepted s i (Reg.QEP_RCFG p) → n = rf s (Reg.QEP_RSEL p) 0 13 → p = 0 ∨ (getRing s n).owner = p.val → rcfgWrite (respOk s 0) n (w32 v) = some u → 
      exec (.qeRingDisable i p v) s = .next u) ∧
  (∀ (s : State) (i : Initiator) (p : Part) (v : W32) (n : Nat) (u : State), Safety.Accepted s i (Reg.QEP_DCTL p) → n = rf s (Reg.QEP_DSEL p) 0 6 → p = 0 ∨ dmaOwner s n = p.val → dctlWrite (respOk s 0) n (w32 v) = some u → 
      exec (.qeDmaEnable i p v) s = .next u) ∧
  (∀ (s : State) (i : Initiator) (p : Part) (v : W32) (n : Nat) (u : State), Safety.Accepted s i (Reg.QEP_DCTL p) → n = rf s (Reg.QEP_DSEL p) 0 6 → p = 0 ∨ dmaOwner s n = p.val → dctlWrite (respOk s 0) n (w32 v) = some u → 
      exec (.qeDmaDisable i p v) s = .next u) ∧
  (∀ (s : State) (i : Initiator) (p : Part) (v : Word) (r a : Nat), Safety.Accepted s i (Reg.QEP_ENQ p) → r = fld v 0 13 → a = fld v 16 43 * 32 → opRefusal (respOk s 0) i p r a false = none → quotaOk (respOk s 0) (getRing s r) = true → 
      exec (.qeEnq i p v) s = .next { setRing (respOk s 0) r { getRing s r with
      ops := (getRing s r).ops ++ [{ deq := false, ini := i, page := p, addr := a, entry := none }] } with resp := .none }) ∧
  (∀ (s : State) (i : Initiator) (p : Part) (v : Word) (r a : Nat) (e : Nat), Safety.Accepted s i (Reg.QEP_ENQ p) → r = fld v 0 13 → a = fld v 16 43 * 32 → opRefusal (respOk s 0) i p r a false = some e → 
      exec (.qeEnq i p v) s = .next (postResult (respOk s 0) i e 0)) ∧
  (∀ (s : State) (i : Initiator) (p : Part) (v : Word) (r a : Nat), Safety.Accepted s i (Reg.QEP_DEQ p) → r = fld v 0 13 → a = fld v 16 43 * 32 → opRefusal (respOk s 0) i p r a true = none → (getRing s r).taking < (getRing s r).count → 
      exec (.qeDeq i p v) s = .next { setRing (respOk s 0) r { getRing s r with
      ops := (getRing s r).ops ++ [{ deq := true, ini := i, page := p, addr := a, entry := none }] } with resp := .none }) ∧
  (∀ (s : State) (i : Initiator) (p : Part) (v : Word) (r a : Nat) (e : Nat), Safety.Accepted s i (Reg.QEP_DEQ p) → r = fld v 0 13 → a = fld v 16 43 * 32 → opRefusal (respOk s 0) i p r a true = some e → 
      exec (.qeDeq i p v) s = .next (postResult (respOk s 0) i e 0)) ∧
  (∀ (s : State) (r : Fin 8192) (k : Nat) (o : QeOp) (rest : List QeOp) (l : List Byte), takeOpAt isReading k (getRing s r).ops = some (o, rest) → targetRefuses s o.page o.addr (getRing s r).esize 1 = none → agRead s (endpointOf .qe 0) o.addr (getRing s r).esize = .data l false → (!(getRing s r).mirror || pairsOk l) = true → (getRing s r).held < (getRing s r).size → quotaOk s (getRing s r) = true → 
      exec (.qeEnqSourceRead r ⟨k, false⟩) s = .next (setRing s r { getRing s r with
      ops := rest ++ [{ o with entry := some (stampEntry s (getRing s r) l) }] })) ∧
  (∀ (s : State) (r : Fin 8192) (o : QeOp) (rest : List QeOp) (t : State), takeOp isWriting (getRing s r).ops = some (o, rest) → mirrorStuck (setRing s r { getRing s r with ops := rest }) (getRing s r) = none → (agWrite (setRing s r { getRing s r with ops := rest }) (endpointOf .qe 0) ((getRing s r).slotAddr (getRing s r).tail) (o.entry.getD []) false).toOption = some t → 
      exec (.qeEnqComplete r false) s = .next (postResult (slotDone t r (o.entry.getD [])) o.ini 0 (getRing s r).tail)) ∧
  (∀ (s : State) (r : Fin 8192) (o : QeOp) (rest : List QeOp) (l : List Byte) (t u w : State), takeOp QeOp.deq (getRing s r).ops = some (o, rest) → u = setRing s r { getRing s r with ops := rest } → agRead u (endpointOf .qe 0) ((getRing s r).slotAddr (getRing s r).head) (getRing s r).esize = .data l false → (!(getRing s r).mirror || pairsOk l) = true → targetRefuses u o.page o.addr (getRing s r).esize 2 = none → (agWrite u (endpointOf .qe 0) o.addr l false).toOption = some t → w = poisonCopied u t ((getRing s r).slotAddr (getRing s r).head) o.addr (getRing s r).esize → 
      exec (.qeDeqComplete r false false) s = .next (postResult (setRing w r { getRing w r with head := ((getRing w r).head + 1) % (getRing w r).size, count := (getRing w r).count - 1 })
      o.ini 0 (getRing s r).head)) ∧
  (∀ (s : State) (ch : Fin 64) (l : List Byte) (t u : State) (m : DmaCmd), (getDma s ch).en = true → hwDeq s (fld (getDma s ch).ctl 1 13) = (some (l, false, t), s) → m = parseCmd l → u = setDma t ch { getDma t ch with cmds := (getDma t ch).cmds ++ [m] } → (dmaAddrOk u (dmaOwner s ch) m.src m.len 1 && dmaAddrOk u (dmaOwner s ch) m.dst m.len 2) = true → 
      exec (.dmaCommandFetch ch) s = .next (u)) ∧
  (∀ (s : State) (ch : Fin 64) (k : Nat) (m : DmaCmd), (((getDma s ch).cmds.findIdx? fun m => !m.started) = some k) → (getDma s ch).cmds[k]? = some m → ((getDma s ch).started < (getDma s ch).limit && (getDma s ch).cpls.isEmpty && (!m.fence || k == 0)) = true → 
      exec (.dmaCommandStart ch) s = .next (setDma s ch { getDma s ch with cmds := listSet (getDma s ch).cmds k { m with started := true } })) ∧
  (∀ (s : State) (ch : Fin 64) (tag : BitVec 16) (err : Bool) (m : DmaCmd), (((getDma s ch).cmds.find? fun m => m.started && m.tag == tag.toNat) = some m) → 
      exec (.dmaCommandComplete ch tag err) s = .next (dmaEnd (dmaCopy s ch m m.len).1 ch m (if (dmaCopy s ch m m.len).2.2 || err then 9 else 0) (dmaCopy s ch m m.len).2.1)) ∧
  (∀ (s : State) (ch : Fin 64) (l : List Byte) (rest : List (List Byte)) (t : State), (getDma s ch).cpls = l :: rest → hwEnq s (fld (getDma s ch).ctl 14 13) l = some t → 
      exec (.dmaCompletionPost ch) s = .next (setDma t ch { getDma t ch with cpls := rest })) ∧
  (∀ (s : State) (i : Initiator) (p : Part) (v : W32) (done c tag : Nat) (m : DmaCmd), Safety.Accepted s i (Reg.QEP_DABORT p) → c = fld (w32 v) 0 6 → tag = fld (w32 v) 16 16 → p = 0 ∨ dmaOwner s c = p.val → (((getDma s c).cmds.find? fun m => m.tag == tag) = some m) → m.started = false → 
      exec (.qeDabort i p v done) s = .next (postResult (dmaEnd (respOk s 0) c m 0xD 0) i 0 0))

/-- The commands of 16.1 to 16.4. -/
def Obligations.HostPortCommandsComplete : Prop :=
  (∀ (s : State) (port : Port) (fn : Fin 33) (bar : BitVec 3) (off : BitVec 48) (n : Nat), hpUp s port = true → rb s (hpFmap port fn) 31 = true → bar = 0 → off.toNat < 0x4000000 → 
      exec (.hpInboundRequest port fn bar off (.rd n)) s = .next (hostAnswer (pageRead s (.host port fn) (0xF00000000000 + off.toNat) (8 * n)))) ∧
  (∀ (s : State) (port : Port) (fn : Fin 33) (bar : BitVec 3) (off : BitVec 48) (l : List Byte), hpUp s port = true → rb s (hpFmap port fn) 31 = true → bar = 0 → off.toNat < 0x4000000 → 
      exec (.hpInboundRequest port fn bar off (.wr l false)) s = .next (hostAnswer (pageWrite s (.host port fn) (0xF00000000000 + off.toNat) (8 * l.length) (BitVec.ofNat 64 (leNat l)) false))) ∧
  (∀ (s : State) (port : Port) (fn : Fin 33) (bar : BitVec 3) (off : BitVec 48) (t : Tlp) (w : Word), hpUp s port = true → rb s (hpFmap port fn) 31 = true → bar = 2 → w = rd s (hpIwin port fn) → 30 ≤ fld w 0 6 ∧ off.toNat < 2 ^ fld w 0 6 → (match t with | .wr _ true => false | _ => true) = true → 
      exec (.hpInboundRequest port fn bar off (t)) s = .next (hostAnswer (hpDram s (.host port fn) (2 ^ 30 * fld w 30 18 + off.toNat) t))) ∧
  (∀ (s : State) (port : Port) (fn : Fin 33) (bar : BitVec 3) (off : BitVec 48) (n : Nat), hpUp s port = true → rb s (hpFmap port fn) 31 = true → bar = 4 → off.toNat < 0x18400000 → 
      exec (.hpInboundRequest port fn bar off (.rd n)) s = .next (hostAnswer (aliasRead s (.host port fn) (off.toNat / 0x100000) (off.toNat % 0x100000) n))) ∧
  (∀ (s : State) (port : Port) (fn : Fin 33) (bar : BitVec 3) (off : BitVec 48) (l : List Byte), hpUp s port = true → rb s (hpFmap port fn) 31 = true → bar = 4 → off.toNat < 0x18400000 → 
      exec (.hpInboundRequest port fn bar off (.wr l false)) s = .next (hostAnswer (aliasWrite s (.host port fn) (off.toNat / 0x100000) (off.toNat % 0x100000) l false))) ∧
  (∀ (s : State) (port : Port) (fn : Fin 33) (bar : BitVec 3) (off : BitVec 48) (n : Nat), hpUp s port = true → rb s (hpFmap port fn) 31 = true → bar = 4 → 0x1F000000 ≤ off.toNat ∧ off.toNat < 0x1F000400 → 
      exec (.hpInboundRequest port fn bar off (.rd n)) s = .next ({ s with resp := .bytes (msixRead s port fn (off.toNat - 0x1F000000) n false) })) ∧
  (∀ (s : State) (port : Port) (fn : Fin 33) (bar : BitVec 3) (off : BitVec 48) (l : List Byte), hpUp s port = true → rb s (hpFmap port fn) 31 = true → bar = 4 → 0x1F000000 ≤ off.toNat ∧ off.toNat < 0x1F000400 → 
      exec (.hpInboundRequest port fn bar off (.wr l false)) s = .next (respOk (msixWrite s port fn (off.toNat - 0x1F000000) l) 0)) ∧
  (∀ (s : State) (port : Port) (fn : Fin 33) (bar : BitVec 3) (off : BitVec 48) (n : Nat), hpUp s port = true → rb s (hpFmap port fn) 31 = true → bar = 4 → 0x1F001000 ≤ off.toNat ∧ off.toNat < 0x1F001008 → 
      exec (.hpInboundRequest port fn bar off (.rd n)) s = .next ({ s with resp := .bytes (msixRead s port fn (off.toNat - 0x1F001000) n true) })) ∧
  (∀ (s : State) (port : Port) (fn : Fin 33) (bar : BitVec 3) (off : BitVec 48) (t : Tlp), hpUp s port = true → rb s (hpFmap port fn) 31 = false → 
      exec (.hpInboundRequest port fn bar off t) s = .next (respErr s hUR)) ∧
  (∀ (s : State) (port : Port) (fn : Fin 33), hpUp s port = true → rb s (hpCtl port) 0 = true → 
      exec (.hpConfigRequest port fn .read) s = .next (respOk { s with freeCtr := s.freeCtr + 1 } (BitVec.ofNat 64 (Config.freeNat s.freeCtr % 2 ^ 32)))) ∧
  (∀ (s : State) (port : Port) (fn : Fin 33) (on : Bool), hpUp s port = true → rb s (hpCtl port) 0 = true → 
      exec (.hpConfigRequest port fn (.setMse on)) s = .next (respOk (setHp s port { getHp s port with
      mse := if on then fn.val :: (getHp s port).mse.filter (· != fn.val) else (getHp s port).mse.filter (· != fn.val) }) 0)) ∧
  (∀ (s : State) (port : Port) (fn : Fin 33), hpUp s port = true → rb s (hpCtl port) 0 = true → 
      exec (.hpConfigRequest port fn .other) s = .next (respOk s 0)) ∧
  (∀ (s : State) (i : Initiator) (addr : BitVec 48) (width : Nat) (v : Word), areaOf addr.toNat = .host → owinErr s i addr.toNat = none → regionOk s (initPart s i) addr.toNat width 2 = true → 
      exec (.hpOutboundAccess i addr width (some v)) s = .next (hostWrite s addr.toNat (leBytes width v.toNat))) ∧
  (∀ (s : State) (i : Initiator) (addr : BitVec 48) (width : Nat), areaOf addr.toNat = .host → owinErr s i addr.toNat = none → regionOk s (initPart s i) addr.toNat width 1 = true → 
      exec (.hpOutboundAccess i addr width none) s = .next (hostRead s i addr.toNat width none)) ∧
  (∀ (s : State) (i : Initiator) (addr : BitVec 48) (width : Nat) (wr : Option Word) (e : Nat), areaOf addr.toNat = .host → owinErr s i addr.toNat = some e → 
      exec (.hpOutboundAccess i addr width wr) s = .next (respErr (logErr s (accessAddrRec s i addr.toNat e)) e)) ∧
  (∀ (s : State) (port : Port) (tag : BitVec 10) (v : Word) (o : HpOut), (((getHp s port).outs.find? fun o => o.tag == tag.toNat) = some o) → 
      exec (.hpReadCompletion port tag v) s = .next (hpAnswer (hpEnd s port tag.toNat) o 0 (BitVec.ofNat 64 (v.toNat % 2 ^ (8 * min 8 o.len))))) ∧
  (∀ (s : State) (port : Port) (tag : BitVec 10) (o : HpOut), (((getHp s port).outs.find? fun o => o.tag == tag.toNat) = some o) → o.since + 1000 * max 1 (rf s (hpCtl port) 16 16) ≤ s.time → 
      exec (.hpCompletionTimeout port tag) s = .next (hpAnswer (hpEnd s port tag.toNat) o eRANGE 0)) ∧
  (∀ (s : State) (port : Port), hpUp s port = true → 
      exec (.hpLinkDown port) s = .next (hpDown s port)) ∧
  (∀ (s : State) (port : Port) (rate : BitVec 3) (width : BitVec 4) (numvf : BitVec 6), hpOn s port = true → hpLinkOk rate.toNat width.toNat numvf.toNat = true → 
      exec (.hpLinkUp port rate width numvf) s = .next (raiseCond (wr s (hpStatus port) (BitVec.ofNat 64
      (1 + 2 * rate.toNat + 2 ^ 4 * width.toNat + 2 ^ 8 * numvf.toNat))) (portBlock port) 0 0 0)) ∧
  (∀ (s : State) (port : Port) (fn : Fin 33), hpUp s port = true → 
      exec (.hpFlr port fn) s = .next (flr s port fn)) ∧
  (∀ (s : State) (i : Initiator) (port : Port) (k : Fin 256) (v : W32) (u : State), Safety.AcceptedM0 s i (hpVmap port k) → vmapEffect (respOk s 0) port k (w32 v) = some u → 
      exec (.hpVmapEnable i port k v) s = .next u) ∧
  (∀ (s : State) (port : Port) (f v : Nat) (rest : List (Nat × Nat)), (getHp s port).msgs = (f, v) :: rest → hpUp (setHp s port { getHp s port with msgs := rest }) port = true → 
      exec (.hpMsixSend port) s = .next (msixGo (setHp s port { getHp s port with msgs := rest }) port f v)) ∧
  (∀ (s : State) (i : Initiator) (port : Fin 2) (v : W32) (dev : Option W32), Safety.Accepted s i (spaCfgdata port) → (getSpa s port).up = true → 
      exec (.spaConfigAccess i port (some v) dev) s = .next { respOk s 0 with sent := .cfg port true (getSpa s port).cfgAddr v }) ∧
  (∀ (s : State) (i : Initiator) (port : Fin 2) (dev : W32), Safety.Accepted s i (spaCfgdata port) → (getSpa s port).up = true → 
      exec (.spaConfigAccess i port none (some dev)) s = .next (respOk { setSpa s port { getSpa s port with outs := (getSpa s port).outs.erase i } with
      sent := .cfg port false (getSpa s port).cfgAddr 0 } (w32 dev))) ∧
  (∀ (s : State) (i : Initiator) (port : Fin 2), Safety.Accepted s i (spaCfgdata port) → (getSpa s port).up = true → 
      exec (.spaConfigAccess i port none none) s = .next { setSpa s port { getSpa s port with outs := (getSpa s port).outs ++ [i] } with
      sent := .cfg port false (getSpa s port).cfgAddr 0, resp := .none }) ∧
  (∀ (s : State) (port : Fin 2) (v : Fin 32), netOn s = true → (getSpa s port).up = true → 
      exec (.spaDeviceVector port v) s = .next (assertSrc s (514 + 33 * port.val + v.val) false)) ∧
  (∀ (s : State) (port : Fin 2) (addr : BitVec 48) (req : DmaReq), netOn s = true → (getSpa s port).up = true → 
      exec (.spaDeviceDma port addr req) s = .next (spaDma s port addr.toNat req)) ∧
  (∀ (s : State) (port : Fin 2), netOn s = true → (getSpa s port).up = true → 
      exec (.spaLinkDown port) s = .next (spaLink s port false)) ∧
  (∀ (s : State) (port : Fin 2), netOn s = true → (getSpa s port).up = false → 
      exec (.spaLinkUp port) s = .next (spaLink s port true))

/-- The commands of 16.5 to 16.10. -/
def Obligations.NetworkAndFieldCommandsComplete : Prop :=
  (∀ (s : State) (m : Fin 12), macOn s m = true → 
      exec (.ethGateInterval m) s = .next (gatesRun s m)) ∧
  (∀ (s : State) (i : Initiator) (m : Fin 12) (v : W32) (u : State), Safety.Accepted s i (Reg.ETH_GCL_CTL m) → gclEffect (respOk s 0) m (w32 v) = some u → 
      exec (.gclChange i m v) s = .next u) ∧
  (∀ (s : State) (i : Initiator) (m : Fin 12) (v : Word), Safety.Accepted s i (Reg.ETH_PTP_STEP m) → 
      exec (.ptpStep i m v) s = .next (ptpStepEffect (respOk s 0) m v)) ∧
  (∀ (s : State) (m : Fin 12) (frame : List Byte) (fcsOk : Bool), macOn s m = true → rb s (Reg.ETH_STATUS m) 0 = true → 
      exec (.ethFrameReceive m frame fcsOk) s = .next (ethReceive s m frame fcsOk)) ∧
  (∀ (s : State) (r : Fin 64) (h : Frer), h = s.frer.get Frer.reset r → netOn s = true → rb s (Reg.FRER_MATCH r) 63 = true → h.any = false → (decide (h.last + 1000 * max 1 (rf s (Reg.FRER_CFG r) 8 16) ≤ s.time)) = true → 
      exec (.frerRecoveryReset r) s = .next (countReg { s with frer := s.frer.set r { h with any := true, hist := 0 } } (Reg.FRER_RESETS r))) ∧
  (∀ (s : State) (m : Fin 12) (t : Level), txFree s m = true → (((getMac s m).copies.any fun e => e.1.cls == t.val) = false) → frozen s .eth m 0 = false → rb s (Reg.ETH_TXRING m t) 31 = true → (nth (getMac s m).launch none t.val).isNone = true → 
      exec (.ethTxEntry m t) s = .next (txTake s m t)) ∧
  (∀ (s : State) (m : Fin 12) (t : Level), txFree s m = true → (((getMac s m).copies.any fun e => e.1.cls == t.val) = true) → 
      exec (.ethTxEntry m t) s = .next (copyGo s m t)) ∧
  (∀ (s : State) (m : Fin 12) (t : Level) (e f : List Byte), nth (getMac s m).launch none t.val = some (e, f) → macOn s m = true → (getMac s m).txq.all EthTx.sent = true → (decide (sfld (BitVec.ofNat 64 (leNat ((e.drop 16).take 8))) 0 64 ≤ macT s m)) = true → (gateFits s m t (frameNs s m (f.length + (if genAsked e then 6 else 0))) = true) → shaperOk s m t = true → 
      exec (.ethLaunch m t) s = .next (txStart (setMac s m { getMac s m with launch := listSet (getMac s m).launch t none }) m t e f)) ∧
  (∀ (s : State) (m : Fin 12) (q : EthTx) (rest : List EthTx), netOn s = true → (getMac s m).txq = q :: rest → q.copyOf = none → q.waits = none → 
      exec (.ethTxComplete m) s = .next (txPost (setMac s m { getMac s m with txq := { q with sent := true } :: rest }) m)) ∧
  (∀ (s : State) (m : Fin 12) (q : EthTx) (rest : List EthTx) (k : Nat), netOn s = true → (getMac s m).txq = q :: rest → q.copyOf = some k → 
      exec (.ethTxComplete m) s = .next (copyDone (setMac s m { getMac s m with txq := rest }) k m q.cls)) ∧
  (∀ (s : State) (m : Fin 12) (up : Bool) (speed : BitVec 3), netOn s = true → (!up || speedOk m speed.toNat) = true → 
      exec (.ethLinkChange m up speed) s = .next (raiseCond (wr s (Reg.ETH_STATUS m) (BitVec.ofNat 64 (up.toNat + 2 * speed.toNat))) .eth m 0 0)) ∧
  (∀ (s : State) (k : Fin 8) (f : CanFrame), canOn s k = true → rf s (Reg.CANF_CTL k) 3 2 ≠ 2 → 
      exec (.canfFrameReceive k ⟨f, false⟩) s = .next (canReceive s k f)) ∧
  (∀ (s : State) (k : Fin 8) (f : CanFrame), canOn s k = true → rf s (Reg.CANF_CTL k) 3 2 ≠ 2 → 
      exec (.canfFrameReceive k ⟨f, true⟩) s = .next (canFault s k (rf s (Reg.CANF_ERR k) 0 8) (rf s (Reg.CANF_ERR k) 8 8 + 1))) ∧
  (∀ (s : State) (k : Fin 8), canOn s k = true → rf s (Reg.CANF_CTL k) 3 2 ≠ 1 → frozen s .canf k 0 = false → 
      exec (.canfFrameTransmit ⟨k, false⟩) s = .next (canTransmit s k)) ∧
  (∀ (s : State) (k : Fin 8), canOn s k = true → rf s (Reg.CANF_CTL k) 3 2 ≠ 1 → frozen s .canf k 0 = false → ringHas s (rf s (Reg.CANF_RING k) 0 13) = true → 
      exec (.canfFrameTransmit ⟨k, true⟩) s = .next (canFault s k (rf s (Reg.CANF_ERR k) 0 8 + 8) (rf s (Reg.CANF_ERR k) 8 8))) ∧
  (∀ (s : State) (k : Fin 8), netOn s = true → rb s (Reg.CANF_CTL k) 0 = true → rf s (Reg.CANF_ERR k) 16 2 = 2 → rb s (Reg.CANF_CTL k) 5 = true → 
      exec (.canfBusOffRecovery k) s = .next (wr s (Reg.CANF_ERR k) 0)) ∧
  (∀ (s : State) (i : Initiator) (k : Fin 2) (port : Fin 4096) (data : List Byte), Safety.Accepted s i (mvbPort k port) → 
      exec (.mvbPortWrite i k port data) s = .next (dpWrite (respOk s 0) (rkey (mvbPort k port)) (data.take 32))) ∧
  (∀ (s : State) (k : Fin 2) (x : MvbXfer), netOn s = true → rb s (Reg.MVB_CTL k) 0 = true → 
      exec (.mvbFrame k x) s = .next (mvbRun s k x)) ∧
  (∀ (s : State) (k : Fin 2) (lineB good : Bool), netOn s = true → 
      exec (.mvbLineChange k lineB good) s = .next (raiseCond (wb s (Reg.MVB_STATUS k) lineB.toNat good) .mvb k 0 lineB.toNat)) ∧
  (∀ (s : State) (k : Fin 13) (rx : Option (List Byte)), netOn s = true → rb s (Reg.SER_CTL k) 0 = true → k.val < 12 → serStretch s k rx = false → 
      exec (.serTransfer k rx) s = .next (serRun s k rx)) ∧
  (∀ (s : State) (k : Fin 13) (rx : Option (List Byte)), serStretch s k rx = true → 
      exec (.serTransfer k rx) s = .next (s)) ∧
  (∀ (s : State) (pin : Fin 64) (level : Bool) (first : Word), netOn s = true → rb s (Reg.GPIO_PIN pin) 3 ≠ level → first.toNat + 10 * rf s (Reg.GPIO_PIN pin) 4 10 ≤ s.time → 
      exec (.gpioEdge pin level first) s = .next (gpioAccept s pin level first.toNat))

/-- The commands of chapter 17. -/
def Obligations.PeriscopeLinkCommandsComplete : Prop :=
  (∀ (s : State) (i : Initiator) (v : W32) (w : Word), Safety.Accepted s i Reg.PSL_CTL → w = w32 v → (pslCtlEffect (respOk s 0) w).2 = false → 
      exec (.pslEnable i v) s = .next (if bit w 4 && bit w 1 && bit w 0 then renumber (pslCtlEffect (respOk s 0) w).1 else (pslCtlEffect (respOk s 0) w).1)) ∧
  (∀ (s : State) (i : Initiator) (w : Word), Safety.Accepted s i Reg.PSL_CTL → w = BitVec.ofNat 64 (rf s Reg.PSL_CTL 0 4 + 2 ^ 4 + 2 ^ 16 * rf s Reg.PSL_CTL 16 10) → (pslCtlEffect (respOk s 0) w).2 = false → 
      exec (.pslRenumber i) s = .next (if bit w 4 && bit w 1 && bit w 0 then renumber (pslCtlEffect (respOk s 0) w).1 else (pslCtlEffect (respOk s 0) w).1)) ∧
  (∀ (s : State) (i : Initiator) (x : Bool) (v : W32), Safety.Accepted s i (Reg.PSLP_CTL (px x)) → 
      exec (.pslPortRetrain i x v) s = .next (pslPortCtl (respOk s 0) x (w32 v))) ∧
  (∀ (s : State) (x : Bool) (u : State), pslOn s = true → ppState s x = 1 → u = setPp (ppGoto s x 2) x { getPp s x with good := s.time } → 
      exec (.pslAlignDone x) s = .next (frameOut u x (pslWord 1 (pslAddr u) 0x7F 0 0 0) 0 (leBytes 8 u.serial.toNat ++ leBytes 1 (identState u x)))) ∧
  (∀ (s : State) (x : Bool) (serial : Word) (addr : Option (BitVec 6)) (count : Option (BitVec 7)), pslOn s = true → (decide (2 ≤ ppState s x)) = true → 
      exec (.pslIdent x serial addr count) s = .next (identRun s x serial (addr.map BitVec.toNat) (count.map BitVec.toNat))) ∧
  (∀ (s : State) (x : Bool) (t1 t2 t3 t4 : Word), pslOn s = true → (decide (3 ≤ ppState s x)) = true → 
      exec (.pslCal x t1 t2 t3 t4) s = .next (calRun s x t1.toNat t2.toNat t3.toNat t4.toNat)) ∧
  (∀ (s : State) (x : Bool), ppUp s x = true → 
      exec (.pslCalibrate x) s = .next (frameOut s x (pslWord 2 (pslAddr s) 0x7F 0 0 0) 0 (leBytes 8 s.time))) ∧
  (∀ (s : State) (x : Bool), pslOn s = true → (decide (2 ≤ ppState s x)) = true → (decide ((getPp s x).good + 10000 ≤ s.time)) = true → 
      exec (.pslPortTimeout x) s = .next (ppAlign (ppDown s x) x)) ∧
  (∀ (s : State) , pslOn s = true → s.time % 1000 = 0 → 
      exec .pslTimeSample s = .next ((upto 16).foldl (fun t i => if !rb t (Reg.PSL_TBTX i) 31 then t else
      [false, true].foldl (fun u x => if ppUp u x then
        frameOut u x (pslWord 3 (pslAddr u) 0x7F 0 i 0) 0 (timePayload u (rf u (Reg.PSL_TBTX i) 0 4)) else u) t) s)) ∧
  (∀ (s : State) (x : Bool) (f : PslFrame) (inside : Nat), ppUp s x = true → frameBad f = false → 
      exec (.pslTimeFrame x f inside) s = .next (timeFrame (frameTake s x f) x f inside)) ∧
  (∀ (s : State) (x : Bool) (f : PslFrame) (inside : Nat), ppUp s x = true → frameBad f = true → 
      exec (.pslTimeFrame x f inside) s = .next (frameDiscard s x f)) ∧
  (∀ (s : State) (x : Bool) (idx : Fin 16) (e : Nat × Nat × Nat), pslOn s = true → (getPp s x).samples.get? idx.val = some e → ¬ s.time < e.1 + 2000 → 
      exec (.pslSampleAge x idx) s = .next (tbrxShow (setPp s x { getPp s x with samples := (getPp s x).samples.drop (· == idx.val) }) idx)) ∧
  (∀ (s : State) (x : Bool) (f : PslFrame), ppUp s x = true → (fld f.word 0 3 == 4 || fld f.word 0 3 == 5) = true → 
      exec (.pslMessageFrame x f) s = .next (messageFrame s x f)) ∧
  (∀ (s : State) (k : Fin 8), pslOn s = true → pslValid s = true → txTurn s k = true → 
      exec (.pslMessageSend k) s = .next (messageSend s k)) ∧
  (∀ (s : State) (x : Bool) (f : PslFrame), pslOn s = true → 2 ≤ ppState s x → frameBad f = false → 
      exec (.pslIdleFrame x f) s = .next (pslDrain (frameTake s x f) (frameTake s x f).psl.staging.length)) ∧
  (∀ (s : State) (x : Bool) (f : PslFrame), pslOn s = true → 2 ≤ ppState s x → frameBad f = true → 
      exec (.pslIdleFrame x f) s = .next (frameDiscard s x f)) ∧
  (∀ (s : State) (x : Bool) (hseq : BitVec 9) (rest : List (Nat × PslFrame)), ppUp s x = true → (rest = (if (getPp s x).replay.any fun e => e.1 == hseq.toNat then (getPp s x).replay.dropWhile fun e => e.1 != hseq.toNat else (getPp s x).replay)) → 
      exec (.pslReplay x hseq) s = .next (rest.foldl (fun t e => frameOut t x e.2.word e.1 e.2.payload) (setPp s x { getPp s x with replay := rest, good := s.time }))) ∧
  (∀ (s : State) (x : Bool) (n : Nat), ppUp s x = true → (getPp s x).asked = some n → n < 8 → 
      exec (.pslReplayTimeout x) s = .next (askReplay s x)) ∧
  (∀ (s : State) (x : Bool) (n : Nat), ppUp s x = true → (getPp s x).asked = some n → ¬ n < 8 → (getPp s x).failed < 3 → 
      exec (.pslReplayTimeout x) s = .next (ppAlign (setPp s x { getPp s x with failed := (getPp s x).failed + 1, asked := none }) x)) ∧
  (∀ (s : State) (x : Bool) (n : Nat), ppUp s x = true → (getPp s x).asked = some n → ¬ n < 8 → 3 ≤ (getPp s x).failed → 
      exec (.pslReplayTimeout x) s = .next (ppDown s x))

/-- The commands of 18.1 and 18.2. -/
def Obligations.PowerAndHoldUpCommandsComplete : Prop :=
  (∀ (s : State) (i : Initiator) (v : W32) (u : State), Safety.AcceptedM0 s i (Reg.PWR_ENVELOPE) → envelopeEffect (respOk s 0) (w32 v) = some u → 
      exec (.pwrEnvelopeWrite i v) s = .next u) ∧
  (∀ (s : State) (i : Initiator) (v : W32) (u : State), Safety.AcceptedM0 s i (Reg.PWR_EMISSION) → emissionEffect (respOk s 0) (w32 v) = some u → 
      exec (.pwrEmissionWrite i v) s = .next u) ∧
  (∀ (s : State) , s.pwr.emisFrom.isSome = true → 
      exec .pwrEmissionDone s = .next (emissionDone s)) ∧
  (∀ (s : State) (power : Nat) (t : State), t = powerTake s power → ¬ 98 * envelopeW t * powerCnt t < 100 * powerSum t → 
      exec (.pwrSample power) s = .next (t)) ∧
  (∀ (s : State) (power d : Nat) (t : State), t = powerTake s power → 98 * envelopeW t * powerCnt t < 100 * powerSum t → (((clusters t).reverse.find? fun d => clkFloor t < clkCur t d) = some d) → 
      exec (.pwrSample power) s = .next (setClk t d (clkCur t d - 1))) ∧
  (∀ (s : State) (d : Nat), s.pwr.powers.isEmpty = false → 100 * powerSum s ≤ 95 * envelopeW s * powerCnt s → pfwActive s = false → (((clusters s).find? fun d => clkCur s d < clkUpper s d) = some d) → 
      exec .pwrEvaluate s = .next (setClk s d (clkCur s d + 1))) ∧
  (∀ (s : State) , s.pwr.powers.isEmpty = false → ¬ 100 * powerSum s ≤ 95 * envelopeW s * powerCnt s → (((clusters s).all (fun d => clkCur s d ≤ clkFloor s) && envelopeW s * powerCnt s < powerSum s) = true) → 
      exec .pwrEvaluate s = .next (raiseCond (wb s Reg.PWR_STATUS 0 true) .pwr 0 0 0)) ∧
  (∀ (s : State) (i : Initiator) (d : BitVec 6) (u : State), Safety.AcceptedM0 s i (Reg.PWR_DOMCMD) → domCmdEffect (respOk s 0) (BitVec.ofNat 64 (d.toNat + 256)) = some u → 
      exec (.pwrDomainOn i d) s = .next u) ∧
  (∀ (s : State) (i : Initiator) (d : BitVec 6) (u : State), Safety.AcceptedM0 s i (Reg.PWR_DOMCMD) → domCmdEffect (respOk s 0) (BitVec.ofNat 64 (d.toNat + 512)) = some u → 
      exec (.pwrDomainOff i d) s = .next u) ∧
  (∀ (s : State) (d : Nat) (u : State), s.pwr.op = some (d, true) → isCluster d = true → u = domstat { s with pwr := { s.pwr with op := none } } d false → domSt u d = 2 → 
      exec .domainDone s = .next (raiseCond (clusterOn (setDom u d 3) d) .pwr 0 0 1)) ∧
  (∀ (s : State) (d : Nat) (u : State), s.pwr.op = some (d, true) → isCluster d = false → ¬ (d < 36 ∧ linkState s (d / 3) = 1) → u = domstat { s with pwr := { s.pwr with op := none } } d false → domSt u d = 2 → 
      exec .domainDone s = .next (raiseCond (if d = 46 then gpeForceAnew (setDom u d 3) else setDom u d 3) .pwr 0 0 1)) ∧
  (∀ (s : State) (d : Nat), s.pwr.op = some (d, false) → isCluster d = true → 
      exec .pwrDomainOffDone s = .next (clusterOff (domstat { s with pwr := { s.pwr with op := none } } d false) d)) ∧
  (∀ (s : State) (d : Nat) (u : State), s.pwr.op = some (d, false) → isCluster d = false → d < 36 → u = setDom (homesEmpty (clusterOff (clusterOff (domstat { s with pwr := { s.pwr with op := none } } d false) (d - 2)) (d - 1)) (d / 3)) d 0 → 
      exec .pwrDomainOffDone s = .next (facetInit (markAbsent (linkFall u (d / 3)) (d / 3)) d)) ∧
  (∀ (s : State) (d : Nat), s.pwr.op = some (d, false) → isCluster d = false → ¬ d < 36 → 
      exec .pwrDomainOffDone s = .next (focalOff (domstat { s with pwr := { s.pwr with op := none } } d false) d)) ∧
  (∀ (s : State) (code : BitVec 12) (t : State), t = hupTake s code → pfwActive t = false → t.pwr.below < 3 → 
      exec (.hupSample code) s = .next (t)) ∧
  (∀ (s : State) (code : BitVec 12) (t : State), t = hupTake s code → pfwActive t = false → 3 ≤ t.pwr.below → 
      exec (.hupSample code) s = .next (pfwSet { t with pwr := { t.pwr with above := 0 } } true)) ∧
  (∀ (s : State) (code : BitVec 12) (t : State), t = hupTake s code → pfwActive t = true → 100 ≤ t.pwr.above → 
      exec (.hupSample code) s = .next (pfwSet { t with pwr := { t.pwr with below := 0 } } false)) ∧
  (∀ (s : State) (code : BitVec 12) (t : State), t = hupTake s code → pfwActive t = true → t.pwr.above < 100 → 
      exec (.hupSample code) s = .next (t))

/-- The commands of 18.3. What a request leads to after it is taken is jrnCheck. -/
def Obligations.JournalCommandsComplete : Prop :=
  (∀ (s : State) (l : List Byte) (t : State), s.jrn.cpls = [] → jrnIdle s = true → hwDeq s (rf s Reg.JRN_REQRING 0 13) = (some (l, false, t), s) → 
      exec .jrnRequest s = .next (jrnCheck t l)) ∧
  (∀ (s : State) (r : JrnRun), s.jrn.run = some r → r.nvme = false → ¬ s.time < r.since + 1000 * (r.body.length / 32) → 
      exec .jrnMarkerWrite s = .next (jrnEnd (jrnTail (jrnAdvance (jrnWrite (jrnWrite s r.at_ r.body) (r.at_ + r.body.length) r.marker) (r.body.length + 32))) r 0)) ∧
  (∀ (s : State) (r : JrnRun), s.jrn.run = some r → r.nvme = true → r.last = false → 
      exec (.jrnNvmeCompletion true) s = .next (nvmeWrite s r.marker true)) ∧
  (∀ (s : State) (r : JrnRun), s.jrn.run = some r → r.nvme = true → r.last = true → 
      exec (.jrnNvmeCompletion true) s = .next (jrnEnd s r 0)) ∧
  (∀ (s : State) (r : JrnRun), s.jrn.run = some r → r.nvme = true → 
      exec (.jrnNvmeCompletion false) s = .next (jrnEnd s r 4)) ∧
  (∀ (s : State) (r : JrnRun), s.jrn.run = some r → r.nvme = true → r.since + 10000000 ≤ s.time → 
      exec .jrnNvmeTimeout s = .next (jrnEnd s r 4)) ∧
  (∀ (s : State) (b : Nat), rb s Reg.JRN_CTL 0 = true → rb s Reg.JRN_STATUS 1 = false → s.jrn.erasing.isSome = false → s.jrn.ahead < 3 → pfwActive s = false → b = (rf s Reg.JRN_WPTR 0 32 / 65536 + s.jrn.ahead) % 512 → 
      exec .jrnErase s = .next (jrnTail { s with jrn := { s.jrn with erasing := some b, recs := s.jrn.recs.filter fun r => !recTouches b r } })) ∧
  (∀ (s : State) (b : Nat), s.jrn.erasing = some b → 
      exec .jrnEraseDone s = .next (eraseBlock { s with jrn := { s.jrn with erasing := none, ahead := s.jrn.ahead + 1 } } b)) ∧
  (∀ (s : State) (i : Initiator) (v : W32) (u : State), Safety.Accepted s i (Reg.JRN_CTL) → jrnCtlEffect (respOk s 0) (w32 v) = some u → 
      exec (.jrnScan i v) s = .next u) ∧
  (∀ (s : State) , rb s Reg.JRN_STATUS 1 = true → 
      exec .jrnScanDone s = .next (jrnResume s))

/-- The commands of 18.4 and the pins of chapter 21. -/
def Obligations.ResetCommandsComplete : Prop :=
  (∀ (s : State) , 
      exec .powerOnReset s = .next (resetAll (jrnTear s))) ∧
  (∀ (s : State) , s.pwr.por = true → 
      exec .powerOnResetEnd s = .next (trainLinks { s with time := 0, pwr := { s.pwr with por := false } })) ∧
  (∀ (s : State) , s.pwr.por = false → 
      exec .prst s = .next ({ s with pwr := { s.pwr with causes := if s.pwr.causes.contains 1 then s.pwr.causes else s.pwr.causes ++ [1] } })) ∧
  (∀ (s : State) , s.pwr.por = false → 
      exec .vinCoreLow s = .next ({ s with pwr := { s.pwr with causes := if s.pwr.causes.contains 3 then s.pwr.causes else s.pwr.causes ++ [3] } })) ∧
  (∀ (s : State) (u : State), s.pwr.por = false → s.smg.rstOwed = true → u = { s with smg := { s.smg with rstOwed := false } } → 
      exec .wdExpiryReset s = .next ({ u with pwr := { u.pwr with causes := if u.pwr.causes.contains 2 then u.pwr.causes else u.pwr.causes ++ [2] } })) ∧
  (∀ (s : State) (i : Initiator)  (u : State), Safety.AcceptedM0 s i (Reg.PWR_CTL) → pwrCtlEffect (respOk s 0) (BitVec.ofNat 64 (1 + 2 ^ 8 * rf (respOk s 0) Reg.PWR_CTL 8 1)) = some u → 
      exec (.pkgrst i) s = .next u) ∧
  (∀ (s : State) (i : Initiator) (site : BitVec 4) (u : State), Safety.AcceptedM0 s i (Reg.PWR_CTL) → pwrCtlEffect (respOk s 0) (BitVec.ofNat 64 (2 + 4 * site.toNat + 2 ^ 8 * rf (respOk s 0) Reg.PWR_CTL 8 1)) = some u → 
      exec (.dierst i site) s = .next u) ∧
  (∀ (s : State) , s.pwr.por = false → s.pwr.causes.isEmpty = false → s.pwr.inReset = false → (s.jrn.run.isSome && !s.pwr.causes.contains 3) = false → 
      exec .packageReset s = .next (packageInit (jrnTear s))) ∧
  (∀ (s : State) , s.pwr.por = false → s.pwr.causes.isEmpty = false → s.pwr.inReset = true → 
      exec .packageReset s = .next (wr { s with pwr := { s.pwr with causes := [] } } Reg.PWR_RSTCAUSE (BitVec.ofNat 64 (rf s Reg.PWR_RSTCAUSE 0 5 ||| causeBits s.pwr.causes)))) ∧
  (∀ (s : State) , s.pwr.inReset = true → s.pwr.causes.isEmpty = true → 
      exec .packageResetEnd s = .next (trainLinks { s with pwr := { s.pwr with inReset := false } })) ∧
  (∀ (s : State) , 
      exec .debugReset s = .next ({ s with dbg := { s.dbg with irs := [], drive := [] } })) ∧
  (∀ (s : State) , 
      exec .thermtrip s = .next ({ s with pwr := { s.pwr with therm := true } }))

/-- The commands of chapter 19. -/
def Obligations.BootAndSecurityCommandsComplete : Prop :=
  (∀ (s : State) (flash : Option (List Byte)) (t : State), s.ammin.isNone = false → (getCore s 384).running = false → rb s Reg.BSE_STATUS 19 = false → s.bse.waits = false → t = romStart s → s.life ≠ 4 → 
      exec (.bootRom flash) s = .next (bootSlots { t with bse := { t.bse with maint := mntOk t } } flash
        [activeSlot { t with bse := { t.bse with maint := mntOk t } }, 1 - activeSlot { t with bse := { t.bse with maint := mntOk t } }])) ∧
  (∀ (s : State) (flash : Option (List Byte)) (t : State), s.ammin.isNone = false → (getCore s 384).running = false → rb s Reg.BSE_STATUS 19 = false → s.bse.waits = false → t = romStart s → s.life = 4 → 
      exec (.bootRom flash) s = .next (bootHalt t)) ∧
  (∀ (s : State) (i : Initiator)  (u : State), Safety.AcceptedM0 s i (Reg.BSE_CMD) → bseCmdEffect (respOk s 0) (BitVec.ofNat 64 1) = some u → 
      exec (.provision i) s = .next u) ∧
  (∀ (s : State) (i : Initiator)  (u : State), Safety.AcceptedM0 s i (Reg.BSE_CMD) → bseCmdEffect (respOk s 0) (BitVec.ofNat 64 2) = some u → 
      exec (.lock i) s = .next u) ∧
  (∀ (s : State) (i : Initiator)  (u : State), Safety.AcceptedM0 s i (Reg.BSE_CMD) → bseCmdEffect (respOk s 0) (BitVec.ofNat 64 3) = some u → 
      exec (.enroll i) s = .next u) ∧
  (∀ (s : State) (i : Initiator)  (u : State), Safety.AcceptedM0 s i (Reg.BSE_CMD) → bseCmdEffect (respOk s 0) (BitVec.ofNat 64 4) = some u → 
      exec (.keyop i) s = .next u) ∧
  (∀ (s : State) (i : Initiator)  (u : State), Safety.AcceptedM0 s i (Reg.BSE_CMD) → bseCmdEffect (respOk s 0) (BitVec.ofNat 64 5) = some u → 
      exec (.advance i) s = .next u) ∧
  (∀ (s : State) (i : Initiator)  (u : State), Safety.AcceptedM0 s i (Reg.BSE_CMD) → bseCmdEffect (respOk s 0) (BitVec.ofNat 64 6) = some u → 
      exec (.install i) s = .next u) ∧
  (∀ (s : State) (i : Initiator)  (u : State), Safety.AcceptedM0 s i (Reg.BSE_CMD) → bseCmdEffect (respOk s 0) (BitVec.ofNat 64 7) = some u → 
      exec (.activate i) s = .next u) ∧
  (∀ (s : State) (i : Initiator)  (u : State), Safety.AcceptedM0 s i (Reg.BSE_CMD) → bseCmdEffect (respOk s 0) (BitVec.ofNat 64 8) = some u → 
      exec (.loadmc i) s = .next u) ∧
  (∀ (s : State) (i : Initiator)  (u : State), Safety.AcceptedM0 s i (Reg.BSE_CMD) → bseCmdEffect (respOk s 0) (BitVec.ofNat 64 9) = some u → 
      exec (.nopatch i) s = .next u) ∧
  (∀ (s : State) (i : Initiator)  (u : State), Safety.AcceptedM0 s i (Reg.BSE_CMD) → bseCmdEffect (respOk s 0) (BitVec.ofNat 64 10) = some u → 
      exec (.verifyMc i) s = .next u) ∧
  (∀ (s : State) (i : Initiator)  (u : State), Safety.AcceptedM0 s i (Reg.BSE_CMD) → bseCmdEffect (respOk s 0) (BitVec.ofNat 64 11) = some u → 
      exec (.handover i) s = .next u) ∧
  (∀ (s : State) (i : Initiator) (p : Part) (u : State), Safety.Accepted s i (Reg.BSEP_CMD p) → bsePartEffect (respOk s 0) p (BitVec.ofNat 64 1) = some u → 
      exec (.verify i p) s = .next u) ∧
  (∀ (s : State) (i : Initiator) (p : Part) (u : State), Safety.Accepted s i (Reg.BSEP_CMD p) → bsePartEffect (respOk s 0) p (BitVec.ofNat 64 2) = some u → 
      exec (.reportAttest i p) s = .next u) ∧
  (∀ (s : State) (i : Initiator) (p : Part) (u : State), Safety.Accepted s i (Reg.BSEP_CMD p) → bsePartEffect (respOk s 0) p (BitVec.ofNat 64 3) = some u → 
      exec (.chain i p) s = .next u) ∧
  (∀ (s : State) (m : BseCmd) (rest : List BseCmd), s.bse.queue = m :: rest → m.page = 0 → 
      exec .bseCommandDone s = .next (bseNext (bseEnd (bsePage0 s m).1 m.page (bsePage0 s m).2))) ∧
  (∀ (s : State) (m : BseCmd) (rest : List BseCmd), s.bse.queue = m :: rest → m.page ≠ 0 → m.page ≤ 64 → 
      exec .bseCommandDone s = .next (bseNext (bseEnd (bseService s m).1 m.page (bseService s m).2))) ∧
  (∀ (s : State) (i : Initiator)  (u : State), Safety.Accepted s i (Reg.BSE_RCV_CTL) → rcvEffect (respOk s 0) i 1 = some u → 
      exec (.rcvOpen i) s = .next u) ∧
  (∀ (s : State) (i : Initiator) (count : BitVec 16) (u : State), Safety.Accepted s i (Reg.BSE_RCV_CTL) → rcvEffect (respOk s 0) i (BitVec.ofNat 64 (2 + 65536 * count.toNat)) = some u → 
      exec (.rcvPush i count) s = .next u) ∧
  (∀ (s : State) (i : Initiator)  (u : State), Safety.Accepted s i (Reg.BSE_RCV_CTL) → rcvEffect (respOk s 0) i 4 = some u → 
      exec (.rcvDone i) s = .next u) ∧
  (∀ (s : State) (i : Initiator)  (u : State), Safety.Accepted s i (Reg.BSE_RCV_CTL) → rcvEffect (respOk s 0) i 8 = some u → 
      exec (.rcvClose i) s = .next u)

/-- The commands of 20.1 to 20.4 and 20.6. -/
def Obligations.DebugCommandsComplete : Prop :=
  (∀ (s : State) (codes : List Byte) (l : List (Nat × Nat)) (t : Tbl Nat), l = (chainSites s).zip (codes.map BitVec.toNat) → bscanOk s = true → (t = l.foldl (fun (t : Tbl Nat) e => t.set e.1 (irOf e.1 e.2)) s.dbg.irs) → 
      exec (.scanIrUpdate codes) s = .next ({ s with dbg := { s.dbg with irs := t, drive := if l.any (fun e => e.2 == 0x00 || e.2 == 0x02) then s.dbg.cells.drop (fun n => t.get 0xFF n != 0x00 && t.get 0xFF n != 0x02) else [] } })) ∧
  (∀ (s : State) (codes : List Byte) (l : List (Nat × Nat)) (t : Tbl Nat), l = (chainSites s).zip (codes.map BitVec.toNat) → bscanOk s = false → (t = l.foldl (fun (t : Tbl Nat) e => t.set e.1 (if irDrives (irOf e.1 e.2) then 0xFF else irOf e.1 e.2)) s.dbg.irs) → ((l.any fun e => irDrives (irOf e.1 e.2)) = false) → 
      exec (.scanIrUpdate codes) s = .next ({ s with dbg := { s.dbg with irs := t, drive := [] } })) ∧
  (∀ (s : State) (v : BitVec 14), 
      exec (.dieselUpdate v) s = .next ({ s with dbg := { s.dbg with diesel := v.toNat ||| 0x1000 } })) ∧
  (∀ (s : State) (cells : List Bool), (scanLoads s cells 0x00).isEmpty = false → bscanOk s = true → 
      exec (.boundaryRegisterUpdate cells) s = .next ({ s with dbg := { s.dbg with cells := loadCells (loadCells s.dbg.cells (scanLoads s cells 0x01)) (scanLoads s cells 0x00), drive := loadCells s.dbg.drive (scanLoads s cells 0x00) } })) ∧
  (∀ (s : State) (cells : List Bool), (scanLoads s cells 0x00).isEmpty = true → 
      exec (.boundaryRegisterUpdate cells) s = .next ({ s with dbg := { s.dbg with cells := loadCells s.dbg.cells (scanLoads s cells 0x01) } })) ∧
  (∀ (s : State) (v : BitVec 80) (t : State), (v.toNat % 2 == 1) = true → scanWrite s (v.toNat / 2 % 2 ^ 11) (v.toNat / 2 ^ 16) = some t → 
      exec (.dbgaccUpdate v) s = .next ({ t with dbg := { t.dbg with done := true, err := false } })) ∧
  (∀ (s : State) (v : BitVec 80) (t : State) (w : Word), (v.toNat % 2 == 1) = false → scanRead s (v.toNat / 2 % 2 ^ 11) = some (t, w) → 
      exec (.dbgaccUpdate v) s = .next ({ t with dbg := { t.dbg with done := true, err := false, data := w }, sent := .jtag w })) ∧
  (∀ (s : State) (v : Word) (t : State), scanWrite s 0x001 v.toNat = some t → 
      exec (.authReq v) s = .next ({ t with dbg := { t.dbg with done := true, err := false } })) ∧
  (∀ (s : State) , 
      exec .authGo s = .next ((let t := authSubmit s; { t with dbg := { t.dbg with done := true, err := false } }))) ∧
  (∀ (s : State) (p : Part), 
      exec (.scanRevoke p) s = .next ((let t := revokeNow s p.val; { t with dbg := { t.dbg with done := true, err := false } }))) ∧
  (∀ (s : State)  (t : State), scanWrite s 0x051 1 = some t → 
      exec .stop s = .next ({ t with dbg := { t.dbg with done := true, err := false } })) ∧
  (∀ (s : State)  (t : State), scanWrite s 0x051 2 = some t → 
      exec .stopPart s = .next ({ t with dbg := { t.dbg with done := true, err := false } })) ∧
  (∀ (s : State)  (t : State), scanWrite s 0x051 3 = some t → 
      exec .run s = .next ({ t with dbg := { t.dbg with done := true, err := false } })) ∧
  (∀ (s : State) (v : Word) (t : State), scanWrite s 0x053 v.toNat = some t → 
      exec (.mbxIn v) s = .next ({ t with dbg := { t.dbg with done := true, err := false } })) ∧
  (∀ (s : State) (t : State) (w : Word), scanRead s 0x054 = some (t, w) → 
      exec .mbxOut s = .next ({ t with dbg := { t.dbg with done := true, err := false, data := w }, sent := .jtag w })) ∧
  (∀ (s : State) (t : State) (w : Word), scanRead s 0x061 = some (t, w) → 
      exec .traceData s = .next ({ t with dbg := { t.dbg with done := true, err := false, data := w }, sent := .jtag w })) ∧
  (∀ (s : State) (m : BseCmd) (rest : List BseCmd) (u : State), s.bse.queue = m :: rest → 64 < m.page → u = { s with dbg := { s.dbg with auth := 3, result := authResult s m } } → 
      exec .authVerifyDone s = .next (bseNext (if authResult s m = 0 then setGrants u m.arg m.hash m.src else u))) ∧
  (∀ (s : State) (m : BseCmd) (rest : List BseCmd) (u : State), s.bse.queue = m :: rest → 64 < m.page → u = { s with dbg := { s.dbg with auth := 3, result := authResult s m } } → authResult s m ≠ 0 → 
      exec .authVerifyDone s = .next (bseNext u)) ∧
  (∀ (s : State) (i : Initiator) (v : W32), Safety.AcceptedM0 s i (Reg.DBG_REVOKE) → 
      exec (.dbgRevoke i v) s = .next (dbgRevokeEffect (respOk s 0) (w32 v))) ∧
  (∀ (s : State) (i : Initiator) (c : CoreId), Safety.Accepted s i (Reg.CDBG_MBXIN c) → 
      exec (.coreMbxRead i c) s = .next (mbxinRead s c)) ∧
  (∀ (s : State) (i : Initiator) (c : CoreId) (v : Word) (u : State), Safety.Accepted s i (Reg.CDBG_MBXOUT c) ∧ isM s i = true → mbxoutEffect (respOk s 0) c v = some u → 
      exec (.coreMbxWrite i c v) s = .next u) ∧
  (∀ (s : State) (c : CoreId), dbgCanEnter s c = true → 
      exec (.debugEntry c) s = .next (dbgEnter s c)) ∧
  (∀ (s : State) (p : Part) (u v : State), ¬ (rf s (Reg.DBGP_WDPERIOD p) 0 32 = 0 ∨ rf s (Reg.DBGP_WDLEFT p) 0 32 ≠ 0 ∨ frozen s .dbg 0 (p + 1)) → u = wb s (Reg.DBGP_WDSTAT p) 0 true → (v = (if rb u (Reg.DBGP_WDSRC p) 15 then raiseSw u (rf u (Reg.DBGP_WDSRC p) 0 10) true true else u)) → 
      exec (.dbgWdExpiry p) s = .next (wdsvcEffect v p)) ∧
  (∀ (s : State) (i : Initiator) (p : Part), Safety.Accepted s i (Reg.DBGP_WDSVC p) ∧ mayServe s i p = true → 
      exec (.wdsvc i p) s = .next (wdsvcEffect (respOk s 0) p)) ∧
  (∀ (s : State) (i : Initiator) (v : W32), Safety.AcceptedM0 s i (Reg.DBG_GFREEZE) → 
      exec (.gfreezeWrite i v) s = .next (gfreezeEffect (respOk s 0) (w32 v))) ∧
  (∀ (s : State) (i : Initiator) (v : Word), Safety.AcceptedM0 s i (Reg.DBG_SNAPTIME) → 
      exec (.snaptimeArm i v) s = .next (snaptimeEffect (respOk s 0) v)) ∧
  (∀ (s : State) (at_ : Nat) (t u : State), s.dbg.armed = some at_ → at_ ≤ s.time → (t = ((upto 388).filter fun c => blockPresent s .core c && !siteAbsent s (coreSite c)).foldl snapCore s) → u = wr t Reg.DBG_SNAPSEQ (BitVec.ofNat 64 ((rf t Reg.DBG_SNAPSEQ 0 32 + 1) % 2 ^ 32)) → 
      exec .counterSnapshot s = .next (raiseCond (wb { u with dbg := { u.dbg with armed := none } } Reg.DBG_STATUS 1 false) .dbg 0 0 0)) ∧
  (∀ (s : State) (c : CoreId) (k : Level), (cntLive s c && bit (rd s (Reg.CNT_CFG c k)) 31 && (rd s (Reg.CNT_CNT c k)).toNat == 2 ^ 48 - 1 && !(k.val % 2 == 1 && bit (rd s (Reg.CNT_CFG c k)) 27)) = true → 
      exec (.counterWrap c k) s = .next (cntAdd s c k 1)) ∧
  (∀ (s : State) (i : Initiator) (p : Part) (v : Word), Safety.Accepted s i (Reg.DBGP_VADDR p) → 
      exec (.dbgViewRequest i p v) s = .next (vaddrEffect (respOk s 0) p v))

/-- The commands of 20.5. -/
def Obligations.LensCommandsComplete : Prop :=
  (∀ (s : State) (i : Initiator) (p : Part) (v : W32) (u : State), Safety.Accepted s i (Reg.LNSP_CTL p) → lnsCtlEffect (respOk s 0) p (w32 v) = some u → 
      exec (.lnsSessionEnable i p v) s = .next u) ∧
  (∀ (s : State) (c : CoreId) (p : Nat), lensOf s c = some p → (lensOn s p c && lensPasses s p c) = true → 
      exec (.lnsSync c) s = .next (lensSync s p c)) ∧
  (∀ (s : State) (c : CoreId) (ty : BitVec 4) (h : Byte) (l : List Byte) (p cls : Nat), lensOf s c = some p → lensClass ty.toNat = some cls → (h.toNat / 16 = ty.toNat && lensOn s p c && mayEmit s p c ty (h :: l)) = true → 
      exec (.lnsPacket c ty (h :: l)) s = .next (lensEmit s p c cls (h :: l))) ∧
  (∀ (s : State) (p : Part) (cls c : Nat) (l : List Byte) (rest : List (Nat × Nat × List Byte)), (getLens s p).staging = (cls, c, l) :: rest → 
      exec (.lnsSinkWrite p) s = .next (lensDrops (sinkPacket (setLens s p { getLens s p with staging := rest }) p c l) p)) ∧
  (∀ (s : State) (i : Initiator) (p : Part), Safety.Accepted s i (Reg.LNSP_RDDATA p) → 
      exec (.lnsRead i p) s = .next (respOk (lensRead s p).1 (lensRead s p).2)) ∧
  (∀ (s : State) (p : Part) (k : Fin 4) (c : CoreId), trigReady s p k c = true → 
      exec (.lnsTrigger p k c) s = .next (lensFire s p k c)) ∧
  (∀ (s : State) (p : Part) (t0 : Nat) (ph : Word) (rev : Bool), (getLens s p).post = some (t0, ph, rev) → postDone s p t0 ph rev = true → 
      exec (.lnsCaptureStop p) s = .next (raiseCond (wb (setLens s p { getLens s p with post := none }) (Reg.LNSP_STATUS p) 1 true) .lns 0 (p + 1) 1))

/-- R403. Both ports reach one array of 256; the port judged is the one through which the access arrives. Where two ports read one FREE semaphore in one cycle, the tie register decides. -/
def Obligations.HardwareSemaphoresAreExclusive : Prop :=
  (∀ (s : State) (port q : Port) (f : Fin 33) (k : Fin 256), cutOff s (.host q f) (portBlock port) 0 = false → (initPart s (.host q f) = 0 ∨ initPart s (.host q f) = semOwner s k) → rf s (Reg.HPAS_HSEM k) 0 2 = 0 → 
      exec (.hsemRead (.host q f) port k false) s = .next (respOk (wr s (Reg.HPAS_HSEM k) (BitVec.ofNat 64 (portNum q + 1))) 1)) ∧
  (∀ (s : State) (port q : Port) (f : Fin 33) (k : Fin 256), cutOff s (.host q f) (portBlock port) 0 = false → (initPart s (.host q f) = 0 ∨ initPart s (.host q f) = semOwner s k) → rf s (Reg.HPAS_HSEM k) 0 2 = portNum q + 1 → 
      exec (.hsemRead (.host q f) port k false) s = .next (respOk s 1)) ∧
  (∀ (s : State) (port q : Port) (f : Fin 33) (k : Fin 256), cutOff s (.host q f) (portBlock port) 0 = false → (initPart s (.host q f) = 0 ∨ initPart s (.host q f) = semOwner s k) → rf s (Reg.HPAS_HSEM k) 0 2 ≠ 0 → rf s (Reg.HPAS_HSEM k) 0 2 ≠ portNum q + 1 → 
      exec (.hsemRead (.host q f) port k false) s = .next (respOk s 0)) ∧
  (∀ (s : State) (port q : Port) (f : Fin 33) (k : Fin 256) (both : Bool), cutOff s (.host q f) (portBlock port) 0 = false → initPart s (.host q f) ≠ 0 → initPart s (.host q f) ≠ semOwner s k → 
      exec (.hsemRead (.host q f) port k both) s = .next (respOk (recordPageErr s (.host q f) (hsemReg port k) cNOT_OWNER) 0)) ∧
  (∀ (s : State) (port q : Port) (f : Fin 33) (k : Fin 256), cutOff s (.host q f) (portBlock port) 0 = false → rf s (Reg.HPAS_HSEM k) 0 2 = portNum q + 1 → ready s (portBlock port) 0 = true → 
      exec (.hsemWrite (.host q f) port k 0) s = .next (respOk (wr s (Reg.HPAS_HSEM k) 0) 0)) ∧
  (∀ (s : State) (port q : Port) (f : Fin 33) (k : Fin 256), cutOff s (.host q f) (portBlock port) 0 = false → rf s (Reg.HPAS_HSEM k) 0 2 ≠ 0 → rf s (Reg.HPAS_HSEM k) 0 2 ≠ portNum q + 1 → ready s (portBlock port) 0 = true → 
      exec (.hsemWrite (.host q f) port k 0) s = .next (respOk (recordPageErr s (.host q f) (hsemReg port k) cSEM_NOT_HELD) 0)) ∧
  (∀ (s : State) (port q : Port) (f : Fin 33) (k : Fin 256) (v : W32), cutOff s (.host q f) (portBlock port) 0 = false → v ≠ 0 → ready s (portBlock port) 0 = true → 
      exec (.hsemWrite (.host q f) port k v) s = .next (respOk s 0)) ∧
  (∀ (s : State) (i : Initiator) (port : Port) (k : Fin 256) (both : Bool), cutOff s i (portBlock port) 0 = false → semCode i = none → 
      exec (.hsemRead i port k both) s = .next (respOk s (BitVec.ofNat 64 (rf s (Reg.HPAS_HSEM k) 0 2)))) ∧
  (∀ (s : State) (i : Initiator) (port : Port) (k : Fin 256), cutOff s i (portBlock port) 0 = false → semCode i = none → isM0 s i = true → ready s (portBlock port) 0 = true → 
      exec (.hsemWrite i port k 0) s = .next (respOk (wr s (Reg.HPAS_HSEM k) 0) 0)) ∧
  (∀ (s : State) (i : Initiator) (port : Port) (k : Fin 256) (v : W32), cutOff s i (portBlock port) 0 = false → semCode i = none → isM0 s i = false ∨ v ≠ 0 → ready s (portBlock port) 0 = true → 
      exec (.hsemWrite i port k v) s = .next (failAccess s i (hsemReg port k) cPRIVILEGE)) ∧
  (∀ (s : State) (i : Initiator) (port : Port) (k : Fin 256) (v : W32), cutOff s i (portBlock port) 0 = false → ready s (portBlock port) 0 = false → 
      exec (.hsemWrite i port k v) s = .next (failAccess s i (hsemReg port k) cREFUSED)) ∧
  (∀ (s : State) (p : Part) (port : Port) (k : Fin 256), cutOff s (viewIni p) (portBlock port) 0 = false → 
      exec (.debugViewRead p (hsemReg port k) 32) s = .next (respOk s (BitVec.ofNat 64 (rf s (Reg.HPAS_HSEM k) 0 2))))

/-- The second half of R154 for every guarded instruction but the transfers of R198, whose prediction a false guard trains. -/
def Obligations.FalseGuardOnlyRetires : Prop :=
  (∀ (s : State) (c : CoreId) (g : Guard), Safety.CoreSkips s c g → 
      exec (.waite c g) s = .next (retire s c 1 none)) ∧
  (∀ (s : State) (c : CoreId) (g : Guard) (fn : BitVec 7) (rd ra rb : R5), Safety.CoreSkips s c g → (aluLegal fn rb) = true → 
      exec (.intAlu c g fn rd ra rb) s = .next (retire s c 1 none)) ∧
  (∀ (s : State) (c : CoreId) (g : Guard) (rd ra : R5) (imm : BitVec 12), Safety.CoreSkips s c g → 
      exec (.addi c g rd ra imm) s = .next (retire s c 1 none)) ∧
  (∀ (s : State) (c : CoreId) (g : Guard) (rd ra : R5) (imm : BitVec 12), Safety.CoreSkips s c g → 
      exec (.andi c g rd ra imm) s = .next (retire s c 1 none)) ∧
  (∀ (s : State) (c : CoreId) (g : Guard) (rd ra : R5) (imm : BitVec 12), Safety.CoreSkips s c g → 
      exec (.ori c g rd ra imm) s = .next (retire s c 1 none)) ∧
  (∀ (s : State) (c : CoreId) (g : Guard) (rd ra : R5) (imm : BitVec 12), Safety.CoreSkips s c g → 
      exec (.xori c g rd ra imm) s = .next (retire s c 1 none)) ∧
  (∀ (s : State) (c : CoreId) (g : Guard) (rd ra : R5) (imm : BitVec 12), Safety.CoreSkips s c g → (shiLegal imm) = true → 
      exec (.shi c g rd ra imm) s = .next (retire s c 1 none)) ∧
  (∀ (s : State) (c : CoreId) (g : Guard) (pd pn : BitVec 3) (ra rb : R5) (cond : BitVec 4) (imm w : Bool), Safety.CoreSkips s c g → (cmpLegal pd pn cond) = true → 
      exec (.cmp c g pd pn ra rb cond imm w) s = .next (retire s c 1 none)) ∧
  (∀ (s : State) (c : CoreId) (g : Guard) (pd pa pb fn : BitVec 3), Safety.CoreSkips s c g → (fn.toNat < 4 || (fn == 4 && pb == 0)) = true → 
      exec (.predicateOp c g pd pa pb fn) s = .next (retire s c 1 none)) ∧
  (∀ (s : State) (c : CoreId) (g : Guard) (neg : Bool) (ps : BitVec 3) (rd ra rb : R5), Safety.CoreSkips s c g → 
      exec (.sel c g neg ps rd ra rb) s = .next (retire s c 1 none)) ∧
  (∀ (s : State) (c : CoreId) (g : Guard) (neg : Bool) (ps : BitVec 3) (rd ra : R5), Safety.CoreSkips s c g → 
      exec (.cmov c g neg ps rd ra) s = .next (retire s c 1 none)) ∧
  (∀ (s : State) (c : CoreId) (g : Guard) (fn : BitVec 7) (rd ra rb : R5), Safety.CoreSkips s c g → (decide (fn.toNat ≤ 4)) = true → 
      exec (.mul c g fn rd ra rb) s = .next (retire s c 1 none)) ∧
  (∀ (s : State) (c : CoreId) (g : Guard) (fn : BitVec 7) (rd ra rb : R5), Safety.CoreSkips s c g → (decide (fn.toNat % 64 < 4)) = true → 
      exec (.div c g fn rd ra rb) s = .next (retire s c 1 none)) ∧
  (∀ (s : State) (c : CoreId) (g : Guard) (fn : BitVec 7) (rd ra rb : R5), Safety.CoreSkips s c g → (decide (fn.toNat ≤ 9)) = true → 
      exec (.fractionOp c g fn rd ra rb) s = .next (retire s c 1 none)) ∧
  (∀ (s : State) (c : CoreId) (g : Guard) (ac : BitVec 2) (sub clr int : Bool) (ra rb : R5) (form : BitVec 2) (uns : Bool), Safety.CoreSkips s c g → (form != 3 && (int || !uns)) = true → 
      exec (.mac c g ac sub clr int ra rb form uns) s = .next (retire s c 1 none)) ∧
  (∀ (s : State) (c : CoreId) (g : Guard) (rd : R5) (ac : BitVec 2), Safety.CoreSkips s c g → 
      exec (.acrd15 c g rd ac) s = .next (retire s c 1 none)) ∧
  (∀ (s : State) (c : CoreId) (g : Guard) (rd : R5) (ac : BitVec 2), Safety.CoreSkips s c g → 
      exec (.acrd31 c g rd ac) s = .next (retire s c 1 none)) ∧
  (∀ (s : State) (c : CoreId) (g : Guard) (rd : R5) (ac : BitVec 2), Safety.CoreSkips s c g → 
      exec (.acrd63 c g rd ac) s = .next (retire s c 1 none)) ∧
  (∀ (s : State) (c : CoreId) (g : Guard) (rd : R5) (ac : BitVec 2), Safety.CoreSkips s c g → 
      exec (.acrdl c g rd ac) s = .next (retire s c 1 none)) ∧
  (∀ (s : State) (c : CoreId) (g : Guard) (rd : R5) (ac : BitVec 2), Safety.CoreSkips s c g → 
      exec (.acrdg c g rd ac) s = .next (retire s c 1 none)) ∧
  (∀ (s : State) (c : CoreId) (g : Guard) (ra : R5) (ac : BitVec 2), Safety.CoreSkips s c g → 
      exec (.acwr c g ra ac) s = .next (retire s c 1 none)) ∧
  (∀ (s : State) (c : CoreId) (g : Guard) (ra : R5) (ac : BitVec 2), Safety.CoreSkips s c g → 
      exec (.acwrg c g ra ac) s = .next (retire s c 1 none)) ∧
  (∀ (s : State) (c : CoreId) (g : Guard) (ac : BitVec 2) (rb : R5), Safety.CoreSkips s c g → 
      exec (.acsh c g ac rb) s = .next (retire s c 1 none)) ∧
  (∀ (s : State) (c : CoreId) (g : Guard) (ac : BitVec 2) (rb : R5), Safety.CoreSkips s c g → (decide (rb.toNat < 4)) = true → 
      exec (.acadd c g ac rb) s = .next (retire s c 1 none)) ∧
  (∀ (s : State) (c : CoreId) (g : Guard) (ac : BitVec 2), Safety.CoreSkips s c g → 
      exec (.acclr c g ac) s = .next (retire s c 1 none)) ∧
  (∀ (s : State) (c : CoreId) (g : Guard) (ac xg yg : BitVec 2) (xpm ypm : Bool) (form : BitVec 2) (sub int clr uns : Bool), Safety.CoreSkips s c g → (int || !uns) = true → 
      exec (.macx c g ac xg yg xpm ypm form sub int clr uns) s = .next (retire s c 1 none)) ∧
  (∀ (s : State) (c : CoreId) (g : Guard) (size : BitVec 2) (uns : Bool) (rd ra : R5) (off : BitVec 12), Safety.CoreSkips s c g → (!(uns && size == 3)) = true → 
      exec (.load c g size uns rd ra off) s = .next (retire s c 1 none)) ∧
  (∀ (s : State) (c : CoreId) (g : Guard) (size : BitVec 2) (rs ra : R5) (off : BitVec 12), Safety.CoreSkips s c g → 
      exec (.store c g size rs ra off) s = .next (retire s c 1 none)) ∧
  (∀ (s : State) (c : CoreId) (g : Guard) (fn : BitVec 7) (rd ra rb : R5), Safety.CoreSkips s c g → (!fn.toNat.testBit 0 && (!fn.toNat.testBit 3 || (!fn.toNat.testBit 6 && fn.toNat / 16 % 4 != 3))) = true → 
      exec (.ldxStx c g fn rd ra rb) s = .next (retire s c 1 none)) ∧
  (∀ (s : State) (c : CoreId) (g : Guard) (rd : R5) (y : Bool) (gen : BitVec 2) (pm st : Bool) (size : BitVec 2) (uns : Bool), Safety.CoreSkips s c g → (!uns || (!st && size != 3)) = true → 
      exec (.ldtStt c g rd y gen pm st size uns) s = .next (retire s c 1 none)) ∧
  (∀ (s : State) (c : CoreId) (g : Guard) (rd ra rk : R5) (off : BitVec 6), Safety.CoreSkips s c g → (rd != rk) = true → 
      exec (.ldmw c g rd ra rk off) s = .next (retire s c 1 none)) ∧
  (∀ (s : State) (c : CoreId) (g : Guard) (rs ra rk : R5) (off : BitVec 6), Safety.CoreSkips s c g → 
      exec (.stmw c g rs ra rk off) s = .next (retire s c 1 none)) ∧
  (∀ (s : State) (c : CoreId) (g : Guard) (rd ra : R5) (d : Bool), Safety.CoreSkips s c g → 
      exec (.ldl c g rd ra d) s = .next (retire s c 1 none)) ∧
  (∀ (s : State) (c : CoreId) (g : Guard) (rd ra rs : R5) (d : Bool), Safety.CoreSkips s c g → (rd != rs) = true → 
      exec (.stc c g rd ra rs d) s = .next (retire s c 1 none)) ∧
  (∀ (s : State) (c : CoreId) (g : Guard), Safety.CoreSkips s c g → 
      exec (.fenceAcq c g) s = .next (retire s c 1 none)) ∧
  (∀ (s : State) (c : CoreId) (g : Guard), Safety.CoreSkips s c g → 
      exec (.fenceRel c g) s = .next (retire s c 1 none)) ∧
  (∀ (s : State) (c : CoreId) (g : Guard), Safety.CoreSkips s c g → 
      exec (.fenceAll c g) s = .next (retire s c 1 none)) ∧
  (∀ (s : State) (c : CoreId) (g : Guard), Safety.CoreSkips s c g → 
      exec (.ifence c g) s = .next (retire s c 1 none)) ∧
  (∀ (s : State) (c : CoreId) (g : Guard) (lv i : Bool) (cnt : BitVec 10) (cr : R5) (endOff : BitVec 10), Safety.CoreSkips s c g → 
      exec (.loop c g lv i cnt cr endOff) s = .next (retire s c 1 none)) ∧
  (∀ (s : State) (c : CoreId) (g : Guard) (rd : R5) (sr : BitVec 6), Safety.CoreSkips s c g → (srListed sr.toNat) = true → 
      exec (.mfsr c g rd sr) s = .next (retire s c 1 none)) ∧
  (∀ (s : State) (c : CoreId) (g : Guard) (ra : R5) (sr : BitVec 6), Safety.CoreSkips s c g → (srWritable sr.toNat) = true → 
      exec (.mtsr c g ra sr) s = .next (retire s c 1 none)) ∧
  (∀ (s : State) (c : CoreId) (g : Guard), Safety.CoreSkips s c g → 
      exec (.rfe c g) s = .next (retire s c 1 none)) ∧
  (∀ (s : State) (c : CoreId) (g : Guard), Safety.CoreSkips s c g → 
      exec (.wflush c g) s = .next (retire s c 1 none)) ∧
  (∀ (s : State) (c : CoreId) (g : Guard) (arg : BitVec 10), Safety.CoreSkips s c g → 
      exec (.trap c g arg) s = .next (retire s c 1 none)) ∧
  (∀ (s : State) (c : CoreId) (g : Guard) (arg : BitVec 10), Safety.CoreSkips s c g → 
      exec (.brk c g arg) s = .next (retire s c 1 none)) ∧
  (∀ (s : State) (c : CoreId) (g : Guard) (fn : BitVec 7) (fd fa fb : R5), Safety.CoreSkips s c g → (decide (fn.toNat % 64 ≤ 9)) = true → 
      exec (.fpArith c g fn fd fa fb) s = .next (retire s c 1 none)) ∧
  (∀ (s : State) (c : CoreId) (g : Guard) (dbl : Bool) (fd fa fb : R5), Safety.CoreSkips s c g → 
      exec (.fdiv c g dbl fd fa fb) s = .next (retire s c 1 none)) ∧
  (∀ (s : State) (c : CoreId) (g : Guard) (dbl : Bool) (fd fa : R5), Safety.CoreSkips s c g → 
      exec (.fsqrt c g dbl fd fa) s = .next (retire s c 1 none)) ∧
  (∀ (s : State) (c : CoreId) (g : Guard) (fn : BitVec 7) (rd ra : R5), Safety.CoreSkips s c g → (decide (fn.toNat % 64 ≤ 6)) = true → 
      exec (.fcvt c g fn rd ra) s = .next (retire s c 1 none)) ∧
  (∀ (s : State) (c : CoreId) (g : Guard) (form : FmovForm) (rd ra : R5), Safety.CoreSkips s c g → 
      exec (.fmov c g form rd ra) s = .next (retire s c 1 none)) ∧
  (∀ (s : State) (c : CoreId) (g : Guard) (dbl : Bool) (pd : BitVec 3) (rel : BitVec 2) (fa fb : R5), Safety.CoreSkips s c g → 
      exec (.fcmp c g dbl pd rel fa fb) s = .next (retire s c 1 none)) ∧
  (∀ (s : State) (c : CoreId) (g : Guard) (fd ra : R5) (sz : BitVec 2) (off : BitVec 9), Safety.CoreSkips s c g → (sz != 3) = true → 
      exec (.fld c g fd ra sz off) s = .next (retire s c 1 none)) ∧
  (∀ (s : State) (c : CoreId) (g : Guard) (fd ra : R5) (sz : BitVec 2) (off : BitVec 9), Safety.CoreSkips s c g → (sz != 3) = true → 
      exec (.fst c g fd ra sz off) s = .next (retire s c 1 none)) ∧
  (∀ (s : State) (c : CoreId) (g : Guard) (rd : R5) (imm : W32), Safety.CoreSkips s c g → 
      exec (.li c g rd imm) s = .next (retire s c 2 none)) ∧
  (∀ (s : State) (c : CoreId) (g : Guard) (rd : R5) (imm : W32), Safety.CoreSkips s c g → 
      exec (.lih c g rd imm) s = .next (retire s c 2 none)) ∧
  (∀ (s : State) (c : CoreId) (g : Guard) (rd ra : R5) (imm : W32), Safety.CoreSkips s c g → 
      exec (.addw c g rd ra imm) s = .next (retire s c 2 none)) ∧
  (∀ (s : State) (c : CoreId) (g : Guard) (rd ra : R5) (imm : W32), Safety.CoreSkips s c g → 
      exec (.andw c g rd ra imm) s = .next (retire s c 2 none)) ∧
  (∀ (s : State) (c : CoreId) (g : Guard) (rd ra : R5) (imm : W32), Safety.CoreSkips s c g → 
      exec (.orw c g rd ra imm) s = .next (retire s c 2 none)) ∧
  (∀ (s : State) (c : CoreId) (g : Guard) (pd pn : BitVec 3) (ra : R5) (cond : BitVec 4) (w : Bool) (imm : W32), Safety.CoreSkips s c g → (cmpLegal pd pn cond) = true → 
      exec (.cmpw c g pd pn ra cond w imm) s = .next (retire s c 2 none)) ∧
  (∀ (s : State) (c : CoreId) (g : Guard) (n : BitVec 4) (ra : R5), Safety.CoreSkips s c g → (decide (n.toNat < 12)) = true → 
      exec (.pset c g n ra) s = .next (retire s c 1 none)) ∧
  (∀ (s : State) (c : CoreId) (g : Guard) (rd : R5) (n : BitVec 4), Safety.CoreSkips s c g → (decide (n.toNat < 12)) = true → 
      exec (.pget c g rd n) s = .next (retire s c 1 none)) ∧
  (∀ (s : State) (c : CoreId) (g : Guard) (rd : R5), Safety.CoreSkips s c g → 
      exec (.pstat c g rd) s = .next (retire s c 1 none)) ∧
  (∀ (s : State) (c : CoreId) (g : Guard), Safety.CoreSkips s c g → 
      exec (.pwait c g) s = .next (retire s c 1 none)) ∧
  (∀ (s : State) (c : CoreId) (g : Guard), Safety.CoreSkips s c g → 
      exec (.pclr c g) s = .next (retire s c 1 none)) ∧
  (∀ (s : State) (c : CoreId) (g : Guard) (log2n : BitVec 4) (inv q31 scale brev : Bool), Safety.CoreSkips s c g → (decide (3 ≤ log2n.toNat) && decide (log2n.toNat ≤ 12)) = true → 
      exec (.pfft c g log2n inv q31 scale brev) s = .next (retire s c 1 none)) ∧
  (∀ (s : State) (c : CoreId) (g : Guard) (iir q31 : Bool), Safety.CoreSkips s c g → 
      exec (.pfilt c g iir q31) s = .next (retire s c 1 none)) ∧
  (∀ (s : State) (c : CoreId) (g : Guard) (accum : Bool), Safety.CoreSkips s c g → 
      exec (.pmat c g accum) s = .next (retire s c 1 none)) ∧
  (∀ (s : State) (c : CoreId) (g : Guard) (ra : R5), Safety.CoreSkips s c g → 
      exec (.xsaveWrite c g ra) s = .next (retire s c 1 none))

/-- The encodings that Tables 7.4 to 7.16 leave unassigned or require otherwise. -/
def Obligations.UnassignedEncodingsRaiseIllegal : Prop :=
  (∀ (s : State) (c : CoreId) (g : Guard) (fn : BitVec 7) (rd ra rb : R5), Safety.CoreMeets s c → (aluLegal fn rb) = false → 
      exec (.intAlu c g fn rd ra rb) s = .next (raiseFault s c (.plain xILLEGAL 0))) ∧
  (∀ (s : State) (c : CoreId) (g : Guard) (rd ra : R5) (imm : BitVec 12), Safety.CoreMeets s c → (shiLegal imm) = false → 
      exec (.shi c g rd ra imm) s = .next (raiseFault s c (.plain xILLEGAL 0))) ∧
  (∀ (s : State) (c : CoreId) (g : Guard) (pd pn : BitVec 3) (ra rb : R5) (cond : BitVec 4) (imm w : Bool), Safety.CoreMeets s c → (cmpLegal pd pn cond) = false → 
      exec (.cmp c g pd pn ra rb cond imm w) s = .next (raiseFault s c (.plain xILLEGAL 0))) ∧
  (∀ (s : State) (c : CoreId) (g : Guard) (pd pa pb fn : BitVec 3), Safety.CoreMeets s c → (fn.toNat < 4 || (fn == 4 && pb == 0)) = false → 
      exec (.predicateOp c g pd pa pb fn) s = .next (raiseFault s c (.plain xILLEGAL 0))) ∧
  (∀ (s : State) (c : CoreId) (g : Guard) (fn : BitVec 7) (rd ra rb : R5), Safety.CoreMeets s c → (decide (fn.toNat ≤ 4)) = false → 
      exec (.mul c g fn rd ra rb) s = .next (raiseFault s c (.plain xILLEGAL 0))) ∧
  (∀ (s : State) (c : CoreId) (g : Guard) (fn : BitVec 7) (rd ra rb : R5), Safety.CoreMeets s c → (decide (fn.toNat % 64 < 4)) = false → 
      exec (.div c g fn rd ra rb) s = .next (raiseFault s c (.plain xILLEGAL 0))) ∧
  (∀ (s : State) (c : CoreId) (g : Guard) (fn : BitVec 7) (rd ra rb : R5), Safety.CoreMeets s c → (decide (fn.toNat ≤ 9)) = false → 
      exec (.fractionOp c g fn rd ra rb) s = .next (raiseFault s c (.plain xILLEGAL 0))) ∧
  (∀ (s : State) (c : CoreId) (g : Guard) (ac : BitVec 2) (sub clr int : Bool) (ra rb : R5) (form : BitVec 2) (uns : Bool), Safety.CoreMeets s c → (form != 3 && (int || !uns)) = false → 
      exec (.mac c g ac sub clr int ra rb form uns) s = .next (raiseFault s c (.plain xILLEGAL 0))) ∧
  (∀ (s : State) (c : CoreId) (g : Guard) (ac : BitVec 2) (rb : R5), Safety.CoreMeets s c → (decide (rb.toNat < 4)) = false → 
      exec (.acadd c g ac rb) s = .next (raiseFault s c (.plain xILLEGAL 0))) ∧
  (∀ (s : State) (c : CoreId) (g : Guard) (ac xg yg : BitVec 2) (xpm ypm : Bool) (form : BitVec 2) (sub int clr uns : Bool), Safety.CoreMeets s c → (int || !uns) = false → 
      exec (.macx c g ac xg yg xpm ypm form sub int clr uns) s = .next (raiseFault s c (.plain xILLEGAL 0))) ∧
  (∀ (s : State) (c : CoreId) (g : Guard) (size : BitVec 2) (uns : Bool) (rd ra : R5) (off : BitVec 12), Safety.CoreMeets s c → (!(uns && size == 3)) = false → 
      exec (.load c g size uns rd ra off) s = .next (raiseFault s c (.plain xILLEGAL 0))) ∧
  (∀ (s : State) (c : CoreId) (g : Guard) (fn : BitVec 7) (rd ra rb : R5), Safety.CoreMeets s c → (!fn.toNat.testBit 0 && (!fn.toNat.testBit 3 || (!fn.toNat.testBit 6 && fn.toNat / 16 % 4 != 3))) = false → 
      exec (.ldxStx c g fn rd ra rb) s = .next (raiseFault s c (.plain xILLEGAL 0))) ∧
  (∀ (s : State) (c : CoreId) (g : Guard) (rd : R5) (y : Bool) (gen : BitVec 2) (pm st : Bool) (size : BitVec 2) (uns : Bool), Safety.CoreMeets s c → (!uns || (!st && size != 3)) = false → 
      exec (.ldtStt c g rd y gen pm st size uns) s = .next (raiseFault s c (.plain xILLEGAL 0))) ∧
  (∀ (s : State) (c : CoreId) (g : Guard) (rd ra rk : R5) (off : BitVec 6), Safety.CoreMeets s c → (rd != rk) = false → 
      exec (.ldmw c g rd ra rk off) s = .next (raiseFault s c (.plain xILLEGAL 0))) ∧
  (∀ (s : State) (c : CoreId) (g : Guard) (rd ra rs : R5) (d : Bool), Safety.CoreMeets s c → (rd != rs) = false → 
      exec (.stc c g rd ra rs d) s = .next (raiseFault s c (.plain xILLEGAL 0))) ∧
  (∀ (s : State) (c : CoreId) (g : Guard) (rd : R5) (sr : BitVec 6), Safety.CoreMeets s c → (srListed sr.toNat) = false → 
      exec (.mfsr c g rd sr) s = .next (raiseFault s c (.plain xILLEGAL 0))) ∧
  (∀ (s : State) (c : CoreId) (g : Guard) (ra : R5) (sr : BitVec 6), Safety.CoreMeets s c → (srWritable sr.toNat) = false → 
      exec (.mtsr c g ra sr) s = .next (raiseFault s c (.plain xILLEGAL 0))) ∧
  (∀ (s : State) (c : CoreId) (g : Guard) (fn : BitVec 7) (fd fa fb : R5), Safety.CoreMeets s c → (decide (fn.toNat % 64 ≤ 9)) = false → 
      exec (.fpArith c g fn fd fa fb) s = .next (raiseFault s c (.plain xILLEGAL 0))) ∧
  (∀ (s : State) (c : CoreId) (g : Guard) (fn : BitVec 7) (rd ra : R5), Safety.CoreMeets s c → (decide (fn.toNat % 64 ≤ 6)) = false → 
      exec (.fcvt c g fn rd ra) s = .next (raiseFault s c (.plain xILLEGAL 0))) ∧
  (∀ (s : State) (c : CoreId) (g : Guard) (fd ra : R5) (sz : BitVec 2) (off : BitVec 9), Safety.CoreMeets s c → (sz != 3) = false → 
      exec (.fld c g fd ra sz off) s = .next (raiseFault s c (.plain xILLEGAL 0))) ∧
  (∀ (s : State) (c : CoreId) (g : Guard) (fd ra : R5) (sz : BitVec 2) (off : BitVec 9), Safety.CoreMeets s c → (sz != 3) = false → 
      exec (.fst c g fd ra sz off) s = .next (raiseFault s c (.plain xILLEGAL 0))) ∧
  (∀ (s : State) (c : CoreId) (g : Guard) (pd pn : BitVec 3) (ra : R5) (cond : BitVec 4) (w : Bool) (imm : W32), Safety.CoreMeets s c → (cmpLegal pd pn cond) = false → 
      exec (.cmpw c g pd pn ra cond w imm) s = .next (raiseFault s c (.plain xILLEGAL 0))) ∧
  (∀ (s : State) (c : CoreId) (g : Guard) (n : BitVec 4) (ra : R5), Safety.CoreMeets s c → (decide (n.toNat < 12)) = false → 
      exec (.pset c g n ra) s = .next (raiseFault s c (.plain xILLEGAL 0))) ∧
  (∀ (s : State) (c : CoreId) (g : Guard) (rd : R5) (n : BitVec 4), Safety.CoreMeets s c → (decide (n.toNat < 12)) = false → 
      exec (.pget c g rd n) s = .next (raiseFault s c (.plain xILLEGAL 0))) ∧
  (∀ (s : State) (c : CoreId) (g : Guard) (log2n : BitVec 4) (inv q31 scale brev : Bool), Safety.CoreMeets s c → (decide (3 ≤ log2n.toNat) && decide (log2n.toNat ≤ 12)) = false → 
      exec (.pfft c g log2n inv q31 scale brev) s = .next (raiseFault s c (.plain xILLEGAL 0)))

/-- The frame of the instructions that only write a general register (R154, R182, R185, R186, R204). The performance counters count the instruction (R492). -/
def Obligations.ComputingInstructionsFrame : Prop :=
  (∀ (s : State) (c : CoreId) (g : Guard) (fn : BitVec 7) (rd ra rb : R5) (t : State), Safety.CoreReady s c g → aluLegal fn rb = true → exec (.intAlu c g fn rd ra rb) s = .next t → 
      Safety.OnlyComputes s t c (some rd)) ∧
  (∀ (s : State) (c : CoreId) (g : Guard) (rd ra : R5) (imm : BitVec 12) (t : State), Safety.CoreReady s c g → exec (.addi c g rd ra imm) s = .next t → 
      Safety.OnlyComputes s t c (some rd)) ∧
  (∀ (s : State) (c : CoreId) (g : Guard) (rd ra : R5) (imm : BitVec 12) (t : State), Safety.CoreReady s c g → exec (.andi c g rd ra imm) s = .next t → 
      Safety.OnlyComputes s t c (some rd)) ∧
  (∀ (s : State) (c : CoreId) (g : Guard) (rd ra : R5) (imm : BitVec 12) (t : State), Safety.CoreReady s c g → exec (.ori c g rd ra imm) s = .next t → 
      Safety.OnlyComputes s t c (some rd)) ∧
  (∀ (s : State) (c : CoreId) (g : Guard) (rd ra : R5) (imm : BitVec 12) (t : State), Safety.CoreReady s c g → exec (.xori c g rd ra imm) s = .next t → 
      Safety.OnlyComputes s t c (some rd)) ∧
  (∀ (s : State) (c : CoreId) (g : Guard) (rd ra : R5) (imm : BitVec 12) (t : State), Safety.CoreReady s c g → shiLegal imm = true → exec (.shi c g rd ra imm) s = .next t → 
      Safety.OnlyComputes s t c (some rd)) ∧
  (∀ (s : State) (c : CoreId) (g : Guard) (neg : Bool) (ps : BitVec 3) (rd ra rb : R5) (t : State), Safety.CoreReady s c g → exec (.sel c g neg ps rd ra rb) s = .next t → 
      Safety.OnlyComputes s t c (some rd)) ∧
  (∀ (s : State) (c : CoreId) (g : Guard) (neg : Bool) (ps : BitVec 3) (rd ra : R5) (t : State), Safety.CoreReady s c g → exec (.cmov c g neg ps rd ra) s = .next t → 
      Safety.OnlyComputes s t c (some rd)) ∧
  (∀ (s : State) (c : CoreId) (g : Guard) (fn : BitVec 7) (rd ra rb : R5) (t : State), Safety.CoreReady s c g → decide (fn.toNat ≤ 4) = true → exec (.mul c g fn rd ra rb) s = .next t → 
      Safety.OnlyComputes s t c (some rd)) ∧
  (∀ (s : State) (c : CoreId) (g : Guard) (fn : BitVec 7) (rd ra rb : R5) (t : State), Safety.CoreReady s c g → decide (fn.toNat % 64 < 4) = true → (uintOf (if 64 ≤ fn.toNat then 32 else 64) (rg s c rb) ≠ 0) → exec (.div c g fn rd ra rb) s = .next t → 
      Safety.OnlyComputes s t c (some rd)) ∧
  (∀ (s : State) (c : CoreId) (g : Guard) (rd : R5) (imm : W32) (t : State), Safety.CoreReady s c g → exec (.li c g rd imm) s = .next t → 
      Safety.OnlyComputes s t c (some rd)) ∧
  (∀ (s : State) (c : CoreId) (g : Guard) (rd : R5) (imm : W32) (t : State), Safety.CoreReady s c g → exec (.lih c g rd imm) s = .next t → 
      Safety.OnlyComputes s t c (some rd)) ∧
  (∀ (s : State) (c : CoreId) (g : Guard) (rd ra : R5) (imm : W32) (t : State), Safety.CoreReady s c g → exec (.addw c g rd ra imm) s = .next t → 
      Safety.OnlyComputes s t c (some rd)) ∧
  (∀ (s : State) (c : CoreId) (g : Guard) (rd ra : R5) (imm : W32) (t : State), Safety.CoreReady s c g → exec (.andw c g rd ra imm) s = .next t → 
      Safety.OnlyComputes s t c (some rd)) ∧
  (∀ (s : State) (c : CoreId) (g : Guard) (rd ra : R5) (imm : W32) (t : State), Safety.CoreReady s c g → exec (.orw c g rd ra imm) s = .next t → 
      Safety.OnlyComputes s t c (some rd))

/-- The memory frame of the storing forms. The stored address is the one the meaning computes: tcmAddr of the generator, and the translation of base plus scaled offset. -/
def Obligations.StoresWriteOnlyTheirBytes : Prop :=
  (∀ (s : State) (c : CoreId) (g : Guard) (rd : R5) (y : Bool) (gen : BitVec 2) (pm : Bool) (size : BitVec 2) (l : List Byte) (t : State), Safety.CoreReady s c g → l = leBytes (sizeBytes size) (rg s c rd).toNat → genOff s c y gen % l.length = 0 → exec (.ldtStt c g rd y gen pm true size false) s = .next t → 
      Safety.WritesOnly s t (tcmAddr c y (genOff s c y gen)) l) ∧
  (∀ (s : State) (c : CoreId) (g : Guard) (size : BitVec 2) (rs ra : R5) (off : BitVec 12) (l : List Byte) (va pa attr : Nat) (u t : State), Safety.CoreReady s c g → l = leBytes (sizeBytes size) (rg s c rs).toNat → va = offAddr (rg s c ra) off l.length → va % l.length = 0 → accessWaits s c (curBank s c).priv .store va l.length = false → (translate s c (curBank s c).priv .store va l.length false).1 = u → (translate s c (curBank s c).priv .store va l.length false).2.toOption = some (pa, attr) → areaOf pa = .dram → wayFault .plain pa attr = none → storeErrc u c pa l.length = none → exec (.store c g size rs ra off) s = .next t → 
      Safety.WritesOnly s t (pa) l)

/-- What the common rules of chapter 2 do with a write they turn away. The order of the checks is log entry 12. -/
def Obligations.RefusedAccessesAreRecorded : Prop :=
  (∀ (s : State) (i : Initiator) (r : RegAddr) (width : Nat) (v : Word), isVaddr r = false → isDataPage r.ty r.inst r.page = false → ¬(r = Reg.EXC_CTL r.inst ∧ bit v 0 = true) → cutOff s i r.ty r.inst = true → 
      exec (.registerWrite i r width v) s = .next (absentAccess s i r)) ∧
  (∀ (s : State) (i : Initiator) (r : RegAddr) (width : Nat) (v : Word), isVaddr r = false → isDataPage r.ty r.inst r.page = false → cutOff s i r.ty r.inst = false → widthOk r width = false → 
      exec (.registerWrite i r width v) s = .next (failAccess s i r cSIZE)) ∧
  (∀ (s : State) (i : Initiator) (r : RegAddr) (width : Nat) (v : Word), isVaddr r = false → isDataPage r.ty r.inst r.page = false → cutOff s i r.ty r.inst = false → widthOk r width = true → isHsem r = false → openToAll r = false → reaches s i r = false → 
      exec (.registerWrite i r width v) s = .next (failAccess s i r (if m0Only r then cPRIVILEGE else cNOT_OWNER))) ∧
  (∀ (s : State) (i : Initiator) (r : RegAddr) (width : Nat) (v : Word), isVaddr r = false → isDataPage r.ty r.inst r.page = false → cutOff s i r.ty r.inst = false → widthOk r width = true → isHsem r = false → reaches s i r = true → r.off = 0x00C → isM0 s i = false → 
      exec (.registerWrite i r width v) s = .next (failAccess s i r cPRIVILEGE)) ∧
  (∀ (s : State) (i : Initiator) (r : RegAddr) (width : Nat) (v : Word), isVaddr r = false → isDataPage r.ty r.inst r.page = false → cutOff s i r.ty r.inst = false → widthOk r width = true → isHsem r = false → reaches s i r = true → 0x100 ≤ r.off → (m0Only r && !isM0 s i || !writePriv s i r v) = true → 
      exec (.registerWrite i r width v) s = .next (failAccess s i r cPRIVILEGE)) ∧
  (∀ (s : State) (i : Initiator) (r : RegAddr) (width : Nat) (v : Word), isVaddr r = false → isDataPage r.ty r.inst r.page = false → cutOff s i r.ty r.inst = false → widthOk r width = true → isHsem r = false → reaches s i r = true → 0x100 ≤ r.off → (m0Only r && !isM0 s i) = false → writePriv s i r v = true → ready s r.ty r.inst = false → 
      exec (.registerWrite i r width v) s = .next (failAccess s i r cREFUSED)) ∧
  (∀ (s : State) (i : Initiator) (r : RegAddr) (width : Nat) (v : Word), isVaddr r = false → isDataPage r.ty r.inst r.page = false → cutOff s i r.ty r.inst = false → widthOk r width = true → isHsem r = false → reaches s i r = true → 0x100 ≤ r.off → (m0Only r && !isM0 s i) = false → writePriv s i r v = true → ready s r.ty r.inst = true → writable r = true → semBlocked s i r = true → 
      exec (.registerWrite i r width v) s = .next (respOk (recordPageErr s i r cSEM_NOT_HELD) 0)) ∧
  (∀ (s : State) (i : Initiator) (r : RegAddr) (cause : Nat) (q : RegAddr), rkey q ≠ rkey (pageReg r.ty r.inst (govPage r) 0x024) → rkey q ≠ rkey Reg.ERR_DROPPED → 
      rd (failAccess s i r cause) q = rd s q)

/-- The canonical form of memory holds after reset: nothing is listed. -/
def Obligations.ResetMemoryIsCanonical : Prop :=
  Safety.MemOk State.reset ∧ State.reset.mem = []

/-- What reset leaves of the state that the rules name (R326, R404, R450, R470, R474). -/
def Obligations.ResetState : Prop :=
  State.reset.pwr.por = true ∧ State.reset.time = 0 ∧ State.reset.pending = [] ∧
  (∀ k : Fin 256, rd State.reset (Reg.HPAS_HSEM k) = 0) ∧ rf State.reset Reg.HPAS_TIE 0 1 = 0 ∧ State.reset.dbg.diesel = 0x1000 ∧
  State.reset.dbg.grants = [] ∧ State.reset.dbg.drive = [] ∧ State.reset.dbg.irs = []

/-- The canonical form of memory is an invariant of every command, resets, fills and losses of DRAM included. -/
def Obligations.MemoryStaysCanonical : Prop :=
  ∀ (s t : State), Safety.MemOk s → step s = .next t → Safety.MemOk t

/-- The first sentence of R459: the fused state moves only forward, by the page 0 commands; resets keep it. -/
def Obligations.FusedStateMovesOnlyForward : Prop :=
  (State.reset.life ≤ 4) ∧
  ∀ (s t : State), s.life ≤ 4 → step s = .next t →
    s.life ≤ t.life ∧ t.life ≤ 4 ∧ (t.life ≠ s.life → ∃ rest, s.pending = .bseCommandDone :: rest)

/-- The queue is first in, first out; no command touches the commands that wait, nor what identifies the package. -/
def Obligations.QueueLosesOnlyItsFront : Prop :=
  ∀ (s t : State) (c : Instr) (l : List Instr), s.pending = c :: l → step s = .next t →
    t.pending = l ∧ t.part = s.part ∧ t.serial = s.serial

/-- Decoding of what Tables 7.1 to 7.3 put together (R178 to R181), for the formats I, R, M, B and W. -/
def Obligations.WordsSpellTheirInstructions : Prop :=
  (∀ (s : State) (c : CoreId) (g : Guard) (w2 : W32) (rd ra : R5) (imm : BitVec 12), 
      instrOf s c (BitVec.ofBool g.ps ++ g.pg ++ (2 : BitVec 6) ++ (rd ++ ra ++ imm) : W32) w2 = some (.addi c g rd ra imm)) ∧
  (∀ (s : State) (c : CoreId) (g : Guard) (w2 : W32) (rd ra : R5) (imm : BitVec 12), 
      instrOf s c (BitVec.ofBool g.ps ++ g.pg ++ (3 : BitVec 6) ++ (rd ++ ra ++ imm) : W32) w2 = some (.andi c g rd ra imm)) ∧
  (∀ (s : State) (c : CoreId) (g : Guard) (w2 : W32) (rd ra : R5) (imm : BitVec 12), 
      instrOf s c (BitVec.ofBool g.ps ++ g.pg ++ (4 : BitVec 6) ++ (rd ++ ra ++ imm) : W32) w2 = some (.ori c g rd ra imm)) ∧
  (∀ (s : State) (c : CoreId) (g : Guard) (w2 : W32) (rd ra : R5) (imm : BitVec 12), 
      instrOf s c (BitVec.ofBool g.ps ++ g.pg ++ (5 : BitVec 6) ++ (rd ++ ra ++ imm) : W32) w2 = some (.xori c g rd ra imm)) ∧
  (∀ (s : State) (c : CoreId) (g : Guard) (w2 : W32) (rd ra : R5) (imm : BitVec 12), 
      instrOf s c (BitVec.ofBool g.ps ++ g.pg ++ (6 : BitVec 6) ++ (rd ++ ra ++ imm) : W32) w2 = if shiLegal imm then some (.shi c g rd ra imm) else none) ∧
  (∀ (s : State) (c : CoreId) (g : Guard) (w2 : W32) (rd ra rb : R5) (fn : BitVec 7), 
      instrOf s c (BitVec.ofBool g.ps ++ g.pg ++ (1 : BitVec 6) ++ (rd ++ ra ++ rb ++ fn) : W32) w2 = if aluLegal fn rb then some (.intAlu c g fn rd ra rb) else none) ∧
  (∀ (s : State) (c : CoreId) (g : Guard) (w2 : W32) (rd ra rb : R5) (fn : BitVec 7), 
      instrOf s c (BitVec.ofBool g.ps ++ g.pg ++ (11 : BitVec 6) ++ (rd ++ ra ++ rb ++ fn) : W32) w2 = if fn.toNat ≤ 4 then some (.mul c g fn rd ra rb) else none) ∧
  (∀ (s : State) (c : CoreId) (g : Guard) (w2 : W32) (rd ra rb : R5) (fn : BitVec 7), 
      instrOf s c (BitVec.ofBool g.ps ++ g.pg ++ (12 : BitVec 6) ++ (rd ++ ra ++ rb ++ fn) : W32) w2 = if fn.toNat % 64 < 4 then some (.div c g fn rd ra rb) else none) ∧
  (∀ (s : State) (c : CoreId) (g : Guard) (w2 : W32) (rd ra rb : R5) (fn : BitVec 7), 
      instrOf s c (BitVec.ofBool g.ps ++ g.pg ++ (13 : BitVec 6) ++ (rd ++ ra ++ rb ++ fn) : W32) w2 = if fn.toNat ≤ 9 then some (.fractionOp c g fn rd ra rb) else none) ∧
  (∀ (s : State) (c : CoreId) (g : Guard) (w2 : W32) (rd ra : R5) (imm : BitVec 12), 
      instrOf s c (BitVec.ofBool g.ps ++ g.pg ++ (17 : BitVec 6) ++ (rd ++ ra ++ imm) : W32) w2 = some (.load c g 0 false rd ra imm)) ∧
  (∀ (s : State) (c : CoreId) (g : Guard) (w2 : W32) (rd ra : R5) (imm : BitVec 12), 
      instrOf s c (BitVec.ofBool g.ps ++ g.pg ++ (18 : BitVec 6) ++ (rd ++ ra ++ imm) : W32) w2 = some (.load c g 0 true rd ra imm)) ∧
  (∀ (s : State) (c : CoreId) (g : Guard) (w2 : W32) (rd ra : R5) (imm : BitVec 12), 
      instrOf s c (BitVec.ofBool g.ps ++ g.pg ++ (19 : BitVec 6) ++ (rd ++ ra ++ imm) : W32) w2 = some (.load c g 1 false rd ra imm)) ∧
  (∀ (s : State) (c : CoreId) (g : Guard) (w2 : W32) (rd ra : R5) (imm : BitVec 12), 
      instrOf s c (BitVec.ofBool g.ps ++ g.pg ++ (20 : BitVec 6) ++ (rd ++ ra ++ imm) : W32) w2 = some (.load c g 1 true rd ra imm)) ∧
  (∀ (s : State) (c : CoreId) (g : Guard) (w2 : W32) (rd ra : R5) (imm : BitVec 12), 
      instrOf s c (BitVec.ofBool g.ps ++ g.pg ++ (21 : BitVec 6) ++ (rd ++ ra ++ imm) : W32) w2 = some (.load c g 2 false rd ra imm)) ∧
  (∀ (s : State) (c : CoreId) (g : Guard) (w2 : W32) (rd ra : R5) (imm : BitVec 12), 
      instrOf s c (BitVec.ofBool g.ps ++ g.pg ++ (22 : BitVec 6) ++ (rd ++ ra ++ imm) : W32) w2 = some (.load c g 2 true rd ra imm)) ∧
  (∀ (s : State) (c : CoreId) (g : Guard) (w2 : W32) (rd ra : R5) (imm : BitVec 12), 
      instrOf s c (BitVec.ofBool g.ps ++ g.pg ++ (23 : BitVec 6) ++ (rd ++ ra ++ imm) : W32) w2 = some (.load c g 3 false rd ra imm)) ∧
  (∀ (s : State) (c : CoreId) (g : Guard) (w2 : W32) (rd ra : R5) (imm : BitVec 12), 
      instrOf s c (BitVec.ofBool g.ps ++ g.pg ++ (24 : BitVec 6) ++ (rd ++ ra ++ imm) : W32) w2 = some (.store c g 0 rd ra imm)) ∧
  (∀ (s : State) (c : CoreId) (g : Guard) (w2 : W32) (rd ra : R5) (imm : BitVec 12), 
      instrOf s c (BitVec.ofBool g.ps ++ g.pg ++ (25 : BitVec 6) ++ (rd ++ ra ++ imm) : W32) w2 = some (.store c g 1 rd ra imm)) ∧
  (∀ (s : State) (c : CoreId) (g : Guard) (w2 : W32) (rd ra : R5) (imm : BitVec 12), 
      instrOf s c (BitVec.ofBool g.ps ++ g.pg ++ (26 : BitVec 6) ++ (rd ++ ra ++ imm) : W32) w2 = some (.store c g 2 rd ra imm)) ∧
  (∀ (s : State) (c : CoreId) (g : Guard) (w2 : W32) (rd ra : R5) (imm : BitVec 12), 
      instrOf s c (BitVec.ofBool g.ps ++ g.pg ++ (27 : BitVec 6) ++ (rd ++ ra ++ imm) : W32) w2 = some (.store c g 3 rd ra imm)) ∧
  (∀ (s : State) (c : CoreId) (g : Guard) (w2 : W32) (disp : BitVec 22), 
      instrOf s c (BitVec.ofBool g.ps ++ g.pg ++ (33 : BitVec 6) ++ (disp) : W32) w2 = some (.br c g disp)) ∧
  (∀ (s : State) (c : CoreId) (g : Guard) (w2 : W32) (disp : BitVec 22), 
      instrOf s c (BitVec.ofBool g.ps ++ g.pg ++ (35 : BitVec 6) ++ (disp) : W32) w2 = some (.call c g disp)) ∧
  (∀ (s : State) (c : CoreId) (g : Guard) (w2 : W32) (rd ra : R5) (imm : BitVec 12), 
      instrOf s c (BitVec.ofBool g.ps ++ g.pg ++ (50 : BitVec 6) ++ (rd ++ ra ++ imm) : W32) w2 = if imm = 0 then some (.addw c g rd ra w2) else none) ∧
  (∀ (s : State) (c : CoreId) (g : Guard) (w2 : W32) (rd ra : R5) (imm : BitVec 12), 
      instrOf s c (BitVec.ofBool g.ps ++ g.pg ++ (51 : BitVec 6) ++ (rd ++ ra ++ imm) : W32) w2 = if imm = 0 then some (.andw c g rd ra w2) else none) ∧
  (∀ (s : State) (c : CoreId) (g : Guard) (w2 : W32) (rd ra : R5) (imm : BitVec 12), 
      instrOf s c (BitVec.ofBool g.ps ++ g.pg ++ (52 : BitVec 6) ++ (rd ++ ra ++ imm) : W32) w2 = if imm = 0 then some (.orw c g rd ra w2) else none) ∧
  (∀ (s : State) (c : CoreId) (g : Guard) (w2 : W32) (m : BitVec 6) (t : BitVec 22), [0x00, 0x07, 0x2C, 0x2D, 0x2E, 0x2F, 0x36, 0x37, 0x3D, 0x3E, 0x3F].contains m.toNat = true → 
      instrOf s c (BitVec.ofBool g.ps ++ g.pg ++ m ++ t : W32) w2 = none) ∧
  (∀ (s : State) (c : CoreId) (w2 : W32), 
      instrOf s c 0xB0A49FFB w2 = some (.addi c { ps := true, pg := 3 } 18 9 0xFFB) ∧ instrOf s c 0x80400000 w2 = some (.intAlu c { ps := true, pg := 0 } 0 0 0 0) ∧ instrOf s c 0 w2 = none)

/-- Allocation and the silent move to M (R267, R271, R280, R281); the reservation of R195. That a cache holds lines and no bytes is log entry 62, the model's choice. -/
def Obligations.AccessesReachTheCaches : Prop :=
  (∀ (s : State) (c va attr : Nat) (store : Bool) (line : Nat), 
      ((getCore (cacheLine s c va attr store line) c).l1d.any fun e => e.2 == line) = true) ∧
  (∀ (s : State) (c : Nat) (x : LineAcc), 
      l2Has (reachL2 s c x (missEvt c 0 0)) (c / 8) x.line = true) ∧
  (∀ (s : State) (a line : Nat), (getLn s a line).st = LineSt.e → 
      ownLine s a line = setLn s a line { getLn s a line with st := LineSt.m }) ∧
  (∀ (k : CoreSt) (key line : Nat) (r : Nat × Nat × Nat), k.l1d.get? key = some line → k.resv = some r → r.1 / 64 = line → 
      (evictL1d k key).resv = none ∧ (evictL1d k key).l1d.get? key = none) ∧
  (∀ (s : State) (c va attr : Nat) (store : Bool) (a n x : Nat), isHostWin x = false → 
      rdByte (cacheLines s c va attr store a n) x = rdByte s x)
end

