-- ==== Sys2Proof/Laws/State.lean ====
section
/-! SUPPORT. What each named update of the state leaves and what it sets, one lemma per field. -/

namespace Sys2Proof.Machine

section

variable (s : State)

/-! ### `wr` -/

@[simp] theorem wr_part (r : RegAddr) (v : Word) : (wr s r v).part = s.part := rfl
@[simp] theorem wr_serial (r : RegAddr) (v : Word) : (wr s r v).serial = s.serial := rfl
@[simp] theorem wr_time (r : RegAddr) (v : Word) : (wr s r v).time = s.time := rfl
@[simp] theorem wr_resp (r : RegAddr) (v : Word) : (wr s r v).resp = s.resp := rfl
@[simp] theorem wr_freeCtr (r : RegAddr) (v : Word) : (wr s r v).freeCtr = s.freeCtr := rfl
@[simp] theorem wr_regs (r : RegAddr) (v : Word) : (wr s r v).regs = s.regs.set (rkey r) v := rfl
@[simp] theorem wr_mem (r : RegAddr) (v : Word) : (wr s r v).mem = s.mem := rfl
@[simp] theorem wr_poison (r : RegAddr) (v : Word) : (wr s r v).poison = s.poison := rfl
@[simp] theorem wr_err (r : RegAddr) (v : Word) : (wr s r v).err = s.err := rfl
@[simp] theorem wr_ammin (r : RegAddr) (v : Word) : (wr s r v).ammin = s.ammin := rfl
@[simp] theorem wr_fio (r : RegAddr) (v : Word) : (wr s r v).fio = s.fio := rfl
@[simp] theorem wr_evr (r : RegAddr) (v : Word) : (wr s r v).evr = s.evr := rfl
@[simp] theorem wr_cores (r : RegAddr) (v : Word) : (wr s r v).cores = s.cores := rfl
@[simp] theorem wr_prefetch (r : RegAddr) (v : Word) : (wr s r v).prefetch = s.prefetch := rfl
@[simp] theorem wr_prism (r : RegAddr) (v : Word) : (wr s r v).prism = s.prism := rfl
@[simp] theorem wr_dom (r : RegAddr) (v : Word) : (wr s r v).dom = s.dom := rfl
@[simp] theorem wr_smg (r : RegAddr) (v : Word) : (wr s r v).smg = s.smg := rfl
@[simp] theorem wr_mcp (r : RegAddr) (v : Word) : (wr s r v).mcp = s.mcp := rfl
@[simp] theorem wr_qe (r : RegAddr) (v : Word) : (wr s r v).qe = s.qe := rfl
@[simp] theorem wr_ptp (r : RegAddr) (v : Word) : (wr s r v).ptp = s.ptp := rfl
@[simp] theorem wr_life (r : RegAddr) (v : Word) : (wr s r v).life = s.life := rfl
@[simp] theorem wr_dmc (r : RegAddr) (v : Word) : (wr s r v).dmc = s.dmc := rfl
@[simp] theorem wr_fills (r : RegAddr) (v : Word) : (wr s r v).fills = s.fills := rfl
@[simp] theorem wr_dramGen (r : RegAddr) (v : Word) : (wr s r v).dramGen = s.dramGen := rfl
@[simp] theorem wr_sent (r : RegAddr) (v : Word) : (wr s r v).sent = s.sent := rfl
@[simp] theorem wr_pageBytes (r : RegAddr) (v : Word) : (wr s r v).pageBytes = s.pageBytes := rfl
@[simp] theorem wr_hps (r : RegAddr) (v : Word) : (wr s r v).hps = s.hps := rfl
@[simp] theorem wr_spas (r : RegAddr) (v : Word) : (wr s r v).spas = s.spas := rfl
@[simp] theorem wr_macs (r : RegAddr) (v : Word) : (wr s r v).macs = s.macs := rfl
@[simp] theorem wr_frer (r : RegAddr) (v : Word) : (wr s r v).frer = s.frer := rfl
@[simp] theorem wr_psl (r : RegAddr) (v : Word) : (wr s r v).psl = s.psl := rfl
@[simp] theorem wr_coh (r : RegAddr) (v : Word) : (wr s r v).coh = s.coh := rfl
@[simp] theorem wr_fab (r : RegAddr) (v : Word) : (wr s r v).fab = s.fab := rfl
@[simp] theorem wr_links (r : RegAddr) (v : Word) : (wr s r v).links = s.links := rfl
@[simp] theorem wr_pwr (r : RegAddr) (v : Word) : (wr s r v).pwr = s.pwr := rfl
@[simp] theorem wr_jrn (r : RegAddr) (v : Word) : (wr s r v).jrn = s.jrn := rfl
@[simp] theorem wr_bse (r : RegAddr) (v : Word) : (wr s r v).bse = s.bse := rfl
@[simp] theorem wr_dbg (r : RegAddr) (v : Word) : (wr s r v).dbg = s.dbg := rfl
@[simp] theorem wr_lens (r : RegAddr) (v : Word) : (wr s r v).lens = s.lens := rfl
@[simp] theorem wr_pending (r : RegAddr) (v : Word) : (wr s r v).pending = s.pending := rfl
@[simp] theorem getCore_wr (r : RegAddr) (v : Word) (c' : Nat) : getCore (wr s r v) c' = getCore s c' := rfl

/-! ### `wf` -/

@[simp] theorem wf_part (r : RegAddr) (lo w x : Nat) : (wf s r lo w x).part = s.part := rfl
@[simp] theorem wf_serial (r : RegAddr) (lo w x : Nat) : (wf s r lo w x).serial = s.serial := rfl
@[simp] theorem wf_time (r : RegAddr) (lo w x : Nat) : (wf s r lo w x).time = s.time := rfl
@[simp] theorem wf_resp (r : RegAddr) (lo w x : Nat) : (wf s r lo w x).resp = s.resp := rfl
@[simp] theorem wf_freeCtr (r : RegAddr) (lo w x : Nat) : (wf s r lo w x).freeCtr = s.freeCtr := rfl
@[simp] theorem wf_regs (r : RegAddr) (lo w x : Nat) : (wf s r lo w x).regs = s.regs.set (rkey r) (setFld (rd s r) lo w x) := rfl
@[simp] theorem wf_mem (r : RegAddr) (lo w x : Nat) : (wf s r lo w x).mem = s.mem := rfl
@[simp] theorem wf_poison (r : RegAddr) (lo w x : Nat) : (wf s r lo w x).poison = s.poison := rfl
@[simp] theorem wf_err (r : RegAddr) (lo w x : Nat) : (wf s r lo w x).err = s.err := rfl
@[simp] theorem wf_ammin (r : RegAddr) (lo w x : Nat) : (wf s r lo w x).ammin = s.ammin := rfl
@[simp] theorem wf_fio (r : RegAddr) (lo w x : Nat) : (wf s r lo w x).fio = s.fio := rfl
@[simp] theorem wf_evr (r : RegAddr) (lo w x : Nat) : (wf s r lo w x).evr = s.evr := rfl
@[simp] theorem wf_cores (r : RegAddr) (lo w x : Nat) : (wf s r lo w x).cores = s.cores := rfl
@[simp] theorem wf_prefetch (r : RegAddr) (lo w x : Nat) : (wf s r lo w x).prefetch = s.prefetch := rfl
@[simp] theorem wf_prism (r : RegAddr) (lo w x : Nat) : (wf s r lo w x).prism = s.prism := rfl
@[simp] theorem wf_dom (r : RegAddr) (lo w x : Nat) : (wf s r lo w x).dom = s.dom := rfl
@[simp] theorem wf_smg (r : RegAddr) (lo w x : Nat) : (wf s r lo w x).smg = s.smg := rfl
@[simp] theorem wf_mcp (r : RegAddr) (lo w x : Nat) : (wf s r lo w x).mcp = s.mcp := rfl
@[simp] theorem wf_qe (r : RegAddr) (lo w x : Nat) : (wf s r lo w x).qe = s.qe := rfl
@[simp] theorem wf_ptp (r : RegAddr) (lo w x : Nat) : (wf s r lo w x).ptp = s.ptp := rfl
@[simp] theorem wf_life (r : RegAddr) (lo w x : Nat) : (wf s r lo w x).life = s.life := rfl
@[simp] theorem wf_dmc (r : RegAddr) (lo w x : Nat) : (wf s r lo w x).dmc = s.dmc := rfl
@[simp] theorem wf_fills (r : RegAddr) (lo w x : Nat) : (wf s r lo w x).fills = s.fills := rfl
@[simp] theorem wf_dramGen (r : RegAddr) (lo w x : Nat) : (wf s r lo w x).dramGen = s.dramGen := rfl
@[simp] theorem wf_sent (r : RegAddr) (lo w x : Nat) : (wf s r lo w x).sent = s.sent := rfl
@[simp] theorem wf_pageBytes (r : RegAddr) (lo w x : Nat) : (wf s r lo w x).pageBytes = s.pageBytes := rfl
@[simp] theorem wf_hps (r : RegAddr) (lo w x : Nat) : (wf s r lo w x).hps = s.hps := rfl
@[simp] theorem wf_spas (r : RegAddr) (lo w x : Nat) : (wf s r lo w x).spas = s.spas := rfl
@[simp] theorem wf_macs (r : RegAddr) (lo w x : Nat) : (wf s r lo w x).macs = s.macs := rfl
@[simp] theorem wf_frer (r : RegAddr) (lo w x : Nat) : (wf s r lo w x).frer = s.frer := rfl
@[simp] theorem wf_psl (r : RegAddr) (lo w x : Nat) : (wf s r lo w x).psl = s.psl := rfl
@[simp] theorem wf_coh (r : RegAddr) (lo w x : Nat) : (wf s r lo w x).coh = s.coh := rfl
@[simp] theorem wf_fab (r : RegAddr) (lo w x : Nat) : (wf s r lo w x).fab = s.fab := rfl
@[simp] theorem wf_links (r : RegAddr) (lo w x : Nat) : (wf s r lo w x).links = s.links := rfl
@[simp] theorem wf_pwr (r : RegAddr) (lo w x : Nat) : (wf s r lo w x).pwr = s.pwr := rfl
@[simp] theorem wf_jrn (r : RegAddr) (lo w x : Nat) : (wf s r lo w x).jrn = s.jrn := rfl
@[simp] theorem wf_bse (r : RegAddr) (lo w x : Nat) : (wf s r lo w x).bse = s.bse := rfl
@[simp] theorem wf_dbg (r : RegAddr) (lo w x : Nat) : (wf s r lo w x).dbg = s.dbg := rfl
@[simp] theorem wf_lens (r : RegAddr) (lo w x : Nat) : (wf s r lo w x).lens = s.lens := rfl
@[simp] theorem wf_pending (r : RegAddr) (lo w x : Nat) : (wf s r lo w x).pending = s.pending := rfl
@[simp] theorem getCore_wf (r : RegAddr) (lo w x : Nat) (c' : Nat) : getCore (wf s r lo w x) c' = getCore s c' := rfl

/-! ### `wb` -/

@[simp] theorem wb_part (r : RegAddr) (i : Nat) (b : Bool) : (wb s r i b).part = s.part := rfl
@[simp] theorem wb_serial (r : RegAddr) (i : Nat) (b : Bool) : (wb s r i b).serial = s.serial := rfl
@[simp] theorem wb_time (r : RegAddr) (i : Nat) (b : Bool) : (wb s r i b).time = s.time := rfl
@[simp] theorem wb_resp (r : RegAddr) (i : Nat) (b : Bool) : (wb s r i b).resp = s.resp := rfl
@[simp] theorem wb_freeCtr (r : RegAddr) (i : Nat) (b : Bool) : (wb s r i b).freeCtr = s.freeCtr := rfl
@[simp] theorem wb_regs (r : RegAddr) (i : Nat) (b : Bool) : (wb s r i b).regs = s.regs.set (rkey r) (setFld (rd s r) i 1 b.toNat) := rfl
@[simp] theorem wb_mem (r : RegAddr) (i : Nat) (b : Bool) : (wb s r i b).mem = s.mem := rfl
@[simp] theorem wb_poison (r : RegAddr) (i : Nat) (b : Bool) : (wb s r i b).poison = s.poison := rfl
@[simp] theorem wb_err (r : RegAddr) (i : Nat) (b : Bool) : (wb s r i b).err = s.err := rfl
@[simp] theorem wb_ammin (r : RegAddr) (i : Nat) (b : Bool) : (wb s r i b).ammin = s.ammin := rfl
@[simp] theorem wb_fio (r : RegAddr) (i : Nat) (b : Bool) : (wb s r i b).fio = s.fio := rfl
@[simp] theorem wb_evr (r : RegAddr) (i : Nat) (b : Bool) : (wb s r i b).evr = s.evr := rfl
@[simp] theorem wb_cores (r : RegAddr) (i : Nat) (b : Bool) : (wb s r i b).cores = s.cores := rfl
@[simp] theorem wb_prefetch (r : RegAddr) (i : Nat) (b : Bool) : (wb s r i b).prefetch = s.prefetch := rfl
@[simp] theorem wb_prism (r : RegAddr) (i : Nat) (b : Bool) : (wb s r i b).prism = s.prism := rfl
@[simp] theorem wb_dom (r : RegAddr) (i : Nat) (b : Bool) : (wb s r i b).dom = s.dom := rfl
@[simp] theorem wb_smg (r : RegAddr) (i : Nat) (b : Bool) : (wb s r i b).smg = s.smg := rfl
@[simp] theorem wb_mcp (r : RegAddr) (i : Nat) (b : Bool) : (wb s r i b).mcp = s.mcp := rfl
@[simp] theorem wb_qe (r : RegAddr) (i : Nat) (b : Bool) : (wb s r i b).qe = s.qe := rfl
@[simp] theorem wb_ptp (r : RegAddr) (i : Nat) (b : Bool) : (wb s r i b).ptp = s.ptp := rfl
@[simp] theorem wb_life (r : RegAddr) (i : Nat) (b : Bool) : (wb s r i b).life = s.life := rfl
@[simp] theorem wb_dmc (r : RegAddr) (i : Nat) (b : Bool) : (wb s r i b).dmc = s.dmc := rfl
@[simp] theorem wb_fills (r : RegAddr) (i : Nat) (b : Bool) : (wb s r i b).fills = s.fills := rfl
@[simp] theorem wb_dramGen (r : RegAddr) (i : Nat) (b : Bool) : (wb s r i b).dramGen = s.dramGen := rfl
@[simp] theorem wb_sent (r : RegAddr) (i : Nat) (b : Bool) : (wb s r i b).sent = s.sent := rfl
@[simp] theorem wb_pageBytes (r : RegAddr) (i : Nat) (b : Bool) : (wb s r i b).pageBytes = s.pageBytes := rfl
@[simp] theorem wb_hps (r : RegAddr) (i : Nat) (b : Bool) : (wb s r i b).hps = s.hps := rfl
@[simp] theorem wb_spas (r : RegAddr) (i : Nat) (b : Bool) : (wb s r i b).spas = s.spas := rfl
@[simp] theorem wb_macs (r : RegAddr) (i : Nat) (b : Bool) : (wb s r i b).macs = s.macs := rfl
@[simp] theorem wb_frer (r : RegAddr) (i : Nat) (b : Bool) : (wb s r i b).frer = s.frer := rfl
@[simp] theorem wb_psl (r : RegAddr) (i : Nat) (b : Bool) : (wb s r i b).psl = s.psl := rfl
@[simp] theorem wb_coh (r : RegAddr) (i : Nat) (b : Bool) : (wb s r i b).coh = s.coh := rfl
@[simp] theorem wb_fab (r : RegAddr) (i : Nat) (b : Bool) : (wb s r i b).fab = s.fab := rfl
@[simp] theorem wb_links (r : RegAddr) (i : Nat) (b : Bool) : (wb s r i b).links = s.links := rfl
@[simp] theorem wb_pwr (r : RegAddr) (i : Nat) (b : Bool) : (wb s r i b).pwr = s.pwr := rfl
@[simp] theorem wb_jrn (r : RegAddr) (i : Nat) (b : Bool) : (wb s r i b).jrn = s.jrn := rfl
@[simp] theorem wb_bse (r : RegAddr) (i : Nat) (b : Bool) : (wb s r i b).bse = s.bse := rfl
@[simp] theorem wb_dbg (r : RegAddr) (i : Nat) (b : Bool) : (wb s r i b).dbg = s.dbg := rfl
@[simp] theorem wb_lens (r : RegAddr) (i : Nat) (b : Bool) : (wb s r i b).lens = s.lens := rfl
@[simp] theorem wb_pending (r : RegAddr) (i : Nat) (b : Bool) : (wb s r i b).pending = s.pending := rfl
@[simp] theorem getCore_wb (r : RegAddr) (i : Nat) (b : Bool) (c' : Nat) : getCore (wb s r i b) c' = getCore s c' := rfl

/-! ### `countReg` -/

@[simp] theorem countReg_part (r : RegAddr) : (countReg s r).part = s.part := rfl
@[simp] theorem countReg_serial (r : RegAddr) : (countReg s r).serial = s.serial := rfl
@[simp] theorem countReg_time (r : RegAddr) : (countReg s r).time = s.time := rfl
@[simp] theorem countReg_resp (r : RegAddr) : (countReg s r).resp = s.resp := rfl
@[simp] theorem countReg_freeCtr (r : RegAddr) : (countReg s r).freeCtr = s.freeCtr := rfl
@[simp] theorem countReg_regs (r : RegAddr) : (countReg s r).regs = s.regs.set (rkey r) (satInc (rd s r)) := rfl
@[simp] theorem countReg_mem (r : RegAddr) : (countReg s r).mem = s.mem := rfl
@[simp] theorem countReg_poison (r : RegAddr) : (countReg s r).poison = s.poison := rfl
@[simp] theorem countReg_err (r : RegAddr) : (countReg s r).err = s.err := rfl
@[simp] theorem countReg_ammin (r : RegAddr) : (countReg s r).ammin = s.ammin := rfl
@[simp] theorem countReg_fio (r : RegAddr) : (countReg s r).fio = s.fio := rfl
@[simp] theorem countReg_evr (r : RegAddr) : (countReg s r).evr = s.evr := rfl
@[simp] theorem countReg_cores (r : RegAddr) : (countReg s r).cores = s.cores := rfl
@[simp] theorem countReg_prefetch (r : RegAddr) : (countReg s r).prefetch = s.prefetch := rfl
@[simp] theorem countReg_prism (r : RegAddr) : (countReg s r).prism = s.prism := rfl
@[simp] theorem countReg_dom (r : RegAddr) : (countReg s r).dom = s.dom := rfl
@[simp] theorem countReg_smg (r : RegAddr) : (countReg s r).smg = s.smg := rfl
@[simp] theorem countReg_mcp (r : RegAddr) : (countReg s r).mcp = s.mcp := rfl
@[simp] theorem countReg_qe (r : RegAddr) : (countReg s r).qe = s.qe := rfl
@[simp] theorem countReg_ptp (r : RegAddr) : (countReg s r).ptp = s.ptp := rfl
@[simp] theorem countReg_life (r : RegAddr) : (countReg s r).life = s.life := rfl
@[simp] theorem countReg_dmc (r : RegAddr) : (countReg s r).dmc = s.dmc := rfl
@[simp] theorem countReg_fills (r : RegAddr) : (countReg s r).fills = s.fills := rfl
@[simp] theorem countReg_dramGen (r : RegAddr) : (countReg s r).dramGen = s.dramGen := rfl
@[simp] theorem countReg_sent (r : RegAddr) : (countReg s r).sent = s.sent := rfl
@[simp] theorem countReg_pageBytes (r : RegAddr) : (countReg s r).pageBytes = s.pageBytes := rfl
@[simp] theorem countReg_hps (r : RegAddr) : (countReg s r).hps = s.hps := rfl
@[simp] theorem countReg_spas (r : RegAddr) : (countReg s r).spas = s.spas := rfl
@[simp] theorem countReg_macs (r : RegAddr) : (countReg s r).macs = s.macs := rfl
@[simp] theorem countReg_frer (r : RegAddr) : (countReg s r).frer = s.frer := rfl
@[simp] theorem countReg_psl (r : RegAddr) : (countReg s r).psl = s.psl := rfl
@[simp] theorem countReg_coh (r : RegAddr) : (countReg s r).coh = s.coh := rfl
@[simp] theorem countReg_fab (r : RegAddr) : (countReg s r).fab = s.fab := rfl
@[simp] theorem countReg_links (r : RegAddr) : (countReg s r).links = s.links := rfl
@[simp] theorem countReg_pwr (r : RegAddr) : (countReg s r).pwr = s.pwr := rfl
@[simp] theorem countReg_jrn (r : RegAddr) : (countReg s r).jrn = s.jrn := rfl
@[simp] theorem countReg_bse (r : RegAddr) : (countReg s r).bse = s.bse := rfl
@[simp] theorem countReg_dbg (r : RegAddr) : (countReg s r).dbg = s.dbg := rfl
@[simp] theorem countReg_lens (r : RegAddr) : (countReg s r).lens = s.lens := rfl
@[simp] theorem countReg_pending (r : RegAddr) : (countReg s r).pending = s.pending := rfl
@[simp] theorem getCore_countReg (r : RegAddr) (c' : Nat) : getCore (countReg s r) c' = getCore s c' := rfl

/-! ### `addReg` -/

@[simp] theorem addReg_part (r : RegAddr) (n : Nat) : (addReg s r n).part = s.part := rfl
@[simp] theorem addReg_serial (r : RegAddr) (n : Nat) : (addReg s r n).serial = s.serial := rfl
@[simp] theorem addReg_time (r : RegAddr) (n : Nat) : (addReg s r n).time = s.time := rfl
@[simp] theorem addReg_resp (r : RegAddr) (n : Nat) : (addReg s r n).resp = s.resp := rfl
@[simp] theorem addReg_freeCtr (r : RegAddr) (n : Nat) : (addReg s r n).freeCtr = s.freeCtr := rfl
@[simp] theorem addReg_regs (r : RegAddr) (n : Nat) : (addReg s r n).regs = s.regs.set (rkey r) (BitVec.ofNat 64 (min 0xFFFFFFFF ((rd s r).toNat + n))) := rfl
@[simp] theorem addReg_mem (r : RegAddr) (n : Nat) : (addReg s r n).mem = s.mem := rfl
@[simp] theorem addReg_poison (r : RegAddr) (n : Nat) : (addReg s r n).poison = s.poison := rfl
@[simp] theorem addReg_err (r : RegAddr) (n : Nat) : (addReg s r n).err = s.err := rfl
@[simp] theorem addReg_ammin (r : RegAddr) (n : Nat) : (addReg s r n).ammin = s.ammin := rfl
@[simp] theorem addReg_fio (r : RegAddr) (n : Nat) : (addReg s r n).fio = s.fio := rfl
@[simp] theorem addReg_evr (r : RegAddr) (n : Nat) : (addReg s r n).evr = s.evr := rfl
@[simp] theorem addReg_cores (r : RegAddr) (n : Nat) : (addReg s r n).cores = s.cores := rfl
@[simp] theorem addReg_prefetch (r : RegAddr) (n : Nat) : (addReg s r n).prefetch = s.prefetch := rfl
@[simp] theorem addReg_prism (r : RegAddr) (n : Nat) : (addReg s r n).prism = s.prism := rfl
@[simp] theorem addReg_dom (r : RegAddr) (n : Nat) : (addReg s r n).dom = s.dom := rfl
@[simp] theorem addReg_smg (r : RegAddr) (n : Nat) : (addReg s r n).smg = s.smg := rfl
@[simp] theorem addReg_mcp (r : RegAddr) (n : Nat) : (addReg s r n).mcp = s.mcp := rfl
@[simp] theorem addReg_qe (r : RegAddr) (n : Nat) : (addReg s r n).qe = s.qe := rfl
@[simp] theorem addReg_ptp (r : RegAddr) (n : Nat) : (addReg s r n).ptp = s.ptp := rfl
@[simp] theorem addReg_life (r : RegAddr) (n : Nat) : (addReg s r n).life = s.life := rfl
@[simp] theorem addReg_dmc (r : RegAddr) (n : Nat) : (addReg s r n).dmc = s.dmc := rfl
@[simp] theorem addReg_fills (r : RegAddr) (n : Nat) : (addReg s r n).fills = s.fills := rfl
@[simp] theorem addReg_dramGen (r : RegAddr) (n : Nat) : (addReg s r n).dramGen = s.dramGen := rfl
@[simp] theorem addReg_sent (r : RegAddr) (n : Nat) : (addReg s r n).sent = s.sent := rfl
@[simp] theorem addReg_pageBytes (r : RegAddr) (n : Nat) : (addReg s r n).pageBytes = s.pageBytes := rfl
@[simp] theorem addReg_hps (r : RegAddr) (n : Nat) : (addReg s r n).hps = s.hps := rfl
@[simp] theorem addReg_spas (r : RegAddr) (n : Nat) : (addReg s r n).spas = s.spas := rfl
@[simp] theorem addReg_macs (r : RegAddr) (n : Nat) : (addReg s r n).macs = s.macs := rfl
@[simp] theorem addReg_frer (r : RegAddr) (n : Nat) : (addReg s r n).frer = s.frer := rfl
@[simp] theorem addReg_psl (r : RegAddr) (n : Nat) : (addReg s r n).psl = s.psl := rfl
@[simp] theorem addReg_coh (r : RegAddr) (n : Nat) : (addReg s r n).coh = s.coh := rfl
@[simp] theorem addReg_fab (r : RegAddr) (n : Nat) : (addReg s r n).fab = s.fab := rfl
@[simp] theorem addReg_links (r : RegAddr) (n : Nat) : (addReg s r n).links = s.links := rfl
@[simp] theorem addReg_pwr (r : RegAddr) (n : Nat) : (addReg s r n).pwr = s.pwr := rfl
@[simp] theorem addReg_jrn (r : RegAddr) (n : Nat) : (addReg s r n).jrn = s.jrn := rfl
@[simp] theorem addReg_bse (r : RegAddr) (n : Nat) : (addReg s r n).bse = s.bse := rfl
@[simp] theorem addReg_dbg (r : RegAddr) (n : Nat) : (addReg s r n).dbg = s.dbg := rfl
@[simp] theorem addReg_lens (r : RegAddr) (n : Nat) : (addReg s r n).lens = s.lens := rfl
@[simp] theorem addReg_pending (r : RegAddr) (n : Nat) : (addReg s r n).pending = s.pending := rfl
@[simp] theorem getCore_addReg (r : RegAddr) (n : Nat) (c' : Nat) : getCore (addReg s r n) c' = getCore s c' := rfl

/-! ### `wrBytes` -/

@[simp] theorem wrBytes_part (a : Nat) (l : List Byte) : (wrBytes s a l).part = s.part := rfl
@[simp] theorem wrBytes_serial (a : Nat) (l : List Byte) : (wrBytes s a l).serial = s.serial := rfl
@[simp] theorem wrBytes_time (a : Nat) (l : List Byte) : (wrBytes s a l).time = s.time := rfl
@[simp] theorem wrBytes_resp (a : Nat) (l : List Byte) : (wrBytes s a l).resp = s.resp := rfl
@[simp] theorem wrBytes_freeCtr (a : Nat) (l : List Byte) : (wrBytes s a l).freeCtr = s.freeCtr := rfl
@[simp] theorem wrBytes_regs (a : Nat) (l : List Byte) : (wrBytes s a l).regs = s.regs := rfl
@[simp] theorem wrBytes_mem (a : Nat) (l : List Byte) : (wrBytes s a l).mem = memSetBytes s.fills s.mem a l := rfl
@[simp] theorem wrBytes_poison (a : Nat) (l : List Byte) : (wrBytes s a l).poison = s.poison := rfl
@[simp] theorem wrBytes_err (a : Nat) (l : List Byte) : (wrBytes s a l).err = s.err := rfl
@[simp] theorem wrBytes_ammin (a : Nat) (l : List Byte) : (wrBytes s a l).ammin = s.ammin := rfl
@[simp] theorem wrBytes_fio (a : Nat) (l : List Byte) : (wrBytes s a l).fio = s.fio := rfl
@[simp] theorem wrBytes_evr (a : Nat) (l : List Byte) : (wrBytes s a l).evr = s.evr := rfl
@[simp] theorem wrBytes_cores (a : Nat) (l : List Byte) : (wrBytes s a l).cores = s.cores := rfl
@[simp] theorem wrBytes_prefetch (a : Nat) (l : List Byte) : (wrBytes s a l).prefetch = s.prefetch := rfl
@[simp] theorem wrBytes_prism (a : Nat) (l : List Byte) : (wrBytes s a l).prism = s.prism := rfl
@[simp] theorem wrBytes_dom (a : Nat) (l : List Byte) : (wrBytes s a l).dom = s.dom := rfl
@[simp] theorem wrBytes_smg (a : Nat) (l : List Byte) : (wrBytes s a l).smg = s.smg := rfl
@[simp] theorem wrBytes_mcp (a : Nat) (l : List Byte) : (wrBytes s a l).mcp = s.mcp := rfl
@[simp] theorem wrBytes_qe (a : Nat) (l : List Byte) : (wrBytes s a l).qe = s.qe := rfl
@[simp] theorem wrBytes_ptp (a : Nat) (l : List Byte) : (wrBytes s a l).ptp = s.ptp := rfl
@[simp] theorem wrBytes_life (a : Nat) (l : List Byte) : (wrBytes s a l).life = s.life := rfl
@[simp] theorem wrBytes_dmc (a : Nat) (l : List Byte) : (wrBytes s a l).dmc = s.dmc := rfl
@[simp] theorem wrBytes_fills (a : Nat) (l : List Byte) : (wrBytes s a l).fills = s.fills := rfl
@[simp] theorem wrBytes_dramGen (a : Nat) (l : List Byte) : (wrBytes s a l).dramGen = s.dramGen := rfl
@[simp] theorem wrBytes_sent (a : Nat) (l : List Byte) : (wrBytes s a l).sent = s.sent := rfl
@[simp] theorem wrBytes_pageBytes (a : Nat) (l : List Byte) : (wrBytes s a l).pageBytes = s.pageBytes := rfl
@[simp] theorem wrBytes_hps (a : Nat) (l : List Byte) : (wrBytes s a l).hps = s.hps := rfl
@[simp] theorem wrBytes_spas (a : Nat) (l : List Byte) : (wrBytes s a l).spas = s.spas := rfl
@[simp] theorem wrBytes_macs (a : Nat) (l : List Byte) : (wrBytes s a l).macs = s.macs := rfl
@[simp] theorem wrBytes_frer (a : Nat) (l : List Byte) : (wrBytes s a l).frer = s.frer := rfl
@[simp] theorem wrBytes_psl (a : Nat) (l : List Byte) : (wrBytes s a l).psl = s.psl := rfl
@[simp] theorem wrBytes_coh (a : Nat) (l : List Byte) : (wrBytes s a l).coh = s.coh := rfl
@[simp] theorem wrBytes_fab (a : Nat) (l : List Byte) : (wrBytes s a l).fab = s.fab := rfl
@[simp] theorem wrBytes_links (a : Nat) (l : List Byte) : (wrBytes s a l).links = s.links := rfl
@[simp] theorem wrBytes_pwr (a : Nat) (l : List Byte) : (wrBytes s a l).pwr = s.pwr := rfl
@[simp] theorem wrBytes_jrn (a : Nat) (l : List Byte) : (wrBytes s a l).jrn = s.jrn := rfl
@[simp] theorem wrBytes_bse (a : Nat) (l : List Byte) : (wrBytes s a l).bse = s.bse := rfl
@[simp] theorem wrBytes_dbg (a : Nat) (l : List Byte) : (wrBytes s a l).dbg = s.dbg := rfl
@[simp] theorem wrBytes_lens (a : Nat) (l : List Byte) : (wrBytes s a l).lens = s.lens := rfl
@[simp] theorem wrBytes_pending (a : Nat) (l : List Byte) : (wrBytes s a l).pending = s.pending := rfl
@[simp] theorem rd_wrBytes (a : Nat) (l : List Byte) (q : RegAddr) : rd (wrBytes s a l) q = rd s q := rfl
@[simp] theorem rf_wrBytes (a : Nat) (l : List Byte) (q : RegAddr) (lo' w' : Nat) : rf (wrBytes s a l) q lo' w' = rf s q lo' w' := rfl
@[simp] theorem rb_wrBytes (a : Nat) (l : List Byte) (q : RegAddr) (j : Nat) : rb (wrBytes s a l) q j = rb s q j := rfl
@[simp] theorem getCore_wrBytes (a : Nat) (l : List Byte) (c' : Nat) : getCore (wrBytes s a l) c' = getCore s c' := rfl

/-! ### `wrMem` -/

@[simp] theorem wrMem_part (a n x : Nat) : (wrMem s a n x).part = s.part := rfl
@[simp] theorem wrMem_serial (a n x : Nat) : (wrMem s a n x).serial = s.serial := rfl
@[simp] theorem wrMem_time (a n x : Nat) : (wrMem s a n x).time = s.time := rfl
@[simp] theorem wrMem_resp (a n x : Nat) : (wrMem s a n x).resp = s.resp := rfl
@[simp] theorem wrMem_freeCtr (a n x : Nat) : (wrMem s a n x).freeCtr = s.freeCtr := rfl
@[simp] theorem wrMem_regs (a n x : Nat) : (wrMem s a n x).regs = s.regs := rfl
@[simp] theorem wrMem_mem (a n x : Nat) : (wrMem s a n x).mem = memSetBytes s.fills s.mem a (leBytes n x) := rfl
@[simp] theorem wrMem_poison (a n x : Nat) : (wrMem s a n x).poison = s.poison := rfl
@[simp] theorem wrMem_err (a n x : Nat) : (wrMem s a n x).err = s.err := rfl
@[simp] theorem wrMem_ammin (a n x : Nat) : (wrMem s a n x).ammin = s.ammin := rfl
@[simp] theorem wrMem_fio (a n x : Nat) : (wrMem s a n x).fio = s.fio := rfl
@[simp] theorem wrMem_evr (a n x : Nat) : (wrMem s a n x).evr = s.evr := rfl
@[simp] theorem wrMem_cores (a n x : Nat) : (wrMem s a n x).cores = s.cores := rfl
@[simp] theorem wrMem_prefetch (a n x : Nat) : (wrMem s a n x).prefetch = s.prefetch := rfl
@[simp] theorem wrMem_prism (a n x : Nat) : (wrMem s a n x).prism = s.prism := rfl
@[simp] theorem wrMem_dom (a n x : Nat) : (wrMem s a n x).dom = s.dom := rfl
@[simp] theorem wrMem_smg (a n x : Nat) : (wrMem s a n x).smg = s.smg := rfl
@[simp] theorem wrMem_mcp (a n x : Nat) : (wrMem s a n x).mcp = s.mcp := rfl
@[simp] theorem wrMem_qe (a n x : Nat) : (wrMem s a n x).qe = s.qe := rfl
@[simp] theorem wrMem_ptp (a n x : Nat) : (wrMem s a n x).ptp = s.ptp := rfl
@[simp] theorem wrMem_life (a n x : Nat) : (wrMem s a n x).life = s.life := rfl
@[simp] theorem wrMem_dmc (a n x : Nat) : (wrMem s a n x).dmc = s.dmc := rfl
@[simp] theorem wrMem_fills (a n x : Nat) : (wrMem s a n x).fills = s.fills := rfl
@[simp] theorem wrMem_dramGen (a n x : Nat) : (wrMem s a n x).dramGen = s.dramGen := rfl
@[simp] theorem wrMem_sent (a n x : Nat) : (wrMem s a n x).sent = s.sent := rfl
@[simp] theorem wrMem_pageBytes (a n x : Nat) : (wrMem s a n x).pageBytes = s.pageBytes := rfl
@[simp] theorem wrMem_hps (a n x : Nat) : (wrMem s a n x).hps = s.hps := rfl
@[simp] theorem wrMem_spas (a n x : Nat) : (wrMem s a n x).spas = s.spas := rfl
@[simp] theorem wrMem_macs (a n x : Nat) : (wrMem s a n x).macs = s.macs := rfl
@[simp] theorem wrMem_frer (a n x : Nat) : (wrMem s a n x).frer = s.frer := rfl
@[simp] theorem wrMem_psl (a n x : Nat) : (wrMem s a n x).psl = s.psl := rfl
@[simp] theorem wrMem_coh (a n x : Nat) : (wrMem s a n x).coh = s.coh := rfl
@[simp] theorem wrMem_fab (a n x : Nat) : (wrMem s a n x).fab = s.fab := rfl
@[simp] theorem wrMem_links (a n x : Nat) : (wrMem s a n x).links = s.links := rfl
@[simp] theorem wrMem_pwr (a n x : Nat) : (wrMem s a n x).pwr = s.pwr := rfl
@[simp] theorem wrMem_jrn (a n x : Nat) : (wrMem s a n x).jrn = s.jrn := rfl
@[simp] theorem wrMem_bse (a n x : Nat) : (wrMem s a n x).bse = s.bse := rfl
@[simp] theorem wrMem_dbg (a n x : Nat) : (wrMem s a n x).dbg = s.dbg := rfl
@[simp] theorem wrMem_lens (a n x : Nat) : (wrMem s a n x).lens = s.lens := rfl
@[simp] theorem wrMem_pending (a n x : Nat) : (wrMem s a n x).pending = s.pending := rfl
@[simp] theorem rd_wrMem (a n x : Nat) (q : RegAddr) : rd (wrMem s a n x) q = rd s q := rfl
@[simp] theorem rf_wrMem (a n x : Nat) (q : RegAddr) (lo' w' : Nat) : rf (wrMem s a n x) q lo' w' = rf s q lo' w' := rfl
@[simp] theorem rb_wrMem (a n x : Nat) (q : RegAddr) (j : Nat) : rb (wrMem s a n x) q j = rb s q j := rfl
@[simp] theorem getCore_wrMem (a n x : Nat) (c' : Nat) : getCore (wrMem s a n x) c' = getCore s c' := rfl

/-! ### `clearPoison` -/

@[simp] theorem clearPoison_part (line : Nat) : (clearPoison s line).part = s.part := rfl
@[simp] theorem clearPoison_serial (line : Nat) : (clearPoison s line).serial = s.serial := rfl
@[simp] theorem clearPoison_time (line : Nat) : (clearPoison s line).time = s.time := rfl
@[simp] theorem clearPoison_resp (line : Nat) : (clearPoison s line).resp = s.resp := rfl
@[simp] theorem clearPoison_freeCtr (line : Nat) : (clearPoison s line).freeCtr = s.freeCtr := rfl
@[simp] theorem clearPoison_regs (line : Nat) : (clearPoison s line).regs = s.regs := rfl
@[simp] theorem clearPoison_mem (line : Nat) : (clearPoison s line).mem = s.mem := rfl
@[simp] theorem clearPoison_poison (line : Nat) : (clearPoison s line).poison = s.poison.filter (· ≠ line) := rfl
@[simp] theorem clearPoison_err (line : Nat) : (clearPoison s line).err = s.err := rfl
@[simp] theorem clearPoison_ammin (line : Nat) : (clearPoison s line).ammin = s.ammin := rfl
@[simp] theorem clearPoison_fio (line : Nat) : (clearPoison s line).fio = s.fio := rfl
@[simp] theorem clearPoison_evr (line : Nat) : (clearPoison s line).evr = s.evr := rfl
@[simp] theorem clearPoison_cores (line : Nat) : (clearPoison s line).cores = s.cores := rfl
@[simp] theorem clearPoison_prefetch (line : Nat) : (clearPoison s line).prefetch = s.prefetch := rfl
@[simp] theorem clearPoison_prism (line : Nat) : (clearPoison s line).prism = s.prism := rfl
@[simp] theorem clearPoison_dom (line : Nat) : (clearPoison s line).dom = s.dom := rfl
@[simp] theorem clearPoison_smg (line : Nat) : (clearPoison s line).smg = s.smg := rfl
@[simp] theorem clearPoison_mcp (line : Nat) : (clearPoison s line).mcp = s.mcp := rfl
@[simp] theorem clearPoison_qe (line : Nat) : (clearPoison s line).qe = s.qe := rfl
@[simp] theorem clearPoison_ptp (line : Nat) : (clearPoison s line).ptp = s.ptp := rfl
@[simp] theorem clearPoison_life (line : Nat) : (clearPoison s line).life = s.life := rfl
@[simp] theorem clearPoison_dmc (line : Nat) : (clearPoison s line).dmc = s.dmc := rfl
@[simp] theorem clearPoison_fills (line : Nat) : (clearPoison s line).fills = s.fills := rfl
@[simp] theorem clearPoison_dramGen (line : Nat) : (clearPoison s line).dramGen = s.dramGen := rfl
@[simp] theorem clearPoison_sent (line : Nat) : (clearPoison s line).sent = s.sent := rfl
@[simp] theorem clearPoison_pageBytes (line : Nat) : (clearPoison s line).pageBytes = s.pageBytes := rfl
@[simp] theorem clearPoison_hps (line : Nat) : (clearPoison s line).hps = s.hps := rfl
@[simp] theorem clearPoison_spas (line : Nat) : (clearPoison s line).spas = s.spas := rfl
@[simp] theorem clearPoison_macs (line : Nat) : (clearPoison s line).macs = s.macs := rfl
@[simp] theorem clearPoison_frer (line : Nat) : (clearPoison s line).frer = s.frer := rfl
@[simp] theorem clearPoison_psl (line : Nat) : (clearPoison s line).psl = s.psl := rfl
@[simp] theorem clearPoison_coh (line : Nat) : (clearPoison s line).coh = s.coh := rfl
@[simp] theorem clearPoison_fab (line : Nat) : (clearPoison s line).fab = s.fab := rfl
@[simp] theorem clearPoison_links (line : Nat) : (clearPoison s line).links = s.links := rfl
@[simp] theorem clearPoison_pwr (line : Nat) : (clearPoison s line).pwr = s.pwr := rfl
@[simp] theorem clearPoison_jrn (line : Nat) : (clearPoison s line).jrn = s.jrn := rfl
@[simp] theorem clearPoison_bse (line : Nat) : (clearPoison s line).bse = s.bse := rfl
@[simp] theorem clearPoison_dbg (line : Nat) : (clearPoison s line).dbg = s.dbg := rfl
@[simp] theorem clearPoison_lens (line : Nat) : (clearPoison s line).lens = s.lens := rfl
@[simp] theorem clearPoison_pending (line : Nat) : (clearPoison s line).pending = s.pending := rfl
@[simp] theorem rd_clearPoison (line : Nat) (q : RegAddr) : rd (clearPoison s line) q = rd s q := rfl
@[simp] theorem rf_clearPoison (line : Nat) (q : RegAddr) (lo' w' : Nat) : rf (clearPoison s line) q lo' w' = rf s q lo' w' := rfl
@[simp] theorem rb_clearPoison (line : Nat) (q : RegAddr) (j : Nat) : rb (clearPoison s line) q j = rb s q j := rfl
@[simp] theorem getCore_clearPoison (line : Nat) (c' : Nat) : getCore (clearPoison s line) c' = getCore s c' := rfl

/-! ### `setCore` -/

@[simp] theorem setCore_part (c : Nat) (k : CoreSt) : (setCore s c k).part = s.part := rfl
@[simp] theorem setCore_serial (c : Nat) (k : CoreSt) : (setCore s c k).serial = s.serial := rfl
@[simp] theorem setCore_time (c : Nat) (k : CoreSt) : (setCore s c k).time = s.time := rfl
@[simp] theorem setCore_resp (c : Nat) (k : CoreSt) : (setCore s c k).resp = s.resp := rfl
@[simp] theorem setCore_freeCtr (c : Nat) (k : CoreSt) : (setCore s c k).freeCtr = s.freeCtr := rfl
@[simp] theorem setCore_regs (c : Nat) (k : CoreSt) : (setCore s c k).regs = s.regs := rfl
@[simp] theorem setCore_mem (c : Nat) (k : CoreSt) : (setCore s c k).mem = s.mem := rfl
@[simp] theorem setCore_poison (c : Nat) (k : CoreSt) : (setCore s c k).poison = s.poison := rfl
@[simp] theorem setCore_err (c : Nat) (k : CoreSt) : (setCore s c k).err = s.err := rfl
@[simp] theorem setCore_ammin (c : Nat) (k : CoreSt) : (setCore s c k).ammin = s.ammin := rfl
@[simp] theorem setCore_fio (c : Nat) (k : CoreSt) : (setCore s c k).fio = s.fio := rfl
@[simp] theorem setCore_evr (c : Nat) (k : CoreSt) : (setCore s c k).evr = s.evr := rfl
@[simp] theorem setCore_cores (c : Nat) (k : CoreSt) : (setCore s c k).cores = s.cores.set c k := rfl
@[simp] theorem setCore_prefetch (c : Nat) (k : CoreSt) : (setCore s c k).prefetch = s.prefetch := rfl
@[simp] theorem setCore_prism (c : Nat) (k : CoreSt) : (setCore s c k).prism = s.prism := rfl
@[simp] theorem setCore_dom (c : Nat) (k : CoreSt) : (setCore s c k).dom = s.dom := rfl
@[simp] theorem setCore_smg (c : Nat) (k : CoreSt) : (setCore s c k).smg = s.smg := rfl
@[simp] theorem setCore_mcp (c : Nat) (k : CoreSt) : (setCore s c k).mcp = s.mcp := rfl
@[simp] theorem setCore_qe (c : Nat) (k : CoreSt) : (setCore s c k).qe = s.qe := rfl
@[simp] theorem setCore_ptp (c : Nat) (k : CoreSt) : (setCore s c k).ptp = s.ptp := rfl
@[simp] theorem setCore_life (c : Nat) (k : CoreSt) : (setCore s c k).life = s.life := rfl
@[simp] theorem setCore_dmc (c : Nat) (k : CoreSt) : (setCore s c k).dmc = s.dmc := rfl
@[simp] theorem setCore_fills (c : Nat) (k : CoreSt) : (setCore s c k).fills = s.fills := rfl
@[simp] theorem setCore_dramGen (c : Nat) (k : CoreSt) : (setCore s c k).dramGen = s.dramGen := rfl
@[simp] theorem setCore_sent (c : Nat) (k : CoreSt) : (setCore s c k).sent = s.sent := rfl
@[simp] theorem setCore_pageBytes (c : Nat) (k : CoreSt) : (setCore s c k).pageBytes = s.pageBytes := rfl
@[simp] theorem setCore_hps (c : Nat) (k : CoreSt) : (setCore s c k).hps = s.hps := rfl
@[simp] theorem setCore_spas (c : Nat) (k : CoreSt) : (setCore s c k).spas = s.spas := rfl
@[simp] theorem setCore_macs (c : Nat) (k : CoreSt) : (setCore s c k).macs = s.macs := rfl
@[simp] theorem setCore_frer (c : Nat) (k : CoreSt) : (setCore s c k).frer = s.frer := rfl
@[simp] theorem setCore_psl (c : Nat) (k : CoreSt) : (setCore s c k).psl = s.psl := rfl
@[simp] theorem setCore_coh (c : Nat) (k : CoreSt) : (setCore s c k).coh = s.coh := rfl
@[simp] theorem setCore_fab (c : Nat) (k : CoreSt) : (setCore s c k).fab = s.fab := rfl
@[simp] theorem setCore_links (c : Nat) (k : CoreSt) : (setCore s c k).links = s.links := rfl
@[simp] theorem setCore_pwr (c : Nat) (k : CoreSt) : (setCore s c k).pwr = s.pwr := rfl
@[simp] theorem setCore_jrn (c : Nat) (k : CoreSt) : (setCore s c k).jrn = s.jrn := rfl
@[simp] theorem setCore_bse (c : Nat) (k : CoreSt) : (setCore s c k).bse = s.bse := rfl
@[simp] theorem setCore_dbg (c : Nat) (k : CoreSt) : (setCore s c k).dbg = s.dbg := rfl
@[simp] theorem setCore_lens (c : Nat) (k : CoreSt) : (setCore s c k).lens = s.lens := rfl
@[simp] theorem setCore_pending (c : Nat) (k : CoreSt) : (setCore s c k).pending = s.pending := rfl
@[simp] theorem rd_setCore (c : Nat) (k : CoreSt) (q : RegAddr) : rd (setCore s c k) q = rd s q := rfl
@[simp] theorem rf_setCore (c : Nat) (k : CoreSt) (q : RegAddr) (lo' w' : Nat) : rf (setCore s c k) q lo' w' = rf s q lo' w' := rfl
@[simp] theorem rb_setCore (c : Nat) (k : CoreSt) (q : RegAddr) (j : Nat) : rb (setCore s c k) q j = rb s q j := rfl

/-! ### `respErr` -/

@[simp] theorem respErr_part (code : Nat) : (respErr s code).part = s.part := rfl
@[simp] theorem respErr_serial (code : Nat) : (respErr s code).serial = s.serial := rfl
@[simp] theorem respErr_time (code : Nat) : (respErr s code).time = s.time := rfl
@[simp] theorem respErr_resp (code : Nat) : (respErr s code).resp = .err code := rfl
@[simp] theorem respErr_freeCtr (code : Nat) : (respErr s code).freeCtr = s.freeCtr := rfl
@[simp] theorem respErr_regs (code : Nat) : (respErr s code).regs = s.regs := rfl
@[simp] theorem respErr_mem (code : Nat) : (respErr s code).mem = s.mem := rfl
@[simp] theorem respErr_poison (code : Nat) : (respErr s code).poison = s.poison := rfl
@[simp] theorem respErr_err (code : Nat) : (respErr s code).err = s.err := rfl
@[simp] theorem respErr_ammin (code : Nat) : (respErr s code).ammin = s.ammin := rfl
@[simp] theorem respErr_fio (code : Nat) : (respErr s code).fio = s.fio := rfl
@[simp] theorem respErr_evr (code : Nat) : (respErr s code).evr = s.evr := rfl
@[simp] theorem respErr_cores (code : Nat) : (respErr s code).cores = s.cores := rfl
@[simp] theorem respErr_prefetch (code : Nat) : (respErr s code).prefetch = s.prefetch := rfl
@[simp] theorem respErr_prism (code : Nat) : (respErr s code).prism = s.prism := rfl
@[simp] theorem respErr_dom (code : Nat) : (respErr s code).dom = s.dom := rfl
@[simp] theorem respErr_smg (code : Nat) : (respErr s code).smg = s.smg := rfl
@[simp] theorem respErr_mcp (code : Nat) : (respErr s code).mcp = s.mcp := rfl
@[simp] theorem respErr_qe (code : Nat) : (respErr s code).qe = s.qe := rfl
@[simp] theorem respErr_ptp (code : Nat) : (respErr s code).ptp = s.ptp := rfl
@[simp] theorem respErr_life (code : Nat) : (respErr s code).life = s.life := rfl
@[simp] theorem respErr_dmc (code : Nat) : (respErr s code).dmc = s.dmc := rfl
@[simp] theorem respErr_fills (code : Nat) : (respErr s code).fills = s.fills := rfl
@[simp] theorem respErr_dramGen (code : Nat) : (respErr s code).dramGen = s.dramGen := rfl
@[simp] theorem respErr_sent (code : Nat) : (respErr s code).sent = s.sent := rfl
@[simp] theorem respErr_pageBytes (code : Nat) : (respErr s code).pageBytes = s.pageBytes := rfl
@[simp] theorem respErr_hps (code : Nat) : (respErr s code).hps = s.hps := rfl
@[simp] theorem respErr_spas (code : Nat) : (respErr s code).spas = s.spas := rfl
@[simp] theorem respErr_macs (code : Nat) : (respErr s code).macs = s.macs := rfl
@[simp] theorem respErr_frer (code : Nat) : (respErr s code).frer = s.frer := rfl
@[simp] theorem respErr_psl (code : Nat) : (respErr s code).psl = s.psl := rfl
@[simp] theorem respErr_coh (code : Nat) : (respErr s code).coh = s.coh := rfl
@[simp] theorem respErr_fab (code : Nat) : (respErr s code).fab = s.fab := rfl
@[simp] theorem respErr_links (code : Nat) : (respErr s code).links = s.links := rfl
@[simp] theorem respErr_pwr (code : Nat) : (respErr s code).pwr = s.pwr := rfl
@[simp] theorem respErr_jrn (code : Nat) : (respErr s code).jrn = s.jrn := rfl
@[simp] theorem respErr_bse (code : Nat) : (respErr s code).bse = s.bse := rfl
@[simp] theorem respErr_dbg (code : Nat) : (respErr s code).dbg = s.dbg := rfl
@[simp] theorem respErr_lens (code : Nat) : (respErr s code).lens = s.lens := rfl
@[simp] theorem respErr_pending (code : Nat) : (respErr s code).pending = s.pending := rfl
@[simp] theorem rd_respErr (code : Nat) (q : RegAddr) : rd (respErr s code) q = rd s q := rfl
@[simp] theorem rf_respErr (code : Nat) (q : RegAddr) (lo' w' : Nat) : rf (respErr s code) q lo' w' = rf s q lo' w' := rfl
@[simp] theorem rb_respErr (code : Nat) (q : RegAddr) (j : Nat) : rb (respErr s code) q j = rb s q j := rfl
@[simp] theorem getCore_respErr (code : Nat) (c' : Nat) : getCore (respErr s code) c' = getCore s c' := rfl

/-! ### `respOk` -/

@[simp] theorem respOk_part (v : Word) : (respOk s v).part = s.part := rfl
@[simp] theorem respOk_serial (v : Word) : (respOk s v).serial = s.serial := rfl
@[simp] theorem respOk_time (v : Word) : (respOk s v).time = s.time := rfl
@[simp] theorem respOk_resp (v : Word) : (respOk s v).resp = .ok v := rfl
@[simp] theorem respOk_freeCtr (v : Word) : (respOk s v).freeCtr = s.freeCtr := rfl
@[simp] theorem respOk_regs (v : Word) : (respOk s v).regs = s.regs := rfl
@[simp] theorem respOk_mem (v : Word) : (respOk s v).mem = s.mem := rfl
@[simp] theorem respOk_poison (v : Word) : (respOk s v).poison = s.poison := rfl
@[simp] theorem respOk_err (v : Word) : (respOk s v).err = s.err := rfl
@[simp] theorem respOk_ammin (v : Word) : (respOk s v).ammin = s.ammin := rfl
@[simp] theorem respOk_fio (v : Word) : (respOk s v).fio = s.fio := rfl
@[simp] theorem respOk_evr (v : Word) : (respOk s v).evr = s.evr := rfl
@[simp] theorem respOk_cores (v : Word) : (respOk s v).cores = s.cores := rfl
@[simp] theorem respOk_prefetch (v : Word) : (respOk s v).prefetch = s.prefetch := rfl
@[simp] theorem respOk_prism (v : Word) : (respOk s v).prism = s.prism := rfl
@[simp] theorem respOk_dom (v : Word) : (respOk s v).dom = s.dom := rfl
@[simp] theorem respOk_smg (v : Word) : (respOk s v).smg = s.smg := rfl
@[simp] theorem respOk_mcp (v : Word) : (respOk s v).mcp = s.mcp := rfl
@[simp] theorem respOk_qe (v : Word) : (respOk s v).qe = s.qe := rfl
@[simp] theorem respOk_ptp (v : Word) : (respOk s v).ptp = s.ptp := rfl
@[simp] theorem respOk_life (v : Word) : (respOk s v).life = s.life := rfl
@[simp] theorem respOk_dmc (v : Word) : (respOk s v).dmc = s.dmc := rfl
@[simp] theorem respOk_fills (v : Word) : (respOk s v).fills = s.fills := rfl
@[simp] theorem respOk_dramGen (v : Word) : (respOk s v).dramGen = s.dramGen := rfl
@[simp] theorem respOk_sent (v : Word) : (respOk s v).sent = s.sent := rfl
@[simp] theorem respOk_pageBytes (v : Word) : (respOk s v).pageBytes = s.pageBytes := rfl
@[simp] theorem respOk_hps (v : Word) : (respOk s v).hps = s.hps := rfl
@[simp] theorem respOk_spas (v : Word) : (respOk s v).spas = s.spas := rfl
@[simp] theorem respOk_macs (v : Word) : (respOk s v).macs = s.macs := rfl
@[simp] theorem respOk_frer (v : Word) : (respOk s v).frer = s.frer := rfl
@[simp] theorem respOk_psl (v : Word) : (respOk s v).psl = s.psl := rfl
@[simp] theorem respOk_coh (v : Word) : (respOk s v).coh = s.coh := rfl
@[simp] theorem respOk_fab (v : Word) : (respOk s v).fab = s.fab := rfl
@[simp] theorem respOk_links (v : Word) : (respOk s v).links = s.links := rfl
@[simp] theorem respOk_pwr (v : Word) : (respOk s v).pwr = s.pwr := rfl
@[simp] theorem respOk_jrn (v : Word) : (respOk s v).jrn = s.jrn := rfl
@[simp] theorem respOk_bse (v : Word) : (respOk s v).bse = s.bse := rfl
@[simp] theorem respOk_dbg (v : Word) : (respOk s v).dbg = s.dbg := rfl
@[simp] theorem respOk_lens (v : Word) : (respOk s v).lens = s.lens := rfl
@[simp] theorem respOk_pending (v : Word) : (respOk s v).pending = s.pending := rfl
@[simp] theorem rd_respOk (v : Word) (q : RegAddr) : rd (respOk s v) q = rd s q := rfl
@[simp] theorem rf_respOk (v : Word) (q : RegAddr) (lo' w' : Nat) : rf (respOk s v) q lo' w' = rf s q lo' w' := rfl
@[simp] theorem rb_respOk (v : Word) (q : RegAddr) (j : Nat) : rb (respOk s v) q j = rb s q j := rfl
@[simp] theorem getCore_respOk (v : Word) (c' : Nat) : getCore (respOk s v) c' = getCore s c' := rfl

/-! ### `bumpFree` -/

@[simp] theorem bumpFree_part : (bumpFree s).part = s.part := rfl
@[simp] theorem bumpFree_serial : (bumpFree s).serial = s.serial := rfl
@[simp] theorem bumpFree_time : (bumpFree s).time = s.time := rfl
@[simp] theorem bumpFree_resp : (bumpFree s).resp = s.resp := rfl
@[simp] theorem bumpFree_freeCtr : (bumpFree s).freeCtr = s.freeCtr + 1 := rfl
@[simp] theorem bumpFree_regs : (bumpFree s).regs = s.regs := rfl
@[simp] theorem bumpFree_mem : (bumpFree s).mem = s.mem := rfl
@[simp] theorem bumpFree_poison : (bumpFree s).poison = s.poison := rfl
@[simp] theorem bumpFree_err : (bumpFree s).err = s.err := rfl
@[simp] theorem bumpFree_ammin : (bumpFree s).ammin = s.ammin := rfl
@[simp] theorem bumpFree_fio : (bumpFree s).fio = s.fio := rfl
@[simp] theorem bumpFree_evr : (bumpFree s).evr = s.evr := rfl
@[simp] theorem bumpFree_cores : (bumpFree s).cores = s.cores := rfl
@[simp] theorem bumpFree_prefetch : (bumpFree s).prefetch = s.prefetch := rfl
@[simp] theorem bumpFree_prism : (bumpFree s).prism = s.prism := rfl
@[simp] theorem bumpFree_dom : (bumpFree s).dom = s.dom := rfl
@[simp] theorem bumpFree_smg : (bumpFree s).smg = s.smg := rfl
@[simp] theorem bumpFree_mcp : (bumpFree s).mcp = s.mcp := rfl
@[simp] theorem bumpFree_qe : (bumpFree s).qe = s.qe := rfl
@[simp] theorem bumpFree_ptp : (bumpFree s).ptp = s.ptp := rfl
@[simp] theorem bumpFree_life : (bumpFree s).life = s.life := rfl
@[simp] theorem bumpFree_dmc : (bumpFree s).dmc = s.dmc := rfl
@[simp] theorem bumpFree_fills : (bumpFree s).fills = s.fills := rfl
@[simp] theorem bumpFree_dramGen : (bumpFree s).dramGen = s.dramGen := rfl
@[simp] theorem bumpFree_sent : (bumpFree s).sent = s.sent := rfl
@[simp] theorem bumpFree_pageBytes : (bumpFree s).pageBytes = s.pageBytes := rfl
@[simp] theorem bumpFree_hps : (bumpFree s).hps = s.hps := rfl
@[simp] theorem bumpFree_spas : (bumpFree s).spas = s.spas := rfl
@[simp] theorem bumpFree_macs : (bumpFree s).macs = s.macs := rfl
@[simp] theorem bumpFree_frer : (bumpFree s).frer = s.frer := rfl
@[simp] theorem bumpFree_psl : (bumpFree s).psl = s.psl := rfl
@[simp] theorem bumpFree_coh : (bumpFree s).coh = s.coh := rfl
@[simp] theorem bumpFree_fab : (bumpFree s).fab = s.fab := rfl
@[simp] theorem bumpFree_links : (bumpFree s).links = s.links := rfl
@[simp] theorem bumpFree_pwr : (bumpFree s).pwr = s.pwr := rfl
@[simp] theorem bumpFree_jrn : (bumpFree s).jrn = s.jrn := rfl
@[simp] theorem bumpFree_bse : (bumpFree s).bse = s.bse := rfl
@[simp] theorem bumpFree_dbg : (bumpFree s).dbg = s.dbg := rfl
@[simp] theorem bumpFree_lens : (bumpFree s).lens = s.lens := rfl
@[simp] theorem bumpFree_pending : (bumpFree s).pending = s.pending := rfl
@[simp] theorem rd_bumpFree (q : RegAddr) : rd (bumpFree s) q = rd s q := rfl
@[simp] theorem rf_bumpFree (q : RegAddr) (lo' w' : Nat) : rf (bumpFree s) q lo' w' = rf s q lo' w' := rfl
@[simp] theorem rb_bumpFree (q : RegAddr) (j : Nat) : rb (bumpFree s) q j = rb s q j := rfl
@[simp] theorem getCore_bumpFree (c' : Nat) : getCore (bumpFree s) c' = getCore s c' := rfl

/-! ### `setTb` -/

@[simp] theorem setTb_part (n : Nat) (t : TimeBase) : (setTb s n t).part = s.part := rfl
@[simp] theorem setTb_serial (n : Nat) (t : TimeBase) : (setTb s n t).serial = s.serial := rfl
@[simp] theorem setTb_time (n : Nat) (t : TimeBase) : (setTb s n t).time = s.time := rfl
@[simp] theorem setTb_resp (n : Nat) (t : TimeBase) : (setTb s n t).resp = s.resp := rfl
@[simp] theorem setTb_freeCtr (n : Nat) (t : TimeBase) : (setTb s n t).freeCtr = s.freeCtr := rfl
@[simp] theorem setTb_regs (n : Nat) (t : TimeBase) : (setTb s n t).regs = s.regs := rfl
@[simp] theorem setTb_mem (n : Nat) (t : TimeBase) : (setTb s n t).mem = s.mem := rfl
@[simp] theorem setTb_poison (n : Nat) (t : TimeBase) : (setTb s n t).poison = s.poison := rfl
@[simp] theorem setTb_err (n : Nat) (t : TimeBase) : (setTb s n t).err = s.err := rfl
@[simp] theorem setTb_ammin (n : Nat) (t : TimeBase) : (setTb s n t).ammin = s.ammin := rfl
@[simp] theorem setTb_fio (n : Nat) (t : TimeBase) : (setTb s n t).fio = { s.fio with tbs := listSet s.fio.tbs n t } := rfl
@[simp] theorem setTb_evr (n : Nat) (t : TimeBase) : (setTb s n t).evr = s.evr := rfl
@[simp] theorem setTb_cores (n : Nat) (t : TimeBase) : (setTb s n t).cores = s.cores := rfl
@[simp] theorem setTb_prefetch (n : Nat) (t : TimeBase) : (setTb s n t).prefetch = s.prefetch := rfl
@[simp] theorem setTb_prism (n : Nat) (t : TimeBase) : (setTb s n t).prism = s.prism := rfl
@[simp] theorem setTb_dom (n : Nat) (t : TimeBase) : (setTb s n t).dom = s.dom := rfl
@[simp] theorem setTb_smg (n : Nat) (t : TimeBase) : (setTb s n t).smg = s.smg := rfl
@[simp] theorem setTb_mcp (n : Nat) (t : TimeBase) : (setTb s n t).mcp = s.mcp := rfl
@[simp] theorem setTb_qe (n : Nat) (t : TimeBase) : (setTb s n t).qe = s.qe := rfl
@[simp] theorem setTb_ptp (n : Nat) (t : TimeBase) : (setTb s n t).ptp = s.ptp := rfl
@[simp] theorem setTb_life (n : Nat) (t : TimeBase) : (setTb s n t).life = s.life := rfl
@[simp] theorem setTb_dmc (n : Nat) (t : TimeBase) : (setTb s n t).dmc = s.dmc := rfl
@[simp] theorem setTb_fills (n : Nat) (t : TimeBase) : (setTb s n t).fills = s.fills := rfl
@[simp] theorem setTb_dramGen (n : Nat) (t : TimeBase) : (setTb s n t).dramGen = s.dramGen := rfl
@[simp] theorem setTb_sent (n : Nat) (t : TimeBase) : (setTb s n t).sent = s.sent := rfl
@[simp] theorem setTb_pageBytes (n : Nat) (t : TimeBase) : (setTb s n t).pageBytes = s.pageBytes := rfl
@[simp] theorem setTb_hps (n : Nat) (t : TimeBase) : (setTb s n t).hps = s.hps := rfl
@[simp] theorem setTb_spas (n : Nat) (t : TimeBase) : (setTb s n t).spas = s.spas := rfl
@[simp] theorem setTb_macs (n : Nat) (t : TimeBase) : (setTb s n t).macs = s.macs := rfl
@[simp] theorem setTb_frer (n : Nat) (t : TimeBase) : (setTb s n t).frer = s.frer := rfl
@[simp] theorem setTb_psl (n : Nat) (t : TimeBase) : (setTb s n t).psl = s.psl := rfl
@[simp] theorem setTb_coh (n : Nat) (t : TimeBase) : (setTb s n t).coh = s.coh := rfl
@[simp] theorem setTb_fab (n : Nat) (t : TimeBase) : (setTb s n t).fab = s.fab := rfl
@[simp] theorem setTb_links (n : Nat) (t : TimeBase) : (setTb s n t).links = s.links := rfl
@[simp] theorem setTb_pwr (n : Nat) (t : TimeBase) : (setTb s n t).pwr = s.pwr := rfl
@[simp] theorem setTb_jrn (n : Nat) (t : TimeBase) : (setTb s n t).jrn = s.jrn := rfl
@[simp] theorem setTb_bse (n : Nat) (t : TimeBase) : (setTb s n t).bse = s.bse := rfl
@[simp] theorem setTb_dbg (n : Nat) (t : TimeBase) : (setTb s n t).dbg = s.dbg := rfl
@[simp] theorem setTb_lens (n : Nat) (t : TimeBase) : (setTb s n t).lens = s.lens := rfl
@[simp] theorem setTb_pending (n : Nat) (t : TimeBase) : (setTb s n t).pending = s.pending := rfl
@[simp] theorem rd_setTb (n : Nat) (t : TimeBase) (q : RegAddr) : rd (setTb s n t) q = rd s q := rfl
@[simp] theorem rf_setTb (n : Nat) (t : TimeBase) (q : RegAddr) (lo' w' : Nat) : rf (setTb s n t) q lo' w' = rf s q lo' w' := rfl
@[simp] theorem rb_setTb (n : Nat) (t : TimeBase) (q : RegAddr) (j : Nat) : rb (setTb s n t) q j = rb s q j := rfl
@[simp] theorem getCore_setTb (n : Nat) (t : TimeBase) (c' : Nat) : getCore (setTb s n t) c' = getCore s c' := rfl

/-! ### `setEnc` -/

@[simp] theorem setEnc_part (e : Nat) (x : Encoder) : (setEnc s e x).part = s.part := rfl
@[simp] theorem setEnc_serial (e : Nat) (x : Encoder) : (setEnc s e x).serial = s.serial := rfl
@[simp] theorem setEnc_time (e : Nat) (x : Encoder) : (setEnc s e x).time = s.time := rfl
@[simp] theorem setEnc_resp (e : Nat) (x : Encoder) : (setEnc s e x).resp = s.resp := rfl
@[simp] theorem setEnc_freeCtr (e : Nat) (x : Encoder) : (setEnc s e x).freeCtr = s.freeCtr := rfl
@[simp] theorem setEnc_regs (e : Nat) (x : Encoder) : (setEnc s e x).regs = s.regs := rfl
@[simp] theorem setEnc_mem (e : Nat) (x : Encoder) : (setEnc s e x).mem = s.mem := rfl
@[simp] theorem setEnc_poison (e : Nat) (x : Encoder) : (setEnc s e x).poison = s.poison := rfl
@[simp] theorem setEnc_err (e : Nat) (x : Encoder) : (setEnc s e x).err = s.err := rfl
@[simp] theorem setEnc_ammin (e : Nat) (x : Encoder) : (setEnc s e x).ammin = s.ammin := rfl
@[simp] theorem setEnc_fio (e : Nat) (x : Encoder) : (setEnc s e x).fio = { s.fio with encs := listSet s.fio.encs e x } := rfl
@[simp] theorem setEnc_evr (e : Nat) (x : Encoder) : (setEnc s e x).evr = s.evr := rfl
@[simp] theorem setEnc_cores (e : Nat) (x : Encoder) : (setEnc s e x).cores = s.cores := rfl
@[simp] theorem setEnc_prefetch (e : Nat) (x : Encoder) : (setEnc s e x).prefetch = s.prefetch := rfl
@[simp] theorem setEnc_prism (e : Nat) (x : Encoder) : (setEnc s e x).prism = s.prism := rfl
@[simp] theorem setEnc_dom (e : Nat) (x : Encoder) : (setEnc s e x).dom = s.dom := rfl
@[simp] theorem setEnc_smg (e : Nat) (x : Encoder) : (setEnc s e x).smg = s.smg := rfl
@[simp] theorem setEnc_mcp (e : Nat) (x : Encoder) : (setEnc s e x).mcp = s.mcp := rfl
@[simp] theorem setEnc_qe (e : Nat) (x : Encoder) : (setEnc s e x).qe = s.qe := rfl
@[simp] theorem setEnc_ptp (e : Nat) (x : Encoder) : (setEnc s e x).ptp = s.ptp := rfl
@[simp] theorem setEnc_life (e : Nat) (x : Encoder) : (setEnc s e x).life = s.life := rfl
@[simp] theorem setEnc_dmc (e : Nat) (x : Encoder) : (setEnc s e x).dmc = s.dmc := rfl
@[simp] theorem setEnc_fills (e : Nat) (x : Encoder) : (setEnc s e x).fills = s.fills := rfl
@[simp] theorem setEnc_dramGen (e : Nat) (x : Encoder) : (setEnc s e x).dramGen = s.dramGen := rfl
@[simp] theorem setEnc_sent (e : Nat) (x : Encoder) : (setEnc s e x).sent = s.sent := rfl
@[simp] theorem setEnc_pageBytes (e : Nat) (x : Encoder) : (setEnc s e x).pageBytes = s.pageBytes := rfl
@[simp] theorem setEnc_hps (e : Nat) (x : Encoder) : (setEnc s e x).hps = s.hps := rfl
@[simp] theorem setEnc_spas (e : Nat) (x : Encoder) : (setEnc s e x).spas = s.spas := rfl
@[simp] theorem setEnc_macs (e : Nat) (x : Encoder) : (setEnc s e x).macs = s.macs := rfl
@[simp] theorem setEnc_frer (e : Nat) (x : Encoder) : (setEnc s e x).frer = s.frer := rfl
@[simp] theorem setEnc_psl (e : Nat) (x : Encoder) : (setEnc s e x).psl = s.psl := rfl
@[simp] theorem setEnc_coh (e : Nat) (x : Encoder) : (setEnc s e x).coh = s.coh := rfl
@[simp] theorem setEnc_fab (e : Nat) (x : Encoder) : (setEnc s e x).fab = s.fab := rfl
@[simp] theorem setEnc_links (e : Nat) (x : Encoder) : (setEnc s e x).links = s.links := rfl
@[simp] theorem setEnc_pwr (e : Nat) (x : Encoder) : (setEnc s e x).pwr = s.pwr := rfl
@[simp] theorem setEnc_jrn (e : Nat) (x : Encoder) : (setEnc s e x).jrn = s.jrn := rfl
@[simp] theorem setEnc_bse (e : Nat) (x : Encoder) : (setEnc s e x).bse = s.bse := rfl
@[simp] theorem setEnc_dbg (e : Nat) (x : Encoder) : (setEnc s e x).dbg = s.dbg := rfl
@[simp] theorem setEnc_lens (e : Nat) (x : Encoder) : (setEnc s e x).lens = s.lens := rfl
@[simp] theorem setEnc_pending (e : Nat) (x : Encoder) : (setEnc s e x).pending = s.pending := rfl
@[simp] theorem rd_setEnc (e : Nat) (x : Encoder) (q : RegAddr) : rd (setEnc s e x) q = rd s q := rfl
@[simp] theorem rf_setEnc (e : Nat) (x : Encoder) (q : RegAddr) (lo' w' : Nat) : rf (setEnc s e x) q lo' w' = rf s q lo' w' := rfl
@[simp] theorem rb_setEnc (e : Nat) (x : Encoder) (q : RegAddr) (j : Nat) : rb (setEnc s e x) q j = rb s q j := rfl
@[simp] theorem getCore_setEnc (e : Nat) (x : Encoder) (c' : Nat) : getCore (setEnc s e x) c' = getCore s c' := rfl

/-! ### `setCmp` -/

@[simp] theorem setCmp_part (m : Nat) (c : CmpSt) : (setCmp s m c).part = s.part := rfl
@[simp] theorem setCmp_serial (m : Nat) (c : CmpSt) : (setCmp s m c).serial = s.serial := rfl
@[simp] theorem setCmp_time (m : Nat) (c : CmpSt) : (setCmp s m c).time = s.time := rfl
@[simp] theorem setCmp_resp (m : Nat) (c : CmpSt) : (setCmp s m c).resp = s.resp := rfl
@[simp] theorem setCmp_freeCtr (m : Nat) (c : CmpSt) : (setCmp s m c).freeCtr = s.freeCtr := rfl
@[simp] theorem setCmp_regs (m : Nat) (c : CmpSt) : (setCmp s m c).regs = s.regs := rfl
@[simp] theorem setCmp_mem (m : Nat) (c : CmpSt) : (setCmp s m c).mem = s.mem := rfl
@[simp] theorem setCmp_poison (m : Nat) (c : CmpSt) : (setCmp s m c).poison = s.poison := rfl
@[simp] theorem setCmp_err (m : Nat) (c : CmpSt) : (setCmp s m c).err = s.err := rfl
@[simp] theorem setCmp_ammin (m : Nat) (c : CmpSt) : (setCmp s m c).ammin = s.ammin := rfl
@[simp] theorem setCmp_fio (m : Nat) (c : CmpSt) : (setCmp s m c).fio = { s.fio with cmps := s.fio.cmps.set m c } := rfl
@[simp] theorem setCmp_evr (m : Nat) (c : CmpSt) : (setCmp s m c).evr = s.evr := rfl
@[simp] theorem setCmp_cores (m : Nat) (c : CmpSt) : (setCmp s m c).cores = s.cores := rfl
@[simp] theorem setCmp_prefetch (m : Nat) (c : CmpSt) : (setCmp s m c).prefetch = s.prefetch := rfl
@[simp] theorem setCmp_prism (m : Nat) (c : CmpSt) : (setCmp s m c).prism = s.prism := rfl
@[simp] theorem setCmp_dom (m : Nat) (c : CmpSt) : (setCmp s m c).dom = s.dom := rfl
@[simp] theorem setCmp_smg (m : Nat) (c : CmpSt) : (setCmp s m c).smg = s.smg := rfl
@[simp] theorem setCmp_mcp (m : Nat) (c : CmpSt) : (setCmp s m c).mcp = s.mcp := rfl
@[simp] theorem setCmp_qe (m : Nat) (c : CmpSt) : (setCmp s m c).qe = s.qe := rfl
@[simp] theorem setCmp_ptp (m : Nat) (c : CmpSt) : (setCmp s m c).ptp = s.ptp := rfl
@[simp] theorem setCmp_life (m : Nat) (c : CmpSt) : (setCmp s m c).life = s.life := rfl
@[simp] theorem setCmp_dmc (m : Nat) (c : CmpSt) : (setCmp s m c).dmc = s.dmc := rfl
@[simp] theorem setCmp_fills (m : Nat) (c : CmpSt) : (setCmp s m c).fills = s.fills := rfl
@[simp] theorem setCmp_dramGen (m : Nat) (c : CmpSt) : (setCmp s m c).dramGen = s.dramGen := rfl
@[simp] theorem setCmp_sent (m : Nat) (c : CmpSt) : (setCmp s m c).sent = s.sent := rfl
@[simp] theorem setCmp_pageBytes (m : Nat) (c : CmpSt) : (setCmp s m c).pageBytes = s.pageBytes := rfl
@[simp] theorem setCmp_hps (m : Nat) (c : CmpSt) : (setCmp s m c).hps = s.hps := rfl
@[simp] theorem setCmp_spas (m : Nat) (c : CmpSt) : (setCmp s m c).spas = s.spas := rfl
@[simp] theorem setCmp_macs (m : Nat) (c : CmpSt) : (setCmp s m c).macs = s.macs := rfl
@[simp] theorem setCmp_frer (m : Nat) (c : CmpSt) : (setCmp s m c).frer = s.frer := rfl
@[simp] theorem setCmp_psl (m : Nat) (c : CmpSt) : (setCmp s m c).psl = s.psl := rfl
@[simp] theorem setCmp_coh (m : Nat) (c : CmpSt) : (setCmp s m c).coh = s.coh := rfl
@[simp] theorem setCmp_fab (m : Nat) (c : CmpSt) : (setCmp s m c).fab = s.fab := rfl
@[simp] theorem setCmp_links (m : Nat) (c : CmpSt) : (setCmp s m c).links = s.links := rfl
@[simp] theorem setCmp_pwr (m : Nat) (c : CmpSt) : (setCmp s m c).pwr = s.pwr := rfl
@[simp] theorem setCmp_jrn (m : Nat) (c : CmpSt) : (setCmp s m c).jrn = s.jrn := rfl
@[simp] theorem setCmp_bse (m : Nat) (c : CmpSt) : (setCmp s m c).bse = s.bse := rfl
@[simp] theorem setCmp_dbg (m : Nat) (c : CmpSt) : (setCmp s m c).dbg = s.dbg := rfl
@[simp] theorem setCmp_lens (m : Nat) (c : CmpSt) : (setCmp s m c).lens = s.lens := rfl
@[simp] theorem setCmp_pending (m : Nat) (c : CmpSt) : (setCmp s m c).pending = s.pending := rfl
@[simp] theorem rd_setCmp (m : Nat) (c : CmpSt) (q : RegAddr) : rd (setCmp s m c) q = rd s q := rfl
@[simp] theorem rf_setCmp (m : Nat) (c : CmpSt) (q : RegAddr) (lo' w' : Nat) : rf (setCmp s m c) q lo' w' = rf s q lo' w' := rfl
@[simp] theorem rb_setCmp (m : Nat) (c : CmpSt) (q : RegAddr) (j : Nat) : rb (setCmp s m c) q j = rb s q j := rfl
@[simp] theorem getCore_setCmp (m : Nat) (c : CmpSt) (c' : Nat) : getCore (setCmp s m c) c' = getCore s c' := rfl

/-! ### `setGpe` -/

@[simp] theorem setGpe_part (g : Nat) (u : Gpe) : (setGpe s g u).part = s.part := rfl
@[simp] theorem setGpe_serial (g : Nat) (u : Gpe) : (setGpe s g u).serial = s.serial := rfl
@[simp] theorem setGpe_time (g : Nat) (u : Gpe) : (setGpe s g u).time = s.time := rfl
@[simp] theorem setGpe_resp (g : Nat) (u : Gpe) : (setGpe s g u).resp = s.resp := rfl
@[simp] theorem setGpe_freeCtr (g : Nat) (u : Gpe) : (setGpe s g u).freeCtr = s.freeCtr := rfl
@[simp] theorem setGpe_regs (g : Nat) (u : Gpe) : (setGpe s g u).regs = s.regs := rfl
@[simp] theorem setGpe_mem (g : Nat) (u : Gpe) : (setGpe s g u).mem = s.mem := rfl
@[simp] theorem setGpe_poison (g : Nat) (u : Gpe) : (setGpe s g u).poison = s.poison := rfl
@[simp] theorem setGpe_err (g : Nat) (u : Gpe) : (setGpe s g u).err = s.err := rfl
@[simp] theorem setGpe_ammin (g : Nat) (u : Gpe) : (setGpe s g u).ammin = s.ammin := rfl
@[simp] theorem setGpe_fio (g : Nat) (u : Gpe) : (setGpe s g u).fio = { s.fio with gpes := listSet s.fio.gpes g u } := rfl
@[simp] theorem setGpe_evr (g : Nat) (u : Gpe) : (setGpe s g u).evr = s.evr := rfl
@[simp] theorem setGpe_cores (g : Nat) (u : Gpe) : (setGpe s g u).cores = s.cores := rfl
@[simp] theorem setGpe_prefetch (g : Nat) (u : Gpe) : (setGpe s g u).prefetch = s.prefetch := rfl
@[simp] theorem setGpe_prism (g : Nat) (u : Gpe) : (setGpe s g u).prism = s.prism := rfl
@[simp] theorem setGpe_dom (g : Nat) (u : Gpe) : (setGpe s g u).dom = s.dom := rfl
@[simp] theorem setGpe_smg (g : Nat) (u : Gpe) : (setGpe s g u).smg = s.smg := rfl
@[simp] theorem setGpe_mcp (g : Nat) (u : Gpe) : (setGpe s g u).mcp = s.mcp := rfl
@[simp] theorem setGpe_qe (g : Nat) (u : Gpe) : (setGpe s g u).qe = s.qe := rfl
@[simp] theorem setGpe_ptp (g : Nat) (u : Gpe) : (setGpe s g u).ptp = s.ptp := rfl
@[simp] theorem setGpe_life (g : Nat) (u : Gpe) : (setGpe s g u).life = s.life := rfl
@[simp] theorem setGpe_dmc (g : Nat) (u : Gpe) : (setGpe s g u).dmc = s.dmc := rfl
@[simp] theorem setGpe_fills (g : Nat) (u : Gpe) : (setGpe s g u).fills = s.fills := rfl
@[simp] theorem setGpe_dramGen (g : Nat) (u : Gpe) : (setGpe s g u).dramGen = s.dramGen := rfl
@[simp] theorem setGpe_sent (g : Nat) (u : Gpe) : (setGpe s g u).sent = s.sent := rfl
@[simp] theorem setGpe_pageBytes (g : Nat) (u : Gpe) : (setGpe s g u).pageBytes = s.pageBytes := rfl
@[simp] theorem setGpe_hps (g : Nat) (u : Gpe) : (setGpe s g u).hps = s.hps := rfl
@[simp] theorem setGpe_spas (g : Nat) (u : Gpe) : (setGpe s g u).spas = s.spas := rfl
@[simp] theorem setGpe_macs (g : Nat) (u : Gpe) : (setGpe s g u).macs = s.macs := rfl
@[simp] theorem setGpe_frer (g : Nat) (u : Gpe) : (setGpe s g u).frer = s.frer := rfl
@[simp] theorem setGpe_psl (g : Nat) (u : Gpe) : (setGpe s g u).psl = s.psl := rfl
@[simp] theorem setGpe_coh (g : Nat) (u : Gpe) : (setGpe s g u).coh = s.coh := rfl
@[simp] theorem setGpe_fab (g : Nat) (u : Gpe) : (setGpe s g u).fab = s.fab := rfl
@[simp] theorem setGpe_links (g : Nat) (u : Gpe) : (setGpe s g u).links = s.links := rfl
@[simp] theorem setGpe_pwr (g : Nat) (u : Gpe) : (setGpe s g u).pwr = s.pwr := rfl
@[simp] theorem setGpe_jrn (g : Nat) (u : Gpe) : (setGpe s g u).jrn = s.jrn := rfl
@[simp] theorem setGpe_bse (g : Nat) (u : Gpe) : (setGpe s g u).bse = s.bse := rfl
@[simp] theorem setGpe_dbg (g : Nat) (u : Gpe) : (setGpe s g u).dbg = s.dbg := rfl
@[simp] theorem setGpe_lens (g : Nat) (u : Gpe) : (setGpe s g u).lens = s.lens := rfl
@[simp] theorem setGpe_pending (g : Nat) (u : Gpe) : (setGpe s g u).pending = s.pending := rfl
@[simp] theorem rd_setGpe (g : Nat) (u : Gpe) (q : RegAddr) : rd (setGpe s g u) q = rd s q := rfl
@[simp] theorem rf_setGpe (g : Nat) (u : Gpe) (q : RegAddr) (lo' w' : Nat) : rf (setGpe s g u) q lo' w' = rf s q lo' w' := rfl
@[simp] theorem rb_setGpe (g : Nat) (u : Gpe) (q : RegAddr) (j : Nat) : rb (setGpe s g u) q j = rb s q j := rfl
@[simp] theorem getCore_setGpe (g : Nat) (u : Gpe) (c' : Nat) : getCore (setGpe s g u) c' = getCore s c' := rfl

/-! ### `setSdm` -/

@[simp] theorem setSdm_part (n : Nat) (x : SdmCh) : (setSdm s n x).part = s.part := rfl
@[simp] theorem setSdm_serial (n : Nat) (x : SdmCh) : (setSdm s n x).serial = s.serial := rfl
@[simp] theorem setSdm_time (n : Nat) (x : SdmCh) : (setSdm s n x).time = s.time := rfl
@[simp] theorem setSdm_resp (n : Nat) (x : SdmCh) : (setSdm s n x).resp = s.resp := rfl
@[simp] theorem setSdm_freeCtr (n : Nat) (x : SdmCh) : (setSdm s n x).freeCtr = s.freeCtr := rfl
@[simp] theorem setSdm_regs (n : Nat) (x : SdmCh) : (setSdm s n x).regs = s.regs := rfl
@[simp] theorem setSdm_mem (n : Nat) (x : SdmCh) : (setSdm s n x).mem = s.mem := rfl
@[simp] theorem setSdm_poison (n : Nat) (x : SdmCh) : (setSdm s n x).poison = s.poison := rfl
@[simp] theorem setSdm_err (n : Nat) (x : SdmCh) : (setSdm s n x).err = s.err := rfl
@[simp] theorem setSdm_ammin (n : Nat) (x : SdmCh) : (setSdm s n x).ammin = s.ammin := rfl
@[simp] theorem setSdm_fio (n : Nat) (x : SdmCh) : (setSdm s n x).fio = { s.fio with sdm := listSet s.fio.sdm n x } := rfl
@[simp] theorem setSdm_evr (n : Nat) (x : SdmCh) : (setSdm s n x).evr = s.evr := rfl
@[simp] theorem setSdm_cores (n : Nat) (x : SdmCh) : (setSdm s n x).cores = s.cores := rfl
@[simp] theorem setSdm_prefetch (n : Nat) (x : SdmCh) : (setSdm s n x).prefetch = s.prefetch := rfl
@[simp] theorem setSdm_prism (n : Nat) (x : SdmCh) : (setSdm s n x).prism = s.prism := rfl
@[simp] theorem setSdm_dom (n : Nat) (x : SdmCh) : (setSdm s n x).dom = s.dom := rfl
@[simp] theorem setSdm_smg (n : Nat) (x : SdmCh) : (setSdm s n x).smg = s.smg := rfl
@[simp] theorem setSdm_mcp (n : Nat) (x : SdmCh) : (setSdm s n x).mcp = s.mcp := rfl
@[simp] theorem setSdm_qe (n : Nat) (x : SdmCh) : (setSdm s n x).qe = s.qe := rfl
@[simp] theorem setSdm_ptp (n : Nat) (x : SdmCh) : (setSdm s n x).ptp = s.ptp := rfl
@[simp] theorem setSdm_life (n : Nat) (x : SdmCh) : (setSdm s n x).life = s.life := rfl
@[simp] theorem setSdm_dmc (n : Nat) (x : SdmCh) : (setSdm s n x).dmc = s.dmc := rfl
@[simp] theorem setSdm_fills (n : Nat) (x : SdmCh) : (setSdm s n x).fills = s.fills := rfl
@[simp] theorem setSdm_dramGen (n : Nat) (x : SdmCh) : (setSdm s n x).dramGen = s.dramGen := rfl
@[simp] theorem setSdm_sent (n : Nat) (x : SdmCh) : (setSdm s n x).sent = s.sent := rfl
@[simp] theorem setSdm_pageBytes (n : Nat) (x : SdmCh) : (setSdm s n x).pageBytes = s.pageBytes := rfl
@[simp] theorem setSdm_hps (n : Nat) (x : SdmCh) : (setSdm s n x).hps = s.hps := rfl
@[simp] theorem setSdm_spas (n : Nat) (x : SdmCh) : (setSdm s n x).spas = s.spas := rfl
@[simp] theorem setSdm_macs (n : Nat) (x : SdmCh) : (setSdm s n x).macs = s.macs := rfl
@[simp] theorem setSdm_frer (n : Nat) (x : SdmCh) : (setSdm s n x).frer = s.frer := rfl
@[simp] theorem setSdm_psl (n : Nat) (x : SdmCh) : (setSdm s n x).psl = s.psl := rfl
@[simp] theorem setSdm_coh (n : Nat) (x : SdmCh) : (setSdm s n x).coh = s.coh := rfl
@[simp] theorem setSdm_fab (n : Nat) (x : SdmCh) : (setSdm s n x).fab = s.fab := rfl
@[simp] theorem setSdm_links (n : Nat) (x : SdmCh) : (setSdm s n x).links = s.links := rfl
@[simp] theorem setSdm_pwr (n : Nat) (x : SdmCh) : (setSdm s n x).pwr = s.pwr := rfl
@[simp] theorem setSdm_jrn (n : Nat) (x : SdmCh) : (setSdm s n x).jrn = s.jrn := rfl
@[simp] theorem setSdm_bse (n : Nat) (x : SdmCh) : (setSdm s n x).bse = s.bse := rfl
@[simp] theorem setSdm_dbg (n : Nat) (x : SdmCh) : (setSdm s n x).dbg = s.dbg := rfl
@[simp] theorem setSdm_lens (n : Nat) (x : SdmCh) : (setSdm s n x).lens = s.lens := rfl
@[simp] theorem setSdm_pending (n : Nat) (x : SdmCh) : (setSdm s n x).pending = s.pending := rfl
@[simp] theorem rd_setSdm (n : Nat) (x : SdmCh) (q : RegAddr) : rd (setSdm s n x) q = rd s q := rfl
@[simp] theorem rf_setSdm (n : Nat) (x : SdmCh) (q : RegAddr) (lo' w' : Nat) : rf (setSdm s n x) q lo' w' = rf s q lo' w' := rfl
@[simp] theorem rb_setSdm (n : Nat) (x : SdmCh) (q : RegAddr) (j : Nat) : rb (setSdm s n x) q j = rb s q j := rfl
@[simp] theorem getCore_setSdm (n : Nat) (x : SdmCh) (c' : Nat) : getCore (setSdm s n x) c' = getCore s c' := rfl

/-! ### `setSrc` -/

@[simp] theorem setSrc_part (n : Nat) (x : Src) : (setSrc s n x).part = s.part := rfl
@[simp] theorem setSrc_serial (n : Nat) (x : Src) : (setSrc s n x).serial = s.serial := rfl
@[simp] theorem setSrc_time (n : Nat) (x : Src) : (setSrc s n x).time = s.time := rfl
@[simp] theorem setSrc_resp (n : Nat) (x : Src) : (setSrc s n x).resp = s.resp := rfl
@[simp] theorem setSrc_freeCtr (n : Nat) (x : Src) : (setSrc s n x).freeCtr = s.freeCtr := rfl
@[simp] theorem setSrc_regs (n : Nat) (x : Src) : (setSrc s n x).regs = s.regs := rfl
@[simp] theorem setSrc_mem (n : Nat) (x : Src) : (setSrc s n x).mem = s.mem := rfl
@[simp] theorem setSrc_poison (n : Nat) (x : Src) : (setSrc s n x).poison = s.poison := rfl
@[simp] theorem setSrc_err (n : Nat) (x : Src) : (setSrc s n x).err = s.err := rfl
@[simp] theorem setSrc_ammin (n : Nat) (x : Src) : (setSrc s n x).ammin = s.ammin := rfl
@[simp] theorem setSrc_fio (n : Nat) (x : Src) : (setSrc s n x).fio = s.fio := rfl
@[simp] theorem setSrc_evr (n : Nat) (x : Src) : (setSrc s n x).evr = { s.evr with srcs := s.evr.srcs.set n x } := rfl
@[simp] theorem setSrc_cores (n : Nat) (x : Src) : (setSrc s n x).cores = s.cores := rfl
@[simp] theorem setSrc_prefetch (n : Nat) (x : Src) : (setSrc s n x).prefetch = s.prefetch := rfl
@[simp] theorem setSrc_prism (n : Nat) (x : Src) : (setSrc s n x).prism = s.prism := rfl
@[simp] theorem setSrc_dom (n : Nat) (x : Src) : (setSrc s n x).dom = s.dom := rfl
@[simp] theorem setSrc_smg (n : Nat) (x : Src) : (setSrc s n x).smg = s.smg := rfl
@[simp] theorem setSrc_mcp (n : Nat) (x : Src) : (setSrc s n x).mcp = s.mcp := rfl
@[simp] theorem setSrc_qe (n : Nat) (x : Src) : (setSrc s n x).qe = s.qe := rfl
@[simp] theorem setSrc_ptp (n : Nat) (x : Src) : (setSrc s n x).ptp = s.ptp := rfl
@[simp] theorem setSrc_life (n : Nat) (x : Src) : (setSrc s n x).life = s.life := rfl
@[simp] theorem setSrc_dmc (n : Nat) (x : Src) : (setSrc s n x).dmc = s.dmc := rfl
@[simp] theorem setSrc_fills (n : Nat) (x : Src) : (setSrc s n x).fills = s.fills := rfl
@[simp] theorem setSrc_dramGen (n : Nat) (x : Src) : (setSrc s n x).dramGen = s.dramGen := rfl
@[simp] theorem setSrc_sent (n : Nat) (x : Src) : (setSrc s n x).sent = s.sent := rfl
@[simp] theorem setSrc_pageBytes (n : Nat) (x : Src) : (setSrc s n x).pageBytes = s.pageBytes := rfl
@[simp] theorem setSrc_hps (n : Nat) (x : Src) : (setSrc s n x).hps = s.hps := rfl
@[simp] theorem setSrc_spas (n : Nat) (x : Src) : (setSrc s n x).spas = s.spas := rfl
@[simp] theorem setSrc_macs (n : Nat) (x : Src) : (setSrc s n x).macs = s.macs := rfl
@[simp] theorem setSrc_frer (n : Nat) (x : Src) : (setSrc s n x).frer = s.frer := rfl
@[simp] theorem setSrc_psl (n : Nat) (x : Src) : (setSrc s n x).psl = s.psl := rfl
@[simp] theorem setSrc_coh (n : Nat) (x : Src) : (setSrc s n x).coh = s.coh := rfl
@[simp] theorem setSrc_fab (n : Nat) (x : Src) : (setSrc s n x).fab = s.fab := rfl
@[simp] theorem setSrc_links (n : Nat) (x : Src) : (setSrc s n x).links = s.links := rfl
@[simp] theorem setSrc_pwr (n : Nat) (x : Src) : (setSrc s n x).pwr = s.pwr := rfl
@[simp] theorem setSrc_jrn (n : Nat) (x : Src) : (setSrc s n x).jrn = s.jrn := rfl
@[simp] theorem setSrc_bse (n : Nat) (x : Src) : (setSrc s n x).bse = s.bse := rfl
@[simp] theorem setSrc_dbg (n : Nat) (x : Src) : (setSrc s n x).dbg = s.dbg := rfl
@[simp] theorem setSrc_lens (n : Nat) (x : Src) : (setSrc s n x).lens = s.lens := rfl
@[simp] theorem setSrc_pending (n : Nat) (x : Src) : (setSrc s n x).pending = s.pending := rfl
@[simp] theorem rd_setSrc (n : Nat) (x : Src) (q : RegAddr) : rd (setSrc s n x) q = rd s q := rfl
@[simp] theorem rf_setSrc (n : Nat) (x : Src) (q : RegAddr) (lo' w' : Nat) : rf (setSrc s n x) q lo' w' = rf s q lo' w' := rfl
@[simp] theorem rb_setSrc (n : Nat) (x : Src) (q : RegAddr) (j : Nat) : rb (setSrc s n x) q j = rb s q j := rfl
@[simp] theorem getCore_setSrc (n : Nat) (x : Src) (c' : Nat) : getCore (setSrc s n x) c' = getCore s c' := rfl

/-! ### `setPool` -/

@[simp] theorem setPool_part (n : Nat) (p : Pool) : (setPool s n p).part = s.part := rfl
@[simp] theorem setPool_serial (n : Nat) (p : Pool) : (setPool s n p).serial = s.serial := rfl
@[simp] theorem setPool_time (n : Nat) (p : Pool) : (setPool s n p).time = s.time := rfl
@[simp] theorem setPool_resp (n : Nat) (p : Pool) : (setPool s n p).resp = s.resp := rfl
@[simp] theorem setPool_freeCtr (n : Nat) (p : Pool) : (setPool s n p).freeCtr = s.freeCtr := rfl
@[simp] theorem setPool_regs (n : Nat) (p : Pool) : (setPool s n p).regs = s.regs := rfl
@[simp] theorem setPool_mem (n : Nat) (p : Pool) : (setPool s n p).mem = s.mem := rfl
@[simp] theorem setPool_poison (n : Nat) (p : Pool) : (setPool s n p).poison = s.poison := rfl
@[simp] theorem setPool_err (n : Nat) (p : Pool) : (setPool s n p).err = s.err := rfl
@[simp] theorem setPool_ammin (n : Nat) (p : Pool) : (setPool s n p).ammin = s.ammin := rfl
@[simp] theorem setPool_fio (n : Nat) (p : Pool) : (setPool s n p).fio = s.fio := rfl
@[simp] theorem setPool_evr (n : Nat) (p : Pool) : (setPool s n p).evr = { s.evr with pools := s.evr.pools.set n p } := rfl
@[simp] theorem setPool_cores (n : Nat) (p : Pool) : (setPool s n p).cores = s.cores := rfl
@[simp] theorem setPool_prefetch (n : Nat) (p : Pool) : (setPool s n p).prefetch = s.prefetch := rfl
@[simp] theorem setPool_prism (n : Nat) (p : Pool) : (setPool s n p).prism = s.prism := rfl
@[simp] theorem setPool_dom (n : Nat) (p : Pool) : (setPool s n p).dom = s.dom := rfl
@[simp] theorem setPool_smg (n : Nat) (p : Pool) : (setPool s n p).smg = s.smg := rfl
@[simp] theorem setPool_mcp (n : Nat) (p : Pool) : (setPool s n p).mcp = s.mcp := rfl
@[simp] theorem setPool_qe (n : Nat) (p : Pool) : (setPool s n p).qe = s.qe := rfl
@[simp] theorem setPool_ptp (n : Nat) (p : Pool) : (setPool s n p).ptp = s.ptp := rfl
@[simp] theorem setPool_life (n : Nat) (p : Pool) : (setPool s n p).life = s.life := rfl
@[simp] theorem setPool_dmc (n : Nat) (p : Pool) : (setPool s n p).dmc = s.dmc := rfl
@[simp] theorem setPool_fills (n : Nat) (p : Pool) : (setPool s n p).fills = s.fills := rfl
@[simp] theorem setPool_dramGen (n : Nat) (p : Pool) : (setPool s n p).dramGen = s.dramGen := rfl
@[simp] theorem setPool_sent (n : Nat) (p : Pool) : (setPool s n p).sent = s.sent := rfl
@[simp] theorem setPool_pageBytes (n : Nat) (p : Pool) : (setPool s n p).pageBytes = s.pageBytes := rfl
@[simp] theorem setPool_hps (n : Nat) (p : Pool) : (setPool s n p).hps = s.hps := rfl
@[simp] theorem setPool_spas (n : Nat) (p : Pool) : (setPool s n p).spas = s.spas := rfl
@[simp] theorem setPool_macs (n : Nat) (p : Pool) : (setPool s n p).macs = s.macs := rfl
@[simp] theorem setPool_frer (n : Nat) (p : Pool) : (setPool s n p).frer = s.frer := rfl
@[simp] theorem setPool_psl (n : Nat) (p : Pool) : (setPool s n p).psl = s.psl := rfl
@[simp] theorem setPool_coh (n : Nat) (p : Pool) : (setPool s n p).coh = s.coh := rfl
@[simp] theorem setPool_fab (n : Nat) (p : Pool) : (setPool s n p).fab = s.fab := rfl
@[simp] theorem setPool_links (n : Nat) (p : Pool) : (setPool s n p).links = s.links := rfl
@[simp] theorem setPool_pwr (n : Nat) (p : Pool) : (setPool s n p).pwr = s.pwr := rfl
@[simp] theorem setPool_jrn (n : Nat) (p : Pool) : (setPool s n p).jrn = s.jrn := rfl
@[simp] theorem setPool_bse (n : Nat) (p : Pool) : (setPool s n p).bse = s.bse := rfl
@[simp] theorem setPool_dbg (n : Nat) (p : Pool) : (setPool s n p).dbg = s.dbg := rfl
@[simp] theorem setPool_lens (n : Nat) (p : Pool) : (setPool s n p).lens = s.lens := rfl
@[simp] theorem setPool_pending (n : Nat) (p : Pool) : (setPool s n p).pending = s.pending := rfl
@[simp] theorem rd_setPool (n : Nat) (p : Pool) (q : RegAddr) : rd (setPool s n p) q = rd s q := rfl
@[simp] theorem rf_setPool (n : Nat) (p : Pool) (q : RegAddr) (lo' w' : Nat) : rf (setPool s n p) q lo' w' = rf s q lo' w' := rfl
@[simp] theorem rb_setPool (n : Nat) (p : Pool) (q : RegAddr) (j : Nat) : rb (setPool s n p) q j = rb s q j := rfl
@[simp] theorem getCore_setPool (n : Nat) (p : Pool) (c' : Nat) : getCore (setPool s n p) c' = getCore s c' := rfl

/-! ### `assertSrc` -/

@[simp] theorem assertSrc_part (n : Nat) (late : Bool) : (assertSrc s n late).part = s.part := rfl
@[simp] theorem assertSrc_serial (n : Nat) (late : Bool) : (assertSrc s n late).serial = s.serial := rfl
@[simp] theorem assertSrc_time (n : Nat) (late : Bool) : (assertSrc s n late).time = s.time := rfl
@[simp] theorem assertSrc_resp (n : Nat) (late : Bool) : (assertSrc s n late).resp = s.resp := rfl
@[simp] theorem assertSrc_freeCtr (n : Nat) (late : Bool) : (assertSrc s n late).freeCtr = s.freeCtr := rfl
@[simp] theorem assertSrc_regs (n : Nat) (late : Bool) : (assertSrc s n late).regs = s.regs := rfl
@[simp] theorem assertSrc_mem (n : Nat) (late : Bool) : (assertSrc s n late).mem = s.mem := rfl
@[simp] theorem assertSrc_poison (n : Nat) (late : Bool) : (assertSrc s n late).poison = s.poison := rfl
@[simp] theorem assertSrc_err (n : Nat) (late : Bool) : (assertSrc s n late).err = s.err := rfl
@[simp] theorem assertSrc_ammin (n : Nat) (late : Bool) : (assertSrc s n late).ammin = s.ammin := rfl
@[simp] theorem assertSrc_fio (n : Nat) (late : Bool) : (assertSrc s n late).fio = s.fio := rfl
@[simp] theorem assertSrc_evr (n : Nat) (late : Bool) : (assertSrc s n late).evr = { s.evr with arrivals := s.evr.arrivals ++ [{ src := n, late := late, phases := phasesNow s, time := s.time }] } := rfl
@[simp] theorem assertSrc_cores (n : Nat) (late : Bool) : (assertSrc s n late).cores = s.cores := rfl
@[simp] theorem assertSrc_prefetch (n : Nat) (late : Bool) : (assertSrc s n late).prefetch = s.prefetch := rfl
@[simp] theorem assertSrc_prism (n : Nat) (late : Bool) : (assertSrc s n late).prism = s.prism := rfl
@[simp] theorem assertSrc_dom (n : Nat) (late : Bool) : (assertSrc s n late).dom = s.dom := rfl
@[simp] theorem assertSrc_smg (n : Nat) (late : Bool) : (assertSrc s n late).smg = s.smg := rfl
@[simp] theorem assertSrc_mcp (n : Nat) (late : Bool) : (assertSrc s n late).mcp = s.mcp := rfl
@[simp] theorem assertSrc_qe (n : Nat) (late : Bool) : (assertSrc s n late).qe = s.qe := rfl
@[simp] theorem assertSrc_ptp (n : Nat) (late : Bool) : (assertSrc s n late).ptp = s.ptp := rfl
@[simp] theorem assertSrc_life (n : Nat) (late : Bool) : (assertSrc s n late).life = s.life := rfl
@[simp] theorem assertSrc_dmc (n : Nat) (late : Bool) : (assertSrc s n late).dmc = s.dmc := rfl
@[simp] theorem assertSrc_fills (n : Nat) (late : Bool) : (assertSrc s n late).fills = s.fills := rfl
@[simp] theorem assertSrc_dramGen (n : Nat) (late : Bool) : (assertSrc s n late).dramGen = s.dramGen := rfl
@[simp] theorem assertSrc_sent (n : Nat) (late : Bool) : (assertSrc s n late).sent = s.sent := rfl
@[simp] theorem assertSrc_pageBytes (n : Nat) (late : Bool) : (assertSrc s n late).pageBytes = s.pageBytes := rfl
@[simp] theorem assertSrc_hps (n : Nat) (late : Bool) : (assertSrc s n late).hps = s.hps := rfl
@[simp] theorem assertSrc_spas (n : Nat) (late : Bool) : (assertSrc s n late).spas = s.spas := rfl
@[simp] theorem assertSrc_macs (n : Nat) (late : Bool) : (assertSrc s n late).macs = s.macs := rfl
@[simp] theorem assertSrc_frer (n : Nat) (late : Bool) : (assertSrc s n late).frer = s.frer := rfl
@[simp] theorem assertSrc_psl (n : Nat) (late : Bool) : (assertSrc s n late).psl = s.psl := rfl
@[simp] theorem assertSrc_coh (n : Nat) (late : Bool) : (assertSrc s n late).coh = s.coh := rfl
@[simp] theorem assertSrc_fab (n : Nat) (late : Bool) : (assertSrc s n late).fab = s.fab := rfl
@[simp] theorem assertSrc_links (n : Nat) (late : Bool) : (assertSrc s n late).links = s.links := rfl
@[simp] theorem assertSrc_pwr (n : Nat) (late : Bool) : (assertSrc s n late).pwr = s.pwr := rfl
@[simp] theorem assertSrc_jrn (n : Nat) (late : Bool) : (assertSrc s n late).jrn = s.jrn := rfl
@[simp] theorem assertSrc_bse (n : Nat) (late : Bool) : (assertSrc s n late).bse = s.bse := rfl
@[simp] theorem assertSrc_dbg (n : Nat) (late : Bool) : (assertSrc s n late).dbg = s.dbg := rfl
@[simp] theorem assertSrc_lens (n : Nat) (late : Bool) : (assertSrc s n late).lens = s.lens := rfl
@[simp] theorem assertSrc_pending (n : Nat) (late : Bool) : (assertSrc s n late).pending = s.pending := rfl
@[simp] theorem rd_assertSrc (n : Nat) (late : Bool) (q : RegAddr) : rd (assertSrc s n late) q = rd s q := rfl
@[simp] theorem rf_assertSrc (n : Nat) (late : Bool) (q : RegAddr) (lo' w' : Nat) : rf (assertSrc s n late) q lo' w' = rf s q lo' w' := rfl
@[simp] theorem rb_assertSrc (n : Nat) (late : Bool) (q : RegAddr) (j : Nat) : rb (assertSrc s n late) q j = rb s q j := rfl
@[simp] theorem getCore_assertSrc (n : Nat) (late : Bool) (c' : Nat) : getCore (assertSrc s n late) c' = getCore s c' := rfl

/-! ### `setPrefetch` -/

@[simp] theorem setPrefetch_part (c : Nat) (p : Prefetch) : (setPrefetch s c p).part = s.part := rfl
@[simp] theorem setPrefetch_serial (c : Nat) (p : Prefetch) : (setPrefetch s c p).serial = s.serial := rfl
@[simp] theorem setPrefetch_time (c : Nat) (p : Prefetch) : (setPrefetch s c p).time = s.time := rfl
@[simp] theorem setPrefetch_resp (c : Nat) (p : Prefetch) : (setPrefetch s c p).resp = s.resp := rfl
@[simp] theorem setPrefetch_freeCtr (c : Nat) (p : Prefetch) : (setPrefetch s c p).freeCtr = s.freeCtr := rfl
@[simp] theorem setPrefetch_regs (c : Nat) (p : Prefetch) : (setPrefetch s c p).regs = s.regs := rfl
@[simp] theorem setPrefetch_mem (c : Nat) (p : Prefetch) : (setPrefetch s c p).mem = s.mem := rfl
@[simp] theorem setPrefetch_poison (c : Nat) (p : Prefetch) : (setPrefetch s c p).poison = s.poison := rfl
@[simp] theorem setPrefetch_err (c : Nat) (p : Prefetch) : (setPrefetch s c p).err = s.err := rfl
@[simp] theorem setPrefetch_ammin (c : Nat) (p : Prefetch) : (setPrefetch s c p).ammin = s.ammin := rfl
@[simp] theorem setPrefetch_fio (c : Nat) (p : Prefetch) : (setPrefetch s c p).fio = s.fio := rfl
@[simp] theorem setPrefetch_evr (c : Nat) (p : Prefetch) : (setPrefetch s c p).evr = s.evr := rfl
@[simp] theorem setPrefetch_cores (c : Nat) (p : Prefetch) : (setPrefetch s c p).cores = s.cores := rfl
@[simp] theorem setPrefetch_prefetch (c : Nat) (p : Prefetch) : (setPrefetch s c p).prefetch = s.prefetch.set (c / 8) p := rfl
@[simp] theorem setPrefetch_prism (c : Nat) (p : Prefetch) : (setPrefetch s c p).prism = s.prism := rfl
@[simp] theorem setPrefetch_dom (c : Nat) (p : Prefetch) : (setPrefetch s c p).dom = s.dom := rfl
@[simp] theorem setPrefetch_smg (c : Nat) (p : Prefetch) : (setPrefetch s c p).smg = s.smg := rfl
@[simp] theorem setPrefetch_mcp (c : Nat) (p : Prefetch) : (setPrefetch s c p).mcp = s.mcp := rfl
@[simp] theorem setPrefetch_qe (c : Nat) (p : Prefetch) : (setPrefetch s c p).qe = s.qe := rfl
@[simp] theorem setPrefetch_ptp (c : Nat) (p : Prefetch) : (setPrefetch s c p).ptp = s.ptp := rfl
@[simp] theorem setPrefetch_life (c : Nat) (p : Prefetch) : (setPrefetch s c p).life = s.life := rfl
@[simp] theorem setPrefetch_dmc (c : Nat) (p : Prefetch) : (setPrefetch s c p).dmc = s.dmc := rfl
@[simp] theorem setPrefetch_fills (c : Nat) (p : Prefetch) : (setPrefetch s c p).fills = s.fills := rfl
@[simp] theorem setPrefetch_dramGen (c : Nat) (p : Prefetch) : (setPrefetch s c p).dramGen = s.dramGen := rfl
@[simp] theorem setPrefetch_sent (c : Nat) (p : Prefetch) : (setPrefetch s c p).sent = s.sent := rfl
@[simp] theorem setPrefetch_pageBytes (c : Nat) (p : Prefetch) : (setPrefetch s c p).pageBytes = s.pageBytes := rfl
@[simp] theorem setPrefetch_hps (c : Nat) (p : Prefetch) : (setPrefetch s c p).hps = s.hps := rfl
@[simp] theorem setPrefetch_spas (c : Nat) (p : Prefetch) : (setPrefetch s c p).spas = s.spas := rfl
@[simp] theorem setPrefetch_macs (c : Nat) (p : Prefetch) : (setPrefetch s c p).macs = s.macs := rfl
@[simp] theorem setPrefetch_frer (c : Nat) (p : Prefetch) : (setPrefetch s c p).frer = s.frer := rfl
@[simp] theorem setPrefetch_psl (c : Nat) (p : Prefetch) : (setPrefetch s c p).psl = s.psl := rfl
@[simp] theorem setPrefetch_coh (c : Nat) (p : Prefetch) : (setPrefetch s c p).coh = s.coh := rfl
@[simp] theorem setPrefetch_fab (c : Nat) (p : Prefetch) : (setPrefetch s c p).fab = s.fab := rfl
@[simp] theorem setPrefetch_links (c : Nat) (p : Prefetch) : (setPrefetch s c p).links = s.links := rfl
@[simp] theorem setPrefetch_pwr (c : Nat) (p : Prefetch) : (setPrefetch s c p).pwr = s.pwr := rfl
@[simp] theorem setPrefetch_jrn (c : Nat) (p : Prefetch) : (setPrefetch s c p).jrn = s.jrn := rfl
@[simp] theorem setPrefetch_bse (c : Nat) (p : Prefetch) : (setPrefetch s c p).bse = s.bse := rfl
@[simp] theorem setPrefetch_dbg (c : Nat) (p : Prefetch) : (setPrefetch s c p).dbg = s.dbg := rfl
@[simp] theorem setPrefetch_lens (c : Nat) (p : Prefetch) : (setPrefetch s c p).lens = s.lens := rfl
@[simp] theorem setPrefetch_pending (c : Nat) (p : Prefetch) : (setPrefetch s c p).pending = s.pending := rfl
@[simp] theorem rd_setPrefetch (c : Nat) (p : Prefetch) (q : RegAddr) : rd (setPrefetch s c p) q = rd s q := rfl
@[simp] theorem rf_setPrefetch (c : Nat) (p : Prefetch) (q : RegAddr) (lo' w' : Nat) : rf (setPrefetch s c p) q lo' w' = rf s q lo' w' := rfl
@[simp] theorem rb_setPrefetch (c : Nat) (p : Prefetch) (q : RegAddr) (j : Nat) : rb (setPrefetch s c p) q j = rb s q j := rfl
@[simp] theorem getCore_setPrefetch (c : Nat) (p : Prefetch) (c' : Nat) : getCore (setPrefetch s c p) c' = getCore s c' := rfl

/-! ### `setMcp` -/

@[simp] theorem setMcp_part (c : Nat) (h : McpCh) : (setMcp s c h).part = s.part := rfl
@[simp] theorem setMcp_serial (c : Nat) (h : McpCh) : (setMcp s c h).serial = s.serial := rfl
@[simp] theorem setMcp_time (c : Nat) (h : McpCh) : (setMcp s c h).time = s.time := rfl
@[simp] theorem setMcp_resp (c : Nat) (h : McpCh) : (setMcp s c h).resp = s.resp := rfl
@[simp] theorem setMcp_freeCtr (c : Nat) (h : McpCh) : (setMcp s c h).freeCtr = s.freeCtr := rfl
@[simp] theorem setMcp_regs (c : Nat) (h : McpCh) : (setMcp s c h).regs = s.regs := rfl
@[simp] theorem setMcp_mem (c : Nat) (h : McpCh) : (setMcp s c h).mem = s.mem := rfl
@[simp] theorem setMcp_poison (c : Nat) (h : McpCh) : (setMcp s c h).poison = s.poison := rfl
@[simp] theorem setMcp_err (c : Nat) (h : McpCh) : (setMcp s c h).err = s.err := rfl
@[simp] theorem setMcp_ammin (c : Nat) (h : McpCh) : (setMcp s c h).ammin = s.ammin := rfl
@[simp] theorem setMcp_fio (c : Nat) (h : McpCh) : (setMcp s c h).fio = s.fio := rfl
@[simp] theorem setMcp_evr (c : Nat) (h : McpCh) : (setMcp s c h).evr = s.evr := rfl
@[simp] theorem setMcp_cores (c : Nat) (h : McpCh) : (setMcp s c h).cores = s.cores := rfl
@[simp] theorem setMcp_prefetch (c : Nat) (h : McpCh) : (setMcp s c h).prefetch = s.prefetch := rfl
@[simp] theorem setMcp_prism (c : Nat) (h : McpCh) : (setMcp s c h).prism = s.prism := rfl
@[simp] theorem setMcp_dom (c : Nat) (h : McpCh) : (setMcp s c h).dom = s.dom := rfl
@[simp] theorem setMcp_smg (c : Nat) (h : McpCh) : (setMcp s c h).smg = s.smg := rfl
@[simp] theorem setMcp_mcp (c : Nat) (h : McpCh) : (setMcp s c h).mcp = s.mcp.set c h := rfl
@[simp] theorem setMcp_qe (c : Nat) (h : McpCh) : (setMcp s c h).qe = s.qe := rfl
@[simp] theorem setMcp_ptp (c : Nat) (h : McpCh) : (setMcp s c h).ptp = s.ptp := rfl
@[simp] theorem setMcp_life (c : Nat) (h : McpCh) : (setMcp s c h).life = s.life := rfl
@[simp] theorem setMcp_dmc (c : Nat) (h : McpCh) : (setMcp s c h).dmc = s.dmc := rfl
@[simp] theorem setMcp_fills (c : Nat) (h : McpCh) : (setMcp s c h).fills = s.fills := rfl
@[simp] theorem setMcp_dramGen (c : Nat) (h : McpCh) : (setMcp s c h).dramGen = s.dramGen := rfl
@[simp] theorem setMcp_sent (c : Nat) (h : McpCh) : (setMcp s c h).sent = s.sent := rfl
@[simp] theorem setMcp_pageBytes (c : Nat) (h : McpCh) : (setMcp s c h).pageBytes = s.pageBytes := rfl
@[simp] theorem setMcp_hps (c : Nat) (h : McpCh) : (setMcp s c h).hps = s.hps := rfl
@[simp] theorem setMcp_spas (c : Nat) (h : McpCh) : (setMcp s c h).spas = s.spas := rfl
@[simp] theorem setMcp_macs (c : Nat) (h : McpCh) : (setMcp s c h).macs = s.macs := rfl
@[simp] theorem setMcp_frer (c : Nat) (h : McpCh) : (setMcp s c h).frer = s.frer := rfl
@[simp] theorem setMcp_psl (c : Nat) (h : McpCh) : (setMcp s c h).psl = s.psl := rfl
@[simp] theorem setMcp_coh (c : Nat) (h : McpCh) : (setMcp s c h).coh = s.coh := rfl
@[simp] theorem setMcp_fab (c : Nat) (h : McpCh) : (setMcp s c h).fab = s.fab := rfl
@[simp] theorem setMcp_links (c : Nat) (h : McpCh) : (setMcp s c h).links = s.links := rfl
@[simp] theorem setMcp_pwr (c : Nat) (h : McpCh) : (setMcp s c h).pwr = s.pwr := rfl
@[simp] theorem setMcp_jrn (c : Nat) (h : McpCh) : (setMcp s c h).jrn = s.jrn := rfl
@[simp] theorem setMcp_bse (c : Nat) (h : McpCh) : (setMcp s c h).bse = s.bse := rfl
@[simp] theorem setMcp_dbg (c : Nat) (h : McpCh) : (setMcp s c h).dbg = s.dbg := rfl
@[simp] theorem setMcp_lens (c : Nat) (h : McpCh) : (setMcp s c h).lens = s.lens := rfl
@[simp] theorem setMcp_pending (c : Nat) (h : McpCh) : (setMcp s c h).pending = s.pending := rfl
@[simp] theorem rd_setMcp (c : Nat) (h : McpCh) (q : RegAddr) : rd (setMcp s c h) q = rd s q := rfl
@[simp] theorem rf_setMcp (c : Nat) (h : McpCh) (q : RegAddr) (lo' w' : Nat) : rf (setMcp s c h) q lo' w' = rf s q lo' w' := rfl
@[simp] theorem rb_setMcp (c : Nat) (h : McpCh) (q : RegAddr) (j : Nat) : rb (setMcp s c h) q j = rb s q j := rfl
@[simp] theorem getCore_setMcp (c : Nat) (h : McpCh) (c' : Nat) : getCore (setMcp s c h) c' = getCore s c' := rfl

/-! ### `setRing` -/

@[simp] theorem setRing_part (r : Nat) (x : Ring) : (setRing s r x).part = s.part := rfl
@[simp] theorem setRing_serial (r : Nat) (x : Ring) : (setRing s r x).serial = s.serial := rfl
@[simp] theorem setRing_time (r : Nat) (x : Ring) : (setRing s r x).time = s.time := rfl
@[simp] theorem setRing_resp (r : Nat) (x : Ring) : (setRing s r x).resp = s.resp := rfl
@[simp] theorem setRing_freeCtr (r : Nat) (x : Ring) : (setRing s r x).freeCtr = s.freeCtr := rfl
@[simp] theorem setRing_regs (r : Nat) (x : Ring) : (setRing s r x).regs = s.regs := rfl
@[simp] theorem setRing_mem (r : Nat) (x : Ring) : (setRing s r x).mem = s.mem := rfl
@[simp] theorem setRing_poison (r : Nat) (x : Ring) : (setRing s r x).poison = s.poison := rfl
@[simp] theorem setRing_err (r : Nat) (x : Ring) : (setRing s r x).err = s.err := rfl
@[simp] theorem setRing_ammin (r : Nat) (x : Ring) : (setRing s r x).ammin = s.ammin := rfl
@[simp] theorem setRing_fio (r : Nat) (x : Ring) : (setRing s r x).fio = s.fio := rfl
@[simp] theorem setRing_evr (r : Nat) (x : Ring) : (setRing s r x).evr = s.evr := rfl
@[simp] theorem setRing_cores (r : Nat) (x : Ring) : (setRing s r x).cores = s.cores := rfl
@[simp] theorem setRing_prefetch (r : Nat) (x : Ring) : (setRing s r x).prefetch = s.prefetch := rfl
@[simp] theorem setRing_prism (r : Nat) (x : Ring) : (setRing s r x).prism = s.prism := rfl
@[simp] theorem setRing_dom (r : Nat) (x : Ring) : (setRing s r x).dom = s.dom := rfl
@[simp] theorem setRing_smg (r : Nat) (x : Ring) : (setRing s r x).smg = s.smg := rfl
@[simp] theorem setRing_mcp (r : Nat) (x : Ring) : (setRing s r x).mcp = s.mcp := rfl
@[simp] theorem setRing_qe (r : Nat) (x : Ring) : (setRing s r x).qe = { s.qe with rings := s.qe.rings.set r x } := rfl
@[simp] theorem setRing_ptp (r : Nat) (x : Ring) : (setRing s r x).ptp = s.ptp := rfl
@[simp] theorem setRing_life (r : Nat) (x : Ring) : (setRing s r x).life = s.life := rfl
@[simp] theorem setRing_dmc (r : Nat) (x : Ring) : (setRing s r x).dmc = s.dmc := rfl
@[simp] theorem setRing_fills (r : Nat) (x : Ring) : (setRing s r x).fills = s.fills := rfl
@[simp] theorem setRing_dramGen (r : Nat) (x : Ring) : (setRing s r x).dramGen = s.dramGen := rfl
@[simp] theorem setRing_sent (r : Nat) (x : Ring) : (setRing s r x).sent = s.sent := rfl
@[simp] theorem setRing_pageBytes (r : Nat) (x : Ring) : (setRing s r x).pageBytes = s.pageBytes := rfl
@[simp] theorem setRing_hps (r : Nat) (x : Ring) : (setRing s r x).hps = s.hps := rfl
@[simp] theorem setRing_spas (r : Nat) (x : Ring) : (setRing s r x).spas = s.spas := rfl
@[simp] theorem setRing_macs (r : Nat) (x : Ring) : (setRing s r x).macs = s.macs := rfl
@[simp] theorem setRing_frer (r : Nat) (x : Ring) : (setRing s r x).frer = s.frer := rfl
@[simp] theorem setRing_psl (r : Nat) (x : Ring) : (setRing s r x).psl = s.psl := rfl
@[simp] theorem setRing_coh (r : Nat) (x : Ring) : (setRing s r x).coh = s.coh := rfl
@[simp] theorem setRing_fab (r : Nat) (x : Ring) : (setRing s r x).fab = s.fab := rfl
@[simp] theorem setRing_links (r : Nat) (x : Ring) : (setRing s r x).links = s.links := rfl
@[simp] theorem setRing_pwr (r : Nat) (x : Ring) : (setRing s r x).pwr = s.pwr := rfl
@[simp] theorem setRing_jrn (r : Nat) (x : Ring) : (setRing s r x).jrn = s.jrn := rfl
@[simp] theorem setRing_bse (r : Nat) (x : Ring) : (setRing s r x).bse = s.bse := rfl
@[simp] theorem setRing_dbg (r : Nat) (x : Ring) : (setRing s r x).dbg = s.dbg := rfl
@[simp] theorem setRing_lens (r : Nat) (x : Ring) : (setRing s r x).lens = s.lens := rfl
@[simp] theorem setRing_pending (r : Nat) (x : Ring) : (setRing s r x).pending = s.pending := rfl
@[simp] theorem rd_setRing (r : Nat) (x : Ring) (q : RegAddr) : rd (setRing s r x) q = rd s q := rfl
@[simp] theorem rf_setRing (r : Nat) (x : Ring) (q : RegAddr) (lo' w' : Nat) : rf (setRing s r x) q lo' w' = rf s q lo' w' := rfl
@[simp] theorem rb_setRing (r : Nat) (x : Ring) (q : RegAddr) (j : Nat) : rb (setRing s r x) q j = rb s q j := rfl
@[simp] theorem getCore_setRing (r : Nat) (x : Ring) (c' : Nat) : getCore (setRing s r x) c' = getCore s c' := rfl

/-! ### `setDma` -/

@[simp] theorem setDma_part (c : Nat) (x : DmaCh) : (setDma s c x).part = s.part := rfl
@[simp] theorem setDma_serial (c : Nat) (x : DmaCh) : (setDma s c x).serial = s.serial := rfl
@[simp] theorem setDma_time (c : Nat) (x : DmaCh) : (setDma s c x).time = s.time := rfl
@[simp] theorem setDma_resp (c : Nat) (x : DmaCh) : (setDma s c x).resp = s.resp := rfl
@[simp] theorem setDma_freeCtr (c : Nat) (x : DmaCh) : (setDma s c x).freeCtr = s.freeCtr := rfl
@[simp] theorem setDma_regs (c : Nat) (x : DmaCh) : (setDma s c x).regs = s.regs := rfl
@[simp] theorem setDma_mem (c : Nat) (x : DmaCh) : (setDma s c x).mem = s.mem := rfl
@[simp] theorem setDma_poison (c : Nat) (x : DmaCh) : (setDma s c x).poison = s.poison := rfl
@[simp] theorem setDma_err (c : Nat) (x : DmaCh) : (setDma s c x).err = s.err := rfl
@[simp] theorem setDma_ammin (c : Nat) (x : DmaCh) : (setDma s c x).ammin = s.ammin := rfl
@[simp] theorem setDma_fio (c : Nat) (x : DmaCh) : (setDma s c x).fio = s.fio := rfl
@[simp] theorem setDma_evr (c : Nat) (x : DmaCh) : (setDma s c x).evr = s.evr := rfl
@[simp] theorem setDma_cores (c : Nat) (x : DmaCh) : (setDma s c x).cores = s.cores := rfl
@[simp] theorem setDma_prefetch (c : Nat) (x : DmaCh) : (setDma s c x).prefetch = s.prefetch := rfl
@[simp] theorem setDma_prism (c : Nat) (x : DmaCh) : (setDma s c x).prism = s.prism := rfl
@[simp] theorem setDma_dom (c : Nat) (x : DmaCh) : (setDma s c x).dom = s.dom := rfl
@[simp] theorem setDma_smg (c : Nat) (x : DmaCh) : (setDma s c x).smg = s.smg := rfl
@[simp] theorem setDma_mcp (c : Nat) (x : DmaCh) : (setDma s c x).mcp = s.mcp := rfl
@[simp] theorem setDma_qe (c : Nat) (x : DmaCh) : (setDma s c x).qe = { s.qe with dmas := s.qe.dmas.set c x } := rfl
@[simp] theorem setDma_ptp (c : Nat) (x : DmaCh) : (setDma s c x).ptp = s.ptp := rfl
@[simp] theorem setDma_life (c : Nat) (x : DmaCh) : (setDma s c x).life = s.life := rfl
@[simp] theorem setDma_dmc (c : Nat) (x : DmaCh) : (setDma s c x).dmc = s.dmc := rfl
@[simp] theorem setDma_fills (c : Nat) (x : DmaCh) : (setDma s c x).fills = s.fills := rfl
@[simp] theorem setDma_dramGen (c : Nat) (x : DmaCh) : (setDma s c x).dramGen = s.dramGen := rfl
@[simp] theorem setDma_sent (c : Nat) (x : DmaCh) : (setDma s c x).sent = s.sent := rfl
@[simp] theorem setDma_pageBytes (c : Nat) (x : DmaCh) : (setDma s c x).pageBytes = s.pageBytes := rfl
@[simp] theorem setDma_hps (c : Nat) (x : DmaCh) : (setDma s c x).hps = s.hps := rfl
@[simp] theorem setDma_spas (c : Nat) (x : DmaCh) : (setDma s c x).spas = s.spas := rfl
@[simp] theorem setDma_macs (c : Nat) (x : DmaCh) : (setDma s c x).macs = s.macs := rfl
@[simp] theorem setDma_frer (c : Nat) (x : DmaCh) : (setDma s c x).frer = s.frer := rfl
@[simp] theorem setDma_psl (c : Nat) (x : DmaCh) : (setDma s c x).psl = s.psl := rfl
@[simp] theorem setDma_coh (c : Nat) (x : DmaCh) : (setDma s c x).coh = s.coh := rfl
@[simp] theorem setDma_fab (c : Nat) (x : DmaCh) : (setDma s c x).fab = s.fab := rfl
@[simp] theorem setDma_links (c : Nat) (x : DmaCh) : (setDma s c x).links = s.links := rfl
@[simp] theorem setDma_pwr (c : Nat) (x : DmaCh) : (setDma s c x).pwr = s.pwr := rfl
@[simp] theorem setDma_jrn (c : Nat) (x : DmaCh) : (setDma s c x).jrn = s.jrn := rfl
@[simp] theorem setDma_bse (c : Nat) (x : DmaCh) : (setDma s c x).bse = s.bse := rfl
@[simp] theorem setDma_dbg (c : Nat) (x : DmaCh) : (setDma s c x).dbg = s.dbg := rfl
@[simp] theorem setDma_lens (c : Nat) (x : DmaCh) : (setDma s c x).lens = s.lens := rfl
@[simp] theorem setDma_pending (c : Nat) (x : DmaCh) : (setDma s c x).pending = s.pending := rfl
@[simp] theorem rd_setDma (c : Nat) (x : DmaCh) (q : RegAddr) : rd (setDma s c x) q = rd s q := rfl
@[simp] theorem rf_setDma (c : Nat) (x : DmaCh) (q : RegAddr) (lo' w' : Nat) : rf (setDma s c x) q lo' w' = rf s q lo' w' := rfl
@[simp] theorem rb_setDma (c : Nat) (x : DmaCh) (q : RegAddr) (j : Nat) : rb (setDma s c x) q j = rb s q j := rfl
@[simp] theorem getCore_setDma (c : Nat) (x : DmaCh) (c' : Nat) : getCore (setDma s c x) c' = getCore s c' := rfl

/-! ### `setDmc` -/

@[simp] theorem setDmc_part (ch : Nat) (d : Dmc) : (setDmc s ch d).part = s.part := rfl
@[simp] theorem setDmc_serial (ch : Nat) (d : Dmc) : (setDmc s ch d).serial = s.serial := rfl
@[simp] theorem setDmc_time (ch : Nat) (d : Dmc) : (setDmc s ch d).time = s.time := rfl
@[simp] theorem setDmc_resp (ch : Nat) (d : Dmc) : (setDmc s ch d).resp = s.resp := rfl
@[simp] theorem setDmc_freeCtr (ch : Nat) (d : Dmc) : (setDmc s ch d).freeCtr = s.freeCtr := rfl
@[simp] theorem setDmc_regs (ch : Nat) (d : Dmc) : (setDmc s ch d).regs = s.regs := rfl
@[simp] theorem setDmc_mem (ch : Nat) (d : Dmc) : (setDmc s ch d).mem = s.mem := rfl
@[simp] theorem setDmc_poison (ch : Nat) (d : Dmc) : (setDmc s ch d).poison = s.poison := rfl
@[simp] theorem setDmc_err (ch : Nat) (d : Dmc) : (setDmc s ch d).err = s.err := rfl
@[simp] theorem setDmc_ammin (ch : Nat) (d : Dmc) : (setDmc s ch d).ammin = s.ammin := rfl
@[simp] theorem setDmc_fio (ch : Nat) (d : Dmc) : (setDmc s ch d).fio = s.fio := rfl
@[simp] theorem setDmc_evr (ch : Nat) (d : Dmc) : (setDmc s ch d).evr = s.evr := rfl
@[simp] theorem setDmc_cores (ch : Nat) (d : Dmc) : (setDmc s ch d).cores = s.cores := rfl
@[simp] theorem setDmc_prefetch (ch : Nat) (d : Dmc) : (setDmc s ch d).prefetch = s.prefetch := rfl
@[simp] theorem setDmc_prism (ch : Nat) (d : Dmc) : (setDmc s ch d).prism = s.prism := rfl
@[simp] theorem setDmc_dom (ch : Nat) (d : Dmc) : (setDmc s ch d).dom = s.dom := rfl
@[simp] theorem setDmc_smg (ch : Nat) (d : Dmc) : (setDmc s ch d).smg = s.smg := rfl
@[simp] theorem setDmc_mcp (ch : Nat) (d : Dmc) : (setDmc s ch d).mcp = s.mcp := rfl
@[simp] theorem setDmc_qe (ch : Nat) (d : Dmc) : (setDmc s ch d).qe = s.qe := rfl
@[simp] theorem setDmc_ptp (ch : Nat) (d : Dmc) : (setDmc s ch d).ptp = s.ptp := rfl
@[simp] theorem setDmc_life (ch : Nat) (d : Dmc) : (setDmc s ch d).life = s.life := rfl
@[simp] theorem setDmc_dmc (ch : Nat) (d : Dmc) : (setDmc s ch d).dmc = s.dmc.set ch d := rfl
@[simp] theorem setDmc_fills (ch : Nat) (d : Dmc) : (setDmc s ch d).fills = s.fills := rfl
@[simp] theorem setDmc_dramGen (ch : Nat) (d : Dmc) : (setDmc s ch d).dramGen = s.dramGen := rfl
@[simp] theorem setDmc_sent (ch : Nat) (d : Dmc) : (setDmc s ch d).sent = s.sent := rfl
@[simp] theorem setDmc_pageBytes (ch : Nat) (d : Dmc) : (setDmc s ch d).pageBytes = s.pageBytes := rfl
@[simp] theorem setDmc_hps (ch : Nat) (d : Dmc) : (setDmc s ch d).hps = s.hps := rfl
@[simp] theorem setDmc_spas (ch : Nat) (d : Dmc) : (setDmc s ch d).spas = s.spas := rfl
@[simp] theorem setDmc_macs (ch : Nat) (d : Dmc) : (setDmc s ch d).macs = s.macs := rfl
@[simp] theorem setDmc_frer (ch : Nat) (d : Dmc) : (setDmc s ch d).frer = s.frer := rfl
@[simp] theorem setDmc_psl (ch : Nat) (d : Dmc) : (setDmc s ch d).psl = s.psl := rfl
@[simp] theorem setDmc_coh (ch : Nat) (d : Dmc) : (setDmc s ch d).coh = s.coh := rfl
@[simp] theorem setDmc_fab (ch : Nat) (d : Dmc) : (setDmc s ch d).fab = s.fab := rfl
@[simp] theorem setDmc_links (ch : Nat) (d : Dmc) : (setDmc s ch d).links = s.links := rfl
@[simp] theorem setDmc_pwr (ch : Nat) (d : Dmc) : (setDmc s ch d).pwr = s.pwr := rfl
@[simp] theorem setDmc_jrn (ch : Nat) (d : Dmc) : (setDmc s ch d).jrn = s.jrn := rfl
@[simp] theorem setDmc_bse (ch : Nat) (d : Dmc) : (setDmc s ch d).bse = s.bse := rfl
@[simp] theorem setDmc_dbg (ch : Nat) (d : Dmc) : (setDmc s ch d).dbg = s.dbg := rfl
@[simp] theorem setDmc_lens (ch : Nat) (d : Dmc) : (setDmc s ch d).lens = s.lens := rfl
@[simp] theorem setDmc_pending (ch : Nat) (d : Dmc) : (setDmc s ch d).pending = s.pending := rfl
@[simp] theorem rd_setDmc (ch : Nat) (d : Dmc) (q : RegAddr) : rd (setDmc s ch d) q = rd s q := rfl
@[simp] theorem rf_setDmc (ch : Nat) (d : Dmc) (q : RegAddr) (lo' w' : Nat) : rf (setDmc s ch d) q lo' w' = rf s q lo' w' := rfl
@[simp] theorem rb_setDmc (ch : Nat) (d : Dmc) (q : RegAddr) (j : Nat) : rb (setDmc s ch d) q j = rb s q j := rfl
@[simp] theorem getCore_setDmc (ch : Nat) (d : Dmc) (c' : Nat) : getCore (setDmc s ch d) c' = getCore s c' := rfl

/-! ### `setMac` -/

@[simp] theorem setMac_part (m : Nat) (x : Mac) : (setMac s m x).part = s.part := rfl
@[simp] theorem setMac_serial (m : Nat) (x : Mac) : (setMac s m x).serial = s.serial := rfl
@[simp] theorem setMac_time (m : Nat) (x : Mac) : (setMac s m x).time = s.time := rfl
@[simp] theorem setMac_resp (m : Nat) (x : Mac) : (setMac s m x).resp = s.resp := rfl
@[simp] theorem setMac_freeCtr (m : Nat) (x : Mac) : (setMac s m x).freeCtr = s.freeCtr := rfl
@[simp] theorem setMac_regs (m : Nat) (x : Mac) : (setMac s m x).regs = s.regs := rfl
@[simp] theorem setMac_mem (m : Nat) (x : Mac) : (setMac s m x).mem = s.mem := rfl
@[simp] theorem setMac_poison (m : Nat) (x : Mac) : (setMac s m x).poison = s.poison := rfl
@[simp] theorem setMac_err (m : Nat) (x : Mac) : (setMac s m x).err = s.err := rfl
@[simp] theorem setMac_ammin (m : Nat) (x : Mac) : (setMac s m x).ammin = s.ammin := rfl
@[simp] theorem setMac_fio (m : Nat) (x : Mac) : (setMac s m x).fio = s.fio := rfl
@[simp] theorem setMac_evr (m : Nat) (x : Mac) : (setMac s m x).evr = s.evr := rfl
@[simp] theorem setMac_cores (m : Nat) (x : Mac) : (setMac s m x).cores = s.cores := rfl
@[simp] theorem setMac_prefetch (m : Nat) (x : Mac) : (setMac s m x).prefetch = s.prefetch := rfl
@[simp] theorem setMac_prism (m : Nat) (x : Mac) : (setMac s m x).prism = s.prism := rfl
@[simp] theorem setMac_dom (m : Nat) (x : Mac) : (setMac s m x).dom = s.dom := rfl
@[simp] theorem setMac_smg (m : Nat) (x : Mac) : (setMac s m x).smg = s.smg := rfl
@[simp] theorem setMac_mcp (m : Nat) (x : Mac) : (setMac s m x).mcp = s.mcp := rfl
@[simp] theorem setMac_qe (m : Nat) (x : Mac) : (setMac s m x).qe = s.qe := rfl
@[simp] theorem setMac_ptp (m : Nat) (x : Mac) : (setMac s m x).ptp = s.ptp := rfl
@[simp] theorem setMac_life (m : Nat) (x : Mac) : (setMac s m x).life = s.life := rfl
@[simp] theorem setMac_dmc (m : Nat) (x : Mac) : (setMac s m x).dmc = s.dmc := rfl
@[simp] theorem setMac_fills (m : Nat) (x : Mac) : (setMac s m x).fills = s.fills := rfl
@[simp] theorem setMac_dramGen (m : Nat) (x : Mac) : (setMac s m x).dramGen = s.dramGen := rfl
@[simp] theorem setMac_sent (m : Nat) (x : Mac) : (setMac s m x).sent = s.sent := rfl
@[simp] theorem setMac_pageBytes (m : Nat) (x : Mac) : (setMac s m x).pageBytes = s.pageBytes := rfl
@[simp] theorem setMac_hps (m : Nat) (x : Mac) : (setMac s m x).hps = s.hps := rfl
@[simp] theorem setMac_spas (m : Nat) (x : Mac) : (setMac s m x).spas = s.spas := rfl
@[simp] theorem setMac_macs (m : Nat) (x : Mac) : (setMac s m x).macs = listSet s.macs m x := rfl
@[simp] theorem setMac_frer (m : Nat) (x : Mac) : (setMac s m x).frer = s.frer := rfl
@[simp] theorem setMac_psl (m : Nat) (x : Mac) : (setMac s m x).psl = s.psl := rfl
@[simp] theorem setMac_coh (m : Nat) (x : Mac) : (setMac s m x).coh = s.coh := rfl
@[simp] theorem setMac_fab (m : Nat) (x : Mac) : (setMac s m x).fab = s.fab := rfl
@[simp] theorem setMac_links (m : Nat) (x : Mac) : (setMac s m x).links = s.links := rfl
@[simp] theorem setMac_pwr (m : Nat) (x : Mac) : (setMac s m x).pwr = s.pwr := rfl
@[simp] theorem setMac_jrn (m : Nat) (x : Mac) : (setMac s m x).jrn = s.jrn := rfl
@[simp] theorem setMac_bse (m : Nat) (x : Mac) : (setMac s m x).bse = s.bse := rfl
@[simp] theorem setMac_dbg (m : Nat) (x : Mac) : (setMac s m x).dbg = s.dbg := rfl
@[simp] theorem setMac_lens (m : Nat) (x : Mac) : (setMac s m x).lens = s.lens := rfl
@[simp] theorem setMac_pending (m : Nat) (x : Mac) : (setMac s m x).pending = s.pending := rfl
@[simp] theorem rd_setMac (m : Nat) (x : Mac) (q : RegAddr) : rd (setMac s m x) q = rd s q := rfl
@[simp] theorem rf_setMac (m : Nat) (x : Mac) (q : RegAddr) (lo' w' : Nat) : rf (setMac s m x) q lo' w' = rf s q lo' w' := rfl
@[simp] theorem rb_setMac (m : Nat) (x : Mac) (q : RegAddr) (j : Nat) : rb (setMac s m x) q j = rb s q j := rfl
@[simp] theorem getCore_setMac (m : Nat) (x : Mac) (c' : Nat) : getCore (setMac s m x) c' = getCore s c' := rfl

/-! ### `setSpa` -/

@[simp] theorem setSpa_part (n : Nat) (x : Spa) : (setSpa s n x).part = s.part := rfl
@[simp] theorem setSpa_serial (n : Nat) (x : Spa) : (setSpa s n x).serial = s.serial := rfl
@[simp] theorem setSpa_time (n : Nat) (x : Spa) : (setSpa s n x).time = s.time := rfl
@[simp] theorem setSpa_resp (n : Nat) (x : Spa) : (setSpa s n x).resp = s.resp := rfl
@[simp] theorem setSpa_freeCtr (n : Nat) (x : Spa) : (setSpa s n x).freeCtr = s.freeCtr := rfl
@[simp] theorem setSpa_regs (n : Nat) (x : Spa) : (setSpa s n x).regs = s.regs := rfl
@[simp] theorem setSpa_mem (n : Nat) (x : Spa) : (setSpa s n x).mem = s.mem := rfl
@[simp] theorem setSpa_poison (n : Nat) (x : Spa) : (setSpa s n x).poison = s.poison := rfl
@[simp] theorem setSpa_err (n : Nat) (x : Spa) : (setSpa s n x).err = s.err := rfl
@[simp] theorem setSpa_ammin (n : Nat) (x : Spa) : (setSpa s n x).ammin = s.ammin := rfl
@[simp] theorem setSpa_fio (n : Nat) (x : Spa) : (setSpa s n x).fio = s.fio := rfl
@[simp] theorem setSpa_evr (n : Nat) (x : Spa) : (setSpa s n x).evr = s.evr := rfl
@[simp] theorem setSpa_cores (n : Nat) (x : Spa) : (setSpa s n x).cores = s.cores := rfl
@[simp] theorem setSpa_prefetch (n : Nat) (x : Spa) : (setSpa s n x).prefetch = s.prefetch := rfl
@[simp] theorem setSpa_prism (n : Nat) (x : Spa) : (setSpa s n x).prism = s.prism := rfl
@[simp] theorem setSpa_dom (n : Nat) (x : Spa) : (setSpa s n x).dom = s.dom := rfl
@[simp] theorem setSpa_smg (n : Nat) (x : Spa) : (setSpa s n x).smg = s.smg := rfl
@[simp] theorem setSpa_mcp (n : Nat) (x : Spa) : (setSpa s n x).mcp = s.mcp := rfl
@[simp] theorem setSpa_qe (n : Nat) (x : Spa) : (setSpa s n x).qe = s.qe := rfl
@[simp] theorem setSpa_ptp (n : Nat) (x : Spa) : (setSpa s n x).ptp = s.ptp := rfl
@[simp] theorem setSpa_life (n : Nat) (x : Spa) : (setSpa s n x).life = s.life := rfl
@[simp] theorem setSpa_dmc (n : Nat) (x : Spa) : (setSpa s n x).dmc = s.dmc := rfl
@[simp] theorem setSpa_fills (n : Nat) (x : Spa) : (setSpa s n x).fills = s.fills := rfl
@[simp] theorem setSpa_dramGen (n : Nat) (x : Spa) : (setSpa s n x).dramGen = s.dramGen := rfl
@[simp] theorem setSpa_sent (n : Nat) (x : Spa) : (setSpa s n x).sent = s.sent := rfl
@[simp] theorem setSpa_pageBytes (n : Nat) (x : Spa) : (setSpa s n x).pageBytes = s.pageBytes := rfl
@[simp] theorem setSpa_hps (n : Nat) (x : Spa) : (setSpa s n x).hps = s.hps := rfl
@[simp] theorem setSpa_spas (n : Nat) (x : Spa) : (setSpa s n x).spas = listSet s.spas n x := rfl
@[simp] theorem setSpa_macs (n : Nat) (x : Spa) : (setSpa s n x).macs = s.macs := rfl
@[simp] theorem setSpa_frer (n : Nat) (x : Spa) : (setSpa s n x).frer = s.frer := rfl
@[simp] theorem setSpa_psl (n : Nat) (x : Spa) : (setSpa s n x).psl = s.psl := rfl
@[simp] theorem setSpa_coh (n : Nat) (x : Spa) : (setSpa s n x).coh = s.coh := rfl
@[simp] theorem setSpa_fab (n : Nat) (x : Spa) : (setSpa s n x).fab = s.fab := rfl
@[simp] theorem setSpa_links (n : Nat) (x : Spa) : (setSpa s n x).links = s.links := rfl
@[simp] theorem setSpa_pwr (n : Nat) (x : Spa) : (setSpa s n x).pwr = s.pwr := rfl
@[simp] theorem setSpa_jrn (n : Nat) (x : Spa) : (setSpa s n x).jrn = s.jrn := rfl
@[simp] theorem setSpa_bse (n : Nat) (x : Spa) : (setSpa s n x).bse = s.bse := rfl
@[simp] theorem setSpa_dbg (n : Nat) (x : Spa) : (setSpa s n x).dbg = s.dbg := rfl
@[simp] theorem setSpa_lens (n : Nat) (x : Spa) : (setSpa s n x).lens = s.lens := rfl
@[simp] theorem setSpa_pending (n : Nat) (x : Spa) : (setSpa s n x).pending = s.pending := rfl
@[simp] theorem rd_setSpa (n : Nat) (x : Spa) (q : RegAddr) : rd (setSpa s n x) q = rd s q := rfl
@[simp] theorem rf_setSpa (n : Nat) (x : Spa) (q : RegAddr) (lo' w' : Nat) : rf (setSpa s n x) q lo' w' = rf s q lo' w' := rfl
@[simp] theorem rb_setSpa (n : Nat) (x : Spa) (q : RegAddr) (j : Nat) : rb (setSpa s n x) q j = rb s q j := rfl
@[simp] theorem getCore_setSpa (n : Nat) (x : Spa) (c' : Nat) : getCore (setSpa s n x) c' = getCore s c' := rfl

/-! ### `setPp` -/

@[simp] theorem setPp_part (x : Bool) (p : PslPort) : (setPp s x p).part = s.part := rfl
@[simp] theorem setPp_serial (x : Bool) (p : PslPort) : (setPp s x p).serial = s.serial := rfl
@[simp] theorem setPp_time (x : Bool) (p : PslPort) : (setPp s x p).time = s.time := rfl
@[simp] theorem setPp_resp (x : Bool) (p : PslPort) : (setPp s x p).resp = s.resp := rfl
@[simp] theorem setPp_freeCtr (x : Bool) (p : PslPort) : (setPp s x p).freeCtr = s.freeCtr := rfl
@[simp] theorem setPp_regs (x : Bool) (p : PslPort) : (setPp s x p).regs = s.regs := rfl
@[simp] theorem setPp_mem (x : Bool) (p : PslPort) : (setPp s x p).mem = s.mem := rfl
@[simp] theorem setPp_poison (x : Bool) (p : PslPort) : (setPp s x p).poison = s.poison := rfl
@[simp] theorem setPp_err (x : Bool) (p : PslPort) : (setPp s x p).err = s.err := rfl
@[simp] theorem setPp_ammin (x : Bool) (p : PslPort) : (setPp s x p).ammin = s.ammin := rfl
@[simp] theorem setPp_fio (x : Bool) (p : PslPort) : (setPp s x p).fio = s.fio := rfl
@[simp] theorem setPp_evr (x : Bool) (p : PslPort) : (setPp s x p).evr = s.evr := rfl
@[simp] theorem setPp_cores (x : Bool) (p : PslPort) : (setPp s x p).cores = s.cores := rfl
@[simp] theorem setPp_prefetch (x : Bool) (p : PslPort) : (setPp s x p).prefetch = s.prefetch := rfl
@[simp] theorem setPp_prism (x : Bool) (p : PslPort) : (setPp s x p).prism = s.prism := rfl
@[simp] theorem setPp_dom (x : Bool) (p : PslPort) : (setPp s x p).dom = s.dom := rfl
@[simp] theorem setPp_smg (x : Bool) (p : PslPort) : (setPp s x p).smg = s.smg := rfl
@[simp] theorem setPp_mcp (x : Bool) (p : PslPort) : (setPp s x p).mcp = s.mcp := rfl
@[simp] theorem setPp_qe (x : Bool) (p : PslPort) : (setPp s x p).qe = s.qe := rfl
@[simp] theorem setPp_ptp (x : Bool) (p : PslPort) : (setPp s x p).ptp = s.ptp := rfl
@[simp] theorem setPp_life (x : Bool) (p : PslPort) : (setPp s x p).life = s.life := rfl
@[simp] theorem setPp_dmc (x : Bool) (p : PslPort) : (setPp s x p).dmc = s.dmc := rfl
@[simp] theorem setPp_fills (x : Bool) (p : PslPort) : (setPp s x p).fills = s.fills := rfl
@[simp] theorem setPp_dramGen (x : Bool) (p : PslPort) : (setPp s x p).dramGen = s.dramGen := rfl
@[simp] theorem setPp_sent (x : Bool) (p : PslPort) : (setPp s x p).sent = s.sent := rfl
@[simp] theorem setPp_pageBytes (x : Bool) (p : PslPort) : (setPp s x p).pageBytes = s.pageBytes := rfl
@[simp] theorem setPp_hps (x : Bool) (p : PslPort) : (setPp s x p).hps = s.hps := rfl
@[simp] theorem setPp_spas (x : Bool) (p : PslPort) : (setPp s x p).spas = s.spas := rfl
@[simp] theorem setPp_macs (x : Bool) (p : PslPort) : (setPp s x p).macs = s.macs := rfl
@[simp] theorem setPp_frer (x : Bool) (p : PslPort) : (setPp s x p).frer = s.frer := rfl
@[simp] theorem setPp_psl (x : Bool) (p : PslPort) : (setPp s x p).psl = { s.psl with ports := listSet s.psl.ports (px x) p } := rfl
@[simp] theorem setPp_coh (x : Bool) (p : PslPort) : (setPp s x p).coh = s.coh := rfl
@[simp] theorem setPp_fab (x : Bool) (p : PslPort) : (setPp s x p).fab = s.fab := rfl
@[simp] theorem setPp_links (x : Bool) (p : PslPort) : (setPp s x p).links = s.links := rfl
@[simp] theorem setPp_pwr (x : Bool) (p : PslPort) : (setPp s x p).pwr = s.pwr := rfl
@[simp] theorem setPp_jrn (x : Bool) (p : PslPort) : (setPp s x p).jrn = s.jrn := rfl
@[simp] theorem setPp_bse (x : Bool) (p : PslPort) : (setPp s x p).bse = s.bse := rfl
@[simp] theorem setPp_dbg (x : Bool) (p : PslPort) : (setPp s x p).dbg = s.dbg := rfl
@[simp] theorem setPp_lens (x : Bool) (p : PslPort) : (setPp s x p).lens = s.lens := rfl
@[simp] theorem setPp_pending (x : Bool) (p : PslPort) : (setPp s x p).pending = s.pending := rfl
@[simp] theorem rd_setPp (x : Bool) (p : PslPort) (q : RegAddr) : rd (setPp s x p) q = rd s q := rfl
@[simp] theorem rf_setPp (x : Bool) (p : PslPort) (q : RegAddr) (lo' w' : Nat) : rf (setPp s x p) q lo' w' = rf s q lo' w' := rfl
@[simp] theorem rb_setPp (x : Bool) (p : PslPort) (q : RegAddr) (j : Nat) : rb (setPp s x p) q j = rb s q j := rfl
@[simp] theorem getCore_setPp (x : Bool) (p : PslPort) (c' : Nat) : getCore (setPp s x p) c' = getCore s c' := rfl

/-! ### `setSl` -/

@[simp] theorem setSl_part (h : Nat) (x : Slice) : (setSl s h x).part = s.part := rfl
@[simp] theorem setSl_serial (h : Nat) (x : Slice) : (setSl s h x).serial = s.serial := rfl
@[simp] theorem setSl_time (h : Nat) (x : Slice) : (setSl s h x).time = s.time := rfl
@[simp] theorem setSl_resp (h : Nat) (x : Slice) : (setSl s h x).resp = s.resp := rfl
@[simp] theorem setSl_freeCtr (h : Nat) (x : Slice) : (setSl s h x).freeCtr = s.freeCtr := rfl
@[simp] theorem setSl_regs (h : Nat) (x : Slice) : (setSl s h x).regs = s.regs := rfl
@[simp] theorem setSl_mem (h : Nat) (x : Slice) : (setSl s h x).mem = s.mem := rfl
@[simp] theorem setSl_poison (h : Nat) (x : Slice) : (setSl s h x).poison = s.poison := rfl
@[simp] theorem setSl_err (h : Nat) (x : Slice) : (setSl s h x).err = s.err := rfl
@[simp] theorem setSl_ammin (h : Nat) (x : Slice) : (setSl s h x).ammin = s.ammin := rfl
@[simp] theorem setSl_fio (h : Nat) (x : Slice) : (setSl s h x).fio = s.fio := rfl
@[simp] theorem setSl_evr (h : Nat) (x : Slice) : (setSl s h x).evr = s.evr := rfl
@[simp] theorem setSl_cores (h : Nat) (x : Slice) : (setSl s h x).cores = s.cores := rfl
@[simp] theorem setSl_prefetch (h : Nat) (x : Slice) : (setSl s h x).prefetch = s.prefetch := rfl
@[simp] theorem setSl_prism (h : Nat) (x : Slice) : (setSl s h x).prism = s.prism := rfl
@[simp] theorem setSl_dom (h : Nat) (x : Slice) : (setSl s h x).dom = s.dom := rfl
@[simp] theorem setSl_smg (h : Nat) (x : Slice) : (setSl s h x).smg = s.smg := rfl
@[simp] theorem setSl_mcp (h : Nat) (x : Slice) : (setSl s h x).mcp = s.mcp := rfl
@[simp] theorem setSl_qe (h : Nat) (x : Slice) : (setSl s h x).qe = s.qe := rfl
@[simp] theorem setSl_ptp (h : Nat) (x : Slice) : (setSl s h x).ptp = s.ptp := rfl
@[simp] theorem setSl_life (h : Nat) (x : Slice) : (setSl s h x).life = s.life := rfl
@[simp] theorem setSl_dmc (h : Nat) (x : Slice) : (setSl s h x).dmc = s.dmc := rfl
@[simp] theorem setSl_fills (h : Nat) (x : Slice) : (setSl s h x).fills = s.fills := rfl
@[simp] theorem setSl_dramGen (h : Nat) (x : Slice) : (setSl s h x).dramGen = s.dramGen := rfl
@[simp] theorem setSl_sent (h : Nat) (x : Slice) : (setSl s h x).sent = s.sent := rfl
@[simp] theorem setSl_pageBytes (h : Nat) (x : Slice) : (setSl s h x).pageBytes = s.pageBytes := rfl
@[simp] theorem setSl_hps (h : Nat) (x : Slice) : (setSl s h x).hps = s.hps := rfl
@[simp] theorem setSl_spas (h : Nat) (x : Slice) : (setSl s h x).spas = s.spas := rfl
@[simp] theorem setSl_macs (h : Nat) (x : Slice) : (setSl s h x).macs = s.macs := rfl
@[simp] theorem setSl_frer (h : Nat) (x : Slice) : (setSl s h x).frer = s.frer := rfl
@[simp] theorem setSl_psl (h : Nat) (x : Slice) : (setSl s h x).psl = s.psl := rfl
@[simp] theorem setSl_coh (h : Nat) (x : Slice) : (setSl s h x).coh = { s.coh with slices := s.coh.slices.set h x } := rfl
@[simp] theorem setSl_fab (h : Nat) (x : Slice) : (setSl s h x).fab = s.fab := rfl
@[simp] theorem setSl_links (h : Nat) (x : Slice) : (setSl s h x).links = s.links := rfl
@[simp] theorem setSl_pwr (h : Nat) (x : Slice) : (setSl s h x).pwr = s.pwr := rfl
@[simp] theorem setSl_jrn (h : Nat) (x : Slice) : (setSl s h x).jrn = s.jrn := rfl
@[simp] theorem setSl_bse (h : Nat) (x : Slice) : (setSl s h x).bse = s.bse := rfl
@[simp] theorem setSl_dbg (h : Nat) (x : Slice) : (setSl s h x).dbg = s.dbg := rfl
@[simp] theorem setSl_lens (h : Nat) (x : Slice) : (setSl s h x).lens = s.lens := rfl
@[simp] theorem setSl_pending (h : Nat) (x : Slice) : (setSl s h x).pending = s.pending := rfl
@[simp] theorem rd_setSl (h : Nat) (x : Slice) (q : RegAddr) : rd (setSl s h x) q = rd s q := rfl
@[simp] theorem rf_setSl (h : Nat) (x : Slice) (q : RegAddr) (lo' w' : Nat) : rf (setSl s h x) q lo' w' = rf s q lo' w' := rfl
@[simp] theorem rb_setSl (h : Nat) (x : Slice) (q : RegAddr) (j : Nat) : rb (setSl s h x) q j = rb s q j := rfl
@[simp] theorem getCore_setSl (h : Nat) (x : Slice) (c' : Nat) : getCore (setSl s h x) c' = getCore s c' := rfl

/-! ### `post` -/

@[simp] theorem post_part (m : CohMsg) : (post s m).part = s.part := rfl
@[simp] theorem post_serial (m : CohMsg) : (post s m).serial = s.serial := rfl
@[simp] theorem post_time (m : CohMsg) : (post s m).time = s.time := rfl
@[simp] theorem post_resp (m : CohMsg) : (post s m).resp = s.resp := rfl
@[simp] theorem post_freeCtr (m : CohMsg) : (post s m).freeCtr = s.freeCtr := rfl
@[simp] theorem post_regs (m : CohMsg) : (post s m).regs = s.regs := rfl
@[simp] theorem post_mem (m : CohMsg) : (post s m).mem = s.mem := rfl
@[simp] theorem post_poison (m : CohMsg) : (post s m).poison = s.poison := rfl
@[simp] theorem post_err (m : CohMsg) : (post s m).err = s.err := rfl
@[simp] theorem post_ammin (m : CohMsg) : (post s m).ammin = s.ammin := rfl
@[simp] theorem post_fio (m : CohMsg) : (post s m).fio = s.fio := rfl
@[simp] theorem post_evr (m : CohMsg) : (post s m).evr = s.evr := rfl
@[simp] theorem post_cores (m : CohMsg) : (post s m).cores = s.cores := rfl
@[simp] theorem post_prefetch (m : CohMsg) : (post s m).prefetch = s.prefetch := rfl
@[simp] theorem post_prism (m : CohMsg) : (post s m).prism = s.prism := rfl
@[simp] theorem post_dom (m : CohMsg) : (post s m).dom = s.dom := rfl
@[simp] theorem post_smg (m : CohMsg) : (post s m).smg = s.smg := rfl
@[simp] theorem post_mcp (m : CohMsg) : (post s m).mcp = s.mcp := rfl
@[simp] theorem post_qe (m : CohMsg) : (post s m).qe = s.qe := rfl
@[simp] theorem post_ptp (m : CohMsg) : (post s m).ptp = s.ptp := rfl
@[simp] theorem post_life (m : CohMsg) : (post s m).life = s.life := rfl
@[simp] theorem post_dmc (m : CohMsg) : (post s m).dmc = s.dmc := rfl
@[simp] theorem post_fills (m : CohMsg) : (post s m).fills = s.fills := rfl
@[simp] theorem post_dramGen (m : CohMsg) : (post s m).dramGen = s.dramGen := rfl
@[simp] theorem post_sent (m : CohMsg) : (post s m).sent = s.sent := rfl
@[simp] theorem post_pageBytes (m : CohMsg) : (post s m).pageBytes = s.pageBytes := rfl
@[simp] theorem post_hps (m : CohMsg) : (post s m).hps = s.hps := rfl
@[simp] theorem post_spas (m : CohMsg) : (post s m).spas = s.spas := rfl
@[simp] theorem post_macs (m : CohMsg) : (post s m).macs = s.macs := rfl
@[simp] theorem post_frer (m : CohMsg) : (post s m).frer = s.frer := rfl
@[simp] theorem post_psl (m : CohMsg) : (post s m).psl = s.psl := rfl
@[simp] theorem post_coh (m : CohMsg) : (post s m).coh = { s.coh with msgs := s.coh.msgs ++ sentAs s m } := rfl
@[simp] theorem post_fab (m : CohMsg) : (post s m).fab = s.fab := rfl
@[simp] theorem post_links (m : CohMsg) : (post s m).links = s.links := rfl
@[simp] theorem post_pwr (m : CohMsg) : (post s m).pwr = s.pwr := rfl
@[simp] theorem post_jrn (m : CohMsg) : (post s m).jrn = s.jrn := rfl
@[simp] theorem post_bse (m : CohMsg) : (post s m).bse = s.bse := rfl
@[simp] theorem post_dbg (m : CohMsg) : (post s m).dbg = s.dbg := rfl
@[simp] theorem post_lens (m : CohMsg) : (post s m).lens = s.lens := rfl
@[simp] theorem post_pending (m : CohMsg) : (post s m).pending = s.pending := rfl
@[simp] theorem rd_post (m : CohMsg) (q : RegAddr) : rd (post s m) q = rd s q := rfl
@[simp] theorem rf_post (m : CohMsg) (q : RegAddr) (lo' w' : Nat) : rf (post s m) q lo' w' = rf s q lo' w' := rfl
@[simp] theorem rb_post (m : CohMsg) (q : RegAddr) (j : Nat) : rb (post s m) q j = rb s q j := rfl
@[simp] theorem getCore_post (m : CohMsg) (c' : Nat) : getCore (post s m) c' = getCore s c' := rfl

/-! ### `setHp` -/

@[simp] theorem setHp_part (p : Port) (x : HostPort) : (setHp s p x).part = s.part := rfl
@[simp] theorem setHp_serial (p : Port) (x : HostPort) : (setHp s p x).serial = s.serial := rfl
@[simp] theorem setHp_time (p : Port) (x : HostPort) : (setHp s p x).time = s.time := rfl
@[simp] theorem setHp_resp (p : Port) (x : HostPort) : (setHp s p x).resp = s.resp := rfl
@[simp] theorem setHp_freeCtr (p : Port) (x : HostPort) : (setHp s p x).freeCtr = s.freeCtr := rfl
@[simp] theorem setHp_regs (p : Port) (x : HostPort) : (setHp s p x).regs = s.regs := rfl
@[simp] theorem setHp_mem (p : Port) (x : HostPort) : (setHp s p x).mem = s.mem := rfl
@[simp] theorem setHp_poison (p : Port) (x : HostPort) : (setHp s p x).poison = s.poison := rfl
@[simp] theorem setHp_err (p : Port) (x : HostPort) : (setHp s p x).err = s.err := rfl
@[simp] theorem setHp_ammin (p : Port) (x : HostPort) : (setHp s p x).ammin = s.ammin := rfl
@[simp] theorem setHp_fio (p : Port) (x : HostPort) : (setHp s p x).fio = s.fio := rfl
@[simp] theorem setHp_evr (p : Port) (x : HostPort) : (setHp s p x).evr = s.evr := rfl
@[simp] theorem setHp_cores (p : Port) (x : HostPort) : (setHp s p x).cores = s.cores := rfl
@[simp] theorem setHp_prefetch (p : Port) (x : HostPort) : (setHp s p x).prefetch = s.prefetch := rfl
@[simp] theorem setHp_prism (p : Port) (x : HostPort) : (setHp s p x).prism = s.prism := rfl
@[simp] theorem setHp_dom (p : Port) (x : HostPort) : (setHp s p x).dom = s.dom := rfl
@[simp] theorem setHp_smg (p : Port) (x : HostPort) : (setHp s p x).smg = s.smg := rfl
@[simp] theorem setHp_mcp (p : Port) (x : HostPort) : (setHp s p x).mcp = s.mcp := rfl
@[simp] theorem setHp_qe (p : Port) (x : HostPort) : (setHp s p x).qe = s.qe := rfl
@[simp] theorem setHp_ptp (p : Port) (x : HostPort) : (setHp s p x).ptp = s.ptp := rfl
@[simp] theorem setHp_life (p : Port) (x : HostPort) : (setHp s p x).life = s.life := rfl
@[simp] theorem setHp_dmc (p : Port) (x : HostPort) : (setHp s p x).dmc = s.dmc := rfl
@[simp] theorem setHp_fills (p : Port) (x : HostPort) : (setHp s p x).fills = s.fills := rfl
@[simp] theorem setHp_dramGen (p : Port) (x : HostPort) : (setHp s p x).dramGen = s.dramGen := rfl
@[simp] theorem setHp_sent (p : Port) (x : HostPort) : (setHp s p x).sent = s.sent := rfl
@[simp] theorem setHp_pageBytes (p : Port) (x : HostPort) : (setHp s p x).pageBytes = s.pageBytes := rfl
@[simp] theorem setHp_hps (p : Port) (x : HostPort) : (setHp s p x).hps = listSet s.hps (match p with | .hpa => 0 | .hpb => 1) x := rfl
@[simp] theorem setHp_spas (p : Port) (x : HostPort) : (setHp s p x).spas = s.spas := rfl
@[simp] theorem setHp_macs (p : Port) (x : HostPort) : (setHp s p x).macs = s.macs := rfl
@[simp] theorem setHp_frer (p : Port) (x : HostPort) : (setHp s p x).frer = s.frer := rfl
@[simp] theorem setHp_psl (p : Port) (x : HostPort) : (setHp s p x).psl = s.psl := rfl
@[simp] theorem setHp_coh (p : Port) (x : HostPort) : (setHp s p x).coh = s.coh := rfl
@[simp] theorem setHp_fab (p : Port) (x : HostPort) : (setHp s p x).fab = s.fab := rfl
@[simp] theorem setHp_links (p : Port) (x : HostPort) : (setHp s p x).links = s.links := rfl
@[simp] theorem setHp_pwr (p : Port) (x : HostPort) : (setHp s p x).pwr = s.pwr := rfl
@[simp] theorem setHp_jrn (p : Port) (x : HostPort) : (setHp s p x).jrn = s.jrn := rfl
@[simp] theorem setHp_bse (p : Port) (x : HostPort) : (setHp s p x).bse = s.bse := rfl
@[simp] theorem setHp_dbg (p : Port) (x : HostPort) : (setHp s p x).dbg = s.dbg := rfl
@[simp] theorem setHp_lens (p : Port) (x : HostPort) : (setHp s p x).lens = s.lens := rfl
@[simp] theorem setHp_pending (p : Port) (x : HostPort) : (setHp s p x).pending = s.pending := rfl
@[simp] theorem rd_setHp (p : Port) (x : HostPort) (q : RegAddr) : rd (setHp s p x) q = rd s q := rfl
@[simp] theorem rf_setHp (p : Port) (x : HostPort) (q : RegAddr) (lo' w' : Nat) : rf (setHp s p x) q lo' w' = rf s q lo' w' := rfl
@[simp] theorem rb_setHp (p : Port) (x : HostPort) (q : RegAddr) (j : Nat) : rb (setHp s p x) q j = rb s q j := rfl
@[simp] theorem getCore_setHp (p : Port) (x : HostPort) (c' : Nat) : getCore (setHp s p x) c' = getCore s c' := rfl

/-! ### `takeMsg` -/

@[simp] theorem takeMsg_part (m : CohMsg) : (takeMsg s m).part = s.part := rfl
@[simp] theorem takeMsg_serial (m : CohMsg) : (takeMsg s m).serial = s.serial := rfl
@[simp] theorem takeMsg_time (m : CohMsg) : (takeMsg s m).time = s.time := rfl
@[simp] theorem takeMsg_resp (m : CohMsg) : (takeMsg s m).resp = s.resp := rfl
@[simp] theorem takeMsg_freeCtr (m : CohMsg) : (takeMsg s m).freeCtr = s.freeCtr := rfl
@[simp] theorem takeMsg_regs (m : CohMsg) : (takeMsg s m).regs = s.regs := rfl
@[simp] theorem takeMsg_mem (m : CohMsg) : (takeMsg s m).mem = s.mem := rfl
@[simp] theorem takeMsg_poison (m : CohMsg) : (takeMsg s m).poison = s.poison := rfl
@[simp] theorem takeMsg_err (m : CohMsg) : (takeMsg s m).err = s.err := rfl
@[simp] theorem takeMsg_ammin (m : CohMsg) : (takeMsg s m).ammin = s.ammin := rfl
@[simp] theorem takeMsg_fio (m : CohMsg) : (takeMsg s m).fio = s.fio := rfl
@[simp] theorem takeMsg_evr (m : CohMsg) : (takeMsg s m).evr = s.evr := rfl
@[simp] theorem takeMsg_cores (m : CohMsg) : (takeMsg s m).cores = s.cores := rfl
@[simp] theorem takeMsg_prefetch (m : CohMsg) : (takeMsg s m).prefetch = s.prefetch := rfl
@[simp] theorem takeMsg_prism (m : CohMsg) : (takeMsg s m).prism = s.prism := rfl
@[simp] theorem takeMsg_dom (m : CohMsg) : (takeMsg s m).dom = s.dom := rfl
@[simp] theorem takeMsg_smg (m : CohMsg) : (takeMsg s m).smg = s.smg := rfl
@[simp] theorem takeMsg_mcp (m : CohMsg) : (takeMsg s m).mcp = s.mcp := rfl
@[simp] theorem takeMsg_qe (m : CohMsg) : (takeMsg s m).qe = s.qe := rfl
@[simp] theorem takeMsg_ptp (m : CohMsg) : (takeMsg s m).ptp = s.ptp := rfl
@[simp] theorem takeMsg_life (m : CohMsg) : (takeMsg s m).life = s.life := rfl
@[simp] theorem takeMsg_dmc (m : CohMsg) : (takeMsg s m).dmc = s.dmc := rfl
@[simp] theorem takeMsg_fills (m : CohMsg) : (takeMsg s m).fills = s.fills := rfl
@[simp] theorem takeMsg_dramGen (m : CohMsg) : (takeMsg s m).dramGen = s.dramGen := rfl
@[simp] theorem takeMsg_sent (m : CohMsg) : (takeMsg s m).sent = s.sent := rfl
@[simp] theorem takeMsg_pageBytes (m : CohMsg) : (takeMsg s m).pageBytes = s.pageBytes := rfl
@[simp] theorem takeMsg_hps (m : CohMsg) : (takeMsg s m).hps = s.hps := rfl
@[simp] theorem takeMsg_spas (m : CohMsg) : (takeMsg s m).spas = s.spas := rfl
@[simp] theorem takeMsg_macs (m : CohMsg) : (takeMsg s m).macs = s.macs := rfl
@[simp] theorem takeMsg_frer (m : CohMsg) : (takeMsg s m).frer = s.frer := rfl
@[simp] theorem takeMsg_psl (m : CohMsg) : (takeMsg s m).psl = s.psl := rfl
@[simp] theorem takeMsg_coh (m : CohMsg) : (takeMsg s m).coh = { s.coh with msgs := s.coh.msgs.erase m } := rfl
@[simp] theorem takeMsg_fab (m : CohMsg) : (takeMsg s m).fab = s.fab := rfl
@[simp] theorem takeMsg_links (m : CohMsg) : (takeMsg s m).links = s.links := rfl
@[simp] theorem takeMsg_pwr (m : CohMsg) : (takeMsg s m).pwr = s.pwr := rfl
@[simp] theorem takeMsg_jrn (m : CohMsg) : (takeMsg s m).jrn = s.jrn := rfl
@[simp] theorem takeMsg_bse (m : CohMsg) : (takeMsg s m).bse = s.bse := rfl
@[simp] theorem takeMsg_dbg (m : CohMsg) : (takeMsg s m).dbg = s.dbg := rfl
@[simp] theorem takeMsg_lens (m : CohMsg) : (takeMsg s m).lens = s.lens := rfl
@[simp] theorem takeMsg_pending (m : CohMsg) : (takeMsg s m).pending = s.pending := rfl
@[simp] theorem rd_takeMsg (m : CohMsg) (q : RegAddr) : rd (takeMsg s m) q = rd s q := rfl
@[simp] theorem rf_takeMsg (m : CohMsg) (q : RegAddr) (lo' w' : Nat) : rf (takeMsg s m) q lo' w' = rf s q lo' w' := rfl
@[simp] theorem rb_takeMsg (m : CohMsg) (q : RegAddr) (j : Nat) : rb (takeMsg s m) q j = rb s q j := rfl
@[simp] theorem getCore_takeMsg (m : CohMsg) (c' : Nat) : getCore (takeMsg s m) c' = getCore s c' := rfl

/-! ### `setLink` -/

@[simp] theorem setLink_part (l : Nat) (x : Link) : (setLink s l x).part = s.part := rfl
@[simp] theorem setLink_serial (l : Nat) (x : Link) : (setLink s l x).serial = s.serial := rfl
@[simp] theorem setLink_time (l : Nat) (x : Link) : (setLink s l x).time = s.time := rfl
@[simp] theorem setLink_resp (l : Nat) (x : Link) : (setLink s l x).resp = s.resp := rfl
@[simp] theorem setLink_freeCtr (l : Nat) (x : Link) : (setLink s l x).freeCtr = s.freeCtr := rfl
@[simp] theorem setLink_regs (l : Nat) (x : Link) : (setLink s l x).regs = s.regs := rfl
@[simp] theorem setLink_mem (l : Nat) (x : Link) : (setLink s l x).mem = s.mem := rfl
@[simp] theorem setLink_poison (l : Nat) (x : Link) : (setLink s l x).poison = s.poison := rfl
@[simp] theorem setLink_err (l : Nat) (x : Link) : (setLink s l x).err = s.err := rfl
@[simp] theorem setLink_ammin (l : Nat) (x : Link) : (setLink s l x).ammin = s.ammin := rfl
@[simp] theorem setLink_fio (l : Nat) (x : Link) : (setLink s l x).fio = s.fio := rfl
@[simp] theorem setLink_evr (l : Nat) (x : Link) : (setLink s l x).evr = s.evr := rfl
@[simp] theorem setLink_cores (l : Nat) (x : Link) : (setLink s l x).cores = s.cores := rfl
@[simp] theorem setLink_prefetch (l : Nat) (x : Link) : (setLink s l x).prefetch = s.prefetch := rfl
@[simp] theorem setLink_prism (l : Nat) (x : Link) : (setLink s l x).prism = s.prism := rfl
@[simp] theorem setLink_dom (l : Nat) (x : Link) : (setLink s l x).dom = s.dom := rfl
@[simp] theorem setLink_smg (l : Nat) (x : Link) : (setLink s l x).smg = s.smg := rfl
@[simp] theorem setLink_mcp (l : Nat) (x : Link) : (setLink s l x).mcp = s.mcp := rfl
@[simp] theorem setLink_qe (l : Nat) (x : Link) : (setLink s l x).qe = s.qe := rfl
@[simp] theorem setLink_ptp (l : Nat) (x : Link) : (setLink s l x).ptp = s.ptp := rfl
@[simp] theorem setLink_life (l : Nat) (x : Link) : (setLink s l x).life = s.life := rfl
@[simp] theorem setLink_dmc (l : Nat) (x : Link) : (setLink s l x).dmc = s.dmc := rfl
@[simp] theorem setLink_fills (l : Nat) (x : Link) : (setLink s l x).fills = s.fills := rfl
@[simp] theorem setLink_dramGen (l : Nat) (x : Link) : (setLink s l x).dramGen = s.dramGen := rfl
@[simp] theorem setLink_sent (l : Nat) (x : Link) : (setLink s l x).sent = s.sent := rfl
@[simp] theorem setLink_pageBytes (l : Nat) (x : Link) : (setLink s l x).pageBytes = s.pageBytes := rfl
@[simp] theorem setLink_hps (l : Nat) (x : Link) : (setLink s l x).hps = s.hps := rfl
@[simp] theorem setLink_spas (l : Nat) (x : Link) : (setLink s l x).spas = s.spas := rfl
@[simp] theorem setLink_macs (l : Nat) (x : Link) : (setLink s l x).macs = s.macs := rfl
@[simp] theorem setLink_frer (l : Nat) (x : Link) : (setLink s l x).frer = s.frer := rfl
@[simp] theorem setLink_psl (l : Nat) (x : Link) : (setLink s l x).psl = s.psl := rfl
@[simp] theorem setLink_coh (l : Nat) (x : Link) : (setLink s l x).coh = s.coh := rfl
@[simp] theorem setLink_fab (l : Nat) (x : Link) : (setLink s l x).fab = s.fab := rfl
@[simp] theorem setLink_links (l : Nat) (x : Link) : (setLink s l x).links = s.links.set l x := rfl
@[simp] theorem setLink_pwr (l : Nat) (x : Link) : (setLink s l x).pwr = s.pwr := rfl
@[simp] theorem setLink_jrn (l : Nat) (x : Link) : (setLink s l x).jrn = s.jrn := rfl
@[simp] theorem setLink_bse (l : Nat) (x : Link) : (setLink s l x).bse = s.bse := rfl
@[simp] theorem setLink_dbg (l : Nat) (x : Link) : (setLink s l x).dbg = s.dbg := rfl
@[simp] theorem setLink_lens (l : Nat) (x : Link) : (setLink s l x).lens = s.lens := rfl
@[simp] theorem setLink_pending (l : Nat) (x : Link) : (setLink s l x).pending = s.pending := rfl
@[simp] theorem rd_setLink (l : Nat) (x : Link) (q : RegAddr) : rd (setLink s l x) q = rd s q := rfl
@[simp] theorem rf_setLink (l : Nat) (x : Link) (q : RegAddr) (lo' w' : Nat) : rf (setLink s l x) q lo' w' = rf s q lo' w' := rfl
@[simp] theorem rb_setLink (l : Nat) (x : Link) (q : RegAddr) (j : Nat) : rb (setLink s l x) q j = rb s q j := rfl
@[simp] theorem getCore_setLink (l : Nat) (x : Link) (c' : Nat) : getCore (setLink s l x) c' = getCore s c' := rfl

/-! ### `setDom` -/

@[simp] theorem setDom_part (d x : Nat) : (setDom s d x).part = s.part := rfl
@[simp] theorem setDom_serial (d x : Nat) : (setDom s d x).serial = s.serial := rfl
@[simp] theorem setDom_time (d x : Nat) : (setDom s d x).time = s.time := rfl
@[simp] theorem setDom_resp (d x : Nat) : (setDom s d x).resp = s.resp := rfl
@[simp] theorem setDom_freeCtr (d x : Nat) : (setDom s d x).freeCtr = s.freeCtr := rfl
@[simp] theorem setDom_regs (d x : Nat) : (setDom s d x).regs = s.regs := rfl
@[simp] theorem setDom_mem (d x : Nat) : (setDom s d x).mem = s.mem := rfl
@[simp] theorem setDom_poison (d x : Nat) : (setDom s d x).poison = s.poison := rfl
@[simp] theorem setDom_err (d x : Nat) : (setDom s d x).err = s.err := rfl
@[simp] theorem setDom_ammin (d x : Nat) : (setDom s d x).ammin = s.ammin := rfl
@[simp] theorem setDom_fio (d x : Nat) : (setDom s d x).fio = s.fio := rfl
@[simp] theorem setDom_evr (d x : Nat) : (setDom s d x).evr = s.evr := rfl
@[simp] theorem setDom_cores (d x : Nat) : (setDom s d x).cores = s.cores := rfl
@[simp] theorem setDom_prefetch (d x : Nat) : (setDom s d x).prefetch = s.prefetch := rfl
@[simp] theorem setDom_prism (d x : Nat) : (setDom s d x).prism = s.prism := rfl
@[simp] theorem setDom_dom (d x : Nat) : (setDom s d x).dom = listSet s.dom d x := rfl
@[simp] theorem setDom_smg (d x : Nat) : (setDom s d x).smg = s.smg := rfl
@[simp] theorem setDom_mcp (d x : Nat) : (setDom s d x).mcp = s.mcp := rfl
@[simp] theorem setDom_qe (d x : Nat) : (setDom s d x).qe = s.qe := rfl
@[simp] theorem setDom_ptp (d x : Nat) : (setDom s d x).ptp = s.ptp := rfl
@[simp] theorem setDom_life (d x : Nat) : (setDom s d x).life = s.life := rfl
@[simp] theorem setDom_dmc (d x : Nat) : (setDom s d x).dmc = s.dmc := rfl
@[simp] theorem setDom_fills (d x : Nat) : (setDom s d x).fills = s.fills := rfl
@[simp] theorem setDom_dramGen (d x : Nat) : (setDom s d x).dramGen = s.dramGen := rfl
@[simp] theorem setDom_sent (d x : Nat) : (setDom s d x).sent = s.sent := rfl
@[simp] theorem setDom_pageBytes (d x : Nat) : (setDom s d x).pageBytes = s.pageBytes := rfl
@[simp] theorem setDom_hps (d x : Nat) : (setDom s d x).hps = s.hps := rfl
@[simp] theorem setDom_spas (d x : Nat) : (setDom s d x).spas = s.spas := rfl
@[simp] theorem setDom_macs (d x : Nat) : (setDom s d x).macs = s.macs := rfl
@[simp] theorem setDom_frer (d x : Nat) : (setDom s d x).frer = s.frer := rfl
@[simp] theorem setDom_psl (d x : Nat) : (setDom s d x).psl = s.psl := rfl
@[simp] theorem setDom_coh (d x : Nat) : (setDom s d x).coh = s.coh := rfl
@[simp] theorem setDom_fab (d x : Nat) : (setDom s d x).fab = s.fab := rfl
@[simp] theorem setDom_links (d x : Nat) : (setDom s d x).links = s.links := rfl
@[simp] theorem setDom_pwr (d x : Nat) : (setDom s d x).pwr = s.pwr := rfl
@[simp] theorem setDom_jrn (d x : Nat) : (setDom s d x).jrn = s.jrn := rfl
@[simp] theorem setDom_bse (d x : Nat) : (setDom s d x).bse = s.bse := rfl
@[simp] theorem setDom_dbg (d x : Nat) : (setDom s d x).dbg = s.dbg := rfl
@[simp] theorem setDom_lens (d x : Nat) : (setDom s d x).lens = s.lens := rfl
@[simp] theorem setDom_pending (d x : Nat) : (setDom s d x).pending = s.pending := rfl
@[simp] theorem rd_setDom (d x : Nat) (q : RegAddr) : rd (setDom s d x) q = rd s q := rfl
@[simp] theorem rf_setDom (d x : Nat) (q : RegAddr) (lo' w' : Nat) : rf (setDom s d x) q lo' w' = rf s q lo' w' := rfl
@[simp] theorem rb_setDom (d x : Nat) (q : RegAddr) (j : Nat) : rb (setDom s d x) q j = rb s q j := rfl
@[simp] theorem getCore_setDom (d x : Nat) (c' : Nat) : getCore (setDom s d x) c' = getCore s c' := rfl

/-! ### `setLens` -/

@[simp] theorem setLens_part (p : Nat) (x : Lens) : (setLens s p x).part = s.part := rfl
@[simp] theorem setLens_serial (p : Nat) (x : Lens) : (setLens s p x).serial = s.serial := rfl
@[simp] theorem setLens_time (p : Nat) (x : Lens) : (setLens s p x).time = s.time := rfl
@[simp] theorem setLens_resp (p : Nat) (x : Lens) : (setLens s p x).resp = s.resp := rfl
@[simp] theorem setLens_freeCtr (p : Nat) (x : Lens) : (setLens s p x).freeCtr = s.freeCtr := rfl
@[simp] theorem setLens_regs (p : Nat) (x : Lens) : (setLens s p x).regs = s.regs := rfl
@[simp] theorem setLens_mem (p : Nat) (x : Lens) : (setLens s p x).mem = s.mem := rfl
@[simp] theorem setLens_poison (p : Nat) (x : Lens) : (setLens s p x).poison = s.poison := rfl
@[simp] theorem setLens_err (p : Nat) (x : Lens) : (setLens s p x).err = s.err := rfl
@[simp] theorem setLens_ammin (p : Nat) (x : Lens) : (setLens s p x).ammin = s.ammin := rfl
@[simp] theorem setLens_fio (p : Nat) (x : Lens) : (setLens s p x).fio = s.fio := rfl
@[simp] theorem setLens_evr (p : Nat) (x : Lens) : (setLens s p x).evr = s.evr := rfl
@[simp] theorem setLens_cores (p : Nat) (x : Lens) : (setLens s p x).cores = s.cores := rfl
@[simp] theorem setLens_prefetch (p : Nat) (x : Lens) : (setLens s p x).prefetch = s.prefetch := rfl
@[simp] theorem setLens_prism (p : Nat) (x : Lens) : (setLens s p x).prism = s.prism := rfl
@[simp] theorem setLens_dom (p : Nat) (x : Lens) : (setLens s p x).dom = s.dom := rfl
@[simp] theorem setLens_smg (p : Nat) (x : Lens) : (setLens s p x).smg = s.smg := rfl
@[simp] theorem setLens_mcp (p : Nat) (x : Lens) : (setLens s p x).mcp = s.mcp := rfl
@[simp] theorem setLens_qe (p : Nat) (x : Lens) : (setLens s p x).qe = s.qe := rfl
@[simp] theorem setLens_ptp (p : Nat) (x : Lens) : (setLens s p x).ptp = s.ptp := rfl
@[simp] theorem setLens_life (p : Nat) (x : Lens) : (setLens s p x).life = s.life := rfl
@[simp] theorem setLens_dmc (p : Nat) (x : Lens) : (setLens s p x).dmc = s.dmc := rfl
@[simp] theorem setLens_fills (p : Nat) (x : Lens) : (setLens s p x).fills = s.fills := rfl
@[simp] theorem setLens_dramGen (p : Nat) (x : Lens) : (setLens s p x).dramGen = s.dramGen := rfl
@[simp] theorem setLens_sent (p : Nat) (x : Lens) : (setLens s p x).sent = s.sent := rfl
@[simp] theorem setLens_pageBytes (p : Nat) (x : Lens) : (setLens s p x).pageBytes = s.pageBytes := rfl
@[simp] theorem setLens_hps (p : Nat) (x : Lens) : (setLens s p x).hps = s.hps := rfl
@[simp] theorem setLens_spas (p : Nat) (x : Lens) : (setLens s p x).spas = s.spas := rfl
@[simp] theorem setLens_macs (p : Nat) (x : Lens) : (setLens s p x).macs = s.macs := rfl
@[simp] theorem setLens_frer (p : Nat) (x : Lens) : (setLens s p x).frer = s.frer := rfl
@[simp] theorem setLens_psl (p : Nat) (x : Lens) : (setLens s p x).psl = s.psl := rfl
@[simp] theorem setLens_coh (p : Nat) (x : Lens) : (setLens s p x).coh = s.coh := rfl
@[simp] theorem setLens_fab (p : Nat) (x : Lens) : (setLens s p x).fab = s.fab := rfl
@[simp] theorem setLens_links (p : Nat) (x : Lens) : (setLens s p x).links = s.links := rfl
@[simp] theorem setLens_pwr (p : Nat) (x : Lens) : (setLens s p x).pwr = s.pwr := rfl
@[simp] theorem setLens_jrn (p : Nat) (x : Lens) : (setLens s p x).jrn = s.jrn := rfl
@[simp] theorem setLens_bse (p : Nat) (x : Lens) : (setLens s p x).bse = s.bse := rfl
@[simp] theorem setLens_dbg (p : Nat) (x : Lens) : (setLens s p x).dbg = s.dbg := rfl
@[simp] theorem setLens_lens (p : Nat) (x : Lens) : (setLens s p x).lens = s.lens.set p x := rfl
@[simp] theorem setLens_pending (p : Nat) (x : Lens) : (setLens s p x).pending = s.pending := rfl
@[simp] theorem rd_setLens (p : Nat) (x : Lens) (q : RegAddr) : rd (setLens s p x) q = rd s q := rfl
@[simp] theorem rf_setLens (p : Nat) (x : Lens) (q : RegAddr) (lo' w' : Nat) : rf (setLens s p x) q lo' w' = rf s q lo' w' := rfl
@[simp] theorem rb_setLens (p : Nat) (x : Lens) (q : RegAddr) (j : Nat) : rb (setLens s p x) q j = rb s q j := rfl
@[simp] theorem getCore_setLens (p : Nat) (x : Lens) (c' : Nat) : getCore (setLens s p x) c' = getCore s c' := rfl

end

end Sys2Proof.Machine
end

