-- ==== Sys2Proof/Laws/Table.lean ====
section
/-! SUPPORT. Sparse tables and lists by position: reading after writing, and what keeps a table in rising order. -/

namespace Sys2Proof.Machine

/-! ## Reading after writing -/

theorem Tbl.get?_set_same {α : Type} (t : Tbl α) (k : Nat) (v : α) : (t.set k v).get? k = some v := by
  induction t with
  | nil => simp [Tbl.set, Tbl.get?]
  | cons e t ih =>
    obtain ⟨j, w⟩ := e
    simp only [Tbl.set]
    split
    · simp [Tbl.get?]
    · split
      · simp [Tbl.get?]
      · rename_i h1 h2
        simp only [Tbl.get?]
        rw [if_neg (fun h => h2 h.symm), ih]

theorem Tbl.get?_set_ne {α : Type} (t : Tbl α) {k j : Nat} (v : α) (h : k ≠ j) : (t.set k v).get? j = t.get? j := by
  induction t with
  | nil => simp [Tbl.set, Tbl.get?, h]
  | cons e t ih =>
    obtain ⟨i, w⟩ := e
    simp only [Tbl.set]
    split
    · simp [Tbl.get?, h]
    · split
      · rename_i h1 h2
        subst h2
        simp [Tbl.get?, h]
      · simp only [Tbl.get?, ih]

@[simp] theorem Tbl.get_set_same {α : Type} (t : Tbl α) (d : α) (k : Nat) (v : α) : (t.set k v).get d k = v := by
  simp [Tbl.get, Tbl.get?_set_same]

theorem Tbl.get_set_ne {α : Type} (t : Tbl α) (d : α) {k j : Nat} (v : α) (h : k ≠ j) : (t.set k v).get d j = t.get d j := by
  simp [Tbl.get, Tbl.get?_set_ne t v h]

theorem listSet_length {α : Type} (l : List α) (n : Nat) (v : α) : (listSet l n v).length = l.length := by
  induction l generalizing n with
  | nil => rfl
  | cons a t ih => cases n <;> simp [listSet, ih]

theorem nth_listSet_same {α : Type} (l : List α) (d : α) (n : Nat) (v : α) (h : n < l.length) :
    nth (listSet l n v) d n = v := by
  induction l generalizing n with
  | nil => simp at h
  | cons a t ih =>
    cases n with
    | zero => simp [listSet, nth]
    | succ n =>
      have := ih n (by simpa using h)
      simpa [listSet, nth] using this

theorem nth_listSet_ne {α : Type} (l : List α) (d : α) {n m : Nat} (v : α) (h : n ≠ m) :
    nth (listSet l n v) d m = nth l d m := by
  induction l generalizing n m with
  | nil => rfl
  | cons a t ih =>
    cases n <;> cases m <;> simp_all [listSet, nth]

/-! ## Rising order -/

/-- Every key of a table lies above a bound. -/
def Tbl.above {α : Type} (b : Nat) (t : Tbl α) : Prop := ∀ e ∈ t, b < e.1

theorem Tbl.sorted_cons {α : Type} (k : Nat) (v : α) (t : Tbl α) :
    Tbl.sorted ((k, v) :: t) = true ↔ Tbl.above k t ∧ t.sorted = true := by
  induction t generalizing k v with
  | nil => simp [Tbl.sorted, Tbl.above]
  | cons e t ih =>
    obtain ⟨j, w⟩ := e
    simp only [Tbl.sorted, Bool.and_eq_true, decide_eq_true_eq]
    rw [ih j w]
    constructor
    · rintro ⟨h, ha, hs⟩
      refine ⟨?_, ha, hs⟩
      intro x hx
      rcases List.mem_cons.1 hx with rfl | hx
      · exact h
      · exact Nat.lt_trans h (ha x hx)
    · rintro ⟨ha, hb, hs⟩
      exact ⟨ha (j, w) (by simp), hb, hs⟩

theorem Tbl.above_set {α : Type} (b k : Nat) (v : α) (t : Tbl α) (hb : b < k) (h : Tbl.above b t) : Tbl.above b (t.set k v) := by
  induction t with
  | nil => intro e he; simp [Tbl.set] at he; subst he; exact hb
  | cons e t ih =>
    obtain ⟨j, w⟩ := e
    have hj : b < j := h (j, w) (by simp)
    have ht : Tbl.above b t := fun x hx => h x (List.mem_cons_of_mem _ hx)
    simp only [Tbl.set]
    split
    · intro x hx
      rcases List.mem_cons.1 hx with rfl | hx
      · exact hb
      · exact h x hx
    · split
      · intro x hx
        rcases List.mem_cons.1 hx with rfl | hx
        · exact hb
        · exact ht x hx
      · intro x hx
        rcases List.mem_cons.1 hx with rfl | hx
        · exact hj
        · exact ih ht x hx

theorem Tbl.sorted_set {α : Type} (t : Tbl α) (k : Nat) (v : α) (h : t.sorted = true) : (t.set k v).sorted = true := by
  induction t with
  | nil => rfl
  | cons e t ih =>
    obtain ⟨j, w⟩ := e
    obtain ⟨ha, hs⟩ := (Tbl.sorted_cons j w t).1 h
    simp only [Tbl.set]
    split
    · rename_i hk
      refine (Tbl.sorted_cons _ _ _).2 ⟨?_, h⟩
      intro x hx
      rcases List.mem_cons.1 hx with rfl | hx
      · exact hk
      · exact Nat.lt_trans hk (ha x hx)
    · split
      · rename_i h1 h2
        subst h2
        exact (Tbl.sorted_cons _ _ _).2 ⟨ha, hs⟩
      · exact (Tbl.sorted_cons _ _ _).2 ⟨Tbl.above_set j k v t (by omega) ha, ih hs⟩

theorem Tbl.above_filter {α : Type} (b : Nat) (t : Tbl α) (p : Nat × α → Bool) (h : Tbl.above b t) : Tbl.above b (t.filter p) :=
  fun e he => h e (List.mem_of_mem_filter he)

theorem Tbl.sorted_filter {α : Type} (t : Tbl α) (p : Nat × α → Bool) (h : t.sorted = true) : Tbl.sorted (t.filter p) = true := by
  induction t with
  | nil => rfl
  | cons e t ih =>
    obtain ⟨j, w⟩ := e
    obtain ⟨ha, hs⟩ := (Tbl.sorted_cons j w t).1 h
    simp only [List.filter]
    split
    · exact (Tbl.sorted_cons _ _ _).2 ⟨Tbl.above_filter j t p ha, ih hs⟩
    · exact ih hs

theorem Tbl.mem_set {α : Type} (t : Tbl α) (k : Nat) (v : α) (e : Nat × α) (h : e ∈ t.set k v) : e = (k, v) ∨ e ∈ t := by
  induction t with
  | nil => simp [Tbl.set] at h; exact Or.inl h
  | cons a t ih =>
    obtain ⟨j, w⟩ := a
    simp only [Tbl.set] at h
    split at h
    · rcases List.mem_cons.1 h with h | h
      · exact Or.inl h
      · exact Or.inr h
    · split at h
      · rcases List.mem_cons.1 h with h | h
        · exact Or.inl h
        · exact Or.inr (List.mem_cons_of_mem _ h)
      · rcases List.mem_cons.1 h with h | h
        · exact Or.inr (h ▸ List.mem_cons_self ..)
        · rcases ih h with h | h
          · exact Or.inl h
          · exact Or.inr (List.mem_cons_of_mem _ h)

end Sys2Proof.Machine
end

