-- ==== Sys2Proof/Laws/Regs.lean ====
section
/-! SUPPORT. Bit fields, and registers read after they were written. -/

namespace Sys2Proof.Machine

/-! ## Bit fields -/

theorem bit_eq (v : Word) (i : Nat) : bit v i = v.getLsbD i := rfl

theorem setFld_getLsbD (v : Word) (lo w x i : Nat) (hi : i < 64) :
    (setFld v lo w x).getLsbD i = if lo ≤ i ∧ i < lo + w then x.testBit (i - lo) else v.getLsbD i := by
  unfold setFld
  rw [BitVec.getLsbD_or, BitVec.getLsbD_and, BitVec.getLsbD_not, BitVec.getLsbD_ofNat, BitVec.getLsbD_ofNat]
  simp only [hi, decide_true, Bool.true_and, Nat.testBit_shiftLeft, Nat.testBit_mod_two_pow, Nat.testBit_two_pow_sub_one]
  by_cases h1 : lo ≤ i
  · by_cases h2 : i < lo + w
    · have : i - lo < w := by omega
      simp [h1, h2, this]
    · have : ¬ i - lo < w := by omega
      simp [h1, h2, this]
  · simp [h1]

theorem bit_setFld (v : Word) (lo w x i : Nat) (hi : i < 64) :
    bit (setFld v lo w x) i = if lo ≤ i ∧ i < lo + w then x.testBit (i - lo) else bit v i :=
  setFld_getLsbD v lo w x i hi

theorem fld_testBit (v : Word) (lo w j : Nat) : (fld v lo w).testBit j = (decide (j < w) && bit v (lo + j)) := by
  simp [fld, bit, Nat.testBit_mod_two_pow, Nat.testBit_shiftRight]

/-- A field reads as the low bits of what was put there. -/
theorem fld_setFld_same (v : Word) (lo w x : Nat) (h : lo + w ≤ 64) : fld (setFld v lo w x) lo w = x % 2 ^ w := by
  apply Nat.eq_of_testBit_eq
  intro j
  rw [fld_testBit, Nat.testBit_mod_two_pow]
  by_cases hj : j < w
  · rw [bit_setFld _ _ _ _ _ (by omega), if_pos (by omega)]
    simp [hj]
  · simp [hj]

/-- A field that does not overlap the one written stays. -/
theorem fld_setFld_ne (v : Word) (lo w x lo' w' : Nat) (h : lo' + w' ≤ 64) (hd : lo' + w' ≤ lo ∨ lo + w ≤ lo') :
    fld (setFld v lo w x) lo' w' = fld v lo' w' := by
  apply Nat.eq_of_testBit_eq
  intro j
  rw [fld_testBit, fld_testBit]
  by_cases hj : j < w'
  · rw [bit_setFld _ _ _ _ _ (by omega), if_neg (by omega)]
  · simp [hj]

theorem bit_setFld_bit_same (v : Word) (i : Nat) (b : Bool) (h : i < 64) : bit (setFld v i 1 b.toNat) i = b := by
  rw [bit_setFld _ _ _ _ _ h, if_pos (by omega)]
  cases b <;> simp

theorem bit_setFld_ne (v : Word) (lo w x i : Nat) (h : i < 64) (hd : i < lo ∨ lo + w ≤ i) : bit (setFld v lo w x) i = bit v i := by
  rw [bit_setFld _ _ _ _ _ h, if_neg (by omega)]

/-- A bit of a number put into a word. -/
theorem bit_ofNat (n i : Nat) (h : i < 64) : bit (BitVec.ofNat 64 n) i = n.testBit i := by
  rw [bit_eq, BitVec.getLsbD_ofNat]
  simp [h]

/-- A bit of the low part of a word. -/
theorem bit_ofNat_fld (v : Word) (w i : Nat) (h : i < 64) : bit (BitVec.ofNat 64 (fld v 0 w)) i = (decide (i < w) && bit v i) := by
  rw [bit_ofNat _ _ h, fld_testBit, Nat.zero_add]

/-! ## Registers -/

theorem resetVal_wr (s : State) (r q : RegAddr) (v : Word) : resetVal (wr s r v) q = resetVal s q := rfl

/-- A register reads as what was written. -/
@[simp] theorem rd_wr_same (s : State) (r : RegAddr) (v : Word) : rd (wr s r v) r = v := by
  simp [rd, wr, Tbl.get?_set_same]

/-- Every other register stays. -/
theorem rd_wr_ne (s : State) (r q : RegAddr) (v : Word) (h : rkey r ≠ rkey q) : rd (wr s r v) q = rd s q := by
  simp only [rd, resetVal_wr]
  rw [show (wr s r v).regs.get? (rkey q) = s.regs.get? (rkey q) from Tbl.get?_set_ne s.regs v h]

/-- Reading by key: registers of one key are one register. -/
theorem rd_wr (s : State) (r q : RegAddr) (v : Word) :
    rd (wr s r v) q = if rkey r = rkey q then v else rd s q := by
  by_cases h : rkey r = rkey q
  · rw [if_pos h]
    simp only [rd, wr, h, Tbl.get?_set_same]
  · rw [if_neg h, rd_wr_ne s r q v h]

theorem rd_wf_ne (s : State) (r q : RegAddr) (lo w x : Nat) (h : rkey r ≠ rkey q) : rd (wf s r lo w x) q = rd s q :=
  rd_wr_ne s r q _ h

theorem rd_wb_ne (s : State) (r q : RegAddr) (i : Nat) (b : Bool) (h : rkey r ≠ rkey q) : rd (wb s r i b) q = rd s q :=
  rd_wr_ne s r q _ h

@[simp] theorem rd_wf_same (s : State) (r : RegAddr) (lo w x : Nat) : rd (wf s r lo w x) r = setFld (rd s r) lo w x :=
  rd_wr_same s r _

@[simp] theorem rd_wb_same (s : State) (r : RegAddr) (i : Nat) (b : Bool) : rd (wb s r i b) r = setFld (rd s r) i 1 b.toNat :=
  rd_wr_same s r _

theorem rf_wr_ne (s : State) (r q : RegAddr) (v : Word) (lo w : Nat) (h : rkey r ≠ rkey q) : rf (wr s r v) q lo w = rf s q lo w := by
  simp only [rf, rd_wr_ne s r q v h]

theorem rb_wr_ne (s : State) (r q : RegAddr) (v : Word) (i : Nat) (h : rkey r ≠ rkey q) : rb (wr s r v) q i = rb s q i := by
  simp only [rb, rd_wr_ne s r q v h]

/-- A bit written is read back. -/
theorem rb_wb_same (s : State) (r : RegAddr) (i : Nat) (b : Bool) (h : i < 64) : rb (wb s r i b) r i = b := by
  simp only [rb, rd_wb_same, bit_setFld_bit_same _ i b h]

/-- The other bits of the register stay. -/
theorem rb_wb_ne (s : State) (r : RegAddr) (i j : Nat) (b : Bool) (h : j < 64) (hij : i ≠ j) : rb (wb s r i b) r j = rb s r j := by
  simp only [rb, rd_wb_same]
  exact bit_setFld_ne _ _ _ _ _ h (by omega)

/-- A field written is read back. -/
theorem rf_wf_same (s : State) (r : RegAddr) (lo w x : Nat) (h : lo + w ≤ 64) : rf (wf s r lo w x) r lo w = x % 2 ^ w := by
  simp only [rf, rd_wf_same, fld_setFld_same _ lo w x h]

/-- A field beside the one written stays. -/
theorem rf_wf_ne (s : State) (r : RegAddr) (lo w x lo' w' : Nat) (h : lo' + w' ≤ 64) (hd : lo' + w' ≤ lo ∨ lo + w ≤ lo') :
    rf (wf s r lo w x) r lo' w' = rf s r lo' w' := by
  simp only [rf, rd_wf_same, fld_setFld_ne _ lo w x lo' w' h hd]

theorem rb_wf_ne (s : State) (r : RegAddr) (lo w x i : Nat) (h : i < 64) (hd : i < lo ∨ lo + w ≤ i) :
    rb (wf s r lo w x) r i = rb s r i := by
  simp only [rb, rd_wf_same]
  exact bit_setFld_ne _ _ _ _ _ h hd

theorem rf_wb_ne (s : State) (r : RegAddr) (i : Nat) (b : Bool) (lo w : Nat) (h : lo + w ≤ 64) (hd : lo + w ≤ i ∨ i + 1 ≤ lo) :
    rf (wb s r i b) r lo w = rf s r lo w := by
  simp only [rf, rd_wb_same]
  exact fld_setFld_ne _ _ _ _ _ _ h hd

/-! ## One unit read after it was written -/

@[simp] theorem getCore_setCore_same (s : State) (c : Nat) (k : CoreSt) : getCore (setCore s c k) c = k := by
  simp [getCore]

theorem getCore_setCore_ne (s : State) {c d : Nat} (k : CoreSt) (h : c ≠ d) : getCore (setCore s c k) d = getCore s d := by
  simp only [getCore, setCore_cores]
  exact Tbl.get_set_ne _ _ _ h

@[simp] theorem getSrc_setSrc_same (s : State) (n : Nat) (x : Src) : getSrc (setSrc s n x) n = x := by
  simp [getSrc]

@[simp] theorem getDmc_setDmc_same (s : State) (n : Nat) (x : Dmc) : getDmc (setDmc s n x) n = x := by
  simp [getDmc]

@[simp] theorem getLink_setLink_same (s : State) (n : Nat) (x : Link) : getLink (setLink s n x) n = x := by
  simp [getLink]

@[simp] theorem getLens_setLens_same (s : State) (n : Nat) (x : Lens) : getLens (setLens s n x) n = x := by
  simp [getLens]

@[simp] theorem getMcp_setMcp_same (s : State) (n : Nat) (x : McpCh) : getMcp (setMcp s n x) n = x := by
  simp [getMcp]

@[simp] theorem getRing_setRing_same (s : State) (n : Nat) (x : Ring) : getRing (setRing s n x) n = x := by
  simp [getRing]

@[simp] theorem getDma_setDma_same (s : State) (n : Nat) (x : DmaCh) : getDma (setDma s n x) n = x := by
  simp [getDma]

@[simp] theorem getSl_setSl_same (s : State) (n : Nat) (x : Slice) : getSl (setSl s n x) n = x := by
  simp [getSl]

end Sys2Proof.Machine
end

