-- ==== Sys2Proof/Laws/Access.lean ====
section
/-! SUPPORT. Register accesses: what each outcome of the common checks comes to, and what raising a condition leaves. -/

namespace Sys2Proof.Machine

/-! ## The common checks -/

/-- An accepted write has its effect, on a state whose answer is OK. -/
theorem regWrite_accepted (s : State) (i : Initiator) (r : RegAddr) (eff : State → State) (h : Safety.Accepted s i r) :
    regWrite s i r true true eff = eff (respOk s 0) := by
  obtain ⟨h1, h2, h3, h4⟩ := h
  simp [regWrite, h1, h2, h3, h4]

theorem regWriteOpt_accepted (s : State) (i : Initiator) (r : RegAddr) (f : State → Option State) (u : State)
    (h : Safety.Accepted s i r) (hf : f (respOk s 0) = some u) : regWriteOpt s i r true f = u := by
  simp only [regWriteOpt, regWrite_accepted s i r _ h, hf]

/-- A write that the block's state rule refuses is answered with cause REFUSED. -/
theorem regWriteOpt_refused (s : State) (i : Initiator) (r : RegAddr) (f : State → Option State)
    (h : Safety.Accepted s i r) (hf : f (respOk s 0) = none) : regWriteOpt s i r true f = refuse (respOk s 0) i r := by
  simp only [regWriteOpt, regWrite_accepted s i r _ h, hf]

theorem regRead_accepted (s : State) (i : Initiator) (r : RegAddr) (ans : State → State) (h : Safety.Accepted s i r) :
    regRead s i r true ans = ans s := by
  obtain ⟨h1, h2, _⟩ := h
  simp [regRead, h1, h2]

/-- A write from another partition than the owner's is refused with NOT_OWNER, or with PRIVILEGE where only M-level code of partition 0
writes. -/
theorem regWrite_not_owner (s : State) (i : Initiator) (r : RegAddr) (p : Bool) (eff : State → State)
    (h : cutOff s i r.ty r.inst = false) (hn : openToAll r = false) (ho : reaches s i r = false) :
    regWrite s i r true p eff = failAccess s i r (ownerCause r) := by
  simp [regWrite, h, hn, ho]

/-- A write without the privilege that the register asks for is refused with PRIVILEGE. -/
theorem regWrite_privilege (s : State) (i : Initiator) (r : RegAddr) (eff : State → State)
    (h : cutOff s i r.ty r.inst = false) (ho : reaches s i r = true) :
    regWrite s i r true false eff = failAccess s i r cPRIVILEGE := by
  simp [regWrite, h, ho]

/-- A RELEASE is refused for want of power only where the core's page is out of reach. -/
theorem releaseDark_of_reached (s : State) (i : Initiator) (c : Nat) (h : cutOff s i .core c = false) : releaseDark s i c = false := by
  simp only [cutOff, unreachable, Bool.or_eq_false_iff] at h
  have hd : domDark s (coreDomain c) = false := h.1.1.2
  simp [releaseDark, hd]

/-- A write of a page that is reached has the width checked, then takes its semaphore's or its register's effect. -/
theorem writeReg_reached (s : State) (i : Initiator) (r : RegAddr) (width : Nat) (v : Word) (m : Bool)
    (hd : isDataPage r.ty r.inst r.page = false) (h : cutOff s i r.ty r.inst = false) :
    writeReg s i r width v m = if !widthOk r width then failAccess s i r cSIZE
      else if isHsem r then semWrite s i r ((r.off - 0x100) / 4) v else regWriteNow s i r v m := by
  have hn : ¬(r = Reg.EXC_CTL r.inst ∧ bit v 0 = true ∧ releaseDark s i r.inst = true) := by
    rintro ⟨e, _, e'⟩
    have ht : r.ty = .core := by rw [e]; rfl
    rw [ht] at h
    rw [releaseDark_of_reached s i r.inst h] at e'
    cases e'
  unfold writeReg
  rw [hd, h, if_neg hn]
  rfl

/-! ## Folds -/

theorem foldl_keeps {α β : Type} (P : β → Prop) (f : β → α → β) (l : List α) (b : β) (hb : P b)
    (hf : ∀ x a, P x → P (f x a)) : P (l.foldl f b) := by
  induction l generalizing b with
  | nil => exact hb
  | cons a l ih => exact ih _ (hf b a hb)

theorem foldl_proj {α β γ : Type} (p : β → γ) (f : β → α → β) (l : List α) (b : β) (hf : ∀ x a, p (f x a) = p x) :
    p (l.foldl f b) = p b := by
  induction l generalizing b with
  | nil => rfl
  | cons a l ih => rw [List.foldl_cons, ih, hf]

/-! ## Conditions -/

/-- Asserting sources changes the event router alone. -/
theorem assertRises_only (s : State) (b : Block) (n page x y : Nat) :
    ∃ ev, assertRises s b n page x y = { s with evr := ev } := by
  unfold assertRises
  refine foldl_keeps (fun t => ∃ ev, t = { s with evr := ev }) _ _ _ ⟨s.evr, rfl⟩ ?_
  rintro t k ⟨ev, rfl⟩
  split
  · split
    · exact ⟨_, rfl⟩
    · exact ⟨ev, rfl⟩
  · exact ⟨ev, rfl⟩

theorem rd_assertRises (s : State) (b : Block) (n page x y : Nat) (q : RegAddr) : rd (assertRises s b n page x y) q = rd s q := by
  obtain ⟨ev, h⟩ := assertRises_only s b n page x y
  rw [h]
  rfl

/-- Raising a condition changes registers and the event router alone. -/
theorem raiseCond_only (s : State) (b : Block) (n page k : Nat) :
    ∃ rg ev, raiseCond s b n page k = { s with regs := rg, evr := ev } := by
  unfold raiseCond setEvt
  obtain ⟨ev, h⟩ := assertRises_only (wr (wr s (evtStatus b n page) (setBit (rd s (evtStatus b n page)) k true))
    (evtEnable b n page) (rd s (evtEnable b n page))) b n page (rd s (evtStatus b n page) &&& rd s (evtEnable b n page)).toNat
    (setBit (rd s (evtStatus b n page)) k true &&& rd s (evtEnable b n page)).toNat
  exact ⟨_, ev, h⟩

theorem rkey_inj_off {b : Block} {n page x y : Nat} (h : rkey (pageReg b n page x) = rkey (pageReg b n page y)) : x = y := by
  simp only [rkey, pageReg] at h
  omega

/-- A condition that occurs sets its bit of EVT_STATUS. -/
theorem rb_raiseCond_status (s : State) (b : Block) (n page k : Nat) (hk : k < 64) :
    rb (raiseCond s b n page k) (evtStatus b n page) k = true := by
  unfold raiseCond setEvt
  simp only [rb, rd_assertRises]
  rw [rd_wr_ne _ _ _ _ (fun h => by have := rkey_inj_off h; omega), rd_wr_same]
  exact bit_setFld_bit_same _ k true hk

/-- Other registers than EVT_STATUS and EVT_ENABLE of the page stay when a condition occurs. -/
theorem rd_raiseCond (s : State) (b : Block) (n page k : Nat) (q : RegAddr) (h : rkey (evtStatus b n page) ≠ rkey q)
    (h' : rkey (evtEnable b n page) ≠ rkey q) : rd (raiseCond s b n page k) q = rd s q := by
  unfold raiseCond setEvt
  rw [rd_assertRises, rd_wr_ne _ _ _ _ h', rd_wr_ne _ _ _ _ h]

/-- EVT_ENABLE of the page stays too. -/
theorem rd_raiseCond_enable (s : State) (b : Block) (n page k : Nat) :
    rd (raiseCond s b n page k) (evtEnable b n page) = rd s (evtEnable b n page) := by
  unfold raiseCond setEvt
  rw [rd_assertRises, rd_wr_same]

theorem rkey_mod (r : RegAddr) (h : r.off < 4096) : rkey r % 4096 = r.off := by
  simp only [rkey]
  omega

/-- A block register stays when a condition occurs, for it lies at another offset than the event registers. -/
theorem rd_raiseCond_off (s : State) (b : Block) (n page k : Nat) (q : RegAddr) (h : q.off < 4096) (h1 : q.off ≠ 0x010)
    (h2 : q.off ≠ 0x014) : rd (raiseCond s b n page k) q = rd s q := by
  refine rd_raiseCond s b n page k q (fun e => ?_) (fun e => ?_)
  · have := congrArg (· % 4096) e
    rw [rkey_mod _ (by simp [evtStatus, pageReg]), rkey_mod q h] at this
    exact h1 this.symm
  · have := congrArg (· % 4096) e
    rw [rkey_mod _ (by simp [evtEnable, pageReg]), rkey_mod q h] at this
    exact h2 this.symm

theorem rf_raiseCond_off (s : State) (b : Block) (n page k : Nat) (q : RegAddr) (lo w : Nat) (h : q.off < 4096) (h1 : q.off ≠ 0x010)
    (h2 : q.off ≠ 0x014) : rf (raiseCond s b n page k) q lo w = rf s q lo w := by
  simp only [rf, rd_raiseCond_off s b n page k q h h1 h2]

theorem rb_raiseCond_off (s : State) (b : Block) (n page k : Nat) (q : RegAddr) (i : Nat) (h : q.off < 4096) (h1 : q.off ≠ 0x010)
    (h2 : q.off ≠ 0x014) : rb (raiseCond s b n page k) q i = rb s q i := by
  simp only [rb, rd_raiseCond_off s b n page k q h h1 h2]

@[simp] theorem raiseCond_part (s : State) (b : Block) (n page k : Nat) : (raiseCond s b n page k).part = s.part := by
  obtain ⟨rg, ev, h⟩ := raiseCond_only s b n page k
  rw [h]

@[simp] theorem raiseCond_serial (s : State) (b : Block) (n page k : Nat) : (raiseCond s b n page k).serial = s.serial := by
  obtain ⟨rg, ev, h⟩ := raiseCond_only s b n page k
  rw [h]

@[simp] theorem raiseCond_time (s : State) (b : Block) (n page k : Nat) : (raiseCond s b n page k).time = s.time := by
  obtain ⟨rg, ev, h⟩ := raiseCond_only s b n page k
  rw [h]

@[simp] theorem raiseCond_resp (s : State) (b : Block) (n page k : Nat) : (raiseCond s b n page k).resp = s.resp := by
  obtain ⟨rg, ev, h⟩ := raiseCond_only s b n page k
  rw [h]

@[simp] theorem raiseCond_freeCtr (s : State) (b : Block) (n page k : Nat) : (raiseCond s b n page k).freeCtr = s.freeCtr := by
  obtain ⟨rg, ev, h⟩ := raiseCond_only s b n page k
  rw [h]

@[simp] theorem raiseCond_mem (s : State) (b : Block) (n page k : Nat) : (raiseCond s b n page k).mem = s.mem := by
  obtain ⟨rg, ev, h⟩ := raiseCond_only s b n page k
  rw [h]

@[simp] theorem raiseCond_poison (s : State) (b : Block) (n page k : Nat) : (raiseCond s b n page k).poison = s.poison := by
  obtain ⟨rg, ev, h⟩ := raiseCond_only s b n page k
  rw [h]

@[simp] theorem raiseCond_err (s : State) (b : Block) (n page k : Nat) : (raiseCond s b n page k).err = s.err := by
  obtain ⟨rg, ev, h⟩ := raiseCond_only s b n page k
  rw [h]

@[simp] theorem raiseCond_ammin (s : State) (b : Block) (n page k : Nat) : (raiseCond s b n page k).ammin = s.ammin := by
  obtain ⟨rg, ev, h⟩ := raiseCond_only s b n page k
  rw [h]

@[simp] theorem raiseCond_fio (s : State) (b : Block) (n page k : Nat) : (raiseCond s b n page k).fio = s.fio := by
  obtain ⟨rg, ev, h⟩ := raiseCond_only s b n page k
  rw [h]

@[simp] theorem raiseCond_cores (s : State) (b : Block) (n page k : Nat) : (raiseCond s b n page k).cores = s.cores := by
  obtain ⟨rg, ev, h⟩ := raiseCond_only s b n page k
  rw [h]

@[simp] theorem raiseCond_prefetch (s : State) (b : Block) (n page k : Nat) : (raiseCond s b n page k).prefetch = s.prefetch := by
  obtain ⟨rg, ev, h⟩ := raiseCond_only s b n page k
  rw [h]

@[simp] theorem raiseCond_prism (s : State) (b : Block) (n page k : Nat) : (raiseCond s b n page k).prism = s.prism := by
  obtain ⟨rg, ev, h⟩ := raiseCond_only s b n page k
  rw [h]

@[simp] theorem raiseCond_dom (s : State) (b : Block) (n page k : Nat) : (raiseCond s b n page k).dom = s.dom := by
  obtain ⟨rg, ev, h⟩ := raiseCond_only s b n page k
  rw [h]

@[simp] theorem raiseCond_smg (s : State) (b : Block) (n page k : Nat) : (raiseCond s b n page k).smg = s.smg := by
  obtain ⟨rg, ev, h⟩ := raiseCond_only s b n page k
  rw [h]

@[simp] theorem raiseCond_mcp (s : State) (b : Block) (n page k : Nat) : (raiseCond s b n page k).mcp = s.mcp := by
  obtain ⟨rg, ev, h⟩ := raiseCond_only s b n page k
  rw [h]

@[simp] theorem raiseCond_qe (s : State) (b : Block) (n page k : Nat) : (raiseCond s b n page k).qe = s.qe := by
  obtain ⟨rg, ev, h⟩ := raiseCond_only s b n page k
  rw [h]

@[simp] theorem raiseCond_ptp (s : State) (b : Block) (n page k : Nat) : (raiseCond s b n page k).ptp = s.ptp := by
  obtain ⟨rg, ev, h⟩ := raiseCond_only s b n page k
  rw [h]

@[simp] theorem raiseCond_life (s : State) (b : Block) (n page k : Nat) : (raiseCond s b n page k).life = s.life := by
  obtain ⟨rg, ev, h⟩ := raiseCond_only s b n page k
  rw [h]

@[simp] theorem raiseCond_dmc (s : State) (b : Block) (n page k : Nat) : (raiseCond s b n page k).dmc = s.dmc := by
  obtain ⟨rg, ev, h⟩ := raiseCond_only s b n page k
  rw [h]

@[simp] theorem raiseCond_fills (s : State) (b : Block) (n page k : Nat) : (raiseCond s b n page k).fills = s.fills := by
  obtain ⟨rg, ev, h⟩ := raiseCond_only s b n page k
  rw [h]

@[simp] theorem raiseCond_dramGen (s : State) (b : Block) (n page k : Nat) : (raiseCond s b n page k).dramGen = s.dramGen := by
  obtain ⟨rg, ev, h⟩ := raiseCond_only s b n page k
  rw [h]

@[simp] theorem raiseCond_sent (s : State) (b : Block) (n page k : Nat) : (raiseCond s b n page k).sent = s.sent := by
  obtain ⟨rg, ev, h⟩ := raiseCond_only s b n page k
  rw [h]

@[simp] theorem raiseCond_pageBytes (s : State) (b : Block) (n page k : Nat) : (raiseCond s b n page k).pageBytes = s.pageBytes := by
  obtain ⟨rg, ev, h⟩ := raiseCond_only s b n page k
  rw [h]

@[simp] theorem raiseCond_hps (s : State) (b : Block) (n page k : Nat) : (raiseCond s b n page k).hps = s.hps := by
  obtain ⟨rg, ev, h⟩ := raiseCond_only s b n page k
  rw [h]

@[simp] theorem raiseCond_spas (s : State) (b : Block) (n page k : Nat) : (raiseCond s b n page k).spas = s.spas := by
  obtain ⟨rg, ev, h⟩ := raiseCond_only s b n page k
  rw [h]

@[simp] theorem raiseCond_macs (s : State) (b : Block) (n page k : Nat) : (raiseCond s b n page k).macs = s.macs := by
  obtain ⟨rg, ev, h⟩ := raiseCond_only s b n page k
  rw [h]

@[simp] theorem raiseCond_frer (s : State) (b : Block) (n page k : Nat) : (raiseCond s b n page k).frer = s.frer := by
  obtain ⟨rg, ev, h⟩ := raiseCond_only s b n page k
  rw [h]

@[simp] theorem raiseCond_psl (s : State) (b : Block) (n page k : Nat) : (raiseCond s b n page k).psl = s.psl := by
  obtain ⟨rg, ev, h⟩ := raiseCond_only s b n page k
  rw [h]

@[simp] theorem raiseCond_coh (s : State) (b : Block) (n page k : Nat) : (raiseCond s b n page k).coh = s.coh := by
  obtain ⟨rg, ev, h⟩ := raiseCond_only s b n page k
  rw [h]

@[simp] theorem raiseCond_fab (s : State) (b : Block) (n page k : Nat) : (raiseCond s b n page k).fab = s.fab := by
  obtain ⟨rg, ev, h⟩ := raiseCond_only s b n page k
  rw [h]

@[simp] theorem raiseCond_links (s : State) (b : Block) (n page k : Nat) : (raiseCond s b n page k).links = s.links := by
  obtain ⟨rg, ev, h⟩ := raiseCond_only s b n page k
  rw [h]

@[simp] theorem raiseCond_pwr (s : State) (b : Block) (n page k : Nat) : (raiseCond s b n page k).pwr = s.pwr := by
  obtain ⟨rg, ev, h⟩ := raiseCond_only s b n page k
  rw [h]

@[simp] theorem raiseCond_jrn (s : State) (b : Block) (n page k : Nat) : (raiseCond s b n page k).jrn = s.jrn := by
  obtain ⟨rg, ev, h⟩ := raiseCond_only s b n page k
  rw [h]

@[simp] theorem raiseCond_bse (s : State) (b : Block) (n page k : Nat) : (raiseCond s b n page k).bse = s.bse := by
  obtain ⟨rg, ev, h⟩ := raiseCond_only s b n page k
  rw [h]

@[simp] theorem raiseCond_dbg (s : State) (b : Block) (n page k : Nat) : (raiseCond s b n page k).dbg = s.dbg := by
  obtain ⟨rg, ev, h⟩ := raiseCond_only s b n page k
  rw [h]

@[simp] theorem raiseCond_lens (s : State) (b : Block) (n page k : Nat) : (raiseCond s b n page k).lens = s.lens := by
  obtain ⟨rg, ev, h⟩ := raiseCond_only s b n page k
  rw [h]

@[simp] theorem raiseCond_pending (s : State) (b : Block) (n page k : Nat) : (raiseCond s b n page k).pending = s.pending := by
  obtain ⟨rg, ev, h⟩ := raiseCond_only s b n page k
  rw [h]

end Sys2Proof.Machine
end

