-- ==== Sys2Proof/Laws/Bits.lean ====
section
/-! SUPPORT. The bits of a number that a list of flags spells. -/

namespace Sys2Proof.Machine

/-- Bit `n` of the number is flag `n`. -/
theorem testBit_bitsToNat (l : List Bool) : ∀ n, (bitsToNat l).testBit n = (l[n]?).getD false := by
  induction l with
  | nil => intro n; simp [bitsToNat]
  | cons b l ih =>
    intro n
    cases n with
    | zero => cases b <;> simp [bitsToNat, Nat.testBit_zero] <;> omega
    | succ n =>
      rw [Nat.testBit_succ, List.getElem?_cons_succ, ← ih n]
      congr 1
      cases b <;> simp [bitsToNat] <;> omega

/-- A list of `k` flags spells a number below 2^k. -/
theorem bitsToNat_lt (l : List Bool) : bitsToNat l < 2 ^ l.length := by
  induction l with
  | nil => simp [bitsToNat]
  | cons b l ih =>
    simp only [bitsToNat, List.length_cons, Nat.pow_succ]
    cases b <;> simp <;> omega

/-- The number that a set of bits below `n` spells. -/
theorem bitSum (f : Nat → Bool) : ∀ n,
    sumNat (((upto n).filter f).map fun b => 2 ^ b) < 2 ^ n ∧
      ∀ b, (sumNat (((upto n).filter f).map fun b => 2 ^ b)).testBit b = (decide (b < n) && f b) := by
  intro n
  induction n with
  | zero => simp [upto, sumNat]
  | succ n ih =>
    obtain ⟨h1, h2⟩ := ih
    have e : sumNat (((upto (n + 1)).filter f).map fun b => 2 ^ b) =
        2 ^ n * (f n).toNat + sumNat (((upto n).filter f).map fun b => 2 ^ b) := by
      simp only [upto, List.range_succ, List.filter_append, List.map_append, sumNat, List.foldl_append]
      cases hf : f n <;> simp [hf]
      omega
    rw [e]
    constructor
    · rw [Nat.pow_succ]
      cases f n <;> simp <;> omega
    · intro b
      rw [Nat.testBit_two_pow_mul_add _ h1]
      split
      · rename_i hb
        rw [h2]
        simp [hb, Nat.lt_succ_of_lt hb]
      · rename_i hb
        by_cases hn : b = n
        · subst hn
          cases f b <;> simp
        · have : ¬ b < n + 1 := by omega
          simp only [this, decide_false, Bool.false_and]
          have hk : b - n ≠ 0 := by omega
          cases f n
          · simp
          · exact Nat.testBit_lt_two_pow (Nat.one_lt_two_pow hk)

/-- A field of a number replaced: the field reads as the value put there. -/
theorem testBit_putField (m lo w v b : Nat) (hv : v < 2 ^ w) (hb : b < w) :
    ((m - ((m >>> lo) % 2 ^ w) <<< lo) + v <<< lo).testBit (lo + b) = v.testBit b := by
  have e : (m - ((m >>> lo) % 2 ^ w) <<< lo) + v <<< lo = 2 ^ lo * (2 ^ w * (m / 2 ^ lo / 2 ^ w) + v) + m % 2 ^ lo := by
    simp only [Nat.shiftRight_eq_div_pow, Nat.shiftLeft_eq]
    have h1 := Nat.div_add_mod m (2 ^ lo)
    have h2 := Nat.div_add_mod (m / 2 ^ lo) (2 ^ w)
    generalize m / 2 ^ lo = q at *
    generalize q / 2 ^ w = r at *
    generalize q % 2 ^ w = f at *
    generalize m % 2 ^ lo = l at *
    have h3 : m = 2 ^ lo * (2 ^ w * r + f) + l := by rw [h2, h1]
    rw [h3, Nat.mul_add, Nat.mul_comm f, Nat.mul_comm v, Nat.mul_add]
    omega
  rw [e, Nat.testBit_two_pow_mul_add _ (Nat.mod_lt _ (Nat.two_pow_pos lo))]
  have h : ¬ lo + b < lo := by omega
  rw [if_neg h, Nat.add_sub_cancel_left, Nat.testBit_two_pow_mul_add _ hv, if_pos hb]

end Sys2Proof.Machine
end

