-- ==== Sys2Proof/Laws/Core.lean ====
section
/-! SUPPORT. What executing one instruction on a core comes to. -/

namespace Sys2Proof.Machine

/-- An instruction of a ready core has its body's effect and is concluded. -/
theorem runInstr_ready (s : State) (c : CoreId) (g : Guard) (i : Ins) (body : State → Exe) (h : Safety.CoreReady s c g)
    (hl : i.legal = true) (hc : i.ctl = false) (he : i.ext = false) :
    runInstr s c g i body = conclude c i.words (body s) := by
  obtain ⟨h1, h2, h3, h4, h5, h7⟩ := h
  simp [runInstr, atId, execute, h7, h1, h2, h3, h4, h5, hl, hc, he]

/-- The same for an instruction of class B, K or C, where no hardware loop ends at it. -/
theorem runInstr_ready_ctl (s : State) (c : CoreId) (g : Guard) (i : Ins) (body : State → Exe) (h : Safety.CoreReadyCtl s c g)
    (hl : i.legal = true) (he : i.ext = false) :
    runInstr s c g i body = conclude c i.words (body s) := by
  obtain ⟨⟨h1, h2, h3, h4, h5, h7⟩, h6⟩ := h
  simp [runInstr, atId, execute, h7, h1, h2, h3, h4, h5, h6, hl, he]

/-- The same for an instruction that uses extended state, where that is available. -/
theorem runInstr_ready_ext (s : State) (c : CoreId) (g : Guard) (i : Ins) (body : State → Exe) (h : Safety.CoreReadyExt s c g)
    (hl : i.legal = true) (hc : i.ctl = false) :
    runInstr s c g i body = conclude c i.words (body s) := by
  obtain ⟨⟨h1, h2, h3, h4, h5, h7⟩, h6⟩ := h
  by_cases he : i.ext = true
  · simp [runInstr, atId, execute, lazySeq, h7, h1, h2, h3, h4, h5, h6, hl, hc, he]
  · simp [runInstr, atId, execute, h7, h1, h2, h3, h4, h5, hl, hc, he]

/-- An unassigned encoding raises ILLEGAL. -/
theorem runInstr_illegal (s : State) (c : CoreId) (g : Guard) (i : Ins) (body : State → Exe) (h1 : canStep (getCore s c) = true)
    (h2 : impreciseDue (curBank s c) = false) (h3 : ibpHit s c = none) (hl : i.legal = false) :
    runInstr s c g i body = raiseFault s c (.plain xILLEGAL 0) := by
  simp [runInstr, atId, h1, h2, h3, hl]

/-- A false guard only retires the instruction. -/
theorem runInstr_skip (s : State) (c : CoreId) (g : Guard) (i : Ins) (body : State → Exe) (h1 : canStep (getCore s c) = true)
    (h2 : impreciseDue (curBank s c) = false) (h3 : ibpHit s c = none) (h7 : illegalHead s c = false) (hl : i.legal = true) (hg : (curBank s c).guard g = false) :
    runInstr s c g i body = retire (i.miss s) c i.words none := by
  simp [runInstr, atId, h1, h2, h3, h7, hl, hg]

/-! ## The current bank -/

/-- The current bank reads as it was written. -/
theorem curBank_setCur (s : State) (c : Nat) (b : Bank) (h : (getCore s c).cur < (getCore s c).banks.length) :
    curBank (setCur s c b) c = b := by
  simp only [curBank, setCur, getCore_setCore_same]
  exact nth_listSet_same _ _ _ _ h

/-- A write of a core's current bank leaves the other cores. -/
theorem getCore_setCur_ne (s : State) (c d : Nat) (b : Bank) (h : c ≠ d) : getCore (setCur s c b) d = getCore s d :=
  getCore_setCore_ne s _ h

@[simp] theorem setCur_mem (s : State) (c : Nat) (b : Bank) : (setCur s c b).mem = s.mem := rfl
@[simp] theorem setCur_regs (s : State) (c : Nat) (b : Bank) : (setCur s c b).regs = s.regs := rfl
@[simp] theorem wg_mem (s : State) (c : Nat) (r : R5) (v : Word) : (wg s c r v).mem = s.mem := rfl
@[simp] theorem wg_regs (s : State) (c : Nat) (r : R5) (v : Word) : (wg s c r v).regs = s.regs := rfl

theorem getLsbD_two_pow (p q : Nat) : (BitVec.ofNat 8 (2 ^ p)).getLsbD q = (decide (q < 8) && decide (p = q)) := by
  rw [BitVec.getLsbD_ofNat, Nat.testBit_two_pow]

/-- A predicate other than p0 reads as it was written. -/
theorem pred_setPred_same (b : Bank) (p : BitVec 3) (v : Bool) (h : p ≠ 0) : (b.setPred p.toNat v).pred p.toNat = v := by
  have hp : p.toNat ≠ 0 := fun e => h (BitVec.eq_of_toNat_eq e)
  have hl : p.toNat < 8 := p.isLt
  have h0 : (p.toNat == 0) = false := by simpa using hp
  unfold Bank.setPred Bank.pred
  rw [if_neg hp, h0]
  cases v
  · rw [if_neg (by decide), BitVec.getLsbD_and, BitVec.getLsbD_not, getLsbD_two_pow]
    simp [hl]
  · rw [if_pos rfl, BitVec.getLsbD_or, getLsbD_two_pow]
    simp [hl]

/-- Every other predicate stays. -/
theorem pred_setPred_ne (b : Bank) (p q : Nat) (v : Bool) (h : p ≠ q) (hq : q < 8) : (b.setPred p v).pred q = b.pred q := by
  unfold Bank.setPred Bank.pred
  by_cases hp : p = 0
  · rw [if_pos hp]
  · rw [if_neg hp]
    cases v
    · rw [if_neg (by decide), BitVec.getLsbD_and, BitVec.getLsbD_not, getLsbD_two_pow]
      simp [h, hq]
    · rw [if_pos rfl, BitVec.getLsbD_or, getLsbD_two_pow]
      simp [h]

/-- A write of a predicate leaves every general register. -/
@[simp] theorem rg_setPred (b : Bank) (p : Nat) (v : Bool) (r : Nat) : (b.setPred p v).rg r = b.rg r := by
  unfold Bank.setPred
  split <;> rfl

/-! ## Compares -/

theorem uintOf_eq (w : Nat) (v : Word) : uintOf w v = (v.setWidth w).toNat := by
  simp [uintOf, fld]

theorem sintOf_eq (w : Nat) (v : Word) : sintOf w v = (v.setWidth w).toInt := by
  rw [BitVec.toInt_eq_toNat_cond]
  simp [sintOf, sfld, fld]

/-- A compare condition on the low `w` bits is that of Table 7.6a on operands of `w` bits. -/
theorem condHolds_eq (w cond : Nat) (a b : Word) :
    condHolds w cond a b = Safety.compareSpec cond (a.setWidth w) (b.setWidth w) := by
  have e : ∀ x y : Word, (x &&& y).setWidth w = x.setWidth w &&& y.setWidth w := fun x y => BitVec.setWidth_and
  unfold condHolds Safety.compareSpec
  split <;> simp only [uintOf_eq, sintOf_eq, e]
  · exact Bool.eq_iff_iff.mpr (by simp [← BitVec.toNat_inj])
  · exact Bool.eq_iff_iff.mpr (by simp [← BitVec.toNat_inj])
  · rfl
  · rfl
  · rfl
  · rfl
  · exact Bool.eq_iff_iff.mpr (by simp [← BitVec.toNat_inj])
  · exact Bool.eq_iff_iff.mpr (by simp [← BitVec.toNat_inj])

end Sys2Proof.Machine
end

