-- ==== Sys2Proof/Laws/Frame.lean ====
section
/-! SUPPORT. What counting an event and retiring an instruction leave as they were. -/

namespace Sys2Proof.Machine

/-- What counting events of core `c` can change: its counters and their status, CACHE_LOCKLOST, and the local CNT_OVF latch. -/
def CountsOnly (c : Nat) (s t : State) : Prop :=
  t.mem = s.mem ∧ t.fills = s.fills ∧ (t.poison = s.poison ∧ t.dramGen = s.dramGen) ∧ (∀ d, d ≠ c → getCore t d = getCore s d) ∧
    (∃ x, getCore t c = { getCore s c with latchCnt := x }) ∧
    ∀ q : RegAddr, (∀ k, rkey q ≠ rkey (Reg.CNT_CNT c k)) → rkey q ≠ rkey (Reg.CNT_STATUS c) → rkey q ≠ rkey (Reg.CACHE_LOCKLOST c) → rd t q = rd s q

theorem CountsOnly.refl (c : Nat) (s : State) : CountsOnly c s s :=
  ⟨rfl, rfl, ⟨rfl, rfl⟩, fun _ _ => rfl, ⟨_, rfl⟩, fun _ _ _ _ => rfl⟩

theorem CountsOnly.trans {c : Nat} {s t u : State} (h : CountsOnly c s t) (g : CountsOnly c t u) : CountsOnly c s u := by
  obtain ⟨h1, h2, h3, h4, ⟨x, h5⟩, h6⟩ := h
  obtain ⟨g1, g2, g3, g4, ⟨y, g5⟩, g6⟩ := g
  refine ⟨g1.trans h1, g2.trans h2, ⟨g3.1.trans h3.1, g3.2.trans h3.2⟩, fun d hd => (g4 d hd).trans (h4 d hd), ⟨y, ?_⟩,
    fun q a b d => (g6 q a b d).trans (h6 q a b d)⟩
  rw [g5, h5]

theorem countsOnly_cntBump (s : State) (c k n : Nat) : CountsOnly c s (cntBump s c k n).1 := by
  unfold cntBump
  simp only
  split
  · refine ⟨rfl, rfl, ⟨rfl, rfl⟩, fun _ _ => rfl, ⟨_, rfl⟩, fun q a b _ => ?_⟩
    rw [rd_wb_ne _ _ _ _ _ b.symm, rd_wr_ne _ _ _ _ (a k).symm]
  · exact ⟨rfl, rfl, ⟨rfl, rfl⟩, fun _ _ => rfl, ⟨_, rfl⟩, fun q a _ _ => rd_wr_ne _ _ _ _ (a k).symm⟩

theorem countsOnly_cntOvf (s : State) (c k : Nat) : CountsOnly c s (cntOvf s c k) := by
  unfold cntOvf
  simp only
  split
  · exact ⟨rfl, rfl, ⟨rfl, rfl⟩, fun d hd => getCore_setCore_ne _ _ hd.symm, ⟨_, getCore_setCore_same _ _ _⟩, fun _ _ _ _ => rfl⟩
  · exact CountsOnly.refl c s

theorem countsOnly_cntAdd (s : State) (c k n : Nat) : CountsOnly c s (cntAdd s c k n) := by
  unfold cntAdd
  have h := countsOnly_cntBump s c k n
  generalize cntBump s c k n = x at h
  obtain ⟨t, w⟩ := x
  simp only
  split
  · exact h
  · split
    · exact h.trans (countsOnly_cntOvf t c k)
    · split
      · have g := countsOnly_cntBump t c (k + 1) 1
        generalize cntBump t c (k + 1) 1 = y at g
        obtain ⟨u, v⟩ := y
        simp only
        split
        · exact h.trans (g.trans (countsOnly_cntOvf u c (k + 1)))
        · exact h.trans g
      · exact h

/-- Events counted on a core change its counters and the CNT_OVF latch only. -/
theorem countsOnly_countEvt (s : State) (c code n : Nat) (x : CntCtx) : CountsOnly c s (countEvt s c code n x) := by
  unfold countEvt
  split
  · exact CountsOnly.refl c s
  · rename_i hl
    clear hl
    generalize upto 8 = l
    induction l generalizing s with
    | nil => exact CountsOnly.refl c s
    | cons k l ih =>
      refine CountsOnly.trans ?_ (ih _)
      simp only
      split
      · exact countsOnly_cntAdd s c k n
      · exact CountsOnly.refl c s

/-- CACHE_LOCKLOST counts beside the events (R145). -/
theorem countsOnly_countReg (s : State) (c : Nat) : CountsOnly c s (countReg s (Reg.CACHE_LOCKLOST c)) :=
  ⟨rfl, rfl, ⟨rfl, rfl⟩, fun _ _ => rfl, ⟨_, rfl⟩, fun _ _ _ d => rd_wr_ne _ _ _ _ d.symm⟩

/-! ## Banks -/

theorem winIdx_inj (w : Nat) {f g : Nat} (hf : 8 ≤ f ∧ f < 32) (hg : 8 ≤ g ∧ g < 32) (h : winIdx w f = winIdx w g) : f = g := by
  unfold winIdx at h
  split at h <;> split at h <;> omega

/-- Another general register stays. -/
theorem rg_wg_ne (b : Bank) (f g : Nat) (v : Word) (hf : f < 32) (hg : g < 32) (h : f ≠ g) : (b.wg f v).rg g = b.rg g := by
  unfold Bank.rg Bank.wg
  by_cases h1 : g = 0
  · simp [h1]
  · by_cases h2 : f = 0
    · simp [h2]
    · by_cases h3 : f < 8 <;> by_cases h4 : g < 8 <;> simp [h1, h2, h3, h4]
      · exact nth_listSet_ne _ _ _ h
      · refine nth_listSet_ne _ _ _ (fun e => h ?_)
        exact winIdx_inj _ ⟨by omega, hf⟩ ⟨by omega, hg⟩ e

/-- Parts of a bank that the loop-end test and the tick of pending exceptions leave. -/
def SameParts (b d : Bank) : Prop :=
  d.g = b.g ∧ d.win = b.win ∧ d.cwp = b.cwp ∧ d.preds = b.preds ∧ d.status = b.status ∧ d.sp = b.sp ∧ d.slim = b.slim ∧
    d.xag = b.xag ∧ d.yag = b.yag ∧ d.depth = b.depth ∧ d.wfb = b.wfb ∧ d.xsave = b.xsave ∧ (b.shadow = [] → d.shadow = [])

theorem SameParts.refl (b : Bank) : SameParts b b := ⟨rfl, rfl, rfl, rfl, rfl, rfl, rfl, rfl, rfl, rfl, rfl, rfl, id⟩

theorem SameParts.trans {a b d : Bank} (h : SameParts a b) (g : SameParts b d) : SameParts a d := by
  obtain ⟨h1, h2, h3, h4, h5, h6, h7, h8, h9, h10, h11, h12, h13⟩ := h
  obtain ⟨g1, g2, g3, g4, g5, g6, g7, g8, g9, g10, g11, g12, g13⟩ := g
  exact ⟨g1.trans h1, g2.trans h2, g3.trans h3, g4.trans h4, g5.trans h5, g6.trans h6, g7.trans h7, g8.trans h8, g9.trans h9,
    g10.trans h10, g11.trans h11, g12.trans h12, fun e => g13 (h13 e)⟩

theorem sameParts_loopStep (b : Bank) (pc : Word) (k : Nat) : SameParts b (b.loopStep pc k).1 := by
  unfold Bank.loopStep
  split
  · exact ⟨rfl, rfl, rfl, rfl, rfl, rfl, rfl, rfl, rfl, rfl, rfl, rfl, fun e => by simp [dropShadow, e]⟩
  · exact SameParts.refl b

theorem sameParts_loopTest (b : Bank) (pc : Word) : SameParts b (b.loopTest pc).1 := by
  unfold Bank.loopTest
  have h := sameParts_loopStep b pc 1
  generalize b.loopStep pc 1 = x at h
  obtain ⟨d, o⟩ := x
  cases o with
  | some t => exact h
  | none => exact h.trans (sameParts_loopStep d pc 0)

theorem bank_setBank_ne (k : CoreSt) {l m : Nat} (b : Bank) (h : l ≠ m) : (k.setBank l b).bank m = k.bank m :=
  nth_listSet_ne _ _ _ h

theorem listSet_ge {α : Type} (l : List α) (n : Nat) (v : α) (h : l.length ≤ n) : listSet l n v = l := by
  induction l generalizing n with
  | nil => rfl
  | cons a t ih =>
    cases n with
    | zero => simp at h
    | succ n => simp only [listSet]; rw [ih n (by simpa using h)]

/-- A bank written is what was written, or there is no such bank and nothing changes. -/
theorem bank_setBank (k : CoreSt) (l : Nat) (b : Bank) : (k.setBank l b).bank l = b ∨ (k.setBank l b).bank l = k.bank l := by
  by_cases h : l < k.banks.length
  · exact .inl (nth_listSet_same _ _ _ _ h)
  · refine .inr ?_
    unfold CoreSt.bank CoreSt.setBank
    simp only
    rw [listSet_ge _ _ _ (by omega)]

/-- What mode writes that come due leave of a core. -/
def CoreParts (l : Nat) (k u : CoreSt) : Prop :=
  u.cur = k.cur ∧ (∀ m, m ≠ l → u.bank m = k.bank m) ∧ (u.bank l).g = (k.bank l).g ∧ (u.bank l).win = (k.bank l).win ∧
    (u.bank l).cwp = (k.bank l).cwp ∧ u.ac = k.ac ∧ u.f = k.f ∧ u.pr = k.pr ∧ u.resv = k.resv

theorem CoreParts.refl (l : Nat) (k : CoreSt) : CoreParts l k k := ⟨rfl, fun _ _ => rfl, rfl, rfl, rfl, rfl, rfl, rfl, rfl⟩

theorem CoreParts.trans {l : Nat} {k u v : CoreSt} (h : CoreParts l k u) (g : CoreParts l u v) : CoreParts l k v := by
  obtain ⟨h1, h2, h3, h4, h5, h6, h7, h8, h9⟩ := h
  obtain ⟨g1, g2, g3, g4, g5, g6, g7, g8, g9⟩ := g
  exact ⟨g1.trans h1, fun m e => (g2 m e).trans (h2 m e), g3.trans h3, g4.trans h4, g5.trans h5, g6.trans h6, g7.trans h7,
    g8.trans h8, g9.trans h9⟩

theorem coreParts_setBank (k : CoreSt) (l : Nat) (b : Bank) (h1 : b.g = (k.bank l).g) (h2 : b.win = (k.bank l).win)
    (h3 : b.cwp = (k.bank l).cwp) : CoreParts l k (k.setBank l b) := by
  refine ⟨rfl, fun m e => bank_setBank_ne k b e.symm, ?_, ?_, ?_, rfl, rfl, rfl, rfl⟩ <;>
    rcases bank_setBank k l b with e | e <;> rw [e] <;> assumption

theorem coreParts_ite {l : Nat} {k u v : CoreSt} {p : Prop} [Decidable p] (h : CoreParts l k u) (g : CoreParts l k v) :
    CoreParts l k (if p then u else v) := by
  split
  · exact h
  · exact g

theorem coreParts_srPut (k : CoreSt) (l n : Nat) (v : Word) : CoreParts l k (srPut k l n v) := by
  unfold srPut
  repeat' refine coreParts_ite ?_ ?_
  all_goals first
    | exact coreParts_setBank _ _ _ rfl rfl rfl
    | exact ⟨rfl, fun _ _ => rfl, rfl, rfl, rfl, rfl, rfl, rfl, rfl⟩

theorem coreParts_due (l : Nat) (due : List (Nat × Nat × Word)) (k : CoreSt) :
    CoreParts l k (due.foldl (fun (x : CoreSt) e => srPut x l e.2.1 e.2.2) k) := by
  induction due generalizing k with
  | nil => exact CoreParts.refl l k
  | cons e t ih => exact (coreParts_srPut k l e.2.1 e.2.2).trans (ih _)

theorem coreParts_tickShadow (k : CoreSt) (l : Nat) : CoreParts l k (tickShadow k l) := by
  have h := coreParts_setBank k l
    { k.bank l with shadow := ((k.bank l).shadow.filter fun e => 1 < e.1).map fun e => (e.1 - 1, e.2) } rfl rfl rfl
  exact h.trans (coreParts_due l _ _)

/-- Without a write in shadow the tick changes nothing. -/
theorem tickShadow_none (k : CoreSt) (l : Nat) (h : (k.bank l).shadow = []) : tickShadow k l = k.setBank l (k.bank l) := by
  have e : { k.bank l with shadow := [] } = k.bank l := by rw [← h]
  unfold tickShadow
  simp only [h, List.filter_nil, List.map_nil, List.foldl_nil, e]

/-! ## Retirement -/

/-- What retiring an instruction leaves of a core: what `CoreParts` says, and more where no mode write is in shadow. -/
def CoreOnly (l : Nat) (k u : CoreSt) : Prop :=
  CoreParts l k u ∧ ((k.bank l).shadow = [] → u.fpcsr = k.fpcsr ∧ SameParts (k.bank l) (u.bank l))

theorem CoreOnly.trans {l : Nat} {k u v : CoreSt} (h : CoreOnly l k u) (g : CoreOnly l u v) : CoreOnly l k v := by
  refine ⟨h.1.trans g.1, fun e => ?_⟩
  obtain ⟨a, b⟩ := h.2 e
  obtain ⟨a', b'⟩ := g.2 (b.2.2.2.2.2.2.2.2.2.2.2.2 e)
  exact ⟨a'.trans a, b.trans b'⟩

theorem CoreOnly.refl (l : Nat) (k : CoreSt) : CoreOnly l k k := ⟨CoreParts.refl l k, fun _ => ⟨rfl, SameParts.refl _⟩⟩

/-- A change beside the banks and the listed registers. -/
theorem coreOnly_of (l : Nat) (k u : CoreSt) (h1 : u.banks = k.banks) (h2 : u.cur = k.cur) (h3 : u.ac = k.ac) (h4 : u.f = k.f)
    (h5 : u.pr = k.pr) (h6 : u.resv = k.resv) (h7 : u.fpcsr = k.fpcsr) : CoreOnly l k u := by
  have e : ∀ m, u.bank m = k.bank m := fun m => by unfold CoreSt.bank; rw [h1]
  refine ⟨⟨h2, fun m _ => e m, by rw [e], by rw [e], by rw [e], h3, h4, h5, h6⟩, fun _ => ⟨h7, ?_⟩⟩
  rw [e]
  exact SameParts.refl _

theorem coreOnly_setBank (k : CoreSt) (l : Nat) (b : Bank) (h : SameParts (k.bank l) b) : CoreOnly l k (k.setBank l b) := by
  refine ⟨coreParts_setBank k l b h.1 h.2.1 h.2.2.1, fun _ => ⟨rfl, ?_⟩⟩
  rcases bank_setBank k l b with e | e <;> rw [e]
  · exact h
  · exact SameParts.refl _

theorem coreOnly_tickShadow (k : CoreSt) (l : Nat) : CoreOnly l k (tickShadow k l) := by
  refine ⟨coreParts_tickShadow k l, fun e => ?_⟩
  rw [tickShadow_none k l e]
  exact ⟨rfl, (coreOnly_setBank k l _ (SameParts.refl _)).2 e |>.2⟩

/-- What a part of retiring an instruction on a core whose current bank is `l` leaves as it was. -/
def Passes (c l : Nat) (s t : State) : Prop :=
  t.mem = s.mem ∧ t.fills = s.fills ∧ (t.poison = s.poison ∧ t.dramGen = s.dramGen) ∧ (∀ d, d ≠ c → getCore t d = getCore s d) ∧
    (∀ q : RegAddr, (∀ k, rkey q ≠ rkey (Reg.CNT_CNT c k)) → rkey q ≠ rkey (Reg.CNT_STATUS c) → rkey q ≠ rkey (Reg.CACHE_LOCKLOST c) → rd t q = rd s q) ∧
    CoreOnly l (getCore s c) (getCore t c)

theorem Passes.trans {c l : Nat} {s t u : State} (h : Passes c l s t) (g : Passes c l t u) : Passes c l s u := by
  obtain ⟨h1, h2, h3, h4, h5, h6⟩ := h
  obtain ⟨g1, g2, g3, g4, g5, g6⟩ := g
  exact ⟨g1.trans h1, g2.trans h2, ⟨g3.1.trans h3.1, g3.2.trans h3.2⟩, fun d e => (g4 d e).trans (h4 d e),
    fun q a b d => (g5 q a b d).trans (h5 q a b d), h6.trans g6⟩

/-- Counting passes. -/
theorem CountsOnly.passes {c : Nat} {s t : State} (l : Nat) (h : CountsOnly c s t) : Passes c l s t := by
  obtain ⟨h1, h2, h3, h4, ⟨x, h5⟩, h6⟩ := h
  refine ⟨h1, h2, h3, h4, h6, ?_⟩
  rw [h5]
  exact coreOnly_of _ _ _ rfl rfl rfl rfl rfl rfl rfl

/-- A core replaced by one with the same parts passes. -/
theorem passes_setCore (s : State) (c l : Nat) (u : CoreSt) (h : CoreOnly l (getCore s c) u) : Passes c l s (setCore s c u) := by
  refine ⟨rfl, rfl, ⟨rfl, rfl⟩, fun d e => getCore_setCore_ne _ _ e.symm, fun _ _ _ _ => rfl, ?_⟩
  rw [getCore_setCore_same]
  exact h

theorem countsOnly_countFetches (s : State) (c : Nat) (l : List (Word × Nat)) : CountsOnly c s (countFetches s c l) := by
  unfold countFetches
  induction l generalizing s with
  | nil => exact CountsOnly.refl c s
  | cons e l ih =>
    refine CountsOnly.trans ?_ (ih _)
    simp only
    split
    · exact CountsOnly.refl c s
    · split
      · exact countsOnly_countReg s c
      · exact countsOnly_countEvt _ _ _ _ _

/-- Counting keeps the list of a core's own stores. -/
theorem CountsOnly.ownSt {c : Nat} {s t : State} (h : CountsOnly c s t) : (getCore t c).ownSt = (getCore s c).ownSt := by
  obtain ⟨_, _, _, _, ⟨x, h5⟩, _⟩ := h
  rw [h5]

/-- What an instruction's fetch counted keeps the list of the core's own stores. -/
theorem ownSt_issueFetch (s : State) (c : Nat) (pc : Word) (w : Nat) : (getCore (issueFetch s c pc w) c).ownSt = (getCore s c).ownSt :=
  (countsOnly_countFetches _ _ _).ownSt.trans (by rw [getCore_setCore_same])

/-- Killing what was fetched keeps the list of the core's own stores. -/
theorem ownSt_killFetch (s : State) (c : Nat) : (getCore (killFetch s c) c).ownSt = (getCore s c).ownSt :=
  (countsOnly_countFetches _ _ _).ownSt.trans (by rw [getCore_setCore_same]; rfl)

/-- Events of an instruction's fetch pass. -/
theorem passes_issueFetch (s : State) (c l : Nat) (pc : Word) (w : Nat) : Passes c l s (issueFetch s c pc w) :=
  Passes.trans (passes_setCore s c l { getCore s c with fetchEv := (getCore s c).fetchEv.filter fun e =>
      !(e.1 == pc || (w == 2 && e.1 == pc + 4)) } (coreOnly_of l _ _ rfl rfl rfl rfl rfl rfl rfl))
    ((countsOnly_countFetches _ _ _).passes l)

/-- Killing what was fetched passes: only prediction state and the fetch's own registers change. -/
theorem passes_killFetch (s : State) (c l : Nat) (h : (getCore s c).cur = l) : Passes c l s (killFetch s c) := by
  subst h
  refine (passes_setCore s c _ _ ?_).trans ((countsOnly_countFetches _ _ _).passes _)
  exact (coreOnly_setBank _ _ (Bank.settle _) ⟨rfl, rfl, rfl, rfl, rfl, rfl, rfl, rfl, rfl, rfl, rfl, rfl, id⟩).trans
    (coreOnly_of _ _ _ rfl rfl rfl rfl rfl rfl rfl)

/-- The fetch queue moving on passes. -/
theorem passes_fetchAdvance (s : State) (c l : Nat) (pc np : Word) (w : Nat) (h : (getCore s c).cur = l) :
    Passes c l s (fetchAdvance s c pc np w) := by
  unfold fetchAdvance
  simp only
  split
  · exact passes_setCore s c l _ (coreOnly_of l _ _ rfl rfl rfl rfl rfl rfl rfl)
  · exact (passes_killFetch s c l h).trans (passes_setCore _ c l _ (coreOnly_of l _ _ rfl rfl rfl rfl rfl rfl rfl))

/-- A step's end passes. -/
theorem passes_stepDone (s : State) (c l m : Nat) : Passes c l s (stepDone s c m) := by
  unfold stepDone
  split
  · refine Passes.trans (t := raiseDbg s c 5 0 0) ?_ (passes_setCore _ c l _ (coreOnly_of l _ _ rfl rfl rfl rfl rfl rfl rfl))
    exact passes_setCore s c l _ (coreOnly_of l _ _ rfl rfl rfl rfl rfl rfl rfl)
  · exact (CountsOnly.refl c s).passes l

/-- A core replaced by one of which the listed parts are as they were. -/
theorem onlyComputes_of (s t : State) (c : Nat) (h1 : t.mem = s.mem) (h2 : t.fills = s.fills) (h3 : t.poison = s.poison ∧ t.dramGen = s.dramGen)
    (h4 : ∀ d, d ≠ c → getCore t d = getCore s d)
    (h5 : ∀ q : RegAddr, (∀ k, rkey q ≠ rkey (Reg.CNT_CNT c k)) → rkey q ≠ rkey (Reg.CNT_STATUS c) → rkey q ≠ rkey (Reg.CACHE_LOCKLOST c) → rd t q = rd s q)
    (h6 : CoreOnly (getCore s c).cur (getCore s c) (getCore t c)) : Safety.OnlyComputes s t c none := by
  obtain ⟨⟨a1, a2, a3, a4, a5, a6, a7, a8, a9⟩, a10⟩ := h6
  refine ⟨h1, h2, h3, h4, h5, a1, a2, fun r _ => ?_, a6, a7, a8, a9, fun e => ?_⟩
  · simp only [rg, curBank, a1, Bank.rg, a3, a4, a5]
  · obtain ⟨f, _, _, p3, p4, p5, p6, p7, p8, p9, p10, p11, p12, _⟩ := a10 e
    simp only [curBank, a1]
    exact ⟨f, p4, p5, p6, p7, p8, p9, p10, p11, p3, p12⟩

/-- Retiring an instruction changes the counters of its core, and of the core the PC, the loop counts, the fetch queue, the pending imprecise
exceptions, the debug events, and what mode writes that come due write. -/
theorem onlyComputes_retire (s : State) (c w : Nat) (next : Option Word) : Safety.OnlyComputes s (retire s c w next) c none := by
  have h : Passes c (getCore s c).cur s (retire s c w next) := by
    unfold retire
    simp only
    generalize hp : ((getCore s c).bank (getCore s c).cur).pc = pc
    have h1 := ((countsOnly_countEvt s c 0x02 1 { curCtx s c with addr := some pc.toNat }).passes (getCore s c).cur).trans
      (passes_issueFetch _ c _ pc w)
    generalize issueFetch (countEvt s c 0x02 1 { curCtx s c with addr := some pc.toNat }) c pc w = s1 at h1
    generalize hl : (getCore s c).cur = l at h1
    have hb := sameParts_loopTest ((getCore s1 c).bank l) pc
    generalize ((getCore s1 c).bank l).loopTest pc = x at hb
    obtain ⟨b, back⟩ := x
    simp only at hb ⊢
    have hc : (getCore s1 c).cur = l := h1.2.2.2.2.2.1.1.trans hl
    have h2 := fun np : Word => h1.trans (passes_setCore s1 c l ((getCore s1 c).setBank l
      { b with pc := np, imprecise := impreciseTick b.imprecise }) (coreOnly_setBank _ _ _ hb))
    have h3 := fun np : Word => (h2 np).trans (passes_fetchAdvance _ c l pc np w (by rw [getCore_setCore_same]; exact hc))
    have h4 := fun (np : Word) (j : CoreSt → Option Word) => (h3 np).trans (passes_setCore _ c l
      (let k := getCore (fetchAdvance (setCore s1 c ((getCore s1 c).setBank l
          { b with pc := np, imprecise := impreciseTick b.imprecise })) c pc np w) c
       { tickShadow k l with ibpSkip := j k, pair := k.pairNew, pairNew := [] })
      ((coreOnly_tickShadow _ l).trans (coreOnly_of l _ _ rfl rfl rfl rfl rfl rfl rfl)))
    exact (h4 _ fun k => if k.ibpSkip = some pc then none else k.ibpSkip).trans (passes_stepDone _ c l l)
  obtain ⟨h1, h2, h3, h4, h5, h6⟩ := h
  exact onlyComputes_of s _ c h1 h2 h3 h4 h5 h6

/-- The same after a general register was written. -/
theorem onlyComputes_retire_wg (s : State) (c w : Nat) (dst : R5) (v : Word) (next : Option Word) :
    Safety.OnlyComputes s (retire (wg s c dst v) c w next) c (some dst) := by
  obtain ⟨h1, h2, h3, h4, h5, h6, h7, h8, h9, h10, h11, h12, h13⟩ := onlyComputes_retire (wg s c dst v) c w next
  have hc : (getCore (wg s c dst v) c).cur = (getCore s c).cur := by simp [wg, setCur, CoreSt.setBank]
  have hb : curBank (wg s c dst v) c = (curBank s c).wg dst.toNat v ∨ curBank (wg s c dst v) c = curBank s c := by
    unfold curBank
    rw [hc]
    simp only [wg, setCur, getCore_setCore_same]
    exact bank_setBank _ _ _
  refine ⟨h1, h2, h3, fun d hd => (h4 d hd).trans (getCore_setCur_ne _ _ _ _ hd.symm), h5, h6.trans hc, fun m hm => ?_,
    fun r hr => ?_, ?_, ?_, ?_, ?_, fun e => ?_⟩
  · rw [h7 m (by rw [hc]; exact hm)]
    simp only [wg, setCur, getCore_setCore_same]
    exact bank_setBank_ne _ _ hm.symm
  · rw [h8 r (by simp)]
    simp only [rg]
    rcases hb with e | e <;> rw [e]
    exact rg_wg_ne _ _ _ _ dst.isLt r.isLt (fun e => hr (by rw [BitVec.eq_of_toNat_eq e]))
  · rw [h9]; simp [wg, setCur, CoreSt.setBank]
  · rw [h10]; simp [wg, setCur, CoreSt.setBank]
  · rw [h11]; simp [wg, setCur, CoreSt.setBank]
  · rw [h12]; simp [wg, setCur, CoreSt.setBank]
  · have key : ∀ b : Bank, (b.wg dst.toNat v).shadow = b.shadow ∧ (b.wg dst.toNat v).preds = b.preds ∧
        (b.wg dst.toNat v).status = b.status ∧ (b.wg dst.toNat v).sp = b.sp ∧ (b.wg dst.toNat v).slim = b.slim ∧
        (b.wg dst.toNat v).xag = b.xag ∧ (b.wg dst.toNat v).yag = b.yag ∧ (b.wg dst.toNat v).depth = b.depth ∧
        (b.wg dst.toNat v).wfb = b.wfb ∧ (b.wg dst.toNat v).cwp = b.cwp ∧ (b.wg dst.toNat v).xsave = b.xsave := by
      intro b
      unfold Bank.wg
      split
      · exact ⟨rfl, rfl, rfl, rfl, rfl, rfl, rfl, rfl, rfl, rfl, rfl⟩
      · split <;> exact ⟨rfl, rfl, rfl, rfl, rfl, rfl, rfl, rfl, rfl, rfl, rfl⟩
    have q : (curBank (wg s c dst v) c).shadow = [] := by
      rcases hb with e' | e' <;> rw [e']
      · rw [(key _).1]; exact e
      · exact e
    obtain ⟨g1, g2, g3, g4, g5, g6, g7, g8, g9, g10, g11⟩ := h13 q
    obtain ⟨k1, k2, k3, k4, k5, k6, k7, k8, k9, k10, k11⟩ := key (curBank s c)
    have f : (getCore (wg s c dst v) c).fpcsr = (getCore s c).fpcsr := by simp [wg, setCur, CoreSt.setBank]
    rcases hb with e' | e' <;> rw [e'] at g2 g3 g4 g5 g6 g7 g8 g9 g10 g11
    · exact ⟨g1.trans f, g2.trans k2, g3.trans k3, g4.trans k4, g5.trans k5, g6.trans k6, g7.trans k7, g8.trans k8, g9.trans k9,
        g10.trans k10, g11.trans k11⟩
    · exact ⟨g1.trans f, g2, g3, g4, g5, g6, g7, g8, g9, g10, g11⟩

end Sys2Proof.Machine
end

