-- ==== Sys2Proof/Laws/Memory.lean ====
section
/-! SUPPORT. Memory stays in its canonical form under every operation on it, and reads see what was written. -/

namespace Sys2Proof.Machine

/-- The canonical form, spelt out. -/
theorem Memory.wf_iff (fs : List Fill) (m : List Host.Cell) :
    Memory.wf fs m = true ↔ Tbl.sorted m = true ∧ ∀ c ∈ m, unlisted fs c.1 ≠ some c.2 := by
  simp [Memory.wf, List.all_eq_true]

@[simp] theorem Memory.wf_nil (fs : List Fill) : Memory.wf fs [] = true := rfl

theorem Memory.wf_filter (fs : List Fill) (m : List Host.Cell) (p : Host.Cell → Bool) (h : Memory.wf fs m = true) :
    Memory.wf fs (m.filter p) = true := by
  rw [Memory.wf_iff] at *
  exact ⟨Tbl.sorted_filter m p h.1, fun c hc => h.2 c (List.mem_of_mem_filter hc)⟩

theorem Memory.wf_memSet (fs : List Fill) (m : List Host.Cell) (a : Nat) (b : Byte) (h : Memory.wf fs m = true) :
    Memory.wf fs (memSet fs m a b) = true := by
  unfold memSet
  split
  · exact Memory.wf_filter fs m _ h
  · rename_i hb
    rw [Memory.wf_iff] at *
    refine ⟨Tbl.sorted_set m a b h.1, ?_⟩
    intro c hc
    rcases Tbl.mem_set m a b c hc with rfl | hc
    · exact hb
    · exact h.2 c hc

theorem Memory.wf_memSetBytes (fs : List Fill) (m : List Host.Cell) (a : Nat) (l : List Byte) (h : Memory.wf fs m = true) :
    Memory.wf fs (memSetBytes fs m a l) = true := by
  induction l generalizing m a with
  | nil => exact h
  | cons b l ih => exact ih _ _ (Memory.wf_memSet fs m a b h)

/-- Memory keeps its form where another set of fills gives every listed address the same unlisted value. -/
theorem Memory.wf_fills (fs gs : List Fill) (m : List Host.Cell) (h : Memory.wf fs m = true)
    (hg : ∀ c ∈ m, unlisted gs c.1 = unlisted fs c.1) : Memory.wf gs m = true := by
  rw [Memory.wf_iff] at *
  refine ⟨h.1, fun c hc => ?_⟩
  rw [hg c hc]
  exact h.2 c hc

/-! ## Reading one byte -/

theorem Tbl.get?_filter_ne (m : List Host.Cell) (a x : Nat) (h : a ≠ x) :
    Tbl.get? (m.filter fun c => c.1 ≠ a) x = Tbl.get? m x := by
  induction m with
  | nil => rfl
  | cons e t ih =>
    obtain ⟨k, v⟩ := e
    by_cases hk : k = a
    · subst hk
      simp only [ne_eq, decide_not] at ih
      simp [Tbl.get?, h, ih]
    · simp only [ne_eq, decide_not] at ih
      simp [Tbl.get?, hk, ih]

theorem Tbl.get?_filter_same (m : List Host.Cell) (a : Nat) : Tbl.get? (m.filter fun c => c.1 ≠ a) a = none := by
  induction m with
  | nil => rfl
  | cons e t ih =>
    obtain ⟨k, v⟩ := e
    by_cases hk : k = a
    · subst hk
      simp only [ne_eq, decide_not] at ih
      simp [ih]
    · simp only [ne_eq, decide_not] at ih
      simp [Tbl.get?, hk, ih]

/-- A byte written is read back. -/
theorem memGet_memSet_same (fs : List Fill) (m : List Host.Cell) (a : Nat) (b : Byte) :
    memGet fs (memSet fs m a b) a = some b := by
  by_cases h : unlisted fs a = some b
  · simp only [memSet, if_pos h, memGet]
    rw [Tbl.get?_filter_same]
    exact h
  · simp only [memSet, if_neg h, memGet]
    rw [Tbl.get?_set_same]

/-- Every other byte stays. -/
theorem memGet_memSet_ne (fs : List Fill) (m : List Host.Cell) {a x : Nat} (b : Byte) (h : a ≠ x) :
    memGet fs (memSet fs m a b) x = memGet fs m x := by
  by_cases hb : unlisted fs a = some b
  · simp only [memSet, if_pos hb, memGet]
    rw [Tbl.get?_filter_ne m a x h]
  · simp only [memSet, if_neg hb, memGet]
    rw [Tbl.get?_set_ne m b h]

/-- Bytes outside a written range stay. -/
theorem memGet_memSetBytes_out (fs : List Fill) (m : List Host.Cell) (a : Nat) (l : List Byte) (x : Nat)
    (h : x < a ∨ a + l.length ≤ x) : memGet fs (memSetBytes fs m a l) x = memGet fs m x := by
  induction l generalizing m a with
  | nil => rfl
  | cons b l ih =>
    simp only [List.length_cons] at h
    simp only [memSetBytes]
    rw [ih _ _ (by omega), memGet_memSet_ne fs m b (by omega)]

/-! ## Operations of the state -/

theorem memOk_wrBytes (s : State) (a : Nat) (l : List Byte) (h : Safety.MemOk s) : Safety.MemOk (wrBytes s a l) :=
  Memory.wf_memSetBytes s.fills s.mem a l h

theorem memOk_wrMem (s : State) (a n x : Nat) (h : Safety.MemOk s) : Safety.MemOk (wrMem s a n x) := memOk_wrBytes s a _ h

/-- A write changes no byte outside the bytes written. -/
theorem rdByte_wrBytes_out (s : State) (a : Nat) (l : List Byte) (x : Nat) (h : x < a ∨ a + l.length ≤ x) :
    rdByte (wrBytes s a l) x = rdByte s x := by
  simp only [rdByte, wrBytes]
  rw [memGet_memSetBytes_out _ _ _ _ _ h]

end Sys2Proof.Machine
end

