-- ==== Sys2Proof/Laws/Cache.lean ====
section
/-! SUPPORT. The caches hold no bytes of their own: what an access does to them leaves memory as it was. -/

namespace Sys2Proof.Machine

/-- What memory holds, and what bytes that nothing has written are drawn from, is the same. -/
def KeepsMem (s t : State) : Prop := t.mem = s.mem ∧ t.fills = s.fills ∧ t.dramGen = s.dramGen

theorem KeepsMem.refl (s : State) : KeepsMem s s := ⟨rfl, rfl, rfl⟩

theorem KeepsMem.trans {s t u : State} (h : KeepsMem s t) (g : KeepsMem t u) : KeepsMem s u :=
  ⟨g.1.trans h.1, g.2.1.trans h.2.1, g.2.2.trans h.2.2⟩

theorem KeepsMem.foldl {α : Type} (f : State → α → State) (h : ∀ t x, KeepsMem t (f t x)) (l : List α) (s : State) :
    KeepsMem s (l.foldl f s) := by
  induction l generalizing s with
  | nil => exact KeepsMem.refl s
  | cons x l ih => exact (h s x).trans (ih _)

theorem keepsMem_setPoison (s : State) (line : Nat) : KeepsMem s (setPoison s line) := by
  unfold setPoison
  split
  · exact KeepsMem.refl s
  · exact ⟨rfl, rfl, rfl⟩

theorem keepsMem_logErr (s : State) (e : ErrRec) : KeepsMem s (logErr s e) := by
  unfold logErr
  split <;> exact ⟨rfl, rfl, rfl⟩

theorem keepsMem_raiseCond (s : State) (b : Block) (n page k : Nat) : KeepsMem s (raiseCond s b n page k) :=
  ⟨raiseCond_mem s b n page k, raiseCond_fills s b n page k, raiseCond_dramGen s b n page k⟩

theorem keepsMem_countEvt (s : State) (c code n : Nat) (x : CntCtx) : KeepsMem s (countEvt s c code n x) := by
  obtain ⟨h1, h2, h3, _⟩ := countsOnly_countEvt s c code n x
  exact ⟨h1, h2, h3.2⟩

theorem keepsMem_countCur (s : State) (c code : Nat) : KeepsMem s (countCur s c code) := keepsMem_countEvt s c code 1 _

theorem keepsMem_coh (s : State) (x : Coh) : KeepsMem s { s with coh := x } := ⟨rfl, rfl, rfl⟩

theorem keepsMem_setSl (s : State) (h : Nat) (x : Slice) : KeepsMem s (setSl s h x) := ⟨rfl, rfl, rfl⟩

theorem keepsMem_setLn (s : State) (a line : Nat) (x : AgLine) : KeepsMem s (setLn s a line x) := ⟨rfl, rfl, rfl⟩

theorem keepsMem_takeLine (s : State) (a line : Nat) (st : LineSt) : KeepsMem s (takeLine s a line st) := ⟨rfl, rfl, rfl⟩

theorem keepsMem_wr (s : State) (r : RegAddr) (v : Word) : KeepsMem s (wr s r v) := ⟨rfl, rfl, rfl⟩

theorem keepsMem_countReg (s : State) (r : RegAddr) : KeepsMem s (countReg s r) := ⟨rfl, rfl, rfl⟩

theorem keepsMem_leaveAgent (s : State) (a line : Nat) : KeepsMem s (leaveAgent s a line) := ⟨rfl, rfl, rfl⟩

theorem keepsMem_takeFree (s : State) : KeepsMem s (takeFree s).2 := ⟨rfl, rfl, rfl⟩

/-! ## Home flows -/

theorem keepsMem_poisonHome (s : State) (h line lost : Nat) : KeepsMem s (poisonHome s h line lost) := by
  unfold poisonHome
  exact (keepsMem_setPoison s line).trans ((keepsMem_setSl _ _ _).trans ((keepsMem_countReg _ _).trans
    ((keepsMem_wr _ _ _).trans ((keepsMem_logErr _ _).trans (keepsMem_raiseCond _ _ _ _ _)))))

theorem keepsMem_scrubEntry (s : State) (h line : Nat) : KeepsMem s (scrubEntry s h line) := by
  unfold scrubEntry
  split
  · exact KeepsMem.refl s
  · simp only
    split
    · split
      · exact keepsMem_poisonHome _ _ _ _
      · exact keepsMem_setSl _ _ _
    · exact keepsMem_setSl _ _ _

theorem keepsMem_snoopNow (s : State) (code line a : Nat) : KeepsMem s (snoopNow s code line a) := by
  simp only [snoopNow]
  split
  · exact (keepsMem_setLn _ _ _ _).trans (keepsMem_leaveAgent _ _ _)
  · exact keepsMem_setLn _ _ _ _

theorem keepsMem_backInvNow (s : State) (h v : Nat) : KeepsMem s (backInvNow s h v) := by
  simp only [backInvNow]
  split
  · exact KeepsMem.refl s
  · exact (KeepsMem.foldl _ (fun u a => keepsMem_snoopNow u _ v a) _ s).trans
      ((keepsMem_setSl _ _ _).trans (keepsMem_countReg _ _))

theorem keepsMem_lookupNow (s : State) (h line : Nat) : KeepsMem s (lookupNow s h line) := by
  simp only [lookupNow]
  split
  · exact ((keepsMem_countReg _ _).trans (keepsMem_logErr _ _)).trans
      ((KeepsMem.foldl _ (fun u a => keepsMem_snoopNow u 0x13 line a) _ _).trans (keepsMem_setSl _ _ _))
  · exact keepsMem_scrubEntry s h line

theorem keepsMem_roomFor (s t : State) (h line : Nat) (e : roomFor s h line = some t) : KeepsMem s t := by
  simp only [roomFor] at e
  split at e
  · injection e with e
    exact e ▸ KeepsMem.refl s
  · split at e
    · split at e
      · injection e with e
        exact e ▸ (keepsMem_scrubEntry s h _).trans (keepsMem_backInvNow _ h _)
      · cases e
    · cases e

theorem keepsMem_grantShared (s : State) (a line : Nat) : KeepsMem s (grantShared s a line) := by
  simp only [grantShared]
  split
  · exact KeepsMem.refl s
  · rename_i t e
    refine (keepsMem_lookupNow s _ line).trans ((keepsMem_roomFor _ _ _ _ e).trans ?_)
    split
    · exact (keepsMem_setSl _ _ _).trans (keepsMem_takeLine _ _ _ _)
    · refine KeepsMem.trans ?_ ((keepsMem_setSl _ _ _).trans (keepsMem_takeLine _ _ _ _))
      split
      · split
        · exact KeepsMem.refl t
        · exact keepsMem_snoopNow t 0x10 line _
      · exact KeepsMem.refl t

theorem keepsMem_grantUnique (s : State) (a line : Nat) : KeepsMem s (grantUnique s a line) := by
  simp only [grantUnique]
  split
  · exact KeepsMem.refl s
  · rename_i t e
    exact (keepsMem_lookupNow s _ line).trans ((keepsMem_roomFor _ _ _ _ e).trans
      ((KeepsMem.foldl _ (fun u b => keepsMem_snoopNow u 0x11 line b) _ t).trans
        ((keepsMem_setSl _ _ _).trans (keepsMem_takeLine _ _ _ _))))

theorem keepsMem_shareLine (s : State) (a line : Nat) : KeepsMem s (shareLine s a line) := by
  unfold shareLine
  split
  · exact KeepsMem.refl s
  · exact keepsMem_grantShared s a line

theorem keepsMem_ownLine (s : State) (a line : Nat) : KeepsMem s (ownLine s a line) := by
  unfold ownLine
  split
  · exact KeepsMem.refl s
  · exact ⟨rfl, rfl, rfl⟩
  · split
    · exact KeepsMem.refl s
    · exact keepsMem_grantUnique s a line

theorem keepsMem_giveUp (s : State) (a line : Nat) : KeepsMem s (giveUp s a line) := by
  simp only [giveUp]
  split <;> exact ⟨rfl, rfl, rfl⟩

/-! ## A core's caches -/

theorem keepsMem_lastCopy (s : State) (a line : Nat) : KeepsMem s (lastCopy s a line) := by
  unfold lastCopy
  split
  · exact KeepsMem.refl s
  · exact keepsMem_giveUp s a line

theorem keepsMem_evictL3 (s : State) (a key : Nat) : KeepsMem s (evictL3 s a key) := by
  unfold evictL3
  split
  · exact KeepsMem.refl s
  · exact KeepsMem.trans (t := { s with coh := { s.coh with l3 := s.coh.l3.drop (· == key) } }) ⟨rfl, rfl, rfl⟩ (keepsMem_lastCopy _ _ _)

theorem keepsMem_fillL3 (s : State) (a line : Nat) (ways : List Nat) : KeepsMem s (fillL3 s a line ways) := by
  simp only [fillL3]
  split
  · exact KeepsMem.refl s
  · split
    · exact ⟨rfl, rfl, rfl⟩
    · exact KeepsMem.trans (t := (takeFree s).2) ⟨rfl, rfl, rfl⟩ ((keepsMem_evictL3 _ a _).trans ⟨rfl, rfl, rfl⟩)

theorem keepsMem_evictL2 (s : State) (c key : Nat) : KeepsMem s (evictL2 s c key) := by
  unfold evictL2
  split
  · exact KeepsMem.refl s
  · rename_i line rt _
    refine KeepsMem.trans (t := dropShared (invCores s (fun d => d / 8 == c / 8) line) (· == c / 8) (fun _ => false) line) ⟨rfl, rfl, rfl⟩ ?_
    simp only
    generalize (if (rt || agentOfCore c == 12) = true then ([] : List Nat) else _) = ways
    split
    · exact keepsMem_lastCopy _ _ _
    · exact keepsMem_fillL3 _ _ _ _

theorem keepsMem_fillL2 (s : State) (c line : Nat) (rt : Bool) : KeepsMem s (fillL2 s c line rt) := by
  simp only [fillL2]
  split
  · exact KeepsMem.refl s
  · split
    · exact ⟨rfl, rfl, rfl⟩
    · exact KeepsMem.trans (t := (takeFree s).2) ⟨rfl, rfl, rfl⟩ ((keepsMem_evictL2 _ c _).trans ⟨rfl, rfl, rfl⟩)

theorem keepsMem_fillL1d (s : State) (c line : Nat) : KeepsMem s (fillL1d s c line) := by
  simp only [fillL1d]
  split
  · exact KeepsMem.refl s
  · split <;> exact ⟨rfl, rfl, rfl⟩

theorem keepsMem_missEvt (c va attr : Nat) (s : State) (code : Nat) : KeepsMem s (missEvt c va attr s code) :=
  keepsMem_countEvt s c code 1 _

theorem keepsMem_reachL2 (s : State) (c : Nat) (x : LineAcc) (note : State → Nat → State) (hn : ∀ t k, KeepsMem t (note t k)) :
    KeepsMem s (reachL2 s c x note) := by
  simp only [reachL2]
  refine KeepsMem.trans ?_ (keepsMem_fillL2 _ c x.line x.rt)
  have h1 : ∀ u : State, KeepsMem s u → KeepsMem s (noteAttr u (agentOfCore c) x) := by
    intro u hu
    unfold noteAttr
    split
    · exact hu
    · exact hu.trans ⟨rfl, rfl, rfl⟩
  have h2 : ∀ u : State, KeepsMem s u →
      KeepsMem s (if x.store = true then ownLine (soleInDie u c x.line) (agentOfCore c) x.line else shareLine u (agentOfCore c) x.line) := by
    intro u hu
    split
    · exact (hu.trans (t := u) (u := soleInDie u c x.line) ⟨rfl, rfl, rfl⟩).trans (keepsMem_ownLine _ _ _)
    · exact hu.trans (keepsMem_shareLine _ _ _)
  refine h2 _ (h1 _ ?_)
  split
  · exact KeepsMem.refl s
  · split
    · exact (hn s 8).trans (hn _ 9)
    · exact hn s 8

theorem keepsMem_cacheLine (s : State) (c va attr : Nat) (store : Bool) (line : Nat) : KeepsMem s (cacheLine s c va attr store line) := by
  simp only [cacheLine]
  refine KeepsMem.trans ?_ (keepsMem_fillL1d _ c line)
  have h : ∀ u : State, KeepsMem s u → ∀ b : Bool, KeepsMem s (if b = true then u else
      reachL2 u c { line := line, rt := attr == 4, store := store } (missEvt c va attr)) := by
    intro u hu b
    split
    · exact hu
    · exact hu.trans (keepsMem_reachL2 u c _ _ (keepsMem_missEvt c va attr))
  refine h _ ?_ _
  split
  · exact KeepsMem.refl s
  · exact keepsMem_missEvt c va attr s 7

/-- What a load or store does to the caches leaves memory as it was. -/
theorem keepsMem_cacheLines (s : State) (c va attr : Nat) (store : Bool) (a n : Nat) : KeepsMem s (cacheLines s c va attr store a n) := by
  unfold cacheLines
  split
  · exact KeepsMem.foldl _ (fun t line => keepsMem_cacheLine t c va attr store line) _ s
  · exact KeepsMem.refl s

/-! ## What the caches hold -/

theorem Tbl.mem_set_self {α : Type} (t : Tbl α) (k : Nat) (v : α) : (k, v) ∈ t.set k v := by
  induction t with
  | nil => simp [Tbl.set]
  | cons e t ih =>
    obtain ⟨j, w⟩ := e
    simp only [Tbl.set]
    split
    · exact List.mem_cons_self
    · split
      · exact List.mem_cons_self
      · exact List.mem_cons_of_mem _ ih

/-- A line put at a place of a cache is in it. -/
theorem any_set (t : Tbl Nat) (k line : Nat) : (Tbl.set t k line).any (fun e => e.2 == line) = true :=
  List.any_eq_true.mpr ⟨_, Tbl.mem_set_self t k line, beq_self_eq_true line⟩

theorem l2Key_cluster (cl line w : Nat) (h : w < 16) : l2Key cl line w / 32768 = cl := by
  unfold l2Key
  omega

theorem any_fillL1d (s : State) (c line : Nat) : ((getCore (fillL1d s c line) c).l1d.any fun e => e.2 == line) = true := by
  simp only [fillL1d]
  split
  · assumption
  · split <;> rw [getCore_setCore_same] <;> exact any_set _ _ _

theorem mem_getD (l : List Nat) (d n : Nat) : nth l d n ∈ l ∨ nth l d n = d := by
  unfold nth
  rw [List.getD_eq_getElem?_getD]
  rcases h : l[n]? with _ | v
  · exact .inr rfl
  · exact .inl (List.mem_of_getElem? h)

/-- An access that reaches L2 leaves its line there. -/
theorem l2Has_fillL2 (s : State) (c line : Nat) (rt : Bool) : l2Has (fillL2 s c line rt) (c / 8) line = true := by
  have put : ∀ (u : State) (w : Nat), w < 16 →
      l2Has { u with coh := { u.coh with l2 := u.coh.l2.set (l2Key (c / 8) line w) (line, rt) } } (c / 8) line = true := by
    intro u w hw
    refine List.any_eq_true.mpr ⟨_, Tbl.mem_set_self _ _ _, ?_⟩
    simp [l2Key_cluster _ _ _ hw]
  simp only [fillL2]
  split
  · assumption
  · split
    · rename_i w hw
      exact put s w (by simpa [upto] using List.mem_of_find?_eq_some hw)
    · refine put _ _ ?_
      rcases mem_getD ((upto 16).filter fun w => !((s.coh.l2.get? (l2Key (c / 8) line w)).any fun e =>
        (lockedInSet s c (line % 2048)).contains e.1)) 0 ((takeFree s).1 % max 1 _) with h | h
      · exact List.mem_range.mp (List.mem_of_mem_filter h)
      · rw [h]; decide

/-! ## Stores -/

/-- A core's store writes its bytes and, of memory, nothing else. -/
theorem coreStore_mem (s : State) (c pa : Nat) (l : List Byte) : KeepsMem (wrBytes s pa l) (coreStore s c pa l) := by
  simp only [coreStore]
  have h1 : KeepsMem (wrBytes s pa l) (keepOwn s (dropResv (wrBytes s pa l) pa l.length) c) :=
    (KeepsMem.foldl (fun (t : State) (line : Nat) => invCores t (fun _ => true) line)
      (fun _ _ => ⟨rfl, rfl, rfl⟩) (linesOf pa l.length) (wrBytes s pa l)).trans ⟨rfl, rfl, rfl⟩
  have h2 := h1.trans (KeepsMem.foldl (fun (t : State) (n : Nat) => if (!poisoned s n) = true then t
    else if (decide (pa ≤ 64 * n) && decide (64 * n + 64 ≤ pa + l.length)) = true then clearPoison t n else setPoison t n)
    (fun t n => by
      split
      · exact KeepsMem.refl t
      · split
        · exact ⟨rfl, rfl, rfl⟩
        · exact keepsMem_setPoison t n) (linesOf pa l.length) _)
  split
  · exact h2.trans ⟨rfl, rfl, rfl⟩
  · exact h2

theorem KeepsMem.wrBytes {s u : State} (h : KeepsMem s u) (a : Nat) (l : List Byte) :
    KeepsMem (wrBytes s a l) (Sys2Proof.Machine.wrBytes u a l) := by
  refine ⟨?_, h.2.1, h.2.2⟩
  simp only [Sys2Proof.Machine.wrBytes, h.1, h.2.1]

theorem KeepsMem.rdByte {s t : State} (h : KeepsMem s t) (x : Nat) (hx : isHostWin x = false) : rdByte t x = rdByte s x := by
  simp only [Sys2Proof.Machine.rdByte, h.1, h.2.1, h.2.2, hx, Bool.false_eq_true, if_false]

/-- The bytes written read back. -/
theorem rdBytes_memSetBytes (s : State) (a : Nat) (l : List Byte) : rdBytes (wrBytes s a l) a l.length = l := by
  unfold wrBytes
  generalize s.mem = m
  induction l generalizing a m with
  | nil => rfl
  | cons b l ih =>
    simp only [List.length_cons, rdBytes, memSetBytes]
    rw [ih]
    congr 1
    simp only [rdByte]
    rw [memGet_memSetBytes_out _ _ _ _ _ (Or.inl (Nat.lt_succ_self a)), memGet_memSet_same]
    rfl

theorem rdBytes_eq (s t : State) (hm : t.mem = s.mem) (hf : t.fills = s.fills) (a n : Nat)
    (h : ∀ x, a ≤ x → x < a + n → (memGet s.fills s.mem x).isSome = true) : rdBytes t a n = rdBytes s a n := by
  induction n generalizing a with
  | zero => rfl
  | succ n ih =>
    have h0 := h a (Nat.le_refl a) (by omega)
    obtain ⟨v, hv⟩ := Option.isSome_iff_exists.mp h0
    simp only [rdBytes]
    rw [ih (a + 1) (fun x h1 h2 => h x (by omega) (by omega))]
    simp only [rdByte, hm, hf, hv, Option.getD_some]

theorem memGet_memSetBytes_isSome (fs : List Fill) (m : List Host.Cell) (a : Nat) (l : List Byte) (x : Nat) (h1 : a ≤ x)
    (h2 : x < a + l.length) : (memGet fs (memSetBytes fs m a l) x).isSome = true := by
  induction l generalizing m a with
  | nil => simp at h2; omega
  | cons b l ih =>
    simp only [memSetBytes]
    by_cases hx : x = a
    · subst hx
      rw [memGet_memSetBytes_out _ _ _ _ _ (Or.inl (Nat.lt_succ_self _)), memGet_memSet_same]
      rfl
    · exact ih _ (a + 1) (by omega) (by simp at h2; omega)

/-- A state whose memory is that after the store. -/
theorem KeepsMem.writesOnly {s t : State} {a : Nat} {l : List Byte} (h : KeepsMem (Sys2Proof.Machine.wrBytes s a l) t) :
    Safety.WritesOnly s t a l := by
  refine ⟨fun x hx => ⟨?_, fun hh => (h.rdByte x hh).trans (rdByte_wrBytes_out s a l x hx)⟩, ?_⟩
  · rw [h.1, h.2.1]
    exact memGet_memSetBytes_out _ _ _ _ _ hx
  · rw [rdBytes_eq _ t h.1 h.2.1 a l.length (fun x h1 h2 => memGet_memSetBytes_isSome _ _ _ _ _ h1 h2)]
    exact rdBytes_memSetBytes s a l

@[simp] theorem leBytes_length (n x : Nat) : (leBytes n x).length = n := by
  induction n generalizing x with
  | zero => rfl
  | succ n ih => simp [leBytes, ih]

theorem keepsMem_setCore (s : State) (c : Nat) (k : CoreSt) : KeepsMem s (setCore s c k) := ⟨rfl, rfl, rfl⟩

theorem keepsMem_retire (s : State) (c w : Nat) (next : Option Word) : KeepsMem s (retire s c w next) :=
  let h := onlyComputes_retire s c w next
  ⟨h.1, h.2.1, h.2.2.1.2⟩

theorem keepsMem_postMod (t : State) (c : Nat) (y : Bool) (i : BitVec 2) (pm : Bool) : KeepsMem t (postMod t c y i pm) := by
  unfold postMod
  split
  · exact ⟨rfl, rfl, rfl⟩
  · exact KeepsMem.refl t

theorem keepsMem_watch (s : State) (c va n : Nat) (store : Bool) : KeepsMem s (watch s c va n store) := by
  unfold watch
  split
  · exact ⟨rfl, rfl, rfl⟩
  · exact KeepsMem.refl s

/-! ## Translation -/

theorem keepsMem_fillFirst (s : State) (c : Nat) (acc : Acc) (e : TlbE) : KeepsMem s (fillFirst s c acc e) := by
  simp only [fillFirst]
  exact (keepsMem_takeFree s).trans (keepsMem_setCore _ _ _)

theorem keepsMem_fillSecond (s : State) (c : Nat) (e : TlbE) : KeepsMem s (fillSecond s c e) := by
  simp only [fillSecond]
  exact (keepsMem_takeFree s).trans (keepsMem_setCore _ _ _)

theorem keepsMem_walkKeeps (s : State) (x : XlCtx) (acc : Acc) (va : Nat) : KeepsMem s (walkKeeps s x acc va) := by
  simp only [walkKeeps]
  have h : KeepsMem s ((List.map lineOf (List.filter (tableReached s x) (tableReads s x acc va))).foldl
      (fun t n => reachL2 t x.core { line := n, rt := false, store := false } (missEvt x.core va 0)) s) :=
    KeepsMem.foldl _ (fun t n => keepsMem_reachL2 t x.core _ _ (keepsMem_missEvt x.core va 0)) _ s
  split
  · exact h
  · refine h.trans (KeepsMem.foldl _ (fun t a => ?_) _ _)
    split
    · split
      · exact KeepsMem.refl t
      · exact keepsMem_fillSecond t _ _
    · exact KeepsMem.refl t

/-- A translation fills TLBs and caches, and leaves memory as it was. -/
theorem keepsMem_translate (s : State) (c priv : Nat) (acc : Acc) (va n : Nat) (mirror : Bool) :
    KeepsMem s (translate s c priv acc va n mirror).1 := by
  simp only [translate]
  generalize xlCtx s c (getCore s c).cur priv = x
  split
  · exact KeepsMem.refl s
  · split
    · exact KeepsMem.refl s
    · simp only [translateSU]
      split
      · exact KeepsMem.refl s
      · generalize (if acc = Acc.fetch then 0x0A else 0x0B) = code
        have h1 := keepsMem_countCur s x.core code
        split
        · exact h1.trans (keepsMem_fillFirst _ _ _ _)
        · have h2 := h1.trans (keepsMem_countCur _ x.core 0x0C)
          split
          · exact h2.trans (keepsMem_walkKeeps _ x acc va)
          · refine h2.trans (KeepsMem.trans (keepsMem_walkKeeps _ x acc va) (KeepsMem.trans ?_ (keepsMem_fillFirst _ _ _ _)))
            split
            · exact KeepsMem.refl _
            · exact keepsMem_fillSecond _ _ _

end Sys2Proof.Machine
end

