-- ==== Sys2Proof/Laws/Encoding.lean ====
section
/-! SUPPORT. The fields of an instruction word put together from them. -/

namespace Sys2Proof.Machine

/-- The middle field of three reads back. -/
theorem extract_mid {a n b : Nat} (x : BitVec a) (y : BitVec n) (z : BitVec b) : (x ++ y ++ z).extractLsb' b n = y := by
  apply BitVec.eq_of_getLsbD_eq
  intro i hi
  simp [BitVec.getLsbD_append, hi]

/-- A field within the low part reads as it does there. -/
theorem extract_low {a b : Nat} (x : BitVec a) (y : BitVec b) (lo n : Nat) (h : lo + n ≤ b) :
    (x ++ y).extractLsb' lo n = y.extractLsb' lo n := by
  apply BitVec.eq_of_getLsbD_eq
  intro i hi
  have : lo + i < b := by omega
  simp [BitVec.getLsbD_append, hi, this]

/-- A field within the high part reads as it does there. -/
theorem extract_high {a b : Nat} (x : BitVec a) (y : BitVec b) (lo n : Nat) : (x ++ y).extractLsb' (b + lo) n = x.extractLsb' lo n := by
  apply BitVec.eq_of_getLsbD_eq
  intro i hi
  have h1 : ¬ b + lo + i < b := by omega
  have h2 : b + lo + i - b = lo + i := by omega
  simp [BitVec.getLsbD_append, hi, h1, h2]

/-- The lowest field reads back. -/
theorem extract_last {a n : Nat} (x : BitVec a) (y : BitVec n) : (x ++ y).extractLsb' 0 n = y := by
  rw [extract_low x y 0 n (by omega)]
  simp

section
variable (ps : Bool) (pg : BitVec 3) (m : BitVec 6) (t : BitVec 22) (rd ra rb : R5) (imm : BitVec 12) (fn : BitVec 7)

@[simp] theorem wMajor_word : wMajor (BitVec.ofBool ps ++ pg ++ m ++ t) = m.toNat := congrArg BitVec.toNat (extract_mid _ m t)

@[simp] theorem wGuard_word : wGuard (BitVec.ofBool ps ++ pg ++ m ++ t) = { ps := ps, pg := pg } := by
  have h : (BitVec.ofBool ps ++ pg ++ m ++ t).extractLsb' 28 3 = pg := by
    have e := extract_high (BitVec.ofBool ps ++ pg ++ m) t 6 3
    rw [show (28 : Nat) = 22 + 6 from rfl, e]
    exact extract_mid (BitVec.ofBool ps) pg m
  unfold wGuard
  congr 1
  rw [BitVec.getLsbD_append, BitVec.getLsbD_append, BitVec.getLsbD_append]
  simp

theorem wRd_word : wRd (BitVec.ofBool ps ++ pg ++ m ++ t) = t.extractLsb' 17 5 := extract_low _ t 17 5 (by omega)
theorem wRa_word : wRa (BitVec.ofBool ps ++ pg ++ m ++ t) = t.extractLsb' 12 5 := extract_low _ t 12 5 (by omega)
theorem wRb_word : wRb (BitVec.ofBool ps ++ pg ++ m ++ t) = t.extractLsb' 7 5 := extract_low _ t 7 5 (by omega)
theorem wFn_word : wFn (BitVec.ofBool ps ++ pg ++ m ++ t) = t.extractLsb' 0 7 := extract_low _ t 0 7 (by omega)
theorem wImm_word : wImm (BitVec.ofBool ps ++ pg ++ m ++ t) = t.extractLsb' 0 12 := extract_low _ t 0 12 (by omega)

@[simp] theorem wRd_i : wRd (BitVec.ofBool ps ++ pg ++ m ++ (rd ++ ra ++ imm)) = rd := by
  rw [wRd_word, show (17 : Nat) = 12 + 5 from rfl, extract_high]
  exact (extract_high rd ra 0 5).trans (by simp)

@[simp] theorem wRa_i : wRa (BitVec.ofBool ps ++ pg ++ m ++ (rd ++ ra ++ imm)) = ra := (wRa_word ..).trans (extract_mid rd ra imm)

@[simp] theorem wImm_i : wImm (BitVec.ofBool ps ++ pg ++ m ++ (rd ++ ra ++ imm)) = imm := (wImm_word ..).trans (extract_last _ imm)

@[simp] theorem wRd_r : wRd (BitVec.ofBool ps ++ pg ++ m ++ (rd ++ ra ++ rb ++ fn)) = rd := by
  rw [wRd_word, show (17 : Nat) = 7 + (5 + 5) from rfl, extract_high, extract_high]
  exact (extract_high rd ra 0 5).trans (by simp)

@[simp] theorem wRa_r : wRa (BitVec.ofBool ps ++ pg ++ m ++ (rd ++ ra ++ rb ++ fn)) = ra := by
  rw [wRa_word, show (12 : Nat) = 7 + 5 from rfl, extract_high]
  exact extract_mid rd ra rb

@[simp] theorem wRb_r : wRb (BitVec.ofBool ps ++ pg ++ m ++ (rd ++ ra ++ rb ++ fn)) = rb := (wRb_word ..).trans (extract_mid _ rb fn)

@[simp] theorem wFn_r : wFn (BitVec.ofBool ps ++ pg ++ m ++ (rd ++ ra ++ rb ++ fn)) = fn := (wFn_word ..).trans (extract_last _ fn)

/-- A field is 0 when its bits are. -/
theorem wZero_iff (w : W32) (lo n : Nat) : wZero w lo n = (w.extractLsb' lo n == 0) := by
  have h : (w.extractLsb' lo n).toNat = w.toNat / 2 ^ lo % 2 ^ n := by simp [BitVec.extractLsb'_toNat, Nat.shiftRight_eq_div_pow]
  unfold wZero
  rw [← h, Bool.eq_iff_iff, beq_iff_eq, beq_iff_eq, ← BitVec.toNat_inj]
  rfl

@[simp] theorem wZero_i : wZero (BitVec.ofBool ps ++ pg ++ m ++ (rd ++ ra ++ imm)) 0 12 = (imm == 0) := by
  rw [wZero_iff]
  exact congrArg (· == 0) (wImm_i ps pg m rd ra imm)

/-- The displacement of format B reads back. -/
theorem disp_word : (BitVec.ofBool ps ++ pg ++ m ++ t).extractLsb' 0 22 = t := extract_last _ t

end

end Sys2Proof.Machine
end

