-- ==== Sys2Proof/Laws/Resp.lean ====
section
/-! SUPPORT. What the bus answered has no part in what the state shows. -/

namespace Sys2Proof.Machine

@[simp] theorem specialReset_respOk (s : State) (a0 : Word) (r : RegAddr) :
    specialReset (respOk s a0) r = specialReset s r := rfl

@[simp] theorem resetVal_respOk (s : State) (a0 : Word) (r : RegAddr) :
    resetVal (respOk s a0) r = resetVal s r := rfl

@[simp] theorem rdByte_respOk (s : State) (a0 : Word) (a : Nat) :
    rdByte (respOk s a0) a = rdByte s a := rfl

@[simp] theorem dpByte_respOk (s : State) (a0 : Word) (k : Nat) :
    dpByte (respOk s a0) k = dpByte s k := rfl

@[simp] theorem dpBytes_respOk (s : State) (a0 : Word) (k n : Nat) :
    dpBytes (respOk s a0) k n = dpBytes s k n := rfl

@[simp] theorem poisoned_respOk (s : State) (a0 : Word) (line : Nat) :
    poisoned (respOk s a0) line = poisoned s line := rfl

@[simp] theorem populated_respOk (s : State) (a0 : Word) (site : Nat) :
    populated (respOk s a0) site = populated s site := rfl

@[simp] theorem siteAbsent_respOk (s : State) (a0 : Word) (site : Nat) :
    siteAbsent (respOk s a0) site = siteAbsent s site := rfl

@[simp] theorem blockPresent_respOk (s : State) (a0 : Word) (b : Block) (n : Nat) :
    blockPresent (respOk s a0) b n = blockPresent s b n := rfl

@[simp] theorem domSt_respOk (s : State) (a0 : Word) (d : Nat) :
    domSt (respOk s a0) d = domSt s d := rfl

@[simp] theorem domOn_respOk (s : State) (a0 : Word) (d : Nat) :
    domOn (respOk s a0) d = domOn s d := rfl

@[simp] theorem inPart_respOk (s : State) (a0 : Word) (p c : Nat) :
    inPart (respOk s a0) p c = inPart s p c := rfl

@[simp] theorem coreOwner_respOk (s : State) (a0 : Word) (c : Nat) :
    coreOwner (respOk s a0) c = coreOwner s c := rfl

@[simp] theorem coresOf_respOk (s : State) (a0 : Word) (p : Nat) :
    coresOf (respOk s a0) p = coresOf s p := rfl

@[simp] theorem monLevel_respOk (s : State) (a0 : Word) (c : Nat) :
    monLevel (respOk s a0) c = monLevel s c := rfl

@[simp] theorem partRunning_respOk (s : State) (a0 : Word) (p : Nat) :
    partRunning (respOk s a0) p = partRunning s p := rfl

@[simp] theorem partStatic_respOk (s : State) (a0 : Word) (p : Nat) :
    partStatic (respOk s a0) p = partStatic s p := rfl

@[simp] theorem corePriv_respOk (s : State) (a0 : Word) (c : Nat) :
    corePriv (respOk s a0) c = corePriv s c := rfl

@[simp] theorem isM0_respOk (s : State) (a0 : Word) (i : Initiator) :
    isM0 (respOk s a0) i = isM0 s i := rfl

@[simp] theorem lcEff_respOk (s : State) (a0 : Word) :
    lcEff (respOk s a0) = lcEff s := rfl

@[simp] theorem errRec_respOk (s : State) (a0 : Word) (kind code : Nat) (b : Block) (n : Nat) :
    errRec (respOk s a0) kind code b n = errRec s kind code b n := rfl

@[simp] theorem accessRec_respOk (s : State) (a0 : Word) (i : Initiator) (r : RegAddr) (code : Nat) :
    accessRec (respOk s a0) i r code = accessRec s i r code := rfl

@[simp] theorem accessAddrRec_respOk (s : State) (a0 : Word) (i : Initiator) (addr code : Nat) :
    accessAddrRec (respOk s a0) i addr code = accessAddrRec s i addr code := rfl

@[simp] theorem getTb_respOk (s : State) (a0 : Word) (n : Nat) :
    getTb (respOk s a0) n = getTb s n := rfl

@[simp] theorem getSrc_respOk (s : State) (a0 : Word) (n : Nat) :
    getSrc (respOk s a0) n = getSrc s n := rfl

@[simp] theorem srcOwner_respOk (s : State) (a0 : Word) (n : Nat) :
    srcOwner (respOk s a0) n = srcOwner s n := rfl

@[simp] theorem phasesNow_respOk (s : State) (a0 : Word) :
    phasesNow (respOk s a0) = phasesNow s := rfl

@[simp] theorem condSource_respOk (s : State) (a0 : Word) (b : Block) (n page k : Nat) :
    condSource (respOk s a0) b n page k = condSource s b n page k := rfl

@[simp] theorem condAsserted_respOk (s : State) (a0 : Word) (src : Nat) :
    condAsserted (respOk s a0) src = condAsserted s src := rfl

@[simp] theorem semBlocked_respOk (s : State) (a0 : Word) (i : Initiator) (r : RegAddr) :
    semBlocked (respOk s a0) i r = semBlocked s i r := rfl

@[simp] theorem ready_respOk (s : State) (a0 : Word) (b : Block) (n : Nat) :
    ready (respOk s a0) b n = ready s b n := rfl

@[simp] theorem pageOwner_respOk (s : State) (a0 : Word) (r : RegAddr) :
    pageOwner (respOk s a0) r = pageOwner s r := rfl

@[simp] theorem reaches_respOk (s : State) (a0 : Word) (i : Initiator) (r : RegAddr) :
    reaches (respOk s a0) i r = reaches s i r := rfl

@[simp] theorem domDark_respOk (s : State) (a0 : Word) (d : Nat) :
    domDark (respOk s a0) d = domDark s d := rfl

@[simp] theorem unreachable_respOk (s : State) (a0 : Word) (b : Block) (n : Nat) :
    unreachable (respOk s a0) b n = unreachable s b n := rfl

@[simp] theorem away_respOk (s : State) (a0 : Word) (b : Block) (n : Nat) :
    away (respOk s a0) b n = away s b n := rfl

@[simp] theorem noRoute_respOk (s : State) (a0 : Word) (src dst : Nat) :
    noRoute (respOk s a0) src dst = noRoute s src dst := rfl

@[simp] theorem cutOff_respOk (s : State) (a0 : Word) (i : Initiator) (b : Block) (n : Nat) :
    cutOff (respOk s a0) i b n = cutOff s i b n := rfl

@[simp] theorem mapDark_respOk (s : State) (a0 : Word) (r : RegAddr) :
    mapDark (respOk s a0) r = mapDark s r := rfl

@[simp] theorem debugStopped_respOk (s : State) (a0 : Word) (p : Nat) :
    debugStopped (respOk s a0) p = debugStopped s p := rfl

@[simp] theorem frozen_respOk (s : State) (a0 : Word) (b : Block) (n page : Nat) :
    frozen (respOk s a0) b n page = frozen s b n page := rfl

@[simp] theorem getGpe_respOk (s : State) (a0 : Word) (g : Nat) :
    getGpe (respOk s a0) g = getGpe s g := rfl

@[simp] theorem gpeForced_respOk (s : State) (a0 : Word) (g : Nat) :
    gpeForced (respOk s a0) g = gpeForced s g := rfl

@[simp] theorem gpeDt_respOk (s : State) (a0 : Word) (g pair : Nat) :
    gpeDt (respOk s a0) g pair = gpeDt s g pair := rfl

@[simp] theorem gpeMinPw_respOk (s : State) (a0 : Word) (g pair : Nat) :
    gpeMinPw (respOk s a0) g pair = gpeMinPw s g pair := rfl

@[simp] theorem gpePaired_respOk (s : State) (a0 : Word) (g pair : Nat) :
    gpePaired (respOk s a0) g pair = gpePaired s g pair := rfl

@[simp] theorem sramAt_respOk (s : State) (a0 : Word) (a : Nat) :
    sramAt (respOk s a0) a = sramAt s a := rfl

@[simp] theorem entReached_respOk (s : State) (a0 : Word) (seg : Seg) (e : BitVec 128) :
    entReached (respOk s a0) seg e = entReached s seg e := rfl

@[simp] theorem entPassed_respOk (s : State) (a0 : Word) (seg : Seg) (e : BitVec 128) :
    entPassed (respOk s a0) seg e = entPassed s seg e := rfl

@[simp] theorem gpeBase_respOk (s : State) (a0 : Word) (g : Nat) :
    gpeBase (respOk s a0) g = gpeBase s g := rfl

@[simp] theorem gpeLen_respOk (s : State) (a0 : Word) (g : Nat) :
    gpeLen (respOk s a0) g = gpeLen s g := rfl

@[simp] theorem gpeStream_respOk (s : State) (a0 : Word) (g : Nat) :
    gpeStream (respOk s a0) g = gpeStream s g := rfl

@[simp] theorem entDue_respOk (s : State) (a0 : Word) (seg : Seg) (e : BitVec 128) :
    entDue (respOk s a0) seg e = entDue s seg e := rfl

@[simp] theorem gpeStatus_respOk (s : State) (a0 : Word) (g : Nat) :
    gpeStatus (respOk s a0) g = gpeStatus s g := rfl

@[simp] theorem gpeWindowBad_respOk (s : State) (a0 : Word) (g base len : Nat) :
    gpeWindowBad (respOk s a0) g base len = gpeWindowBad s g base len := rfl

@[simp] theorem gpoBall_respOk (s : State) (a0 : Word) (g i : Nat) :
    gpoBall (respOk s a0) g i = gpoBall s g i := rfl

@[simp] theorem smgState_respOk (s : State) (a0 : Word) :
    smgState (respOk s a0) = smgState s := rfl

@[simp] theorem smgGates_respOk (s : State) (a0 : Word) :
    smgGates (respOk s a0) = smgGates s := rfl

@[simp] theorem srcAsserted_respOk (s : State) (a0 : Word) (n : Nat) :
    srcAsserted (respOk s a0) n = srcAsserted s n := rfl

@[simp] theorem newEvent_respOk (s : State) (a0 : Word) (n : Nat) (late : Bool) (phases : List Word) (time : Nat) :
    newEvent (respOk s a0) n late phases time = newEvent s n late phases time := rfl

@[simp] theorem tbRuns_respOk (s : State) (a0 : Word) (n : Nat) :
    tbRuns (respOk s a0) n = tbRuns s n := rfl

@[simp] theorem openWin_respOk (s : State) (a0 : Word) (c time : Nat) (phase : Word) (rev : Bool) :
    openWin (respOk s a0) c time phase rev = openWin s c time phase rev := rfl

@[simp] theorem vmapOf_respOk (s : State) (a0 : Word) (port : Nat) (n : Nat) :
    vmapOf (respOk s a0) port n = vmapOf s port n := rfl

@[simp] theorem waitsInPool_respOk (s : State) (a0 : Word) (n : Nat) :
    waitsInPool (respOk s a0) n = waitsInPool s n := rfl

@[simp] theorem coreEml_respOk (s : State) (a0 : Word) (c : Nat) :
    coreEml (respOk s a0) c = coreEml s c := rfl

@[simp] theorem levelOn_respOk (s : State) (a0 : Word) (c l : Nat) :
    levelOn (respOk s a0) c l = levelOn s c l := rfl

@[simp] theorem inboxFull_respOk (s : State) (a0 : Word) (c l : Nat) :
    inboxFull (respOk s a0) c l = inboxFull s c l := rfl

@[simp] theorem inFlight_respOk (s : State) (a0 : Word) (c l : Nat) :
    inFlight (respOk s a0) c l = inFlight s c l := rfl

@[simp] theorem localWaits_respOk (s : State) (a0 : Word) (c l : Nat) :
    localWaits (respOk s a0) c l = localWaits s c l := rfl

@[simp] theorem inboxFree_respOk (s : State) (a0 : Word) (c l : Nat) :
    inboxFree (respOk s a0) c l = inboxFree s c l := rfl

@[simp] theorem eligible_respOk (s : State) (a0 : Word) (c l : Nat) :
    eligible (respOk s a0) c l = eligible s c l := rfl

@[simp] theorem getPool_respOk (s : State) (a0 : Word) (q : Nat) :
    getPool (respOk s a0) q = getPool s q := rfl

@[simp] theorem poolOwner_respOk (s : State) (a0 : Word) (q : Nat) :
    poolOwner (respOk s a0) q = poolOwner s q := rfl

@[simp] theorem poolChoose_respOk (s : State) (a0 : Word) (q l : Nat) :
    poolChoose (respOk s a0) q l = poolChoose s q l := rfl

@[simp] theorem pairA_respOk (s : State) (a0 : Word) (q : Nat) :
    pairA (respOk s a0) q = pairA s q := rfl

@[simp] theorem pairB_respOk (s : State) (a0 : Word) (q : Nat) :
    pairB (respOk s a0) q = pairB s q := rfl

@[simp] theorem pairPart_respOk (s : State) (a0 : Word) (q : Nat) :
    pairPart (respOk s a0) q = pairPart s q := rfl

@[simp] theorem pairOn_respOk (s : State) (a0 : Word) (q : Nat) :
    pairOn (respOk s a0) q = pairOn s q := rfl

@[simp] theorem wantsInbox_respOk (s : State) (a0 : Word) (n : Nat) :
    wantsInbox (respOk s a0) n = wantsInbox s n := rfl

@[simp] theorem firstFor_respOk (s : State) (a0 : Word) (c l : Nat) :
    firstFor (respOk s a0) c l = firstFor s c l := rfl

@[simp] theorem coreOf_respOk (s : State) (a0 : Word) (p c : Nat) :
    coreOf (respOk s a0) p c = coreOf s p c := rfl

@[simp] theorem cfgOk_respOk (s : State) (a0 : Word) (n : Nat) (c : Word) :
    cfgOk (respOk s a0) n c = cfgOk s n c := rfl

@[simp] theorem getSl_respOk (s : State) (a0 : Word) (h : Nat) :
    getSl (respOk s a0) h = getSl s h := rfl

@[simp] theorem getLn_respOk (s : State) (a0 : Word) (a line : Nat) :
    getLn (respOk s a0) a line = getLn s a line := rfl

@[simp] theorem absentMask_respOk (s : State) (a0 : Word) (h : Nat) :
    absentMask (respOk s a0) h = absentMask s h := rfl

@[simp] theorem liveMask_respOk (s : State) (a0 : Word) (h mask : Nat) :
    liveMask (respOk s a0) h mask = liveMask s h mask := rfl

@[simp] theorem agentOn_respOk (s : State) (a0 : Word) (a : Nat) :
    agentOn (respOk s a0) a = agentOn s a := rfl

@[simp] theorem lostOwner_respOk (s : State) (a0 : Word) (line : Nat) :
    lostOwner (respOk s a0) line = lostOwner s line := rfl

@[simp] theorem lineBad_respOk (s : State) (a0 : Word) (line : Nat) :
    lineBad (respOk s a0) line = lineBad s line := rfl

@[simp] theorem l2Has_respOk (s : State) (a0 : Word) (cl line : Nat) :
    l2Has (respOk s a0) cl line = l2Has s cl line := rfl

@[simp] theorem l3Has_respOk (s : State) (a0 : Word) (a line : Nat) :
    l3Has (respOk s a0) a line = l3Has s a line := rfl

@[simp] theorem clusterFilter_respOk (s : State) (a0 : Word) (a line : Nat) :
    clusterFilter (respOk s a0) a line = clusterFilter s a line := rfl

@[simp] theorem lineQuiet_respOk (s : State) (a0 : Word) (line : Nat) :
    lineQuiet (respOk s a0) line = lineQuiet s line := rfl

@[simp] theorem inWindow_respOk (s : State) (a0 : Word) (a line : Nat) :
    inWindow (respOk s a0) a line = inWindow s a line := rfl

@[simp] theorem heldBy_respOk (s : State) (a0 : Word) (a line : Nat) :
    heldBy (respOk s a0) a line = heldBy s a line := rfl

@[simp] theorem asksHome_respOk (s : State) (a0 : Word) (a line : Nat) (store : Bool) :
    asksHome (respOk s a0) a line store = asksHome s a line store := rfl

@[simp] theorem dramChannels_respOk (s : State) (a0 : Word) :
    dramChannels (respOk s a0) = dramChannels s := rfl

@[simp] theorem chanOf_respOk (s : State) (a0 : Word) (a : Nat) :
    chanOf (respOk s a0) a = chanOf s a := rfl

@[simp] theorem dramCapacity_respOk (s : State) (a0 : Word) :
    dramCapacity (respOk s a0) = dramCapacity s := rfl

@[simp] theorem dramServes_respOk (s : State) (a0 : Word) (a : Nat) :
    dramServes (respOk s a0) a = dramServes s a := rfl

@[simp] theorem regionOk_respOk (s : State) (a0 : Word) (p a n need : Nat) :
    regionOk (respOk s a0) p a n need = regionOk s p a n need := rfl

@[simp] theorem targetRefuses_respOk (s : State) (a0 : Word) (p a n need : Nat) :
    targetRefuses (respOk s a0) p a n need = targetRefuses s p a n need := rfl

@[simp] theorem hpOn_respOk (s : State) (a0 : Word) (p : Port) :
    hpOn (respOk s a0) p = hpOn s p := rfl

@[simp] theorem hpUp_respOk (s : State) (a0 : Word) (p : Port) :
    hpUp (respOk s a0) p = hpUp s p := rfl

@[simp] theorem pageErr_respOk (s : State) (a0 : Word) (a : Nat) :
    pageErr (respOk s a0) a = pageErr s a := rfl

@[simp] theorem touchesPoison_respOk (s : State) (a0 : Word) (a n : Nat) :
    touchesPoison (respOk s a0) a n = touchesPoison s a n := rfl

@[simp] theorem dmcRanks_respOk (s : State) (a0 : Word) (ch : Nat) :
    dmcRanks (respOk s a0) ch = dmcRanks s ch := rfl

@[simp] theorem dramDecode_respOk (s : State) (a0 : Word) (ch line : Nat) :
    dramDecode (respOk s a0) ch line = dramDecode s ch line := rfl

@[simp] theorem dramDetail_respOk (s : State) (a0 : Word) (ch line mask : Nat) :
    dramDetail (respOk s a0) ch line mask = dramDetail s ch line mask := rfl

@[simp] theorem freeBytes_respOk (s : State) (a0 : Word) (n : Nat) :
    freeBytes (respOk s a0) n = freeBytes s n := rfl

@[simp] theorem getRing_respOk (s : State) (a0 : Word) (r : Nat) :
    getRing (respOk s a0) r = getRing s r := rfl

@[simp] theorem getDma_respOk (s : State) (a0 : Word) (c : Nat) :
    getDma (respOk s a0) c = getDma s c := rfl

@[simp] theorem heldEntries_respOk (s : State) (a0 : Word) (p : Nat) :
    heldEntries (respOk s a0) p = heldEntries s p := rfl

@[simp] theorem heldBytes_respOk (s : State) (a0 : Word) (p : Nat) :
    heldBytes (respOk s a0) p = heldBytes s p := rfl

@[simp] theorem ringsEnabled_respOk (s : State) (a0 : Word) (p : Nat) :
    ringsEnabled (respOk s a0) p = ringsEnabled s p := rfl

@[simp] theorem quotaOk_respOk (s : State) (a0 : Word) (x : Ring) :
    quotaOk (respOk s a0) x = quotaOk s x := rfl

@[simp] theorem halfOf_respOk (s : State) (a0 : Word) (r : Nat) :
    halfOf (respOk s a0) r = halfOf s r := rfl

@[simp] theorem hwCons_respOk (s : State) (a0 : Word) (r : Nat) :
    hwCons (respOk s a0) r = hwCons s r := rfl

@[simp] theorem hwProd_respOk (s : State) (a0 : Word) (r : Nat) :
    hwProd (respOk s a0) r = hwProd s r := rfl

@[simp] theorem ringCfgShown_respOk (s : State) (a0 : Word) (r : Nat) :
    ringCfgShown (respOk s a0) r = ringCfgShown s r := rfl

@[simp] theorem mayBind_respOk (s : State) (a0 : Word) (owner r : Nat) :
    mayBind (respOk s a0) owner r = mayBind s owner r := rfl

@[simp] theorem stampEntry_respOk (s : State) (a0 : Word) (x : Ring) (l : List Byte) :
    stampEntry (respOk s a0) x l = stampEntry s x l := rfl

@[simp] theorem mcpHalf_respOk (s : State) (a0 : Word) (c : Nat) (l : List Byte) :
    mcpHalf (respOk s a0) c l = mcpHalf s c l := rfl

@[simp] theorem mirrorStuck_respOk (s : State) (a0 : Word) (x : Ring) :
    mirrorStuck (respOk s a0) x = mirrorStuck s x := rfl

@[simp] theorem mirrorStuckRec_respOk (s : State) (a0 : Word) (ep line : Nat) :
    mirrorStuckRec (respOk s a0) ep line = mirrorStuckRec s ep line := rfl

@[simp] theorem ringHas_respOk (s : State) (a0 : Word) (r : Nat) :
    ringHas (respOk s a0) r = ringHas s r := rfl

@[simp] theorem entryAddrOk_respOk (s : State) (a0 : Word) (p a n need : Nat) :
    entryAddrOk (respOk s a0) p a n need = entryAddrOk s p a n need := rfl

@[simp] theorem opRefusal_respOk (s : State) (a0 : Word) (i : Initiator) (p r a : Nat) (deq : Bool) :
    opRefusal (respOk s a0) i p r a deq = opRefusal s i p r a deq := rfl

@[simp] theorem tbAllowed_respOk (s : State) (a0 : Word) (p tb : Nat) :
    tbAllowed (respOk s a0) p tb = tbAllowed s p tb := rfl

@[simp] theorem ringOk_respOk (s : State) (a0 : Word) (x : Ring) (cfg : Word) :
    ringOk (respOk s a0) x cfg = ringOk s x cfg := rfl

@[simp] theorem dmaOwner_respOk (s : State) (a0 : Word) (c : Nat) :
    dmaOwner (respOk s a0) c = dmaOwner s c := rfl

@[simp] theorem dmaInflight_respOk (s : State) (a0 : Word) :
    dmaInflight (respOk s a0) = dmaInflight s := rfl

@[simp] theorem dmaAddrOk_respOk (s : State) (a0 : Word) (own a n need : Nat) :
    dmaAddrOk (respOk s a0) own a n need = dmaAddrOk s own a n need := rfl

@[simp] theorem cplEntry_respOk (s : State) (a0 : Word) (tag status bytes : Nat) :
    cplEntry (respOk s a0) tag status bytes = cplEntry s tag status bytes := rfl

@[simp] theorem dmaIni_respOk (s : State) (a0 : Word) (c : Nat) :
    dmaIni (respOk s a0) c = dmaIni s c := rfl

@[simp] theorem channelsOf_respOk (s : State) (a0 : Word) (r : Nat) :
    channelsOf (respOk s a0) r = channelsOf s r := rfl

@[simp] theorem resultWaits_respOk (s : State) (a0 : Word) (i : Initiator) (p : Nat) :
    resultWaits (respOk s a0) i p = resultWaits s i p := rfl

@[simp] theorem getEnc_respOk (s : State) (a0 : Word) (e : Nat) :
    getEnc (respOk s a0) e = getEnc s e := rfl

@[simp] theorem encFilt_respOk (s : State) (a0 : Word) (e : Nat) :
    encFilt (respOk s a0) e = encFilt s e := rfl

@[simp] theorem tbSrc_respOk (s : State) (a0 : Word) (n : Nat) :
    tbSrc (respOk s a0) n = tbSrc s n := rfl

@[simp] theorem tbIdx_respOk (s : State) (a0 : Word) (n : Nat) :
    tbIdx (respOk s a0) n = tbIdx s n := rfl

@[simp] theorem tbEn_respOk (s : State) (a0 : Word) (n : Nat) :
    tbEn (respOk s a0) n = tbEn s n := rfl

@[simp] theorem tbsOf_respOk (s : State) (a0 : Word) (src idx : Nat) :
    tbsOf (respOk s a0) src idx = tbsOf s src idx := rfl

@[simp] theorem tbForce_respOk (s : State) (a0 : Word) (n : Nat) :
    tbForce (respOk s a0) n = tbForce s n := rfl

@[simp] theorem rateOf_respOk (s : State) (a0 : Word) (tb : TimeBase) (k : Tick) :
    rateOf (respOk s a0) tb k = rateOf s tb k := rfl

@[simp] theorem pairedTick_respOk (s : State) (a0 : Word) (n : Nat) (tb : TimeBase) (k : Tick) (enc : Bool) :
    pairedTick (respOk s a0) n tb k enc = pairedTick s n tb k enc := rfl

@[simp] theorem applyTick_respOk (s : State) (a0 : Word) (n : Nat) (r : TbRun) (k : Tick) :
    applyTick (respOk s a0) n r k = applyTick s n r k := rfl

@[simp] theorem interpolate_respOk (s : State) (a0 : Word) (n : Nat) (r : TbRun) :
    interpolate (respOk s a0) n r = interpolate s n r := rfl

@[simp] theorem applyWrite_respOk (s : State) (a0 : Word) (n : Nat) (r : TbRun) (w : PhaseWrite) :
    applyWrite (respOk s a0) n r w = applyWrite s n r w := rfl

@[simp] theorem applySoftware_respOk (s : State) (a0 : Word) (n : Nat) (r : TbRun) :
    applySoftware (respOk s a0) n r = applySoftware s n r := rfl

@[simp] theorem tbAdvance_respOk (s : State) (a0 : Word) (n : Nat) :
    tbAdvance (respOk s a0) n = tbAdvance s n := rfl

@[simp] theorem getCmp_respOk (s : State) (a0 : Word) (m : Nat) :
    getCmp (respOk s a0) m = getCmp s m := rfl

@[simp] theorem cmpTarget_respOk (s : State) (a0 : Word) (m : Nat) :
    cmpTarget (respOk s a0) m = cmpTarget s m := rfl

@[simp] theorem targetPairsOk_respOk (s : State) (a0 : Word) (m : Nat) :
    targetPairsOk (respOk s a0) m = targetPairsOk s m := rfl

@[simp] theorem cmpOwner_respOk (s : State) (a0 : Word) (m : Nat) :
    cmpOwner (respOk s a0) m = cmpOwner s m := rfl

@[simp] theorem cmpOwned_respOk (s : State) (a0 : Word) (m : Nat) (ctl arg : Word) :
    cmpOwned (respOk s a0) m ctl arg = cmpOwned s m ctl arg := rfl

@[simp] theorem cbsClass_respOk (s : State) (a0 : Word) (m : Nat) (x : Mac) (t : Nat) (c : Int) :
    cbsClass (respOk s a0) m x t c = cbsClass s m x t c := rfl

@[simp] theorem macT_respOk (s : State) (a0 : Word) (m : Nat) :
    macT (respOk s a0) m = macT s m := rfl

@[simp] theorem tbStateWord_respOk (s : State) (a0 : Word) (n : Nat) :
    tbStateWord (respOk s a0) n = tbStateWord s n := rfl

@[simp] theorem gpePanics_respOk (s : State) (a0 : Word) (g : Nat) :
    gpePanics (respOk s a0) g = gpePanics s g := rfl

@[simp] theorem axleMaskOk_respOk (s : State) (a0 : Word) (mask : Nat) :
    axleMaskOk (respOk s a0) mask = axleMaskOk s mask := rfl

@[simp] theorem getSdm_respOk (s : State) (a0 : Word) (n : Nat) :
    getSdm (respOk s a0) n = getSdm s n := rfl

@[simp] theorem sinc3Osr_respOk (s : State) (a0 : Word) (n : Nat) :
    sinc3Osr (respOk s a0) n = sinc3Osr s n := rfl

@[simp] theorem sinc2Osr_respOk (s : State) (a0 : Word) (n : Nat) :
    sinc2Osr (respOk s a0) n = sinc2Osr s n := rfl

@[simp] theorem sdmRuns_respOk (s : State) (a0 : Word) (n : Nat) :
    sdmRuns (respOk s a0) n = sdmRuns s n := rfl

@[simp] theorem sdmBits_respOk (s : State) (a0 : Word) (n : Nat) (bits : List Bool) :
    sdmBits (respOk s a0) n bits = sdmBits s n bits := rfl

@[simp] theorem snapRecord_respOk (s : State) (a0 : Word) (q : SnapReq) :
    snapRecord (respOk s a0) q = snapRecord s q := rfl

@[simp] theorem sdmPanics_respOk (s : State) (a0 : Word) :
    sdmPanics (respOk s a0) = sdmPanics s := rfl

@[simp] theorem sdpPrimaryOk_respOk (s : State) (a0 : Word) (pri : Nat) :
    sdpPrimaryOk (respOk s a0) pri = sdpPrimaryOk s pri := rfl

@[simp] theorem vscale_respOk (s : State) (a0 : Word) (k : Nat) :
    vscale (respOk s a0) k = vscale s k := rfl

@[simp] theorem supplyClass_respOk (s : State) (a0 : Word) (k : Nat) (mean : Int) (rms freq : Nat) :
    supplyClass (respOk s a0) k mean rms freq = supplyClass s k mean rms freq := rfl

@[simp] theorem voltsOf_respOk (s : State) (a0 : Word) (k : Nat) (x : Int) :
    voltsOf (respOk s a0) k x = voltsOf s k x := rfl

@[simp] theorem scaledTick_respOk (s : State) (a0 : Word) (n : Nat) (t : Int) :
    scaledTick (respOk s a0) n t = scaledTick s n t := rfl

@[simp] theorem pageReachesSrc_respOk (s : State) (a0 : Word) (p n : Nat) :
    pageReachesSrc (respOk s a0) p n = pageReachesSrc s p n := rfl

@[simp] theorem levelIdle_respOk (s : State) (a0 : Word) (c l : Nat) :
    levelIdle (respOk s a0) c l = levelIdle s c l := rfl

@[simp] theorem parkedBank_respOk (s : State) (a0 : Word) (c l : Nat) :
    parkedBank (respOk s a0) c l = parkedBank s c l := rfl

@[simp] theorem isHM_respOk (s : State) (a0 : Word) (i : Initiator) :
    isHM (respOk s a0) i = isHM s i := rfl

@[simp] theorem cntLive_respOk (s : State) (a0 : Word) (c : Nat) :
    cntLive (respOk s a0) c = cntLive s c := rfl

@[simp] theorem cntPasses_respOk (s : State) (a0 : Word) (c : Nat) (cfg : Word) (x : CntCtx) :
    cntPasses (respOk s a0) c cfg x = cntPasses s c cfg x := rfl

@[simp] theorem curCtx_respOk (s : State) (a0 : Word) (c : Nat) :
    curCtx (respOk s a0) c = curCtx s c := rfl

@[simp] theorem mcReady_respOk (s : State) (a0 : Word) (c : Nat) :
    mcReady (respOk s a0) c = mcReady s c := rfl

@[simp] theorem heldCore_respOk (s : State) (a0 : Word) (c : Nat) :
    heldCore (respOk s a0) c = heldCore s c := rfl

@[simp] theorem releaseDark_respOk (s : State) (a0 : Word) (i : Initiator) (c : Nat) :
    releaseDark (respOk s a0) i c = releaseDark s i c := rfl

@[simp] theorem lockedInSet_respOk (s : State) (a0 : Word) (c set : Nat) :
    lockedInSet (respOk s a0) c set = lockedInSet s c set := rfl

@[simp] theorem dieHolds_respOk (s : State) (a0 : Word) (a line : Nat) :
    dieHolds (respOk s a0) a line = dieHolds s a line := rfl

@[simp] theorem l3Ways_respOk (s : State) (a0 : Word) (c : Nat) :
    l3Ways (respOk s a0) c = l3Ways s c := rfl

@[simp] theorem homeErr_respOk (s : State) (a0 : Word) (c a n : Nat) (store : Bool) :
    homeErr (respOk s a0) c a n store = homeErr s c a n store := rfl

@[simp] theorem pstageHit_respOk (s : State) (a0 : Word) (x : XlCtx) (a : Nat) :
    pstageHit (respOk s a0) x a = pstageHit s x a := rfl

@[simp] theorem checkEntry_respOk (s : State) (a0 : Word) (x : XlCtx) (acc : Acc) (va n : Nat) (e : TlbE) :
    checkEntry (respOk s a0) x acc va n e = checkEntry s x acc va n e := rfl

@[simp] theorem translateHM_respOk (s : State) (a0 : Word) (x : XlCtx) (acc : Acc) (va n : Nat) (mirror : Bool) :
    translateHM (respOk s a0) x acc va n mirror = translateHM s x acc va n mirror := rfl

@[simp] theorem xlCtx_respOk (s : State) (a0 : Word) (c l priv : Nat) :
    xlCtx (respOk s a0) c l priv = xlCtx s c l priv := rfl

@[simp] theorem floorOf_respOk (s : State) (a0 : Word) (env emission : Nat) :
    floorOf (respOk s a0) env emission = floorOf s env emission := rfl

@[simp] theorem floorNow_respOk (s : State) (a0 : Word) :
    floorNow (respOk s a0) = floorNow s := rfl

@[simp] theorem pairsOfOk_respOk (s : State) (a0 : Word) (p : Nat) (cores : List Nat) :
    pairsOfOk (respOk s a0) p cores = pairsOfOk s p cores := rfl

@[simp] theorem waysShared_respOk (s : State) (a0 : Word) (p q : Nat) :
    waysShared (respOk s a0) p q = waysShared s p q := rfl

@[simp] theorem startRefuse_respOk (s : State) (a0 : Word) (p : Nat) (same : List Nat) :
    startRefuse (respOk s a0) p same = startRefuse s p same := rfl

@[simp] theorem mayJoin_respOk (s : State) (a0 : Word) (p c : Nat) :
    mayJoin (respOk s a0) p c = mayJoin s p c := rfl

@[simp] theorem endpointUsed_respOk (s : State) (a0 : Word) (e : Nat) :
    endpointUsed (respOk s a0) e = endpointUsed s e := rfl

@[simp] theorem adjacentSites_respOk (s : State) (a0 : Word) (site : Nat) :
    adjacentSites (respOk s a0) site = adjacentSites s site := rfl

@[simp] theorem defaultEntry_respOk (s : State) (a0 : Word) (site ni e : Nat) :
    defaultEntry (respOk s a0) site ni e = defaultEntry s site ni e := rfl

@[simp] theorem routeEntry_respOk (s : State) (a0 : Word) (site ni e : Nat) :
    routeEntry (respOk s a0) site ni e = routeEntry s site ni e := rfl

@[simp] theorem linkState_respOk (s : State) (a0 : Word) (l : Nat) :
    linkState (respOk s a0) l = linkState s l := rfl

@[simp] theorem linkExists_respOk (s : State) (a0 : Word) (l : Nat) :
    linkExists (respOk s a0) l = linkExists s l := rfl

@[simp] theorem nbrLink_respOk (s : State) (a0 : Word) (a b : Nat) :
    nbrLink (respOk s a0) a b = nbrLink s a b := rfl

@[simp] theorem sentAs_respOk (s : State) (a0 : Word) (m : CohMsg) :
    sentAs (respOk s a0) m = sentAs s m := rfl

@[simp] theorem findMsg_respOk (s : State) (a0 : Word) (code a line : Nat) :
    findMsg (respOk s a0) code a line = findMsg s code a line := rfl

@[simp] theorem snoopsFor_respOk (s : State) (a0 : Word) (h : Nat) (t : CohTx) :
    snoopsFor (respOk s a0) h t = snoopsFor s h t := rfl

@[simp] theorem tagsUsed_respOk (s : State) (a0 : Word) (a : Nat) :
    tagsUsed (respOk s a0) a = tagsUsed s a := rfl

@[simp] theorem wbUsed_respOk (s : State) (a0 : Word) (a h : Nat) :
    wbUsed (respOk s a0) a h = wbUsed s a h := rfl

@[simp] theorem snoopPending_respOk (s : State) (a0 : Word) (a line : Nat) :
    snoopPending (respOk s a0) a line = snoopPending s a line := rfl

@[simp] theorem lockedLine_respOk (s : State) (a0 : Word) (a line : Nat) :
    lockedLine (respOk s a0) a line = lockedLine s a line := rfl

@[simp] theorem snoopWaits_respOk (s : State) (a0 : Word) (a line : Nat) :
    snoopWaits (respOk s a0) a line = snoopWaits s a line := rfl

@[simp] theorem scanning_respOk (s : State) (a0 : Word) :
    scanning (respOk s a0) = scanning s := rfl

@[simp] theorem homTrk_respOk (s : State) (a0 : Word) (h : Nat) :
    homTrk (respOk s a0) h = homTrk s h := rfl

@[simp] theorem homSf_respOk (s : State) (a0 : Word) (h : Nat) :
    homSf (respOk s a0) h = homSf s h := rfl

@[simp] theorem mirErrRec_respOk (s : State) (a0 : Word) (ep a code : Nat) :
    mirErrRec (respOk s a0) ep a code = mirErrRec s ep a code := rfl

@[simp] theorem pairCoresOk_respOk (s : State) (a0 : Word) (v : Word) :
    pairCoresOk (respOk s a0) v = pairCoresOk s v := rfl

@[simp] theorem getMcp_respOk (s : State) (a0 : Word) (c : Nat) :
    getMcp (respOk s a0) c = getMcp s c := rfl

@[simp] theorem mcpRingA_respOk (s : State) (a0 : Word) (c : Nat) :
    mcpRingA (respOk s a0) c = mcpRingA s c := rfl

@[simp] theorem mcpRingB_respOk (s : State) (a0 : Word) (c : Nat) :
    mcpRingB (respOk s a0) c = mcpRingB s c := rfl

@[simp] theorem mcpRingOut_respOk (s : State) (a0 : Word) (c : Nat) :
    mcpRingOut (respOk s a0) c = mcpRingOut s c := rfl

@[simp] theorem mcpOk_respOk (s : State) (a0 : Word) (c : Nat) (ctl : Word) :
    mcpOk (respOk s a0) c ctl = mcpOk s c ctl := rfl

@[simp] theorem mcpActive_respOk (s : State) (a0 : Word) (c : Nat) :
    mcpActive (respOk s a0) c = mcpActive s c := rfl

@[simp] theorem anyStopped_respOk (s : State) (a0 : Word) :
    anyStopped (respOk s a0) = anyStopped s := rfl

@[simp] theorem wdMax_respOk (s : State) (a0 : Word) :
    wdMax (respOk s a0) = wdMax s := rfl

@[simp] theorem wdMin_respOk (s : State) (a0 : Word) :
    wdMin (respOk s a0) = wdMin s := rfl

@[simp] theorem entryPaths_respOk (s : State) (a0 : Word) (site ni e : Nat) :
    entryPaths (respOk s a0) site ni e = entryPaths s site ni e := rfl

@[simp] theorem entryHeld_respOk (s : State) (a0 : Word) (site ni e : Nat) :
    entryHeld (respOk s a0) site ni e = entryHeld s site ni e := rfl

@[simp] theorem routeRead_respOk (s : State) (a0 : Word) (site : Nat) :
    routeRead (respOk s a0) site = routeRead s site := rfl

@[simp] theorem portInUse__respOk (s : State) (a0 : Word) (site router portEn : Nat) :
    portInUse_ (respOk s a0) site router portEn = portInUse_ s site router portEn := rfl

@[simp] theorem anyHeld_respOk (s : State) (a0 : Word) (site : Nat) :
    anyHeld (respOk s a0) site = anyHeld s site := rfl

@[simp] theorem fabStatus_respOk (s : State) (a0 : Word) (site : Nat) :
    fabStatus (respOk s a0) site = fabStatus s site := rfl

@[simp] theorem outOf_respOk (s : State) (a0 : Word) (site ni : Nat) (h : BitVec 256) :
    outOf (respOk s a0) site ni h = outOf s site ni h := rfl

@[simp] theorem getLink_respOk (s : State) (a0 : Word) (l : Nat) :
    getLink (respOk s a0) l = getLink s l := rfl

@[simp] theorem nbrLinksOf_respOk (s : State) (a0 : Word) (site : Nat) :
    nbrLinksOf (respOk s a0) site = nbrLinksOf s site := rfl

@[simp] theorem portsOn_respOk (s : State) (a0 : Word) (site r : Nat) :
    portsOn (respOk s a0) site r = portsOn s site r := rfl

@[simp] theorem routerHas_respOk (s : State) (a0 : Word) (site r sel : Nat) :
    routerHas (respOk s a0) site r sel = routerHas s site r sel := rfl

@[simp] theorem routeEnd_respOk (s : State) (a0 : Word) (site ni : Nat) (w : Word) :
    routeEnd (respOk s a0) site ni w = routeEnd s site ni w := rfl

@[simp] theorem entryEnd_respOk (s : State) (a0 : Word) (site ni dst : Nat) (nbr : Bool) :
    entryEnd (respOk s a0) site ni dst nbr = entryEnd s site ni dst nbr := rfl

@[simp] theorem takesNbr_respOk (s : State) (a0 : Word) (site ni : Nat) (h : BitVec 256) :
    takesNbr (respOk s a0) site ni h = takesNbr s site ni h := rfl

@[simp] theorem statSel_respOk (s : State) (a0 : Word) (site : Nat) :
    statSel (respOk s a0) site = statSel s site := rfl

@[simp] theorem linkOffer_respOk (s : State) (a0 : Word) (l : Nat) :
    linkOffer (respOk s a0) l = linkOffer s l := rfl

@[simp] theorem fuseBad_respOk (s : State) (a0 : Word) (l : Nat) :
    fuseBad (respOk s a0) l = fuseBad s l := rfl

@[simp] theorem getHp_respOk (s : State) (a0 : Word) (p : Port) :
    getHp (respOk s a0) p = getHp s p := rfl

@[simp] theorem msixRead_respOk (s : State) (a0 : Word) (p : Port) (f off n : Nat) (pba : Bool) :
    msixRead (respOk s a0) p f off n pba = msixRead s p f off n pba := rfl

@[simp] theorem semOwner_respOk (s : State) (a0 : Word) (k : Nat) :
    semOwner (respOk s a0) k = semOwner s k := rfl

@[simp] theorem getSpa_respOk (s : State) (a0 : Word) (n : Nat) :
    getSpa (respOk s a0) n = getSpa s n := rfl

@[simp] theorem netOn_respOk (s : State) (a0 : Word) :
    netOn (respOk s a0) = netOn s := rfl

@[simp] theorem spaIni_respOk (s : State) (a0 : Word) (n : Nat) :
    spaIni (respOk s a0) n = spaIni s n := rfl

@[simp] theorem getMac_respOk (s : State) (a0 : Word) (m : Nat) :
    getMac (respOk s a0) m = getMac s m := rfl

@[simp] theorem netIni_respOk (s : State) (a0 : Word) (b : Block) (n : Nat) :
    netIni (respOk s a0) b n = netIni s b n := rfl

@[simp] theorem macOn_respOk (s : State) (a0 : Word) (m : Nat) :
    macOn (respOk s a0) m = macOn s m := rfl

@[simp] theorem ringOf_respOk (s : State) (a0 : Word) (r : RegAddr) :
    ringOf (respOk s a0) r = ringOf s r := rfl

@[simp] theorem gclEntry_respOk (s : State) (a0 : Word) (m bank e : Nat) :
    gclEntry (respOk s a0) m bank e = gclEntry s m bank e := rfl

@[simp] theorem gclEntries_respOk (s : State) (a0 : Word) (m : Nat) (g : Gcl) :
    gclEntries (respOk s a0) m g = gclEntries s m g := rfl

@[simp] theorem gatesAt_respOk (s : State) (a0 : Word) (m : Nat) (g : Gcl) (t : Int) :
    gatesAt (respOk s a0) m g t = gatesAt s m g t := rfl

@[simp] theorem gateFits_respOk (s : State) (a0 : Word) (m cls dur : Nat) :
    gateFits (respOk s a0) m cls dur = gateFits s m cls dur := rfl

@[simp] theorem gateNever_respOk (s : State) (a0 : Word) (m cls dur : Nat) :
    gateNever (respOk s a0) m cls dur = gateNever s m cls dur := rfl

@[simp] theorem frerMatch_respOk (s : State) (a0 : Word) (f : List Byte) :
    frerMatch (respOk s a0) f = frerMatch s f := rfl

@[simp] theorem bufOk_respOk (s : State) (a0 : Word) (i : Initiator) (a n need : Nat) :
    bufOk (respOk s a0) i a n need = bufOk s i a n need := rfl

@[simp] theorem rxEntry_respOk (s : State) (a0 : Word) (m a : Nat) (f : List Byte) :
    rxEntry (respOk s a0) m a f = rxEntry s m a f := rfl

@[simp] theorem frameNs_respOk (s : State) (a0 : Word) (m len : Nat) :
    frameNs (respOk s a0) m len = frameNs s m len := rfl

@[simp] theorem shaperOk_respOk (s : State) (a0 : Word) (m cls : Nat) :
    shaperOk (respOk s a0) m cls = shaperOk s m cls := rfl

@[simp] theorem lengthOk_respOk (s : State) (a0 : Word) (m len : Nat) :
    lengthOk (respOk s a0) m len = lengthOk s m len := rfl

@[simp] theorem txFree_respOk (s : State) (a0 : Word) (m : Nat) :
    txFree (respOk s a0) m = txFree s m := rfl

@[simp] theorem macRings_respOk (s : State) (a0 : Word) (m : Nat) :
    macRings (respOk s a0) m = macRings s m := rfl

@[simp] theorem ethRingRule_respOk (s : State) (a0 : Word) (m : Nat) (v : Word) :
    ethRingRule (respOk s a0) m v = ethRingRule s m v := rfl

@[simp] theorem canOn_respOk (s : State) (a0 : Word) (k : Nat) :
    canOn (respOk s a0) k = canOn s k := rfl

@[simp] theorem canPasses_respOk (s : State) (a0 : Word) (k : Nat) (id : BitVec 32) :
    canPasses (respOk s a0) k id = canPasses s k id := rfl

@[simp] theorem canEntry_respOk (s : State) (a0 : Word) (f : CanFrame) :
    canEntry (respOk s a0) f = canEntry s f := rfl

@[simp] theorem canWire_respOk (s : State) (a0 : Word) (k : Nat) (e : List Byte) :
    canWire (respOk s a0) k e = canWire s k e := rfl

@[simp] theorem serCtlRule_respOk (s : State) (a0 : Word) (k : Nat) (v : Word) :
    serCtlRule (respOk s a0) k v = serCtlRule s k v := rfl

@[simp] theorem gpioBall_respOk (s : State) (a0 : Word) (pin : Nat) :
    gpioBall (respOk s a0) pin = gpioBall s pin := rfl

@[simp] theorem gpioRule_respOk (s : State) (a0 : Word) (pin : Nat) (v : Word) :
    gpioRule (respOk s a0) pin v = gpioRule s pin v := rfl

@[simp] theorem getDmc_respOk (s : State) (a0 : Word) (ch : Nat) :
    getDmc (respOk s a0) ch = getDmc s ch := rfl

@[simp] theorem dmcState_respOk (s : State) (a0 : Word) (ch : Nat) :
    dmcState (respOk s a0) ch = dmcState s ch := rfl

@[simp] theorem dmcUp_respOk (s : State) (a0 : Word) (ch : Nat) :
    dmcUp (respOk s a0) ch = dmcUp s ch := rfl

@[simp] theorem dmcServing_respOk (s : State) (a0 : Word) (ch : Nat) :
    dmcServing (respOk s a0) ch = dmcServing s ch := rfl

@[simp] theorem dmcRate_respOk (s : State) (a0 : Word) (ch : Nat) :
    dmcRate (respOk s a0) ch = dmcRate s ch := rfl

@[simp] theorem linesPerChannel_respOk (s : State) (a0 : Word) :
    linesPerChannel (respOk s a0) = linesPerChannel s := rfl

@[simp] theorem blindX8_respOk (s : State) (a0 : Word) (ch i : Nat) :
    blindX8 (respOk s a0) ch i = blindX8 s ch i := rfl

@[simp] theorem dmcStatus_respOk (s : State) (a0 : Word) (ch : Nat) :
    dmcStatus (respOk s a0) ch = dmcStatus s ch := rfl

@[simp] theorem inFill_respOk (s : State) (a0 : Word) (ch lo hi a : Nat) :
    inFill (respOk s a0) ch lo hi a = inFill s ch lo hi a := rfl

@[simp] theorem dmcOwns_respOk (s : State) (a0 : Word) (ch line : Nat) :
    dmcOwns (respOk s a0) ch line = dmcOwns s ch line := rfl

@[simp] theorem dmcDrain_respOk (s : State) (a0 : Word) (ch : Nat) (d : Dmc) :
    dmcDrain (respOk s a0) ch d = dmcDrain s ch d := rfl

@[simp] theorem slotType_respOk (s : State) (a0 : Word) (ch : Nat) :
    slotType (respOk s a0) ch = slotType s ch := rfl

@[simp] theorem refreshMust_respOk (s : State) (a0 : Word) (ch : Nat) (d : Dmc) (r : Nat) :
    refreshMust (respOk s a0) ch d r = refreshMust s ch d r := rfl

@[simp] theorem owedRank_respOk (s : State) (a0 : Word) (ch : Nat) (d : Dmc) (p : Nat → Bool) :
    owedRank (respOk s a0) ch d p = owedRank s ch d p := rfl

@[simp] theorem regulated_respOk (s : State) (a0 : Word) (ch : Nat) (q : DmcReq) :
    regulated (respOk s a0) ch q = regulated s ch q := rfl

@[simp] theorem softRead_respOk (s : State) (a0 : Word) (ch : Nat) (q : DmcReq) :
    softRead (respOk s a0) ch q = softRead s ch q := rfl

@[simp] theorem step6_respOk (s : State) (a0 : Word) (ch : Nat) (d : Dmc) (el : DmcReq → Bool) :
    step6 (respOk s a0) ch d el = step6 s ch d el := rfl

@[simp] theorem dmcPick_respOk (s : State) (a0 : Word) (ch : Nat) (busy : List Nat) :
    dmcPick (respOk s a0) ch busy = dmcPick s ch busy := rfl

@[simp] theorem dmcNext_respOk (s : State) (a0 : Word) (ch : Nat) (busy : List Nat) :
    dmcNext (respOk s a0) ch busy = dmcNext s ch busy := rfl

@[simp] theorem refreshSlots_respOk (s : State) (a0 : Word) (ch : Nat) :
    refreshSlots (respOk s a0) ch = refreshSlots s ch := rfl

@[simp] theorem slotsSuffice_respOk (s : State) (a0 : Word) (ch ns : Nat) :
    slotsSuffice (respOk s a0) ch ns = slotsSuffice s ch ns := rfl

@[simp] theorem granuleOk_respOk (s : State) (a0 : Word) (ch i mask : Nat) (uncorr : Bool) :
    granuleOk (respOk s a0) ch i mask uncorr = granuleOk s ch i mask uncorr := rfl

@[simp] theorem tcompTemp_respOk (s : State) (a0 : Word) (ch i : Nat) :
    tcompTemp (respOk s a0) ch i = tcompTemp s ch i := rfl

@[simp] theorem tcompBest_respOk (s : State) (a0 : Word) (ch : Nat) (t : Int) :
    tcompBest (respOk s a0) ch t = tcompBest s ch t := rfl

@[simp] theorem dmcQstat_respOk (s : State) (a0 : Word) (ch : Nat) :
    dmcQstat (respOk s a0) ch = dmcQstat s ch := rfl

@[simp] theorem dmcSlotstat_respOk (s : State) (a0 : Word) (ch : Nat) :
    dmcSlotstat (respOk s a0) ch = dmcSlotstat s ch := rfl

@[simp] theorem dmcPinCnt_respOk (s : State) (a0 : Word) (ch : Nat) :
    dmcPinCnt (respOk s a0) ch = dmcPinCnt s ch := rfl

@[simp] theorem dmcFieldRule_respOk (s : State) (a0 : Word) (ch page off : Nat) (v : Word) :
    dmcFieldRule (respOk s a0) ch page off v = dmcFieldRule s ch page off v := rfl

@[simp] theorem getPp_respOk (s : State) (a0 : Word) (x : Bool) :
    getPp (respOk s a0) x = getPp s x := rfl

@[simp] theorem pslOn_respOk (s : State) (a0 : Word) :
    pslOn (respOk s a0) = pslOn s := rfl

@[simp] theorem ppState_respOk (s : State) (a0 : Word) (x : Bool) :
    ppState (respOk s a0) x = ppState s x := rfl

@[simp] theorem ppUp_respOk (s : State) (a0 : Word) (x : Bool) :
    ppUp (respOk s a0) x = ppUp s x := rfl

@[simp] theorem ppCarries_respOk (s : State) (a0 : Word) (x : Bool) :
    ppCarries (respOk s a0) x = ppCarries s x := rfl

@[simp] theorem pslHead_respOk (s : State) (a0 : Word) :
    pslHead (respOk s a0) = pslHead s := rfl

@[simp] theorem pslAddr_respOk (s : State) (a0 : Word) :
    pslAddr (respOk s a0) = pslAddr s := rfl

@[simp] theorem pslValid_respOk (s : State) (a0 : Word) :
    pslValid (respOk s a0) = pslValid s := rfl

@[simp] theorem pslRing_respOk (s : State) (a0 : Word) :
    pslRing (respOk s a0) = pslRing s := rfl

@[simp] theorem safeOut_respOk (s : State) (a0 : Word) (x : Bool) :
    safeOut (respOk s a0) x = safeOut s x := rfl

@[simp] theorem wordOut_respOk (s : State) (a0 : Word) (x : Bool) (w : Word) (hseq : Nat) :
    wordOut (respOk s a0) x w hseq = wordOut s x w hseq := rfl

@[simp] theorem timePayload_respOk (s : State) (a0 : Word) (n : Nat) :
    timePayload (respOk s a0) n = timePayload s n := rfl

@[simp] theorem sampleOf_respOk (s : State) (a0 : Word) (x : Bool) (i : Nat) :
    sampleOf (respOk s a0) x i = sampleOf s x i := rfl

@[simp] theorem portInUse_respOk (s : State) (a0 : Word) (i : Nat) :
    portInUse (respOk s a0) i = portInUse s i := rfl

@[simp] theorem pslTick_respOk (s : State) (a0 : Word) (x : Bool) (l : List Byte) :
    pslTick (respOk s a0) x l = pslTick s x l := rfl

@[simp] theorem pslRxEntry_respOk (s : State) (a0 : Word) (f : PslFrame) (mirror : Bool) :
    pslRxEntry (respOk s a0) f mirror = pslRxEntry s f mirror := rfl

@[simp] theorem txWaits_respOk (s : State) (a0 : Word) (k : Nat) (safety : Bool) :
    txWaits (respOk s a0) k safety = txWaits s k safety := rfl

@[simp] theorem txTurn_respOk (s : State) (a0 : Word) (k : Nat) :
    txTurn (respOk s a0) k = txTurn s k := rfl

@[simp] theorem pslPortsFor_respOk (s : State) (a0 : Word) (dst : Nat) :
    pslPortsFor (respOk s a0) dst = pslPortsFor s dst := rfl

@[simp] theorem pslPanics_respOk (s : State) (a0 : Word) :
    pslPanics (respOk s a0) = pslPanics s := rfl

@[simp] theorem pslEntryRule_respOk (s : State) (a0 : Word) (r : RegAddr) (v : Word) :
    pslEntryRule (respOk s a0) r v = pslEntryRule s r v := rfl

@[simp] theorem pfwActive_respOk (s : State) (a0 : Word) :
    pfwActive (respOk s a0) = pfwActive s := rfl

@[simp] theorem shedOn_respOk (s : State) (a0 : Word) (d : Nat) :
    shedOn (respOk s a0) d = shedOn s d := rfl

@[simp] theorem quietCap_respOk (s : State) (a0 : Word) :
    quietCap (respOk s a0) = quietCap s := rfl

@[simp] theorem clkFloor_respOk (s : State) (a0 : Word) :
    clkFloor (respOk s a0) = clkFloor s := rfl

@[simp] theorem clkUpper_respOk (s : State) (a0 : Word) (d : Nat) :
    clkUpper (respOk s a0) d = clkUpper s d := rfl

@[simp] theorem clkCur_respOk (s : State) (a0 : Word) (d : Nat) :
    clkCur (respOk s a0) d = clkCur s d := rfl

@[simp] theorem clkRead_respOk (s : State) (a0 : Word) (d : Nat) :
    clkRead (respOk s a0) d = clkRead s d := rfl

@[simp] theorem staticRuns_respOk (s : State) (a0 : Word) :
    staticRuns (respOk s a0) = staticRuns s := rfl

@[simp] theorem slowEdges_respOk (s : State) (a0 : Word) :
    slowEdges (respOk s a0) = slowEdges s := rfl

@[simp] theorem padSlew_respOk (s : State) (a0 : Word) (w f : Nat) :
    padSlew (respOk s a0) w f = padSlew s w f := rfl

@[simp] theorem gpioSlew_respOk (s : State) (a0 : Word) (pin : Nat) :
    gpioSlew (respOk s a0) pin = gpioSlew s pin := rfl

@[simp] theorem clocksSpread_respOk (s : State) (a0 : Word) :
    clocksSpread (respOk s a0) = clocksSpread s := rfl

@[simp] theorem trcClkMax_respOk (s : State) (a0 : Word) :
    trcClkMax (respOk s a0) = trcClkMax s := rfl

@[simp] theorem tckMax_respOk (s : State) (a0 : Word) :
    tckMax (respOk s a0) = tckMax s := rfl

@[simp] theorem envelopeW_respOk (s : State) (a0 : Word) :
    envelopeW (respOk s a0) = envelopeW s := rfl

@[simp] theorem powerSum_respOk (s : State) (a0 : Word) :
    powerSum (respOk s a0) = powerSum s := rfl

@[simp] theorem powerCnt_respOk (s : State) (a0 : Word) :
    powerCnt (respOk s a0) = powerCnt s := rfl

@[simp] theorem clusters_respOk (s : State) (a0 : Word) :
    clusters (respOk s a0) = clusters s := rfl

@[simp] theorem domonWord_respOk (s : State) (a0 : Word) :
    domonWord (respOk s a0) = domonWord s := rfl

@[simp] theorem halfRuns_respOk (s : State) (a0 : Word) (d : Nat) :
    halfRuns (respOk s a0) d = halfRuns s d := rfl

@[simp] theorem hupV_respOk (s : State) (a0 : Word) :
    hupV (respOk s a0) = hupV s := rfl

@[simp] theorem hupE_respOk (s : State) (a0 : Word) (v : Nat) :
    hupE (respOk s a0) v = hupE s v := rfl

@[simp] theorem jrnBytes_respOk (s : State) (a0 : Word) (off n : Nat) :
    jrnBytes (respOk s a0) off n = jrnBytes s off n := rfl

@[simp] theorem jrnReq_respOk (s : State) (a0 : Word) (len : Nat) :
    jrnReq (respOk s a0) len = jrnReq s len := rfl

@[simp] theorem holdupLow_respOk (s : State) (a0 : Word) (len : Nat) :
    holdupLow (respOk s a0) len = holdupLow s len := rfl

@[simp] theorem jrnNeed_respOk (s : State) (a0 : Word) (len : Nat) :
    jrnNeed (respOk s a0) len = jrnNeed s len := rfl

@[simp] theorem jrnOwner_respOk (s : State) (a0 : Word) :
    jrnOwner (respOk s a0) = jrnOwner s := rfl

@[simp] theorem jrnRoom_respOk (s : State) (a0 : Word) :
    jrnRoom (respOk s a0) = jrnRoom s := rfl

@[simp] theorem jrnIdle_respOk (s : State) (a0 : Word) :
    jrnIdle (respOk s a0) = jrnIdle s := rfl

@[simp] theorem jrnCands_respOk (s : State) (a0 : Word) :
    jrnCands (respOk s a0) = jrnCands s := rfl

@[simp] theorem jrnValid_respOk (s : State) (a0 : Word) (o : Nat) :
    jrnValid (respOk s a0) o = jrnValid s o := rfl

@[simp] theorem jrnErased_respOk (s : State) (a0 : Word) (lo n : Nat) :
    jrnErased (respOk s a0) lo n = jrnErased s lo n := rfl

@[simp] theorem jrnLocked_respOk (s : State) (a0 : Word) (off : Nat) :
    jrnLocked (respOk s a0) off = jrnLocked s off := rfl

@[simp] theorem errPageByte_respOk (s : State) (a0 : Word) (page off : Nat) :
    errPageByte (respOk s a0) page off = errPageByte s page off := rfl

@[simp] theorem nextSeq_respOk (s : State) (a0 : Word) :
    nextSeq (respOk s a0) = nextSeq s := rfl

@[simp] theorem skuBytes_respOk (s : State) (a0 : Word) :
    skuBytes (respOk s a0) = skuBytes s := rfl

@[simp] theorem linkMode_respOk (s : State) (a0 : Word) (l : Nat) :
    linkMode (respOk s a0) l = linkMode s l := rfl

@[simp] theorem ammAbsent_respOk (s : State) (a0 : Word) (b : Block) (n : Nat) :
    ammAbsent (respOk s a0) b n = ammAbsent s b n := rfl

@[simp] theorem ammFlags_respOk (s : State) (a0 : Word) (b : Block) (n : Nat) :
    ammFlags (respOk s a0) b n = ammFlags s b n := rfl

@[simp] theorem ammAux_respOk (s : State) (a0 : Word) (b : Block) (n : Nat) :
    ammAux (respOk s a0) b n = ammAux s b n := rfl

@[simp] theorem ammEntry_respOk (s : State) (a0 : Word) (b : Block) (n : Nat) :
    ammEntry (respOk s a0) b n = ammEntry s b n := rfl

@[simp] theorem ammEntries_respOk (s : State) (a0 : Word) :
    ammEntries (respOk s a0) = ammEntries s := rfl

@[simp] theorem ammTable_respOk (s : State) (a0 : Word) :
    ammTable (respOk s a0) = ammTable s := rfl

@[simp] theorem classOk_respOk (s : State) (a0 : Word) (ty cls : Nat) :
    classOk (respOk s a0) ty cls = classOk s ty cls := rfl

@[simp] theorem slotsOf_respOk (s : State) (a0 : Word) (cls : Nat) :
    slotsOf (respOk s a0) cls = slotsOf s cls := rfl

@[simp] theorem revoked_respOk (s : State) (a0 : Word) (cls slot : Nat) :
    revoked (respOk s a0) cls slot = revoked s cls slot := rfl

@[simp] theorem slotMatches_respOk (s : State) (a0 : Word) (cls slot : Nat) (key : List Byte) :
    slotMatches (respOk s a0) cls slot key = slotMatches s cls slot key := rfl

@[simp] theorem liveSlots_respOk (s : State) (a0 : Word) (cls : Nat) :
    liveSlots (respOk s a0) cls = liveSlots s cls := rfl

@[simp] theorem koOk_respOk (s : State) (a0 : Word) (x : Img) (p : List Byte) :
    koOk (respOk s a0) x p = koOk s x p := rfl

@[simp] theorem contentOk_respOk (s : State) (a0 : Word) (x : Img) (p : List Byte) :
    contentOk (respOk s a0) x p = contentOk s x p := rfl

@[simp] theorem imgVerify_respOk (s : State) (a0 : Word) (x : Img) (types : List Nat) :
    imgVerify (respOk s a0) x types = imgVerify s x types := rfl

@[simp] theorem activeSlot_respOk (s : State) (a0 : Word) :
    activeSlot (respOk s a0) = activeSlot s := rfl

@[simp] theorem bseStatus_respOk (s : State) (a0 : Word) :
    bseStatus (respOk s a0) = bseStatus s := rfl

@[simp] theorem bscanOk_respOk (s : State) (a0 : Word) :
    bscanOk (respOk s a0) = bscanOk s := rfl

@[simp] theorem mcHeld_respOk (s : State) (a0 : Word) (c : Nat) :
    mcHeld (respOk s a0) c = mcHeld s c := rfl

@[simp] theorem getMeas_respOk (s : State) (a0 : Word) (p : Nat) :
    getMeas (respOk s a0) p = getMeas s p := rfl

@[simp] theorem measWord_respOk (s : State) (a0 : Word) (p : Nat) :
    measWord (respOk s a0) p = measWord s p := rfl

@[simp] theorem reportSite_respOk (s : State) (a0 : Word) (n : Nat) :
    reportSite (respOk s a0) n = reportSite s n := rfl

@[simp] theorem reportBody_respOk (s : State) (a0 : Word) (p : Nat) :
    reportBody (respOk s a0) p = reportBody s p := rfl

@[simp] theorem bseBegin_respOk (s : State) (a0 : Word) (m : BseCmd) :
    bseBegin (respOk s a0) m = bseBegin s m := rfl

@[simp] theorem handoverRecord_respOk (s : State) (a0 : Word) :
    handoverRecord (respOk s a0) = handoverRecord s := rfl

@[simp] theorem rcvHolder_respOk (s : State) (a0 : Word) :
    rcvHolder (respOk s a0) = rcvHolder s := rfl

@[simp] theorem getGrant_respOk (s : State) (a0 : Word) (p site : Nat) :
    getGrant (respOk s a0) p site = getGrant s p site := rfl

@[simp] theorem coreGrant_respOk (s : State) (a0 : Word) (c : Nat) :
    coreGrant (respOk s a0) c = coreGrant s c := rfl

@[simp] theorem grantWord_respOk (s : State) (a0 : Word) (p : Nat) :
    grantWord (respOk s a0) p = grantWord s p := rfl

@[simp] theorem dbgStateWord_respOk (s : State) (a0 : Word) (c : Nat) :
    dbgStateWord (respOk s a0) c = dbgStateWord s c := rfl

@[simp] theorem getLens_respOk (s : State) (a0 : Word) (p : Nat) :
    getLens (respOk s a0) p = getLens s p := rfl

@[simp] theorem hubCap_respOk (s : State) (a0 : Word) (p : Nat) :
    hubCap (respOk s a0) p = hubCap s p := rfl

@[simp] theorem hubOldest_respOk (s : State) (a0 : Word) (p : Nat) :
    hubOldest (respOk s a0) p = hubOldest s p := rfl

@[simp] theorem chalBytes_respOk (s : State) (a0 : Word) (level part mask : Nat) :
    chalBytes (respOk s a0) level part mask = chalBytes s level part mask := rfl

@[simp] theorem authResult_respOk (s : State) (a0 : Word) (m : BseCmd) :
    authResult (respOk s a0) m = authResult s m := rfl

@[simp] theorem sstatus_respOk (s : State) (a0 : Word) :
    sstatus (respOk s a0) = sstatus s := rfl

@[simp] theorem isM_respOk (s : State) (a0 : Word) (i : Initiator) :
    isM (respOk s a0) i = isM s i := rfl

@[simp] theorem chainSites_respOk (s : State) (a0 : Word) :
    chainSites (respOk s a0) = chainSites s := rfl

@[simp] theorem scanLen_respOk (s : State) (a0 : Word) (site : Nat) :
    scanLen (respOk s a0) site = scanLen s site := rfl

@[simp] theorem scanLoads_respOk (s : State) (a0 : Word) (bits : List Bool) (code : Nat) :
    scanLoads (respOk s a0) bits code = scanLoads s bits code := rfl

@[simp] theorem mayServe_respOk (s : State) (a0 : Word) (i : Initiator) (p : Nat) :
    mayServe (respOk s a0) i p = mayServe s i p := rfl

@[simp] theorem lensOf_respOk (s : State) (a0 : Word) (c : Nat) :
    lensOf (respOk s a0) c = lensOf s c := rfl

@[simp] theorem lensOn_respOk (s : State) (a0 : Word) (p c : Nat) :
    lensOn (respOk s a0) p c = lensOn s p c := rfl

@[simp] theorem ctxPart_respOk (s : State) (a0 : Word) (c : Nat) :
    ctxPart (respOk s a0) c = ctxPart s c := rfl

@[simp] theorem lensPasses_respOk (s : State) (a0 : Word) (p c : Nat) :
    lensPasses (respOk s a0) p c = lensPasses s p c := rfl

@[simp] theorem lensStamps_respOk (s : State) (a0 : Word) (p : Nat) :
    lensStamps (respOk s a0) p = lensStamps s p := rfl

@[simp] theorem syncBytes_respOk (s : State) (a0 : Word) (p c : Nat) :
    syncBytes (respOk s a0) p c = syncBytes s p c := rfl

@[simp] theorem dataTraced_respOk (s : State) (a0 : Word) (p : Nat) (bytes : List Byte) :
    dataTraced (respOk s a0) p bytes = dataTraced s p bytes := rfl

@[simp] theorem mayEmit_respOk (s : State) (a0 : Word) (p c : Nat) (ty : BitVec 4) (bytes : List Byte) :
    mayEmit (respOk s a0) p c ty bytes = mayEmit s p c ty bytes := rfl

@[simp] theorem lensDramOk_respOk (s : State) (a0 : Word) (p : Nat) :
    lensDramOk (respOk s a0) p = lensDramOk s p := rfl

@[simp] theorem sinkCap_respOk (s : State) (a0 : Word) (p : Nat) :
    sinkCap (respOk s a0) p = sinkCap s p := rfl

@[simp] theorem portTakes_respOk (s : State) (a0 : Word) (p : Nat) :
    portTakes (respOk s a0) p = portTakes s p := rfl

@[simp] theorem toPort_respOk (s : State) (a0 : Word) (p : Nat) :
    toPort (respOk s a0) p = toPort s p := rfl

@[simp] theorem lensCores_respOk (s : State) (a0 : Word) (p : Nat) :
    lensCores (respOk s a0) p = lensCores s p := rfl

@[simp] theorem trigReady_respOk (s : State) (a0 : Word) (p k c : Nat) :
    trigReady (respOk s a0) p k c = trigReady s p k c := rfl

@[simp] theorem postDone_respOk (s : State) (a0 : Word) (p t0 : Nat) (phase : Word) (rev : Bool) :
    postDone (respOk s a0) p t0 phase rev = postDone s p t0 phase rev := rfl

@[simp] theorem freshCores_respOk (s : State) (a0 : Word) :
    freshCores (respOk s a0) = freshCores s := rfl

@[simp] theorem rstoutLow_respOk (s : State) (a0 : Word) :
    rstoutLow (respOk s a0) = rstoutLow s := rfl

@[simp] theorem loopGet_respOk (s : State) (a0 : Word) (c l n : Nat) :
    loopGet (respOk s a0) c l n = loopGet s c l n := rfl

@[simp] theorem loopsActive_respOk (s : State) (a0 : Word) (c : Nat) :
    loopsActive (respOk s a0) c = loopsActive s c := rfl

@[simp] theorem rdataOk_respOk (s : State) (a0 : Word) (c : Nat) :
    rdataOk (respOk s a0) c = rdataOk s c := rfl

@[simp] theorem rdataGet_respOk (s : State) (a0 : Word) (c : Nat) :
    rdataGet (respOk s a0) c = rdataGet s c := rfl

@[simp] theorem instrOf_respOk (s : State) (a0 : Word) (c : CoreId) (w imm : W32) :
    instrOf (respOk s a0) c w imm = instrOf s c w imm := rfl

@[simp] theorem encodingAssigned_respOk (s : State) (a0 : Word) (c : Nat) (w : W32) :
    encodingAssigned (respOk s a0) c w = encodingAssigned s c w := rfl

@[simp] theorem sgHolder_respOk (s : State) (a0 : Word) (r : RegAddr) :
    sgHolder (respOk s a0) r = sgHolder s r := rfl

@[simp] theorem pageStatus_respOk (s : State) (a0 : Word) (r : RegAddr) :
    pageStatus (respOk s a0) r = pageStatus s r := rfl

@[simp] theorem commonShown_respOk (s : State) (a0 : Word) (r : RegAddr) :
    commonShown (respOk s a0) r = commonShown s r := rfl

@[simp] theorem tbShown_respOk (s : State) (a0 : Word) (n off : Nat) :
    tbShown (respOk s a0) n off = tbShown s n off := rfl

@[simp] theorem tbuShown_respOk (s : State) (a0 : Word) (page off : Nat) :
    tbuShown (respOk s a0) page off = tbuShown s page off := rfl

@[simp] theorem evrpShown_respOk (s : State) (a0 : Word) (p off : Nat) :
    evrpShown (respOk s a0) p off = evrpShown s p off := rfl

@[simp] theorem schedState_respOk (s : State) (a0 : Word) (c : Nat) :
    schedState (respOk s a0) c = schedState s c := rfl

@[simp] theorem xlines_respOk (s : State) (a0 : Word) (c : Nat) :
    xlines (respOk s a0) c = xlines s c := rfl

@[simp] theorem coreShown_respOk (s : State) (a0 : Word) (c page off : Nat) :
    coreShown (respOk s a0) c page off = coreShown s c page off := rfl

@[simp] theorem qepShown_respOk (s : State) (a0 : Word) (i : Initiator) (p off : Nat) :
    qepShown (respOk s a0) i p off = qepShown s i p off := rfl

@[simp] theorem fabShown_respOk (s : State) (a0 : Word) (n off : Nat) :
    fabShown (respOk s a0) n off = fabShown s n off := rfl

@[simp] theorem dmcShown_respOk (s : State) (a0 : Word) (ch off : Nat) :
    dmcShown (respOk s a0) ch off = dmcShown s ch off := rfl

@[simp] theorem mcpFaults_respOk (s : State) (a0 : Word) :
    mcpFaults (respOk s a0) = mcpFaults s := rfl

@[simp] theorem wdCounts_respOk (s : State) (a0 : Word) :
    wdCounts (respOk s a0) = wdCounts s := rfl

@[simp] theorem wdLeftShown_respOk (s : State) (a0 : Word) :
    wdLeftShown (respOk s a0) = wdLeftShown s := rfl

@[simp] theorem regComputed_respOk (s : State) (a0 : Word) (i : Initiator) (r : RegAddr) :
    regComputed (respOk s a0) i r = regComputed s i r := rfl

@[simp] theorem regShown_respOk (s : State) (a0 : Word) (i : Initiator) (r : RegAddr) :
    regShown (respOk s a0) i r = regShown s i r := rfl

@[simp] theorem readCause_respOk (s : State) (a0 : Word) (i : Initiator) (r : RegAddr) :
    readCause (respOk s a0) i r = readCause s i r := rfl

@[simp] theorem shownOrLens_respOk (s : State) (a0 : Word) (i : Initiator) (r : RegAddr) :
    shownOrLens (respOk s a0) i r = shownOrLens s i r := rfl

@[simp] theorem rekeyPart_respOk (s : State) (a0 : Word) (c : Nat) :
    rekeyPart (respOk s a0) c = rekeyPart s c := rfl

@[simp] theorem coreMhz_respOk (s : State) (a0 : Word) (c : Nat) :
    coreMhz (respOk s a0) c = coreMhz s c := rfl

@[simp] theorem opEnd_respOk (s : State) (a0 : Word) (c n : Nat) (t : Option Nat) :
    opEnd (respOk s a0) c n t = opEnd s c n t := rfl

@[simp] theorem writePriv_respOk (s : State) (a0 : Word) (i : Initiator) (r : RegAddr) (v : Word) :
    writePriv (respOk s a0) i r v = writePriv s i r v := rfl

@[simp] theorem spaDevAddr_respOk (s : State) (a0 : Word) (r : RegAddr) :
    spaDevAddr (respOk s a0) r = spaDevAddr s r := rfl

@[simp] theorem reachesWindow_respOk (s : State) (a0 : Word) (i : Initiator) (c : Nat) :
    reachesWindow (respOk s a0) i c = reachesWindow s i c := rfl

@[simp] theorem reachesCore_respOk (s : State) (a0 : Word) (i : Initiator) (c off : Nat) :
    reachesCore (respOk s a0) i c off = reachesCore s i c off := rfl

@[simp] theorem windowRefuses_respOk (s : State) (a0 : Word) (i : Initiator) (c off n : Nat) :
    windowRefuses (respOk s a0) i c off n = windowRefuses s i c off n := rfl

@[simp] theorem hpAddr_respOk (s : State) (a0 : Word) (p : Port) (f bar off : Nat) :
    hpAddr (respOk s a0) p f bar off = hpAddr s p f bar off := rfl

@[simp] theorem poisonRec_respOk (s : State) (a0 : Word) (c pa : Nat) :
    poisonRec (respOk s a0) c pa = poisonRec s c pa := rfl

@[simp] theorem hostAsked_respOk (s : State) (a0 : Word) (c pa n : Nat) :
    hostAsked (respOk s a0) c pa n = hostAsked s c pa n := rfl

@[simp] theorem resultHeld_respOk (s : State) (a0 : Word) (c pa : Nat) :
    resultHeld (respOk s a0) c pa = resultHeld s c pa := rfl

@[simp] theorem unalignOn_respOk (s : State) (a0 : Word) (c : Nat) :
    unalignOn (respOk s a0) c = unalignOn s c := rfl

@[simp] theorem fetchLocked_respOk (s : State) (a0 : Word) (c priv va : Nat) :
    fetchLocked (respOk s a0) c priv va = fetchLocked s c priv va := rfl

@[simp] theorem causeCfg_respOk (s : State) (a0 : Word) (c x : Nat) :
    causeCfg (respOk s a0) c x = causeCfg s c x := rfl

@[simp] theorem causeDl_respOk (s : State) (a0 : Word) (c x : Nat) :
    causeDl (respOk s a0) c x = causeDl s c x := rfl

@[simp] theorem handlePriv_respOk (s : State) (a0 : Word) (c x priv : Nat) :
    handlePriv (respOk s a0) c x priv = handlePriv s c x priv := rfl

@[simp] theorem vecBase_respOk (s : State) (a0 : Word) (c p : Nat) :
    vecBase (respOk s a0) c p = vecBase s c p := rfl

@[simp] theorem dbgCanEnter_respOk (s : State) (a0 : Word) (c : Nat) :
    dbgCanEnter (respOk s a0) c = dbgCanEnter s c := rfl

@[simp] theorem eventReady_respOk (s : State) (a0 : Word) (c l : Nat) :
    eventReady (respOk s a0) c l = eventReady s c l := rfl

@[simp] theorem emlOf_respOk (s : State) (a0 : Word) (c l : Nat) :
    emlOf (respOk s a0) c l = emlOf s c l := rfl

@[simp] theorem levelUp_respOk (s : State) (a0 : Word) (c : Nat) :
    levelUp (respOk s a0) c = levelUp s c := rfl

@[simp] theorem curBank_respOk (s : State) (a0 : Word) (c : Nat) :
    curBank (respOk s a0) c = curBank s c := rfl

@[simp] theorem rg_respOk (s : State) (a0 : Word) (c : Nat) (r : R5) :
    rg (respOk s a0) c r = rg s c r := rfl

@[simp] theorem dbgArmed_respOk (s : State) (a0 : Word) (c : Nat) :
    dbgArmed (respOk s a0) c = dbgArmed s c := rfl

@[simp] theorem ibpHit_respOk (s : State) (a0 : Word) (c : Nat) :
    ibpHit (respOk s a0) c = ibpHit s c := rfl

@[simp] theorem wpHit_respOk (s : State) (a0 : Word) (c va n : Nat) (store : Bool) :
    wpHit (respOk s a0) c va n store = wpHit s c va n store := rfl

@[simp] theorem illegalHead_respOk (s : State) (a0 : Word) (c : Nat) :
    illegalHead (respOk s a0) c = illegalHead s c := rfl

@[simp] theorem predKey_respOk (s : State) (a0 : Word) (c : Nat) :
    predKey (respOk s a0) c = predKey s c := rfl

@[simp] theorem predCtx_respOk (s : State) (a0 : Word) (c : Nat) :
    predCtx (respOk s a0) c = predCtx s c := rfl

@[simp] theorem btbAt_respOk (s : State) (a0 : Word) (c : Nat) (pc : Word) :
    btbAt (respOk s a0) c pc = btbAt s c pc := rfl

@[simp] theorem levelDown_respOk (s : State) (a0 : Word) (c : Nat) :
    levelDown (respOk s a0) c = levelDown s c := rfl

@[simp] theorem prismRuns_respOk (s : State) (a0 : Word) (c : Nat) :
    prismRuns (respOk s a0) c = prismRuns s c := rfl

@[simp] theorem pstatWord_respOk (s : State) (a0 : Word) (c : Nat) :
    pstatWord (respOk s a0) c = pstatWord s c := rfl

@[simp] theorem getPrism_respOk (s : State) (a0 : Word) (u : Nat) :
    getPrism (respOk s a0) u = getPrism s u := rfl

@[simp] theorem prismNext_respOk (s : State) (a0 : Word) (u : Nat) :
    prismNext (respOk s a0) u = prismNext s u := rfl

@[simp] theorem itlbHas_respOk (s : State) (a0 : Word) (c priv va : Nat) :
    itlbHas (respOk s a0) c priv va = itlbHas s c priv va := rfl

@[simp] theorem mayTranslate_respOk (s : State) (a0 : Word) (c : Nat) (va : Word) :
    mayTranslate (respOk s a0) c va = mayTranslate s c va := rfl

@[simp] theorem dirTaken_respOk (s : State) (a0 : Word) (c : Nat) (pc : Word) :
    dirTaken (respOk s a0) c pc = dirTaken s c pc := rfl

@[simp] theorem btbTaken_respOk (s : State) (a0 : Word) (c : Nat) (pc : Word) :
    btbTaken (respOk s a0) c pc = btbTaken s c pc := rfl

@[simp] theorem predTarget_respOk (s : State) (a0 : Word) (c : Nat) (pc : Word) (x : Xfer) :
    predTarget (respOk s a0) c pc x = predTarget s c pc x := rfl

@[simp] theorem predTaken_respOk (s : State) (a0 : Word) (c : Nat) (pc follow : Word) (x : Xfer) :
    predTaken (respOk s a0) c pc follow x = predTaken s c pc follow x := rfl

@[simp] theorem getPrefetch_respOk (s : State) (a0 : Word) (c : Nat) :
    getPrefetch (respOk s a0) c = getPrefetch s c := rfl

@[simp] theorem xpfDepth_respOk (s : State) (a0 : Word) (c : Nat) :
    xpfDepth (respOk s a0) c = xpfDepth s c := rfl

@[simp] theorem btbPc_respOk (s : State) (a0 : Word) (c : Nat) (e : Nat × BtbE) :
    btbPc (respOk s a0) c e = btbPc s c e := rfl

@[simp] theorem btbGoes_respOk (s : State) (a0 : Word) (c : Nat) (e : Nat × BtbE) :
    btbGoes (respOk s a0) c e = btbGoes s c e := rfl

end Sys2Proof.Machine
end

