-- ==== Sys2Proof/Laws/Time.lean ====
section
/-! SUPPORT. A nanosecond moves the count of time on by one, and nothing that happens within it does (R56). -/

namespace Sys2Proof.Machine

@[simp] theorem logErr_time (s : State) (e : ErrRec) : (logErr s e).time = s.time := by
  simp only [logErr]
  split <;> simp

@[simp] theorem gpeForce_time (s : State) (g k : Nat) : (gpeForce s g k).time = s.time := by
  simp only [gpeForce]
  repeat' split
  all_goals simp

@[simp] theorem gpeForceAll_time (s : State) (k : Nat) : (gpeForceAll s k).time = s.time :=
  foldl_proj State.time _ _ _ fun t g => gpeForce_time t g k

@[simp] theorem smgHealth_time (s : State) : (smgHealth s).time = s.time := by
  simp only [smgHealth]
  repeat' split
  all_goals simp

@[simp] theorem smgGoto_time (s : State) (st : Nat) : (smgGoto s st).time = s.time := by
  simp only [smgGoto]
  split <;> simp

@[simp] theorem smgSafe_time (s : State) (cause : Nat) : (smgSafe s cause).time = s.time := by
  simp only [smgSafe]
  split <;> simp

@[simp] theorem smgReport_time (s : State) (r : Rep) : (smgReport s r).time = s.time := by
  simp only [smgReport, smgReportWith]
  repeat' split
  all_goals simp

@[simp] theorem cmpDisarmNow_time (s : State) (m : Nat) : (cmpDisarmNow s m).time = s.time := rfl

@[simp] theorem setTarget_time (s : State) (m : Nat) (t : Word) : (setTarget s m t).time = s.time := by
  simp only [setTarget]
  repeat' split
  all_goals simp

@[simp] theorem cmpMirrorErr_time (s : State) (m : Nat) : (cmpMirrorErr s m).time = s.time := by
  simp [cmpMirrorErr]

@[simp] theorem cmpRearm_time (s : State) (m : Nat) (dir : Cross) (b : Word) : (cmpRearm s m dir b).time = s.time := by
  simp only [cmpRearm]
  repeat' split
  all_goals simp

@[simp] theorem cmpFire_time (s : State) (m : Nat) (dir : Cross) (late : Bool) (b : Word) (st : TbState) :
    (cmpFire s m dir late b st).time = s.time := by
  simp only [cmpFire]
  repeat' split
  all_goals simp

@[simp] theorem cmpRun_time (s : State) (m : Nat) (moves : List PhaseMove) : (cmpRun s m moves).time = s.time := by
  simp only [cmpRun]
  repeat' split
  all_goals simp
  refine (foldl_proj State.time _ _ _ fun t mv => ?_).trans (by simp)
  split
  · rfl
  · split <;> simp

@[simp] theorem gpeCross_time (s : State) (runs : List TbRun) (g : Nat) : (gpeCross s runs g).time = s.time := by
  simp only [gpeCross]
  repeat' split
  all_goals simp

@[simp] theorem wdogTick_time (s : State) : (wdogTick s).time = s.time := by
  simp only [wdogTick]
  split
  · rfl
  · exact foldl_proj State.time _ _ _ fun t p => by simp

theorem gpeCrosses_time (runs : List TbRun) (l : List Nat) (s : State) :
    (l.foldl (fun t g => gpeCross t runs g) s).time = s.time :=
  foldl_proj State.time _ _ _ fun t g => gpeCross_time t runs g

theorem cmpRuns_time (runs : List TbRun) (l : List Nat) (s : State) :
    (l.foldl (fun t m => cmpRun t m ((runs[rf t (Reg.CMP_CTL m) 7 4]?).elim [] TbRun.moves)) s).time = s.time :=
  foldl_proj State.time _ _ _ fun t m => cmpRun_time t m _

theorem tbConds_time (n : Nat) (l : List Nat) (s : State) : (l.foldl (fun u k => raiseCond u .tbu 0 (n + 1) k) s).time = s.time :=
  foldl_proj State.time _ _ _ fun u k => raiseCond_time u .tbu 0 (n + 1) k

/-- Out of power-on reset, a nanosecond advances the count by one. -/
theorem nanosecond_time (s : State) (h : s.pwr.por = false) : (nanosecond s).time = s.time + 1 := by
  simp only [nanosecond, h, Bool.false_eq_true, if_false]
  split
  · rfl
  · show State.time (cmpSettle _) + 1 = _
    rw [show ∀ u, (cmpSettle u).time = u.time from fun _ => rfl, show ∀ u r, (mcpCross u r).time = u.time from fun _ _ => rfl, gpeCrosses_time, cmpRuns_time]
    refine congrArg (· + 1) (Eq.trans (foldl_proj State.time _ _ _ ?_) rfl)
    intro t e
    rw [tbConds_time]
    split <;> rfl

end Sys2Proof.Machine
end

