-- ==== Sys2Proof/Tests/Slice0.lean ====
section
/-! SUPPORT. The model's own tests, and a witness for the hypotheses of every statement. -/

namespace Sys2Proof.Tests

open Sys2Proof.Machine

-- One theorem at a time: the many small evaluations below each wait for the kernel.
set_option Elab.async false

/-- A package out of power-on reset with every domain ON. -/
def base : State := { State.reset with pwr := { Pwr.reset with por := false }, dom := List.replicate 50 3 }

/-- The hub core, at M in partition 0 after reset. -/
def hub : Initiator := .core 384

/-- An agent that acts for partition 0. -/
def ag : Initiator := .agent 0 0

/-- Core 3 of partition 1 runs, its other registers as after reset. -/
def core3 : CoreSt := { CoreSt.reset 0 0 with running := true }

/-- A package whose core 3 runs for partition 1. -/
def cb : State := { base with cores := [(3, core3)], regs := [(rkey (Reg.PART_CORES 1 0), 8)] }

/-- A package whose core 3 is in the given state. -/
def cbWith (k : CoreSt) : State := { cb with cores := [(3, k)] }

/-- A package whose core 3, in the given state, belongs to partition 0, which no region confines. -/
def c0With (k : CoreSt) : State := { base with cores := [(3, k)], regs := [(rkey (Reg.PART_CORES 0 0), 8)] }

/-- The guard that is always true. -/
def g0 : Guard := { ps := false, pg := 0 }

/-- A package whose core 3, in the given state, belongs to partition 0, with DRAM channel 0 in service and zeroed
but for a mirrored 0 at address 0. -/
def d0With (k : CoreSt) : State :=
  { c0With k with
    regs := (c0With k).regs.set (rkey (Reg.DMC_STATUS 0)) 2
    fills := [{ lo := 0, hi := 255, ch := 0, nch := 16 }]
    mem := [(4, 255), (5, 255), (6, 255), (7, 255)] }

/-- An effect that is not refused. -/
theorem getD_some (x : Option State) (h : x.isSome = true) : x = some (x.getD base) := by
  cases x with
  | none => cases h
  | some _ => rfl

/-- A read that is not refused. -/
theorem getD_pair (x : Option (State × Word)) (h : x.isSome = true) : x = some ((x.getD (base, 0)).1, (x.getD (base, 0)).2) := by
  cases x with
  | none => cases h
  | some _ => rfl

/-- A state that meets the hypotheses of `FrontCommandRuns`. -/
theorem witness_FrontCommandRuns : ∃ s : State, s.pending = [] :=
  ⟨State.reset, rfl⟩

/-- States and operands that meet the hypotheses of each clause of `RegisterWritesComplete`. -/
theorem witness_RegisterWritesComplete :
    (∃ (s : State) (i : Initiator) (r : RegAddr) (width : Nat) (v : Word), (isVaddr r = false) ∧ (isDataPage r.ty r.inst r.page = false) ∧ (isHsem r = false) ∧ (openToAll r = false) ∧ (0x100 ≤ r.off) ∧ (widthOk r width = true) ∧ (Safety.Accepted s i r) ∧ ((m0Only r && !isM0 s i) = false) ∧ (writePriv s i r v = true) ∧ (writable r = true) ∧ (isMwSlot r = false)) ∧
    (∃ (s : State) (i : Initiator) (r : RegAddr) (width : Nat) (v : Word) (row : RegRow), (isVaddr r = false) ∧ (isDataPage r.ty r.inst r.page = false) ∧ (isHsem r = false) ∧ (openToAll r = false) ∧ (0x100 ≤ r.off) ∧ (widthOk r width = true) ∧ (Safety.Accepted s i r) ∧ ((m0Only r && !isM0 s i) = false) ∧ (writePriv s i r v = true) ∧ (writable r = true) ∧ (isMwSlot r = false) ∧ (findRow r.ty r.page r.off = some row) ∧ (r.ty = .err ∨ r.ty = .prism ∨ r.ty = .csd) ∧ (r.off ≠ 0x118) ∧ (r.off ≠ 0x120)) ∧
    (∃ (s : State) (i : Initiator) (r : RegAddr) (width : Nat) (v : Word), (isVaddr r = false) ∧ (isDataPage r.ty r.inst r.page = false) ∧ (isHsem r = false) ∧ (openToAll r = false) ∧ (0x100 ≤ r.off) ∧ (widthOk r width = true) ∧ (Safety.Accepted s i r) ∧ ((m0Only r && !isM0 s i) = false) ∧ (writePriv s i r v = true) ∧ (writable r = false)) ∧
    (∃ (s : State) (i : Initiator) (r : RegAddr) (v : Word) (mirror : Bool), (isVaddr r = false) ∧ (isDataPage r.ty r.inst r.page = false) ∧ (isHsem r = false) ∧ (openToAll r = false) ∧ (0x100 ≤ r.off) ∧ (widthOk r 64 = true) ∧ (Safety.Accepted s i r) ∧ ((m0Only r && !isM0 s i) = false) ∧ (writePriv s i r v = true) ∧ (writable r = true) ∧ (isMwSlot r = true) ∧ (r.ty = .tbu)) ∧
    (∃ (s : State) (i : Initiator) (r : RegAddr) (v : Word) (mirror : Bool), (isVaddr r = false) ∧ (isDataPage r.ty r.inst r.page = false) ∧ (isHsem r = false) ∧ (openToAll r = false) ∧ (0x100 ≤ r.off) ∧ (widthOk r 64 = true) ∧ (Safety.Accepted s i r) ∧ ((m0Only r && !isM0 s i) = false) ∧ (writePriv s i r v = true) ∧ (writable r = true) ∧ (isMwSlot r = true) ∧ (r.ty = .tbu) ∧ (17 ≤ r.page ∧ r.page ≤ 32) ∧ ((r.off - 0x100) % 0x40 = 0x18) ∧ (mirrorOk v = true) ∧ (rb s (Reg.CMP_CTL (16 * (r.page - 17) + (r.off - 0x100) / 0x40)) 0 = false)) :=
  ⟨⟨base, hub, Reg.ERR_RDSEQ, 32, 5, by decide +kernel⟩,
   ⟨base, hub, Reg.ERR_RDSEQ, 32, 5, { row0 "ERR_RDSEQ" 0 0 0x108 32 with rw := 0xFFFFFFFF }, by decide +kernel⟩,
   ⟨base, hub, { Reg.ERR_RDSEQ with off := 0x10C }, 32, 5, by decide +kernel⟩,
   ⟨base, hub, Reg.CMP_TARGET_MWL 0, 0xFFFFFFFF00000000, false, by decide +kernel⟩,
   ⟨base, hub, Reg.CMP_TARGET_MWL 0, 0xFFFFFFF00000000F, false, by decide +kernel⟩⟩

/-- States and operands that meet the hypotheses of each clause of `PageCommandsComplete`. -/
theorem witness_PageCommandsComplete :
    (∃ (s : State) (i : Initiator) (r : RegAddr) (row : RegRow) (width : Nat), (cutOff s i r.ty r.inst = false) ∧ (reaches s i r = true) ∧ (widthOk r width = true) ∧ (isDebugView i = false) ∧ (r.ty = .err ∨ r.ty = .pwr ∨ r.ty = .fab ∨ r.ty = .gpe) ∧ (0x100 ≤ r.off) ∧ (regComputed s i r = none) ∧ (findRow r.ty r.page r.off = some row) ∧ (row.rc = true)) ∧
    (∃ (s : State) (i : Initiator) (b : Block) (n page off : Nat) (v : W32) (m old : Word), (isDataPage b n page = false) ∧ (cutOff s i b n = false) ∧ (reaches s i ⟨b, n, page, 0x018⟩ = true) ∧ ((m0Only ⟨b, n, page, 0x018⟩ && !isM0 s i) = false) ∧ (writePriv s i ⟨b, n, page, 0x018⟩ (w32 v) = true) ∧ (condCount b page ≠ 0) ∧ (m = BitVec.ofNat 64 (2 ^ condCount b page - 1) &&& w32 v) ∧ (old = rd s (evtStatus b n page))) ∧
    (∃ (s : State) (i : Initiator) (b : Block) (n page off : Nat) (v : W32) (m old : Word), (isDataPage b n page = false) ∧ (cutOff s i b n = false) ∧ (reaches s i ⟨b, n, page, 0x01C⟩ = true) ∧ ((m0Only ⟨b, n, page, 0x01C⟩ && !isM0 s i) = false) ∧ (writePriv s i ⟨b, n, page, 0x01C⟩ (w32 v) = true) ∧ (condCount b page ≠ 0) ∧ (m = BitVec.ofNat 64 (2 ^ condCount b page - 1) &&& w32 v) ∧ (old = rd s (evtStatus b n page))) ∧
    (∃ (s : State) (i : Initiator) (r : RegAddr) (width : Nat) (v : Word), (isDataPage r.ty r.inst r.page = true) ∧ (r.ty = .eth ∨ r.ty = .mvb) ∧ (Safety.Accepted s i r) ∧ (dataWidthOk r.off width = true)) ∧
    (∃ (s : State) (i : Initiator) (r : RegAddr) (width : Nat), (isDataPage r.ty r.inst r.page = true) ∧ (r.ty = .eth ∨ r.ty = .mvb ∨ r.ty = .bse) ∧ (Safety.Accepted s i r) ∧ (dataWidthOk r.off width = true)) ∧
    (∃ (s : State) (i : Initiator) (r : RegAddr) (width : Nat), (r.ty = .err) ∧ (1 ≤ r.page) ∧ (Safety.Accepted s i r) ∧ (dataWidthOk r.off width = true)) ∧
    (∃ (s : State) (i : Initiator) (r : RegAddr) (width : Nat) (v : Word), (r.ty = .spa) ∧ (16 ≤ r.page) ∧ (Safety.Accepted s i r) ∧ (dataWidthOk r.off width = true) ∧ ((getSpa s r.inst).up = true)) ∧
    (∃ (s : State) (i : Initiator) (r : RegAddr) (write : Bool), (unreachable s r.ty r.inst = true)) ∧
    (∃ (s : State) (i : Initiator) (c : CoreId) (off : BitVec 20) (write : Bool), (unreachable s .core c = true)) ∧
    (∃ (s : State) (i : Initiator) (c : CoreId) (off : BitVec 20) (width : Nat) (v : Word) (u : State), (off.toNat < 0xF0000) ∧ (windowRefuses s i c off.toNat (width / 8) = none) ∧ ((memWrite s (aliasAddr c off.toNat) (leBytes (width / 8) v.toNat) false).toOption = some u) ∧ ((leBytes (width / 8) v.toNat).length = width / 8)) ∧
    (∃ (s : State) (i : Initiator) (c : CoreId) (off : BitVec 20) (width : Nat) (l : List Byte) (p : Bool), (off.toNat < 0xF0000) ∧ (windowRefuses s i c off.toNat (width / 8) = none) ∧ (memRead s (aliasAddr c off.toNat) (width / 8) = .data l p)) ∧
    (∃ (s : State) (p : Part) (r : RegAddr) (width : Nat), (isDataPage r.ty r.inst r.page = false) ∧ (cutOff s (viewIni p) r.ty r.inst = false) ∧ (widthOk r width = true) ∧ (isHsem r = false) ∧ (reaches s (viewIni p) r = true) ∧ (readCause s (viewIni p) r = none) ∧ (r.ty ≠ .spa)) ∧
    (∃ (s : State) (i : Initiator) (page : Fin 64) (off : BitVec 12) (width : Nat) (v : Word), (Safety.Accepted s i ⟨.err, 0, 1 + page.val, off.toNat⟩) ∧ (dataWidthOk off.toNat width = true)) :=
  ⟨⟨base, hub, Reg.ERR_LOST, { row0 "ERR_LOST" 0 0 0x10C 32 with rc := true }, 32, by decide +kernel⟩,
   ⟨base, hub, .gpe, 0, 0, 0, 5, 5, 0, by decide +kernel⟩,
   ⟨base, hub, .gpe, 0, 0, 0, 5, 5, 0, by decide +kernel⟩,
   ⟨base, hub, ⟨.eth, 0, 1, 8⟩, 32, 5, by decide +kernel⟩,
   ⟨base, hub, ⟨.eth, 0, 1, 8⟩, 32, by decide +kernel⟩,
   ⟨base, hub, ⟨.err, 0, 1, 8⟩, 32, by decide +kernel⟩,
   ⟨{ base with spas := [{ Spa.reset with up := true }, Spa.reset] }, hub, ⟨.spa, 0, 16, 8⟩, 32, 3, by decide +kernel⟩,
   ⟨State.reset, hub, Reg.GPE_CTL 0, true, by decide +kernel⟩,
   ⟨State.reset, hub, 0, 0, true, by decide +kernel⟩,
   ⟨base, hub, 3, 16, 32, 7, wrBytes base (aliasAddr 3 16) [7, 0, 0, 0], by decide +kernel⟩,
   ⟨base, hub, 3, 16, 32, [0, 0, 0, 0], false, by decide +kernel⟩,
   ⟨base, 0, Reg.ERR_LOST, 32, by decide +kernel⟩,
   ⟨base, hub, 0, 8, 32, 5, by decide +kernel⟩⟩

/-- States and operands that meet the hypotheses of each clause of `ErrorLogCommandsComplete`. -/
theorem witness_ErrorLogCommandsComplete :
    (∃ (s : State) (e : ErrRec), (errPick s.err.staging = some e)) ∧
    (∃ (s u : State) (seq : Nat) (e : ErrRec) (l : List (Nat × ErrRec)), (s.err.toCopy = (seq, e) :: l) ∧ (rb s Reg.ERR_COPY 0 = true) ∧ ((agWrite { s with err := { s.err with toCopy := l } } (endpointOf .err 0) ((rd s Reg.ERR_COPYBASE).toNat + 64 * (seq % 2 ^ rf s Reg.ERR_COPY 1 5)) (errBytes seq e) false).toOption = some u)) ∧
    (∃ (s : State) (i : Initiator) (v : W32), (Safety.AcceptedM0 s i Reg.ERR_COPY) ∧ (12 ≤ fld (w32 v) 1 5 ∧ fld (w32 v) 1 5 ≤ 24) ∧ ((rd s Reg.ERR_COPYBASE).toNat % (64 * 2 ^ fld (w32 v) 1 5) = 0) ∧ ((rd s Reg.ERR_COPYBASE).toNat + 64 * 2 ^ fld (w32 v) 1 5 ≤ dramCapacity s) ∧ (rb s Reg.ERR_COPY 0 = false)) ∧
    (∃ (s u v : State), (s.ammin = none) ∧ (s.pwr.inReset = false) ∧ (s.pwr.por = false) ∧ ((getCore s 384).running = false) ∧ (((upto 49).any fun l => linkExists s l && linkState s l == 1) = false) ∧ (v = ((upto 12).filter fun n => populated s n && linkState s n == 0 && !siteAbsent s n).foldl markAbsent s) ∧ (u = if linkState v 48 = 0 then storeAbsent v else v)) :=
  ⟨⟨logErr base (errRec base 1 1 .gpe 0), errRec base 1 1 .gpe 0, by decide +kernel⟩,
   ⟨{ base with err := { base.err with toCopy := [(1, errRec base 1 1 .gpe 0)] }, regs := [(rkey Reg.ERR_COPY, 0x19), (rkey Reg.ERR_COPYBASE, 0xF10000000000)] }, { base with mem := memSetBytes [] [] 0xF10000000040 (errBytes 1 (errRec base 1 1 .gpe 0)), regs := [(rkey Reg.ERR_COPY, 0x19), (rkey Reg.ERR_COPYBASE, 0xF10000000000)] }, 1, errRec base 1 1 .gpe 0, [], by decide +kernel⟩,
   ⟨base, hub, 25, by decide +kernel⟩,
   ⟨{ base with regs := ([48] ++ upto 12).map fun n => (rkey (Reg.D2D_STATUS n), 2) }, { base with regs := ([48] ++ upto 12).map fun n => (rkey (Reg.D2D_STATUS n), 2) }, { base with regs := ([48] ++ upto 12).map fun n => (rkey (Reg.D2D_STATUS n), 2) }, by decide +kernel⟩⟩

/-- States and operands that meet the hypotheses of each clause of `EncoderAndTickCommandsComplete`. -/
theorem witness_EncoderAndTickCommandsComplete :
    (∃ (s : State), (s.pwr.por = false)) ∧
    (∃ (s : State) (e : Fin 8) (level : Bool), (domOn s 46 = true)) ∧
    (∃ (s : State) (e : Fin 8) (level : Bool), (domOn s 46 = true)) ∧
    (∃ (s : State) (e : Fin 8) (level : Bool), (domOn s 46 = true)) ∧
    (∃ (s : State) (e : Fin 8), (domOn s 46 = true) ∧ ((getEnc s e).a.due s.time (encFilt s e) = true)) ∧
    (∃ (s : State) (e : Fin 8), (domOn s 46 = true) ∧ ((getEnc s e).a.due s.time (encFilt s e) = false) ∧ ((getEnc s e).b.due s.time (encFilt s e) = true)) ∧
    (∃ (s : State) (e : Fin 8), (domOn s 46 = true) ∧ ((getEnc s e).a.due s.time (encFilt s e) = true)) ∧
    (∃ (s : State) (e : Fin 8), (domOn s 46 = true) ∧ ((getEnc s e).a.due s.time (encFilt s e) = false) ∧ ((getEnc s e).b.due s.time (encFilt s e) = true)) ∧
    (∃ (s : State) (e : Fin 8) (lv : Bool), (domOn s 46 = true) ∧ ((getEnc s e).z.due s.time (encFilt s e) = true) ∧ (lv = ((getEnc s e).z.take.acc != rb s (Reg.ENC_CTL e) 14))) ∧
    (∃ (s : State) (e : Fin 8), (domOn s 46 = true) ∧ ((getEnc s e).zRise = true)) ∧
    (∃ (s : State) (i : Initiator) (e : Fin 8) (v : W32), (Safety.Accepted s i (Reg.ENC_CTL e)) ∧ (fld (w32 v) 0 10 ≤ 1000)) ∧
    (∃ (s : State) (i : Initiator) (e : Fin 8) (v : W32), (Safety.Accepted s i (Reg.ENC_CTL e)) ∧ (1000 < fld (w32 v) 0 10)) ∧
    (∃ (s : State) (k : Fin 4) (phase : Word), (domOn s 46 = true) ∧ (rb s (Reg.SDP_CTL k) 0 = true) ∧ (rb s (Reg.SDP_STATUS k) 3 = true)) ∧
    (∃ (s : State) (m : Fin 12) (c : PtpClk), (domOn s 46 = true) ∧ (s.ptp[m.val]? = some c) ∧ (rb s (Reg.ETH_PTP_CTL m) 0 = true) ∧ (macT s m / 1000 ≠ c.us)) ∧
    (∃ (s : State), (domOn s 46 = true) ∧ (s.time % 1000 = 0)) :=
  ⟨⟨base, by decide +kernel⟩,
   ⟨base, 3, true, by decide +kernel⟩,
   ⟨base, 3, true, by decide +kernel⟩,
   ⟨base, 3, true, by decide +kernel⟩,
   ⟨{ base with time := 100, fio := { base.fio with encs := List.replicate 8 { Encoder.reset with a := { EncPin.reset with raw := true } } } }, 3, by decide +kernel⟩,
   ⟨{ base with time := 100, fio := { base.fio with encs := List.replicate 8 { Encoder.reset with b := { EncPin.reset with raw := true } } } }, 3, by decide +kernel⟩,
   ⟨{ base with time := 100, fio := { base.fio with encs := List.replicate 8 { Encoder.reset with a := { EncPin.reset with raw := true } } } }, 3, by decide +kernel⟩,
   ⟨{ base with time := 100, fio := { base.fio with encs := List.replicate 8 { Encoder.reset with b := { EncPin.reset with raw := true } } } }, 3, by decide +kernel⟩,
   ⟨{ base with time := 100, fio := { base.fio with encs := List.replicate 8 { Encoder.reset with z := { EncPin.reset with raw := true } } } }, 3, true, by decide +kernel⟩,
   ⟨{ base with fio := { base.fio with encs := List.replicate 8 { Encoder.reset with zRise := true } } }, 3, by decide +kernel⟩,
   ⟨base, hub, 3, 0x4005, by decide +kernel⟩,
   ⟨base, hub, 3, 0x3F0, by decide +kernel⟩,
   ⟨{ base with regs := [(rkey (Reg.SDP_CTL 2), 1), (rkey (Reg.SDP_STATUS 2), 8)] }, 2, 7, by decide +kernel⟩,
   ⟨{ base with regs := [(rkey (Reg.ETH_PTP_CTL 2), 1)], ptp := List.replicate 12 { t := 2 ^ 40 * 1000, us := 0 } }, 2, { t := 2 ^ 40 * 1000, us := 0 }, by decide +kernel⟩,
   ⟨base, by decide +kernel⟩⟩

/-- States and operands that meet the hypotheses of each clause of `TimeBaseCommandsComplete`. -/
theorem witness_TimeBaseCommandsComplete :
    (∃ (s : State) (n : Fin 16), (domOn s 46 = true) ∧ (tbEn s n = true) ∧ (tbSrc s n = 1) ∧ ((getTb s n).st = .tracking) ∧ ((getTb s n).standstill = false) ∧ ((getTb s n).tLast + (getTb s n).force.timeout ≤ s.time)) ∧
    (∃ (s : State) (n : Fin 16), (domOn s 46 = true) ∧ (tbEn s n = true) ∧ (2 ≤ tbSrc s n) ∧ ((getTb s n).st = .tracking) ∧ ((getTb s n).tLast + (getTb s n).force.timeout ≤ s.time)) ∧
    (∃ (s : State) (n : Fin 16), (domOn s 46 = true) ∧ ((getTb s n).st = .holdover) ∧ ((getTb s n).entered + 1000 * (getTb s n).force.hold ≤ s.time)) ∧
    (∃ (s : State) (n : Fin 16), (domOn s 46 = true) ∧ ((getTb s n).st = .holdover) ∧ ((getTb s n).grown < (s.time - (getTb s n).entered) / 1000)) ∧
    (∃ (s : State) (i : Initiator) (n : Fin 16) (v : W32) (new : Word), (Safety.Accepted s i (Reg.TB_CTL n)) ∧ (new = BitVec.ofNat 64 ((w32 v).toNat % 2 ^ 15 + (if bit (w32 v) 16 then 2 ^ 16 else 0))) ∧ (tbSrcOk (fld new 1 3) (fld new 4 4) = true) ∧ (rb s (Reg.TB_CTL n) 0 = false) ∧ (bit new 0 = true)) ∧
    (∃ (s : State) (i : Initiator) (n : Fin 16) (v : W32) (new : Word), (Safety.Accepted s i (Reg.TB_CTL n)) ∧ (new = BitVec.ofNat 64 ((w32 v).toNat % 2 ^ 15 + (if bit (w32 v) 16 then 2 ^ 16 else 0))) ∧ (tbSrcOk (fld new 1 3) (fld new 4 4) = true) ∧ (rb s (Reg.TB_CTL n) 0 = true) ∧ (bit new 0 = false) ∧ (fld new 1 3 = tbSrc s n) ∧ (fld new 4 4 = tbIdx s n) ∧ (fld new 12 2 = rf s (Reg.TB_CTL n) 12 2)) ∧
    (∃ (s : State) (i : Initiator) (n : Fin 16) (v : W32) (new : Word), (Safety.Accepted s i (Reg.TB_CTL n)) ∧ (new = BitVec.ofNat 64 ((w32 v).toNat % 2 ^ 15 + (if bit (w32 v) 16 then 2 ^ 16 else 0))) ∧ (tbSrcOk (fld new 1 3) (fld new 4 4) = true) ∧ (rb s (Reg.TB_CTL n) 0 = true) ∧ (bit new 0 = true) ∧ (bit (w32 v) 15 = true) ∧ (fld new 1 3 = tbSrc s n) ∧ (fld new 4 4 = tbIdx s n) ∧ (fld new 12 2 = rf s (Reg.TB_CTL n) 12 2)) ∧
    (∃ (s : State) (i : Initiator) (n : Fin 16) (v : Word), (Safety.Accepted s i (Reg.TB_SET n))) ∧
    (∃ (s : State) (i : Initiator) (n : Fin 16) (v : Word), (Safety.Accepted s i (Reg.TB_STEP n))) ∧
    (∃ (s : State) (i : Initiator) (n : Fin 16), (Safety.Accepted s i (Reg.TB_CAPTURE n))) ∧
    (∃ (s : State) (i : Initiator) (k : Fin 4) (v : W32), (Safety.Accepted s i (Reg.SDP_CTL k)) ∧ (bit (w32 v) 0 = true) ∧ (sdpPrimaryOk s (fld (w32 v) 1 5) = true)) ∧
    (∃ (s : State) (i : Initiator) (k : Fin 4) (v : W32), (Safety.Accepted s i (Reg.SDP_CTL k)) ∧ (bit (w32 v) 0 = false)) ∧
    (∃ (s : State) (k : Fin 4) (diff : Nat), (domOn s 46 = true) ∧ (rb s (Reg.SDP_CTL k) 0 = true) ∧ (rb s (Reg.SDP_CTL k) 11 = true) ∧ (rf s (Reg.SDP_CHKTHR k) 0 16 * 1000000 < diff * rf s (Reg.SDP_VSCALE k) 0 32)) ∧
    (∃ (s : State) (k : Fin 4) (mean : Int) (rms freq c : Nat), (domOn s 46 = true) ∧ (rb s (Reg.SDP_CTL k) 0 = true) ∧ (c = supplyClass s k mean rms freq)) ∧
    (∃ (s : State) (k : Fin 4) (freq : Nat), (domOn s 46 = true) ∧ (rb s (Reg.SDP_CTL k) 0 = true) ∧ (3 ≤ rf s (Reg.SDP_STATUS k) 0 3)) ∧
    (∃ (s : State) (k : Fin 4) (rms : Nat), (domOn s 46 = true) ∧ (rb s (Reg.SDP_STATUS k) 3 = true) ∧ (rms * rf s (Reg.SDP_VSCALE k) 0 32 < rf s (Reg.SDP_THR2 k) 16 16 * 1000000)) ∧
    (∃ (s : State), (domOn s 46 = true) ∧ (rb s Reg.TBU_AXLE_CTL 16 = true) ∧ (((upto 16).filter fun n => rb s Reg.TBU_AXLE_CTL n && (getTb s n).st == .tracking && tbEn s n) = [])) ∧
    (∃ (s : State) (ref vmin : Int), (domOn s 46 = true) ∧ (rb s Reg.TBU_AXLE_CTL 16 = true) ∧ (median (((upto 16).filter fun n => rb s Reg.TBU_AXLE_CTL n && (getTb s n).st == .tracking && tbEn s n).map fun n => (getTb s n).rate) = some ref) ∧ (vmin = (rd s Reg.TBU_AXLE_VMIN).toInt) ∧ (vmin ≤ (ref.natAbs : Int))) :=
  ⟨⟨{ base with time := 10000000, regs := [(rkey (Reg.TB_CTL 3), 3)], fio := { base.fio with tbs := List.replicate 16 { TimeBase.reset with st := .tracking } } }, 3, by decide +kernel⟩,
   ⟨{ base with time := 10000000, regs := [(rkey (Reg.TB_CTL 3), 5)], fio := { base.fio with tbs := List.replicate 16 { TimeBase.reset with st := .tracking } } }, 3, by decide +kernel⟩,
   ⟨{ base with time := 10000000, fio := { base.fio with tbs := List.replicate 16 { TimeBase.reset with st := .holdover } } }, 3, by decide +kernel⟩,
   ⟨{ base with time := 10000000, fio := { base.fio with tbs := List.replicate 16 { TimeBase.reset with st := .holdover } } }, 3, by decide +kernel⟩,
   ⟨base, hub, 3, 3, 3, by decide +kernel⟩,
   ⟨{ base with regs := [(rkey (Reg.TB_CTL 3), 3)] }, hub, 3, 2, 2, by decide +kernel⟩,
   ⟨{ base with regs := [(rkey (Reg.TB_CTL 3), 3)] }, hub, 3, 0x8003, 3, by decide +kernel⟩,
   ⟨base, hub, 3, 9, by decide +kernel⟩,
   ⟨base, hub, 3, 9, by decide +kernel⟩,
   ⟨base, hub, 3, by decide +kernel⟩,
   ⟨{ base with regs := [(rkey (Reg.SDM_CLK 0), 0x132), (rkey (Reg.SDMCH_CTL 0), 0x4001)] }, hub, 2, 1, by decide +kernel⟩,
   ⟨base, hub, 2, 0, by decide +kernel⟩,
   ⟨{ base with regs := [(rkey (Reg.SDP_CTL 2), 0x801), (rkey (Reg.SDP_VSCALE 2), 1000000)] }, 2, 70000, by decide +kernel⟩,
   ⟨{ base with regs := [(rkey (Reg.SDP_CTL 2), 1)] }, 2, 900, 10, 0, supplyClass { base with regs := [(rkey (Reg.SDP_CTL 2), 1)] } 2 900 10 0, by decide +kernel⟩,
   ⟨{ base with regs := [(rkey (Reg.SDP_CTL 2), 1), (rkey (Reg.SDP_STATUS 2), 4)] }, 2, 50000, by decide +kernel⟩,
   ⟨{ base with regs := [(rkey (Reg.SDP_STATUS 2), 12), (rkey (Reg.SDP_THR2 2), 0x640000), (rkey (Reg.SDP_VSCALE 2), 1000000)] }, 2, 50, by decide +kernel⟩,
   ⟨{ base with regs := [(rkey Reg.TBU_AXLE_CTL, 0x10000)] }, by decide +kernel⟩,
   ⟨{ base with regs := [(rkey Reg.TBU_AXLE_CTL, 0x10001), (rkey (Reg.TB_CTL 0), 3)], fio := { base.fio with tbs := List.replicate 16 { TimeBase.reset with st := .tracking, rate := 5 } } }, 5, 0, by decide +kernel⟩⟩

/-- States and operands that meet the hypotheses of each clause of `CompareAndGateCommandsComplete`. -/
theorem witness_CompareAndGateCommandsComplete :
    (∃ (s : State) (i : Initiator) (m : Fin 256) (v : W32) (new : Word), (Safety.Accepted s i (Reg.CMP_CTL m)) ∧ (new = BitVec.ofNat 64 (fld (w32 v) 0 15)) ∧ (rb s (Reg.CMP_CTL m) 0 = false) ∧ (bit new 0 = true) ∧ (cmpArgOk new (rd s (Reg.CMP_ARG m)) = true) ∧ (cmpOwned s m new (rd s (Reg.CMP_ARG m)) = true) ∧ (bit (w32 v) 3 = false) ∧ (bit (w32 v) 14 = false)) ∧
    (∃ (s : State) (i : Initiator) (m : Fin 256) (v : W32) (new : Word), (Safety.Accepted s i (Reg.CMP_CTL m)) ∧ (new = BitVec.ofNat 64 (fld (w32 v) 0 15)) ∧ (rb s (Reg.CMP_CTL m) 0 = true) ∧ (bit new 0 = false) ∧ (fld new 7 4 = rf s (Reg.CMP_CTL m) 7 4) ∧ (fld new 11 2 = rf s (Reg.CMP_CTL m) 11 2) ∧ (bit (w32 v) 14 = false)) ∧
    (∃ (s a : State) (m : Fin 256) (t0 : Nat), (domOn s 46 = true) ∧ ((getCmp s m).armAt = some t0) ∧ (t0 < s.time) ∧ (a = setCmp s m { getCmp s m with armed := true, armAt := none, refire := none }) ∧ (rb s (Reg.CMP_CTL m) 14 = false) ∧ ((getTb s (rf s (Reg.CMP_CTL m) 7 4)).st ≠ .failed) ∧ (rf s (Reg.CMP_CTL m) 5 2 = 0) ∧ (passed (cmpTarget s m) (getTb s (rf s (Reg.CMP_CTL m) 7 4)).phase .rising = true)) ∧
    (∃ (s a : State) (m : Fin 256) (t0 : Nat), (domOn s 46 = true) ∧ ((getCmp s m).armAt = some t0) ∧ (t0 < s.time) ∧ (a = setCmp s m { getCmp s m with armed := true, armAt := none, refire := none }) ∧ (rb s (Reg.CMP_CTL m) 14 = false) ∧ ((getTb s (rf s (Reg.CMP_CTL m) 7 4)).st ≠ .failed) ∧ (rf s (Reg.CMP_CTL m) 5 2 = 1) ∧ (passed (cmpTarget s m) (getTb s (rf s (Reg.CMP_CTL m) 7 4)).phase .falling = true)) ∧
    (∃ (s a : State) (m : Fin 256) (t0 : Nat), (domOn s 46 = true) ∧ ((getCmp s m).armAt = some t0) ∧ (t0 < s.time) ∧ (a = setCmp s m { getCmp s m with armed := true, armAt := none, refire := none }) ∧ (rb s (Reg.CMP_CTL m) 14 = true ∨ (getTb s (rf s (Reg.CMP_CTL m) 7 4)).st = .failed ∨ 2 ≤ rf s (Reg.CMP_CTL m) 5 2 ∨
        (rf s (Reg.CMP_CTL m) 5 2 = 0 ∧ passed (cmpTarget s m) (getTb s (rf s (Reg.CMP_CTL m) 7 4)).phase .rising = false) ∨
        (rf s (Reg.CMP_CTL m) 5 2 = 1 ∧ passed (cmpTarget s m) (getTb s (rf s (Reg.CMP_CTL m) 7 4)).phase .falling = false))) ∧
    (∃ (s a : State) (f : Fire) (l : List Fire), (domOn s 46 = true) ∧ (s.fio.fires = f :: l) ∧ (f.time < s.time) ∧ (fld f.ctl 11 2 = 0) ∧ (a = evrArrive { s with fio := { s.fio with fires := l } } { src := f.m, late := f.late, phases := f.phases, time := f.time })) ∧
    (∃ (s a : State) (f : Fire) (l : List Fire), (domOn s 46 = true) ∧ (s.fio.fires = f :: l) ∧ (f.time < s.time) ∧ (fld f.ctl 11 2 = 1) ∧ (a = { s with fio := { s.fio with fires := l, segReq := s.fio.segReq ++ [{ g := fld f.arg 0 4, addr := fld f.arg 4 14, phase0 := f.target, time0 := f.time }] } })) ∧
    (∃ (s a : State) (f : Fire) (l : List Fire), (domOn s 46 = true) ∧ (s.fio.fires = f :: l) ∧ (f.time < s.time) ∧ (fld f.ctl 11 2 = 2) ∧ (a = { s with fio := { s.fio with fires := l, snapReq := s.fio.snapReq ++ [{ set := fld f.arg 0 4, tb := f.tb, late := f.late, phase := f.phase, time := f.time }] } })) ∧
    (∃ (s a : State) (f : Fire) (l : List Fire), (domOn s 46 = true) ∧ (s.fio.fires = f :: l) ∧ (f.time < s.time) ∧ (fld f.ctl 11 2 = 3) ∧ (a = (channelsOf s (fld f.arg 0 13)).foldl dmaFetch { s with fio := { s.fio with fires := l }, evr := { s.evr with arrivals := s.evr.arrivals ++
        [{ src := 256 + fld (getRing s (fld f.arg 0 13)).db 0 8, late := false, phases := f.phases, time := f.time }] } })) ∧
    (∃ (s : State) (g : Fin 12) (q : SegReq), (domOn s 46 = true) ∧ ((s.fio.segReq.find? fun q => q.g == g.val) = some q)) ∧
    (∃ (s : State) (i : Initiator) (g : Fin 12) (v : W32), (Safety.Accepted s i (Reg.GPE_START g)) ∧ (bit (w32 v) 31 = true)) ∧
    (∃ (s : State) (i : Initiator) (g : Fin 12) (v : W32), (Safety.Accepted s i (Reg.GPE_CTL g)) ∧ (bit (w32 v) 0 = true) ∧ (rb s (Reg.GPE_CTL g) 0 = false) ∧ (gpeWindowBad s g (gpeBase s g) (gpeLen s g) = false) ∧ ((getRing s (rf s (Reg.GPE_RING g) 0 13)).esize = 32) ∧ (mayBind s (rf s (pageReg .gpe g 0 0x00C) 0 6) (rf s (Reg.GPE_RING g) 0 13) = true)) ∧
    (∃ (s : State) (g : Fin 12) (seg : Seg), (domOn s 46 = true) ∧ ((getGpe s g).seg = some seg) ∧ (entDue s seg (sramAt s seg.next) = false)) ∧
    (∃ (s u : State) (g : Fin 12) (seg : Seg) (e : BitVec 128) (outs : List GpeOut), (domOn s 46 = true) ∧ ((getGpe s g).seg = some seg) ∧ (e = sramAt s seg.next) ∧ (entDue s seg e = true) ∧ (gpeCommand s g e = (outs, false)) ∧ (seg.passed = false) ∧ (entFld e 78 1 = 0) ∧ (entFld e 79 1 = 1) ∧ (u = gpeSettle (setGpe s g { getGpe s g with outs := outs }) g)) ∧
    (∃ (s u : State) (g : Fin 12) (seg : Seg) (e : BitVec 128) (outs : List GpeOut), (domOn s 46 = true) ∧ ((getGpe s g).seg = some seg) ∧ (e = sramAt s seg.next) ∧ (entDue s seg e = true) ∧ (gpeCommand s g e = (outs, false)) ∧ (seg.passed = false) ∧ (entFld e 78 1 = 0) ∧ (entFld e 79 1 = 0) ∧ (u = gpeSettle (setGpe s g { getGpe s g with outs := outs }) g)) ∧
    (∃ (s : State) (g : Fin 12) (out : Fin 4), (domOn s 46 = true)) ∧
    (∃ (s : State) (i : Initiator) (g : Fin 12) (v : W32), (Safety.Accepted s i (Reg.GPE_FORCE g))) ∧
    (∃ (s : State) (i : Initiator) (g : Fin 12) (v : W32), (Safety.Accepted s i (Reg.GPE_FORCE g)) ∧ (bit (w32 v) 4 = false)) ∧
    (∃ (s : State) (g : Fin 12), (domOn s 46 = true) ∧ (rb s (Reg.GPE_CTL g) 0 = true) ∧ ((getGpe s g).staging = [])) :=
  ⟨⟨base, hub, 3, 1, 1, by decide +kernel⟩,
   ⟨{ base with regs := [(rkey (Reg.CMP_CTL 3), 1)] }, hub, 3, 0, 0, by decide +kernel⟩,
   ⟨{ base with time := 5, regs := [(rkey (Reg.CMP_CTL 3), 1)], fio := { base.fio with cmps := [(3, { CmpSt.reset with armAt := some 4 })] } }, setCmp { base with time := 5, regs := [(rkey (Reg.CMP_CTL 3), 1)], fio := { base.fio with cmps := [(3, { CmpSt.reset with armAt := some 4 })] } } 3 { CmpSt.reset with armed := true }, 3, 4, by decide +kernel⟩,
   ⟨{ base with time := 5, regs := [(rkey (Reg.CMP_CTL 3), 0x21)], fio := { base.fio with cmps := [(3, { CmpSt.reset with armAt := some 4 })] } }, setCmp { base with time := 5, regs := [(rkey (Reg.CMP_CTL 3), 0x21)], fio := { base.fio with cmps := [(3, { CmpSt.reset with armAt := some 4 })] } } 3 { CmpSt.reset with armed := true }, 3, 4, by decide +kernel⟩,
   ⟨{ base with time := 5, regs := [(rkey (Reg.CMP_CTL 3), 0x41)], fio := { base.fio with cmps := [(3, { CmpSt.reset with armAt := some 4 })] } }, setCmp { base with time := 5, regs := [(rkey (Reg.CMP_CTL 3), 0x41)], fio := { base.fio with cmps := [(3, { CmpSt.reset with armAt := some 4 })] } } 3 { CmpSt.reset with armed := true }, 3, 4, by decide +kernel⟩,
   ⟨{ base with time := 2, fio := { base.fio with fires := [{ m := 3, late := false, time := 1, phase := 0, target := 0, tb := 0, ctl := 1, arg := 0, phases := [] }] } }, (fun (s : State) (f : Fire) (l : List Fire) => evrArrive { s with fio := { s.fio with fires := l } } { src := f.m, late := f.late, phases := f.phases, time := f.time }) ({ base with time := 2, fio := { base.fio with fires := [{ m := 3, late := false, time := 1, phase := 0, target := 0, tb := 0, ctl := 1, arg := 0, phases := [] }] } }) ({ m := 3, late := false, time := 1, phase := 0, target := 0, tb := 0, ctl := 1, arg := 0, phases := [] }) [], { m := 3, late := false, time := 1, phase := 0, target := 0, tb := 0, ctl := 1, arg := 0, phases := [] }, [], by decide +kernel⟩,
   ⟨{ base with time := 2, fio := { base.fio with fires := [{ m := 3, late := false, time := 1, phase := 0, target := 0, tb := 0, ctl := 0x801, arg := 0, phases := [] }] } }, (fun (s : State) (f : Fire) (l : List Fire) => { s with fio := { s.fio with fires := l, segReq := s.fio.segReq ++ [{ g := fld f.arg 0 4, addr := fld f.arg 4 14, phase0 := f.target, time0 := f.time }] } }) ({ base with time := 2, fio := { base.fio with fires := [{ m := 3, late := false, time := 1, phase := 0, target := 0, tb := 0, ctl := 0x801, arg := 0, phases := [] }] } }) ({ m := 3, late := false, time := 1, phase := 0, target := 0, tb := 0, ctl := 0x801, arg := 0, phases := [] }) [], { m := 3, late := false, time := 1, phase := 0, target := 0, tb := 0, ctl := 0x801, arg := 0, phases := [] }, [], by decide +kernel⟩,
   ⟨{ base with time := 2, fio := { base.fio with fires := [{ m := 3, late := false, time := 1, phase := 0, target := 0, tb := 0, ctl := 0x1001, arg := 0, phases := [] }] } }, (fun (s : State) (f : Fire) (l : List Fire) => { s with fio := { s.fio with fires := l, snapReq := s.fio.snapReq ++ [{ set := fld f.arg 0 4, tb := f.tb, late := f.late, phase := f.phase, time := f.time }] } }) ({ base with time := 2, fio := { base.fio with fires := [{ m := 3, late := false, time := 1, phase := 0, target := 0, tb := 0, ctl := 0x1001, arg := 0, phases := [] }] } }) ({ m := 3, late := false, time := 1, phase := 0, target := 0, tb := 0, ctl := 0x1001, arg := 0, phases := [] }) [], { m := 3, late := false, time := 1, phase := 0, target := 0, tb := 0, ctl := 0x1001, arg := 0, phases := [] }, [], by decide +kernel⟩,
   ⟨{ base with time := 2, fio := { base.fio with fires := [{ m := 3, late := false, time := 1, phase := 0, target := 0, tb := 0, ctl := 0x1801, arg := 0, phases := [] }] } }, (fun (s : State) (f : Fire) (l : List Fire) => (channelsOf s (fld f.arg 0 13)).foldl dmaFetch { s with fio := { s.fio with fires := l }, evr := { s.evr with arrivals := s.evr.arrivals ++
        [{ src := 256 + fld (getRing s (fld f.arg 0 13)).db 0 8, late := false, phases := f.phases, time := f.time }] } }) ({ base with time := 2, fio := { base.fio with fires := [{ m := 3, late := false, time := 1, phase := 0, target := 0, tb := 0, ctl := 0x1801, arg := 0, phases := [] }] } }) ({ m := 3, late := false, time := 1, phase := 0, target := 0, tb := 0, ctl := 0x1801, arg := 0, phases := [] }) [], { m := 3, late := false, time := 1, phase := 0, target := 0, tb := 0, ctl := 0x1801, arg := 0, phases := [] }, [], by decide +kernel⟩,
   ⟨{ base with fio := { base.fio with segReq := [{ g := 3, addr := 5, phase0 := 0, time0 := 0 }] } }, 3, { g := 3, addr := 5, phase0 := 0, time0 := 0 }, by decide +kernel⟩,
   ⟨base, hub, 3, 0x80000005, by decide +kernel⟩,
   ⟨{ base with regs := [(rkey (Reg.GPE_WINDOW 3), 0x100000)], qe := { base.qe with rings := [(0, { Ring.reset with cfg := 0x2 })] } }, hub, 3, 1, by decide +kernel⟩,
   ⟨{ base with fio := { base.fio with sram := [(0, BitVec.ofNat 128 (2 ^ 79))], gpes := List.replicate 12 { Gpe.reset with seg := some { next := 0, phase0 := [], time0 := 0, revs := [], passed := false, hit := false } } } }, 3, { next := 0, phase0 := [], time0 := 0, revs := [], passed := false, hit := false }, by decide +kernel⟩,
   ⟨{ base with fio := { base.fio with sram := [(0, BitVec.ofNat 128 (2 ^ 79))], gpes := List.replicate 12 { Gpe.reset with seg := some { next := 0, phase0 := [], time0 := 0, revs := [], passed := false, hit := true } } } }, gpeSettle (setGpe ({ base with fio := { base.fio with sram := [(0, BitVec.ofNat 128 (2 ^ 79))], gpes := List.replicate 12 { Gpe.reset with seg := some { next := 0, phase0 := [], time0 := 0, revs := [], passed := false, hit := true } } } }) 3 { getGpe ({ base with fio := { base.fio with sram := [(0, BitVec.ofNat 128 (2 ^ 79))], gpes := List.replicate 12 { Gpe.reset with seg := some { next := 0, phase0 := [], time0 := 0, revs := [], passed := false, hit := true } } } }) 3 with outs := (gpeCommand ({ base with fio := { base.fio with sram := [(0, BitVec.ofNat 128 (2 ^ 79))], gpes := List.replicate 12 { Gpe.reset with seg := some { next := 0, phase0 := [], time0 := 0, revs := [], passed := false, hit := true } } } }) 3 (BitVec.ofNat 128 (2 ^ 79))).1 }) 3, 3, { next := 0, phase0 := [], time0 := 0, revs := [], passed := false, hit := true }, BitVec.ofNat 128 (2 ^ 79), (gpeCommand ({ base with fio := { base.fio with sram := [(0, BitVec.ofNat 128 (2 ^ 79))], gpes := List.replicate 12 { Gpe.reset with seg := some { next := 0, phase0 := [], time0 := 0, revs := [], passed := false, hit := true } } } }) 3 (BitVec.ofNat 128 (2 ^ 79))).1, by decide +kernel⟩,
   ⟨{ base with fio := { base.fio with sram := [(0, BitVec.ofNat 128 (2 ^ 68))], gpes := List.replicate 12 { Gpe.reset with seg := some { next := 0, phase0 := [], time0 := 0, revs := [], passed := false, hit := true } } } }, gpeSettle (setGpe ({ base with fio := { base.fio with sram := [(0, BitVec.ofNat 128 (2 ^ 68))], gpes := List.replicate 12 { Gpe.reset with seg := some { next := 0, phase0 := [], time0 := 0, revs := [], passed := false, hit := true } } } }) 3 { getGpe ({ base with fio := { base.fio with sram := [(0, BitVec.ofNat 128 (2 ^ 68))], gpes := List.replicate 12 { Gpe.reset with seg := some { next := 0, phase0 := [], time0 := 0, revs := [], passed := false, hit := true } } } }) 3 with outs := (gpeCommand ({ base with fio := { base.fio with sram := [(0, BitVec.ofNat 128 (2 ^ 68))], gpes := List.replicate 12 { Gpe.reset with seg := some { next := 0, phase0 := [], time0 := 0, revs := [], passed := false, hit := true } } } }) 3 (BitVec.ofNat 128 (2 ^ 68))).1 }) 3, 3, { next := 0, phase0 := [], time0 := 0, revs := [], passed := false, hit := true }, BitVec.ofNat 128 (2 ^ 68), (gpeCommand ({ base with fio := { base.fio with sram := [(0, BitVec.ofNat 128 (2 ^ 68))], gpes := List.replicate 12 { Gpe.reset with seg := some { next := 0, phase0 := [], time0 := 0, revs := [], passed := false, hit := true } } } }) 3 (BitVec.ofNat 128 (2 ^ 68))).1, by decide +kernel⟩,
   ⟨base, 3, 2, by decide +kernel⟩,
   ⟨base, hub, 3, 4, by decide +kernel⟩,
   ⟨{ base with regs := [(rkey (Reg.GPE_FORCE 3), 4)] }, hub, 3, 4, by decide +kernel⟩,
   ⟨{ base with regs := [(rkey (Reg.GPE_CTL 3), 1)] }, 3, by decide +kernel⟩⟩

/-- States and operands that meet the hypotheses of each clause of `SigmaDeltaCommandsComplete`. -/
theorem witness_SigmaDeltaCommandsComplete :
    (∃ (s : State) (n : Fin 32) (bits : List Bool) (h3 : List Bool), (domOn s 46 = true) ∧ (sdmRuns s n = true) ∧ (bits.length = sinc3Osr s n) ∧ (h3 = (sdmBits s n bits ++ (getSdm s n).hist3).take (3 * sinc3Osr s n - 2))) ∧
    (∃ (s : State) (n : Fin 32) (bits : List Bool) (h2 : List Bool) (cnt : Nat) (u : State), (domOn s 46 = true) ∧ (sdmRuns s n = true) ∧ (bits.length = sinc2Osr s n) ∧ (h2 = (sdmBits s n bits ++ (getSdm s n).hist2).take (2 * sinc2Osr s n - 1)) ∧ (cnt = if sfld (rd s (Reg.SDMCH_TRIP n)) 0 16 < sincOut 2 (sinc2Osr s n) h2 ∨ sincOut 2 (sinc2Osr s n) h2 < sfld (rd s (Reg.SDMCH_TRIP n)) 16 16 then (getSdm s n).beyond + 1 else 0) ∧ (u = setSdm s n { getSdm s n with hist2 := h2, beyond := cnt })) ∧
    (∃ (s : State) (n : Fin 32), (domOn s 46 = true) ∧ (sdmRuns s n = true) ∧ (rb s (Reg.SDMCH_CTL n) 6 = false)) ∧
    (∃ (s : State) (set : Fin 16) (q : SnapReq), (domOn s 46 = true) ∧ ((s.fio.snapReq.find? fun q => q.set == set.val) = some q) ∧ (s.fio.snapStage.length < 16)) ∧
    (∃ (s u : State) (r : SnapRec) (l : List SnapRec), (domOn s 46 = true) ∧ (s.fio.snapStage = r :: l) ∧ (hwEnq { s with fio := { s.fio with snapStage := l } } (rf s (Reg.SNAP_RING r.set) 0 13) r.bytes = some u)) ∧
    (∃ (s : State) (r : SnapRec) (l : List SnapRec), (domOn s 46 = true) ∧ (s.fio.snapStage = r :: l) ∧ (hwEnq { s with fio := { s.fio with snapStage := l } } (rf s (Reg.SNAP_RING r.set) 0 13) r.bytes = none)) :=
  ⟨⟨{ base with regs := [(rkey (Reg.SDM_CLK 0), 0x132), (rkey (Reg.SDMCH_CTL 3), 0x801)] }, 3, List.replicate 8 true, List.replicate 8 true, by decide +kernel⟩,
   ⟨{ base with regs := [(rkey (Reg.SDM_CLK 0), 0x132), (rkey (Reg.SDMCH_CTL 3), 0x100001)] }, 3, List.replicate 8 true, List.replicate 8 true, 1, setSdm { base with regs := [(rkey (Reg.SDM_CLK 0), 0x132), (rkey (Reg.SDMCH_CTL 3), 0x100001)] } 3 { SdmCh.reset with hist2 := List.replicate 8 true, beyond := 1 }, by decide +kernel⟩,
   ⟨{ base with regs := [(rkey (Reg.SDM_CLK 0), 0x132), (rkey (Reg.SDMCH_CTL 3), 0x801)] }, 3, by decide +kernel⟩,
   ⟨{ base with fio := { base.fio with snapReq := [{ set := 3, tb := 0, late := false, phase := 0, time := 0 }] } }, 3, { set := 3, tb := 0, late := false, phase := 0, time := 0 }, by decide +kernel⟩,
   ⟨{ base with regs := [(rkey (Reg.QE_QENT 0), 0x2000), (rkey (Reg.QE_QBYTES 0), 0x100000)], qe := { base.qe with rings := [(0, { Ring.reset with cfg := 0x89, base := 0xF10000000000 })] }, fio := { base.fio with snapStage := [{ set := 3, bytes := List.replicate 128 1 }] } }, (hwEnq { base with regs := [(rkey (Reg.QE_QENT 0), 0x2000), (rkey (Reg.QE_QBYTES 0), 0x100000)], qe := { base.qe with rings := [(0, { Ring.reset with cfg := 0x89, base := 0xF10000000000 })] }, fio := { base.fio with snapStage := [] } } 0 (List.replicate 128 1)).getD base, { set := 3, bytes := List.replicate 128 1 }, [], by decide +kernel⟩,
   ⟨{ base with fio := { base.fio with snapStage := [{ set := 3, bytes := List.replicate 128 1 }] } }, { set := 3, bytes := List.replicate 128 1 }, [], by decide +kernel⟩⟩

/-- States and operands that meet the hypotheses of each clause of `EventRouterCommandsComplete`. -/
theorem witness_EventRouterCommandsComplete :
    (∃ (s : State) (a : Arrival) (l : List Arrival), (s.evr.arrivals = a :: l)) ∧
    (∃ (s : State) (n : Fin 1024) (e : EvRec), ((getSrc s n).settled s.time = some e) ∧ (rb s Reg.EVR_CTL 0 = true) ∧ (cfgTtype (getSrc s n).cfg = 0) ∧ (firstFor s (cfgTarget (getSrc s n).cfg) e.level = some (n.val, false)) ∧ (inboxFree s (cfgTarget (getSrc s n).cfg) e.level = true)) ∧
    (∃ (s : State) (n : Fin 1024) (e : EvRec) (c : Nat), ((getSrc s n).settled s.time = some e) ∧ (rb s Reg.EVR_CTL 0 = true) ∧ (cfgTtype (getSrc s n).cfg = 1) ∧ (poolChoose s (cfgTarget (getSrc s n).cfg % 64) e.level = some c)) ∧
    (∃ (s : State) (n : Fin 1024) (e : EvRec), ((getSrc s n).settled s.time = some e) ∧ (rb s Reg.EVR_CTL 0 = true) ∧ (cfgTtype (getSrc s n).cfg = 1) ∧ (poolChoose s (cfgTarget (getSrc s n).cfg % 64) e.level = none) ∧ ((getPool (deliverSlot s n) (cfgTarget (getSrc s n).cfg % 64)).fifo.length < 64)) ∧
    (∃ (s : State) (q : Fin 64) (e : EvRec) (l : List EvRec) (c : Nat), ((getPool s q).fifo = e :: l) ∧ (rb s Reg.EVR_CTL 0 = true) ∧ (poolChoose s q e.level = some c)) ∧
    (∃ (s : State) (c : CoreId) (l : Level) (n : Nat) (h : Bool), (rb s Reg.EVR_CTL 0 = true) ∧ (inboxFree s c l = true) ∧ (firstFor s c l = some (n, h))) ∧
    (∃ (s : State) (c : CoreId) (e : EvRec), (s.evr.flight = [(c.val, e)]) ∧ ((getCore s c).running = true) ∧ ((coreOwner s c).isSome = true) ∧ (levelOn s c e.level = true) ∧ (inboxFull s c e.level = false) ∧ (localWaits s c e.level = false) ∧ (e.level < (getCore s c).inbox.length)) ∧
    (∃ (s : State) (i : Initiator) (w : Fin 256) (v : W32), (Safety.AcceptedM0 s i (Reg.EVR_OWN w)) ∧ (∀ k, k < 4 → cfgEn (getSrc s (4 * w + k)).cfg = false)) ∧
    (∃ (s : State) (i : Initiator) (p : Part) (v : W32) (n : Nat) (c : Word), (Safety.Accepted s i (Reg.EVRP_CFG p)) ∧ (n = rf s (Reg.EVRP_SEL p) 0 10) ∧ (c = BitVec.ofNat 64 (fld (w32 v) 0 22)) ∧ (pageReachesSrc s p n = true) ∧ (cfgEn (getSrc s n).cfg = false) ∧ (bit c 0 = true) ∧ (cfgOk s n c = true)) ∧
    (∃ (s : State) (i : Initiator) (p : Part) (v : W32) (n : Nat) (c : Word), (Safety.Accepted s i (Reg.EVRP_CFG p)) ∧ (n = rf s (Reg.EVRP_SEL p) 0 10) ∧ (c = BitVec.ofNat 64 (fld (w32 v) 0 22)) ∧ (pageReachesSrc s p n = true) ∧ (cfgEn (getSrc s n).cfg = false) ∧ (bit c 0 = true) ∧ (cfgOk s n c = true)) ∧
    (∃ (s u : State) (i : Initiator) (p : Part) (v : W32) (n : Nat), (Safety.Accepted s i (Reg.EVRP_CFG p)) ∧ (n = rf s (Reg.EVRP_SEL p) 0 10) ∧ (pageReachesSrc s p n = true) ∧ (setBit (BitVec.ofNat 64 (fld (w32 v) 0 22)) 0 true = (getSrc s n).cfg) ∧ (bit (w32 v) 0 = false) ∧ (u = dropWaiting (respOk s 0) n)) ∧
    (∃ (s u : State) (i : Initiator) (p : Part) (v : Word) (n : Nat) (c : Word), (Safety.Accepted s i (Reg.EVRP_SETCFG p)) ∧ (n = fld v 32 10) ∧ (c = BitVec.ofNat 64 (fld (BitVec.ofNat 64 (fld v 0 32)) 0 22)) ∧ (u = wr (respOk s 0) (Reg.EVRP_SEL p) (BitVec.ofNat 64 n)) ∧ (pageReachesSrc s p n = true) ∧ (cfgEn (getSrc s n).cfg = false) ∧ (bit c 0 = true) ∧ (cfgOk u n c = true)) ∧
    (∃ (s : State) (i : Initiator) (p : Part) (v : W32), (Safety.Accepted s i (Reg.EVRP_RAISE p)) ∧ (768 ≤ fld (w32 v) 0 10) ∧ (pageReachesSrc s p (fld (w32 v) 0 10) = true)) ∧
    (∃ (s : State) (i : Initiator) (p : Part) (k : Fin 13) (v : W32) (q want : Nat), (Safety.Accepted s i (Reg.EVRP_POOLMASK p k)) ∧ (q = rf s (Reg.EVRP_POOLSEL p) 0 6) ∧ (p = 0 ∨ poolOwner s q = p) ∧ (want = if k.val = 12 then fld (w32 v) 0 4 else fld (w32 v) 0 32) ∧ (∀ b, b < 32 → want.testBit b = true → inPart s (poolOwner s q) (32 * k + b) = true)) :=
  ⟨⟨{ base with evr := { base.evr with arrivals := [{ src := 3, late := false, phases := [], time := 0 }] } }, { src := 3, late := false, phases := [], time := 0 }, [], by decide +kernel⟩,
   ⟨{ cb with regs := [(rkey Reg.EVR_CTL, 1)], evr := { cb.evr with srcs := [(5, { Src.reset with cfg := 0x303, waiting := some { src := 5, level := 1, mode := 0, late := false, stamped := false, ovr := false, half := false, loc := false, count := 1, phase := 0, time := 0 } })], queue := [5] } }, 5, { src := 5, level := 1, mode := 0, late := false, stamped := false, ovr := false, half := false, loc := false, count := 1, phase := 0, time := 0 }, by decide +kernel⟩,
   ⟨{ cbWith { (core3.setBank 1 { Bank.reset 1 0 with st := .parked }) with cur := 0 } with regs := [(rkey Reg.EVR_CTL, 1), (rkey (Reg.SCHED_LVLEN 3), 3)], evr := { cb.evr with srcs := [(5, { Src.reset with cfg := 0x43, waiting := some { src := 5, level := 1, mode := 0, late := false, stamped := false, ovr := false, half := false, loc := false, count := 1, phase := 0, time := 0 } })], pools := [(0, { Pool.reset with mask := 8 })] } }, 5, { src := 5, level := 1, mode := 0, late := false, stamped := false, ovr := false, half := false, loc := false, count := 1, phase := 0, time := 0 }, 3, by decide +kernel⟩,
   ⟨{ cb with regs := [(rkey Reg.EVR_CTL, 1)], evr := { cb.evr with srcs := [(5, { Src.reset with cfg := 0x43, waiting := some { src := 5, level := 1, mode := 0, late := false, stamped := false, ovr := false, half := false, loc := false, count := 1, phase := 0, time := 0 } })], queue := [5] } }, 5, { src := 5, level := 1, mode := 0, late := false, stamped := false, ovr := false, half := false, loc := false, count := 1, phase := 0, time := 0 }, by decide +kernel⟩,
   ⟨{ cbWith { (core3.setBank 1 { Bank.reset 1 0 with st := .parked }) with cur := 0 } with regs := [(rkey Reg.EVR_CTL, 1), (rkey (Reg.SCHED_LVLEN 3), 3)], evr := { cb.evr with pools := [(0, { Pool.reset with mask := 8, fifo := [{ src := 5, level := 1, mode := 0, late := false, stamped := false, ovr := false, half := false, loc := false, count := 1, phase := 0, time := 0 }] })] } }, 0, { src := 5, level := 1, mode := 0, late := false, stamped := false, ovr := false, half := false, loc := false, count := 1, phase := 0, time := 0 }, [], 3, by decide +kernel⟩,
   ⟨{ cb with regs := [(rkey Reg.EVR_CTL, 1)], evr := { cb.evr with srcs := [(5, { Src.reset with cfg := 0x303, waiting := some { src := 5, level := 1, mode := 0, late := false, stamped := false, ovr := false, half := false, loc := false, count := 1, phase := 0, time := 0 } })], queue := [5] } }, 3, 1, 5, false, by decide +kernel⟩,
   ⟨{ cb with regs := [(rkey (Reg.SCHED_LVLEN 3), 3), (rkey (Reg.PART_CORES 1 0), 8)], evr := { cb.evr with flight := [(3, { src := 5, level := 1, mode := 0, late := false, stamped := false, ovr := false, half := false, loc := false, count := 1, phase := 0, time := 0 })] } }, 3, { src := 5, level := 1, mode := 0, late := false, stamped := false, ovr := false, half := false, loc := false, count := 1, phase := 0, time := 0 }, by decide +kernel⟩,
   ⟨base, hub, 3, 0x01020304, by decide +kernel⟩,
   ⟨{ cb with regs := [(rkey (Reg.EVR_OWN 0), 1), (rkey (Reg.SCHED_LVLEN 3), 3), (rkey (Reg.PART_CORES 1 0), 8)] }, hub, 0, 0x303, 0, 0x303, by decide +kernel⟩,
   ⟨{ cb with regs := [(rkey (Reg.EVR_OWN 0), 1), (rkey (Reg.SCHED_LVLEN 3), 3), (rkey (Reg.PART_CORES 1 0), 8)] }, hub, 0, 0x303, 0, 0x303, by decide +kernel⟩,
   ⟨{ cb with evr := { cb.evr with srcs := [(0, { Src.reset with cfg := 0x303 })] } }, respOk ({ cb with evr := { cb.evr with srcs := [(0, { Src.reset with cfg := 0x303 })] } }) 0, hub, 0, 0x302, 0, by decide +kernel⟩,
   ⟨{ cb with regs := [(rkey (Reg.EVR_OWN 0), 1), (rkey (Reg.SCHED_LVLEN 3), 3), (rkey (Reg.PART_CORES 1 0), 8)] }, wr (respOk { cb with regs := [(rkey (Reg.EVR_OWN 0), 1), (rkey (Reg.SCHED_LVLEN 3), 3), (rkey (Reg.PART_CORES 1 0), 8)] } 0) (Reg.EVRP_SEL 0) 0, hub, 0, 0x303, 0, 0x303, by decide +kernel⟩,
   ⟨cb, hub, 0, 0x80000300, by decide +kernel⟩,
   ⟨cb, hub, 0, 0, 0, 0, 0, by decide +kernel⟩⟩

/-- States and operands that meet the hypotheses of each clause of `SchedulerCommandsComplete`. -/
theorem witness_SchedulerCommandsComplete :
    (∃ (s : State) (c : CoreId) (g : Guard), (Safety.CoreReadyCtl s c g) ∧ ((getCore s c).cur = 0)) ∧
    (∃ (s : State) (c : CoreId) (g : Guard), (Safety.CoreReadyCtl s c g) ∧ ((getCore s c).cur ≠ 0) ∧ (((getCore s c).stopped && (getCore s c).cur == monLevel s c) = false) ∧ (inboxFull (endService s c) c (getCore s c).cur = false)) ∧
    (∃ (s : State) (c : CoreId) (g : Guard), (Safety.CoreReadyCtl s c g) ∧ ((getCore s c).cur ≠ 0) ∧ (((getCore s c).stopped && (getCore s c).cur == monLevel s c) = false) ∧ (inboxFull (endService s c) c (getCore s c).cur = true)) ∧
    (∃ (s : State) (c : CoreId) (l : Nat), ((getCore s c).running = true) ∧ (levelUp s c = some l)) ∧
    (∃ (s : State) (c : CoreId) (l : Nat), ((getCore s c).running = true) ∧ (levelUp s c = none) ∧ ((getCore s c).justParked = true) ∧ (levelDown s c = some l)) ∧
    (∃ (s u : State) (i : Initiator) (c : CoreId) (v : W32), (Safety.AcceptedHM s i (Reg.SCHED_LVLEN c)) ∧ (lvlenWrite (respOk s 0) c (w32 v) = some u)) ∧
    (∃ (s : State) (i : Initiator) (c : CoreId) (v : W32), (Safety.AcceptedHM s i (Reg.SCHED_LVLEN c)) ∧ (∀ l ∈ [1, 2, 3, 4, 5, 6, 7], levelIdle s c l = true) ∧ (rb s (Reg.SCHED_LVLEN c) 0 = true)) ∧
    (∃ (s : State) (i : Initiator) (c : CoreId) (l : Level) (v : Word), (Safety.AcceptedHM s i (Reg.SCHED_ENTRY c l)) ∧ (l ≠ 0) ∧ (levelIdle s c l = true)) ∧
    (∃ (s : State) (c : CoreId) (l : Level), (((getCore s c).bank l).budgetOn = true) ∧ (((getCore s c).bank l).budget = 0)) ∧
    (∃ (s : State) (c : CoreId) (x : Latch), ((getCore s c).latchBudget = some x) ∧ (levelOn s c x.level = true) ∧ (inboxFull s c x.level = false)) ∧
    (∃ (s : State) (c : CoreId) (x : Latch), ((getCore s c).latchCnt = some x) ∧ ((getCore s c).latchBudget = none) ∧ (levelOn s c x.level = true) ∧ (inboxFull s c x.level = false)) :=
  ⟨⟨cb, 3, g0, by decide +kernel⟩,
   ⟨cbWith { (core3.setBank 1 { Bank.reset 1 0 with st := .active }) with cur := 1 }, 3, g0, by decide +kernel⟩,
   ⟨cbWith { (core3.setBank 1 { Bank.reset 1 0 with st := .active }) with cur := 1, inbox := List.replicate 8 (some { src := 5, level := 1, mode := 0, late := false, stamped := false, ovr := false, half := false, loc := false, count := 1, phase := 0, time := 0 }) }, 3, g0, by decide +kernel⟩,
   ⟨{ cbWith { (core3.setBank 1 { Bank.reset 1 0 with st := .parked }) with inbox := List.replicate 8 (some { src := 5, level := 1, mode := 0, late := false, stamped := false, ovr := false, half := false, loc := false, count := 1, phase := 0, time := 0 }) } with regs := [(rkey (Reg.SCHED_LVLEN 3), 3)] }, 3, 1, by decide +kernel⟩,
   ⟨cbWith { (core3.setBank 1 { Bank.reset 1 0 with st := .parked }) with cur := 1, justParked := true }, 3, 0, by decide +kernel⟩,
   ⟨cb, (lvlenWrite (respOk cb 0) 5 3).getD cb, hub, 5, 3, by decide +kernel⟩,
   ⟨cb, hub, 5, 3, by decide +kernel⟩,
   ⟨cb, hub, 5, 3, 0x1003, by decide +kernel⟩,
   ⟨cbWith (core3.setBank 1 { Bank.reset 1 0 with budgetOn := true }), 3, 1, by decide +kernel⟩,
   ⟨{ cbWith { core3 with latchBudget := some { level := 1, arg := 2, time := 0 } } with regs := [(rkey (Reg.SCHED_LVLEN 3), 3)] }, 3, { level := 1, arg := 2, time := 0 }, by decide +kernel⟩,
   ⟨{ cbWith { core3 with latchCnt := some { level := 1, arg := 2, time := 0 } } with regs := [(rkey (Reg.SCHED_LVLEN 3), 3)] }, 3, { level := 1, arg := 2, time := 0 }, by decide +kernel⟩⟩

/-- States and operands that meet the hypotheses of each clause of `FetchAndPredictorCommandsComplete`. -/
theorem witness_FetchAndPredictorCommandsComplete :
    (∃ (s u : State) (c : CoreId) (pa a : Nat), (canStep (getCore s c) = true) ∧ (illegalHead s c = false) ∧ (u = predecode c 32 s) ∧ (queueTakes (getCore u c) (fetchAt (getCore u c)) = true) ∧ ((itlbHas u c (curBank u c).priv (fetchAt (getCore u c)).toNat || onPath (getCore u c)) = true) ∧ (accessWaits u c (curBank u c).priv .fetch (fetchAt (getCore u c)).toNat 4 = false) ∧ ((fetchXl u c (curBank u c).priv (fetchAt (getCore u c)).toNat).2.toOption = some (pa, a))) ∧
    (∃ (s u : State) (c : CoreId), (canStep (getCore s c) = true) ∧ (illegalHead s c = false) ∧ (u = predecode c 32 s) ∧ (queueTakes (getCore u c) (fetchAt (getCore u c)) = true) ∧ (onPath (getCore u c) = true) ∧ (accessWaits u c (curBank u c).priv .fetch (fetchAt (getCore u c)).toNat 4 = false)) ∧
    (∃ (s u : State) (c : CoreId), (canStep (getCore s c) = true) ∧ (illegalHead s c = false) ∧ (u = predecode c 32 s) ∧ (queueTakes (getCore u c) (fetchAt (getCore u c)) = false)) ∧
    (∃ (s : State) (c : CoreId), (canStep (getCore s c) = true) ∧ (impreciseDue (curBank s c) = false) ∧ (ibpHit s c = none) ∧ (illegalHead s c = true)) ∧
    (∃ (s : State) (c : CoreId) (line : BitVec 48), (xipAsks s c (lineOf line.toNat) = true)) ∧
    (∃ (s : State) (c : CoreId) (line : BitVec 48), (((getPrefetch s c).asked.any fun e => e.1 == lineOf line.toNat && e.2 == c.val) = true) ∧ (poisoned s (lineOf line.toNat) = false) ∧ ((canStep (getCore s c) && fetchLine s c (fetchAt (getCore s c)) == some (lineOf line.toNat)) = false)) ∧
    (∃ (s u : State) (c : CoreId) (line : BitVec 48), (((getPrefetch s c).asked.any fun e => e.1 == lineOf line.toNat && e.2 == c.val) = true) ∧ (poisoned s (lineOf line.toNat) = false) ∧ ((canStep (getCore s c) && fetchLine s c (fetchAt (getCore s c)) == some (lineOf line.toNat)) = true) ∧ (u = setPrefetch s c (bufferLine { livePrefetch s c with asked := (livePrefetch s c).asked.filter fun e => e.1 != lineOf line.toNat } (lineOf line.toNat) c))) ∧
    (∃ (s : State) (c : CoreId) (line : BitVec 48), (((getPrefetch s c).asked.any fun e => e.1 == lineOf line.toNat && e.2 == c.val) = true) ∧ ((canStep (getCore s c) && fetchLine s c (fetchAt (getCore s c)) == some (lineOf line.toNat)) = false)) ∧
    (∃ (s : State) (i : Initiator) (c : CoreId), (Safety.AcceptedHM s i (Reg.FE_CTL c))) ∧
    (∃ (s : State) (i : Initiator) (c : CoreId), (Safety.AcceptedHM s i (Reg.FE_CTL c))) ∧
    (∃ (s : State) (i : Initiator) (c : CoreId) (p : Nat), (Safety.AcceptedHM s i (Reg.FE_CTL c)) ∧ ((getCore s c).rekeyBusy = none) ∧ (p = (coreOwner s c).getD 0)) ∧
    (∃ (s : State) (c : CoreId), (endsFirst (opEnd s c 512 (getCore s c).btbBusy) (opEnd s c 1024 (getCore s c).dirBusy) = true) ∧ (endsFirst (opEnd s c 512 (getCore s c).btbBusy) (opEnd s c 512 ((getCore s c).rekeyBusy.map (·.2))) = true)) ∧
    (∃ (s : State) (c : CoreId), (endsFirst (opEnd s c 512 (getCore s c).btbBusy) (opEnd s c 1024 (getCore s c).dirBusy) = false) ∧ (endsFirst (opEnd s c 1024 (getCore s c).dirBusy) (opEnd s c 512 ((getCore s c).rekeyBusy.map (·.2))) = true)) ∧
    (∃ (s : State) (c : CoreId) (p t : Nat), ((getCore s c).rekeyBusy = some (p, t)) ∧ (endsFirst (opEnd s c 512 (getCore s c).btbBusy) (opEnd s c 512 ((getCore s c).rekeyBusy.map (·.2))) = false) ∧ (endsFirst (opEnd s c 1024 (getCore s c).dirBusy) (opEnd s c 512 ((getCore s c).rekeyBusy.map (·.2))) = false)) ∧
    (∃ (s : State) (c : CoreId), ((getCore s c).btbBusy = none) ∧ ((getCore s c).dirBusy = none) ∧ ((getCore s c).rekeyBusy = none)) :=
  ⟨⟨c0With { core3 with fetchPc := some 0xFF0000000000 }, c0With { core3 with fetchPc := some 0xFF0000000000 }, 3, 0xFF0000000000, 1, by decide +kernel⟩,
   ⟨cb, cb, 3, by decide +kernel⟩,
   ⟨cbWith { core3 with pdPos := 16, fetchQ := (List.replicate 16 (8, 0xB0001000)) }, predecode 3 32 (cbWith { core3 with pdPos := 16, fetchQ := (List.replicate 16 (8, 0xB0001000)) }), 3, by decide +kernel⟩,
   ⟨cbWith { core3 with fetchQ := [(0, 0)], fetchPc := some 4 }, 3, by decide +kernel⟩,
   ⟨c0With { core3 with fetchPc := some 0xE00000000000 }, 3, 0xE00000000000, by decide +kernel⟩,
   ⟨{ cbWith { core3 with stalled := true } with prefetch := [(0, { lines := [], asked := [(lineOf 0xE00000000000, 3)] })] }, 3, 0xE00000000000, by decide +kernel⟩,
   ⟨{ c0With { core3 with fetchPc := some 0xE00000000000 } with prefetch := [(0, { lines := [], asked := [(lineOf 0xE00000000000, 3)] })] }, (fun (s : State) (c : CoreId) (line : BitVec 48) => setPrefetch s c (bufferLine { livePrefetch s c with asked := (livePrefetch s c).asked.filter fun e => e.1 != lineOf line.toNat } (lineOf line.toNat) c)) ({ c0With { core3 with fetchPc := some 0xE00000000000 } with prefetch := [(0, { lines := [], asked := [(lineOf 0xE00000000000, 3)] })] }) 3 0xE00000000000, 3, 0xE00000000000, by decide +kernel⟩,
   ⟨{ cbWith { core3 with stalled := true } with prefetch := [(0, { lines := [], asked := [(lineOf 0xE00000000000, 3)] })] }, 3, 0xE00000000000, by decide +kernel⟩,
   ⟨cb, hub, 3, by decide +kernel⟩,
   ⟨cb, hub, 3, by decide +kernel⟩,
   ⟨cb, hub, 3, 1, by decide +kernel⟩,
   ⟨cbWith { core3 with btbBusy := some 0 }, 3, by decide +kernel⟩,
   ⟨cbWith { core3 with dirBusy := some 0 }, 3, by decide +kernel⟩,
   ⟨cbWith { core3 with rekeyBusy := some (1, 0) }, 3, 1, 0, by decide +kernel⟩,
   ⟨cb, 3, by decide +kernel⟩⟩

/-- States and operands that meet the hypotheses of each clause of `IntegerInstructionsComplete`. -/
theorem witness_IntegerInstructionsComplete :
    (∃ (s : State) (c : CoreId) (g : Guard) (fn : BitVec 7) (rd ra rb : R5), (Safety.CoreReady s c g) ∧ (aluLegal fn rb = true)) ∧
    (∃ (s : State) (c : CoreId) (g : Guard) (rd ra : R5) (imm : BitVec 12), (Safety.CoreReady s c g)) ∧
    (∃ (s : State) (c : CoreId) (g : Guard) (rd ra : R5) (imm : BitVec 12), (Safety.CoreReady s c g)) ∧
    (∃ (s : State) (c : CoreId) (g : Guard) (rd ra : R5) (imm : BitVec 12), (Safety.CoreReady s c g)) ∧
    (∃ (s : State) (c : CoreId) (g : Guard) (rd ra : R5) (imm : BitVec 12), (Safety.CoreReady s c g)) ∧
    (∃ (s : State) (c : CoreId) (g : Guard) (rd ra : R5) (imm : BitVec 12), (Safety.CoreReady s c g) ∧ (shiLegal imm = true)) ∧
    (∃ (s : State) (c : CoreId) (g : Guard) (fn : BitVec 7) (rd ra rb : R5), (Safety.CoreReady s c g) ∧ (decide (fn.toNat ≤ 4) = true)) ∧
    (∃ (s : State) (c : CoreId) (g : Guard) (fn : BitVec 7) (rd ra rb : R5) (w : Nat), (Safety.CoreReady s c g) ∧ (decide (fn.toNat % 64 < 4) = true) ∧ (w = if 64 ≤ fn.toNat then 32 else 64) ∧ (uintOf w (rg s c rb) ≠ 0)) ∧
    (∃ (s : State) (c : CoreId) (g : Guard) (fn : BitVec 7) (rd ra rb : R5) (w : Nat), (Safety.CoreReady s c g) ∧ (decide (fn.toNat % 64 < 4) = true) ∧ (w = if 64 ≤ fn.toNat then 32 else 64) ∧ (uintOf w (rg s c rb) = 0) ∧ ((curBank s c).imp = false)) ∧
    (∃ (s : State) (c : CoreId) (g : Guard) (fn : BitVec 7) (rd ra rb : R5) (w : Nat), (Safety.CoreReady s c g) ∧ (decide (fn.toNat % 64 < 4) = true) ∧ (w = if 64 ≤ fn.toNat then 32 else 64) ∧ (uintOf w (rg s c rb) = 0) ∧ ((curBank s c).imp = true)) ∧
    (∃ (s : State) (c : CoreId) (g : Guard) (fn : BitVec 7) (rd ra rb : R5) (r : Int × Bool), (Safety.CoreReady s c g) ∧ (decide (fn.toNat ≤ 9) = true) ∧ (r = fracVal fn.toNat (curBank s c).rnd (rg s c ra) (rg s c rb))) ∧
    (∃ (s : State) (c : CoreId) (g : Guard) (rd : R5) (imm : W32), (Safety.CoreReady s c g)) ∧
    (∃ (s : State) (c : CoreId) (g : Guard) (rd : R5) (imm : W32), (Safety.CoreReady s c g)) ∧
    (∃ (s : State) (c : CoreId) (g : Guard) (rd ra : R5) (imm : W32), (Safety.CoreReady s c g)) ∧
    (∃ (s : State) (c : CoreId) (g : Guard) (rd ra : R5) (imm : W32), (Safety.CoreReady s c g)) ∧
    (∃ (s : State) (c : CoreId) (g : Guard) (rd ra : R5) (imm : W32), (Safety.CoreReady s c g)) :=
  ⟨⟨cb, 3, g0, 0, 1, 2, 3, by decide +kernel⟩,
   ⟨cb, 3, g0, 1, 2, 3, by decide +kernel⟩,
   ⟨cb, 3, g0, 1, 2, 3, by decide +kernel⟩,
   ⟨cb, 3, g0, 1, 2, 3, by decide +kernel⟩,
   ⟨cb, 3, g0, 1, 2, 3, by decide +kernel⟩,
   ⟨cb, 3, g0, 1, 2, 3, by decide +kernel⟩,
   ⟨cb, 3, g0, 0, 1, 2, 3, by decide +kernel⟩,
   ⟨cbWith (core3.setBank 0 ({ Bank.reset 0 0 with g := List.replicate 8 7 })), 3, g0, 0, 1, 2, 3, 64, by decide +kernel⟩,
   ⟨cb, 3, g0, 0, 1, 2, 0, 64, by decide +kernel⟩,
   ⟨cbWith (core3.setBank 0 ({ Bank.reset 0 0 with status := 0x23 })), 3, g0, 0, 1, 2, 0, 64, by decide +kernel⟩,
   ⟨cb, 3, g0, 0, 1, 2, 3, (0, false), by decide +kernel⟩,
   ⟨cb, 3, g0, 1, 2, by decide +kernel⟩,
   ⟨cb, 3, g0, 1, 2, by decide +kernel⟩,
   ⟨cb, 3, g0, 1, 2, 3, by decide +kernel⟩,
   ⟨cb, 3, g0, 1, 2, 3, by decide +kernel⟩,
   ⟨cb, 3, g0, 1, 2, 3, by decide +kernel⟩⟩

/-- States and operands that meet the hypotheses of each clause of `CompareWritesPredicates`. -/
theorem witness_CompareWritesPredicates :
    (∃ (s : State) (c : CoreId) (g : Guard) (pd pn : BitVec 3) (ra rb : R5) (cond : BitVec 4) (imm w : Bool) (v : Bool), (Safety.CoreReady s c g) ∧ ((getCore s c).cur < (getCore s c).banks.length) ∧ (cond.toNat < 8) ∧ (pd ≠ pn ∨ pn = 0) ∧ (v = (if w then Safety.compareSpec cond.toNat ((rg s c ra).setWidth 32) ((if imm then rb.signExtend 64 else rg s c rb).setWidth 32)
        else Safety.compareSpec cond.toNat (rg s c ra) (if imm then rb.signExtend 64 else rg s c rb)))) ∧
    (∃ (s : State) (c : CoreId) (g : Guard) (pd pn : BitVec 3) (ra : R5) (cond : BitVec 4) (w : Bool) (imm : W32) (v : Bool), (Safety.CoreReady s c g) ∧ ((getCore s c).cur < (getCore s c).banks.length) ∧ (cond.toNat < 8) ∧ (pd ≠ pn ∨ pn = 0) ∧ (v = (if w then Safety.compareSpec cond.toNat ((rg s c ra).setWidth 32) ((imm.signExtend 64).setWidth 32)
        else Safety.compareSpec cond.toNat (rg s c ra) (imm.signExtend 64)))) ∧
    (∃ (s : State) (c : CoreId) (g : Guard) (pd pn : BitVec 3) (ra rb : R5) (cond : BitVec 4) (imm w : Bool), (Safety.CoreReady s c g) ∧ (8 ≤ cond.toNat ∨ (pd = pn ∧ pn ≠ 0))) :=
  ⟨⟨cb, 3, g0, 1, 2, 3, 4, 0, true, false, false, by decide +kernel⟩,
   ⟨cb, 3, g0, 1, 2, 3, 0, true, 5, false, by decide +kernel⟩,
   ⟨cb, 3, g0, 1, 1, 3, 4, 0, true, false, by decide +kernel⟩⟩

/-- States and operands that meet the hypotheses of each clause of `PredicateInstructionsWritePredicates`. -/
theorem witness_PredicateInstructionsWritePredicates :
    (∃ (s : State) (c : CoreId) (g : Guard) (pd pa pb fn : BitVec 3), (Safety.CoreReady s c g) ∧ ((getCore s c).cur < (getCore s c).banks.length) ∧ (fn.toNat < 4 ∨ (fn = 4 ∧ pb = 0))) ∧
    (∃ (s : State) (c : CoreId) (g : Guard) (pd pa pb fn : BitVec 3), (Safety.CoreReady s c g) ∧ (5 ≤ fn.toNat ∨ (fn = 4 ∧ pb ≠ 0))) :=
  ⟨⟨cb, 3, g0, 1, 2, 3, 0, by decide +kernel⟩,
   ⟨cb, 3, g0, 1, 2, 3, 4, by decide +kernel⟩⟩

/-- States and operands that meet the hypotheses of each clause of `SelectsChooseTheirSource`. -/
theorem witness_SelectsChooseTheirSource :
    (∃ (s : State) (c : CoreId) (g : Guard) (neg : Bool) (ps : BitVec 3) (rd ra rb : R5), (Safety.CoreReady s c g)) ∧
    (∃ (s : State) (c : CoreId) (g : Guard) (neg : Bool) (ps : BitVec 3) (rd ra rb : R5), (canStep (getCore s c) = true) ∧ (impreciseDue (curBank s c) = false) ∧ (ibpHit s c = none) ∧ (illegalHead s c = false) ∧ ((curBank s c).guard g = false)) ∧
    (∃ (s : State) (c : CoreId) (g : Guard) (neg : Bool) (ps : BitVec 3) (rd ra : R5), (Safety.CoreReady s c g)) ∧
    (∃ (s : State) (c : CoreId) (g : Guard) (neg : Bool) (ps : BitVec 3) (rd ra : R5), (canStep (getCore s c) = true) ∧ (impreciseDue (curBank s c) = false) ∧ (ibpHit s c = none) ∧ (illegalHead s c = false) ∧ ((curBank s c).guard g = false)) :=
  ⟨⟨cb, 3, g0, false, 1, 2, 3, 4, by decide +kernel⟩,
   ⟨cb, 3, { ps := true, pg := 0 }, false, 1, 2, 3, 4, by decide +kernel⟩,
   ⟨cb, 3, g0, false, 1, 2, 3, by decide +kernel⟩,
   ⟨cb, 3, { ps := true, pg := 0 }, false, 1, 2, 3, by decide +kernel⟩⟩

/-- States and operands that meet the hypotheses of each clause of `AccumulatorInstructionsComplete`. -/
theorem witness_AccumulatorInstructionsComplete :
    (∃ (s : State) (c : CoreId) (g : Guard) (ac : BitVec 2) (sub clr int : Bool) (ra rb : R5) (form : BitVec 2) (uns : Bool), (Safety.CoreReadyExt s c g) ∧ ((form != 3 && (int || !uns)) = true)) ∧
    (∃ (s : State) (c : CoreId) (g : Guard) (rd : R5) (ac : BitVec 2) (r : Int × Bool), (Safety.CoreReadyExt s c g) ∧ (r = roundSat 16 (curBank s c).rnd 48 (acGet s c ac).toInt)) ∧
    (∃ (s : State) (c : CoreId) (g : Guard) (rd : R5) (ac : BitVec 2) (r : Int × Bool), (Safety.CoreReadyExt s c g) ∧ (r = roundSat 32 (curBank s c).rnd 32 (acGet s c ac).toInt)) ∧
    (∃ (s : State) (c : CoreId) (g : Guard) (rd : R5) (ac : BitVec 2) (r : Int × Bool), (Safety.CoreReadyExt s c g) ∧ (r = satI 64 (acGet s c ac).toInt)) ∧
    (∃ (s : State) (c : CoreId) (g : Guard) (rd : R5) (ac : BitVec 2), (Safety.CoreReadyExt s c g)) ∧
    (∃ (s : State) (c : CoreId) (g : Guard) (rd : R5) (ac : BitVec 2), (Safety.CoreReadyExt s c g)) ∧
    (∃ (s : State) (c : CoreId) (g : Guard) (ra : R5) (ac : BitVec 2), (Safety.CoreReadyExt s c g)) ∧
    (∃ (s : State) (c : CoreId) (g : Guard) (ra : R5) (ac : BitVec 2), (Safety.CoreReadyExt s c g)) ∧
    (∃ (s : State) (c : CoreId) (g : Guard) (ac : BitVec 2) (rb : R5), (Safety.CoreReadyExt s c g)) ∧
    (∃ (s : State) (c : CoreId) (g : Guard) (ac : BitVec 2) (rb : R5), (Safety.CoreReadyExt s c g) ∧ (decide (rb.toNat < 4) = true)) ∧
    (∃ (s : State) (c : CoreId) (g : Guard) (ac : BitVec 2), (Safety.CoreReadyExt s c g)) ∧
    (∃ (s : State) (c : CoreId) (g : Guard) (ac xg yg : BitVec 2) (xpm ypm : Bool) (form : BitVec 2) (sub int clr uns : Bool) (t u v : State), (Safety.CoreReadyExt s c g) ∧ ((int || !uns) = true) ∧ (genOff s c false xg % 4 = 0) ∧ (u = loadCheck s c (tcmAddr c false (genOff s c false xg)) 4) ∧ (poisoned u (lineOf (tcmAddr c false (genOff s c false xg))) = false) ∧ (genOff u c true yg % 4 = 0) ∧ (v = loadCheck u c (tcmAddr c true (genOff u c true yg)) 4) ∧ (poisoned v (lineOf (tcmAddr c true (genOff u c true yg))) = false) ∧ (t = macxMod v c xg yg xpm ypm)) ∧
    (∃ (s : State) (c : CoreId) (g : Guard) (rd : R5) (y : Bool) (gen : BitVec 2) (pm : Bool) (size : BitVec 2) (uns : Bool) (u : State), (Safety.CoreReady s c g) ∧ ((!uns || size != 3) = true) ∧ (genOff s c y gen % sizeBytes size = 0) ∧ (u = loadCheck s c (tcmAddr c y (genOff s c y gen)) (sizeBytes size)) ∧ (poisoned u (lineOf (tcmAddr c y (genOff s c y gen))) = false)) ∧
    (∃ (s : State) (c : CoreId) (g : Guard) (rd : R5) (y : Bool) (gen : BitVec 2) (pm : Bool) (size : BitVec 2) (l : List Byte), (Safety.CoreReady s c g) ∧ (l = leBytes (sizeBytes size) (rg s c rd).toNat) ∧ (genOff s c y gen % l.length = 0)) :=
  ⟨⟨(cbWith ({ core3 with avail := true })), 3, g0, 1, true, false, true, 2, 3, 1, false, by decide +kernel⟩,
   ⟨(cbWith ({ core3 with avail := true })), 3, g0, 2, 1, (0, false), by decide +kernel⟩,
   ⟨(cbWith ({ core3 with avail := true })), 3, g0, 2, 1, (0, false), by decide +kernel⟩,
   ⟨(cbWith ({ core3 with avail := true })), 3, g0, 2, 1, (0, false), by decide +kernel⟩,
   ⟨(cbWith ({ core3 with avail := true })), 3, g0, 2, 1, by decide +kernel⟩,
   ⟨(cbWith ({ core3 with avail := true })), 3, g0, 2, 1, by decide +kernel⟩,
   ⟨(cbWith ({ core3 with avail := true })), 3, g0, 2, 1, by decide +kernel⟩,
   ⟨(cbWith ({ core3 with avail := true })), 3, g0, 2, 1, by decide +kernel⟩,
   ⟨(cbWith ({ core3 with avail := true })), 3, g0, 2, 1, by decide +kernel⟩,
   ⟨(cbWith ({ core3 with avail := true })), 3, g0, 2, 1, by decide +kernel⟩,
   ⟨(cbWith ({ core3 with avail := true })), 3, g0, 2, by decide +kernel⟩,
   ⟨(cbWith ({ core3 with avail := true })), 3, g0, 0, 1, 2, true, false, 0, false, true, false, false, (macxMod (cbWith ({ core3 with avail := true })) 3 1 2 true false), (cbWith ({ core3 with avail := true })), (cbWith ({ core3 with avail := true })), by decide +kernel⟩,
   ⟨(cbWith ({ core3 with avail := true })), 3, g0, 2, false, 1, true, 2, false, (cbWith ({ core3 with avail := true })), by decide +kernel⟩,
   ⟨(cbWith ({ core3 with avail := true })), 3, g0, 2, false, 1, true, 2, [0,0,0,0], by decide +kernel⟩⟩

/-- States and operands that meet the hypotheses of each clause of `MemoryInstructionsComplete`. -/
theorem witness_MemoryInstructionsComplete :
    (∃ (s : State) (c : CoreId) (g : Guard) (size : BitVec 2) (uns : Bool) (rd ra : R5) (off : BitVec 12) (n va : Nat) (l : List Byte) (attr : Nat), (Safety.CoreReady s c g) ∧ ((!(uns && size == 3)) = true) ∧ (n = sizeBytes size) ∧ (va = offAddr (rg s c ra) off n) ∧ (accessWaits s c (curBank s c).priv .load va n = false) ∧ (hostAsk s c (curBank s c).priv va n = none) ∧ ((anyRead s c (curBank s c).priv va n).2.toOption = some (l, attr))) ∧
    (∃ (s : State) (c : CoreId) (g : Guard) (size : BitVec 2) (rs ra : R5) (off : BitVec 12) (va attr : Nat) (l : List Byte), (Safety.CoreReady s c g) ∧ (l = leBytes (sizeBytes size) (rg s c rs).toNat) ∧ (va = offAddr (rg s c ra) off (sizeBytes size)) ∧ (accessWaits s c (curBank s c).priv .store va l.length = false) ∧ ((anyWrite s c (curBank s c).priv va l).2.toOption = some attr)) ∧
    (∃ (s : State) (c : CoreId) (g : Guard) (size : BitVec 2) (uns : Bool) (rd ra : R5) (off : BitVec 12) (n va : Nat), (Safety.CoreReady s c g) ∧ ((!(uns && size == 3)) = true) ∧ (n = sizeBytes size) ∧ (va = offAddr (rg s c ra) off n) ∧ (accessWaits s c (curBank s c).priv .load va n = true)) ∧
    (∃ (s : State) (c : CoreId) (g : Guard) (size : BitVec 2) (rs ra : R5) (off : BitVec 12) (n va : Nat), (Safety.CoreReady s c g) ∧ (n = sizeBytes size) ∧ (va = offAddr (rg s c ra) off n) ∧ (accessWaits s c (curBank s c).priv .store va n = true)) ∧
    (∃ (s : State) (c : CoreId) (g : Guard) (fn : BitVec 7) (rd ra rb : R5) (n va : Nat) (l : List Byte) (attr : Nat), (Safety.CoreReady s c g) ∧ (fn.toNat.testBit 6 = false) ∧ (fn.toNat.testBit 0 = false) ∧ ((!fn.toNat.testBit 3 || fn.toNat / 16 % 4 != 3) = true) ∧ (n = 2 ^ (fn.toNat / 16 % 4)) ∧ (va = (rg s c ra + rg s c rb <<< (fn.toNat / 2 % 4)).toNat) ∧ (accessWaits s c (curBank s c).priv .load va n = false) ∧ (hostAsk s c (curBank s c).priv va n = none) ∧ ((anyRead s c (curBank s c).priv va n).2.toOption = some (l, attr))) ∧
    (∃ (s : State) (c : CoreId) (g : Guard) (fn : BitVec 7) (rd ra rb : R5) (va : Nat) (l : List Byte) (attr : Nat), (Safety.CoreReady s c g) ∧ (fn.toNat.testBit 6 = true) ∧ (fn.toNat.testBit 0 = false) ∧ (fn.toNat.testBit 3 = false) ∧ (l = leBytes (2 ^ (fn.toNat / 16 % 4)) (rg s c rd).toNat) ∧ (va = (rg s c ra + rg s c rb <<< (fn.toNat / 2 % 4)).toNat) ∧ (accessWaits s c (curBank s c).priv .store va l.length = false) ∧ ((anyWrite s c (curBank s c).priv va l).2.toOption = some attr)) ∧
    (∃ (s : State) (c : CoreId) (g : Guard) (rd ra rk : R5) (off : BitVec 6) (va : Nat) (l : List Byte) (attr : Nat) (v : Word), (Safety.CoreReady s c g) ∧ (rd ≠ rk) ∧ (va = offAddr (rg s c ra) off 8) ∧ ((dataRead s c (curBank s c).priv va 8 .mirror).2.toOption = some (l, attr)) ∧ (v = BitVec.ofNat 64 (leNat l)) ∧ (mirrorOk v = true)) ∧
    (∃ (s : State) (c : CoreId) (g : Guard) (rs ra rk : R5) (off : BitVec 6) (va attr : Nat), (Safety.CoreReady s c g) ∧ (va = offAddr (rg s c ra) off 8) ∧ (mirrorReach s c (curBank s c).priv va = (s, none)) ∧ (complements (rg s c rs) (rg s c rk) = true) ∧ ((dataWrite s c (curBank s c).priv va (leBytes 4 (rg s c rs).toNat ++ leBytes 4 (rg s c rk).toNat) .mirror true).2.toOption = some attr)) ∧
    (∃ (s : State) (c : CoreId) (g : Guard) (rd ra : R5) (d : Bool) (n va pa : Nat) (l : List Byte) (u : State), (Safety.CoreReady s c g) ∧ (n = lockedSize d) ∧ (va = (rg s c ra).toNat) ∧ (ownWaits s c va n = false) ∧ ((lockedXl s c (curBank s c).priv .load va n).1 = s) ∧ ((lockedXl s c (curBank s c).priv .load va n).2.toOption = some pa) ∧ ((physRead (obtainLine s c va pa n) c va pa 0 n).1 = u) ∧ ((physRead (obtainLine s c va pa n) c va pa 0 n).2.toOption = some l)) ∧
    (∃ (s : State) (c : CoreId) (g : Guard) (rd ra rs : R5) (d : Bool) (n va pa : Nat), (Safety.CoreReady s c g) ∧ (rd ≠ rs) ∧ (n = lockedSize d) ∧ (va = (rg s c ra).toNat) ∧ ((lockedXl s c (curBank s c).priv .store va n).1 = s) ∧ ((lockedXl s c (curBank s c).priv .store va n).2.toOption = some pa) ∧ (reserved s c va n = false)) ∧
    (∃ (s : State) (c : CoreId) (g : Guard) (rd ra rs : R5) (d : Bool) (n va pa : Nat) (l : List Byte), (Safety.CoreReady s c g) ∧ (rd ≠ rs) ∧ (n = lockedSize d) ∧ (va = (rg s c ra).toNat) ∧ ((lockedXl s c (curBank s c).priv .store va n).1 = s) ∧ ((lockedXl s c (curBank s c).priv .store va n).2.toOption = some pa) ∧ (reserved s c va n = true) ∧ (accessWaits s c (curBank s c).priv .store va n = false) ∧ (l = leBytes n (rg s c rs).toNat) ∧ ((physWrite s c va pa 0 l .locked false).2 = none)) ∧
    (∃ (s : State) (c : CoreId) (g : Guard), (Safety.CoreReadyCtl s c g)) ∧
    (∃ (s : State) (c : CoreId) (g : Guard), (Safety.CoreReadyCtl s c g)) ∧
    (∃ (s : State) (c : CoreId) (g : Guard), (Safety.CoreReadyCtl s c g)) ∧
    (∃ (s u : State) (c : CoreId) (g : Guard) (b : Bank), (Safety.CoreReadyCtl s c g) ∧ (b = { curBank s c with
        gtb := (if (curBank s c).gtbWait then rd s (Reg.XL_GTB c (getCore s c).cur) else (curBank s c).gtb)
        ptb := (if (curBank s c).ptbWait then rd s (Reg.XL_PTB c) else (curBank s c).ptb)
        gtbWait := false
        ptbWait := false }) ∧ (u = killFetch (issueFetch (setCore s c (ownStores ((getCore s c).setBank (getCore s c).cur b))) c b.pc 1) c)) :=
  ⟨⟨(c0With (core3.setBank 0 { Bank.reset 0 0 with g := List.replicate 8 0xFF0000010000 })), 3, g0, 2, true, 1, 2, 0, 4, 0xFF0000010000, [0, 0, 0, 0], 1, by decide +kernel⟩,
   ⟨(c0With (core3.setBank 0 { Bank.reset 0 0 with g := List.replicate 8 0xFF0000010000 })), 3, g0, 2, 1, 2, 0, 0xFF0000010000, 1, [0, 0, 1, 0], by decide +kernel⟩,
   ⟨{ (setSl (d0With core3) 0 { Slice.reset with txs := [newTx 0 .rdOnce (.ep 386)] }) with regs := (d0With core3).regs.set (rkey (Reg.D2D_STATUS 0)) 2 }, 3, g0, 2, true, 1, 2, 0, 4, 0, by decide +kernel⟩,
   ⟨{ (setSl (d0With core3) 0 { Slice.reset with txs := [newTx 0 .rdOnce (.ep 386)] }) with regs := (d0With core3).regs.set (rkey (Reg.D2D_STATUS 0)) 2 }, 3, g0, 2, 1, 2, 0, 4, 0, by decide +kernel⟩,
   ⟨(c0With (core3.setBank 0 { Bank.reset 0 0 with g := List.replicate 8 0xFF0000010000, win := List.replicate 128 0 })), 3, g0, 0x20, 1, 2, 0x1F, 4, 0xFF0000010000, [0, 0, 0, 0], 1, by decide +kernel⟩,
   ⟨(c0With (core3.setBank 0 { Bank.reset 0 0 with g := List.replicate 8 0xFF0000010000, win := List.replicate 128 0 })), 3, g0, 0x60, 1, 2, 0x1F, 0xFF0000010000, [0, 0, 1, 0], 1, by decide +kernel⟩,
   ⟨(d0With core3), 3, g0, 1, 2, 4, 0, 0, [0, 0, 0, 0, 255, 255, 255, 255], 2, 0xFFFFFFFF00000000, by decide +kernel⟩,
   ⟨(d0With (core3.setBank 0 { Bank.reset 0 0 with win := List.replicate 128 0xFFFFFFFF })), 3, g0, 0, 2, 8, 0, 0, 2, by decide +kernel⟩,
   ⟨(d0With core3), 3, g0, 1, 2, false, 4, 0, 0, [0, 0, 0, 0], (physRead (obtainLine (d0With core3) 3 0 0 4) 3 0 0 0 4).1, by decide +kernel⟩,
   ⟨(d0With core3), 3, g0, 1, 2, 4, false, 4, 0, 0, by decide +kernel⟩,
   ⟨(d0With { core3 with resv := some (0, 0, 4) }), 3, g0, 1, 2, 4, false, 4, 0, 0, [0, 0, 0, 0], by decide +kernel⟩,
   ⟨cb, 3, g0, by decide +kernel⟩,
   ⟨cb, 3, g0, by decide +kernel⟩,
   ⟨cb, 3, g0, by decide +kernel⟩,
   ⟨cb, killFetch (issueFetch (setCore cb 3 (ownStores ((getCore cb 3).setBank 0 (curBank cb 3)))) 3 (curBank cb 3).pc 1) 3, 3, g0, curBank cb 3, by decide +kernel⟩⟩

/-- States and operands that meet the hypotheses of each clause of `ControlInstructionsComplete`. -/
theorem witness_ControlInstructionsComplete :
    (∃ (s : State) (c : CoreId) (g : Guard) (disp : BitVec 22) (a : Word), (Safety.CoreReadyCtl s c g) ∧ (a = (curBank s c).pc + ofI (4 * disp.toInt)) ∧ (badTarget a = false)) ∧
    (∃ (s : State) (c : CoreId) (g : Guard) (ra : R5), (Safety.CoreReadyCtl s c g) ∧ (badTarget (rg s c ra) = false)) ∧
    (∃ (s : State) (c : CoreId) (g : Guard) (ra : R5), (Safety.CoreReadyCtl s c g) ∧ (badTarget (rg s c ra) = true)) ∧
    (∃ (s : State) (c : CoreId) (g : Guard) (disp : BitVec 22) (t u v w : State) (f : Word) (a : Word), (Safety.CoreReadyCtl s c g) ∧ (a = (curBank s c).pc + ofI (4 * disp.toInt)) ∧ (callFault (curBank s c) a = none) ∧ (spillTo 6 c 8 s = (t, none)) ∧ (f = nth (curBank t c).sp 0 (curBank t c).priv - 144) ∧ (store64 t c (curBank t c).priv f.toNat ((curBank t c).pc + 4) = (u, none)) ∧ (store64 u c (curBank t c).priv (f.toNat + 8) (curBank t c).wfb = (v, none)) ∧ (w = predict v c kCall (isCond g) true true a)) ∧
    (∃ (s : State) (c : CoreId) (g : Guard) (ra : R5) (t u v w : State) (f : Word) (a : Word), (Safety.CoreReadyCtl s c g) ∧ (a = rg s c ra) ∧ (callFault (curBank s c) a = none) ∧ (spillTo 6 c 8 s = (t, none)) ∧ (f = nth (curBank t c).sp 0 (curBank t c).priv - 144) ∧ (store64 t c (curBank t c).priv f.toNat ((curBank t c).pc + 4) = (u, none)) ∧ (store64 u c (curBank t c).priv (f.toNat + 8) (curBank t c).wfb = (v, none)) ∧ (w = predict v c kCall (isCond g) true false a)) ∧
    (∃ (s : State) (c : CoreId) (g : Guard) (t u w : State) (ra pf : Word), (Safety.CoreReadyCtl s c g) ∧ ((curBank s c).depth ≠ 0) ∧ ((load64 s c (curBank s c).priv (curBank s c).wfb.toNat).1 = t) ∧ ((load64 s c (curBank s c).priv (curBank s c).wfb.toNat).2.toOption = some ra) ∧ (badTarget ra = false) ∧ ((curBank s c).popLow = false) ∧ ((below t c (curBank s c).priv).1 = u) ∧ ((below t c (curBank s c).priv).2.toOption = some pf) ∧ (w = predict u c kRet (isCond g) true false ra)) ∧
    (∃ (s : State) (c : CoreId) (g : Guard), (Safety.CoreReadyCtl s c g) ∧ ((curBank s c).depth = 0)) ∧
    (∃ (s : State) (c : CoreId) (g : Guard) (lv i : Bool) (cnt : BitVec 10) (cr : R5) (endOff : BitVec 10) (n : Nat) (last : Word), (Safety.CoreReady s c g) ∧ (n = (if i then cnt.toNat else uintOf 32 (rg s c cr))) ∧ (last = (curBank s c).pc + 4 + adr (4 * endOff.toNat))) :=
  ⟨⟨cb, 3, g0, 16, 64, by decide +kernel⟩,
   ⟨cb, 3, g0, 2, by decide +kernel⟩,
   ⟨(cbWith (core3.setBank 0 ({ Bank.reset 0 0 with g := List.replicate 8 2 }))), 3, g0, 2, by decide +kernel⟩,
   ⟨(c0With (core3.setBank 0 { Bank.reset 0 0 with sp := List.replicate 4 0xFF0000011000 })), 3, g0, 16, (c0With (core3.setBank 0 { Bank.reset 0 0 with sp := List.replicate 4 0xFF0000011000 })), (store64 (c0With (core3.setBank 0 { Bank.reset 0 0 with sp := List.replicate 4 0xFF0000011000 })) 3 3 0xFF0000010F70 4).1, (store64 (store64 (c0With (core3.setBank 0 { Bank.reset 0 0 with sp := List.replicate 4 0xFF0000011000 })) 3 3 0xFF0000010F70 4).1 3 3 0xFF0000010F78 0).1, (predict (store64 (store64 (c0With (core3.setBank 0 { Bank.reset 0 0 with sp := List.replicate 4 0xFF0000011000 })) 3 3 0xFF0000010F70 4).1 3 3 0xFF0000010F78 0).1 3 kCall false true true 64), 0xFF0000010F70, 64, by decide +kernel, by decide +kernel, by decide +kernel, by decide +kernel, by decide +kernel, by decide +kernel, by decide +kernel, rfl⟩,
   ⟨(c0With (core3.setBank 0 { Bank.reset 0 0 with sp := List.replicate 4 0xFF0000011000 })), 3, g0, 2, (c0With (core3.setBank 0 { Bank.reset 0 0 with sp := List.replicate 4 0xFF0000011000 })), (store64 (c0With (core3.setBank 0 { Bank.reset 0 0 with sp := List.replicate 4 0xFF0000011000 })) 3 3 0xFF0000010F70 4).1, (store64 (store64 (c0With (core3.setBank 0 { Bank.reset 0 0 with sp := List.replicate 4 0xFF0000011000 })) 3 3 0xFF0000010F70 4).1 3 3 0xFF0000010F78 0).1, (predict (store64 (store64 (c0With (core3.setBank 0 { Bank.reset 0 0 with sp := List.replicate 4 0xFF0000011000 })) 3 3 0xFF0000010F70 4).1 3 3 0xFF0000010F78 0).1 3 kCall false true false 0), 0xFF0000010F70, 0, by decide +kernel, by decide +kernel, by decide +kernel, by decide +kernel, by decide +kernel, by decide +kernel, by decide +kernel, rfl⟩,
   ⟨({ base with cores := [(3, core3.setBank 0 { Bank.reset 0 0 with wfb := 0xFF0000010F70, depth := 1, wres := 2, cwp := 1 })], regs := [(rkey (Reg.PART_CORES 0 0), 8)] }), 3, g0, ({ base with cores := [(3, core3.setBank 0 { Bank.reset 0 0 with wfb := 0xFF0000010F70, depth := 1, wres := 2, cwp := 1 })], regs := [(rkey (Reg.PART_CORES 0 0), 8)] }), ({ base with cores := [(3, core3.setBank 0 { Bank.reset 0 0 with wfb := 0xFF0000010F70, depth := 1, wres := 2, cwp := 1 })], regs := [(rkey (Reg.PART_CORES 0 0), 8)] }), (predict ({ base with cores := [(3, core3.setBank 0 { Bank.reset 0 0 with wfb := 0xFF0000010F70, depth := 1, wres := 2, cwp := 1 })], regs := [(rkey (Reg.PART_CORES 0 0), 8)] }) 3 kRet false true false 0), 0, 0, by decide +kernel, by decide +kernel, by decide +kernel, by decide +kernel, by decide +kernel, by decide +kernel, by decide +kernel, by decide +kernel, rfl⟩,
   ⟨cb, 3, g0, by decide +kernel⟩,
   ⟨cb, 3, g0, true, true, 5, 0, 8, 5, 36, by decide +kernel⟩⟩

/-- States and operands that meet the hypotheses of each clause of `SystemInstructionsComplete`. -/
theorem witness_SystemInstructionsComplete :
    (∃ (s : State) (c : CoreId) (g : Guard) (rd : R5) (sr : BitVec 6), (Safety.CoreReadyExt s c g) ∧ (srListed sr.toNat = true) ∧ (srReadPriv sr.toNat ≤ (curBank s c).priv) ∧ (((getCore s c).pair.find? fun e => e.1 == sr.toNat) = none)) ∧
    (∃ (s : State) (c : CoreId) (g : Guard) (rd : R5) (sr : BitVec 6) (v : Word), (Safety.CoreReadyExt s c g) ∧ (srListed sr.toNat = true) ∧ (srReadPriv sr.toNat ≤ (curBank s c).priv) ∧ (((getCore s c).pair.find? fun e => e.1 == sr.toNat) = some (sr.toNat, v))) ∧
    (∃ (s : State) (c : CoreId) (g : Guard) (rd : R5) (sr : BitVec 6), (Safety.CoreReadyExt s c g) ∧ (srListed sr.toNat = true) ∧ ((curBank s c).priv < srReadPriv sr.toNat)) ∧
    (∃ (s : State) (c : CoreId) (g : Guard) (ra : R5) (sr : BitVec 6) (n : Nat) (u : State), (Safety.CoreReadyCtl s c g) ∧ (n = sr.toNat) ∧ (srWritable n = true) ∧ (srExt n = false) ∧ (srWritePriv n ≤ (curBank s c).priv) ∧ (n ≠ 0 ∧ n ≠ 0x20) ∧ ((n = 1 ∨ n = 2) → (curBank s c).wres = 1) ∧ (n = 4 + (curBank s c).priv → ¬ (rg s c ra).toNat < (nth (curBank s c).slim 0 (curBank s c).priv).toNat) ∧ (u = retire s c 1 none)) ∧
    (∃ (s : State) (c : CoreId) (g : Guard) (ra : R5) (u : State), (Safety.CoreReadyCtl s c g) ∧ (2 ≤ (curBank s c).priv) ∧ ((curBank s c).imprecise = []) ∧ (u = retire (setCur s c ((curBank s c).setMl (rg s c ra))) c 1 none)) ∧
    (∃ (s : State) (c : CoreId) (g : Guard) (ra : R5) (u : State), (Safety.CoreReadyCtl s c g ∧ (getCore s c).avail = true) ∧ (srWritePriv 0x20 ≤ (curBank s c).priv) ∧ (xstateOwned (getCore s c) (getCore s c).cur = false) ∧ (u = retire s c 1 none)) ∧
    (∃ (s : State) (c : CoreId) (g : Guard) (t u : State) (w pf : Word), (Safety.CoreReadyCtl s c g) ∧ ((curBank s c).priv ≠ 0) ∧ ((getCore s c).df = false) ∧ ((curBank s c).depth ≠ 0) ∧ ((load64 s c (curBank s c).priv (curBank s c).wfb.toNat).1 = t) ∧ ((load64 s c (curBank s c).priv (curBank s c).wfb.toNat).2.toOption = some w) ∧ (frameOk w (curBank s c).priv = true) ∧ ((curBank s c).popLow = false) ∧ ((below t c (fld w 48 2)).1 = u) ∧ ((below t c (fld w 48 2)).2.toOption = some pf)) ∧
    (∃ (s t u v : State) (c : CoreId) (g : Guard) (l : Nat), (Safety.CoreReadyCtl s c g) ∧ ((curBank s c).priv ≠ 0) ∧ ((getCore s c).df = true) ∧ (rb s (Reg.EXC_DF_INFO c) 15 = false) ∧ (l = rf s (Reg.EXC_DF_INFO c) 12 3) ∧ (t = issueFetch (countEvt s c 0x02 1 { curCtx s c with addr := some (curBank s c).pc.toNat }) c (curBank (countEvt s c 0x02 1 { curCtx s c with addr := some (curBank s c).pc.toNat }) c).pc 1) ∧ (u = setCore t c { (flushShadow (getCore t c) 7).setBank 7 (((flushShadow (getCore t c) 7).bank 7).dfRestore (rd t (Reg.EXC_DF_B7 c))) with df := false, resv := none }) ∧ (v = (if l = 7 then killFetch u c else makeCurrent u c (l)))) ∧
    (∃ (s : State) (c : CoreId) (g : Guard), (Safety.CoreReadyCtl s c g) ∧ ((curBank s c).priv = 0)) ∧
    (∃ (s : State) (c : CoreId) (g : Guard), (Safety.CoreReady s c g) ∧ ((curBank s c).wres ≤ 1)) ∧
    (∃ (s : State) (c : CoreId) (g : Guard) (t : State), (Safety.CoreReady s c g) ∧ (1 < (curBank s c).wres) ∧ (spill s c = (t, none)) ∧ ((curBank t c).wres ≤ 1)) ∧
    (∃ (s : State) (c : CoreId) (g : Guard) (t : State), (Safety.CoreReady s c g) ∧ (1 < (curBank s c).wres) ∧ (spill s c = (t, none)) ∧ (1 < (curBank t c).wres) ∧ ((levelUp t c).isSome = false)) ∧
    (∃ (s : State) (c : CoreId) (g : Guard) (t : State), (Safety.CoreReady s c g) ∧ (1 < (curBank s c).wres) ∧ (spill s c = (t, none)) ∧ (1 < (curBank t c).wres) ∧ ((levelUp t c).isSome = true)) ∧
    (∃ (s : State) (c : CoreId) (g : Guard) (t : State) (f : Flt), (Safety.CoreReady s c g) ∧ (1 < (curBank s c).wres) ∧ (spill s c = (t, some f))) ∧
    (∃ (s : State) (c : CoreId) (g : Guard) (arg : BitVec 10), (Safety.CoreReadyCtl s c g)) ∧
    (∃ (s : State) (c : CoreId) (g : Guard) (arg : BitVec 10), (Safety.CoreReadyCtl s c g) ∧ (coreGrant s c ≠ 2)) ∧
    (∃ (s : State) (c : CoreId) (g : Guard) (arg : BitVec 10) (p : Part), (Safety.CoreReadyCtl s c g) ∧ (coreGrant s c = 2) ∧ (coreOwner s c = some p.val) ∧ (rb s (Reg.DBGP_CTL p) 3 = true)) :=
  ⟨⟨(cbWith { core3 with avail := true }), 3, g0, 1, 0, by decide +kernel⟩,
   ⟨(cbWith { core3 with avail := true, pair := [(0x10, 5)] }), 3, g0, 1, 0x10, 5, by decide +kernel⟩,
   ⟨(cbWith { core3.setBank 0 { Bank.reset 0 0 with status := 0 } with avail := true }), 3, g0, 1, 5, by decide +kernel⟩,
   ⟨cb, 3, g0, 1, 4, 4, (retire cb 3 1 none), by decide +kernel, by decide +kernel, by decide +kernel, by decide +kernel, by decide +kernel, by decide +kernel, by decide +kernel, by decide +kernel, rfl⟩,
   ⟨cb, 3, g0, 1, (retire (setCur cb 3 ((curBank cb 3).setMl (rg cb 3 1))) 3 1 none), by decide +kernel, by decide +kernel, by decide +kernel, rfl⟩,
   ⟨(cbWith { core3 with avail := true }), 3, g0, 1, (retire (cbWith { core3 with avail := true }) 3 1 none), by decide +kernel, by decide +kernel, by decide +kernel, rfl⟩,
   ⟨({ base with cores := [(3, core3.setBank 0 { Bank.reset 0 0 with wfb := 0xFF0000010F70, depth := 1, wres := 2, cwp := 1 })], regs := [(rkey (Reg.PART_CORES 0 0), 8)], mem := [(0xF10000310F70, 1)] }), 3, g0, ({ base with cores := [(3, core3.setBank 0 { Bank.reset 0 0 with wfb := 0xFF0000010F70, depth := 1, wres := 2, cwp := 1 })], regs := [(rkey (Reg.PART_CORES 0 0), 8)], mem := [(0xF10000310F70, 1)] }), ({ base with cores := [(3, core3.setBank 0 { Bank.reset 0 0 with wfb := 0xFF0000010F70, depth := 1, wres := 2, cwp := 1 })], regs := [(rkey (Reg.PART_CORES 0 0), 8)], mem := [(0xF10000310F70, 1)] }), 1, 0, by decide +kernel⟩,
   ⟨(cbWith { core3 with df := true }), (fun (s : State) (c : CoreId) => issueFetch (countEvt s c 0x02 1 { curCtx s c with addr := some (curBank s c).pc.toNat }) c (curBank (countEvt s c 0x02 1 { curCtx s c with addr := some (curBank s c).pc.toNat }) c).pc 1) (cbWith { core3 with df := true }) 3, (fun (t : State) (c : CoreId) => setCore t c { (flushShadow (getCore t c) 7).setBank 7 (((flushShadow (getCore t c) 7).bank 7).dfRestore (rd t (Reg.EXC_DF_B7 c))) with df := false, resv := none }) ((fun (s : State) (c : CoreId) => issueFetch (countEvt s c 0x02 1 { curCtx s c with addr := some (curBank s c).pc.toNat }) c (curBank (countEvt s c 0x02 1 { curCtx s c with addr := some (curBank s c).pc.toNat }) c).pc 1) (cbWith { core3 with df := true }) 3) 3, (fun (u : State) (c : CoreId) (l : Nat) => (if l = 7 then killFetch u c else makeCurrent u c (l))) ((fun (t : State) (c : CoreId) => setCore t c { (flushShadow (getCore t c) 7).setBank 7 (((flushShadow (getCore t c) 7).bank 7).dfRestore (rd t (Reg.EXC_DF_B7 c))) with df := false, resv := none }) ((fun (s : State) (c : CoreId) => issueFetch (countEvt s c 0x02 1 { curCtx s c with addr := some (curBank s c).pc.toNat }) c (curBank (countEvt s c 0x02 1 { curCtx s c with addr := some (curBank s c).pc.toNat }) c).pc 1) (cbWith { core3 with df := true }) 3) 3) 3 0, 3, g0, 0, by decide +kernel, by decide +kernel, by decide +kernel, by decide +kernel, by decide +kernel, rfl, rfl, rfl⟩,
   ⟨(cbWith (core3.setBank 0 { Bank.reset 0 0 with status := 0 })), 3, g0, by decide +kernel⟩,
   ⟨cb, 3, g0, by decide +kernel⟩,
   ⟨({ base with cores := [(3, core3.setBank 0 { Bank.reset 0 0 with wfb := 0xFF0000010F70, depth := 1, wres := 2, cwp := 1, fb := List.replicate 8 0xFF0000010F70, fpriv := List.replicate 8 3 })], regs := [(rkey (Reg.PART_CORES 0 0), 8)] }), 3, g0, (spill ({ base with cores := [(3, core3.setBank 0 { Bank.reset 0 0 with wfb := 0xFF0000010F70, depth := 1, wres := 2, cwp := 1, fb := List.replicate 8 0xFF0000010F70, fpriv := List.replicate 8 3 })], regs := [(rkey (Reg.PART_CORES 0 0), 8)] }) 3).1, by decide +kernel⟩,
   ⟨({ base with cores := [(3, core3.setBank 0 { Bank.reset 0 0 with wfb := 0xFF0000010F70, depth := 2, wres := 3, cwp := 2, fb := List.replicate 8 0xFF0000010F70, fpriv := List.replicate 8 3 })], regs := [(rkey (Reg.PART_CORES 0 0), 8)] }), 3, g0, (spill ({ base with cores := [(3, core3.setBank 0 { Bank.reset 0 0 with wfb := 0xFF0000010F70, depth := 2, wres := 3, cwp := 2, fb := List.replicate 8 0xFF0000010F70, fpriv := List.replicate 8 3 })], regs := [(rkey (Reg.PART_CORES 0 0), 8)] }) 3).1, by decide +kernel⟩,
   ⟨({ base with cores := [(3, { (core3.setBank 1 { Bank.reset 1 0 with st := .parked }).setBank 0 { Bank.reset 0 0 with wfb := 0xFF0000010F70, depth := 2, wres := 3, cwp := 2, fb := List.replicate 8 0xFF0000010F70, fpriv := List.replicate 8 3 } with inbox := List.replicate 8 (some { src := 5, level := 1, mode := 0, late := false, stamped := false, ovr := false, half := false, loc := false, count := 1, phase := 0, time := 0 }) })], regs := [(rkey (Reg.PART_CORES 0 0), 8), (rkey (Reg.SCHED_LVLEN 3), 3)] }), 3, g0, (spill ({ base with cores := [(3, { (core3.setBank 1 { Bank.reset 1 0 with st := .parked }).setBank 0 { Bank.reset 0 0 with wfb := 0xFF0000010F70, depth := 2, wres := 3, cwp := 2, fb := List.replicate 8 0xFF0000010F70, fpriv := List.replicate 8 3 } with inbox := List.replicate 8 (some { src := 5, level := 1, mode := 0, late := false, stamped := false, ovr := false, half := false, loc := false, count := 1, phase := 0, time := 0 }) })], regs := [(rkey (Reg.PART_CORES 0 0), 8), (rkey (Reg.SCHED_LVLEN 3), 3)] }) 3).1, by decide +kernel⟩,
   ⟨({ base with cores := [(3, core3.setBank 0 { Bank.reset 0 0 with wfb := 0xFF0000010F70, depth := 1, wres := 2, cwp := 1, fb := List.replicate 8 0xFF0000010F71, fpriv := List.replicate 8 3 })], regs := [(rkey (Reg.PART_CORES 0 0), 8)] }), 3, g0, (spill ({ base with cores := [(3, core3.setBank 0 { Bank.reset 0 0 with wfb := 0xFF0000010F70, depth := 1, wres := 2, cwp := 1, fb := List.replicate 8 0xFF0000010F71, fpriv := List.replicate 8 3 })], regs := [(rkey (Reg.PART_CORES 0 0), 8)] }) 3).1, ((spill ({ base with cores := [(3, core3.setBank 0 { Bank.reset 0 0 with wfb := 0xFF0000010F70, depth := 1, wres := 2, cwp := 1, fb := List.replicate 8 0xFF0000010F71, fpriv := List.replicate 8 3 })], regs := [(rkey (Reg.PART_CORES 0 0), 8)] }) 3).2.getD { cause := 0, sub := 0, t1 := 0 }), by decide +kernel⟩,
   ⟨cb, 3, g0, 5, by decide +kernel⟩,
   ⟨cb, 3, g0, 5, by decide +kernel⟩,
   ⟨{ setGrants cb 1 1 2 with regs := cb.regs.set (rkey (Reg.DBGP_CTL 1)) 8 }, 3, g0, 5, 1, by decide +kernel⟩⟩

/-- States and operands that meet the hypotheses of each clause of `FloatingPointInstructionsComplete`. -/
theorem witness_FloatingPointInstructionsComplete :
    (∃ (s : State) (c : CoreId) (g : Guard) (fn : BitVec 7) (fd fa fb : R5) (v : Nat) (t : State) (r : FpRes), (Safety.CoreReadyExt s c g) ∧ (decide (fn.toNat % 64 ≤ 9) = true) ∧ ((v, t) = freeIf (nanBits (fmtOf (decide (64 ≤ fn.toNat))) (fbits (decide (64 ≤ fn.toNat)) (fr s c fa)) || nanBits (fmtOf (decide (64 ≤ fn.toNat))) (fbits (decide (64 ≤ fn.toNat)) (fr s c fb)) || nanBits (fmtOf (decide (64 ≤ fn.toNat))) (fbits (decide (64 ≤ fn.toNat)) (fr s c fd))) s) ∧ (r = fpOp (fmtOf (decide (64 ≤ fn.toNat))) (fn.toNat % 64) (frm t c) v (fbits (decide (64 ≤ fn.toNat)) (fr s c fa)) (fbits (decide (64 ≤ fn.toNat)) (fr s c fb)) (fbits (decide (64 ≤ fn.toNat)) (fr s c fd))) ∧ (r.flags &&& fld (getCore (noteFlags t c r.flags) c).fpcsr 7 5 = 0)) ∧
    (∃ (s : State) (c : CoreId) (g : Guard) (dbl : Bool) (fd fa fb : R5) (v : Nat) (t : State) (r : FpRes), (Safety.CoreReadyExt s c g) ∧ ((v, t) = freeIf (nanBits (fmtOf dbl) (fbits dbl (fr s c fa)) || nanBits (fmtOf dbl) (fbits dbl (fr s c fb)) || nanBits (fmtOf dbl) (fbits dbl (fr s c fd))) s) ∧ (r = fpOp (fmtOf dbl) 3 (frm t c) v (fbits dbl (fr s c fa)) (fbits dbl (fr s c fb)) (fbits dbl (fr s c fd))) ∧ (r.flags &&& fld (getCore (noteFlags t c r.flags) c).fpcsr 7 5 = 0)) ∧
    (∃ (s : State) (c : CoreId) (g : Guard) (dbl : Bool) (fd fa fb : R5) (v : Nat) (t : State) (r : FpRes), (Safety.CoreReadyExt s c g) ∧ ((v, t) = freeIf (nanBits (fmtOf dbl) (fbits dbl (fr s c fa)) || nanBits (fmtOf dbl) (fbits dbl (fr s c fb)) || nanBits (fmtOf dbl) (fbits dbl (fr s c fd))) s) ∧ (r = fpOp (fmtOf dbl) 3 (frm t c) v (fbits dbl (fr s c fa)) (fbits dbl (fr s c fb)) (fbits dbl (fr s c fd))) ∧ (r.flags &&& fld (getCore (noteFlags t c r.flags) c).fpcsr 7 5 ≠ 0) ∧ ((curBank (noteFlags t c r.flags) c).imp = false)) ∧
    (∃ (s : State) (c : CoreId) (g : Guard) (dbl : Bool) (fd fa : R5) (v : Nat) (t : State) (r : FpRes), (Safety.CoreReadyExt s c g) ∧ ((v, t) = freeIf (nanBits (fmtOf dbl) (fbits dbl (fr s c fa)) || nanBits (fmtOf dbl) (fbits dbl (fr s c fa)) || nanBits (fmtOf dbl) (fbits dbl (fr s c fd))) s) ∧ (r = fpOp (fmtOf dbl) 4 (frm t c) v (fbits dbl (fr s c fa)) (fbits dbl (fr s c fa)) (fbits dbl (fr s c fd))) ∧ (r.flags &&& fld (getCore (noteFlags t c r.flags) c).fpcsr 7 5 = 0)) ∧
    (∃ (s : State) (c : CoreId) (g : Guard) (fn : BitVec 7) (rd ra : R5) (v : Nat) (t : State) (r : FpRes), (Safety.CoreReadyExt s c g) ∧ (fn.toNat % 64 = 0) ∧ ((v, t) = freeIf (nanBits (fmt64) ((fr s c ra).toNat)) s) ∧ (r = fpConv (fmtOf false) (frm t c) v (unpack fmt64 (fr s c ra).toNat)) ∧ (r.flags &&& fld (getCore (noteFlags t c r.flags) c).fpcsr 7 5 = 0)) ∧
    (∃ (s : State) (c : CoreId) (g : Guard) (fn : BitVec 7) (rd ra : R5) (v : Nat) (t : State) (r : FpRes), (Safety.CoreReadyExt s c g) ∧ (fn.toNat % 64 = 1) ∧ ((v, t) = freeIf (nanBits (fmt32) (unbox32 (fr s c ra))) s) ∧ (r = fpConv (fmtOf true) (frm t c) v (unpack fmt32 (unbox32 (fr s c ra)))) ∧ (r.flags &&& fld (getCore (noteFlags t c r.flags) c).fpcsr 7 5 = 0)) ∧
    (∃ (s : State) (c : CoreId) (g : Guard) (fn : BitVec 7) (rd ra : R5) (v : Nat) (t : State) (r : FpRes), (Safety.CoreReadyExt s c g) ∧ (fn.toNat % 64 = 2) ∧ ((v, t) = freeIf (nanBits (fmtOf (decide (64 ≤ fn.toNat))) (fbits (decide (64 ≤ fn.toNat)) (fr s c ra))) s) ∧ (r = fpToInt (frm t c) v (unpack (fmtOf (decide (64 ≤ fn.toNat))) (fbits (decide (64 ≤ fn.toNat)) (fr s c ra)))) ∧ (r.flags &&& fld (getCore (noteFlags t c r.flags) c).fpcsr 7 5 = 0)) ∧
    (∃ (s : State) (c : CoreId) (g : Guard) (fn : BitVec 7) (rd ra : R5) (r : FpRes), (Safety.CoreReadyExt s c g) ∧ (fn.toNat % 64 = 3) ∧ (r = fpOfInt (fmtOf (decide (64 ≤ fn.toNat))) (frm s c) (rg s c ra).toInt) ∧ (r.flags &&& fld (getCore (noteFlags s c r.flags) c).fpcsr 7 5 = 0)) ∧
    (∃ (s : State) (c : CoreId) (g : Guard) (dbl : Bool) (rd ra : R5), (Safety.CoreReadyExt s c g)) ∧
    (∃ (s : State) (c : CoreId) (g : Guard) (dbl : Bool) (rd ra : R5), (Safety.CoreReadyExt s c g)) ∧
    (∃ (s : State) (c : CoreId) (g : Guard) (dbl : Bool) (pd : BitVec 3) (rel : BitVec 2) (fa fb : R5) (r : Bool × Nat), (Safety.CoreReadyExt s c g) ∧ (r = fpCmp rel.toNat (unpack (fmtOf dbl) (fbits dbl (fr s c fa))) (unpack (fmtOf dbl) (fbits dbl (fr s c fb)))) ∧ (r.2 &&& fld (getCore (noteFlags s c r.2) c).fpcsr 7 5 = 0)) ∧
    (∃ (s : State) (c : CoreId) (g : Guard) (fd ra : R5) (sz : BitVec 2) (off : BitVec 9) (n va : Nat) (l : List Byte) (attr : Nat), (Safety.CoreReadyExt s c g) ∧ ((sz != 3) = true) ∧ (n = fpSize sz) ∧ (va = offAddr (rg s c ra) off n) ∧ (accessWaits s c (curBank s c).priv .load va n = false) ∧ (hostAsk s c (curBank s c).priv va n = none) ∧ ((anyRead s c (curBank s c).priv va n).2.toOption = some (l, attr))) ∧
    (∃ (s : State) (c : CoreId) (g : Guard) (fd ra : R5) (off : BitVec 9) (va attr : Nat) (l : List Byte), (Safety.CoreReadyExt s c g) ∧ (l = leBytes 4 (unbox32 (fr s c fd))) ∧ (va = offAddr (rg s c ra) off 4) ∧ (accessWaits s c (curBank s c).priv .store va l.length = false) ∧ ((anyWrite s c (curBank s c).priv va l).2.toOption = some attr)) ∧
    (∃ (s : State) (c : CoreId) (g : Guard) (fd ra : R5) (off : BitVec 9) (va attr : Nat) (l : List Byte), (Safety.CoreReadyExt s c g) ∧ (l = leBytes 8 (fr s c fd).toNat) ∧ (va = offAddr (rg s c ra) off 8) ∧ (accessWaits s c (curBank s c).priv .store va l.length = false) ∧ ((anyWrite s c (curBank s c).priv va l).2.toOption = some attr)) ∧
    (∃ (s : State) (c : CoreId) (g : Guard) (fd ra : R5) (off : BitVec 9) (va attr : Nat) (l : List Byte) (v : Nat) (t : State) (r : FpRes), (Safety.CoreReadyExt s c g) ∧ ((v, t) = freeIf (nanBits fmt32 (unbox32 (fr s c fd))) s) ∧ (r = fpConv fmt16 (frm t c) v (unpack fmt32 (unbox32 (fr s c fd)))) ∧ (l = leBytes 2 r.bits) ∧ (va = offAddr (rg s c ra) off 2) ∧ (r.flags &&& fld (getCore t c).fpcsr 7 5 = 0) ∧ (accessWaits t c (curBank t c).priv .store va l.length = false) ∧ ((anyWrite t c (curBank t c).priv va l).2.toOption = some attr)) :=
  ⟨⟨(cbWith { core3 with avail := true }), 3, g0, 64, 1, 2, 3, 0, (cbWith { core3 with avail := true }), { bits := 0, flags := 0 }, by decide +kernel⟩,
   ⟨(cbWith { core3 with avail := true, f := List.replicate 32 0x3FF0000000000000 }), 3, g0, true, 1, 2, 3, 0, (cbWith { core3 with avail := true, f := List.replicate 32 0x3FF0000000000000 }), { bits := 0x3FF0000000000000, flags := 0 }, by decide +kernel⟩,
   ⟨(cbWith { core3 with avail := true, f := [0, 0, 0x3FF0000000000000], fpcsr := 0xF80 }), 3, g0, true, 1, 2, 3, 0, (cbWith { core3 with avail := true, f := [0, 0, 0x3FF0000000000000], fpcsr := 0xF80 }), { bits := 0x7FF0000000000000, flags := 8 }, by decide +kernel⟩,
   ⟨(cbWith { core3 with avail := true }), 3, g0, true, 1, 2, 0, (cbWith { core3 with avail := true }), { bits := 0, flags := 0 }, by decide +kernel⟩,
   ⟨(cbWith { core3 with avail := true }), 3, g0, 64, 1, 2, 0, (cbWith { core3 with avail := true }), { bits := 0, flags := 0 }, by decide +kernel⟩,
   ⟨(cbWith { core3 with avail := true, f := List.replicate 32 0xFFFFFFFF00000000 }), 3, g0, 65, 1, 2, 0, (cbWith { core3 with avail := true, f := List.replicate 32 0xFFFFFFFF00000000 }), { bits := 0, flags := 0 }, by decide +kernel⟩,
   ⟨(cbWith { core3 with avail := true }), 3, g0, 66, 1, 2, 0, (cbWith { core3 with avail := true }), { bits := 0, flags := 0 }, by decide +kernel⟩,
   ⟨(cbWith { core3 with avail := true }), 3, g0, 67, 1, 2, { bits := 0, flags := 0 }, by decide +kernel⟩,
   ⟨(cbWith { core3 with avail := true }), 3, g0, true, 1, 2, by decide +kernel⟩,
   ⟨(cbWith { core3 with avail := true }), 3, g0, true, 1, 2, by decide +kernel⟩,
   ⟨(cbWith { core3 with avail := true }), 3, g0, true, 1, 0, 1, 2, (true, 0), by decide +kernel⟩,
   ⟨({ c0With { core3.setBank 0 { Bank.reset 0 0 with g := List.replicate 8 0xFF0000010000 } with avail := true } with resp := .none }), 3, g0, 1, 2, 1, 0, 4, 0xFF0000010000, [0, 0, 0, 0], 1, by decide +kernel⟩,
   ⟨({ c0With { core3.setBank 0 { Bank.reset 0 0 with g := List.replicate 8 0xFF0000010000 } with avail := true } with resp := .none }), 3, g0, 1, 2, 0, 0xFF0000010000, 1, [0, 0, 192, 127], by decide +kernel⟩,
   ⟨({ c0With { core3.setBank 0 { Bank.reset 0 0 with g := List.replicate 8 0xFF0000010000 } with avail := true } with resp := .none }), 3, g0, 1, 2, 0, 0xFF0000010000, 1, [0, 0, 0, 0, 0, 0, 0, 0], by decide +kernel⟩,
   ⟨({ c0With { core3.setBank 0 { Bank.reset 0 0 with g := List.replicate 8 0xFF0000010000 } with avail := true, f := List.replicate 32 0xFFFFFFFF00000000 } with resp := .none }), 3, g0, 1, 2, 0, 0xFF0000010000, 1, [0, 0], 0, ({ c0With { core3.setBank 0 { Bank.reset 0 0 with g := List.replicate 8 0xFF0000010000 } with avail := true, f := List.replicate 32 0xFFFFFFFF00000000 } with resp := .none }), { bits := 0, flags := 0 }, by decide +kernel⟩⟩

/-- States and operands that meet the hypotheses of each clause of `PrismAndCustomerCommandsComplete`. -/
theorem witness_PrismAndCustomerCommandsComplete :
    (∃ (s : State) (c : CoreId) (g : Guard) (n : BitVec 4) (ra : R5), (Safety.CoreReadyExt s c g) ∧ (decide (n.toNat < 12) = true)) ∧
    (∃ (s : State) (c : CoreId) (g : Guard) (rd : R5) (n : BitVec 4), (Safety.CoreReadyExt s c g) ∧ (decide (n.toNat < 12) = true)) ∧
    (∃ (s : State) (c : CoreId) (g : Guard) (rd : R5), (Safety.CoreReadyExt s c g)) ∧
    (∃ (s : State) (c : CoreId) (g : Guard) , (Safety.CoreReadyExt s c g)) ∧
    (∃ (s : State) (c : CoreId) (g : Guard) , (Safety.CoreReadyExt s c g) ∧ ((getCore s c).prismQ = []) ∧ (fld (getCore s c).pstat 16 4 = 0)) ∧
    (∃ (s : State) (c : CoreId) (g : Guard) , (Safety.CoreReadyExt s c g) ∧ ((getCore s c).prismQ = []) ∧ (fld (getCore s c).pstat 16 4 ≠ 0)) ∧
    (∃ (s : State) (c : CoreId) (g : Guard) (log2n : BitVec 4) (inv q31 scale brev : Bool), (Safety.CoreReadyExt s c g) ∧ ((decide (3 ≤ log2n.toNat) && decide (log2n.toNat ≤ 12)) = true) ∧ ((getCore s c).prismQ.length < 4)) ∧
    (∃ (s : State) (c : CoreId) (g : Guard) (iir q31 : Bool), (Safety.CoreReadyExt s c g) ∧ ((getCore s c).prismQ.length < 4)) ∧
    (∃ (s : State) (c : CoreId) (g : Guard) (accum : Bool), (Safety.CoreReadyExt s c g) ∧ ((getCore s c).prismQ.length < 4)) ∧
    (∃ (s : State) (u : Fin 48) (i : Nat) (x : PrismCmd) (l : List PrismCmd), ((getPrism s u).busy = none) ∧ (away s .prism u = false) ∧ (prismNext s u = some i) ∧ ((getCore s (8 * u + i)).prismQ = x :: l)) ∧
    (∃ (s : State) (u : Fin 48) (i : Nat) (x : PrismCmd) (l : List PrismCmd) (c : Nat), ((getPrism s u).busy = some i) ∧ (c = 8 * u + i) ∧ ((getCore s c).prismQ = x :: l) ∧ (x.paramOk = true) ∧ ((x.ins ++ x.outs).all Buf.fits = true) ∧ (x.ins.any (fun b => b.len != 0 && touchesPoison s (b.addr c) b.len) = false)) ∧
    (∃ (s : State) (c : CoreId) (g : Guard) (sub rd ra rb : R5) (dt : Word) (w : BitVec 152) (m : Micro), (Safety.CoreReadyExt s c g) ∧ (dt = Machine.rd s (Reg.MC_DT c sub.toNat)) ∧ (customLegal dt rd ra rb = true) ∧ ((getCore s c).badWords.contains (2 ^ 14 + sub.toNat) = false) ∧ (wordBad (getCore s c) (custLo + fld dt 1 8) = false) ∧ (w = microWord (getCore s c) (custLo + fld dt 1 8)) ∧ (m = Micro.start sub.toNat dt rd ra rb) ∧ (microBad m w false = none) ∧ (uMem w = 0) ∧ (uSeq w = 7)) ∧
    (∃ (s : State) (c : CoreId), (canStep (getCore s c) = true) ∧ ((getCore s c).avail = false) ∧ (xstateOwned (getCore s c) (getCore s c).cur = true)) ∧
    (∃ (s : State) (c : CoreId), (canStep (getCore s c) = true) ∧ ((getCore s c).avail = false) ∧ (xstateOwned (getCore s c) (getCore s c).cur = false) ∧ (bit (curBank s c).xsave 0 = false)) :=
  ⟨⟨(cbWith { core3 with avail := true }), 3, g0, 3, 1, by decide +kernel⟩,
   ⟨(cbWith { core3 with avail := true }), 3, g0, 3, 1, by decide +kernel⟩,
   ⟨(cbWith { core3 with avail := true }), 3, g0, 3, by decide +kernel⟩,
   ⟨(cbWith { core3 with avail := true }), 3, g0, by decide +kernel⟩,
   ⟨(cbWith { core3 with avail := true }), 3, g0, by decide +kernel⟩,
   ⟨(cbWith { core3 with avail := true, pstat := 0x20000 }), 3, g0, by decide +kernel⟩,
   ⟨(cbWith { core3 with avail := true }), 3, g0, 3, true, false, true, false, by decide +kernel⟩,
   ⟨(cbWith { core3 with avail := true }), 3, g0, true, false, by decide +kernel⟩,
   ⟨(cbWith { core3 with avail := true }), 3, g0, true, by decide +kernel⟩,
   ⟨(cbWith { core3 with prismQ := [({ op := .mat false, prm := List.replicate 12 1, rnd := 0, since := 0 } : PrismCmd)] }), 0, 3, ({ op := .mat false, prm := List.replicate 12 1, rnd := 0, since := 0 } : PrismCmd), [], by decide +kernel⟩,
   ⟨{ (cbWith { core3 with prismQ := [({ op := .mat false, prm := List.replicate 12 8, rnd := 0, since := 0 } : PrismCmd)] }) with prism := [(0, { busy := some 3, last := 3 })] }, 0, 3, ({ op := .mat false, prm := List.replicate 12 8, rnd := 0, since := 0 } : PrismCmd), [], 3, by decide +kernel⟩,
   ⟨{ cbWith { core3 with avail := true, patch := [(13056, 0x500000000000000000000001020400001c000)] } with regs := (cb.regs.set (rkey (Reg.MC_DT 3 0)) 1) }, 3, g0, 0, 0, 0, 0, 1, 0x500000000000000000000001020400001c000, Micro.start 0 1 0 0 0, by decide +kernel⟩,
   ⟨(cbWith { core3 with xown := 8 }), 3, by decide +kernel⟩,
   ⟨cb, 3, by decide +kernel⟩⟩

/-- States and operands that meet the hypotheses of each clause of `ExceptionAndPartitionCommandsComplete`. -/
theorem witness_ExceptionAndPartitionCommandsComplete :
    (∃ (s : State) (i : Initiator) (c : CoreId) (u : State), (Safety.AcceptedM0 s i (Reg.EXC_CTL c)) ∧ (releaseWrite (respOk s 0) c 1 = some u)) ∧
    (∃ (s : State) (i : Initiator) (c : CoreId), (releaseDark s i c = true)) ∧
    (∃ (s : State) (i : Initiator) (c : CoreId) (l : Level) (k : Bool) (v : Word) (u : State), (Safety.AcceptedHM s i (Reg.LOOPS_LSTART c l k.toNat)) ∧ (loopsWrite (respOk s 0) c l (loopSr k .lstart) v = some u)) ∧
    (∃ (s : State) (i : Initiator) (c : CoreId) (l : Level) (k : Bool) (v : Word) (u : State), (Safety.AcceptedHM s i (Reg.LOOPS_LEND c l k.toNat)) ∧ (loopsWrite (respOk s 0) c l (loopSr k .lend) v = some u)) ∧
    (∃ (s : State) (i : Initiator) (c : CoreId) (l : Level) (k : Bool) (v : Word) (u : State), (Safety.AcceptedHM s i (Reg.LOOPS_LCOUNT c l k.toNat)) ∧ (loopsWrite (respOk s 0) c l (loopSr k .lcount) v = some u)) ∧
    (∃ (s : State) (c : CoreId), (canStep (getCore s c) = true) ∧ ((curBank s c).imprecise ≠ [])) ∧
    (∃ (s : State) (c : CoreId) (l : Level) (addr : BitVec 48) (absent : Bool), ((getCore s c).running = true)) ∧
    (∃ (s : State) (c : CoreId), ((getCore s c).running = true)) ∧
    (∃ (s : State) (c : CoreId), ((getCore s c).useq = none)) ∧
    (∃ (s : State) (c : CoreId) (q : Useq), ((getCore s c).running = true) ∧ ((getCore s c).useq = some q)) ∧
    (∃ (s : State) (i : Initiator) (p : Part) (same : List Part) (u : State), (Safety.AcceptedM0 s i (Reg.PART_CMD p)) ∧ (partStartNow (respOk s 0) p (same.map Fin.val) = some u)) ∧
    (∃ (s : State) (i : Initiator) (p : Part) (u : State), (Safety.AcceptedM0 s i (Reg.PART_CMD p)) ∧ (partStopNow (respOk s 0) p = some u)) ∧
    (∃ (s : State) (p : Part), (((coresOf s p).all fun c => !(getCore s c).running || partRunning s p) = true)) ∧
    (∃ (s : State) (i : Initiator) (p : Part) (k : Fin 13) (v : W32) (u : State), (Safety.AcceptedM0 s i (Reg.PART_CORES p k)) ∧ (partCoresEffect (respOk s 0) i p k (w32 v) = some u)) ∧
    (∃ (s : State) (i : Initiator) (p : Part) (v : W32) (u : State), (Safety.AcceptedM0 s i (Reg.PART_MODES p)) ∧ (partModesEffect (respOk s 0) p (w32 v) = some u)) ∧
    (∃ (s : State) (i : Initiator) (p : Part) (v : W32) (u : State), (Safety.AcceptedM0 s i (Reg.PART_L3WAYS p)) ∧ (l3waysEffect (respOk s 0) p (w32 v) = some u)) ∧
    (∃ (s : State) (c : CoreId), (384 ≤ c.val) ∧ ((getCore s c).running = true) ∧ ((getCore s c).cur = 0) ∧ (((upto 7).all fun l => ((getCore s c).bank (l + 1)).st != .active) = true)) :=
  ⟨⟨({ base with regs := [(rkey (Reg.PART_CORES 0 0), 8), (rkey (Reg.EXC_STATUS 3), 1), (rkey (Reg.PART_STATUS 0), 1)] }), hub, 3, ((fun (s : State) (i : Initiator) (c : CoreId) => releaseWrite (respOk s 0) c 1) (({ base with regs := [(rkey (Reg.PART_CORES 0 0), 8), (rkey (Reg.EXC_STATUS 3), 1), (rkey (Reg.PART_STATUS 0), 1)] })) (hub) (3)).getD base, by decide +kernel⟩,
   ⟨{ base with dom := List.replicate 50 0 }, hub, 3, by decide +kernel⟩,
   ⟨base, hub, 3, 1, true, 16, ((fun (s : State) (i : Initiator) (c : CoreId) (l : Level) (k : Bool) (v : Word) => loopsWrite (respOk s 0) c l (loopSr k .lstart) v) (base) (hub) (3) (1) (true) (16)).getD base, by decide +kernel⟩,
   ⟨base, hub, 3, 1, true, 16, ((fun (s : State) (i : Initiator) (c : CoreId) (l : Level) (k : Bool) (v : Word) => loopsWrite (respOk s 0) c l (loopSr k .lend) v) (base) (hub) (3) (1) (true) (16)).getD base, by decide +kernel⟩,
   ⟨base, hub, 3, 1, true, 16, ((fun (s : State) (i : Initiator) (c : CoreId) (l : Level) (k : Bool) (v : Word) => loopsWrite (respOk s 0) c l (loopSr k .lcount) v) (base) (hub) (3) (1) (true) (16)).getD base, by decide +kernel⟩,
   ⟨(cbWith (core3.setBank 0 { Bank.reset 0 0 with imprecise := [.arith 1 0 0] })), 3, by decide +kernel⟩,
   ⟨cb, 3, 0, 64, true, by decide +kernel⟩,
   ⟨cb, 3, by decide +kernel⟩,
   ⟨cb, 3, by decide +kernel⟩,
   ⟨(cbWith { core3 with useq := some { addr := 12300, stack := [] } }), 3, { addr := 12300, stack := [] }, by decide +kernel⟩,
   ⟨base, hub, 2, [], ((fun (s : State) (i : Initiator) (p : Part) (same : List Part) => partStartNow (respOk s 0) p (same.map Fin.val)) (base) (hub) (2) ([])).getD base, by decide +kernel⟩,
   ⟨{ base with regs := [(rkey (Reg.PART_STATUS 2), 1)] }, hub, 2, ((fun (s : State) (i : Initiator) (p : Part) => partStopNow (respOk s 0) p) ({ base with regs := [(rkey (Reg.PART_STATUS 2), 1)] }) (hub) (2)).getD base, by decide +kernel⟩,
   ⟨base, 2, by decide +kernel⟩,
   ⟨base, hub, 2, 0, 8, ((fun (s : State) (i : Initiator) (p : Part) (k : Fin 13) (v : W32) => partCoresEffect (respOk s 0) i p k (w32 v)) (base) (hub) (2) (0) (8)).getD base, by decide +kernel⟩,
   ⟨base, hub, 2, 5, ((fun (s : State) (i : Initiator) (p : Part) (v : W32) => partModesEffect (respOk s 0) p (w32 v)) (base) (hub) (2) (5)).getD base, by decide +kernel⟩,
   ⟨base, hub, 2, 5, ((fun (s : State) (i : Initiator) (p : Part) (v : W32) => l3waysEffect (respOk s 0) p (w32 v)) (base) (hub) (2) (5)).getD base, by decide +kernel⟩,
   ⟨{ base with cores := [(384, core3)] }, 384, by decide +kernel⟩⟩

/-- States and operands that meet the hypotheses of each clause of `TranslationAndCacheCommandsComplete`. -/
theorem witness_TranslationAndCacheCommandsComplete :
    (∃ (s : State) (i : Initiator) (c : CoreId) (bcast : Bool)  (v : Word) (u : State), (v = BitVec.ofNat 64 (1 + (if bcast then 16 else 0) + 2 ^ 5 * 0 + 2 ^ 8 * 0 + 2 ^ 12 * 0)) ∧ (Safety.Accepted s i (Reg.XL_TLBI c) ∧ tlbiPriv v ≤ initPriv s i) ∧ (tlbiEffect (respOk s 0) c v = some u)) ∧
    (∃ (s : State) (i : Initiator) (c : CoreId) (bcast : Bool) (asn : BitVec 5) (v : Word) (u : State), (v = BitVec.ofNat 64 (2 + (if bcast then 16 else 0) + 2 ^ 5 * 0 + 2 ^ 8 * asn.toNat + 2 ^ 12 * 0)) ∧ (Safety.Accepted s i (Reg.XL_TLBI c) ∧ tlbiPriv v ≤ initPriv s i) ∧ (tlbiEffect (respOk s 0) c v = some u)) ∧
    (∃ (s : State) (i : Initiator) (c : CoreId) (bcast : Bool) (asn : BitVec 5) (vpage : BitVec 36) (v : Word) (u : State), (v = BitVec.ofNat 64 (3 + (if bcast then 16 else 0) + 2 ^ 5 * 0 + 2 ^ 8 * asn.toNat + 2 ^ 12 * vpage.toNat)) ∧ (Safety.Accepted s i (Reg.XL_TLBI c) ∧ tlbiPriv v ≤ initPriv s i) ∧ (tlbiEffect (respOk s 0) c v = some u)) ∧
    (∃ (s : State) (i : Initiator) (c : CoreId) (bcast : Bool)  (v : Word) (u : State), (v = BitVec.ofNat 64 (4 + (if bcast then 16 else 0) + 2 ^ 5 * 0 + 2 ^ 8 * 0 + 2 ^ 12 * 0)) ∧ (Safety.Accepted s i (Reg.XL_TLBI c) ∧ tlbiPriv v ≤ initPriv s i) ∧ (tlbiEffect (respOk s 0) c v = some u)) ∧
    (∃ (s : State) (i : Initiator) (c : CoreId) (bcast : Bool) (bank : Level) (vpage : BitVec 36) (v : Word) (u : State), (v = BitVec.ofNat 64 (5 + (if bcast then 16 else 0) + 2 ^ 5 * bank.val + 2 ^ 8 * 0 + 2 ^ 12 * vpage.toNat)) ∧ (Safety.Accepted s i (Reg.XL_TLBI c) ∧ tlbiPriv v ≤ initPriv s i) ∧ (tlbiEffect (respOk s 0) c v = some u)) ∧
    (∃ (s : State) (i : Initiator) (c : CoreId) (bcast : Bool) (bank : Level) (vpage : BitVec 36) (v : Word) (u : State), (v = BitVec.ofNat 64 (6 + (if bcast then 16 else 0) + 2 ^ 5 * bank.val + 2 ^ 8 * 0 + 2 ^ 12 * vpage.toNat)) ∧ (Safety.Accepted s i (Reg.XL_TLBI c) ∧ tlbiPriv v ≤ initPriv s i) ∧ (tlbiEffect (respOk s 0) c v = some u)) ∧
    (∃ (s : State) (i : Initiator) (c : CoreId) (line : BitVec 42) (count : Fin 64) (way : Fin 8) (v : Word) (u : State), (v = BitVec.ofNat 64 (2 ^ 6 * line.toNat + 2 ^ 48 * count.val + 2 ^ 56 * 1 + 2 ^ 60 * way.val)) ∧ (Safety.Accepted s i (Reg.CACHE_OP c) ∧ cachePriv v ≤ initPriv s i) ∧ (cacheOpEffect (respOk s 0) c v = some u)) ∧
    (∃ (s : State) (i : Initiator) (c : CoreId) (way : Fin 8) (v : Word) (u : State), (v = BitVec.ofNat 64 (2 ^ 6 * 0 + 2 ^ 48 * 0 + 2 ^ 56 * 2 + 2 ^ 60 * way.val)) ∧ (Safety.Accepted s i (Reg.CACHE_OP c) ∧ cachePriv v ≤ initPriv s i) ∧ (cacheOpEffect (respOk s 0) c v = some u)) ∧
    (∃ (s : State) (i : Initiator) (c : CoreId)  (v : Word) (u : State), (v = BitVec.ofNat 64 (2 ^ 6 * 0 + 2 ^ 48 * 0 + 2 ^ 56 * 3 + 2 ^ 60 * 0)) ∧ (Safety.Accepted s i (Reg.CACHE_OP c) ∧ cachePriv v ≤ initPriv s i) ∧ (cacheOpEffect (respOk s 0) c v = some u)) ∧
    (∃ (s : State) (i : Initiator) (c : CoreId) (line : BitVec 42) (v : Word) (u : State), (v = BitVec.ofNat 64 (2 ^ 6 * line.toNat + 2 ^ 48 * 0 + 2 ^ 56 * 4 + 2 ^ 60 * 0)) ∧ (Safety.Accepted s i (Reg.CACHE_OP c) ∧ cachePriv v ≤ initPriv s i) ∧ (cacheOpEffect (respOk s 0) c v = some u)) ∧
    (∃ (s : State) (i : Initiator) (c : CoreId) (line : BitVec 42) (v : Word) (u : State), (v = BitVec.ofNat 64 (2 ^ 6 * line.toNat + 2 ^ 48 * 0 + 2 ^ 56 * 5 + 2 ^ 60 * 0)) ∧ (Safety.Accepted s i (Reg.CACHE_OP c) ∧ cachePriv v ≤ initPriv s i) ∧ (cacheOpEffect (respOk s 0) c v = some u)) ∧
    (∃ (s : State) (c : CoreId), ((getCore s c).tlbBusy.isSome = true)) ∧
    (∃ (s : State) (c : CoreId), ((getCore s c).cacheBusy.isSome = true)) ∧
    (∃ (s : State) (i : Initiator) (c : CoreId) (v : Word), (Safety.Accepted s i (Reg.XL_PTB c) ∧ 2 ≤ initPriv s i)) ∧
    (∃ (s : State) (i : Initiator) (c : CoreId) (l : Level) (v : Word), (Safety.Accepted s i (Reg.XL_GTB c l) ∧ 1 ≤ initPriv s i)) :=
  ⟨⟨base, hub, 3, false, (fun (s : State) (i : Initiator) (c : CoreId) (bcast : Bool)  => BitVec.ofNat 64 (1 + (if bcast then 16 else 0) + 2 ^ 5 * 0 + 2 ^ 8 * 0 + 2 ^ 12 * 0)) (base) (hub) (3) (false), ((fun (s : State) (i : Initiator) (c : CoreId) (bcast : Bool)  (v : Word) => tlbiEffect (respOk s 0) c v) (base) (hub) (3) (false) ((fun (s : State) (i : Initiator) (c : CoreId) (bcast : Bool)  => BitVec.ofNat 64 (1 + (if bcast then 16 else 0) + 2 ^ 5 * 0 + 2 ^ 8 * 0 + 2 ^ 12 * 0)) (base) (hub) (3) (false))).getD base, by decide +kernel⟩,
   ⟨base, hub, 3, false, 3, (fun (s : State) (i : Initiator) (c : CoreId) (bcast : Bool) (asn : BitVec 5) => BitVec.ofNat 64 (2 + (if bcast then 16 else 0) + 2 ^ 5 * 0 + 2 ^ 8 * asn.toNat + 2 ^ 12 * 0)) (base) (hub) (3) (false) (3), ((fun (s : State) (i : Initiator) (c : CoreId) (bcast : Bool) (asn : BitVec 5) (v : Word) => tlbiEffect (respOk s 0) c v) (base) (hub) (3) (false) (3) ((fun (s : State) (i : Initiator) (c : CoreId) (bcast : Bool) (asn : BitVec 5) => BitVec.ofNat 64 (2 + (if bcast then 16 else 0) + 2 ^ 5 * 0 + 2 ^ 8 * asn.toNat + 2 ^ 12 * 0)) (base) (hub) (3) (false) (3))).getD base, by decide +kernel⟩,
   ⟨base, hub, 3, false, 3, 7, (fun (s : State) (i : Initiator) (c : CoreId) (bcast : Bool) (asn : BitVec 5) (vpage : BitVec 36) => BitVec.ofNat 64 (3 + (if bcast then 16 else 0) + 2 ^ 5 * 0 + 2 ^ 8 * asn.toNat + 2 ^ 12 * vpage.toNat)) (base) (hub) (3) (false) (3) (7), ((fun (s : State) (i : Initiator) (c : CoreId) (bcast : Bool) (asn : BitVec 5) (vpage : BitVec 36) (v : Word) => tlbiEffect (respOk s 0) c v) (base) (hub) (3) (false) (3) (7) ((fun (s : State) (i : Initiator) (c : CoreId) (bcast : Bool) (asn : BitVec 5) (vpage : BitVec 36) => BitVec.ofNat 64 (3 + (if bcast then 16 else 0) + 2 ^ 5 * 0 + 2 ^ 8 * asn.toNat + 2 ^ 12 * vpage.toNat)) (base) (hub) (3) (false) (3) (7))).getD base, by decide +kernel⟩,
   ⟨base, hub, 3, false, (fun (s : State) (i : Initiator) (c : CoreId) (bcast : Bool)  => BitVec.ofNat 64 (4 + (if bcast then 16 else 0) + 2 ^ 5 * 0 + 2 ^ 8 * 0 + 2 ^ 12 * 0)) (base) (hub) (3) (false), ((fun (s : State) (i : Initiator) (c : CoreId) (bcast : Bool)  (v : Word) => tlbiEffect (respOk s 0) c v) (base) (hub) (3) (false) ((fun (s : State) (i : Initiator) (c : CoreId) (bcast : Bool)  => BitVec.ofNat 64 (4 + (if bcast then 16 else 0) + 2 ^ 5 * 0 + 2 ^ 8 * 0 + 2 ^ 12 * 0)) (base) (hub) (3) (false))).getD base, by decide +kernel⟩,
   ⟨base, hub, 3, false, 1, 7, (fun (s : State) (i : Initiator) (c : CoreId) (bcast : Bool) (bank : Level) (vpage : BitVec 36) => BitVec.ofNat 64 (5 + (if bcast then 16 else 0) + 2 ^ 5 * bank.val + 2 ^ 8 * 0 + 2 ^ 12 * vpage.toNat)) (base) (hub) (3) (false) (1) (7), ((fun (s : State) (i : Initiator) (c : CoreId) (bcast : Bool) (bank : Level) (vpage : BitVec 36) (v : Word) => tlbiEffect (respOk s 0) c v) (base) (hub) (3) (false) (1) (7) ((fun (s : State) (i : Initiator) (c : CoreId) (bcast : Bool) (bank : Level) (vpage : BitVec 36) => BitVec.ofNat 64 (5 + (if bcast then 16 else 0) + 2 ^ 5 * bank.val + 2 ^ 8 * 0 + 2 ^ 12 * vpage.toNat)) (base) (hub) (3) (false) (1) (7))).getD base, by decide +kernel⟩,
   ⟨base, hub, 3, false, 1, 7, (fun (s : State) (i : Initiator) (c : CoreId) (bcast : Bool) (bank : Level) (vpage : BitVec 36) => BitVec.ofNat 64 (6 + (if bcast then 16 else 0) + 2 ^ 5 * bank.val + 2 ^ 8 * 0 + 2 ^ 12 * vpage.toNat)) (base) (hub) (3) (false) (1) (7), ((fun (s : State) (i : Initiator) (c : CoreId) (bcast : Bool) (bank : Level) (vpage : BitVec 36) (v : Word) => tlbiEffect (respOk s 0) c v) (base) (hub) (3) (false) (1) (7) ((fun (s : State) (i : Initiator) (c : CoreId) (bcast : Bool) (bank : Level) (vpage : BitVec 36) => BitVec.ofNat 64 (6 + (if bcast then 16 else 0) + 2 ^ 5 * bank.val + 2 ^ 8 * 0 + 2 ^ 12 * vpage.toNat)) (base) (hub) (3) (false) (1) (7))).getD base, by decide +kernel⟩,
   ⟨base, hub, 3, 7, 2, 1, (fun (s : State) (i : Initiator) (c : CoreId) (line : BitVec 42) (count : Fin 64) (way : Fin 8) => BitVec.ofNat 64 (2 ^ 6 * line.toNat + 2 ^ 48 * count.val + 2 ^ 56 * 1 + 2 ^ 60 * way.val)) (base) (hub) (3) (7) (2) (1), ((fun (s : State) (i : Initiator) (c : CoreId) (line : BitVec 42) (count : Fin 64) (way : Fin 8) (v : Word) => cacheOpEffect (respOk s 0) c v) (base) (hub) (3) (7) (2) (1) ((fun (s : State) (i : Initiator) (c : CoreId) (line : BitVec 42) (count : Fin 64) (way : Fin 8) => BitVec.ofNat 64 (2 ^ 6 * line.toNat + 2 ^ 48 * count.val + 2 ^ 56 * 1 + 2 ^ 60 * way.val)) (base) (hub) (3) (7) (2) (1))).getD base, by decide +kernel⟩,
   ⟨base, hub, 3, 1, (fun (s : State) (i : Initiator) (c : CoreId) (way : Fin 8) => BitVec.ofNat 64 (2 ^ 6 * 0 + 2 ^ 48 * 0 + 2 ^ 56 * 2 + 2 ^ 60 * way.val)) (base) (hub) (3) (1), ((fun (s : State) (i : Initiator) (c : CoreId) (way : Fin 8) (v : Word) => cacheOpEffect (respOk s 0) c v) (base) (hub) (3) (1) ((fun (s : State) (i : Initiator) (c : CoreId) (way : Fin 8) => BitVec.ofNat 64 (2 ^ 6 * 0 + 2 ^ 48 * 0 + 2 ^ 56 * 2 + 2 ^ 60 * way.val)) (base) (hub) (3) (1))).getD base, by decide +kernel⟩,
   ⟨base, hub, 3, (fun (s : State) (i : Initiator) (c : CoreId)  => BitVec.ofNat 64 (2 ^ 6 * 0 + 2 ^ 48 * 0 + 2 ^ 56 * 3 + 2 ^ 60 * 0)) (base) (hub) (3), ((fun (s : State) (i : Initiator) (c : CoreId)  (v : Word) => cacheOpEffect (respOk s 0) c v) (base) (hub) (3) ((fun (s : State) (i : Initiator) (c : CoreId)  => BitVec.ofNat 64 (2 ^ 6 * 0 + 2 ^ 48 * 0 + 2 ^ 56 * 3 + 2 ^ 60 * 0)) (base) (hub) (3))).getD base, by decide +kernel⟩,
   ⟨base, hub, 3, 7, (fun (s : State) (i : Initiator) (c : CoreId) (line : BitVec 42) => BitVec.ofNat 64 (2 ^ 6 * line.toNat + 2 ^ 48 * 0 + 2 ^ 56 * 4 + 2 ^ 60 * 0)) (base) (hub) (3) (7), ((fun (s : State) (i : Initiator) (c : CoreId) (line : BitVec 42) (v : Word) => cacheOpEffect (respOk s 0) c v) (base) (hub) (3) (7) ((fun (s : State) (i : Initiator) (c : CoreId) (line : BitVec 42) => BitVec.ofNat 64 (2 ^ 6 * line.toNat + 2 ^ 48 * 0 + 2 ^ 56 * 4 + 2 ^ 60 * 0)) (base) (hub) (3) (7))).getD base, by decide +kernel⟩,
   ⟨base, hub, 3, 7, (fun (s : State) (i : Initiator) (c : CoreId) (line : BitVec 42) => BitVec.ofNat 64 (2 ^ 6 * line.toNat + 2 ^ 48 * 0 + 2 ^ 56 * 5 + 2 ^ 60 * 0)) (base) (hub) (3) (7), ((fun (s : State) (i : Initiator) (c : CoreId) (line : BitVec 42) (v : Word) => cacheOpEffect (respOk s 0) c v) (base) (hub) (3) (7) ((fun (s : State) (i : Initiator) (c : CoreId) (line : BitVec 42) => BitVec.ofNat 64 (2 ^ 6 * line.toNat + 2 ^ 48 * 0 + 2 ^ 56 * 5 + 2 ^ 60 * 0)) (base) (hub) (3) (7))).getD base, by decide +kernel⟩,
   ⟨(cbWith { core3 with tlbBusy := some 1 }), 3, by decide +kernel⟩,
   ⟨(cbWith { core3 with cacheBusy := some 1 }), 3, by decide +kernel⟩,
   ⟨base, hub, 3, 0x1001, by decide +kernel⟩,
   ⟨base, hub, 3, 0, 0x1001, by decide +kernel⟩⟩

/-- States and operands that meet the hypotheses of each clause of `CoherenceMessagesComplete`. -/
theorem witness_CoherenceMessagesComplete :
    (∃ (s : State) (a : Fin 13) (line : BitVec 42) (f : Bool) (u : State) (t : CohTx), (agentOn s a = true) ∧ (mayAsk (getLn s a line.toNat) .rdShared = true) ∧ (((getLn s a line.toNat).req.isNone && !tagFree s (.agent a)) = false) ∧ (u = setLn s a line.toNat { getLn s a line.toNat with req := some .rdShared, phase := .sent, data := false, dpoison := false, comp := none, nacks := if (getLn s a line.toNat).req.isNone then 0 else (getLn s a line.toNat).nacks }) ∧ (t = newTx line.toNat .rdShared (.agent a)) ∧ (Safety.HomeTakes u t)) ∧
    (∃ (s : State) (a : Fin 13) (line : BitVec 42) (u : State) (t : CohTx), (agentOn s a = true) ∧ (mayAsk (getLn s a line.toNat) .rdUnique = true) ∧ (((getLn s a line.toNat).req.isNone && !tagFree s (.agent a)) = false) ∧ (u = setLn s a line.toNat { getLn s a line.toNat with req := some .rdUnique, phase := .sent, data := false, dpoison := false, comp := none, nacks := if (getLn s a line.toNat).req.isNone then 0 else (getLn s a line.toNat).nacks }) ∧ (t = newTx line.toNat .rdUnique (.agent a)) ∧ (Safety.HomeTakes u t)) ∧
    (∃ (s : State) (a : Fin 13) (line : BitVec 42) (u : State) (t : CohTx), (agentOn s a = true) ∧ (mayAsk (getLn s a line.toNat) .upgrade = true) ∧ (((getLn s a line.toNat).req.isNone && !tagFree s (.agent a)) = false) ∧ (u = setLn s a line.toNat { getLn s a line.toNat with req := some .upgrade, phase := .sent, data := false, dpoison := false, comp := none, nacks := if (getLn s a line.toNat).req.isNone then 0 else (getLn s a line.toNat).nacks }) ∧ (t = newTx line.toNat .upgrade (.agent a)) ∧ (Safety.HomeTakes u t)) ∧
    (∃ (s : State) (ep : BitVec 9) (line : BitVec 42) (t : CohTx), (t = newTx line.toNat .rdOnce (.ep ep.toNat)) ∧ (((getSl s (sliceOf t.line)).granted.contains (t.line, t.req) || tagFree s t.req) = true) ∧ (Safety.HomeTakes s t)) ∧
    (∃ (s : State) (ep : BitVec 9) (line : BitVec 42) (data : List Byte) (t : CohTx), (t = { newTx line.toNat .wrFull (.ep ep.toNat) with bytes := data }) ∧ (((getSl s (sliceOf t.line)).granted.contains (t.line, t.req) || tagFree s t.req) = true) ∧ (Safety.HomeTakes s t)) ∧
    (∃ (s : State) (ep : BitVec 9) (line : BitVec 42) (mask : Word) (data : List Byte) (t : CohTx), ((poisoned s line.toNat && !(getSl s (sliceOf line.toNat)).granted.contains (line.toNat, .ep ep.toNat)) = false) ∧ (t = { newTx line.toNat .wrPartial (.ep ep.toNat) with bytes := data, mask := mask }) ∧ (((getSl s (sliceOf t.line)).granted.contains (t.line, t.req) || tagFree s t.req) = true) ∧ (Safety.HomeTakes s t)) ∧
    (∃ (s : State) (ep : BitVec 9) (line : BitVec 42) (mask : Word) (data : List Byte), ((poisoned s line.toNat && !(getSl s (sliceOf line.toNat)).granted.contains (line.toNat, .ep ep.toNat)) = true)) ∧
    (∃ (s : State) (a : Fin 13) (line : BitVec 42), (agentOn s a = true) ∧ ((getLn s a line.toNat).st = .m ∨ (getLn s a line.toNat).st = .o) ∧ ((getLn s a line.toNat).req = none) ∧ ((getLn s a line.toNat).wb = none) ∧ (lockedLine s a line.toNat = false) ∧ (wbUsed s a (sliceOf line.toNat) < 16)) ∧
    (∃ (s : State) (a : Fin 13) (line : BitVec 42), (agentOn s a = true) ∧ ((getLn s a line.toNat).st = .e ∨ (getLn s a line.toNat).st = .s) ∧ ((getLn s a line.toNat).req = none) ∧ ((getLn s a line.toNat).wb = none) ∧ (lockedLine s a line.toNat = false) ∧ (wbUsed s a (sliceOf line.toNat) < 16)) ∧
    (∃ (s : State) (a : Fin 13) (line : BitVec 42) (m : CohMsg), (findMsg s 0x1D a line.toNat = some m)) ∧
    (∃ (s : State) (a : Fin 13) (line : BitVec 42) (m : CohMsg), (findMsg s 0x10 a line.toNat = some m) ∧ (snoopWaits (takeMsg s m) a line.toNat = false)) ∧
    (∃ (s : State) (a : Fin 13) (line : BitVec 42) (m : CohMsg), (findMsg s 0x11 a line.toNat = some m) ∧ (snoopWaits (takeMsg s m) a line.toNat = false)) ∧
    (∃ (s : State) (a : Fin 13) (line : BitVec 42) (m : CohMsg), (findMsg s 0x12 a line.toNat = some m) ∧ (snoopWaits (takeMsg s m) a line.toNat = false)) ∧
    (∃ (s : State) (a : Fin 13) (line : BitVec 42) (m : CohMsg), (findMsg s 0x13 a line.toNat = some m) ∧ (snoopWaits (takeMsg s m) a line.toNat = false)) ∧
    (∃ (s : State) (a : Fin 13) (line : BitVec 42) (m : CohMsg), (findMsg s 0x11 a line.toNat = some m) ∧ (snoopWaits (takeMsg s m) a line.toNat = true)) ∧
    (∃ (s : State) (a : Fin 13) (line : BitVec 42) (m : CohMsg), (findMsg s 0x18 a line.toNat = some m)) ∧
    (∃ (s : State) (a : Fin 13) (line : BitVec 42) (m : CohMsg), (findMsg s 0x22 a line.toNat = some m)) ∧
    (∃ (s : State) (a : Fin 13) (line : BitVec 42) (m : CohMsg), (findMsg s 0x19 a line.toNat = some m)) ∧
    (∃ (s : State) (a : Fin 13) (line : BitVec 42) (m : CohMsg), (findMsg s 0x20 a line.toNat = some m) ∧ ((getLn (takeMsg s m) a line.toNat).req.isNone = false)) ∧
    (∃ (s : State) (a : Fin 13) (line : BitVec 42) (m : CohMsg), (findMsg s 0x21 a line.toNat = some m) ∧ ((getLn (takeMsg s m) a line.toNat).req.isNone = false)) ∧
    (∃ (s : State) (a : Fin 13) (line : BitVec 42) (m : CohMsg), (findMsg s 0x1A a line.toNat = some m)) ∧
    (∃ (s : State) (a : Fin 13) (line : BitVec 42) (m : CohMsg), (findMsg s 0x1B a line.toNat = some m)) ∧
    (∃ (s : State) (a : Fin 13) (line : BitVec 42) (m : CohMsg) (n : Nat) (t : State), (findMsg s 0x1C a line.toNat = some m) ∧ (n = (getLn s a line.toNat).nacks + 1) ∧ (t = takeMsg { s with freeCtr := s.freeCtr + 1 } m)) ∧
    (∃ (s : State) (a : Fin 13) (line : BitVec 42) (t : Nat), ((getLn s a line.toNat).phase = .backoff t) ∧ (t ≤ 8 * s.time)) ∧
    (∃ (s : State) (a : Fin 13) (line : BitVec 42) (errc : Byte) (m : CohMsg), ((s.coh.msgs.find? fun m => m.code == 0x1E && m.agent == a.val && m.line == line.toNat && m.errc == errc.toNat) = some m)) ∧
    (∃ (s : State) (a : Fin 13) (line : BitVec 42), ((getLn s a line.toNat).hold ≤ 8 * s.time) ∧ ((getLn s a line.toNat).req = none)) ∧
    (∃ (s : State) (slice : Fin 16) (set : BitVec 14), ((getSl s slice).scan = some set.toNat)) ∧
    (∃ (s : State) (slice : Fin 16), ((getSl s slice).scan = some 16384)) :=
  ⟨⟨(setLn (d0With core3) 12 0 { AgLine.reset with st := .i }), 12, 0, false, setLn (setLn (d0With core3) 12 0 { AgLine.reset with st := .i }) 12 0 { getLn (setLn (d0With core3) 12 0 { AgLine.reset with st := .i }) 12 0 with req := some .rdShared, phase := .sent, data := false, dpoison := false, comp := none, nacks := if (getLn (setLn (d0With core3) 12 0 { AgLine.reset with st := .i }) 12 0).req.isNone then 0 else (getLn (setLn (d0With core3) 12 0 { AgLine.reset with st := .i }) 12 0).nacks }, newTx 0 .rdShared (.agent 12), by decide +kernel⟩,
   ⟨(setLn (d0With core3) 12 0 { AgLine.reset with st := .i }), 12, 0, setLn (setLn (d0With core3) 12 0 { AgLine.reset with st := .i }) 12 0 { getLn (setLn (d0With core3) 12 0 { AgLine.reset with st := .i }) 12 0 with req := some .rdUnique, phase := .sent, data := false, dpoison := false, comp := none, nacks := if (getLn (setLn (d0With core3) 12 0 { AgLine.reset with st := .i }) 12 0).req.isNone then 0 else (getLn (setLn (d0With core3) 12 0 { AgLine.reset with st := .i }) 12 0).nacks }, newTx 0 .rdUnique (.agent 12), by decide +kernel⟩,
   ⟨(setLn (d0With core3) 12 0 { AgLine.reset with st := .s }), 12, 0, setLn (setLn (d0With core3) 12 0 { AgLine.reset with st := .s }) 12 0 { getLn (setLn (d0With core3) 12 0 { AgLine.reset with st := .s }) 12 0 with req := some .upgrade, phase := .sent, data := false, dpoison := false, comp := none, nacks := if (getLn (setLn (d0With core3) 12 0 { AgLine.reset with st := .s }) 12 0).req.isNone then 0 else (getLn (setLn (d0With core3) 12 0 { AgLine.reset with st := .s }) 12 0).nacks }, newTx 0 .upgrade (.agent 12), by decide +kernel⟩,
   ⟨(d0With core3), 386, 0, newTx 0 .rdOnce (.ep 386), by decide +kernel⟩,
   ⟨(d0With core3), 386, 0, List.replicate 64 1, { newTx 0 .wrFull (.ep 386) with bytes := List.replicate 64 1 }, by decide +kernel⟩,
   ⟨(d0With core3), 386, 0, 3, List.replicate 64 1, { newTx 0 .wrPartial (.ep 386) with bytes := List.replicate 64 1, mask := 3 }, by decide +kernel⟩,
   ⟨(setPoison (d0With core3) 0), 386, 0, 3, [], by decide +kernel⟩,
   ⟨(setLn (d0With core3) 12 0 { AgLine.reset with st := .m }), 12, 0, by decide +kernel⟩,
   ⟨(setLn (d0With core3) 12 0 { AgLine.reset with st := .s }), 12, 0, by decide +kernel⟩,
   ⟨(post (d0With core3) (msg 0x1D 12 0 (.agent 12))), 12, 0, (msg 0x1D 12 0 (.agent 12)), by decide +kernel⟩,
   ⟨(post (d0With core3) (msg 0x10 12 0 (.agent 12))), 12, 0, (msg 0x10 12 0 (.agent 12)), by decide +kernel⟩,
   ⟨(post (d0With core3) (msg 0x11 12 0 (.agent 12))), 12, 0, (msg 0x11 12 0 (.agent 12)), by decide +kernel⟩,
   ⟨(post (d0With core3) (msg 0x12 12 0 (.agent 12))), 12, 0, (msg 0x12 12 0 (.agent 12)), by decide +kernel⟩,
   ⟨(post (d0With core3) (msg 0x13 12 0 (.agent 12))), 12, 0, (msg 0x13 12 0 (.agent 12)), by decide +kernel⟩,
   ⟨(setLn (post (d0With core3) (msg 0x11 12 0 (.agent 12))) 12 0 { AgLine.reset with st := .e, hold := 100 }), 12, 0, (msg 0x11 12 0 (.agent 12)), by decide +kernel⟩,
   ⟨(post (d0With core3) (msg 0x18 12 0 (.agent 12))), 12, 0, (msg 0x18 12 0 (.agent 12)), by decide +kernel⟩,
   ⟨(post (d0With core3) (msg 0x22 12 0 (.agent 12))), 12, 0, (msg 0x22 12 0 (.agent 12)), by decide +kernel⟩,
   ⟨(post (d0With core3) (msg 0x19 12 0 (.agent 12))), 12, 0, (msg 0x19 12 0 (.agent 12)), by decide +kernel⟩,
   ⟨(setLn (post (d0With core3) (msg 0x20 12 0 (.agent 12))) 12 0 { AgLine.reset with req := some .rdShared }), 12, 0, (msg 0x20 12 0 (.agent 12)), by decide +kernel⟩,
   ⟨(setLn (post (d0With core3) (msg 0x21 12 0 (.agent 12))) 12 0 { AgLine.reset with req := some .rdShared }), 12, 0, (msg 0x21 12 0 (.agent 12)), by decide +kernel⟩,
   ⟨(post (d0With core3) (msg 0x1A 12 0 (.agent 12))), 12, 0, (msg 0x1A 12 0 (.agent 12)), by decide +kernel⟩,
   ⟨(post (d0With core3) (msg 0x1B 12 0 (.agent 12))), 12, 0, (msg 0x1B 12 0 (.agent 12)), by decide +kernel⟩,
   ⟨(post (d0With core3) (msg 0x1C 12 0 (.agent 12))), 12, 0, (msg 0x1C 12 0 (.agent 12)), 1, takeMsg { (post (d0With core3) (msg 0x1C 12 0 (.agent 12))) with freeCtr := 1 } (msg 0x1C 12 0 (.agent 12)), by decide +kernel⟩,
   ⟨(setLn (d0With core3) 12 0 { AgLine.reset with phase := .backoff 0 }), 12, 0, 0, by decide +kernel⟩,
   ⟨(post (d0With core3) (msg 0x1E 12 0 (.agent 12))), 12, 0, 0, (msg 0x1E 12 0 (.agent 12)), by decide +kernel⟩,
   ⟨(d0With core3), 12, 0, by decide +kernel⟩,
   ⟨{ base with coh := { base.coh with slices := [(2, { Slice.reset with scan := some 5 })] } }, 2, 5, by decide +kernel⟩,
   ⟨{ base with coh := { base.coh with slices := [(2, { Slice.reset with scan := some 16384 })] } }, 2, by decide +kernel⟩⟩

/-- States and operands that meet the hypotheses of each clause of `FabricCommandsComplete`. -/
theorem witness_FabricCommandsComplete :
    (∃ (s : State) (i : Initiator) (site : Fin 14) (v : Word) (u : State), (Safety.AcceptedM0 s i (Reg.FAB_RT_W0 site)) ∧ (routeCommitEffect (respOk s 0) site v = some u)) ∧
    (∃ (s : State) (site : Fin 14) (ni : BitVec 6) (entry : BitVec 9) (w : Word × Word), (s.fab.commits.get? (rtKey site ni.toNat entry.toNat) = some w) ∧ ((s.fab.outs.any fun o => o.1 == rtKey site ni.toNat entry.toNat) = false)) ∧
    (∃ (s : State) (i : Initiator) (site : Fin 14) (v : W32) (u : State), (Safety.AcceptedM0 s i (Reg.FAB_RCFG site)) ∧ (rcfgEffect (respOk s 0) site (w32 v) = some u)) ∧
    (∃ (s : State) (site : Fin 14) (cycles router pe : Nat) (u : State), (s.fab.rcfg.get? site.val = some (router, pe)) ∧ (u = { s with fab := { s.fab with ports := s.fab.ports.set (64 * site + router) pe, rcfg := s.fab.rcfg.drop (· == site.val) } })) ∧
    (∃ (s : State) (i : Initiator) (site : Fin 14) (v : W32), (Safety.AcceptedM0 s i (Reg.FAB_ST_CFG site))) ∧
    (∃ (s : State) (i : Initiator) (l : Fin 49) (v : W32), (Safety.AcceptedM0 s i (Reg.D2D_CTL l)) ∧ ((d2dCtlEffect (respOk s 0) l (w32 v)).2 = false)) ∧
    (∃ (s : State) (i : Initiator) (l : Fin 49) (v : W32), (Safety.AcceptedM0 s i (Reg.D2D_CTL l)) ∧ ((d2dCtlEffect (respOk s 0) l (w32 v)).2 = false)) ∧
    (∃ (s : State) (n : Fin 12), (populated s n = true) ∧ (linkState s n = 0)) ∧
    (∃ (s : State) (l : Fin 49) (word : W32) (payload : BitVec 256) (corrected : Nat) (uncorr : Bool), (linkExists s l = true) ∧ (linkState s l ≠ 0)) ∧
    (∃ (s : State) (l : Fin 49) (seq : BitVec 10), (linkExists s l = true) ∧ (linkState s l ≠ 0)) ∧
    (∃ (s : State) (l : Fin 49) (counts : List (BitVec 16)), (linkExists s l = true) ∧ (linkState s l ≠ 0)) ∧
    (∃ (s : State) (l : Fin 49), (linkExists s l = true) ∧ (linkState s l ≠ 0) ∧ ((decide ((getLink s l).sentAt + 80 ≤ s.time)) = true)) ∧
    (∃ (s : State) (l : Fin 49), (linkExists s l = true) ∧ (linkState s l ≠ 0) ∧ ((decide (8 * (getLink s l).good + 5 * rf s (Reg.D2D_CTL l) 16 12 ≤ 8 * s.time)) = true)) ∧
    (∃ (s : State) (l : Fin 49) (n : Nat), (linkExists s l = true) ∧ (linkState s l = 2) ∧ ((getLink s l).asked = some n) ∧ (n < 8)) ∧
    (∃ (s : State) (l : Fin 49) (n : Nat), (linkExists s l = true) ∧ (linkState s l = 2) ∧ ((getLink s l).asked = some n) ∧ (¬ n < 8)) ∧
    (∃ (s : State)  (l : Fin 49) (farSite : BitVec 4) (farSerial : Word) (farOffer : BitVec 4) (farRev : Byte), (linkExists s l = true) ∧ (linkState s l = 1) ∧ (farSite.toNat = farSiteOf l) ∧ (farSerial = s.serial) ∧ (fuseBad s l = false)) ∧
    (∃ (s : State)  (l : Fin 49) (farSite : BitVec 4) (farSerial : Word) (farOffer : BitVec 4) (farRev : Byte), (linkExists s l = true) ∧ (linkState s l = 1) ∧ (farSite.toNat ≠ farSiteOf l ∨ farSerial ≠ s.serial ∨ fuseBad s l = true)) ∧
    (∃ (s : State) (l : Fin 49) (seq : BitVec 10), (linkExists s l = true) ∧ (16 ≤ l.val ∧ l.val < 48) ∧ (linkState s l < 2) ∧ (siteAbsent s (farSiteOf l) = true)) ∧
    (∃ (s : State) (l : Fin 49) (seq : BitVec 10), (linkExists s l = true) ∧ (16 ≤ l.val ∧ l.val < 48) ∧ (linkState s l < 2) ∧ (siteAbsent s (farSiteOf l) = false)) ∧
    (∃ (s : State) (n : Fin 12), (populated s n = true) ∧ (linkState s n ≠ 0)) ∧
    (∃ (s : State) (n : Fin 12) (t u : State), (siteAbsent s n = true) ∧ (s.coh.empties.contains n.val = true) ∧ (scanning s = false) ∧ (linkState s n = 2) ∧ (domOn s (3 * n + 2) = true) ∧ (t = (upto 16).foldl (fun t h => wb t (Reg.HOM_STATUS h) n.val false) s) ∧ (u = raiseCond (wb { t with coh := { t.coh with empties := t.coh.empties.filter (· != n.val) } } (Reg.FAB_STATUS 12) n false) .fab 12 0 1)) ∧
    (∃ (s : State) (site : Fin 14) (corr err : Bool), (populated s site = true) ∧ (domOn s (domainOf .die site) = true)) ∧
    (∃ (s : State) (site : Fin 14) (ni : BitVec 6) (hdr : BitVec 256) (reqBytes cycles : Nat), (populated s site = true) ∧ (ni.toNat < niCount site) ∧ (hdrFld hdr 48 3 ≤ 5) ∧ (cmdKnown (hdrFld hdr 40 8) = false)) ∧
    (∃ (s : State) (site : Fin 14) (ni : BitVec 6) (hdr : BitVec 256) (reqBytes cycles : Nat), (populated s site = true) ∧ (ni.toNat < niCount site) ∧ (hdrFld hdr 48 3 ≤ 5) ∧ (cmdKnown (hdrFld hdr 40 8) = true) ∧ (niLink (hdrFld hdr 160 9 / 32) (hdrFld hdr 160 9 % 32) = none) ∧ (niLink site ni.toNat = none) ∧ (hdrFld hdr 160 9 = 32 * site + ni.toNat) ∧ ([0x19, 0x20, 0x21, 0x32, 0x33, 0x1E].contains (hdrFld hdr 40 8) = true)) ∧
    (∃ (s : State) (site : Fin 14) (ni : BitVec 6) (hdr : BitVec 256) (reqBytes cycles : Nat), (populated s site = true) ∧ (ni.toNat < niCount site) ∧ (hdrFld hdr 48 3 ≤ 5) ∧ (cmdKnown (hdrFld hdr 40 8) = true) ∧ (niLink (hdrFld hdr 160 9 / 32) (hdrFld hdr 160 9 % 32) = none) ∧ (niLink site ni.toNat = none) ∧ (hdrFld hdr 160 9 ≠ 32 * site + ni.toNat) ∧ (hdrFld hdr 55 9 = 32 * site + ni.toNat)) ∧
    (∃ (s : State) (site : Fin 14) (ni : BitVec 6) (hdr : BitVec 256) (reqBytes cycles : Nat), (5 < hdrFld hdr 48 3)) ∧
    (∃ (s : State) (site : Fin 14) (ni : BitVec 6) (entry : BitVec 9), ((s.fab.outs.any fun o => o.1 == rtKey site ni.toNat entry.toNat) = true)) :=
  ⟨⟨base, hub, 0, 0x1001000000004, ((fun (s : State) (i : Initiator) (site : Fin 14) (v : Word) => routeCommitEffect (respOk s 0) site v) (base) (hub) (0) (0x1001000000004)).getD base, by decide +kernel⟩,
   ⟨{ base with fab := { base.fab with commits := [(rtKey 0 1 2, (5, 6))] } }, 0, 1, 2, (5, 6), by decide +kernel⟩,
   ⟨base, hub, 0, 0x45, ((fun (s : State) (i : Initiator) (site : Fin 14) (v : W32) => rcfgEffect (respOk s 0) site (w32 v)) (base) (hub) (0) (0x45)).getD base, by decide +kernel⟩,
   ⟨{ base with fab := { base.fab with rcfg := [(0, (5, 7))] } }, 0, 10, 5, 7, { base with fab := { base.fab with ports := base.fab.ports.set 5 7, rcfg := [] } }, by decide +kernel⟩,
   ⟨base, hub, 0, 0x1000, by decide +kernel⟩,
   ⟨base, hub, 2, 0x2000000, by decide +kernel⟩,
   ⟨base, hub, 2, 0x2000000, by decide +kernel⟩,
   ⟨base, 3, by decide +kernel⟩,
   ⟨{ base with regs := [(rkey (Reg.D2D_STATUS 2), 2)] }, 2, 0, 0, 0, false, by decide +kernel⟩,
   ⟨{ base with regs := [(rkey (Reg.D2D_STATUS 2), 2)] }, 2, 5, by decide +kernel⟩,
   ⟨{ base with regs := [(rkey (Reg.D2D_STATUS 2), 2)] }, 2, [1, 2, 3, 4, 5, 6], by decide +kernel⟩,
   ⟨{ { base with regs := [(rkey (Reg.D2D_STATUS 2), 2)] } with time := 200 }, 2, by decide +kernel⟩,
   ⟨{ { base with regs := [(rkey (Reg.D2D_STATUS 2), 2)] } with time := 2000000 }, 2, by decide +kernel⟩,
   ⟨(setLink ({ base with regs := [(rkey (Reg.D2D_STATUS 2), 2)] }) 2 { Link.reset with asked := some 1 }), 2, 1, by decide +kernel⟩,
   ⟨(setLink ({ base with regs := [(rkey (Reg.D2D_STATUS 2), 2)] }) 2 { Link.reset with asked := some 8 }), 2, 8, by decide +kernel⟩,
   ⟨{ base with regs := [(rkey (Reg.D2D_STATUS 2), 1)] }, 2, 2, 0, 1, 1, by decide +kernel⟩,
   ⟨{ base with regs := [(rkey (Reg.D2D_STATUS 2), 1)] }, 2, 3, 0, 1, 1, by decide +kernel⟩,
   ⟨{ (setLink base 16 { Link.reset with unacked := [(5, 0)] }) with regs := [(rkey (Reg.FAB_STATUS 12), 0xFFF)] }, 16, 0, by decide +kernel⟩,
   ⟨(setLink base 16 { Link.reset with unacked := [(5, 0)] }), 16, 0, by decide +kernel⟩,
   ⟨{ base with regs := [(rkey (Reg.D2D_STATUS 2), 2)] }, 2, by decide +kernel⟩,
   ⟨{ base with regs := [(rkey (Reg.D2D_STATUS 2), 2), (rkey (Reg.FAB_STATUS 12), 4)], coh := { base.coh with empties := [2] } }, 2, (fun (s : State) (n : Fin 12) => (upto 16).foldl (fun t h => wb t (Reg.HOM_STATUS h) n.val false) s) ({ base with regs := [(rkey (Reg.D2D_STATUS 2), 2), (rkey (Reg.FAB_STATUS 12), 4)], coh := { base.coh with empties := [2] } }) 2, (fun (t : State) (n : Fin 12) => raiseCond (wb { t with coh := { t.coh with empties := t.coh.empties.filter (· != n.val) } } (Reg.FAB_STATUS 12) n false) .fab 12 0 1) ((fun (s : State) (n : Fin 12) => (upto 16).foldl (fun t h => wb t (Reg.HOM_STATUS h) n.val false) s) ({ base with regs := [(rkey (Reg.D2D_STATUS 2), 2), (rkey (Reg.FAB_STATUS 12), 4)], coh := { base.coh with empties := [2] } }) 2) 2, by decide +kernel⟩,
   ⟨base, 2, true, false, by decide +kernel⟩,
   ⟨base, 0, 1, 0, 0, 0, by decide +kernel⟩,
   ⟨base, 0, 1, 1461501637330902918203684832716283047143723237376, 64, 20, by decide +kernel⟩,
   ⟨base, 0, 1, 2923003274661805836407369665432602120885442183168, 64, 20, by decide +kernel⟩,
   ⟨base, 0, 1, 1688849860263936, 64, 20, by decide +kernel⟩,
   ⟨{ base with fab := { base.fab with outs := [(rtKey 0 1 2, 0, none)] } }, 0, 1, 2, by decide +kernel⟩⟩

/-- States and operands that meet the hypotheses of each clause of `MirrorAndSafetyCommandsComplete`. -/
theorem witness_MirrorAndSafetyCommandsComplete :
    (∃ (s : State) (ep : BitVec 9) (addr : BitVec 48) (l : List Byte), (agRead s ep.toNat (addr.toNat / 8 * 8) 8 = .data l false)) ∧
    (∃ (s : State) (ep : BitVec 9) (addr : BitVec 48) (l : List Byte), (agRead s ep.toNat (addr.toNat / 8 * 8) 8 = .data l true)) ∧
    (∃ (s : State) (ep : BitVec 9) (addr : BitVec 48) (v : Word) (a : Nat), (a = addr.toNat / 8 * 8) ∧ (mirrorOk v = true) ∧ (unrouted s ep.toNat a true = false) ∧ (memErr s a true = none) ∧ (poisoned s (lineOf a) = false)) ∧
    (∃ (s : State) (i : Initiator) (q : Fin 192) (v : W32) (u : State), (Safety.AcceptedM0 s i (Reg.MCP_PAIR q)) ∧ (pairEffect (respOk s 0) q (w32 v) = some u)) ∧
    (∃ (s : State) (i : Initiator) (ch : Fin 256) (v : W32) (u : State), (Safety.AcceptedM0 s i (Reg.MCPCH_CTL ch)) ∧ (mcpCtlWrite (respOk s 0) ch (w32 v) = some u)) ∧
    (∃ (s : State) (i : Initiator) (ch : Fin 256) (v : W32) (u : State), (Safety.AcceptedM0 s i (Reg.MCPCH_CTL ch)) ∧ (mcpCtlWrite (respOk s 0) ch (w32 v) = some u)) ∧
    (∃ (s : State) (i : Initiator) (ch : Fin 256) (u : State), (Safety.AcceptedM0 s i (Reg.MCPCH_CTL ch)) ∧ (mcpCtlWrite (respOk s 0) ch (setBit (rd (respOk s 0) (Reg.MCPCH_CTL ch)) 16 true) = some u)) ∧
    (∃ (s : State) (ch : Fin 256), (mcpActive s ch = true) ∧ ((getMcp s ch).b.isEmpty = false)) ∧
    (∃ (s : State) (ch : Fin 256), (mcpActive s ch = true) ∧ ((getMcp s ch).a.isEmpty = false)) ∧
    (∃ (s : State) (ch : Fin 256) (t : Nat) (w : McpWin) (rest : List (Nat × McpWin)), (mcpActive s ch = true) ∧ ((getMcp s ch).trig = (t, w) :: rest) ∧ ((getMcp s ch).win = none)) ∧
    (∃ (s : State) (ch : Fin 256) (t : Nat) (w : McpWin) (rest : List (Nat × McpWin)) (x : McpWin), (mcpActive s ch = true) ∧ ((getMcp s ch).trig = (t, w) :: rest) ∧ ((getMcp s ch).win = some x)) ∧
    (∃ (s : State) (ch : Fin 256) (d k : Nat), ((getMcp s ch).win = some (.atTime d)) ∧ (mcpActive s ch = true) ∧ (d ≤ s.time) ∧ (k = absentHalves (getMcp s ch) d) ∧ (k ≠ 0)) ∧
    (∃ (s : State) (i : Initiator) (u : State), (Safety.Accepted s i Reg.SMG_CMD) ∧ (isHubM0 s i = true) ∧ (smgCommand (respOk s 0) 1 0 = some u)) ∧
    (∃ (s : State) (i : Initiator) (u : State), (Safety.Accepted s i Reg.SMG_CMD) ∧ (isHubM0 s i = true) ∧ (smgCommand (respOk s 0) 2 0 = some u)) ∧
    (∃ (s : State) (i : Initiator) (u : State), (Safety.Accepted s i Reg.SMG_CMD) ∧ (isHubM0 s i = true) ∧ (smgCommand (respOk s 0) 3 0 = some u)) ∧
    (∃ (s : State) (i : Initiator) (u : State), (Safety.Accepted s i Reg.SMG_CMD) ∧ (isHubM0 s i = true) ∧ (smgCommand (respOk s 0) 4 0 = some u)) ∧
    (∃ (s : State) (i : Initiator) (react : BitVec 2) (u : State), (Safety.Accepted s i Reg.SMG_CMD) ∧ (isHubM0 s i = true) ∧ (smgCommand (respOk s 0) 5 react.toNat = some u)) ∧
    (∃ (s : State) , (rb s Reg.SMG_STATE 3 = true) ∧ ((s.time + 2) % 62500 ≤ 4) ∧ ((s.time + 2) / 62500 ≠ s.smg.edge)) ∧
    (∃ (s : State) (i : Initiator) (v : Word) (u : State), (Safety.AcceptedM0 s i Reg.SMG_WD_CTL) ∧ (mirrorOk v = true) ∧ (wdCtlWrite (respOk s 0) v = some u)) ∧
    (∃ (s : State) (i : Initiator) (slot : Bool) (v : Word) (mirror : Bool) (ticks : Nat), (cutOff s i .smg 0 = false) ∧ (ready s .smg 0 = true)) ∧
    (∃ (s : State) (i : Initiator) (slot : Bool) (v : Word) (mirror : Bool) (ticks : Nat), (cutOff s i .smg 0 = false) ∧ (ready s .smg 0 = false)) ∧
    (∃ (s : State) , (rb s Reg.SMG_WD_CTL 0 = true) ∧ (rb s Reg.SMG_WD_STATUS 6 = false)) ∧
    (∃ (s : State) , (rb s Reg.SMG_WD_CTL 0 = true)) ∧
    (∃ (s : State) , (rb s Reg.SMG_WD_STATUS 6 = true) ∧ (anyStopped s = false)) :=
  ⟨⟨(d0With core3), 386, 0, [0, 0, 0, 0, 255, 255, 255, 255], by decide +kernel⟩,
   ⟨(setPoison (d0With core3) 0), 386, 0, [0, 0, 0, 0, 255, 255, 255, 255], by decide +kernel⟩,
   ⟨(d0With core3), 386, 0, 0xFFFFFFFE00000001, 0, by decide +kernel⟩,
   ⟨base, hub, 3, 0, ((fun (s : State) (i : Initiator) (q : Fin 192) (v : W32) => pairEffect (respOk s 0) q (w32 v)) (base) (hub) (3) (0)).getD base, by decide +kernel⟩,
   ⟨{ base with regs := [(rkey (Reg.MCP_PAIR 2), 0x80044000), (rkey (Reg.MCPCH_RINGA 3), 1), (rkey (Reg.MCPCH_RINGB 3), 2), (rkey (Reg.MCPCH_RINGOUT 3), 3)], qe := { base.qe with rings := [(1, { Ring.reset with owner := 1 }), (2, { Ring.reset with owner := 1 }), (3, { Ring.reset with owner := 1 })] } }, hub, 3, 0x201, ((fun (s : State) (i : Initiator) (ch : Fin 256) (v : W32) => mcpCtlWrite (respOk s 0) ch (w32 v)) ({ base with regs := [(rkey (Reg.MCP_PAIR 2), 0x80044000), (rkey (Reg.MCPCH_RINGA 3), 1), (rkey (Reg.MCPCH_RINGB 3), 2), (rkey (Reg.MCPCH_RINGOUT 3), 3)], qe := { base.qe with rings := [(1, { Ring.reset with owner := 1 }), (2, { Ring.reset with owner := 1 }), (3, { Ring.reset with owner := 1 })] } }) (hub) (3) (0x201)).getD base, by decide +kernel⟩,
   ⟨{ base with regs := [(rkey (Reg.MCPCH_CTL 3), 1)] }, hub, 3, 0, ((fun (s : State) (i : Initiator) (ch : Fin 256) (v : W32) => mcpCtlWrite (respOk s 0) ch (w32 v)) ({ base with regs := [(rkey (Reg.MCPCH_CTL 3), 1)] }) (hub) (3) (0)).getD base, by decide +kernel⟩,
   ⟨base, hub, 3, ((fun (s : State) (i : Initiator) (ch : Fin 256) => mcpCtlWrite (respOk s 0) ch (setBit (rd (respOk s 0) (Reg.MCPCH_CTL ch)) 16 true)) (base) (hub) (3)).getD base, by decide +kernel⟩,
   ⟨{ base with regs := [(rkey (Reg.MCPCH_CTL 3), 1)], mcp := [(3, { McpCh.reset with b := [{ at_ := 5, win := .atTime 9, bytes := [] }] })] }, 3, by decide +kernel⟩,
   ⟨{ base with regs := [(rkey (Reg.MCPCH_CTL 3), 1)], mcp := [(3, { McpCh.reset with a := [{ at_ := 5, win := .atTime 9, bytes := [] }] })] }, 3, by decide +kernel⟩,
   ⟨{ base with regs := [(rkey (Reg.MCPCH_CTL 3), 1)], mcp := [(3, { McpCh.reset with trig := [(5, .atTime 9)] })] }, 3, 5, .atTime 9, [], by decide +kernel⟩,
   ⟨{ base with regs := [(rkey (Reg.MCPCH_CTL 3), 1)], mcp := [(3, { McpCh.reset with trig := [(5, .atTime 9)], win := some (.atTime 9) })] }, 3, 5, .atTime 9, [], .atTime 9, by decide +kernel⟩,
   ⟨{ base with regs := [(rkey (Reg.MCPCH_CTL 3), 1)], mcp := [(3, { McpCh.reset with win := some (.atTime 0) })] }, 3, 0, 3, by decide +kernel⟩,
   ⟨{ base with regs := [(rkey Reg.SMG_WD_CTL, 1), (rkey Reg.SMG_WD_SEQ, 3)] }, hub, (smgCommand (respOk ({ base with regs := [(rkey Reg.SMG_WD_CTL, 1), (rkey Reg.SMG_WD_SEQ, 3)] }) 0) 1 0).getD base, by decide +kernel⟩,
   ⟨{ base with regs := [(rkey Reg.SMG_STATE, 2)] }, hub, (smgCommand (respOk ({ base with regs := [(rkey Reg.SMG_STATE, 2)] }) 0) 2 0).getD base, by decide +kernel⟩,
   ⟨base, hub, (smgCommand (respOk (base) 0) 3 0).getD base, by decide +kernel⟩,
   ⟨base, hub, (smgCommand (respOk (base) 0) 4 0).getD base, by decide +kernel⟩,
   ⟨base, hub, 1, (smgCommand (respOk (base) 0) 5 1).getD base, by decide +kernel⟩,
   ⟨{ base with time := 62500, regs := [(rkey Reg.SMG_STATE, 9)] }, by decide +kernel⟩,
   ⟨{ base with regs := [(rkey Reg.SMG_WD_SITES, 0x10)] }, hub, 0xFFFFFFFE00000001, (wdCtlWrite (respOk { base with regs := [(rkey Reg.SMG_WD_SITES, 0x10)] } 0) 0xFFFFFFFE00000001).getD base, by decide +kernel⟩,
   ⟨base, hub, true, 0xFFFFFFFE00000001, true, 5, by decide +kernel⟩,
   ⟨{ base with pwr := { base.pwr with inReset := true } }, hub, true, 0xFFFFFFFE00000001, true, 5, by decide +kernel⟩,
   ⟨{ base with regs := [(rkey Reg.SMG_WD_CTL, 1), (rkey Reg.SMG_WD_SEQ, 3)] }, by decide +kernel⟩,
   ⟨{ base with regs := [(rkey Reg.SMG_WD_CTL, 1), (rkey Reg.SMG_WD_SEQ, 3)] }, by decide +kernel⟩,
   ⟨{ base with regs := [(rkey Reg.SMG_WD_STATUS, 64)] }, by decide +kernel⟩⟩

/-- States and operands that meet the hypotheses of each clause of `DramCommandsComplete`. -/
theorem witness_DramCommandsComplete :
    (∃ (s : State) (i : Initiator) (ch : Fin 16) (v : W32) (u : State), (Safety.AcceptedM0 s i (Reg.DMC_MAP ch)) ∧ (mapDark s (Reg.DMC_MAP ch) = false) ∧ (dmcMapEffect (respOk s 0) ch (w32 v) = some u)) ∧
    (∃ (s : State) (i : Initiator) (ch : Fin 16) (v : W32), (mapDark s (Reg.DMC_MAP ch) = true) ∧ (cutOff s i .dmc ch = false)) ∧
    (∃ (s : State) (i : Initiator) (ch : Fin 16) (u : State), (Safety.AcceptedM0 s i (Reg.DMC_CMD ch)) ∧ (dmcCommand (respOk s 0) ch 1 = some u)) ∧
    (∃ (s : State) (i : Initiator) (ch : Fin 16) (u : State), (Safety.AcceptedM0 s i (Reg.DMC_CMD ch)) ∧ (dmcCommand (respOk s 0) ch 2 = some u)) ∧
    (∃ (s : State) (i : Initiator) (ch : Fin 16) (u : State), (Safety.AcceptedM0 s i (Reg.DMC_CMD ch)) ∧ (dmcCommand (respOk s 0) ch 3 = some u)) ∧
    (∃ (s : State) (i : Initiator) (ch : Fin 16) (u : State), (Safety.AcceptedM0 s i (Reg.DMC_CMD ch)) ∧ (dmcCommand (respOk s 0) ch 4 = some u)) ∧
    (∃ (s : State) (i : Initiator) (ch : Fin 16) (u : State), (Safety.AcceptedM0 s i (Reg.DMC_CMD ch)) ∧ (dmcCommand (respOk s 0) ch 5 = some u)) ∧
    (∃ (s : State) (ch : Fin 16), (dmcUp s ch = true) ∧ (rb s (Reg.DMC_STATUS ch) 2 = true)) ∧
    (∃ (s : State) (ch : Fin 16), (dmcServing s ch = true) ∧ ((getDmc s ch).fill ≠ [])) ∧
    (∃ (s : State) (i : Initiator) (ch : Fin 16) (v : W32) (u : State), (Safety.AcceptedM0 s i (Reg.DPHY_SWEEP_CTL ch)) ∧ (dmcSweepEffect (respOk s 0) ch (w32 v) = some u)) ∧
    (∃ (s : State) (ch : Fin 16) (res : BitVec 128), (dmcUp s ch = true) ∧ (rb s (Reg.DPHY_SWEEP_STATUS ch) 0 = true)) ∧
    (∃ (s : State) (ch : Fin 16) (line : BitVec 42) (ep : BitVec 9) (part : Option Part) (rt : Bool), (dmcServing s ch = true) ∧ (dmcOwns s ch line.toNat = true) ∧ (((getDmc s ch).writes.reverse.find? fun w => w.line == line.toNat) = none) ∧ ((getDmc s ch).reads.length < 128)) ∧
    (∃ (s : State) (ch : Fin 16) (line : BitVec 42) (ep : BitVec 9) (part : Option Part) (rt : Bool) (w : DmcReq), (dmcServing s ch = true) ∧ (dmcOwns s ch line.toNat = true) ∧ (((getDmc s ch).writes.reverse.find? fun w => w.line == line.toNat) = some w)) ∧
    (∃ (s : State) (ch : Fin 16) (line : BitVec 42) (ep : BitVec 9) (part : Option Part) (rt : Bool) (poison : Bool) (data : List Byte) (u : State), (dmcServing s ch = true) ∧ (dmcOwns s ch line.toNat = true) ∧ (dmcTakes (getDmc s ch) line.toNat = true) ∧ (u = setDmc s ch (dmcDrain s ch (dmcPutWrite (getDmc s ch) (dmcReq line ep part rt poison))))) ∧
    (∃ (s : State) (ch : Fin 16) (addr : BitVec 48) (ep : BitVec 9) (part : Option Part) (v : Word) (a : Nat) (q : DmcReq), (a = addr.toNat / 8 * 8) ∧ (q = { line := lineOf a, ep := ep.toNat, part := part.map (·.val), rt := false, poison := false, age := 0 }) ∧ (dmcServing s ch = true) ∧ (dmcOwns s ch q.line = true) ∧ (dmcTakes (getDmc s ch) q.line = true) ∧ (poisoned s q.line = false)) ∧
    (∃ (s : State) (ch : Fin 16) (busy : List Nat) (it : DmcItem), (dmcNext s ch busy = some it)) ∧
    (∃ (s : State) (ch : Fin 16), (dmcUp s ch = true) ∧ (rb s (Reg.DMC_STATUS ch) 3 = true)) ∧
    (∃ (s : State) (ch : Fin 16) (rank : Bool) (mult : Nat), (dmcUp s ch = true) ∧ (rb s (Reg.DMC_STATUS ch) 3 = true)) ∧
    (∃ (s : State) (ch : Fin 16), (dmcUp s ch = true) ∧ (rb s (Reg.DMC_SLOTCTL ch) 0 = true)) ∧
    (∃ (s : State) (ch : Fin 16) (p : Part), (dmcUp s ch = true) ∧ (rf s (Reg.DMC_REG ch p) 0 12 ≠ 0)) ∧
    (∃ (s : State) (i : Initiator) (ch : Fin 16) (v : W32) (u : State), (Safety.AcceptedM0 s i (Reg.DMC_SLOTCTL ch)) ∧ (slotctlEffect (respOk s 0) ch (w32 v) = some u)) ∧
    (∃ (s : State) (ch : Fin 16) (m0 m1 : BitVec 40) (u0 u1 : Bool), (dmcServing s ch = true) ∧ ((getDmc s ch).issued ≠ [])) ∧
    (∃ (s : State) (ch : Fin 16) (temp : Byte), (dmcUp s ch = true)) ∧
    (∃ (s : State) (ch : Fin 16), (dmcUp s ch = true)) :=
  ⟨⟨base, hub, 0, 0, ((fun (s : State) (i : Initiator) (ch : Fin 16) (v : W32) => dmcMapEffect (respOk s 0) ch (w32 v)) (base) (hub) (0) (0)).getD base, by decide +kernel⟩,
   ⟨{ base with dom := base.dom.set 39 0 }, hub, 4, 0, by decide +kernel⟩,
   ⟨base, hub, 1, ((fun (s : State) (i : Initiator) (ch : Fin 16) => dmcCommand (respOk s 0) ch 1) (base) (hub) (1)).getD base, by decide +kernel⟩,
   ⟨{ base with regs := [(rkey (Reg.DMC_STATUS 1), 8)] }, hub, 1, ((fun (s : State) (i : Initiator) (ch : Fin 16) => dmcCommand (respOk s 0) ch 2) ({ base with regs := [(rkey (Reg.DMC_STATUS 1), 8)] }) (hub) (1)).getD base, by decide +kernel⟩,
   ⟨{ base with regs := [(rkey (Reg.DMC_STATUS 1), 8)] }, hub, 1, ((fun (s : State) (i : Initiator) (ch : Fin 16) => dmcCommand (respOk s 0) ch 3) ({ base with regs := [(rkey (Reg.DMC_STATUS 1), 8)] }) (hub) (1)).getD base, by decide +kernel⟩,
   ⟨{ base with regs := [(rkey (Reg.DMC_STATUS 1), 9)] }, hub, 1, ((fun (s : State) (i : Initiator) (ch : Fin 16) => dmcCommand (respOk s 0) ch 4) ({ base with regs := [(rkey (Reg.DMC_STATUS 1), 9)] }) (hub) (1)).getD base, by decide +kernel⟩,
   ⟨{ base with regs := [(rkey (Reg.DMC_STATUS 1), 10)] }, hub, 1, ((fun (s : State) (i : Initiator) (ch : Fin 16) => dmcCommand (respOk s 0) ch 5) ({ base with regs := [(rkey (Reg.DMC_STATUS 1), 10)] }) (hub) (1)).getD base, by decide +kernel⟩,
   ⟨{ base with regs := [(rkey (Reg.DMC_STATUS 1), 4)] }, 1, by decide +kernel⟩,
   ⟨(setDmc ({ base with regs := [(rkey (Reg.DMC_STATUS 1), 10)] }) 1 { Dmc.reset with fill := [(0, 5)] }), 1, by decide +kernel⟩,
   ⟨{ base with regs := [(rkey (Reg.DMC_STATUS 1), 9)] }, hub, 1, 1, ((fun (s : State) (i : Initiator) (ch : Fin 16) (v : W32) => dmcSweepEffect (respOk s 0) ch (w32 v)) ({ base with regs := [(rkey (Reg.DMC_STATUS 1), 9)] }) (hub) (1) (1)).getD base, by decide +kernel⟩,
   ⟨{ base with regs := [(rkey (Reg.DPHY_SWEEP_STATUS 1), 1)] }, 1, 7, by decide +kernel⟩,
   ⟨{ base with regs := [(rkey (Reg.DMC_STATUS 1), 10)] }, 1, 1, 386, some 1, false, by decide +kernel⟩,
   ⟨(setDmc ({ base with regs := [(rkey (Reg.DMC_STATUS 1), 10)] }) 1 { Dmc.reset with writes := [{ line := 1, ep := 5, part := none, rt := false, poison := false, age := 0 }] }), 1, 1, 386, some 1, false, { line := 1, ep := 5, part := none, rt := false, poison := false, age := 0 }, by decide +kernel⟩,
   ⟨{ base with regs := [(rkey (Reg.DMC_STATUS 1), 10)] }, 1, 1, 386, some 1, false, false, List.replicate 64 7, (setDmc ({ base with regs := [(rkey (Reg.DMC_STATUS 1), 10)] }) 1 (dmcDrain ({ base with regs := [(rkey (Reg.DMC_STATUS 1), 10)] }) 1 (dmcPutWrite Dmc.reset { line := 1, ep := 386, part := some 1, rt := false, poison := false, age := 0 }))), by decide +kernel⟩,
   ⟨{ ({ base with regs := [(rkey (Reg.DMC_STATUS 1), 10)] } : State) with fills := [{ lo := 0, hi := 255, ch := 1, nch := 16 }] }, 1, 64, 386, none, 5, 64, { line := 1, ep := 386, part := none, rt := false, poison := false, age := 0 }, by decide +kernel⟩,
   ⟨(setDmc ({ base with regs := [(rkey (Reg.DMC_STATUS 1), 10)] }) 1 { Dmc.reset with reads := [{ line := 1, ep := 5, part := none, rt := false, poison := false, age := 0 }] }), 1, [], .read { line := 1, ep := 5, part := none, rt := false, poison := false, age := 0 } false, by decide +kernel⟩,
   ⟨{ base with regs := [(rkey (Reg.DMC_STATUS 1), 8), (rkey (Reg.DMC_SLOTCTL 1), 1), (rkey (Reg.DMC_REG 1 2), 5)] }, 1, by decide +kernel⟩,
   ⟨{ base with regs := [(rkey (Reg.DMC_STATUS 1), 8), (rkey (Reg.DMC_SLOTCTL 1), 1), (rkey (Reg.DMC_REG 1 2), 5)] }, 1, true, 2, by decide +kernel⟩,
   ⟨{ base with regs := [(rkey (Reg.DMC_STATUS 1), 8), (rkey (Reg.DMC_SLOTCTL 1), 1), (rkey (Reg.DMC_REG 1 2), 5)] }, 1, by decide +kernel⟩,
   ⟨{ base with regs := [(rkey (Reg.DMC_STATUS 1), 8), (rkey (Reg.DMC_SLOTCTL 1), 1), (rkey (Reg.DMC_REG 1 2), 5)] }, 1, 2, by decide +kernel⟩,
   ⟨base, hub, 1, 0x5000, ((fun (s : State) (i : Initiator) (ch : Fin 16) (v : W32) => slotctlEffect (respOk s 0) ch (w32 v)) (base) (hub) (1) (0x5000)).getD base, by decide +kernel⟩,
   ⟨(setDmc ({ base with regs := [(rkey (Reg.DMC_STATUS 1), 10)] }) 1 { Dmc.reset with issued := [{ line := 1, ep := 5, part := none, rt := false, poison := false, age := 0 }] }), 1, 0, 0, false, false, by decide +kernel⟩,
   ⟨base, 1, 40, by decide +kernel⟩,
   ⟨base, 1, by decide +kernel⟩⟩

/-- States and operands that meet the hypotheses of each clause of `QueueEngineCommandsComplete`. -/
theorem witness_QueueEngineCommandsComplete :
    (∃ (s : State) (i : Initiator) (v : W32) (u : State), (Safety.AcceptedM0 s i (Reg.QE_OWN)) ∧ (qeOwnEffect (respOk s 0) (w32 v) = some u)) ∧
    (∃ (s : State) (i : Initiator) (p : Part) (v : W32) (n : Nat) (u : State), (Safety.Accepted s i (Reg.QEP_RCFG p)) ∧ (n = rf s (Reg.QEP_RSEL p) 0 13) ∧ (p = 0 ∨ (getRing s n).owner = p.val) ∧ (rcfgWrite (respOk s 0) n (w32 v) = some u)) ∧
    (∃ (s : State) (i : Initiator) (p : Part) (v : W32) (n : Nat) (u : State), (Safety.Accepted s i (Reg.QEP_RCFG p)) ∧ (n = rf s (Reg.QEP_RSEL p) 0 13) ∧ (p = 0 ∨ (getRing s n).owner = p.val) ∧ (rcfgWrite (respOk s 0) n (w32 v) = some u)) ∧
    (∃ (s : State) (i : Initiator) (p : Part) (v : W32) (n : Nat) (u : State), (Safety.Accepted s i (Reg.QEP_DCTL p)) ∧ (n = rf s (Reg.QEP_DSEL p) 0 6) ∧ (p = 0 ∨ dmaOwner s n = p.val) ∧ (dctlWrite (respOk s 0) n (w32 v) = some u)) ∧
    (∃ (s : State) (i : Initiator) (p : Part) (v : W32) (n : Nat) (u : State), (Safety.Accepted s i (Reg.QEP_DCTL p)) ∧ (n = rf s (Reg.QEP_DSEL p) 0 6) ∧ (p = 0 ∨ dmaOwner s n = p.val) ∧ (dctlWrite (respOk s 0) n (w32 v) = some u)) ∧
    (∃ (s : State) (i : Initiator) (p : Part) (v : Word) (r a : Nat), (Safety.Accepted s i (Reg.QEP_ENQ p)) ∧ (r = fld v 0 13) ∧ (a = fld v 16 43 * 32) ∧ (opRefusal (respOk s 0) i p r a false = none) ∧ (quotaOk (respOk s 0) (getRing s r) = true)) ∧
    (∃ (s : State) (i : Initiator) (p : Part) (v : Word) (r a : Nat) (e : Nat), (Safety.Accepted s i (Reg.QEP_ENQ p)) ∧ (r = fld v 0 13) ∧ (a = fld v 16 43 * 32) ∧ (opRefusal (respOk s 0) i p r a false = some e)) ∧
    (∃ (s : State) (i : Initiator) (p : Part) (v : Word) (r a : Nat), (Safety.Accepted s i (Reg.QEP_DEQ p)) ∧ (r = fld v 0 13) ∧ (a = fld v 16 43 * 32) ∧ (opRefusal (respOk s 0) i p r a true = none) ∧ ((getRing s r).taking < (getRing s r).count)) ∧
    (∃ (s : State) (i : Initiator) (p : Part) (v : Word) (r a : Nat) (e : Nat), (Safety.Accepted s i (Reg.QEP_DEQ p)) ∧ (r = fld v 0 13) ∧ (a = fld v 16 43 * 32) ∧ (opRefusal (respOk s 0) i p r a true = some e)) ∧
    (∃ (s : State) (r : Fin 8192) (k : Nat) (o : QeOp) (rest : List QeOp) (l : List Byte), (takeOpAt isReading k (getRing s r).ops = some (o, rest)) ∧ (targetRefuses s o.page o.addr (getRing s r).esize 1 = none) ∧ (agRead s (endpointOf .qe 0) o.addr (getRing s r).esize = .data l false) ∧ ((!(getRing s r).mirror || pairsOk l) = true) ∧ ((getRing s r).held < (getRing s r).size) ∧ (quotaOk s (getRing s r) = true)) ∧
    (∃ (s : State) (r : Fin 8192) (o : QeOp) (rest : List QeOp) (t : State), (takeOp isWriting (getRing s r).ops = some (o, rest)) ∧ (mirrorStuck (setRing s r { getRing s r with ops := rest }) (getRing s r) = none) ∧ ((agWrite (setRing s r { getRing s r with ops := rest }) (endpointOf .qe 0) ((getRing s r).slotAddr (getRing s r).tail) (o.entry.getD []) false).toOption = some t)) ∧
    (∃ (s : State) (r : Fin 8192) (o : QeOp) (rest : List QeOp) (l : List Byte) (t u w : State), (takeOp QeOp.deq (getRing s r).ops = some (o, rest)) ∧ (u = setRing s r { getRing s r with ops := rest }) ∧ (agRead u (endpointOf .qe 0) ((getRing s r).slotAddr (getRing s r).head) (getRing s r).esize = .data l false) ∧ ((!(getRing s r).mirror || pairsOk l) = true) ∧ (targetRefuses u o.page o.addr (getRing s r).esize 2 = none) ∧ ((agWrite u (endpointOf .qe 0) o.addr l false).toOption = some t) ∧ (w = poisonCopied u t ((getRing s r).slotAddr (getRing s r).head) o.addr (getRing s r).esize)) ∧
    (∃ (s : State) (ch : Fin 64) (l : List Byte) (t u : State) (m : DmaCmd), ((getDma s ch).en = true) ∧ (hwDeq s (fld (getDma s ch).ctl 1 13) = (some (l, false, t), s)) ∧ (m = parseCmd l) ∧ (u = setDma t ch { getDma t ch with cmds := (getDma t ch).cmds ++ [m] }) ∧ ((dmaAddrOk u (dmaOwner s ch) m.src m.len 1 && dmaAddrOk u (dmaOwner s ch) m.dst m.len 2) = true)) ∧
    (∃ (s : State) (ch : Fin 64) (k : Nat) (m : DmaCmd), (((getDma s ch).cmds.findIdx? fun m => !m.started) = some k) ∧ ((getDma s ch).cmds[k]? = some m) ∧ (((getDma s ch).started < (getDma s ch).limit && (getDma s ch).cpls.isEmpty && (!m.fence || k == 0)) = true)) ∧
    (∃ (s : State) (ch : Fin 64) (tag : BitVec 16) (err : Bool) (m : DmaCmd), (((getDma s ch).cmds.find? fun m => m.started && m.tag == tag.toNat) = some m)) ∧
    (∃ (s : State) (ch : Fin 64) (l : List Byte) (rest : List (List Byte)) (t : State), ((getDma s ch).cpls = l :: rest) ∧ (hwEnq s (fld (getDma s ch).ctl 14 13) l = some t)) ∧
    (∃ (s : State) (i : Initiator) (p : Part) (v : W32) (done c tag : Nat) (m : DmaCmd), (Safety.Accepted s i (Reg.QEP_DABORT p)) ∧ (c = fld (w32 v) 0 6) ∧ (tag = fld (w32 v) 16 16) ∧ (p = 0 ∨ dmaOwner s c = p.val) ∧ (((getDma s c).cmds.find? fun m => m.tag == tag) = some m) ∧ (m.started = false)) :=
  ⟨⟨base, hub, 0x80030005, ((fun (s : State) (i : Initiator) (v : W32) => qeOwnEffect (respOk s 0) (w32 v)) (base) (hub) (0x80030005)).getD base, by decide +kernel⟩,
   ⟨base, hub, 0, 0x8, rf base (Reg.QEP_RSEL 0) 0 13, (rcfgWrite (respOk base 0) (rf base (Reg.QEP_RSEL 0) 0 13) (w32 0x8)).getD base, by decide +kernel⟩,
   ⟨({ ({ d0With core3 with qe := { base.qe with rings := [(5, { Ring.reset with cfg := 9 })], dmas := [] }, regs := ((d0With core3).regs.set (rkey (Reg.QE_QENT 0)) 100).set (rkey (Reg.QE_QBYTES 0)) 100000 }) with regs := (((d0With core3).regs.set (rkey (Reg.QE_QENT 0)) 100).set (rkey (Reg.QE_QBYTES 0)) 100000).set (rkey (Reg.QEP_RSEL 0)) 5 }), hub, 0, 0x8, rf ({ ({ d0With core3 with qe := { base.qe with rings := [(5, { Ring.reset with cfg := 9 })], dmas := [] }, regs := ((d0With core3).regs.set (rkey (Reg.QE_QENT 0)) 100).set (rkey (Reg.QE_QBYTES 0)) 100000 }) with regs := (((d0With core3).regs.set (rkey (Reg.QE_QENT 0)) 100).set (rkey (Reg.QE_QBYTES 0)) 100000).set (rkey (Reg.QEP_RSEL 0)) 5 }) (Reg.QEP_RSEL 0) 0 13, (rcfgWrite (respOk ({ ({ d0With core3 with qe := { base.qe with rings := [(5, { Ring.reset with cfg := 9 })], dmas := [] }, regs := ((d0With core3).regs.set (rkey (Reg.QE_QENT 0)) 100).set (rkey (Reg.QE_QBYTES 0)) 100000 }) with regs := (((d0With core3).regs.set (rkey (Reg.QE_QENT 0)) 100).set (rkey (Reg.QE_QBYTES 0)) 100000).set (rkey (Reg.QEP_RSEL 0)) 5 }) 0) (rf ({ ({ d0With core3 with qe := { base.qe with rings := [(5, { Ring.reset with cfg := 9 })], dmas := [] }, regs := ((d0With core3).regs.set (rkey (Reg.QE_QENT 0)) 100).set (rkey (Reg.QE_QBYTES 0)) 100000 }) with regs := (((d0With core3).regs.set (rkey (Reg.QE_QENT 0)) 100).set (rkey (Reg.QE_QBYTES 0)) 100000).set (rkey (Reg.QEP_RSEL 0)) 5 }) (Reg.QEP_RSEL 0) 0 13) (w32 0x8)).getD base, by decide +kernel⟩,
   ⟨base, hub, 0, 0, rf base (Reg.QEP_DSEL 0) 0 6, (dctlWrite (respOk base 0) (rf base (Reg.QEP_DSEL 0) 0 6) (w32 0)).getD base, by decide +kernel⟩,
   ⟨base, hub, 0, 0, rf base (Reg.QEP_DSEL 0) 0 6, (dctlWrite (respOk base 0) (rf base (Reg.QEP_DSEL 0) 0 6) (w32 0)).getD base, by decide +kernel⟩,
   ⟨({ d0With core3 with qe := { base.qe with rings := [(5, { Ring.reset with cfg := 9 })], dmas := [] }, regs := ((d0With core3).regs.set (rkey (Reg.QE_QENT 0)) 100).set (rkey (Reg.QE_QBYTES 0)) 100000 }), hub, 0, 5, 5, 0, by decide +kernel⟩,
   ⟨base, hub, 0, 5, 5, 0, 6, by decide +kernel⟩,
   ⟨({ d0With core3 with qe := { base.qe with rings := [(5, { Ring.reset with cfg := 9, count := 1 })], dmas := [] }, regs := ((d0With core3).regs.set (rkey (Reg.QE_QENT 0)) 100).set (rkey (Reg.QE_QBYTES 0)) 100000 }), hub, 0, 5, 5, 0, by decide +kernel⟩,
   ⟨base, hub, 0, 5, 5, 0, 6, by decide +kernel⟩,
   ⟨({ d0With core3 with qe := { base.qe with rings := [(5, { Ring.reset with cfg := 9, ops := [{ deq := false, ini := hub, page := 0, addr := 0, entry := none }] })], dmas := [] }, regs := ((d0With core3).regs.set (rkey (Reg.QE_QENT 0)) 100).set (rkey (Reg.QE_QBYTES 0)) 100000 }), 5, 0, { deq := false, ini := hub, page := 0, addr := 0, entry := none }, [], [0, 0, 0, 0, 255, 255, 255, 255] ++ List.replicate 24 0, by decide +kernel⟩,
   ⟨({ d0With core3 with qe := { base.qe with rings := [(5, { Ring.reset with cfg := 9, ops := [{ deq := false, ini := hub, page := 0, addr := 0, entry := some (List.replicate 32 1) }] })], dmas := [] }, regs := ((d0With core3).regs.set (rkey (Reg.QE_QENT 0)) 100).set (rkey (Reg.QE_QBYTES 0)) 100000 }), 5, { deq := false, ini := hub, page := 0, addr := 0, entry := some (List.replicate 32 1) }, [], ((agWrite (setRing (({ d0With core3 with qe := { base.qe with rings := [(5, { Ring.reset with cfg := 9, ops := [{ deq := false, ini := hub, page := 0, addr := 0, entry := some (List.replicate 32 1) }] })], dmas := [] }, regs := ((d0With core3).regs.set (rkey (Reg.QE_QENT 0)) 100).set (rkey (Reg.QE_QBYTES 0)) 100000 })) 5 ({ Ring.reset with cfg := 9, ops := [] })) (endpointOf .qe 0) 0 (List.replicate 32 1) false).toOption).getD base, by decide +kernel⟩,
   ⟨({ d0With core3 with qe := { base.qe with rings := [(5, { Ring.reset with cfg := 9, count := 1, ops := [{ deq := true, ini := hub, page := 0, addr := 0, entry := none }] })], dmas := [] }, regs := ((d0With core3).regs.set (rkey (Reg.QE_QENT 0)) 100).set (rkey (Reg.QE_QBYTES 0)) 100000 }), 5, { deq := true, ini := hub, page := 0, addr := 0, entry := none }, [], [0, 0, 0, 0, 255, 255, 255, 255] ++ List.replicate 24 0, ((agWrite (setRing (({ d0With core3 with qe := { base.qe with rings := [(5, { Ring.reset with cfg := 9, count := 1, ops := [{ deq := true, ini := hub, page := 0, addr := 0, entry := none }] })], dmas := [] }, regs := ((d0With core3).regs.set (rkey (Reg.QE_QENT 0)) 100).set (rkey (Reg.QE_QBYTES 0)) 100000 })) 5 ({ Ring.reset with cfg := 9, count := 1, ops := [] })) (endpointOf .qe 0) 0 ([0, 0, 0, 0, 255, 255, 255, 255] ++ List.replicate 24 0) false).toOption).getD base, (setRing (({ d0With core3 with qe := { base.qe with rings := [(5, { Ring.reset with cfg := 9, count := 1, ops := [{ deq := true, ini := hub, page := 0, addr := 0, entry := none }] })], dmas := [] }, regs := ((d0With core3).regs.set (rkey (Reg.QE_QENT 0)) 100).set (rkey (Reg.QE_QBYTES 0)) 100000 })) 5 ({ Ring.reset with cfg := 9, count := 1, ops := [] })), poisonCopied (setRing (({ d0With core3 with qe := { base.qe with rings := [(5, { Ring.reset with cfg := 9, count := 1, ops := [{ deq := true, ini := hub, page := 0, addr := 0, entry := none }] })], dmas := [] }, regs := ((d0With core3).regs.set (rkey (Reg.QE_QENT 0)) 100).set (rkey (Reg.QE_QBYTES 0)) 100000 })) 5 ({ Ring.reset with cfg := 9, count := 1, ops := [] })) (((agWrite (setRing (({ d0With core3 with qe := { base.qe with rings := [(5, { Ring.reset with cfg := 9, count := 1, ops := [{ deq := true, ini := hub, page := 0, addr := 0, entry := none }] })], dmas := [] }, regs := ((d0With core3).regs.set (rkey (Reg.QE_QENT 0)) 100).set (rkey (Reg.QE_QBYTES 0)) 100000 })) 5 ({ Ring.reset with cfg := 9, count := 1, ops := [] })) (endpointOf .qe 0) 0 ([0, 0, 0, 0, 255, 255, 255, 255] ++ List.replicate 24 0) false).toOption).getD base) 0 0 32, by decide +kernel⟩,
   ⟨({ ({ d0With core3 with qe := { base.qe with rings := [(5, { Ring.reset with cfg := 9, count := 1 })], dmas := [(2, { DmaCh.reset with ctl := 98315 })] }, regs := ((d0With core3).regs.set (rkey (Reg.QE_QENT 0)) 100).set (rkey (Reg.QE_QBYTES 0)) 100000 }) with mem := [] }), 2, [0, 0, 0, 0, 0, 0, 0, 0] ++ List.replicate 24 0, (setRing ({ ({ d0With core3 with qe := { base.qe with rings := [(5, { Ring.reset with cfg := 9, count := 1 })], dmas := [(2, { DmaCh.reset with ctl := 98315 })] }, regs := ((d0With core3).regs.set (rkey (Reg.QE_QENT 0)) 100).set (rkey (Reg.QE_QBYTES 0)) 100000 }) with mem := [] }) 5 ({ Ring.reset with cfg := 9, head := 1 })), (setDma (setRing ({ ({ d0With core3 with qe := { base.qe with rings := [(5, { Ring.reset with cfg := 9, count := 1 })], dmas := [(2, { DmaCh.reset with ctl := 98315 })] }, regs := ((d0With core3).regs.set (rkey (Reg.QE_QENT 0)) 100).set (rkey (Reg.QE_QBYTES 0)) 100000 }) with mem := [] }) 5 ({ Ring.reset with cfg := 9, head := 1 })) 2 { DmaCh.reset with ctl := 98315, cmds := [parseCmd (List.replicate 32 0)] }), parseCmd (List.replicate 32 0), by decide +kernel⟩,
   ⟨({ d0With core3 with qe := { base.qe with rings := [(5, { Ring.reset with cfg := 9 })], dmas := [(2, { DmaCh.reset with ctl := 98315, cmds := [{ src := 0, dst := 64, len := 8, tag := 3, cpl := true, fence := false, started := false }] })] }, regs := ((d0With core3).regs.set (rkey (Reg.QE_QENT 0)) 100).set (rkey (Reg.QE_QBYTES 0)) 100000 }), 2, 0, { src := 0, dst := 64, len := 8, tag := 3, cpl := true, fence := false, started := false }, by decide +kernel⟩,
   ⟨({ d0With core3 with qe := { base.qe with rings := [(5, { Ring.reset with cfg := 9 })], dmas := [(2, { DmaCh.reset with ctl := 98315, cmds := [{ src := 0, dst := 64, len := 8, tag := 3, cpl := true, fence := false, started := true }] })] }, regs := ((d0With core3).regs.set (rkey (Reg.QE_QENT 0)) 100).set (rkey (Reg.QE_QBYTES 0)) 100000 }), 2, 3, false, { src := 0, dst := 64, len := 8, tag := 3, cpl := true, fence := false, started := true }, by decide +kernel⟩,
   ⟨({ d0With core3 with qe := { base.qe with rings := [(5, { Ring.reset with cfg := 9 })], dmas := [(2, { DmaCh.reset with ctl := 81921, cpls := [List.replicate 32 1] })] }, regs := ((d0With core3).regs.set (rkey (Reg.QE_QENT 0)) 100).set (rkey (Reg.QE_QBYTES 0)) 100000 }), 2, List.replicate 32 1, [], (hwEnq ({ d0With core3 with qe := { base.qe with rings := [(5, { Ring.reset with cfg := 9 })], dmas := [(2, { DmaCh.reset with ctl := 81921, cpls := [List.replicate 32 1] })] }, regs := ((d0With core3).regs.set (rkey (Reg.QE_QENT 0)) 100).set (rkey (Reg.QE_QBYTES 0)) 100000 }) 5 (List.replicate 32 1)).getD base, by decide +kernel⟩,
   ⟨({ d0With core3 with qe := { base.qe with rings := [(5, { Ring.reset with cfg := 9 })], dmas := [(2, { DmaCh.reset with ctl := 98315, cmds := [{ src := 0, dst := 64, len := 8, tag := 3, cpl := true, fence := false, started := false }] })] }, regs := ((d0With core3).regs.set (rkey (Reg.QE_QENT 0)) 100).set (rkey (Reg.QE_QBYTES 0)) 100000 }), hub, 0, 0x30002, 0, 2, 3, { src := 0, dst := 64, len := 8, tag := 3, cpl := true, fence := false, started := false }, by decide +kernel⟩⟩

/-- States and operands that meet the hypotheses of each clause of `HostPortCommandsComplete`. -/
theorem witness_HostPortCommandsComplete :
    (∃ (s : State) (port : Port) (fn : Fin 33) (bar : BitVec 3) (off : BitVec 48) (n : Nat), (hpUp s port = true) ∧ (rb s (hpFmap port fn) 31 = true) ∧ (bar = 0) ∧ (off.toNat < 0x4000000)) ∧
    (∃ (s : State) (port : Port) (fn : Fin 33) (bar : BitVec 3) (off : BitVec 48) (l : List Byte), (hpUp s port = true) ∧ (rb s (hpFmap port fn) 31 = true) ∧ (bar = 0) ∧ (off.toNat < 0x4000000)) ∧
    (∃ (s : State) (port : Port) (fn : Fin 33) (bar : BitVec 3) (off : BitVec 48) (t : Tlp) (w : Word), (hpUp s port = true) ∧ (rb s (hpFmap port fn) 31 = true) ∧ (bar = 2) ∧ (w = rd s (hpIwin port fn)) ∧ (30 ≤ fld w 0 6 ∧ off.toNat < 2 ^ fld w 0 6) ∧ ((match t with | .wr _ true => false | _ => true) = true)) ∧
    (∃ (s : State) (port : Port) (fn : Fin 33) (bar : BitVec 3) (off : BitVec 48) (n : Nat), (hpUp s port = true) ∧ (rb s (hpFmap port fn) 31 = true) ∧ (bar = 4) ∧ (off.toNat < 0x18400000)) ∧
    (∃ (s : State) (port : Port) (fn : Fin 33) (bar : BitVec 3) (off : BitVec 48) (l : List Byte), (hpUp s port = true) ∧ (rb s (hpFmap port fn) 31 = true) ∧ (bar = 4) ∧ (off.toNat < 0x18400000)) ∧
    (∃ (s : State) (port : Port) (fn : Fin 33) (bar : BitVec 3) (off : BitVec 48) (n : Nat), (hpUp s port = true) ∧ (rb s (hpFmap port fn) 31 = true) ∧ (bar = 4) ∧ (0x1F000000 ≤ off.toNat ∧ off.toNat < 0x1F000400)) ∧
    (∃ (s : State) (port : Port) (fn : Fin 33) (bar : BitVec 3) (off : BitVec 48) (l : List Byte), (hpUp s port = true) ∧ (rb s (hpFmap port fn) 31 = true) ∧ (bar = 4) ∧ (0x1F000000 ≤ off.toNat ∧ off.toNat < 0x1F000400)) ∧
    (∃ (s : State) (port : Port) (fn : Fin 33) (bar : BitVec 3) (off : BitVec 48) (n : Nat), (hpUp s port = true) ∧ (rb s (hpFmap port fn) 31 = true) ∧ (bar = 4) ∧ (0x1F001000 ≤ off.toNat ∧ off.toNat < 0x1F001008)) ∧
    (∃ (s : State) (port : Port) (fn : Fin 33) (bar : BitVec 3) (off : BitVec 48) (t : Tlp), (hpUp s port = true) ∧ (rb s (hpFmap port fn) 31 = false)) ∧
    (∃ (s : State) (port : Port) (fn : Fin 33), (hpUp s port = true) ∧ (rb s (hpCtl port) 0 = true)) ∧
    (∃ (s : State) (port : Port) (fn : Fin 33) (on : Bool), (hpUp s port = true) ∧ (rb s (hpCtl port) 0 = true)) ∧
    (∃ (s : State) (port : Port) (fn : Fin 33), (hpUp s port = true) ∧ (rb s (hpCtl port) 0 = true)) ∧
    (∃ (s : State) (i : Initiator) (addr : BitVec 48) (width : Nat) (v : Word), (areaOf addr.toNat = .host) ∧ (owinErr s i addr.toNat = none) ∧ (regionOk s (initPart s i) addr.toNat width 2 = true)) ∧
    (∃ (s : State) (i : Initiator) (addr : BitVec 48) (width : Nat), (areaOf addr.toNat = .host) ∧ (owinErr s i addr.toNat = none) ∧ (regionOk s (initPart s i) addr.toNat width 1 = true)) ∧
    (∃ (s : State) (i : Initiator) (addr : BitVec 48) (width : Nat) (wr : Option Word) (e : Nat), (areaOf addr.toNat = .host) ∧ (owinErr s i addr.toNat = some e)) ∧
    (∃ (s : State) (port : Port) (tag : BitVec 10) (v : Word) (o : HpOut), (((getHp s port).outs.find? fun o => o.tag == tag.toNat) = some o)) ∧
    (∃ (s : State) (port : Port) (tag : BitVec 10) (o : HpOut), (((getHp s port).outs.find? fun o => o.tag == tag.toNat) = some o) ∧ (o.since + 1000 * max 1 (rf s (hpCtl port) 16 16) ≤ s.time)) ∧
    (∃ (s : State) (port : Port), (hpUp s port = true)) ∧
    (∃ (s : State) (port : Port) (rate : BitVec 3) (width : BitVec 4) (numvf : BitVec 6), (hpOn s port = true) ∧ (hpLinkOk rate.toNat width.toNat numvf.toNat = true)) ∧
    (∃ (s : State) (port : Port) (fn : Fin 33), (hpUp s port = true)) ∧
    (∃ (s : State) (i : Initiator) (port : Port) (k : Fin 256) (v : W32) (u : State), (Safety.AcceptedM0 s i (hpVmap port k)) ∧ (vmapEffect (respOk s 0) port k (w32 v) = some u)) ∧
    (∃ (s : State) (port : Port) (f v : Nat) (rest : List (Nat × Nat)), ((getHp s port).msgs = (f, v) :: rest) ∧ (hpUp (setHp s port { getHp s port with msgs := rest }) port = true)) ∧
    (∃ (s : State) (i : Initiator) (port : Fin 2) (v : W32) (dev : Option W32), (Safety.Accepted s i (spaCfgdata port)) ∧ ((getSpa s port).up = true)) ∧
    (∃ (s : State) (i : Initiator) (port : Fin 2) (dev : W32), (Safety.Accepted s i (spaCfgdata port)) ∧ ((getSpa s port).up = true)) ∧
    (∃ (s : State) (i : Initiator) (port : Fin 2), (Safety.Accepted s i (spaCfgdata port)) ∧ ((getSpa s port).up = true)) ∧
    (∃ (s : State) (port : Fin 2) (v : Fin 32), (netOn s = true) ∧ ((getSpa s port).up = true)) ∧
    (∃ (s : State) (port : Fin 2) (addr : BitVec 48) (req : DmaReq), (netOn s = true) ∧ ((getSpa s port).up = true)) ∧
    (∃ (s : State) (port : Fin 2), (netOn s = true) ∧ ((getSpa s port).up = true)) ∧
    (∃ (s : State) (port : Fin 2), (netOn s = true) ∧ ((getSpa s port).up = false)) :=
  ⟨⟨{ base with regs := [(rkey (hpStatus .hpa), 1), (rkey (hpFmap .hpa 2), 0x80000000), (rkey (hpIwin .hpa 2), 30), (rkey (hpCtl .hpa), 1)] }, .hpa, 2, 0, 0x100, 4, by decide +kernel⟩,
   ⟨{ base with regs := [(rkey (hpStatus .hpa), 1), (rkey (hpFmap .hpa 2), 0x80000000), (rkey (hpIwin .hpa 2), 30), (rkey (hpCtl .hpa), 1)] }, .hpa, 2, 0, 0x100, [1, 2, 3, 4], by decide +kernel⟩,
   ⟨{ base with regs := [(rkey (hpStatus .hpa), 1), (rkey (hpFmap .hpa 2), 0x80000000), (rkey (hpIwin .hpa 2), 30), (rkey (hpCtl .hpa), 1)] }, .hpa, 2, 2, 64, .rd 4, 30, by decide +kernel⟩,
   ⟨{ base with regs := [(rkey (hpStatus .hpa), 1), (rkey (hpFmap .hpa 2), 0x80000000), (rkey (hpIwin .hpa 2), 30), (rkey (hpCtl .hpa), 1)] }, .hpa, 2, 4, 0x10000, 4, by decide +kernel⟩,
   ⟨{ base with regs := [(rkey (hpStatus .hpa), 1), (rkey (hpFmap .hpa 2), 0x80000000), (rkey (hpIwin .hpa 2), 30), (rkey (hpCtl .hpa), 1)] }, .hpa, 2, 4, 0x10000, [1, 2, 3, 4], by decide +kernel⟩,
   ⟨{ base with regs := [(rkey (hpStatus .hpa), 1), (rkey (hpFmap .hpa 2), 0x80000000), (rkey (hpIwin .hpa 2), 30), (rkey (hpCtl .hpa), 1)] }, .hpa, 2, 4, 0x1F000010, 4, by decide +kernel⟩,
   ⟨{ base with regs := [(rkey (hpStatus .hpa), 1), (rkey (hpFmap .hpa 2), 0x80000000), (rkey (hpIwin .hpa 2), 30), (rkey (hpCtl .hpa), 1)] }, .hpa, 2, 4, 0x1F000010, [1, 2, 3, 4], by decide +kernel⟩,
   ⟨{ base with regs := [(rkey (hpStatus .hpa), 1), (rkey (hpFmap .hpa 2), 0x80000000), (rkey (hpIwin .hpa 2), 30), (rkey (hpCtl .hpa), 1)] }, .hpa, 2, 4, 0x1F001000, 4, by decide +kernel⟩,
   ⟨{ base with regs := [(rkey (hpStatus .hpa), 1), (rkey (hpFmap .hpa 2), 0x80000000), (rkey (hpIwin .hpa 2), 30), (rkey (hpCtl .hpa), 1)] }, .hpa, 3, 0, 0, .rd 4, by decide +kernel⟩,
   ⟨{ base with regs := [(rkey (hpStatus .hpa), 1), (rkey (hpFmap .hpa 2), 0x80000000), (rkey (hpIwin .hpa 2), 30), (rkey (hpCtl .hpa), 1)] }, .hpa, 2, by decide +kernel⟩,
   ⟨{ base with regs := [(rkey (hpStatus .hpa), 1), (rkey (hpFmap .hpa 2), 0x80000000), (rkey (hpIwin .hpa 2), 30), (rkey (hpCtl .hpa), 1)] }, .hpa, 2, true, by decide +kernel⟩,
   ⟨{ base with regs := [(rkey (hpStatus .hpa), 1), (rkey (hpFmap .hpa 2), 0x80000000), (rkey (hpIwin .hpa 2), 30), (rkey (hpCtl .hpa), 1)] }, .hpa, 2, by decide +kernel⟩,
   ⟨{ base with regs := [(rkey (hpStatus .hpa), 1), (rkey (hpOwin .hpa 0), 1)] }, hub, 0xC00000000000, 4, 7, by decide +kernel⟩,
   ⟨{ base with regs := [(rkey (hpStatus .hpa), 1), (rkey (hpOwin .hpa 0), 1)] }, hub, 0xC00000000000, 4, by decide +kernel⟩,
   ⟨base, hub, 0xC00000000000, 4, none, eABSENT, by decide +kernel⟩,
   ⟨(setHp { base with regs := [(rkey (hpStatus .hpa), 1), (rkey (hpFmap .hpa 2), 0x80000000), (rkey (hpIwin .hpa 2), 30), (rkey (hpCtl .hpa), 1)] } .hpa { HostPort.reset with outs := [{ tag := 3, addr := 64, len := 4, ini := hub, since := 0, load := none }] }), .hpa, 3, 9, { tag := 3, addr := 64, len := 4, ini := hub, since := 0, load := none }, by decide +kernel⟩,
   ⟨({ (setHp { base with regs := [(rkey (hpStatus .hpa), 1), (rkey (hpFmap .hpa 2), 0x80000000), (rkey (hpIwin .hpa 2), 30), (rkey (hpCtl .hpa), 1)] } .hpa { HostPort.reset with outs := [{ tag := 3, addr := 64, len := 4, ini := hub, since := 0, load := none }] }) with time := 60000000 }), .hpa, 3, { tag := 3, addr := 64, len := 4, ini := hub, since := 0, load := none }, by decide +kernel⟩,
   ⟨{ base with regs := [(rkey (hpStatus .hpa), 1), (rkey (hpFmap .hpa 2), 0x80000000), (rkey (hpIwin .hpa 2), 30), (rkey (hpCtl .hpa), 1)] }, .hpa, by decide +kernel⟩,
   ⟨base, .hpa, 4, 8, 32, by decide +kernel⟩,
   ⟨{ base with regs := [(rkey (hpStatus .hpa), 1), (rkey (hpFmap .hpa 2), 0x80000000), (rkey (hpIwin .hpa 2), 30), (rkey (hpCtl .hpa), 1)] }, .hpa, 2, by decide +kernel⟩,
   ⟨base, hub, .hpa, 3, 0x80000800, ((fun (s : State) (i : Initiator) (port : Port) (k : Fin 256) (v : W32) => vmapEffect (respOk s 0) port k (w32 v)) (base) (hub) (.hpa) (3) (0x80000800)).getD base, by decide +kernel⟩,
   ⟨(setHp { base with regs := [(rkey (hpStatus .hpa), 1), (rkey (hpFmap .hpa 2), 0x80000000), (rkey (hpIwin .hpa 2), 30), (rkey (hpCtl .hpa), 1)] } .hpa { HostPort.reset with msgs := [(2, 3)] }), .hpa, 2, 3, [], by decide +kernel⟩,
   ⟨(setSpa base 1 { Spa.reset with up := true }), hub, 1, 5, none, ⟨by decide +kernel, by decide +kernel, by simp [semBlocked, hub], by decide +kernel⟩, by decide +kernel⟩,
   ⟨(setSpa base 1 { Spa.reset with up := true }), hub, 1, 0, ⟨by decide +kernel, by decide +kernel, by simp [semBlocked, hub], by decide +kernel⟩, by decide +kernel⟩,
   ⟨(setSpa base 1 { Spa.reset with up := true }), hub, 1, ⟨by decide +kernel, by decide +kernel, by simp [semBlocked, hub], by decide +kernel⟩, by decide +kernel⟩,
   ⟨(setSpa base 1 { Spa.reset with up := true }), 1, 3, by decide +kernel⟩,
   ⟨(setSpa base 1 { Spa.reset with up := true }), 1, 64, .rd 8, by decide +kernel⟩,
   ⟨(setSpa base 1 { Spa.reset with up := true }), 1, by decide +kernel⟩,
   ⟨base, 1, by decide +kernel⟩⟩

/-- States and operands that meet the hypotheses of each clause of `NetworkAndFieldCommandsComplete`. -/
theorem witness_NetworkAndFieldCommandsComplete :
    (∃ (s : State) (m : Fin 12), (macOn s m = true)) ∧
    (∃ (s : State) (i : Initiator) (m : Fin 12) (v : W32) (u : State), (Safety.Accepted s i (Reg.ETH_GCL_CTL m)) ∧ (gclEffect (respOk s 0) m (w32 v) = some u)) ∧
    (∃ (s : State) (i : Initiator) (m : Fin 12) (v : Word), (Safety.Accepted s i (Reg.ETH_PTP_STEP m))) ∧
    (∃ (s : State) (m : Fin 12) (frame : List Byte) (fcsOk : Bool), (macOn s m = true) ∧ (rb s (Reg.ETH_STATUS m) 0 = true)) ∧
    (∃ (s : State) (r : Fin 64) (h : Frer), (h = s.frer.get Frer.reset r) ∧ (netOn s = true) ∧ (rb s (Reg.FRER_MATCH r) 63 = true) ∧ (h.any = false) ∧ ((decide (h.last + 1000 * max 1 (rf s (Reg.FRER_CFG r) 8 16) ≤ s.time)) = true)) ∧
    (∃ (s : State) (m : Fin 12) (t : Level), (txFree s m = true) ∧ (((getMac s m).copies.any fun e => e.1.cls == t.val) = false) ∧ (frozen s .eth m 0 = false) ∧ (rb s (Reg.ETH_TXRING m t) 31 = true) ∧ ((nth (getMac s m).launch none t.val).isNone = true)) ∧
    (∃ (s : State) (m : Fin 12) (t : Level), (txFree s m = true) ∧ (((getMac s m).copies.any fun e => e.1.cls == t.val) = true)) ∧
    (∃ (s : State) (m : Fin 12) (t : Level) (e f : List Byte), (nth (getMac s m).launch none t.val = some (e, f)) ∧ (macOn s m = true) ∧ ((getMac s m).txq.all EthTx.sent = true) ∧ ((decide (sfld (BitVec.ofNat 64 (leNat ((e.drop 16).take 8))) 0 64 ≤ macT s m)) = true) ∧ (gateFits s m t (frameNs s m (f.length + (if genAsked e then 6 else 0))) = true) ∧ (shaperOk s m t = true)) ∧
    (∃ (s : State) (m : Fin 12) (q : EthTx) (rest : List EthTx), (netOn s = true) ∧ ((getMac s m).txq = q :: rest) ∧ (q.copyOf = none) ∧ (q.waits = none)) ∧
    (∃ (s : State) (m : Fin 12) (q : EthTx) (rest : List EthTx) (k : Nat), (netOn s = true) ∧ ((getMac s m).txq = q :: rest) ∧ (q.copyOf = some k)) ∧
    (∃ (s : State) (m : Fin 12) (up : Bool) (speed : BitVec 3), (netOn s = true) ∧ ((!up || speedOk m speed.toNat) = true)) ∧
    (∃ (s : State) (k : Fin 8) (f : CanFrame), (canOn s k = true) ∧ (rf s (Reg.CANF_CTL k) 3 2 ≠ 2)) ∧
    (∃ (s : State) (k : Fin 8) (f : CanFrame), (canOn s k = true) ∧ (rf s (Reg.CANF_CTL k) 3 2 ≠ 2)) ∧
    (∃ (s : State) (k : Fin 8), (canOn s k = true) ∧ (rf s (Reg.CANF_CTL k) 3 2 ≠ 1) ∧ (frozen s .canf k 0 = false)) ∧
    (∃ (s : State) (k : Fin 8), (canOn s k = true) ∧ (rf s (Reg.CANF_CTL k) 3 2 ≠ 1) ∧ (frozen s .canf k 0 = false) ∧ (ringHas s (rf s (Reg.CANF_RING k) 0 13) = true)) ∧
    (∃ (s : State) (k : Fin 8), (netOn s = true) ∧ (rb s (Reg.CANF_CTL k) 0 = true) ∧ (rf s (Reg.CANF_ERR k) 16 2 = 2) ∧ (rb s (Reg.CANF_CTL k) 5 = true)) ∧
    (∃ (s : State) (i : Initiator) (k : Fin 2) (port : Fin 4096) (data : List Byte), (Safety.Accepted s i (mvbPort k port))) ∧
    (∃ (s : State) (k : Fin 2) (x : MvbXfer), (netOn s = true) ∧ (rb s (Reg.MVB_CTL k) 0 = true)) ∧
    (∃ (s : State) (k : Fin 2) (lineB good : Bool), (netOn s = true)) ∧
    (∃ (s : State) (k : Fin 13) (rx : Option (List Byte)), (netOn s = true) ∧ (rb s (Reg.SER_CTL k) 0 = true) ∧ (k.val < 12) ∧ (serStretch s k rx = false)) ∧
    (∃ (s : State) (k : Fin 13) (rx : Option (List Byte)), (serStretch s k rx = true)) ∧
    (∃ (s : State) (pin : Fin 64) (level : Bool) (first : Word), (netOn s = true) ∧ (rb s (Reg.GPIO_PIN pin) 3 ≠ level) ∧ (first.toNat + 10 * rf s (Reg.GPIO_PIN pin) 4 10 ≤ s.time)) :=
  ⟨⟨{ base with regs := [(rkey (Reg.ETH_CTL 2), 1), (rkey (Reg.ETH_STATUS 2), 1), (rkey (Reg.ETH_TXRING 2 3), 0x80000005)] }, 2, by decide +kernel⟩,
   ⟨base, hub, 2, 5, ((fun (s : State) (i : Initiator) (m : Fin 12) (v : W32) => gclEffect (respOk s 0) m (w32 v)) (base) (hub) (2) (5)).getD base, by decide +kernel⟩,
   ⟨base, hub, 2, 5, by decide +kernel⟩,
   ⟨{ base with regs := [(rkey (Reg.ETH_CTL 2), 1), (rkey (Reg.ETH_STATUS 2), 1), (rkey (Reg.ETH_TXRING 2 3), 0x80000005)] }, 2, List.replicate 64 0, true, by decide +kernel⟩,
   ⟨{ ({ base with regs := [(rkey (Reg.FRER_MATCH 2), 0x8000000000000000), (rkey (Reg.FRER_CFG 2), 0x100)] } : State) with time := 5000000000, frer := [(2, { Frer.reset with any := false })] }, 2, { Frer.reset with any := false }, by decide +kernel⟩,
   ⟨{ base with regs := [(rkey (Reg.ETH_CTL 2), 1), (rkey (Reg.ETH_STATUS 2), 1), (rkey (Reg.ETH_TXRING 2 3), 0x80000005)] }, 2, 3, by decide +kernel⟩,
   ⟨(setMac ({ base with regs := [(rkey (Reg.ETH_CTL 2), 1), (rkey (Reg.ETH_STATUS 2), 1), (rkey (Reg.ETH_TXRING 2 3), 0x80000005)] }) 2 { Mac.reset with copies := [({ cls := 3, tag := 1, status := 0, ts := false, t := 0, at_ := 0, sent := false, waits := none, copyOf := some 4 }, List.replicate 64 0)] }), 2, 3, by decide +kernel⟩,
   ⟨(setMac ({ base with regs := [(rkey (Reg.ETH_CTL 2), 1), (rkey (Reg.ETH_STATUS 2), 1), (rkey (Reg.ETH_TXRING 2 3), 0x80000005)] }) 2 { Mac.reset with launch := listSet (Mac.reset).launch 3 (some (List.replicate 32 0, List.replicate 64 0)) }), 2, 3, List.replicate 32 0, List.replicate 64 0, by decide +kernel⟩,
   ⟨(setMac ({ base with regs := [(rkey (Reg.ETH_CTL 2), 1), (rkey (Reg.ETH_STATUS 2), 1), (rkey (Reg.ETH_TXRING 2 3), 0x80000005)] }) 2 { Mac.reset with txq := [{ cls := 3, tag := 1, status := 0, ts := false, t := 0, at_ := 0, sent := false, waits := none, copyOf := none }] }), 2, { cls := 3, tag := 1, status := 0, ts := false, t := 0, at_ := 0, sent := false, waits := none, copyOf := none }, [], by decide +kernel⟩,
   ⟨(setMac ({ base with regs := [(rkey (Reg.ETH_CTL 2), 1), (rkey (Reg.ETH_STATUS 2), 1), (rkey (Reg.ETH_TXRING 2 3), 0x80000005)] }) 2 { Mac.reset with txq := [{ cls := 3, tag := 1, status := 0, ts := false, t := 0, at_ := 0, sent := false, waits := none, copyOf := some 4 }] }), 2, { cls := 3, tag := 1, status := 0, ts := false, t := 0, at_ := 0, sent := false, waits := none, copyOf := some 4 }, [], 4, by decide +kernel⟩,
   ⟨base, 2, true, 3, by decide +kernel⟩,
   ⟨{ base with regs := [(rkey (Reg.CANF_CTL 2), 1)] }, 2, { id := 5, dlc := 0, data := [] }, by decide +kernel⟩,
   ⟨{ base with regs := [(rkey (Reg.CANF_CTL 2), 1)] }, 2, { id := 5, dlc := 0, data := [] }, by decide +kernel⟩,
   ⟨{ base with regs := [(rkey (Reg.CANF_CTL 2), 1)] }, 2, by decide +kernel⟩,
   ⟨{ ({ base with regs := [(rkey (Reg.CANF_CTL 2), 1)] } : State) with qe := { base.qe with rings := [(0, { Ring.reset with cfg := 9, count := 1 })] } }, 2, by decide +kernel⟩,
   ⟨{ base with regs := [(rkey (Reg.CANF_CTL 2), 0x21), (rkey (Reg.CANF_ERR 2), 0x20000)] }, 2, by decide +kernel⟩,
   ⟨base, hub, 1, 200, [1, 2], by decide +kernel⟩,
   ⟨{ base with regs := [(rkey (Reg.MVB_CTL 1), 1)] }, 1, .poll 3, by decide +kernel⟩,
   ⟨base, 1, true, false, by decide +kernel⟩,
   ⟨{ base with regs := [(rkey (Reg.SER_CTL 2), 1)] }, 2, some [7], by decide +kernel⟩,
   ⟨{ base with qe := { base.qe with rings := [(0, { Ring.reset with cfg := 9, count := 16 })] }, regs := [(rkey (Reg.SER_CTL 8), 0x2003)] }, 8, some [7], by decide +kernel⟩,
   ⟨base, 2, true, 0, by decide +kernel⟩⟩

/-- States and operands that meet the hypotheses of each clause of `PeriscopeLinkCommandsComplete`. -/
theorem witness_PeriscopeLinkCommandsComplete :
    (∃ (s : State) (i : Initiator) (v : W32) (w : Word), (Safety.Accepted s i Reg.PSL_CTL) ∧ (w = w32 v) ∧ ((pslCtlEffect (respOk s 0) w).2 = false)) ∧
    (∃ (s : State) (i : Initiator) (w : Word), (Safety.Accepted s i Reg.PSL_CTL) ∧ (w = BitVec.ofNat 64 (rf s Reg.PSL_CTL 0 4 + 2 ^ 4 + 2 ^ 16 * rf s Reg.PSL_CTL 16 10)) ∧ ((pslCtlEffect (respOk s 0) w).2 = false)) ∧
    (∃ (s : State) (i : Initiator) (x : Bool) (v : W32), (Safety.Accepted s i (Reg.PSLP_CTL (px x)))) ∧
    (∃ (s : State) (x : Bool) (u : State), (pslOn s = true) ∧ (ppState s x = 1) ∧ (u = setPp (ppGoto s x 2) x { getPp s x with good := s.time })) ∧
    (∃ (s : State) (x : Bool) (serial : Word) (addr : Option (BitVec 6)) (count : Option (BitVec 7)), (pslOn s = true) ∧ ((decide (2 ≤ ppState s x)) = true)) ∧
    (∃ (s : State) (x : Bool) (t1 t2 t3 t4 : Word), (pslOn s = true) ∧ ((decide (3 ≤ ppState s x)) = true)) ∧
    (∃ (s : State) (x : Bool), (ppUp s x = true)) ∧
    (∃ (s : State) (x : Bool), (pslOn s = true) ∧ ((decide (2 ≤ ppState s x)) = true) ∧ ((decide ((getPp s x).good + 10000 ≤ s.time)) = true)) ∧
    (∃ (s : State) , (pslOn s = true) ∧ (s.time % 1000 = 0)) ∧
    (∃ (s : State) (x : Bool) (f : PslFrame) (inside : Nat), (ppUp s x = true) ∧ (frameBad f = false)) ∧
    (∃ (s : State) (x : Bool) (f : PslFrame) (inside : Nat), (ppUp s x = true) ∧ (frameBad f = true)) ∧
    (∃ (s : State) (x : Bool) (idx : Fin 16) (e : Nat × Nat × Nat), (pslOn s = true) ∧ ((getPp s x).samples.get? idx.val = some e) ∧ (¬ s.time < e.1 + 2000)) ∧
    (∃ (s : State) (x : Bool) (f : PslFrame), (ppUp s x = true) ∧ ((fld f.word 0 3 == 4 || fld f.word 0 3 == 5) = true)) ∧
    (∃ (s : State) (k : Fin 8), (pslOn s = true) ∧ (pslValid s = true) ∧ (txTurn s k = true)) ∧
    (∃ (s : State) (x : Bool) (f : PslFrame), (pslOn s = true) ∧ (2 ≤ ppState s x) ∧ (frameBad f = false)) ∧
    (∃ (s : State) (x : Bool) (f : PslFrame), (pslOn s = true) ∧ (2 ≤ ppState s x) ∧ (frameBad f = true)) ∧
    (∃ (s : State) (x : Bool) (hseq : BitVec 9) (rest : List (Nat × PslFrame)), (ppUp s x = true) ∧ (rest = (if (getPp s x).replay.any fun e => e.1 == hseq.toNat then (getPp s x).replay.dropWhile fun e => e.1 != hseq.toNat else (getPp s x).replay))) ∧
    (∃ (s : State) (x : Bool) (n : Nat), (ppUp s x = true) ∧ ((getPp s x).asked = some n) ∧ (n < 8)) ∧
    (∃ (s : State) (x : Bool) (n : Nat), (ppUp s x = true) ∧ ((getPp s x).asked = some n) ∧ (¬ n < 8) ∧ ((getPp s x).failed < 3)) ∧
    (∃ (s : State) (x : Bool) (n : Nat), (ppUp s x = true) ∧ ((getPp s x).asked = some n) ∧ (¬ n < 8) ∧ (3 ≤ (getPp s x).failed)) :=
  ⟨⟨base, hub, 0x01900001, 0x01900001, by decide +kernel⟩,
   ⟨{ base with regs := [(rkey (Reg.PSL_CTL), 0x01900003)] }, hub, 0x01900013, by decide +kernel⟩,
   ⟨base, hub, true, 2, by decide +kernel⟩,
   ⟨({ base with regs := [(rkey Reg.PSL_CTL, 3), (rkey Reg.PSL_STATUS, 0x40), (rkey (Reg.PSLP_STATUS 0), 1), (rkey (Reg.PSLP_STATUS 1), 1)] }), true, (setPp (ppGoto ({ base with regs := [(rkey Reg.PSL_CTL, 3), (rkey Reg.PSL_STATUS, 0x40), (rkey (Reg.PSLP_STATUS 0), 1), (rkey (Reg.PSLP_STATUS 1), 1)] }) true 2) true { getPp ({ base with regs := [(rkey Reg.PSL_CTL, 3), (rkey Reg.PSL_STATUS, 0x40), (rkey (Reg.PSLP_STATUS 0), 1), (rkey (Reg.PSLP_STATUS 1), 1)] }) true with good := 0 }), by decide +kernel⟩,
   ⟨({ base with regs := [(rkey Reg.PSL_CTL, 3), (rkey Reg.PSL_STATUS, 0x40), (rkey (Reg.PSLP_STATUS 0), 2), (rkey (Reg.PSLP_STATUS 1), 2)] }), true, 5, some 3, none, by decide +kernel⟩,
   ⟨({ base with regs := [(rkey Reg.PSL_CTL, 3), (rkey Reg.PSL_STATUS, 0x40), (rkey (Reg.PSLP_STATUS 0), 3), (rkey (Reg.PSLP_STATUS 1), 3)] }), true, 0, 100, 150, 260, by decide +kernel⟩,
   ⟨({ base with regs := [(rkey Reg.PSL_CTL, 3), (rkey Reg.PSL_STATUS, 0x40), (rkey (Reg.PSLP_STATUS 0), 4), (rkey (Reg.PSLP_STATUS 1), 4)] }), true, by decide +kernel⟩,
   ⟨({ base with regs := [(rkey Reg.PSL_CTL, 3), (rkey Reg.PSL_STATUS, 0x40), (rkey (Reg.PSLP_STATUS 0), 4), (rkey (Reg.PSLP_STATUS 1), 4)], time := 20000 }), true, by decide +kernel⟩,
   ⟨({ base with regs := [(rkey Reg.PSL_CTL, 3), (rkey Reg.PSL_STATUS, 0x40), (rkey (Reg.PSLP_STATUS 0), 4), (rkey (Reg.PSLP_STATUS 1), 4)] }), by decide +kernel⟩,
   ⟨({ base with regs := [(rkey Reg.PSL_CTL, 3), (rkey Reg.PSL_STATUS, 0x40), (rkey (Reg.PSLP_STATUS 0), 4), (rkey (Reg.PSLP_STATUS 1), 4)] }), true, { word := (fun w : Word => setFld w 56 8 (crc8 (w.toNat % 2 ^ 56) 56 0)) (pslWord 3 5 0x7F 0 2 0), payload := List.replicate 16 0, corrected := 0, uncorr := false }, 20, by decide +kernel⟩,
   ⟨({ base with regs := [(rkey Reg.PSL_CTL, 3), (rkey Reg.PSL_STATUS, 0x40), (rkey (Reg.PSLP_STATUS 0), 4), (rkey (Reg.PSLP_STATUS 1), 4)] }), true, { word := pslWord 3 5 0x7F 0 2 0, payload := [], corrected := 0, uncorr := true }, 20, by decide +kernel⟩,
   ⟨(setPp ({ base with regs := [(rkey Reg.PSL_CTL, 3), (rkey Reg.PSL_STATUS, 0x40), (rkey (Reg.PSLP_STATUS 0), 4), (rkey (Reg.PSLP_STATUS 1), 4)], time := 5000 }) true { PslPort.reset with samples := [(3, (0, 1, 2))] }), true, 3, (0, 1, 2), by decide +kernel⟩,
   ⟨({ base with regs := [(rkey Reg.PSL_CTL, 3), (rkey Reg.PSL_STATUS, 0x40), (rkey (Reg.PSLP_STATUS 0), 4), (rkey (Reg.PSLP_STATUS 1), 4)] }), true, { word := (fun w : Word => setFld w 56 8 (crc8 (w.toNat % 2 ^ 56) 56 0)) (pslWord 4 5 0x7F 0 2 0), payload := List.replicate 16 0, corrected := 0, uncorr := false }, by decide +kernel⟩,
   ⟨({ base with regs := [(rkey (Reg.PSL_TXRING 2), 0x80000005), (rkey Reg.PSL_CTL, 3), (rkey Reg.PSL_STATUS, 0x40), (rkey (Reg.PSLP_STATUS 0), 4), (rkey (Reg.PSLP_STATUS 1), 4)], qe := { base.qe with rings := [(5, { Ring.reset with cfg := 9, count := 1 })] } }), 2, by decide +kernel⟩,
   ⟨({ base with regs := [(rkey Reg.PSL_CTL, 3), (rkey Reg.PSL_STATUS, 0x40), (rkey (Reg.PSLP_STATUS 0), 4), (rkey (Reg.PSLP_STATUS 1), 4)] }), true, { word := (fun w : Word => setFld w 56 8 (crc8 (w.toNat % 2 ^ 56) 56 0)) (pslWord 6 5 0x7F 0 2 0), payload := List.replicate 16 0, corrected := 0, uncorr := false }, by decide +kernel⟩,
   ⟨({ base with regs := [(rkey Reg.PSL_CTL, 3), (rkey Reg.PSL_STATUS, 0x40), (rkey (Reg.PSLP_STATUS 0), 4), (rkey (Reg.PSLP_STATUS 1), 4)] }), true, { word := 0, payload := [], corrected := 0, uncorr := true }, by decide +kernel⟩,
   ⟨({ base with regs := [(rkey Reg.PSL_CTL, 3), (rkey Reg.PSL_STATUS, 0x40), (rkey (Reg.PSLP_STATUS 0), 4), (rkey (Reg.PSLP_STATUS 1), 4)] }), true, 3, [], by decide +kernel⟩,
   ⟨(setPp ({ base with regs := [(rkey Reg.PSL_CTL, 3), (rkey Reg.PSL_STATUS, 0x40), (rkey (Reg.PSLP_STATUS 0), 4), (rkey (Reg.PSLP_STATUS 1), 4)] }) true { PslPort.reset with asked := some 1, failed := 0 }), true, 1, by decide +kernel⟩,
   ⟨(setPp ({ base with regs := [(rkey Reg.PSL_CTL, 3), (rkey Reg.PSL_STATUS, 0x40), (rkey (Reg.PSLP_STATUS 0), 4), (rkey (Reg.PSLP_STATUS 1), 4)] }) true { PslPort.reset with asked := some 8, failed := 1 }), true, 8, by decide +kernel⟩,
   ⟨(setPp ({ base with regs := [(rkey Reg.PSL_CTL, 3), (rkey Reg.PSL_STATUS, 0x40), (rkey (Reg.PSLP_STATUS 0), 4), (rkey (Reg.PSLP_STATUS 1), 4)] }) true { PslPort.reset with asked := some 8, failed := 3 }), true, 8, by decide +kernel⟩⟩

/-- States and operands that meet the hypotheses of each clause of `PowerAndHoldUpCommandsComplete`. -/
theorem witness_PowerAndHoldUpCommandsComplete :
    (∃ (s : State) (i : Initiator) (v : W32) (u : State), (Safety.AcceptedM0 s i (Reg.PWR_ENVELOPE)) ∧ (envelopeEffect (respOk s 0) (w32 v) = some u)) ∧
    (∃ (s : State) (i : Initiator) (v : W32) (u : State), (Safety.AcceptedM0 s i (Reg.PWR_EMISSION)) ∧ (emissionEffect (respOk s 0) (w32 v) = some u)) ∧
    (∃ (s : State) , (s.pwr.emisFrom.isSome = true)) ∧
    (∃ (s : State) (power : Nat) (t : State), (t = powerTake s power) ∧ (¬ 98 * envelopeW t * powerCnt t < 100 * powerSum t)) ∧
    (∃ (s : State) (power d : Nat) (t : State), (t = powerTake s power) ∧ (98 * envelopeW t * powerCnt t < 100 * powerSum t) ∧ (((clusters t).reverse.find? fun d => clkFloor t < clkCur t d) = some d)) ∧
    (∃ (s : State) (d : Nat), (s.pwr.powers.isEmpty = false) ∧ (100 * powerSum s ≤ 95 * envelopeW s * powerCnt s) ∧ (pfwActive s = false) ∧ (((clusters s).find? fun d => clkCur s d < clkUpper s d) = some d)) ∧
    (∃ (s : State) , (s.pwr.powers.isEmpty = false) ∧ (¬ 100 * powerSum s ≤ 95 * envelopeW s * powerCnt s) ∧ (((clusters s).all (fun d => clkCur s d ≤ clkFloor s) && envelopeW s * powerCnt s < powerSum s) = true)) ∧
    (∃ (s : State) (i : Initiator) (d : BitVec 6) (u : State), (Safety.AcceptedM0 s i (Reg.PWR_DOMCMD)) ∧ (domCmdEffect (respOk s 0) (BitVec.ofNat 64 (d.toNat + 256)) = some u)) ∧
    (∃ (s : State) (i : Initiator) (d : BitVec 6) (u : State), (Safety.AcceptedM0 s i (Reg.PWR_DOMCMD)) ∧ (domCmdEffect (respOk s 0) (BitVec.ofNat 64 (d.toNat + 512)) = some u)) ∧
    (∃ (s : State) (d : Nat) (u : State), (s.pwr.op = some (d, true)) ∧ (isCluster d = true) ∧ (u = domstat { s with pwr := { s.pwr with op := none } } d false) ∧ (domSt u d = 2)) ∧
    (∃ (s : State) (d : Nat) (u : State), (s.pwr.op = some (d, true)) ∧ (isCluster d = false) ∧ (¬ (d < 36 ∧ linkState s (d / 3) = 1)) ∧ (u = domstat { s with pwr := { s.pwr with op := none } } d false) ∧ (domSt u d = 2)) ∧
    (∃ (s : State) (d : Nat), (s.pwr.op = some (d, false)) ∧ (isCluster d = true)) ∧
    (∃ (s : State) (d : Nat) (u : State), (s.pwr.op = some (d, false)) ∧ (isCluster d = false) ∧ (d < 36) ∧ (u = setDom (homesEmpty (clusterOff (clusterOff (domstat { s with pwr := { s.pwr with op := none } } d false) (d - 2)) (d - 1)) (d / 3)) d 0)) ∧
    (∃ (s : State) (d : Nat), (s.pwr.op = some (d, false)) ∧ (isCluster d = false) ∧ (¬ d < 36)) ∧
    (∃ (s : State) (code : BitVec 12) (t : State), (t = hupTake s code) ∧ (pfwActive t = false) ∧ (t.pwr.below < 3)) ∧
    (∃ (s : State) (code : BitVec 12) (t : State), (t = hupTake s code) ∧ (pfwActive t = false) ∧ (3 ≤ t.pwr.below)) ∧
    (∃ (s : State) (code : BitVec 12) (t : State), (t = hupTake s code) ∧ (pfwActive t = true) ∧ (100 ≤ t.pwr.above)) ∧
    (∃ (s : State) (code : BitVec 12) (t : State), (t = hupTake s code) ∧ (pfwActive t = true) ∧ (t.pwr.above < 100)) :=
  ⟨⟨base, hub, 1, ((fun (s : State) (i : Initiator) (v : W32) => envelopeEffect (respOk s 0) (w32 v)) (base) (hub) (1)).getD base, by decide +kernel⟩,
   ⟨base, hub, 1, ((fun (s : State) (i : Initiator) (v : W32) => emissionEffect (respOk s 0) (w32 v)) (base) (hub) (1)).getD base, by decide +kernel⟩,
   ⟨{ base with pwr := { base.pwr with emisFrom := some 0 } }, by decide +kernel⟩,
   ⟨base, 5, (powerTake base 5), by decide +kernel⟩,
   ⟨{ base with regs := [(rkey (Reg.PWR_CLK 34), 5)] }, 4000, 34, (powerTake { base with regs := [(rkey (Reg.PWR_CLK 34), 5)] } 4000), by decide +kernel⟩,
   ⟨{ base with pwr := { base.pwr with powers := [5] } }, 0, by decide +kernel⟩,
   ⟨{ base with pwr := { base.pwr with powers := [5000] } }, by decide +kernel⟩,
   ⟨{ base with dom := List.replicate 40 3 ++ [0] }, hub, 40, ((fun (s : State) (i : Initiator) (d : BitVec 6) => domCmdEffect (respOk s 0) (BitVec.ofNat 64 (d.toNat + 256))) ({ base with dom := List.replicate 40 3 ++ [0] }) (hub) (40)).getD base, by decide +kernel⟩,
   ⟨base, hub, 40, ((fun (s : State) (i : Initiator) (d : BitVec 6) => domCmdEffect (respOk s 0) (BitVec.ofNat 64 (d.toNat + 512))) (base) (hub) (40)).getD base, by decide +kernel⟩,
   ⟨{ base with dom := List.replicate 50 2, pwr := { base.pwr with op := some (0, true) } }, 0, (domstat { ({ base with dom := List.replicate 50 2, pwr := { base.pwr with op := some (0, true) } }) with pwr := { ({ base with dom := List.replicate 50 2, pwr := { base.pwr with op := some (0, true) } }).pwr with op := none } } 0 false), by decide +kernel⟩,
   ⟨{ base with dom := List.replicate 50 2, pwr := { base.pwr with op := some (40, true) } }, 40, (domstat { ({ base with dom := List.replicate 50 2, pwr := { base.pwr with op := some (40, true) } }) with pwr := { ({ base with dom := List.replicate 50 2, pwr := { base.pwr with op := some (40, true) } }).pwr with op := none } } 40 false), by decide +kernel⟩,
   ⟨{ base with dom := List.replicate 50 3, pwr := { base.pwr with op := some (0, false) } }, 0, by decide +kernel⟩,
   ⟨{ base with dom := List.replicate 50 3, pwr := { base.pwr with op := some (2, false) } }, 2, (fun (s : State) (d : Nat) => setDom (homesEmpty (clusterOff (clusterOff (domstat { s with pwr := { s.pwr with op := none } } d false) (d - 2)) (d - 1)) (d / 3)) d 0) ({ base with dom := List.replicate 50 3, pwr := { base.pwr with op := some (2, false) } }) 2, by decide +kernel⟩,
   ⟨{ base with dom := List.replicate 50 3, pwr := { base.pwr with op := some (40, false) } }, 40, by decide +kernel⟩,
   ⟨base, 0, (hupTake base 0), by decide +kernel⟩,
   ⟨{ base with regs := [(rkey Reg.HUP_VWARN, 5)], pwr := { base.pwr with below := 2 } }, 0, (hupTake { base with regs := [(rkey Reg.HUP_VWARN, 5)], pwr := { base.pwr with below := 2 } } 0), by decide +kernel⟩,
   ⟨{ base with regs := [(rkey Reg.HUP_STATUS, 1), (rkey Reg.HUP_VWARN, 0), (rkey Reg.HUP_VHYST, 0)], pwr := { base.pwr with above := 99 } }, 0, (hupTake { base with regs := [(rkey Reg.HUP_STATUS, 1), (rkey Reg.HUP_VWARN, 0), (rkey Reg.HUP_VHYST, 0)], pwr := { base.pwr with above := 99 } } 0), by decide +kernel⟩,
   ⟨{ base with regs := [(rkey Reg.HUP_STATUS, 1)] }, 0, (hupTake { base with regs := [(rkey Reg.HUP_STATUS, 1)] } 0), by decide +kernel⟩⟩

/-- States and operands that meet the hypotheses of each clause of `JournalCommandsComplete`. -/
theorem witness_JournalCommandsComplete :
    (∃ (s : State) (l : List Byte) (t : State), (s.jrn.cpls = []) ∧ (jrnIdle s = true) ∧ (hwDeq s (rf s Reg.JRN_REQRING 0 13) = (some (l, false, t), s))) ∧
    (∃ (s : State) (r : JrnRun), (s.jrn.run = some r) ∧ (r.nvme = false) ∧ (¬ s.time < r.since + 1000 * (r.body.length / 32))) ∧
    (∃ (s : State) (r : JrnRun), (s.jrn.run = some r) ∧ (r.nvme = true) ∧ (r.last = false)) ∧
    (∃ (s : State) (r : JrnRun), (s.jrn.run = some r) ∧ (r.nvme = true) ∧ (r.last = true)) ∧
    (∃ (s : State) (r : JrnRun), (s.jrn.run = some r) ∧ (r.nvme = true)) ∧
    (∃ (s : State) (r : JrnRun), (s.jrn.run = some r) ∧ (r.nvme = true) ∧ (r.since + 10000000 ≤ s.time)) ∧
    (∃ (s : State) (b : Nat), (rb s Reg.JRN_CTL 0 = true) ∧ (rb s Reg.JRN_STATUS 1 = false) ∧ (s.jrn.erasing.isSome = false) ∧ (s.jrn.ahead < 3) ∧ (pfwActive s = false) ∧ (b = (rf s Reg.JRN_WPTR 0 32 / 65536 + s.jrn.ahead) % 512)) ∧
    (∃ (s : State) (b : Nat), (s.jrn.erasing = some b)) ∧
    (∃ (s : State) (i : Initiator) (v : W32) (u : State), (Safety.Accepted s i (Reg.JRN_CTL)) ∧ (jrnCtlEffect (respOk s 0) (w32 v) = some u)) ∧
    (∃ (s : State) , (rb s Reg.JRN_STATUS 1 = true)) :=
  ⟨⟨({ ({ d0With core3 with qe := { base.qe with rings := [(5, { Ring.reset with cfg := 9, count := 1 })], dmas := [] }, regs := ((d0With core3).regs.set (rkey (Reg.QE_QENT 0)) 100).set (rkey (Reg.QE_QBYTES 0)) 100000 }) with regs := ((d0With core3).regs.set (rkey Reg.JRN_CTL) 1).set (rkey Reg.JRN_REQRING) 5, mem := [] }), List.replicate 32 0, (setRing (({ ({ d0With core3 with qe := { base.qe with rings := [(5, { Ring.reset with cfg := 9, count := 1 })], dmas := [] }, regs := ((d0With core3).regs.set (rkey (Reg.QE_QENT 0)) 100).set (rkey (Reg.QE_QBYTES 0)) 100000 }) with regs := ((d0With core3).regs.set (rkey Reg.JRN_CTL) 1).set (rkey Reg.JRN_REQRING) 5, mem := [] })) 5 ({ Ring.reset with cfg := 9, head := 1 })), by decide +kernel⟩,
   ⟨{ base with time := 5000, jrn := { base.jrn with run := some ({ body := List.replicate 64 1, marker := List.replicate 32 2, at_ := 0, tag := 3, nvme := false, seq := 1, avail := 9, req := 4, since := 0, last := false }) } }, { body := List.replicate 64 1, marker := List.replicate 32 2, at_ := 0, tag := 3, nvme := false, seq := 1, avail := 9, req := 4, since := 0, last := false }, by decide +kernel⟩,
   ⟨{ base with time := 5000, jrn := { base.jrn with run := some ({ body := List.replicate 64 1, marker := List.replicate 32 2, at_ := 0, tag := 3, nvme := true, seq := 1, avail := 9, req := 4, since := 0, last := false }) } }, { body := List.replicate 64 1, marker := List.replicate 32 2, at_ := 0, tag := 3, nvme := true, seq := 1, avail := 9, req := 4, since := 0, last := false }, by decide +kernel⟩,
   ⟨{ base with time := 5000, jrn := { base.jrn with run := some ({ body := List.replicate 64 1, marker := List.replicate 32 2, at_ := 0, tag := 3, nvme := true, seq := 1, avail := 9, req := 4, since := 0, last := true }) } }, { body := List.replicate 64 1, marker := List.replicate 32 2, at_ := 0, tag := 3, nvme := true, seq := 1, avail := 9, req := 4, since := 0, last := true }, by decide +kernel⟩,
   ⟨{ base with time := 5000, jrn := { base.jrn with run := some ({ body := List.replicate 64 1, marker := List.replicate 32 2, at_ := 0, tag := 3, nvme := true, seq := 1, avail := 9, req := 4, since := 0, last := true }) } }, { body := List.replicate 64 1, marker := List.replicate 32 2, at_ := 0, tag := 3, nvme := true, seq := 1, avail := 9, req := 4, since := 0, last := true }, by decide +kernel⟩,
   ⟨{ base with time := 10000000, jrn := { base.jrn with run := some ({ body := List.replicate 64 1, marker := List.replicate 32 2, at_ := 0, tag := 3, nvme := true, seq := 1, avail := 9, req := 4, since := 0, last := true }) } }, { body := List.replicate 64 1, marker := List.replicate 32 2, at_ := 0, tag := 3, nvme := true, seq := 1, avail := 9, req := 4, since := 0, last := true }, by decide +kernel⟩,
   ⟨{ base with regs := [(rkey (Reg.JRN_CTL), 1)] }, 0, by decide +kernel⟩,
   ⟨{ base with jrn := { base.jrn with erasing := some 3 } }, 3, by decide +kernel⟩,
   ⟨base, hub, 0, ((fun (s : State) (i : Initiator) (v : W32) => jrnCtlEffect (respOk s 0) (w32 v)) (base) (hub) (0)).getD base, by decide +kernel⟩,
   ⟨{ base with regs := [(rkey (Reg.JRN_STATUS), 2)] }, by decide +kernel⟩⟩

/-- States and operands that meet the hypotheses of each clause of `ResetCommandsComplete`. -/
theorem witness_ResetCommandsComplete :
    (∃ (s : State) , (s.pwr.por = true)) ∧
    (∃ (s : State) , (s.pwr.por = false)) ∧
    (∃ (s : State) , (s.pwr.por = false)) ∧
    (∃ (s : State) (u : State), (s.pwr.por = false) ∧ (s.smg.rstOwed = true) ∧ (u = { s with smg := { s.smg with rstOwed := false } })) ∧
    (∃ (s : State) (i : Initiator)  (u : State), (Safety.AcceptedM0 s i (Reg.PWR_CTL)) ∧ (pwrCtlEffect (respOk s 0) (BitVec.ofNat 64 (1 + 2 ^ 8 * rf (respOk s 0) Reg.PWR_CTL 8 1)) = some u)) ∧
    (∃ (s : State) (i : Initiator) (site : BitVec 4) (u : State), (Safety.AcceptedM0 s i (Reg.PWR_CTL)) ∧ (pwrCtlEffect (respOk s 0) (BitVec.ofNat 64 (2 + 4 * site.toNat + 2 ^ 8 * rf (respOk s 0) Reg.PWR_CTL 8 1)) = some u)) ∧
    (∃ (s : State) , (s.pwr.por = false) ∧ (s.pwr.causes.isEmpty = false) ∧ (s.pwr.inReset = false) ∧ ((s.jrn.run.isSome && !s.pwr.causes.contains 3) = false)) ∧
    (∃ (s : State) , (s.pwr.por = false) ∧ (s.pwr.causes.isEmpty = false) ∧ (s.pwr.inReset = true)) ∧
    (∃ (s : State) , (s.pwr.inReset = true) ∧ (s.pwr.causes.isEmpty = true)) :=
  ⟨⟨State.reset, by decide +kernel⟩,
   ⟨base, by decide +kernel⟩,
   ⟨base, by decide +kernel⟩,
   ⟨{ base with smg := { base.smg with rstOwed := true } }, { base with smg := { base.smg with rstOwed := false } }, by decide +kernel⟩,
   ⟨base, hub, ((fun (s : State) (i : Initiator)  => pwrCtlEffect (respOk s 0) (BitVec.ofNat 64 (1 + 2 ^ 8 * rf (respOk s 0) Reg.PWR_CTL 8 1))) (base) (hub)).getD base, by decide +kernel⟩,
   ⟨base, hub, 3, ((fun (s : State) (i : Initiator) (site : BitVec 4) => pwrCtlEffect (respOk s 0) (BitVec.ofNat 64 (2 + 4 * site.toNat + 2 ^ 8 * rf (respOk s 0) Reg.PWR_CTL 8 1))) (base) (hub) (3)).getD base, by decide +kernel, getD_some _ (by decide +kernel)⟩,
   ⟨{ base with pwr := { base.pwr with causes := [1] } }, by decide +kernel⟩,
   ⟨{ base with pwr := { base.pwr with causes := [1], inReset := true } }, by decide +kernel⟩,
   ⟨{ base with pwr := { base.pwr with inReset := true } }, by decide +kernel⟩⟩

/-- States and operands that meet the hypotheses of each clause of `BootAndSecurityCommandsComplete`. -/
theorem witness_BootAndSecurityCommandsComplete :
    (∃ (s : State) (flash : Option (List Byte)) (t : State), (s.ammin.isNone = false) ∧ ((getCore s 384).running = false) ∧ (rb s Reg.BSE_STATUS 19 = false) ∧ (s.bse.waits = false) ∧ (t = romStart s) ∧ (s.life ≠ 4)) ∧
    (∃ (s : State) (flash : Option (List Byte)) (t : State), (s.ammin.isNone = false) ∧ ((getCore s 384).running = false) ∧ (rb s Reg.BSE_STATUS 19 = false) ∧ (s.bse.waits = false) ∧ (t = romStart s) ∧ (s.life = 4)) ∧
    (∃ (s : State) (i : Initiator)  (u : State), (Safety.AcceptedM0 s i (Reg.BSE_CMD)) ∧ (bseCmdEffect (respOk s 0) (BitVec.ofNat 64 1) = some u)) ∧
    (∃ (s : State) (i : Initiator)  (u : State), (Safety.AcceptedM0 s i (Reg.BSE_CMD)) ∧ (bseCmdEffect (respOk s 0) (BitVec.ofNat 64 2) = some u)) ∧
    (∃ (s : State) (i : Initiator)  (u : State), (Safety.AcceptedM0 s i (Reg.BSE_CMD)) ∧ (bseCmdEffect (respOk s 0) (BitVec.ofNat 64 3) = some u)) ∧
    (∃ (s : State) (i : Initiator)  (u : State), (Safety.AcceptedM0 s i (Reg.BSE_CMD)) ∧ (bseCmdEffect (respOk s 0) (BitVec.ofNat 64 4) = some u)) ∧
    (∃ (s : State) (i : Initiator)  (u : State), (Safety.AcceptedM0 s i (Reg.BSE_CMD)) ∧ (bseCmdEffect (respOk s 0) (BitVec.ofNat 64 5) = some u)) ∧
    (∃ (s : State) (i : Initiator)  (u : State), (Safety.AcceptedM0 s i (Reg.BSE_CMD)) ∧ (bseCmdEffect (respOk s 0) (BitVec.ofNat 64 6) = some u)) ∧
    (∃ (s : State) (i : Initiator)  (u : State), (Safety.AcceptedM0 s i (Reg.BSE_CMD)) ∧ (bseCmdEffect (respOk s 0) (BitVec.ofNat 64 7) = some u)) ∧
    (∃ (s : State) (i : Initiator)  (u : State), (Safety.AcceptedM0 s i (Reg.BSE_CMD)) ∧ (bseCmdEffect (respOk s 0) (BitVec.ofNat 64 8) = some u)) ∧
    (∃ (s : State) (i : Initiator)  (u : State), (Safety.AcceptedM0 s i (Reg.BSE_CMD)) ∧ (bseCmdEffect (respOk s 0) (BitVec.ofNat 64 9) = some u)) ∧
    (∃ (s : State) (i : Initiator)  (u : State), (Safety.AcceptedM0 s i (Reg.BSE_CMD)) ∧ (bseCmdEffect (respOk s 0) (BitVec.ofNat 64 10) = some u)) ∧
    (∃ (s : State) (i : Initiator)  (u : State), (Safety.AcceptedM0 s i (Reg.BSE_CMD)) ∧ (bseCmdEffect (respOk s 0) (BitVec.ofNat 64 11) = some u)) ∧
    (∃ (s : State) (i : Initiator) (p : Part) (u : State), (Safety.Accepted s i (Reg.BSEP_CMD p)) ∧ (bsePartEffect (respOk s 0) p (BitVec.ofNat 64 1) = some u)) ∧
    (∃ (s : State) (i : Initiator) (p : Part) (u : State), (Safety.Accepted s i (Reg.BSEP_CMD p)) ∧ (bsePartEffect (respOk s 0) p (BitVec.ofNat 64 2) = some u)) ∧
    (∃ (s : State) (i : Initiator) (p : Part) (u : State), (Safety.Accepted s i (Reg.BSEP_CMD p)) ∧ (bsePartEffect (respOk s 0) p (BitVec.ofNat 64 3) = some u)) ∧
    (∃ (s : State) (m : BseCmd) (rest : List BseCmd), (s.bse.queue = m :: rest) ∧ (m.page = 0)) ∧
    (∃ (s : State) (m : BseCmd) (rest : List BseCmd), (s.bse.queue = m :: rest) ∧ (m.page ≠ 0) ∧ (m.page ≤ 64)) ∧
    (∃ (s : State) (i : Initiator)  (u : State), (Safety.Accepted s i (Reg.BSE_RCV_CTL)) ∧ (rcvEffect (respOk s 0) i 1 = some u)) ∧
    (∃ (s : State) (i : Initiator) (count : BitVec 16) (u : State), (Safety.Accepted s i (Reg.BSE_RCV_CTL)) ∧ (rcvEffect (respOk s 0) i (BitVec.ofNat 64 (2 + 65536 * count.toNat)) = some u)) ∧
    (∃ (s : State) (i : Initiator)  (u : State), (Safety.Accepted s i (Reg.BSE_RCV_CTL)) ∧ (rcvEffect (respOk s 0) i 4 = some u)) ∧
    (∃ (s : State) (i : Initiator)  (u : State), (Safety.Accepted s i (Reg.BSE_RCV_CTL)) ∧ (rcvEffect (respOk s 0) i 8 = some u)) :=
  ⟨⟨({ base with ammin := some [], life := 2 }), none, (romStart ({ base with ammin := some [], life := 2 })), by decide +kernel, by decide +kernel, by decide +kernel, by decide +kernel, rfl, by decide +kernel⟩,
   ⟨({ base with ammin := some [], life := 4 }), none, (romStart ({ base with ammin := some [], life := 4 })), by decide +kernel, by decide +kernel, by decide +kernel, by decide +kernel, rfl, by decide +kernel⟩,
   ⟨base, hub, ((fun (s : State) (i : Initiator)  => bseCmdEffect (respOk s 0) (BitVec.ofNat 64 1)) (base) (hub)).getD base, by decide +kernel⟩,
   ⟨base, hub, ((fun (s : State) (i : Initiator)  => bseCmdEffect (respOk s 0) (BitVec.ofNat 64 2)) (base) (hub)).getD base, by decide +kernel⟩,
   ⟨base, hub, ((fun (s : State) (i : Initiator)  => bseCmdEffect (respOk s 0) (BitVec.ofNat 64 3)) (base) (hub)).getD base, by decide +kernel⟩,
   ⟨base, hub, ((fun (s : State) (i : Initiator)  => bseCmdEffect (respOk s 0) (BitVec.ofNat 64 4)) (base) (hub)).getD base, by decide +kernel⟩,
   ⟨base, hub, ((fun (s : State) (i : Initiator)  => bseCmdEffect (respOk s 0) (BitVec.ofNat 64 5)) (base) (hub)).getD base, by decide +kernel⟩,
   ⟨base, hub, ((fun (s : State) (i : Initiator)  => bseCmdEffect (respOk s 0) (BitVec.ofNat 64 6)) (base) (hub)).getD base, by decide +kernel⟩,
   ⟨base, hub, ((fun (s : State) (i : Initiator)  => bseCmdEffect (respOk s 0) (BitVec.ofNat 64 7)) (base) (hub)).getD base, by decide +kernel⟩,
   ⟨base, hub, ((fun (s : State) (i : Initiator)  => bseCmdEffect (respOk s 0) (BitVec.ofNat 64 8)) (base) (hub)).getD base, by decide +kernel⟩,
   ⟨base, hub, ((fun (s : State) (i : Initiator)  => bseCmdEffect (respOk s 0) (BitVec.ofNat 64 9)) (base) (hub)).getD base, by decide +kernel⟩,
   ⟨base, hub, ((fun (s : State) (i : Initiator)  => bseCmdEffect (respOk s 0) (BitVec.ofNat 64 10)) (base) (hub)).getD base, by decide +kernel⟩,
   ⟨base, hub, ((fun (s : State) (i : Initiator)  => bseCmdEffect (respOk s 0) (BitVec.ofNat 64 11)) (base) (hub)).getD base, by decide +kernel⟩,
   ⟨base, hub, 0, ((fun (s : State) (i : Initiator) (p : Part) => bsePartEffect (respOk s 0) p (BitVec.ofNat 64 1)) (base) (hub) (0)).getD base, by decide +kernel⟩,
   ⟨base, hub, 0, ((fun (s : State) (i : Initiator) (p : Part) => bsePartEffect (respOk s 0) p (BitVec.ofNat 64 2)) (base) (hub) (0)).getD base, by decide +kernel⟩,
   ⟨base, hub, 0, ((fun (s : State) (i : Initiator) (p : Part) => bsePartEffect (respOk s 0) p (BitVec.ofNat 64 3)) (base) (hub) (0)).getD base, by decide +kernel⟩,
   ⟨{ base with bse := { base.bse with queue := [{ page := 0, op := 3, src := 0, arg := 0, hash := 0, cores := [], snap := [] }] } }, { page := 0, op := 3, src := 0, arg := 0, hash := 0, cores := [], snap := [] }, [], by decide +kernel⟩,
   ⟨{ base with bse := { base.bse with queue := [{ page := 1, op := 3, src := 0, arg := 0, hash := 0, cores := [], snap := [] }] } }, { page := 1, op := 3, src := 0, arg := 0, hash := 0, cores := [], snap := [] }, [], by decide +kernel⟩,
   ⟨{ base with bse := { base.bse with waits := true }, regs := [(rkey Reg.BSE_RCV_CTL, 0)] }, (.host .hpa 0), ((fun (s : State) (i : Initiator)  => rcvEffect (respOk s 0) i 1) ({ base with bse := { base.bse with waits := true }, regs := [(rkey Reg.BSE_RCV_CTL, 0)] }) ((.host .hpa 0))).getD base, by decide +kernel⟩,
   ⟨{ base with bse := { base.bse with waits := true }, regs := [(rkey Reg.BSE_RCV_CTL, 16)] }, (.host .hpa 0), 0, ((fun (s : State) (i : Initiator) (count : BitVec 16) => rcvEffect (respOk s 0) i (BitVec.ofNat 64 (2 + 65536 * count.toNat))) ({ base with bse := { base.bse with waits := true }, regs := [(rkey Reg.BSE_RCV_CTL, 16)] }) ((.host .hpa 0)) (0)).getD base, by decide +kernel⟩,
   ⟨{ base with bse := { base.bse with waits := true }, regs := [(rkey Reg.BSE_RCV_CTL, 16)] }, (.host .hpa 0), ((fun (s : State) (i : Initiator)  => rcvEffect (respOk s 0) i 4) ({ base with bse := { base.bse with waits := true }, regs := [(rkey Reg.BSE_RCV_CTL, 16)] }) ((.host .hpa 0))).getD base, by decide +kernel⟩,
   ⟨{ base with bse := { base.bse with waits := true }, regs := [(rkey Reg.BSE_RCV_CTL, 16)] }, (.host .hpa 0), ((fun (s : State) (i : Initiator)  => rcvEffect (respOk s 0) i 8) ({ base with bse := { base.bse with waits := true }, regs := [(rkey Reg.BSE_RCV_CTL, 16)] }) ((.host .hpa 0))).getD base, by decide +kernel⟩⟩

/-- States and operands that meet the hypotheses of each clause of `DebugCommandsComplete`. -/
theorem witness_DebugCommandsComplete :
    (∃ (s : State) (codes : List Byte) (l : List (Nat × Nat)) (t : Tbl Nat), (l = (chainSites s).zip (codes.map BitVec.toNat)) ∧ (bscanOk s = true) ∧ (t = l.foldl (fun (t : Tbl Nat) e => t.set e.1 (irOf e.1 e.2)) s.dbg.irs)) ∧
    (∃ (s : State) (codes : List Byte) (l : List (Nat × Nat)) (t : Tbl Nat), (l = (chainSites s).zip (codes.map BitVec.toNat)) ∧ (bscanOk s = false) ∧ (t = l.foldl (fun (t : Tbl Nat) e => t.set e.1 (if irDrives (irOf e.1 e.2) then 0xFF else irOf e.1 e.2)) s.dbg.irs) ∧ ((l.any fun e => irDrives (irOf e.1 e.2)) = false)) ∧
    (∃ (s : State) (cells : List Bool), ((scanLoads s cells 0x00).isEmpty = false) ∧ (bscanOk s = true)) ∧
    (∃ (s : State) (cells : List Bool), ((scanLoads s cells 0x00).isEmpty = true)) ∧
    (∃ (s : State) (v : BitVec 80) (t : State), ((v.toNat % 2 == 1) = true) ∧ (scanWrite s (v.toNat / 2 % 2 ^ 11) (v.toNat / 2 ^ 16) = some t)) ∧
    (∃ (s : State) (v : BitVec 80) (t : State) (w : Word), ((v.toNat % 2 == 1) = false) ∧ (scanRead s (v.toNat / 2 % 2 ^ 11) = some (t, w))) ∧
    (∃ (s : State) (v : Word) (t : State), (scanWrite s 0x001 v.toNat = some t)) ∧
    (∃ (s : State)  (t : State), (scanWrite s 0x051 1 = some t)) ∧
    (∃ (s : State)  (t : State), (scanWrite s 0x051 2 = some t)) ∧
    (∃ (s : State)  (t : State), (scanWrite s 0x051 3 = some t)) ∧
    (∃ (s : State) (v : Word) (t : State), (scanWrite s 0x053 v.toNat = some t)) ∧
    (∃ (s : State) (t : State) (w : Word), (scanRead s 0x054 = some (t, w))) ∧
    (∃ (s : State) (t : State) (w : Word), (scanRead s 0x061 = some (t, w))) ∧
    (∃ (s : State) (m : BseCmd) (rest : List BseCmd) (u : State), (s.bse.queue = m :: rest) ∧ (64 < m.page) ∧ (u = { s with dbg := { s.dbg with auth := 3, result := authResult s m } })) ∧
    (∃ (s : State) (m : BseCmd) (rest : List BseCmd) (u : State), (s.bse.queue = m :: rest) ∧ (64 < m.page) ∧ (u = { s with dbg := { s.dbg with auth := 3, result := authResult s m } }) ∧ (authResult s m ≠ 0)) ∧
    (∃ (s : State) (i : Initiator) (v : W32), (Safety.AcceptedM0 s i (Reg.DBG_REVOKE))) ∧
    (∃ (s : State) (i : Initiator) (c : CoreId), (Safety.Accepted s i (Reg.CDBG_MBXIN c))) ∧
    (∃ (s : State) (i : Initiator) (c : CoreId) (v : Word) (u : State), (Safety.Accepted s i (Reg.CDBG_MBXOUT c) ∧ isM s i = true) ∧ (mbxoutEffect (respOk s 0) c v = some u)) ∧
    (∃ (s : State) (c : CoreId), (dbgCanEnter s c = true)) ∧
    (∃ (s : State) (p : Part) (u v : State), (¬ (rf s (Reg.DBGP_WDPERIOD p) 0 32 = 0 ∨ rf s (Reg.DBGP_WDLEFT p) 0 32 ≠ 0 ∨ frozen s .dbg 0 (p + 1))) ∧ (u = wb s (Reg.DBGP_WDSTAT p) 0 true) ∧ (v = (if rb u (Reg.DBGP_WDSRC p) 15 then raiseSw u (rf u (Reg.DBGP_WDSRC p) 0 10) true true else u))) ∧
    (∃ (s : State) (i : Initiator) (p : Part), (Safety.Accepted s i (Reg.DBGP_WDSVC p) ∧ mayServe s i p = true)) ∧
    (∃ (s : State) (i : Initiator) (v : W32), (Safety.AcceptedM0 s i (Reg.DBG_GFREEZE))) ∧
    (∃ (s : State) (i : Initiator) (v : Word), (Safety.AcceptedM0 s i (Reg.DBG_SNAPTIME))) ∧
    (∃ (s : State) (at_ : Nat) (t u : State), (s.dbg.armed = some at_) ∧ (at_ ≤ s.time) ∧ (t = ((upto 388).filter fun c => blockPresent s .core c && !siteAbsent s (coreSite c)).foldl snapCore s) ∧ (u = wr t Reg.DBG_SNAPSEQ (BitVec.ofNat 64 ((rf t Reg.DBG_SNAPSEQ 0 32 + 1) % 2 ^ 32)))) ∧
    (∃ (s : State) (c : CoreId) (k : Level), ((cntLive s c && bit (rd s (Reg.CNT_CFG c k)) 31 && (rd s (Reg.CNT_CNT c k)).toNat == 2 ^ 48 - 1 && !(k.val % 2 == 1 && bit (rd s (Reg.CNT_CFG c k)) 27)) = true)) ∧
    (∃ (s : State) (i : Initiator) (p : Part) (v : Word), (Safety.Accepted s i (Reg.DBGP_VADDR p))) :=
  ⟨⟨{ base with regs := [(rkey (Reg.DBG_CTL), 1)] }, [2], [(12, 2)], [(12, 2)], by decide +kernel⟩,
   ⟨base, [1], [(12, 1)], [(12, 1)], by decide +kernel⟩,
   ⟨{ ({ base with regs := [(rkey (Reg.DBG_CTL), 1)] } : State) with dbg := { base.dbg with irs := [(12, 0)] } }, [true], by decide +kernel⟩,
   ⟨{ base with dbg := { base.dbg with irs := [(12, 1)] } }, [true], by decide +kernel⟩,
   ⟨base, 0x500A1, ((fun (s : State) (v : BitVec 80) => scanWrite s (v.toNat / 2 % 2 ^ 11) (v.toNat / 2 ^ 16)) (base) (0x500A1)).getD base, by decide +kernel, getD_some _ (by decide +kernel)⟩,
   ⟨base, 0, base, sstatus base, by decide +kernel, rfl⟩,
   ⟨base, 0x10001, ((fun (s : State) (v : Word) => scanWrite s 0x001 v.toNat) (base) (0x10001)).getD base, getD_some _ (by decide +kernel)⟩,
   ⟨{ cb with dbg := { base.dbg with coreSel := 3, grants := [(16, 2)] } }, ((fun (s : State)  => scanWrite s 0x051 1) ({ cb with dbg := { base.dbg with coreSel := 3, grants := [(16, 2)] } })).getD base, getD_some _ (by decide +kernel)⟩,
   ⟨{ cb with dbg := { base.dbg with coreSel := 3, grants := [(16, 2)] } }, ((fun (s : State)  => scanWrite s 0x051 2) ({ cb with dbg := { base.dbg with coreSel := 3, grants := [(16, 2)] } })).getD base, getD_some _ (by decide +kernel)⟩,
   ⟨{ cb with dbg := { base.dbg with coreSel := 3, grants := [(16, 2)] } }, ((fun (s : State)  => scanWrite s 0x051 3) ({ cb with dbg := { base.dbg with coreSel := 3, grants := [(16, 2)] } })).getD base, getD_some _ (by decide +kernel)⟩,
   ⟨{ cb with dbg := { base.dbg with coreSel := 3, grants := [(16, 2)] } }, 5, ((fun (s : State) (v : Word) => scanWrite s 0x053 v.toNat) ({ cb with dbg := { base.dbg with coreSel := 3, grants := [(16, 2)] } }) (5)).getD base, getD_some _ (by decide +kernel)⟩,
   ⟨{ cb with dbg := { base.dbg with coreSel := 3, grants := [(16, 2)] } }, ((scanRead { cb with dbg := { base.dbg with coreSel := 3, grants := [(16, 2)] } } 0x054).getD (base, 0)).1, ((scanRead { cb with dbg := { base.dbg with coreSel := 3, grants := [(16, 2)] } } 0x054).getD (base, 0)).2, getD_pair _ (by decide +kernel)⟩,
   ⟨{ base with dbg := { base.dbg with grants := [(12, 2)] } }, ((scanRead { base with dbg := { base.dbg with grants := [(12, 2)] } } 0x061).getD (base, 0)).1, ((scanRead { base with dbg := { base.dbg with grants := [(12, 2)] } } 0x061).getD (base, 0)).2, getD_pair _ (by decide +kernel)⟩,
   ⟨({ base with bse := { base.bse with queue := [{ page := 100, op := 1, src := 1, arg := 1, hash := 1, cores := [], snap := [] }] } }), { page := 100, op := 1, src := 1, arg := 1, hash := 1, cores := [], snap := [] }, [], { ({ base with bse := { base.bse with queue := [{ page := 100, op := 1, src := 1, arg := 1, hash := 1, cores := [], snap := [] }] } }) with dbg := { base.dbg with auth := 3, result := authResult ({ base with bse := { base.bse with queue := [{ page := 100, op := 1, src := 1, arg := 1, hash := 1, cores := [], snap := [] }] } }) ({ page := 100, op := 1, src := 1, arg := 1, hash := 1, cores := [], snap := [] }) } }, by decide +kernel⟩,
   ⟨({ base with bse := { base.bse with queue := [{ page := 100, op := 1, src := 1, arg := 1, hash := 1, cores := [], snap := [] }] } }), { page := 100, op := 1, src := 1, arg := 1, hash := 1, cores := [], snap := [] }, [], { ({ base with bse := { base.bse with queue := [{ page := 100, op := 1, src := 1, arg := 1, hash := 1, cores := [], snap := [] }] } }) with dbg := { base.dbg with auth := 3, result := authResult ({ base with bse := { base.bse with queue := [{ page := 100, op := 1, src := 1, arg := 1, hash := 1, cores := [], snap := [] }] } }) ({ page := 100, op := 1, src := 1, arg := 1, hash := 1, cores := [], snap := [] }) } }, by decide +kernel⟩,
   ⟨base, hub, 0x80000001, by decide +kernel⟩,
   ⟨base, hub, 3, by decide +kernel⟩,
   ⟨base, hub, 3, 5, ((fun (s : State) (i : Initiator) (c : CoreId) (v : Word) => mbxoutEffect (respOk s 0) c v) (base) (hub) (3) (5)).getD base, by decide +kernel⟩,
   ⟨(cbWith (({ core3 with dbgPend := 1 } : CoreSt).setBank 6 { core3.bank 6 with st := .parked })), 3, by decide +kernel⟩,
   ⟨{ base with regs := [(rkey (Reg.DBGP_WDPERIOD 3), 9), (rkey (Reg.DBGP_WDLEFT 3), 0)] }, 3, (wb { base with regs := [(rkey (Reg.DBGP_WDPERIOD 3), 9), (rkey (Reg.DBGP_WDLEFT 3), 0)] } (Reg.DBGP_WDSTAT 3) 0 true), (wb { base with regs := [(rkey (Reg.DBGP_WDPERIOD 3), 9), (rkey (Reg.DBGP_WDLEFT 3), 0)] } (Reg.DBGP_WDSTAT 3) 0 true), by decide +kernel⟩,
   ⟨base, hub, 0, by decide +kernel⟩,
   ⟨base, hub, 1, by decide +kernel⟩,
   ⟨base, hub, 100, by decide +kernel⟩,
   ⟨({ base with dbg := { base.dbg with armed := some 0 } }), 0, (((upto 388).filter fun c => blockPresent ({ base with dbg := { base.dbg with armed := some 0 } }) .core c && !siteAbsent ({ base with dbg := { base.dbg with armed := some 0 } }) (coreSite c)).foldl snapCore ({ base with dbg := { base.dbg with armed := some 0 } })), (wr (((upto 388).filter fun c => blockPresent ({ base with dbg := { base.dbg with armed := some 0 } }) .core c && !siteAbsent ({ base with dbg := { base.dbg with armed := some 0 } }) (coreSite c)).foldl snapCore ({ base with dbg := { base.dbg with armed := some 0 } })) Reg.DBG_SNAPSEQ (BitVec.ofNat 64 ((rf (((upto 388).filter fun c => blockPresent ({ base with dbg := { base.dbg with armed := some 0 } }) .core c && !siteAbsent ({ base with dbg := { base.dbg with armed := some 0 } }) (coreSite c)).foldl snapCore ({ base with dbg := { base.dbg with armed := some 0 } })) Reg.DBG_SNAPSEQ 0 32 + 1) % 2 ^ 32))), rfl, by decide +kernel, rfl, rfl⟩,
   ⟨{ cb with regs := cb.regs.set (rkey (Reg.CNT_CFG 3 2)) 0x80000000 |>.set (rkey (Reg.CNT_CNT 3 2)) 0xFFFFFFFFFFFF }, 3, 2, by decide +kernel⟩,
   ⟨base, hub, 0, 0, by decide +kernel⟩⟩

/-- States and operands that meet the hypotheses of each clause of `LensCommandsComplete`. -/
theorem witness_LensCommandsComplete :
    (∃ (s : State) (i : Initiator) (p : Part) (v : W32) (u : State), (Safety.Accepted s i (Reg.LNSP_CTL p)) ∧ (lnsCtlEffect (respOk s 0) p (w32 v) = some u)) ∧
    (∃ (s : State) (c : CoreId) (p : Nat), (lensOf s c = some p) ∧ ((lensOn s p c && lensPasses s p c) = true)) ∧
    (∃ (s : State) (c : CoreId) (ty : BitVec 4) (h : Byte) (l : List Byte) (p cls : Nat), (lensOf s c = some p) ∧ (lensClass ty.toNat = some cls) ∧ ((h.toNat / 16 = ty.toNat && lensOn s p c && mayEmit s p c ty (h :: l)) = true)) ∧
    (∃ (s : State) (p : Part) (cls c : Nat) (l : List Byte) (rest : List (Nat × Nat × List Byte)), ((getLens s p).staging = (cls, c, l) :: rest)) ∧
    (∃ (s : State) (i : Initiator) (p : Part), (Safety.Accepted s i (Reg.LNSP_RDDATA p))) ∧
    (∃ (s : State) (p : Part) (k : Fin 4) (c : CoreId), (trigReady s p k c = true)) ∧
    (∃ (s : State) (p : Part) (t0 : Nat) (ph : Word) (rev : Bool), ((getLens s p).post = some (t0, ph, rev)) ∧ (postDone s p t0 ph rev = true)) :=
  ⟨⟨base, hub, 0, 0, ((fun (s : State) (i : Initiator) (p : Part) (v : W32) => lnsCtlEffect (respOk s 0) p (w32 v)) (base) (hub) (0) (0)).getD base, by decide +kernel⟩,
   ⟨{ base with regs := [(rkey (Reg.LNSP_CTL 0), 1), (rkey (Reg.LNSP_CORES 0 12), 1), (rkey (Reg.LNSP_PRIV 0), 15), (rkey (Reg.LNSP_TRIG 0 2), 1)] }, 384, 0, by decide +kernel⟩,
   ⟨{ base with regs := [(rkey (Reg.LNSP_CTL 0), 1), (rkey (Reg.LNSP_CORES 0 12), 1), (rkey (Reg.LNSP_PRIV 0), 15), (rkey (Reg.LNSP_TRIG 0 2), 1)] }, 384, 8, 0x80, [], 0, 0, by decide +kernel⟩,
   ⟨{ base with lens := [(1, { Lens.reset with staging := [(0, 3, [0x80])] })] }, 1, 0, 3, [0x80], [], by decide +kernel⟩,
   ⟨base, hub, 3, by decide +kernel⟩,
   ⟨{ base with regs := [(rkey (Reg.LNSP_CTL 0), 1), (rkey (Reg.LNSP_CORES 0 12), 1), (rkey (Reg.LNSP_PRIV 0), 15), (rkey (Reg.LNSP_TRIG 0 2), 1)] }, 0, 2, 384, by decide +kernel⟩,
   ⟨{ base with lens := [(1, { Lens.reset with post := some (0, 0, false) })] }, 1, 0, 0, false, by decide +kernel⟩⟩

/-- States and operands that meet the hypotheses of each clause of `HardwareSemaphoresAreExclusive`. -/
theorem witness_HardwareSemaphoresAreExclusive :
    (∃ (s : State) (port q : Port) (f : Fin 33) (k : Fin 256), (cutOff s (.host q f) (portBlock port) 0 = false) ∧ ((initPart s (.host q f) = 0 ∨ initPart s (.host q f) = semOwner s k)) ∧ (rf s (Reg.HPAS_HSEM k) 0 2 = 0)) ∧
    (∃ (s : State) (port q : Port) (f : Fin 33) (k : Fin 256), (cutOff s (.host q f) (portBlock port) 0 = false) ∧ ((initPart s (.host q f) = 0 ∨ initPart s (.host q f) = semOwner s k)) ∧ (rf s (Reg.HPAS_HSEM k) 0 2 = portNum q + 1)) ∧
    (∃ (s : State) (port q : Port) (f : Fin 33) (k : Fin 256), (cutOff s (.host q f) (portBlock port) 0 = false) ∧ ((initPart s (.host q f) = 0 ∨ initPart s (.host q f) = semOwner s k)) ∧ (rf s (Reg.HPAS_HSEM k) 0 2 ≠ 0) ∧ (rf s (Reg.HPAS_HSEM k) 0 2 ≠ portNum q + 1)) ∧
    (∃ (s : State) (port q : Port) (f : Fin 33) (k : Fin 256) (both : Bool), (cutOff s (.host q f) (portBlock port) 0 = false) ∧ (initPart s (.host q f) ≠ 0) ∧ (initPart s (.host q f) ≠ semOwner s k)) ∧
    (∃ (s : State) (port q : Port) (f : Fin 33) (k : Fin 256), (cutOff s (.host q f) (portBlock port) 0 = false) ∧ (rf s (Reg.HPAS_HSEM k) 0 2 = portNum q + 1) ∧ (ready s (portBlock port) 0 = true)) ∧
    (∃ (s : State) (port q : Port) (f : Fin 33) (k : Fin 256), (cutOff s (.host q f) (portBlock port) 0 = false) ∧ (rf s (Reg.HPAS_HSEM k) 0 2 ≠ 0) ∧ (rf s (Reg.HPAS_HSEM k) 0 2 ≠ portNum q + 1) ∧ (ready s (portBlock port) 0 = true)) ∧
    (∃ (s : State) (port q : Port) (f : Fin 33) (k : Fin 256) (v : W32), (cutOff s (.host q f) (portBlock port) 0 = false) ∧ (v ≠ 0) ∧ (ready s (portBlock port) 0 = true)) ∧
    (∃ (s : State) (i : Initiator) (port : Port) (k : Fin 256) (both : Bool), (cutOff s i (portBlock port) 0 = false) ∧ (semCode i = none)) ∧
    (∃ (s : State) (i : Initiator) (port : Port) (k : Fin 256), (cutOff s i (portBlock port) 0 = false) ∧ (semCode i = none) ∧ (isM0 s i = true) ∧ (ready s (portBlock port) 0 = true)) ∧
    (∃ (s : State) (i : Initiator) (port : Port) (k : Fin 256) (v : W32), (cutOff s i (portBlock port) 0 = false) ∧ (semCode i = none) ∧ (isM0 s i = false ∨ v ≠ 0) ∧ (ready s (portBlock port) 0 = true)) ∧
    (∃ (s : State) (i : Initiator) (port : Port) (k : Fin 256) (v : W32), (cutOff s i (portBlock port) 0 = false) ∧ (ready s (portBlock port) 0 = false)) ∧
    (∃ (s : State) (p : Part) (port : Port) (k : Fin 256), (cutOff s (viewIni p) (portBlock port) 0 = false)) :=
  ⟨⟨base, .hpa, .hpb, 0, 7, by decide +kernel⟩,
   ⟨{ base with regs := [(rkey (Reg.HPAS_HSEM 7), 2)] }, .hpa, .hpb, 0, 7, by decide +kernel⟩,
   ⟨{ base with regs := [(rkey (Reg.HPAS_HSEM 7), 1)] }, .hpa, .hpb, 0, 7, by decide +kernel⟩,
   ⟨{ base with regs := [(rkey (fmapReg .hpb 0), 5)] }, .hpa, .hpb, 0, 7, false, by decide +kernel⟩,
   ⟨{ base with regs := [(rkey (Reg.HPAS_HSEM 7), 2)] }, .hpa, .hpb, 0, 7, by decide +kernel⟩,
   ⟨{ base with regs := [(rkey (Reg.HPAS_HSEM 7), 1)] }, .hpa, .hpb, 0, 7, by decide +kernel⟩,
   ⟨{ base with regs := [(rkey (Reg.HPAS_HSEM 7), 2)] }, .hpa, .hpb, 0, 7, 5, by decide +kernel⟩,
   ⟨base, hub, .hpa, 7, true, by decide +kernel⟩,
   ⟨{ base with regs := [(rkey (Reg.HPAS_HSEM 7), 2)] }, hub, .hpa, 7, by decide +kernel⟩,
   ⟨base, hub, .hpa, 7, 5, by decide +kernel⟩,
   ⟨{ base with pwr := Pwr.reset }, hub, .hpa, 7, 0, by decide +kernel⟩,
   ⟨{ base with regs := [(rkey (Reg.HPAS_HSEM 7), 2)] }, 3, .hpa, 7, by decide +kernel⟩⟩

/-- States and operands that meet the hypotheses of each clause of `FalseGuardOnlyRetires`. -/
theorem witness_FalseGuardOnlyRetires :
    (∃ (s : State) (c : CoreId) (g : Guard), (Safety.CoreSkips s c g)) ∧
    (∃ (s : State) (c : CoreId) (g : Guard) (fn : BitVec 7) (rd ra rb : R5), (Safety.CoreSkips s c g) ∧ ((aluLegal fn rb) = true)) ∧
    (∃ (s : State) (c : CoreId) (g : Guard) (rd ra : R5) (imm : BitVec 12), (Safety.CoreSkips s c g)) ∧
    (∃ (s : State) (c : CoreId) (g : Guard) (rd ra : R5) (imm : BitVec 12), (Safety.CoreSkips s c g)) ∧
    (∃ (s : State) (c : CoreId) (g : Guard) (rd ra : R5) (imm : BitVec 12), (Safety.CoreSkips s c g)) ∧
    (∃ (s : State) (c : CoreId) (g : Guard) (rd ra : R5) (imm : BitVec 12), (Safety.CoreSkips s c g)) ∧
    (∃ (s : State) (c : CoreId) (g : Guard) (rd ra : R5) (imm : BitVec 12), (Safety.CoreSkips s c g) ∧ ((shiLegal imm) = true)) ∧
    (∃ (s : State) (c : CoreId) (g : Guard) (pd pn : BitVec 3) (ra rb : R5) (cond : BitVec 4) (imm w : Bool), (Safety.CoreSkips s c g) ∧ ((cmpLegal pd pn cond) = true)) ∧
    (∃ (s : State) (c : CoreId) (g : Guard) (pd pa pb fn : BitVec 3), (Safety.CoreSkips s c g) ∧ ((fn.toNat < 4 || (fn == 4 && pb == 0)) = true)) ∧
    (∃ (s : State) (c : CoreId) (g : Guard) (neg : Bool) (ps : BitVec 3) (rd ra rb : R5), (Safety.CoreSkips s c g)) ∧
    (∃ (s : State) (c : CoreId) (g : Guard) (neg : Bool) (ps : BitVec 3) (rd ra : R5), (Safety.CoreSkips s c g)) ∧
    (∃ (s : State) (c : CoreId) (g : Guard) (fn : BitVec 7) (rd ra rb : R5), (Safety.CoreSkips s c g) ∧ ((decide (fn.toNat ≤ 4)) = true)) ∧
    (∃ (s : State) (c : CoreId) (g : Guard) (fn : BitVec 7) (rd ra rb : R5), (Safety.CoreSkips s c g) ∧ ((decide (fn.toNat % 64 < 4)) = true)) ∧
    (∃ (s : State) (c : CoreId) (g : Guard) (fn : BitVec 7) (rd ra rb : R5), (Safety.CoreSkips s c g) ∧ ((decide (fn.toNat ≤ 9)) = true)) ∧
    (∃ (s : State) (c : CoreId) (g : Guard) (ac : BitVec 2) (sub clr int : Bool) (ra rb : R5) (form : BitVec 2) (uns : Bool), (Safety.CoreSkips s c g) ∧ ((form != 3 && (int || !uns)) = true)) ∧
    (∃ (s : State) (c : CoreId) (g : Guard) (rd : R5) (ac : BitVec 2), (Safety.CoreSkips s c g)) ∧
    (∃ (s : State) (c : CoreId) (g : Guard) (rd : R5) (ac : BitVec 2), (Safety.CoreSkips s c g)) ∧
    (∃ (s : State) (c : CoreId) (g : Guard) (rd : R5) (ac : BitVec 2), (Safety.CoreSkips s c g)) ∧
    (∃ (s : State) (c : CoreId) (g : Guard) (rd : R5) (ac : BitVec 2), (Safety.CoreSkips s c g)) ∧
    (∃ (s : State) (c : CoreId) (g : Guard) (rd : R5) (ac : BitVec 2), (Safety.CoreSkips s c g)) ∧
    (∃ (s : State) (c : CoreId) (g : Guard) (ra : R5) (ac : BitVec 2), (Safety.CoreSkips s c g)) ∧
    (∃ (s : State) (c : CoreId) (g : Guard) (ra : R5) (ac : BitVec 2), (Safety.CoreSkips s c g)) ∧
    (∃ (s : State) (c : CoreId) (g : Guard) (ac : BitVec 2) (rb : R5), (Safety.CoreSkips s c g)) ∧
    (∃ (s : State) (c : CoreId) (g : Guard) (ac : BitVec 2) (rb : R5), (Safety.CoreSkips s c g) ∧ ((decide (rb.toNat < 4)) = true)) ∧
    (∃ (s : State) (c : CoreId) (g : Guard) (ac : BitVec 2), (Safety.CoreSkips s c g)) ∧
    (∃ (s : State) (c : CoreId) (g : Guard) (ac xg yg : BitVec 2) (xpm ypm : Bool) (form : BitVec 2) (sub int clr uns : Bool), (Safety.CoreSkips s c g) ∧ ((int || !uns) = true)) ∧
    (∃ (s : State) (c : CoreId) (g : Guard) (size : BitVec 2) (uns : Bool) (rd ra : R5) (off : BitVec 12), (Safety.CoreSkips s c g) ∧ ((!(uns && size == 3)) = true)) ∧
    (∃ (s : State) (c : CoreId) (g : Guard) (size : BitVec 2) (rs ra : R5) (off : BitVec 12), (Safety.CoreSkips s c g)) ∧
    (∃ (s : State) (c : CoreId) (g : Guard) (fn : BitVec 7) (rd ra rb : R5), (Safety.CoreSkips s c g) ∧ ((!fn.toNat.testBit 0 && (!fn.toNat.testBit 3 || (!fn.toNat.testBit 6 && fn.toNat / 16 % 4 != 3))) = true)) ∧
    (∃ (s : State) (c : CoreId) (g : Guard) (rd : R5) (y : Bool) (gen : BitVec 2) (pm st : Bool) (size : BitVec 2) (uns : Bool), (Safety.CoreSkips s c g) ∧ ((!uns || (!st && size != 3)) = true)) ∧
    (∃ (s : State) (c : CoreId) (g : Guard) (rd ra rk : R5) (off : BitVec 6), (Safety.CoreSkips s c g) ∧ ((rd != rk) = true)) ∧
    (∃ (s : State) (c : CoreId) (g : Guard) (rs ra rk : R5) (off : BitVec 6), (Safety.CoreSkips s c g)) ∧
    (∃ (s : State) (c : CoreId) (g : Guard) (rd ra : R5) (d : Bool), (Safety.CoreSkips s c g)) ∧
    (∃ (s : State) (c : CoreId) (g : Guard) (rd ra rs : R5) (d : Bool), (Safety.CoreSkips s c g) ∧ ((rd != rs) = true)) ∧
    (∃ (s : State) (c : CoreId) (g : Guard), (Safety.CoreSkips s c g)) ∧
    (∃ (s : State) (c : CoreId) (g : Guard), (Safety.CoreSkips s c g)) ∧
    (∃ (s : State) (c : CoreId) (g : Guard), (Safety.CoreSkips s c g)) ∧
    (∃ (s : State) (c : CoreId) (g : Guard), (Safety.CoreSkips s c g)) ∧
    (∃ (s : State) (c : CoreId) (g : Guard) (lv i : Bool) (cnt : BitVec 10) (cr : R5) (endOff : BitVec 10), (Safety.CoreSkips s c g)) ∧
    (∃ (s : State) (c : CoreId) (g : Guard) (rd : R5) (sr : BitVec 6), (Safety.CoreSkips s c g) ∧ ((srListed sr.toNat) = true)) ∧
    (∃ (s : State) (c : CoreId) (g : Guard) (ra : R5) (sr : BitVec 6), (Safety.CoreSkips s c g) ∧ ((srWritable sr.toNat) = true)) ∧
    (∃ (s : State) (c : CoreId) (g : Guard), (Safety.CoreSkips s c g)) ∧
    (∃ (s : State) (c : CoreId) (g : Guard), (Safety.CoreSkips s c g)) ∧
    (∃ (s : State) (c : CoreId) (g : Guard) (arg : BitVec 10), (Safety.CoreSkips s c g)) ∧
    (∃ (s : State) (c : CoreId) (g : Guard) (arg : BitVec 10), (Safety.CoreSkips s c g)) ∧
    (∃ (s : State) (c : CoreId) (g : Guard) (fn : BitVec 7) (fd fa fb : R5), (Safety.CoreSkips s c g) ∧ ((decide (fn.toNat % 64 ≤ 9)) = true)) ∧
    (∃ (s : State) (c : CoreId) (g : Guard) (dbl : Bool) (fd fa fb : R5), (Safety.CoreSkips s c g)) ∧
    (∃ (s : State) (c : CoreId) (g : Guard) (dbl : Bool) (fd fa : R5), (Safety.CoreSkips s c g)) ∧
    (∃ (s : State) (c : CoreId) (g : Guard) (fn : BitVec 7) (rd ra : R5), (Safety.CoreSkips s c g) ∧ ((decide (fn.toNat % 64 ≤ 6)) = true)) ∧
    (∃ (s : State) (c : CoreId) (g : Guard) (form : FmovForm) (rd ra : R5), (Safety.CoreSkips s c g)) ∧
    (∃ (s : State) (c : CoreId) (g : Guard) (dbl : Bool) (pd : BitVec 3) (rel : BitVec 2) (fa fb : R5), (Safety.CoreSkips s c g)) ∧
    (∃ (s : State) (c : CoreId) (g : Guard) (fd ra : R5) (sz : BitVec 2) (off : BitVec 9), (Safety.CoreSkips s c g) ∧ ((sz != 3) = true)) ∧
    (∃ (s : State) (c : CoreId) (g : Guard) (fd ra : R5) (sz : BitVec 2) (off : BitVec 9), (Safety.CoreSkips s c g) ∧ ((sz != 3) = true)) ∧
    (∃ (s : State) (c : CoreId) (g : Guard) (rd : R5) (imm : W32), (Safety.CoreSkips s c g)) ∧
    (∃ (s : State) (c : CoreId) (g : Guard) (rd : R5) (imm : W32), (Safety.CoreSkips s c g)) ∧
    (∃ (s : State) (c : CoreId) (g : Guard) (rd ra : R5) (imm : W32), (Safety.CoreSkips s c g)) ∧
    (∃ (s : State) (c : CoreId) (g : Guard) (rd ra : R5) (imm : W32), (Safety.CoreSkips s c g)) ∧
    (∃ (s : State) (c : CoreId) (g : Guard) (rd ra : R5) (imm : W32), (Safety.CoreSkips s c g)) ∧
    (∃ (s : State) (c : CoreId) (g : Guard) (pd pn : BitVec 3) (ra : R5) (cond : BitVec 4) (w : Bool) (imm : W32), (Safety.CoreSkips s c g) ∧ ((cmpLegal pd pn cond) = true)) ∧
    (∃ (s : State) (c : CoreId) (g : Guard) (n : BitVec 4) (ra : R5), (Safety.CoreSkips s c g) ∧ ((decide (n.toNat < 12)) = true)) ∧
    (∃ (s : State) (c : CoreId) (g : Guard) (rd : R5) (n : BitVec 4), (Safety.CoreSkips s c g) ∧ ((decide (n.toNat < 12)) = true)) ∧
    (∃ (s : State) (c : CoreId) (g : Guard) (rd : R5), (Safety.CoreSkips s c g)) ∧
    (∃ (s : State) (c : CoreId) (g : Guard), (Safety.CoreSkips s c g)) ∧
    (∃ (s : State) (c : CoreId) (g : Guard), (Safety.CoreSkips s c g)) ∧
    (∃ (s : State) (c : CoreId) (g : Guard) (log2n : BitVec 4) (inv q31 scale brev : Bool), (Safety.CoreSkips s c g) ∧ ((decide (3 ≤ log2n.toNat) && decide (log2n.toNat ≤ 12)) = true)) ∧
    (∃ (s : State) (c : CoreId) (g : Guard) (iir q31 : Bool), (Safety.CoreSkips s c g)) ∧
    (∃ (s : State) (c : CoreId) (g : Guard) (accum : Bool), (Safety.CoreSkips s c g)) ∧
    (∃ (s : State) (c : CoreId) (g : Guard) (ra : R5), (Safety.CoreSkips s c g)) :=
  ⟨⟨cb, 3, { ps := true, pg := 0 }, by decide +kernel⟩,
   ⟨cb, 3, { ps := true, pg := 0 }, 0, 0, 0, 0, by decide +kernel⟩,
   ⟨cb, 3, { ps := true, pg := 0 }, 0, 0, 0, by decide +kernel⟩,
   ⟨cb, 3, { ps := true, pg := 0 }, 0, 0, 0, by decide +kernel⟩,
   ⟨cb, 3, { ps := true, pg := 0 }, 0, 0, 0, by decide +kernel⟩,
   ⟨cb, 3, { ps := true, pg := 0 }, 0, 0, 0, by decide +kernel⟩,
   ⟨cb, 3, { ps := true, pg := 0 }, 0, 0, 0, by decide +kernel⟩,
   ⟨cb, 3, { ps := true, pg := 0 }, 0, 0, 0, 0, 0, false, false, by decide +kernel⟩,
   ⟨cb, 3, { ps := true, pg := 0 }, 0, 0, 0, 0, by decide +kernel⟩,
   ⟨cb, 3, { ps := true, pg := 0 }, false, 0, 0, 0, 0, by decide +kernel⟩,
   ⟨cb, 3, { ps := true, pg := 0 }, false, 0, 0, 0, by decide +kernel⟩,
   ⟨cb, 3, { ps := true, pg := 0 }, 0, 0, 0, 0, by decide +kernel⟩,
   ⟨cb, 3, { ps := true, pg := 0 }, 0, 0, 0, 0, by decide +kernel⟩,
   ⟨cb, 3, { ps := true, pg := 0 }, 0, 0, 0, 0, by decide +kernel⟩,
   ⟨cb, 3, { ps := true, pg := 0 }, 0, false, false, true, 1, 2, 1, false, by decide +kernel⟩,
   ⟨cb, 3, { ps := true, pg := 0 }, 0, 0, by decide +kernel⟩,
   ⟨cb, 3, { ps := true, pg := 0 }, 0, 0, by decide +kernel⟩,
   ⟨cb, 3, { ps := true, pg := 0 }, 0, 0, by decide +kernel⟩,
   ⟨cb, 3, { ps := true, pg := 0 }, 0, 0, by decide +kernel⟩,
   ⟨cb, 3, { ps := true, pg := 0 }, 0, 0, by decide +kernel⟩,
   ⟨cb, 3, { ps := true, pg := 0 }, 0, 0, by decide +kernel⟩,
   ⟨cb, 3, { ps := true, pg := 0 }, 0, 0, by decide +kernel⟩,
   ⟨cb, 3, { ps := true, pg := 0 }, 0, 0, by decide +kernel⟩,
   ⟨cb, 3, { ps := true, pg := 0 }, 0, 0, by decide +kernel⟩,
   ⟨cb, 3, { ps := true, pg := 0 }, 0, by decide +kernel⟩,
   ⟨cb, 3, { ps := true, pg := 0 }, 0, 0, 0, false, false, 0, false, true, false, false, by decide +kernel⟩,
   ⟨cb, 3, { ps := true, pg := 0 }, 0, false, 0, 0, 0, by decide +kernel⟩,
   ⟨cb, 3, { ps := true, pg := 0 }, 0, 0, 0, 0, by decide +kernel⟩,
   ⟨cb, 3, { ps := true, pg := 0 }, 0, 0, 0, 0, by decide +kernel⟩,
   ⟨cb, 3, { ps := true, pg := 0 }, 0, false, 0, false, false, 0, false, by decide +kernel⟩,
   ⟨cb, 3, { ps := true, pg := 0 }, 0, 1, 2, 0, by decide +kernel⟩,
   ⟨cb, 3, { ps := true, pg := 0 }, 0, 0, 0, 0, by decide +kernel⟩,
   ⟨cb, 3, { ps := true, pg := 0 }, 0, 0, false, by decide +kernel⟩,
   ⟨cb, 3, { ps := true, pg := 0 }, 1, 2, 3, false, by decide +kernel⟩,
   ⟨cb, 3, { ps := true, pg := 0 }, by decide +kernel⟩,
   ⟨cb, 3, { ps := true, pg := 0 }, by decide +kernel⟩,
   ⟨cb, 3, { ps := true, pg := 0 }, by decide +kernel⟩,
   ⟨cb, 3, { ps := true, pg := 0 }, by decide +kernel⟩,
   ⟨cb, 3, { ps := true, pg := 0 }, false, false, 0, 0, 0, by decide +kernel⟩,
   ⟨cb, 3, { ps := true, pg := 0 }, 0, 0, by decide +kernel⟩,
   ⟨cb, 3, { ps := true, pg := 0 }, 0, 0, by decide +kernel⟩,
   ⟨cb, 3, { ps := true, pg := 0 }, by decide +kernel⟩,
   ⟨cb, 3, { ps := true, pg := 0 }, by decide +kernel⟩,
   ⟨cb, 3, { ps := true, pg := 0 }, 0, by decide +kernel⟩,
   ⟨cb, 3, { ps := true, pg := 0 }, 0, by decide +kernel⟩,
   ⟨cb, 3, { ps := true, pg := 0 }, 0, 0, 0, 0, by decide +kernel⟩,
   ⟨cb, 3, { ps := true, pg := 0 }, false, 0, 0, 0, by decide +kernel⟩,
   ⟨cb, 3, { ps := true, pg := 0 }, false, 0, 0, by decide +kernel⟩,
   ⟨cb, 3, { ps := true, pg := 0 }, 0, 0, 0, by decide +kernel⟩,
   ⟨cb, 3, { ps := true, pg := 0 }, ⟨false, false⟩, 0, 0, by decide +kernel⟩,
   ⟨cb, 3, { ps := true, pg := 0 }, false, 0, 0, 0, 0, by decide +kernel⟩,
   ⟨cb, 3, { ps := true, pg := 0 }, 0, 0, 0, 0, by decide +kernel⟩,
   ⟨cb, 3, { ps := true, pg := 0 }, 0, 0, 0, 0, by decide +kernel⟩,
   ⟨cb, 3, { ps := true, pg := 0 }, 0, 0, by decide +kernel⟩,
   ⟨cb, 3, { ps := true, pg := 0 }, 0, 0, by decide +kernel⟩,
   ⟨cb, 3, { ps := true, pg := 0 }, 0, 0, 0, by decide +kernel⟩,
   ⟨cb, 3, { ps := true, pg := 0 }, 0, 0, 0, by decide +kernel⟩,
   ⟨cb, 3, { ps := true, pg := 0 }, 0, 0, 0, by decide +kernel⟩,
   ⟨cb, 3, { ps := true, pg := 0 }, 0, 0, 0, 0, false, 0, by decide +kernel⟩,
   ⟨cb, 3, { ps := true, pg := 0 }, 0, 0, by decide +kernel⟩,
   ⟨cb, 3, { ps := true, pg := 0 }, 0, 0, by decide +kernel⟩,
   ⟨cb, 3, { ps := true, pg := 0 }, 0, by decide +kernel⟩,
   ⟨cb, 3, { ps := true, pg := 0 }, by decide +kernel⟩,
   ⟨cb, 3, { ps := true, pg := 0 }, by decide +kernel⟩,
   ⟨cb, 3, { ps := true, pg := 0 }, 3, false, false, false, false, by decide +kernel⟩,
   ⟨cb, 3, { ps := true, pg := 0 }, false, false, by decide +kernel⟩,
   ⟨cb, 3, { ps := true, pg := 0 }, false, by decide +kernel⟩,
   ⟨cb, 3, { ps := true, pg := 0 }, 0, by decide +kernel⟩⟩

/-- States and operands that meet the hypotheses of each clause of `UnassignedEncodingsRaiseIllegal`. -/
theorem witness_UnassignedEncodingsRaiseIllegal :
    (∃ (s : State) (c : CoreId) (g : Guard) (fn : BitVec 7) (rd ra rb : R5), (Safety.CoreMeets s c) ∧ ((aluLegal fn rb) = false)) ∧
    (∃ (s : State) (c : CoreId) (g : Guard) (rd ra : R5) (imm : BitVec 12), (Safety.CoreMeets s c) ∧ ((shiLegal imm) = false)) ∧
    (∃ (s : State) (c : CoreId) (g : Guard) (pd pn : BitVec 3) (ra rb : R5) (cond : BitVec 4) (imm w : Bool), (Safety.CoreMeets s c) ∧ ((cmpLegal pd pn cond) = false)) ∧
    (∃ (s : State) (c : CoreId) (g : Guard) (pd pa pb fn : BitVec 3), (Safety.CoreMeets s c) ∧ ((fn.toNat < 4 || (fn == 4 && pb == 0)) = false)) ∧
    (∃ (s : State) (c : CoreId) (g : Guard) (fn : BitVec 7) (rd ra rb : R5), (Safety.CoreMeets s c) ∧ ((decide (fn.toNat ≤ 4)) = false)) ∧
    (∃ (s : State) (c : CoreId) (g : Guard) (fn : BitVec 7) (rd ra rb : R5), (Safety.CoreMeets s c) ∧ ((decide (fn.toNat % 64 < 4)) = false)) ∧
    (∃ (s : State) (c : CoreId) (g : Guard) (fn : BitVec 7) (rd ra rb : R5), (Safety.CoreMeets s c) ∧ ((decide (fn.toNat ≤ 9)) = false)) ∧
    (∃ (s : State) (c : CoreId) (g : Guard) (ac : BitVec 2) (sub clr int : Bool) (ra rb : R5) (form : BitVec 2) (uns : Bool), (Safety.CoreMeets s c) ∧ ((form != 3 && (int || !uns)) = false)) ∧
    (∃ (s : State) (c : CoreId) (g : Guard) (ac : BitVec 2) (rb : R5), (Safety.CoreMeets s c) ∧ ((decide (rb.toNat < 4)) = false)) ∧
    (∃ (s : State) (c : CoreId) (g : Guard) (ac xg yg : BitVec 2) (xpm ypm : Bool) (form : BitVec 2) (sub int clr uns : Bool), (Safety.CoreMeets s c) ∧ ((int || !uns) = false)) ∧
    (∃ (s : State) (c : CoreId) (g : Guard) (size : BitVec 2) (uns : Bool) (rd ra : R5) (off : BitVec 12), (Safety.CoreMeets s c) ∧ ((!(uns && size == 3)) = false)) ∧
    (∃ (s : State) (c : CoreId) (g : Guard) (fn : BitVec 7) (rd ra rb : R5), (Safety.CoreMeets s c) ∧ ((!fn.toNat.testBit 0 && (!fn.toNat.testBit 3 || (!fn.toNat.testBit 6 && fn.toNat / 16 % 4 != 3))) = false)) ∧
    (∃ (s : State) (c : CoreId) (g : Guard) (rd : R5) (y : Bool) (gen : BitVec 2) (pm st : Bool) (size : BitVec 2) (uns : Bool), (Safety.CoreMeets s c) ∧ ((!uns || (!st && size != 3)) = false)) ∧
    (∃ (s : State) (c : CoreId) (g : Guard) (rd ra rk : R5) (off : BitVec 6), (Safety.CoreMeets s c) ∧ ((rd != rk) = false)) ∧
    (∃ (s : State) (c : CoreId) (g : Guard) (rd ra rs : R5) (d : Bool), (Safety.CoreMeets s c) ∧ ((rd != rs) = false)) ∧
    (∃ (s : State) (c : CoreId) (g : Guard) (rd : R5) (sr : BitVec 6), (Safety.CoreMeets s c) ∧ ((srListed sr.toNat) = false)) ∧
    (∃ (s : State) (c : CoreId) (g : Guard) (ra : R5) (sr : BitVec 6), (Safety.CoreMeets s c) ∧ ((srWritable sr.toNat) = false)) ∧
    (∃ (s : State) (c : CoreId) (g : Guard) (fn : BitVec 7) (fd fa fb : R5), (Safety.CoreMeets s c) ∧ ((decide (fn.toNat % 64 ≤ 9)) = false)) ∧
    (∃ (s : State) (c : CoreId) (g : Guard) (fn : BitVec 7) (rd ra : R5), (Safety.CoreMeets s c) ∧ ((decide (fn.toNat % 64 ≤ 6)) = false)) ∧
    (∃ (s : State) (c : CoreId) (g : Guard) (fd ra : R5) (sz : BitVec 2) (off : BitVec 9), (Safety.CoreMeets s c) ∧ ((sz != 3) = false)) ∧
    (∃ (s : State) (c : CoreId) (g : Guard) (fd ra : R5) (sz : BitVec 2) (off : BitVec 9), (Safety.CoreMeets s c) ∧ ((sz != 3) = false)) ∧
    (∃ (s : State) (c : CoreId) (g : Guard) (pd pn : BitVec 3) (ra : R5) (cond : BitVec 4) (w : Bool) (imm : W32), (Safety.CoreMeets s c) ∧ ((cmpLegal pd pn cond) = false)) ∧
    (∃ (s : State) (c : CoreId) (g : Guard) (n : BitVec 4) (ra : R5), (Safety.CoreMeets s c) ∧ ((decide (n.toNat < 12)) = false)) ∧
    (∃ (s : State) (c : CoreId) (g : Guard) (rd : R5) (n : BitVec 4), (Safety.CoreMeets s c) ∧ ((decide (n.toNat < 12)) = false)) ∧
    (∃ (s : State) (c : CoreId) (g : Guard) (log2n : BitVec 4) (inv q31 scale brev : Bool), (Safety.CoreMeets s c) ∧ ((decide (3 ≤ log2n.toNat) && decide (log2n.toNat ≤ 12)) = false)) :=
  ⟨⟨cb, 3, g0, 20, 0, 0, 0, by decide +kernel⟩,
   ⟨cb, 3, g0, 0, 0, 64, by decide +kernel⟩,
   ⟨cb, 3, g0, 0, 0, 0, 0, 8, false, false, by decide +kernel⟩,
   ⟨cb, 3, g0, 0, 0, 0, 5, by decide +kernel⟩,
   ⟨cb, 3, g0, 5, 0, 0, 0, by decide +kernel⟩,
   ⟨cb, 3, g0, 4, 0, 0, 0, by decide +kernel⟩,
   ⟨cb, 3, g0, 10, 0, 0, 0, by decide +kernel⟩,
   ⟨cb, 3, g0, 0, false, false, false, 0, 0, 3, false, by decide +kernel⟩,
   ⟨cb, 3, g0, 0, 4, by decide +kernel⟩,
   ⟨cb, 3, g0, 0, 0, 0, false, false, 0, false, false, false, true, by decide +kernel⟩,
   ⟨cb, 3, g0, 3, true, 0, 0, 0, by decide +kernel⟩,
   ⟨cb, 3, g0, 1, 0, 0, 0, by decide +kernel⟩,
   ⟨cb, 3, g0, 0, false, 0, false, true, 0, true, by decide +kernel⟩,
   ⟨cb, 3, g0, 0, 0, 0, 0, by decide +kernel⟩,
   ⟨cb, 3, g0, 0, 0, 0, false, by decide +kernel⟩,
   ⟨cb, 3, g0, 0, 63, by decide +kernel⟩,
   ⟨cb, 3, g0, 0, 63, by decide +kernel⟩,
   ⟨cb, 3, g0, 10, 0, 0, 0, by decide +kernel⟩,
   ⟨cb, 3, g0, 7, 0, 0, by decide +kernel⟩,
   ⟨cb, 3, g0, 0, 0, 3, 0, by decide +kernel⟩,
   ⟨cb, 3, g0, 0, 0, 3, 0, by decide +kernel⟩,
   ⟨cb, 3, g0, 0, 0, 0, 8, false, 0, by decide +kernel⟩,
   ⟨cb, 3, g0, 12, 0, by decide +kernel⟩,
   ⟨cb, 3, g0, 0, 12, by decide +kernel⟩,
   ⟨cb, 3, g0, 2, false, false, false, false, by decide +kernel⟩⟩

/-- States and operands that meet the hypotheses of each clause of `ComputingInstructionsFrame`. -/
theorem witness_ComputingInstructionsFrame :
    (∃ (s : State) (c : CoreId) (g : Guard) (fn : BitVec 7) (rd ra rb : R5) (t : State), (Safety.CoreReady s c g) ∧ (aluLegal fn rb = true) ∧ (exec (.intAlu c g fn rd ra rb) s = .next t)) ∧
    (∃ (s : State) (c : CoreId) (g : Guard) (rd ra : R5) (imm : BitVec 12) (t : State), (Safety.CoreReady s c g) ∧ (exec (.addi c g rd ra imm) s = .next t)) ∧
    (∃ (s : State) (c : CoreId) (g : Guard) (rd ra : R5) (imm : BitVec 12) (t : State), (Safety.CoreReady s c g) ∧ (exec (.andi c g rd ra imm) s = .next t)) ∧
    (∃ (s : State) (c : CoreId) (g : Guard) (rd ra : R5) (imm : BitVec 12) (t : State), (Safety.CoreReady s c g) ∧ (exec (.ori c g rd ra imm) s = .next t)) ∧
    (∃ (s : State) (c : CoreId) (g : Guard) (rd ra : R5) (imm : BitVec 12) (t : State), (Safety.CoreReady s c g) ∧ (exec (.xori c g rd ra imm) s = .next t)) ∧
    (∃ (s : State) (c : CoreId) (g : Guard) (rd ra : R5) (imm : BitVec 12) (t : State), (Safety.CoreReady s c g) ∧ (shiLegal imm = true) ∧ (exec (.shi c g rd ra imm) s = .next t)) ∧
    (∃ (s : State) (c : CoreId) (g : Guard) (neg : Bool) (ps : BitVec 3) (rd ra rb : R5) (t : State), (Safety.CoreReady s c g) ∧ (exec (.sel c g neg ps rd ra rb) s = .next t)) ∧
    (∃ (s : State) (c : CoreId) (g : Guard) (neg : Bool) (ps : BitVec 3) (rd ra : R5) (t : State), (Safety.CoreReady s c g) ∧ (exec (.cmov c g neg ps rd ra) s = .next t)) ∧
    (∃ (s : State) (c : CoreId) (g : Guard) (fn : BitVec 7) (rd ra rb : R5) (t : State), (Safety.CoreReady s c g) ∧ (decide (fn.toNat ≤ 4) = true) ∧ (exec (.mul c g fn rd ra rb) s = .next t)) ∧
    (∃ (s : State) (c : CoreId) (g : Guard) (fn : BitVec 7) (rd ra rb : R5) (t : State), (Safety.CoreReady s c g) ∧ (decide (fn.toNat % 64 < 4) = true) ∧ (uintOf (if 64 ≤ fn.toNat then 32 else 64) (rg s c rb) ≠ 0) ∧ (exec (.div c g fn rd ra rb) s = .next t)) ∧
    (∃ (s : State) (c : CoreId) (g : Guard) (rd : R5) (imm : W32) (t : State), (Safety.CoreReady s c g) ∧ (exec (.li c g rd imm) s = .next t)) ∧
    (∃ (s : State) (c : CoreId) (g : Guard) (rd : R5) (imm : W32) (t : State), (Safety.CoreReady s c g) ∧ (exec (.lih c g rd imm) s = .next t)) ∧
    (∃ (s : State) (c : CoreId) (g : Guard) (rd ra : R5) (imm : W32) (t : State), (Safety.CoreReady s c g) ∧ (exec (.addw c g rd ra imm) s = .next t)) ∧
    (∃ (s : State) (c : CoreId) (g : Guard) (rd ra : R5) (imm : W32) (t : State), (Safety.CoreReady s c g) ∧ (exec (.andw c g rd ra imm) s = .next t)) ∧
    (∃ (s : State) (c : CoreId) (g : Guard) (rd ra : R5) (imm : W32) (t : State), (Safety.CoreReady s c g) ∧ (exec (.orw c g rd ra imm) s = .next t)) :=
  ⟨⟨cb, 3, g0, 0, 1, 2, 3, ((match exec (.intAlu 3 g0 0 1 2 3) (cb) with
        | .next u => u
        | _ => base)), by decide +kernel, by decide +kernel, rfl⟩,
   ⟨cb, 3, g0, 1, 2, 3, ((match exec (.addi 3 g0 1 2 3) (cb) with
        | .next u => u
        | _ => base)), by decide +kernel, rfl⟩,
   ⟨cb, 3, g0, 1, 2, 3, ((match exec (.andi 3 g0 1 2 3) (cb) with
        | .next u => u
        | _ => base)), by decide +kernel, rfl⟩,
   ⟨cb, 3, g0, 1, 2, 3, ((match exec (.ori 3 g0 1 2 3) (cb) with
        | .next u => u
        | _ => base)), by decide +kernel, rfl⟩,
   ⟨cb, 3, g0, 1, 2, 3, ((match exec (.xori 3 g0 1 2 3) (cb) with
        | .next u => u
        | _ => base)), by decide +kernel, rfl⟩,
   ⟨cb, 3, g0, 1, 2, 3, ((match exec (.shi 3 g0 1 2 3) (cb) with
        | .next u => u
        | _ => base)), by decide +kernel, by decide +kernel, rfl⟩,
   ⟨cb, 3, g0, false, 1, 1, 2, 3, ((match exec (.sel 3 g0 false 1 1 2 3) (cb) with
        | .next u => u
        | _ => base)), by decide +kernel, rfl⟩,
   ⟨cb, 3, g0, false, 1, 1, 2, ((match exec (.cmov 3 g0 false 1 1 2) (cb) with
        | .next u => u
        | _ => base)), by decide +kernel, rfl⟩,
   ⟨cb, 3, g0, 0, 1, 2, 3, ((match exec (.mul 3 g0 0 1 2 3) (cb) with
        | .next u => u
        | _ => base)), by decide +kernel, by decide +kernel, rfl⟩,
   ⟨cbWith (core3.setBank 0 ({ Bank.reset 0 0 with g := List.replicate 8 7 })), 3, g0, 0, 1, 2, 3, ((match exec (.div 3 g0 0 1 2 3) (cbWith (core3.setBank 0 ({ Bank.reset 0 0 with g := List.replicate 8 7 }))) with
        | .next u => u
        | _ => base)), by decide +kernel, by decide +kernel, by decide +kernel, rfl⟩,
   ⟨cb, 3, g0, 1, 2, ((match exec (.li 3 g0 1 2) (cb) with
        | .next u => u
        | _ => base)), by decide +kernel, rfl⟩,
   ⟨cb, 3, g0, 1, 2, ((match exec (.lih 3 g0 1 2) (cb) with
        | .next u => u
        | _ => base)), by decide +kernel, rfl⟩,
   ⟨cb, 3, g0, 1, 2, 3, ((match exec (.addw 3 g0 1 2 3) (cb) with
        | .next u => u
        | _ => base)), by decide +kernel, rfl⟩,
   ⟨cb, 3, g0, 1, 2, 3, ((match exec (.andw 3 g0 1 2 3) (cb) with
        | .next u => u
        | _ => base)), by decide +kernel, rfl⟩,
   ⟨cb, 3, g0, 1, 2, 3, ((match exec (.orw 3 g0 1 2 3) (cb) with
        | .next u => u
        | _ => base)), by decide +kernel, rfl⟩⟩

/-- States and operands that meet the hypotheses of each clause of `StoresWriteOnlyTheirBytes`. -/
theorem witness_StoresWriteOnlyTheirBytes :
    (∃ (s : State) (c : CoreId) (g : Guard) (rd : R5) (y : Bool) (gen : BitVec 2) (pm : Bool) (size : BitVec 2) (l : List Byte) (t : State), (Safety.CoreReady s c g) ∧ (l = leBytes (sizeBytes size) (rg s c rd).toNat) ∧ (genOff s c y gen % l.length = 0) ∧ (exec (.ldtStt c g rd y gen pm true size false) s = .next t)) ∧
    (∃ (s : State) (c : CoreId) (g : Guard) (size : BitVec 2) (rs ra : R5) (off : BitVec 12) (l : List Byte) (va pa attr : Nat) (u t : State), (Safety.CoreReady s c g) ∧ (l = leBytes (sizeBytes size) (rg s c rs).toNat) ∧ (va = offAddr (rg s c ra) off l.length) ∧ (va % l.length = 0) ∧ (accessWaits s c (curBank s c).priv .store va l.length = false) ∧ ((translate s c (curBank s c).priv .store va l.length false).1 = u) ∧ ((translate s c (curBank s c).priv .store va l.length false).2.toOption = some (pa, attr)) ∧ (areaOf pa = .dram) ∧ (wayFault .plain pa attr = none) ∧ (storeErrc u c pa l.length = none) ∧ (exec (.store c g size rs ra off) s = .next t)) :=
  ⟨⟨(cbWith ({ core3 with avail := true })), 3, g0, 2, false, 1, true, 2, [0, 0, 0, 0], ((match exec (.ldtStt 3 g0 2 false 1 true true 2 false) ((cbWith ({ core3 with avail := true }))) with
        | .next u => u
        | _ => base)), by decide +kernel, by decide +kernel, by decide +kernel, rfl⟩,
   ⟨(d0With core3), 3, g0, 2, 1, 2, 0, [0, 0, 0, 0], 0, 0, 0, (d0With core3), ((match exec (.store 3 g0 2 1 2 0) ((d0With core3)) with
        | .next u => u
        | _ => base)), by decide +kernel, by decide +kernel, by decide +kernel, by decide +kernel, by decide +kernel, rfl, by decide +kernel, by decide +kernel, by decide +kernel, by decide +kernel, rfl⟩⟩

/-- States and operands that meet the hypotheses of each clause of `RefusedAccessesAreRecorded`. -/
theorem witness_RefusedAccessesAreRecorded :
    (∃ (s : State) (i : Initiator) (r : RegAddr) (width : Nat) (v : Word), (isVaddr r = false) ∧ (isDataPage r.ty r.inst r.page = false) ∧ (¬(r = Reg.EXC_CTL r.inst ∧ bit v 0 = true)) ∧ (cutOff s i r.ty r.inst = true)) ∧
    (∃ (s : State) (i : Initiator) (r : RegAddr) (width : Nat) (v : Word), (isVaddr r = false) ∧ (isDataPage r.ty r.inst r.page = false) ∧ (cutOff s i r.ty r.inst = false) ∧ (widthOk r width = false)) ∧
    (∃ (s : State) (i : Initiator) (r : RegAddr) (width : Nat) (v : Word), (isVaddr r = false) ∧ (isDataPage r.ty r.inst r.page = false) ∧ (cutOff s i r.ty r.inst = false) ∧ (widthOk r width = true) ∧ (isHsem r = false) ∧ (openToAll r = false) ∧ (reaches s i r = false)) ∧
    (∃ (s : State) (i : Initiator) (r : RegAddr) (width : Nat) (v : Word), (isVaddr r = false) ∧ (isDataPage r.ty r.inst r.page = false) ∧ (cutOff s i r.ty r.inst = false) ∧ (widthOk r width = true) ∧ (isHsem r = false) ∧ (reaches s i r = true) ∧ (r.off = 0x00C) ∧ (isM0 s i = false)) ∧
    (∃ (s : State) (i : Initiator) (r : RegAddr) (width : Nat) (v : Word), (isVaddr r = false) ∧ (isDataPage r.ty r.inst r.page = false) ∧ (cutOff s i r.ty r.inst = false) ∧ (widthOk r width = true) ∧ (isHsem r = false) ∧ (reaches s i r = true) ∧ (0x100 ≤ r.off) ∧ ((m0Only r && !isM0 s i || !writePriv s i r v) = true)) ∧
    (∃ (s : State) (i : Initiator) (r : RegAddr) (width : Nat) (v : Word), (isVaddr r = false) ∧ (isDataPage r.ty r.inst r.page = false) ∧ (cutOff s i r.ty r.inst = false) ∧ (widthOk r width = true) ∧ (isHsem r = false) ∧ (reaches s i r = true) ∧ (0x100 ≤ r.off) ∧ ((m0Only r && !isM0 s i) = false) ∧ (writePriv s i r v = true) ∧ (ready s r.ty r.inst = false)) ∧
    (∃ (s : State) (i : Initiator) (r : RegAddr) (width : Nat) (v : Word), (isVaddr r = false) ∧ (isDataPage r.ty r.inst r.page = false) ∧ (cutOff s i r.ty r.inst = false) ∧ (widthOk r width = true) ∧ (isHsem r = false) ∧ (reaches s i r = true) ∧ (0x100 ≤ r.off) ∧ ((m0Only r && !isM0 s i) = false) ∧ (writePriv s i r v = true) ∧ (ready s r.ty r.inst = true) ∧ (writable r = true) ∧ (semBlocked s i r = true)) ∧
    (∃ (s : State) (i : Initiator) (r : RegAddr) (cause : Nat) (q : RegAddr), (rkey q ≠ rkey (pageReg r.ty r.inst (govPage r) 0x024)) ∧ (rkey q ≠ rkey Reg.ERR_DROPPED)) :=
  ⟨⟨{ base with dom := List.replicate 50 0 }, hub, Reg.ERR_RDSEQ, 32, 5, by decide +kernel⟩,
   ⟨base, hub, Reg.ERR_RDSEQ, 16, 5, by decide +kernel⟩,
   ⟨base, (.agent 0 5), Reg.ERR_RDSEQ, 32, 5, by decide +kernel⟩,
   ⟨base, (.agent 0 0), { Reg.ERR_RDSEQ with off := 0x00C }, 32, 5, by decide +kernel⟩,
   ⟨base, (.agent 0 0), Reg.ERR_RDSEQ, 32, 5, by decide +kernel⟩,
   ⟨{ base with pwr := { base.pwr with inReset := true } }, hub, Reg.GPE_CTL 0, 32, 0, by decide +kernel⟩,
   ⟨{ base with regs := [(rkey { Reg.JRN_CTL with off := 0x00C }, 0x10000)] }, (.host .hpb 0), Reg.JRN_CTL, 32, 0, by decide +kernel⟩,
   ⟨base, hub, Reg.ERR_RDSEQ, 1, Reg.ERR_RDSEQ, by decide +kernel⟩⟩

/-- A state that meets the hypotheses of `MemoryStaysCanonical`. -/
theorem witness_MemoryStaysCanonical : ∃ s t : State, Safety.MemOk s ∧ step s = .next t :=
  ⟨{ base with pending := [.thermtrip] }, { base with pwr := { base.pwr with therm := true } }, by decide +kernel, rfl⟩

/-- A state that meets the hypotheses of `FusedStateMovesOnlyForward`. -/
theorem witness_FusedStateMovesOnlyForward : ∃ s t : State, s.life ≤ 4 ∧ step s = .next t :=
  ⟨{ base with pending := [.thermtrip] }, { base with pwr := { base.pwr with therm := true } }, by decide +kernel, rfl⟩

/-- A state that meets the hypotheses of `QueueLosesOnlyItsFront`. -/
theorem witness_QueueLosesOnlyItsFront : ∃ (s t : State) (c : Instr) (l : List Instr), s.pending = c :: l ∧ step s = .next t :=
  ⟨{ base with pending := [.thermtrip] }, { base with pwr := { base.pwr with therm := true } }, .thermtrip, [], rfl, rfl⟩

/-- A state and operands that meet the hypotheses of `WordsSpellTheirInstructions`. -/
theorem witness_WordsSpellTheirInstructions :
    ∃ (s : State) (c : CoreId) (g : Guard) (w2 : W32) (m : BitVec 6) (t : BitVec 22), ([0x00, 0x07, 0x2C, 0x2D, 0x2E, 0x2F, 0x36, 0x37, 0x3D, 0x3E, 0x3F].contains m.toNat = true) :=
  ⟨base, 3, g0, 7, 7, 5, by decide +kernel⟩

/-- States and operands that meet the hypotheses of each clause of `AccessesReachTheCaches`. -/
theorem witness_AccessesReachTheCaches :
    (∃ (s : State) (a line : Nat), ((getLn s a line).st = LineSt.e)) ∧
    (∃ (k : CoreSt) (key line : Nat) (r : Nat × Nat × Nat), (k.l1d.get? key = some line) ∧ (k.resv = some r) ∧ (r.1 / 64 = line)) ∧
    (∃ (s : State) (c va attr : Nat) (store : Bool) (a n x : Nat), (isHostWin x = false)) :=
  ⟨⟨{ base with coh := { base.coh with lines := [(1, { AgLine.reset with st := LineSt.e })] } }, 0, 1, by decide +kernel⟩,
   ⟨{ core3 with l1d := [(8, 1)], resv := some (64, 8, 0) }, 8, 1, (64, 8, 0), by decide +kernel⟩,
   ⟨base, 3, 64, 0, true, 64, 8, 64, by decide +kernel⟩⟩

/-! ## Well-formedness -/

/-- Each check of `WellFormed` refuses a command (R34, R35, R316, R413, R414, Table 7.15, Table 11.2). -/
theorem test_wellformed_refuses :
    WellFormed (.registerWrite hub Reg.ERR_RDSEQ 24 0) = false ∧ WellFormed (.registerWrite hub ⟨.err, 0, 0, 4096⟩ 32 0) = false ∧
      WellFormed (.absentBlockAccess hub (.page ⟨.err, 0, 0, 5000⟩) true) = false ∧ WellFormed (.wrfull 0 0 [1]) = false ∧
      WellFormed (.fcvt 3 g0 6 0 0) = false ∧ WellFormed (.linkCredit 2 [0, 0]) = false ∧
      WellFormed (.mvbPortWrite hub 0 0 (List.replicate 33 0)) = false ∧
      WellFormed (.canfFrameReceive 0 { frame := { id := 0, dlc := 0, data := List.replicate 65 0 }, err := false }) = false := by
  decide +kernel

/-- The same commands with legal values are well formed. -/
theorem test_wellformed_accepts :
    WellFormed (.registerWrite hub Reg.ERR_RDSEQ 32 0) = true ∧ WellFormed (.wrfull 0 0 (List.replicate 64 0)) = true ∧
      WellFormed (.fcvt 3 g0 3 0 0) = true ∧ WellFormed (.mvbPortWrite hub 0 0 (List.replicate 32 0)) = true := by
  decide +kernel

/-! ## Shared computations, against values known from outside the model -/

/-- CRC-32 (IEEE 802.3) of the bytes "123456789", its published check value. -/
theorem test_crc32_check_value : crc32 [0x31, 0x32, 0x33, 0x34, 0x35, 0x36, 0x37, 0x38, 0x39] = 0xCBF43926 := by decide +kernel

/-- CRC-8 with polynomial 0x07 of the bytes "123456789", its published check value. -/
theorem test_crc8_check_value : crc8 0x313233343536373839 72 0 = 0xF4 := by decide +kernel

/-- CLZ, POPC and BSWAP of Table 7.4. -/
theorem test_alu_bits :
    aluVal false 0x0E 1 0 = 63 ∧ aluVal false 0x0F 0xFF 0 = 8 ∧ aluVal false 0x11 0x0102030405060708 0 = 0x0807060504030201 := by
  decide +kernel

/-- The W form acts on bits [31:0] and sign-extends (R182): SAR of 0x8000_0000 by 4, ADD that wraps at 32 bits. -/
theorem test_alu_w_form :
    aluVal true 0x08 0x80000000 4 = 0xFFFFFFFFF8000000 ∧ aluVal true 0x00 0xFFFFFFFF 1 = 0 := by
  decide +kernel

/-- Signed and unsigned conditions differ on a negative operand (Table 7.6a). -/
theorem test_conditions : Safety.compareSpec 2 (0xFF : BitVec 8) 1 = true ∧ Safety.compareSpec 4 (0xFF : BitVec 8) 1 = false := by
  decide +kernel

/-- A mirror slot is accepted only with complementary halves (R45, R329). -/
theorem test_mirror_slot : mirrorOk 0xFFFFFFFE00000001 = true ∧ mirrorOk 0xFFFFFFFF00000001 = false := by decide +kernel

/-! ## Single steps -/

/-- The state after a command, or the reset state where it gives none. -/
def after (c : Instr) (s : State) : State :=
  match exec c s with
  | .next t => t
  | _ => State.reset

/-- ADDI wraps at 64 bits (R182). -/
theorem test_addi_wraps :
    rg (after (.addi 3 g0 1 2 1) (cbWith (core3.setBank 0 { Bank.reset 0 0 with g := List.replicate 8 0xFFFFFFFFFFFFFFFF }))) 3 1 = 0 := by
  decide +kernel

/-- A write of g0 is ignored and the PC advances by one word (R154, R133). -/
theorem test_g0_reads_zero :
    rg (after (.addi 3 g0 0 1 5) cb) 3 0 = 0 ∧ (curBank (after (.addi 3 g0 0 1 5) cb) 3).pc = (curBank cb 3).pc + 4 := by
  decide +kernel

/-- The port that reads a FREE semaphore first holds it, and the other port reads 0 (R403). -/
theorem test_semaphore_is_exclusive :
    (after (.hsemRead (.host .hpa 0) .hpa 3 false) base).resp = .ok 1 ∧
      (after (.hsemRead (.host .hpb 0) .hpa 3 false) (after (.hsemRead (.host .hpa 0) .hpb 3 false) base)).resp = .ok 0 := by
  decide +kernel

/-- Bit 12 of DIESEL stays 1 (R472): the spec's example loads 0x1020. -/
theorem test_diesel_keeps_focal : (after (.dieselUpdate 0x0020) base).dbg.diesel = 0x1020 := by decide +kernel

/-- THERMTRIP_L stays low through a package reset and not through a power-on reset (R508). -/
theorem test_thermtrip_latches :
    (after .thermtrip base).pwr.therm = true ∧ (packageInit (after .thermtrip base)).pwr.therm = true ∧
      (after .powerOnReset (after .thermtrip base)).pwr.therm = false := by
  decide +kernel

/-- The table gives no row bits, so no word spells a command; an empty queue idles. -/
theorem test_no_word_decodes : decodeTableWord 32 5 = none ∧ (State.withFetchWord State.reset 32 5).pending = [] := by decide +kernel

/-- Memory after reset is canonical. -/
theorem test_reset_memory : Safety.MemOk State.reset := by decide +kernel

end Sys2Proof.Tests
end

section
/-! SUPPORT. What recording a failed access leaves as it was (R41, R46). -/

namespace Sys2Proof.Machine

/-! ## The error log -/

/-- A logged error is staged, or counted in ERR_DROPPED where no staging place is free. -/
theorem logErr_cases (s : State) (e : ErrRec) :
    (∃ l, logErr s e = { s with err := { s.err with staging := l } }) ∨ logErr s e = countReg s Reg.ERR_DROPPED := by
  unfold logErr
  split
  · exact .inl ⟨_, rfl⟩
  · exact .inr rfl

@[simp] theorem logErr_mem (s : State) (e : ErrRec) : (logErr s e).mem = s.mem := (keepsMem_logErr s e).1

@[simp] theorem logErr_cores (s : State) (e : ErrRec) : (logErr s e).cores = s.cores := by
  obtain ⟨l, h⟩ | h := logErr_cases s e <;> simp [h]

@[simp] theorem logErr_ammin (s : State) (e : ErrRec) : (logErr s e).ammin = s.ammin := by
  obtain ⟨l, h⟩ | h := logErr_cases s e <;> simp [h]

@[simp] theorem logErr_pageBytes (s : State) (e : ErrRec) : (logErr s e).pageBytes = s.pageBytes := by
  obtain ⟨l, h⟩ | h := logErr_cases s e <;> simp [h]

@[simp] theorem logErr_ring (s : State) (e : ErrRec) : (logErr s e).err.ring = s.err.ring := by
  obtain ⟨l, h⟩ | h := logErr_cases s e <;> simp [h]

/-- Every register but ERR_DROPPED stays when an error is logged. -/
theorem rd_logErr (s : State) (e : ErrRec) (q : RegAddr) (h : rkey q ≠ rkey Reg.ERR_DROPPED) : rd (logErr s e) q = rd s q := by
  obtain ⟨l, e⟩ | e := logErr_cases s e <;> rw [e]
  · rfl
  · exact rd_wr_ne _ _ _ _ h.symm

/-! ## Failed accesses -/

@[simp] theorem failAccess_resp (s : State) (i : Initiator) (r : RegAddr) (cause : Nat) :
    (failAccess s i r cause).resp = .err cause := rfl

@[simp] theorem failAccess_ring (s : State) (i : Initiator) (r : RegAddr) (cause : Nat) :
    (failAccess s i r cause).err.ring = s.err.ring := by
  simp [failAccess, recordPageErr]

@[simp] theorem failAccess_pageBytes (s : State) (i : Initiator) (r : RegAddr) (cause : Nat) :
    (failAccess s i r cause).pageBytes = s.pageBytes := by
  simp [failAccess, recordPageErr]

/-- A failed access changes PAGE_ERR of the page and ERR_DROPPED at most. -/
theorem rd_failAccess (s : State) (i : Initiator) (r : RegAddr) (cause : Nat) (q : RegAddr)
    (hp : rkey q ≠ rkey (pageReg r.ty r.inst (govPage r) 0x024)) (hd : rkey q ≠ rkey Reg.ERR_DROPPED) :
    rd (failAccess s i r cause) q = rd s q := by
  simp only [failAccess, recordPageErr, rd_respErr]
  rw [rd_logErr _ _ _ hd, rd_wr_ne _ _ _ _ hp.symm]

/-- An access to an absent block is answered with ABSENT, and leaves memory and the cores. -/
theorem absentAccess_unreachable (s : State) (i : Initiator) (r : RegAddr) (h : unreachable s r.ty r.inst = true) :
    (absentAccess s i r).resp = .err eABSENT ∧ (absentAccess s i r).mem = s.mem ∧ (absentAccess s i r).cores = s.cores := by
  simp [absentAccess, h]

/-- The same for an access to a core's window that fails. -/
theorem windowErr_answers (s : State) (i : Initiator) (c off code : Nat) :
    (windowErr s i c off code).resp = .err code ∧ (windowErr s i c off code).mem = s.mem ∧ (windowErr s i c off code).cores = s.cores := by
  simp [windowErr]

end Sys2Proof.Machine
end

section
/-! PROOFS of O2 and O43. The ways a write of a register page can go, in the order of the common checks (R35, R39, R42 to R45). -/

namespace Sys2Proof.Machine

theorem exec_registerWrite (s : State) (i : Initiator) (r : RegAddr) (width : Nat) (v : Word) :
    exec (.registerWrite i r width v) s = .next (storeReg s i r width v false) := rfl

theorem exec_mwWrite (s : State) (i : Initiator) (r : RegAddr) (v : Word) (mirror : Bool) :
    exec (.mwWrite i r v mirror) s = .next (storeReg s i r 64 v mirror) := rfl

/-! ## Presence and width -/

/-- A write of a page that is cut off is answered as absent; a RELEASE of a dark core has its own answer. -/
theorem storeReg_cutOff (s : State) (i : Initiator) (r : RegAddr) (width : Nat) (v : Word) (m : Bool) (hv : isVaddr r = false)
    (hd : isDataPage r.ty r.inst r.page = false) (hr : ¬(r = Reg.EXC_CTL r.inst ∧ bit v 0 = true))
    (hc : cutOff s i r.ty r.inst = true) : storeReg s i r width v m = absentAccess s i r := by
  have hn : ¬(r = Reg.EXC_CTL r.inst ∧ bit v 0 = true ∧ releaseDark s i r.inst = true) := fun ⟨e, b, _⟩ => hr ⟨e, b⟩
  simp [storeReg, writeReg, hv, hd, hn, hc]

theorem storeReg_badWidth (s : State) (i : Initiator) (r : RegAddr) (width : Nat) (v : Word) (m : Bool) (hv : isVaddr r = false)
    (hd : isDataPage r.ty r.inst r.page = false) (hc : cutOff s i r.ty r.inst = false) (hw : widthOk r width = false) :
    storeReg s i r width v m = failAccess s i r cSIZE := by
  simp [storeReg, writeReg_reached, hv, hd, hc, hw]

/-- A write of the right width that reaches a register other than a semaphore meets the common checks. -/
theorem storeReg_checked (s : State) (i : Initiator) (r : RegAddr) (width : Nat) (v : Word) (m : Bool) (hv : isVaddr r = false)
    (hd : isDataPage r.ty r.inst r.page = false) (hc : cutOff s i r.ty r.inst = false) (hw : widthOk r width = true)
    (hs : isHsem r = false) : storeReg s i r width v m = regWriteNow s i r v m := by
  simp [storeReg, writeReg_reached, hv, hd, hc, hw, hs]

/-! ## Ownership and privilege -/

theorem regWriteNow_notReached (s : State) (i : Initiator) (r : RegAddr) (v : Word) (m : Bool) (ho : openToAll r = false)
    (hr : reaches s i r = false) : regWriteNow s i r v m = failAccess s i r (if m0Only r then cPRIVILEGE else cNOT_OWNER) := by
  simp [regWriteNow, ho, hr, ownerCause]

theorem regWriteNow_privilege (s : State) (i : Initiator) (r : RegAddr) (v : Word) (m : Bool) (hr : reaches s i r = true)
    (hp : (m0Only r && !isM0 s i || !writePriv s i r v) = true) : regWriteNow s i r v m = failAccess s i r cPRIVILEGE := by
  simp only [regWriteNow, hr, hp, Bool.not_true, Bool.and_false, Bool.false_eq_true, if_false, if_true]

/-- PAGE_OWNER is written by M-level code of partition 0 alone. -/
theorem m0Only_owner (r : RegAddr) (hd : isDataPage r.ty r.inst r.page = false) (ho : r.off = 0x00C) : m0Only r = true := by
  simp [m0Only, hd, ho]

/-- An initiator reaches the page and has the privilege that a write of the register asks for. -/
def Permitted (s : State) (i : Initiator) (r : RegAddr) (v : Word) : Prop :=
  reaches s i r = true ∧ (m0Only r && !isM0 s i) = false ∧ writePriv s i r v = true

/-- A permitted write of a common register takes that register's effect. -/
theorem regWriteNow_common (s : State) (i : Initiator) (r : RegAddr) (v : Word) (m : Bool) (h : Permitted s i r v)
    (ho : r.off < 0x100) : regWriteNow s i r v m = respOk (commonWrite s r v) 0 := by
  obtain ⟨hr, hm, hp⟩ := h
  simp [regWriteNow, hr, hm, hp, ho]

/-- What an access comes to by its block's outcome of the write; a write that failed leaves `s` but for the record. -/
def answerWrite (s : State) (i : Initiator) (r : RegAddr) : WRes → State
  | .done t => t
  | .clamp t => clampNote t i r
  | .fail c => failAccess s i r c

/-- A permitted write of a register of the block goes on to READY, the semaphore and the block's rule. -/
theorem regWriteNow_permitted (s : State) (i : Initiator) (r : RegAddr) (v : Word) (m : Bool) (h : Permitted s i r v)
    (ho : 0x100 ≤ r.off) :
    regWriteNow s i r v m = if !ready s r.ty r.inst then failAccess s i r cREFUSED
      else if !writable r then respOk s 0
      else if semBlocked s i r then respOk (recordPageErr s i r cSEM_NOT_HELD) 0
      else if isMwSlot r then mwEffect (respOk s 0) i r v m
      else answerWrite s i r (blockWrite (respOk s 0) i r v) := by
  obtain ⟨hr, hm, hp⟩ := h
  simp only [regWriteNow, hr, hm, hp, if_neg (Nat.not_lt.2 ho), Bool.not_true, Bool.and_false, Bool.or_false, Bool.false_eq_true,
    if_false]
  rfl

/-! ## Block registers -/

section

variable {s : State} {i : Initiator} {r : RegAddr} {v : Word} {m : Bool} (h : Permitted s i r v) (ho : 0x100 ≤ r.off)
include h ho

theorem regWriteNow_notReady (hy : ready s r.ty r.inst = false) : regWriteNow s i r v m = failAccess s i r cREFUSED := by
  simp [regWriteNow_permitted s i r v m h ho, hy]

theorem regWriteNow_semBlocked (hy : ready s r.ty r.inst = true) (hw : writable r = true) (hb : semBlocked s i r = true) :
    regWriteNow s i r v m = respOk (recordPageErr s i r cSEM_NOT_HELD) 0 := by
  simp [regWriteNow_permitted s i r v m h ho, hy, hw, hb]

theorem regWriteNow_notWritable (hy : ready s r.ty r.inst = true) (hw : writable r = false) : regWriteNow s i r v m = respOk s 0 := by
  simp [regWriteNow_permitted s i r v m h ho, hy, hw]

theorem regWriteNow_block (ha : Safety.Accepted s i r) (hw : writable r = true) (hs : isMwSlot r = false) :
    regWriteNow s i r v m = answerWrite s i r (blockWrite (respOk s 0) i r v) := by
  obtain ⟨_, _, hb, hy⟩ := ha
  simp [regWriteNow_permitted s i r v m h ho, hy, hw, hb, hs]

theorem regWriteNow_mwSlot (ha : Safety.Accepted s i r) (hw : writable r = true) (hs : isMwSlot r = true) :
    regWriteNow s i r v m = mwEffect (respOk s 0) i r v m := by
  obtain ⟨_, _, hb, hy⟩ := ha
  simp [regWriteNow_permitted s i r v m h ho, hy, hw, hb, hs]

end

/-! ## What the block's rule does -/

/-- Pages of these blocks take a write by the access codes alone, but for ERR_COPY and ERR_COPYBASE (R10, R48). -/
theorem blockWrite_plain (s : State) (i : Initiator) (r : RegAddr) (v : Word) (ht : r.ty = .err ∨ r.ty = .prism ∨ r.ty = .csd)
    (h1 : r.off ≠ 0x118) (h2 : r.off ≠ 0x120) : blockWrite s i r v = .done (plainWrite s r v) := by
  rcases ht with ht | ht | ht <;> simp [blockWrite, ht, h1, h2]

/-- The access codes of a listed register (R10). -/
theorem plainWrite_listed (s : State) (r : RegAddr) (v : Word) (row : RegRow) (h : findRow r.ty r.page r.off = some row) :
    plainWrite s r v = wr s r ((rd s r &&& ~~~(BitVec.ofNat 64 row.rw ||| BitVec.ofNat 64 row.w1c)) ||| (v &&& BitVec.ofNat 64 row.rw) |||
      (rd s r &&& BitVec.ofNat 64 row.w1c &&& ~~~v)) := by
  simp only [plainWrite, h]

/-- A mirror slot of a time-base page takes a word whose halves match by its block's rule; another word is a mismatch (R45, R78). -/
theorem mwEffect_tbu (s : State) (i : Initiator) (r : RegAddr) (v : Word) (m : Bool) (ht : r.ty = .tbu) :
    mwEffect s i r v m = if mirrorOk v then answerWrite s i r (blockWrite s i r v) else mwMismatch s i r := by
  cases hm : mirrorOk v
  · simp [mwEffect, ht, hm]
  · simp only [mwEffect, ht, hm, reduceCtorEq, false_and, Bool.not_true, Bool.false_eq_true, if_false, if_true]
    rfl

/-- CMP_TARGET_MWL of a compare that is not armed takes the word written (R78). -/
theorem blockWrite_cmpTargetMwl (s : State) (i : Initiator) (r : RegAddr) (v : Word) (ht : r.ty = .tbu) (hp : 17 ≤ r.page ∧ r.page ≤ 32)
    (ho : (r.off - 0x100) % 0x40 = 0x18) (ha : rb s (Reg.CMP_CTL (16 * (r.page - 17) + (r.off - 0x100) / 0x40)) 0 = false) :
    blockWrite s i r v = .done (wr s r v) := by
  have h0 : ¬ r.page = 0 := by omega
  have h1 : ¬ r.page ≤ 16 := by omega
  simp [blockWrite, tbuWrite, cmpWrite, ht, h0, h1, hp.2, ho, ha, wIf]

/-- Settles O2: each clause names the branch of the common checks that the write takes, then the block's rule. -/
theorem registerWritesComplete : Obligations.RegisterWritesComplete := by
  unfold Obligations.RegisterWritesComplete
  refine ⟨?block, ?codes, ?readOnly, ?mirror, ?target⟩
  case block =>
    intro s i r width v hv hd hs _ ho hw ha hm hp hwr hmw
    rw [exec_registerWrite, storeReg_checked s i r width v _ hv hd ha.1 hw hs, regWriteNow_block ⟨ha.2.1, hm, hp⟩ ho ha hwr hmw]
    rfl
  case codes =>
    intro s i r width v row hv hd hs _ ho hw ha hm hp hwr hmw hrow ht h1 h2
    rw [exec_registerWrite, storeReg_checked s i r width v _ hv hd ha.1 hw hs, regWriteNow_block ⟨ha.2.1, hm, hp⟩ ho ha hwr hmw,
      blockWrite_plain _ i r v ht h1 h2, plainWrite_listed _ r v row hrow]
    exact ⟨_, rfl, rfl, fun q hq => rd_wr_ne _ _ _ _ hq, rd_wr_same _ _ _⟩
  case readOnly =>
    intro s i r width v hv hd hs _ ho hw ha hm hp hwr
    rw [exec_registerWrite, storeReg_checked s i r width v _ hv hd ha.1 hw hs,
      regWriteNow_notWritable ⟨ha.2.1, hm, hp⟩ ho ha.2.2.2 hwr]
  case mirror =>
    intro s i r v mirror hv hd hs _ ho hw ha hm hp hwr hmw ht
    rw [exec_mwWrite, storeReg_checked s i r 64 v _ hv hd ha.1 hw hs, regWriteNow_mwSlot ⟨ha.2.1, hm, hp⟩ ho ha hwr hmw,
      mwEffect_tbu _ i r v mirror ht]
    rfl
  case target =>
    intro s i r v mirror hv hd hs _ ho hw ha hm hp hwr hmw ht hpage hoff hok harm
    rw [exec_mwWrite, storeReg_checked s i r 64 v _ hv hd ha.1 hw hs, regWriteNow_mwSlot ⟨ha.2.1, hm, hp⟩ ho ha hwr hmw,
      mwEffect_tbu _ i r v mirror ht, if_pos hok, blockWrite_cmpTargetMwl (respOk s 0) i r v ht hpage hoff harm]
    exact ⟨_, rfl, rd_wr_same _ _ _, rfl, fun q hq => rd_wr_ne _ _ _ _ hq⟩

/-- Settles O43: each clause names the first of the common checks that turns the write away; the last is `rd_failAccess`. -/
theorem refusedAccessesAreRecorded : Obligations.RefusedAccessesAreRecorded := by
  unfold Obligations.RefusedAccessesAreRecorded
  refine ⟨?absent, ?size, ?owner, ?pageOwner, ?privilege, ?notReady, ?semaphore, rd_failAccess⟩
  case absent =>
    intro s i r width v hv hd hr hc
    rw [exec_registerWrite, storeReg_cutOff s i r width v _ hv hd hr hc]
  case size =>
    intro s i r width v hv hd hc hw
    rw [exec_registerWrite, storeReg_badWidth s i r width v _ hv hd hc hw]
  case owner =>
    intro s i r width v hv hd hc hw hs ho hr
    rw [exec_registerWrite, storeReg_checked s i r width v _ hv hd hc hw hs, regWriteNow_notReached s i r v _ ho hr]
  case pageOwner =>
    intro s i r width v hv hd hc hw hs hr ho hm
    rw [exec_registerWrite, storeReg_checked s i r width v _ hv hd hc hw hs,
      regWriteNow_privilege s i r v _ hr (by simp [m0Only_owner r hd ho, hm])]
  case privilege =>
    intro s i r width v hv hd hc hw hs hr _ hp
    rw [exec_registerWrite, storeReg_checked s i r width v _ hv hd hc hw hs, regWriteNow_privilege s i r v _ hr hp]
  case notReady =>
    intro s i r width v hv hd hc hw hs hr ho hm hp hy
    rw [exec_registerWrite, storeReg_checked s i r width v _ hv hd hc hw hs, regWriteNow_notReady ⟨hr, hm, hp⟩ ho hy]
  case semaphore =>
    intro s i r width v hv hd hc hw hs hr ho hm hp hy hwr hb
    rw [exec_registerWrite, storeReg_checked s i r width v _ hv hd hc hw hs, regWriteNow_semBlocked ⟨hr, hm, hp⟩ ho hy hwr hb]

end Sys2Proof.Machine
end

section
/-! PROOFS of O3. Reads and the commands of the register pages (R6, R10, R34 to R40, R49, R51, R484). -/

namespace Sys2Proof.Machine

/-! ## Reads -/

/-- A read that the common checks and the block let pass answers what the register shows and has the effect of a read, but in the
debug view. -/
theorem readReg_shown (s : State) (i : Initiator) (r : RegAddr) (width : Nat) (hc : cutOff s i r.ty r.inst = false)
    (hw : widthOk r width = true) (hs : isHsem r = false) (hq : (isResult r && !isDebugView i) = false) (hr : reaches s i r = true)
    (hb : readCause s i r = none) (ht : r.ty ≠ .spa) :
    readReg s i r width = respOk (if isDebugView i then s else readEffect s r) (shownOrLens s i r) := by
  simp only [readReg, hc, hw, hs, hq, hr, hb, ht, Bool.not_true, Bool.false_and, Bool.and_false, Bool.false_eq_true, if_false, false_and]

/-- A listed register that no read computes shows its value with the write-only bits 0 (R10). -/
theorem regShown_held (s : State) (i : Initiator) (r : RegAddr) (row : RegRow) (ho : 0x100 ≤ r.off) (hc : regComputed s i r = none)
    (hf : findRow r.ty r.page r.off = some row) : regShown s i r = rd s r &&& ~~~(BitVec.ofNat 64 row.wo) := by
  simp [regShown, Nat.not_lt.2 ho, hc, hf]

/-- A read of a read-clear register of these blocks leaves 0 (R10). -/
theorem readEffect_readClear (s : State) (r : RegAddr) (row : RegRow) (ht : r.ty = .err ∨ r.ty = .pwr ∨ r.ty = .fab ∨ r.ty = .gpe)
    (hf : findRow r.ty r.page r.off = some row) (hrc : row.rc = true) : readEffect s r = wr s r 0 := by
  rcases ht with h | h | h | h <;> rw [h] at hf <;> simp [readEffect, h, hf, hrc]

/-- An accepted read of a read-clear register of these blocks answers the value held and leaves 0 (R10). -/
theorem readReg_readClear (s : State) (i : Initiator) (r : RegAddr) (row : RegRow) (width : Nat) (hc : cutOff s i r.ty r.inst = false)
    (hr : reaches s i r = true) (hw : widthOk r width = true) (hi : isDebugView i = false)
    (ht : r.ty = .err ∨ r.ty = .pwr ∨ r.ty = .fab ∨ r.ty = .gpe) (ho : 0x100 ≤ r.off) (hn : regComputed s i r = none)
    (hf : findRow r.ty r.page r.off = some row) (hrc : row.rc = true) :
    readReg s i r width = respOk (wr s r 0) (rd s r &&& ~~~(BitVec.ofNat 64 row.wo)) := by
  have hs : isHsem r = false := by rcases ht with h | h | h | h <;> simp [isHsem, h]
  have hq : (isResult r && !isDebugView i) = false := by rcases ht with h | h | h | h <;> simp [isResult, h]
  have hb : readCause s i r = none := by rcases ht with h | h | h | h <;> simp [readCause, h]
  have hl : ¬(r.ty = .lns ∧ r.page ≠ 0 ∧ r.off = 0x208) := by rcases ht with h | h | h | h <;> simp [h]
  have hp : r.ty ≠ .spa := by rcases ht with h | h | h | h <;> simp [h]
  rw [readReg_shown s i r width hc hw hs hq hr hb hp, readEffect_readClear s r row ht hf hrc, hi, shownOrLens, if_neg hl,
    regShown_held s i r row ho hn hf]
  rfl

/-! ## Condition bits -/

@[simp] theorem assertRises_resp (s : State) (b : Block) (n page x y : Nat) : (assertRises s b n page x y).resp = s.resp := by
  obtain ⟨ev, h⟩ := assertRises_only s b n page x y
  rw [h]

@[simp] theorem setEvt_resp (s : State) (b : Block) (n page : Nat) (x y : Word) : (setEvt s b n page x y).resp = s.resp :=
  assertRises_resp _ _ _ _ _ _

@[simp] theorem rd_setEvt_status (s : State) (b : Block) (n page : Nat) (x y : Word) :
    rd (setEvt s b n page x y) (evtStatus b n page) = x := by
  rw [setEvt, rd_assertRises, rd_wr_ne _ _ _ _ (fun h => by have := rkey_inj_off h; omega), rd_wr_same]

@[simp] theorem rd_setEvt_enable (s : State) (b : Block) (n page : Nat) (x y : Word) :
    rd (setEvt s b n page x y) (evtEnable b n page) = y := by
  rw [setEvt, rd_assertRises, rd_wr_same]

/-- EVT_SET and EVT_CLEAR set or clear in EVT_STATUS the conditions of the page that are written 1, and keep EVT_ENABLE (R39). -/
theorem evtBits_effect (s : State) (r : RegAddr) (v : Word) (on : Bool) (hn : condCount r.ty r.page ≠ 0) :
    evtBits s r v on = setEvt s r.ty r.inst r.page
      (if on then rd s (evtStatus r.ty r.inst r.page) ||| (BitVec.ofNat 64 (2 ^ condCount r.ty r.page - 1) &&& v)
        else rd s (evtStatus r.ty r.inst r.page) &&& ~~~(BitVec.ofNat 64 (2 ^ condCount r.ty r.page - 1) &&& v))
      (rd s (evtEnable r.ty r.inst r.page)) := by
  simp [evtBits, hn]

/-- A permitted write of a common register with its width takes that register's effect. -/
theorem writeReg_common (s : State) (i : Initiator) (r : RegAddr) (v : Word) (m : Bool) (hd : isDataPage r.ty r.inst r.page = false)
    (hc : cutOff s i r.ty r.inst = false) (h : Permitted s i r v) (ho : r.off < 0x100) (hal : r.off % 4 = 0) :
    writeReg s i r 32 v m = respOk (commonWrite s r v) 0 := by
  have hw : widthOk r 32 = true := by simp [widthOk, regWidth, ho, hal]
  have hs : isHsem r = false := by simp [isHsem, Nat.not_le.2 ho]
  rw [writeReg_reached s i r 32 v m hd hc, hw, hs]
  exact regWriteNow_common s i r v m h ho

/-! ## Data pages -/

/-- What the bus answered has no part in the bytes written to a data page. -/
theorem dpWrite_respOk (v : Word) (l : List Byte) (s : State) (k : Nat) : dpWrite (respOk s v) k l = respOk (dpWrite s k l) v := by
  induction l generalizing s k with
  | nil => rfl
  | cons b l ih => exact ih (dpSet s k b) (k + 1)

section

variable {s : State} {i : Initiator} {r : RegAddr} {width : Nat} (ha : Safety.Accepted s i r) (hw : dataWidthOk r.off width = true)
include ha hw

theorem dataAccess_write (v : Word) :
    dataAccess s i r width (some v) = dataPut (respOk s 0) i r (leBytes (width / 8) v.toNat) := by
  simp only [dataAccess, hw, regWrite_accepted s i r _ ha]

theorem dataAccess_read : dataAccess s i r width none = dataGet s i r (width / 8) := by
  simp only [dataAccess, hw, regRead_accepted s i r _ ha]

end

theorem exec_dataPageAccess (s : State) (i : Initiator) (r : RegAddr) (width : Nat) (w : Option Word)
    (hd : isDataPage r.ty r.inst r.page = true) : exec (.dataPageAccess i r width w) s = .next (dataAccess s i r width w) :=
  congrArg Host.Outcome.next (if_pos hd)

theorem dataPut_bytes (s : State) (i : Initiator) (r : RegAddr) (l : List Byte) (ht : r.ty = .eth ∨ r.ty = .mvb) :
    dataPut s i r l = dpWrite s (rkey r) l := by
  rcases ht with h | h <;> simp [dataPut, h]

theorem dataGet_bytes (s : State) (i : Initiator) (r : RegAddr) (n : Nat) (ht : r.ty = .eth ∨ r.ty = .mvb ∨ r.ty = .bse) :
    dataGet s i r n = respOk s (BitVec.ofNat 64 (leNat (dpBytes s (rkey r) n))) := by
  rcases ht with h | h | h <;> simp [dataGet, h]

/-- A data page of the error log shows the ring's entries (R49). -/
theorem dataGet_errorLog (s : State) (i : Initiator) (r : RegAddr) (n : Nat) (ht : r.ty = .err) :
    dataGet s i r n = respOk s (BitVec.ofNat 64 (leNat ((upto n).map fun k => errPageByte s (r.page - 1) (r.off + k)))) := by
  simp [dataGet, ht]

/-- A write of a storage window goes to the device while its link is up (R406). -/
theorem dataPut_storage (s : State) (i : Initiator) (r : RegAddr) (l : List Byte) (ht : r.ty = .spa) (hu : (getSpa s r.inst).up = true) :
    dataPut s i r l = { s with sent := .tlp (2 + r.inst) true 0 (spaDevAddr s r) l } := by
  simp [dataPut, ht, hu]

/-- A read of a storage window asks the device, which returns a free value. -/
theorem dataGet_storage (s : State) (i : Initiator) (r : RegAddr) (n : Nat) (ht : r.ty = .spa) (hu : (getSpa s r.inst).up = true) :
    dataGet s i r n = respOk { (takeFree s).2 with sent := .tlp (2 + r.inst) false 0 (spaDevAddr s r) [] }
      (BitVec.ofNat 64 (Config.freeNat s.freeCtr % 2 ^ (8 * n))) := by
  simp only [dataGet, ht, hu, if_true]
  rfl

/-! ## Core windows -/

/-- A write of a TCM through its core's window that is not refused stores its bytes (R36). -/
theorem aliasWrite_stored (s : State) (i : Initiator) (c off : Nat) (l : List Byte) (m : Bool) (u : State) (ho : off < 0xF0000)
    (hr : windowRefuses s i c off l.length = none) (hw : (memWrite s (aliasAddr c off) l false).toOption = some u) :
    aliasWrite s i c off l m = respOk u 0 := by
  have hn : ¬(0xF0000 ≤ off ∧ (!cutOff s i .core c) = true) := fun h => by omega
  rw [aliasWrite, if_neg hn, hr]
  cases hm : memWrite s (aliasAddr c off) l false with
  | error e => rw [hm] at hw; cases hw
  | ok t => rw [hm] at hw; cases hw; rfl

/-- A read of a TCM through its core's window that is not refused answers its bytes, a poisoned line as POISON (R36). -/
theorem aliasRead_read (s : State) (i : Initiator) (c off n : Nat) (l : List Byte) (p : Bool) (ho : off < 0xF0000)
    (hr : windowRefuses s i c off n = none) (hm : memRead s (aliasAddr c off) n = .data l p) :
    aliasRead s i c off n = if p then respErr s ePOISON else respOk s (BitVec.ofNat 64 (leNat l)) := by
  have hn : ¬(0xF0000 ≤ off ∧ (!cutOff s i .core c) = true) := fun h => by omega
  rw [aliasRead, if_neg hn, hr, hm]

/-! ## The commands -/

theorem exec_readClear (s : State) (i : Initiator) (r : RegAddr) (width : Nat) :
    exec (.readClear i r width) s = .next (readReg s i r width) := rfl

theorem exec_evtSet (s : State) (i : Initiator) (r : RegAddr) (v : W32) (hd : isDataPage r.ty r.inst r.page = false) :
    exec (.evtSet i r v) s = .next (writeReg s i { r with off := 0x018 } 32 (w32 v) false) :=
  congrArg Host.Outcome.next (if_neg (by simp [hd]))

theorem exec_evtClear (s : State) (i : Initiator) (r : RegAddr) (v : W32) (hd : isDataPage r.ty r.inst r.page = false) :
    exec (.evtClear i r v) s = .next (writeReg s i { r with off := 0x01C } 32 (w32 v) false) :=
  congrArg Host.Outcome.next (if_neg (by simp [hd]))

theorem exec_absentPage (s : State) (i : Initiator) (r : RegAddr) (write : Bool) (h : unreachable s r.ty r.inst = true) :
    exec (.absentBlockAccess i (.page r) write) s = .next (absentAccess s i r) :=
  congrArg Host.Outcome.next (if_pos h)

theorem exec_absentWindow (s : State) (i : Initiator) (c : CoreId) (off : BitVec 20) (write : Bool)
    (h : unreachable s .core c = true) :
    exec (.absentBlockAccess i (.window c off) write) s = .next (windowErr s i c off.toNat eABSENT) :=
  congrArg Host.Outcome.next (if_pos h)

theorem exec_aliasWrite (s : State) (i : Initiator) (c : CoreId) (off : BitVec 20) (width : Nat) (v : Word) :
    exec (.globalAliasAccess i c off width (some v)) s = .next (aliasWrite s i c off.toNat (leBytes (width / 8) v.toNat) false) := rfl

theorem exec_aliasRead (s : State) (i : Initiator) (c : CoreId) (off : BitVec 20) (width : Nat) :
    exec (.globalAliasAccess i c off width none) s = .next (aliasRead s i c off.toNat (width / 8)) := rfl

theorem exec_debugViewRead (s : State) (p : Part) (r : RegAddr) (width : Nat) (hd : isDataPage r.ty r.inst r.page = false) :
    exec (.debugViewRead p r width) s = .next (readReg s (viewIni p) r width) :=
  congrArg Host.Outcome.next (if_neg (by simp [hd]))

/-- A write of an error-log data page is refused (R49). -/
theorem exec_errDataPageWrite (s : State) (i : Initiator) (page : Fin 64) (off : BitVec 12) (width : Nat) (v : Word)
    (ha : Safety.Accepted s i ⟨.err, 0, 1 + page.val, off.toNat⟩) (hw : dataWidthOk off.toNat width = true) :
    exec (.errDataPageWrite i page off width v) s =
      .next (failAccess (respOk s 0) i ⟨.err, 0, 1 + page.val, off.toNat⟩ cREFUSED) := by
  show Host.Outcome.next (regWrite s i _ (dataWidthOk off.toNat width) true _) = _
  rw [hw, regWrite_accepted s i _ _ ha]
  rfl

/-- A write of the Ammin table is refused and leaves the table (R51; log entries 32 and 37). -/
theorem exec_amminWrite (s : State) (i : Initiator) (off : BitVec 16) (width : Nat) (v : Word) :
    ∃ t, exec (.amminWrite i off width v) s = .next t ∧ t.resp = .err cREFUSED ∧ t.ammin = s.ammin :=
  ⟨amminRefuse s i off.toNat, rfl, rfl, by simp [amminRefuse]⟩

/-- A debug-view read is answered with what the register shows and changes nothing else (R484). -/
theorem readReg_view (s : State) (p : Part) (r : RegAddr) (width : Nat) (hc : cutOff s (viewIni p) r.ty r.inst = false)
    (hw : widthOk r width = true) (hs : isHsem r = false) (hr : reaches s (viewIni p) r = true)
    (hb : readCause s (viewIni p) r = none) (ht : r.ty ≠ .spa) :
    readReg s (viewIni p) r width = respOk s (shownOrLens s (viewIni p) r) := by
  have hi : isDebugView (viewIni p) = true := rfl
  rw [readReg_shown s (viewIni p) r width hc hw hs (by simp [hi]) hr hb ht, if_pos hi]

/-- Settles O3: each clause cites the lemma above about its command, and reads its effect off the state that the lemma names. -/
theorem pageCommandsComplete : Obligations.PageCommandsComplete := by
  unfold Obligations.PageCommandsComplete
  refine ⟨?readClear, ?evtSet, ?evtClear, ?dataWrite, ?dataRead, ?logRead, ?storage, ?absentPage, ?absentWindow, ?aliasWrite,
    ?aliasRead, ?debugView, ?logWrite, fun s i off width v => exec_amminWrite s i off width v⟩
  case readClear =>
    intro s i r row width hc hr hw hi ht ho hn hf hrc
    rw [exec_readClear, readReg_readClear s i r row width hc hr hw hi ht ho hn hf hrc]
    exact ⟨_, rfl, rfl, rd_wr_same _ _ _, fun q hq => rd_wr_ne _ _ _ _ hq⟩
  case evtSet =>
    rintro s i b n page off v _ _ hd hc hr hm hp hn rfl rfl
    rw [exec_evtSet s i _ v hd, writeReg_common s i _ _ _ hd hc ⟨hr, hm, hp⟩ (by simp) (by simp),
      show commonWrite s ⟨b, n, page, 0x018⟩ (w32 v) = _ from evtBits_effect s _ _ true hn]
    exact ⟨_, rfl, rd_setEvt_status .., rfl, rd_setEvt_enable ..⟩
  case evtClear =>
    rintro s i b n page off v _ _ hd hc hr hm hp hn rfl rfl
    rw [exec_evtClear s i _ v hd, writeReg_common s i _ _ _ hd hc ⟨hr, hm, hp⟩ (by simp) (by simp),
      show commonWrite s ⟨b, n, page, 0x01C⟩ (w32 v) = _ from evtBits_effect s _ _ false hn]
    exact ⟨_, rfl, rd_setEvt_status .., rfl, rd_setEvt_enable ..⟩
  case dataWrite =>
    intro s i r width v hd ht ha hw
    rw [exec_dataPageAccess s i r width _ hd, dataAccess_write ha hw, dataPut_bytes _ i r _ ht, dpWrite_respOk]
    exact ⟨_, rfl, rfl, rfl⟩
  case dataRead =>
    intro s i r width hd ht ha hw
    rw [exec_dataPageAccess s i r width _ hd, dataAccess_read ha hw, dataGet_bytes s i r _ ht]
  case logRead =>
    intro s i r width ht hp ha hw
    have hd : isDataPage r.ty r.inst r.page = true := by simp [isDataPage, ht, hp]
    rw [exec_dataPageAccess s i r width _ hd, dataAccess_read ha hw, dataGet_errorLog s i r _ ht]
  case storage =>
    intro s i r width v ht hp ha hw hu
    have hd : isDataPage r.ty r.inst r.page = true := by simp [isDataPage, ht, hp]
    rw [exec_dataPageAccess s i r width _ hd, exec_dataPageAccess s i r width _ hd, dataAccess_write ha hw,
      dataAccess_read ha hw, dataPut_storage _ i r _ ht (by simpa using hu), dataGet_storage s i r _ ht hu]
    exact ⟨⟨_, rfl, rfl, rfl⟩, _, rfl, rfl, rfl⟩
  case absentPage =>
    intro s i r write h
    exact ⟨_, exec_absentPage s i r write h, absentAccess_unreachable s i r h⟩
  case absentWindow =>
    intro s i c off write h
    exact ⟨_, exec_absentWindow s i c off write h, windowErr_answers s i c off.toNat eABSENT⟩
  case aliasWrite =>
    intro s i c off width v u ho hr hm hl
    rw [exec_aliasWrite, aliasWrite_stored s i c off.toNat _ _ u ho (by rw [hl]; exact hr) hm]
  case aliasRead =>
    intro s i c off width l p ho hr hm
    rw [exec_aliasRead, aliasRead_read s i c off.toNat _ l p ho hr hm]
  case debugView =>
    intro s p r width hd hc hw hs hr hb ht
    rw [exec_debugViewRead s p r width hd, readReg_view s p r width hc hw hs hr hb ht]
  case logWrite =>
    intro s i page off width v ha hw
    exact ⟨_, exec_errDataPageWrite s i page off width v ha hw, failAccess_resp .., failAccess_ring .., failAccess_pageBytes ..⟩

end Sys2Proof.Machine
end

section
/-! PROOFS of O22 and O32. Releases, exceptions, partitions, power and hold-up: what each command comes to in the state it finds (R30, R31,
R172, R226 to R230, R239, R254 to R258, R434 to R442). -/

namespace Sys2Proof.Machine

/-- An accepted write of the privilege it asks for completes with the effect that its block's state rule gives. -/
theorem next_regWriteOpt_accepted {s u : State} {i : Initiator} {r : RegAddr} {p : Bool} {f : State → Option State}
    (h : Safety.Accepted s i r ∧ p = true) (hf : f (respOk s 0) = some u) :
    (Host.Outcome.next (regWriteOpt s i r p f) : Out) = .next u := by
  obtain ⟨ha, rfl⟩ := h
  rw [regWriteOpt_accepted s i r f u ha hf]

/-! ## Exceptions -/

/-- A wait that ends by time-out changes nothing where no WAIT holds. -/
theorem exec_mcWaitTimeout_noWait (s : State) (c : CoreId) (h : (getCore s c).useq = none) : exec (.mcWaitTimeout c) s = .next s := by
  show execMcWaitTimeout c s = _
  simp only [execMcWaitTimeout, h]

/-- A WAIT that holds on a running core is left at NEXT, and counted (R239). -/
theorem exec_mcWaitTimeout_waiting (s : State) (c : CoreId) (q : Useq) (hr : (getCore s c).running = true)
    (h : (getCore s c).useq = some q) :
    exec (.mcWaitTimeout c) s =
      .next (leaveWait (countReg s (Reg.MC_TOCNT c)) c (uNext (microWord (getCore s c) q.addr))) := by
  show execMcWaitTimeout c s = _
  simp only [execMcWaitTimeout, h, hr, Bool.not_true, Bool.false_eq_true, if_false]

/-- Settles O22: a write completes by `next_regWriteOpt_accepted`; each event finds the state that its rule asks for. -/
theorem exceptionAndPartitionCommandsComplete : Obligations.ExceptionAndPartitionCommandsComplete := by
  unfold Obligations.ExceptionAndPartitionCommandsComplete
  refine ⟨?release, ?releaseDark, ?lstart, ?lend, ?lcount, ?imprecise, ?storeError, ?machineCheck, exec_mcWaitTimeout_noWait,
    exec_mcWaitTimeout_waiting, ?start, ?stop, ?stopDone, ?cores, ?modes, ?ways, ?timing⟩
  case release =>
    intro s i c u h hu
    have hd : ¬ releaseDark s i c = true := by simp [releaseDark_of_reached s i c h.1.1]
    exact (congrArg Host.Outcome.next (if_neg hd)).trans (next_regWriteOpt_accepted h hu)
  case releaseDark => exact fun s i c h => congrArg Host.Outcome.next (if_pos h)
  case lstart => exact fun s i c l k v u h hu => next_regWriteOpt_accepted h hu
  case lend => exact fun s i c l k v u h hu => next_regWriteOpt_accepted h hu
  case lcount => exact fun s i c l k v u h hu => next_regWriteOpt_accepted h hu
  case imprecise =>
    intro s c h hi
    have he : ((getCore s c).bank (getCore s c).cur).imprecise.isEmpty = false := by simpa [curBank] using hi
    exact congrArg Host.Outcome.next (if_pos (by simp [h, he]))
  case storeError => exact fun s c l addr absent h => congrArg Host.Outcome.next (if_pos h)
  case machineCheck => exact fun s c h => congrArg Host.Outcome.next (if_neg (by simp [h]))
  case start => exact fun s i p same u h hu => next_regWriteOpt_accepted h hu
  case stop => exact fun s i p u h hu => next_regWriteOpt_accepted h hu
  case stopDone => exact fun s p h => congrArg Host.Outcome.next (if_pos h)
  case cores => exact fun s i p k v u h hu => next_regWriteOpt_accepted h hu
  case modes => exact fun s i p v u h hu => next_regWriteOpt_accepted h hu
  case ways => exact fun s i p v u h hu => next_regWriteOpt_accepted h hu
  case timing =>
    intro s c hc hr h0 hb
    exact congrArg Host.Outcome.next (if_pos (by simp only [hc, hr, h0, hb, decide_true, beq_self_eq_true, Bool.and_self]))

/-! ## Power samples (R437, R442) -/

/-- Above 98 % of the envelope the highest-coded cluster domain above its floor is lowered by one code. -/
theorem exec_pwrSample_lowers (s : State) (power d : Nat)
    (h : 98 * envelopeW (powerTake s power) * powerCnt (powerTake s power) < 100 * powerSum (powerTake s power))
    (hd : ((clusters (powerTake s power)).reverse.find? fun d => clkFloor (powerTake s power) < clkCur (powerTake s power) d) = some d) :
    exec (.pwrSample power) s = .next (setClk (powerTake s power) d (clkCur (powerTake s power) d - 1)) := by
  show execPwrSample power s = _
  simp only [execPwrSample, if_pos h, hd]

/-- At 95 % of the envelope or below, with no power-fail warning, the lowest-coded cluster domain below its limit is lifted by one code. -/
theorem exec_pwrEvaluate_lifts (s : State) (d : Nat) (hn : s.pwr.powers.isEmpty = false)
    (h : 100 * powerSum s ≤ 95 * envelopeW s * powerCnt s) (hw : pfwActive s = false)
    (hd : ((clusters s).find? fun d => clkCur s d < clkUpper s d) = some d) :
    exec .pwrEvaluate s = .next (setClk s d (clkCur s d + 1)) := by
  show execPwrEvaluate s = _
  simp only [execPwrEvaluate, hn, if_pos h, hw, hd, Bool.false_eq_true, if_false]

/-- Above the envelope with every cluster domain at its floor the overload is shown and its condition raised. -/
theorem exec_pwrEvaluate_overloads (s : State) (hn : s.pwr.powers.isEmpty = false)
    (h : ¬ 100 * powerSum s ≤ 95 * envelopeW s * powerCnt s)
    (ho : ((clusters s).all (fun d => clkCur s d ≤ clkFloor s) && envelopeW s * powerCnt s < powerSum s) = true) :
    exec .pwrEvaluate s = .next (raiseCond (wb s Reg.PWR_STATUS 0 true) .pwr 0 0 0) := by
  show execPwrEvaluate s = _
  simp only [execPwrEvaluate, hn, if_neg h, if_pos ho, Bool.false_eq_true, if_false]

/-! ## Domains that were switched (R435, R436) -/

/-- The last command on a domain is over: the power manager is free, and DOMSTAT names the domain with BUSY 0. -/
def domDone (s : State) (d : Nat) : State := domstat { s with pwr := { s.pwr with op := none } } d false

/-- A domain whose switching on runs, and whose training did not fail, reaches ON and raises its condition. -/
theorem exec_domainDone_on (s : State) (d : Nat) (hop : s.pwr.op = some (d, true))
    (hl : ¬ (isCluster d = false ∧ d < 36 ∧ linkState s (d / 3) = 1)) (hd : domSt (domDone s d) d = 2) :
    exec .domainDone s = .next (raiseCond (if isCluster d then clusterOn (setDom (domDone s d) d 3) d
      else if d = 46 then gpeForceAnew (setDom (domDone s d) d 3) else setDom (domDone s d) d 3) .pwr 0 0 1) := by
  show execDomainDone s = _
  simp only [execDomainDone, hop, if_neg hl]
  exact congrArg Host.Outcome.next (if_neg (not_not_intro hd))

/-- A domain whose switching off runs loses its power: a half of a site, the hub of a site with both its halves, or a Focal domain. -/
theorem exec_pwrDomainOffDone_off (s : State) (d : Nat) (hop : s.pwr.op = some (d, false)) :
    exec .pwrDomainOffDone s = .next (if isCluster d then clusterOff (domDone s d) d
      else if d < 36 then
        facetInit (markAbsent (linkFall (setDom (homesEmpty (clusterOff (clusterOff (domDone s d) (d - 2)) (d - 1)) (d / 3)) d 0) (d / 3))
          (d / 3)) d
      else focalOff (domDone s d) d) := by
  show execPwrDomainOffDone s = _
  simp only [execPwrDomainOffDone, hop, domDone]

/-! ## Hold-up samples (R439, R441) -/

/-- The third sample in succession below VWARN sets the power-fail warning. -/
theorem exec_hupSample_inactive (s : State) (code : BitVec 12) (h : pfwActive (hupTake s code) = false) :
    exec (.hupSample code) s = .next (if 3 ≤ (hupTake s code).pwr.below then
      pfwSet { hupTake s code with pwr := { (hupTake s code).pwr with above := 0 } } true else hupTake s code) := by
  show execHupSample code s = _
  simp [execHupSample, h]

/-- The hundredth sample in succession at VWARN + VHYST or above clears it. -/
theorem exec_hupSample_active (s : State) (code : BitVec 12) (h : pfwActive (hupTake s code) = true) :
    exec (.hupSample code) s = .next (if 100 ≤ (hupTake s code).pwr.above then
      pfwSet { hupTake s code with pwr := { (hupTake s code).pwr with below := 0 } } false else hupTake s code) := by
  show execHupSample code s = _
  simp [execHupSample, h]

/-- Settles O32: a write completes by `next_regWriteOpt_accepted`; each other clause picks its branch of the command's lemma above. -/
theorem powerAndHoldUpCommandsComplete : Obligations.PowerAndHoldUpCommandsComplete := by
  unfold Obligations.PowerAndHoldUpCommandsComplete
  refine ⟨?envelope, ?emission, ?emissionDone, ?within, ?lowers, exec_pwrEvaluate_lifts, exec_pwrEvaluate_overloads, ?switchOn, ?switchOff,
    ?clusterOn, ?otherOn, ?clusterOff, ?siteOff, ?focalOff, ?aboveWarn, ?warn, ?clear, ?belowClear⟩
  case envelope => exact fun s i v u h hu => next_regWriteOpt_accepted h hu
  case emission => exact fun s i v u h hu => next_regWriteOpt_accepted h hu
  case emissionDone => exact fun s h => congrArg Host.Outcome.next (if_pos h)
  case within =>
    rintro s power _ rfl h
    exact congrArg Host.Outcome.next (if_neg h)
  case lowers =>
    rintro s power d _ rfl h hd
    exact exec_pwrSample_lowers s power d h hd
  case switchOn => exact fun s i d u h hu => next_regWriteOpt_accepted h hu
  case switchOff => exact fun s i d u h hu => next_regWriteOpt_accepted h hu
  case clusterOn =>
    rintro s d _ hop hc rfl hd
    rw [exec_domainDone_on s d hop (by simp [hc]) hd, if_pos hc]
    rfl
  case otherOn =>
    rintro s d _ hop hc hl rfl hd
    rw [exec_domainDone_on s d hop (fun h => hl h.2) hd, if_neg (by simp [hc])]
    rfl
  case clusterOff =>
    intro s d hop hc
    rw [exec_pwrDomainOffDone_off s d hop, if_pos hc]
    rfl
  case siteOff =>
    rintro s d _ hop hc hd rfl
    rw [exec_pwrDomainOffDone_off s d hop, if_neg (by simp [hc]), if_pos hd]
    rfl
  case focalOff =>
    intro s d hop hc hd
    rw [exec_pwrDomainOffDone_off s d hop, if_neg (by simp [hc]), if_neg hd]
    rfl
  case aboveWarn =>
    rintro s code _ rfl hw h
    rw [exec_hupSample_inactive s code hw, if_neg (Nat.not_le.2 h)]
  case warn =>
    rintro s code _ rfl hw h
    rw [exec_hupSample_inactive s code hw, if_pos h]
  case clear =>
    rintro s code _ rfl hw h
    rw [exec_hupSample_active s code hw, if_pos h]
  case belowClear =>
    rintro s code _ rfl hw h
    rw [exec_hupSample_active s code hw, if_neg (Nat.not_le.2 h)]

end Sys2Proof.Machine
end

section
/-! PROOFS of O4. The error log takes a staged cause, copies it and is configured; the Ammin table is built (R46, R48, R50). -/

namespace Sys2Proof.Machine

/-! ## One entry enters the ring (R46) -/

/-- An unread entry overwritten raises its condition and is counted, which leaves EN of ERR_COPY. -/
theorem rb_errLost_copyEn (s : State) :
    rb (raiseCond (countReg s Reg.ERR_LOST) .err 0 0 1) Reg.ERR_COPY 0 = rb s Reg.ERR_COPY 0 := by
  rw [rb_raiseCond_off _ _ _ _ _ _ _ (by decide) (by decide) (by decide)]
  exact rb_wr_ne _ _ _ _ _ (by decide)

/-- The cause written leaves staging, its slot of the ring holds it, and with EN at 1 it waits for its copy. -/
theorem errWrite_err (s : State) (e : ErrRec) : (errWrite s e).err =
    { staging := s.err.staging.erase e
      ring := s.err.ring.set (nextSeq s % 4096) (nextSeq s, e)
      toCopy := if rb s Reg.ERR_COPY 0 then s.err.toCopy ++ [(nextSeq s, e)] else s.err.toCopy } := by
  unfold errWrite
  dsimp only
  cases s.err.ring.get? (nextSeq s % 4096) with
  | none => dsimp only; split <;> simp
  | some old => dsimp only; split <;> split <;> simp [rb_errLost_copyEn]

theorem rd_errWrite_headSeq (s : State) (e : ErrRec) : rd (errWrite s e) Reg.ERR_HEADSEQ = BitVec.ofNat 64 (nextSeq s) := by
  unfold errWrite
  dsimp only
  split
  · rw [rd_raiseCond_off _ _ _ _ _ _ (by decide) (by decide) (by decide), rd_wr_ne _ _ _ _ (by decide), rd_wr_same]
  · rw [rd_wr_ne _ _ _ _ (by decide), rd_wr_same]

theorem exec_errorLogEntryWrite (s : State) (e : ErrRec) (h : errPick s.err.staging = some e) :
    exec .errorLogEntryWrite s = .next (errWrite s e) := by
  show execErrorLogEntryWrite s = _
  simp only [execErrorLogEntryWrite, h, ok]

/-! ## The copy in DRAM (R48) -/

/-- What succeeds as an option succeeded. -/
theorem eq_ok_of_toOption {ε α : Type} {x : Except ε α} {a : α} (h : x.toOption = some a) : x = .ok a := by
  cases x with
  | error e => cases h
  | ok b => cases h; rfl

/-- A register reads the same whatever the error log holds. -/
theorem rd_withErr (s : State) (x : ErrLog) (q : RegAddr) : rd { s with err := x } q = rd s q := rfl

/-- While EN is 1, the copy of the first entry that waits is one write, at its slot of the ring at COPYBASE. -/
theorem exec_errCopyWrite_ok (s u : State) (seq : Nat) (e : ErrRec) (l : List (Nat × ErrRec)) (hq : s.err.toCopy = (seq, e) :: l)
    (hen : rb s Reg.ERR_COPY 0 = true)
    (hw : agWrite { s with err := { s.err with toCopy := l } } (endpointOf .err 0)
      ((rd s Reg.ERR_COPYBASE).toNat + 64 * (seq % 2 ^ rf s Reg.ERR_COPY 1 5)) (errBytes seq e) false = .ok u) :
    exec .errCopyWrite s = .next u := by
  show execErrCopyWrite s = _
  rw [rb] at hen
  rw [rf] at hw
  simp only [execErrCopyWrite, hq, rb, rf, rd_withErr, hen, hw, Bool.not_true, Bool.false_eq_true, if_false]

/-- While EN is 0, a write with a legal LOG2 and COPYBASE is taken. -/
theorem errCopyEffect_legal (s : State) (v : Word) (hl : 12 ≤ fld v 1 5 ∧ fld v 1 5 ≤ 24)
    (ha : (rd s Reg.ERR_COPYBASE).toNat % (64 * 2 ^ fld v 1 5) = 0)
    (hc : (rd s Reg.ERR_COPYBASE).toNat + 64 * 2 ^ fld v 1 5 ≤ dramCapacity s) (hen : rb s Reg.ERR_COPY 0 = false) :
    errCopyEffect s v = some (wr s Reg.ERR_COPY (BitVec.ofNat 64 (fld v 0 6 + 2 ^ 6 * (rb s Reg.ERR_COPY 6 && !bit v 6).toNat))) := by
  simp [errCopyEffect, hl, ha, hc, hen]

/-- Settles O4: the rules above for the error log; the Ammin table is built where none of the conditions that put it off holds. -/
theorem errorLogCommandsComplete : Obligations.ErrorLogCommandsComplete := by
  unfold Obligations.ErrorLogCommandsComplete
  refine ⟨?entry, ?copy, ?config, ?table⟩
  case entry =>
    intro s e h
    refine ⟨_, exec_errorLogEntryWrite s e h, rd_errWrite_headSeq s e, ?staging, ?ring⟩
    case staging => rw [errWrite_err]
    case ring => rw [errWrite_err, Tbl.get?_set_same]
  case copy =>
    intro s u seq e l hq hen hw
    exact exec_errCopyWrite_ok s u seq e l hq hen (eq_ok_of_toOption hw)
  case config =>
    intro s i v h hl ha hc hen
    exact ⟨_, next_regWriteOpt_accepted h (errCopyEffect_legal (respOk s 0) (w32 v) hl ha hc hen), rfl, rd_wr_same _ _ _⟩
  case table =>
    rintro s _ _ hn hr hp hc hl rfl rfl
    exact congrArg Host.Outcome.next (if_neg (by simp [hn, hr, hp, hc, hl]))

end Sys2Proof.Machine
end

section
/-! PROOFS of O5. Encoders, the ticks of the sources and the nanosecond (R56 to R60, R68, R409, R517); before them what the commands of the
field I/O share. -/

namespace Sys2Proof.Machine

/-! ## What the commands of the field I/O share -/

/-- While HUB_FIO is ON, a step of the field I/O completes with its effect. -/
theorem next_inFio {s u : State} {f : State → State} (h : domOn s 46 = true) (hf : f s = u) : inFio s f = .next u := by
  rw [inFio, if_pos h, hf]

/-- An accepted write that no state rule of its block refuses completes with its effect. -/
theorem next_regWrite_accepted {s u : State} {i : Initiator} {r : RegAddr} {eff : State → State} (h : Safety.Accepted s i r)
    (hf : eff (respOk s 0) = u) : (Host.Outcome.next (regWrite s i r true true eff) : Out) = .next u := by
  rw [regWrite_accepted s i r eff h, hf]

/-- Registers at different offsets of their pages are held under different keys. -/
theorem rkey_ne_of_off {r q : RegAddr} (h : r.off % 4096 ≠ q.off % 4096) : rkey r ≠ rkey q := by
  simp only [rkey]
  omega

/-! ## Encoders (R58, R59, R517) -/

section

variable {s : State} {e : Nat}

/-- Where the filter time of line A has ended, B is accepted with it if its own has ended too; the stamp is that of A. -/
theorem encAcceptAB_aDue (ha : (getEnc s e).a.due s.time (encFilt s e) = true) :
    encAcceptAB s e = encStep (setEnc s e { getEnc s e with
        a := (getEnc s e).a.take, b := if (getEnc s e).b.due s.time (encFilt s e) then (getEnc s e).b.take else (getEnc s e).b }) e
      (encPos (rd s (Reg.ENC_CTL e)) (getEnc s e))
      (encPos (rd s (Reg.ENC_CTL e)) { getEnc s e with
        a := (getEnc s e).a.take, b := if (getEnc s e).b.due s.time (encFilt s e) then (getEnc s e).b.take else (getEnc s e).b })
      ((getEnc s e).a.first.getD s.time) := by
  simp only [encAcceptAB, ha, if_true]

/-- Where the filter time of line B alone has ended, B alone is accepted, stamped at its own first transition. -/
theorem encAcceptAB_bDue (ha : (getEnc s e).a.due s.time (encFilt s e) = false)
    (hb : (getEnc s e).b.due s.time (encFilt s e) = true) :
    encAcceptAB s e = encStep (setEnc s e { getEnc s e with b := (getEnc s e).b.take }) e
      (encPos (rd s (Reg.ENC_CTL e)) (getEnc s e)) (encPos (rd s (Reg.ENC_CTL e)) { getEnc s e with b := (getEnc s e).b.take })
      ((getEnc s e).b.first.getD s.time) := by
  simp only [encAcceptAB, ha, hb, if_true, Bool.false_eq_true, if_false]

theorem encAcceptZ_due (h : (getEnc s e).z.due s.time (encFilt s e) = true) :
    encAcceptZ s e = wb (setEnc s e { getEnc s e with
        z := (getEnc s e).z.take, zRise := (getEnc s e).z.take.acc != rb s (Reg.ENC_CTL e) 14 })
      (Reg.ENC_STATUS e) 16 ((getEnc s e).z.take.acc != rb s (Reg.ENC_CTL e) 14) := by
  simp only [encAcceptZ, h, Bool.not_true, Bool.false_eq_true, if_false]

end

section

variable (s : State) (i : Initiator) (e : Nat) (v : Word)

/-- ENC_CTL takes its 16 bits with FILT held at 1000. -/
theorem rd_encCtlEffect :
    rd (encCtlEffect s i e v) (Reg.ENC_CTL e) = setFld (BitVec.ofNat 64 (fld v 0 16)) 0 10 (min 1000 (fld v 0 10)) := by
  have hk : rkey (Reg.ENC_STATUS e) ≠ rkey (Reg.ENC_CTL e) := fun h => absurd (rkey_inj_off h) (by omega)
  simp only [encCtlEffect]
  rw [rd_wb_ne _ _ _ _ _ hk, rd_wr_same]

/-- FILT reads 1000 after a write of more. -/
theorem filt_encCtlEffect (h : 1000 < fld v 0 10) : rf (encCtlEffect s i e v) (Reg.ENC_CTL e) 0 10 = 1000 := by
  rw [rf, rd_encCtlEffect, fld_setFld_same _ _ _ _ (by omega), Nat.min_eq_left (by omega), Nat.mod_eq_of_lt (by omega)]

/-- A write of a FILT within its range makes no note of CLAMP. -/
theorem encCtlEffect_inRange (h : fld v 0 10 ≤ 1000) :
    encCtlEffect s i e v = wb (wr s (Reg.ENC_CTL e) (setFld (BitVec.ofNat 64 (fld v 0 16)) 0 10 (min 1000 (fld v 0 10))))
      (Reg.ENC_STATUS e) 16
      ((getEnc s e).z.acc != bit (setFld (BitVec.ofNat 64 (fld v 0 16)) 0 10 (min 1000 (fld v 0 10))) 14) := by
  simp only [encCtlEffect, if_neg (Nat.not_lt.2 h)]
  rfl

end

/-! ## Ticks (R57, R68, R409) -/

/-- A new microsecond of an enabled MAC clock is a tick for every time base of that clock. -/
theorem exec_tbAsTick_new (s : State) (m : Fin 12) (c : PtpClk) (h : domOn s 46 = true) (hc : s.ptp[m.val]? = some c)
    (hen : rb s (Reg.ETH_PTP_CTL m) 0 = true) (hus : macT s m / 1000 ≠ c.us) :
    exec (.tbAsTick m) s = .next ((tbsOf s 4 m).foldl (fun t n => giveTick t n (scaledTick t n (macT t m)))
      { s with ptp := listSet s.ptp m { c with us := macT s m / 1000 } }) := by
  show execTbAsTick m s = _
  refine next_inFio h ?_
  simp only [hc, hen, bne_iff_ne.2 hus, Bool.and_self, if_true]
  rfl

/-- Settles O5: `nanosecond_time` for the nanosecond; each line of an encoder by its lemma above; a tick is given where its source runs. -/
theorem encoderAndTickCommandsComplete : Obligations.EncoderAndTickCommandsComplete := by
  unfold Obligations.EncoderAndTickCommandsComplete
  refine ⟨?nanosecond, ?edgeA, ?edgeB, ?edgeZ, ?acceptA, ?acceptAB, ?acceptB, ?acceptBB, ?acceptZ, ?index, ?ctl, ?clamp, ?sdp,
    exec_tbAsTick_new, ?ref⟩
  case nanosecond => exact fun s h => ⟨nanosecond s, rfl, nanosecond_time s h⟩
  case edgeA => exact fun s e level h => (next_inFio h rfl : execEncEdge e .a level s = _)
  case edgeB => exact fun s e level h => (next_inFio h rfl : execEncEdge e .b level s = _)
  case edgeZ => exact fun s e level h => (next_inFio h rfl : execEncEdge e .z level s = _)
  case acceptA => exact fun s e h ha => (next_inFio h (encAcceptAB_aDue ha) : execEncFilterAccept e .a s = _)
  case acceptAB => exact fun s e h ha hb => (next_inFio h (encAcceptAB_bDue ha hb) : execEncFilterAccept e .a s = _)
  case acceptB => exact fun s e h ha => (next_inFio h (encAcceptAB_aDue ha) : execEncFilterAccept e .b s = _)
  case acceptBB => exact fun s e h ha hb => (next_inFio h (encAcceptAB_bDue ha hb) : execEncFilterAccept e .b s = _)
  case acceptZ =>
    rintro s e _ h hz rfl
    exact (next_inFio h (encAcceptZ_due hz) : execEncFilterAccept e .z s = _)
  case index => exact fun s e h hz => next_inFio h (if_pos hz)
  case ctl =>
    intro s i e v h hf
    refine ⟨_, next_regWrite_accepted h rfl, ?resp, rd_encCtlEffect _ i e _, ?level⟩
    case resp =>
      show (encCtlEffect (respOk s 0) i e (w32 v)).resp = _
      rw [encCtlEffect_inRange _ i e _ hf]
      rfl
    case level =>
      show rb (encCtlEffect (respOk s 0) i e (w32 v)) _ 16 = _
      rw [encCtlEffect_inRange _ i e _ hf, rb_wb_same _ _ _ _ (by omega)]
      rfl
  case clamp => exact fun s i e v h hf => ⟨_, next_regWrite_accepted h rfl, filt_encCtlEffect _ i e _ hf⟩
  case sdp => exact fun s k phase h hen hl => next_inFio h (if_pos (by simp [hen, hl]))
  case ref => exact fun s h ht => next_inFio h (if_pos ht)

end Sys2Proof.Machine
end

section
/-! PROOFS of O6. Time bases, supply-phase PLLs and the axle comparator (R62 to R68, R71, R81). -/

namespace Sys2Proof.Machine

/-! ## Time bases in time (R62, R64, R65) -/

section

variable {s : State} {n : Nat}

theorem tbStandstillNow_due (he : tbEn s n = true) (hs : tbSrc s n = 1) (ht : (getTb s n).st = .tracking)
    (hn : (getTb s n).standstill = false) (hd : (getTb s n).tLast + (getTb s n).force.timeout ≤ s.time) :
    tbStandstillNow s n = raiseCond (setTb s n { getTb s n with standstill := true, rate := 0 }) .tbu 0 (n + 1) 2 :=
  if_pos (by simp [he, hs, ht, hn, hd])

theorem tbTimeoutNow_due (he : tbEn s n = true) (hs : 2 ≤ tbSrc s n) (ht : (getTb s n).st = .tracking)
    (hd : (getTb s n).tLast + (getTb s n).force.timeout ≤ s.time) :
    tbTimeoutNow s n = tbGoto s n (if (getTb s n).force.hold = 0 then .failed else .holdover) :=
  if_pos (by simp [he, hs, ht, hd])

theorem tbHoldNow_due (ht : (getTb s n).st = .holdover) (hd : (getTb s n).entered + 1000 * (getTb s n).force.hold ≤ s.time) :
    tbHoldNow s n = tbGoto s n .failed :=
  if_pos (by simp [ht, hd])

theorem tbGrowNow_due (ht : (getTb s n).st = .holdover) (hd : (getTb s n).grown < (s.time - (getTb s n).entered) / 1000) :
    tbGrowNow s n = setTb s n { getTb s n with
      unc := min 0xFFFFFFFFFFFFFFFF ((getTb s n).unc + (getTb s n).force.growth), grown := (getTb s n).grown + 1 } :=
  if_pos (by simp [ht, hd])

end

/-! ## Writes of a time base (R63, R64, R81, R93) -/

section

variable {s : State} {n : Nat} {v new : Word} (hn : new = BitVec.ofNat 64 (v.toNat % 2 ^ 15 + (if bit v 16 then 2 ^ 16 else 0)))
  (hs : tbSrcOk (fld new 1 3) (fld new 4 4) = true)
include hn hs

/-- While EN is 0, a write of TB_CTL that sets it enters UNLOCKED. -/
theorem tbCtlWrite_enables (hold : rb s (Reg.TB_CTL n) 0 = false) (hen : bit new 0 = true) :
    tbCtlWrite s n v = some (tbRestart (wr s (Reg.TB_CTL n) new) n) := by
  rw [rb] at hold
  simp only [tbCtlWrite, ← hn, hs, hold, hen, Bool.not_true, Bool.not_false, Bool.false_and, Bool.true_or, Bool.false_eq_true,
    if_false, if_true]

section

variable (hold : rb s (Reg.TB_CTL n) 0 = true) (h1 : fld new 1 3 = tbSrc s n) (h2 : fld new 4 4 = tbIdx s n)
  (h3 : fld new 12 2 = rf s (Reg.TB_CTL n) 12 2)
include hold h1 h2 h3

/-- While EN is 1, a write of TB_CTL that leaves the source, its index and the index mode is taken. -/
theorem tbCtlWrite_running :
    tbCtlWrite s n v = some (if bit new 0 then (if bit v 15 then tbRestart (wr s (Reg.TB_CTL n) new) n else wr s (Reg.TB_CTL n) new)
      else tbStop (wr s (Reg.TB_CTL n) new) n) := by
  rw [tbSrc, rf] at h1
  rw [tbIdx, rf] at h2
  rw [rf] at h3
  rw [rb] at hold
  rw [h1, h2] at hs
  simp only [tbCtlWrite, ← hn, hs, hold, h1, h2, h3, bne_self_eq_false, Bool.or_false, Bool.and_false, Bool.not_true, Bool.false_or,
    Bool.false_eq_true, if_false, if_true]
  cases bit new 0 <;> cases bit v 15 <;> rfl

theorem tbCtlWrite_stops (hen : bit new 0 = false) : tbCtlWrite s n v = some (tbStop (wr s (Reg.TB_CTL n) new) n) := by
  rw [tbCtlWrite_running hn hs hold h1 h2 h3, hen]
  rfl

theorem tbCtlWrite_restarts (hen : bit new 0 = true) (hr : bit v 15 = true) :
    tbCtlWrite s n v = some (tbRestart (wr s (Reg.TB_CTL n) new) n) := by
  rw [tbCtlWrite_running hn hs hold h1 h2 h3, hen, hr]
  rfl

end

end

theorem rd_captureEffect_phase (s : State) (n : Nat) : rd (captureEffect s n) (Reg.TB_CAP_PHASE n) = (getTb s n).phase := by
  have hk : rkey (Reg.TB_CAP_TIME n) ≠ rkey (Reg.TB_CAP_PHASE n) := rkey_ne_of_off (by simp [Reg.TB_CAP_TIME, Reg.TB_CAP_PHASE])
  rw [captureEffect, rd_wr_ne _ _ _ _ hk, rd_wr_same]

theorem rd_captureEffect_time (s : State) (n : Nat) : rd (captureEffect s n) (Reg.TB_CAP_TIME n) = BitVec.ofNat 64 s.time :=
  rd_wr_same _ _ _

/-! ## Supply-phase PLLs (R66 to R68) -/

section

variable (s : State) (k supply : Nat) (lock : Bool)

/-- A change of SUPPLY and LOCK changes SDP_STATUS and the event registers of the page alone. -/
theorem rd_sdpSet (q : RegAddr) (h : q.off < 4096) (h1 : q.off ≠ 0x010) (h2 : q.off ≠ 0x014) :
    rd (sdpSet s k supply lock) q =
      rd (wr s (Reg.SDP_STATUS k) (setBit (setFld (rd s (Reg.SDP_STATUS k)) 0 3 supply) 3 lock)) q := by
  simp only [sdpSet]
  split <;> split <;> simp only [rd_raiseCond_off _ _ _ _ _ q h h1 h2]

/-- A register beside SDP_STATUS stays. -/
theorem rd_sdpSet_ne (q : RegAddr) (h : q.off < 4096 ∧ q.off ≠ 0x010 ∧ q.off ≠ 0x014 ∧ q.off ≠ 0x114) :
    rd (sdpSet s k supply lock) q = rd s q := by
  obtain ⟨hlt, hstatus, henable, hreg⟩ := h
  have hk : rkey (Reg.SDP_STATUS k) ≠ rkey q := rkey_ne_of_off (by simp only [Reg.SDP_STATUS]; omega)
  rw [rd_sdpSet _ _ _ _ q hlt hstatus henable, rd_wr_ne _ _ _ _ hk]

theorem rd_sdpSet_status :
    rd (sdpSet s k supply lock) (Reg.SDP_STATUS k) = setBit (setFld (rd s (Reg.SDP_STATUS k)) 0 3 supply) 3 lock := by
  rw [rd_sdpSet _ _ _ _ _ (by simp [Reg.SDP_STATUS]) (by simp [Reg.SDP_STATUS]) (by simp [Reg.SDP_STATUS]), rd_wr_same]

/-- SUPPLY shows the class. -/
theorem rf_sdpSet_supply : rf (sdpSet s k supply lock) (Reg.SDP_STATUS k) 0 3 = supply % 8 := by
  rw [rf, rd_sdpSet_status, setBit, fld_setFld_ne _ _ _ _ _ _ (by omega) (by omega), fld_setFld_same _ _ _ _ (by omega)]
  rfl

theorem rb_sdpSet_lock : rb (sdpSet s k supply lock) (Reg.SDP_STATUS k) 3 = lock := by
  rw [rb, rd_sdpSet_status]
  exact bit_setFld_bit_same _ _ _ (by omega)

end

section

variable {s : State} {k : Nat}

/-- A PLL is enabled where its primary channel delivers its outputs fast enough. -/
theorem sdpCtlWrite_enables {v : Word} (hb : bit v 0 = true) (hp : sdpPrimaryOk s (fld v 1 5) = true) :
    sdpCtlWrite s k v = some (wr s (Reg.SDP_CTL k) (BitVec.ofNat 64 (fld v 0 12))) := by
  simp only [sdpCtlWrite, hb, hp, Bool.not_true, Bool.and_false, Bool.false_eq_true, if_false, if_true]

/-- A PLL that is disabled shows no supply and no lock. -/
theorem sdpCtlWrite_disables {v : Word} (hb : bit v 0 = false) :
    sdpCtlWrite s k v = some (sdpSet (wr s (Reg.SDP_CTL k) (BitVec.ofNat 64 (fld v 0 12))) k 0 false) := by
  simp only [sdpCtlWrite, hb, Bool.false_and, Bool.false_eq_true, if_false]

theorem sdpChkRun_differs {diff : Nat} (hen : rb s (Reg.SDP_CTL k) 0 = true) (hc : rb s (Reg.SDP_CTL k) 11 = true)
    (h : rf s (Reg.SDP_CHKTHR k) 0 16 * 1000000 < diff * rf s (Reg.SDP_VSCALE k) 0 32) :
    sdpChkRun s k diff = raiseCond (wb s (Reg.SDP_STATUS k) 4 true) .sdm 0 (33 + k) 2 :=
  if_pos (by simp [hen, hc, microV, vscale, h])

theorem sdpLockRun_ac {freq : Nat} (hen : rb s (Reg.SDP_CTL k) 0 = true) (hc : 3 ≤ rf s (Reg.SDP_STATUS k) 0 3) :
    sdpLockRun s k freq = sdpSet (wr s (Reg.SDP_FREQ k) (BitVec.ofNat 64 (freq % 2 ^ 32))) k (rf s (Reg.SDP_STATUS k) 0 3) true :=
  if_pos (by simp [hen, hc])

theorem sdpLossRun_low {rms : Nat} (hl : rb s (Reg.SDP_STATUS k) 3 = true)
    (h : rms * rf s (Reg.SDP_VSCALE k) 0 32 < rf s (Reg.SDP_THR2 k) 16 16 * 1000000) :
    sdpLossRun s k rms = sdpSet (wr s (Reg.SDP_VRMS k) (voltsOf s k rms)) k 0 false :=
  if_pos (by simp [hl, microV, vscale, h])

/-- The state in which an enabled PLL sets its class: its measured values are shown. -/
def sdpMeasured (s : State) (k : Nat) (mean : Int) (rms freq : Nat) : State :=
  wr (wr (wr s (Reg.SDP_VDC k) (voltsOf s k mean)) (Reg.SDP_VRMS k) (voltsOf s k rms)) (Reg.SDP_FREQ k) (BitVec.ofNat 64 (freq % 2 ^ 32))

theorem voltsOf_wr_vdc (w : Word) (x : Int) : voltsOf (wr s (Reg.SDP_VDC k) w) k x = voltsOf s k x := by
  have hk : rkey (Reg.SDP_VDC k) ≠ rkey (Reg.SDP_VSCALE k) := rkey_ne_of_off (by simp [Reg.SDP_VDC, Reg.SDP_VSCALE])
  simp only [voltsOf, vscale, rf_wr_ne _ _ _ _ _ _ hk]

section

variable (s k)
variable (mean : Int) (rms freq : Nat)

theorem rd_sdpMeasured_vdc : rd (sdpMeasured s k mean rms freq) (Reg.SDP_VDC k) = voltsOf s k mean := by
  simp [sdpMeasured, rd_wr, rkey, Reg.SDP_VDC, Reg.SDP_VRMS, Reg.SDP_FREQ]

theorem rd_sdpMeasured_vrms : rd (sdpMeasured s k mean rms freq) (Reg.SDP_VRMS k) = voltsOf s k rms := by
  simp [sdpMeasured, rd_wr, rkey, Reg.SDP_VRMS, Reg.SDP_FREQ]

theorem rd_sdpMeasured_freq : rd (sdpMeasured s k mean rms freq) (Reg.SDP_FREQ k) = BitVec.ofNat 64 (freq % 2 ^ 32) :=
  rd_wr_same _ _ _

theorem rd_sdpMeasured_status : rd (sdpMeasured s k mean rms freq) (Reg.SDP_STATUS k) = rd s (Reg.SDP_STATUS k) := by
  simp [sdpMeasured, rd_wr, rkey, Reg.SDP_VDC, Reg.SDP_VRMS, Reg.SDP_FREQ, Reg.SDP_STATUS]

end

/-- An enabled PLL shows what it measured and sets its class; a lock stays in an AC class alone. -/
theorem sdpClassifyRun_enabled {mean : Int} {rms freq : Nat} (hen : rb s (Reg.SDP_CTL k) 0 = true) :
    sdpClassifyRun s k mean rms freq = sdpSet (sdpMeasured s k mean rms freq) k (supplyClass s k mean rms freq)
      (rb s (Reg.SDP_STATUS k) 3 && 3 ≤ supplyClass s k mean rms freq) := by
  rw [show rb s (Reg.SDP_STATUS k) 3 = rb (sdpMeasured s k mean rms freq) (Reg.SDP_STATUS k) 3 by rw [rb, rb, rd_sdpMeasured_status]]
  simp only [sdpClassifyRun, hen, Bool.not_true, Bool.false_eq_true, if_false, voltsOf_wr_vdc]
  rfl

end

/-! ## The axle comparator (R71) -/

/-- The bits of two sets of 16 flags in one word, one set above the other. -/
theorem bit_flags16 (f g : Nat → Bool) {n : Nat} (h : n < 16) :
    bit (BitVec.ofNat 64 (bitsToNat ((upto 16).map f) + 2 ^ 16 * bitsToNat ((upto 16).map g))) n = f n ∧
      bit (BitVec.ofNat 64 (bitsToNat ((upto 16).map f) + 2 ^ 16 * bitsToNat ((upto 16).map g))) (16 + n) = g n := by
  have hlt : bitsToNat ((upto 16).map f) < 2 ^ 16 := by simpa [upto] using bitsToNat_lt ((upto 16).map f)
  have hflag : ∀ p : Nat → Bool, (bitsToNat ((upto 16).map p)).testBit n = p n := by
    intro p
    simp [testBit_bitsToNat, upto, h]
  constructor
  · rw [bit_ofNat _ _ (by omega), Nat.add_comm, Nat.testBit_two_pow_mul_add _ hlt, if_pos h, hflag]
  · rw [bit_ofNat _ _ (by omega), Nat.add_comm, Nat.testBit_two_pow_mul_add _ hlt, if_neg (by omega), Nat.add_sub_cancel_left, hflag]

/-- The time bases against whose median the axle comparator judges. -/
def axleTracking (s : State) : List Nat :=
  (upto 16).filter fun n => rb s Reg.TBU_AXLE_CTL n && (getTb s n).st == .tracking && tbEn s n

/-- SLIP of a time base after an evaluation, with its count of differing ones. -/
def axleSlip (s : State) (ref : Int) (n : Nat) : Bool × Nat :=
  persistBit (rb s Reg.TBU_AXLE_STATUS n) (nth s.fio.slipCnt 0 n) (max 1 (rf s Reg.TBU_AXLE_THR 16 16))
    (rb s Reg.TBU_AXLE_CTL n && decide (ref * (65536 + (rf s Reg.TBU_AXLE_THR 0 16 : Int)) < (getTb s n).rate * 65536))

/-- SLIDE likewise. -/
def axleSlide (s : State) (ref : Int) (n : Nat) : Bool × Nat :=
  persistBit (rb s Reg.TBU_AXLE_STATUS (16 + n)) (nth s.fio.slideCnt 0 n) (max 1 (rf s Reg.TBU_AXLE_THR 16 16))
    (rb s Reg.TBU_AXLE_CTL n && decide ((getTb s n).rate * 65536 < ref * (65536 - (rf s Reg.TBU_AXLE_THR 0 16 : Int))))

/-- AXLE_STATUS after an evaluation against a reference. -/
def axleWord (s : State) (ref : Int) : Word :=
  BitVec.ofNat 64 (bitsToNat ((upto 16).map fun n => (axleSlip s ref n).1) +
    2 ^ 16 * bitsToNat ((upto 16).map fun n => (axleSlide s ref n).1))

/-- With no named time base in TRACKING there is no reference: every bit and every count is 0 (log entry 93). -/
theorem axleRun_noReference {s : State} (hen : rb s Reg.TBU_AXLE_CTL 16 = true) (h : axleTracking s = []) :
    axleRun s = { wr s Reg.TBU_AXLE_STATUS 0 with
      fio := { s.fio with slipCnt := List.replicate 16 0, slideCnt := List.replicate 16 0 } } := by
  simp only [axleTracking, rb] at h
  rw [rb] at hen
  simp only [axleRun, hen, h, Bool.not_true, Bool.false_eq_true, if_false]
  rfl

/-- With a reference at VMIN or above every bit is judged; the conditions raised leave AXLE_STATUS. -/
theorem rd_axleRun_status {s : State} {ref : Int} (hen : rb s Reg.TBU_AXLE_CTL 16 = true)
    (hm : median ((axleTracking s).map fun n => (getTb s n).rate) = some ref)
    (hv : (rd s Reg.TBU_AXLE_VMIN).toInt ≤ (ref.natAbs : Int)) : rd (axleRun s) Reg.TBU_AXLE_STATUS = axleWord s ref := by
  have hraise : ∀ (t : State) (b : Bool) (k : Nat), rd (if b then raiseCond t .tbu 0 0 k else t) Reg.TBU_AXLE_STATUS =
      rd t Reg.TBU_AXLE_STATUS := by
    intro t b k
    cases b
    · rfl
    · exact rd_raiseCond_off _ _ _ _ _ _ (by decide) (by decide) (by decide)
  simp only [axleTracking, rb] at hm
  rw [rb] at hen
  simp only [axleRun, hen, hm, if_neg (Int.not_lt.2 hv), Bool.not_true, Bool.false_eq_true, if_false, hraise]
  exact rd_wr_same s Reg.TBU_AXLE_STATUS _

/-- Settles O6: each clause picks the branch of its command by a lemma above. -/
theorem timeBaseCommandsComplete : Obligations.TimeBaseCommandsComplete := by
  unfold Obligations.TimeBaseCommandsComplete
  refine ⟨?standstill, ?timeout, ?hold, ?grow, ?enable, ?disable, ?restart, ?set, ?step, ?capture, ?sdpOn, ?sdpOff, ?chk, ?classify,
    ?lock, ?loss, ?noReference, ?judged⟩
  case standstill =>
    exact fun s n h he hs ht hn hd => (next_inFio h (tbStandstillNow_due he hs ht hn hd) : execTbStandstill n s = _)
  case timeout => exact fun s n h he hs ht hd => (next_inFio h (tbTimeoutNow_due he hs ht hd) : execTbTimeout n s = _)
  case hold => exact fun s n h ht hd => (next_inFio h (tbHoldNow_due ht hd) : execTbHoldExpiry n s = _)
  case grow => exact fun s n h ht hd => (next_inFio h (tbGrowNow_due ht hd) : execTbUncGrow n s = _)
  case enable =>
    exact fun s i n v new h hn hs hold hen => next_regWriteOpt_accepted ⟨h, rfl⟩ (tbCtlWrite_enables (s := respOk s 0) hn hs hold hen)
  case disable =>
    exact fun s i n v new h hn hs hold hen h1 h2 h3 =>
      next_regWriteOpt_accepted ⟨h, rfl⟩ (tbCtlWrite_stops (s := respOk s 0) hn hs hold h1 h2 h3 hen)
  case restart =>
    exact fun s i n v new h hn hs hold hen hr h1 h2 h3 =>
      next_regWriteOpt_accepted ⟨h, rfl⟩ (tbCtlWrite_restarts (s := respOk s 0) hn hs hold h1 h2 h3 hen hr)
  case set => exact fun s i n v h => next_regWrite_accepted h rfl
  case step => exact fun s i n v h => next_regWrite_accepted h rfl
  case capture =>
    exact fun s i n h =>
      ⟨_, next_regWrite_accepted h rfl, rfl, rd_captureEffect_phase (respOk s 0) n, rd_captureEffect_time (respOk s 0) n⟩
  case sdpOn => exact fun s i k v h hb hp => next_regWriteOpt_accepted ⟨h, rfl⟩ (sdpCtlWrite_enables (s := respOk s 0) hb hp)
  case sdpOff => exact fun s i k v h hb => next_regWriteOpt_accepted ⟨h, rfl⟩ (sdpCtlWrite_disables (s := respOk s 0) hb)
  case chk => exact fun s k diff h hen hc hd => (next_inFio h (sdpChkRun_differs hen hc hd) : execSdpChkErr k diff s = _)
  case classify =>
    rintro s k mean rms freq _ h hen rfl
    refine ⟨_, (next_inFio h (sdpClassifyRun_enabled hen) : execSdpClassify k mean rms freq s = _), rf_sdpSet_supply ..,
      rb_sdpSet_lock .., ?vdc, ?vrms, ?freq⟩
    case vdc =>
      rw [rd_sdpSet_ne _ _ _ _ _ (by simp [Reg.SDP_VDC]), rd_sdpMeasured_vdc]
      rfl
    case vrms =>
      rw [rd_sdpSet_ne _ _ _ _ _ (by simp [Reg.SDP_VRMS]), rd_sdpMeasured_vrms]
      rfl
    case freq =>
      rw [rd_sdpSet_ne _ _ _ _ _ (by simp [Reg.SDP_FREQ]), rd_sdpMeasured_freq]
  case lock => exact fun s k freq h hen hc => (next_inFio h (sdpLockRun_ac hen hc) : execSdpLock k freq s = _)
  case loss => exact fun s k rms h hl hr => (next_inFio h (sdpLossRun_low hl hr) : execSdpLockLoss k rms s = _)
  case noReference => exact fun s h hen ht => (next_inFio h (axleRun_noReference hen ht) : execAxleEvaluate s = _)
  case judged =>
    rintro s ref _ h hen hm rfl hv
    refine ⟨_, (next_inFio h rfl : execAxleEvaluate s = _), fun n hn => ?_⟩
    simp only [rb, rd_axleRun_status hen hm hv]
    exact bit_flags16 (fun n => (axleSlip s ref n).1) (fun n => (axleSlide s ref n).1) hn

end Sys2Proof.Machine
end

section
/-! PROOFS of O7. Compares arm, disarm and deliver their fires; gate pattern groups start segments, apply entries, settle, clear forces and
refill (R74 to R78, R83 to R87, R92). -/

namespace Sys2Proof.Machine

/-! ## Writes of CMP_CTL (R75, R77, R78) -/

section

variable {s : State} {m : Nat} {v new : Word} (hn : new = BitVec.ofNat 64 (fld v 0 15))
include hn

/-- An unmirrored compare with a legal resource that its owner reaches arms from the present nanosecond on. -/
theorem cmpCtlWrite_arms (hold : rb s (Reg.CMP_CTL m) 0 = false) (ha : bit new 0 = true)
    (hok : cmpArgOk new (rd s (Reg.CMP_ARG m)) = true) (how : cmpOwned s m new (rd s (Reg.CMP_ARG m)) = true) (hm : bit v 3 = false) :
    cmpCtlWrite s m v = .done (setCmp (wr s (Reg.CMP_CTL m) new) m { getCmp s m with armAt := some s.time }) := by
  have hpairs : targetPairsOk (wr s (Reg.CMP_CTL m) new) m = true := by
    have h3 : bit new 3 = false := by rw [hn, bit_ofNat_fld _ _ _ (by omega), hm, Bool.and_false]
    simp [targetPairsOk, rb, h3]
  rw [rb] at hold
  simp only [cmpCtlWrite, ← hn, hold, ha, hok, how, hpairs, Bool.false_and, Bool.not_true, Bool.not_false, Bool.and_self,
    Bool.false_eq_true, if_false, if_true]
  rfl

/-- A write that clears ARM and leaves TB and ACTION disarms after the nanosecond. -/
theorem cmpCtlWrite_disarms (hold : rb s (Reg.CMP_CTL m) 0 = true) (ha : bit new 0 = false)
    (ht : fld new 7 4 = rf s (Reg.CMP_CTL m) 7 4) (hc : fld new 11 2 = rf s (Reg.CMP_CTL m) 11 2) :
    cmpCtlWrite s m v = .done (setCmp (wr s (Reg.CMP_CTL m) new) m { getCmp s m with disarm := true, armAt := none }) := by
  rw [rf] at ht hc
  rw [rb] at hold
  simp only [cmpCtlWrite, ← hn, hold, ha, ht, hc, bne_self_eq_false, Bool.or_false, Bool.and_false, Bool.not_true, Bool.not_false,
    Bool.and_self, Bool.false_eq_true, if_false, if_true]

end

/-- An accepted write that does not suppress the compare completes with its outcome. -/
theorem next_cmpCtlAccess_done {s u : State} {i : Initiator} {m : Nat} {v : Word} (h : Safety.Accepted s i (Reg.CMP_CTL m))
    (hs : bit v 14 = false) (hu : cmpCtlWrite (respOk s 0) m v = .done u) :
    (Host.Outcome.next (cmpCtlAccess s i m v) : Out) = .next u := by
  refine next_regWrite_accepted h ?_
  simp only [hu, hs, Bool.false_and, Bool.false_eq_true, if_false]

/-! ## Arming takes effect (R75) -/

section

variable {s a : State} {m t0 : Nat} (ht : (getCmp s m).armAt = some t0) (hlt : t0 < s.time)
  (ha : a = setCmp s m { getCmp s m with armed := true, armAt := none, refire := none })
include ht hlt ha

/-- From the nanosecond after the write the compare is armed; it is tested at once where it may fire. -/
theorem cmpArmEffect_later :
    cmpArmEffect s m =
      if rb s (Reg.CMP_CTL m) 14 || (getTb s (rf s (Reg.CMP_CTL m) 7 4)).st = .failed then a
      else if rf s (Reg.CMP_CTL m) 5 2 = 0 ∧ passed (cmpTarget s m) (getTb s (rf s (Reg.CMP_CTL m) 7 4)).phase .rising then
        cmpFire a m .rising true (getTb s (rf s (Reg.CMP_CTL m) 7 4)).phase (getTb s (rf s (Reg.CMP_CTL m) 7 4)).st
      else if rf s (Reg.CMP_CTL m) 5 2 = 1 ∧ passed (cmpTarget s m) (getTb s (rf s (Reg.CMP_CTL m) 7 4)).phase .falling then
        cmpFire a m .falling true (getTb s (rf s (Reg.CMP_CTL m) 7 4)).phase (getTb s (rf s (Reg.CMP_CTL m) 7 4)).st
      else a := by
  subst ha
  simp only [cmpArmEffect, ht, if_neg (Nat.not_le.2 hlt)]
  rfl

theorem cmpArmEffect_rising (h14 : rb s (Reg.CMP_CTL m) 14 = false) (hst : (getTb s (rf s (Reg.CMP_CTL m) 7 4)).st ≠ .failed)
    (hd : rf s (Reg.CMP_CTL m) 5 2 = 0) (hp : passed (cmpTarget s m) (getTb s (rf s (Reg.CMP_CTL m) 7 4)).phase .rising = true) :
    cmpArmEffect s m =
      cmpFire a m .rising true (getTb s (rf s (Reg.CMP_CTL m) 7 4)).phase (getTb s (rf s (Reg.CMP_CTL m) 7 4)).st := by
  rw [cmpArmEffect_later ht hlt ha, if_neg (by simp [h14, hst]), if_pos ⟨hd, hp⟩]

theorem cmpArmEffect_falling (h14 : rb s (Reg.CMP_CTL m) 14 = false) (hst : (getTb s (rf s (Reg.CMP_CTL m) 7 4)).st ≠ .failed)
    (hd : rf s (Reg.CMP_CTL m) 5 2 = 1) (hp : passed (cmpTarget s m) (getTb s (rf s (Reg.CMP_CTL m) 7 4)).phase .falling = true) :
    cmpArmEffect s m =
      cmpFire a m .falling true (getTb s (rf s (Reg.CMP_CTL m) 7 4)).phase (getTb s (rf s (Reg.CMP_CTL m) 7 4)).st := by
  rw [cmpArmEffect_later ht hlt ha, if_neg (by simp [h14, hst]), if_neg (by simp [hd]), if_pos ⟨hd, hp⟩]

/-- A compare that is suppressed, whose time base FAILED, or whose target lies ahead in its direction only arms. -/
theorem cmpArmEffect_armsOnly (h : rb s (Reg.CMP_CTL m) 14 = true ∨ (getTb s (rf s (Reg.CMP_CTL m) 7 4)).st = .failed ∨
      2 ≤ rf s (Reg.CMP_CTL m) 5 2 ∨
      (rf s (Reg.CMP_CTL m) 5 2 = 0 ∧ passed (cmpTarget s m) (getTb s (rf s (Reg.CMP_CTL m) 7 4)).phase .rising = false) ∨
      (rf s (Reg.CMP_CTL m) 5 2 = 1 ∧ passed (cmpTarget s m) (getTb s (rf s (Reg.CMP_CTL m) 7 4)).phase .falling = false)) :
    cmpArmEffect s m = a := by
  rw [cmpArmEffect_later ht hlt ha]
  rcases h with h | h | h | ⟨hd, hp⟩ | ⟨hd, hp⟩
  · rw [if_pos (by simp [h])]
  · rw [if_pos (by simp [h])]
  · rw [if_neg (fun c : rf s (Reg.CMP_CTL m) 5 2 = 0 ∧ _ => by omega),
      if_neg (fun c : rf s (Reg.CMP_CTL m) 5 2 = 1 ∧ _ => by omega), ite_self]
  · simp [hd, hp]
  · simp [hd, hp]

end

/-! ## Fires reach their actions (R74, Table 3.5) -/

section

variable {s : State} {f : Fire}

theorem cmpAction_event (h : fld f.ctl 11 2 = 0) : cmpAction s f = cmpEvent s f := by
  simp only [cmpAction, h]

/-- A segment start is ordered, at the target and the instant of the fire. -/
theorem cmpAction_segment (h : fld f.ctl 11 2 = 1) :
    cmpAction s f = { s with fio := { s.fio with segReq := s.fio.segReq ++
      [{ g := fld f.arg 0 4, addr := fld f.arg 4 14, phase0 := f.target, time0 := f.time }] } } := by
  simp only [cmpAction, h]

theorem cmpAction_snapshot (h : fld f.ctl 11 2 = 2) :
    cmpAction s f = { s with fio := { s.fio with snapReq := s.fio.snapReq ++
      [{ set := fld f.arg 0 4, tb := f.tb, late := f.late, phase := f.phase, time := f.time }] } } := by
  simp only [cmpAction, h]

/-- A doorbell is rung, and the channels that take their commands from its ring start their fetch. -/
theorem cmpAction_doorbell (h : fld f.ctl 11 2 = 3) :
    cmpAction s f = (channelsOf s (fld f.arg 0 13)).foldl dmaFetch { s with evr := { s.evr with arrivals := s.evr.arrivals ++
      [{ src := 256 + fld (getRing s (fld f.arg 0 13)).db 0 8, late := false, phases := f.phases, time := f.time }] } } := by
  simp only [cmpAction, h]

end

/-- The oldest fire of a nanosecond that is over reaches its action, and its event where ALSO_EVT asks for one beside another action. -/
theorem cmpDeliver_first {s a : State} {f : Fire} {l : List Fire} (h : s.fio.fires = f :: l) (ht : f.time < s.time)
    (ha : cmpAction { s with fio := { s.fio with fires := l } } f = a) :
    cmpDeliver s = if bit f.ctl 13 && fld f.ctl 11 2 != 0 then cmpEvent a f else a := by
  subst ha
  simp only [cmpDeliver, h, if_neg (Nat.not_le.2 ht)]

/-- The action of an event carries no second one. -/
theorem cmpDeliver_event {s a : State} {f : Fire} {l : List Fire} (h : s.fio.fires = f :: l) (ht : f.time < s.time)
    (hc : fld f.ctl 11 2 = 0) (ha : cmpAction { s with fio := { s.fio with fires := l } } f = a) : cmpDeliver s = a := by
  rw [cmpDeliver_first h ht ha, hc]
  simp

theorem cmpDeliver_action {s a : State} {f : Fire} {l : List Fire} (h : s.fio.fires = f :: l) (ht : f.time < s.time)
    (hc : fld f.ctl 11 2 ≠ 0) (ha : cmpAction { s with fio := { s.fio with fires := l } } f = a) :
    cmpDeliver s = if bit f.ctl 13 then cmpEvent a f else a := by
  rw [cmpDeliver_first h ht ha, bne_iff_ne.2 hc, Bool.and_true]

/-! ## Segments and entries (R83, R84) -/

/-- The oldest segment start ordered for a group is taken. -/
theorem segStart_first {s : State} {g : Nat} {q : SegReq} (h : (s.fio.segReq.find? fun q => q.g == g) = some q) :
    segStart s g = gpeStartSeg { s with fio := { s.fio with segReq := s.fio.segReq.erase q } } g q.addr
      (List.replicate 16 q.phase0) q.time0 := by
  simp only [segStart, h]

/-- A group is enabled over a window that overlaps no other and a ring of 32-byte entries that its owner may bind. -/
theorem gpeCtlWrite_enables {s : State} {g : Nat} {v : Word} (hen : bit v 0 = true) (hold : rb s (Reg.GPE_CTL g) 0 = false)
    (hw : gpeWindowBad s g (gpeBase s g) (gpeLen s g) = false) (hr : (getRing s (rf s (Reg.GPE_RING g) 0 13)).esize = 32)
    (hb : mayBind s (rf s (pageReg .gpe g 0 0x00C) 0 6) (rf s (Reg.GPE_RING g) 0 13) = true) :
    gpeCtlWrite s g v = some (setGpe (wr s (Reg.GPE_CTL g) (BitVec.ofNat 64 (fld v 0 12))) g
      { getGpe s g with seg := none, rptr := 0, wptr := 0, filled := 0, staging := [] }) := by
  have hen' : bit (BitVec.ofNat 64 (fld v 0 12)) 0 = true := by rw [bit_ofNat_fld _ _ _ (by omega), hen]; rfl
  rw [rb] at hold
  simp only [gpeCtlWrite, hen', hold, hw, hr, hb, bne_self_eq_false, Bool.not_true, Bool.not_false, Bool.and_self, Bool.or_self,
    Bool.false_eq_true, if_false, if_true]
  rfl

/-- A group whose current entry is not due waits. -/
theorem gpeApply_notDue {s : State} {g : Nat} {seg : Seg} (hs : (getGpe s g).seg = some seg)
    (hd : entDue s seg (sramAt s seg.next) = false) : gpeApply s g = s := by
  simp only [gpeApply, hs, hd, Bool.not_false, if_true]

/-- A due entry that commands no pair active, was not passed and asks for no event sets the commanded levels; it ends the segment at END or
goes on to the next entry. -/
theorem gpeApply_plain {s u : State} {g : Nat} {seg : Seg} {outs : List GpeOut} (hs : (getGpe s g).seg = some seg)
    (hd : entDue s seg (sramAt s seg.next) = true) (hc : gpeCommand s g (sramAt s seg.next) = (outs, false))
    (hp : seg.passed = false) (he : entFld (sramAt s seg.next) 78 1 = 0)
    (hu : u = gpeSettle (setGpe s g { getGpe s g with outs := outs }) g) :
    gpeApply s g = if entFld (sramAt s seg.next) 79 1 = 1
      then setGpe (gpeAdvance u g) g { getGpe (gpeAdvance u g) g with seg := none }
      else gpeReach (gpeAdvance u g) g { seg with next := seg.next + 1 } := by
  subst hu
  simp only [gpeApply, hs, hd, hc, hp, he, Bool.not_true, Bool.false_eq_true, if_false, Nat.zero_ne_one]

/-! ## Force bits (R87) -/

section

variable (s : State) (g : Nat) (v : Word)

/-- Whether the cause of a force bit has ended does not rest on GPE_FORCE. -/
theorem gpeCauseEnded_wb_force (k j : Nat) (b : Bool) : gpeCauseEnded (wb s (Reg.GPE_FORCE g) k b) g j = gpeCauseEnded s g j := by
  have hrd : ∀ q : RegAddr, q.off % 4096 ≠ 0x118 → rd (wb s (Reg.GPE_FORCE g) k b) q = rd s q := fun q h =>
    rd_wb_ne _ _ _ _ _ (rkey_ne_of_off h.symm)
  match j with
  | 0 => simp only [gpeCauseEnded, rf, rb, hrd Reg.SMG_STATE (by decide), hrd Reg.SMG_WD_STATUS (by decide)]
  | 1 =>
    have hdbg : ∀ p, rd (wb s (Reg.GPE_FORCE g) k b) (Reg.DBGP_STATUS p) = rd s (Reg.DBGP_STATUS p) := fun p =>
      hrd _ (by simp [Reg.DBGP_STATUS])
    simp only [gpeCauseEnded, debugStopped, rf, rb, hdbg, hrd (pageReg .gpe g 0 0x00C) (by simp [pageReg])]
  | 2 =>
    have hmask : ∀ n, rd (wb s (Reg.GPE_FORCE g) k b) (Reg.SDMCH_TRIPMASK n) = rd s (Reg.SDMCH_TRIPMASK n) := fun n =>
      hrd _ (by simp [Reg.SDMCH_TRIPMASK])
    have hstatus : ∀ n, rd (wb s (Reg.GPE_FORCE g) k b) (Reg.SDMCH_STATUS n) = rd s (Reg.SDMCH_STATUS n) := fun n =>
      hrd _ (by simp [Reg.SDMCH_STATUS])
    simp only [gpeCauseEnded, rb, hmask, hstatus]
  | _ + 3 => rfl

/-- A written 1 clears one hardware force bit whose cause has ended. -/
def forceClear (t : State) (k : Nat) : State :=
  if bit v k && rb t (Reg.GPE_FORCE g) k && gpeCauseEnded t g k then wb t (Reg.GPE_FORCE g) k false else t

theorem gpeCauseEnded_forceClear (k j : Nat) : gpeCauseEnded (forceClear g v s k) g j = gpeCauseEnded s g j := by
  rw [forceClear]
  split
  · exact gpeCauseEnded_wb_force s g k j false
  · rfl

theorem rb_forceClear_same (k : Nat) (hk : k < 64) :
    rb (forceClear g v s k) (Reg.GPE_FORCE g) k = (rb s (Reg.GPE_FORCE g) k && !(bit v k && gpeCauseEnded s g k)) := by
  rw [forceClear]
  split
  · next h =>
    simp only [Bool.and_eq_true] at h
    obtain ⟨⟨hv, _⟩, hc⟩ := h
    simp [rb_wb_same _ _ _ _ hk, hv, hc]
  · next h =>
    cases hb : rb s (Reg.GPE_FORCE g) k
    · rfl
    · simp only [hb, Bool.and_true, Bool.not_eq_true] at h
      simp [h]

theorem rb_forceClear_ne (k j : Nat) (hj : j < 64) (h : k ≠ j) :
    rb (forceClear g v s k) (Reg.GPE_FORCE g) j = rb s (Reg.GPE_FORCE g) j := by
  rw [forceClear]
  split
  · exact rb_wb_ne _ _ _ _ _ hj h
  · rfl

/-- After the bits below `n` have been gone through, each of them is clear where it was written and its cause has ended; the causes and the
bits from `n` on are as they were. -/
theorem foldl_forceClear (n : Nat) (hn : n ≤ 64) :
    (∀ j, gpeCauseEnded ((upto n).foldl (forceClear g v) s) g j = gpeCauseEnded s g j) ∧
      (∀ j, n ≤ j → j < 64 → rb ((upto n).foldl (forceClear g v) s) (Reg.GPE_FORCE g) j = rb s (Reg.GPE_FORCE g) j) ∧
      ∀ j, j < n → rb ((upto n).foldl (forceClear g v) s) (Reg.GPE_FORCE g) j =
        (rb s (Reg.GPE_FORCE g) j && !(bit v j && gpeCauseEnded s g j)) := by
  induction n with
  | zero => exact ⟨fun _ => rfl, fun _ _ _ => rfl, fun j h => absurd h (Nat.not_lt_zero j)⟩
  | succ n ih =>
    obtain ⟨hcause, hrest, hdone⟩ := ih (by omega)
    simp only [upto] at hcause hrest hdone
    simp only [upto, List.range_succ, List.foldl_append, List.foldl_cons, List.foldl_nil]
    refine ⟨fun j => ?cause, fun j hj hj' => ?rest, fun j hj => ?done⟩
    case cause => rw [gpeCauseEnded_forceClear, hcause]
    case rest => rw [rb_forceClear_ne _ _ _ _ _ hj' (by omega), hrest j (by omega) hj']
    case done =>
      rcases Nat.lt_succ_iff_lt_or_eq.1 hj with h | rfl
      · rw [rb_forceClear_ne _ _ _ _ _ (by omega) (by omega), hdone j h]
      · rw [rb_forceClear_same _ _ _ _ (by omega), hrest j (Nat.le_refl j) (by omega), hcause]

/-- A write with bit 4 clear goes through the four hardware bits and clears the software force. -/
theorem gpeForceWrite_release (h4 : bit v 4 = false) :
    gpeForceWrite s g v = wb ((upto 4).foldl (forceClear g v) s) (Reg.GPE_FORCE g) 4 false := by
  simp only [gpeForceWrite, h4, Bool.false_eq_true, if_false]
  rfl

theorem rb_gpeForceWrite_release (h4 : bit v 4 = false) :
    rb (gpeForceWrite s g v) (Reg.GPE_FORCE g) 4 = false ∧ ∀ k, k < 4 → rb (gpeForceWrite s g v) (Reg.GPE_FORCE g) k =
      (rb s (Reg.GPE_FORCE g) k && !(bit v k && gpeCauseEnded s g k)) := by
  obtain ⟨_, _, hdone⟩ := foldl_forceClear s g v 4 (by omega)
  rw [gpeForceWrite_release s g v h4]
  exact ⟨rb_wb_same _ _ _ _ (by omega), fun k hk => (rb_wb_ne _ _ _ _ _ (by omega) (by omega)).trans (hdone k hk)⟩

end

/-! ## Refill (R92) -/

/-- An enabled group with nothing staged fetches from its ring. -/
theorem gpeRefillNow_empty {s : State} {g : Nat} (hen : rb s (Reg.GPE_CTL g) 0 = true) (h : (getGpe s g).staging = []) :
    gpeRefillNow s g = gpeFetch s g 32 := by
  have hd : gpeDrain s g 32 = s := by simp only [gpeDrain, h]
  simp only [gpeRefillNow, hen, hd, h, List.length_nil, Nat.zero_le, Bool.not_true, Bool.false_eq_true, if_false, if_true]

/-- Settles O7: each clause picks the branch of its command by a lemma above. -/
theorem compareAndGateCommandsComplete : Obligations.CompareAndGateCommandsComplete := by
  unfold Obligations.CompareAndGateCommandsComplete
  refine ⟨?arm, ?disarm, ?rising, ?falling, ?armsOnly, ?event, ?segment, ?snapshot, ?doorbell, ?segStart, ?start, ?enable, ?wait, ?last,
    ?next, ?deadtime, ?force, ?release, ?refill⟩
  case arm =>
    exact fun s i m v new h hn hold ha hok how hm hs =>
      next_cmpCtlAccess_done h hs (cmpCtlWrite_arms (s := respOk s 0) hn hold ha hok how hm)
  case disarm =>
    exact fun s i m v new h hn hold ha ht hc hs =>
      next_cmpCtlAccess_done h hs (cmpCtlWrite_disarms (s := respOk s 0) hn hold ha ht hc)
  case rising =>
    exact fun s a m t0 h ht hlt ha h14 hst hd hp =>
      (next_inFio h (cmpArmEffect_rising ht hlt ha h14 hst hd hp) : execCmpArmEffect m s = _)
  case falling =>
    exact fun s a m t0 h ht hlt ha h14 hst hd hp =>
      (next_inFio h (cmpArmEffect_falling ht hlt ha h14 hst hd hp) : execCmpArmEffect m s = _)
  case armsOnly =>
    exact fun s a m t0 h ht hlt ha hno => (next_inFio h (cmpArmEffect_armsOnly ht hlt ha hno) : execCmpArmEffect m s = _)
  case event =>
    rintro s _ f l h hf ht hc rfl
    exact (next_inFio h (cmpDeliver_event hf ht hc (cmpAction_event hc)) : execCmpActionDeliver s = _)
  case segment =>
    rintro s _ f l h hf ht hc rfl
    exact (next_inFio h (cmpDeliver_action hf ht (by simp [hc]) (cmpAction_segment hc)) : execCmpActionDeliver s = _)
  case snapshot =>
    rintro s _ f l h hf ht hc rfl
    exact (next_inFio h (cmpDeliver_action hf ht (by simp [hc]) (cmpAction_snapshot hc)) : execCmpActionDeliver s = _)
  case doorbell =>
    rintro s _ f l h hf ht hc rfl
    exact (next_inFio h (cmpDeliver_action hf ht (by simp [hc]) (cmpAction_doorbell hc)) : execCmpActionDeliver s = _)
  case segStart => exact fun s g q h hq => (next_inFio h (segStart_first hq) : execGpeSegmentStart g s = _)
  case start => exact fun s i g v h hgo => next_regWrite_accepted h (if_pos hgo)
  case enable =>
    exact fun s i g v h hen hold hw hr hb =>
      next_regWriteOpt_accepted ⟨h, rfl⟩ (gpeCtlWrite_enables (s := respOk s 0) hen hold hw hr hb)
  case wait => exact fun s g seg h hs hd => (next_inFio h (gpeApply_notDue hs hd) : execGpeEntryApply g s = _)
  case last =>
    rintro s u g seg _ outs h hs rfl hd hc hp he hend hu
    exact (next_inFio h ((gpeApply_plain hs hd hc hp he hu).trans (if_pos hend)) : execGpeEntryApply g s = _)
  case next =>
    rintro s u g seg _ outs h hs rfl hd hc hp he hend hu
    exact (next_inFio h ((gpeApply_plain hs hd hc hp he hu).trans (if_neg (by simp [hend]))) : execGpeEntryApply g s = _)
  case deadtime => exact fun s g out h => (next_inFio h rfl : execGpeDeadtimeExpiry g out s = _)
  case force => exact fun s i g v h => next_regWrite_accepted h rfl
  case release =>
    exact fun s i g v h h4 => ⟨_, next_regWrite_accepted h rfl, rb_gpeForceWrite_release (respOk s 0) g _ h4⟩
  case refill => exact fun s g h hen hs => (next_inFio h (gpeRefillNow_empty hen hs) : execGpeRefill g s = _)

end Sys2Proof.Machine
end

section
/-! PROOFS of O8. Sigma-delta channels filter, trip and stand stuck; snapshots are staged and written to their rings (R90 to R92). -/

namespace Sys2Proof.Machine

/-! ## The filters of a running channel (R90) -/

section

variable {s : State} {n : Nat} {bits : List Bool}

/-- A running channel that has taken a full ratio of bits makes a sinc3 output. -/
theorem sinc3Run_full {h : List Bool} (hr : sdmRuns s n = true) (hl : bits.length = sinc3Osr s n)
    (hh : h = (sdmBits s n bits ++ (getSdm s n).hist3).take (3 * sinc3Osr s n - 2)) :
    sinc3Run s n bits =
      wr (setSdm s n { getSdm s n with hist3 := h, outs := ((s.time, sincOut 3 (sinc3Osr s n) h) :: (getSdm s n).outs).take 64 })
        (Reg.SDMCH_DATA n) (BitVec.ofNat 64 (BitVec.ofInt 32 (sincOut 3 (sinc3Osr s n) h)).toNat) := by
  subst hh
  simp only [sinc3Run, hr, hl, bne_self_eq_false, Bool.not_true, Bool.or_false, Bool.false_eq_true, if_false]

/-- The consecutive sinc2 outputs beyond a threshold, with the output over `h` counted. -/
def sinc2Beyond (s : State) (n : Nat) (h : List Bool) : Nat :=
  if sfld (rd s (Reg.SDMCH_TRIP n)) 0 16 < sincOut 2 (sinc2Osr s n) h ∨ sincOut 2 (sinc2Osr s n) h < sfld (rd s (Reg.SDMCH_TRIP n)) 16 16
  then (getSdm s n).beyond + 1 else 0

/-- A running channel that has taken a full ratio of bits makes a sinc2 output, which trips it where TRIP_EN is 1 and the count suffices. -/
theorem sinc2Run_full {h : List Bool} (hr : sdmRuns s n = true) (hl : bits.length = sinc2Osr s n)
    (hh : h = (sdmBits s n bits ++ (getSdm s n).hist2).take (2 * sinc2Osr s n - 1)) :
    sinc2Run s n bits =
      if rb s (Reg.SDMCH_CTL n) 6 && rf s (Reg.SDMCH_CTL n) 23 4 + 1 ≤ sinc2Beyond s n h
      then sdmTrip (setSdm s n { getSdm s n with hist2 := h, beyond := sinc2Beyond s n h }) n
      else setSdm s n { getSdm s n with hist2 := h, beyond := sinc2Beyond s n h } := by
  subst hh
  simp only [sinc2Run, sinc2Beyond, hr, hl, bne_self_eq_false, Bool.not_true, Bool.or_false, Bool.false_eq_true, if_false,
    Bool.or_eq_true, decide_eq_true_eq]
  rfl

/-- A stuck input of a running channel whose trip is not enabled is shown and raises its condition, and no more. -/
theorem sdmStuckRun_noTrip (hr : sdmRuns s n = true) (ht : rb s (Reg.SDMCH_CTL n) 6 = false) :
    sdmStuckRun s n = raiseCond (wb s (Reg.SDMCH_STATUS n) 1 true) .sdm 0 (n + 1) 1 := by
  have hk : rkey (Reg.SDMCH_STATUS n) ≠ rkey (Reg.SDMCH_CTL n) := rkey_ne_of_off (by simp [Reg.SDMCH_STATUS, Reg.SDMCH_CTL])
  have he : rb (raiseCond (wb s (Reg.SDMCH_STATUS n) 1 true) .sdm 0 (n + 1) 1) (Reg.SDMCH_CTL n) 6 = false := by
    rw [rb_raiseCond_off _ _ _ _ _ _ _ (by simp [Reg.SDMCH_CTL]) (by simp [Reg.SDMCH_CTL]) (by simp [Reg.SDMCH_CTL])]
    exact (rb_wr_ne _ _ _ _ _ hk).trans ht
  simp only [sdmStuckRun, hr, he, Bool.not_true, Bool.false_eq_true, if_false]

end

/-! ## Snapshots (R91, R92) -/

/-- The oldest snapshot ordered for a set is staged where fewer than 16 records are. -/
theorem snapRun_room {s : State} {k : Nat} {q : SnapReq} (hq : (s.fio.snapReq.find? fun q => q.set == k) = some q)
    (hl : s.fio.snapStage.length < 16) :
    snapRun s k = { s with fio := { s.fio with
      snapReq := s.fio.snapReq.erase q, snapStage := s.fio.snapStage ++ [{ set := k, bytes := snapRecord s q }] } } := by
  simp only [snapRun, hq, if_neg (Nat.not_le.2 hl)]
  rfl

/-- The oldest staged record leaves the buffer: its ring takes it, or it is dropped. -/
theorem snapWrite_first {s : State} {r : SnapRec} {l : List SnapRec} (h : s.fio.snapStage = r :: l) :
    snapWrite s = (hwEnq { s with fio := { s.fio with snapStage := l } } (rf s (Reg.SNAP_RING r.set) 0 13) r.bytes).getD
      (snapDrop { s with fio := { s.fio with snapStage := l } } r.set) := by
  simp only [snapWrite, h]
  rw [show rf { s with fio := { s.fio with snapStage := l } } (Reg.SNAP_RING r.set) 0 13 = rf s (Reg.SNAP_RING r.set) 0 13 from rfl]
  cases hwEnq { s with fio := { s.fio with snapStage := l } } (rf s (Reg.SNAP_RING r.set) 0 13) r.bytes <;> rfl

/-- Settles O8: each clause is the lemma above about its command, in HUB_FIO that is ON. -/
theorem sigmaDeltaCommandsComplete : Obligations.SigmaDeltaCommandsComplete := by
  unfold Obligations.SigmaDeltaCommandsComplete
  refine ⟨?sinc3, ?sinc2, ?stuck, ?snapshot, ?ring, ?drop⟩
  case sinc3 => exact fun s n bits h3 h hr hl hh => (next_inFio h (sinc3Run_full hr hl hh) : execSdmSinc3Output n bits s = _)
  case sinc2 =>
    rintro s n bits h2 _ _ h hr hl hh rfl rfl
    exact (next_inFio h (sinc2Run_full hr hl hh) : execSdmSinc2Output n bits s = _)
  case stuck =>
    intro s n h hr ht
    refine ⟨_, (next_inFio h (sdmStuckRun_noTrip hr ht) : execSdmStuck n s = _), ?status, rb_raiseCond_status _ _ _ _ _ (by omega)⟩
    rw [rb_raiseCond_off _ _ _ _ _ _ _ (by simp [Reg.SDMCH_STATUS]) (by simp [Reg.SDMCH_STATUS]) (by simp [Reg.SDMCH_STATUS])]
    exact rb_wb_same _ _ _ _ (by omega)
  case snapshot => exact fun s set q h hq hl => ⟨_, (next_inFio h (snapRun_room hq hl) : execSdmSnapshot set s = _), rfl, rfl⟩
  case ring =>
    intro s u r l h hs hw
    exact next_inFio h ((snapWrite_first hs).trans (by rw [hw]; rfl))
  case drop =>
    intro s r l h hs hw
    exact next_inFio h ((snapWrite_first hs).trans (by rw [hw]; rfl))

end Sys2Proof.Machine
end

section
/-! PROOFS of O9. The event router: assertions arrive, events go to cores and pools, sources and pools are owned and configured (R96 to R110,
R118). -/

namespace Sys2Proof.Machine

/-! ## Delivery (R104 to R110) -/

section

variable {s : State} {n : Nat} {e : EvRec}

/-- A source that has an event to deliver has one waiting. -/
theorem waiting_of_settled {x : Src} {now : Nat} (h : x.settled now = some e) : x.waiting.isNone = false := by
  cases hw : x.waiting with
  | none => simp [Src.settled, hw] at h
  | some w => rfl

/-- A waiting event of a core target waits for that core's inbox alone. -/
theorem wantsInbox_core (h : (getSrc s n).settled s.time = some e) (ht : cfgTtype (getSrc s n).cfg = 0) :
    wantsInbox s n = [(cfgTarget (getSrc s n).cfg, false)] := by
  simp only [wantsInbox, waiting_of_settled h, ht, Bool.false_eq_true, if_false, if_true]

/-- The EVR offers a free inbox the event that waits for it first. -/
theorem offerInbox_free {c l : Nat} {half : Bool} (hen : rb s Reg.EVR_CTL 0 = true) (hi : inboxFree s c l = true)
    (hf : firstFor s c l = some (n, half)) : offerInbox s c l = sendCopy s n c half := by
  simp only [offerInbox, hen, hi, hf, Bool.not_true, Bool.or_self, Bool.false_eq_true, if_false]

/-- The one copy of an event whose target is no pair frees its slot. -/
theorem sendCopy_single {c : Nat} {half : Bool} (h : (getSrc s n).settled s.time = some e) (ht : cfgTtype (getSrc s n).cfg ≠ 2) :
    sendCopy s n c half = deliverSlot (sendEvent s c { e with half := half }) n := by
  simp only [sendCopy, h, if_neg ht]

section

variable (h : (getSrc s n).settled s.time = some e) (hen : rb s Reg.EVR_CTL 0 = true)
include h hen

/-- A waiting event of a core target goes to that core where it is first for the inbox and the inbox is free. -/
theorem dispatchSrc_core (ht : cfgTtype (getSrc s n).cfg = 0)
    (hf : firstFor s (cfgTarget (getSrc s n).cfg) e.level = some (n, false))
    (hi : inboxFree s (cfgTarget (getSrc s n).cfg) e.level = true) :
    dispatchSrc s n = deliverSlot (sendEvent s (cfgTarget (getSrc s n).cfg) { e with half := false }) n := by
  have hd : dispatchSrc s n = offerInbox s (cfgTarget (getSrc s n).cfg) e.level := by
    simp [dispatchSrc, h, hen, ht, wantsInbox_core h ht, hf]
  rw [hd, offerInbox_free hen hi hf, sendCopy_single h (by omega)]

section

variable (ht : cfgTtype (getSrc s n).cfg = 1)
include ht

/-- A waiting event of a pool goes to the core that the pool chooses. -/
theorem dispatchSrc_pool {c : Nat} (hc : poolChoose s (cfgTarget (getSrc s n).cfg % 64) e.level = some c) :
    dispatchSrc s n = poolSend (deliverSlot s n) (cfgTarget (getSrc s n).cfg % 64) c e := by
  simp [dispatchSrc, h, hen, ht, hc]

/-- Where the pool can choose no core, its FIFO takes the event while it has room. -/
theorem dispatchSrc_fifo (hc : poolChoose s (cfgTarget (getSrc s n).cfg % 64) e.level = none)
    (hl : (getPool (deliverSlot s n) (cfgTarget (getSrc s n).cfg % 64)).fifo.length < 64) :
    dispatchSrc s n = setPool (deliverSlot s n) (cfgTarget (getSrc s n).cfg % 64)
      { getPool (deliverSlot s n) (cfgTarget (getSrc s n).cfg % 64) with
        fifo := (getPool (deliverSlot s n) (cfgTarget (getSrc s n).cfg % 64)).fifo ++ [e] } := by
  simp [dispatchSrc, h, hen, ht, hc, hl]

end

end

end

/-- The head of a pool's FIFO goes to the core that the pool chooses for its level. -/
theorem poolDeliver_head {s : State} {q c : Nat} {e : EvRec} {l : List EvRec} (hq : (getPool s q).fifo = e :: l)
    (hen : rb s Reg.EVR_CTL 0 = true) (hc : poolChoose s q e.level = some c) :
    poolDeliver s q = poolSend (setPool s q { getPool s q with fifo := l }) q c e := by
  simp only [poolDeliver, hq, hen, hc, Bool.not_true, Bool.false_eq_true, if_false]

/-- The event on its way to a core that runs in a partition, with the level enabled, enters the inbox that has room for it. -/
theorem packetArrive_enters {s : State} {c : Nat} {e : EvRec} (hf : s.evr.flight = [(c, e)]) (hr : (getCore s c).running = true)
    (ho : (coreOwner s c).isSome = true) (hl : levelOn s c e.level = true) (hi : inboxFull s c e.level = false)
    (hw : localWaits s c e.level = false) :
    packetArrive s c = setCore { s with evr := { s.evr with flight := [] } } c
      { getCore s c with inbox := listSet (getCore s c).inbox e.level (some e) } := by
  have hp : (s.evr.flight.find? fun x => x.1 == c && !((getCore s c).running && (coreOwner s c).isSome && levelOn s c x.2.level &&
      (inboxFull s c x.2.level || localWaits s c x.2.level))) = some (c, e) := by
    simp [hf, hi, hw]
  have hn : (coreOwner s c).isNone = false := by simpa using ho
  have he : s.evr.flight.erase (c, e) = [] := by simp [hf]
  simp only [packetArrive, hp, he]
  have hcore : getCore { s with evr := { s.evr with flight := [] } } c = getCore s c := rfl
  have howner : coreOwner { s with evr := { s.evr with flight := [] } } c = coreOwner s c := rfl
  have hlevel : levelOn { s with evr := { s.evr with flight := [] } } c e.level = levelOn s c e.level := rfl
  simp only [hcore, howner, hlevel, hr, hn, hl, Bool.not_true, Bool.or_self, Bool.false_eq_true, if_false]

/-! ## Ownership of sources (R98) -/

/-- Bytes of six bits put into a word one after another. -/
theorem fld_foldl_setFld (f : Nat → Nat) (w : Word) (n : Nat) (hn : n ≤ 8) (j : Nat) (hj : j < 8) :
    fld ((upto n).foldl (fun a k => setFld a (8 * k) 6 (f k)) w) (8 * j) 6 = if j < n then f j % 2 ^ 6 else fld w (8 * j) 6 := by
  induction n with
  | zero => rfl
  | succ n ih =>
    simp only [upto, List.range_succ, List.foldl_append, List.foldl_cons, List.foldl_nil]
    rcases eq_or_ne j n with rfl | hjn
    · rw [fld_setFld_same _ _ _ _ (by omega), if_pos (by omega)]
    · rw [fld_setFld_ne _ _ _ _ _ _ (by omega) (by omega), show List.range n = upto n from rfl, ih (by omega)]
      exact if_congr (by omega) rfl rfl

/-- A write of EVR_OWN for four disabled sources takes every byte. -/
theorem evrOwnEffect_disabled {s : State} {i : Initiator} {w : Nat} {v : Word}
    (h : ∀ k, k < 4 → cfgEn (getSrc s (4 * w + k)).cfg = false) :
    evrOwnEffect s i w v =
      wr s (Reg.EVR_OWN w) ((upto 4).foldl (fun a k => setFld a (8 * k) 6 (fld v (8 * k) 6)) (rd s (Reg.EVR_OWN w))) := by
  have hb : ∀ k ∈ upto 4, (cfgEn (getSrc s (4 * w + k)).cfg && fld v (8 * k) 6 != srcOwner s (4 * w + k)) = false := by
    intro k hk
    rw [h k (List.mem_range.1 hk), Bool.false_and]
  have hf : ∀ a, ∀ k ∈ upto 4, (if cfgEn (getSrc s (4 * w + k)).cfg && fld v (8 * k) 6 != srcOwner s (4 * w + k) then a
      else setFld a (8 * k) 6 (fld v (8 * k) 6)) = setFld a (8 * k) 6 (fld v (8 * k) 6) := by
    intro a k hk
    rw [hb k hk]
    rfl
  simp only [evrOwnEffect]
  rw [List.any_eq_false.2 fun k hk => by simp [hb k hk], List.foldl_ext _ _ _ hf]
  rfl

theorem srcOwner_evrOwnEffect {s : State} {i : Initiator} {w : Nat} {v : Word}
    (h : ∀ k, k < 4 → cfgEn (getSrc s (4 * w + k)).cfg = false) {k : Nat} (hk : k < 4) :
    srcOwner (evrOwnEffect s i w v) (4 * w + k) = fld v (8 * k) 6 := by
  rw [srcOwner, show (4 * w + k) / 4 = w by omega, show (4 * w + k) % 4 = k by omega, evrOwnEffect_disabled h, rf, rd_wr_same,
    fld_foldl_setFld _ _ _ (by omega) _ (by omega), if_pos hk]
  exact Nat.mod_eq_of_lt (Nat.mod_lt _ (by decide))

/-! ## Configuration of sources (R99 to R101) -/

section

variable {s : State} {n : Nat} {v c : Word} (hc : c = BitVec.ofNat 64 (fld v 0 22))
include hc

/-- A configuration that R100 allows enables a disabled source. -/
theorem cfgWrite_enables (hold : cfgEn (getSrc s n).cfg = false) (hen : bit c 0 = true) (hok : cfgOk s n c = true) :
    cfgWrite s n v = some (levelRecreate (setSrc s n { getSrc s n with cfg := c }) n) := by
  simp only [cfgWrite, ← hc, hold, hen, hok, Bool.false_and, Bool.not_true, Bool.false_eq_true, if_false, if_true]

/-- A configuration that only clears EN is taken, and drops the event that waits. -/
theorem cfgWrite_disables (hsame : setBit c 0 true = (getSrc s n).cfg) (hen : bit c 0 = false) :
    cfgWrite s n v = some (setSrc (dropWaiting s n) n { getSrc (dropWaiting s n) n with cfg := c }) := by
  simp only [cfgWrite, ← hc, hsame, hen, bne_self_eq_false, Bool.and_false, Bool.false_eq_true, if_false]

end

/-- A partition page configures a source that it reaches where R100 and R101 take the word. -/
theorem evrCfgEffect_taken {s t : State} {i : Initiator} {r : RegAddr} {p n : Nat} {v : Word} (hr : pageReachesSrc s p n = true)
    (h : cfgWrite s n v = some t) : evrCfgEffect s i r p n v = t := by
  simp only [evrCfgEffect, hr, h, Bool.not_true, Bool.false_eq_true, if_false]

/-- An accepted write of EVR_P_CFG configures the source in SEL. -/
theorem evrCfgAccess_taken {s t : State} {i : Initiator} {p : Nat} {v : Word} (h : Safety.Accepted s i (Reg.EVRP_CFG p))
    (hr : pageReachesSrc s p (rf s (Reg.EVRP_SEL p) 0 10) = true)
    (hw : cfgWrite (respOk s 0) (rf s (Reg.EVRP_SEL p) 0 10) v = some t) : evrCfgAccess s i p v = t := by
  rw [evrCfgAccess, regWrite_accepted s i _ _ h]
  exact evrCfgEffect_taken (by simpa using hr) hw

/-- Such a write enables a disabled source where R100 allows the configuration. -/
theorem evrCfgAccess_enables {s : State} {i : Initiator} {p n : Nat} {v c : Word} (h : Safety.Accepted s i (Reg.EVRP_CFG p))
    (hn : n = rf s (Reg.EVRP_SEL p) 0 10) (hc : c = BitVec.ofNat 64 (fld v 0 22)) (hr : pageReachesSrc s p n = true)
    (hold : cfgEn (getSrc s n).cfg = false) (hen : bit c 0 = true) (hok : cfgOk s n c = true) :
    evrCfgAccess s i p v = levelRecreate (setSrc (respOk s 0) n { getSrc s n with cfg := c }) n := by
  subst hn
  exact evrCfgAccess_taken h hr (cfgWrite_enables (s := respOk s 0) hc hold hen (by simpa using hok))

/-- Selecting a source leaves who owns it. -/
theorem pageReachesSrc_select (s : State) (p q n m : Nat) (hm : m < 1024) :
    pageReachesSrc (wr s (Reg.EVRP_SEL p) (BitVec.ofNat 64 n)) q m = pageReachesSrc s q m := by
  have hk : rkey (Reg.EVRP_SEL p) ≠ rkey (Reg.EVR_OWN (m / 4)) :=
    rkey_ne_of_off (by simp only [Reg.EVRP_SEL, Reg.EVR_OWN]; omega)
  simp only [pageReachesSrc, srcOwner, rf_wr_ne _ _ _ _ _ _ hk]

/-- A write of EVR_P_SETCFG selects a source that its page reaches, then configures it. -/
theorem setcfgEffect_taken {s t : State} {i : Initiator} {p : Nat} {v : Word} (hr : pageReachesSrc s p (fld v 32 10) = true)
    (hw : cfgWrite (wr s (Reg.EVRP_SEL p) (BitVec.ofNat 64 (fld v 32 10))) (fld v 32 10) (BitVec.ofNat 64 (fld v 0 32)) = some t) :
    setcfgEffect s i p v = t := by
  have hn : fld v 32 10 < 1024 := Nat.mod_lt _ (by decide)
  simp only [setcfgEffect, hr, if_true]
  exact evrCfgEffect_taken (by rw [pageReachesSrc_select _ _ _ _ _ hn]; exact hr) hw

/-- A software source that the page reaches takes the write of EVR_P_RAISE. -/
theorem evrRaiseEffect_software {s : State} {i : Initiator} {p : Nat} {v : Word} (hn : 768 ≤ fld v 0 10)
    (hr : pageReachesSrc s p (fld v 0 10) = true) :
    evrRaiseEffect s i p v = raiseSw s (fld v 0 10) (bit v 31) (bit v 30) := by
  simp only [evrRaiseEffect, if_neg (Nat.not_lt.2 hn), hr, Bool.not_true, Bool.false_eq_true, if_false]

/-! ## Pool masks (R106) -/

@[simp] theorem getPool_setPool_same (s : State) (q : Nat) (x : Pool) : getPool (setPool s q x) q = x := by
  simp [getPool, setPool]

/-- A mask word whose cores all belong to the pool's owner is taken whole. -/
theorem testBit_poolMaskEffect {s : State} {i : Initiator} {p k q want : Nat} {v : Word} (hq : q = rf s (Reg.EVRP_POOLSEL p) 0 6)
    (ho : p = 0 ∨ poolOwner s q = p) (hw : want = if k = 12 then fld v 0 4 else fld v 0 32)
    (hin : ∀ b, b < 32 → want.testBit b = true → inPart s (poolOwner s q) (32 * k + b) = true) {b : Nat} (hb : b < 32) :
    (getPool (poolMaskEffect s i p k v) q).mask.testBit (32 * k + b) = want.testBit b := by
  have hlt : want < 2 ^ 32 := by
    have h4 : fld v 0 4 < 2 ^ 4 := Nat.mod_lt _ (by decide)
    have h32 : fld v 0 32 < 2 ^ 32 := Nat.mod_lt _ (by decide)
    rw [hw]
    split <;> omega
  obtain ⟨-, hbits⟩ := bitSum (fun b => want.testBit b && inPart s (poolOwner s q) (32 * k + b)) 32
  have hsum : sumNat (((upto 32).filter fun b => want.testBit b && inPart s (poolOwner s q) (32 * k + b)).map fun b => 2 ^ b) =
      want := by
    refine Nat.eq_of_testBit_eq fun j => ?_
    rw [hbits]
    by_cases hj : j < 32
    · cases ht : want.testBit j
      · simp
      · simp [hj, hin j hj ht]
    · rw [Nat.testBit_lt_two_pow (hlt.trans_le (Nat.pow_le_pow_right (by decide) (by omega)))]
      simp [hj]
  have hp : ¬(p ≠ 0 ∧ poolOwner s q ≠ p) := fun ⟨h0, h1⟩ => ho.elim h0 h1
  simp only [poolMaskEffect, ← hq, ← hw, hsum, if_neg hp, if_true, getPool_setPool_same]
  exact testBit_putField _ _ _ _ _ hlt hb

/-- Settles O9: a delivery, a packet and a write each come to what the lemma above about its effect says. -/
theorem eventRouterCommandsComplete : Obligations.EventRouterCommandsComplete := by
  unfold Obligations.EventRouterCommandsComplete
  refine ⟨?arrival, ?core, ?pool, ?fifo, ?poolHead, ?offer, ?packet, ?own, ?enable, ?config, ?disable, ?setcfg, ?raise, ?mask⟩
  case arrival =>
    intro s a l h
    show execEvrSourceArrival s = _
    simp only [execEvrSourceArrival, h]
  case core => exact fun s n e h hen ht hf hi => congrArg Host.Outcome.next (dispatchSrc_core h hen ht hf hi)
  case pool => exact fun s n e c h hen ht hc => congrArg Host.Outcome.next (dispatchSrc_pool h hen ht hc)
  case fifo => exact fun s n e h hen ht hc hl => congrArg Host.Outcome.next (dispatchSrc_fifo h hen ht hc hl)
  case poolHead => exact fun s q e l c hq hen hc => congrArg Host.Outcome.next (poolDeliver_head hq hen hc)
  case offer => exact fun s c l n half hen hi hf => congrArg Host.Outcome.next (offerInbox_free hen hi hf)
  case packet =>
    intro s c e hf hr ho hl hi hw _
    exact ⟨_, congrArg Host.Outcome.next (packetArrive_enters hf hr ho hl hi hw), by simp, rfl⟩
  case own =>
    rintro s i w v ⟨ha, hm⟩ h
    have hx : exec (.evrOwnWrite i w v) s = .next (evrOwnEffect (respOk s 0) i w (w32 v)) := by
      show execEvrOwnWrite i w v s = _
      rw [execEvrOwnWrite, hm]
      exact next_regWrite_accepted ha rfl
    exact ⟨_, hx, fun k hk => srcOwner_evrOwnEffect (s := respOk s 0) h hk⟩
  case enable =>
    exact fun s i p v n c ha hn hc hr hold hen hok => congrArg Host.Outcome.next (evrCfgAccess_enables ha hn hc hr hold hen hok)
  case config =>
    exact fun s i p v n c ha hn hc hr hold hen hok => congrArg Host.Outcome.next (evrCfgAccess_enables ha hn hc hr hold hen hok)
  case disable =>
    rintro s _ i p v n ha rfl hr hsame hb rfl
    have hen : bit (BitVec.ofNat 64 (fld (w32 v) 0 22)) 0 = false := by rw [bit_ofNat_fld _ _ _ (by omega), hb, Bool.and_false]
    exact congrArg Host.Outcome.next (evrCfgAccess_taken ha hr (cfgWrite_disables rfl hsame hen))
  case setcfg =>
    rintro s _ i p v n c ha rfl hc rfl hr hold hen hok
    exact next_regWrite_accepted ha (setcfgEffect_taken hr (cfgWrite_enables hc hold hen hok))
  case raise => exact fun s i p v ha hn hr => next_regWrite_accepted ha (evrRaiseEffect_software hn hr)
  case mask =>
    intro s i p k v q want ha hq ho hw hin
    have ho' : p.val = 0 ∨ poolOwner s q = p.val := ho.imp_left (congrArg Fin.val)
    exact ⟨_, next_regWrite_accepted ha rfl, fun b hb => testBit_poolMaskEffect (s := respOk s 0) hq ho' hw hin hb⟩

end Sys2Proof.Machine
end

section
/-! PROOFS of O10. WAITE, bank switches, level enables and entries, budgets and local events (R111 to R126). -/

namespace Sys2Proof.Machine

/-! ## WAITE and the switch of banks (R112 to R115) -/

/-- WAITE on a ready core stalls bank 0; on another bank, but that of a stopped monitor, it ends the service and goes on with the event in
the bank's inbox, or parks. -/
theorem exec_waite_ready (s : State) (c : CoreId) (g : Guard) (h : Safety.CoreReadyCtl s c g) :
    exec (.waite c g) s = .next (conclude c 1 (
      if (getCore s c).cur = 0 then .over (setCore (retire s c 1 none) c { getCore (retire s c 1 none) c with stalled := true })
      else if (getCore s c).stopped && (getCore s c).cur == monLevel s c then .fault s (.plain xILLEGAL 0)
      else if inboxFull (endService s c) c (getCore s c).cur then .done (resumeEvent (endService s c) c (getCore s c).cur) none
      else .over (park (retire (endService s c) c 1 none) c))) :=
  congrArg Host.Outcome.next (runInstr_ready_ctl s c g { ctl := true } _ h rfl rfl)

/-- The scheduler switches a running core to the level that preempts. -/
theorem exec_bankSwitch_up (s : State) (c : CoreId) (l : Nat) (hr : (getCore s c).running = true) (hu : levelUp s c = some l) :
    exec (.bankSwitch c) s = .next (switchTo s c l) := by
  show execBankSwitch c s = _
  simp only [execBankSwitch, hr, hu, Bool.not_true, Bool.false_eq_true, if_false]

/-- Where none preempts and the bank has just parked, the core drops to the level that is ready below. -/
theorem exec_bankSwitch_down (s : State) (c : CoreId) (l : Nat) (hr : (getCore s c).running = true) (hu : levelUp s c = none)
    (hp : (getCore s c).justParked = true) (hd : levelDown s c = some l) : exec (.bankSwitch c) s = .next (switchTo s c l) := by
  show execBankSwitch c s = _
  simp only [execBankSwitch, hr, hu, hp, hd, Bool.not_true, Bool.false_eq_true, if_false]

/-! ## Levels and entries (R111, R126) -/

@[simp] theorem rd_dropLatches (s : State) (c : Nat) (q : RegAddr) : rd (dropLatches s c) q = rd s q := rfl

/-- While levels 1 to 7 are idle, LVLEN takes bits 1 to 7; level 0 stays enabled. -/
theorem lvlenWrite_idle {s : State} {c : Nat} {v : Word} (hi : ∀ l ∈ [1, 2, 3, 4, 5, 6, 7], levelIdle s c l = true)
    (h0 : rb s (Reg.SCHED_LVLEN c) 0 = true) :
    ∃ u, lvlenWrite s c v = some u ∧ rd u (Reg.SCHED_LVLEN c) = BitVec.ofNat 64 (1 + 2 * fld v 1 7) := by
  have hb : bit (BitVec.ofNat 64 (1 + 2 * fld v 1 7)) 0 = true := by
    rw [bit_ofNat _ _ (by omega), Nat.testBit_zero]
    simp
  have hn : (((upto 8).filter fun l => bit (rd s (Reg.SCHED_LVLEN c)) l != bit (BitVec.ofNat 64 (1 + 2 * fld v 1 7)) l).any
      fun l => !levelIdle s c l) = false := by
    refine List.any_eq_false.2 fun l hl => ?_
    obtain ⟨hl8, hd⟩ := List.mem_filter.1 hl
    have h8 : l < 8 := List.mem_range.1 hl8
    have hl0 : l ≠ 0 := by
      rintro rfl
      rw [show bit (rd s (Reg.SCHED_LVLEN c)) 0 = true from h0, hb] at hd
      cases hd
    have hm : l ∈ [1, 2, 3, 4, 5, 6, 7] := by
      simp only [List.mem_cons, List.not_mem_nil, or_false]
      omega
    simp [hi l hm]
  simp only [lvlenWrite, hn, Bool.false_eq_true, if_false]
  refine ⟨_, rfl, ?_⟩
  rw [rd_dropLatches, foldl_proj (fun t => rd t (Reg.SCHED_LVLEN c)) _ _ _ fun t l => rd_setCore .., rd_wr_same]

/-- The entry of an idle level other than 0 takes the word, with PRIV held at the writer's privilege. -/
theorem entryWrite_idle {s : State} {i : Initiator} {c l : Nat} {v : Word} (hl : l ≠ 0) (hi : levelIdle s c l = true) :
    entryWrite s i c l v = some (wr s (Reg.SCHED_ENTRY c l) (setFld v 0 2 (min (fld v 0 2) (initPriv s i)))) := by
  simp only [entryWrite, if_neg hl, hi, Bool.not_true, Bool.false_eq_true, if_false]

/-! ## Budgets and local events (R120, R121) -/

section

variable {s : State} {c : Nat}

/-- A budget timer at 0 stops and sets its OVR bit; at most a local event is latched besides. -/
theorem budgetExpired_zero {l : Nat} (hon : ((getCore s c).bank l).budgetOn = true) (hz : ((getCore s c).bank l).budget = 0) :
    (∃ x, getCore (budgetExpired s c l) c =
      { (getCore s c).setBank l { (getCore s c).bank l with budgetOn := false } with latchBudget := x }) ∧
    ∀ q, rd (budgetExpired s c l) q = rd (wb s (Reg.SCHED_OVR c) l true) q := by
  have hd : (!((getCore s c).bank l).budgetOn || ((getCore s c).bank l).budget != 0) = false := by simp [hon, hz]
  simp only [budgetExpired, hd, Bool.false_eq_true, if_false]
  split
  · exact ⟨⟨(getCore s c).latchBudget, getCore_setCore_same _ _ _⟩, fun _ => rfl⟩
  · exact ⟨⟨some _, getCore_setCore_same _ _ _⟩, fun _ => rfl⟩

/-- Of a core, latches of disabled levels alone are dropped. -/
theorem getCore_dropLatches (s : State) (c : Nat) :
    getCore (dropLatches s c) c = { getCore s c with
      latchBudget := (getCore s c).latchBudget.filter fun y => levelOn s c y.level
      latchCnt := (getCore s c).latchCnt.filter fun y => levelOn s c y.level } :=
  getCore_setCore_same _ _ _

@[simp] theorem inboxFull_dropLatches (s : State) (c l : Nat) : inboxFull (dropLatches s c) c l = inboxFull s c l := by
  simp only [inboxFull, getCore_dropLatches]

/-- A latched event of an enabled level enters its empty inbox. -/
theorem filter_entering {x : Latch} (hl : levelOn s c x.level = true) (hi : inboxFull s c x.level = false) :
    (((some x).filter fun y => levelOn s c y.level).filter fun y => !inboxFull s c y.level) = some x := by
  simp [hl, hi]

/-- A latched BUDGET event enters first. -/
theorem localEnter_budget {x : Latch} (hx : (getCore s c).latchBudget = some x) (hl : levelOn s c x.level = true)
    (hi : inboxFull s c x.level = false) :
    (getCore (localEnter s c) c).latchBudget = none ∧ (getCore (localEnter s c) c).inbox =
      listSet (getCore s c).inbox x.level (some (localEvent 0 x.arg x.level x.time)) := by
  simp only [localEnter, getCore_dropLatches, inboxFull_dropLatches, hx, filter_entering hl hi, getCore_setCore_same, Latch.enter,
    and_self]

/-- A latched CNT_OVF event enters where no BUDGET event is latched. -/
theorem localEnter_cntOvf {x : Latch} (hb : (getCore s c).latchBudget = none) (hx : (getCore s c).latchCnt = some x)
    (hl : levelOn s c x.level = true) (hi : inboxFull s c x.level = false) :
    (getCore (localEnter s c) c).latchCnt = none ∧ (getCore (localEnter s c) c).inbox =
      listSet (getCore s c).inbox x.level (some (localEvent 1 x.arg x.level x.time)) := by
  simp only [localEnter, getCore_dropLatches, inboxFull_dropLatches, hb, hx, Option.filter_none, filter_entering hl hi,
    getCore_setCore_same, Latch.enter, and_self]

end

/-- Settles O10: WAITE and the switches by their branches, writes of the scheduler's registers while the level is idle, and the local
events by the lemmas above. -/
theorem schedulerCommandsComplete : Obligations.SchedulerCommandsComplete := by
  unfold Obligations.SchedulerCommandsComplete
  refine ⟨?stall, ?park, ?goOn, exec_bankSwitch_up, exec_bankSwitch_down, ?enable, ?enableIdle, ?entry, ?budget, ?localBudget, ?localCnt⟩
  case stall =>
    intro s c g h h0
    rw [exec_waite_ready s c g h, if_pos h0, conclude]
  case park =>
    intro s c g h h0 hm hi
    rw [exec_waite_ready s c g h, if_neg h0, hm, hi]
    rfl
  case goOn =>
    intro s c g h h0 hm hi
    rw [exec_waite_ready s c g h, if_neg h0, hm, hi]
    rfl
  case enable => exact fun s u i c v h hu => next_regWriteOpt_accepted h hu
  case enableIdle =>
    intro s i c v h hi h0
    obtain ⟨u, hu, hr⟩ := lvlenWrite_idle (s := respOk s 0) (v := w32 v) hi h0
    exact ⟨u, next_regWriteOpt_accepted h hu, hr⟩
  case entry =>
    intro s i c l v h hl hi
    exact next_regWriteOpt_accepted h (entryWrite_idle (s := respOk s 0) (fun e => hl (Fin.ext e)) hi)
  case budget =>
    intro s c l hon hz
    obtain ⟨⟨x, hx⟩, hq⟩ := budgetExpired_zero hon hz
    refine ⟨budgetExpired s c l, rfl, ?_, fun hl => ?_⟩
    · rw [rb, hq]
      exact rb_wb_same _ _ _ _ (by omega)
    · rw [hx]
      exact congrArg Bank.budgetOn (nth_listSet_same _ _ _ _ hl)
  case localBudget => exact fun s c x hx hl hi => ⟨_, rfl, localEnter_budget hx hl hi⟩
  case localCnt => exact fun s c x hx hb hl hi => ⟨_, rfl, localEnter_cntOvf hb hx hl hi⟩

end Sys2Proof.Machine
end

section
/-! PROOFS of O11. Instruction fetch, XIP lines and predictor operations (R132 to R138, R152, R179). -/

namespace Sys2Proof.Machine

/-! ## Instruction fetch (R132 to R135, R179) -/

section

variable {s : State} {c : CoreId}

/-- Where no unassigned word lies at the PC, the fetched words pass PD; IF1 goes on if the queue can take the line. -/
theorem exec_instructionFetch_assigned (hs : canStep (getCore s c) = true) (hi : illegalHead s c = false) :
    exec (.instructionFetch c) s = .next (
      let u := predecode c 32 s
      if queueTakes (getCore u c) (fetchAt (getCore u c)) then fetchLineAt u c (fetchAt (getCore u c)) else u) := by
  show execInstructionFetch c s = _
  simp only [execInstructionFetch, hs, hi, Bool.not_true, Bool.false_eq_true, if_false, ok]

/-- An unassigned word at the PC raises ILLEGAL, where ID meets nothing before it. -/
theorem exec_instructionFetch_unassigned (hs : canStep (getCore s c) = true) (hd : impreciseDue (curBank s c) = false)
    (hb : ibpHit s c = none) (hi : illegalHead s c = true) :
    exec (.instructionFetch c) s = .next (raiseFault s c (.plain xILLEGAL 0)) := by
  show execInstructionFetch c s = _
  simp only [execInstructionFetch, atId, hs, hd, hb, hi, Bool.not_true, Bool.false_eq_true, if_false, if_true, ok]

end

section

variable {s : State} {c : Nat} {va : Word}

/-- IF1 does not wait where the translation is at hand or the fetch lies on the correct path, and the line waits for no other agent. -/
theorem fetchWaits_false (ht : (itlbHas s c (curBank s c).priv va.toNat || onPath (getCore s c)) = true)
    (hw : accessWaits s c (curBank s c).priv .fetch va.toNat 4 = false) :
    ((!itlbHas s c (curBank s c).priv va.toNat && !onPath (getCore s c)) || accessWaits s c (curBank s c).priv .fetch va.toNat 4) =
      false := by
  rw [← Bool.not_or, ht, hw]
  rfl

/-- Its translation found, a line is fetched from the physical address. -/
theorem fetchLineAt_found {t : State} {pa attr : Nat}
    (ht : (itlbHas s c (curBank s c).priv va.toNat || onPath (getCore s c)) = true)
    (hw : accessWaits s c (curBank s c).priv .fetch va.toNat 4 = false)
    (hx : fetchXl s c (curBank s c).priv va.toNat = (t, .ok (pa, attr))) :
    fetchLineAt s c va = fetchFrom t c va pa attr := by
  simp only [fetchLineAt, fetchWaits_false ht hw, hx, Bool.false_eq_true, if_false]

/-- On the correct path the fault of a translation is raised. -/
theorem fetchLineAt_fault {t : State} {f : Flt} (hp : onPath (getCore s c) = true)
    (hw : accessWaits s c (curBank s c).priv .fetch va.toNat 4 = false)
    (hx : fetchXl s c (curBank s c).priv va.toNat = (t, .error f)) :
    fetchLineAt s c va = raiseFault t c f := by
  simp only [fetchLineAt, fetchWaits_false (Bool.or_eq_true_iff.2 (.inr hp)) hw, hx, Bool.false_eq_true, if_false]
  exact if_pos hp

end

/-! ## XIP lines (R136 to R138) -/

section

variable {s : State} {c : CoreId} {line : BitVec 48}

/-- A line that the core's prefetcher asks for is marked as asked for by the core. -/
theorem exec_xipLineFetch_asks (h : xipAsks s c (lineOf line.toNat) = true) :
    exec (.xipLineFetch c line) s = .next (noteFetch (setPrefetch s c { livePrefetch s c with
      asked := (livePrefetch s c).asked ++ [(lineOf line.toNat, c.val)] }) c (fetchAt (getCore s c)) 0x0D 0x0F) := by
  show execXipLineFetch c line s = _
  simp only [execXipLineFetch, h, if_true, ok]

/-- A line that the core asked for returns, good only if neither the controller nor the line's mark says otherwise. -/
theorem exec_xipLineReturn_asked (uncorr : Bool)
    (h : ((getPrefetch s c).asked.any fun e => e.1 == lineOf line.toNat && e.2 == c.val) = true) :
    exec (.xipLineReturn c line uncorr) s =
      .next (xipReturn s c (lineOf line.toNat) (uncorr || poisoned s (lineOf line.toNat))) := by
  show execXipLineReturn c line uncorr s = _
  simp only [execXipLineReturn, h, if_true, ok]

end

section

variable {s : State} {c line : Nat}

/-- A good line that no fetch waits for enters the buffer. -/
theorem xipReturn_good_ahead (hf : (canStep (getCore s c) && fetchLine s c (fetchAt (getCore s c)) == some line) = false) :
    xipReturn s c line false = setPrefetch s c (bufferLine { livePrefetch s c with
      asked := (livePrefetch s c).asked.filter fun e => e.1 != line } line c) := by
  simp only [xipReturn, hf, Bool.false_eq_true, if_false]

/-- A good line that the fetch waits for enters the buffer and, used from there, L1I. -/
theorem xipReturn_good_wanted {u : State}
    (hf : (canStep (getCore s c) && fetchLine s c (fetchAt (getCore s c)) == some line) = true)
    (hu : u = setPrefetch s c (bufferLine { livePrefetch s c with
      asked := (livePrefetch s c).asked.filter fun e => e.1 != line } line c)) :
    xipReturn s c line false = fillL1i (useLine u c line) c line (rdBytes u (64 * line) 64) := by
  subst hu
  simp only [xipReturn, hf, Bool.false_eq_true, if_false, if_true]

/-- An uncorrectable line that no fetch waits for is logged and not buffered. -/
theorem xipReturn_bad_ahead (hf : (canStep (getCore s c) && fetchLine s c (fetchAt (getCore s c)) == some line) = false) :
    xipReturn s c line true = xipUncorr (setPrefetch s c { livePrefetch s c with
      asked := (livePrefetch s c).asked.filter fun e => e.1 != line }) c line := by
  simp only [xipReturn, hf, Bool.false_eq_true, if_false, if_true]

end

/-! ## Predictor operations (R152) -/

/-- REKEY on a core that runs none gives the owner a new secret and starts. -/
theorem getCore_rekeyStart_idle {s : State} {c : Nat} (h : (getCore s c).rekeyBusy = none) :
    getCore (rekeyStart s c) c = { getCore s c with
      psecret := listSet (getCore s c).psecret (rekeyPart s c) (24832 + s.freeCtr), rekeyBusy := some (rekeyPart s c, s.time) } := by
  simp only [rekeyStart, h]
  exact getCore_setCore_same _ _ _

/-- REKEY drops the BTB entries of the partition it was started for. -/
theorem rekeyDone_busy {k : CoreSt} {p t : Nat} (h : k.rekeyBusy = some (p, t)) :
    rekeyDone k = { k with btb := k.btb.filter fun e => e.2.ctx / 256 != p, rekeyBusy := none } := by
  simp only [rekeyDone, h]

/-- An operation that does not run ends before none. -/
theorem endsFirst_none (y : Option Nat) : endsFirst none y = false := rfl

/-- Of the operations that run, the one that is over first ends: BTB_INV before DIR_INV before REKEY where they tie. -/
theorem exec_predictorOpDone (s : State) (c : CoreId) :
    exec (.predictorOpDone c) s = .next (
      let k := getCore s c
      let btb := opEnd s c 512 k.btbBusy
      let dir := opEnd s c 1024 k.dirBusy
      let rekey := opEnd s c 512 (k.rekeyBusy.map (·.2))
      setCore s c (if endsFirst btb dir && endsFirst btb rekey then btbInvDone k
        else if endsFirst dir rekey then dirInvDone k else rekeyDone k)) := rfl

/-- Settles O11: a fetch by what its words, its queue and its translation come to, an XIP line by whether the fetch waits for it, and an end
of a predictor operation by which is over first. -/
theorem fetchAndPredictorCommandsComplete : Obligations.FetchAndPredictorCommandsComplete := by
  unfold Obligations.FetchAndPredictorCommandsComplete
  refine ⟨?found, ?onPath, ?full, fun s c => exec_instructionFetch_unassigned, fun s c line => exec_xipLineFetch_asks, ?ahead, ?wanted,
    ?uncorr, ?btbInv, ?dirInv, ?rekey, ?btbDone, ?dirDone, ?rekeyDone, ?idle⟩
  case found =>
    rintro s _ c pa a hs hi rfl hq ht hw hx
    rw [exec_instructionFetch_assigned hs hi]
    simp only [hq, if_true]
    rw [fetchLineAt_found ht hw (Prod.ext rfl (eq_ok_of_toOption hx))]
  case onPath =>
    rintro s _ c hs hi rfl hq hp hw
    rw [exec_instructionFetch_assigned hs hi]
    simp only [hq, if_true]
    rcases hx : fetchXl _ _ _ _ with ⟨t, f | ⟨pa, a⟩⟩
    · rw [fetchLineAt_fault hp hw hx]
    · rw [fetchLineAt_found (Bool.or_eq_true_iff.2 (.inr hp)) hw hx]
  case full =>
    rintro s _ c hs hi rfl hq
    rw [exec_instructionFetch_assigned hs hi]
    simp only [hq, Bool.false_eq_true, if_false]
  case ahead =>
    intro s c line ha hg hf
    rw [exec_xipLineReturn_asked _ ha, hg, Bool.or_false, xipReturn_good_ahead hf]
  case wanted =>
    intro s u c line ha hg hf hu
    rw [exec_xipLineReturn_asked _ ha, hg, Bool.or_false, xipReturn_good_wanted hf hu]
  case uncorr =>
    intro s c line ha hf
    rw [exec_xipLineReturn_asked _ ha, Bool.true_or, xipReturn_bad_ahead hf]
  case btbInv =>
    rintro s i c ⟨ha, hm⟩
    show execBtbInv i c s = _
    rw [execBtbInv, hm]
    exact next_regWrite_accepted ha rfl
  case dirInv =>
    rintro s i c ⟨ha, hm⟩
    show execDirInv i c s = _
    rw [execDirInv, hm]
    exact next_regWrite_accepted ha rfl
  case rekey =>
    rintro s i c _ ⟨ha, hm⟩ hb rfl
    have hx : exec (.rekey i c) s = .next (rekeyStart (respOk s 0) c) := by
      show execRekey i c s = _
      rw [execRekey, hm]
      exact next_regWrite_accepted ha rfl
    have hk := getCore_rekeyStart_idle (s := respOk s 0) (c := c.val) hb
    exact ⟨_, hx, congrArg CoreSt.rekeyBusy hk, congrArg CoreSt.psecret hk⟩
  case btbDone =>
    intro s c hd hr
    simp only [exec_predictorOpDone, hd, hr, Bool.and_self, if_true, btbInvDone]
  case dirDone =>
    intro s c hb hd
    simp only [exec_predictorOpDone, hb, hd, Bool.false_and, Bool.false_eq_true, if_false, if_true, dirInvDone]
  case rekeyDone =>
    intro s c p t hk hb hd
    simp only [exec_predictorOpDone, hb, hd, Bool.and_false, Bool.false_eq_true, if_false, rekeyDone_busy hk]
  case idle =>
    intro s c hb hd hr
    have hk : rekeyDone (getCore s c) = getCore s c := by simp only [rekeyDone, hr]
    simp only [exec_predictorOpDone, hb, hd, opEnd, Option.map_none, endsFirst_none, Bool.false_and, Bool.false_eq_true, if_false, hk]

end Sys2Proof.Machine
end

section
/-! PROOFS of O39, O12 and O41. Instructions with a false guard, and the computing instructions: what they come to and what they
leave (R154, R182 to R186, R204). -/

namespace Sys2Proof.Machine

section

variable {s t : State} {c : CoreId} {g : Guard}

/-! ## A false guard (R154) -/

/-- An assigned instruction that trains no predictor is only retired where its guard is false. -/
theorem next_runInstr_skip {i : Ins} {body : State → Exe} (h : Safety.CoreSkips s c g) (hl : i.legal = true) (hm : i.miss s = s) :
    ok (runInstr s c g i body) = .next (retire s c i.words none) := by
  obtain ⟨hrun, himp, hbp, hg, hhead⟩ := h
  rw [runInstr_skip s c g i body hrun himp hbp hhead hl hg, hm]

/-! ## Results of general registers (R182, R186, R204) -/

/-- A one-word instruction of a ready core writes its destination and retires. -/
theorem runReg_ready {legal : Bool} {rd : R5} {f : State → Word} (h : Safety.CoreReady s c g) (hl : legal = true) :
    runReg s c g legal rd f = .next (retire (wg s c rd (f s)) c 1 none) :=
  congrArg Host.Outcome.next (runInstr_ready s c g (insReg legal rd) (setReg c rd f) h hl rfl rfl)

/-- A two-word instruction does the same, and retires with two words. -/
theorem runRegW_ready {rd : R5} {f : State → Word} (h : Safety.CoreReady s c g) :
    runRegW s c g rd f = .next (retire (wg s c rd (f s)) c 2 none) :=
  congrArg Host.Outcome.next (runInstr_ready s c g { insReg true rd with words := 2 } (setReg c rd f) h rfl rfl rfl)

/-- DIV on a ready core: a divisor of 0 is judged on the width of the form. -/
theorem exec_div_ready {fn : BitVec 7} (rd ra rb : R5) {w : Nat} (h : Safety.CoreReady s c g) (hl : decide (fn.toNat % 64 < 4) = true)
    (hw : w = if 64 ≤ fn.toNat then 32 else 64) :
    exec (.div c g fn rd ra rb) s = .next (conclude c 1 (if uintOf w (rg s c rb) = 0 then divZero s c
      else .done (wg s c rd (divVal w (fn.toNat % 64) (rg s c ra) (rg s c rb))) none)) := by
  subst hw
  exact congrArg Host.Outcome.next (runInstr_ready s c g (insReg _ rd) _ h hl rfl rfl)

/-- DIV by a divisor other than 0 writes the table's value. -/
theorem exec_div_nonzero {fn : BitVec 7} (rd ra : R5) {rb : R5} {w : Nat} (h : Safety.CoreReady s c g)
    (hl : decide (fn.toNat % 64 < 4) = true) (hw : w = if 64 ≤ fn.toNat then 32 else 64) (hz : uintOf w (rg s c rb) ≠ 0) :
    exec (.div c g fn rd ra rb) s = .next (retire (wg s c rd (divVal w (fn.toNat % 64) (rg s c ra) (rg s c rb))) c 1 none) := by
  rw [exec_div_ready rd ra rb h hl hw, if_neg hz]
  rfl

/-- DIV by 0 is what AMODE makes of it. -/
theorem exec_div_zero {fn : BitVec 7} (rd ra : R5) {rb : R5} {w : Nat} (h : Safety.CoreReady s c g)
    (hl : decide (fn.toNat % 64 < 4) = true) (hw : w = if 64 ≤ fn.toNat then 32 else 64) (hz : uintOf w (rg s c rb) = 0) :
    exec (.div c g fn rd ra rb) s = .next (conclude c 1 (divZero s c)) := by
  rw [exec_div_ready rd ra rb h hl hw, if_pos hz]

/-- A step that writes one general register and retires only computes. -/
theorem onlyComputes_of_writes {x : Out} {rd : R5} {v : Word} {n : Nat} (hx : x = .next (retire (wg s c rd v) c n none))
    (ht : x = .next t) : Safety.OnlyComputes s t c (some rd) := by
  obtain rfl : retire (wg s c rd v) c n none = t := Host.Outcome.next.inj (hx.symm.trans ht)
  exact onlyComputes_retire_wg s c n rd v none

end

/-- Settles O39: each clause is `next_runInstr_skip` for its instruction, whose encoding is assigned always or where the clause says so. -/
theorem falseGuardOnlyRetires : Obligations.FalseGuardOnlyRetires := by
  unfold Obligations.FalseGuardOnlyRetires
  exact ⟨
    -- WAITE
    fun _ _ _ h => next_runInstr_skip h rfl rfl,
    -- integer functions, immediates, shifts
    fun _ _ _ _ _ _ _ h hl => next_runInstr_skip h hl rfl, fun _ _ _ _ _ _ h => next_runInstr_skip h rfl rfl,
    fun _ _ _ _ _ _ h => next_runInstr_skip h rfl rfl, fun _ _ _ _ _ _ h => next_runInstr_skip h rfl rfl,
    fun _ _ _ _ _ _ h => next_runInstr_skip h rfl rfl, fun _ _ _ _ _ _ h hl => next_runInstr_skip h hl rfl,
    -- compares, predicates, selects
    fun _ _ _ _ _ _ _ _ _ _ h hl => next_runInstr_skip h hl rfl, fun _ _ _ _ _ _ _ h hl => next_runInstr_skip h hl rfl,
    fun _ _ _ _ _ _ _ _ h => next_runInstr_skip h rfl rfl, fun _ _ _ _ _ _ _ h => next_runInstr_skip h rfl rfl,
    -- multiply, divide, fractions
    fun _ _ _ _ _ _ _ h hl => next_runInstr_skip h hl rfl, fun _ _ _ _ _ _ _ h hl => next_runInstr_skip h hl rfl,
    fun _ _ _ _ _ _ _ h hl => next_runInstr_skip h hl rfl,
    -- accumulators
    fun _ _ _ _ _ _ _ _ _ _ _ h hl => next_runInstr_skip h hl rfl, fun _ _ _ _ _ h => next_runInstr_skip h rfl rfl,
    fun _ _ _ _ _ h => next_runInstr_skip h rfl rfl, fun _ _ _ _ _ h => next_runInstr_skip h rfl rfl,
    fun _ _ _ _ _ h => next_runInstr_skip h rfl rfl, fun _ _ _ _ _ h => next_runInstr_skip h rfl rfl,
    fun _ _ _ _ _ h => next_runInstr_skip h rfl rfl, fun _ _ _ _ _ h => next_runInstr_skip h rfl rfl,
    fun _ _ _ _ _ h => next_runInstr_skip h rfl rfl, fun _ _ _ _ _ h hl => next_runInstr_skip h hl rfl,
    fun _ _ _ _ h => next_runInstr_skip h rfl rfl, fun _ _ _ _ _ _ _ _ _ _ _ _ _ h hl => next_runInstr_skip h hl rfl,
    -- loads and stores
    fun _ _ _ _ _ _ _ _ h hl => next_runInstr_skip h hl rfl, fun _ _ _ _ _ _ _ h => next_runInstr_skip h rfl rfl,
    fun _ _ _ _ _ _ _ h hl => next_runInstr_skip h hl rfl, fun _ _ _ _ _ _ _ _ _ _ h hl => next_runInstr_skip h hl rfl,
    fun _ _ _ _ _ _ _ h hl => next_runInstr_skip h hl rfl, fun _ _ _ _ _ _ _ h => next_runInstr_skip h rfl rfl,
    fun _ _ _ _ _ _ h => next_runInstr_skip h rfl rfl, fun _ _ _ _ _ _ _ h hl => next_runInstr_skip h hl rfl,
    -- fences
    fun _ _ _ h => next_runInstr_skip h rfl rfl, fun _ _ _ h => next_runInstr_skip h rfl rfl, fun _ _ _ h => next_runInstr_skip h rfl rfl,
    fun _ _ _ h => next_runInstr_skip h rfl rfl,
    -- loops and system instructions
    fun _ _ _ _ _ _ _ _ h => next_runInstr_skip h rfl rfl, fun _ _ _ _ _ h hl => next_runInstr_skip h hl rfl,
    fun _ _ _ _ _ h hl => next_runInstr_skip h hl rfl, fun _ _ _ h => next_runInstr_skip h rfl rfl,
    fun _ _ _ h => next_runInstr_skip h rfl rfl, fun _ _ _ _ h => next_runInstr_skip h rfl rfl,
    fun _ _ _ _ h => next_runInstr_skip h rfl rfl,
    -- floating point
    fun _ _ _ _ _ _ _ h hl => next_runInstr_skip h hl rfl, fun _ _ _ _ _ _ _ h => next_runInstr_skip h rfl rfl,
    fun _ _ _ _ _ _ h => next_runInstr_skip h rfl rfl, fun _ _ _ _ _ _ h hl => next_runInstr_skip h hl rfl,
    fun _ _ _ _ _ _ h => next_runInstr_skip h rfl rfl, fun _ _ _ _ _ _ _ _ h => next_runInstr_skip h rfl rfl,
    fun _ _ _ _ _ _ _ h hl => next_runInstr_skip h hl rfl, fun _ _ _ _ _ _ _ h hl => next_runInstr_skip h hl rfl,
    -- two-word forms
    fun _ _ _ _ _ h => next_runInstr_skip h rfl rfl, fun _ _ _ _ _ h => next_runInstr_skip h rfl rfl,
    fun _ _ _ _ _ _ h => next_runInstr_skip h rfl rfl, fun _ _ _ _ _ _ h => next_runInstr_skip h rfl rfl,
    fun _ _ _ _ _ _ h => next_runInstr_skip h rfl rfl, fun _ _ _ _ _ _ _ _ _ h hl => next_runInstr_skip h hl rfl,
    -- Prism instructions
    fun _ _ _ _ _ h hl => next_runInstr_skip h hl rfl, fun _ _ _ _ _ h hl => next_runInstr_skip h hl rfl,
    fun _ _ _ _ h => next_runInstr_skip h rfl rfl, fun _ _ _ h => next_runInstr_skip h rfl rfl,
    fun _ _ _ h => next_runInstr_skip h rfl rfl, fun _ _ _ _ _ _ _ _ h hl => next_runInstr_skip h hl rfl,
    fun _ _ _ _ _ h => next_runInstr_skip h rfl rfl, fun _ _ _ _ h => next_runInstr_skip h rfl rfl,
    -- the write of XSAVE
    fun _ _ _ _ h => next_runInstr_skip h rfl rfl⟩

/-- Settles O12: the one-word and two-word forms by `runReg_ready` and `runRegW_ready`, DIV by its divisor and AMODE. -/
theorem integerInstructionsComplete : Obligations.IntegerInstructionsComplete := by
  unfold Obligations.IntegerInstructionsComplete
  refine ⟨fun _ _ _ _ _ _ _ h hl => runReg_ready h hl, fun _ _ _ _ _ _ h => runReg_ready h rfl,
    fun _ _ _ _ _ _ h => runReg_ready h rfl, fun _ _ _ _ _ _ h => runReg_ready h rfl, fun _ _ _ _ _ _ h => runReg_ready h rfl,
    fun _ _ _ _ _ _ h hl => runReg_ready h hl, fun _ _ _ _ _ _ _ h hl => runReg_ready h hl,
    fun _ _ _ _ rd ra _ _ h hl hw hz => exec_div_nonzero rd ra h hl hw hz, ?precise, ?imprecise, ?fraction,
    fun _ _ _ _ _ h => runRegW_ready h, fun _ _ _ _ _ h => runRegW_ready h, fun _ _ _ _ _ _ h => runRegW_ready h,
    fun _ _ _ _ _ _ h => runRegW_ready h, fun _ _ _ _ _ _ h => runRegW_ready h⟩
  case precise =>
    intro s c g fn rd ra rb w h hl hw hz hi
    simp only [exec_div_zero rd ra h hl hw hz, divZero, hi, Bool.false_eq_true, if_false, conclude]
  case imprecise =>
    intro s c g fn rd ra rb w h hl hw hz hi
    simp only [exec_div_zero rd ra h hl hw hz, divZero, hi, if_true, conclude]
  case fraction =>
    rintro s c g fn rd ra rb _ h hl rfl
    exact congrArg Host.Outcome.next (runInstr_ready s c g (insReg _ rd) _ h hl rfl rfl)

/-- Settles O41: each instruction writes one general register and retires. -/
theorem computingInstructionsFrame : Obligations.ComputingInstructionsFrame := by
  unfold Obligations.ComputingInstructionsFrame
  exact ⟨
    fun _ _ _ _ _ _ _ _ h hl ht => onlyComputes_of_writes (runReg_ready h hl) ht,
    fun _ _ _ _ _ _ _ h ht => onlyComputes_of_writes (runReg_ready h rfl) ht,
    fun _ _ _ _ _ _ _ h ht => onlyComputes_of_writes (runReg_ready h rfl) ht,
    fun _ _ _ _ _ _ _ h ht => onlyComputes_of_writes (runReg_ready h rfl) ht,
    fun _ _ _ _ _ _ _ h ht => onlyComputes_of_writes (runReg_ready h rfl) ht,
    fun _ _ _ _ _ _ _ h hl ht => onlyComputes_of_writes (runReg_ready h hl) ht,
    fun _ _ _ _ _ _ _ _ _ h ht => onlyComputes_of_writes (runReg_ready h rfl) ht,
    fun _ _ _ _ _ _ _ _ h ht => onlyComputes_of_writes (runReg_ready h rfl) ht,
    fun _ _ _ _ _ _ _ _ h hl ht => onlyComputes_of_writes (runReg_ready h hl) ht,
    fun _ _ _ _ rd ra _ _ h hl hz ht => onlyComputes_of_writes (exec_div_nonzero rd ra h hl rfl hz) ht,
    fun _ _ _ _ _ _ h ht => onlyComputes_of_writes (runRegW_ready h) ht,
    fun _ _ _ _ _ _ h ht => onlyComputes_of_writes (runRegW_ready h) ht,
    fun _ _ _ _ _ _ _ h ht => onlyComputes_of_writes (runRegW_ready h) ht,
    fun _ _ _ _ _ _ _ h ht => onlyComputes_of_writes (runRegW_ready h) ht,
    fun _ _ _ _ _ _ _ h ht => onlyComputes_of_writes (runRegW_ready h) ht⟩

end Sys2Proof.Machine
end

section
/-! PROOFS of O16. Accumulators, MAC, MACX, and loads and stores through an address generator (R165 to R168, R187 to R191). -/

namespace Sys2Proof.Machine

section

variable {s t : State} {c : CoreId} {g : Guard} {i : Ins} {body : State → Exe} {f : Flt} {next : Option Word}

/-! ## Instructions that may use extended state (R173) -/

/-- An instruction whose operation is done retires. -/
theorem next_runInstr_done (h : Safety.CoreReady s c g) (hl : i.legal = true) (hc : i.ctl = false) (he : i.ext = false)
    (hb : body s = .done t next) : ok (runInstr s c g i body) = .next (retire t c i.words next) := by
  rw [runInstr_ready s c g i body h hl hc he, hb]
  rfl

/-- The same where the extended state is available, whether the instruction uses it or not. -/
theorem next_runInstr_ext_done (h : Safety.CoreReadyExt s c g) (hl : i.legal = true) (hc : i.ctl = false)
    (hb : body s = .done t next) : ok (runInstr s c g i body) = .next (retire t c i.words next) := by
  rw [runInstr_ready_ext s c g i body h hl hc, hb]
  rfl

/-- An operation that faults raises its fault. -/
theorem next_runInstr_ext_fault (h : Safety.CoreReadyExt s c g) (hl : i.legal = true) (hc : i.ctl = false)
    (hb : body s = .fault t f) : ok (runInstr s c g i body) = .next (raiseFault t c f) := by
  rw [runInstr_ready_ext s c g i body h hl hc, hb]
  rfl

end

/-! ## Accesses to X-TCM and Y-TCM (R167, R190, R191) -/

/-- A read of a TCM at a multiple of its size that meets no poisoned line gives the bytes there. -/
theorem tcmLoad_clean {t : State} {c off n : Nat} {y : Bool} (ha : off % n = 0)
    (hp : poisoned (loadCheck t c (tcmAddr c y off) n) (lineOf (tcmAddr c y off)) = false) :
    tcmLoad t c y off n =
      (loadCheck t c (tcmAddr c y off) n, .ok (rdBytes (loadCheck t c (tcmAddr c y off) n) (tcmAddr c y off) n)) := by
  simp only [tcmLoad, ha, hp, ne_eq, not_true_eq_false, if_false, Bool.false_eq_true]

/-- A write of a TCM at a multiple of its size is performed. -/
theorem tcmStore_aligned {t : State} {c off : Nat} {y : Bool} {l : List Byte} (ha : off % l.length = 0) :
    tcmStore t c y off l = (coreStore t c (tcmAddr c y off) l, none) := by
  simp only [tcmStore, ha, ne_eq, not_true_eq_false, if_false]

/-- Settles O16: each instruction that computes by its operation, MACX, LDT and STT by their accesses. -/
theorem accumulatorInstructionsComplete : Obligations.AccumulatorInstructionsComplete := by
  unfold Obligations.AccumulatorInstructionsComplete
  refine ⟨fun _ _ _ _ _ _ _ _ _ _ _ h hl => next_runInstr_ext_done h hl rfl rfl, ?acrd15, ?acrd31, ?acrd63,
    fun _ _ _ _ _ h => next_runInstr_ext_done h rfl rfl rfl, fun _ _ _ _ _ h => next_runInstr_ext_done h rfl rfl rfl,
    fun _ _ _ _ _ h => next_runInstr_ext_done h rfl rfl rfl, fun _ _ _ _ _ h => next_runInstr_ext_done h rfl rfl rfl,
    fun _ _ _ _ _ h => next_runInstr_ext_done h rfl rfl rfl, fun _ _ _ _ _ h hl => next_runInstr_ext_done h hl rfl rfl,
    fun _ _ _ _ h => next_runInstr_ext_done h rfl rfl rfl, ?macx, ?ldt, ?stt⟩
  case acrd15 | acrd31 | acrd63 =>
    rintro s c g rd ac _ h rfl
    exact next_runInstr_ext_done h rfl rfl rfl
  case macx =>
    rintro s c g ac xg yg xpm ypm form sub int clr uns _ u v h hl hx hu hxp hy hv hyp rfl
    subst hu hv
    refine next_runInstr_ext_done h hl rfl ?_
    simp only [tcmLoad_clean hx hxp, tcmLoad_clean hy hyp]
  case ldt =>
    rintro s c g rd y gen pm size uns u h hl ha hu hp
    subst hu
    refine next_runInstr_done h hl rfl rfl ?_
    simp only [Bool.false_eq_true, if_false, tcmLoad_clean ha hp]
  case stt =>
    rintro s c g rd y gen pm size _ h rfl ha
    refine next_runInstr_done h rfl rfl rfl ?_
    simp only [if_true, tcmStore_aligned ha]

end Sys2Proof.Machine
end

section
/-! PROOFS of O18. Branches, calls, returns and hardware loops (R160, R161, R198 to R200). -/

namespace Sys2Proof.Machine

section

variable {s t u v w : State} {c : CoreId} {g : Guard} {i : Ins} {body : State → Exe} {x : Flt} {next : Option Word} {a f ra pf : Word}

/-! ## Instructions of class B, K or C (R170) -/

/-- A transfer, special-register write or system instruction whose operation is done retires. -/
theorem next_runInstr_ctl_done (h : Safety.CoreReadyCtl s c g) (hl : i.legal = true) (he : i.ext = false)
    (hb : body s = .done t next) : ok (runInstr s c g i body) = .next (retire t c i.words next) := by
  rw [runInstr_ready_ctl s c g i body h hl he, hb]
  rfl

/-- One whose operation faults raises its fault. -/
theorem next_runInstr_ctl_fault (h : Safety.CoreReadyCtl s c g) (hl : i.legal = true) (he : i.ext = false)
    (hb : body s = .fault t x) : ok (runInstr s c g i body) = .next (raiseFault t c x) := by
  rw [runInstr_ready_ctl s c g i body h hl he, hb]
  rfl

/-! ## Branches (R198) -/

/-- A jump to an aligned target goes on there. -/
theorem jumpTo_aligned (kind : Nat) (h : badTarget a = false) :
    jumpTo c g kind a s = .done (predict s c kind (isCond g) true (kind != kInd) a) (some a) := by
  simp only [jumpTo, h, Bool.false_eq_true, if_false]

/-- A jump to a misaligned target raises INSTR_ADDR. -/
theorem jumpTo_misaligned (kind : Nat) (h : badTarget a = true) : jumpTo c g kind a s = .fault s (.plain xINSTR_ADDR a) := by
  simp only [jumpTo, h, if_true]

/-- A direct branch is no indirect one. -/
theorem brKind_ne_kInd (g : Guard) : (brKind g != kInd) = true := by
  unfold brKind
  split <;> rfl

/-! ## Calls (R160) -/

/-- A call whose checks pass and whose spills and frame stores are performed pushes its window and goes on at the target. -/
theorem callTo_done (direct : Bool) (hf : callFault (curBank s c) a = none) (hs : spillTo 6 c 8 s = (t, none))
    (he : f = nth (curBank t c).sp 0 (curBank t c).priv - 144)
    (hu : store64 t c (curBank t c).priv f.toNat ((curBank t c).pc + 4) = (u, none))
    (hv : store64 u c (curBank t c).priv (f.toNat + 8) (curBank t c).wfb = (v, none))
    (hw : w = predict v c kCall (isCond g) true direct a) :
    callTo c g direct a s = .done (setCur w c ((curBank w c).pushed f)) (some a) := by
  subst he hw
  simp only [callTo, hf, hs, callPush, hu, hv]

/-! ## Returns (R161) -/

/-- A return whose loads are performed releases the frame and goes on at the return address. -/
theorem retBody_done (hd : (curBank s c).depth ≠ 0) (ht : load64 s c (curBank s c).priv (curBank s c).wfb.toNat = (t, .ok ra))
    (ha : badTarget ra = false) (hp : (curBank s c).popLow = false) (hu : below t c (curBank s c).priv = (u, .ok pf)) :
    retBody c g s = .done (setCur (predict u c kRet (isCond g) true false ra) c
      ((curBank (predict u c kRet (isCond g) true false ra) c).popped pf)) (some ra) := by
  simp only [retBody, hd, ht, ha, hp, hu, Bool.false_eq_true, if_false]

/-- A return with no frame raises RET_UNDERFLOW. -/
theorem retBody_underflow (hd : (curBank s c).depth = 0) : retBody c g s = .fault s (.plain xRET_UNDERFLOW 0) := by
  simp only [retBody, hd, if_true]

end

/-- An access that ended in a state with a value. -/
theorem eq_pair_ok {ε α : Type} {x : State × Except ε α} {t : State} {a : α} (ht : x.1 = t) (ha : x.2.toOption = some a) :
    x = (t, .ok a) :=
  Prod.ext ht (eq_ok_of_toOption ha)

/-- Settles O18: each transfer by what its checks, its frame accesses and its target come to. -/
theorem controlInstructionsComplete : Obligations.ControlInstructionsComplete := by
  unfold Obligations.ControlInstructionsComplete
  refine ⟨?br, ?jr, fun _ _ _ _ h ha => next_runInstr_ctl_fault h rfl rfl (jumpTo_misaligned kInd ha), ?call, ?callr, ?ret,
    fun _ _ _ h hd => next_runInstr_ctl_fault h rfl rfl (retBody_underflow hd), ?loop⟩
  case br =>
    rintro s c g disp _ h rfl ha
    refine next_runInstr_ctl_done h rfl rfl ((jumpTo_aligned (brKind g) ha).trans ?_)
    rw [brKind_ne_kInd]
  case jr =>
    intro s c g ra h ha
    exact next_runInstr_ctl_done h rfl rfl (jumpTo_aligned kInd ha)
  case call =>
    rintro s c g disp t u v w f _ h rfl hf hs he hu hv hw
    exact next_runInstr_ctl_done h rfl rfl (callTo_done true hf hs he hu hv hw)
  case callr =>
    rintro s c g ra t u v w f _ h rfl hf hs he hu hv hw
    exact next_runInstr_ctl_done h rfl rfl (callTo_done false hf hs he hu hv hw)
  case ret =>
    rintro s c g t u _ ra pf h hd ht hra ha hp hu hpf rfl
    exact next_runInstr_ctl_done h rfl rfl (retBody_done hd (eq_pair_ok ht hra) ha hp (eq_pair_ok hu hpf))
  case loop =>
    rintro s c g lv i cnt cr endOff _ _ h rfl rfl
    exact next_runInstr_done h rfl rfl rfl rfl

end Sys2Proof.Machine
end

section
/-! PROOFS of O19. Special registers, return from exception, WFLUSH, TRAP and BRK (R155, R176, R201, R202, R221, R225, R477). -/

namespace Sys2Proof.Machine

section

variable {s t u v : State} {c : CoreId} {g : Guard} {i : Ins} {body : State → Exe} {n : Nat} {x w pf : Word}

/-! ## How class C ends (R155, R218) -/

/-- A special-register write whose operation is a mode write retires, and its value stands in shadow. -/
theorem next_runInstr_ctl_mode (h : Safety.CoreReadyCtl s c g) (hl : i.legal = true) (he : i.ext = false)
    (hb : body s = .mode t n x) : ok (runInstr s c g i body) = .next (setCore (retire t c i.words none) c
      (shadowPut (getCore (retire t c i.words none) c) (getCore t c).cur n x)) := by
  rw [runInstr_ready_ctl s c g i body h hl he, hb]
  rfl

/-- An instruction that its own routine ends leaves the routine's state. -/
theorem next_runInstr_ctl_over (h : Safety.CoreReadyCtl s c g) (hl : i.legal = true) (he : i.ext = false)
    (hb : body s = .over t) : ok (runInstr s c g i body) = .next t := by
  rw [runInstr_ready_ctl s c g i body h hl he, hb]
  rfl

/-! ## Special registers (R155, R201) -/

/-- MFSR with the privilege reads the register, or what a MACX paired with it found. -/
theorem exec_mfsr_ready (rd : R5) {sr : BitVec 6} (h : Safety.CoreReadyExt s c g) (hl : srListed sr.toNat = true)
    (hp : srReadPriv sr.toNat ≤ (curBank s c).priv) :
    exec (.mfsr c g rd sr) s = .next (retire (wg s c rd (mfsrVal s c sr.toNat)) c 1 none) := by
  refine next_runInstr_ext_done h hl rfl ?_
  simp only [Nat.not_lt.2 hp, if_false]

/-- A bank's privilege is a field of two bits. -/
theorem Bank.priv_lt (b : Bank) : b.priv < 4 := Nat.mod_lt _ (by decide)

/-- A write of a plain special register that passes the checks of R155 and R158 is a mode write. -/
theorem mtsrBody_plain (hp : srWritePriv n ≤ (curBank s c).priv) (h0 : n ≠ 0) (hx : n ≠ 0x20)
    (hw : n = 1 ∨ n = 2 → (curBank s c).wres = 1)
    (hs : n = 4 + (curBank s c).priv → ¬x.toNat < (nth (curBank s c).slim 0 (curBank s c).priv).toNat) :
    mtsrBody c n x s = .mode s n x := by
  have hw' : ¬((n = 1 ∨ n = 2) ∧ (curBank s c).wres ≠ 1) := fun e => e.2 (hw e.1)
  have hs' : ¬(n = 4 + (curBank s c).priv ∧ x.toNat < (nth (curBank s c).slim 0 (curBank s c).priv).toNat) := fun e => hs e.1 e.2
  simp only [mtsrBody, Nat.not_lt.2 hp, h0, hw', hs', hx, if_false]

/-- A write of STATUS at H or M with no imprecise exception pending is a mode write with its ML in force at once. -/
theorem mtsrBody_status (hp : 2 ≤ (curBank s c).priv) (hi : (curBank s c).imprecise = []) :
    mtsrBody c 0 x s = .mode (setCur s c ((curBank s c).setMl x)) 0 x := by
  have hp0 : ((curBank s c).priv = 0) = False := eq_false (by omega)
  simp only [mtsrBody, srWritePriv, statusWrite, hi, hp0, decide_false, Bool.false_and, List.isEmpty_nil, Bool.not_true,
    Bool.false_eq_true, if_false, if_true, Nat.not_lt_zero, Nat.reduceLeDiff, false_and, Nat.reduceEqDiff, or_self]

/-- A write of XSAVE by a bank that does not own the loaded state is a mode write. -/
theorem mtsrBody_xsave (hp : srWritePriv 0x20 ≤ (curBank s c).priv) (ho : xstateOwned (getCore s c) (getCore s c).cur = false) :
    mtsrBody c 0x20 x s = .mode s 0x20 x := by
  have hs : ¬(0x20 = 4 + (curBank s c).priv ∧ x.toNat < (nth (curBank s c).slim 0 (curBank s c).priv).toNat) := fun e => by
    have := (curBank s c).priv_lt
    omega
  simp only [mtsrBody, Nat.not_lt.2 hp, hs, xsaveWrite, ho, Nat.reduceEqDiff, or_self, false_and, Bool.not_false, if_true, if_false]

/-! ## Return from exception (R221, R225) -/

/-- RFE with the privilege leaves the double-fault handler or releases the frame. -/
theorem exec_rfe_ready (h : Safety.CoreReadyCtl s c g) (hp : (curBank s c).priv ≠ 0) :
    exec (.rfe c g) s = .next (conclude c 1 (if (getCore s c).df then rfeDf c s else rfeBody c s)) := by
  refine (congrArg Host.Outcome.next (runInstr_ready_ctl s c g { ctl := true } _ h rfl rfl)).trans ?_
  simp only [hp, if_false]

/-- The return whose loads are performed and whose frame it may release. -/
theorem rfeBody_done (hd : (curBank s c).depth ≠ 0) (ht : load64 s c (curBank s c).priv (curBank s c).wfb.toNat = (t, .ok w))
    (hf : frameOk w (curBank s c).priv = true) (hp : (curBank s c).popLow = false) (hu : below t c (fld w 48 2) = (u, .ok pf)) :
    rfeBody c s = .over (rfeGo u c pf w) := by
  simp only [rfeBody, hd, ht, hf, hp, hu, Bool.not_true, Bool.false_eq_true, if_false]

/-! ## WFLUSH (R202, R242) -/

/-- WFLUSH on a ready core spills the windows below the current one. -/
theorem exec_wflush_ready (h : Safety.CoreReady s c g) : exec (.wflush c g) s = .next (conclude c 1 (flushWindows c 8 s)) :=
  congrArg Host.Outcome.next (runInstr_ready s c g {} (flushWindows c 8) h rfl rfl rfl)

/-- Nothing is left to spill below the only resident window. -/
theorem flushWindows_none (h : (curBank s c).wres ≤ 1) : flushWindows c (n + 1) s = .done s none := by
  simp only [flushWindows, h, if_true]

/-- One spill that commits: the last, or one before a switch, or one of several. -/
theorem flushWindows_spilled (h : 1 < (curBank s c).wres) (hs : spill s c = (t, none)) :
    flushWindows c (n + 1) s = if (curBank t c).wres ≤ 1 then .done t none
      else if (levelUp t c).isSome then .over t else flushWindows c n t := by
  simp only [flushWindows, Nat.not_le.2 h, hs, if_false]

/-- A spill that faults. -/
theorem flushWindows_fault {f : Flt} (h : 1 < (curBank s c).wres) (hs : spill s c = (t, some f)) :
    flushWindows c (n + 1) s = .fault t f := by
  simp only [flushWindows, Nat.not_le.2 h, hs, if_false]

end

/-- Settles O19: each clause is what its instruction's operation comes to, and how a class C instruction ends. -/
theorem systemInstructionsComplete : Obligations.SystemInstructionsComplete := by
  unfold Obligations.SystemInstructionsComplete
  refine ⟨?mfsr, ?mfsrPaired, ?mfsrPriv, ?mtsr, ?status, ?xsave, ?rfe, ?rfeDf, ?rfePriv, ?flushNone, ?flushLast, ?flushMore, ?flushCut,
    ?flushFault, fun _ _ _ _ h => next_runInstr_ctl_over h rfl rfl rfl, ?brk, ?brkDebug⟩
  case mfsr =>
    intro s c g rd sr h hl hp hn
    rw [exec_mfsr_ready rd h hl hp, mfsrVal, hn]
  case mfsrPaired =>
    intro s c g rd sr v h hl hp hn
    rw [exec_mfsr_ready rd h hl hp, mfsrVal, hn]
  case mfsrPriv =>
    intro s c g rd sr h hl hp
    refine next_runInstr_ext_fault h hl rfl ?_
    simp only [hp, if_true, privFault]
  case mtsr =>
    rintro s c g ra _ n _ h rfl hw hx hp hn hwin hsp rfl
    exact next_runInstr_ctl_mode h hw hx (mtsrBody_plain hp hn.1 hn.2 hwin hsp)
  case status =>
    rintro s c g ra _ h hp hi rfl
    exact next_runInstr_ctl_mode h rfl rfl (mtsrBody_status hp hi)
  case xsave =>
    rintro s c g ra _ ⟨h, _⟩ hp ho rfl
    exact next_runInstr_ctl_mode h rfl rfl (mtsrBody_xsave hp ho)
  case rfe =>
    intro s c g t u w pf h hp hdf hd ht hw hf hl hu hpf
    rw [exec_rfe_ready h hp, hdf, rfeBody_done hd (eq_pair_ok ht hw) hf hl (eq_pair_ok hu hpf)]
    rfl
  case rfeDf =>
    rintro s _ _ _ c g _ h hp hdf hk rfl rfl rfl rfl
    rw [exec_rfe_ready h hp, hdf, if_pos rfl]
    simp only [rfeDf, hk, Bool.false_eq_true, if_false, conclude]
  case rfePriv =>
    intro s c g h hp
    refine next_runInstr_ctl_fault h rfl rfl ?_
    simp only [hp, if_true, privFault]
  case flushNone =>
    intro s c g h hw
    rw [exec_wflush_ready h, flushWindows_none hw]
    rfl
  case flushLast =>
    intro s c g t h hw hs ht
    rw [exec_wflush_ready h, flushWindows_spilled hw hs, if_pos ht]
    rfl
  case flushMore =>
    intro s c g t h hw hs ht hu
    rw [exec_wflush_ready h, flushWindows_spilled hw hs, if_neg (Nat.not_le.2 ht), hu, if_neg Bool.false_ne_true]
  case flushCut =>
    intro s c g t h hw hs ht hu
    rw [exec_wflush_ready h, flushWindows_spilled hw hs, if_neg (Nat.not_le.2 ht), if_pos hu]
    rfl
  case flushFault =>
    intro s c g t f h hw hs
    rw [exec_wflush_ready h, flushWindows_fault hw hs]
    rfl
  case brk =>
    intro s c g arg h hf
    refine next_runInstr_ctl_over h rfl rfl ?_
    simp only [beq_eq_false_iff_ne.2 hf, Bool.false_and, Bool.false_eq_true, if_false]
    rfl
  case brkDebug =>
    intro s c g arg p h hf ho hb
    refine next_runInstr_ctl_done h rfl rfl ?_
    simp only [hf, ho, hb, beq_self_eq_true, Bool.and_self, if_true]
    rfl

end Sys2Proof.Machine
end

section
/-! PROOFS of O20. Floating-point arithmetic, conversions, moves, compares, loads and stores (R164, R203, R228). -/

namespace Sys2Proof.Machine

section

variable {s t : State} {c : CoreId} {g : Guard} {put : State → Exe} {flags v va attr : Nat} {dbl : Bool} {fd fa fb rd : R5} {r : FpRes}
  {l : List Byte}

/-! ## How an operation ends (R164, R228) -/

/-- Flags of which none has its trap enabled are set, and the result is put. -/
theorem fpEnd_untrapped (h : flags &&& fld (getCore (noteFlags t c flags) c).fpcsr 7 5 = 0) :
    fpEnd c flags put t = put (noteFlags t c flags) := by
  simp only [fpEnd, h, if_true]

/-- A flag whose trap is enabled raises ARITH under PRECISE, and nothing is put. -/
theorem fpEnd_trapped (h : flags &&& fld (getCore (noteFlags t c flags) c).fpcsr 7 5 ≠ 0)
    (hi : (curBank (noteFlags t c flags) c).imp = false) :
    fpEnd c flags put t =
      .fault (noteFlags t c flags) { cause := xARITH, sub := flags, t1 := (curBank (noteFlags t c flags) c).pc } := by
  simp only [fpEnd, h, hi, Bool.false_eq_true, if_false]

/-! ## Operations and conversions (Table 7.15) -/

/-- An operation, once the free value for a NaN operand is taken, ends with its flags and its result in the destination. -/
theorem fpBody_eq {fn : Nat} (hv : (v, t) = freeIf (nanBits (fmtOf dbl) (fbits dbl (fr s c fa)) ||
      nanBits (fmtOf dbl) (fbits dbl (fr s c fb)) || nanBits (fmtOf dbl) (fbits dbl (fr s c fd))) s)
    (hr : r = fpOp (fmtOf dbl) fn (frm t c) v (fbits dbl (fr s c fa)) (fbits dbl (fr s c fb)) (fbits dbl (fr s c fd))) :
    fpBody c dbl fn fd fa fb s = fpEnd c r.flags (fun t => .done (fw t c fd (fbox dbl r.bits)) none) t := by
  simp only [fpBody, ← hv, ← hr]

/-- A conversion to an f register where no set flag traps. -/
theorem fcvtF_untrapped {src : Fmt} {x : Nat} (hv : (v, t) = freeIf (nanBits src x) s)
    (hr : r = fpConv (fmtOf dbl) (frm t c) v (unpack src x)) (h : r.flags &&& fld (getCore (noteFlags t c r.flags) c).fpcsr 7 5 = 0) :
    fcvtF c dbl rd src x s = .done (fw (noteFlags t c r.flags) c rd (fbox dbl r.bits)) none := by
  simp only [fcvtF, ← hv, ← hr, fpEnd_untrapped h]

/-- FCVT with an assigned function on a ready core comes to its conversion. -/
theorem exec_fcvt_done {fn : BitVec 7} {ra : R5} (h : Safety.CoreReadyExt s c g) (hl : fn.toNat % 64 ≤ 6)
    (hb : fcvtBody c fn rd ra s = .done t none) : exec (.fcvt c g fn rd ra) s = .next (retire t c 1 none) :=
  next_runInstr_ext_done h (decide_eq_true hl) rfl hb

/-! ## Loads and stores (R192, R203) -/

/-- A load that waits for nothing and is performed is counted, watched, and its bytes are put. -/
theorem loadBy_done {n : Nat} {put : State → List Byte → Exe} (hw : accessWaits s c (curBank s c).priv .load va n = false)
    (hh : hostAsk s c (curBank s c).priv va n = none) (hr : (anyRead s c (curBank s c).priv va n).2.toOption = some (l, attr)) :
    loadBy c n va put s = put (watch (countAcc (anyRead s c (curBank s c).priv va n).1 c 0x1B va attr) c va n false) l := by
  rw [loadBy, hw, if_neg Bool.false_ne_true, hh,
    show anyRead s c (curBank s c).priv va n = (_, .ok (l, attr)) from eq_pair_ok rfl hr]

/-- A store that waits for nothing and is performed is counted and watched. -/
theorem storeBy_done (after : State → State) (hw : accessWaits s c (curBank s c).priv .store va l.length = false)
    (hr : (anyWrite s c (curBank s c).priv va l).2.toOption = some attr) :
    storeBy c va l after s =
      .done (after (watch (countAcc (anyWrite s c (curBank s c).priv va l).1 c 0x1C va attr) c va l.length true)) none := by
  rw [storeBy, hw, if_neg Bool.false_ne_true, show anyWrite s c (curBank s c).priv va l = (_, .ok attr) from eq_pair_ok rfl hr]

/-- The store of a binary16 result of which no set flag traps sets the flags when it commits. -/
theorem halfStore_untrapped (h : flags &&& fld (getCore s c).fpcsr 7 5 = 0) :
    halfStore c va l flags s = storeBy c va l (fun t => noteFlags t c flags) s := by
  simp only [halfStore, h, if_true]

end

/-- Settles O20: each operation by its flags and its result, each load and store by its access. -/
theorem floatingPointInstructionsComplete : Obligations.FloatingPointInstructionsComplete := by
  unfold Obligations.FloatingPointInstructionsComplete
  refine ⟨fun _ _ _ _ _ _ _ _ _ _ h hl hv hr hf => next_runInstr_ext_done h hl rfl ((fpBody_eq hv hr).trans (fpEnd_untrapped hf)),
    fun _ _ _ _ _ _ _ _ _ _ h hv hr hf => next_runInstr_ext_done h rfl rfl ((fpBody_eq hv hr).trans (fpEnd_untrapped hf)),
    fun _ _ _ _ _ _ _ _ _ _ h hv hr hf hi => next_runInstr_ext_fault h rfl rfl ((fpBody_eq hv hr).trans (fpEnd_trapped hf hi)),
    fun _ _ _ _ _ _ _ _ _ h hv hr hf => next_runInstr_ext_done h rfl rfl ((fpBody_eq hv hr).trans (fpEnd_untrapped hf)),
    ?toSingle, ?toDouble, ?toInt, ?ofInt, fun _ _ _ _ _ _ h => next_runInstr_ext_done h rfl rfl rfl,
    fun _ _ _ _ _ _ h => next_runInstr_ext_done h rfl rfl rfl, ?fcmp, ?fld, ?fst32, ?fst64, ?fst16⟩
  case toSingle =>
    intro s c g fn rd ra v t r h hn hv hr hf
    refine exec_fcvt_done h (by omega) ?_
    simp only [fcvtBody, hn, fcvtF_untrapped hv hr hf]
  case toDouble =>
    intro s c g fn rd ra v t r h hn hv hr hf
    refine exec_fcvt_done h (by omega) ?_
    simp only [fcvtBody, hn, fcvtF_untrapped hv hr hf]
  case toInt =>
    intro s c g fn rd ra v t r h hn hv hr hf
    refine exec_fcvt_done h (by omega) ?_
    simp only [fcvtBody, hn, ← hv, ← hr, fpEnd_untrapped hf]
  case ofInt =>
    intro s c g fn rd ra r h hn hr hf
    refine exec_fcvt_done h (by omega) ?_
    simp only [fcvtBody, hn, ← hr, fpEnd_untrapped hf]
  case fcmp =>
    intro s c g dbl pd rel fa fb r h hr hf
    refine next_runInstr_ext_done h rfl rfl ?_
    simp only [fcmpBody, ← hr, fpEnd_untrapped hf]
  case fld =>
    rintro s c g fd ra sz off _ _ l attr h hl rfl rfl hw hh ha
    exact next_runInstr_ext_done h hl rfl (loadBy_done hw hh ha)
  case fst32 =>
    rintro s c g fd ra off _ attr _ h rfl rfl hw ha
    exact next_runInstr_ext_done h rfl rfl (storeBy_done id hw ha)
  case fst64 =>
    rintro s c g fd ra off _ attr _ h rfl rfl hw ha
    exact next_runInstr_ext_done h rfl rfl (storeBy_done id hw ha)
  case fst16 =>
    rintro s c g fd ra off _ attr _ v t r h hv hr rfl rfl hf hw ha
    refine next_runInstr_ext_done h rfl rfl ?_
    simp only [if_true, ← hv, ← hr]
    exact (halfStore_untrapped hf).trans (storeBy_done _ hw ha)

end Sys2Proof.Machine
end

section
/-! PROOFS of O21. Prism instructions and commands, customer instructions, and the sequence that makes extended state available (R173,
R205 to R208, R210, R248). -/

namespace Sys2Proof.Machine

section

variable {s t : State} {c : CoreId} {g : Guard}

/-! ## Prism instructions (R205) -/

/-- A command issues while fewer than four wait. -/
theorem prismIssue_queued {op : PrismOp} (h : (getCore s c).prismQ.length < 4) :
    prismIssue c op s = .done (countCur (setCore s c { getCore s c with prismQ := (getCore s c).prismQ ++
      [{ op := op, prm := (getCore s c).pr, rnd := (curBank s c).rnd, since := s.time }] }) c 0x18) none := by
  simp only [prismIssue, Nat.not_le.2 h, if_false]

/-- PWAIT with no command left retires where no error stands, and faults where one does. -/
theorem exec_pwait_empty (h : Safety.CoreReadyExt s c g) (hq : (getCore s c).prismQ = []) :
    exec (.pwait c g) s = .next (conclude c 1 (
      if fld (getCore s c).pstat 16 4 ≠ 0 then .fault s { cause := xCOPROCESSOR, sub := fld (getCore s c).pstat 16 4, t1 := 0 }
      else .done s none)) := by
  refine (congrArg Host.Outcome.next (runInstr_ready_ext s c g (insPrism true) _ h rfl rfl)).trans ?_
  simp only [hq, List.isEmpty_nil, Bool.not_true, Bool.false_eq_true, if_false]
  rfl

/-! ## Prism units (R207, R208) -/

/-- A free unit that is within reach takes the next core's command, and notes how long that waited. -/
theorem exec_prismCommandStart_free {u : Fin 48} {i : Nat} {x : PrismCmd} {l : List PrismCmd} (hb : (getPrism s u).busy = none)
    (ha : away s .prism u = false) (hn : prismNext s u = some i) (hq : (getCore s (8 * u + i)).prismQ = x :: l) :
    exec (.prismCommandStart u) s = .next (wr { s with prism := s.prism.set u { busy := some i, last := i } } (Reg.PRISM_WAITMAX u)
      (BitVec.ofNat 64 (min 0xFFFFFFFF (max (rd s (Reg.PRISM_WAITMAX u)).toNat (fabricCycles (s.time - x.since)))))) := by
  show execPrismCommandStart u s = _
  simp only [execPrismCommandStart, hb, ha, hn, hq, Option.isSome_none, Bool.or_self, Bool.false_eq_true, if_false]

/-- A command whose counts and buffers are in range and that meets no uncorrectable word leaves its outputs and is counted. -/
theorem prismDone_good {u n : Nat} {x : PrismCmd} (hp : x.paramOk = true) (hf : (x.ins ++ x.outs).all Buf.fits = true)
    (hc : (x.ins.any fun b => b.len != 0 && touchesPoison s (b.addr n) b.len) = false) :
    prismDone s u n x false = prismNote (prismPop (prismWork s n x).1 u n false) n (prismWork s n x).2 true := by
  simp only [prismDone, hp, hf, hc, Bool.not_true, Bool.or_self, Bool.false_eq_true, if_false]

/-! ## Customer instructions (R248) -/

/-- A routine whose word is good, reaches no memory and ends it commits at that word. -/
theorem microRun_ends {n a : Nat} {m : Micro} {l : List Nat} {w : BitVec 152} (hw : w = microWord (getCore s c) a)
    (hp : wordBad (getCore s c) a = false) (hb : microBad m w (n == 0) = none) (hm : uMem w = 0) (he : uSeq w = 7) :
    microRun c (n + 1) m a l s = microEnd s c (m.note w (m.src s c (uSrcA w)) (m.src s c (uSrcB w)) 0) w := by
  subst hw
  simp only [microRun, hp, hb, hm, he, Bool.false_eq_true, if_false, if_true]

/-- A customer instruction of a good decode entry runs its routine. -/
theorem exec_customInstruction_ready {sub rd ra rb : R5} {dt : Word} (h : Safety.CoreReadyExt s c g)
    (hd : dt = Machine.rd s (Reg.MC_DT c sub.toNat)) (hl : customLegal dt rd ra rb = true)
    (hb : (getCore s c).badWords.contains (2 ^ 14 + sub.toNat) = false) :
    exec (.customInstruction c g sub rd ra rb) s = .next (conclude c 1
      (microRun c (8 * (fld dt 16 5 + 1)) (Micro.start sub.toNat dt rd ra rb) (custLo + fld dt 1 8) [] s)) := by
  subst hd
  refine (congrArg Host.Outcome.next (runInstr_ready_ext s c g
    { legal := customLegal _ rd ra rb, ext := bit _ 12, dst := if bit _ 9 then [rd] else [] } _ h hl rfl)).trans ?_
  simp only [hb, Bool.false_eq_true, if_false]

/-! ## The lazy sequence (R173) -/

/-- Extended state that the current bank owns is available at once. -/
theorem lazySeq_owned (ha : (getCore s c).avail = false) (ho : xstateOwned (getCore s c) (getCore s c).cur = true) :
    lazySeq s c = .ready (countCur (setCore s c { getCore s c with avail := true }) c 0x11) := by
  simp only [lazySeq, ha, ho, Bool.false_eq_true, if_false, if_true]

/-- A bank with XSAVE.EN 0 that does not own the state faults. -/
theorem lazySeq_disabled (ha : (getCore s c).avail = false) (ho : xstateOwned (getCore s c) (getCore s c).cur = false)
    (he : bit (curBank s c).xsave 0 = false) : lazySeq s c = .fault s (.plain xXSTATE_DISABLED 0) := by
  have he' : bit ((getCore s c).bank (getCore s c).cur).xsave 0 = false := he
  simp only [lazySeq, ha, ho, he', Bool.not_false, Bool.false_eq_true, if_false, if_true]

end

/-- Settles O21: the instructions by their operations, a unit's commands by their rules above, and the sequence by who owns the state. -/
theorem prismAndCustomerCommandsComplete : Obligations.PrismAndCustomerCommandsComplete := by
  unfold Obligations.PrismAndCustomerCommandsComplete
  refine ⟨fun _ _ _ _ _ h hl => next_runInstr_ext_done h hl rfl rfl, fun _ _ _ _ _ h hl => next_runInstr_ext_done h hl rfl rfl,
    fun _ _ _ _ h => next_runInstr_ext_done h rfl rfl rfl, fun _ _ _ h => next_runInstr_ext_done h rfl rfl rfl, ?pwait, ?pwaitError,
    fun _ _ _ _ _ _ _ _ h hl hq => next_runInstr_ext_done h hl rfl (prismIssue_queued hq),
    fun _ _ _ _ _ h hq => next_runInstr_ext_done h rfl rfl (prismIssue_queued hq),
    fun _ _ _ _ h hq => next_runInstr_ext_done h rfl rfl (prismIssue_queued hq),
    fun _ _ _ _ _ => exec_prismCommandStart_free, ?done, ?customer, ?lazyOwned, ?lazyDisabled⟩
  case pwait =>
    intro s c g h hq he
    rw [exec_pwait_empty h hq, if_neg (not_not_intro he)]
    rfl
  case pwaitError =>
    intro s c g h hq he
    rw [exec_pwait_empty h hq, if_pos he]
    rfl
  case done =>
    rintro s u i x l _ hb rfl hq hp hf hc
    show execPrismCommandDone u false s = _
    simp only [execPrismCommandDone, hb, hq, prismDone_good hp hf hc]
  case customer =>
    rintro s c g sub rd ra rb dt w _ h hd hl hbad hp hw rfl hb hm he
    rw [exec_customInstruction_ready h hd hl hbad]
    exact congrArg (fun e => Host.Outcome.next (conclude c 1 e)) (microRun_ends (n := 8 * fld dt 16 5 + 7) hw hp hb hm he)
  case lazyOwned =>
    intro s c hs ha ho
    show execXstateLazy c s = _
    simp only [execXstateLazy, hs, lazySeq_owned ha ho, Bool.not_true, Bool.false_eq_true, if_false]
  case lazyDisabled =>
    intro s c hs ha ho he
    show execXstateLazy c s = _
    simp only [execXstateLazy, hs, lazySeq_disabled ha ho he, Bool.not_true, Bool.false_eq_true, if_false]

end Sys2Proof.Machine
end

section
/-! PROOFS of O49. Instruction words are decoded by their major, and their fields read back (R178 to R181, Tables 7.1 to 7.3). -/

namespace Sys2Proof.Machine

section

variable {s : State} {c : CoreId} {w imm : W32} {dt : Nat → Word}

/-! ## Each decoder answers for its own majors alone (Table 7.3) -/

theorem decInt_eq_none (h : wMajor w = 0 ∨ wMajor w = 7 ∨ 0x0D < wMajor w) : decInt c w = none := by
  unfold decInt
  split
  case h_13 => rfl
  all_goals omega

theorem decAcc_eq_none (h : wMajor w < 0x0E ∨ 0x10 < wMajor w) : decAcc c w = none := by
  unfold decAcc
  split
  case h_4 => rfl
  all_goals omega

theorem decMem_eq_none (h : wMajor w < 0x11 ∨ 0x1F < wMajor w) : decMem c w = none := by
  unfold decMem
  split
  case h_16 => rfl
  all_goals omega

theorem decCtl_eq_none (h : wMajor w < 0x20 ∨ 0x28 < wMajor w) : decCtl c w = none := by
  unfold decCtl
  split
  case h_10 => rfl
  all_goals omega

theorem decFp_eq_none (h : wMajor w < 0x29 ∨ 0x2B < wMajor w) : decFp c w = none := by
  unfold decFp
  split
  case h_4 => rfl
  all_goals omega

theorem decWide_eq_none (h : wMajor w < 0x30 ∨ 0x35 < wMajor w) : decWide c w imm = none := by
  unfold decWide
  split
  case h_7 => rfl
  all_goals omega

theorem decPrism_eq_none (h : wMajor w < 0x38 ∨ 0x3C < wMajor w) : decPrism dt c w = none := by
  unfold decPrism
  split
  case h_6 => rfl
  all_goals omega

/-- A word of the integer majors spells what their decoder says. -/
theorem instrOf_int (h : wMajor w ≤ 0x0D) : instrOf s c w imm = decInt c w := by
  simp (disch := omega) only [instrOf, decAcc_eq_none, decMem_eq_none, decCtl_eq_none, decFp_eq_none, decWide_eq_none,
    decPrism_eq_none, Option.orElse_eq_or, Option.or_none]

/-- The same for a word of the memory majors. -/
theorem instrOf_mem (h : 0x11 ≤ wMajor w ∧ wMajor w ≤ 0x1F) : instrOf s c w imm = decMem c w := by
  simp (disch := omega) only [instrOf, decInt_eq_none, decAcc_eq_none, decCtl_eq_none, decFp_eq_none, decWide_eq_none,
    decPrism_eq_none, Option.orElse_eq_or, Option.or_none, Option.none_or]

/-- The same for a word of the control majors. -/
theorem instrOf_ctl (h : 0x20 ≤ wMajor w ∧ wMajor w ≤ 0x28) : instrOf s c w imm = decCtl c w := by
  simp (disch := omega) only [instrOf, decInt_eq_none, decAcc_eq_none, decMem_eq_none, decFp_eq_none, decWide_eq_none,
    decPrism_eq_none, Option.orElse_eq_or, Option.or_none, Option.none_or]

/-- The same for the first word of a two-word instruction. -/
theorem instrOf_wide (h : 0x30 ≤ wMajor w ∧ wMajor w ≤ 0x35) : instrOf s c w imm = decWide c w imm := by
  simp (disch := omega) only [instrOf, decInt_eq_none, decAcc_eq_none, decMem_eq_none, decCtl_eq_none, decFp_eq_none,
    decPrism_eq_none, Option.orElse_eq_or, Option.or_none, Option.none_or]

/-- A word of a major that no table assigns spells no instruction. -/
theorem instrOf_unassigned (h : wMajor w ∈ [0x00, 0x07, 0x2C, 0x2D, 0x2E, 0x2F, 0x36, 0x37, 0x3D, 0x3E, 0x3F]) :
    instrOf s c w imm = none := by
  simp only [List.mem_cons, List.not_mem_nil, or_false] at h
  simp (disch := omega) only [instrOf, decInt_eq_none, decAcc_eq_none, decMem_eq_none, decCtl_eq_none, decFp_eq_none,
    decWide_eq_none, decPrism_eq_none, Option.orElse_eq_or, Option.or_none]

end

/-! ## Formats (Tables 7.1, 7.2) -/

/-- A word shows a guard, a major and the operands of format I or M. -/
structure ShowsI (w : W32) (g : Guard) (m : BitVec 6) (rd ra : R5) (imm : BitVec 12) : Prop where
  major : wMajor w = m.toNat
  guard : wGuard w = g
  rd : wRd w = rd
  ra : wRa w = ra
  imm12 : wImm w = imm
  zero : wZero w 0 12 = (imm == 0)

/-- A word shows a guard, a major and the operands of format R. -/
structure ShowsR (w : W32) (g : Guard) (m : BitVec 6) (rd ra rb : R5) (fn : BitVec 7) : Prop where
  major : wMajor w = m.toNat
  guard : wGuard w = g
  rd : wRd w = rd
  ra : wRa w = ra
  rb : wRb w = rb
  fn : wFn w = fn

/-- A word shows a guard, a major and the displacement of format B. -/
structure ShowsB (w : W32) (g : Guard) (m : BitVec 6) (disp : BitVec 22) : Prop where
  major : wMajor w = m.toNat
  guard : wGuard w = g
  disp : w.extractLsb' 0 22 = disp

section

variable {s : State} {c : CoreId} {g : Guard} {m : BitVec 6} {w2 : W32} {rd ra rb : R5} {imm : BitVec 12} {fn : BitVec 7}
  {disp : BitVec 22} {o : Option Instr}

/-- The word put together in format I shows its parts, so it spells what every word that shows them does. -/
theorem instrOf_formatI (h : ∀ w, ShowsI w g m rd ra imm → instrOf s c w w2 = o) :
    instrOf s c (BitVec.ofBool g.ps ++ g.pg ++ m ++ (rd ++ ra ++ imm)) w2 = o :=
  h _ ⟨wMajor_word .., wGuard_word .., wRd_i .., wRa_i .., wImm_i .., wZero_i ..⟩

/-- The same for format R. -/
theorem instrOf_formatR (h : ∀ w, ShowsR w g m rd ra rb fn → instrOf s c w w2 = o) :
    instrOf s c (BitVec.ofBool g.ps ++ g.pg ++ m ++ (rd ++ ra ++ rb ++ fn)) w2 = o :=
  h _ ⟨wMajor_word .., wGuard_word .., wRd_r .., wRa_r .., wRb_r .., wFn_r ..⟩

/-- The same for format B. -/
theorem instrOf_formatB (h : ∀ w, ShowsB w g m disp → instrOf s c w w2 = o) :
    instrOf s c (BitVec.ofBool g.ps ++ g.pg ++ m ++ disp) w2 = o :=
  h _ ⟨wMajor_word .., wGuard_word .., disp_word ..⟩

end

/-- Settles O49: the major of a word names its decoder, and the word shows the fields it was put together from. -/
theorem wordsSpellTheirInstructions : Obligations.WordsSpellTheirInstructions := by
  unfold Obligations.WordsSpellTheirInstructions
  refine ⟨?addi, ?andi, ?ori, ?xori, ?shi, ?intAlu, ?mul, ?div, ?fraction, ?ldb, ?ldbu, ?ldh, ?ldhu, ?ldw, ?ldwu, ?ldd, ?stb, ?sth,
    ?stw, ?std, ?br, ?call, ?addw, ?andw, ?orw, ?unassigned, fun _ _ _ =>
    ⟨(instrOf_int (by decide)).trans rfl, (instrOf_int (by decide)).trans rfl, instrOf_unassigned (by decide)⟩⟩
  case addi | andi | ori | xori | shi =>
    intro s c g w2 rd ra imm
    refine instrOf_formatI fun w ⟨hm, hg, hd, ha, hi, _⟩ => ?_
    rw [instrOf_int (by rw [hm]; decide)]
    simp only [decInt, hm, hg, hd, ha, hi, BitVec.reduceToNat, enc]
  case intAlu | mul | div | fraction =>
    intro s c g w2 rd ra rb fn
    refine instrOf_formatR fun w ⟨hm, hg, hd, ha, hb, hf⟩ => ?_
    rw [instrOf_int (by rw [hm]; decide)]
    simp only [decInt, hm, hg, hd, ha, hb, hf, BitVec.reduceToNat, enc, decide_eq_true_eq]
  case ldb | ldbu | ldh | ldhu | ldw | ldwu | ldd | stb | sth | stw | std =>
    intro s c g w2 rd ra imm
    refine instrOf_formatI fun w ⟨hm, hg, hd, ha, hi, _⟩ => ?_
    rw [instrOf_mem (by rw [hm]; decide)]
    simp only [decMem, hm, hg, hd, ha, hi, BitVec.reduceToNat]
  case br | call =>
    intro s c g w2 disp
    refine instrOf_formatB fun w ⟨hm, hg, hd⟩ => ?_
    rw [instrOf_ctl (by rw [hm]; decide)]
    simp only [decCtl, hm, hg, hd, BitVec.reduceToNat]
  case addw | andw | orw =>
    intro s c g w2 rd ra imm
    refine instrOf_formatI fun w ⟨hm, hg, hd, ha, _, hz⟩ => ?_
    rw [instrOf_wide (by rw [hm]; decide)]
    simp only [decWide, hm, hg, hd, ha, hz, BitVec.reduceToNat, enc, beq_iff_eq]
  case unassigned =>
    intro s c g w2 m t h
    refine instrOf_unassigned ?_
    rw [wMajor_word]
    exact List.contains_iff_mem.mp h

end Sys2Proof.Machine
end

section
/-! PROOFS of O13, O14, O15 and O40. Compares, predicate functions and selects, and what an unassigned encoding comes to (R179, R183 to
R185, R204). -/

namespace Sys2Proof.Machine

section

variable {s : State} {c : CoreId} {g : Guard} {i : Ins} {body : State → Exe} {b : Bank}

/-! ## Unassigned encodings (R179) -/

/-- A ready core meets its next instruction. -/
theorem coreMeets_of_ready (h : Safety.CoreReady s c g) : Safety.CoreMeets s c := by
  obtain ⟨hrun, himp, hbp, _⟩ := h
  exact ⟨hrun, himp, hbp⟩

/-- A core that meets an unassigned encoding raises ILLEGAL, whatever the guard. -/
theorem next_runInstr_illegal (h : Safety.CoreMeets s c) (hl : i.legal = false) :
    ok (runInstr s c g i body) = .next (raiseFault s c (.plain xILLEGAL 0)) := by
  obtain ⟨hrun, himp, hbp⟩ := h
  rw [runInstr_illegal s c g i body hrun himp hbp hl]

/-! ## Writes of predicates (R154, R183, R184) -/

/-- What a write of core `c`'s current bank leaves, where it leaves every general register of the bank. -/
theorem setCur_frame (hc : (getCore s c).cur < (getCore s c).banks.length) (hr : ∀ n, b.rg n = (curBank s c).rg n) :
    (∀ r : R5, rg (setCur s c b) c r = rg s c r) ∧ (∀ d, d ≠ c.val → getCore (setCur s c b) d = getCore s d) ∧
      (setCur s c b).mem = s.mem := by
  refine ⟨fun r => ?_, fun d hd => getCore_setCur_ne s c d b hd.symm, rfl⟩
  rw [rg, curBank_setCur s c b hc, hr]
  rfl

/-- The bank after a compare: PD gets the outcome and PN, where it is not p0, its inverse. -/
def comparedBank (b : Bank) (pd pn : BitVec 3) (v : Bool) : Bank :=
  if pn = 0 then b.setPred pd.toNat v else (b.setPred pd.toNat v).setPred pn.toNat !v

theorem setPreds_eq (pd pn : BitVec 3) (v : Bool) : setPreds c pd pn v s = setCur s c (comparedBank (curBank s c) pd pn v) := rfl

theorem rg_comparedBank (pd pn : BitVec 3) (v : Bool) (r : Nat) : (comparedBank b pd pn v).rg r = b.rg r := by
  unfold comparedBank
  split <;> simp

variable {pd pn : BitVec 3} {v : Bool}

theorem pred_comparedBank_pd (hd : pd ≠ 0) (hn : pd ≠ pn ∨ pn = 0) : (comparedBank b pd pn v).pred pd.toNat = v := by
  unfold comparedBank
  split
  · exact pred_setPred_same b pd v hd
  · rename_i h0
    have hne : pn.toNat ≠ pd.toNat := fun e => (hn.resolve_right h0) (BitVec.eq_of_toNat_eq e.symm)
    rw [pred_setPred_ne _ _ _ _ hne pd.isLt, pred_setPred_same b pd v hd]

theorem pred_comparedBank_pn (h0 : pn ≠ 0) : (comparedBank b pd pn v).pred pn.toNat = !v := by
  rw [comparedBank, if_neg h0]
  exact pred_setPred_same _ pn _ h0

theorem pred_comparedBank_ne {p : BitVec 3} (hd : p ≠ pd) (hn : p ≠ pn) : (comparedBank b pd pn v).pred p.toNat = b.pred p.toNat := by
  have hd' : pd.toNat ≠ p.toNat := fun e => hd (BitVec.eq_of_toNat_eq e.symm)
  have hn' : pn.toNat ≠ p.toNat := fun e => hn (BitVec.eq_of_toNat_eq e.symm)
  unfold comparedBank
  split
  · exact pred_setPred_ne b _ _ v hd' p.isLt
  · rw [pred_setPred_ne _ _ _ _ hn' p.isLt, pred_setPred_ne b _ _ v hd' p.isLt]

/-- What a compare writes and leaves: the effect that R183 gives to CMP and CMPW. -/
theorem setPreds_effect (hc : (getCore s c).cur < (getCore s c).banks.length) (hn : pd ≠ pn ∨ pn = 0) :
    (pd ≠ 0 → (curBank (setPreds c pd pn v s) c).pred pd.toNat = v) ∧ (pn ≠ 0 → (curBank (setPreds c pd pn v s) c).pred pn.toNat = !v) ∧
      (∀ p : BitVec 3, p ≠ pd → p ≠ pn → (curBank (setPreds c pd pn v s) c).pred p.toNat = (curBank s c).pred p.toNat) ∧
      (∀ r : R5, rg (setPreds c pd pn v s) c r = rg s c r) ∧ (∀ d, d ≠ c.val → getCore (setPreds c pd pn v s) d = getCore s d) ∧
      (setPreds c pd pn v s).mem = s.mem := by
  rw [setPreds_eq, curBank_setCur s c _ hc]
  exact ⟨fun hd => pred_comparedBank_pd hd hn, pred_comparedBank_pn, fun _ => pred_comparedBank_ne,
    setCur_frame hc (rg_comparedBank pd pn v)⟩

/-- A compare of the width its W bit names has the outcome of Table 7.6a. -/
theorem condHolds_cmpWidth (w : Bool) (cond : Nat) (x y : Word) :
    condHolds (cmpWidth w) cond x y =
      if w then Safety.compareSpec cond (x.setWidth 32) (y.setWidth 32) else Safety.compareSpec cond x y := by
  cases w <;> simp [cmpWidth, condHolds_eq]

/-- A compare's fields are assigned where its condition is one of Table 7.6a and its predicates differ, or PN is p0. -/
theorem cmpLegal_iff {cond : BitVec 4} : cmpLegal pd pn cond = true ↔ cond.toNat < 8 ∧ (pd ≠ pn ∨ pn = 0) := by
  simp [cmpLegal]

/-- A predicate function is assigned where it is one of R184, PNOT with PB 0. -/
theorem predicateLegal_iff {pb fn : BitVec 3} :
    (fn.toNat < 4 || (fn == 4 && pb == 0)) = true ↔ fn.toNat < 4 ∨ (fn = 4 ∧ pb = 0) := by simp

/-- The predicate functions are those of R184, one by one. -/
theorem predOp_eq : ∀ (f : Nat) (x y : Bool), predOp f x y = Safety.predicateSpec f x y
  | 0, _, _ => rfl
  | 1, _, _ => rfl
  | 2, _, _ => rfl
  | 3, _, _ => rfl
  | _ + 4, _, _ => rfl

/-! ## Selects (R185) -/

/-- The predicate that a select tests holds in its sense where it differs from N. -/
theorem selCond_iff {neg : Bool} {ps : BitVec 3} : selCond s c neg ps = true ↔ (curBank s c).pred ps.toNat ≠ neg := bne_iff_ne

end

/-- Settles O13: a legal compare writes the bank of `comparedBank`, with the outcome of `condHolds_cmpWidth`. -/
theorem compareWritesPredicates : Obligations.CompareWritesPredicates := by
  unfold Obligations.CompareWritesPredicates
  refine ⟨?cmp, ?cmpw, ?illegal⟩
  case cmp =>
    rintro s c g pd pn ra rb cond imm w _ h hc hcond hn rfl
    rw [← condHolds_cmpWidth]
    exact ⟨_, next_runInstr_done h (cmpLegal_iff.2 ⟨hcond, hn⟩) rfl rfl rfl, setPreds_effect hc hn⟩
  case cmpw =>
    rintro s c g pd pn ra cond w imm _ h hc hcond hn rfl
    rw [← condHolds_cmpWidth]
    exact ⟨_, next_runInstr_done h (cmpLegal_iff.2 ⟨hcond, hn⟩) rfl rfl rfl, setPreds_effect hc hn⟩
  case illegal =>
    intro s c g pd pn ra rb cond imm w h hbad
    refine next_runInstr_illegal (coreMeets_of_ready h) (Bool.eq_false_iff.2 fun hl => ?_)
    obtain ⟨hcond, hn⟩ := cmpLegal_iff.1 hl
    rcases hbad with hbig | ⟨he, h0⟩
    · omega
    · exact hn.elim (fun hne => hne he) h0

/-- Settles O14: an assigned function writes PD with `predOp_eq`, and another one is unassigned. -/
theorem predicateInstructionsWritePredicates : Obligations.PredicateInstructionsWritePredicates := by
  unfold Obligations.PredicateInstructionsWritePredicates
  refine ⟨?assigned, ?unassigned⟩
  case assigned =>
    intro s c g pd pa pb fn h hc hf
    refine ⟨_, next_runInstr_done h (predicateLegal_iff.2 hf) rfl rfl rfl, ?_⟩
    rw [predOp_eq, curBank_setCur s c _ hc]
    refine ⟨pred_setPred_same _ pd _, fun p hp => pred_setPred_ne _ _ _ _ (fun e => hp (BitVec.eq_of_toNat_eq e.symm)) p.isLt,
      setCur_frame hc (rg_setPred _ _ _)⟩
  case unassigned =>
    intro s c g pd pa pb fn h hf
    refine next_runInstr_illegal (coreMeets_of_ready h) (Bool.eq_false_iff.2 fun hl => ?_)
    rcases predicateLegal_iff.1 hl with hlt | ⟨rfl, h0⟩
    · obtain ⟨rfl, -⟩ := hf.resolve_left (by omega)
      exact absurd hlt (by decide)
    · exact (hf.resolve_left (by decide)).2 h0

/-- Settles O15: a select writes the source that its predicate chooses; under a false guard it only retires. -/
theorem selectsChooseTheirSource : Obligations.SelectsChooseTheirSource := by
  unfold Obligations.SelectsChooseTheirSource
  refine ⟨?sel, fun _ _ _ _ _ _ _ _ hrun himp hbp hhead hg => next_runInstr_skip ⟨hrun, himp, hbp, hg, hhead⟩ rfl rfl,
    ?cmov, fun _ _ _ _ _ _ _ hrun himp hbp hhead hg => next_runInstr_skip ⟨hrun, himp, hbp, hg, hhead⟩ rfl rfl⟩
  case sel =>
    intro s c g neg ps rd ra rb h
    simp only [← selCond_iff]
    exact runReg_ready h rfl
  case cmov =>
    intro s c g neg ps rd ra h
    simp only [← selCond_iff]
    exact runReg_ready h rfl

/-- Settles O40: each clause is `next_runInstr_illegal` for its instruction. -/
theorem unassignedEncodingsRaiseIllegal : Obligations.UnassignedEncodingsRaiseIllegal := by
  unfold Obligations.UnassignedEncodingsRaiseIllegal
  exact ⟨
    -- integer functions, shifts, compares, predicates, multiply, divide, fractions
    fun _ _ _ _ _ _ _ h hl => next_runInstr_illegal h hl, fun _ _ _ _ _ _ h hl => next_runInstr_illegal h hl,
    fun _ _ _ _ _ _ _ _ _ _ h hl => next_runInstr_illegal h hl, fun _ _ _ _ _ _ _ h hl => next_runInstr_illegal h hl,
    fun _ _ _ _ _ _ _ h hl => next_runInstr_illegal h hl, fun _ _ _ _ _ _ _ h hl => next_runInstr_illegal h hl,
    fun _ _ _ _ _ _ _ h hl => next_runInstr_illegal h hl,
    -- accumulators
    fun _ _ _ _ _ _ _ _ _ _ _ h hl => next_runInstr_illegal h hl, fun _ _ _ _ _ h hl => next_runInstr_illegal h hl,
    fun _ _ _ _ _ _ _ _ _ _ _ _ _ h hl => next_runInstr_illegal h hl,
    -- loads and stores
    fun _ _ _ _ _ _ _ _ h hl => next_runInstr_illegal h hl, fun _ _ _ _ _ _ _ h hl => next_runInstr_illegal h hl,
    fun _ _ _ _ _ _ _ _ _ _ h hl => next_runInstr_illegal h hl, fun _ _ _ _ _ _ _ h hl => next_runInstr_illegal h hl,
    fun _ _ _ _ _ _ _ h hl => next_runInstr_illegal h hl,
    -- special registers
    fun _ _ _ _ _ h hl => next_runInstr_illegal h hl, fun _ _ _ _ _ h hl => next_runInstr_illegal h hl,
    -- floating point
    fun _ _ _ _ _ _ _ h hl => next_runInstr_illegal h hl, fun _ _ _ _ _ _ h hl => next_runInstr_illegal h hl,
    fun _ _ _ _ _ _ _ h hl => next_runInstr_illegal h hl, fun _ _ _ _ _ _ _ h hl => next_runInstr_illegal h hl,
    -- the two-word compare
    fun _ _ _ _ _ _ _ _ _ h hl => next_runInstr_illegal h hl,
    -- Prism instructions
    fun _ _ _ _ _ h hl => next_runInstr_illegal h hl, fun _ _ _ _ _ h hl => next_runInstr_illegal h hl,
    fun _ _ _ _ _ _ _ _ h hl => next_runInstr_illegal h hl⟩

end Sys2Proof.Machine
end

section
/-! PROOFS of O17 and O42. Loads, stores, mirror and locked accesses and fences, and the bytes that a store writes (R191 to R197, R260,
R277). -/

namespace Sys2Proof.Machine

section

variable {s t u : State} {c : CoreId} {g : Guard} {i : Ins} {body : State → Exe} {l : List Byte} {va n attr pa : Nat}

/-! ## Accesses that wait (R281, R291, R382) -/

/-- An instruction of a ready core that holds leaves the state of its operation. -/
theorem next_runInstr_hold (h : Safety.CoreReady s c g) (hl : i.legal = true) (hc : i.ctl = false) (he : i.ext = false)
    (hb : body s = .hold t) : ok (runInstr s c g i body) = .next t := by
  rw [runInstr_ready s c g i body h hl hc he, hb]
  rfl

theorem loadBy_waits (put : State → List Byte → Exe) (hw : accessWaits s c (curBank s c).priv .load va n = true) :
    loadBy c n va put s = .hold s := by
  rw [loadBy, hw, if_pos rfl]

theorem storeBy_waits (after : State → State) (hw : accessWaits s c (curBank s c).priv .store va l.length = true) :
    storeBy c va l after s = .hold s := by
  rw [storeBy, hw, if_pos rfl]

/-! ## What a store writes -/

/-- An aligned store through a generator is performed, and the instruction retires. -/
theorem exec_stt_aligned {rd : R5} {y : Bool} {gen : BitVec 2} (pm : Bool) {size : BitVec 2} (h : Safety.CoreReady s c g)
    (hl : l = leBytes (sizeBytes size) (rg s c rd).toNat) (ha : genOff s c y gen % l.length = 0) :
    exec (.ldtStt c g rd y gen pm true size false) s =
      .next (retire (countCur (postMod (coreStore s c (tcmAddr c y (genOff s c y gen)) l) c y gen pm) c 0x1C) c 1 none) := by
  subst hl
  refine next_runInstr_done h rfl rfl rfl ?_
  simp only [if_true, tcmStore_aligned ha]

/-- An ordinary store that waits for nothing and is performed retires. -/
theorem exec_store_done {size : BitVec 2} {rs ra : R5} {off : BitVec 12} (h : Safety.CoreReady s c g)
    (hl : l = leBytes (sizeBytes size) (rg s c rs).toNat) (hva : va = offAddr (rg s c ra) off (sizeBytes size))
    (hw : accessWaits s c (curBank s c).priv .store va l.length = false)
    (hr : (anyWrite s c (curBank s c).priv va l).2.toOption = some attr) :
    exec (.store c g size rs ra off) s =
      .next (retire (watch (countAcc (anyWrite s c (curBank s c).priv va l).1 c 0x1C va attr) c va l.length true) c 1 none) := by
  subst hl hva
  exact next_runInstr_done h rfl rfl rfl (storeBy_done id hw hr)

/-- A plain write to DRAM that is served and reached stores the bytes, after its line has come to the caches. -/
theorem physWrite_dram (hd : areaOf pa = .dram) (he : storeErrc s c pa l.length = none) :
    physWrite s c va pa attr l .plain false = (coreStore (cacheLines s c va attr true pa l.length) c pa l, none) := by
  simp only [physWrite, hd, he, reduceCtorEq, if_false]

/-- An aligned plain store is one write at the address of its translation. -/
theorem anyWrite_aligned {priv : Nat} (ha : va % l.length = 0) (ht : translate s c priv .store va l.length false = (u, .ok (pa, attr)))
    (hf : wayFault .plain pa attr = none) (hp : physWrite u c va pa attr l .plain false = (t, none)) :
    anyWrite s c priv va l = (t, .ok attr) := by
  have hm : (Way.plain == Way.mirror) = false := rfl
  simp only [anyWrite, dataWrite, ha, hm, ht, hf, hp, ne_eq, not_true_eq_false, false_and, if_false]

end

/-- Settles O17: each access by what its steps come to, each fence by its operation. -/
theorem memoryInstructionsComplete : Obligations.MemoryInstructionsComplete := by
  unfold Obligations.MemoryInstructionsComplete
  refine ⟨?load, ?store, ?loadWaits, ?storeWaits, ?ldx, ?stx, ?ldmw, ?stmw, ?ldl, ?stcFails, ?stcStores,
    fun _ _ _ h => next_runInstr_ctl_done h rfl rfl rfl, fun _ _ _ h => next_runInstr_ctl_done h rfl rfl rfl,
    fun _ _ _ h => next_runInstr_ctl_done h rfl rfl rfl, ?ifence⟩
  case load =>
    rintro s c g size uns rd ra off _ _ l attr h hl rfl rfl hw hh hr
    exact next_runInstr_done h hl rfl rfl (loadBy_done hw hh hr)
  case store =>
    intro s c g size rs ra off va attr l h hl hva hw hr
    exact exec_store_done h hl hva hw hr
  case loadWaits =>
    rintro s c g size uns rd ra off _ _ h hl rfl rfl hw
    exact next_runInstr_hold h hl rfl rfl (loadBy_waits _ hw)
  case storeWaits =>
    rintro s c g size rs ra off _ _ h rfl rfl hw
    exact next_runInstr_hold h rfl rfl rfl (storeBy_waits _ (by rwa [leBytes_length]))
  case ldx =>
    rintro s c g fn rd ra rb _ _ l attr h h6 h0 h3 rfl rfl hw hh hr
    refine next_runInstr_done h ?legal rfl rfl ?done
    case legal => simpa [h6, h0] using h3
    case done =>
      simp only [h6, Bool.false_eq_true, if_false]
      exact loadBy_done hw hh hr
  case stx =>
    rintro s c g fn rd ra rb _ _ attr h h6 h0 h3 rfl rfl hw hr
    refine next_runInstr_done h ?legal rfl rfl ?done
    case legal => simp [h0, h3]
    case done =>
      simp only [h6, if_true]
      exact storeBy_done id hw hr
  case ldmw =>
    rintro s c g rd ra rk off _ l attr _ h hne rfl hr rfl hm
    generalize hu : (dataRead s c (curBank s c).priv (offAddr (rg s c ra) off 8) 8 .mirror).1 = u
    refine next_runInstr_done h (bne_iff_ne.2 hne) rfl rfl ?_
    simp only [eq_pair_ok hu hr, hm, Bool.not_true, Bool.false_eq_true, if_false]
  case stmw =>
    rintro s c g rs ra rk off _ attr h rfl hx hm hr
    generalize hu : (dataWrite s c (curBank s c).priv (offAddr (rg s c ra) off 8)
      (leBytes 4 (rg s c rs).toNat ++ leBytes 4 (rg s c rk).toNat) .mirror true).1 = u
    refine next_runInstr_done h rfl rfl rfl ?_
    simp only [hx, hm, eq_pair_ok hu hr, Bool.not_true, Bool.false_eq_true, if_false]
  case ldl =>
    rintro s c g rd ra d _ _ pa l u h rfl rfl hw hxs hx hu hr
    refine next_runInstr_done h rfl rfl rfl ?_
    simp only [hw, eq_pair_ok hxs hx, eq_pair_ok hu hr, Bool.false_eq_true, if_false]
  case stcFails =>
    rintro s c g rd ra rs d _ _ pa h hne rfl rfl hxs hx hres
    refine next_runInstr_done h (bne_iff_ne.2 hne) rfl rfl ?_
    simp only [hres, eq_pair_ok hxs hx, Bool.false_and, Bool.false_eq_true, if_false]
  case stcStores =>
    rintro s c g rd ra rs d _ _ pa _ h hne rfl rfl hxs hx hres hw rfl hp
    refine next_runInstr_done h (bne_iff_ne.2 hne) rfl rfl ?_
    generalize hu : (physWrite s c (rg s c ra).toNat pa 0 (leBytes (lockedSize d) (rg s c rs).toNat) .locked false).1 = u
    have hdone : physWrite s c _ pa 0 _ .locked false = (u, none) := Prod.ext hu hp
    simp only [hres, hw, eq_pair_ok hxs hx, hdone, Bool.and_false, Bool.false_eq_true, if_false, if_true]
  case ifence =>
    rintro s _ c g _ h rfl rfl
    refine ⟨next_runInstr_ctl_done h rfl rfl rfl, ?_⟩
    rw [ownSt_killFetch, ownSt_issueFetch, getCore_setCore_same]
    rfl

/-- Settles O42: what follows the store in each instruction keeps memory, so the state after it is that of `coreStore_mem`. -/
theorem storesWriteOnlyTheirBytes : Obligations.StoresWriteOnlyTheirBytes := by
  unfold Obligations.StoresWriteOnlyTheirBytes
  refine ⟨?stt, ?store⟩
  case stt =>
    intro s c g rd y gen pm size l t h hl ha ht
    obtain rfl := Host.Outcome.next.inj ((exec_stt_aligned pm h hl ha).symm.trans ht)
    exact ((coreStore_mem s c _ l).trans ((keepsMem_postMod _ c y gen pm).trans
      ((keepsMem_countCur _ c 0x1C).trans (keepsMem_retire _ c 1 none)))).writesOnly
  case store =>
    intro s c g size rs ra off l va pa attr u t h hl hva ha hw hu htr hd hf he ht
    have hlen : l.length = sizeBytes size := by rw [hl, leBytes_length]
    have hany := anyWrite_aligned ha (eq_pair_ok hu htr) hf (physWrite_dram (va := va) (attr := attr) hd he)
    obtain rfl := Host.Outcome.next.inj
      ((exec_store_done (attr := attr) h hl (hlen ▸ hva) hw (by rw [hany]; rfl)).symm.trans ht)
    rw [hany]
    have hkeep : KeepsMem s (cacheLines u c va attr true pa l.length) :=
      (hu ▸ keepsMem_translate s c _ .store va l.length false).trans (keepsMem_cacheLines u c va attr true pa l.length)
    exact ((hkeep.wrBytes pa l).trans ((coreStore_mem _ c pa l).trans ((keepsMem_countEvt _ c 0x1C 1 _).trans
      ((keepsMem_watch _ c va l.length true).trans (keepsMem_retire _ c 1 none))))).writesOnly

end Sys2Proof.Machine
end

section
/-! PROOFS of O23. TLB and cache operations and translation roots (R269, R270, R273, R274, R277). -/

namespace Sys2Proof.Machine

section

variable {s u : State} {i : Initiator} {c op : Nat} {v : Word}

/-- An accepted write of the privilege it asks for completes with its effect, where no state rule of its block refuses it. -/
theorem next_regWrite_privileged {r : RegAddr} {p : Bool} {eff : State → State} (h : Safety.Accepted s i r ∧ p = true) :
    (Host.Outcome.next (regWrite s i r true p eff) : Out) = .next (eff (respOk s 0)) := by
  obtain ⟨ha, rfl⟩ := h
  exact next_regWrite_accepted ha rfl

/-- A TLB operation completes where its word `v` is accepted at the privilege that its op asks for. -/
theorem next_tlbiWrite_accepted {bank asn vpage : Nat} {bcast : Bool}
    (hv : v = BitVec.ofNat 64 (op + (if bcast then 16 else 0) + 2 ^ 5 * bank + 2 ^ 8 * asn + 2 ^ 12 * vpage))
    (h : Safety.Accepted s i (Reg.XL_TLBI c) ∧ tlbiPriv v ≤ initPriv s i) (hu : tlbiEffect (respOk s 0) c v = some u) :
    (Host.Outcome.next (tlbiWrite s i c op bcast bank asn vpage) : Out) = .next u := by
  subst hv
  exact next_regWriteOpt_accepted (h.imp_right decide_eq_true) hu

/-- A cache operation completes where its word `v` is accepted at the privilege that its OP asks for. -/
theorem next_cacheWrite_accepted {line count way : Nat}
    (hv : v = BitVec.ofNat 64 (2 ^ 6 * line + 2 ^ 48 * count + 2 ^ 56 * op + 2 ^ 60 * way))
    (h : Safety.Accepted s i (Reg.CACHE_OP c) ∧ cachePriv v ≤ initPriv s i) (hu : cacheOpEffect (respOk s 0) c v = some u) :
    (Host.Outcome.next (cacheWrite s i c op line count way) : Out) = .next u := by
  subst hv
  exact next_regWriteOpt_accepted (h.imp_right decide_eq_true) hu

end

/-- Settles O23: each operation is the write of its word, each root a write that nothing refuses, and each end finds its operation busy. -/
theorem translationAndCacheCommandsComplete : Obligations.TranslationAndCacheCommandsComplete := by
  unfold Obligations.TranslationAndCacheCommandsComplete
  refine ⟨?tlbAll, ?tlbAsn, ?tlbVa, ?tlbPstage, ?tlbLock, ?tlbUnlock, ?cacheLock, ?cacheUnlock, ?flush, ?clean, ?cleanInv, ?tlbDone,
    ?cacheDone, ?ptb, ?gtb⟩
  case tlbAll => exact fun s i c bcast v u hv h hu => next_tlbiWrite_accepted hv h hu
  case tlbAsn => exact fun s i c bcast asn v u hv h hu => next_tlbiWrite_accepted hv h hu
  case tlbVa => exact fun s i c bcast asn vpage v u hv h hu => next_tlbiWrite_accepted hv h hu
  case tlbPstage => exact fun s i c bcast v u hv h hu => next_tlbiWrite_accepted hv h hu
  case tlbLock => exact fun s i c bcast bank vpage v u hv h hu => next_tlbiWrite_accepted hv h hu
  case tlbUnlock => exact fun s i c bcast bank vpage v u hv h hu => next_tlbiWrite_accepted hv h hu
  case cacheLock => exact fun s i c line count way v u hv h hu => next_cacheWrite_accepted hv h hu
  case cacheUnlock => exact fun s i c way v u hv h hu => next_cacheWrite_accepted hv h hu
  case flush => exact fun s i c v u hv h hu => next_cacheWrite_accepted hv h hu
  case clean => exact fun s i c line v u hv h hu => next_cacheWrite_accepted hv h hu
  case cleanInv => exact fun s i c line v u hv h hu => next_cacheWrite_accepted hv h hu
  case tlbDone => exact fun s c hb => congrArg Host.Outcome.next (if_pos hb)
  case cacheDone => exact fun s c hb => congrArg Host.Outcome.next (if_pos hb)
  case ptb => exact fun s i c v h => next_regWrite_privileged (h.imp_right decide_eq_true)
  case gtb => exact fun s i c l v h => next_regWrite_privileged (h.imp_right decide_eq_true)

end Sys2Proof.Machine
end

section
/-! PROOFS of O24. Coherence messages: requests at their home, writebacks, snoops and their responses, grants at the requester, the scan
of a slice (R283, R284, R287 to R294, R297, R300). -/

namespace Sys2Proof.Machine

/-- A message under way that is taken in leaves every agent's lines as they were. -/
@[simp] theorem getLn_takeMsg (s : State) (m : CohMsg) (a line : Nat) : getLn (takeMsg s m) a line = getLn s a line := rfl

section

variable {s u : State} {t : CohTx} {kind : CohKind} {a line code : Nat} {f : Bool} {m : CohMsg}

/-! ## Requests at their home (R283, R287, R292, R296) -/

/-- A home slice that takes a request accepts it: by the requester's granted credit, or since nothing refuses it or turns it away. -/
theorem homeRequest_taken (h : Safety.HomeTakes s t) : homeRequest s t f = accept s (sliceOf t.line) t f := by
  obtain ⟨harea, hroute, hmem, hcredit | ⟨htx, hgrant, htrk, hresv, hroom⟩⟩ := h
  · simp only [homeRequest, hcredit, if_true]
  · have hsome : ¬1024 ≤ (getSl s (sliceOf t.line)).trackers +
        (needsEntry t.kind && (victimOf (getSl s (sliceOf t.line)) t.line).isSome).toNat := Nat.not_le.2 htrk
    simp only [homeRequest, harea, hroute, hmem, htx, hgrant, hsome, hresv, hroom, ne_eq, not_true_eq_false, decide_false, Bool.or_self,
      Bool.false_eq_true, if_false, ite_self]

/-- A request that an agent may send now, with a tag where it is a new one, is noted on its line and accepted by the home. -/
theorem agentRequest_taken (hon : agentOn s a = true) (hask : mayAsk (getLn s a line) kind = true)
    (htag : ((getLn s a line).req.isNone && !tagFree s (.agent a)) = false)
    (hu : u = setLn s a line { getLn s a line with
      req := some kind, phase := .sent, data := false, dpoison := false, comp := none,
      nacks := if (getLn s a line).req.isNone then 0 else (getLn s a line).nacks })
    (ht : t = newTx line kind (.agent a)) (hh : Safety.HomeTakes u t) :
    agentRequest s a line kind f = accept u (sliceOf line) t f := by
  subst hu ht
  simp only [agentRequest, hon, hask, htag, Bool.not_true, Bool.or_self, Bool.false_eq_true, if_false]
  exact homeRequest_taken hh

/-- A request of another endpoint goes to its home with a granted credit, or with a free tag. -/
theorem epRequest_taken (htag : ((getSl s (sliceOf t.line)).granted.contains (t.line, t.req) || tagFree s t.req) = true)
    (hh : Safety.HomeTakes s t) : epRequest s t = accept s (sliceOf t.line) t false := by
  rw [epRequest, if_pos htag, homeRequest_taken hh]

/-! ## Writebacks (R290) -/

/-- An agent with a writeback credit gives up a line that it holds, of the dirtiness that the message says. -/
theorem evictLine_held {dirty : Bool} (hon : agentOn s a = true)
    (hst : (if dirty then (getLn s a line).st == .m || (getLn s a line).st == .o
      else (getLn s a line).st == .e || (getLn s a line).st == .s) = true)
    (hreq : (getLn s a line).req = none) (hwb : (getLn s a line).wb = none) (hlock : lockedLine s a line = false)
    (hcr : wbUsed s a (sliceOf line) < 16) :
    evictLine s a line dirty =
      absorb (setLn (leaveAgent s a line) a line { getLn s a line with st := .i, wb := some (getLn s a line).st }) a line := by
  simp only [evictLine, hon, hst, hreq, hwb, hlock, Nat.not_le.2 hcr, Option.isSome_none, decide_false, Bool.not_true, Bool.or_self,
    Bool.false_eq_true, if_false]

/-! ## Snoops at their holder (R287, R291) -/

theorem snoopRun_answered (hm : findMsg s code a line = some m) (hw : snoopWaits (takeMsg s m) a line = false) :
    snoopRun s code a line = answerSnoop (takeMsg s m) m := by
  simp only [snoopRun, hm, hw, Bool.false_eq_true, if_false]

theorem snoopRun_waits (hm : findMsg s code a line = some m) (hw : snoopWaits (takeMsg s m) a line = true) :
    snoopRun s code a line = setLn (takeMsg s m) a line { getLn s a line with waiting := (getLn s a line).waiting ++ [m] } := by
  simp only [snoopRun, hm, hw, if_true, getLn_takeMsg]

/-! ## At the requester (R288, R292, R293) -/

/-- Data for a request under way is noted, and settles the line where its Comp is there. -/
theorem dataRun_taken (hm : findMsg s code a line = some m) (hr : (getLn s a line).req.isNone = false) :
    dataRun s code a line =
      settleLine (setLn (takeMsg s m) a line { getLn s a line with data := true, dpoison := m.poison }) a line := by
  simp only [dataRun, hm, getLn_takeMsg, hr, Bool.false_eq_true, if_false]

theorem phaseRun_taken {g : AgLine → AgLine} (hm : findMsg s code a line = some m) :
    phaseRun s code a line g = setLn (takeMsg s m) a line (g (getLn s a line)) := by
  simp only [phaseRun, hm]

end

/-- Settles O24: a request by what its home does with it; a message under way is found by its receiver, whose rule above it then takes. -/
theorem coherenceMessagesComplete : Obligations.CoherenceMessagesComplete := by
  unfold Obligations.CoherenceMessagesComplete
  refine ⟨?rdShared, ?rdUnique, ?upgrade, ?rdOnce, ?wrFull, ?wrPartial, ?wrPoisoned, ?wbData, ?evict, ?wbAck, ?snpShared, ?snpInv,
    ?snpOnce, ?snpFlush, ?snpWaits, ?snpResp, ?snpRespData, ?comp, ?data, ?dataFwd, ?retry, ?creditGrant, ?nack, ?backoffEnd, ?errResp,
    ?holdEnd, ?scan, ?scanDone⟩
  -- requests
  case rdShared =>
    exact fun s a line f u t hon hask htag hu ht hh => congrArg Host.Outcome.next (agentRequest_taken hon hask htag hu ht hh)
  case rdUnique =>
    exact fun s a line u t hon hask htag hu ht hh => congrArg Host.Outcome.next (agentRequest_taken hon hask htag hu ht hh)
  case upgrade =>
    exact fun s a line u t hon hask htag hu ht hh => congrArg Host.Outcome.next (agentRequest_taken hon hask htag hu ht hh)
  case rdOnce =>
    rintro s ep line _ rfl htag hh
    exact congrArg Host.Outcome.next (epRequest_taken htag hh)
  case wrFull =>
    rintro s ep line data _ rfl htag hh
    exact congrArg Host.Outcome.next (epRequest_taken htag hh)
  case wrPartial =>
    rintro s ep line mask data _ hp rfl htag hh
    exact congrArg Host.Outcome.next ((if_neg (ne_true_of_eq_false hp)).trans (epRequest_taken htag hh))
  case wrPoisoned => exact fun s ep line mask data hp => congrArg Host.Outcome.next (if_pos hp)
  -- writebacks
  case wbData =>
    intro s a line hon hst hreq hwb hlock hcr
    exact congrArg Host.Outcome.next (evictLine_held hon (by simpa using hst) hreq hwb hlock hcr)
  case evict =>
    intro s a line hon hst hreq hwb hlock hcr
    exact congrArg Host.Outcome.next (evictLine_held hon (by simpa using hst) hreq hwb hlock hcr)
  case wbAck =>
    intro s a line m hm
    show execWback a line s = _
    simp only [execWback, hm]
  -- snoops and their responses
  case snpShared => exact fun s a line m hm hw => congrArg Host.Outcome.next (snoopRun_answered hm hw)
  case snpInv => exact fun s a line m hm hw => congrArg Host.Outcome.next (snoopRun_answered hm hw)
  case snpOnce => exact fun s a line m hm hw => congrArg Host.Outcome.next (snoopRun_answered hm hw)
  case snpFlush => exact fun s a line m hm hw => congrArg Host.Outcome.next (snoopRun_answered hm hw)
  case snpWaits => exact fun s a line m hm hw => congrArg Host.Outcome.next (snoopRun_waits hm hw)
  case snpResp =>
    intro s a line m hm
    show execSnpresp a line s = _
    simp only [execSnpresp, hm]
  case snpRespData =>
    intro s a line m hm
    show execSnprespdata a line s = _
    simp only [execSnprespdata, hm]
  -- at the requester
  case comp =>
    intro s a line m hm
    show execComp a line s = _
    simp only [execComp, hm, getLn_takeMsg]
  case data => exact fun s a line m hm hr => congrArg Host.Outcome.next (dataRun_taken hm hr)
  case dataFwd => exact fun s a line m hm hr => congrArg Host.Outcome.next (dataRun_taken hm hr)
  case retry => exact fun s a line m hm => congrArg Host.Outcome.next (phaseRun_taken hm)
  case creditGrant => exact fun s a line m hm => congrArg Host.Outcome.next (phaseRun_taken hm)
  case nack =>
    rintro s a line m _ _ hm rfl rfl
    show execNack a line s = _
    simp only [execNack, hm]
    rfl
  case backoffEnd =>
    intro s a line t hp ht
    show execNackBackoffExpiry a line s = _
    simp only [execNackBackoffExpiry, hp, ht, if_true]
  case errResp =>
    intro s a line errc m hm
    show execErrresp a line errc s = _
    simp only [execErrresp, hm]
  case holdEnd =>
    intro s a line hh hr
    refine congrArg Host.Outcome.next (if_neg ?_)
    simp [Nat.not_lt.2 hh, hr]
  -- the scan of a slice
  case scan => exact fun s slice set hs => congrArg Host.Outcome.next (if_pos hs)
  case scanDone => exact fun s slice hs => congrArg Host.Outcome.next (if_pos hs)

end Sys2Proof.Machine
end

section
/-! PROOFS of O25. Routes and packets, die links, absent and rejoining dies, fuses (R302, R308, R309, R311 to R325). -/

namespace Sys2Proof.Machine

section

variable {s : State} {l site ni n : Nat} {hdr : BitVec 256}

/-! ## Link registers (R319, R320) -/

/-- An accepted write of D2D_CTL that holds no value completes with its effect. -/
theorem d2dCtlAccess_unclamped {i : Initiator} {v : Word} (h : Safety.AcceptedM0 s i (Reg.D2D_CTL l))
    (hc : (d2dCtlEffect (respOk s 0) l v).2 = false) : d2dCtlAccess s i l v = (d2dCtlEffect (respOk s 0) l v).1 := by
  obtain ⟨ha, hm⟩ := h
  simp only [d2dCtlAccess, hm, regWrite_accepted s i _ _ ha, hc, Bool.false_eq_true, if_false]

/-! ## Links that exist (R316 to R322) -/

/-- A link takes frames while it exists and is not DOWN. -/
theorem linkTakes (he : linkExists s l = true) (hs : linkState s l ≠ 0) : (linkExists s l && linkState s l != 0) = true := by
  rw [he, Bool.true_and, bne_iff_ne]
  exact hs

/-- REPLAY that has waited too long on a link that is UP is repeated, or after 8 requests the link retrains. -/
theorem exec_linkReplayTimeout_asked {l : Fin 49} (he : linkExists s l = true) (hs : linkState s l = 2)
    (ha : (getLink s l).asked = some n) :
    exec (.linkReplayTimeout l) s = .next (if n < 8 then linkAsk s l else linkRetrain s l) := by
  show execLinkReplayTimeout l s = _
  simp only [execLinkReplayTimeout, he, hs, ha, Bool.not_true, bne_self_eq_false, Bool.or_self, Bool.false_eq_true, if_false]

/-- Training whose lanes aligned ends by what IDENT and the fuses say. -/
theorem exec_linkTrainDone_aligned {l : Fin 49} {farSite : BitVec 4} {farSerial : Word} {farOffer : BitVec 4} {farRev : Byte}
    (he : linkExists s l = true) (hs : linkState s l = 1) :
    exec (.linkTrainDone l farSite farSerial farOffer farRev true) s = .next (
      if farSite.toNat ≠ farSiteOf l ∨ farSerial ≠ s.serial ∨ fuseBad s l then
        linkDown (raiseCond (linkLog (wb s (Reg.D2D_STATUS l) 20 true) l 3) .d2d l 0 3) l
      else linkUp s l farSite.toNat farOffer.toNat farRev.toNat) := by
  show execLinkTrainDone l farSite farSerial farOffer farRev true s = _
  simp only [execLinkTrainDone, he, hs, beq_self_eq_true, Bool.not_true, Bool.true_or, Bool.or_self, Bool.false_eq_true, if_false]

/-- A neighbour link that is not UP gives up what its replay buffer holds beyond the last frame delivered: requests to an absent die are
answered, everything else goes by the hub. -/
theorem exec_linkRecover_down {l : Fin 49} {seq : BitVec 10} (he : linkExists s l = true) (hl : 16 ≤ l.val ∧ l.val < 48)
    (hs : linkState s l < 2) :
    exec (.linkRecover l seq) s = .next (
      let x := linkAck (getLink s l) seq.toNat
      let pkts := x.unacked.map Prod.snd ++ x.ahead ++ x.held
      let t := setLink s l { x with unacked := [], ahead := [], held := [] }
      if siteAbsent t (farSiteOf l) then (pkts.filter isRequest).foldl requestAbsent t else hubAhead t (farSiteOf l) pkts) := by
  refine congrArg Host.Outcome.next (if_neg ?_)
  obtain ⟨hlo, hhi⟩ := hl
  simp [he, Nat.not_lt.2 hlo, Nat.ne_of_lt hhi, hs]

/-! ## Packets (R305 to R309, R311, R312) -/

/-- At an NI with no link behind it, a packet with a known command for an endpoint is delivered, sent on, or a route error, by its
destination and its source. -/
theorem exec_packetReceive_known {site : Fin 14} {ni : BitVec 6} {reqBytes cycles : Nat} (hp : populated s site = true)
    (hn : ni.toNat < niCount site) (hv : hdrFld hdr 48 3 ≤ 5) (hc : cmdKnown (hdrFld hdr 40 8) = true)
    (hd : niLink (hdrFld hdr 160 9 / 32) (hdrFld hdr 160 9 % 32) = none) (hni : niLink site ni.toNat = none) :
    exec (.packetReceive site ni hdr reqBytes cycles) s = .next (
      if hdrFld hdr 160 9 = 32 * site + ni.toNat then
        if [0x19, 0x20, 0x21, 0x32, 0x33, 0x1E].contains (hdrFld hdr 40 8) then responded s site ni.toNat hdr reqBytes cycles else s
      else if hdrFld hdr 55 9 = 32 * site + ni.toNat then routeOn s site ni.toNat hdr
      else routeError s site hdr) := by
  show execPacketReceive site ni hdr reqBytes cycles s = _
  simp only [execPacketReceive, hp, Nat.not_le.2 hn, Nat.not_lt.2 hv, hc, hd, hni, Option.isSome_none, decide_false, Bool.not_true,
    Bool.or_self, Bool.false_eq_true, if_false]

/-- A packet with an unknown command is a route error. -/
theorem exec_packetReceive_unknown {site : Fin 14} {ni : BitVec 6} {reqBytes cycles : Nat} (hp : populated s site = true)
    (hn : ni.toNat < niCount site) (hv : hdrFld hdr 48 3 ≤ 5) (hc : cmdKnown (hdrFld hdr 40 8) = false) :
    exec (.packetReceive site ni hdr reqBytes cycles) s = .next (routeError s site hdr) := by
  show execPacketReceive site ni hdr reqBytes cycles s = _
  simp only [execPacketReceive, hp, Nat.not_le.2 hn, Nat.not_lt.2 hv, hc, decide_false, Bool.not_true, Bool.not_false, Bool.or_self,
    Bool.true_or, Bool.false_eq_true, if_false, if_true]

/-! ## Routes (R308) -/

/-- A committed route waits while a request that went by the old one has no response. -/
theorem exec_routeInstall_waits {site : Fin 14} {ni : BitVec 6} {entry : BitVec 9}
    (ho : (s.fab.outs.any fun o => o.1 == rtKey site ni.toNat entry.toNat) = true) : exec (.routeInstall site ni entry) s = .next s := by
  show execRouteInstall site ni entry s = _
  cases hc : s.fab.commits.get? (rtKey site ni.toNat entry.toNat) with
  | none => simp only [execRouteInstall, hc]
  | some w => simp only [execRouteInstall, hc, ho, if_true]

end

/-- Settles O25: a write completes as an accepted one; a route, a router, a link, a die and a packet each are in the state their rule asks
for. -/
theorem fabricCommandsComplete : Obligations.FabricCommandsComplete := by
  unfold Obligations.FabricCommandsComplete
  refine ⟨?commit, ?install, ?reconfig, ?drained, ?stats, ?retrain, ?disable, ?absent, ?frame, ?replay, ?credit, ?beat, ?beatLoss,
    ?askAgain, ?askLast, ?trained, ?notTrained, ?recoverAbsent, ?recover, ?empty, ?rejoin, ?fuse, ?unknown, ?response, ?route, ?noVc,
    ?installWaits⟩
  -- routes and routers
  case commit => exact fun s i site v u h hu => next_regWriteOpt_accepted h hu
  case install =>
    intro s site ni entry w hw ho
    show execRouteInstall site ni entry s = _
    simp only [execRouteInstall, hw, ho, Bool.false_eq_true, if_false]
  case installWaits => exact fun s site ni entry ho => exec_routeInstall_waits ho
  case reconfig => exact fun s i site v u h hu => next_regWriteOpt_accepted h hu
  case drained =>
    rintro s site cycles router pe _ hr rfl
    show execRouterDrainDone site cycles s = _
    simp only [execRouterDrainDone, hr]
  case stats => exact fun s i site v h => next_regWrite_privileged h
  -- link registers
  case retrain => exact fun s i l v h hc => congrArg Host.Outcome.next (d2dCtlAccess_unclamped h hc)
  case disable => exact fun s i l v h hc => congrArg Host.Outcome.next (d2dCtlAccess_unclamped h hc)
  -- frames, credits, heartbeats
  case frame => exact fun s l word payload corrected uncorr he hs => congrArg Host.Outcome.next (if_pos (linkTakes he hs))
  case replay => exact fun s l seq he hs => congrArg Host.Outcome.next (if_pos (linkTakes he hs))
  case credit => exact fun s l counts he hs => congrArg Host.Outcome.next (if_pos (linkTakes he hs))
  case beat => exact fun s l he hs ht => congrArg Host.Outcome.next (if_pos (Bool.and_eq_true_iff.2 ⟨linkTakes he hs, ht⟩))
  case beatLoss => exact fun s l he hs ht => congrArg Host.Outcome.next (if_pos (Bool.and_eq_true_iff.2 ⟨linkTakes he hs, ht⟩))
  case askAgain =>
    intro s l n he hs ha hn
    rw [exec_linkReplayTimeout_asked he hs ha, if_pos hn]
  case askLast =>
    intro s l n he hs ha hn
    rw [exec_linkReplayTimeout_asked he hs ha, if_neg hn]
  -- training and recovery
  case trained =>
    intro s l farSite farSerial farOffer farRev he hs hsite hserial hfuse
    rw [exec_linkTrainDone_aligned he hs, if_neg (by simp [hsite, hserial, hfuse])]
  case notTrained =>
    intro s l farSite farSerial farOffer farRev he hs hbad
    rw [exec_linkTrainDone_aligned he hs, if_pos hbad]
  case recoverAbsent =>
    intro s l seq he hl hs ha
    exact (exec_linkRecover_down he hl hs).trans (congrArg Host.Outcome.next (if_pos ha))
  case recover =>
    intro s l seq he hl hs ha
    exact (exec_linkRecover_down he hl hs).trans (congrArg Host.Outcome.next (if_neg (ne_true_of_eq_false ha)))
  -- dies
  case absent =>
    intro s n hp hs
    refine congrArg Host.Outcome.next (if_pos ?_)
    simp [hp, hs]
  case empty =>
    intro s n hp hs
    refine congrArg Host.Outcome.next (if_pos ?_)
    simp [hp, hs]
  case rejoin =>
    rintro s n _ _ ha he hscan hs hd rfl rfl
    refine congrArg Host.Outcome.next (if_pos ?_)
    simp only [ha, he, hscan, hs, hd, Bool.not_false, beq_self_eq_true, Bool.and_self]
  case fuse =>
    intro s site corr err hp hd
    refine congrArg Host.Outcome.next (if_neg ?_)
    simp [hp, hd]
  -- packets
  case unknown => exact fun s site ni hdr reqBytes cycles hp hn hv hc => exec_packetReceive_unknown hp hn hv hc
  case response =>
    intro s site ni hdr reqBytes cycles hp hn hv hc hd hni hdst hcmd
    rw [exec_packetReceive_known hp hn hv hc hd hni, if_pos hdst, if_pos hcmd]
  case route =>
    intro s site ni hdr reqBytes cycles hp hn hv hc hd hni hdst hsrc
    rw [exec_packetReceive_known hp hn hv hc hd hni, if_neg hdst, if_pos hsrc]
  case noVc =>
    intro s site ni hdr reqBytes cycles hv
    refine congrArg Host.Outcome.next (if_pos ?_)
    simp [hv]

end Sys2Proof.Machine
end

section
/-! PROOFS of O45. The state after power-on reset: registers read from the reset column of the tables, on a semaphore page 0 (R13, R326,
R404, R450, R470, R474). -/

namespace Sys2Proof.Machine

/-- No register has been written since power-on reset (R13). -/
theorem rd_reset (r : RegAddr) : rd State.reset r = resetVal State.reset r := rfl

/-- A register resets to 0 when no rule of its own gives it a value and each row of its page gives 0 (R13). -/
theorem resetVal_zero (s : State) (r : RegAddr) (hs : specialReset s r = none)
    (hrows : ∀ row ∈ rowsOf r.ty, row.pLo ≤ r.page → r.page ≤ row.pHi → row.reset = 0) : resetVal s r = 0 := by
  rw [resetVal, hs]
  cases hf : findRow r.ty r.page r.off with
  | none => rfl
  | some row =>
    rw [findRow] at hf
    obtain ⟨hlo, hhi, -⟩ := by simpa [and_assoc] using List.find?_some hf
    simp [hrows row (List.mem_of_find?_eq_some hf) hlo hhi]

/-- Every register of the semaphore page of HPA resets to 0: each semaphore FREE, the tie to HPA (Table 16.7). -/
theorem resetVal_semPage (s : State) (off : Nat) : resetVal s ⟨.hpa, 0, 1, off⟩ = 0 :=
  resetVal_zero s _ (by simp [specialReset]) (show ∀ row ∈ rowsOf .hpa, row.pLo ≤ 1 → 1 ≤ row.pHi → row.reset = 0 by decide)

/-- Settles O45: the registers by `resetVal_semPage`, the other parts as the reset state lists them. -/
theorem resetState : Obligations.ResetState := by
  unfold Obligations.ResetState
  have hsem (off : Nat) : rd State.reset ⟨.hpa, 0, 1, off⟩ = 0 := (rd_reset _).trans (resetVal_semPage _ off)
  refine ⟨?por, ?time, ?queue, fun k => hsem _, ?tie, ?diesel, ?grants, ?drive, ?irs⟩
  case tie => simp [rf, Reg.HPAS_TIE, hsem, fld]
  all_goals rfl

end Sys2Proof.Machine
end

section
/-! PROOFS of O46, O47 and O48. What every command leaves as it was: the package's identity, its fused state, the commands that wait, and
the canonical form of memory (R374, R459, spec/02_register_pages.md). -/

namespace Sys2Proof.Machine

/-- `s` has come from `r` by operations that leave the package's identity, the fused state and the waiting commands as they were and
memory in its canonical form. -/
structure Kept (r s : State) : Prop where
  part : s.part = r.part
  serial : s.serial = r.serial
  life : s.life = r.life
  pending : s.pending = r.pending
  memOk : Safety.MemOk r → Safety.MemOk s

/-- The state that an operation answers, where it answers one, is kept. -/
def KeptO (r : State) (o : Option State) : Prop := ∀ t, o = some t → Kept r t

/-- The state beside a value that an operation answers, where it answers one, is kept. -/
def KeptOP {α : Type} (r : State) (o : Option (State × α)) : Prop := ∀ p, o = some p → Kept r p.1

/-- The state that an operation answers, where it raises no error, is kept. -/
def KeptE {ε : Type} (r : State) (x : Except ε State) : Prop := ∀ t, x = .ok t → Kept r t

/-- The next state that a command answers is kept. -/
def KeptOut (r : State) (o : Out) : Prop := ∀ t, o = .next t → Kept r t

/-- The state in which an executed instruction ends is kept. -/
def KeptX (r : State) : Exe → Prop
  | .done t _ => Kept r t
  | .mode t _ _ => Kept r t
  | .fault t _ => Kept r t
  | .hold t => Kept r t
  | .over t => Kept r t

/-- The state in which the lazy sequence ends is kept. -/
def KeptL (r : State) : Lazy → Prop
  | .ready t => Kept r t
  | .wait t => Kept r t
  | .fault t _ => Kept r t

/-- The state that a block's rule for a write answers, where the write is taken, is kept. -/
def KeptW (r : State) : WRes → Prop
  | .done t => Kept r t
  | .clamp t => Kept r t
  | .fail _ => True

/-- The state that a write of CMP_CTL answers, where the write is taken, is kept. -/
def KeptC (r : State) : CtlRes → Prop
  | .done t => Kept r t
  | _ => True

variable {r s t u : State}

/-! ## How states are put together -/

theorem Kept.refl (s : State) : Kept s s := ⟨rfl, rfl, rfl, rfl, id⟩

/-- Fields other than the five that the relation speaks of may be replaced. -/
theorem kept_update (h : Kept r s)
    {time resp freeCtr regs poison err ammin fio evr cores prefetch prism dom smg mcp qe ptp dmc dramGen sent pageBytes hps spas macs frer
      psl coh fab links pwr jrn bse dbg lens} :
    Kept r { s with
      time := time, resp := resp, freeCtr := freeCtr, regs := regs, poison := poison, err := err, ammin := ammin, fio := fio, evr := evr,
      cores := cores, prefetch := prefetch, prism := prism, dom := dom, smg := smg, mcp := mcp, qe := qe, ptp := ptp, dmc := dmc,
      dramGen := dramGen, sent := sent, pageBytes := pageBytes, hps := hps, spas := spas, macs := macs, frer := frer, psl := psl,
      coh := coh, fab := fab, links := links, pwr := pwr, jrn := jrn, bse := bse, dbg := dbg, lens := lens } :=
  ⟨h.part, h.serial, h.life, h.pending, h.memOk⟩

/-- Memory and fills may be replaced as well, where memory stays in its canonical form. -/
theorem kept_updateFills (h : Kept r s) {mem fills} (hm : Safety.MemOk s → Memory.wf fills mem = true)
    {freeCtr poison cores prefetch coh dmc dramGen} :
    Kept r { s with
      freeCtr := freeCtr, mem := mem, fills := fills, poison := poison, cores := cores, prefetch := prefetch, coh := coh, dmc := dmc,
      dramGen := dramGen } :=
  ⟨h.part, h.serial, h.life, h.pending, fun hr => hm (h.memOk hr)⟩

theorem kept_updateMem (h : Kept r s) {mem} (hm : Safety.MemOk s → Memory.wf s.fills mem = true)
    {freeCtr poison cores prefetch coh} :
    Kept r { s with freeCtr := freeCtr, mem := mem, poison := poison, cores := cores, prefetch := prefetch, coh := coh } :=
  kept_updateFills h hm

theorem kept_ite {c : Prop} [Decidable c] (hs : Kept r s) (ht : Kept r t) : Kept r (if c then s else t) := by
  split
  · exact hs
  · exact ht

theorem kept_fst_ite {α : Type} {c : Prop} [Decidable c] {p q : State × α} (hp : Kept r p.1) (hq : Kept r q.1) :
    Kept r (if c then p else q).1 := by
  split
  · exact hp
  · exact hq

theorem kept_snd_ite {α : Type} {c : Prop} [Decidable c] {p q : α × State} (hp : Kept r p.2) (hq : Kept r q.2) :
    Kept r (if c then p else q).2 := by
  split
  · exact hp
  · exact hq

theorem kept_fst {α : Type} {p : State × α} {a : α} (h : Kept r p.1) (e : p = (t, a)) : Kept r t := by
  rwa [e] at h

theorem kept_snd {α : Type} {p : α × State} {a : α} (h : Kept r p.2) (e : p = (a, t)) : Kept r t := by
  rwa [e] at h

theorem kept_foldl {α : Type} {f : State → α → State} {l : List α} (h : Kept r s) (hf : ∀ t x, Kept r t → Kept r (f t x)) :
    Kept r (l.foldl f s) := by
  induction l generalizing s with
  | nil => exact h
  | cons x l ih => exact ih (hf s x h)

theorem kept_foldl_fst {α β : Type} {f : State × β → α → State × β} {l : List α} {p : State × β} (h : Kept r p.1)
    (hf : ∀ q x, Kept r q.1 → Kept r (f q x).1) : Kept r (l.foldl f p).1 := by
  induction l generalizing p with
  | nil => exact h
  | cons x l ih => exact ih (hf p x h)

theorem kept_getD {o : Option State} (ho : KeptO r o) (h : Kept r s) : Kept r (o.getD s) := by
  cases o with
  | none => exact h
  | some t => exact ho t rfl

theorem keptO_none : KeptO r none := fun _ e => nomatch e

theorem keptO_some (h : Kept r s) : KeptO r (some s) := fun _ e => Option.some.inj e ▸ h

theorem keptO_ite {c : Prop} [Decidable c] {o p : Option State} (ho : KeptO r o) (hp : KeptO r p) : KeptO r (if c then o else p) := by
  split
  · exact ho
  · exact hp

theorem keptO_of_eq {o : Option State} (e : o = some t) (ho : KeptO r o) : Kept r t := ho t e

theorem keptOP_none {α : Type} : KeptOP r (none : Option (State × α)) := fun _ e => nomatch e

theorem keptOP_some {α : Type} {p : State × α} (h : Kept r p.1) : KeptOP r (some p) := fun _ e => Option.some.inj e ▸ h

theorem keptOP_ite {α : Type} {c : Prop} [Decidable c] {o p : Option (State × α)} (ho : KeptOP r o) (hp : KeptOP r p) :
    KeptOP r (if c then o else p) := by
  split
  · exact ho
  · exact hp

theorem keptOP_of_eq {α : Type} {o : Option (State × α)} {p : State × α} (e : o = some p) (ho : KeptOP r o) : Kept r p.1 := ho p e

theorem keptE_error {ε : Type} {x : ε} : KeptE r (.error x : Except ε State) := fun _ e => nomatch e

theorem keptE_ok {ε : Type} (h : Kept r s) : KeptE r (.ok s : Except ε State) := fun _ e => Except.ok.inj e ▸ h

theorem keptE_ite {ε : Type} {c : Prop} [Decidable c] {x y : Except ε State} (hx : KeptE r x) (hy : KeptE r y) :
    KeptE r (if c then x else y) := by
  split
  · exact hx
  · exact hy

theorem keptE_of_eq {ε : Type} {x : Except ε State} (e : x = .ok t) (hx : KeptE r x) : Kept r t := hx t e

theorem keptOut_next (h : Kept r s) : KeptOut r (.next s) := fun _ e => Host.Outcome.next.inj e ▸ h

theorem keptX_ite {c : Prop} [Decidable c] {x y : Exe} (hx : KeptX r x) (hy : KeptX r y) : KeptX r (if c then x else y) := by
  split
  · exact hx
  · exact hy

theorem keptL_ite {c : Prop} [Decidable c] {x y : Lazy} (hx : KeptL r x) (hy : KeptL r y) : KeptL r (if c then x else y) := by
  split
  · exact hx
  · exact hy

theorem keptL_ready {x : Lazy} (e : x = .ready t) (hx : KeptL r x) : Kept r t := by
  rwa [e] at hx

theorem keptL_wait {x : Lazy} (e : x = .wait t) (hx : KeptL r x) : Kept r t := by
  rwa [e] at hx

theorem keptL_fault {x : Lazy} {f : Flt} (e : x = .fault t f) (hx : KeptL r x) : Kept r t := by
  rwa [e] at hx

theorem keptW_ite {c : Prop} [Decidable c] {x y : WRes} (hx : KeptW r x) (hy : KeptW r y) : KeptW r (if c then x else y) := by
  split
  · exact hx
  · exact hy

theorem keptW_done {x : WRes} (e : x = .done t) (hx : KeptW r x) : Kept r t := by
  rwa [e] at hx

theorem keptW_clamp {x : WRes} (e : x = .clamp t) (hx : KeptW r x) : Kept r t := by
  rwa [e] at hx

theorem keptC_ite {c : Prop} [Decidable c] {x y : CtlRes} (hx : KeptC r x) (hy : KeptC r y) : KeptC r (if c then x else y) := by
  split
  · exact hx
  · exact hy

theorem keptC_done {x : CtlRes} (e : x = .done t) (hx : KeptC r x) : Kept r t := by
  rwa [e] at hx

/-! ## The named operations on the state -/

theorem kept_wr (h : Kept r s) {q v} : Kept r (wr s q v) := kept_update h

theorem kept_wf (h : Kept r s) {q lo w x} : Kept r (wf s q lo w x) := kept_wr h

theorem kept_wb (h : Kept r s) {q i b} : Kept r (wb s q i b) := kept_wf h

theorem kept_countReg (h : Kept r s) {q} : Kept r (countReg s q) := kept_wr h

theorem kept_addReg (h : Kept r s) {q n} : Kept r (addReg s q n) := kept_wr h

theorem kept_takeFree (h : Kept r s) : Kept r (takeFree s).2 := kept_update h

theorem kept_wrBytes (h : Kept r s) {a l} : Kept r (wrBytes s a l) :=
  kept_updateMem h fun hm => memOk_wrBytes s a l hm

theorem kept_wrMem (h : Kept r s) {a n x} : Kept r (wrMem s a n x) := kept_wrBytes h

theorem kept_dpSet (h : Kept r s) {k b} : Kept r (dpSet s k b) := kept_update h

theorem kept_dpWrite (h : Kept r s) {k l} : Kept r (dpWrite s k l) := by
  induction l generalizing s k with
  | nil => exact h
  | cons b l ih => exact ih (kept_dpSet h)

theorem kept_setPoison (h : Kept r s) {line} : Kept r (setPoison s line) := kept_ite h (kept_update h)

theorem kept_clearPoison (h : Kept r s) {line} : Kept r (clearPoison s line) := kept_update h

theorem kept_setCore (h : Kept r s) {c k} : Kept r (setCore s c k) := kept_update h

theorem kept_logErr (h : Kept r s) {e} : Kept r (logErr s e) := kept_ite (kept_update h) (kept_countReg h)

theorem kept_recordPageErr (h : Kept r s) {i q cause} : Kept r (recordPageErr s i q cause) := kept_logErr (kept_wr h)

theorem kept_respErr (h : Kept r s) {code} : Kept r (respErr s code) := kept_update h

theorem kept_respOk (h : Kept r s) {v} : Kept r (respOk s v) := kept_update h

theorem kept_failAccess (h : Kept r s) {i q cause} : Kept r (failAccess s i q cause) := kept_respErr (kept_recordPageErr h)

theorem kept_setTb (h : Kept r s) {n t} : Kept r (setTb s n t) := kept_update h

theorem kept_setSrc (h : Kept r s) {n x} : Kept r (setSrc s n x) := kept_update h

theorem kept_assertSrc (h : Kept r s) {n late} : Kept r (assertSrc s n late) := kept_update h

theorem kept_assertRises (h : Kept r s) {b n page before after} : Kept r (assertRises s b n page before after) := by
  simp only [assertRises]
  refine kept_foldl h (fun _ _ ht => ?_)
  refine kept_ite ?_ ht
  split
  · exact kept_assertSrc ht
  · exact ht

theorem kept_setEvt (h : Kept r s) {b n page status enable} : Kept r (setEvt s b n page status enable) :=
  kept_assertRises (kept_wr (kept_wr h))

theorem kept_assertMoved {old : State} (h : Kept r s) {b n page} : Kept r (assertMoved old s b n page) := by
  simp only [assertMoved]
  refine kept_foldl h (fun _ _ ht => ?_)
  refine kept_ite ?_ ht
  split
  · exact kept_ite ht (kept_assertSrc ht)
  · exact ht

theorem kept_raiseCond (h : Kept r s) {b n page k} : Kept r (raiseCond s b n page k) := kept_setEvt h

theorem kept_absentAccess (h : Kept r s) {i q} : Kept r (absentAccess s i q) := kept_respErr (kept_logErr h)

theorem kept_unitAbsent (h : Kept r s) {i q} : Kept r (unitAbsent s i q) := kept_respErr (kept_logErr h)

theorem kept_regWrite (h : Kept r s) {i q sizeOk privOk} {eff : State → State} (heff : ∀ t, Kept r t → Kept r (eff t)) :
    Kept r (regWrite s i q sizeOk privOk eff) :=
  kept_ite (kept_absentAccess h) (kept_ite (kept_failAccess h) (kept_ite (kept_failAccess h)
    (kept_ite (kept_failAccess h) (kept_ite (kept_failAccess h) (kept_ite (kept_respOk (kept_recordPageErr h)) (heff _ (kept_respOk h)))))))

theorem kept_regRead (h : Kept r s) {i q sizeOk} {ans : State → State} (hans : ∀ t, Kept r t → Kept r (ans t)) :
    Kept r (regRead s i q sizeOk ans) :=
  kept_ite (kept_absentAccess h) (kept_ite (kept_failAccess h) (kept_ite (kept_failAccess h) (hans _ h)))

theorem kept_refuse (h : Kept r s) {i q} : Kept r (refuse s i q) := kept_failAccess h

theorem kept_regWriteOpt (h : Kept r s) {i q privOk} {f : State → Option State} (hf : ∀ t, Kept r t → KeptO r (f t)) :
    Kept r (regWriteOpt s i q privOk f) := by
  simp only [regWriteOpt]
  refine kept_regWrite h (fun _ ht => ?_)
  split
  · rename_i e
    exact hf _ ht _ e
  · exact kept_refuse ht

theorem kept_clampNote (h : Kept r s) {i q} : Kept r (clampNote s i q) := kept_recordPageErr h

theorem kept_bumpFree (h : Kept r s) : Kept r (bumpFree s) := kept_update h

/-! ## Snoop filters, cache lines and their flows -/

theorem kept_setSl (h : Kept r s) {k x} : Kept r (setSl s k x) := kept_update h

theorem kept_setLn (h : Kept r s) {a line x} : Kept r (setLn s a line x) := kept_update h

theorem kept_poisonHome (h : Kept r s) {k line lost} : Kept r (poisonHome s k line lost) :=
  kept_raiseCond (kept_logErr (kept_wr (kept_countReg (kept_setSl (kept_setPoison h)))))

theorem kept_scrubEntry (h : Kept r s) {k line} : Kept r (scrubEntry s k line) := by
  simp only [scrubEntry]
  split
  · exact h
  · split
    · exact kept_ite (kept_poisonHome h) (kept_setSl h)
    · exact kept_setSl h

theorem kept_invCores (h : Kept r s) {p line} : Kept r (invCores s p line) := kept_update h

theorem kept_dropShared (h : Kept r s) {p q line} : Kept r (dropShared s p q line) := kept_update h

theorem kept_leaveAgent (h : Kept r s) {a line} : Kept r (leaveAgent s a line) := kept_dropShared (kept_invCores h)

theorem kept_soleInDie (h : Kept r s) {c line} : Kept r (soleInDie s c line) := by
  simp only [soleInDie]
  exact kept_dropShared (kept_invCores h)

theorem kept_snoopNow (h : Kept r s) {code line a} : Kept r (snoopNow s code line a) :=
  kept_ite (kept_leaveAgent (kept_setLn h)) (kept_setLn h)

theorem kept_backInvNow (h : Kept r s) {k v} : Kept r (backInvNow s k v) := by
  simp only [backInvNow]
  split
  · exact h
  · exact kept_countReg (kept_setSl (kept_foldl h (fun _ _ ht => kept_snoopNow ht)))

theorem kept_badEntryLog (h : Kept r s) {k line} : Kept r (badEntryLog s k line) := kept_logErr (kept_countReg h)

theorem kept_lookupNow (h : Kept r s) {k line} : Kept r (lookupNow s k line) :=
  kept_ite (kept_setSl (kept_foldl (kept_badEntryLog h) (fun _ _ ht => kept_snoopNow ht))) (kept_scrubEntry h)

theorem kept_roomFor (h : Kept r s) {k line} : KeptO r (roomFor s k line) := by
  simp only [roomFor]
  refine keptO_ite (keptO_some h) ?_
  split
  · exact keptO_ite (keptO_some (kept_backInvNow (kept_scrubEntry h))) keptO_none
  · exact keptO_none

theorem kept_takeLine (h : Kept r s) {a line st} : Kept r (takeLine s a line st) := kept_setLn h

theorem kept_grantShared (h : Kept r s) {a line} : Kept r (grantShared s a line) := by
  simp only [grantShared]
  split
  · exact h
  · split
    · rename_i e _ _
      exact kept_takeLine (kept_setSl (kept_roomFor (kept_lookupNow h) _ e))
    · refine kept_takeLine ?_
      refine kept_setSl ?_
      split
      · rename_i e1 _ _ _ _ _ _
        exact kept_ite (kept_roomFor (kept_lookupNow h) _ e1) (kept_snoopNow (kept_roomFor (kept_lookupNow h) _ e1))
      · rename_i e1 _ _ _ _ _
        exact kept_roomFor (kept_lookupNow h) _ e1

theorem kept_grantUnique (h : Kept r s) {a line} : Kept r (grantUnique s a line) := by
  simp only [grantUnique]
  split
  · exact h
  · rename_i e
    exact kept_takeLine (kept_setSl (kept_foldl (kept_roomFor (kept_lookupNow h) _ e) (fun _ _ ht => kept_snoopNow ht)))

theorem kept_shareLine (h : Kept r s) {a line} : Kept r (shareLine s a line) := kept_ite h (kept_grantShared h)

theorem kept_ownLine (h : Kept r s) {a line} : Kept r (ownLine s a line) := by
  simp only [ownLine]
  split
  · exact h
  · exact kept_setLn h
  · exact kept_ite h (kept_grantUnique h)

theorem kept_giveUp (h : Kept r s) {a line} : Kept r (giveUp s a line) := kept_ite h (kept_setLn (kept_setSl h))

theorem kept_homeFlush (h : Kept r s) {line} : Kept r (homeFlush s line) := by
  simp only [homeFlush]
  refine kept_ite h ?_
  split
  · exact kept_lookupNow h
  · exact kept_setSl (kept_foldl (kept_lookupNow h) (fun _ _ ht => kept_snoopNow ht))

/-! ## Gate pattern engine -/

theorem kept_setGpe (h : Kept r s) {g u} : Kept r (setGpe s g u) := kept_update h

theorem kept_gpeForce (h : Kept r s) {g k} : Kept r (gpeForce s g k) :=
  kept_ite h (kept_ite (kept_raiseCond (kept_raiseCond (kept_setGpe (kept_wb h)))) (kept_raiseCond (kept_setGpe (kept_wb h))))

theorem kept_gpeForceAll (h : Kept r s) {k} : Kept r (gpeForceAll s k) := kept_foldl h (fun _ _ ht => kept_gpeForce ht)

theorem kept_gpeSettle (h : Kept r s) {g} : Kept r (gpeSettle s g) := kept_setGpe h

theorem kept_gpeReach (h : Kept r s) {g seg} : Kept r (gpeReach s g seg) := kept_ite (kept_gpeForce h) (kept_setGpe h)

theorem kept_gpeStartSeg (h : Kept r s) {g addr phase0 time0} : Kept r (gpeStartSeg s g addr phase0 time0) := kept_ite h (kept_gpeReach h)

theorem kept_gpeAdvance (h : Kept r s) {g} : Kept r (gpeAdvance s g) := kept_ite (kept_setGpe h) h

theorem kept_gpeApply (h : Kept r s) {g} : Kept r (gpeApply s g) := by
  simp only [gpeApply]
  split
  · exact h
  refine kept_ite h ?_
  generalize hu : gpeSettle _ g = u
  have hu : Kept r u := hu ▸ kept_gpeSettle (kept_setGpe h)
  generalize hv : @ite State (_ = true) (instDecidableEqBool _ true) (raiseCond _ .gpe g 0 3) u = v
  have hv : Kept r v := hv ▸ kept_ite (kept_raiseCond (kept_wb hu)) hu
  generalize hw : @ite State (_ = true) (instDecidableEqBool _ true) (raiseCond _ .gpe g 0 4) v = w
  have hw : Kept r w := hw ▸ kept_ite (kept_raiseCond (kept_wb hv)) hv
  generalize hx : gpeAdvance _ g = x
  have hx : Kept r x := hx ▸ kept_gpeAdvance (kept_ite (kept_raiseCond hw) hw)
  exact kept_ite (kept_setGpe hx) (kept_gpeReach hx)

theorem kept_gpeForceAnew (h : Kept r s) : Kept r (gpeForceAnew s) :=
  kept_foldl h (fun _ _ ht => kept_foldl ht (fun _ _ ht1 => kept_ite ht1 (kept_gpeForce ht1)))

theorem kept_gpeForceWrite (h : Kept r s) {g v} : Kept r (gpeForceWrite s g v) :=
  kept_ite (kept_ite (kept_foldl h (fun _ _ ht => kept_ite (kept_wb ht) ht)) (kept_gpeForce
    (kept_foldl h (fun _ _ ht => kept_ite (kept_wb ht) ht)))) (kept_wb (kept_foldl h (fun _ _ ht => kept_ite (kept_wb ht) ht)))

/-! ## Safety manager -/

theorem kept_smgHealth (h : Kept r s) : Kept r (smgHealth s) := kept_ite (kept_ite h (kept_update (kept_wb h))) (kept_update (kept_wb h))

theorem kept_smgGoto (h : Kept r s) {st} : Kept r (smgGoto s st) := kept_ite h (kept_smgHealth (kept_raiseCond (kept_wb (kept_wf h))))

theorem kept_smgSafe (h : Kept r s) {cause} : Kept r (smgSafe s cause) := kept_ite h (kept_gpeForceAll (kept_smgGoto (kept_wf h)))

theorem kept_smgReportWith (h : Kept r s) {q react} : Kept r (smgReportWith s q react) := by
  simp only [smgReportWith]
  refine kept_ite ?_ ?_
  · exact kept_raiseCond (kept_logErr (kept_ite (kept_update (kept_wr (kept_wb h))) (kept_wb h)))
  · refine kept_ite ?_ ?_
    · refine kept_ite ?_ ?_
      · exact kept_smgGoto (kept_raiseCond (kept_logErr (kept_ite (kept_update (kept_wr (kept_wb h))) (kept_wb h))))
      · exact kept_raiseCond (kept_logErr (kept_ite (kept_update (kept_wr (kept_wb h))) (kept_wb h)))
    · exact kept_smgSafe (kept_raiseCond (kept_logErr (kept_ite (kept_update (kept_wr (kept_wb h))) (kept_wb h))))

theorem kept_smgReport (h : Kept r s) {q} : Kept r (smgReport s q) := kept_smgReportWith h

theorem kept_mwMismatch (h : Kept r s) {i q} : Kept r (mwMismatch s i q) := kept_smgReport (kept_logErr (kept_recordPageErr h))

theorem kept_wdExpire (h : Kept r s) {cause} : Kept r (wdExpire s cause) :=
  kept_ite h (kept_smgSafe (kept_smgHealth (kept_gpeForceAll (kept_update (kept_wf (kept_wb h))))))

/-! ## Event router -/

theorem kept_srcOverrun (h : Kept r s) {n} : Kept r (srcOverrun s n) := kept_raiseCond (kept_setSrc h)

theorem kept_srcOrphan (h : Kept r s) {n} : Kept r (srcOrphan s n) := kept_raiseCond (kept_setSrc h)

theorem kept_enqueueSrc (h : Kept r s) {n} : Kept r (enqueueSrc s n) := kept_wr (kept_update h)

theorem kept_createEvent (h : Kept r s) {n e} : Kept r (createEvent s n e) := kept_enqueueSrc (kept_setSrc h)

theorem kept_mcpTrig (h : Kept r s) {n phases time} : Kept r (mcpTrig s n phases time) :=
  kept_foldl h (fun _ _ ht => kept_ite (kept_update ht) ht)

theorem kept_vmapForward (h : Kept r s) {n} : Kept r (vmapForward s n) := kept_update h

theorem kept_evrArrive (h : Kept r s) {a} : Kept r (evrArrive s a) := by
  simp only [evrArrive]
  refine kept_ite (kept_vmapForward h) ?_
  split
  · split
    · exact kept_createEvent (kept_mcpTrig (kept_vmapForward h))
    · exact kept_srcOverrun (kept_setSrc (kept_mcpTrig (kept_vmapForward h)))
  · exact kept_ite (kept_createEvent (kept_mcpTrig (kept_vmapForward h))) (kept_mcpTrig (kept_vmapForward h))
  · split
    · exact kept_createEvent (kept_mcpTrig (kept_vmapForward h))
    · exact kept_setSrc (kept_mcpTrig (kept_vmapForward h))

theorem kept_levelRecreate (h : Kept r s) {n} : Kept r (levelRecreate s n) := kept_ite (kept_createEvent h) h

theorem kept_leaveService (h : Kept r s) {n} : Kept r (leaveService s n) := kept_levelRecreate (kept_setSrc h)

theorem kept_discardEvent (h : Kept r s) {e} : Kept r (discardEvent s e) := kept_ite h (kept_ite (kept_leaveService h) h)

theorem kept_evrLost (h : Kept r s) : Kept r (evrLost s) := kept_raiseCond (kept_countReg h)

theorem kept_freeSlot (h : Kept r s) {n} : Kept r (freeSlot s n) := kept_update (kept_setSrc h)

theorem kept_deliverSlot (h : Kept r s) {n} : Kept r (deliverSlot s n) := by
  simp only [deliverSlot]
  split
  · exact kept_ite (kept_createEvent (kept_freeSlot h)) (kept_freeSlot h)
  · exact kept_freeSlot h

theorem kept_sendEvent (h : Kept r s) {c e} : Kept r (sendEvent s c e) := kept_update (kept_ite (kept_setSrc h) h)

theorem kept_setPool (h : Kept r s) {q p} : Kept r (setPool s q p) := kept_update h

theorem kept_poolSend (h : Kept r s) {q c e} : Kept r (poolSend s q c e) := kept_sendEvent (kept_setPool h)

theorem kept_sendCopy (h : Kept r s) {n c half} : Kept r (sendCopy s n c half) := by
  simp only [sendCopy]
  split
  · exact h
  · refine kept_ite ?_ (kept_deliverSlot (kept_sendEvent h))
    exact kept_ite (kept_deliverSlot (kept_sendEvent h)) (kept_setSrc (kept_sendEvent h))

theorem kept_offerInbox (h : Kept r s) {c l} : Kept r (offerInbox s c l) := by
  simp only [offerInbox]
  refine kept_ite h ?_
  split
  · exact kept_sendCopy h
  · exact h

theorem kept_dispatchSrc (h : Kept r s) {n} : Kept r (dispatchSrc s n) := by
  simp only [dispatchSrc]
  split
  · exact h
  · refine kept_ite h ?_
    refine kept_ite ?_ ?_
    · split
      · exact kept_poolSend (kept_deliverSlot h)
      · refine kept_ite (kept_setPool (kept_deliverSlot h)) ?_
        exact kept_levelRecreate (kept_raiseCond (kept_setPool (kept_deliverSlot h)))
    · refine kept_ite ?_ ?_
      · exact kept_levelRecreate (kept_srcOrphan (kept_freeSlot h))
      · exact kept_foldl h (fun _ _ ht => kept_ite (kept_offerInbox ht) ht)

theorem kept_poolDeliver (h : Kept r s) {q} : Kept r (poolDeliver s q) := by
  simp only [poolDeliver]
  split
  · exact h
  · refine kept_ite h ?_
    split
    · exact kept_poolSend (kept_setPool h)
    · exact h

theorem kept_packetArrive (h : Kept r s) {c} : Kept r (packetArrive s c) := by
  simp only [packetArrive]
  split
  · exact h
  · refine kept_ite ?_ ?_
    · exact kept_evrLost (kept_srcOrphan (kept_discardEvent (kept_update h)))
    · exact kept_ite (kept_srcOrphan (kept_discardEvent (kept_update h))) (kept_setCore (kept_update h))

theorem kept_dropInboxes (h : Kept r s) {c} : Kept r (dropInboxes s c) :=
  kept_foldl (kept_setCore h) (fun _ _ ht => kept_evrLost (kept_ite ht (kept_srcOrphan (kept_discardEvent ht))))

theorem kept_dropServing (h : Kept r s) {c} : Kept r (dropServing s c) := kept_foldl (kept_setCore h) (fun _ _ ht => kept_leaveService ht)

theorem kept_dropWaiting (h : Kept r s) {n} : Kept r (dropWaiting s n) := kept_ite (kept_srcOverrun (kept_freeSlot h)) h

theorem kept_disableOrphan (h : Kept r s) {n} : Kept r (disableOrphan s n) := kept_srcOrphan (kept_setSrc (kept_dropWaiting h))

theorem kept_orphanTargets (h : Kept r s) {p} : Kept r (orphanTargets s p) :=
  kept_foldl h (fun _ _ ht => kept_ite (kept_disableOrphan ht) ht)

theorem kept_cfgWrite (h : Kept r s) {n v} : KeptO r (cfgWrite s n v) :=
  keptO_ite keptO_none (keptO_ite (keptO_ite keptO_none (keptO_some (kept_levelRecreate (kept_setSrc h))))
    (keptO_some (kept_setSrc (kept_dropWaiting h))))

theorem kept_raiseSw (h : Kept r s) {n go val} : Kept r (raiseSw s n go val) :=
  kept_ite (kept_ite (kept_assertSrc (kept_setSrc h)) (kept_setSrc h)) (kept_ite (kept_assertSrc h) h)

/-! ## Accesses to memory by agents -/

theorem kept_hostWrite (h : Kept r s) {a l} : Kept r (hostWrite s a l) := kept_update h

theorem kept_dropResv (h : Kept r s) {a n} : Kept r (dropResv s a n) := kept_foldl h (fun _ _ ht => kept_invCores ht)

theorem kept_memWrite (h : Kept r s) {a l poison} : KeptE r (memWrite s a l poison) := by
  simp only [memWrite]
  split
  · refine keptE_ite (keptE_ok (kept_update (kept_hostWrite h))) ?_
    refine keptE_ite keptE_error ?_
    refine keptE_ok ?_
    refine kept_foldl ?_ (fun _ _ ht => kept_ite (kept_setPoison ht) (kept_clearPoison ht))
    exact kept_dropResv (kept_wrBytes (kept_foldl h (fun _ _ ht => kept_homeFlush ht)))
  · exact keptE_error
  · exact keptE_error

theorem kept_agWrite (h : Kept r s) {ep a l poison} : KeptE r (agWrite s ep a l poison) := keptE_ite keptE_error (kept_memWrite h)

theorem kept_poisonCopied (h : Kept r t) {src dst n} : Kept r (poisonCopied s t src dst n) :=
  kept_foldl h (fun _ _ ht => kept_ite (kept_setPoison ht) ht)

theorem kept_logFailed (h : Kept r s) {i a code} : Kept r (logFailed s i a code) := by
  simp only [logFailed]
  split
  · exact kept_ite (kept_recordPageErr h) (kept_ite (kept_logErr h) (kept_logErr h))
  · exact kept_logErr h

theorem kept_agReadNote (h : Kept r s) {ep p a n} : Kept r (agReadNote s ep p a n) := by
  simp only [agReadNote]
  split
  · exact kept_logFailed h
  · exact h

theorem kept_logPartialPoison (h : Kept r s) {a} : Kept r (logPartialPoison s a) := kept_logErr h

theorem kept_logBusErr (h : Kept r s) {i a code} : Kept r (logBusErr s i a code) := kept_ite (kept_logPartialPoison h) (kept_logFailed h)

/-! ## Queue engine -/

theorem kept_setRing (h : Kept r s) {q x} : Kept r (setRing s q x) := kept_update h

theorem kept_setDma (h : Kept r s) {c x} : Kept r (setDma s c x) := kept_update h

theorem kept_postDoorbell (h : Kept r s) {q} : Kept r (postDoorbell s q) := kept_assertSrc h

theorem kept_doorbellAfter (h : Kept r s) {q n} : Kept r (doorbellAfter s q n) := kept_ite (kept_postDoorbell h) h

theorem kept_ringError (h : Kept r s) {q} : Kept r (ringError s q) :=
  kept_ite h (kept_postDoorbell (kept_raiseCond (kept_wr (kept_logErr (kept_setRing h)))))

theorem kept_slotDone (h : Kept r s) {q l} : Kept r (slotDone s q l) := by
  simp only [slotDone]
  refine kept_doorbellAfter ?_
  split
  · exact kept_setRing h
  · exact kept_update (kept_setRing h)

theorem kept_qeMirrorFault (h : Kept r s) {q i} : Kept r (qeMirrorFault s q i) := kept_smgReport (kept_logErr h)

theorem kept_slotWrite (h : Kept r s) {x e} : Kept r (slotWrite s x e).1 := by
  simp only [slotWrite]
  split
  · exact kept_logErr h
  · split
    · exact kept_logBusErr h
    · rename_i e1
      exact kept_agWrite h _ e1

theorem kept_hwEnq (h : Kept r s) {q l} : KeptO r (hwEnq s q l) := by
  simp only [hwEnq]
  refine keptO_ite keptO_none ?_
  refine keptO_ite (keptO_some (kept_qeMirrorFault h)) ?_
  split
  · rename_i e
    exact keptO_some (kept_ringError (kept_fst (kept_slotWrite h) e))
  · rename_i e
    exact keptO_some (kept_slotDone (kept_fst (kept_slotWrite h) e))

theorem kept_hwDeq (h : Kept r s) {x} : Kept r (hwDeq s x).2 := by
  simp only [hwDeq]
  refine kept_snd_ite h ?_
  split
  · exact kept_ringError (kept_logBusErr h)
  · exact kept_snd_ite (kept_qeMirrorFault h) h

theorem kept_hwDeq_some (h : Kept r s) {x} {l : List Byte} {p : Bool} (e : hwDeq s x = (some (l, p, t), u)) : Kept r t := by
  simp only [hwDeq] at e
  split at e
  · cases e
  · split at e
    · cases e
    · split at e
      · cases e
      · cases e
        exact kept_setRing h

theorem kept_postResult (h : Kept r s) {i status slot} : Kept r (postResult s i status slot) := kept_respOk (kept_update h)

theorem kept_enqStart (h : Kept r s) {i p v} : Kept r (enqStart s i p v) := by
  simp only [enqStart]
  split
  · exact kept_postResult h
  · exact kept_ite (kept_postResult h) (kept_update (kept_setRing h))

theorem kept_deqStart (h : Kept r s) {i p v} : Kept r (deqStart s i p v) := by
  simp only [deqStart]
  split
  · exact kept_postResult h
  · exact kept_ite (kept_postResult h) (kept_update (kept_setRing h))

theorem kept_enqRead (h : Kept r s) {q k err} : Kept r (enqRead s q k err) := by
  simp only [enqRead]
  split
  · exact h
  · refine kept_ite (kept_postResult (kept_setRing h)) ?_
    split
    · exact kept_postResult (kept_setRing (kept_logBusErr h))
    · split
      · exact kept_postResult (kept_setRing (kept_logBusErr h))
      · refine kept_ite (kept_postResult (kept_setRing h)) ?_
        refine kept_ite ?_ ?_
        · exact kept_qeMirrorFault (kept_postResult (kept_setRing h))
        · exact kept_ite (kept_postResult (kept_setRing h)) (kept_ite (kept_postResult (kept_setRing h)) (kept_setRing h))

theorem kept_enqDone (h : Kept r s) {q err} : Kept r (enqDone s q err) := by
  simp only [enqDone]
  split
  · exact h
  · refine kept_ite (kept_postResult (kept_ringError (kept_setRing h))) ?_
    split
    · rename_i e
      exact kept_postResult (kept_ringError (kept_fst (kept_slotWrite (kept_setRing h)) e))
    · rename_i e
      exact kept_postResult (kept_slotDone (kept_fst (kept_slotWrite (kept_setRing h)) e))

theorem kept_deqDone (h : Kept r s) {q bufErr dstErr} : Kept r (deqDone s q bufErr dstErr) := by
  simp only [deqDone]
  split
  · exact h
  · refine kept_ite (kept_postResult (kept_ringError (kept_setRing h))) ?_
    split
    · exact kept_postResult (kept_ringError (kept_logBusErr (kept_setRing h)))
    · refine kept_ite ?_ ?_
      · exact kept_qeMirrorFault (kept_postResult (kept_setRing h))
      · refine kept_ite (kept_postResult (kept_setRing (kept_setRing h))) ?_
        split
        · exact kept_postResult (kept_setRing (kept_logBusErr (kept_setRing h)))
        · split
          · exact kept_postResult (kept_setRing (kept_logBusErr (kept_setRing h)))
          · rename_i e
            exact kept_postResult (kept_setRing (kept_poisonCopied (kept_agWrite (kept_setRing h) _ e)))

theorem kept_rcfgWrite (h : Kept r s) {q v} : KeptO r (rcfgWrite s q v) :=
  keptO_ite keptO_none (keptO_ite (keptO_ite keptO_none (keptO_ite (keptO_some h) (keptO_ite keptO_none (keptO_some (kept_setRing h)))))
    (keptO_ite (keptO_ite (keptO_some (kept_setRing h)) keptO_none) (keptO_some (kept_setRing h))))

theorem kept_dctlWrite (h : Kept r s) {c v} : KeptO r (dctlWrite s c v) := keptO_ite keptO_none (keptO_some (kept_setDma h))

theorem kept_dmaEnd (h : Kept r s) {c m status bytes} : Kept r (dmaEnd s c m status bytes) :=
  kept_ite (kept_raiseCond (kept_logErr (kept_setDma h))) (kept_setDma h)

theorem kept_dmaFetch (h : Kept r s) {c} : Kept r (dmaFetch s c) := by
  simp only [dmaFetch]
  refine kept_ite h ?_
  split
  · rename_i e
    exact kept_snd (kept_hwDeq h) e
  · rename_i e
    refine kept_ite (kept_dmaEnd (kept_setDma (kept_hwDeq_some h e))) ?_
    exact kept_ite (kept_setDma (kept_hwDeq_some h e)) (kept_dmaEnd (kept_setDma (kept_hwDeq_some h e)))

theorem kept_dmaStart (h : Kept r s) {c} : Kept r (dmaStart s c) := by
  simp only [dmaStart]
  split
  · exact h
  · split
    · exact h
    · exact kept_ite (kept_setDma h) h

theorem kept_dmaSource (h : Kept r s) {c m n} : Kept r (dmaSource s c m n).2 := by
  simp only [dmaSource]
  split
  · exact kept_logBusErr h
  · refine kept_snd_ite (kept_update h) ?_
    split
    · exact kept_logBusErr h
    · exact h

theorem kept_dmaCopy (h : Kept r s) {c m n} : Kept r (dmaCopy s c m n).1 := by
  simp only [dmaCopy]
  split
  · rename_i e
    exact kept_snd (kept_dmaSource h) e
  · split
    · rename_i e _ _ _
      exact kept_logBusErr (kept_snd (kept_dmaSource h) e)
    · rename_i e _ _
      refine kept_fst_ite ?_ ?_
      · exact kept_update (kept_hostWrite (kept_snd (kept_dmaSource h) e))
      · split
        · rename_i e _ _ _ _ e1
          refine kept_ite (kept_agWrite (kept_snd (kept_dmaSource h) e) _ e1) ?_
          exact kept_poisonCopied (kept_agWrite (kept_snd (kept_dmaSource h) e) _ e1)
        · exact kept_logBusErr (kept_snd (kept_dmaSource h) e)

theorem kept_dmaDone (h : Kept r s) {c tag err} : Kept r (dmaDone s c tag err) := by
  simp only [dmaDone]
  split
  · exact h
  · exact kept_dmaEnd (kept_dmaCopy h)

theorem kept_dmaPost (h : Kept r s) {c} : Kept r (dmaPost s c) := by
  simp only [dmaPost]
  split
  · exact h
  · split
    · exact h
    · rename_i e
      exact kept_setDma (kept_hwEnq h _ e)

theorem kept_dmaAbort (h : Kept r s) {i p v done} : Kept r (dmaAbort s i p v done) := by
  simp only [dmaAbort]
  refine kept_ite (kept_postResult h) (kept_ite (kept_postResult h) ?_)
  split
  · exact kept_postResult (kept_dmaEnd (kept_fst_ite h (kept_dmaCopy h)))
  · exact kept_postResult h

/-! ## Encoders, time bases and the nanosecond in which compares fire -/

theorem kept_setEnc (h : Kept r s) {e x} : Kept r (setEnc s e x) := kept_update h

theorem kept_tbGoto (h : Kept r s) {n st} : Kept r (tbGoto s n st) := kept_ite h (kept_raiseCond (kept_setTb h))

theorem kept_giveTick (h : Kept r s) {n k} : Kept r (giveTick s n k) := kept_setTb h

theorem kept_tbErrFail (h : Kept r s) {n} : Kept r (tbErrFail s n) := kept_ite (kept_tbGoto h) h

theorem kept_encTick (h : Kept r s) {n rev at'} : Kept r (encTick s n rev at') := kept_setTb h

theorem kept_encStep (h : Kept r s) {e before after at'} : Kept r (encStep s e before after at') :=
  kept_ite h (kept_ite (kept_foldl (kept_wr h) (fun _ _ ht => kept_tbErrFail (kept_raiseCond ht)))
    (kept_ite h (kept_foldl (kept_wr h) (fun _ _ ht => kept_encTick ht))))

theorem kept_encAcceptAB (h : Kept r s) {e} : Kept r (encAcceptAB s e) := kept_encStep (kept_setEnc h)

theorem kept_encAcceptZ (h : Kept r s) {e} : Kept r (encAcceptZ s e) := kept_ite h (kept_wb (kept_setEnc h))

theorem kept_indexAction (h : Kept r s) {n} : Kept r (indexAction s n) := by
  simp only [indexAction]
  split
  · exact kept_ite (kept_tbErrFail (kept_raiseCond h)) h
  · exact kept_ite h (kept_setTb h)
  · exact h

theorem kept_setCmp (h : Kept r s) {m c} : Kept r (setCmp s m c) := kept_update h

theorem kept_setTarget (h : Kept r s) {m t} : Kept r (setTarget s m t) := kept_ite (kept_wr (kept_wr h)) (kept_wr h)

theorem kept_cmpDisarmNow (h : Kept r s) {m} : Kept r (cmpDisarmNow s m) := kept_setCmp (kept_wb h)

theorem kept_cmpMirrorErr (h : Kept r s) {m} : Kept r (cmpMirrorErr s m) := kept_smgReport (kept_logErr (kept_wb (kept_cmpDisarmNow h)))

theorem kept_cmpRearm (h : Kept r s) {m dir b} : Kept r (cmpRearm s m dir b) :=
  kept_ite (kept_cmpDisarmNow h) (kept_ite (kept_setCmp (kept_setTarget h)) (kept_ite (kept_setCmp (kept_addReg (kept_setTarget h)))
    (kept_setCmp (kept_setTarget h))))

theorem kept_cmpFire (h : Kept r s) {m dir late b st} : Kept r (cmpFire s m dir late b st) := by
  simp only [cmpFire]
  refine kept_ite ?_ ?_
  · exact kept_wb (kept_cmpDisarmNow (kept_ite (kept_raiseCond (kept_wr h)) (kept_wr h)))
  · refine kept_ite ?_ ?_
    · exact kept_cmpMirrorErr (kept_ite (kept_raiseCond (kept_wr h)) (kept_wr h))
    · refine kept_ite ?_ ?_
      · exact kept_wb (kept_cmpRearm (kept_ite (kept_raiseCond (kept_wr h)) (kept_wr h)))
      · exact kept_update (kept_cmpRearm (kept_ite (kept_raiseCond (kept_wr h)) (kept_wr h)))

theorem kept_cmpRun (h : Kept r s) {m moves} : Kept r (cmpRun s m moves) := by
  simp only [cmpRun]
  refine kept_ite h ?_
  split
  · exact kept_ite h (kept_cmpFire h)
  · refine kept_foldl (kept_setCmp h) (fun _ _ ht => ?_)
    refine kept_ite ht ?_
    split
    · exact kept_cmpFire ht
    · exact ht

theorem kept_cmpSettle (h : Kept r s) : Kept r (cmpSettle s) := kept_update h

theorem kept_gpeCross (h : Kept r s) {runs g} : Kept r (gpeCross s runs g) := by
  simp only [gpeCross]
  split
  · exact h
  · exact kept_ite (kept_setGpe h) h

theorem kept_mcpCross (h : Kept r s) {runs} : Kept r (mcpCross s runs) := kept_update h

theorem kept_wdogTick (h : Kept r s) : Kept r (wdogTick s) := kept_ite h (kept_foldl h (fun _ _ ht => kept_wf ht))

theorem kept_budgetTick (h : Kept r s) : Kept r (budgetTick s) := kept_update h

theorem kept_ptpTick (h : Kept r s) : Kept r (ptpTick s) := kept_update h

theorem kept_cbsTick (h : Kept r s) : Kept r (cbsTick s) := kept_update h

theorem kept_nanosecond (h : Kept r s) : Kept r (nanosecond s) := by
  simp only [nanosecond]
  refine kept_ite h ?_
  refine kept_ite ?_ ?_
  · exact kept_update (kept_budgetTick (kept_cbsTick (kept_ptpTick (kept_wdogTick (kept_mcpCross h)))))
  · refine kept_update ?_
    refine kept_budgetTick ?_
    refine kept_cbsTick ?_
    refine kept_ptpTick ?_
    refine kept_wdogTick ?_
    refine kept_cmpSettle ?_
    refine kept_mcpCross ?_
    refine kept_foldl ?_ (fun _ _ ht => kept_gpeCross ht)
    refine kept_foldl ?_ (fun _ _ ht => kept_cmpRun ht)
    refine kept_foldl (kept_update h) (fun _ _ ht => ?_)
    refine kept_foldl ?_ (fun _ _ ht1 => kept_raiseCond ht1)
    split
    · exact kept_wr ht
    · exact ht

theorem kept_cmpArmEffect (h : Kept r s) {m} : Kept r (cmpArmEffect s m) := by
  simp only [cmpArmEffect]
  split
  · exact h
  · refine kept_ite h ?_
    refine kept_ite (kept_setCmp h) ?_
    exact kept_ite (kept_cmpFire (kept_setCmp h)) (kept_ite (kept_cmpFire (kept_setCmp h)) (kept_setCmp h))

theorem kept_tbRestart (h : Kept r s) {n} : Kept r (tbRestart s n) := kept_setTb (kept_tbGoto h)

theorem kept_tbStop (h : Kept r s) {n} : Kept r (tbStop s n) := kept_setTb (kept_tbGoto h)

theorem kept_tbCtlWrite (h : Kept r s) {n v} : KeptO r (tbCtlWrite s n v) :=
  keptO_ite keptO_none (keptO_ite keptO_none (keptO_ite (keptO_ite (keptO_some (kept_tbRestart (kept_wr h))) (keptO_some (kept_wr h)))
    (keptO_ite (keptO_some (kept_tbStop (kept_wr h))) (keptO_some (kept_wr h)))))

theorem kept_tbStandstillNow (h : Kept r s) {n} : Kept r (tbStandstillNow s n) := kept_ite (kept_raiseCond (kept_setTb h)) h

theorem kept_tbTimeoutNow (h : Kept r s) {n} : Kept r (tbTimeoutNow s n) := kept_ite (kept_tbGoto h) h

theorem kept_tbHoldNow (h : Kept r s) {n} : Kept r (tbHoldNow s n) := kept_ite (kept_tbGoto h) h

theorem kept_tbGrowNow (h : Kept r s) {n} : Kept r (tbGrowNow s n) := kept_ite (kept_setTb h) h

/-! ## Compare units -/

theorem kept_cmpCtlWrite (h : Kept r s) {m v} : KeptC r (cmpCtlWrite s m v) :=
  keptC_ite trivial (keptC_ite (keptC_ite trivial (keptC_ite trivial (keptC_ite (kept_cmpMirrorErr (kept_wr h))
    (kept_setCmp (kept_wr h))))) (keptC_ite (kept_setCmp (kept_wr h)) (kept_wr h)))

theorem kept_cmpCtlAccess (h : Kept r s) {i m v} : Kept r (cmpCtlAccess s i m v) := by
  simp only [cmpCtlAccess]
  refine kept_regWrite h (fun _ ht => ?_)
  split
  · rename_i e
    refine kept_ite ?_ (keptC_done e (kept_cmpCtlWrite ht))
    exact kept_foldl (keptC_done e (kept_cmpCtlWrite ht)) (fun _ _ ht1 => kept_assertMoved ht1)
  · exact kept_refuse ht
  · exact kept_failAccess ht

theorem kept_cmpEvent (h : Kept r s) {f} : Kept r (cmpEvent s f) := kept_evrArrive h

theorem kept_cmpAction (h : Kept r s) {f} : Kept r (cmpAction s f) := by
  simp only [cmpAction]
  split
  · exact kept_cmpEvent h
  · exact kept_update h
  · exact kept_update h
  · exact kept_foldl (kept_update h) (fun _ _ ht => kept_dmaFetch ht)

theorem kept_cmpDeliver (h : Kept r s) : Kept r (cmpDeliver s) := by
  simp only [cmpDeliver]
  split
  · exact h
  · exact kept_ite h (kept_ite (kept_cmpEvent (kept_cmpAction (kept_update h))) (kept_cmpAction (kept_update h)))

theorem kept_segStart (h : Kept r s) {g} : Kept r (segStart s g) := by
  simp only [segStart]
  split
  · exact h
  · exact kept_gpeStartSeg (kept_update h)

theorem kept_gpeCtlWrite (h : Kept r s) {g v} : KeptO r (gpeCtlWrite s g v) :=
  keptO_ite (keptO_ite keptO_none (keptO_some (kept_setGpe (kept_wr h)))) (keptO_ite (keptO_some (kept_setGpe (kept_wr h)))
    (keptO_some (kept_wr h)))

theorem kept_gpeStore (h : Kept r s) {g l} : Kept r (gpeStore s g l) :=
  kept_ite (kept_update (kept_setGpe h)) (kept_ite (kept_update h) (kept_countReg h))

theorem kept_gpeDrain (h : Kept r s) {g k} : Kept r (gpeDrain s g k) := by
  induction k generalizing s with
  | zero => exact h
  | succ k ih =>
    simp only [gpeDrain]
    split
    · exact h
    · exact kept_ite h (ih (kept_gpeStore (kept_setGpe h)))

theorem kept_gpeFetch (h : Kept r s) {g k} : Kept r (gpeFetch s g k) := by
  induction k generalizing s with
  | zero => exact h
  | succ k ih =>
    simp only [gpeFetch]
    refine kept_ite h ?_
    split
    · rename_i e
      exact kept_snd (kept_hwDeq h) e
    · rename_i e
      have ht := kept_hwDeq_some h e
      exact kept_ite (ih (kept_countReg ht)) (ih (kept_setGpe ht))

theorem kept_gpeRefillNow (h : Kept r s) {g} : Kept r (gpeRefillNow s g) :=
  kept_ite h (kept_ite (kept_gpeFetch (kept_gpeDrain h)) (kept_gpeDrain h))

theorem kept_axleRun (h : Kept r s) : Kept r (axleRun s) := by
  simp only [axleRun]
  refine kept_ite h ?_
  split
  · exact kept_update (kept_wr h)
  · refine kept_ite (kept_update (kept_wr h)) ?_
    refine kept_ite ?_ ?_
    · exact kept_raiseCond (kept_ite (kept_raiseCond (kept_update (kept_wr h))) (kept_update (kept_wr h)))
    · exact kept_ite (kept_raiseCond (kept_update (kept_wr h))) (kept_update (kept_wr h))

theorem kept_axleCtlWrite (h : Kept r s) {v} : KeptO r (axleCtlWrite s v) := keptO_ite (keptO_some (kept_wr (kept_wr h))) keptO_none

/-! ## Sigma-delta inputs -/

theorem kept_setSdm (h : Kept r s) {n x} : Kept r (setSdm s n x) := kept_update h

theorem kept_sinc3Run (h : Kept r s) {n bits} : Kept r (sinc3Run s n bits) := kept_ite h (kept_wr (kept_setSdm h))

theorem kept_sdmTrip (h : Kept r s) {n} : Kept r (sdmTrip s n) :=
  kept_foldl (kept_raiseCond (kept_wb h)) (fun _ _ ht => kept_ite (kept_gpeForce (kept_wr ht)) ht)

theorem kept_sinc2Run (h : Kept r s) {n bits} : Kept r (sinc2Run s n bits) :=
  kept_ite h (kept_ite (kept_sdmTrip (kept_setSdm h)) (kept_setSdm h))

theorem kept_sdmStuckRun (h : Kept r s) {n} : Kept r (sdmStuckRun s n) :=
  kept_ite h (kept_ite (kept_sdmTrip (kept_raiseCond (kept_wb h))) (kept_raiseCond (kept_wb h)))

theorem kept_snapDrop (h : Kept r s) {k} : Kept r (snapDrop s k) := kept_raiseCond (kept_countReg h)

theorem kept_snapRun (h : Kept r s) {k} : Kept r (snapRun s k) := by
  simp only [snapRun]
  split
  · exact h
  · exact kept_ite (kept_snapDrop (kept_update h)) (kept_update h)

theorem kept_snapWrite (h : Kept r s) : Kept r (snapWrite s) := by
  simp only [snapWrite]
  split
  · exact h
  · split
    · rename_i e
      exact kept_hwEnq (kept_update h) _ e
    · exact kept_snapDrop (kept_update h)

theorem kept_sdpSet (h : Kept r s) {k supply lock} : Kept r (sdpSet s k supply lock) :=
  kept_ite (kept_raiseCond (kept_ite (kept_raiseCond (kept_wr h)) (kept_wr h))) (kept_ite (kept_raiseCond (kept_wr h)) (kept_wr h))

theorem kept_sdpCtlWrite (h : Kept r s) {k v} : KeptO r (sdpCtlWrite s k v) :=
  keptO_ite keptO_none (keptO_ite (keptO_some (kept_wr h)) (keptO_some (kept_sdpSet (kept_wr h))))

theorem kept_sdpClassifyRun (h : Kept r s) {k mean rms freq} : Kept r (sdpClassifyRun s k mean rms freq) :=
  kept_ite h (kept_sdpSet (kept_wr (kept_wr (kept_wr h))))

theorem kept_sdpLockRun (h : Kept r s) {k freq} : Kept r (sdpLockRun s k freq) := kept_ite (kept_sdpSet (kept_wr h)) h

theorem kept_sdpLossRun (h : Kept r s) {k rms} : Kept r (sdpLossRun s k rms) := kept_ite (kept_sdpSet (kept_wr h)) h

theorem kept_sdpChkRun (h : Kept r s) {k diff} : Kept r (sdpChkRun s k diff) := kept_ite (kept_raiseCond (kept_wb h)) h

theorem kept_sdmCtlWrite (h : Kept r s) {n v} : KeptO r (sdmCtlWrite s n v) :=
  keptO_ite keptO_none (keptO_ite (keptO_some (kept_wr h)) (keptO_some (kept_setSdm (kept_wr h))))

theorem kept_sdmClkWrite (h : Kept r s) {c v} : KeptO r (sdmClkWrite s c v) := keptO_ite keptO_none (keptO_some (kept_wr h))

theorem kept_snapMaskWrite (h : Kept r s) {k v} : KeptO r (snapMaskWrite s k v) := keptO_ite keptO_none (keptO_some (kept_wr h))

/-! ## Commands of the field I/O -/

theorem kept_inFio (h : Kept r s) {f : State → State} (hf : ∀ t, Kept r t → Kept r (f t)) : KeptOut r (inFio s f) :=
  keptOut_next (kept_ite (hf _ h) h)

theorem kept_execEncEdge {e line level} (h : Kept r s) : KeptOut r (execEncEdge e line level s) := kept_inFio h (fun _ ht => kept_setEnc ht)

theorem kept_execEncFilterAccept {e line} (h : Kept r s) : KeptOut r (execEncFilterAccept e line s) := by
  simp only [execEncFilterAccept]
  refine kept_inFio h (fun _ ht => ?_)
  split
  · exact kept_encAcceptAB ht
  · exact kept_encAcceptAB ht
  · exact kept_encAcceptZ ht

theorem kept_execEncIndexEdge {e} (h : Kept r s) : KeptOut r (execEncIndexEdge e s) :=
  kept_inFio h (fun _ ht => kept_ite (kept_foldl (kept_setEnc ht) (fun _ _ ht1 => kept_indexAction ht1)) ht)

theorem kept_encCtlEffect (h : Kept r s) {i e v} : Kept r (encCtlEffect s i e v) := kept_wb (kept_wr (kept_ite (kept_clampNote h) h))

theorem kept_execSdpTick {k phase} (h : Kept r s) : KeptOut r (execSdpTick k phase s) :=
  kept_inFio h (fun _ ht => kept_ite (kept_foldl ht (fun _ _ ht1 => kept_giveTick ht1)) ht)

theorem kept_execTbAsTick {m} (h : Kept r s) : KeptOut r (execTbAsTick m s) := by
  simp only [execTbAsTick]
  refine kept_inFio h (fun _ ht => ?_)
  split
  · exact ht
  · exact kept_ite (kept_foldl (kept_update ht) (fun _ _ ht1 => kept_giveTick ht1)) ht

theorem kept_execTbRefTick (h : Kept r s) : KeptOut r (execTbRefTick s) :=
  kept_inFio h (fun _ ht => kept_ite (kept_foldl ht (fun _ _ ht1 => kept_giveTick ht1)) ht)

theorem kept_execTbStandstill {n} (h : Kept r s) : KeptOut r (execTbStandstill n s) := kept_inFio h (fun _ ht => kept_tbStandstillNow ht)

theorem kept_execTbTimeout {n} (h : Kept r s) : KeptOut r (execTbTimeout n s) := kept_inFio h (fun _ ht => kept_tbTimeoutNow ht)

theorem kept_execTbHoldExpiry {n} (h : Kept r s) : KeptOut r (execTbHoldExpiry n s) := kept_inFio h (fun _ ht => kept_tbHoldNow ht)

theorem kept_execTbUncGrow {n} (h : Kept r s) : KeptOut r (execTbUncGrow n s) := kept_inFio h (fun _ ht => kept_tbGrowNow ht)

theorem kept_tbPhaseWrite (h : Kept r s) {n w} : Kept r (tbPhaseWrite s n w) := kept_setTb h

theorem kept_captureEffect (h : Kept r s) {n} : Kept r (captureEffect s n) := kept_wr (kept_wr h)

theorem kept_execSdpChkErr {k diff} (h : Kept r s) : KeptOut r (execSdpChkErr k diff s) := kept_inFio h (fun _ ht => kept_sdpChkRun ht)

theorem kept_execSdpClassify {k mean rms freq} (h : Kept r s) : KeptOut r (execSdpClassify k mean rms freq s) :=
  kept_inFio h (fun _ ht => kept_sdpClassifyRun ht)

theorem kept_execSdpLock {k freq} (h : Kept r s) : KeptOut r (execSdpLock k freq s) := kept_inFio h (fun _ ht => kept_sdpLockRun ht)

theorem kept_execSdpLockLoss {k rms} (h : Kept r s) : KeptOut r (execSdpLockLoss k rms s) := kept_inFio h (fun _ ht => kept_sdpLossRun ht)

theorem kept_execAxleEvaluate (h : Kept r s) : KeptOut r (execAxleEvaluate s) := kept_inFio h (fun _ ht => kept_axleRun ht)

theorem kept_execCmpArmEffect {m} (h : Kept r s) : KeptOut r (execCmpArmEffect m s) := kept_inFio h (fun _ ht => kept_cmpArmEffect ht)

theorem kept_execCmpActionDeliver (h : Kept r s) : KeptOut r (execCmpActionDeliver s) := kept_inFio h (fun _ ht => kept_cmpDeliver ht)

theorem kept_execGpeSegmentStart {g} (h : Kept r s) : KeptOut r (execGpeSegmentStart g s) := kept_inFio h (fun _ ht => kept_segStart ht)

theorem kept_gpeStartEffect (h : Kept r s) {g v} : Kept r (gpeStartEffect s g v) := kept_ite (kept_gpeStartSeg h) h

theorem kept_execGpeEntryApply {g} (h : Kept r s) : KeptOut r (execGpeEntryApply g s) := kept_inFio h (fun _ ht => kept_gpeApply ht)

theorem kept_execGpeDeadtimeExpiry {g out} (h : Kept r s) : KeptOut r (execGpeDeadtimeExpiry g out s) :=
  kept_inFio h (fun _ ht => kept_setGpe ht)

theorem kept_execGpeRefill {g} (h : Kept r s) : KeptOut r (execGpeRefill g s) := kept_inFio h (fun _ ht => kept_gpeRefillNow ht)

theorem kept_execSdmSinc3Output {n bits} (h : Kept r s) : KeptOut r (execSdmSinc3Output n bits s) :=
  kept_inFio h (fun _ ht => kept_sinc3Run ht)

theorem kept_execSdmSinc2Output {n bits} (h : Kept r s) : KeptOut r (execSdmSinc2Output n bits s) :=
  kept_inFio h (fun _ ht => kept_sinc2Run ht)

theorem kept_execSdmStuck {n} (h : Kept r s) : KeptOut r (execSdmStuck n s) := kept_inFio h (fun _ ht => kept_sdmStuckRun ht)

theorem kept_execSdmSnapshot {set} (h : Kept r s) : KeptOut r (execSdmSnapshot set s) := kept_inFio h (fun _ ht => kept_snapRun ht)

theorem kept_execSdmSnapRingWrite (h : Kept r s) : KeptOut r (execSdmSnapRingWrite s) := kept_inFio h (fun _ ht => kept_snapWrite ht)

/-! ## Host ports and their semaphores, storage root ports -/

theorem kept_setHp (h : Kept r s) {p x} : Kept r (setHp s p x) := kept_update h

theorem kept_hpSend (h : Kept r s) {p o} : Kept r (hpSend s p o) := by
  simp only [hpSend]
  split
  · exact kept_setHp h
  · exact kept_update (kept_setHp h)

theorem kept_hostRead (h : Kept r s) {i a n load} : Kept r (hostRead s i a n load) := kept_hpSend (kept_update h)

theorem kept_hostAccess (h : Kept r s) {i a n wr} : Kept r (hostAccess s i a n wr) := by
  simp only [hostAccess]
  refine kept_ite h ?_
  split
  · exact kept_respErr (kept_logErr h)
  · refine kept_ite ?_ ?_
    · split
      · exact kept_respErr h
      · exact kept_respErr (kept_logErr h)
    · split
      · exact kept_hostWrite h
      · exact kept_hostRead h

theorem kept_hpAnswer (h : Kept r s) {o err v} : Kept r (hpAnswer s o err v) := by
  simp only [hpAnswer]
  split
  · exact kept_setCore h
  · exact kept_ite (kept_respOk h) (kept_respErr h)

theorem kept_hpEnd (h : Kept r s) {p tag} : Kept r (hpEnd s p tag) := by
  simp only [hpEnd]
  split
  · exact kept_setHp h
  · exact kept_hpSend (kept_setHp h)

theorem kept_execHpReadCompletion {port tag v} (h : Kept r s) : KeptOut r (execHpReadCompletion port tag v s) := by
  simp only [execHpReadCompletion]
  refine keptOut_next ?_
  split
  · exact kept_hpAnswer (kept_hpEnd h)
  · exact h

theorem kept_execHpCompletionTimeout {port tag} (h : Kept r s) : KeptOut r (execHpCompletionTimeout port tag s) := by
  simp only [execHpCompletionTimeout]
  refine keptOut_next ?_
  split
  · exact kept_ite (kept_hpAnswer (kept_hpEnd h)) h
  · exact h

theorem kept_semRelease (h : Kept r s) {p} : Kept r (semRelease s p) :=
  kept_ite h (kept_raiseCond (kept_foldl h (fun _ _ ht => kept_wr ht)))

theorem kept_hpDown (h : Kept r s) {p} : Kept r (hpDown s p) :=
  kept_raiseCond (kept_wr (kept_semRelease (kept_setHp (kept_foldl h (fun _ _ ht => kept_hpAnswer ht)))))

theorem kept_flr (h : Kept r s) {p f} : Kept r (flr s p f) := kept_raiseCond (kept_setHp h)

theorem kept_execHpConfigRequest {port fn req} (h : Kept r s) : KeptOut r (execHpConfigRequest port fn req s) := by
  simp only [execHpConfigRequest]
  refine keptOut_next ?_
  refine kept_ite h ?_
  refine kept_ite (kept_respErr h) ?_
  split
  · exact kept_respOk (kept_takeFree h)
  · exact kept_respOk (kept_setHp h)
  · exact kept_respOk h

theorem kept_hpMapEffect (h : Kept r s) {p q v} : KeptO r (hpMapEffect s p q v) :=
  keptO_ite (keptO_ite keptO_none (keptO_some (kept_wr h))) (keptO_ite keptO_none (keptO_some (kept_wr h)))

theorem kept_vmapEffect (h : Kept r s) {p k v} : KeptO r (vmapEffect s p k v) := keptO_ite keptO_none (keptO_some (kept_wr h))

theorem kept_msixGo (h : Kept r s) {p f v} : Kept r (msixGo s p f v) := kept_ite (kept_ite h (kept_setHp h)) (kept_update h)

theorem kept_execHpMsixSend {port} (h : Kept r s) : KeptOut r (execHpMsixSend port s) := by
  simp only [execHpMsixSend]
  refine keptOut_next ?_
  split
  · exact h
  · exact kept_ite (kept_msixGo (kept_setHp h)) (kept_setHp h)

theorem kept_msixWrite (h : Kept r s) {p f off l} : Kept r (msixWrite s p f off l) :=
  kept_foldl (kept_setHp h) (fun _ _ ht => kept_msixGo ht)

theorem kept_semRead (h : Kept r s) {i q k both} : Kept r (semRead s i q k both) := by
  simp only [semRead]
  split
  · exact kept_respOk h
  · refine kept_ite (kept_respOk (kept_recordPageErr h)) ?_
    exact kept_ite (kept_ite (kept_respOk (kept_wr (kept_wr h))) (kept_respOk (kept_wr h))) (kept_respOk h)

theorem kept_semWrite (h : Kept r s) {i q k v} : Kept r (semWrite s i q k v) := by
  simp only [semWrite]
  refine kept_ite (kept_failAccess h) ?_
  split
  · exact kept_ite (kept_respOk (kept_wr h)) (kept_failAccess h)
  · exact kept_ite (kept_respOk h) (kept_ite (kept_respOk (kept_wr h)) (kept_respOk (kept_recordPageErr h)))

theorem kept_setSpa (h : Kept r s) {n x} : Kept r (setSpa s n x) := kept_update h

theorem kept_execSpaConfigAccess {i port wr dev} (h : Kept r s) : KeptOut r (execSpaConfigAccess i port wr dev s) := by
  simp only [execSpaConfigAccess]
  refine keptOut_next ?_
  refine kept_ite ?_ ?_
  · refine kept_regWrite h (fun _ ht => ?_)
    refine kept_ite (kept_failAccess ht) ?_
    split
    · exact kept_update ht
    · split
      · exact kept_respOk (kept_update (kept_setSpa ht))
      · exact kept_update (kept_setSpa ht)
  · refine kept_regRead h (fun _ ht => ?_)
    refine kept_ite (kept_failAccess ht) ?_
    split
    · exact kept_update ht
    · split
      · exact kept_respOk (kept_update (kept_setSpa ht))
      · exact kept_update (kept_setSpa ht)

theorem kept_spaVector (h : Kept r s) {n v} : Kept r (spaVector s n v) := kept_assertSrc h

theorem kept_deviceAbort (h : Kept r s) {i a code} : Kept r (deviceAbort s i a code) := kept_respErr (kept_logBusErr h)

theorem kept_spaDma (h : Kept r s) {n a a'} : Kept r (spaDma s n a a') := by
  simp only [spaDma]
  split
  · refine kept_ite (kept_deviceAbort h) ?_
    refine kept_ite (kept_deviceAbort h) ?_
    split
    · exact kept_deviceAbort h
    · exact kept_ite (kept_respErr h) (kept_update h)
  · refine kept_ite (kept_respOk (kept_spaVector h)) ?_
    refine kept_ite (kept_deviceAbort h) ?_
    refine kept_ite (kept_deviceAbort h) ?_
    split
    · exact kept_deviceAbort h
    · rename_i e
      exact kept_respOk (kept_agWrite h _ e)

theorem kept_spaLink (h : Kept r s) {n up} : Kept r (spaLink s n up) := kept_raiseCond (kept_setSpa (kept_ite h (kept_respErr h)))

/-! ## Commands of the event router and of a core's scheduler registers -/

theorem kept_execEvrSourceArrival (h : Kept r s) : KeptOut r (execEvrSourceArrival s) := by
  simp only [execEvrSourceArrival]
  refine keptOut_next ?_
  split
  · exact h
  · exact kept_evrArrive (kept_update h)

theorem kept_evrOwnEffect (h : Kept r s) {i w v} : Kept r (evrOwnEffect s i w v) := kept_ite (kept_recordPageErr (kept_wr h)) (kept_wr h)

theorem kept_evrCfgEffect (h : Kept r s) {i q p n v} : Kept r (evrCfgEffect s i q p n v) := by
  simp only [evrCfgEffect]
  refine kept_ite (kept_failAccess h) ?_
  split
  · rename_i e
    exact kept_cfgWrite h _ e
  · exact kept_refuse h

theorem kept_evrCfgAccess (h : Kept r s) {i p v} : Kept r (evrCfgAccess s i p v) := kept_regWrite h (fun _ ht => kept_evrCfgEffect ht)

theorem kept_setcfgEffect (h : Kept r s) {i p v} : Kept r (setcfgEffect s i p v) := kept_evrCfgEffect (kept_ite (kept_wr h) h)

theorem kept_evrRaiseEffect (h : Kept r s) {i p v} : Kept r (evrRaiseEffect s i p v) :=
  kept_ite (kept_refuse h) (kept_ite (kept_failAccess h) (kept_raiseSw h))

theorem kept_poolMaskEffect (h : Kept r s) {i p k v} : Kept r (poolMaskEffect s i p k v) :=
  kept_ite (kept_failAccess h) (kept_ite (kept_setPool h) (kept_recordPageErr (kept_setPool h)))

theorem kept_dropLatches (h : Kept r s) {c} : Kept r (dropLatches s c) := kept_setCore h

theorem kept_lvlenWrite (h : Kept r s) {c v} : KeptO r (lvlenWrite s c v) :=
  keptO_ite keptO_none (keptO_some (kept_dropLatches (kept_foldl (kept_wr h) (fun _ _ ht => kept_setCore ht))))

theorem kept_entryWrite (h : Kept r s) {i c l v} : KeptO r (entryWrite s i c l v) :=
  keptO_ite (keptO_some h) (keptO_ite keptO_none (keptO_some (kept_wr h)))

theorem kept_budgetExpired (h : Kept r s) {c l} : Kept r (budgetExpired s c l) :=
  kept_ite h (kept_ite (kept_wb (kept_setCore h)) (kept_setCore (kept_wb (kept_setCore h))))

theorem kept_localEnter (h : Kept r s) {c} : Kept r (localEnter s c) := by
  simp only [localEnter]
  split
  · exact kept_setCore (kept_dropLatches h)
  · exact kept_setCore (kept_dropLatches h)
  · exact kept_dropLatches h

/-! ## Performance counters -/

theorem kept_cntBump (h : Kept r s) {c k n} : Kept r (cntBump s c k n).1 := kept_fst_ite (kept_wb (kept_wr h)) (kept_wr h)

theorem kept_cntOvf (h : Kept r s) {c k} : Kept r (cntOvf s c k) := kept_ite (kept_setCore h) h

theorem kept_cntAdd (h : Kept r s) {c k n} : Kept r (cntAdd s c k n) :=
  kept_ite (kept_cntBump h) (kept_ite (kept_cntOvf (kept_cntBump h)) (kept_ite
    (kept_ite (kept_cntOvf (kept_cntBump (kept_cntBump h))) (kept_cntBump (kept_cntBump h))) (kept_cntBump h)))

theorem kept_countEvt (h : Kept r s) {c code n x} : Kept r (countEvt s c code n x) :=
  kept_ite h (kept_foldl h (fun _ _ ht => kept_ite (kept_cntAdd ht) ht))

theorem kept_countCur (h : Kept r s) {c code} : Kept r (countCur s c code) := kept_countEvt h

/-! ## A core's accesses through L1D, L2, L3 and the home; evictions -/

theorem kept_lastCopy (h : Kept r s) {a line} : Kept r (lastCopy s a line) := kept_ite h (kept_giveUp h)

theorem kept_evictL3 (h : Kept r s) {a key} : Kept r (evictL3 s a key) := by
  simp only [evictL3]
  split
  · exact h
  · exact kept_lastCopy (kept_update h)

theorem kept_fillL3 (h : Kept r s) {a line ways} : Kept r (fillL3 s a line ways) := by
  simp only [fillL3]
  refine kept_ite h ?_
  split
  · exact kept_update h
  · exact kept_update (kept_evictL3 (kept_takeFree h))

theorem kept_evictL2 (h : Kept r s) {c key} : Kept r (evictL2 s c key) := by
  simp only [evictL2]
  split
  · exact h
  · exact kept_ite (kept_lastCopy (kept_dropShared (kept_invCores h))) (kept_fillL3 (kept_dropShared (kept_invCores h)))

theorem kept_fillL2 (h : Kept r s) {c line rt} : Kept r (fillL2 s c line rt) := by
  simp only [fillL2]
  refine kept_ite h ?_
  split
  · exact kept_update h
  · exact kept_update (kept_evictL2 (kept_takeFree h))

theorem kept_fillL1d (h : Kept r s) {c line} : Kept r (fillL1d s c line) := by
  simp only [fillL1d]
  refine kept_ite h ?_
  split
  · exact kept_setCore h
  · exact kept_setCore (kept_takeFree h)

theorem kept_noteAttr (h : Kept r s) {a x} : Kept r (noteAttr s a x) := kept_ite h (kept_setLn h)

theorem kept_reachL2 (h : Kept r s) {c x} {note : State → ℕ → State} (hnote : ∀ t x, Kept r t → Kept r (note t x)) :
    Kept r (reachL2 s c x note) := by
  simp only [reachL2]
  refine kept_fillL2 ?_
  refine kept_ite ?_ ?_
  · exact kept_ownLine (kept_soleInDie (kept_noteAttr (kept_ite h (kept_ite (hnote _ _ (hnote _ _ h)) (hnote _ _ h)))))
  · exact kept_shareLine (kept_noteAttr (kept_ite h (kept_ite (hnote _ _ (hnote _ _ h)) (hnote _ _ h))))

theorem kept_missEvt {c va attr} (h : Kept r s) {code} : Kept r (missEvt c va attr s code) := kept_countEvt h

theorem kept_cacheLine (h : Kept r s) {c va attr store line} : Kept r (cacheLine s c va attr store line) :=
  kept_fillL1d (kept_ite (kept_ite h (kept_missEvt h)) (kept_reachL2 (kept_ite h (kept_missEvt h)) (fun _ _ ht => kept_missEvt ht)))

theorem kept_cacheLines (h : Kept r s) {c va attr store a n} : Kept r (cacheLines s c va attr store a n) :=
  kept_ite (kept_foldl h (fun _ _ ht => kept_cacheLine ht)) h

theorem kept_keepOwn (h : Kept r t) {c} : Kept r (keepOwn s t c) := kept_setCore h

theorem kept_coreStore (h : Kept r s) {c pa l} : Kept r (coreStore s c pa l) := by
  simp only [coreStore]
  refine kept_ite ?_ ?_
  · refine kept_setCore ?_
    refine kept_foldl (kept_keepOwn (kept_dropResv (kept_wrBytes h))) (fun _ _ ht => ?_)
    exact kept_ite ht (kept_ite (kept_clearPoison ht) (kept_setPoison ht))
  · refine kept_foldl (kept_keepOwn (kept_dropResv (kept_wrBytes h))) (fun _ _ ht => ?_)
    exact kept_ite ht (kept_ite (kept_clearPoison ht) (kept_setPoison ht))

theorem kept_memWriteBy (h : Kept r s) {c a l} : KeptE r (memWriteBy s c a l) := by
  simp only [memWriteBy]
  split
  · exact keptE_ok (kept_coreStore (kept_cacheLines h))
  · exact keptE_error
  · exact keptE_error

/-! ## Core reset and debug stop -/

theorem kept_stopUpdate (h : Kept r s) {p} : Kept r (stopUpdate s p) :=
  kept_ite h (kept_ite (kept_foldl (kept_raiseCond (kept_wb h)) (fun _ _ ht => kept_ite (kept_gpeForce ht) ht))
    (kept_ite (kept_wr (kept_raiseCond (kept_wb h))) (kept_raiseCond (kept_wb h))))

theorem kept_coreRegsReset (h : Kept r s) {c} : Kept r (coreRegsReset s c) := kept_update h

theorem kept_coreHold (h : Kept r s) {c} : Kept r (coreHold s c) := by
  simp only [coreHold]
  refine kept_ite ?_ ?_
  · split
    · refine kept_stopUpdate ?_
      split
      · refine kept_ite ?_ ?_
        · exact kept_update (kept_setCore (kept_coreRegsReset (kept_dropInboxes (kept_dropServing h))))
        · exact kept_update (kept_setCore (kept_coreRegsReset (kept_dropInboxes (kept_dropServing h))))
      · exact kept_update (kept_setCore (kept_coreRegsReset (kept_dropInboxes (kept_dropServing h))))
    · split
      · refine kept_ite ?_ ?_
        · exact kept_update (kept_setCore (kept_coreRegsReset (kept_dropInboxes (kept_dropServing h))))
        · exact kept_update (kept_setCore (kept_coreRegsReset (kept_dropInboxes (kept_dropServing h))))
      · exact kept_update (kept_setCore (kept_coreRegsReset (kept_dropInboxes (kept_dropServing h))))
  · split
    · refine kept_ite ?_ ?_
      · exact kept_update (kept_setCore (kept_coreRegsReset (kept_dropInboxes (kept_dropServing h))))
      · exact kept_update (kept_setCore (kept_coreRegsReset (kept_dropInboxes (kept_dropServing h))))
    · exact kept_update (kept_setCore (kept_coreRegsReset (kept_dropInboxes (kept_dropServing h))))

theorem kept_coreStart (h : Kept r s) {c} : Kept r (coreStart s c) := kept_setCore h

theorem kept_coreGo (h : Kept r s) {c} : Kept r (coreGo s c) := kept_ite h (kept_ite (kept_coreStart h) (kept_setCore h))

theorem kept_setPatchState (h : Kept r s) {c v} : Kept r (setPatchState s c v) := kept_ite (kept_coreStart (kept_wf h)) (kept_wf h)

theorem kept_setHeld (h : Kept r s) {c b} : Kept r (setHeld s c b) := kept_wb h

theorem kept_setCoreOwner (h : Kept r s) {c p} : Kept r (setCoreOwner s c p) := kept_wf (kept_wf (kept_foldl h (fun _ _ ht => kept_wf ht)))

theorem kept_releaseWrite (h : Kept r s) {c v} : KeptO r (releaseWrite s c v) :=
  keptO_ite (keptO_some h) (keptO_ite (keptO_some (kept_coreGo (kept_setHeld (kept_wb h)))) keptO_none)

theorem kept_refuseDark (h : Kept r s) {i c} : Kept r (refuseDark s i c) := kept_respErr (kept_logErr h)

/-! ## Translation of a core's accesses -/

theorem kept_fillFirst (h : Kept r s) {c acc e} : Kept r (fillFirst s c acc e) := kept_setCore (kept_takeFree h)

theorem kept_fillSecond (h : Kept r s) {c e} : Kept r (fillSecond s c e) := kept_setCore (kept_takeFree h)

theorem kept_walkKeeps (h : Kept r s) {x acc va} : Kept r (walkKeeps s x acc va) := by
  simp only [walkKeeps]
  refine kept_ite ?_ ?_
  · exact kept_foldl h (fun _ _ ht => kept_reachL2 ht (fun _ _ ht1 => kept_missEvt ht1))
  · refine kept_foldl ?_ (fun _ _ ht => ?_)
    · exact kept_foldl h (fun _ _ ht => kept_reachL2 ht (fun _ _ ht1 => kept_missEvt ht1))
    · split
      · exact kept_ite ht (kept_fillSecond ht)
      · exact ht

theorem kept_translateSU (h : Kept r s) {x acc va n} : Kept r (translateSU s x acc va n).1 := by
  simp only [translateSU]
  split
  · exact h
  · split
    · exact kept_fillFirst (kept_countCur h)
    · split
      · exact kept_walkKeeps (kept_countCur (kept_countCur h))
      · refine kept_fillFirst ?_
        refine kept_ite (kept_walkKeeps (kept_countCur (kept_countCur h))) ?_
        exact kept_fillSecond (kept_walkKeeps (kept_countCur (kept_countCur h)))

theorem kept_translate (h : Kept r s) {c priv acc va n mirror} : Kept r (translate s c priv acc va n mirror).1 :=
  kept_fst_ite h (kept_fst_ite h (kept_translateSU h))

/-! ## Partition descriptors, TLB and cache operations, translation roots -/

theorem kept_partStartNow (h : Kept r s) {p same} : KeptO r (partStartNow s p same) :=
  keptO_ite keptO_none (keptO_ite (keptO_some (kept_wf h)) (keptO_some (kept_foldl
    (kept_foldl (kept_wb (kept_wf h)) (fun _ _ ht => kept_setCoreOwner ht)) (fun _ _ ht => kept_ite (kept_coreGo ht) (kept_setHeld ht)))))

theorem kept_partStopNow (h : Kept r s) {p} : KeptO r (partStopNow s p) :=
  keptO_ite keptO_none (keptO_some (kept_foldl (kept_update (kept_wb (kept_wb h)))
    (fun _ _ ht => kept_setHeld (kept_setCoreOwner (kept_coreHold ht)))))

theorem kept_partCmd (h : Kept r s) {p v} : KeptO r (partCmd s p v) := by
  simp only [partCmd]
  split
  · exact kept_partStartNow h
  · exact kept_partStopNow h
  · exact keptO_some h

theorem kept_removeCore (h : Kept r s) {p c} : Kept r (removeCore s p c) :=
  kept_dropInboxes (kept_dropServing (kept_foldl (kept_orphanTargets h) (fun _ _ ht => kept_ite (kept_ite (kept_setPool ht) ht) ht)))

theorem kept_partCoresEffect (h : Kept r s) {i p k v} : KeptO r (partCoresEffect s i p k v) :=
  keptO_ite (keptO_some h) (keptO_ite keptO_none (keptO_some (kept_ite (kept_wr (kept_foldl h (fun _ _ ht => kept_removeCore ht)))
    (kept_recordPageErr (kept_wr (kept_foldl h (fun _ _ ht => kept_removeCore ht)))))))

theorem kept_partModesEffect (h : Kept r s) {p v} : KeptO r (partModesEffect s p v) :=
  keptO_ite (keptO_ite keptO_none (keptO_some (kept_wr h))) (keptO_ite keptO_none (keptO_some (kept_wr h)))

theorem kept_l3waysEffect (h : Kept r s) {p v} : KeptO r (l3waysEffect s p v) := keptO_ite keptO_none (keptO_some (kept_wr h))

theorem kept_tlbDrop (h : Kept r s) {c p} : Kept r (tlbDrop s c p) := kept_setCore h

theorem kept_tlbLock (h : Kept r s) {c l vpage} : Kept r (tlbLock s c l vpage) := by
  simp only [tlbLock]
  refine kept_ite (kept_wb (kept_wb h)) ?_
  split
  · exact kept_wb (kept_walkKeeps (kept_wb h))
  · split
    · exact kept_wb (kept_walkKeeps (kept_wb h))
    · exact kept_setCore (kept_takeFree (kept_walkKeeps (kept_wb h)))

theorem kept_tlbiCore (h : Kept r s) {c v} : Kept r (tlbiCore s c v) := by
  simp only [tlbiCore]
  split
  · exact kept_tlbDrop h
  · exact kept_tlbDrop h
  · exact kept_tlbDrop h
  · exact kept_tlbDrop h
  · exact kept_tlbLock h
  · exact kept_tlbDrop h

theorem kept_tlbiEffect (h : Kept r s) {c v} : KeptO r (tlbiEffect s c v) :=
  keptO_ite keptO_none (keptO_ite (keptO_some h) (keptO_some (kept_setCore (kept_foldl h (fun _ _ ht => kept_tlbiCore ht)))))

theorem kept_tlbiWrite (h : Kept r s) {i c op bcast bank asn vpage} : Kept r (tlbiWrite s i c op bcast bank asn vpage) :=
  kept_regWriteOpt h (fun _ ht => kept_tlbiEffect ht)

theorem kept_lockLine (h : Kept r s) {c line way} : KeptE r (lockLine s c line way) := by
  simp only [lockLine]
  refine keptE_ite keptE_error ?_
  split
  · exact keptE_error
  · refine keptE_ite keptE_error ?_
    exact keptE_ite keptE_error (keptE_ok (kept_setCore (kept_ite (kept_reachL2 h (fun _ _ ht => kept_countCur ht)) h)))

theorem kept_lockLines (h : Kept r s) {c way line n} : Kept r (lockLines s c way line n) := by
  induction n generalizing s line with
  | zero => exact h
  | succ n ih =>
    simp only [lockLines]
    split
    · exact kept_wf h
    · rename_i e
      exact ih (kept_lockLine h _ e)

theorem kept_cacheOpEffect (h : Kept r s) {c v} : KeptO r (cacheOpEffect s c v) := by
  simp only [cacheOpEffect]
  refine keptO_ite keptO_none ?_
  split
  · exact keptO_ite keptO_none (keptO_some (kept_setCore (kept_lockLines (kept_wf h))))
  · exact keptO_some (kept_setCore (kept_setCore (kept_wf h)))
  · exact keptO_some (kept_setCore (kept_setCore (kept_wf h)))
  · exact keptO_ite (keptO_some (kept_setCore (kept_wf h))) (keptO_some (kept_setCore (kept_wf (kept_wf h))))
  · refine keptO_ite ?_ (keptO_some (kept_setCore (kept_wf (kept_wf h))))
    exact keptO_some (kept_setCore (kept_invCores (kept_homeFlush (kept_wf h))))
  · exact keptO_some (kept_wf h)

theorem kept_cacheWrite (h : Kept r s) {i c op line count way} : Kept r (cacheWrite s i c op line count way) :=
  kept_regWriteOpt h (fun _ ht => kept_cacheOpEffect ht)

theorem kept_ptbEffect (h : Kept r s) {i c v} : Kept r (ptbEffect s i c v) := kept_ite (kept_setCore (kept_wr h)) (kept_wr h)

theorem kept_gtbEffect (h : Kept r s) {i c l v} : Kept r (gtbEffect s i c l v) := kept_ite (kept_setCore (kept_wr h)) (kept_wr h)

/-! ## Coherence -/

theorem kept_linkGoto (h : Kept r s) {l st} : Kept r (linkGoto s l st) := kept_wf h

theorem kept_post (h : Kept r s) {m} : Kept r (post s m) := kept_update h

theorem kept_takeMsg (h : Kept r s) {m} : Kept r (takeMsg s m) := kept_update h

theorem kept_noteTrk (h : Kept r s) {k} : Kept r (noteTrk s k) := kept_wr h

theorem kept_grantCredits (h : Kept r s) {k} : Kept r (grantCredits s k) :=
  kept_foldl h (fun _ _ ht => kept_ite (kept_post (kept_noteTrk (kept_setSl ht))) ht)

theorem kept_sendData (h : Kept r s) {line req} : Kept r (sendData s line req) := by
  simp only [sendData]
  split
  · exact kept_post h
  · exact kept_update h
  · exact h

theorem kept_mergeLine (h : Kept r s) {line mask l} : Kept r (mergeLine s line mask l) :=
  kept_foldl h (fun _ _ ht => kept_ite (kept_wrBytes ht) ht)

theorem kept_partialRefused (h : Kept r s) {k line} : Kept r (partialRefused s k line) := kept_respErr (kept_logErr h)

theorem kept_txFinish (h : Kept r s) {k t} : Kept r (txFinish s k t) := by
  simp only [txFinish]
  split
  · refine kept_ite ?_ ?_
    · split
      · exact kept_post (kept_sendData (kept_setSl h))
      · exact kept_sendData (kept_setSl h)
    · split
      · exact kept_post (kept_ite (kept_setSl h) (kept_sendData (kept_setSl h)))
      · exact kept_ite (kept_setSl h) (kept_sendData (kept_setSl h))
  · split
    · exact kept_post (kept_ite (kept_setSl h) (kept_sendData (kept_setSl h)))
    · exact kept_ite (kept_setSl h) (kept_sendData (kept_setSl h))
  · refine kept_ite ?_ ?_
    · split
      · exact kept_post (kept_ite (kept_setSl h) (kept_sendData (kept_setSl h)))
      · exact kept_ite (kept_setSl h) (kept_sendData (kept_setSl h))
    · split
      · exact kept_post (kept_setSl h)
      · exact kept_setSl h
  · exact kept_sendData (kept_setSl h)
  · exact kept_respOk (kept_wrBytes (kept_dropResv (kept_clearPoison (kept_setSl h))))
  · refine kept_ite (kept_partialRefused (kept_dropResv (kept_setSl h))) ?_
    exact kept_respOk (kept_mergeLine (kept_dropResv (kept_setSl h)))
  · exact kept_setSl h
  · exact kept_setSl h

theorem kept_sendAcks (h : Kept r s) {t} : Kept r (sendAcks s t) := kept_foldl h (fun _ _ ht => kept_post ht)

theorem kept_sendSnoops (h : Kept r s) {k t} : Kept r (sendSnoops s k t).1 := kept_foldl (kept_setSl h) (fun _ _ ht => kept_post ht)

theorem kept_txClose (h : Kept r s) {k line} : Kept r (txClose s k line) := kept_grantCredits (kept_setSl h)

theorem kept_txSnoop (h : Kept r s) {k t} : Kept r (txSnoop s k t) :=
  kept_ite (kept_txClose (kept_txFinish (kept_sendSnoops h))) (kept_sendSnoops h)

theorem kept_backInvalidate (h : Kept r s) {k v t} : Kept r (backInvalidate s k v t) :=
  kept_sendSnoops (kept_noteTrk (kept_setSl (kept_countReg (kept_setSl h))))

theorem kept_txGo (h : Kept r s) {k t} : Kept r (txGo s k t) := by
  simp only [txGo]
  split
  · refine kept_ite ?_ (kept_txSnoop (kept_scrubEntry (kept_scrubEntry h)))
    exact kept_backInvalidate (kept_scrubEntry (kept_scrubEntry h))
  · exact kept_txSnoop (kept_scrubEntry h)

theorem kept_wakeVictims (h : Kept r s) {k v} : Kept r (wakeVictims s k v) := kept_foldl h (fun _ _ ht => kept_txGo ht)

theorem kept_txStep (h : Kept r s) {k line} : Kept r (txStep s k line) := by
  simp only [txStep]
  split
  · exact h
  · refine kept_ite h ?_
    refine kept_ite ?_ (kept_txClose (kept_txFinish (kept_sendAcks h)))
    exact kept_wakeVictims (kept_txClose (kept_txFinish (kept_sendAcks h)))

theorem kept_accept (h : Kept r s) {k t filterErr} : Kept r (accept s k t filterErr) :=
  kept_ite (kept_foldl (kept_setSl (kept_badEntryLog (kept_noteTrk (kept_setSl (kept_update h))))) (fun _ _ ht => kept_post ht))
    (kept_txGo (kept_noteTrk (kept_setSl (kept_update h))))

theorem kept_turnAway (h : Kept r s) {k line req} : Kept r (turnAway s k line req) := by
  simp only [turnAway]
  split
  · refine kept_ite ?_ (kept_countReg (kept_post (kept_setSl h)))
    refine kept_ite ?_ (kept_countReg (kept_post (kept_setSl h)))
    exact kept_raiseCond (kept_countReg (kept_setSl (kept_countReg (kept_post (kept_setSl h)))))
  · exact kept_countReg (kept_post (kept_setSl h))

theorem kept_errResp (h : Kept r s) {k t e} : Kept r (errResp s k t e) := by
  simp only [errResp]
  split
  · exact kept_post (kept_setSl (kept_ite (kept_logErr h) h))
  · exact kept_respErr (kept_logErr h)
  · exact h

theorem kept_homeRequest (h : Kept r s) {t filterErr} : Kept r (homeRequest s t filterErr) := by
  simp only [homeRequest]
  refine kept_ite (kept_accept h) ?_
  split
  · exact kept_errResp h
  · exact kept_ite (kept_turnAway h) (kept_accept h)

theorem kept_agentRequest (h : Kept r s) {a line kind filterErr} : Kept r (agentRequest s a line kind filterErr) :=
  kept_ite h (kept_homeRequest (kept_setLn h))

theorem kept_epRequest (h : Kept r s) {t} : Kept r (epRequest s t) := kept_ite (kept_homeRequest h) h

theorem kept_flushBad (h : Kept r s) {k line} : Kept r (flushBad s k line) :=
  kept_ite h (kept_foldl (kept_noteTrk (kept_setSl (kept_badEntryLog h))) (fun _ _ ht => kept_post ht))

theorem kept_absorb (h : Kept r s) {a line} : Kept r (absorb s a line) := by
  simp only [absorb]
  split
  · refine kept_ite (kept_setSl (kept_flushBad h)) ?_
    exact kept_ite (kept_setSl (kept_flushBad h)) (kept_post (kept_setSl (kept_flushBad h)))
  · exact kept_ite (kept_setSl (kept_flushBad h)) (kept_post (kept_setSl (kept_flushBad h)))

theorem kept_evictLine (h : Kept r s) {a line dirty} : Kept r (evictLine s a line dirty) :=
  kept_ite h (kept_absorb (kept_setLn (kept_leaveAgent h)))

theorem kept_execWback {a line} (h : Kept r s) : KeptOut r (execWback a line s) := by
  simp only [execWback]
  refine keptOut_next ?_
  split
  · exact h
  · exact kept_setLn (kept_takeMsg h)

theorem kept_answerSnoop (h : Kept r s) {m} : Kept r (answerSnoop s m) := by
  simp only [answerSnoop]
  refine kept_post ?_
  split
  · exact kept_post (kept_ite (kept_leaveAgent (kept_setLn h)) (kept_setLn h))
  · exact kept_ite (kept_leaveAgent (kept_setLn h)) (kept_setLn h)

theorem kept_snoopRun (h : Kept r s) {code a line} : Kept r (snoopRun s code a line) := by
  simp only [snoopRun]
  split
  · exact h
  · exact kept_ite (kept_setLn (kept_takeMsg h)) (kept_answerSnoop (kept_takeMsg h))

theorem kept_lateAck (h : Kept r s) {a line} : Kept r (lateAck s a line) := kept_ite (kept_post h) h

theorem kept_strayResp (h : Kept r s) {m} : Kept r (strayResp s m) :=
  kept_ite (kept_setSl (kept_ite h (kept_lateAck h))) (kept_ite h (kept_lateAck h))

theorem kept_snoopDone (h : Kept r s) {m} : Kept r (snoopDone s m) := by
  simp only [snoopDone]
  split
  · exact kept_strayResp h
  · refine kept_ite (kept_strayResp h) ?_
    refine kept_ite ?_ ?_
    · exact kept_txGo (kept_ite (kept_post (kept_setSl h)) (kept_setSl h))
    · exact kept_txStep (kept_ite (kept_post (kept_setSl h)) (kept_setSl h))

theorem kept_execSnpresp {a line} (h : Kept r s) : KeptOut r (execSnpresp a line s) := by
  simp only [execSnpresp]
  refine keptOut_next ?_
  split
  · exact h
  · exact kept_snoopDone (kept_takeMsg h)

theorem kept_execSnprespdata {a line} (h : Kept r s) : KeptOut r (execSnprespdata a line s) := by
  simp only [execSnprespdata]
  refine keptOut_next ?_
  split
  · exact h
  · exact kept_snoopDone (kept_takeMsg h)

theorem kept_settleLine (h : Kept r s) {a line} : Kept r (settleLine s a line) := by
  simp only [settleLine]
  split
  · exact h
  · exact kept_ite h (kept_setLn h)

theorem kept_execComp {a line} (h : Kept r s) : KeptOut r (execComp a line s) := by
  simp only [execComp]
  refine keptOut_next ?_
  split
  · exact h
  · exact kept_settleLine (kept_setLn (kept_takeMsg h))

theorem kept_dataRun (h : Kept r s) {code a line} : Kept r (dataRun s code a line) := by
  simp only [dataRun]
  split
  · exact h
  · exact kept_ite (kept_takeMsg h) (kept_settleLine (kept_setLn (kept_takeMsg h)))

theorem kept_phaseRun (h : Kept r s) {code a line f} : Kept r (phaseRun s code a line f) := by
  simp only [phaseRun]
  split
  · exact h
  · exact kept_setLn (kept_takeMsg h)

theorem kept_execNack {a line} (h : Kept r s) : KeptOut r (execNack a line s) := by
  simp only [execNack]
  refine keptOut_next ?_
  split
  · exact h
  · exact kept_setLn (kept_takeMsg (kept_takeFree h))

theorem kept_execNackBackoffExpiry {a line} (h : Kept r s) : KeptOut r (execNackBackoffExpiry a line s) := by
  simp only [execNackBackoffExpiry]
  refine keptOut_next ?_
  split
  · exact kept_ite (kept_setLn h) h
  · exact h

theorem kept_execErrresp {a line errc} (h : Kept r s) : KeptOut r (execErrresp a line errc s) := by
  simp only [execErrresp]
  refine keptOut_next ?_
  split
  · exact h
  · exact kept_respErr (kept_setLn (kept_takeMsg h))

theorem kept_loseTx (h : Kept r s) {k n line} : Kept r (loseTx s k n line) := by
  simp only [loseTx]
  split
  · exact h
  · refine kept_ite (kept_wakeVictims (kept_txClose h)) ?_
    refine kept_ite ?_ (kept_setSl (kept_ite (kept_poisonHome h) h))
    refine kept_ite ?_ ?_
    · exact kept_txGo (kept_setSl (kept_ite (kept_poisonHome h) h))
    · exact kept_txStep (kept_setSl (kept_ite (kept_poisonHome h) h))

theorem kept_sliceLose (h : Kept r s) {k n} : Kept r (sliceLose s k n) :=
  kept_grantCredits (kept_foldl (kept_raiseCond (kept_setSl (kept_wb (kept_wb h)))) (fun _ _ ht => kept_loseTx ht))

theorem kept_homesLose (h : Kept r s) {n} : Kept r (homesLose s n) := kept_foldl (kept_update h) (fun _ _ ht => kept_sliceLose ht)

theorem kept_homCtlEffect (h : Kept r s) {k v} : Kept r (homCtlEffect s k v).1 :=
  kept_ite (kept_foldl (kept_wr h) (fun _ _ ht => kept_wf ht)) (kept_wr h)

/-! ## Mirror words at the home, pairs, comparator channels, the safety manager's commands and watchdog -/

theorem kept_execMirrd {ep addr} (h : Kept r s) : KeptOut r (execMirrd ep addr s) := by
  simp only [execMirrd]
  refine keptOut_next ?_
  split
  · exact kept_respErr (kept_logErr h)
  · exact kept_ite (kept_respErr h) (kept_respOk h)

theorem kept_mirWrite (h : Kept r s) {ep a v} : Kept r (mirWrite s ep a v) := by
  simp only [mirWrite]
  split
  · exact kept_respErr (kept_logErr h)
  · refine kept_ite (kept_respErr (kept_smgReport (kept_logErr h))) ?_
    exact kept_ite (kept_respErr (kept_logErr h)) (kept_respOk (kept_wrMem h))

theorem kept_mcpClose (h : Kept r s) {c} : Kept r (mcpClose s c) := kept_update (kept_ite (kept_wf (kept_wb h)) (kept_wb h))

theorem kept_pairEffect (h : Kept r s) {q v} : KeptO r (pairEffect s q v) :=
  keptO_ite keptO_none (keptO_ite keptO_none (keptO_ite (keptO_some (kept_foldl (kept_orphanTargets (kept_wr h))
    (fun _ _ ht => kept_ite (kept_mcpClose ht) ht))) (keptO_some (kept_wr h))))

theorem kept_setMcp (h : Kept r s) {c k} : Kept r (setMcp s c k) := kept_update h

theorem kept_ringEmpty (h : Kept r s) {q} : Kept r (ringEmpty s q) := kept_setRing h

theorem kept_ringDrop (h : Kept r s) {q} : Kept r (ringDrop s q) := kept_ite h (kept_setRing h)

theorem kept_mcpResyncNow (h : Kept r s) {c} : Kept r (mcpResyncNow s c) := kept_setMcp (kept_wf (kept_ringEmpty (kept_ringEmpty h)))

theorem kept_mcpCtlWrite (h : Kept r s) {c v} : KeptO r (mcpCtlWrite s c v) := by
  simp only [mcpCtlWrite]
  refine keptO_ite keptO_none ?_
  refine keptO_ite ?_ ?_
  · exact keptO_ite keptO_none (keptO_some (kept_setMcp (kept_ite (kept_mcpResyncNow (kept_wr h)) (kept_wr h))))
  · refine keptO_ite ?_ ?_
    · exact keptO_some (kept_ite (kept_mcpResyncNow (kept_mcpClose h)) (kept_mcpClose h))
    · exact keptO_some (kept_ite (kept_mcpResyncNow (kept_wr h)) (kept_wr h))

theorem kept_mcpFault (h : Kept r s) {c missing kind} : Kept r (mcpFault s c missing kind) :=
  kept_smgReport (kept_raiseCond (kept_setMcp (kept_wr h)))

theorem kept_mcpOpenFirst (h : Kept r s) {c} : Kept r (mcpOpenFirst s c) := by
  simp only [mcpOpenFirst]
  refine kept_ite h ?_
  split
  · exact h
  · exact kept_setMcp (kept_wf h)

theorem kept_mcpCompare (h : Kept r s) {c later} : Kept r (mcpCompare s c later) := by
  simp only [mcpCompare]
  refine kept_ite ?_ ?_
  · exact kept_mcpFault (kept_ringDrop (kept_ringDrop (kept_wf (kept_setMcp h))))
  · split
    · exact kept_mcpFault (kept_ringDrop (kept_ringDrop (kept_wf (kept_setMcp h))))
    · rename_i e
      refine kept_ite ?_ ?_
      · exact kept_mcpFault (kept_hwEnq (kept_ringDrop (kept_ringDrop (kept_wf (kept_setMcp h)))) _ e)
      · refine kept_mcpOpenFirst (kept_wr (kept_wr (kept_hwEnq (kept_ringDrop (kept_ringDrop (kept_wf (kept_setMcp h)))) _ e)))

theorem kept_mcpMatch (h : Kept r s) {c} : Kept r (mcpMatch s c) := by
  simp only [mcpMatch]
  split
  · split
    · exact kept_ite (kept_mcpFault h) (kept_mcpCompare h)
    · refine kept_ite h ?_
      split
      · exact kept_ite (kept_mcpFault h) (kept_mcpCompare h)
      · exact kept_mcpCompare h
  · exact h

theorem kept_execMcpWindowOpen {ch} (h : Kept r s) : KeptOut r (execMcpWindowOpen ch s) := by
  simp only [execMcpWindowOpen]
  refine keptOut_next ?_
  refine kept_ite h ?_
  split
  · exact kept_mcpOpenFirst h
  · exact kept_ite (kept_mcpFault (kept_setMcp h)) (kept_mcpMatch (kept_setMcp (kept_wf h)))

theorem kept_execMcpDeadline {ch} (h : Kept r s) : KeptOut r (execMcpDeadline ch s) := by
  simp only [execMcpDeadline]
  refine keptOut_next ?_
  split
  · exact h
  · split
    · exact h
    · exact kept_ite h (kept_mcpFault h)

theorem kept_mcpSiteLost (h : Kept r s) {site} : Kept r (mcpSiteLost s site) := kept_foldl h (fun _ _ ht => kept_ite (kept_mcpFault ht) ht)

theorem kept_wdFreeze (h : Kept r s) : Kept r (wdFreeze s) := kept_ite (kept_wb h) (kept_ite (kept_wb h) h)

theorem kept_smgCommand (h : Kept r s) {code react} : KeptO r (smgCommand s code react) := by
  simp only [smgCommand]
  split
  · exact keptO_ite (keptO_some (kept_wr (kept_smgGoto h))) keptO_none
  · exact keptO_ite (keptO_some (kept_wr (kept_smgGoto h))) keptO_none
  · exact keptO_ite keptO_none (keptO_some (kept_wr (kept_smgSafe h)))
  · exact keptO_ite (keptO_some (kept_wr (kept_wdFreeze (kept_smgGoto h)))) keptO_none
  · exact keptO_some (kept_wr (kept_smgReportWith (kept_update h)))
  · exact keptO_none

theorem kept_smgAccess (h : Kept r s) {i code react} : Kept r (smgAccess s i code react) :=
  kept_regWriteOpt h (fun _ ht => kept_smgCommand ht)

theorem kept_wdCycle (h : Kept r s) : Kept r (wdCycle s) := kept_wr (kept_wf h)

theorem kept_wdCtlWrite (h : Kept r s) {v} : KeptO r (wdCtlWrite s v) :=
  keptO_ite (keptO_ite keptO_none (keptO_some (kept_wr h))) (keptO_ite keptO_none
    (keptO_some (kept_smgHealth (kept_wdCycle (kept_wr (kept_wr h))))))

theorem kept_execWdArm {i v} (h : Kept r s) : KeptOut r (execWdArm i v s) := by
  simp only [execWdArm]
  refine keptOut_next ?_
  refine kept_regWrite h (fun _ ht => ?_)
  refine kept_ite (kept_mwMismatch ht) ?_
  split
  · rename_i e
    exact kept_wdCtlWrite ht _ e
  · exact kept_refuse ht

theorem kept_wdJudge (h : Kept r s) {i slot v mirror ticks} : Kept r (wdJudge s i slot v mirror ticks) := by
  simp only [wdJudge]
  refine kept_ite h ?_
  refine kept_ite (kept_wdExpire h) ?_
  refine kept_ite (kept_wdExpire h) ?_
  refine kept_ite (kept_wdExpire h) ?_
  refine kept_ite (kept_wdExpire h) ?_
  refine kept_ite (kept_wdExpire h) ?_
  exact kept_ite (kept_wdExpire h) (kept_ite (kept_wdCycle (kept_wr (kept_wr (kept_wb h)))) (kept_wr (kept_wb h)))

theorem kept_wdServiceNow (h : Kept r s) {i slot v mirror ticks} : Kept r (wdServiceNow s i slot v mirror ticks) :=
  kept_ite (kept_wdJudge (kept_ite (kept_wr h) h)) (kept_mwMismatch (kept_wdJudge (kept_ite (kept_wr h) h)))

/-! ## The on-package network, the die links, loss and return of a die, identity fuses -/

theorem kept_routeCommitEffect (h : Kept r s) {site v} : KeptO r (routeCommitEffect s site v) :=
  keptO_ite (keptO_some h) (keptO_ite keptO_none (keptO_some (kept_update h)))

theorem kept_rcfgEffect (h : Kept r s) {site v} : KeptO r (rcfgEffect s site v) :=
  keptO_ite (keptO_some (kept_wr h)) (keptO_ite keptO_none (keptO_some (kept_update (kept_wr h))))

theorem kept_refused (h : Kept r s) {k} : Kept r (refused s k) := kept_update h

theorem kept_routeError (h : Kept r s) {site k} : Kept r (routeError s site k) :=
  kept_ite (kept_respErr (kept_refused (kept_raiseCond (kept_logErr (kept_countReg h))))) (kept_raiseCond (kept_logErr (kept_countReg h)))

theorem kept_statsCount (h : Kept r s) {site ni k bytes cycles} : Kept r (statsCount s site ni k bytes cycles) := kept_ite h (kept_update h)

theorem kept_responded (h : Kept r s) {site ni k reqBytes cycles} : Kept r (responded s site ni k reqBytes cycles) := by
  simp only [responded]
  split
  · exact kept_statsCount h
  · exact kept_ite (kept_update h) (kept_statsCount (kept_update h))

theorem kept_setLink (h : Kept r s) {l x} : Kept r (setLink s l x) := kept_update h

theorem kept_linkLog (h : Kept r s) {l code} : Kept r (linkLog s l code) := kept_logErr h

theorem kept_requestAbsent (h : Kept r s) {k} : Kept r (requestAbsent s k) := kept_respErr (kept_logErr (kept_refused h))

theorem kept_linkLose (h : Kept r s) {l} : Kept r (linkLose s l) := kept_foldl (kept_setLink h) (fun _ _ ht => kept_requestAbsent ht)

theorem kept_linkFall (h : Kept r s) {l} : Kept r (linkFall s l) :=
  kept_ite h (kept_ite (kept_linkLose (kept_setLink (kept_linkLog (kept_raiseCond (kept_linkGoto h)))))
    (kept_setLink (kept_linkLog (kept_raiseCond (kept_linkGoto h)))))

theorem kept_domRegsReset (h : Kept r s) {d} : Kept r (domRegsReset s d) := kept_update h

theorem kept_facetInit (h : Kept r s) {d} : Kept r (facetInit s d) := by
  simp only [facetInit]
  have hc : Kept r ((domainCores d).foldl coreHold s) := kept_foldl h fun _ _ ht => kept_coreHold ht
  exact kept_ite (kept_update (kept_domRegsReset h)) (kept_domRegsReset (kept_updateMem hc fun hm => Memory.wf_filter _ _ _ hm))

theorem kept_partLost (h : Kept r s) {site p} : Kept r (partLost s site p) := kept_ite h (kept_ite (kept_raiseSw (kept_wb h)) (kept_wb h))

theorem kept_markAbsent (h : Kept r s) {n} : Kept r (markAbsent s n) := by
  simp only [markAbsent]
  refine kept_ite h ?_
  refine kept_foldl ?_ (fun _ _ ht => kept_facetInit ht)
  refine kept_update ?_
  refine kept_smgReport ?_
  refine kept_mcpSiteLost ?_
  refine kept_foldl ?_ (fun _ _ ht => kept_partLost ht)
  refine kept_homesLose ?_
  refine kept_foldl (kept_linkFall (kept_raiseCond (kept_wb h))) (fun _ _ ht => ?_)
  exact kept_ite (kept_linkLose (kept_linkFall ht)) (kept_linkFall ht)

theorem kept_storeAbsent (h : Kept r s) : Kept r (storeAbsent s) := kept_ite h (kept_raiseCond (kept_wb h))

theorem kept_linkDown (h : Kept r s) {l} : Kept r (linkDown s l) :=
  kept_ite (kept_markAbsent (kept_foldl h (fun _ _ ht => kept_linkFall ht))) (kept_ite
    (kept_storeAbsent (kept_foldl h (fun _ _ ht => kept_linkFall ht))) (kept_foldl h (fun _ _ ht => kept_linkFall ht)))

theorem kept_linkAsk (h : Kept r s) {l} : Kept r (linkAsk s l) := kept_countReg (kept_setLink h)

theorem kept_retrainEnd (h : Kept r s) {l} : Kept r (retrainEnd s l) :=
  kept_ite h (kept_linkLog (kept_setLink (kept_raiseCond (kept_countReg (kept_linkGoto h)))))

theorem kept_linkRetrain (h : Kept r s) {l} : Kept r (linkRetrain s l) := kept_foldl h (fun _ _ ht => kept_retrainEnd ht)

theorem kept_trainEnd (h : Kept r s) {l} : Kept r (trainEnd s l) := kept_ite h (kept_setLink (kept_linkGoto h))

theorem kept_linkPump (h : Kept r s) {l} : Kept r (linkPump s l) := kept_ite h (kept_setLink h)

theorem kept_dieEmptyRun (h : Kept r s) {n} : Kept r (dieEmptyRun s n) := kept_ite (kept_update h) h

theorem kept_controlFrame (h : Kept r s) {l p} : Kept r (controlFrame s l p) := by
  simp only [controlFrame]
  split
  · exact kept_setLink h
  · exact kept_setLink h
  · exact kept_ite (kept_dieEmptyRun h) h
  · exact h

theorem kept_linkFrame (h : Kept r s) {l w p corrected uncorr} : Kept r (linkFrame s l w p corrected uncorr) := by
  simp only [linkFrame]
  refine kept_ite (kept_ite h (kept_linkAsk h)) ?_
  refine kept_ite ?_ ?_
  · exact kept_ite (kept_setLink h) (kept_linkAsk (kept_setLink h))
  · refine kept_ite ?_ ?_
    · exact kept_controlFrame (kept_linkPump (kept_setLink (kept_ite (kept_countReg h) h)))
    · refine kept_ite ?_ ?_
      · exact kept_setLink (kept_linkPump (kept_setLink (kept_ite (kept_countReg h) h)))
      · refine kept_ite ?_ ?_
        · exact kept_linkPump (kept_setLink (kept_ite (kept_countReg h) h))
        · exact kept_linkAsk (kept_linkPump (kept_setLink (kept_ite (kept_countReg h) h)))

theorem kept_execLinkReplayTimeout {l} (h : Kept r s) : KeptOut r (execLinkReplayTimeout l s) := by
  simp only [execLinkReplayTimeout]
  refine keptOut_next ?_
  refine kept_ite h ?_
  split
  · exact h
  · exact kept_ite (kept_linkAsk h) (kept_linkRetrain h)

theorem kept_linkSend (h : Kept r s) {l k} : Kept r (linkSend s l k) :=
  kept_ite (kept_ite (kept_requestAbsent h) h) (kept_linkPump (kept_setLink h))

theorem kept_hubSend (h : Kept r s) {k} : Kept r (hubSend s k) := by
  simp only [hubSend]
  split
  · exact kept_linkSend h
  · exact h

theorem kept_sendBy (h : Kept r s) {l k} : Kept r (sendBy s l k) := kept_ite (kept_hubSend h) (kept_linkSend h)

theorem kept_unsent (h : Kept r s) {site k} : Kept r (unsent s site k) :=
  kept_ite h (kept_ite (kept_requestAbsent h) (kept_respErr (kept_logErr (kept_refused h))))

theorem kept_injected (h : Kept r s) {site ni k} : Kept r (injected s site ni k) := kept_ite (kept_update h) h

theorem kept_routeStep (h : Kept r s) {site ni k} {out : State → ℕ → BitVec 256 → State} (hout : ∀ t x y, Kept r t → Kept r (out t x y)) :
    Kept r (routeStep s site ni k out) := by
  simp only [routeStep]
  refine kept_ite (kept_unsent h) ?_
  refine kept_ite (kept_update h) ?_
  split
  · exact kept_routeError h
  · exact kept_ite (kept_injected h) (kept_routeError h)
  · exact hout _ _ _ (kept_injected h)

theorem kept_toFocal (h : Kept r s) {l k} : Kept r (toFocal s l k) :=
  kept_ite (kept_ite (kept_requestAbsent h) h) (kept_routeStep h (fun _ _ _ ht => kept_sendBy ht))

theorem kept_routeOn (h : Kept r s) {site ni k} : Kept r (routeOn s site ni k) :=
  kept_ite (kept_routeStep h (fun _ _ _ ht => kept_sendBy ht)) (kept_routeStep h
    (fun _ _ _ ht => kept_ite (kept_toFocal ht) (kept_sendBy ht)))

theorem kept_releaseWaits (h : Kept r s) {site} : Kept r (releaseWaits s site) := kept_foldl (kept_update h) (fun _ _ ht => kept_routeOn ht)

theorem kept_execRouteInstall {site ni entry} (h : Kept r s) : KeptOut r (execRouteInstall site ni entry s) := by
  simp only [execRouteInstall]
  refine keptOut_next ?_
  split
  · exact h
  · exact kept_ite h (kept_releaseWaits (kept_update h))

theorem kept_execRouterDrainDone {site cycles} (h : Kept r s) : KeptOut r (execRouterDrainDone site cycles s) := by
  simp only [execRouterDrainDone]
  refine keptOut_next ?_
  split
  · exact h
  · exact kept_releaseWaits (kept_raiseCond (kept_wr (kept_update h)))

theorem kept_execPacketReceive {site ni hdr reqBytes cycles} (h : Kept r s) :
    KeptOut r (execPacketReceive site ni hdr reqBytes cycles s) := by
  simp only [execPacketReceive]
  refine keptOut_next ?_
  refine kept_ite h ?_
  refine kept_ite (kept_routeError h) ?_
  split
  · exact kept_ite (kept_routeError h) (kept_routeOn h)
  · exact kept_ite (kept_ite (kept_responded h) h) (kept_ite (kept_routeOn h) (kept_routeError h))

theorem kept_statsCfgEffect (h : Kept r s) {site v} : Kept r (statsCfgEffect s site v) := kept_ite h (kept_update h)

theorem kept_d2dCtlEffect (h : Kept r s) {l v} : Kept r (d2dCtlEffect s l v).1 :=
  kept_ite (kept_ite (kept_wr h) (kept_linkDown (kept_wr h))) (kept_ite (kept_ite (kept_foldl (kept_wr h) (fun _ _ ht => kept_trainEnd ht))
    (kept_ite (kept_linkRetrain (kept_wr h)) (kept_wr h))) (kept_wr h))

theorem kept_d2dCtlAccess (h : Kept r s) {i l v} : Kept r (d2dCtlAccess s i l v) :=
  kept_regWrite h (fun _ ht => kept_ite (kept_clampNote (kept_d2dCtlEffect ht)) (kept_d2dCtlEffect ht))

theorem kept_linkUp (h : Kept r s) {l farSite farOffer farRev} : Kept r (linkUp s l farSite farOffer farRev) :=
  kept_raiseCond (kept_linkPump (kept_ite (kept_wb (kept_linkGoto (kept_setLink (kept_wr h)))) (kept_linkGoto (kept_setLink (kept_wr h)))))

theorem kept_hubAhead (h : Kept r s) {site hs} : Kept r (hubAhead s site hs) := kept_linkPump (kept_setLink h)

theorem kept_fsrcEffect (h : Kept r s) {site p v} : KeptO r (fsrcEffect s site p v) :=
  keptO_ite (keptO_some h) (keptO_ite keptO_none (keptO_some (kept_wr h)))

/-! ## Ethernet, CAN FD, MVB, serial interfaces and GPIO -/

theorem kept_setMac (h : Kept r s) {m x} : Kept r (setMac s m x) := kept_update h

theorem kept_gatesRun (h : Kept r s) {m} : Kept r (gatesRun s m) := by
  simp only [gatesRun]
  split <;> exact kept_setMac h

theorem kept_gclEffect (h : Kept r s) {m v} : KeptO r (gclEffect s m v) :=
  keptO_ite keptO_none (keptO_ite (keptO_some (kept_wr h)) (keptO_some (kept_setMac (kept_wr h))))

theorem kept_ptpStepEffect (h : Kept r s) {m v} : Kept r (ptpStepEffect s m v) :=
  kept_foldl (kept_update h) (fun _ _ ht => kept_ite (kept_gatesRun ht) ht)

theorem kept_frerRun (h : Kept r s) {f} : Kept r (frerRun s f).2 := by
  simp only [frerRun]
  split
  · repeat' split
    all_goals exact kept_countReg (kept_update h)
  · exact h

theorem kept_rxDrop (h : Kept r s) {m} : Kept r (rxDrop s m) := kept_raiseCond (kept_countReg h)

theorem kept_rxPlace (h : Kept r s) {m f} : Kept r (rxPlace s m f) := by
  simp only [rxPlace]
  refine kept_ite (kept_rxDrop h) ?_
  split
  · rename_i e
    exact kept_rxDrop (kept_snd (kept_hwDeq h) e)
  · rename_i e
    refine kept_ite (kept_rxDrop (kept_hwDeq_some h e)) ?_
    split
    · exact kept_rxDrop (kept_logBusErr (kept_hwDeq_some h e))
    · split
      · rename_i e _ _ e2 _ _ e1
        exact kept_hwEnq (kept_agWrite (kept_hwDeq_some h e) _ e2) _ e1
      · rename_i e _ _ e1 _ _
        exact kept_rxDrop (kept_agWrite (kept_hwDeq_some h e) _ e1)

theorem kept_ethReceive (h : Kept r s) {m f fcsOk} : Kept r (ethReceive s m f fcsOk) := by
  simp only [ethReceive]
  refine kept_ite (kept_rxDrop h) ?_
  split
  · rename_i e
    exact kept_snd (kept_frerRun h) e
  · rename_i e
    exact kept_rxPlace (kept_snd (kept_frerRun h) e)

theorem kept_txPut (h : Kept r s) {m q} : Kept r (txPut s m q) := kept_setMac h

theorem kept_genRun (h : Kept r s) {e f} : Kept r (genRun s e f).2 := kept_snd_ite h (kept_wf h)

theorem kept_copyEnd (h : Kept r s) {m0 d cls status} : Kept r (copyEnd s m0 d cls status) := kept_setMac h

theorem kept_copyGo (h : Kept r s) {d cls} : Kept r (copyGo s d cls) := by
  simp only [copyGo]
  split
  · exact h
  · refine kept_ite (kept_raiseCond (kept_copyEnd (kept_setMac h))) ?_
    exact kept_ite (kept_update (kept_txPut (kept_setMac h))) h

theorem kept_txStart (h : Kept r s) {m cls e f} : Kept r (txStart s m cls e f) :=
  kept_update (kept_ite (kept_copyGo (kept_setMac (kept_txPut (kept_genRun h)))) (kept_txPut (kept_genRun h)))

theorem kept_txTake (h : Kept r s) {m t} : Kept r (txTake s m t) := by
  simp only [txTake]
  split
  · rename_i e
    exact kept_snd (kept_hwDeq h) e
  · rename_i e
    refine kept_ite (kept_txPut (kept_takeFree (kept_hwDeq_some h e))) ?_
    split
    · exact kept_txPut (kept_ite (kept_hwDeq_some h e) (kept_logBusErr (kept_hwDeq_some h e)))
    · exact kept_txPut (kept_hwDeq_some h e)
    · refine kept_ite (kept_raiseCond (kept_txPut (kept_hwDeq_some h e))) ?_
      refine kept_ite ?_ (kept_ite (kept_txStart (kept_hwDeq_some h e)) h)
      exact kept_ite (kept_txPut (kept_hwDeq_some h e)) (kept_setMac (kept_hwDeq_some h e))

theorem kept_execEthLaunch {m t} (h : Kept r s) : KeptOut r (execEthLaunch m t s) := by
  simp only [execEthLaunch]
  refine keptOut_next ?_
  split
  · exact h
  · exact kept_ite (kept_txStart (kept_setMac h)) h

theorem kept_txPost (h : Kept r s) {m} : Kept r (txPost s m) := by
  simp only [txPost]
  split
  · exact h
  · split
    · exact h
    · rename_i e
      exact kept_setMac (kept_hwEnq h _ e)

theorem kept_copyDone (h : Kept r s) {m0 d cls} : Kept r (copyDone s m0 d cls) := by
  simp only [copyDone]
  split
  · exact kept_ite (kept_txPost (kept_copyEnd h)) (kept_copyEnd h)
  · exact kept_copyEnd h

theorem kept_execEthTxComplete {m} (h : Kept r s) : KeptOut r (execEthTxComplete m s) := by
  simp only [execEthTxComplete]
  refine keptOut_next ?_
  refine kept_ite h ?_
  split
  · exact h
  · split
    · exact kept_copyDone (kept_setMac h)
    · exact kept_ite (kept_setMac h) (kept_txPost (kept_setMac h))

theorem kept_macDrop (h : Kept r s) {m} : Kept r (macDrop s m) := kept_foldl (kept_setMac h) (fun _ _ ht => kept_setMac ht)

theorem kept_ethCtlEffect (h : Kept r s) {m v} : KeptO r (ethCtlEffect s m v) :=
  keptO_ite keptO_none (keptO_ite keptO_none (keptO_some (kept_ite (kept_wr h) (kept_macDrop (kept_wr h)))))

theorem kept_frerEffect (h : Kept r s) {off v} : KeptO r (frerEffect s off v) :=
  keptO_ite (keptO_ite keptO_none (keptO_some (kept_wr h))) (keptO_ite (keptO_ite keptO_none
    (keptO_some (kept_ite (kept_wr h) (kept_update (kept_wr h))))) (keptO_ite keptO_none (keptO_some (kept_wr h))))

theorem kept_canErr (h : Kept r s) {k tec rec st} : Kept r (canErr s k tec rec st) := kept_wr h

theorem kept_canFault (h : Kept r s) {k tec rec} : Kept r (canFault s k tec rec) :=
  kept_ite (kept_canErr h) (kept_raiseCond (kept_canErr h))

theorem kept_canPlace (h : Kept r s) {k f} : Kept r (canPlace s k f) := kept_ite h (kept_getD (kept_hwEnq h) h)

theorem kept_canReceive (h : Kept r s) {k f} : Kept r (canReceive s k f) := by
  simp only [canReceive]
  split
  · exact h
  · refine kept_canPlace (kept_canErr ?_)
    split
    · exact kept_takeFree h
    · exact h

theorem kept_canTransmit (h : Kept r s) {k} : Kept r (canTransmit s k) := by
  simp only [canTransmit]
  split
  · rename_i e
    exact kept_snd (kept_hwDeq h) e
  · rename_i e
    exact kept_hwDeq_some h e
  · rename_i e1
    refine kept_ite (kept_hwDeq_some h e1) ?_
    refine kept_ite (kept_canPlace (kept_canErr (kept_hwDeq_some h e1))) (kept_update (kept_canErr (kept_hwDeq_some h e1)))

theorem kept_canCtlEffect (h : Kept r s) {k v} : KeptO r (canCtlEffect s k v) :=
  keptO_ite keptO_none (keptO_some (kept_ite (kept_wr (kept_wr h)) (kept_wr h)))

theorem kept_mvbRun (h : Kept r s) {k a} : Kept r (mvbRun s k a) := by
  simp only [mvbRun]
  split
  · exact kept_ite (kept_update h) h
  · exact kept_update h
  · exact kept_dpWrite h
  · exact kept_getD (kept_hwEnq h) h
  · refine kept_ite h ?_
    split
    · rename_i e
      exact kept_snd (kept_hwDeq h) e
    · rename_i e
      exact kept_update (kept_hwDeq_some h e)

theorem kept_serRun (h : Kept r s) {k rx} : Kept r (serRun s k rx) := by
  simp only [serRun]
  generalize hu : @ite State (frozen s .ser k 0 = true) _ s _ = u
  have hu : Kept r u := by
    subst hu
    refine kept_ite h ?_
    split
    · rename_i e
      exact kept_snd (kept_hwDeq h) e
    · rename_i e
      exact kept_update (kept_hwDeq_some h e)
  split
  · exact hu
  split
  · rename_i e
    exact keptO_of_eq e (kept_hwEnq hu)
  · exact kept_raiseCond hu

theorem kept_gpioAccept (h : Kept r s) {pin level first} : Kept r (gpioAccept s pin level first) :=
  kept_ite (kept_raiseCond (kept_wr (kept_wb h))) (kept_wr (kept_wb h))

/-! ## DRAM controllers -/

theorem kept_setDmc (h : Kept r s) {ch d} : Kept r (setDmc s ch d) := kept_update h

theorem kept_dmcMapEffect (h : Kept r s) {ch v} : KeptO r (dmcMapEffect s ch v) :=
  keptO_ite (keptO_some h) (keptO_ite keptO_none (keptO_ite keptO_none (keptO_some (kept_wr h))))

theorem kept_dmcCommand (h : Kept r s) {ch cmd} : KeptO r (dmcCommand s ch cmd) :=
  keptO_ite (keptO_some (kept_wb h)) (keptO_ite (keptO_some (kept_wf h)) (keptO_ite (keptO_some (kept_wf h))
    (keptO_ite (keptO_some (kept_wb (kept_wf h))) (keptO_ite (keptO_some (kept_setDmc h)) keptO_none))))

theorem kept_dmcCmdAccess (h : Kept r s) {i ch cmd} : Kept r (dmcCmdAccess s i ch cmd) :=
  kept_regWriteOpt h (fun _ ht => kept_dmcCommand ht)

/-- An address outside the lines that a fill zeroes reads, where nothing lists it, as it did (R374). -/
theorem unlisted_fill (fs : List Fill) (ch lo hi a : Nat) (ha : inFill s ch lo hi a = false) :
    unlisted ({ nch := dramChannels s, ch := ch, lo := lo, hi := hi } :: fs) a = unlisted fs a := by
  cases hd : isDram a with
  | false => simp [unlisted, hd]
  | true =>
    simp only [inFill, hd, Bool.true_and, chanOf, lineOf] at ha
    have hf : filled ({ nch := dramChannels s, ch := ch, lo := lo, hi := hi } :: fs) a = filled fs a := by
      simp only [filled, List.any_cons, ha, Bool.false_or]
    simp only [unlisted, hf]

/-- The lines that a fill zeroes are no longer listed, and read as 0 from then on. -/
theorem kept_filled (h : Kept r s) (ch lo hi : Nat) :
    Kept r { s with
      mem := s.mem.filter fun c => !inFill s ch lo hi c.1
      poison := s.poison.filter fun l => !inFill s ch lo hi (64 * l)
      fills := { nch := dramChannels s, ch := ch, lo := lo, hi := hi } :: s.fills } := by
  refine kept_updateFills h fun hm => Memory.wf_fills s.fills _ _ (Memory.wf_filter _ _ _ hm) fun c hc => ?_
  exact unlisted_fill _ _ _ _ _ (by simpa using List.of_mem_filter hc)

theorem kept_fillDone (h : Kept r s) {ch} : Kept r (fillDone s ch) := by
  simp only [fillDone]
  split
  · exact h
  · exact kept_raiseCond (kept_wb (kept_filled (kept_setDmc h) _ _ _))

/-- An address that no lost fill covers reads, where nothing lists it, as it did (R374). -/
theorem unlisted_filter (fs : List Fill) (p : Fill → Bool) (a : Nat)
    (ha : isDram a = true → filled (fs.filter fun f => !p f) a = false) : unlisted (fs.filter p) a = unlisted fs a := by
  cases hd : isDram a with
  | false => simp [unlisted, hd]
  | true =>
    have hf : filled (fs.filter p) a = filled fs a := by
      have ha := ha hd
      simp only [filled, List.any_filter, List.any_eq_false, Bool.and_eq_true, not_and] at ha
      rw [Bool.eq_iff_iff]
      simp only [filled, List.any_filter, List.any_eq_true, Bool.and_eq_true]
      constructor
      · rintro ⟨f, hf, -, hc⟩
        exact ⟨f, hf, hc⟩
      · rintro ⟨f, hf, hc⟩
        refine ⟨f, hf, ?_, hc⟩
        by_contra hp
        exact ha f hf (by simpa using hp) hc.1 hc.2
    simp only [unlisted, hf]

theorem kept_loseDram (h : Kept r s) {g} : Kept r (loseDram s g) := by
  refine kept_updateFills h fun hm => ?_
  refine Memory.wf_fills s.fills _ _ (Memory.wf_filter _ _ _ hm) fun c hc => unlisted_filter _ _ _ fun hd => ?_
  have hn := List.of_mem_filter hc
  simp only [hd, Bool.true_and, Bool.not_eq_true', Bool.or_eq_false_iff] at hn
  simpa [bne] using hn.2

theorem kept_dmcSweepEffect (h : Kept r s) {ch v} : KeptO r (dmcSweepEffect s ch v) :=
  keptO_ite keptO_none (keptO_some (kept_ite (kept_wb (kept_wr h)) (kept_wr h)))

theorem kept_dmcAnswer (h : Kept r s) {line poison} : Kept r (dmcAnswer s line poison) := kept_update h

theorem kept_dmcReadArrive (h : Kept r s) {ch q} : Kept r (dmcReadArrive s ch q) := by
  simp only [dmcReadArrive]
  refine kept_ite h ?_
  split
  · exact kept_dmcAnswer h
  · exact kept_ite (kept_setDmc h) h

theorem kept_dmcWriteArrive (h : Kept r s) {ch q l} : Kept r (dmcWriteArrive s ch q l) :=
  kept_ite h (kept_ite (kept_setPoison (kept_setDmc h)) (kept_clearPoison (kept_wrBytes (kept_setDmc h))))

theorem kept_dramLog (h : Kept r s) {ch code q granule mask} : Kept r (dramLog s ch code q granule mask) := kept_logErr h

theorem kept_dmcMirwrRun (h : Kept r s) {ch a q v uncorr} : Kept r (dmcMirwrRun s ch a q v uncorr) :=
  kept_ite h (kept_ite (kept_respErr (kept_dramLog h)) (kept_respOk (kept_wrMem (kept_setDmc h))))

theorem kept_dmcIssue (h : Kept r s) {ch a} : Kept r (dmcIssue s ch a) := by
  simp only [dmcIssue]
  repeat' split
  all_goals exact kept_setDmc h

theorem kept_execDmcSchedule {ch busyBanks} (h : Kept r s) : KeptOut r (execDmcSchedule ch busyBanks s) := by
  simp only [execDmcSchedule]
  refine keptOut_next ?_
  split
  · exact kept_dmcIssue h
  · exact h

theorem kept_refreshDue (h : Kept r s) {ch} : Kept r (refreshDue s ch) :=
  kept_ite (kept_raiseCond (kept_wb (kept_setDmc h))) (kept_setDmc h)

theorem kept_refillTokens (h : Kept r s) {ch p} : Kept r (refillTokens s ch p) := kept_setDmc h

theorem kept_slotctlEffect (h : Kept r s) {ch v} : KeptO r (slotctlEffect s ch v) :=
  keptO_ite keptO_none (keptO_some (kept_ite (kept_setDmc (kept_wr h)) (kept_wr h)))

theorem kept_panicSet (h : Kept r s) {n on} : Kept r (panicSet s n on) :=
  kept_foldl h (fun _ _ ht => kept_ite ht (kept_ite (kept_ite ht (kept_countReg (kept_setDmc ht))) (kept_ite (kept_setDmc ht) ht)))

theorem kept_countPins (h : Kept r s) {ch sc mask} : Kept r (countPins s ch sc mask) :=
  kept_foldl h (fun _ _ ht => kept_ite ht (kept_ite (kept_raiseCond (kept_setDmc ht)) (kept_setDmc ht)))

theorem kept_granuleRead (h : Kept r s) {ch q g mask uncorr} : Kept r (granuleRead s ch q g mask uncorr) :=
  kept_ite (kept_raiseCond (kept_dramLog (kept_countReg h))) (kept_ite h (kept_ite
    (kept_dramLog (kept_setDmc (kept_countPins (kept_countReg h)))) (kept_countPins (kept_countReg h))))

theorem kept_readData (h : Kept r s) {ch m0 m1 u0 u1} : Kept r (readData s ch m0 m1 u0 u1) := by
  simp only [readData]
  split
  · exact h
  refine kept_ite (kept_dmcAnswer (kept_dramLog (kept_countReg (kept_setDmc h)))) (kept_ite h ?_)
  generalize hu : granuleRead _ ch _ 1 _ u1 = u
  have hu : Kept r u := hu ▸ kept_granuleRead (kept_granuleRead (kept_setDmc h))
  generalize hv : @ite State (_ = true) (instDecidableEqBool _ true) (setPoison u _) u = v
  have hv : Kept r v := hv ▸ kept_ite (kept_setPoison hu) hu
  exact kept_ite (kept_update (kept_ite (kept_setDmc hv) hv)) (kept_dmcAnswer (kept_ite (kept_setDmc hv) hv))

theorem kept_tempRead (h : Kept r s) {ch temp} : Kept r (tempRead s ch temp) := kept_setDmc (kept_wr h)

theorem kept_dmcPinClear (h : Kept r s) {ch} : Kept r (dmcPinClear s ch) := kept_setDmc h

/-! ## The Periscope chain link -/

theorem kept_setPp (h : Kept r s) {x p} : Kept r (setPp s x p) := kept_update h

theorem kept_ppGoto (h : Kept r s) {x st} : Kept r (ppGoto s x st) := kept_wf h

theorem kept_ppCond (h : Kept r s) {x k} : Kept r (ppCond s x k) := kept_raiseCond h

theorem kept_pslUnreach (h : Kept r s) {n} : Kept r (pslUnreach s n) := kept_ite h (kept_raiseCond (kept_addReg h))

theorem kept_frameOut (h : Kept r s) {x w hseq l} : Kept r (frameOut s x w hseq l) := kept_update h

theorem kept_pump (h : Kept r s) {x n} : Kept r (pump s x n) := by
  induction n generalizing s with
  | zero => exact h
  | succ n ih =>
    simp only [pump]
    split
    · exact h
    · exact kept_ite h (ih (kept_frameOut (kept_setPp h)))

theorem kept_sendOn (h : Kept r s) {x f} : Kept r (sendOn s x f) := kept_pump (kept_setPp h)

theorem kept_frameIn (h : Kept r s) {x w} : Kept r (frameIn s x w) := by
  simp only [frameIn]
  split
  · exact kept_wb (kept_wb (kept_pump (kept_setPp h)))
  · refine kept_ite (kept_wb (kept_wb (kept_pump (kept_setPp h)))) ?_
    exact kept_raiseCond (kept_wb (kept_wb (kept_pump (kept_setPp h))))
  · exact kept_countReg (kept_pump (kept_setPp h))

theorem kept_frameDiscard (h : Kept r s) {x f} : Kept r (frameDiscard s x f) := kept_countReg (kept_ite (kept_setPp h) h)

theorem kept_frameTake (h : Kept r s) {x f} : Kept r (frameTake s x f) := kept_ite (kept_countReg (kept_frameIn h)) (kept_frameIn h)

theorem kept_askReplay (h : Kept r s) {x} : Kept r (askReplay s x) := kept_frameOut (kept_countReg (kept_setPp h))

theorem kept_dropFlight (h : Kept r s) {x} : Kept r (dropFlight s x) := kept_pslUnreach (kept_setPp h)

theorem kept_ppDown (h : Kept r s) {x} : Kept r (ppDown s x) := kept_ppCond (kept_ppGoto (kept_dropFlight h))

theorem kept_ppAlign (h : Kept r s) {x} : Kept r (ppAlign s x) := kept_ppGoto (kept_setPp h)

theorem kept_ppBudget (h : Kept r s) {x} : Kept r (ppBudget s x) := kept_ite (kept_ppCond (kept_ppGoto (kept_wb h))) h

theorem kept_pslCtlEffect (h : Kept r s) {v} : Kept r (pslCtlEffect s v).1 := by
  simp only [pslCtlEffect]
  refine kept_ppBudget ?_
  refine kept_ppBudget ?_
  refine kept_ite ?_ ?_
  · exact kept_foldl (kept_ite (kept_wf (kept_wr h)) (kept_wr h)) (fun _ _ ht => kept_ite ht (kept_ppAlign ht))
  · refine kept_ite ?_ (kept_wr h)
    exact kept_wb (kept_update (kept_foldl (kept_wr h) (fun _ _ ht => kept_ite ht (kept_ppDown ht))))

theorem kept_renumber (h : Kept r s) : Kept r (renumber s) := by
  simp only [renumber]
  refine kept_ite ?_ ?_
  · refine kept_frameOut ?_
    refine kept_wb ?_
    exact kept_wf (kept_pslUnreach (kept_update (kept_foldl h (fun _ _ ht => kept_setPp (kept_dropFlight ht)))))
  · refine kept_wb ?_
    exact kept_wf (kept_pslUnreach (kept_update (kept_foldl h (fun _ _ ht => kept_setPp (kept_dropFlight ht)))))

theorem kept_pslCtlNow (h : Kept r s) {v} : Kept r (pslCtlNow s v).1 := kept_ite (kept_renumber (kept_pslCtlEffect h)) (kept_pslCtlEffect h)

theorem kept_pslCtlAccess (h : Kept r s) {i v} : Kept r (pslCtlAccess s i v) :=
  kept_regWrite h (fun _ ht => kept_ite (kept_clampNote (kept_pslCtlNow ht)) (kept_pslCtlNow ht))

theorem kept_pslPortCtl (h : Kept r s) {x v} : Kept r (pslPortCtl s x v) :=
  kept_ite (kept_ite (kept_wr h) (kept_ppDown (kept_wr h))) (kept_ite (kept_ppAlign (kept_setPp (kept_wr h))) (kept_wr h))

theorem kept_setCount (h : Kept r s) {n} : Kept r (setCount s n) := kept_wb (kept_wf h)

theorem kept_countOut (h : Kept r s) {x n} : Kept r (countOut s x n) := kept_frameOut (kept_setCount h)

theorem kept_takeAddr (h : Kept r s) {a} : Kept r (takeAddr s a) := by
  simp only [takeAddr]
  refine kept_ite (kept_countOut (kept_wb h)) ?_
  split
  · exact kept_ite h (kept_raiseCond h)
  · exact kept_ite (kept_frameOut (kept_wf (kept_setPp h))) (kept_countOut (kept_wf (kept_setPp h)))

theorem kept_identRun (h : Kept r s) {x serial addr count} : Kept r (identRun s x serial addr count) := by
  simp only [identRun]
  generalize hu : @ite State (_ = true) (instDecidableEqBool _ true) (raiseCond _ .psl 0 0 1) _ = u
  have hu : Kept r u := hu ▸ kept_ite (kept_raiseCond (kept_wb (kept_setPp (kept_wr h)))) (kept_setPp (kept_wr h))
  generalize hv : @ite State (ppState u x = 2) _ _ _ = v
  have hv : Kept r v := hv ▸ kept_ite (kept_ppGoto (kept_setPp hu)) hu
  cases addr with
  | none => cases count with
    | none => exact hv
    | some n => exact kept_ite (kept_setCount hv) (kept_countOut hv)
  | some a =>
    have hw : Kept r (if x = true then v else takeAddr v a) := kept_ite hv (kept_takeAddr hv)
    cases count with
    | none => exact hw
    | some n => exact kept_ite (kept_setCount hw) (kept_countOut hw)

theorem kept_calRun (h : Kept r s) {x t1 t2 t3 t4} : Kept r (calRun s x t1 t2 t3 t4) := by
  simp only [calRun]
  refine kept_ite (kept_wr (kept_setPp h)) ?_
  refine kept_ite ?_ ?_
  · refine kept_ite ?_ (kept_ppGoto (kept_wb (kept_wr (kept_setPp h))))
    exact kept_ppCond (kept_ppGoto (kept_wb (kept_wr (kept_setPp h))))
  · refine kept_ite (kept_wb (kept_wr (kept_setPp h))) ?_
    exact kept_pump (kept_ppCond (kept_ppGoto (kept_setPp (kept_wb (kept_wr (kept_setPp h))))))

theorem kept_tbrxShow (h : Kept r s) {i} : Kept r (tbrxShow s i) := by
  simp only [tbrxShow]
  split <;> exact kept_wr h

theorem kept_timeFrame (h : Kept r s) {x f inside} : Kept r (timeFrame s x f inside) := by
  simp only [timeFrame]
  refine kept_ite ?_ ?_
  · refine kept_frameOut ?_
    refine kept_ite ?_ ?_
    · refine kept_foldl ?_ (fun _ _ ht => kept_giveTick ht)
      exact kept_tbrxShow (kept_ite (kept_raiseCond (kept_wb (kept_setPp h))) (kept_setPp h))
    · exact kept_tbrxShow (kept_ite (kept_raiseCond (kept_wb (kept_setPp h))) (kept_setPp h))
  · refine kept_ite ?_ ?_
    · refine kept_foldl ?_ (fun _ _ ht => kept_giveTick ht)
      exact kept_tbrxShow (kept_ite (kept_raiseCond (kept_wb (kept_setPp h))) (kept_setPp h))
    · exact kept_tbrxShow (kept_ite (kept_raiseCond (kept_wb (kept_setPp h))) (kept_setPp h))

theorem kept_execPslSampleAge {x idx} (h : Kept r s) : KeptOut r (execPslSampleAge x idx s) := by
  simp only [execPslSampleAge]
  refine keptOut_next ?_
  refine kept_ite h ?_
  split
  · exact kept_ite h (kept_tbrxShow (kept_setPp h))
  · exact h

theorem kept_pslDrain (h : Kept r s) {n} : Kept r (pslDrain s n) := by
  induction n generalizing s with
  | zero => exact h
  | succ n ih =>
    simp only [pslDrain]
    split
    · exact h
    · split
      · exact h
      · rename_i e
        exact ih (kept_update (kept_hwEnq h _ e))

theorem kept_deliver (h : Kept r s) {f} : Kept r (deliver s f) := by
  simp only [deliver]
  split
  · exact kept_countReg h
  · refine kept_ite ?_ ?_
    · exact kept_raiseCond (kept_logErr (kept_countReg (kept_update h)))
    · exact kept_ite (kept_pslUnreach (kept_update h)) (kept_pslDrain (kept_update h))

theorem kept_forward (h : Kept r s) {x f} : Kept r (forward s x f) := kept_ite h (kept_ite (kept_sendOn h) (kept_ite (kept_pslUnreach h) h))

theorem kept_messageTake (h : Kept r s) {x f} : Kept r (messageTake s x f) :=
  kept_ite (kept_pslUnreach h) (kept_ite h (kept_ite (kept_deliver (kept_forward h)) (kept_forward h)))

theorem kept_messageFrame (h : Kept r s) {x f} : Kept r (messageFrame s x f) := by
  simp only [messageFrame]
  refine kept_ite ?_ ?_
  · exact kept_ite (kept_frameDiscard (kept_pslDrain h)) (kept_askReplay (kept_frameDiscard (kept_pslDrain h)))
  · refine kept_ite ?_ ?_
    · exact kept_ite (kept_frameTake (kept_pslDrain h)) (kept_askReplay (kept_frameTake (kept_pslDrain h)))
    · exact kept_messageTake (kept_setPp (kept_frameTake (kept_pslDrain h)))

theorem kept_messageSend (h : Kept r s) {k} : Kept r (messageSend s k) := by
  simp only [messageSend]
  split
  · rename_i e
    exact kept_snd (kept_hwDeq h) e
  · rename_i e
    refine kept_ite (kept_pslUnreach (kept_hwDeq_some h e)) ?_
    refine kept_ite ?_ ?_
    · exact kept_raiseCond (kept_logErr (kept_countReg (kept_hwDeq_some h e)))
    · split
      · exact kept_pslUnreach (kept_hwDeq_some h e)
      · exact kept_ite h (kept_foldl (kept_update (kept_hwDeq_some h e)) (fun _ _ ht => kept_sendOn ht))

theorem kept_execPslReplayTimeout {x} (h : Kept r s) : KeptOut r (execPslReplayTimeout x s) := by
  simp only [execPslReplayTimeout]
  refine keptOut_next ?_
  refine kept_ite h ?_
  split
  · exact h
  · exact kept_ite (kept_askReplay h) (kept_ite (kept_ppDown h) (kept_ppAlign (kept_setPp h)))

theorem kept_execDmcPanic {port} (h : Kept r s) : KeptOut r (execDmcPanic port s) := by
  simp only [execDmcPanic]
  refine keptOut_next ?_
  repeat' split
  all_goals exact kept_panicSet h

/-! ## Power domains, envelope and emission, clocks, hold-up monitor -/

theorem kept_mcTableWrite (h : Kept r s) {c l} : Kept r (mcTableWrite s c l) := kept_foldl h (fun _ _ ht => kept_wr ht)

theorem kept_mcLoadCore (h : Kept r s) {c} : Kept r (mcLoadCore s c) := by
  simp only [mcLoadCore]
  refine kept_ite h ?_
  refine kept_setPatchState ?_
  refine kept_wf ?_
  refine kept_wb ?_
  split <;> exact kept_mcTableWrite (kept_wr (kept_wr (kept_setCore (kept_setPatchState h))))

theorem kept_setClk (h : Kept r s) {d x} : Kept r (setClk s d x) := kept_wf h

theorem kept_clkSettle (h : Kept r s) : Kept r (clkSettle s) := kept_foldl h (fun _ _ ht => kept_setClk ht)

theorem kept_clkEffect (h : Kept r s) {d v} : Kept r (clkEffect s d v).1 := kept_fst_ite h (kept_clkSettle (kept_wf h))

theorem kept_envelopeEffect (h : Kept r s) {v} : KeptO r (envelopeEffect s v) :=
  keptO_ite keptO_none (keptO_some (kept_clkSettle (kept_wr h)))

theorem kept_serQuiet (h : Kept r s) {k} : Kept r (serQuiet s k) := kept_ite (kept_clampNote (kept_wr h)) h

theorem kept_emissionEffect (h : Kept r s) {v} : KeptO r (emissionEffect s v) :=
  keptO_ite keptO_none (keptO_ite (keptO_some h) (keptO_some (kept_clkSettle (kept_update (kept_wr h)))))

theorem kept_emissionDone (h : Kept r s) : Kept r (emissionDone s) :=
  kept_ite (kept_foldl (kept_clkSettle (kept_update h)) (fun _ _ ht => kept_serQuiet ht)) (kept_clkSettle (kept_update h))

theorem kept_powerTake (h : Kept r s) {power} : Kept r (powerTake s power) := kept_wr (kept_update h)

theorem kept_execPwrSample {power} (h : Kept r s) : KeptOut r (execPwrSample power s) := by
  simp only [execPwrSample]
  refine keptOut_next ?_
  refine kept_ite ?_ (kept_powerTake h)
  split
  · exact kept_setClk (kept_powerTake h)
  · exact kept_powerTake h

theorem kept_execPwrEvaluate (h : Kept r s) : KeptOut r (execPwrEvaluate s) := by
  simp only [execPwrEvaluate]
  refine keptOut_next ?_
  refine kept_ite h ?_
  refine kept_ite ?_ (kept_ite (kept_raiseCond (kept_wb h)) h)
  refine kept_ite h ?_
  split
  · exact kept_setClk h
  · exact h

theorem kept_domstat (h : Kept r s) {d busy} : Kept r (domstat s d busy) := kept_wr h

theorem kept_setDom (h : Kept r s) {d x} : Kept r (setDom s d x) := kept_update h

theorem kept_domPagesReset (h : Kept r s) {d} : Kept r (domPagesReset s d) := kept_update h

theorem kept_focalInit (h : Kept r s) {d} : Kept r (focalInit s d) := by
  simp only [focalInit]
  split
  · exact kept_update (kept_domPagesReset (kept_domRegsReset h))
  · exact kept_update (kept_domPagesReset (kept_domRegsReset h))
  · exact kept_update (kept_domPagesReset (kept_domRegsReset h))
  · exact kept_update (kept_domPagesReset (kept_domRegsReset h))
  · exact kept_update (kept_domPagesReset (kept_domRegsReset h))
  · exact kept_ite (kept_loseDram (kept_domPagesReset (kept_domRegsReset h))) (kept_domPagesReset (kept_domRegsReset h))

theorem kept_facetInitHeld (h : Kept r s) {d} : Kept r (facetInitHeld s d) := kept_foldl (kept_facetInit h) (fun _ _ ht => kept_setHeld ht)

theorem kept_domSwitchOn (h : Kept r s) {d} : Kept r (domSwitchOn s d) := by
  simp only [domSwitchOn]
  refine kept_ite ?_ ?_
  · refine kept_ite ?_ ?_
    · refine kept_ite ?_ ?_
      · exact kept_setLink (kept_linkGoto (kept_facetInitHeld (kept_setDom (kept_domstat (kept_update h)))))
      · exact kept_facetInitHeld (kept_setDom (kept_domstat (kept_update h)))
    · refine kept_foldl ?_ (fun _ _ ht => kept_ite (kept_setPatchState ht) ht)
      exact kept_facetInitHeld (kept_setDom (kept_domstat (kept_update h)))
  · exact kept_focalInit (kept_setDom (kept_domstat (kept_update h)))

theorem kept_domSwitchOff (h : Kept r s) {d} : Kept r (domSwitchOff s d) :=
  kept_foldl (kept_domstat (kept_update h)) (fun _ _ ht => kept_setHeld (kept_coreHold ht))

theorem kept_domCmdEffect (h : Kept r s) {v} : KeptO r (domCmdEffect s v) := by
  simp only [domCmdEffect]
  refine keptO_ite (keptO_some h) ?_
  refine keptO_ite keptO_none ?_
  refine keptO_ite keptO_none ?_
  refine keptO_ite ?_ ?_
  · exact keptO_ite (keptO_some (kept_domstat h)) (keptO_ite keptO_none (keptO_some (kept_domSwitchOn h)))
  · refine keptO_ite (keptO_some (kept_domstat h)) ?_
    exact keptO_ite keptO_none (keptO_ite keptO_none (keptO_some (kept_domSwitchOff h)))

theorem kept_clusterOn (h : Kept r s) {d} : Kept r (clusterOn s d) := by
  simp only [clusterOn]
  refine kept_clkSettle ?_
  refine kept_setClk ?_
  refine kept_foldl h (fun _ _ ht => ?_)
  split
  · exact kept_ite (kept_setHeld (kept_setCoreOwner (kept_mcLoadCore ht))) (kept_mcLoadCore ht)
  · exact kept_mcLoadCore ht

theorem kept_execDomainDone (h : Kept r s) : KeptOut r (execDomainDone s) := by
  simp only [execDomainDone]
  refine keptOut_next ?_
  split
  · refine kept_ite h ?_
    refine kept_ite (kept_domstat (kept_update h)) ?_
    refine kept_raiseCond ?_
    refine kept_ite ?_ ?_
    · exact kept_clusterOn (kept_setDom (kept_domstat (kept_update h)))
    · refine kept_ite ?_ (kept_setDom (kept_domstat (kept_update h)))
      exact kept_gpeForceAnew (kept_setDom (kept_domstat (kept_update h)))
  · exact h

theorem kept_homesEmpty (h : Kept r s) {n} : Kept r (homesEmpty s n) := kept_foldl (kept_update h) (fun _ _ ht => kept_setSl ht)

theorem kept_halfFlush (h : Kept r s) {d} : Kept r (halfFlush s d) := kept_foldl (kept_update h) (fun _ _ ht => kept_lastCopy ht)

theorem kept_clusterOff (h : Kept r s) {d} : Kept r (clusterOff s d) := kept_setClk (kept_facetInitHeld (kept_setDom (kept_halfFlush h)))

theorem kept_focalOff (h : Kept r s) {d} : Kept r (focalOff s d) := by
  simp only [focalOff]
  refine kept_focalInit ?_
  refine kept_setDom ?_
  split
  · exact kept_hpDown h
  · exact kept_hpDown h
  · exact h

theorem kept_execPwrDomainOffDone (h : Kept r s) : KeptOut r (execPwrDomainOffDone s) := by
  simp only [execPwrDomainOffDone]
  refine keptOut_next ?_
  split
  · refine kept_ite (kept_clusterOff (kept_domstat (kept_update h))) ?_
    refine kept_ite ?_ (kept_focalOff (kept_domstat (kept_update h)))
    refine kept_facetInit ?_
    refine kept_markAbsent ?_
    refine kept_linkFall (kept_setDom (kept_homesEmpty (kept_clusterOff (kept_clusterOff (kept_domstat (kept_update h))))))
  · exact h

theorem kept_hupEffect (h : Kept r s) {off v} : KeptOP r (hupEffect s off v) :=
  keptOP_ite (keptOP_some (kept_wr h)) (keptOP_ite keptOP_none (keptOP_ite (keptOP_some (kept_wr h))
    (keptOP_ite (keptOP_some (kept_wr h)) (keptOP_some (kept_wr h)))))

theorem kept_reg32 (h : Kept r s) {x} : Kept r (reg32 s x).2 := kept_snd_ite h (kept_takeFree h)

theorem kept_pfwSet (h : Kept r s) {on} : Kept r (pfwSet s on) := kept_clkSettle (kept_raiseCond (kept_wb (kept_wb h)))

theorem kept_hupTake (h : Kept r s) {code} : Kept r (hupTake s code) :=
  kept_update (kept_wr (kept_wr (kept_reg32 (kept_reg32 (kept_update h)))))

/-! ## The journal engine -/

theorem kept_jrnWrite (h : Kept r s) {off l} : Kept r (jrnWrite s off l) := by
  induction l generalizing s off with
  | nil => exact h
  | cons b l ih => exact ih (kept_updateMem h fun hm => Memory.wf_memSet _ _ _ _ hm)

theorem kept_jrnFlush (h : Kept r s) {n} : Kept r (jrnFlush s n) := by
  induction n generalizing s with
  | zero => exact h
  | succ n ih =>
    simp only [jrnFlush]
    split
    · exact h
    · split
      · exact h
      · rename_i e
        exact ih (kept_update (kept_hwEnq h _ e))

theorem kept_jrnComplete (h : Kept r s) {tag status seq avail need} : Kept r (jrnComplete s tag status seq avail need) :=
  kept_jrnFlush (kept_update h)

theorem kept_jrnRefuse (h : Kept r s) {tag status} : Kept r (jrnRefuse s tag status) := kept_jrnComplete (kept_takeFree (kept_takeFree h))

theorem kept_nvmeWrite (h : Kept r s) {data last} : Kept r (nvmeWrite s data last) := kept_update (kept_wrBytes h)

theorem kept_jrnStart (h : Kept r s) {tag part nvme p} : Kept r (jrnStart s tag part nvme p) :=
  kept_ite (kept_nvmeWrite (kept_wb (kept_update h))) (kept_wb (kept_update h))

theorem kept_jrnCheck (h : Kept r s) {l} : Kept r (jrnCheck s l) := by
  simp only [jrnCheck]
  refine kept_ite (kept_jrnRefuse h) ?_
  refine kept_ite (kept_jrnRefuse h) ?_
  refine kept_ite (kept_jrnRefuse h) ?_
  split
  · exact kept_jrnRefuse (kept_logFailed h)
  · exact kept_ite (kept_jrnRefuse h) (kept_ite (kept_jrnComplete (kept_raiseCond (kept_countReg h))) (kept_jrnStart h))

theorem kept_execJrnRequest (h : Kept r s) : KeptOut r (execJrnRequest s) := by
  simp only [execJrnRequest]
  refine keptOut_next ?_
  refine kept_ite (kept_jrnFlush h) ?_
  split
  · rename_i e
    exact kept_snd (kept_hwDeq (kept_jrnFlush h)) e
  · rename_i e
    refine kept_ite ?_ ?_
    · exact kept_jrnRefuse (kept_hwDeq_some (kept_jrnFlush h) e)
    · exact kept_jrnCheck (kept_hwDeq_some (kept_jrnFlush h) e)

theorem kept_jrnAdvance (h : Kept r s) {n} : Kept r (jrnAdvance s n) := kept_update (kept_wr h)

theorem kept_jrnTail (h : Kept r s) : Kept r (jrnTail s) := kept_wr h

theorem kept_jrnEnd (h : Kept r s) {q status} : Kept r (jrnEnd s q status) :=
  kept_jrnComplete (kept_ite (kept_wr (kept_wb (kept_update h))) (kept_wb (kept_update h)))

theorem kept_execJrnMarkerWrite (h : Kept r s) : KeptOut r (execJrnMarkerWrite s) := by
  simp only [execJrnMarkerWrite]
  refine keptOut_next ?_
  split
  · exact h
  · exact kept_ite h (kept_jrnEnd (kept_jrnTail (kept_jrnAdvance (kept_jrnWrite (kept_jrnWrite h)))))

theorem kept_execJrnNvmeCompletion {ok_} (h : Kept r s) : KeptOut r (execJrnNvmeCompletion ok_ s) := by
  simp only [execJrnNvmeCompletion]
  refine keptOut_next ?_
  split
  · exact h
  · exact kept_ite h (kept_ite (kept_jrnEnd h) (kept_ite (kept_jrnEnd h) (kept_nvmeWrite h)))

theorem kept_execJrnNvmeTimeout (h : Kept r s) : KeptOut r (execJrnNvmeTimeout s) := by
  simp only [execJrnNvmeTimeout]
  refine keptOut_next ?_
  split
  · exact h
  · exact kept_ite (kept_jrnEnd h) h

theorem kept_jrnTear (h : Kept r s) : Kept r (jrnTear s) := by
  simp only [jrnTear]
  split
  · exact h
  · exact kept_ite h (kept_jrnWrite h)

theorem kept_eraseBlock (h : Kept r s) {b} : Kept r (eraseBlock s b) :=
  kept_updateMem h fun hm => Memory.wf_filter _ _ _ hm

theorem kept_execJrnEraseDone (h : Kept r s) : KeptOut r (execJrnEraseDone s) := by
  simp only [execJrnEraseDone]
  refine keptOut_next ?_
  split
  · exact h
  · exact kept_eraseBlock (kept_update h)

theorem kept_jrnCtlEffect (h : Kept r s) {v} : KeptO r (jrnCtlEffect s v) :=
  keptO_ite keptO_none (keptO_some (kept_ite (kept_wb (kept_wr h)) (kept_wr h)))

theorem kept_jrnResume (h : Kept r s) : Kept r (jrnResume s) :=
  kept_jrnTail (kept_wb (kept_ite (kept_raiseCond (kept_wb (kept_wr (kept_wr (kept_update h))))) (kept_wr (kept_wr (kept_update h)))))

/-! ## The error log and the Ammin table -/

theorem kept_errWrite (h : Kept r s) {e} : Kept r (errWrite s e) := by
  simp only [errWrite]
  refine kept_ite ?_ ?_
  · refine kept_raiseCond ?_
    refine kept_wr ?_
    refine kept_wr ?_
    refine kept_update ?_
    split
    · exact kept_ite (kept_raiseCond (kept_countReg h)) h
    · exact h
  · refine kept_wr ?_
    refine kept_wr ?_
    refine kept_update ?_
    split
    · exact kept_ite (kept_raiseCond (kept_countReg h)) h
    · exact h

theorem kept_execErrorLogEntryWrite (h : Kept r s) : KeptOut r (execErrorLogEntryWrite s) := by
  simp only [execErrorLogEntryWrite]
  refine keptOut_next ?_
  split
  · exact kept_errWrite h
  · exact h

theorem kept_execErrCopyWrite (h : Kept r s) : KeptOut r (execErrCopyWrite s) := by
  simp only [execErrCopyWrite]
  refine keptOut_next ?_
  split
  · exact h
  · refine kept_ite (kept_update h) ?_
    split
    · rename_i e1
      exact kept_agWrite (kept_update h) _ e1
    · exact kept_raiseCond (kept_wb (kept_wb (kept_logBusErr (kept_update h))))

theorem kept_errCopyEffect (h : Kept r s) {v} : KeptO r (errCopyEffect s v) := keptO_ite keptO_none (keptO_some (kept_wr h))

theorem kept_amminRead (h : Kept r s) {i off width} : Kept r (amminRead s i off width) :=
  kept_ite (kept_respOk h) (kept_respErr (kept_logErr h))

theorem kept_amminRefuse (h : Kept r s) {i off} : Kept r (amminRefuse s i off) := kept_respErr (kept_logErr h)

/-! ## The boot and security engine -/

theorem kept_bseNote (h : Kept r s) {p a n st} : Kept r (bseNote s p a n st) := kept_ite (kept_agReadNote h) h

theorem kept_imgNote (h : Kept r s) {p a st} : Kept r (imgNote s p a st) := by
  simp only [imgNote]
  split <;> exact kept_bseNote h

theorem kept_setActive (h : Kept r s) {k} : Kept r (setActive s k) := kept_wrMem h

theorem kept_enrollSlot (h : Kept r s) {cls slot k} : Kept r (enrollSlot s cls slot k) := kept_ite (kept_update h) (kept_update h)

theorem kept_bsref (h : Kept r s) : Kept r (bsref s) := kept_wb h

theorem kept_bscanJudge (h : Kept r s) : Kept r (bscanJudge s) := kept_ite h (kept_bsref (kept_update h))

theorem kept_bseEnroll (h : Kept r s) {arg hash} : Kept r (bseEnroll s arg hash).1 := by
  simp only [bseEnroll]
  refine kept_fst_ite h ?_
  split
  · exact kept_bseNote h
  · dsimp only
    exact kept_enrollSlot h

theorem kept_bseAdvance (h : Kept r s) {arg} : Kept r (bseAdvance s arg).1 := kept_fst_ite h (kept_update h)

theorem kept_slotInstall (h : Kept r s) {x slot} : Kept r (slotInstall s x slot).1 := kept_fst_ite h (kept_wrBytes h)

theorem kept_bseInstall (h : Kept r s) {src arg} : Kept r (bseInstall s src arg).1 := by
  simp only [bseInstall]
  refine kept_fst_ite h ?_
  split
  · exact kept_imgNote h
  · exact kept_slotInstall h

theorem kept_bseLoadmc (h : Kept r s) {cores} : Kept r (bseLoadmc s cores).1 :=
  kept_fst_ite h (kept_foldl (kept_foldl h (fun _ _ ht => kept_wr ht)) (fun _ _ ht => kept_mcLoadCore ht))

theorem kept_bseNopatch (h : Kept r s) {cores} : Kept r (bseNopatch s cores).1 :=
  kept_foldl h (fun _ _ ht => kept_setPatchState (kept_wr ht))

theorem kept_retain (h : Kept r s) {x p} : Kept r (retain s x p) := kept_ite (kept_update h) (kept_update h)

theorem kept_bseVerifyMc (h : Kept r s) {src} : Kept r (bseVerifyMc s src).1 := by
  simp only [bseVerifyMc]
  split
  · exact kept_imgNote h
  · exact kept_retain h

theorem kept_bseHandover (h : Kept r s) : Kept r (bseHandover s).1 :=
  kept_foldl (kept_mcLoadCore (kept_coreHold h)) (fun _ _ ht => kept_coreGo ht)

theorem kept_bseWrite (h : Kept r s) {p a l} : Kept r (bseWrite s p a l).1 := by
  simp only [bseWrite]
  refine kept_fst_ite h ?_
  split
  · rename_i e
    exact kept_agWrite h _ e
  · exact kept_logBusErr h

theorem kept_measAdd (h : Kept r s) {p d} : Kept r (measAdd s p d) := kept_update h

theorem kept_svcVerify (h : Kept r s) {p src dst} : Kept r (svcVerify s p src dst).1 := by
  simp only [svcVerify]
  split
  · exact kept_imgNote h
  · exact kept_fst_ite (kept_measAdd (kept_bseWrite h)) (kept_bseWrite h)

theorem kept_svcReport (h : Kept r s) {p dst body} : Kept r (svcReport s p dst body).1 := kept_fst_ite h (kept_bseWrite h)

theorem kept_svcChain (h : Kept r s) {p dst} : Kept r (svcChain s p dst).1 := kept_bseWrite h

theorem kept_bseService (h : Kept r s) {m} : Kept r (bseService s m).1 := by
  simp only [bseService]
  split
  · exact kept_svcVerify h
  · exact kept_svcReport h
  · exact kept_svcChain h

theorem kept_bseAccept (h : Kept r s) {m} : Kept r (bseAccept s m) := kept_update h

theorem kept_bseCmdEffect (h : Kept r s) {v} : KeptO r (bseCmdEffect s v) := keptO_ite keptO_none (keptO_some (kept_bseAccept (kept_wb h)))

theorem kept_bsePartEffect (h : Kept r s) {p v} : KeptO r (bsePartEffect s p v) :=
  keptO_ite keptO_none (keptO_ite (keptO_some h) (keptO_some (kept_bseAccept (kept_wb h))))

theorem kept_bseAccess (h : Kept r s) {i op} : Kept r (bseAccess s i op) := kept_regWriteOpt h (fun _ ht => kept_bseCmdEffect ht)

theorem kept_svcAccess (h : Kept r s) {i p op} : Kept r (svcAccess s i p op) := kept_regWriteOpt h (fun _ ht => kept_bsePartEffect ht)

theorem kept_bseNext (h : Kept r s) : Kept r (bseNext s) := kept_update h

theorem kept_bseEnd (h : Kept r s) {page st} : Kept r (bseEnd s page st) := kept_raiseCond (kept_wf (kept_wb h))

theorem kept_romStart (h : Kept r s) : Kept r (romStart s) := kept_coreGo (kept_setPatchState (kept_wrBytes (kept_wrBytes h)))

theorem kept_retainAt (h : Kept r s) {off ty} : Kept r (retainAt s off ty) := by
  simp only [retainAt]
  split
  · exact kept_retain h
  · exact h

theorem kept_bootHandover (h : Kept r s) {slot src x} : Kept r (bootHandover s slot src x) :=
  kept_bseHandover (kept_foldl (kept_wrBytes (kept_foldl (kept_retainAt (kept_retainAt (kept_update h)))
    (fun _ _ ht => kept_mcLoadCore ht))) (fun _ _ ht => kept_wr ht))

theorem kept_bootRecord (h : Kept r s) {k st} : Kept r (bootRecord s k st) := kept_update h

theorem kept_bootRecovery (h : Kept r s) : Kept r (bootRecovery s) := by
  simp only [bootRecovery]
  refine kept_raiseCond ?_
  refine kept_update ?_
  refine kept_ite ?_ ?_
  · exact kept_ite h (kept_wb (kept_ite h (kept_setDom (kept_focalInit h))))
  · refine kept_wb ?_
    refine kept_ite ?_ ?_
    · exact kept_ite h (kept_wb (kept_ite h (kept_setDom (kept_focalInit h))))
    · exact kept_setDom (kept_focalInit (kept_ite h (kept_wb (kept_ite h (kept_setDom (kept_focalInit h))))))

theorem kept_bootXspi (h : Kept r s) {flash} : Kept r (bootXspi s flash) := by
  simp only [bootXspi]
  split
  · exact kept_bootRecovery (kept_bootRecord h)
  · split
    · exact kept_bootRecovery (kept_bootRecord h)
    · refine kept_ite ?_ ?_
      · exact kept_bootHandover (kept_setActive (kept_bootRecord (kept_slotInstall h)))
      · exact kept_bootRecovery (kept_bootRecord (kept_slotInstall h))

theorem kept_bootSlots (h : Kept r s) {flash l} : Kept r (bootSlots s flash l) := by
  induction l generalizing s with
  | nil => exact kept_bootXspi h
  | cons k l ih =>
    simp only [bootSlots]
    split
    · exact kept_bootHandover (kept_bootRecord h)
    · exact ih (kept_bootRecord h)

theorem kept_bootHalt (h : Kept r s) : Kept r (bootHalt s) :=
  kept_setCore (kept_wb (kept_updateMem h fun hm => Memory.wf_filter _ _ _ hm))

theorem kept_rcvPush (h : Kept r s) {bytes} : Kept r (rcvPush s bytes) := kept_wf (kept_update (kept_wrBytes h))

theorem kept_rcvDone (h : Kept r s) {port} : Kept r (rcvDone s port) := by
  simp only [rcvDone]
  split
  · exact kept_bootRecord (kept_wf h)
  · exact kept_bootHandover (kept_bootRecord (kept_setActive (kept_wf h)))

theorem kept_rcvEffect (h : Kept r s) {i v} : KeptO r (rcvEffect s i v) := by
  simp only [rcvEffect]
  split
  · exact keptO_none
  refine keptO_ite keptO_none ?_
  generalize hu : @ite State (bit v 0 = true) _ _ s = u
  have hu : Kept r u := hu ▸ kept_ite (kept_wr (kept_update (kept_wf h))) h
  refine keptO_ite (keptO_some hu) (keptO_some ?_)
  generalize hw : @ite State (bit v 1 = true) _ _ _ = w
  have hw : Kept r w := hw ▸ kept_ite (kept_rcvPush (kept_wf hu)) (kept_wf hu)
  exact kept_ite (kept_wf (kept_ite (kept_rcvDone hw) hw)) (kept_ite (kept_rcvDone hw) hw)

theorem kept_rcvAccess (h : Kept r s) {i v} : Kept r (rcvAccess s i v) := kept_regWriteOpt h (fun _ ht => kept_rcvEffect ht)

/-! ## Scan port, authorisation, debug events, partition watchdogs, counter snapshots, boundary scan -/

theorem kept_setGrants (h : Kept r s) {p mask level} : Kept r (setGrants s p mask level) := kept_ite h (kept_raiseCond (kept_update h))

theorem kept_revokeNow (h : Kept r s) {p} : Kept r (revokeNow s p) := kept_foldl (kept_setGrants h) (fun _ _ ht => kept_wb ht)

theorem kept_dbgRevokeEffect (h : Kept r s) {v} : Kept r (dbgRevokeEffect s v) := kept_ite (kept_revokeNow h) h

theorem kept_raiseDbg (h : Kept r s) {c reason arg idx} : Kept r (raiseDbg s c reason arg idx) := kept_setCore h

theorem kept_stopCore (h : Kept r s) {c reason} : Kept r (stopCore s c reason) := kept_ite (kept_wf h) (kept_raiseDbg h)

theorem kept_coreCmd (h : Kept r s) {v} : KeptO r (coreCmd s v) := by
  simp only [coreCmd]
  refine keptO_ite keptO_none ?_
  split
  · exact keptO_some (kept_stopCore h)
  · exact keptO_some (kept_foldl h (fun _ _ ht => kept_stopCore ht))
  · exact keptO_some (kept_wb h)
  · exact keptO_some h

theorem kept_setLens (h : Kept r s) {p x} : Kept r (setLens s p x) := kept_update h

theorem kept_lensRead (h : Kept r s) {p} : Kept r (lensRead s p).1 := kept_wr (kept_setLens (kept_update h))

theorem kept_authRequest (h : Kept r s) {v} : KeptO r (authRequest s v) := keptO_ite keptO_none (keptO_some (kept_update h))

theorem kept_authSubmit (h : Kept r s) : Kept r (authSubmit s) := by
  simp only [authSubmit]
  split <;> exact kept_bseAccept (kept_update h)

theorem kept_execAuthVerifyDone (h : Kept r s) : KeptOut r (execAuthVerifyDone s) := by
  simp only [execAuthVerifyDone]
  refine keptOut_next ?_
  split
  · exact h
  · exact kept_ite h (kept_bseNext (kept_ite (kept_setGrants (kept_update h)) (kept_update h)))

theorem kept_scanRead (h : Kept r s) {idx} : KeptOP r (scanRead s idx) := by
  simp only [scanRead]
  refine keptOP_ite (keptOP_some h) ?_
  refine keptOP_ite (keptOP_ite (keptOP_some h) keptOP_none) ?_
  refine keptOP_ite (keptOP_some h) ?_
  refine keptOP_ite (keptOP_some h) ?_
  refine keptOP_ite (keptOP_some h) ?_
  refine keptOP_ite (keptOP_some h) ?_
  refine keptOP_ite (keptOP_ite (keptOP_some h) keptOP_none) ?_
  refine keptOP_ite (keptOP_ite (keptOP_some (kept_wb h)) keptOP_none) ?_
  refine keptOP_ite (keptOP_some h) ?_
  refine keptOP_ite ?_ ?_
  · exact keptOP_ite (keptOP_some (kept_lensRead h)) keptOP_none
  · exact keptOP_ite (keptOP_ite (keptOP_some h) keptOP_none) (keptOP_ite (keptOP_some h) keptOP_none)

theorem kept_scanWrite (h : Kept r s) {idx v} : KeptO r (scanWrite s idx v) := by
  simp only [scanWrite]
  refine keptO_ite (kept_authRequest h) ?_
  refine keptO_ite (keptO_some (kept_ite (kept_authSubmit h) h)) ?_
  refine keptO_ite (keptO_some (kept_ite (kept_revokeNow h) h)) ?_
  refine keptO_ite (keptO_some (kept_update h)) ?_
  refine keptO_ite (keptO_ite (keptO_some (kept_update h)) keptO_none) ?_
  refine keptO_ite (kept_coreCmd h) ?_
  refine keptO_ite ?_ ?_
  · exact keptO_ite keptO_none (keptO_some (kept_wb (kept_wr h)))
  · exact keptO_ite (keptO_some (kept_update h)) (keptO_ite (keptO_some h) keptO_none)

theorem kept_scanAccess (h : Kept r s) {write idx v} : Kept r (scanAccess s write idx v) := by
  simp only [scanAccess]
  refine kept_ite ?_ ?_
  · split
    · rename_i e
      exact kept_update (kept_scanWrite h _ e)
    · exact kept_update h
  · split
    · rename_i e
      exact kept_update (keptOP_of_eq e (kept_scanRead h))
    · exact kept_update h

theorem kept_mbxinRead (h : Kept r s) {c} : Kept r (mbxinRead s c) := kept_respOk (kept_wb h)

theorem kept_mbxoutEffect (h : Kept r s) {c v} : KeptO r (mbxoutEffect s c v) := keptO_ite keptO_none (keptO_some (kept_wb (kept_wr h)))

theorem kept_wdPeriodEffect (h : Kept r s) {p v} : Kept r (wdPeriodEffect s p v) := kept_ite (kept_wr (kept_wr h)) (kept_wr h)

theorem kept_wdsvcEffect (h : Kept r s) {p} : Kept r (wdsvcEffect s p) := kept_wr h

theorem kept_gfreezeEffect (h : Kept r s) {v} : Kept r (gfreezeEffect s v) := kept_wb (kept_wr h)

theorem kept_snaptimeEffect (h : Kept r s) {v} : Kept r (snaptimeEffect s v) :=
  kept_update (kept_ite (kept_wb (kept_wb (kept_wr h))) (kept_wb (kept_wr h)))

theorem kept_wrNew (h : Kept r s) {q v} : Kept r (wrNew s q v) := kept_ite h (kept_wr h)

theorem kept_snapCore (h : Kept r s) {c} : Kept r (snapCore s c) :=
  kept_ite (kept_foldl h (fun _ _ ht => kept_wrNew ht)) (kept_wb (kept_foldl h (fun _ _ ht => kept_wrNew ht)))

theorem kept_execCounterSnapshot (h : Kept r s) : KeptOut r (execCounterSnapshot s) := by
  simp only [execCounterSnapshot]
  refine keptOut_next ?_
  split
  · exact h
  · exact kept_ite h (kept_raiseCond (kept_wb (kept_update (kept_wr (kept_foldl h (fun _ _ ht => kept_snapCore ht))))))

/-! ## Lens trace sessions -/

theorem kept_lensStage (h : Kept r s) {p c cls l} : Kept r (lensStage s p c cls l) :=
  kept_ite (kept_setLens h) (kept_ite (kept_countReg (kept_countReg (kept_setLens h))) (kept_countReg (kept_setLens h)))

theorem kept_lensSync (h : Kept r s) {p c} : Kept r (lensSync s p c) := kept_lensStage (kept_setLens (kept_update h))

theorem kept_lensEmit (h : Kept r s) {p c cls l} : Kept r (lensEmit s p c cls l) := kept_lensStage (kept_ite (kept_lensSync h) h)

theorem kept_execLnsSync {c} (h : Kept r s) : KeptOut r (execLnsSync c s) := by
  simp only [execLnsSync]
  refine keptOut_next ?_
  split
  · exact h
  · exact kept_ite (kept_lensSync h) h

theorem kept_execLnsPacket {c ty bytes} (h : Kept r s) : KeptOut r (execLnsPacket c ty bytes s) := by
  simp only [execLnsPacket]
  refine keptOut_next ?_
  split
  · exact kept_ite (kept_lensEmit h) h
  · exact h

theorem kept_lnsCtlEffect (h : Kept r s) {p v} : KeptO r (lnsCtlEffect s p v) :=
  keptO_ite keptO_none (keptO_ite (keptO_some (kept_foldl (kept_setLens (kept_wr (kept_wr (kept_wr h)))) (fun _ _ ht => kept_lensSync ht)))
    (keptO_some (kept_wr h)))

theorem kept_lnsPrivEffect (h : Kept r s) {i p v} : Kept r (lnsPrivEffect s i p v).1 := kept_wr h

theorem kept_sinkMoved (h : Kept r s) {p n} : Kept r (sinkMoved s p n) :=
  kept_ite (kept_wb (kept_wr (kept_setLens h))) (kept_wr (kept_setLens h))

theorem kept_hubWrite (h : Kept r s) {p l} : Kept r (hubWrite s p l) := kept_ite h (kept_sinkMoved (kept_setLens h))

theorem kept_dramSink (h : Kept r s) {p l} : Kept r (dramSink s p l) := by
  induction l generalizing s with
  | nil => exact h
  | cons b l ih =>
    simp only [dramSink]
    refine ih (kept_sinkMoved ?_)
    split
    · rename_i e
      exact kept_agWrite h _ e
    · exact h

theorem kept_portSink (h : Kept r s) {p l} : Kept r (portSink s p l) := kept_update h

theorem kept_sinkPacket (h : Kept r s) {p c l} : Kept r (sinkPacket s p c l) := by
  simp only [sinkPacket]
  refine kept_ite h ?_
  refine kept_ite (kept_countReg h) ?_
  split
  · exact kept_hubWrite (kept_setLens h)
  · exact kept_dramSink (kept_setLens h)
  · exact kept_portSink (kept_setLens h)

theorem kept_lensDrops (h : Kept r s) {p} : Kept r (lensDrops s p) :=
  kept_foldl h (fun _ _ ht => kept_ite (kept_lensStage (kept_setLens ht)) ht)

theorem kept_execLnsSinkWrite {p} (h : Kept r s) : KeptOut r (execLnsSinkWrite p s) := by
  simp only [execLnsSinkWrite]
  refine keptOut_next ?_
  split
  · exact h
  · exact kept_lensDrops (kept_sinkPacket (kept_setLens h))

theorem kept_rdaddrEffect (h : Kept r s) {p v} : Kept r (rdaddrEffect s p v) := kept_setLens (kept_wr h)

theorem kept_trigStop (h : Kept r s) {c k} : Kept r (trigStop s c k) := kept_ite (kept_raiseDbg h) h

theorem kept_lensFire (h : Kept r s) {p k c} : Kept r (lensFire s p k c) := by
  simp only [lensFire]
  refine kept_ite ?_ ?_
  · refine kept_raiseCond ?_
    refine kept_wf ?_
    refine kept_wb ?_
    refine kept_setLens ?_
    refine kept_ite ?_ (kept_ite (kept_lensEmit h) h)
    exact kept_foldl (kept_ite (kept_lensEmit h) h) (fun _ _ ht => kept_trigStop ht)
  · refine kept_ite ?_ (kept_ite (kept_lensEmit h) h)
    exact kept_foldl (kept_ite (kept_lensEmit h) h) (fun _ _ ht => kept_trigStop ht)

theorem kept_execLnsCaptureStop {p} (h : Kept r s) : KeptOut r (execLnsCaptureStop p s) := by
  simp only [execLnsCaptureStop]
  refine keptOut_next ?_
  split
  · exact h
  · exact kept_ite (kept_raiseCond (kept_wb (kept_setLens h))) h

/-! ## Power-on, package and per-die reset -/

/-- Outside DRAM what an unlisted address reads as does not depend on the fills. -/
theorem unlisted_of_inCodeStore (fs gs : List Fill) (a : Nat) (ha : inCodeStore a = true) : unlisted gs a = unlisted fs a := by
  have hd : isDram a = false := by
    by_contra hd
    have hlt : a < 0x020000000000 := by simpa [isDram] using hd
    simp [inCodeStore, areaOf, hlt] at ha
  simp [unlisted, hd]

theorem kept_resetAll (h : Kept r s) : Kept r (resetAll s) := by
  refine ⟨h.part, h.serial, h.life, h.pending, fun hr => ?_⟩
  have hw := Memory.wf_filter s.fills s.mem (fun c => inCodeStore c.1) (h.memOk hr)
  exact Memory.wf_fills s.fills [] _ hw fun c hc => unlisted_of_inCodeStore _ _ _ (by simpa using List.of_mem_filter hc)

theorem kept_trainLinks (h : Kept r s) : Kept r (trainLinks s) := kept_foldl h (fun _ _ ht => kept_setLink (kept_linkGoto ht))

theorem kept_rstTrigger (h : Kept r s) {k} : Kept r (rstTrigger s k) := kept_ite h (kept_update h)

theorem kept_packageInit (h : Kept r s) : Kept r (packageInit s) := kept_bscanJudge (kept_wr (kept_update (kept_resetAll h)))

theorem kept_dieReset (h : Kept r s) {n} : Kept r (dieReset s n) :=
  kept_ite h (kept_ite (kept_foldl (kept_linkFall h) (fun _ _ ht => kept_facetInit (kept_setDom ht))) (kept_markAbsent h))

theorem kept_pwrCtlEffect (h : Kept r s) {v} : KeptO r (pwrCtlEffect s v) :=
  keptO_ite keptO_none (keptO_some (kept_ite (kept_rstTrigger (kept_ite (kept_dieReset (kept_wr h)) (kept_wr h)))
    (kept_ite (kept_dieReset (kept_wr h)) (kept_wr h))))

theorem kept_pwrCtlAccess (h : Kept r s) {i v} : Kept r (pwrCtlAccess s i v) := kept_regWriteOpt h (fun _ ht => kept_pwrCtlEffect ht)

/-! ## The registers that a program sees -/

theorem kept_loopsWrite (h : Kept r s) {c l n v} : KeptO r (loopsWrite s c l n v) := keptO_ite keptO_none (keptO_some (kept_setCore h))

theorem kept_xstateLog (h : Kept r s) {c a} : Kept r (xstateLog s c a) := kept_logErr h

theorem kept_xstateSave (h : Kept r s) {c} : Kept r (xstateSave s c).1 := by
  simp only [xstateSave]
  split
  · exact kept_xstateLog h
  · split
    · exact kept_xstateLog h
    · rename_i e
      exact kept_setCore (kept_memWriteBy h _ e)

theorem kept_xstateLoad (h : Kept r s) {c l} : Kept r (xstateLoad s c l).1 := by
  simp only [xstateLoad]
  refine kept_fst_ite (kept_setCore h) ?_
  split
  · exact kept_xstateLog h
  · split
    · exact kept_xstateLog (kept_cacheLines h)
    · exact kept_fst_ite (kept_xstateLog (kept_cacheLines h)) (kept_setCore (kept_cacheLines h))

theorem kept_xsavePut (h : Kept r s) {c l v} : Kept r (xsavePut s c l v).1 := by
  simp only [xsavePut]
  refine kept_fst_ite ?_ (kept_setCore h)
  split
  · rename_i e
    exact kept_fst (kept_xstateSave h) e
  · rename_i e
    exact kept_setCore (kept_fst (kept_xstateSave h) e)

theorem kept_rdataPut (h : Kept r s) {c v} : KeptO r (rdataPut s c v) :=
  keptO_ite keptO_none (keptO_ite (keptO_some (kept_setCore h)) (keptO_ite keptO_none
    (keptO_ite (keptO_some (kept_xsavePut (kept_setCore h))) (keptO_ite (keptO_some (kept_setCore h)) (keptO_some h)))))

/-! ## Commands of the queue engine -/

theorem kept_qeOwnEffect (h : Kept r s) {v} : KeptO r (qeOwnEffect s v) :=
  keptO_ite (keptO_some h) (keptO_ite keptO_none (keptO_some (kept_setRing h)))

theorem kept_ringRegWrite (h : Kept r s) {i p q} {f : State → ℕ → Option State} (hf : ∀ t x, Kept r t → KeptO r (f t x)) :
    Kept r (ringRegWrite s i p q f) := by
  simp only [ringRegWrite]
  refine kept_regWrite h (fun _ ht => ?_)
  refine kept_ite (kept_failAccess ht) ?_
  split
  · rename_i e
    exact hf _ _ ht _ e
  · exact kept_refuse ht

theorem kept_dmaRegWrite (h : Kept r s) {i p q} {f : State → ℕ → Option State} (hf : ∀ t x, Kept r t → KeptO r (f t x)) :
    Kept r (dmaRegWrite s i p q f) := by
  simp only [dmaRegWrite]
  refine kept_regWrite h (fun _ ht => ?_)
  refine kept_ite (kept_failAccess ht) ?_
  split
  · rename_i e
    exact hf _ _ ht _ e
  · exact kept_refuse ht

/-! ## Reads of registers -/

theorem kept_refuseRead (h : Kept r s) {i q cause} : Kept r (refuseRead s i q cause) :=
  kept_ite (kept_respOk (kept_recordPageErr h)) (kept_ite (kept_unitAbsent h) (kept_failAccess h))

theorem kept_readEffect (h : Kept r s) {q} : Kept r (readEffect s q) := by
  simp only [readEffect]
  split
  · refine kept_ite (kept_setSrc h) ?_
    refine kept_ite (kept_setPool h) ?_
    split
    · exact kept_ite (kept_wr h) h
    · exact h
  · refine kept_ite (kept_mbxinRead h) ?_
    split
    · exact kept_ite (kept_wr h) h
    · exact h
  · exact kept_ite (kept_bumpFree (kept_wr h)) h
  · refine kept_ite (kept_dmcPinClear h) ?_
    split
    · exact kept_ite (kept_wr h) h
    · exact h
  · refine kept_ite (kept_lensRead h) ?_
    split
    · exact kept_ite (kept_wr h) h
    · exact h
  · split
    · exact kept_ite (kept_wr h) h
    · exact h

theorem kept_semReadReg (h : Kept r s) {i q} : Kept r (semReadReg s i q) := kept_ite (kept_respOk h) (kept_semRead h)

theorem kept_readReg (h : Kept r s) {i q width} : Kept r (readReg s i q width) := by
  simp only [readReg]
  refine kept_ite (kept_absentAccess h) ?_
  refine kept_ite (kept_failAccess h) ?_
  refine kept_ite (kept_semReadReg h) ?_
  refine kept_ite (kept_update h) ?_
  refine kept_ite (kept_failAccess h) ?_
  split
  · exact kept_refuseRead h
  · refine kept_ite ?_ (kept_respOk (kept_ite h (kept_readEffect h)))
    exact kept_ite (kept_failAccess h) (kept_respOk (kept_update (kept_takeFree h)))

/-! ## Writes of registers -/

theorem kept_wOpt {a : Option State} (ha : KeptO r a) : KeptW r (wOpt a) := by
  cases a with
  | none => trivial
  | some u => exact ha u rfl

theorem kept_wClamp {x : State × Bool} (hx : Kept r x.1) : KeptW r (wClamp x) := keptW_ite hx hx

theorem kept_wIf {ok} (h : Kept r s) : KeptW r (wIf ok s) := keptW_ite h trivial

theorem kept_plainWrite (h : Kept r s) {q v} : Kept r (plainWrite s q v) := by
  simp only [plainWrite]
  split
  · exact h
  · exact kept_wr h

theorem kept_wIdle (h : Kept r s) {q v busy} : KeptW r (wIdle s q v busy) := kept_wIf (kept_plainWrite h)

theorem kept_btbInvStart (h : Kept r s) {c} : Kept r (btbInvStart s c) := kept_setCore h

theorem kept_dirInvStart (h : Kept r s) {c} : Kept r (dirInvStart s c) := kept_setCore h

theorem kept_rekeyStart (h : Kept r s) {c} : Kept r (rekeyStart s c) := by
  simp only [rekeyStart]
  split
  · exact h
  · exact kept_update (kept_setCore h)

theorem kept_feCtlEffect (h : Kept r s) {c v} : Kept r (feCtlEffect s c v).1 := by
  simp only [feCtlEffect]
  refine kept_ite ?_ ?_
  · refine kept_rekeyStart ?_
    refine kept_ite ?_ ?_
    · exact kept_dirInvStart (kept_ite (kept_btbInvStart (kept_wr h)) (kept_wr h))
    · exact kept_ite (kept_btbInvStart (kept_wr h)) (kept_wr h)
  · refine kept_ite ?_ ?_
    · exact kept_dirInvStart (kept_ite (kept_btbInvStart (kept_wr h)) (kept_wr h))
    · exact kept_ite (kept_btbInvStart (kept_wr h)) (kept_wr h)

theorem kept_tbWrite (h : Kept r s) {q n v} : KeptW r (tbWrite s q n v) := by
  simp only [tbWrite]
  split
  · exact kept_wOpt (kept_tbCtlWrite h)
  · exact kept_wIdle h
  · exact kept_wIdle h
  · exact kept_assertMoved (kept_plainWrite h)
  · exact kept_tbPhaseWrite h
  · exact kept_tbPhaseWrite h
  · exact kept_ite (kept_captureEffect h) h
  · exact kept_plainWrite h

theorem kept_cmpWrite (h : Kept r s) {i q m off v} : KeptW r (cmpWrite s i q m off v) := by
  simp only [cmpWrite]
  split
  · exact kept_cmpCtlAccess h
  · exact kept_wIdle h
  · exact kept_wIdle h
  · exact kept_wIf (kept_wr h)
  · exact kept_wIf (kept_wr h)
  · exact kept_plainWrite h

theorem kept_tbuWrite (h : Kept r s) {i q v} : KeptW r (tbuWrite s i q v) := by
  unfold tbuWrite
  split
  · split
    · exact kept_assertMoved (kept_plainWrite h)
    · exact kept_wOpt (kept_axleCtlWrite h)
    · exact kept_plainWrite h
  · refine keptW_ite (kept_tbWrite h) (keptW_ite (@kept_cmpWrite r s h i q _ _ v) ?_)
    generalize q.off - 0x100 = o
    exact keptW_ite (kept_encCtlEffect h) (kept_plainWrite h)

theorem kept_gpeWrite (h : Kept r s) {q v} : KeptW r (gpeWrite s q v) := by
  simp only [gpeWrite]
  split
  · exact kept_wIf (kept_plainWrite h)
  · exact kept_wOpt (kept_gpeCtlWrite h)
  · exact kept_gpeStartEffect h
  · exact kept_wClamp (kept_wr h)
  · exact kept_wClamp (kept_wr h)
  · exact kept_gpeForceWrite h
  · exact kept_plainWrite h

theorem kept_sdmWrite (h : Kept r s) {q v} : KeptW r (sdmWrite s q v) := by
  simp only [sdmWrite]
  refine keptW_ite (kept_wOpt (kept_sdmClkWrite h)) ?_
  refine keptW_ite ?_ ?_
  · exact keptW_ite (kept_wOpt (kept_sdmCtlWrite h)) (kept_plainWrite h)
  · refine keptW_ite ?_ ?_
    · exact keptW_ite (kept_wOpt (kept_sdpCtlWrite h)) (kept_plainWrite h)
    · exact keptW_ite (kept_wOpt (kept_snapMaskWrite h)) (keptW_ite (kept_wIf (kept_plainWrite h)) (kept_plainWrite h))

theorem kept_evrWrite (h : Kept r s) {i q v} : KeptW r (evrWrite s i q v) := by
  simp only [evrWrite]
  refine keptW_ite ?_ ?_
  · exact keptW_ite (kept_evrOwnEffect h) (kept_plainWrite h)
  · split
    · exact kept_evrCfgEffect h
    · exact keptW_ite trivial (kept_ite (kept_setSrc h) h)
    · exact kept_setcfgEffect h
    · exact kept_evrRaiseEffect h
    · exact keptW_ite trivial (kept_plainWrite h)
    · exact keptW_ite (kept_poolMaskEffect h) (kept_plainWrite h)

theorem kept_coreWrite (h : Kept r s) {i q v} : KeptW r (coreWrite s i q v) := by
  simp only [coreWrite]
  split
  · refine keptW_ite (kept_ptbEffect h) ?_
    exact keptW_ite (kept_wOpt (kept_tlbiEffect h)) (keptW_ite (kept_gtbEffect h) (kept_plainWrite h))
  · refine keptW_ite (kept_wOpt (kept_lvlenWrite h)) ?_
    exact keptW_ite h (keptW_ite (kept_wOpt (kept_entryWrite h)) (kept_plainWrite h))
  · exact keptW_ite (kept_wClamp (kept_feCtlEffect h)) (kept_plainWrite h)
  · exact keptW_ite (kept_wIf (kept_plainWrite h)) (keptW_ite (kept_wOpt (kept_releaseWrite h)) (kept_plainWrite h))
  · exact keptW_ite (kept_wOpt (kept_cacheOpEffect h)) (kept_plainWrite h)
  · exact keptW_ite (kept_wOpt (kept_mbxoutEffect h)) (keptW_ite (kept_wOpt (kept_rdataPut h)) (kept_plainWrite h))
  · exact kept_plainWrite h

theorem kept_cntWrite (h : Kept r s) {q v} : KeptW r (cntWrite s q v) := keptW_ite (kept_plainWrite h) (kept_plainWrite h)

theorem kept_dieWrite (h : Kept r s) {i q v} : KeptW r (dieWrite s i q v) :=
  keptW_ite (kept_plainWrite h) (keptW_ite (kept_wOpt (kept_partCmd h)) (keptW_ite (kept_wOpt (kept_partModesEffect h))
    (keptW_ite (kept_wOpt (kept_l3waysEffect h)) (keptW_ite (kept_wOpt (kept_partCoresEffect h)) (kept_wIdle h)))))

theorem kept_fabWrite (h : Kept r s) {q v} : KeptW r (fabWrite s q v) := by
  simp only [fabWrite]
  refine keptW_ite (kept_wOpt (kept_rcfgEffect h)) ?_
  refine keptW_ite (kept_wOpt (kept_routeCommitEffect h)) ?_
  refine keptW_ite (kept_ite h (kept_plainWrite h)) ?_
  exact keptW_ite (kept_statsCfgEffect h) (keptW_ite (kept_wOpt (kept_fsrcEffect h)) (kept_plainWrite h))

theorem kept_smgWrite (h : Kept r s) {q v} : KeptW r (smgWrite s q v) := by
  simp only [smgWrite]
  split
  · exact kept_wIf (kept_plainWrite h)
  · exact kept_wIf (kept_plainWrite h)
  · exact kept_wIdle h
  · exact kept_plainWrite h

theorem kept_mcpWrite (h : Kept r s) {q v} : KeptW r (mcpWrite s q v) := by
  simp only [mcpWrite]
  refine keptW_ite ?_ ?_
  · exact keptW_ite (kept_wOpt (kept_pairEffect h)) (kept_plainWrite h)
  · split
    · exact kept_wOpt (kept_mcpCtlWrite h)
    · exact kept_plainWrite h
    · exact kept_plainWrite h
    · exact kept_wIdle h

theorem kept_dmcWrite (h : Kept r s) {i q v} : KeptW r (dmcWrite s i q v) := by
  simp only [dmcWrite]
  refine keptW_ite (kept_wOpt (kept_dmcCommand h)) ?_
  refine keptW_ite ?_ ?_
  · exact keptW_ite (kept_unitAbsent h) (keptW_ite (kept_wOpt (kept_dmcMapEffect h)) h)
  · refine keptW_ite (kept_wOpt (kept_slotctlEffect h)) ?_
    refine keptW_ite (kept_setDmc (kept_plainWrite h)) ?_
    refine keptW_ite (kept_wOpt (kept_dmcSweepEffect h)) ?_
    split
    · exact trivial
    · exact kept_wClamp (kept_plainWrite h)

theorem kept_qeWrite (h : Kept r s) {i q v} : KeptW r (qeWrite s i q v) := by
  simp only [qeWrite]
  refine keptW_ite ?_ ?_
  · exact keptW_ite (kept_wOpt (kept_qeOwnEffect h)) (keptW_ite (kept_wIdle h) (kept_plainWrite h))
  · split
    · exact kept_enqStart h
    · exact kept_deqStart h
    · exact kept_ringRegWrite h (fun _ _ ht => kept_rcfgWrite ht)
    · exact kept_ringRegWrite h (fun _ _ ht => keptO_ite keptO_none (keptO_some (kept_setRing ht)))
    · exact kept_ringRegWrite h (fun _ _ ht => keptO_ite keptO_none (keptO_some (kept_setRing ht)))
    · exact kept_ringRegWrite h (fun _ _ ht => keptO_ite keptO_none (keptO_some (kept_setRing ht)))
    · exact keptW_ite trivial (kept_plainWrite h)
    · exact kept_dmaRegWrite h (fun _ _ ht => kept_dctlWrite ht)
    · exact kept_dmaRegWrite h (fun _ _ ht => keptO_ite keptO_none (keptO_some (kept_setDma ht)))
    · exact kept_dmaAbort (kept_takeFree h)
    · exact kept_plainWrite h

theorem kept_hpWrite (h : Kept r s) {p q v} : KeptW r (hpWrite s p q v) :=
  keptW_ite (kept_plainWrite h) (keptW_ite (kept_wOpt (kept_hpMapEffect h)) (keptW_ite (kept_wOpt (kept_vmapEffect h)) (kept_plainWrite h)))

theorem kept_ethWrite (h : Kept r s) {q v} : KeptW r (ethWrite s q v) := by
  simp only [ethWrite]
  refine keptW_ite (kept_wOpt (kept_frerEffect h)) ?_
  split
  · exact kept_wOpt (kept_ethCtlEffect h)
  · exact kept_ptpStepEffect h
  · exact kept_wOpt (kept_gclEffect h)
  · exact keptW_ite (kept_wIf (kept_plainWrite h)) (keptW_ite (kept_wIf (kept_plainWrite h)) (kept_plainWrite h))

theorem kept_serWrite (h : Kept r s) {q v} : KeptW r (serWrite s q v) := by
  simp only [serWrite]
  split
  · split
    · exact kept_wr h
    · exact trivial
  · split
    · exact kept_wClamp (kept_wr h)
    · exact trivial
  · exact kept_plainWrite h

theorem kept_gpioWrite (h : Kept r s) {q v} : KeptW r (gpioWrite s q v) := keptW_ite (kept_wClamp (kept_wr h)) (kept_plainWrite h)

theorem kept_pslWrite (h : Kept r s) {q v} : KeptW r (pslWrite s q v) :=
  keptW_ite (keptW_ite (kept_wClamp (kept_pslCtlNow h)) (keptW_ite (kept_wIf (kept_plainWrite h)) (kept_plainWrite h)))
    (keptW_ite (kept_pslPortCtl h) (kept_plainWrite h))

theorem kept_pwrWrite (h : Kept r s) {q v} : KeptW r (pwrWrite s q v) := by
  simp only [pwrWrite]
  split
  · exact kept_wOpt (kept_envelopeEffect h)
  · exact kept_wOpt (kept_emissionEffect h)
  · exact kept_wOpt (kept_pwrCtlEffect h)
  · exact kept_wOpt (kept_domCmdEffect h)
  · exact kept_clkSettle (kept_plainWrite h)
  · exact keptW_ite (kept_wClamp (kept_clkEffect h)) (kept_plainWrite h)

theorem kept_psrcWrite (h : Kept r s) {q v} : KeptW r (psrcWrite s q v) := keptW_ite trivial (kept_assertMoved (kept_plainWrite h))

theorem kept_bseWriteReg (h : Kept r s) {i q v} : KeptW r (bseWriteReg s i q v) :=
  keptW_ite (keptW_ite (kept_wOpt (kept_bseCmdEffect h)) (keptW_ite (kept_wOpt (kept_rcvEffect h)) (kept_plainWrite h)))
    (keptW_ite (kept_wOpt (kept_bsePartEffect h)) (keptW_ite (kept_psrcWrite h) (kept_plainWrite h)))

theorem kept_dbgWrite (h : Kept r s) {q v} : KeptW r (dbgWrite s q v) := by
  simp only [dbgWrite]
  refine keptW_ite ?_ ?_
  · split
    · exact kept_bscanJudge (kept_plainWrite h)
    · exact kept_gfreezeEffect h
    · exact kept_snaptimeEffect h
    · exact kept_dbgRevokeEffect h
    · exact kept_plainWrite h
  · split
    · exact kept_wdPeriodEffect h
    · exact kept_wdsvcEffect h
    · exact kept_wIf (kept_plainWrite h)
    · exact kept_psrcWrite h
    · exact kept_plainWrite h

theorem kept_lnsWrite (h : Kept r s) {i q v} : KeptW r (lnsWrite s i q v) := by
  simp only [lnsWrite]
  refine keptW_ite (kept_plainWrite h) ?_
  split
  · exact kept_wOpt (kept_lnsCtlEffect h)
  · exact kept_ite (kept_recordPageErr (kept_lnsPrivEffect h)) (kept_lnsPrivEffect h)
  · exact kept_rdaddrEffect h
  · exact kept_psrcWrite h
  · exact kept_plainWrite h

theorem kept_blockWrite (h : Kept r s) {i q v} : KeptW r (blockWrite s i q v) := by
  simp only [blockWrite]
  split
  · exact kept_tbuWrite h
  · exact kept_gpeWrite h
  · exact kept_sdmWrite h
  · exact kept_evrWrite h
  · exact kept_coreWrite h
  · split
    · exact kept_wOpt (kept_loopsWrite h)
    · exact h
  · exact kept_cntWrite h
  · exact kept_dieWrite h
  · exact keptW_ite (kept_wClamp (kept_homCtlEffect h)) (kept_plainWrite h)
  · exact kept_fabWrite h
  · exact keptW_ite (kept_wClamp (kept_d2dCtlEffect h)) (kept_plainWrite h)
  · exact kept_smgWrite h
  · exact kept_mcpWrite h
  · exact kept_dmcWrite h
  · exact kept_qeWrite h
  · exact kept_hpWrite h
  · exact kept_hpWrite h
  · refine keptW_ite (kept_setSpa h) ?_
    exact keptW_ite (kept_setSpa h) (keptW_ite (kept_ite (kept_update h) (kept_failAccess h)) h)
  · exact kept_ethWrite h
  · exact keptW_ite (kept_wOpt (kept_canCtlEffect h)) (kept_plainWrite h)
  · exact kept_serWrite h
  · exact kept_gpioWrite h
  · exact kept_pslWrite h
  · exact kept_pwrWrite h
  · split
    · rename_i e
      exact kept_wClamp (keptOP_of_eq e (kept_hupEffect h))
    · exact trivial
  · exact keptW_ite (kept_wOpt (kept_jrnCtlEffect h)) (kept_wIdle h)
  · exact kept_bseWriteReg h
  · exact kept_dbgWrite h
  · exact kept_lnsWrite h
  · exact keptW_ite (kept_wOpt (kept_errCopyEffect h)) (keptW_ite (kept_wIdle h) (kept_plainWrite h))
  · exact kept_plainWrite h
  · exact kept_plainWrite h
  · exact kept_plainWrite h

theorem kept_mwEffect (h : Kept r s) {i q v mirror} : Kept r (mwEffect s i q v mirror) := by
  simp only [mwEffect]
  refine kept_ite (kept_wdServiceNow (kept_takeFree h)) ?_
  refine kept_ite (kept_mwMismatch h) ?_
  refine kept_ite ?_ ?_
  · split
    · rename_i e
      exact keptO_ite (kept_smgCommand h) (kept_wdCtlWrite h) _ e
    · exact kept_refuse h
  · split
    · rename_i e
      exact keptW_done e (kept_blockWrite h)
    · rename_i e
      exact kept_clampNote (keptW_clamp e (kept_blockWrite h))
    · exact kept_failAccess h

theorem kept_ownerWrite (h : Kept r s) {q v} : Kept r (ownerWrite s q v) := kept_wr h

theorem kept_evtBits (h : Kept r s) {q v on} : Kept r (evtBits s q v on) := kept_ite h (kept_setEvt h)

theorem kept_commonWrite (h : Kept r s) {q v} : Kept r (commonWrite s q v) := by
  simp only [commonWrite]
  split
  · exact kept_ownerWrite h
  · exact kept_evtBits h
  · exact kept_ite h (kept_setEvt h)
  · exact kept_evtBits h
  · exact kept_evtBits h
  · exact kept_ite (kept_wdFreeze (kept_wr h)) h
  · exact kept_ite (kept_wr h) h
  · exact h

theorem kept_regWriteNow (h : Kept r s) {i q v mirror} : Kept r (regWriteNow s i q v mirror) := by
  simp only [regWriteNow]
  refine kept_ite (kept_failAccess h) ?_
  refine kept_ite (kept_failAccess h) ?_
  refine kept_ite (kept_respOk (kept_commonWrite h)) ?_
  refine kept_ite (kept_failAccess h) ?_
  refine kept_ite (kept_respOk h) ?_
  refine kept_ite (kept_respOk (kept_recordPageErr h)) ?_
  refine kept_ite (kept_mwEffect (kept_respOk h)) ?_
  split
  · rename_i e
    exact keptW_done e (kept_blockWrite (kept_respOk h))
  · rename_i e
    exact kept_clampNote (keptW_clamp e (kept_blockWrite (kept_respOk h)))
  · exact kept_failAccess h

theorem kept_dataPut (h : Kept r s) {i q l} : Kept r (dataPut s i q l) := by
  simp only [dataPut]
  split
  · exact kept_refuse h
  · exact kept_ite (kept_dpWrite h) (kept_refuse h)
  · exact kept_ite (kept_update h) (kept_failAccess h)
  · exact kept_dpWrite h

theorem kept_dataGet (h : Kept r s) {i q n} : Kept r (dataGet s i q n) := by
  simp only [dataGet]
  split
  · exact kept_respOk h
  · exact kept_ite (kept_respOk (kept_update (kept_takeFree h))) (kept_failAccess h)
  · exact kept_respOk h

theorem kept_dataAccess (h : Kept r s) {i q width w} : Kept r (dataAccess s i q width w) := by
  simp only [dataAccess]
  split
  · exact kept_regWrite h (fun _ ht => kept_dataPut ht)
  · exact kept_regRead h (fun _ ht => kept_dataGet ht)

theorem kept_writeReg (h : Kept r s) {i q width v mirror} : Kept r (writeReg s i q width v mirror) :=
  kept_ite (kept_dataAccess h) (kept_ite (kept_refuseDark h) (kept_ite (kept_absentAccess h)
    (kept_ite (kept_failAccess h) (kept_ite (kept_semWrite h) (kept_regWriteNow h)))))

/-! ## Accesses by address and through windows -/

theorem kept_strayAccess (h : Kept r s) {i a} : Kept r (strayAccess s i a) := by
  simp only [strayAccess]
  split
  · exact kept_ite (kept_respErr (kept_logErr h)) (kept_respOk h)
  · exact kept_respOk h

theorem kept_loadReg (h : Kept r s) {i q width} : Kept r (loadReg s i q width) := kept_ite (kept_dataAccess h) (kept_readReg h)

theorem kept_pageRead (h : Kept r s) {i a width} : Kept r (pageRead s i a width) := by
  simp only [pageRead]
  refine kept_ite (kept_amminRead h) ?_
  split
  · exact kept_loadReg h
  · exact kept_strayAccess h

theorem kept_windowErr (h : Kept r s) {i c off code} : Kept r (windowErr s i c off code) := kept_respErr (kept_logErr h)

theorem kept_aliasRead (h : Kept r s) {i c off n} : Kept r (aliasRead s i c off n) := by
  unfold aliasRead
  refine kept_ite ?_ ?_
  · split
    · exact kept_ite (kept_readReg h) (kept_failAccess h)
    · exact kept_ite (kept_respOk h) (kept_windowErr h)
  · cases windowRefuses s i c off n with
    | some e => exact kept_windowErr h
    | none =>
      cases memRead s (aliasAddr c off) n with
      | err e => exact kept_windowErr h
      | data l p => exact kept_ite (kept_respErr h) (kept_respOk h)

theorem kept_vaddrEffect (h : Kept r s) {p v} : Kept r (vaddrEffect s p v) := by
  simp only [vaddrEffect]
  split
  · exact kept_wr (kept_update h)
  · exact kept_recordPageErr (kept_wr (kept_update h))
  · exact kept_wr (kept_update h)

theorem kept_vaddrAccess (h : Kept r s) {i p width v} : Kept r (vaddrAccess s i p width v) :=
  kept_regWrite h (fun _ ht => kept_vaddrEffect ht)

theorem kept_storeReg (h : Kept r s) {i q width v mirror} : Kept r (storeReg s i q width v mirror) :=
  kept_ite (kept_vaddrAccess h) (kept_writeReg h)

theorem kept_pageWrite (h : Kept r s) {i a width v mirror} : Kept r (pageWrite s i a width v mirror) := by
  simp only [pageWrite]
  refine kept_ite (kept_amminRefuse h) ?_
  split
  · exact kept_storeReg h
  · exact kept_strayAccess h

theorem kept_aliasWrite (h : Kept r s) {i c off l mirror} : Kept r (aliasWrite s i c off l mirror) := by
  unfold aliasWrite
  refine kept_ite ?_ ?_
  · split
    · exact kept_ite (kept_storeReg h) (kept_failAccess h)
    · exact kept_ite (kept_respOk h) (kept_windowErr h)
  · cases windowRefuses s i c off l.length with
    | some e => exact kept_windowErr h
    | none =>
      cases e : memWrite s (aliasAddr c off) l false with
      | ok t => exact kept_respOk (keptE_of_eq e (kept_memWrite h))
      | error e => exact kept_respErr (kept_logBusErr h)

theorem kept_execAbsentBlockAccess {i t _write} (h : Kept r s) : KeptOut r (execAbsentBlockAccess i t _write s) := by
  simp only [execAbsentBlockAccess]
  refine keptOut_next ?_
  split
  · exact kept_ite (kept_absentAccess h) h
  · exact kept_ite (kept_windowErr h) h

theorem kept_execGlobalAliasAccess {i c off width wr} (h : Kept r s) : KeptOut r (execGlobalAliasAccess i c off width wr s) := by
  simp only [execGlobalAliasAccess]
  refine keptOut_next ?_
  split
  · exact kept_aliasWrite h
  · exact kept_aliasRead h

theorem kept_hostAnswer (h : Kept r s) : Kept r (hostAnswer s) := by
  simp only [hostAnswer]
  split
  · exact kept_ite h (kept_respErr h)
  · exact h

theorem kept_hpDram (h : Kept r s) {i a t} : Kept r (hpDram s i a t) := by
  simp only [hpDram]
  split
  · refine kept_ite (kept_respErr (kept_logBusErr h)) ?_
    refine kept_ite (kept_respErr (kept_logBusErr h)) ?_
    split
    · exact kept_respErr (kept_logBusErr h)
    · exact kept_ite (kept_respErr h) (kept_update h)
  · refine kept_ite (kept_respErr (kept_logBusErr h)) ?_
    refine kept_ite (kept_respErr (kept_logBusErr h)) ?_
    split
    · rename_i e
      exact kept_respOk (kept_agWrite h _ e)
    · exact kept_respErr (kept_logBusErr h)

theorem kept_hpServe (h : Kept r s) {p f i bar off t} : Kept r (hpServe s p f i bar off t) := by
  simp only [hpServe]
  refine kept_ite ?_ ?_
  · refine kept_hostAnswer ?_
    split
    · exact kept_pageRead h
    · exact kept_pageWrite h
  · refine kept_ite (kept_hostAnswer (kept_hpDram h)) ?_
    refine kept_ite ?_ ?_
    · refine kept_hostAnswer ?_
      split
      · exact kept_aliasRead h
      · exact kept_aliasWrite h
    · refine kept_ite ?_ ?_
      · split
        · exact kept_update h
        · exact kept_respOk (kept_msixWrite h)
      · refine kept_ite ?_ (kept_respErr h)
        split
        · exact kept_update h
        · exact kept_respOk h

theorem kept_execHpInboundRequest {port fn bar off tlp} (h : Kept r s) : KeptOut r (execHpInboundRequest port fn bar off tlp s) := by
  simp only [execHpInboundRequest]
  refine keptOut_next ?_
  refine kept_ite h ?_
  refine kept_ite (kept_respErr h) ?_
  split
  · exact kept_respOk (kept_logErr h)
  · exact kept_hpServe h

/-! ## Loads and stores of a core -/

theorem kept_raiseXl (h : Kept r s) {c f} : Kept r (raiseXl s c f).1 := by
  simp only [raiseXl]
  split
  · refine kept_ite ?_ ?_
    · refine kept_logErr ?_
      split
      · exact kept_wr h
      · exact h
    · refine kept_logFailed ?_
      split
      · exact kept_wr h
      · exact h
  · split
    · exact kept_wr h
    · exact h

theorem kept_countFetches (h : Kept r s) {c l} : Kept r (countFetches s c l) :=
  kept_foldl h (fun _ _ ht => kept_ite ht (kept_ite (kept_countReg ht) (kept_countEvt ht)))

theorem kept_issueFetch (h : Kept r s) {c pc words} : Kept r (issueFetch s c pc words) := kept_countFetches (kept_setCore h)

theorem kept_killFetch (h : Kept r s) {c} : Kept r (killFetch s c) := kept_countFetches (kept_setCore h)

theorem kept_checkArrays (h : Kept r s) {c a n} : Kept r (checkArrays s c a n).1 :=
  kept_fst_ite h (kept_foldl (kept_setCore h) (fun _ _ ht => kept_setPoison ht))

theorem kept_loadCheck (h : Kept r s) {c a n} : Kept r (loadCheck s c a n) := by
  simp only [loadCheck]
  split
  · rename_i e
    exact kept_fst (kept_checkArrays h) e
  · rename_i e
    exact kept_countFetches (kept_setCore (kept_fst (kept_checkArrays h) e))

theorem kept_answered (h : Kept r t) {c va pa n} : Kept r (answered s t c va pa n).1 := by
  simp only [answered]
  split
  · exact kept_update h
  · exact kept_update h
  · exact kept_ite (kept_logErr (kept_update h)) (kept_update h)
  · exact kept_update h

theorem kept_hostLoad (h : Kept r s) {c va pa n} : Kept r (hostLoad s c va pa n).1 := by
  simp only [hostLoad]
  split
  · exact kept_fst_ite (kept_setCore h) (kept_setCore h)
  · split
    · exact kept_logErr h
    · exact kept_takeFree h

theorem kept_hostAsk (h : Kept r s) {c priv va n} : KeptO r (hostAsk s c priv va n) := by
  simp only [hostAsk]
  split
  · exact keptO_none
  · refine keptO_ite keptO_none ?_
    exact keptO_ite (keptO_some h) (keptO_ite keptO_none (keptO_some (kept_update (kept_hostRead h))))

theorem kept_physRead (h : Kept r s) {c va pa attr n} : Kept r (physRead s c va pa attr n).1 := by
  simp only [physRead]
  generalize hu : loadCheck _ c _ n = u
  have hu : Kept r u := hu ▸ kept_loadCheck (kept_ite h (kept_cacheLines h))
  split
  · exact kept_answered (kept_pageRead hu)
  · exact kept_answered (kept_aliasRead hu)
  · exact kept_answered (kept_aliasRead hu)
  · exact kept_hostLoad hu
  all_goals
    split
    · exact kept_logErr hu
    · exact kept_fst_ite (kept_logErr hu) hu

theorem kept_dataRead (h : Kept r s) {c priv va n way} : Kept r (dataRead s c priv va n way).1 := by
  simp only [dataRead]
  refine kept_fst_ite h ?_
  split
  · rename_i e
    exact kept_raiseXl (kept_fst (kept_translate h) e)
  · split
    · rename_i e _ _ _
      exact kept_fst (kept_translate h) e
    · split
      · rename_i e1 _ _ _ _ _ e
        exact kept_fst (kept_physRead (kept_fst (kept_translate h) e1)) e
      · rename_i e1 _ _ _ _ _ e
        exact kept_fst (kept_physRead (kept_fst (kept_translate h) e1)) e

theorem kept_pendImprecise (h : Kept r s) {c l e} : Kept r (pendImprecise s c l e) := kept_setCore h

theorem kept_storeErr (h : Kept r s) {c va code precise} : Kept r (storeErr s c va code precise).1 := kept_fst_ite h (kept_pendImprecise h)

theorem kept_stored (h : Kept r t) {c va precise} : Kept r (stored s t c va precise).1 := by
  simp only [stored]
  split
  · exact kept_storeErr (kept_update h)
  · exact kept_update h

theorem kept_mirStore (h : Kept r s) {c va pa l} : Kept r (mirStore s c va pa l).1 := by
  simp only [mirStore]
  split
  · exact kept_logErr h
  · exact kept_stored (kept_mirWrite h)

theorem kept_physWrite (h : Kept r s) {c va pa attr l way half} : Kept r (physWrite s c va pa attr l way half).1 := by
  simp only [physWrite]
  split
  · exact kept_stored (kept_pageWrite h)
  · exact kept_fst_ite (kept_coreStore h) (kept_stored (kept_aliasWrite h))
  · exact kept_fst_ite (kept_coreStore h) (kept_stored (kept_aliasWrite h))
  · split
    · exact kept_storeErr (kept_logErr h)
    · exact kept_update (kept_hostWrite h)
  all_goals
    refine kept_fst_ite (kept_mirStore h) ?_
    split
    · exact kept_storeErr (kept_logErr h)
    · exact kept_coreStore (kept_cacheLines h)

theorem kept_dataWrite (h : Kept r s) {c priv va l way await} : Kept r (dataWrite s c priv va l way await).1 := by
  simp only [dataWrite]
  refine kept_fst_ite h ?_
  split
  · rename_i e
    exact kept_raiseXl (kept_fst (kept_translate h) e)
  · split
    · rename_i e _ _ _
      exact kept_fst (kept_translate h) e
    · split
      · rename_i e1 _ _ _ _ e
        exact kept_fst (kept_physWrite (kept_fst (kept_translate h) e1)) e
      · rename_i e1 _ _ _ _ _ e
        exact kept_fst (kept_physWrite (kept_fst (kept_translate h) e1)) e

theorem kept_translateHalves (h : Kept r s) {c priv va n acc} : Kept r (translateHalves s c priv va n acc).1 := by
  simp only [translateHalves]
  split
  · rename_i e
    exact kept_raiseXl (kept_fst (kept_translate h) e)
  · split
    · rename_i e1 _ _ _ e
      exact kept_raiseXl (kept_fst (kept_translate (kept_fst (kept_translate h) e1)) e)
    · rename_i e1 _ _ _ e
      refine kept_fst_ite ?_ ?_
      · exact kept_fst (kept_translate (kept_fst (kept_translate h) e1)) e
      · exact kept_fst (kept_translate (kept_fst (kept_translate h) e1)) e

theorem kept_emuRead (h : Kept r s) {c priv va n} : Kept r (emuRead s c priv va n).1 := by
  simp only [emuRead]
  split
  · rename_i e
    exact kept_fst (kept_translateHalves h) e
  · split
    · rename_i e1 _ _ _ e
      exact kept_fst (kept_physRead (kept_fst (kept_translateHalves h) e1)) e
    · split
      · rename_i e2 _ _ _ e1 _ _ _ e
        exact kept_fst (kept_physRead (kept_fst (kept_physRead (kept_fst (kept_translateHalves h) e2)) e1)) e
      · rename_i e2 _ _ _ e1 _ _ _ e
        exact kept_fst (kept_physRead (kept_fst (kept_physRead (kept_fst (kept_translateHalves h) e2)) e1)) e

theorem kept_emuWrite (h : Kept r s) {c priv va l} : Kept r (emuWrite s c priv va l).1 := by
  simp only [emuWrite]
  split
  · rename_i e
    exact kept_fst (kept_translateHalves h) e
  · split
    · rename_i e1 _ _ _ e
      exact kept_fst (kept_physWrite (kept_fst (kept_translateHalves h) e1)) e
    · split
      · rename_i e2 _ _ e1 _ _ _ e
        exact kept_fst (kept_physWrite (kept_fst (kept_physWrite (kept_fst (kept_translateHalves h) e2)) e1)) e
      · rename_i e2 _ _ e1 _ _ e
        exact kept_fst (kept_physWrite (kept_fst (kept_physWrite (kept_fst (kept_translateHalves h) e2)) e1)) e

theorem kept_anyRead (h : Kept r s) {c priv va n} : Kept r (anyRead s c priv va n).1 := kept_fst_ite (kept_emuRead h) (kept_dataRead h)

theorem kept_anyWrite (h : Kept r s) {c priv va l} : Kept r (anyWrite s c priv va l).1 := kept_fst_ite (kept_emuWrite h) (kept_dataWrite h)

theorem kept_load64 (h : Kept r s) {c priv a} : Kept r (load64 s c priv a).1 := by
  simp only [load64]
  split
  · rename_i e
    exact kept_fst (kept_dataRead h) e
  · rename_i e
    exact kept_fst (kept_dataRead h) e

theorem kept_store64 (h : Kept r s) {c priv a v} : Kept r (store64 s c priv a v).1 := by
  simp only [store64]
  split
  · rename_i e
    exact kept_fst (kept_dataWrite h) e
  · rename_i e
    exact kept_fst (kept_dataWrite h) e

theorem kept_loadMany (h : Kept r s) {c priv a n} : Kept r (loadMany s c priv a n).1 := by
  induction n generalizing s a with
  | zero => exact h
  | succ n ih =>
    simp only [loadMany]
    split
    · rename_i e
      exact kept_fst (kept_load64 h) e
    · rename_i e
      have ht := ih (kept_fst (kept_load64 h) e) (a := a + 8)
      split <;> rename_i e1 <;> exact kept_fst ht e1

theorem kept_storeMany (h : Kept r s) {c priv a l} : Kept r (storeMany s c priv a l).1 := by
  induction l generalizing s a with
  | nil => exact h
  | cons v l ih =>
    simp only [storeMany]
    split
    · rename_i e
      exact kept_fst (kept_store64 h) e
    · rename_i e
      exact ih (kept_fst (kept_store64 h) e)

theorem kept_countN (h : Kept r s) {c code n} : Kept r (countN s c code n) := kept_countEvt h

theorem kept_restoreMem (h : Kept r s) (h1 : Kept r t) : Kept r (restoreMem s t) :=
  ⟨h1.part, h1.serial, h1.life, h1.pending, h.memOk⟩

theorem kept_spill (h : Kept r s) {c} : Kept r (spill s c).1 := by
  simp only [spill]
  split
  · rename_i e
    exact kept_restoreMem h (kept_fst (kept_storeMany h) e)
  · rename_i e
    exact kept_countN (kept_setCore (kept_fst (kept_storeMany h) e))

theorem kept_spillTo {n c k} (h : Kept r s) : Kept r (spillTo n c k s).1 := by
  induction k generalizing s with
  | zero => exact h
  | succ k ih =>
    simp only [spillTo]
    refine kept_fst_ite h ?_
    split
    · rename_i e
      exact kept_fst (kept_spill h) e
    · rename_i e
      exact ih (kept_fst (kept_spill h) e)

theorem kept_fill (h : Kept r s) {c priv pf} : Kept r (fill s c priv pf).1 := by
  simp only [fill]
  split
  · rename_i e
    exact kept_fst (kept_loadMany h) e
  · rename_i e
    exact kept_countN (kept_setCore (kept_fst (kept_loadMany h) e))

/-! ## Bank switches, exceptions and debug entry -/

theorem kept_fetchXl (h : Kept r s) {c priv va} : Kept r (fetchXl s c priv va).1 := by
  simp only [fetchXl]
  refine kept_fst_ite h ?_
  split
  · rename_i e
    exact kept_raiseXl (kept_fst (kept_translate h) e)
  · rename_i e
    exact kept_fst_ite (kept_fst (kept_translate h) e) (kept_fst (kept_translate h) e)

theorem kept_fetchFault (h : Kept r s) {c priv va} : Kept r (fetchFault s c priv va).1 := by
  simp only [fetchFault]
  split
  · rename_i e
    exact kept_fst (kept_fetchXl h) e
  · rename_i e
    refine kept_fst_ite (kept_fst (kept_fetchXl h) e) ?_
    split
    · exact kept_logFailed (kept_fst (kept_fetchXl h) e)
    · exact kept_fst_ite (kept_logErr (kept_fst (kept_fetchXl h) e)) (kept_fst (kept_fetchXl h) e)

theorem kept_resumeEvent (h : Kept r s) {c l} : Kept r (resumeEvent s c l) := by
  simp only [resumeEvent]
  split
  · exact h
  · exact kept_countEvt (kept_ite (kept_setCore h) (kept_setSrc (kept_setCore h)))

theorem kept_leaveBank (h : Kept r s) {c} : Kept r (leaveBank s c) := kept_setCore (kept_killFetch h)

theorem kept_makeCurrent (h : Kept r s) {c l} : Kept r (makeCurrent s c l) := kept_countCur (kept_setCore (kept_leaveBank h))

theorem kept_switchTo (h : Kept r s) {c l} : Kept r (switchTo s c l) :=
  kept_ite (kept_setCore (kept_resumeEvent (kept_makeCurrent h))) (kept_makeCurrent h)

theorem kept_thirdFault (h : Kept r s) {c cause pc} : Kept r (thirdFault s c cause pc) :=
  kept_setHeld (kept_coreHold (kept_smgReport (kept_logErr (kept_wr (kept_wr h)))))

theorem kept_doubleFault (h : Kept r s) {c l e kind first} : Kept r (doubleFault s c l e kind first) := by
  simp only [doubleFault]
  split
  · rename_i e1
    refine kept_thirdFault ?_
    refine kept_fst ?_ e1
    refine kept_fetchFault ?_
    refine kept_countCur ?_
    refine kept_setCore ?_
    refine kept_ite ?_ ?_
    · exact kept_leaveBank (kept_setCore (kept_wr (kept_wr (kept_wr (kept_wr (kept_wr h))))))
    · exact kept_makeCurrent (kept_setCore (kept_wr (kept_wr (kept_wr (kept_wr (kept_wr h))))))
  · refine kept_countCur ?_
    refine kept_setCore ?_
    refine kept_ite ?_ ?_
    · exact kept_leaveBank (kept_setCore (kept_wr (kept_wr (kept_wr (kept_wr (kept_wr h))))))
    · exact kept_makeCurrent (kept_setCore (kept_wr (kept_wr (kept_wr (kept_wr (kept_wr h))))))

theorem kept_pushFrame (h : Kept r s) {c l p e} : Kept r (pushFrame s c l p e).1 := by
  obtain ⟨f, hf⟩ : ∃ f, ((nth ((getCore s c).bank l).sp 0 p).toNat + 2 ^ 64 - 144) % 2 ^ 64 = f := ⟨_, rfl⟩
  simp only [pushFrame, hf]
  refine kept_fst_ite h (kept_fst_ite h ?_)
  split
  · rename_i e1
    exact kept_fst (kept_store64 h) e1
  · rename_i e1
    have ht := kept_fst (kept_store64 h) e1
    split <;> rename_i e2 <;> exact kept_fst (kept_store64 ht) e2

theorem kept_enterExc (h : Kept r s) {c e} : Kept r (enterExc s c e) := by
  simp only [enterExc]
  refine kept_ite (kept_doubleFault (kept_setCore h)) ?_
  refine kept_ite (kept_doubleFault (kept_setCore h)) ?_
  split
  · rename_i e1
    exact kept_doubleFault (kept_fst (kept_pushFrame (kept_setCore h)) e1)
  · split
    · rename_i e11 _ _ _ e1
      exact kept_doubleFault (kept_fst (kept_fetchFault (kept_fst (kept_pushFrame (kept_setCore h)) e11)) e1)
    · rename_i e11 _ _ e1
      refine kept_countCur ?_
      exact kept_killFetch (kept_setCore (kept_fst (kept_fetchFault (kept_fst (kept_pushFrame (kept_setCore h)) e11)) e1))

theorem kept_deliverImprecise (h : Kept r s) {c} : Kept r (deliverImprecise s c) := by
  simp only [deliverImprecise]
  split
  · exact h
  · exact kept_ite (kept_thirdFault h) (kept_enterExc (kept_setCore h))

theorem kept_raiseExc (h : Kept r s) {c f save} : Kept r (raiseExc s c f save) :=
  kept_ite (kept_thirdFault (kept_issueFetch h)) (kept_ite (kept_deliverImprecise (kept_issueFetch h)) (kept_enterExc (kept_issueFetch h)))

theorem kept_raiseFault (h : Kept r s) {c f} : Kept r (raiseFault s c f) := kept_raiseExc h

theorem kept_parityNote (h : Kept r s) {c v} : Kept r (parityNote s c v) := kept_logErr (kept_countReg (kept_wr h))

theorem kept_machineCheckNow (h : Kept r s) {c at_} : Kept r (machineCheckNow s c at_) :=
  kept_ite (kept_doubleFault h) (kept_ite (kept_enterExc (kept_setCore h)) (kept_enterExc (kept_setCore (kept_makeCurrent h))))

theorem kept_machineCheckRaise (h : Kept r s) {c} : Kept r (machineCheckRaise s c) :=
  kept_ite h (kept_ite (kept_setCore h) (kept_machineCheckNow h))

theorem kept_keepBad (h : Kept r s) {c v} : Kept r (keepBad s c v) := kept_ite h (kept_setCore h)

theorem kept_parityMet (h : Kept r s) {c v} : Kept r (parityMet s c v) := kept_machineCheckRaise (kept_parityNote (kept_keepBad h))

theorem kept_romStep (h : Kept r s) {c a stack cond} : Kept r (romStep s c a stack cond) :=
  kept_ite h (kept_ite (kept_parityMet h) (kept_ite (kept_machineCheckRaise h) h))

theorem kept_execMachineCheck {c m} (h : Kept r s) : KeptOut r (execMachineCheck c m s) := by
  simp only [execMachineCheck]
  refine keptOut_next ?_
  refine kept_ite h ?_
  split
  · exact kept_parityMet h
  · exact kept_parityMet h
  · exact kept_machineCheckRaise h
  · exact kept_romStep h

theorem kept_leaveWait (h : Kept r s) {c next} : Kept r (leaveWait s c next) := kept_ite (kept_machineCheckRaise (kept_setCore h)) h

theorem kept_execMcWaitTimeout {c} (h : Kept r s) : KeptOut r (execMcWaitTimeout c s) := by
  simp only [execMcWaitTimeout]
  refine keptOut_next ?_
  split
  · exact h
  · exact kept_ite h (kept_leaveWait (kept_countReg h))

theorem kept_dbgAbandon (h : Kept r s) {c} : Kept r (dbgAbandon s c) := kept_wf (kept_setCore h)

theorem kept_dbgEnter (h : Kept r s) {c} : Kept r (dbgEnter s c) := by
  simp only [dbgEnter]
  split
  · rename_i e
    exact kept_dbgAbandon (kept_fst (kept_pushFrame h) e)
  · rename_i e
    refine kept_wdFreeze ?_
    refine kept_stopUpdate ?_
    refine kept_ite ?_ ?_
    · exact kept_wb (kept_setCore (kept_makeCurrent (kept_fst (kept_pushFrame h) e)))
    · exact kept_setCore (kept_makeCurrent (kept_fst (kept_pushFrame h) e))

/-! ## Executing one instruction -/

theorem kept_setCur (h : Kept r s) {c b} : Kept r (setCur s c b) := kept_setCore h

theorem kept_wg (h : Kept r s) {c q v} : Kept r (wg s c q v) := kept_setCur h

theorem kept_fetchAdvance (h : Kept r s) {c pc np words} : Kept r (fetchAdvance s c pc np words) :=
  kept_ite (kept_setCore h) (kept_setCore (kept_killFetch h))

theorem kept_stepDone (h : Kept r s) {c l} : Kept r (stepDone s c l) := kept_ite (kept_setCore (kept_raiseDbg h)) h

theorem kept_retire (h : Kept r s) {c words next} : Kept r (retire s c words next) :=
  kept_stepDone (kept_setCore (kept_fetchAdvance (kept_setCore (kept_issueFetch (kept_countEvt h)))))

theorem kept_watch (h : Kept r s) {c va n store} : Kept r (watch s c va n store) := by
  simp only [watch]
  split
  · exact kept_raiseDbg h
  · exact h

theorem kept_saveCut (h : Kept r s) {c} : Kept r (saveCut s c) := by
  simp only [saveCut]
  split
  · exact kept_takeFree h
  · split
    · exact kept_takeFree h
    · rename_i e
      exact kept_memWriteBy (kept_takeFree h) _ e

theorem kept_lazyLoad (h : Kept r s) {c l cut} : KeptL r (lazyLoad s c l cut) := by
  simp only [lazyLoad]
  refine keptL_ite (kept_setCore h) ?_
  split
  · rename_i e
    exact kept_fst (kept_xstateLoad h) e
  · rename_i e
    exact kept_countCur (kept_fst (kept_xstateLoad h) e)

theorem kept_lazyHold (h : Kept r s) {c} : Kept r (lazyHold s c) := kept_setCore h

theorem kept_lazySeq (h : Kept r s) {c} : KeptL r (lazySeq s c) := by
  simp only [lazySeq]
  refine keptL_ite h ?_
  refine keptL_ite (kept_countCur (kept_setCore h)) ?_
  refine keptL_ite h ?_
  refine keptL_ite (kept_lazyLoad h) ?_
  refine keptL_ite (kept_lazyHold h) ?_
  refine keptL_ite ?_ ?_
  · exact kept_saveCut (kept_snd_ite (kept_takeFree (kept_setCore h)) (kept_setCore h))
  · split
    · rename_i e
      exact kept_fst (kept_xstateSave (kept_snd_ite (kept_takeFree (kept_setCore h)) (kept_setCore h))) e
    · rename_i e
      exact kept_lazyLoad (kept_fst (kept_xstateSave (kept_snd_ite (kept_takeFree (kept_setCore h)) (kept_setCore h))) e)

theorem kept_loopEndFault (h : Kept r s) {c pc} : Kept r (loopEndFault s c pc) := kept_raiseFault (kept_countReg h)

theorem kept_conclude {c words} {x : Exe} (hx : KeptX r x) : Kept r (conclude c words x) := by
  cases x with
  | done t next => exact kept_retire hx
  | mode t n v => exact kept_setCore (kept_retire hx)
  | fault t f => exact kept_raiseFault hx
  | _ => exact hx

theorem kept_execute (h : Kept r s) {c} {i : Ins} {body : State → Exe}
    (hbody : ∀ t, Kept r t → KeptX r (body t)) : Kept r (execute s c i body) := by
  simp only [execute]
  split
  · rename_i e
    exact kept_raiseFault (kept_fst (kept_fst_ite (kept_spill h) h) e)
  · rename_i e
    refine kept_ite ?_ ?_
    · exact kept_conclude (hbody _ (kept_fst (kept_fst_ite (kept_spill h) h) e))
    · split
      · rename_i e _ _ e1
        exact kept_conclude (hbody _ (keptL_ready e1 (kept_lazySeq (kept_fst (kept_fst_ite (kept_spill h) h) e))))
      · rename_i e _ _ e1
        exact keptL_wait e1 (kept_lazySeq (kept_fst (kept_fst_ite (kept_spill h) h) e))
      · rename_i e _ _ _ e1
        exact kept_raiseFault (keptL_fault e1 (kept_lazySeq (kept_fst (kept_fst_ite (kept_spill h) h) e)))

theorem kept_atId (h : Kept r s) {c} {go : State → State} (hgo : ∀ t, Kept r t → Kept r (go t)) : Kept r (atId s c go) := by
  simp only [atId]
  refine kept_ite h ?_
  refine kept_ite (kept_deliverImprecise h) ?_
  split
  · exact kept_raiseDbg h
  · exact hgo _ h

theorem kept_runInstr (h : Kept r s) {c g} {i : Ins} (hi : ∀ (t : State), Kept r t → Kept r (i.miss t)) {body : State → Exe}
    (hbody : ∀ t, Kept r t → KeptX r (body t)) : Kept r (runInstr s c g i body) :=
  kept_atId h (fun _ ht => kept_ite (kept_raiseFault ht) (kept_ite (kept_retire (hi _ ht))
    (kept_ite (kept_loopEndFault ht) (kept_execute ht (fun _ ht1 => hbody _ ht1)))))

theorem kept_execXstateLazy {c} (h : Kept r s) : KeptOut r (execXstateLazy c s) := by
  simp only [execXstateLazy]
  refine keptOut_next ?_
  refine kept_ite h ?_
  split
  · rename_i e
    exact keptL_ready e (kept_lazySeq h)
  · rename_i e
    exact keptL_wait e (kept_lazySeq h)
  · rename_i e
    exact kept_raiseFault (keptL_fault e (kept_lazySeq h))

theorem kept_btbPut (h : Kept r s) {c pc kind target} : Kept r (btbPut s c pc kind target) := by
  simp only [btbPut]
  refine kept_ite h ?_
  split
  · exact kept_setCore h
  · split
    · exact kept_setCore h
    · exact kept_setCore (kept_takeFree h)

theorem kept_mispredicted (h : Kept r s) {c kind cond taken next m} : Kept r (mispredicted s c kind cond taken next m) :=
  kept_countFetches (kept_setCore (kept_countCur h))

theorem kept_resolve (h : Kept r s) {c kind cond taken next} : Kept r (resolve s c kind cond taken next) := by
  simp only [resolve]
  split
  · exact h
  · exact kept_ite h (kept_ite (kept_setCore h) (kept_mispredicted h))

theorem kept_predict (h : Kept r s) {c kind cond taken direct target} : Kept r (predict s c kind cond taken direct target) :=
  kept_ite (kept_btbPut (kept_setCore (kept_resolve (kept_setCore h)))) (kept_setCore (kept_resolve (kept_setCore h)))

/-! ## Integer, predicate, select, multiply, divide and fraction instructions, and the two-word forms -/

theorem kept_setReg {c rd f} (h : Kept r t) : KeptX r (setReg c rd f t) := kept_wg h

theorem kept_runReg (h : Kept r s) {c g legal rd f} : KeptOut r (runReg s c g legal rd f) :=
  keptOut_next (kept_runInstr h (fun _ ht => ht) (fun _ ht => kept_setReg ht))

theorem kept_runRegW (h : Kept r s) {c g rd f} : KeptOut r (runRegW s c g rd f) :=
  keptOut_next (kept_runInstr h (fun _ ht => ht) (fun _ ht => kept_setReg ht))

theorem kept_execIntAlu {c g fn rd ra rb} (h : Kept r s) : KeptOut r (execIntAlu c g fn rd ra rb s) := kept_runReg h

theorem kept_execAddi {c g rd ra imm} (h : Kept r s) : KeptOut r (execAddi c g rd ra imm s) := kept_runReg h

theorem kept_execAndi {c g rd ra imm} (h : Kept r s) : KeptOut r (execAndi c g rd ra imm s) := kept_runReg h

theorem kept_execOri {c g rd ra imm} (h : Kept r s) : KeptOut r (execOri c g rd ra imm s) := kept_runReg h

theorem kept_execXori {c g rd ra imm} (h : Kept r s) : KeptOut r (execXori c g rd ra imm s) := kept_runReg h

theorem kept_execShi {c g rd ra imm} (h : Kept r s) : KeptOut r (execShi c g rd ra imm s) := kept_runReg h

theorem kept_setPreds {c pd pn v} (h : Kept r t) : Kept r (setPreds c pd pn v t) := kept_setCur h

theorem kept_execSel {c g neg ps rd ra rb} (h : Kept r s) : KeptOut r (execSel c g neg ps rd ra rb s) := kept_runReg h

theorem kept_execCmov {c g neg ps rd ra} (h : Kept r s) : KeptOut r (execCmov c g neg ps rd ra s) := kept_runReg h

theorem kept_execMul {c g fn rd ra rb} (h : Kept r s) : KeptOut r (execMul c g fn rd ra rb s) := kept_runReg h

theorem kept_divZero (h : Kept r t) {c} : KeptX r (divZero t c) := keptX_ite (kept_setCur h) h

theorem kept_noteSat (h : Kept r t) {c sat} : Kept r (noteSat t c sat) := kept_ite (kept_setCur h) h

theorem kept_setFrac (h : Kept r t) {c rd q} : KeptX r (setFrac t c rd q) := kept_noteSat (kept_wg h)

theorem kept_execLi {c g rd imm} (h : Kept r s) : KeptOut r (execLi c g rd imm s) := kept_runRegW h

theorem kept_execLih {c g rd imm} (h : Kept r s) : KeptOut r (execLih c g rd imm s) := kept_runRegW h

theorem kept_execAddw {c g rd ra imm} (h : Kept r s) : KeptOut r (execAddw c g rd ra imm s) := kept_runRegW h

theorem kept_execAndw {c g rd ra imm} (h : Kept r s) : KeptOut r (execAndw c g rd ra imm s) := kept_runRegW h

theorem kept_execOrw {c g rd ra imm} (h : Kept r s) : KeptOut r (execOrw c g rd ra imm s) := kept_runRegW h

/-! ## Accumulators, MAC, MACX and the accesses through address generators -/

theorem kept_acPut (h : Kept r t) {c a v} : Kept r (acPut t c a v) := kept_setCore h

theorem kept_acSat (h : Kept r t) {c a v} : Kept r (acSat t c a v) := kept_noteSat (kept_acPut h)

theorem kept_accumulate (h : Kept r t) {c ac sub clr p} : Kept r (accumulate t c ac sub clr p) := kept_acSat h

theorem kept_tcmLoad (h : Kept r t) {c y off n} : Kept r (tcmLoad t c y off n).1 :=
  kept_fst_ite h (kept_fst_ite (kept_logErr (kept_loadCheck h)) (kept_loadCheck h))

theorem kept_tcmStore (h : Kept r t) {c y off l} : Kept r (tcmStore t c y off l).1 := kept_fst_ite h (kept_coreStore h)

theorem kept_postMod (h : Kept r t) {c y i pm} : Kept r (postMod t c y i pm) := kept_ite (kept_setCur h) h

theorem kept_notePair (h : Kept r t) {c n upd} : Kept r (notePair t c n upd) := kept_ite (kept_setCore h) h

theorem kept_macxMod (h : Kept r t) {c xg yg xpm ypm} : Kept r (macxMod t c xg yg xpm ypm) :=
  kept_postMod (kept_postMod (kept_notePair (kept_notePair h)))

theorem kept_execMacx {c g ac xg yg xpm ypm form sub int clr uns} (h : Kept r s) :
    KeptOut r (execMacx c g ac xg yg xpm ypm form sub int clr uns s) := by
  simp only [execMacx]
  refine keptOut_next ?_
  refine kept_runInstr h (fun _ ht => ht) (fun _ ht => ?_)
  split
  · rename_i e
    exact kept_fst (kept_tcmLoad ht) e
  · split
    · rename_i e1 _ _ _ e
      exact kept_fst (kept_tcmLoad (kept_fst (kept_tcmLoad ht) e1)) e
    · rename_i e1 _ _ _ e
      exact kept_countCur (kept_accumulate (kept_macxMod (kept_fst (kept_tcmLoad (kept_fst (kept_tcmLoad ht) e1)) e)))

theorem kept_execLdtStt {c g rd y gen pm st size uns} (h : Kept r s) : KeptOut r (execLdtStt c g rd y gen pm st size uns s) := by
  simp only [execLdtStt]
  refine keptOut_next ?_
  refine kept_runInstr h (fun _ ht => ht) (fun _ ht => ?_)
  refine keptX_ite ?_ ?_
  · split
    · rename_i e
      exact kept_fst (kept_tcmStore ht) e
    · rename_i e
      exact kept_countCur (kept_postMod (kept_fst (kept_tcmStore ht) e))
  · split
    · rename_i e
      exact kept_fst (kept_tcmLoad ht) e
    · rename_i e
      exact kept_countCur (kept_wg (kept_postMod (kept_fst (kept_tcmLoad ht) e)))

/-! ## Ordinary loads and stores, mirror accesses, load-locked and store-conditional, fences -/

theorem kept_countAcc (h : Kept r t) {c code va attr} : Kept r (countAcc t c code va attr) := kept_countEvt h

theorem kept_loadBy {c n va} {put : State → List Byte → Exe} (hput : ∀ t x, Kept r t → KeptX r (put t x)) (h : Kept r t) :
    KeptX r (loadBy c n va put t) := by
  simp only [loadBy]
  refine keptX_ite h ?_
  split
  · rename_i e
    exact kept_hostAsk h _ e
  · split
    · rename_i e
      exact kept_fst (kept_anyRead h) e
    · rename_i e
      exact hput _ _ (kept_watch (kept_countAcc (kept_fst (kept_anyRead h) e)))

theorem kept_storeBy {c va l} {after : State → State} (hafter : ∀ t, Kept r t → Kept r (after t)) (h : Kept r t) :
    KeptX r (storeBy c va l after t) := by
  simp only [storeBy]
  refine keptX_ite h ?_
  split
  · rename_i e
    exact kept_fst (kept_anyWrite h) e
  · rename_i e
    exact hafter _ (kept_watch (kept_countAcc (kept_fst (kept_anyWrite h) e)))

theorem kept_putReg {c n uns rd} (h : Kept r t) {l} : KeptX r (putReg c n uns rd t l) := kept_wg h

theorem kept_mirrorFault (h : Kept r t) {c va} : KeptX r (mirrorFault t c va) := kept_smgReport (kept_logErr h)

theorem kept_execLdmw {c g rd ra rk off} (h : Kept r s) : KeptOut r (execLdmw c g rd ra rk off s) := by
  simp only [execLdmw]
  refine keptOut_next ?_
  refine kept_runInstr h (fun _ ht => ht) (fun _ ht => ?_)
  split
  · rename_i e
    exact kept_fst (kept_dataRead ht) e
  · rename_i e
    refine keptX_ite (kept_mirrorFault (kept_fst (kept_dataRead ht) e)) ?_
    exact kept_watch (kept_countAcc (kept_wg (kept_wg (kept_fst (kept_dataRead ht) e))))

theorem kept_mirrorReach (h : Kept r t) {c priv va} : Kept r (mirrorReach t c priv va).1 := by
  simp only [mirrorReach]
  refine kept_fst_ite h ?_
  split
  · rename_i e
    exact kept_raiseXl (kept_fst (kept_translate h) e)
  · rename_i e
    exact kept_fst (kept_translate h) e

theorem kept_execStmw {c g rs ra rk off} (h : Kept r s) : KeptOut r (execStmw c g rs ra rk off s) := by
  simp only [execStmw]
  refine keptOut_next ?_
  refine kept_runInstr h (fun _ ht => ht) (fun _ ht => ?_)
  split
  · rename_i e
    exact kept_fst (kept_mirrorReach ht) e
  · rename_i e
    refine keptX_ite ?_ ?_
    · exact kept_mirrorFault (kept_fst (kept_mirrorReach ht) e)
    · split
      · rename_i e _ _ _ e1
        exact kept_fst (kept_dataWrite (kept_fst (kept_mirrorReach ht) e)) e1
      · rename_i e _ _ _ e1
        exact kept_watch (kept_countAcc (kept_fst (kept_dataWrite (kept_fst (kept_mirrorReach ht) e)) e1))

theorem kept_lockedXl (h : Kept r t) {c priv acc va n} : Kept r (lockedXl t c priv acc va n).1 := by
  simp only [lockedXl]
  refine kept_fst_ite h ?_
  split
  · rename_i e
    exact kept_raiseXl (kept_fst (kept_translate h) e)
  · split
    · rename_i e _ _ _
      exact kept_fst (kept_translate h) e
    · rename_i e _ _
      exact kept_fst (kept_translate h) e

theorem kept_obtainLine (h : Kept r t) {c va pa n} : Kept r (obtainLine t c va pa n) :=
  kept_ite h (kept_ite (kept_setLn (kept_cacheLines h)) (kept_cacheLines h))

theorem kept_execLdl {c g rd ra d} (h : Kept r s) : KeptOut r (execLdl c g rd ra d s) := by
  simp only [execLdl]
  refine keptOut_next ?_
  refine kept_runInstr h (fun _ ht => ht) (fun _ ht => ?_)
  refine keptX_ite ht ?_
  split
  · rename_i e
    exact kept_fst (kept_lockedXl ht) e
  · split
    · rename_i e1 _ _ _ e
      exact kept_fst (kept_physRead (kept_obtainLine (kept_fst (kept_lockedXl ht) e1))) e
    · rename_i e1 _ _ _ e
      refine kept_watch ?_
      refine kept_countAcc ?_
      exact kept_setCore (kept_wg (kept_fst (kept_physRead (kept_obtainLine (kept_fst (kept_lockedXl ht) e1))) e))

theorem kept_dropOwnResv (h : Kept r t) {c} : Kept r (dropOwnResv t c) := kept_setCore h

theorem kept_execStc {c g rd ra rs d} (h : Kept r s) : KeptOut r (execStc c g rd ra rs d s) := by
  simp only [execStc]
  refine keptOut_next (kept_runInstr h (fun _ ht => ht) fun _ ht => keptX_ite ht ?_)
  split
  · rename_i e
    exact kept_fst (kept_lockedXl ht) e
  · rename_i e
    have hu := kept_fst (kept_lockedXl ht) e
    refine keptX_ite ?_ (kept_countCur (kept_countAcc (kept_dropOwnResv (kept_wg hu))))
    split
    · rename_i e1
      exact kept_fst (kept_physWrite hu) e1
    · rename_i e1
      exact kept_watch (kept_countAcc (kept_dropOwnResv (kept_wg (kept_fst (kept_physWrite hu) e1))))

/-! ## Control transfers, calls and returns, hardware loops -/

theorem kept_jumpTo {c g kind target} (h : Kept r t) : KeptX r (jumpTo c g kind target t) := keptX_ite h (kept_predict h)

theorem kept_callPush {c g direct target} (h : Kept r t) : KeptX r (callPush c g direct target t) := by
  simp only [callPush]
  split
  · rename_i e
    exact kept_fst (kept_store64 h) e
  · split
    · rename_i e1 _ _ _ e
      exact kept_restoreMem h (kept_fst (kept_store64 (kept_fst (kept_store64 h) e1)) e)
    · rename_i e1 _ _ e
      exact kept_setCur (kept_predict (kept_fst (kept_store64 (kept_fst (kept_store64 h) e1)) e))

theorem kept_callTo {c g direct target} (h : Kept r t) : KeptX r (callTo c g direct target t) := by
  simp only [callTo]
  split
  · exact h
  · split
    · rename_i e
      exact kept_fst (kept_spillTo h) e
    · rename_i e
      exact kept_callPush (kept_fst (kept_spillTo h) e)

theorem kept_below (h : Kept r t) {c fp} : Kept r (below t c fp).1 := by
  simp only [below]
  refine kept_fst_ite ?_ h
  split
  · rename_i e
    exact kept_fst (kept_load64 h) e
  · split
    · rename_i e1 _ _ _ e
      exact kept_fst (kept_fill (kept_fst (kept_load64 h) e1)) e
    · rename_i e1 _ _ e
      exact kept_fst (kept_fill (kept_fst (kept_load64 h) e1)) e

theorem kept_retBody {c g} (h : Kept r t) : KeptX r (retBody c g t) := by
  simp only [retBody]
  refine keptX_ite h ?_
  split
  · rename_i e
    exact kept_fst (kept_load64 h) e
  · rename_i e
    refine keptX_ite (kept_fst (kept_load64 h) e) ?_
    refine keptX_ite (kept_fst (kept_load64 h) e) ?_
    split
    · rename_i e _ _ _ e1
      exact kept_fst (kept_below (kept_fst (kept_load64 h) e)) e1
    · rename_i e _ _ _ e1
      exact kept_setCur (kept_predict (kept_fst (kept_below (kept_fst (kept_load64 h) e)) e1))

/-! ## Special registers and system instructions -/

theorem kept_privFault (h : Kept r t) : KeptX r (privFault t) := h

theorem kept_statusWrite {c v} (h : Kept r t) : KeptX r (statusWrite c v t) :=
  keptX_ite (kept_privFault h) (keptX_ite (kept_deliverImprecise h) (kept_setCur h))

theorem kept_xsaveWrite {c v} (h : Kept r t) : KeptX r (xsaveWrite c v t) := by
  simp only [xsaveWrite]
  refine keptX_ite h ?_
  refine keptX_ite h ?_
  split
  · rename_i e
    exact kept_fst (kept_xstateSave h) e
  · rename_i e
    exact kept_setCore (kept_fst (kept_xstateSave h) e)

theorem kept_mtsrBody {c n v} (h : Kept r t) : KeptX r (mtsrBody c n v t) :=
  keptX_ite (kept_privFault h) (keptX_ite (kept_statusWrite h) (keptX_ite h (keptX_ite h (keptX_ite (kept_xsaveWrite h) h))))

theorem kept_endService (h : Kept r t) {c} : Kept r (endService t c) := by
  simp only [endService]
  split
  · exact kept_leaveService (kept_setCur h)
  · exact kept_setCur h

theorem kept_park (h : Kept r t) {c} : Kept r (park t c) := kept_setCore (kept_setCur h)

theorem kept_execBankSwitch {c} (h : Kept r s) : KeptOut r (execBankSwitch c s) := by
  simp only [execBankSwitch]
  refine keptOut_next ?_
  refine kept_ite h ?_
  split
  · exact kept_switchTo h
  · refine kept_ite h ?_
    split
    · exact kept_switchTo h
    · exact h

theorem kept_endStop (h : Kept r s) {c} : Kept r (endStop s c) := kept_stopUpdate (kept_setCore h)

theorem kept_emptyInbox (h : Kept r t) {c} : Kept r (emptyInbox t c) := kept_setCore h

theorem kept_rfeGo (h : Kept r t) {c pf w} : Kept r (rfeGo t c pf w) := by
  simp only [rfeGo]
  refine kept_ite ?_ ?_
  · refine kept_endStop ?_
    refine kept_ite ?_ ?_
    · exact kept_emptyInbox (kept_park (kept_killFetch (kept_setCur (kept_retire (kept_setCore h)))))
    · exact kept_killFetch (kept_setCur (kept_retire (kept_setCore h)))
  · refine kept_ite ?_ ?_
    · exact kept_emptyInbox (kept_park (kept_killFetch (kept_setCur (kept_retire (kept_setCore h)))))
    · exact kept_killFetch (kept_setCur (kept_retire (kept_setCore h)))

theorem kept_rfeBody {c} (h : Kept r t) : KeptX r (rfeBody c t) := by
  simp only [rfeBody]
  refine keptX_ite h ?_
  split
  · rename_i e
    exact kept_fst (kept_load64 h) e
  · rename_i e
    refine keptX_ite (kept_fst (kept_load64 h) e) ?_
    refine keptX_ite (kept_fst (kept_load64 h) e) ?_
    split
    · rename_i e _ _ _ e1
      exact kept_fst (kept_below (kept_fst (kept_load64 h) e)) e1
    · rename_i e _ _ _ e1
      exact kept_rfeGo (kept_fst (kept_below (kept_fst (kept_load64 h) e)) e1)

theorem kept_dueMcheck (h : Kept r s) {c} : Kept r (dueMcheck s c) := by
  simp only [dueMcheck]
  split
  · exact kept_machineCheckNow (kept_setCore h)
  · exact h

theorem kept_rfeDf {c} (h : Kept r t) : KeptX r (rfeDf c t) :=
  keptX_ite h (kept_dueMcheck (kept_setCore (kept_ite (kept_killFetch (kept_setCore (kept_issueFetch (kept_countEvt h))))
    (kept_makeCurrent (kept_setCore (kept_issueFetch (kept_countEvt h)))))))

theorem kept_flushWindows {c n} (h : Kept r t) : KeptX r (flushWindows c n t) := by
  induction n generalizing t with
  | zero => exact h
  | succ n ih =>
    simp only [flushWindows]
    refine keptX_ite h ?_
    split
    · rename_i e
      exact kept_fst (kept_spill h) e
    · rename_i e
      have ht := kept_fst (kept_spill h) e
      exact keptX_ite ht (keptX_ite ht (ih ht))

/-! ## Floating-point instructions -/

theorem kept_fw (h : Kept r t) {c q v} : Kept r (fw t c q v) := kept_setCore h

theorem kept_noteFlags (h : Kept r t) {c flags} : Kept r (noteFlags t c flags) := kept_setCore h

theorem kept_fpEnd {c flags} {put : State → Exe} (hput : ∀ t, Kept r t → KeptX r (put t)) (h : Kept r t) : KeptX r (fpEnd c flags put t) :=
  keptX_ite (hput _ (kept_noteFlags h)) (keptX_ite (hput _ (kept_setCur (kept_noteFlags h))) (kept_noteFlags h))

theorem kept_freeIf {need} (h : Kept r t) : Kept r (freeIf need t).2 := kept_snd_ite (kept_takeFree h) h

theorem kept_fpBody {c dbl fn fd fa fb} (h : Kept r t) : KeptX r (fpBody c dbl fn fd fa fb t) := by
  simp only [fpBody]
  exact kept_fpEnd (fun _ ht => kept_fw ht) (kept_freeIf h)

theorem kept_fmovBody {c dbl toG rd ra} (h : Kept r t) : KeptX r (fmovBody c dbl toG rd ra t) := keptX_ite (kept_wg h) (kept_fw h)

theorem kept_fcmpBody {c dbl pd rel fa fb} (h : Kept r t) : KeptX r (fcmpBody c dbl pd rel fa fb t) := by
  simp only [fcmpBody]
  exact kept_fpEnd (fun _ ht => kept_setCur ht) h

theorem kept_fcvtF {c dbl rd src x} (h : Kept r t) : KeptX r (fcvtF c dbl rd src x t) := by
  simp only [fcvtF]
  exact kept_fpEnd (fun _ ht => kept_fw ht) (kept_freeIf h)

theorem kept_fcvtBody {c fn rd ra} (h : Kept r t) : KeptX r (fcvtBody c fn rd ra t) := by
  simp only [fcvtBody]
  split
  · exact kept_fcvtF h
  · exact kept_fcvtF h
  · exact kept_fpEnd (fun _ ht => kept_wg ht) (kept_freeIf h)
  · exact kept_fpEnd (fun _ ht => kept_fw ht) h
  · exact kept_fmovBody h
  · exact kept_fmovBody h
  · exact kept_fcmpBody h

theorem kept_halfStore {c va l flags} (h : Kept r t) : KeptX r (halfStore c va l flags t) :=
  keptX_ite (kept_storeBy (fun _ ht => kept_noteFlags ht) h) (keptX_ite (kept_storeBy (fun _ ht => kept_setCur (kept_noteFlags ht)) h)
    (kept_noteFlags h))

/-! ## Prism commands -/

theorem kept_prismIssue {c op} (h : Kept r t) : KeptX r (prismIssue c op t) := keptX_ite h (kept_countCur (kept_setCore h))

theorem kept_execPrismCommandStart {u} (h : Kept r s) : KeptOut r (execPrismCommandStart u s) := by
  simp only [execPrismCommandStart]
  refine keptOut_next ?_
  refine kept_ite h ?_
  split
  · exact h
  · exact kept_wr (kept_update h)

theorem kept_matStep {c x acc m} {q : State × Bool} (hq : Kept r q.1) : Kept r (matStep c x acc q m).1 := kept_wrBytes hq

theorem kept_putRes (h : Kept r s) {q} : Kept r (putRes s q).1 := kept_foldl h (fun _ _ ht => kept_wrBytes ht)

theorem kept_prismWork (h : Kept r s) {c x} : Kept r (prismWork s c x).1 := by
  simp only [prismWork]
  split
  · exact kept_putRes h
  · exact kept_putRes h
  · exact kept_putRes h
  · exact kept_foldl_fst h (fun _ _ ht => kept_matStep ht)

theorem kept_prismPartial (h : Kept r s) {c x} : Kept r (prismPartial s c x).1 :=
  kept_takeFree (kept_foldl_fst (kept_prismWork h) (fun _ _ ht => kept_wrBytes (kept_takeFree ht)))

theorem kept_prismPop (h : Kept r s) {u c all} : Kept r (prismPop s u c all) := kept_update (kept_setCore h)

theorem kept_prismFail (h : Kept r s) {u c err} : Kept r (prismFail s u c err) := kept_setCore (kept_prismPop h)

theorem kept_prismNote (h : Kept r s) {c sat done} : Kept r (prismNote s c sat done) := kept_setCore h

theorem kept_prismEcc (h : Kept r s) {u c x} : Kept r (prismEcc s u c x) :=
  kept_logErr (kept_raiseCond (kept_countReg (kept_prismNote (kept_prismFail (kept_prismPartial h)))))

theorem kept_prismDone (h : Kept r s) {u c x ecc} : Kept r (prismDone s u c x ecc) :=
  kept_ite (kept_prismFail h) (kept_ite (kept_prismFail h) (kept_ite (kept_prismEcc h) (kept_prismNote (kept_prismPop (kept_prismWork h)))))

theorem kept_execPrismCommandDone {u ecc} (h : Kept r s) : KeptOut r (execPrismCommandDone u ecc s) := by
  simp only [execPrismCommandDone]
  refine keptOut_next ?_
  split
  · exact h
  · split
    · exact h
    · exact kept_prismDone h

/-! ## Customer instructions -/

theorem kept_microFault (h : Kept r t) {c m a reason} : KeptX r (microFault t c m a reason) := kept_wr h

/-- The state beside a memory access of the microengine is kept, and so is the state of the fault that it answers. -/
def KeptMem (r : State) (p : State × Except Exe Word) : Prop := Kept r p.1 ∧ ∀ x, p.2 = .error x → KeptX r x

theorem keptMem_ok (h : Kept r t) {v : Word} : KeptMem r (t, .ok v) := ⟨h, fun _ e => nomatch e⟩

theorem keptMem_error (h : Kept r t) {x : Exe} (hx : KeptX r x) : KeptMem r (t, .error x) := ⟨h, fun _ e => Except.error.inj e ▸ hx⟩

theorem keptMem_ite {c : Prop} [Decidable c] {p q : State × Except Exe Word} (hp : KeptMem r p) (hq : KeptMem r q) :
    KeptMem r (if c then p else q) := by
  split
  · exact hp
  · exact hq

theorem kept_microMem (h : Kept r t) {c m at_ w a b} : KeptMem r (microMem t c m at_ w a b) := by
  simp only [microMem]
  refine keptMem_ite (keptMem_error h h) ?_
  split
  · rename_i e
    exact keptMem_error (kept_raiseXl (kept_fst (kept_translate h) e)) (kept_raiseXl (kept_fst (kept_translate h) e))
  · rename_i e
    have hu := kept_fst (kept_translate h) e
    refine keptMem_ite (keptMem_error hu (kept_microFault hu)) (keptMem_ite ?_ ?_)
    · split
      · rename_i e1
        have hv := kept_fst (kept_physWrite hu) e1
        exact keptMem_error hv hv
      · rename_i e1
        exact keptMem_ok (kept_fst (kept_physWrite hu) e1)
    · split
      · rename_i e1
        have hv := kept_fst (kept_physRead hu) e1
        exact keptMem_error hv hv
      · rename_i e1
        exact keptMem_ok (kept_fst (kept_physRead hu) e1)

theorem kept_microRegs {c m} (h : Kept r t) : Kept r (microRegs c m t) := by
  simp only [microRegs]
  refine kept_foldl h (fun _ _ ht => ?_)
  split
  · exact kept_wg ht
  · exact ht

theorem kept_microAcs {c m} (h : Kept r t) : Kept r (microAcs c m t) := by
  simp only [microAcs]
  refine kept_foldl h (fun _ _ ht => ?_)
  split
  · exact kept_acPut ht
  · exact ht

theorem kept_microSpill (h : Kept r t) {c m} : Kept r (microSpill t c m).1 := kept_fst_ite (kept_spill h) h

theorem kept_microEnd (h : Kept r t) {c m w} : KeptX r (microEnd t c m w) := by
  simp only [microEnd]
  split
  · rename_i e
    exact kept_fst (kept_microSpill h) e
  · rename_i e
    have hu := kept_fst (kept_microSpill h) e
    have hv := kept_ite (c := Config.microCommits (uCommit w) 0 = true) (kept_microAcs (c := c) (m := m) hu) hu
    exact kept_microRegs (kept_ite (kept_noteSat (kept_ite (kept_noteFlags hv) hv)) hv)

theorem kept_microRaise (h : Kept r t) {c m a w v} : KeptX r (microRaise t c m a w v) :=
  keptX_ite (kept_microFault h) (keptX_ite (kept_raiseExc h) h)

theorem kept_microPerr (h : Kept r t) {c a} : KeptX r (microPerr t c a) := kept_parityMet h

theorem kept_microRun {c n m a stack} (h : Kept r t) : KeptX r (microRun c n m a stack t) := by
  induction n generalizing m a stack t with
  | zero => exact kept_microFault h
  | succ n ih =>
    simp only [microRun]
    refine keptX_ite (kept_microPerr h) ?_
    split
    · exact kept_microFault h
    · have hm {w x y} : KeptMem r (if uMem w = 0 then (t, .ok 0) else microMem t c m a w x y) :=
        keptMem_ite (keptMem_ok h) (kept_microMem h)
      split
      · rename_i e
        exact hm.2 _ (congrArg Prod.snd e)
      · rename_i e
        have hu := kept_fst hm.1 e
        refine keptX_ite (kept_microEnd hu) (keptX_ite (kept_microRaise hu) ?_)
        split
        · exact kept_microFault hu
        · exact ih hu

/-! ## Instruction fetch, predecode and prediction, the XIP prefetch buffer -/

theorem kept_fillL1i (h : Kept r s) {c line data} : Kept r (fillL1i s c line data) := by
  simp only [fillL1i]
  split
  · exact kept_setCore h
  · split
    · exact kept_setCore h
    · exact kept_setCore (kept_takeFree h)

theorem kept_redirect (h : Kept r s) {c n pc next} : Kept r (redirect s c n pc next) := kept_countFetches (kept_setCore h)

theorem kept_passAlloc (h : Kept r s) {c pc x} : Kept r (passAlloc s c pc x) := by
  simp only [passAlloc]
  split
  · exact kept_ite (kept_btbPut h) h
  · exact h

theorem kept_passXfer (h : Kept r s) {c pc follow x} : Kept r (passXfer s c pc follow x) :=
  kept_ite (kept_setCore (kept_passAlloc h)) (kept_redirect (kept_setCore (kept_passAlloc h)))

theorem kept_passOne (h : Kept r s) {c} : KeptO r (passOne s c) := by
  simp only [passOne]
  split
  · exact keptO_none
  · refine keptO_ite (keptO_ite keptO_none (keptO_some (kept_setCore h))) ?_
    split
    · exact keptO_some (kept_setCore h)
    · exact keptO_ite keptO_none (keptO_some (kept_passXfer h))

theorem kept_predecode {c n} (h : Kept r s) : Kept r (predecode c n s) := by
  induction n generalizing s with
  | zero => exact h
  | succ n ih =>
    simp only [predecode]
    split
    · exact h
    · rename_i e
      exact ih (kept_passOne h _ e)

theorem kept_fetched (h : Kept r s) {c va data} : Kept r (fetched s c va data) := kept_predecode (kept_setCore h)

theorem kept_fetchFails (h : Kept r s) {c f} {noted : State → State} (hnoted : ∀ t, Kept r t → Kept r (noted t)) :
    Kept r (fetchFails s c f noted) :=
  kept_ite h (kept_raiseFault (hnoted _ h))

theorem kept_fetchMem (h : Kept r s) {c va a} {good : State → List Byte → State} (hgood : ∀ t x, Kept r t → Kept r (good t x)) :
    Kept r (fetchMem s c va a good) := by
  simp only [fetchMem]
  split
  · exact kept_fetchFails h (fun _ ht => kept_logFailed ht)
  · exact kept_ite (kept_fetchFails h (fun _ ht => kept_logErr ht)) (hgood _ _ h)

theorem kept_noteFetch (h : Kept r s) {c va code wrong} : Kept r (noteFetch s c va code wrong) := kept_setCore h

theorem kept_fetchFill (h : Kept r s) {c va a attr} : Kept r (fetchFill s c va a attr) := by
  simp only [fetchFill]
  refine kept_fetchMem h fun t l ht => kept_fetched (kept_noteFetch (kept_fillL1i ?_))
  split
  · exact kept_reachL2 ht fun _ _ hu => kept_noteFetch hu
  · exact ht

theorem kept_fetchHit (h : Kept r s) {c va a attr e} : Kept r (fetchHit s c va a attr e) :=
  kept_ite (kept_fetchFill (kept_ite (kept_noteFetch (kept_checkArrays h)) (kept_checkArrays h)))
    (kept_ite (kept_fetchFails (kept_checkArrays h) (fun _ ht => kept_logErr ht)) (kept_fetched (kept_checkArrays h)))

theorem kept_setPrefetch (h : Kept r s) {c p} : Kept r (setPrefetch s c p) := kept_update h

theorem kept_useLine (h : Kept r s) {c line} : Kept r (useLine s c line) := kept_setPrefetch h

theorem kept_fetchFrom (h : Kept r s) {c va pa attr} : Kept r (fetchFrom s c va pa attr) := by
  simp only [fetchFrom]
  split
  · exact kept_fetchMem (kept_checkArrays h) (fun _ _ ht => kept_fetched ht)
  · split
    · exact kept_fetchHit h
    · exact kept_ite (kept_ite (kept_fetchFill (kept_useLine h)) h) (kept_fetchFill h)

theorem kept_fetchLineAt (h : Kept r s) {c va} : Kept r (fetchLineAt s c va) := by
  simp only [fetchLineAt]
  refine kept_ite h ?_
  split
  · rename_i e
    exact kept_ite (kept_raiseFault (kept_fst (kept_fetchXl h) e)) h
  · rename_i e
    exact kept_fetchFrom (kept_fst (kept_fetchXl h) e)

theorem kept_xipUncorr (h : Kept r s) {c line} : Kept r (xipUncorr s c line) := kept_logErr h

theorem kept_xipReturn (h : Kept r s) {c line bad} : Kept r (xipReturn s c line bad) :=
  kept_ite (kept_ite (kept_fetchFails (kept_xipUncorr (kept_setPrefetch h)) (fun _ ht => ht)) (kept_xipUncorr (kept_setPrefetch h)))
    (kept_ite (kept_fillL1i (kept_useLine (kept_setPrefetch h))) (kept_setPrefetch h))

/-! ## The fused state (R459, R461) -/

/-- `t` has come from `s` by operations that keep all of it but the fused state, which only moves forward, and not past
DECOMMISSIONED. -/
structure Forward (s t : State) : Prop where
  kept : Kept { s with life := t.life } t
  life : s.life ≤ 4 → s.life ≤ t.life ∧ t.life ≤ 4

theorem forward_of_kept (h : Kept s t) : Forward s t :=
  ⟨⟨h.part, h.serial, rfl, h.pending, h.memOk⟩, fun hl => by rw [h.life]; exact ⟨le_rfl, hl⟩⟩

/-- The fused state moves to `n`; what follows keeps it there. -/
theorem forward_of_kept_life {n : Nat} (hn : s.life ≤ n) (h4 : n ≤ 4) (h : Kept { s with life := n } t) : Forward s t :=
  ⟨⟨h.part, h.serial, rfl, h.pending, h.memOk⟩, fun _ => by rw [h.life]; exact ⟨hn, h4⟩⟩

theorem Forward.trans_kept (h : Forward s t) (hu : Kept t u) : Forward s u := by
  obtain ⟨⟨hp, hs, -, hq, hm⟩, hl⟩ := h
  exact ⟨⟨hu.part.trans hp, hu.serial.trans hs, rfl, hu.pending.trans hq, fun hr => hu.memOk (hm hr)⟩, by rw [hu.life]; exact hl⟩

/-- Setting the fused state keeps all but the fused state. -/
theorem kept_setLife (h : Kept r s) (n : Nat) : Kept { r with life := n } { s with life := n } :=
  ⟨h.part, h.serial, rfl, h.pending, h.memOk⟩

theorem forward_bseProvision (s : State) : Forward s (bseProvision s).1 := by
  unfold bseProvision
  split
  · exact forward_of_kept (Kept.refl s)
  · rename_i hc
    obtain ⟨h0, -⟩ := not_or.mp hc
    have hw : Kept s (wrBytes s (xipBase + chainOff) ((upto 0x4000).map Config.chainByte)) := kept_wrBytes (Kept.refl s)
    generalize wrBytes s (xipBase + chainOff) ((upto 0x4000).map Config.chainByte) = u at hw ⊢
    exact forward_of_kept_life (n := 1) (by omega) (by omega) (kept_bscanJudge (kept_update (kept_setLife hw 1)))

theorem forward_bseLock (s : State) : Forward s (bseLock s).1 := by
  unfold bseLock
  split
  · exact forward_of_kept (Kept.refl s)
  · rename_i hc
    obtain ⟨h1, -⟩ := not_or.mp hc
    exact forward_of_kept_life (n := 2) (by omega) (by omega) (kept_setLife (Kept.refl s) 2)

/-- A key operation decommissions the package or leaves the fused state as it was. -/
theorem forward_keyopDo (s : State) (p : List Byte) : Forward s (keyopDo s p).1 := by
  unfold keyopDo
  split
  · exact forward_of_kept (kept_fst_ite (Kept.refl s) (kept_enrollSlot (Kept.refl s)))
  · exact forward_of_kept (kept_update (Kept.refl s))
  · have hk : Kept { s with life := 4 } (bscanJudge { s with life := 4 }) := kept_bscanJudge (Kept.refl _)
    exact ⟨⟨hk.part, hk.serial, rfl, hk.pending, hk.memOk⟩, fun hl => by rw [hk.life]; exact ⟨hl, le_rfl⟩⟩

theorem forward_bseKeyop (s : State) (src : Nat) : Forward s (bseKeyop s src).1 := by
  unfold bseKeyop
  split
  · exact forward_of_kept (kept_imgNote (Kept.refl s))
  · exact forward_keyopDo s _

theorem forward_bsePage0 (s : State) (m : BseCmd) : Forward s (bsePage0 s m).1 := by
  have h := Kept.refl s
  unfold bsePage0
  split
  · exact forward_bseProvision s
  · exact forward_bseLock s
  · exact forward_of_kept (kept_bseEnroll h)
  · exact forward_bseKeyop s _
  · exact forward_of_kept (kept_bseAdvance h)
  · exact forward_of_kept (kept_bseInstall h)
  · exact forward_of_kept (kept_setActive h)
  · exact forward_of_kept (kept_bseLoadmc h)
  · exact forward_of_kept (kept_bseNopatch h)
  · exact forward_of_kept (kept_bseVerifyMc h)
  · exact forward_of_kept (kept_bseHandover h)

/-- An engine command moves the fused state only forward. -/
theorem forward_bseCommandDone (e : exec .bseCommandDone s = .next t) : Forward s t := by
  have h := Kept.refl s
  cases hq : s.bse.queue with
  | nil =>
    simp only [exec, execBseCommandDone, hq, ok, Host.Outcome.next.injEq] at e
    exact e ▸ forward_of_kept h
  | cons m l =>
    simp only [exec, execBseCommandDone, hq, ok, Host.Outcome.next.injEq] at e
    have hm : Forward s (if m.page = 0 then bsePage0 s m else bseService s m).1 := by
      split
      · exact forward_bsePage0 s m
      · exact forward_of_kept (kept_bseService h)
    subst e
    split
    · exact forward_of_kept h
    · exact hm.trans_kept (kept_bseNext (kept_bseEnd (Kept.refl _)))

/-! ## The commands -/

/-- Every command but the end of an engine command keeps the state. -/
theorem exec_kept (c : Instr) (s : State) (hc : c ≠ .bseCommandDone) : KeptOut s (exec c s) := by
  have h := Kept.refl s
  cases c with
  | registerWrite _ _ _ _ => exact keptOut_next (kept_storeReg h)
  | readClear _ _ _ => exact keptOut_next (kept_readReg h)
  | mwWrite _ _ _ _ => exact keptOut_next (kept_storeReg h)
  | evtSet _ _ _ => exact keptOut_next (kept_ite h (kept_writeReg h))
  | evtClear _ _ _ => exact keptOut_next (kept_ite h (kept_writeReg h))
  | errorLogEntryWrite => exact kept_execErrorLogEntryWrite h
  | errCopyWrite => exact kept_execErrCopyWrite h
  | errCopyConfig _ _ => exact keptOut_next (kept_regWriteOpt h (fun _ ht => kept_errCopyEffect ht))
  | errDataPageWrite _ _ _ _ _ => exact keptOut_next (kept_regWrite h (fun _ ht => kept_refuse ht))
  | amminBuild =>
    exact keptOut_next (kept_ite h (kept_update (kept_ite (kept_storeAbsent (kept_foldl h (fun _ _ ht => kept_markAbsent ht)))
      (kept_foldl h (fun _ _ ht => kept_markAbsent ht)))))
  | amminWrite _ _ _ _ => exact keptOut_next (kept_amminRefuse h)
  | absentBlockAccess _ _ w => exact kept_execAbsentBlockAccess (_write := w) h
  | globalAliasAccess _ _ _ _ _ => exact kept_execGlobalAliasAccess h
  | dataPageAccess _ _ _ _ => exact keptOut_next (kept_ite (kept_dataAccess h) h)
  | debugViewRead _ _ _ => exact keptOut_next (kept_loadReg h)
  | tbNanosecond => exact keptOut_next (kept_nanosecond h)
  | encEdge _ _ _ => exact kept_execEncEdge h
  | encFilterAccept _ _ => exact kept_execEncFilterAccept h
  | encIndexEdge _ => exact kept_execEncIndexEdge h
  | encCtlWrite _ _ _ => exact keptOut_next (kept_regWrite h (fun _ ht => kept_encCtlEffect ht))
  | sdpTick _ _ => exact kept_execSdpTick h
  | tbAsTick _ => exact kept_execTbAsTick h
  | tbRefTick => exact kept_execTbRefTick h
  | tbStandstill _ => exact kept_execTbStandstill h
  | tbTimeout _ => exact kept_execTbTimeout h
  | tbHoldExpiry _ => exact kept_execTbHoldExpiry h
  | tbUncGrow _ => exact kept_execTbUncGrow h
  | tbEnable _ _ _ => exact keptOut_next (kept_regWriteOpt h (fun _ ht => kept_tbCtlWrite ht))
  | tbDisable _ _ _ => exact keptOut_next (kept_regWriteOpt h (fun _ ht => kept_tbCtlWrite ht))
  | tbRestart _ _ _ => exact keptOut_next (kept_regWriteOpt h (fun _ ht => kept_tbCtlWrite ht))
  | tbSet _ _ _ => exact keptOut_next (kept_regWrite h (fun _ ht => kept_tbPhaseWrite ht))
  | tbStep _ _ _ => exact keptOut_next (kept_regWrite h (fun _ ht => kept_tbPhaseWrite ht))
  | tbCapture _ _ => exact keptOut_next (kept_regWrite h (fun _ ht => kept_captureEffect ht))
  | sdpEnable _ _ _ => exact keptOut_next (kept_regWriteOpt h (fun _ ht => kept_sdpCtlWrite ht))
  | sdpChkErr _ _ => exact kept_execSdpChkErr h
  | sdpClassify _ _ _ _ => exact kept_execSdpClassify h
  | sdpLock _ _ => exact kept_execSdpLock h
  | sdpLockLoss _ _ => exact kept_execSdpLockLoss h
  | axleEvaluate => exact kept_execAxleEvaluate h
  | cmpArm _ _ _ => exact keptOut_next (kept_cmpCtlAccess h)
  | cmpArmEffect _ => exact kept_execCmpArmEffect h
  | cmpDisarm _ _ _ => exact keptOut_next (kept_cmpCtlAccess h)
  | cmpActionDeliver => exact kept_execCmpActionDeliver h
  | gpeSegmentStart _ => exact kept_execGpeSegmentStart h
  | gpeStart _ _ _ => exact keptOut_next (kept_regWrite h (fun _ ht => kept_gpeStartEffect ht))
  | gpeEnable _ _ _ => exact keptOut_next (kept_regWriteOpt h (fun _ ht => kept_gpeCtlWrite ht))
  | gpeEntryApply _ => exact kept_execGpeEntryApply h
  | gpeDeadtimeExpiry _ _ => exact kept_execGpeDeadtimeExpiry h
  | gpeForceClear _ _ _ => exact keptOut_next (kept_regWrite h (fun _ ht => kept_gpeForceWrite ht))
  | gpeRefill _ => exact kept_execGpeRefill h
  | sdmSinc3Output _ _ => exact kept_execSdmSinc3Output h
  | sdmSinc2Output _ _ => exact kept_execSdmSinc2Output h
  | sdmStuck _ => exact kept_execSdmStuck h
  | sdmSnapshot _ => exact kept_execSdmSnapshot h
  | sdmSnapRingWrite => exact kept_execSdmSnapRingWrite h
  | evrSourceArrival => exact kept_execEvrSourceArrival h
  | evrDispatch _ => exact keptOut_next (kept_dispatchSrc h)
  | poolFifoDeliver _ => exact keptOut_next (kept_poolDeliver h)
  | inboxOffer _ _ => exact keptOut_next (kept_offerInbox h)
  | eventPacket _ => exact keptOut_next (kept_packetArrive h)
  | evrOwnWrite _ _ _ => exact keptOut_next (kept_regWrite h (fun _ ht => kept_evrOwnEffect ht))
  | evrSourceEnable _ _ _ => exact keptOut_next (kept_evrCfgAccess h)
  | evrSourceDisable _ _ _ => exact keptOut_next (kept_evrCfgAccess h)
  | evrCfgWrite _ _ _ => exact keptOut_next (kept_evrCfgAccess h)
  | evrSetcfg _ _ _ => exact keptOut_next (kept_regWrite h (fun _ ht => kept_setcfgEffect ht))
  | evrRaise _ _ _ => exact keptOut_next (kept_regWrite h (fun _ ht => kept_evrRaiseEffect ht))
  | poolMaskWrite _ _ _ _ => exact keptOut_next (kept_regWrite h (fun _ ht => kept_poolMaskEffect ht))
  | waite _ _ =>
    exact keptOut_next (kept_runInstr h (fun _ ht => ht) (fun _ ht => keptX_ite (kept_setCore (kept_retire ht))
      (keptX_ite ht (keptX_ite (kept_resumeEvent (kept_endService ht)) (kept_park (kept_retire (kept_endService ht)))))))
  | bankSwitch _ => exact kept_execBankSwitch h
  | levelEnable _ _ _ => exact keptOut_next (kept_regWriteOpt h (fun _ ht => kept_lvlenWrite ht))
  | schedEntryWrite _ _ _ _ => exact keptOut_next (kept_regWriteOpt h (fun _ ht => kept_entryWrite ht))
  | budgetExpiry _ _ => exact keptOut_next (kept_budgetExpired h)
  | localEventEnter _ => exact keptOut_next (kept_localEnter h)
  | instructionFetch _ =>
    exact keptOut_next (kept_ite h (kept_ite (kept_atId h (fun _ ht => kept_raiseFault ht))
      (kept_ite (kept_fetchLineAt (kept_predecode h)) (kept_predecode h))))
  | xipLineFetch _ _ => exact keptOut_next (kept_ite (kept_noteFetch (kept_setPrefetch h)) h)
  | xipLineReturn _ _ _ => exact keptOut_next (kept_ite (kept_xipReturn h) h)
  | btbInv _ _ => exact keptOut_next (kept_regWrite h (fun _ ht => kept_btbInvStart ht))
  | dirInv _ _ => exact keptOut_next (kept_regWrite h (fun _ ht => kept_dirInvStart ht))
  | rekey _ _ => exact keptOut_next (kept_regWrite h (fun _ ht => kept_rekeyStart ht))
  | predictorOpDone _ => exact keptOut_next (kept_setCore h)
  | intAlu _ _ _ _ _ _ => exact kept_execIntAlu h
  | addi _ _ _ _ _ => exact kept_execAddi h
  | andi _ _ _ _ _ => exact kept_execAndi h
  | ori _ _ _ _ _ => exact kept_execOri h
  | xori _ _ _ _ _ => exact kept_execXori h
  | shi _ _ _ _ _ => exact kept_execShi h
  | cmp _ _ _ _ _ _ _ _ _ => exact keptOut_next (kept_runInstr h (fun _ ht => ht) (fun _ ht => kept_setPreds ht))
  | predicateOp _ _ _ _ _ _ => exact keptOut_next (kept_runInstr h (fun _ ht => ht) (fun _ ht => kept_setCur ht))
  | sel _ _ _ _ _ _ _ => exact kept_execSel h
  | cmov _ _ _ _ _ _ => exact kept_execCmov h
  | mul _ _ _ _ _ _ => exact kept_execMul h
  | div _ _ _ _ _ _ => exact keptOut_next (kept_runInstr h (fun _ ht => ht) (fun _ ht => keptX_ite (kept_divZero ht) (kept_wg ht)))
  | fractionOp _ _ _ _ _ _ => exact keptOut_next (kept_runInstr h (fun _ ht => ht) (fun _ ht => kept_setFrac ht))
  | mac _ _ _ _ _ _ _ _ _ _ => exact keptOut_next (kept_runInstr h (fun _ ht => ht) (fun _ ht => kept_accumulate ht))
  | acrd15 _ _ _ _ => exact keptOut_next (kept_runInstr h (fun _ ht => ht) (fun _ ht => kept_setFrac ht))
  | acrd31 _ _ _ _ => exact keptOut_next (kept_runInstr h (fun _ ht => ht) (fun _ ht => kept_setFrac ht))
  | acrd63 _ _ _ _ => exact keptOut_next (kept_runInstr h (fun _ ht => ht) (fun _ ht => kept_setFrac ht))
  | acrdl _ _ _ _ => exact keptOut_next (kept_runInstr h (fun _ ht => ht) (fun _ ht => kept_setReg ht))
  | acrdg _ _ _ _ => exact keptOut_next (kept_runInstr h (fun _ ht => ht) (fun _ ht => kept_setReg ht))
  | acwr _ _ _ _ => exact keptOut_next (kept_runInstr h (fun _ ht => ht) (fun _ ht => kept_acPut ht))
  | acwrg _ _ _ _ => exact keptOut_next (kept_runInstr h (fun _ ht => ht) (fun _ ht => kept_acPut ht))
  | acsh _ _ _ _ => exact keptOut_next (kept_runInstr h (fun _ ht => ht) (fun _ ht => kept_acSat ht))
  | acadd _ _ _ _ => exact keptOut_next (kept_runInstr h (fun _ ht => ht) (fun _ ht => kept_acSat ht))
  | acclr _ _ _ => exact keptOut_next (kept_runInstr h (fun _ ht => ht) (fun _ ht => kept_acPut ht))
  | macx _ _ _ _ _ _ _ _ _ _ _ _ => exact kept_execMacx h
  | load _ _ _ _ _ _ _ =>
    exact keptOut_next (kept_runInstr h (fun _ ht => ht) (fun _ ht => kept_loadBy (fun _ _ ht1 => kept_putReg ht1) ht))
  | store _ _ _ _ _ _ => exact keptOut_next (kept_runInstr h (fun _ ht => ht) (fun _ ht => kept_storeBy (fun _ ht1 => ht1) ht))
  | ldxStx _ _ _ _ _ _ =>
    exact keptOut_next (kept_runInstr h (fun _ ht => ht) (fun _ ht => keptX_ite (kept_storeBy (fun _ ht1 => ht1) ht)
      (kept_loadBy (fun _ _ ht1 => kept_putReg ht1) ht)))
  | ldtStt _ _ _ _ _ _ _ _ _ => exact kept_execLdtStt h
  | ldmw _ _ _ _ _ _ => exact kept_execLdmw h
  | stmw _ _ _ _ _ _ => exact kept_execStmw h
  | ldl _ _ _ _ _ => exact kept_execLdl h
  | stc _ _ _ _ _ _ => exact kept_execStc h
  | fenceAcq _ _ => exact keptOut_next (kept_runInstr h (fun _ ht => ht) (fun _ ht => ht))
  | fenceRel _ _ => exact keptOut_next (kept_runInstr h (fun _ ht => ht) (fun _ ht => ht))
  | fenceAll _ _ => exact keptOut_next (kept_runInstr h (fun _ ht => ht) (fun _ ht => ht))
  | ifence _ _ => exact keptOut_next (kept_runInstr h (fun _ ht => ht) (fun _ ht => kept_killFetch (kept_issueFetch (kept_setCore ht))))
  | br _ _ _ => exact keptOut_next (kept_runInstr h (fun _ ht => kept_ite (kept_predict ht) ht) (fun _ ht => kept_jumpTo ht))
  | jr _ _ _ => exact keptOut_next (kept_runInstr h (fun _ ht => kept_ite (kept_predict ht) ht) (fun _ ht => kept_jumpTo ht))
  | call _ _ _ => exact keptOut_next (kept_runInstr h (fun _ ht => kept_ite (kept_predict ht) ht) (fun _ ht => kept_callTo ht))
  | callr _ _ _ => exact keptOut_next (kept_runInstr h (fun _ ht => kept_ite (kept_predict ht) ht) (fun _ ht => kept_callTo ht))
  | ret _ _ => exact keptOut_next (kept_runInstr h (fun _ ht => kept_ite (kept_predict ht) ht) (fun _ ht => kept_retBody ht))
  | loop _ _ _ _ _ _ _ => exact keptOut_next (kept_runInstr h (fun _ ht => ht) (fun _ ht => kept_setCur ht))
  | mfsr _ _ _ _ => exact keptOut_next (kept_runInstr h (fun _ ht => ht) (fun _ ht => keptX_ite (kept_privFault ht) (kept_wg ht)))
  | mtsr _ _ _ _ => exact keptOut_next (kept_runInstr h (fun _ ht => ht) (fun _ ht => kept_mtsrBody ht))
  | rfe _ _ =>
    exact keptOut_next (kept_runInstr h (fun _ ht => ht) (fun _ ht => keptX_ite (kept_privFault ht)
      (keptX_ite (kept_rfeDf ht) (kept_rfeBody ht))))
  | wflush _ _ => exact keptOut_next (kept_runInstr h (fun _ ht => ht) (fun _ ht => kept_flushWindows ht))
  | trap _ _ _ => exact keptOut_next (kept_runInstr h (fun _ ht => ht) (fun _ ht => kept_raiseExc ht))
  | brk _ _ _ => exact keptOut_next (kept_runInstr h (fun _ ht => ht) (fun _ ht => keptX_ite (kept_raiseDbg ht) (kept_raiseExc ht)))
  | fpArith _ _ _ _ _ _ => exact keptOut_next (kept_runInstr h (fun _ ht => ht) (fun _ ht => kept_fpBody ht))
  | fdiv _ _ _ _ _ _ => exact keptOut_next (kept_runInstr h (fun _ ht => ht) (fun _ ht => kept_fpBody ht))
  | fsqrt _ _ _ _ _ => exact keptOut_next (kept_runInstr h (fun _ ht => ht) (fun _ ht => kept_fpBody ht))
  | fcvt _ _ _ _ _ => exact keptOut_next (kept_runInstr h (fun _ ht => ht) (fun _ ht => kept_fcvtBody ht))
  | fmov _ _ _ _ _ => exact keptOut_next (kept_runInstr h (fun _ ht => ht) (fun _ ht => kept_fmovBody ht))
  | fcmp _ _ _ _ _ _ _ => exact keptOut_next (kept_runInstr h (fun _ ht => ht) (fun _ ht => kept_fcmpBody ht))
  | fld _ _ _ _ _ _ => exact keptOut_next (kept_runInstr h (fun _ ht => ht) (fun _ ht => kept_loadBy (fun _ _ ht1 => kept_fw ht1) ht))
  | fst _ _ _ _ _ _ =>
    exact keptOut_next (kept_runInstr h (fun _ ht => ht) (fun _ ht => keptX_ite (kept_halfStore (kept_freeIf ht))
      (keptX_ite (kept_storeBy (fun _ ht1 => ht1) ht) (kept_storeBy (fun _ ht1 => ht1) ht))))
  | li _ _ _ _ => exact kept_execLi h
  | lih _ _ _ _ => exact kept_execLih h
  | addw _ _ _ _ _ => exact kept_execAddw h
  | andw _ _ _ _ _ => exact kept_execAndw h
  | orw _ _ _ _ _ => exact kept_execOrw h
  | cmpw _ _ _ _ _ _ _ _ => exact keptOut_next (kept_runInstr h (fun _ ht => ht) (fun _ ht => kept_setPreds ht))
  | pset _ _ _ _ => exact keptOut_next (kept_runInstr h (fun _ ht => ht) (fun _ ht => kept_setCore ht))
  | pget _ _ _ _ => exact keptOut_next (kept_runInstr h (fun _ ht => ht) (fun _ ht => kept_setReg ht))
  | pstat _ _ _ => exact keptOut_next (kept_runInstr h (fun _ ht => ht) (fun _ ht => kept_setReg ht))
  | pwait _ _ => exact keptOut_next (kept_runInstr h (fun _ ht => ht) (fun _ ht => keptX_ite ht (keptX_ite ht ht)))
  | pclr _ _ => exact keptOut_next (kept_runInstr h (fun _ ht => ht) (fun _ ht => kept_setCore ht))
  | pfft _ _ _ _ _ _ _ => exact keptOut_next (kept_runInstr h (fun _ ht => ht) (fun _ ht => kept_prismIssue ht))
  | pfilt _ _ _ _ => exact keptOut_next (kept_runInstr h (fun _ ht => ht) (fun _ ht => kept_prismIssue ht))
  | pmat _ _ _ => exact keptOut_next (kept_runInstr h (fun _ ht => ht) (fun _ ht => kept_prismIssue ht))
  | prismCommandStart _ => exact kept_execPrismCommandStart h
  | prismCommandDone _ _ => exact kept_execPrismCommandDone h
  | customInstruction _ _ _ _ _ _ =>
    exact keptOut_next (kept_runInstr h (fun _ ht => ht) (fun _ ht => keptX_ite (kept_microPerr ht) (kept_microRun ht)))
  | xstateLazy _ => exact kept_execXstateLazy h
  | xsaveWrite _ _ _ => exact keptOut_next (kept_runInstr h (fun _ ht => ht) (fun _ ht => kept_mtsrBody ht))
  | loopsRegWrite _ _ _ _ _ _ => exact keptOut_next (kept_regWriteOpt h (fun _ ht => kept_loopsWrite ht))
  | impreciseExceptionDelivery _ => exact keptOut_next (kept_ite (kept_deliverImprecise h) h)
  | storeErrorResponse _ _ _ _ => exact keptOut_next (kept_ite (kept_pendImprecise (kept_takeFree h)) h)
  | machineCheck _ _ => exact kept_execMachineCheck h
  | coreRelease _ _ => exact keptOut_next (kept_ite (kept_refuseDark h) (kept_regWriteOpt h (fun _ ht => kept_releaseWrite ht)))
  | mcWaitTimeout _ => exact kept_execMcWaitTimeout h
  | partStart _ _ _ => exact keptOut_next (kept_regWriteOpt h (fun _ ht => kept_partStartNow ht))
  | partStop _ _ => exact keptOut_next (kept_regWriteOpt h (fun _ ht => kept_partStopNow ht))
  | partStopDone _ => exact keptOut_next (kept_ite (kept_wb h) h)
  | partCoresWrite _ _ _ _ => exact keptOut_next (kept_regWriteOpt h (fun _ ht => kept_partCoresEffect ht))
  | partModesWrite _ _ _ => exact keptOut_next (kept_regWriteOpt h (fun _ ht => kept_partModesEffect ht))
  | partTimingTakeEffect _ => exact keptOut_next (kept_ite (kept_setCore h) h)
  | l3waysWrite _ _ _ => exact keptOut_next (kept_regWriteOpt h (fun _ ht => kept_l3waysEffect ht))
  | tlbiAll _ _ _ => exact keptOut_next (kept_tlbiWrite h)
  | tlbiAsn _ _ _ _ => exact keptOut_next (kept_tlbiWrite h)
  | tlbiVa _ _ _ _ _ => exact keptOut_next (kept_tlbiWrite h)
  | tlbiPstageAll _ _ _ => exact keptOut_next (kept_tlbiWrite h)
  | tlbIlock _ _ _ _ _ => exact keptOut_next (kept_tlbiWrite h)
  | tlbIunlock _ _ _ _ _ => exact keptOut_next (kept_tlbiWrite h)
  | tlbiDone _ => exact keptOut_next (kept_ite (kept_setCore h) h)
  | cacheIlock _ _ _ _ _ => exact keptOut_next (kept_cacheWrite h)
  | cacheIunlock _ _ _ => exact keptOut_next (kept_cacheWrite h)
  | l1dFlush _ _ => exact keptOut_next (kept_cacheWrite h)
  | cacheClean _ _ _ => exact keptOut_next (kept_cacheWrite h)
  | cacheCleanInv _ _ _ => exact keptOut_next (kept_cacheWrite h)
  | cacheOpDone _ => exact keptOut_next (kept_ite (kept_setCore h) h)
  | ptbWrite _ _ _ => exact keptOut_next (kept_regWrite h (fun _ ht => kept_ptbEffect ht))
  | gtbWrite _ _ _ _ => exact keptOut_next (kept_regWrite h (fun _ ht => kept_gtbEffect ht))
  | rdshared _ _ _ => exact keptOut_next (kept_agentRequest h)
  | rdunique _ _ => exact keptOut_next (kept_agentRequest h)
  | upgrade _ _ => exact keptOut_next (kept_agentRequest h)
  | rdonce _ _ => exact keptOut_next (kept_epRequest h)
  | wrfull _ _ _ => exact keptOut_next (kept_epRequest h)
  | wrpartial _ _ _ _ => exact keptOut_next (kept_ite (kept_partialRefused h) (kept_epRequest h))
  | wbdata _ _ => exact keptOut_next (kept_evictLine h)
  | evict _ _ => exact keptOut_next (kept_evictLine h)
  | snpshared _ _ => exact keptOut_next (kept_snoopRun h)
  | snpinv _ _ => exact keptOut_next (kept_snoopRun h)
  | snponce _ _ => exact keptOut_next (kept_snoopRun h)
  | snpflush _ _ => exact keptOut_next (kept_snoopRun h)
  | snpresp _ _ => exact kept_execSnpresp h
  | snprespdata _ _ => exact kept_execSnprespdata h
  | comp _ _ => exact kept_execComp h
  | data _ _ => exact keptOut_next (kept_dataRun h)
  | datafwd _ _ => exact keptOut_next (kept_dataRun h)
  | retry _ _ => exact keptOut_next (kept_phaseRun h)
  | creditgrant _ _ => exact keptOut_next (kept_phaseRun h)
  | nack _ _ => exact kept_execNack h
  | nackBackoffExpiry _ _ => exact kept_execNackBackoffExpiry h
  | wback _ _ => exact kept_execWback h
  | errresp _ _ _ => exact kept_execErrresp h
  | holdWindowEnd _ _ => exact keptOut_next (kept_ite h (kept_foldl (kept_setLn h) (fun _ _ ht => kept_answerSnoop ht)))
  | dieAbsentMark _ => exact keptOut_next (kept_ite (kept_markAbsent h) h)
  | homeLossScan _ _ => exact keptOut_next (kept_ite (kept_foldl (kept_setSl h) (fun _ _ ht => kept_scrubEntry (kept_flushBad ht))) h)
  | homeScanDone _ => exact keptOut_next (kept_ite (kept_raiseCond (kept_wb (kept_setSl h))) h)
  | dieRejoin _ =>
    exact keptOut_next (kept_ite (kept_foldl (kept_raiseCond (kept_wb (kept_update (kept_foldl h (fun _ _ ht => kept_wb ht)))))
      (fun _ _ ht => kept_ite (kept_setLink (kept_linkGoto ht)) ht)) h)
  | routeCommit _ _ _ => exact keptOut_next (kept_regWriteOpt h (fun _ ht => kept_routeCommitEffect ht))
  | routeInstall _ _ _ => exact kept_execRouteInstall h
  | routerReconfig _ _ _ => exact keptOut_next (kept_regWriteOpt h (fun _ ht => kept_rcfgEffect ht))
  | routerDrainDone _ _ => exact kept_execRouterDrainDone h
  | packetReceive _ _ _ _ _ => exact kept_execPacketReceive h
  | statsConfigWrite _ _ _ => exact keptOut_next (kept_regWrite h (fun _ ht => kept_statsCfgEffect ht))
  | linkFrameReceive _ _ _ _ _ => exact keptOut_next (kept_ite (kept_linkFrame h) h)
  | linkReplayRequest _ _ => exact keptOut_next (kept_ite (kept_linkPump (kept_setLink h)) h)
  | linkReplayTimeout _ => exact kept_execLinkReplayTimeout h
  | linkCredit _ _ => exact keptOut_next (kept_ite (kept_setLink h) h)
  | d2dRetrain _ _ _ => exact keptOut_next (kept_d2dCtlAccess h)
  | d2dDisable _ _ _ => exact keptOut_next (kept_d2dCtlAccess h)
  | linkTrainDone _ _ _ _ _ _ =>
    exact keptOut_next (kept_ite h (kept_ite (kept_ite (kept_linkRetrain (kept_setLink h)) (kept_linkDown h))
      (kept_ite (kept_linkDown (kept_raiseCond (kept_linkLog (kept_wb h)))) (kept_linkUp h))))
  | heartbeatSend _ => exact keptOut_next (kept_ite (kept_setLink h) h)
  | heartbeatLoss _ => exact keptOut_next (kept_ite (kept_linkDown h) h)
  | linkRecover _ _ =>
    exact keptOut_next (kept_ite h (kept_ite (kept_foldl (kept_setLink h) (fun _ _ ht => kept_requestAbsent ht))
      (kept_hubAhead (kept_setLink h))))
  | dieEmpty _ => exact keptOut_next (kept_ite (kept_dieEmptyRun h) h)
  | fuseRead _ _ _ => exact keptOut_next (kept_ite h (kept_ite (kept_logErr (kept_wr h)) (kept_wr h)))
  | mirrd _ _ => exact kept_execMirrd h
  | mirwr _ _ _ => exact keptOut_next (kept_mirWrite h)
  | pairWrite _ _ _ => exact keptOut_next (kept_regWriteOpt h (fun _ ht => kept_pairEffect ht))
  | mcpChannelEnable _ _ _ => exact keptOut_next (kept_regWriteOpt h (fun _ ht => kept_mcpCtlWrite ht))
  | mcpChannelDisable _ _ _ => exact keptOut_next (kept_regWriteOpt h (fun _ ht => kept_mcpCtlWrite ht))
  | mcpResync _ _ => exact keptOut_next (kept_regWriteOpt h (fun _ ht => kept_mcpCtlWrite ht))
  | mcpHalfArrival _ _ => exact keptOut_next (kept_ite (kept_mcpMatch (kept_mcpOpenFirst h)) h)
  | mcpWindowOpen _ => exact kept_execMcpWindowOpen h
  | mcpDeadline _ => exact kept_execMcpDeadline h
  | enterOperate _ => exact keptOut_next (kept_smgAccess h)
  | recover _ => exact keptOut_next (kept_smgAccess h)
  | enterSafe _ => exact keptOut_next (kept_smgAccess h)
  | enterMaint _ => exact keptOut_next (kept_smgAccess h)
  | report _ _ => exact keptOut_next (kept_smgAccess h)
  | safeToggle => exact keptOut_next (kept_ite (kept_update h) h)
  | wdArm _ _ => exact kept_execWdArm h
  | wdService _ _ _ _ _ =>
    exact keptOut_next (kept_ite (kept_absentAccess h) (kept_ite (kept_failAccess h) (kept_wdServiceNow (kept_respOk h))))
  | wdTimeout => exact keptOut_next (kept_ite (kept_wdExpire h) h)
  | wdRefLost => exact keptOut_next (kept_ite (kept_wdExpire h) h)
  | wdExpiryReset => exact keptOut_next (kept_ite (kept_rstTrigger (kept_update h)) h)
  | wdFreezeRelease => exact keptOut_next (kept_ite (kept_wdCycle (kept_wb h)) h)
  | powerup _ _ => exact keptOut_next (kept_dmcCmdAccess h)
  | dmcPowerupDone _ => exact keptOut_next (kept_ite (kept_wb (kept_wb h)) h)
  | service _ _ => exact keptOut_next (kept_dmcCmdAccess h)
  | test _ _ => exact keptOut_next (kept_dmcCmdAccess h)
  | exitTest _ _ => exact keptOut_next (kept_dmcCmdAccess h)
  | fill _ _ => exact keptOut_next (kept_dmcCmdAccess h)
  | dmcFillDone _ => exact keptOut_next (kept_ite (kept_fillDone h) h)
  | dmcSweep _ _ _ => exact keptOut_next (kept_regWriteOpt h (fun _ ht => kept_dmcSweepEffect ht))
  | dmcSweepDone _ _ => exact keptOut_next (kept_ite (kept_foldl (kept_wb h) (fun _ _ ht => kept_wr ht)) h)
  | dmcMapWrite _ _ _ => exact keptOut_next (kept_ite (kept_unitAbsent h) (kept_regWriteOpt h (fun _ ht => kept_dmcMapEffect ht)))
  | dmcSlotEnable _ _ _ => exact keptOut_next (kept_regWriteOpt h (fun _ ht => kept_slotctlEffect ht))
  | dmcReadRequest _ _ _ _ _ => exact keptOut_next (kept_dmcReadArrive h)
  | dmcWriteRequest _ _ _ _ _ _ _ => exact keptOut_next (kept_dmcWriteArrive h)
  | dmcMirwr _ _ _ _ _ => exact keptOut_next (kept_dmcMirwrRun h)
  | dmcSchedule _ _ => exact kept_execDmcSchedule h
  | dmcReadData _ _ _ _ _ => exact keptOut_next (kept_ite (kept_readData h) h)
  | dmcRefresh _ => exact keptOut_next (kept_ite (kept_refreshDue h) h)
  | dmcMr4Read _ _ _ => exact keptOut_next (kept_ite (kept_setDmc h) h)
  | dmcTempRead _ _ => exact keptOut_next (kept_ite (kept_tempRead h) h)
  | dmcOffsetApply _ => exact keptOut_next (kept_ite (kept_setDmc h) h)
  | dmcPanic _ => exact kept_execDmcPanic h
  | dmcSlotStart _ => exact keptOut_next (kept_ite (kept_setDmc h) h)
  | dmcTokenRefill _ _ => exact keptOut_next (kept_ite (kept_refillTokens h) h)
  | qeOwn _ _ => exact keptOut_next (kept_regWriteOpt h (fun _ ht => kept_qeOwnEffect ht))
  | qeRingEnable _ _ _ => exact keptOut_next (kept_ringRegWrite h (fun _ _ ht => kept_rcfgWrite ht))
  | qeRingDisable _ _ _ => exact keptOut_next (kept_ringRegWrite h (fun _ _ ht => kept_rcfgWrite ht))
  | qeEnq _ _ _ => exact keptOut_next (kept_regWrite h (fun _ ht => kept_enqStart ht))
  | qeEnqSourceRead _ _ => exact keptOut_next (kept_enqRead h)
  | qeEnqComplete _ _ => exact keptOut_next (kept_enqDone h)
  | qeDeq _ _ _ => exact keptOut_next (kept_regWrite h (fun _ ht => kept_deqStart ht))
  | qeDeqComplete _ _ _ => exact keptOut_next (kept_deqDone h)
  | qeDmaEnable _ _ _ => exact keptOut_next (kept_dmaRegWrite h (fun _ _ ht => kept_dctlWrite ht))
  | qeDmaDisable _ _ _ => exact keptOut_next (kept_dmaRegWrite h (fun _ _ ht => kept_dctlWrite ht))
  | dmaCommandFetch _ => exact keptOut_next (kept_dmaFetch h)
  | dmaCommandStart _ => exact keptOut_next (kept_dmaStart h)
  | dmaCommandComplete _ _ _ => exact keptOut_next (kept_dmaDone h)
  | dmaCompletionPost _ => exact keptOut_next (kept_dmaPost h)
  | qeDabort _ _ _ _ => exact keptOut_next (kept_regWrite h (fun _ ht => kept_dmaAbort ht))
  | hpInboundRequest _ _ _ _ _ => exact kept_execHpInboundRequest h
  | hpConfigRequest _ _ _ => exact kept_execHpConfigRequest h
  | hpOutboundAccess _ _ _ _ => exact keptOut_next (kept_hostAccess h)
  | hpReadCompletion _ _ _ => exact kept_execHpReadCompletion h
  | hpCompletionTimeout _ _ => exact kept_execHpCompletionTimeout h
  | hpLinkDown _ => exact keptOut_next (kept_ite (kept_hpDown h) h)
  | hpFlr _ _ => exact keptOut_next (kept_ite (kept_flr h) h)
  | hpVmapEnable _ _ _ _ => exact keptOut_next (kept_regWriteOpt h (fun _ ht => kept_vmapEffect ht))
  | hpMsixSend _ => exact kept_execHpMsixSend h
  | hsemRead _ _ _ _ => exact keptOut_next (kept_ite (kept_absentAccess h) (kept_semRead h))
  | hsemWrite _ _ _ _ => exact keptOut_next (kept_ite (kept_absentAccess h) (kept_semWrite h))
  | spaConfigAccess _ _ _ _ => exact kept_execSpaConfigAccess h
  | spaDeviceVector _ _ => exact keptOut_next (kept_ite (kept_spaVector h) h)
  | spaDeviceDma _ _ _ => exact keptOut_next (kept_ite (kept_spaDma h) h)
  | spaLinkDown _ => exact keptOut_next (kept_ite (kept_spaLink h) h)
  | ethFrameReceive _ _ _ => exact keptOut_next (kept_ite (kept_ethReceive h) h)
  | ethTxEntry _ _ => exact keptOut_next (kept_ite h (kept_ite (kept_copyGo h) (kept_ite (kept_txTake h) h)))
  | ethTxComplete _ => exact kept_execEthTxComplete h
  | ptpStep _ _ _ => exact keptOut_next (kept_regWrite h (fun _ ht => kept_ptpStepEffect ht))
  | gclChange _ _ _ => exact keptOut_next (kept_regWriteOpt h (fun _ ht => kept_gclEffect ht))
  | ethGateInterval _ => exact keptOut_next (kept_ite (kept_gatesRun h) h)
  | ethLaunch _ _ => exact kept_execEthLaunch h
  | frerRecoveryReset _ => exact keptOut_next (kept_ite (kept_countReg (kept_update h)) h)
  | canfFrameReceive _ _ => exact keptOut_next (kept_ite h (kept_ite (kept_canFault h) (kept_canReceive h)))
  | canfFrameTransmit _ => exact keptOut_next (kept_ite h (kept_ite (kept_ite (kept_canFault h) h) (kept_canTransmit h)))
  | canfBusOffRecovery _ => exact keptOut_next (kept_ite (kept_wr h) h)
  | mvbPortWrite _ _ _ _ => exact keptOut_next (kept_regWrite h (fun _ ht => kept_dpWrite ht))
  | mvbFrame _ _ => exact keptOut_next (kept_ite (kept_mvbRun h) h)
  | serTransfer _ _ => exact keptOut_next (kept_ite (kept_serRun h) h)
  | gpioEdge _ _ _ => exact keptOut_next (kept_ite (kept_gpioAccept h) h)
  | pslEnable _ _ => exact keptOut_next (kept_pslCtlAccess h)
  | pslPortRetrain _ _ _ => exact keptOut_next (kept_regWrite h (fun _ ht => kept_pslPortCtl ht))
  | pslAlignDone _ => exact keptOut_next (kept_ite (kept_frameOut (kept_setPp (kept_ppGoto h))) h)
  | pslIdent _ _ _ _ => exact keptOut_next (kept_ite (kept_identRun h) h)
  | pslCal _ _ _ _ _ => exact keptOut_next (kept_ite (kept_calRun h) h)
  | pslCalibrate _ => exact keptOut_next (kept_ite (kept_frameOut h) h)
  | pslTimeSample =>
    exact keptOut_next (kept_ite h (kept_foldl h (fun _ _ ht => kept_ite ht (kept_foldl ht
      (fun _ _ ht1 => kept_ite (kept_frameOut ht1) ht1)))))
  | pslTimeFrame _ _ _ => exact keptOut_next (kept_ite h (kept_ite (kept_frameDiscard h) (kept_timeFrame (kept_frameTake h))))
  | pslSampleAge _ _ => exact kept_execPslSampleAge h
  | pslMessageSend _ => exact keptOut_next (kept_ite (kept_messageSend h) h)
  | pslMessageFrame _ _ => exact keptOut_next (kept_ite (kept_messageFrame h) h)
  | pslReplay _ _ => exact keptOut_next (kept_ite h (kept_foldl (kept_setPp h) (fun _ _ ht => kept_frameOut ht)))
  | pslPortTimeout _ => exact keptOut_next (kept_ite (kept_ppAlign (kept_ppDown h)) h)
  | pslRenumber _ => exact keptOut_next (kept_pslCtlAccess h)
  | pwrDomainOn _ _ => exact keptOut_next (kept_regWriteOpt h (fun _ ht => kept_domCmdEffect ht))
  | pwrDomainOff _ _ => exact keptOut_next (kept_regWriteOpt h (fun _ ht => kept_domCmdEffect ht))
  | domainDone => exact kept_execDomainDone h
  | pwrEnvelopeWrite _ _ => exact keptOut_next (kept_regWriteOpt h (fun _ ht => kept_envelopeEffect ht))
  | pwrEmissionWrite _ _ => exact keptOut_next (kept_regWriteOpt h (fun _ ht => kept_emissionEffect ht))
  | pwrEmissionDone => exact keptOut_next (kept_ite (kept_emissionDone h) h)
  | pwrSample _ => exact kept_execPwrSample h
  | pwrEvaluate => exact kept_execPwrEvaluate h
  | hupSample _ =>
    exact keptOut_next (kept_ite (kept_pfwSet (kept_update (kept_hupTake h)))
      (kept_ite (kept_pfwSet (kept_update (kept_hupTake h))) (kept_hupTake h)))
  | jrnRequest => exact kept_execJrnRequest h
  | jrnMarkerWrite => exact kept_execJrnMarkerWrite h
  | jrnNvmeCompletion _ => exact kept_execJrnNvmeCompletion h
  | jrnNvmeTimeout => exact kept_execJrnNvmeTimeout h
  | jrnErase => exact keptOut_next (kept_ite h (kept_jrnTail (kept_update h)))
  | jrnEraseDone => exact kept_execJrnEraseDone h
  | jrnScan _ _ => exact keptOut_next (kept_regWriteOpt h (fun _ ht => kept_jrnCtlEffect ht))
  | jrnScanDone => exact keptOut_next (kept_ite (kept_jrnResume h) h)
  | powerOnReset => exact keptOut_next (kept_resetAll (kept_jrnTear h))
  | powerOnResetEnd => exact keptOut_next (kept_ite (kept_trainLinks (kept_update h)) h)
  | prst => exact keptOut_next (kept_rstTrigger h)
  | pkgrst _ => exact keptOut_next (kept_pwrCtlAccess h)
  | vinCoreLow => exact keptOut_next (kept_rstTrigger h)
  | packageReset => exact keptOut_next (kept_ite h (kept_ite (kept_wr (kept_update h)) (kept_ite h (kept_packageInit (kept_jrnTear h)))))
  | packageResetEnd => exact keptOut_next (kept_ite (kept_trainLinks (kept_update h)) h)
  | dierst _ _ => exact keptOut_next (kept_pwrCtlAccess h)
  | debugReset => exact keptOut_next (kept_update h)
  | thermtrip => exact keptOut_next (kept_update h)
  | bootRom _ =>
    exact keptOut_next (kept_ite h (kept_ite (kept_bootHalt (kept_romStart h)) (kept_bootSlots (kept_update (kept_romStart h)))))
  | provision _ => exact keptOut_next (kept_bseAccess h)
  | lock _ => exact keptOut_next (kept_bseAccess h)
  | enroll _ => exact keptOut_next (kept_bseAccess h)
  | keyop _ => exact keptOut_next (kept_bseAccess h)
  | advance _ => exact keptOut_next (kept_bseAccess h)
  | install _ => exact keptOut_next (kept_bseAccess h)
  | activate _ => exact keptOut_next (kept_bseAccess h)
  | loadmc _ => exact keptOut_next (kept_bseAccess h)
  | nopatch _ => exact keptOut_next (kept_bseAccess h)
  | verifyMc _ => exact keptOut_next (kept_bseAccess h)
  | handover _ => exact keptOut_next (kept_bseAccess h)
  | verify _ _ => exact keptOut_next (kept_svcAccess h)
  | reportAttest _ _ => exact keptOut_next (kept_svcAccess h)
  | chain _ _ => exact keptOut_next (kept_svcAccess h)
  | bseCommandDone => exact absurd rfl hc
  | rcvOpen _ => exact keptOut_next (kept_rcvAccess h)
  | rcvPush _ _ => exact keptOut_next (kept_rcvAccess h)
  | rcvDone _ => exact keptOut_next (kept_rcvAccess h)
  | rcvClose _ => exact keptOut_next (kept_rcvAccess h)
  | scanIrUpdate _ => exact keptOut_next (kept_ite (kept_bsref (kept_update h)) (kept_update h))
  | dieselUpdate _ => exact keptOut_next (kept_update h)
  | dbgaccUpdate _ => exact keptOut_next (kept_scanAccess h)
  | authReq _ => exact keptOut_next (kept_scanAccess h)
  | authGo => exact keptOut_next (kept_scanAccess h)
  | authVerifyDone => exact kept_execAuthVerifyDone h
  | scanRevoke _ => exact keptOut_next (kept_scanAccess h)
  | dbgRevoke _ _ => exact keptOut_next (kept_regWrite h (fun _ ht => kept_dbgRevokeEffect ht))
  | stop => exact keptOut_next (kept_scanAccess h)
  | stopPart => exact keptOut_next (kept_scanAccess h)
  | run => exact keptOut_next (kept_scanAccess h)
  | mbxIn _ => exact keptOut_next (kept_scanAccess h)
  | mbxOut => exact keptOut_next (kept_scanAccess h)
  | coreMbxRead _ _ => exact keptOut_next (kept_regRead h (fun _ ht => kept_mbxinRead ht))
  | coreMbxWrite _ _ _ => exact keptOut_next (kept_regWriteOpt h (fun _ ht => kept_mbxoutEffect ht))
  | traceData => exact keptOut_next (kept_scanAccess h)
  | debugEntry _ => exact keptOut_next (kept_ite (kept_dbgEnter h) h)
  | dbgWdExpiry _ => exact keptOut_next (kept_ite h (kept_wdsvcEffect (kept_ite (kept_raiseSw (kept_wb h)) (kept_wb h))))
  | wdsvc _ _ => exact keptOut_next (kept_regWrite h (fun _ ht => kept_wdsvcEffect ht))
  | dbgViewRequest _ _ _ => exact keptOut_next (kept_vaddrAccess h)
  | lnsSessionEnable _ _ _ => exact keptOut_next (kept_regWriteOpt h (fun _ ht => kept_lnsCtlEffect ht))
  | lnsSync _ => exact kept_execLnsSync h
  | lnsPacket _ _ _ => exact kept_execLnsPacket h
  | lnsTrigger _ _ _ => exact keptOut_next (kept_ite (kept_lensFire h) h)
  | lnsCaptureStop _ => exact kept_execLnsCaptureStop h
  | lnsRead _ _ => exact keptOut_next (kept_regRead h (fun _ ht => kept_respOk (kept_lensRead ht)))
  | gfreezeWrite _ _ => exact keptOut_next (kept_regWrite h (fun _ ht => kept_gfreezeEffect ht))
  | snaptimeArm _ _ => exact keptOut_next (kept_regWrite h (fun _ ht => kept_snaptimeEffect ht))
  | counterSnapshot => exact kept_execCounterSnapshot h
  | counterWrap _ _ => exact keptOut_next (kept_ite (kept_cntAdd h) h)
  | hpLinkUp _ _ _ _ => exact keptOut_next (kept_ite h (kept_raiseCond (kept_wr h)))
  | spaLinkUp _ => exact keptOut_next (kept_ite (kept_spaLink h) h)
  | ethLinkChange _ _ _ => exact keptOut_next (kept_ite (kept_raiseCond (kept_wr h)) h)
  | mvbLineChange _ _ _ => exact keptOut_next (kept_ite (kept_raiseCond (kept_wb h)) h)
  | pslIdleFrame _ _ => exact keptOut_next (kept_ite h (kept_ite (kept_frameDiscard h) (kept_pslDrain (kept_frameTake h))))
  | pslReplayTimeout _ => exact kept_execPslReplayTimeout h
  | pwrDomainOffDone => exact kept_execPwrDomainOffDone h
  | boundaryRegisterUpdate _ => exact keptOut_next (kept_ite (kept_update h) (kept_ite (kept_update h) (kept_bsref (kept_update h))))
  | lnsSinkWrite _ => exact kept_execLnsSinkWrite h

/-! ## A step -/

/-- Every command moves the fused state only forward, and keeps the rest of what `Kept` speaks of. -/
theorem exec_forward {c : Instr} (e : exec c s = .next t) : Forward s t := by
  by_cases hc : c = .bseCommandDone
  · subst hc
    exact forward_bseCommandDone e
  · exact forward_of_kept (exec_kept c s hc t e)

theorem step_cons {c : Instr} {l : List Instr} (hp : s.pending = c :: l) : step s = exec c { s with pending := l } := by
  simp only [step, hp]

theorem step_nil (hp : s.pending = []) : step s = .next s := by
  simp only [step, hp]

/-- Settles O46: every command keeps the canonical form of memory. -/
theorem memoryStaysCanonical : Obligations.MemoryStaysCanonical := by
  unfold Obligations.MemoryStaysCanonical
  intro s t hs he
  cases hp : s.pending with
  | nil =>
    rw [step_nil hp] at he
    exact Host.Outcome.next.inj he ▸ hs
  | cons c l =>
    rw [step_cons hp] at he
    exact (exec_forward he).kept.memOk hs

/-- Settles O47: only the end of an engine command moves the fused state, and only forward. -/
theorem fusedStateMovesOnlyForward : Obligations.FusedStateMovesOnlyForward := by
  unfold Obligations.FusedStateMovesOnlyForward
  refine ⟨by decide, fun s t hs he => ?_⟩
  cases hp : s.pending with
  | nil =>
    rw [step_nil hp] at he
    obtain rfl := Host.Outcome.next.inj he
    exact ⟨le_rfl, hs, fun hn => absurd rfl hn⟩
  | cons c l =>
    rw [step_cons hp] at he
    obtain ⟨hle, h4⟩ := (exec_forward he).life hs
    refine ⟨hle, h4, fun hn => ⟨l, ?_⟩⟩
    by_contra hc
    exact hn (exec_kept c _ (fun h => hc (by rw [h])) t he).life

/-- Settles O48: every command leaves the commands that wait and the package's identity as they were. -/
theorem queueLosesOnlyItsFront : Obligations.QueueLosesOnlyItsFront := by
  unfold Obligations.QueueLosesOnlyItsFront
  intro s t c l hp he
  rw [step_cons hp] at he
  obtain ⟨⟨hpart, hserial, -, hpending, -⟩, -⟩ := exec_forward he
  exact ⟨hpending, hpart, hserial⟩

/-- Settles O1. -/
theorem frontCommandRuns : Obligations.FrontCommandRuns := by
  unfold Obligations.FrontCommandRuns
  exact ⟨fun c s l => step_cons rfl, fun s hp => step_nil hp⟩

/-- Settles O44. -/
theorem resetMemoryIsCanonical : Obligations.ResetMemoryIsCanonical := by
  unfold Obligations.ResetMemoryIsCanonical
  exact ⟨rfl, rfl⟩

end Sys2Proof.Machine
end

section
/-! PROOFS of O38. The semaphores of the host ports: who reads and who writes them (R39, R403). -/

namespace Sys2Proof.Machine

/-! ## The semaphore as a register -/

/-- Where every register of a page is 32 bits wide, an aligned access of 32 bits has the right width. -/
theorem widthOk_of_rows (r : RegAddr) (hrows : ∀ row ∈ rowsOf r.ty, row.pLo ≤ r.page → r.page ≤ row.pHi → row.width = 32)
    (ha : r.off % 4 = 0) : widthOk r 32 = true := by
  have hfound (off : Nat) (row : RegRow) (hf : findRow r.ty r.page off = some row) : row.width = 32 := by
    rw [findRow] at hf
    obtain ⟨hlo, hhi, -⟩ := by simpa [and_assoc] using List.find?_some hf
    exact hrows row (List.mem_of_find?_eq_some hf) hlo hhi
  have hw : regWidth r = some 32 ∨ regWidth r = none := by
    unfold regWidth
    split
    · exact .inl rfl
    · split
      · rename_i row hf
        exact .inl (congrArg some (hfound _ row hf))
      · split
        · exact .inr rfl
        · split
          · rename_i row hf
            exact .inr (if_neg (by rw [hfound _ row hf]; decide))
          · exact .inr rfl
  rcases hw with hw | hw <;> simp [widthOk, hw, ha]

theorem widthOk_hsemReg (p : Port) (k : Fin 256) : widthOk (hsemReg p k) 32 = true := by
  have ha : (0x100 + 4 * (k : Nat)) % 4 = 0 := by omega
  cases p with
  | hpa => exact widthOk_of_rows _ (show ∀ row ∈ rowsOf .hpa, row.pLo ≤ 1 → 1 ≤ row.pHi → row.width = 32 by decide) ha
  | hpb => exact widthOk_of_rows _ (show ∀ row ∈ rowsOf .hpb, row.pLo ≤ 1 → 1 ≤ row.pHi → row.width = 32 by decide) ha

theorem isHsem_hsemReg (p : Port) (k : Fin 256) : isHsem (hsemReg p k) = true := by
  have hk := k.isLt
  have hlt : 0x100 + 4 * (k : Nat) < 0x500 := by omega
  cases p <;> simp [isHsem, hsemReg, portBlock, hlt]

/-- What a read of two bits shows is their number. -/
theorem and_three_eq (v : Word) : v &&& 3 = BitVec.ofNat 64 (fld v 0 2) := by
  apply BitVec.eq_of_toNat_eq
  have h : v.toNat &&& 3 = v.toNat % 4 := Nat.and_two_pow_sub_one_eq_mod v.toNat 2
  simp [fld, h]
  omega

/-! ## What a read and a write do -/

variable {s : State} {p : Port} {f : Fin 33} {r : RegAddr} {k : Nat} {both : Bool} {v : Word} {i : Initiator}

/-- A host port whose partition may use the semaphore takes it where it is FREE, and learns whether it holds it. -/
theorem semRead_owner (ho : initPart s (.host p f) = 0 ∨ initPart s (.host p f) = semOwner s k) :
    semRead s (.host p f) r k false =
      if rf s (Reg.HPAS_HSEM k) 0 2 = 0 then respOk (wr s (Reg.HPAS_HSEM k) (BitVec.ofNat 64 (portNum p + 1))) 1
      else respOk s (if rf s (Reg.HPAS_HSEM k) 0 2 = portNum p + 1 then 1 else 0) := by
  have hn : ¬(initPart s (.host p f) ≠ 0 ∧ initPart s (.host p f) ≠ semOwner s k) := fun ⟨h0, h1⟩ => ho.elim h0 h1
  simp [semRead, semCode, hn]

theorem semRead_notOwner (h0 : initPart s (.host p f) ≠ 0) (h1 : initPart s (.host p f) ≠ semOwner s k) :
    semRead s (.host p f) r k both = respOk (recordPageErr s (.host p f) r cNOT_OWNER) 0 := by
  simp [semRead, semCode, h0, h1]

theorem semRead_noPort (hc : semCode i = none) : semRead s i r k both = respOk s (BitVec.ofNat 64 (rf s (Reg.HPAS_HSEM k) 0 2)) := by
  simp [semRead, hc]

theorem semWrite_host (hr : ready s r.ty r.inst = true) :
    semWrite s (.host p f) r k v =
      if v ≠ 0 then respOk s 0
      else if rf s (Reg.HPAS_HSEM k) 0 2 = portNum p + 1 then respOk (wr s (Reg.HPAS_HSEM k) 0) 0
      else respOk (recordPageErr s (.host p f) r cSEM_NOT_HELD) 0 := by
  simp [semWrite, semCode, hr]

theorem semWrite_noPort (hr : ready s r.ty r.inst = true) (hc : semCode i = none) :
    semWrite s i r k v =
      if isM0 s i && v == 0 then respOk (wr s (Reg.HPAS_HSEM k) 0) 0 else failAccess s i r cPRIVILEGE := by
  simp [semWrite, hc, hr]

theorem semWrite_notReady (hr : ready s r.ty r.inst = false) : semWrite s i r k v = failAccess s i r cREFUSED := by
  simp [semWrite, hr]

/-! ## The commands -/

theorem exec_hsemRead {port : Port} {k : Fin 256} (hc : cutOff s i (portBlock port) 0 = false) :
    exec (.hsemRead i port k both) s = .next (semRead s i (hsemReg port k) k both) :=
  congrArg Host.Outcome.next (if_neg (by simp [hc]))

theorem exec_hsemWrite {port : Port} {k : Fin 256} {v : W32} (hc : cutOff s i (portBlock port) 0 = false) :
    exec (.hsemWrite i port k v) s = .next (semWrite s i (hsemReg port k) k (w32 v)) :=
  congrArg Host.Outcome.next (if_neg (by simp [hc]))

/-- The debug view reads the holder, and nothing more (R403). -/
theorem readReg_hsem_view {q : Part} {port : Port} {k : Fin 256} (hc : cutOff s (viewIni q) (portBlock port) 0 = false) :
    readReg s (viewIni q) (hsemReg port k) 32 = respOk s (BitVec.ofNat 64 (rf s (Reg.HPAS_HSEM k) 0 2)) := by
  have hk : (0x100 + 4 * (k : Nat) - 0x100) / 4 = k := by omega
  have hr : readReg s (viewIni q) (hsemReg port k) 32 = semReadReg s (viewIni q) (hsemReg port k) := by
    rw [readReg, if_neg (by simpa [hsemReg] using hc), widthOk_hsemReg, isHsem_hsemReg]
    rfl
  rw [hr, semReadReg, if_pos (show isDebugView (viewIni q) = true from rfl), and_three_eq]
  simp only [hsemReg, hk, rf]

theorem w32_ne_zero {v : W32} (h : v ≠ 0) : w32 v ≠ 0 := by
  intro e
  apply h
  have ht := congrArg BitVec.toNat e
  simp only [w32, BitVec.toNat_ofNat] at ht
  apply BitVec.eq_of_toNat_eq
  have := v.isLt
  simp at ht ⊢
  omega

/-- Settles O38. -/
theorem hardwareSemaphoresAreExclusive : Obligations.HardwareSemaphoresAreExclusive := by
  unfold Obligations.HardwareSemaphoresAreExclusive
  refine ⟨?take, ?mine, ?theirs, ?notOwner, ?free, ?notHeld, ?ignored, ?others, ?forced, ?refused, ?notReady, ?view⟩
  case take =>
    intro s port q f k hc ho hz
    rw [exec_hsemRead hc, semRead_owner ho, if_pos hz]
  case mine =>
    intro s port q f k hc ho hm
    rw [exec_hsemRead hc, semRead_owner ho, if_neg (by omega), if_pos hm]
  case theirs =>
    intro s port q f k hc ho hz hm
    rw [exec_hsemRead hc, semRead_owner ho, if_neg hz, if_neg hm]
  case notOwner =>
    intro s port q f k both hc h0 h1
    rw [exec_hsemRead hc, semRead_notOwner h0 h1]
  case free =>
    intro s port q f k hc hm hr
    rw [exec_hsemWrite hc, semWrite_host hr, if_neg (by decide), if_pos hm]
  case notHeld =>
    intro s port q f k hc _ hm hr
    rw [exec_hsemWrite hc, semWrite_host hr, if_neg (by decide), if_neg hm]
  case ignored =>
    intro s port q f k v hc hv hr
    rw [exec_hsemWrite hc, semWrite_host hr, if_pos (w32_ne_zero hv)]
  case others =>
    intro s i port k both hc hn
    rw [exec_hsemRead hc, semRead_noPort hn]
  case forced =>
    intro s i port k hc hn hm hr
    rw [exec_hsemWrite hc, semWrite_noPort hr hn, if_pos (by simp [hm, w32])]
  case refused =>
    intro s i port k v hc hn hm hr
    have hf : ¬((isM0 s i && w32 v == 0) = true) := by
      rcases hm with hm | hm
      · simp [hm]
      · simpa using fun _ => w32_ne_zero hm
    rw [exec_hsemWrite hc, semWrite_noPort hr hn, if_neg hf]
  case notReady =>
    intro s i port k v hc hr
    rw [exec_hsemWrite hc, semWrite_notReady hr]
  case view =>
    intro s q port k hc
    rw [exec_debugViewRead _ _ _ _ (by cases port <;> rfl), readReg_hsem_view hc]

end Sys2Proof.Machine
end

section
/-! PROOFS of O34. Power-on, package and per-die reset, and what asks for them (R349, R445, R450 to R453, R508). -/

namespace Sys2Proof.Machine

/-- A cause of a package reset joins the causes that are recorded already, unless a power-on reset holds. -/
theorem rstTrigger_recorded {s : State} (c : Nat) (h : s.pwr.por = false) :
    rstTrigger s c = { s with pwr := { s.pwr with causes := if s.pwr.causes.contains c then s.pwr.causes else s.pwr.causes ++ [c] } } := by
  simp [rstTrigger, h]

/-- The package reset takes place, while no power-on reset holds, for a cause that need not wait for the record that is written. -/
theorem exec_packageReset_init {s : State} (hp : s.pwr.por = false) (hc : s.pwr.causes.isEmpty = false) (hr : s.pwr.inReset = false)
    (hj : (s.jrn.run.isSome && !s.pwr.causes.contains 3) = false) : exec .packageReset s = .next (packageInit (jrnTear s)) := by
  show execPackageReset s = _
  simp only [execPackageReset, hp, hc, hr, hj, Bool.or_self, Bool.false_eq_true, if_false, ok]

/-- While the package is in reset, a later cause is added to PWR_RSTCAUSE. -/
theorem exec_packageReset_add {s : State} (hp : s.pwr.por = false) (hc : s.pwr.causes.isEmpty = false) (hr : s.pwr.inReset = true) :
    exec .packageReset s = .next (wr { s with pwr := { s.pwr with causes := [] } } Reg.PWR_RSTCAUSE
      (BitVec.ofNat 64 (rf s Reg.PWR_RSTCAUSE 0 5 ||| causeBits s.pwr.causes))) := by
  show execPackageReset s = _
  simp only [execPackageReset, hp, hc, hr, Bool.or_self, Bool.false_eq_true, if_false, if_true, ok]

/-- Settles O34: a cause is recorded by `rstTrigger_recorded`, a write completes by `next_regWriteOpt_accepted`. -/
theorem resetCommandsComplete : Obligations.ResetCommandsComplete := by
  unfold Obligations.ResetCommandsComplete
  refine ⟨fun s => rfl, ?porEnd, ?prst, ?vinCoreLow, ?watchdog, ?package, ?die, ?init, ?add, ?resetEnd, fun s => rfl, fun s => rfl⟩
  case porEnd => exact fun s h => congrArg Host.Outcome.next (if_pos h)
  case prst => exact fun s h => congrArg Host.Outcome.next (rstTrigger_recorded 1 h)
  case vinCoreLow => exact fun s h => congrArg Host.Outcome.next (rstTrigger_recorded 3 h)
  case watchdog =>
    rintro s _ h ho rfl
    exact congrArg Host.Outcome.next ((if_pos ho).trans (rstTrigger_recorded 2 h))
  case package => exact fun s i u h hu => next_regWriteOpt_accepted h hu
  case die => exact fun s i site u h hu => next_regWriteOpt_accepted h hu
  case init => exact fun s hp hc hr hj => exec_packageReset_init hp hc hr hj
  case add => exact fun s hp hc hr => exec_packageReset_add hp hc hr
  case resetEnd => exact fun s hr hc => congrArg Host.Outcome.next (if_pos (by simp [hr, hc]))

end Sys2Proof.Machine
end

section
/-! PROOFS of O26. Mirror words at the home, pairs and comparator channels, the safety manager and its watchdog (R329 to R350). -/

namespace Sys2Proof.Machine

variable {s : State}

/-! ## Mirror words (R329) -/

theorem exec_mirrd {ep : BitVec 9} {addr : BitVec 48} {l : List Byte} {p : Bool}
    (h : agRead s ep.toNat (addr.toNat / 8 * 8) 8 = .data l p) :
    exec (.mirrd ep addr) s = .next (if p then respErr s ePOISON else respOk s (BitVec.ofNat 64 (leNat l))) := by
  show execMirrd ep addr s = _
  simp only [execMirrd, h, ok]

/-- A word whose halves match is written where memory answers and the line is not poisoned. -/
theorem mirWrite_served {ep a : Nat} {v : Word} (hv : mirrorOk v = true) (hr : unrouted s ep a true = false)
    (hm : memErr s a true = none) (hp : poisoned s (lineOf a) = false) : mirWrite s ep a v = respOk (wrMem s a 8 v.toNat) 0 := by
  simp only [mirWrite, hr, hm, hv, hp, Bool.not_true, Bool.false_eq_true, if_false]

/-! ## Comparator channels (R336, R337) -/

/-- A half that arrives in a ring of an active channel opens the window, where none is anchored, and is matched. -/
theorem exec_mcpHalfArrival {ch : Fin 256} {b : Bool} (ha : mcpActive s ch = true)
    (hn : (if b then (getMcp s ch).b else (getMcp s ch).a).isEmpty = false) :
    exec (.mcpHalfArrival ch b) s = .next (mcpMatch (mcpOpenFirst s ch) ch) :=
  congrArg Host.Outcome.next (if_pos (by simp only [ha, hn, Bool.not_false, Bool.and_self]))

/-- A TRIG assertion opens the window of an anchored channel, or finds the window before it still open. -/
theorem exec_mcpWindowOpen {ch : Fin 256} {t : Nat} {w : McpWin} {rest : List (Nat × McpWin)} (ha : mcpActive s ch = true)
    (ht : (getMcp s ch).trig = (t, w) :: rest) :
    exec (.mcpWindowOpen ch) s = .next (if (getMcp s ch).win.isSome then
        mcpFault (setMcp s ch { getMcp s ch with trig := rest }) ch true (absentHalves (getMcp s ch) (t + 1))
      else mcpMatch (setMcp (wf s (Reg.MCPCH_STATUS ch) 0 2 1) ch { getMcp s ch with trig := rest, win := some w }) ch) := by
  show execMcpWindowOpen ch s = _
  simp only [execMcpWindowOpen, ha, ht, Bool.not_true, Bool.false_eq_true, if_false, ok]

/-- A deadline in REFTIME that is reached with a half absent makes the output MISSING. -/
theorem exec_mcpDeadline {ch : Fin 256} {d : Nat} (hw : (getMcp s ch).win = some (.atTime d)) (ha : mcpActive s ch = true) (hd : d ≤ s.time)
    (hk : absentHalves (getMcp s ch) d ≠ 0) :
    exec (.mcpDeadline ch) s = .next (mcpFault s ch true (absentHalves (getMcp s ch) d)) := by
  have hr : winReached s (.atTime d) = some d := if_pos hd
  have hn : ¬((!mcpActive s ch || decide (absentHalves (getMcp s ch) d = 0)) = true) := by simp [ha, hk]
  show execMcpDeadline ch s = _
  simp only [execMcpDeadline, hw, hr, if_neg hn, ok]

/-! ## The watchdog (R347, R348) -/

theorem exec_wdArm {i : Initiator} {v : Word} {u : State} (h : Safety.AcceptedM0 s i Reg.SMG_WD_CTL) (hv : mirrorOk v = true)
    (hu : wdCtlWrite (respOk s 0) v = some u) : exec (.wdArm i v) s = .next u := by
  show execWdArm i v s = _
  rw [execWdArm, h.2]
  exact next_regWrite_accepted h.1 (by simp only [hv, hu, Bool.not_true, Bool.false_eq_true, if_false])

/-- The slots take writes from every partition while the page is READY. -/
theorem exec_wdService {i : Initiator} {slot mirror : Bool} {v : Word} {ticks : Nat} (hc : cutOff s i .smg 0 = false) :
    exec (.wdService i slot v mirror ticks) s = .next (if ready s .smg 0 then wdServiceNow (respOk s 0) i slot v mirror ticks
      else failAccess s i (if slot then Reg.SMG_WD_SVC1 else Reg.SMG_WD_SVC0) cREFUSED) := by
  show execWdService i slot v mirror ticks s = _
  cases hr : ready s .smg 0 <;> simp [execWdService, hc, hr, ok]

/-- Settles O26: a write completes by `next_regWriteOpt_accepted`; each other clause picks its branch of the command's lemma above. -/
theorem mirrorAndSafetyCommandsComplete : Obligations.MirrorAndSafetyCommandsComplete := by
  unfold Obligations.MirrorAndSafetyCommandsComplete
  refine ⟨?read, ?poison, ?write, ?pair, ?enable, ?disable, ?resync, ?halfB, ?halfA, ?opens, ?still, ?deadline, ?operate, ?recover, ?safe,
    ?maint, ?report, ?toggle, ?arm, ?service, ?notReady, ?timeout, ?refLost, ?freeze⟩
  case read => exact fun s ep addr l h => exec_mirrd h
  case poison => exact fun s ep addr l h => exec_mirrd h
  case write =>
    rintro s ep addr v _ rfl hv hr hm hp
    exact congrArg Host.Outcome.next (mirWrite_served hv hr hm hp)
  case pair => exact fun s i q v u h hu => next_regWriteOpt_accepted h hu
  case enable => exact fun s i ch v u h hu => next_regWriteOpt_accepted h hu
  case disable => exact fun s i ch v u h hu => next_regWriteOpt_accepted h hu
  case resync => exact fun s i ch u h hu => next_regWriteOpt_accepted h hu
  case halfB => exact fun s ch ha hn => exec_mcpHalfArrival ha hn
  case halfA => exact fun s ch ha hn => exec_mcpHalfArrival ha hn
  case opens =>
    intro s ch t w rest ha ht hw
    rw [exec_mcpWindowOpen ha ht, if_neg (by simp [hw])]
  case still =>
    intro s ch t w rest x ha ht hw
    rw [exec_mcpWindowOpen ha ht, if_pos (by simp [hw])]
  case deadline =>
    rintro s ch d _ hw ha hd rfl hk
    exact exec_mcpDeadline hw ha hd hk
  case operate => exact fun s i u h hh hu => next_regWriteOpt_accepted ⟨h, hh⟩ hu
  case recover => exact fun s i u h hh hu => next_regWriteOpt_accepted ⟨h, hh⟩ hu
  case safe => exact fun s i u h hh hu => next_regWriteOpt_accepted ⟨h, hh⟩ hu
  case maint => exact fun s i u h hh hu => next_regWriteOpt_accepted ⟨h, hh⟩ hu
  case report => exact fun s i react u h hh hu => next_regWriteOpt_accepted ⟨h, hh⟩ hu
  case toggle => exact fun s h ht hk => congrArg Host.Outcome.next (if_pos (by simp [h, ht, hk]))
  case arm => exact fun s i v u h hv hu => exec_wdArm h hv hu
  case service =>
    intro s i slot v mirror ticks hc hr
    rw [exec_wdService hc, if_pos hr]
  case notReady =>
    intro s i slot v mirror ticks hc hr
    rw [exec_wdService hc, if_neg (by simp [hr])]
  case timeout => exact fun s h hf => congrArg Host.Outcome.next (if_pos (by simp [h, hf]))
  case refLost => exact fun s h => congrArg Host.Outcome.next (if_pos h)
  case freeze => exact fun s h hs => congrArg Host.Outcome.next (if_pos (by simp [h, hs]))

end Sys2Proof.Machine
end

section
/-! PROOFS of O37. Trace sessions: packets, sinks, reads, triggers and the end of a capture (R485 to R491). -/

namespace Sys2Proof.Machine

variable {s : State} {p c : Nat}

/-! ## What an encoder emits (R486, R487) -/

theorem exec_lnsSync {c : CoreId} (hp : lensOf s c = some p) (hc : (lensOn s p c && lensPasses s p c) = true) :
    exec (.lnsSync c) s = .next (lensSync s p c) := by
  show execLnsSync c s = _
  simp only [execLnsSync, hp, hc, if_true, ok]

theorem exec_lnsPacket {c : CoreId} {ty : BitVec 4} {h : Byte} {l : List Byte} {cls : Nat} (hp : lensOf s c = some p)
    (hcls : lensClass ty.toNat = some cls)
    (hc : (h.toNat / 16 = ty.toNat && lensOn s p c && mayEmit s p c ty (h :: l)) = true) :
    exec (.lnsPacket c ty (h :: l)) s = .next (lensEmit s p c cls (h :: l)) := by
  show execLnsPacket c ty (h :: l) s = _
  simp only [execLnsPacket, hp, hcls, hc, if_true, ok]

/-! ## Sinks and the end of a capture (R488 to R491) -/

theorem exec_lnsSinkWrite {p : Part} {cls : Nat} {l : List Byte} {rest : List (Nat × Nat × List Byte)}
    (h : (getLens s p).staging = (cls, c, l) :: rest) :
    exec (.lnsSinkWrite p) s =
      .next (lensDrops (sinkPacket (setLens s p { getLens s p with staging := rest }) p c l) p) := by
  show execLnsSinkWrite p s = _
  simp only [execLnsSinkWrite, h, ok]

theorem exec_lnsCaptureStop {p : Part} {t0 : Nat} {ph : Word} {rev : Bool} (h : (getLens s p).post = some (t0, ph, rev))
    (hd : postDone s p t0 ph rev = true) :
    exec (.lnsCaptureStop p) s =
      .next (raiseCond (wb (setLens s p { getLens s p with post := none }) (Reg.LNSP_STATUS p) 1 true) .lns 0 (p + 1) 1) := by
  show execLnsCaptureStop p s = _
  simp only [execLnsCaptureStop, h, hd, if_true, ok]

/-- Settles O37: an accepted access completes by the rules of Laws/Access, the events by the lemmas above. -/
theorem lensCommandsComplete : Obligations.LensCommandsComplete := by
  unfold Obligations.LensCommandsComplete
  refine ⟨?enable, ?sync, ?packet, ?sink, ?read, ?trigger, ?stop⟩
  case enable => exact fun s i p v u h hu => next_regWriteOpt_accepted ⟨h, rfl⟩ hu
  case sync => exact fun s c p hp hc => exec_lnsSync hp hc
  case packet => exact fun s c ty h l p cls hp hcls hc => exec_lnsPacket hp hcls hc
  case sink => exact fun s p cls c l rest h => exec_lnsSinkWrite h
  case read => exact fun s i p h => congrArg Host.Outcome.next (regRead_accepted s i _ _ h)
  case trigger => exact fun s p k c h => congrArg Host.Outcome.next (if_pos h)
  case stop => exact fun s p t0 ph rev h hd => exec_lnsCaptureStop h hd

end Sys2Proof.Machine
end

section
/-! PROOFS of O33. The journal engine: requests, records, NVMe commits, erase blocks and the scan (R443 to R449). -/

namespace Sys2Proof.Machine

variable {s : State} {r : JrnRun}

/-- A request is taken and checked where no completion waits and the engine is idle. -/
theorem exec_jrnRequest {l : List Byte} {t : State} (hc : s.jrn.cpls = []) (hi : jrnIdle s = true)
    (hq : hwDeq s (rf s Reg.JRN_REQRING 0 13) = (some (l, false, t), s)) : exec .jrnRequest s = .next (jrnCheck t l) := by
  have hf : jrnFlush s s.jrn.cpls.length = s := by rw [hc]; rfl
  show execJrnRequest s = _
  simp only [execJrnRequest, hf, hi, hq, Bool.not_true, Bool.false_eq_true, if_false, ok]

/-- A record gets its marker once the time that its granules take is over. -/
theorem exec_jrnMarkerWrite (hr : s.jrn.run = some r) (hn : r.nvme = false) (ht : ¬ s.time < r.since + 1000 * (r.body.length / 32)) :
    exec .jrnMarkerWrite s = .next (jrnEnd (jrnTail (jrnAdvance (jrnWrite (jrnWrite s r.at_ r.body) (r.at_ + r.body.length) r.marker)
      (r.body.length + 32))) r 0) := by
  show execJrnMarkerWrite s = _
  simp only [execJrnMarkerWrite, hr, hn, ht, Bool.false_or, decide_false, Bool.false_eq_true, if_false, ok]

/-- The device's answer to the write of an NVMe commit: the commit fails, ends or goes on with its marker. -/
theorem exec_jrnNvmeCompletion (b : Bool) (hr : s.jrn.run = some r) (hn : r.nvme = true) :
    exec (.jrnNvmeCompletion b) s = .next (if !b then jrnEnd s r 4 else if r.last then jrnEnd s r 0 else nvmeWrite s r.marker true) := by
  show execJrnNvmeCompletion b s = _
  simp only [execJrnNvmeCompletion, hr, hn, Bool.not_true, Bool.false_eq_true, if_false, ok]

theorem exec_jrnNvmeTimeout (hr : s.jrn.run = some r) (hn : r.nvme = true) (ht : r.since + 10000000 ≤ s.time) :
    exec .jrnNvmeTimeout s = .next (jrnEnd s r 4) := by
  show execJrnNvmeTimeout s = _
  simp only [execJrnNvmeTimeout, hr, hn, ht, decide_true, Bool.and_self, if_true, ok]

/-- The block ahead of the write pointer is erased while fewer than three are. -/
theorem exec_jrnErase (hen : rb s Reg.JRN_CTL 0 = true) (hscan : rb s Reg.JRN_STATUS 1 = false) (he : s.jrn.erasing.isSome = false)
    (ha : s.jrn.ahead < 3) (hp : pfwActive s = false) :
    exec .jrnErase s = .next (jrnTail { s with jrn := { s.jrn with
      erasing := some ((rf s Reg.JRN_WPTR 0 32 / 65536 + s.jrn.ahead) % 512)
      recs := s.jrn.recs.filter fun r => !recTouches ((rf s Reg.JRN_WPTR 0 32 / 65536 + s.jrn.ahead) % 512) r } }) :=
  congrArg Host.Outcome.next (if_neg (by simp [hen, hscan, he, ha, hp]))

theorem exec_jrnEraseDone {b : Nat} (h : s.jrn.erasing = some b) :
    exec .jrnEraseDone s = .next (eraseBlock { s with jrn := { s.jrn with erasing := none, ahead := s.jrn.ahead + 1 } } b) := by
  show execJrnEraseDone s = _
  simp only [execJrnEraseDone, h, ok]

/-- Settles O33: a write completes by `next_regWriteOpt_accepted`, the engine's own steps by the lemmas above. -/
theorem journalCommandsComplete : Obligations.JournalCommandsComplete := by
  unfold Obligations.JournalCommandsComplete
  refine ⟨?request, ?marker, ?goesOn, ?ends, ?fails, ?timeout, ?erase, ?erased, ?scan, ?scanned⟩
  case request => exact fun s l t hc hi hq => exec_jrnRequest hc hi hq
  case marker => exact fun s r hr hn ht => exec_jrnMarkerWrite hr hn ht
  case goesOn =>
    intro s r hr hn hl
    rw [exec_jrnNvmeCompletion true hr hn, if_neg (by decide), if_neg (by simp [hl])]
  case ends =>
    intro s r hr hn hl
    rw [exec_jrnNvmeCompletion true hr hn, if_neg (by decide), if_pos hl]
  case fails => exact fun s r hr hn => exec_jrnNvmeCompletion false hr hn
  case timeout => exact fun s r hr hn ht => exec_jrnNvmeTimeout hr hn ht
  case erase =>
    rintro s _ hen hscan he ha hp rfl
    exact exec_jrnErase hen hscan he ha hp
  case erased => exact fun s b h => exec_jrnEraseDone h
  case scan => exact fun s i v u h hu => next_regWriteOpt_accepted ⟨h, rfl⟩ hu
  case scanned => exact fun s h => congrArg Host.Outcome.next (if_pos h)

end Sys2Proof.Machine
end

section
/-! PROOFS of O31. The Periscope chain link: control, alignment and identity, time, messages, replays (R419 to R429). -/

namespace Sys2Proof.Machine

variable {s : State} {x : Bool}

/-! ## Writes of PSL_CTL (R419 to R421) -/

/-- A write of PSL_CTL that needs no clamp takes its effect, and renumbers the chain where it asks for that on the head. -/
theorem pslCtlAccess_accepted {i : Initiator} {w : Word} (h : Safety.Accepted s i Reg.PSL_CTL)
    (hc : (pslCtlEffect (respOk s 0) w).2 = false) :
    pslCtlAccess s i w = if bit w 4 && bit w 1 && bit w 0 then renumber (pslCtlEffect (respOk s 0) w).1
      else (pslCtlEffect (respOk s 0) w).1 := by
  rw [pslCtlAccess, regWrite_accepted s i _ _ h]
  simp only [pslCtlNow, hc, Bool.false_eq_true, if_false]

/-! ## Frames that arrive (R424, R427) -/

/-- A time frame is discarded where it is damaged, and taken otherwise. -/
theorem exec_pslTimeFrame {f : PslFrame} {n : Nat} (h : ppUp s x = true) :
    exec (.pslTimeFrame x f n) s = .next (if frameBad f then frameDiscard s x f else timeFrame (frameTake s x f) x f n) := by
  show execPslTimeFrame x f n s = _
  simp only [execPslTimeFrame, h, Bool.not_true, Bool.false_eq_true, if_false, ok]

/-- So is an idle frame; what is staged goes on to the rings. -/
theorem exec_pslIdleFrame {f : PslFrame} (h : pslOn s = true) (hp : 2 ≤ ppState s x) :
    exec (.pslIdleFrame x f) s = .next (if frameBad f then frameDiscard s x f
      else pslDrain (frameTake s x f) (frameTake s x f).psl.staging.length) :=
  congrArg Host.Outcome.next (if_neg (by simp [h, Nat.not_lt.2 hp]))

/-- A sample that is 2 us old is dropped, and its time base shows what is left. -/
theorem exec_pslSampleAge {idx : Fin 16} {e : Nat × Nat × Nat} (h : pslOn s = true) (he : (getPp s x).samples.get? idx.val = some e)
    (ht : ¬ s.time < e.1 + 2000) :
    exec (.pslSampleAge x idx) s =
      .next (tbrxShow (setPp s x { getPp s x with samples := (getPp s x).samples.drop (· == idx.val) }) idx) := by
  show execPslSampleAge x idx s = _
  simp only [execPslSampleAge, h, he, if_neg ht, Bool.not_true, Bool.false_eq_true, if_false, ok]

/-! ## Replays (R428, R429) -/

/-- A replay asked for eight times in vain retrains the port, and the fourth time takes it down. -/
theorem exec_pslReplayTimeout {n : Nat} (h : ppUp s x = true) (hn : (getPp s x).asked = some n) :
    exec (.pslReplayTimeout x) s = .next (if n < 8 then askReplay s x
      else if 3 ≤ (getPp s x).failed then ppDown s x
      else ppAlign (setPp s x { getPp s x with failed := (getPp s x).failed + 1, asked := none }) x) := by
  show execPslReplayTimeout x s = _
  simp only [execPslReplayTimeout, h, hn, Bool.not_true, Bool.false_eq_true, if_false, ok]

/-- Settles O31: the writes by the rules of Laws/Access; each event finds the port in the state that Table 17.4 asks for. -/
theorem periscopeLinkCommandsComplete : Obligations.PeriscopeLinkCommandsComplete := by
  unfold Obligations.PeriscopeLinkCommandsComplete
  refine ⟨?enable, ?renumber, ?retrain, ?align, ?ident, ?cal, ?calibrate, ?timeout, ?sample, ?timeGood, ?timeBad, ?age, ?message, ?send,
    ?idleGood, ?idleBad, ?replay, ?ask, ?realign, ?down⟩
  case enable =>
    rintro s i v _ h rfl hc
    exact congrArg Host.Outcome.next (pslCtlAccess_accepted h hc)
  case renumber =>
    rintro s i _ h rfl hc
    exact congrArg Host.Outcome.next (pslCtlAccess_accepted h hc)
  case retrain => exact fun s i x v h => next_regWrite_accepted h rfl
  case align =>
    rintro s x _ h hp rfl
    exact congrArg Host.Outcome.next (if_pos (by simp [h, hp]))
  case ident => exact fun s x serial addr count h hp => congrArg Host.Outcome.next (if_pos (by simp [h, hp]))
  case cal => exact fun s x t1 t2 t3 t4 h hp => congrArg Host.Outcome.next (if_pos (by simp [h, hp]))
  case calibrate => exact fun s x h => congrArg Host.Outcome.next (if_pos h)
  case timeout => exact fun s x h hp ht => congrArg Host.Outcome.next (if_pos (by simp [h, hp, ht]))
  case sample => exact fun s h ht => congrArg Host.Outcome.next (if_neg (by simp [h, ht]))
  case timeGood =>
    intro s x f n h hb
    rw [exec_pslTimeFrame h, if_neg (by simp [hb])]
  case timeBad =>
    intro s x f n h hb
    rw [exec_pslTimeFrame h, if_pos hb]
  case age => exact fun s x idx e h he ht => exec_pslSampleAge h he ht
  case message => exact fun s x f h hw => congrArg Host.Outcome.next (if_pos (by rw [h, hw]; rfl))
  case send => exact fun s k h hv ht => congrArg Host.Outcome.next (if_pos (by simp [h, hv, ht]))
  case idleGood =>
    intro s x f h hp hb
    rw [exec_pslIdleFrame h hp, if_neg (by simp [hb])]
  case idleBad =>
    intro s x f h hp hb
    rw [exec_pslIdleFrame h hp, if_pos hb]
  case replay =>
    rintro s x hseq _ h rfl
    exact congrArg Host.Outcome.next (if_neg (by simp [h]))
  case ask =>
    intro s x n h hn hlt
    rw [exec_pslReplayTimeout h hn, if_pos hlt]
  case realign =>
    intro s x n h hn hlt hf
    rw [exec_pslReplayTimeout h hn, if_neg hlt, if_neg (Nat.not_le.2 hf)]
  case down =>
    intro s x n h hn hlt hf
    rw [exec_pslReplayTimeout h hn, if_neg hlt, if_pos hf]

end Sys2Proof.Machine
end

section
/-! PROOFS of O30. Ethernet, CAN FD, MVB, serial interfaces and pins (R408 to R417). -/

namespace Sys2Proof.Machine

variable {s : State}

/-! ## Transmission by a MAC (R408, R410, R412) -/

section

variable {m : Fin 12} {t : Level}

/-- A MAC that may start a frame sends a copy that waits for it before the entries of its rings. -/
theorem exec_ethTxEntry (h : txFree s m = true) :
    exec (.ethTxEntry m t) s = .next (if (getMac s m).copies.any fun e => e.1.cls == t.val then copyGo s m t
      else if !frozen s .eth m 0 && rb s (Reg.ETH_TXRING m t) 31 && (nth (getMac s m).launch none t.val).isNone then txTake s m t
      else s) := by
  show execEthTxEntry m t s = _
  simp only [execEthTxEntry, h, Bool.not_true, Bool.false_eq_true, if_false, ok]

/-- A frame whose launch time has come starts while the wire is free and the gate and the shaper let it pass. -/
theorem exec_ethLaunch {e f : List Byte} (h : nth (getMac s m).launch none t.val = some (e, f)) (hm : macOn s m = true)
    (hq : (getMac s m).txq.all EthTx.sent = true)
    (ht : decide (sfld (BitVec.ofNat 64 (leNat ((e.drop 16).take 8))) 0 64 ≤ macT s m) = true)
    (hg : gateFits s m t (frameNs s m (f.length + (if genAsked e then 6 else 0))) = true) (hs : shaperOk s m t = true) :
    exec (.ethLaunch m t) s =
      .next (txStart (setMac s m { getMac s m with launch := listSet (getMac s m).launch t none }) m t e f) := by
  show execEthLaunch m t s = _
  simp only [execEthLaunch, h, hm, hq, ht, hg, hs, Bool.and_self, if_true, ok]

/-- The oldest item of a MAC is done: a copy goes back to its original, and a frame that waits for no copy is posted. -/
theorem exec_ethTxComplete {q : EthTx} {rest : List EthTx} (hn : netOn s = true) (hq : (getMac s m).txq = q :: rest) :
    exec (.ethTxComplete m) s = .next (match q.copyOf with
      | some k => copyDone (setMac s m { getMac s m with txq := rest }) k m q.cls
      | none => if q.waits.isSome then setMac s m { getMac s m with txq := { q with sent := true } :: rest }
        else txPost (setMac s m { getMac s m with txq := { q with sent := true } :: rest }) m) := by
  show execEthTxComplete m s = _
  cases hc : q.copyOf <;> simp only [execEthTxComplete, hn, hq, hc, Bool.not_true, Bool.false_eq_true, if_false, ok]

end

/-! ## CAN FD (R413) -/

section

variable {k : Fin 8}

/-- A controller that hears the bus receives a frame, or counts one with an error. -/
theorem exec_canfFrameReceive {x : CanRx} (h : canOn s k = true) (hm : rf s (Reg.CANF_CTL k) 3 2 ≠ 2) :
    exec (.canfFrameReceive k x) s = .next (if x.err then canFault s k (rf s (Reg.CANF_ERR k) 0 8) (rf s (Reg.CANF_ERR k) 8 8 + 1)
      else canReceive s k x.frame) :=
  congrArg Host.Outcome.next (if_neg (by simp [h, hm]))

/-- A controller that sends, and whose page is not frozen, transmits; an error leaves an entry that waits in its ring and is counted. -/
theorem exec_canfFrameTransmit {b : Bool} (h : canOn s k = true) (hm : rf s (Reg.CANF_CTL k) 3 2 ≠ 1) (hf : frozen s .canf k 0 = false) :
    exec (.canfFrameTransmit ⟨k, b⟩) s = .next (if b then
        if ringHas s (rf s (Reg.CANF_RING k) 0 13) then canFault s k (rf s (Reg.CANF_ERR k) 0 8 + 8) (rf s (Reg.CANF_ERR k) 8 8) else s
      else canTransmit s k) :=
  congrArg Host.Outcome.next (if_neg (by simp [h, hm, hf]))

end

/-- Settles O30: writes by the rules of Laws/Access; each event finds its unit on and enabled. -/
theorem networkAndFieldCommandsComplete : Obligations.NetworkAndFieldCommandsComplete := by
  unfold Obligations.NetworkAndFieldCommandsComplete
  refine ⟨?gates, ?gateList, ?step, ?receive, ?recovery, ?entry, ?copy, ?launch, ?complete, ?copyComplete, ?link, ?canReceive, ?canError,
    ?canTransmit, ?canRetry, ?busOff, ?mvbPort, ?mvbFrame, ?mvbLine, ?serial, ?stretch, ?pin⟩
  case gates => exact fun s m h => congrArg Host.Outcome.next (if_pos h)
  case gateList => exact fun s i m v u h hu => next_regWriteOpt_accepted ⟨h, rfl⟩ hu
  case step => exact fun s i m v h => next_regWrite_accepted h rfl
  case receive => exact fun s m frame fcsOk h hl => congrArg Host.Outcome.next (if_pos (by simp [h, hl]))
  case recovery =>
    rintro s r _ rfl hn hm ha ht
    exact congrArg Host.Outcome.next (if_pos (by simp only [hn, hm, ha, ht, Bool.not_false, Bool.and_self]))
  case entry =>
    intro s m t h hc hf hr hl
    rw [exec_ethTxEntry h, if_neg (by simp [hc]), if_pos (by simp [hf, hr, hl])]
  case copy =>
    intro s m t h hc
    rw [exec_ethTxEntry h, if_pos hc]
  case launch => exact fun s m t e f h hm hq ht hg hs => exec_ethLaunch h hm hq ht hg hs
  case complete =>
    intro s m q rest hn hq hc hw
    rw [exec_ethTxComplete hn hq, hc, hw]
    rfl
  case copyComplete =>
    intro s m q rest k hn hq hc
    rw [exec_ethTxComplete hn hq, hc]
  case link => exact fun s m up speed hn hs => congrArg Host.Outcome.next (if_pos (by rw [hn, hs]; rfl))
  case canReceive => exact fun s k f h hm => exec_canfFrameReceive h hm
  case canError => exact fun s k f h hm => exec_canfFrameReceive h hm
  case canTransmit => exact fun s k h hm hf => exec_canfFrameTransmit h hm hf
  case canRetry =>
    intro s k h hm hf hr
    rw [exec_canfFrameTransmit h hm hf, if_pos rfl, if_pos hr]
  case busOff => exact fun s k hn he hb hr => congrArg Host.Outcome.next (if_pos (by simp [hn, he, hb, hr]))
  case mvbPort => exact fun s i k port data h => next_regWrite_accepted h rfl
  case mvbFrame => exact fun s k x hn he => congrArg Host.Outcome.next (if_pos (by simp [hn, he]))
  case mvbLine => exact fun s k lineB good hn => congrArg Host.Outcome.next (if_pos hn)
  case serial => exact fun s k rx hn he hk hs => congrArg Host.Outcome.next (if_pos (by simp [hn, he, hk, hs]))
  case stretch => exact fun s k rx hs => congrArg Host.Outcome.next (if_neg (by simp [hs]))
  case pin => exact fun s pin level first hn hl ht => congrArg Host.Outcome.next (if_pos (by simp [hn, hl, ht]))

end Sys2Proof.Machine
end

section
/-! PROOFS of O27. DRAM controllers: states, requests, scheduling, refresh, slots and compensation (R355 to R374). -/

namespace Sys2Proof.Machine

variable {s : State} {ch : Nat} {q : DmcReq}

/-! ## Requests (R360 to R362) -/

section

variable (h : dmcServing s ch = true) (ho : dmcOwns s ch q.line = true)
include h ho

/-- A read of a line that waits to be written is answered from the newest such write. -/
theorem dmcReadArrive_hit {w : DmcReq} (hw : ((getDmc s ch).writes.reverse.find? fun w => w.line == q.line) = some w) :
    dmcReadArrive s ch q = dmcAnswer s q.line w.poison := by
  simp only [dmcReadArrive, h, ho, hw, Bool.not_true, Bool.or_self, Bool.false_eq_true, if_false]

/-- Another read is queued, while a credit is left. -/
theorem dmcReadArrive_queued (hw : ((getDmc s ch).writes.reverse.find? fun w => w.line == q.line) = none)
    (hl : (getDmc s ch).reads.length < 128) :
    dmcReadArrive s ch q = setDmc s ch { getDmc s ch with
      reads := (getDmc s ch).reads ++ [{ q with age := (getDmc s ch).arrivals }], arrivals := (getDmc s ch).arrivals + 1 } := by
  simp only [dmcReadArrive, h, ho, hw, if_pos hl, Bool.not_true, Bool.or_self, Bool.false_eq_true, if_false]

theorem dmcWriteArrive_taken {l : List Byte} (ht : dmcTakes (getDmc s ch) q.line = true) :
    dmcWriteArrive s ch q l = if q.poison then setPoison (setDmc s ch (dmcDrain s ch (dmcPutWrite (getDmc s ch) q))) q.line
      else clearPoison (wrBytes (setDmc s ch (dmcDrain s ch (dmcPutWrite (getDmc s ch) q))) (64 * q.line) (padTo 64 l)) q.line := by
  simp only [dmcWriteArrive, h, ho, ht, Bool.not_true, Bool.or_self, Bool.false_eq_true, if_false]

/-- A mirror write merges over a granule that is neither uncorrectable nor poisoned. -/
theorem dmcMirwrRun_merges {a : Nat} {v : Word} (ht : dmcTakes (getDmc s ch) q.line = true) (hp : poisoned s q.line = false) :
    dmcMirwrRun s ch a q v false = respOk (wrMem (setDmc s ch (dmcDrain s ch (dmcPutWrite (getDmc s ch) q))) a 8 v.toNat) 0 := by
  simp only [dmcMirwrRun, h, ho, ht, hp, Bool.not_true, Bool.or_self, Bool.false_eq_true, if_false]

end

theorem exec_dmcSchedule {ch : Fin 16} {busy : List Nat} {it : DmcItem} (h : dmcNext s ch busy = some it) :
    exec (.dmcSchedule ch busy) s = .next (dmcIssue s ch it) := by
  show execDmcSchedule ch busy s = _
  simp only [execDmcSchedule, h, ok]

/-- Settles O27: writes by `next_regWriteOpt_accepted`; each event finds the channel in the state that its rule asks for. -/
theorem dramCommandsComplete : Obligations.DramCommandsComplete := by
  unfold Obligations.DramCommandsComplete
  refine ⟨?map, ?mapDark, ?powerup, ?service, ?test, ?exitTest, ?fill, ?powerupDone, ?fillDone, ?sweep, ?sweepDone, ?readQueued, ?readHit,
    ?write, ?mirror, ?schedule, ?refresh, ?mr4, ?slot, ?tokens, ?slots, ?readData, ?temp, ?offset, fun s g => rfl, fun s => rfl, fun s => rfl⟩
  case map =>
    intro s i ch v u h hd hu
    exact (congrArg Host.Outcome.next (if_neg (by simp [hd]))).trans (next_regWriteOpt_accepted h hu)
  case mapDark => exact fun s i ch v hd hc => congrArg Host.Outcome.next (if_pos (by simp [hd, hc]))
  case powerup => exact fun s i ch u h hu => next_regWriteOpt_accepted h hu
  case service => exact fun s i ch u h hu => next_regWriteOpt_accepted h hu
  case test => exact fun s i ch u h hu => next_regWriteOpt_accepted h hu
  case exitTest => exact fun s i ch u h hu => next_regWriteOpt_accepted h hu
  case fill => exact fun s i ch u h hu => next_regWriteOpt_accepted h hu
  case powerupDone => exact fun s ch h hb => congrArg Host.Outcome.next (if_pos (by simp [h, hb]))
  case fillDone => exact fun s ch h _ => congrArg Host.Outcome.next (if_pos h)
  case sweep => exact fun s i ch v u h hu => next_regWriteOpt_accepted h hu
  case sweepDone => exact fun s ch res h hb => congrArg Host.Outcome.next (if_pos (by simp [h, hb]))
  case readQueued => exact fun s ch line ep part rt h ho hw hl => congrArg Host.Outcome.next (dmcReadArrive_queued h ho hw hl)
  case readHit => exact fun s ch line ep part rt w h ho hw => congrArg Host.Outcome.next (dmcReadArrive_hit h ho hw)
  case write =>
    rintro s ch line ep part rt poison data _ h ho ht rfl
    exact congrArg Host.Outcome.next (dmcWriteArrive_taken h ho ht)
  case mirror =>
    rintro s ch addr ep part v _ _ rfl rfl h ho ht hp
    exact congrArg Host.Outcome.next (dmcMirwrRun_merges h ho ht hp)
  case schedule => exact fun s ch busy it h => exec_dmcSchedule h
  case refresh => exact fun s ch h hb => congrArg Host.Outcome.next (if_pos (by simp [h, hb]))
  case mr4 => exact fun s ch rank mult h hb => congrArg Host.Outcome.next (if_pos (by simp [h, hb]))
  case slot => exact fun s ch h hb => congrArg Host.Outcome.next (if_pos (by simp [h, hb]))
  case tokens => exact fun s ch p h hr => congrArg Host.Outcome.next (if_pos (by simp [h, hr]))
  case slots => exact fun s i ch v u h hu => next_regWriteOpt_accepted h hu
  case readData => exact fun s ch m0 m1 u0 u1 h _ => congrArg Host.Outcome.next (if_pos h)
  case temp => exact fun s ch temp h => congrArg Host.Outcome.next (if_pos h)
  case offset => exact fun s ch h => congrArg Host.Outcome.next (if_pos h)

end Sys2Proof.Machine
end

section
/-! PROOFS of O36. The scan port, authorisation, mailboxes, debug events, watchdogs and snapshots (R470 to R484, R494, R496). -/

namespace Sys2Proof.Machine

variable {s t : State}

/-! ## Scan accesses (R473) -/

/-- A write that its register allows shows DONE without ERR. -/
theorem scanAccess_write {idx v : Nat} (h : scanWrite s idx v = some t) :
    scanAccess s true idx v = { t with dbg := { t.dbg with done := true, err := false } } := by
  simp only [scanAccess, h, if_true]

/-- So does a read, which shows its data and sends it. -/
theorem scanAccess_read {idx v : Nat} {w : Word} (h : scanRead s idx = some (t, w)) :
    scanAccess s false idx v = { t with dbg := { t.dbg with done := true, err := false, data := w }, sent := .jtag w } := by
  simp only [scanAccess, h, Bool.false_eq_true, if_false]

theorem scanWrite_authGo (s : State) : scanWrite s 0x003 1 = some (authSubmit s) := rfl

/-- A write of the revocation register with bit 8 revokes the grants of the partition that it names (R476). -/
theorem scanWrite_revoke (s : State) (p : Part) : scanWrite s 0x004 (256 + p.val) = some (revokeNow s p.val) := by
  have hp := p.isLt
  have hb : (256 + p.val).testBit 8 = true := by
    rw [Nat.testBit_two_pow_add_eq p.val 8, Nat.testBit_lt_two_pow (by omega)]
    rfl
  have hm : (256 + p.val) % 64 = p.val := by omega
  simp [scanWrite, hb, hm]

/-! ## The scan chain (R470, R471) -/

/-- While boundary scan is permitted the instructions take effect, and those that drive do so with the cells held. -/
theorem exec_scanIrUpdate_permitted {codes : List Byte} {l : List (Nat × Nat)} {irs : Tbl Nat} (h : bscanOk s = true)
    (hl : l = (chainSites s).zip (codes.map BitVec.toNat))
    (hi : irs = l.foldl (fun (t : Tbl Nat) e => t.set e.1 (irOf e.1 e.2)) s.dbg.irs) :
    exec (.scanIrUpdate codes) s = .next { s with dbg := { s.dbg with
      irs := irs
      drive := if l.any (fun e => e.2 == 0x00 || e.2 == 0x02) then
          s.dbg.cells.drop fun n => irs.get 0xFF n != 0x00 && irs.get 0xFF n != 0x02
        else [] } } := by
  subst hi hl
  show execScanIrUpdate codes s = _
  simp only [execScanIrUpdate, h, Bool.not_true, Bool.and_false, Bool.false_and, Bool.true_and, Bool.false_eq_true, if_false, ok]

/-- While it is not, an instruction that drives no ball takes effect. -/
theorem exec_scanIrUpdate_quiet (codes : List Byte) (h : bscanOk s = false)
    (hd : (((chainSites s).zip (codes.map BitVec.toNat)).any fun e => irDrives (irOf e.1 e.2)) = false) :
    exec (.scanIrUpdate codes) s = .next { s with dbg := { s.dbg with
      irs := ((chainSites s).zip (codes.map BitVec.toNat)).foldl (fun (t : Tbl Nat) e =>
        t.set e.1 (if irDrives (irOf e.1 e.2) then 0xFF else irOf e.1 e.2)) s.dbg.irs
      drive := [] } } := by
  show execScanIrUpdate codes s = _
  simp only [execScanIrUpdate, h, hd, Bool.not_false, Bool.and_true, Bool.true_and, Bool.false_and, Bool.false_eq_true, if_false, ok]

/-- The boundary registers under EXTEST are loaded, and drive, while boundary scan is permitted. -/
theorem exec_boundaryRegisterUpdate_extest {cells : List Bool} (he : (scanLoads s cells 0x00).isEmpty = false) (h : bscanOk s = true) :
    exec (.boundaryRegisterUpdate cells) s = .next { s with dbg := { s.dbg with
      cells := loadCells (loadCells s.dbg.cells (scanLoads s cells 0x01)) (scanLoads s cells 0x00)
      drive := loadCells s.dbg.drive (scanLoads s cells 0x00) } } := by
  show execBoundaryRegisterUpdate cells s = _
  simp only [execBoundaryRegisterUpdate, he, h, Bool.false_eq_true, if_false, if_true, ok]

/-! ## Authorisation (R475) -/

/-- A write that is accepted, from code with the privilege that it asks for, completes with its effect. -/
theorem next_regWrite_permitted {i : Initiator} {r : RegAddr} {p : Bool} {eff : State → State} (h : Safety.Accepted s i r ∧ p = true) :
    (Host.Outcome.next (regWrite s i r true p eff) : Out) = .next (eff (respOk s 0)) := by
  obtain ⟨ha, rfl⟩ := h
  rw [regWrite_accepted s i r eff ha]

/-- A response at the front of the engine's queue is judged; where it holds, its grants are set. -/
theorem exec_authVerifyDone {m : BseCmd} {rest : List BseCmd} (hq : s.bse.queue = m :: rest) (hp : 64 < m.page) :
    exec .authVerifyDone s = .next (bseNext (if authResult s m = 0 then
        setGrants { s with dbg := { s.dbg with auth := 3, result := authResult s m } } m.arg m.hash m.src
      else { s with dbg := { s.dbg with auth := 3, result := authResult s m } })) := by
  show execAuthVerifyDone s = _
  simp only [execAuthVerifyDone, hq, if_neg (Nat.not_le.2 hp), ok]

/-! ## Snapshots (R496) -/

theorem exec_counterSnapshot {at_ : Nat} (h : s.dbg.armed = some at_) (ht : at_ ≤ s.time)
    (hc : t = ((upto 388).filter fun c => blockPresent s .core c && !siteAbsent s (coreSite c)).foldl snapCore s) :
    exec .counterSnapshot s = .next (raiseCond (wb { wr t Reg.DBG_SNAPSEQ (BitVec.ofNat 64 ((rf t Reg.DBG_SNAPSEQ 0 32 + 1) % 2 ^ 32)) with
      dbg := { (wr t Reg.DBG_SNAPSEQ (BitVec.ofNat 64 ((rf t Reg.DBG_SNAPSEQ 0 32 + 1) % 2 ^ 32))).dbg with armed := none } }
      Reg.DBG_STATUS 1 false) .dbg 0 0 0) := by
  show execCounterSnapshot s = _
  simp only [execCounterSnapshot, h, if_neg (Nat.not_lt.2 ht), ok, hc]

/-- Settles O36: accesses by the rules of Laws/Access, scan accesses by `scanAccess_write` and `scanAccess_read`. -/
theorem debugCommandsComplete : Obligations.DebugCommandsComplete := by
  unfold Obligations.DebugCommandsComplete
  refine ⟨?irPermitted, ?irQuiet, fun s v => rfl, ?extest, ?preload, ?scanWrite, ?scanRead, ?authReq, ?authGo, ?scanRevoke, ?stop,
    ?stopPart, ?run, ?mbxIn, ?mbxOut, ?traceData, ?verify, ?verifyFails, ?revoke, ?mbxRead, ?mbxWrite, ?entry, ?expiry, ?serve, ?freeze,
    ?arm, ?snapshot, ?wrap, ?view⟩
  case irPermitted =>
    intro s codes l t hl h ht
    exact exec_scanIrUpdate_permitted h hl ht
  case irQuiet =>
    rintro s codes _ _ rfl h rfl hd
    exact exec_scanIrUpdate_quiet codes h hd
  case extest => exact fun s cells he h => exec_boundaryRegisterUpdate_extest he h
  case preload => exact fun s cells he => congrArg Host.Outcome.next (if_pos he)
  case scanWrite =>
    intro s v t hw h
    refine congrArg Host.Outcome.next ?_
    rw [hw]
    exact scanAccess_write h
  case scanRead =>
    intro s v t w hr h
    refine congrArg Host.Outcome.next ?_
    rw [hr]
    exact scanAccess_read h
  case authReq => exact fun s v t h => congrArg Host.Outcome.next (scanAccess_write h)
  case authGo => exact fun s => congrArg Host.Outcome.next (scanAccess_write (scanWrite_authGo s))
  case scanRevoke => exact fun s p => congrArg Host.Outcome.next (scanAccess_write (scanWrite_revoke s p))
  case stop => exact fun s t h => congrArg Host.Outcome.next (scanAccess_write h)
  case stopPart => exact fun s t h => congrArg Host.Outcome.next (scanAccess_write h)
  case run => exact fun s t h => congrArg Host.Outcome.next (scanAccess_write h)
  case mbxIn => exact fun s v t h => congrArg Host.Outcome.next (scanAccess_write h)
  case mbxOut => exact fun s t w h => congrArg Host.Outcome.next (scanAccess_read h)
  case traceData => exact fun s t w h => congrArg Host.Outcome.next (scanAccess_read h)
  case verify =>
    rintro s m rest _ hq hp rfl
    exact exec_authVerifyDone hq hp
  case verifyFails =>
    rintro s m rest _ hq hp rfl hr
    rw [exec_authVerifyDone hq hp, if_neg hr]
  case revoke => exact fun s i v h => next_regWrite_permitted h
  case mbxRead => exact fun s i c h => congrArg Host.Outcome.next (regRead_accepted s i _ _ h)
  case mbxWrite => exact fun s i c v u h hu => next_regWriteOpt_accepted h hu
  case entry => exact fun s c h => congrArg Host.Outcome.next (if_pos h)
  case expiry =>
    rintro s p _ _ hn rfl rfl
    exact congrArg Host.Outcome.next (if_neg hn)
  case serve => exact fun s i p h => next_regWrite_permitted h
  case freeze => exact fun s i v h => next_regWrite_permitted h
  case arm => exact fun s i v h => next_regWrite_permitted h
  case snapshot =>
    rintro s at_ t _ h ht hc rfl
    exact exec_counterSnapshot h ht hc
  case wrap => exact fun s c k h => congrArg Host.Outcome.next (if_pos h)
  case view => exact fun s i p v h => next_regWrite_accepted h rfl

end Sys2Proof.Machine
end

section
/-! PROOFS of O35. The boot ROM, the engine's commands and recovery (R459 to R469). -/

namespace Sys2Proof.Machine

variable {s : State}

/-! ## The boot ROM (R460, R463) -/

theorem romStart_life (s : State) : (romStart s).life = s.life := (kept_romStart (Kept.refl s)).life

/-- The boot ROM runs once the resource table is built, while the first hub core does not run, and no image runs or is waited for. -/
theorem exec_bootRom {flash : Option (List Byte)} {t : State} (ha : s.ammin.isNone = false) (hr : (getCore s 384).running = false)
    (hb : rb s Reg.BSE_STATUS 19 = false) (hw : s.bse.waits = false) (ht : t = romStart s) :
    exec (.bootRom flash) s = .next (if s.life = 4 then bootHalt t
      else bootSlots { t with bse := { t.bse with maint := mntOk t } } flash
        [activeSlot { t with bse := { t.bse with maint := mntOk t } },
          1 - activeSlot { t with bse := { t.bse with maint := mntOk t } }]) := by
  have hn : ¬(s.ammin.isNone || (getCore s 384).running || rb s Reg.BSE_STATUS 19 || s.bse.waits) = true := by simp [ha, hr, hb, hw]
  have hl : t.life = s.life := ht ▸ romStart_life s
  show execBootRom flash s = _
  rw [execBootRom, if_neg hn, ← ht]
  simp only [hl, ok]

/-! ## The command at the front of the engine's queue (R467) -/

theorem exec_bseCommandDone {m : BseCmd} {rest : List BseCmd} (hq : s.bse.queue = m :: rest) (hp : m.page ≤ 64) :
    exec .bseCommandDone s = .next (bseNext (bseEnd (if m.page = 0 then bsePage0 s m else bseService s m).1 m.page
      (if m.page = 0 then bsePage0 s m else bseService s m).2)) := by
  show execBseCommandDone s = _
  simp only [execBseCommandDone, hq, if_neg (Nat.not_lt.2 hp), ok]

/-- Settles O35: writes by `next_regWriteOpt_accepted`, the ROM and the queue by the lemmas above. -/
theorem bootAndSecurityCommandsComplete : Obligations.BootAndSecurityCommandsComplete := by
  unfold Obligations.BootAndSecurityCommandsComplete
  refine ⟨?rom, ?halt, ?provision, ?lock, ?enroll, ?keyop, ?advance, ?install, ?activate, ?loadmc, ?nopatch, ?verifyMc, ?handover,
    ?verify, ?report, ?chain, ?page0, ?service, ?opens, ?push, ?done, ?close⟩
  case rom =>
    intro s flash t ha hr hb hw ht hl
    rw [exec_bootRom ha hr hb hw ht, if_neg hl]
  case halt =>
    intro s flash t ha hr hb hw ht hl
    rw [exec_bootRom ha hr hb hw ht, if_pos hl]
  case provision => exact fun s i u h hu => next_regWriteOpt_accepted h hu
  case lock => exact fun s i u h hu => next_regWriteOpt_accepted h hu
  case enroll => exact fun s i u h hu => next_regWriteOpt_accepted h hu
  case keyop => exact fun s i u h hu => next_regWriteOpt_accepted h hu
  case advance => exact fun s i u h hu => next_regWriteOpt_accepted h hu
  case install => exact fun s i u h hu => next_regWriteOpt_accepted h hu
  case activate => exact fun s i u h hu => next_regWriteOpt_accepted h hu
  case loadmc => exact fun s i u h hu => next_regWriteOpt_accepted h hu
  case nopatch => exact fun s i u h hu => next_regWriteOpt_accepted h hu
  case verifyMc => exact fun s i u h hu => next_regWriteOpt_accepted h hu
  case handover => exact fun s i u h hu => next_regWriteOpt_accepted h hu
  case verify => exact fun s i p u h hu => next_regWriteOpt_accepted ⟨h, rfl⟩ hu
  case report => exact fun s i p u h hu => next_regWriteOpt_accepted ⟨h, rfl⟩ hu
  case chain => exact fun s i p u h hu => next_regWriteOpt_accepted ⟨h, rfl⟩ hu
  case page0 =>
    intro s m rest hq hp
    rw [exec_bseCommandDone hq (by omega), if_pos hp]
  case service =>
    intro s m rest hq hn hp
    rw [exec_bseCommandDone hq hp, if_neg hn]
  case opens => exact fun s i u h hu => next_regWriteOpt_accepted ⟨h, rfl⟩ hu
  case push => exact fun s i count u h hu => next_regWriteOpt_accepted ⟨h, rfl⟩ hu
  case done => exact fun s i u h hu => next_regWriteOpt_accepted ⟨h, rfl⟩ hu
  case close => exact fun s i u h hu => next_regWriteOpt_accepted ⟨h, rfl⟩ hu

end Sys2Proof.Machine
end

section
/-! PROOFS of O29. Host ports and storage root ports: requests in both directions, links, vectors, devices (R398 to R402, R406). -/

namespace Sys2Proof.Machine

variable {s : State}

/-! ## What a BAR and an offset name (Table 16.2) -/

section

variable {p : Port} {f bar off : Nat} {i : Initiator} {t : Tlp} {n : Nat} {l : List Byte}

theorem hpServe_page (hb : bar = 0) (ho : off < 0x4000000) :
    hpServe s p f i bar off t = hostAnswer (match t with
      | .rd n => pageRead s i (0xF00000000000 + off) (8 * n)
      | .wr l _ => pageWrite s i (0xF00000000000 + off) (8 * l.length) (BitVec.ofNat 64 (leNat l)) false) :=
  if_pos ⟨hb, ho⟩

theorem hpServe_dram (hb : bar = 2) (hw : 30 ≤ fld (rd s (hpIwin p f)) 0 6 ∧ off < 2 ^ fld (rd s (hpIwin p f)) 0 6) :
    hpServe s p f i bar off t = hostAnswer (hpDram s i (2 ^ 30 * fld (rd s (hpIwin p f)) 30 18 + off) t) := by
  unfold hpServe
  dsimp only
  rw [if_neg (fun h => absurd (hb.symm.trans h.1) (by decide)), if_pos ⟨hb, hw⟩]

/-- BAR4 serves the core windows and the MSI-X structures; it reaches neither pages nor DRAM. -/
theorem hpServe_bar4 (hb : bar = 4) :
    hpServe s p f i bar off t =
      if off < 0x18400000 then
        hostAnswer (match t with
          | .rd n => aliasRead s i (off / 0x100000) (off % 0x100000) n
          | .wr l _ => aliasWrite s i (off / 0x100000) (off % 0x100000) l false)
      else if 0x1F000000 ≤ off ∧ off < 0x1F000400 then
        match t with
        | .rd n => { s with resp := .bytes (msixRead s p f (off - 0x1F000000) n false) }
        | .wr l _ => respOk (msixWrite s p f (off - 0x1F000000) l) 0
      else if 0x1F001000 ≤ off ∧ off < 0x1F001008 then
        match t with
        | .rd n => { s with resp := .bytes (msixRead s p f (off - 0x1F001000) n true) }
        | .wr _ _ => respOk s 0
      else respErr s hUR := by
  unfold hpServe
  dsimp only
  rw [if_neg (fun h => absurd (hb.symm.trans h.1) (by decide)), if_neg (fun h => absurd (hb.symm.trans h.1) (by decide))]
  simp only [hb, true_and] <;> rfl

end

/-! ## Requests of a host (R398, R399) -/

section

variable {port : Port} {fn : Fin 33} {bar : BitVec 3} {off : BitVec 48}

/-- A request through an enabled function of a port that is up, other than a write that arrives poisoned, is served. -/
theorem exec_hpInboundRequest {t : Tlp} (hu : hpUp s port = true) (he : rb s (hpFmap port fn) 31 = true) (ht : ∀ l, t ≠ .wr l true) :
    exec (.hpInboundRequest port fn bar off t) s = .next (hpServe s port fn (.host port fn) bar.toNat off.toNat t) := by
  show execHpInboundRequest port fn bar off t s = _
  cases t with
  | rd n => simp only [execHpInboundRequest, hu, he, Bool.not_true, Bool.false_eq_true, if_false, ok]
  | wr l poison =>
    cases poison with
    | true => exact absurd rfl (ht l)
    | false => simp only [execHpInboundRequest, hu, he, Bool.not_true, Bool.false_eq_true, if_false, ok]

theorem exec_hpInboundRequest_disabled {t : Tlp} (hu : hpUp s port = true) (he : rb s (hpFmap port fn) 31 = false) :
    exec (.hpInboundRequest port fn bar off t) s = .next (respErr s hUR) := by
  show execHpInboundRequest port fn bar off t s = _
  simp only [execHpInboundRequest, hu, he, Bool.not_true, Bool.not_false, Bool.false_eq_true, if_false, if_true, ok]

/-- A configuration request is answered once the port lets the host enumerate it. -/
theorem exec_hpConfigRequest {req : CfgReq} (hu : hpUp s port = true) (he : rb s (hpCtl port) 0 = true) :
    exec (.hpConfigRequest port fn req) s = .next (match req with
      | .read => respOk { s with freeCtr := s.freeCtr + 1 } (BitVec.ofNat 64 (Config.freeNat s.freeCtr % 2 ^ 32))
      | .setMse on => respOk (setHp s port { getHp s port with
          mse := if on then fn.val :: (getHp s port).mse.filter (· != fn.val) else (getHp s port).mse.filter (· != fn.val) }) 0
      | .other => respOk s 0) := by
  show execHpConfigRequest port fn req s = _
  cases req <;> simp only [execHpConfigRequest, hu, he, takeFree, Bool.not_true, Bool.false_eq_true, if_false, ok]

end

/-! ## Accesses to a host window (R400) -/

theorem hostAccess_failed {i : Initiator} {a n e : Nat} {w : Option Word} (ha : areaOf a = .host) (he : owinErr s i a = some e) :
    hostAccess s i a n w = respErr (logErr s (accessAddrRec s i a e)) e := by
  simp only [hostAccess, ha, he, ne_eq, not_true_eq_false, if_false]

theorem hostAccess_write {i : Initiator} {a n : Nat} {v : Word} (ha : areaOf a = .host) (he : owinErr s i a = none)
    (hr : regionOk s (initPart s i) a n 2 = true) : hostAccess s i a n (some v) = hostWrite s a (leBytes n v.toNat) := by
  simp only [hostAccess, ha, he, hr, Option.isSome_some, ne_eq, not_true_eq_false, Bool.not_true, Bool.false_eq_true, if_false, if_true]

theorem hostAccess_read {i : Initiator} {a n : Nat} (ha : areaOf a = .host) (he : owinErr s i a = none)
    (hr : regionOk s (initPart s i) a n 1 = true) : hostAccess s i a n none = hostRead s i a n none := by
  simp only [hostAccess, ha, he, hr, Option.isSome_none, ne_eq, not_true_eq_false, Bool.not_true, Bool.false_eq_true, if_false]

theorem exec_hpReadCompletion {port : Port} {tag : BitVec 10} {v : Word} {o : HpOut}
    (h : ((getHp s port).outs.find? fun o => o.tag == tag.toNat) = some o) :
    exec (.hpReadCompletion port tag v) s =
      .next (hpAnswer (hpEnd s port tag.toNat) o 0 (BitVec.ofNat 64 (v.toNat % 2 ^ (8 * min 8 o.len)))) := by
  show execHpReadCompletion port tag v s = _
  simp only [execHpReadCompletion, h, ok]

theorem exec_hpCompletionTimeout {port : Port} {tag : BitVec 10} {o : HpOut}
    (h : ((getHp s port).outs.find? fun o => o.tag == tag.toNat) = some o)
    (ht : o.since + 1000 * max 1 (rf s (hpCtl port) 16 16) ≤ s.time) :
    exec (.hpCompletionTimeout port tag) s = .next (hpAnswer (hpEnd s port tag.toNat) o eRANGE 0) := by
  show execHpCompletionTimeout port tag s = _
  simp only [execHpCompletionTimeout, h, if_pos ht, ok]

/-- A message that was pending is sent, while the port is up. -/
theorem exec_hpMsixSend {port : Port} {f v : Nat} {rest : List (Nat × Nat)} (h : (getHp s port).msgs = (f, v) :: rest)
    (hu : hpUp (setHp s port { getHp s port with msgs := rest }) port = true) :
    exec (.hpMsixSend port) s = .next (msixGo (setHp s port { getHp s port with msgs := rest }) port f v) := by
  show execHpMsixSend port s = _
  simp only [execHpMsixSend, h, hu, if_true, ok]

/-! ## Storage ports (R406) -/

section

variable {i : Initiator} {port : Fin 2} (h : Safety.Accepted s i (spaCfgdata port)) (hu : (getSpa s port).up = true)
include h hu

/-- A write of CFGDATA goes to the device. -/
theorem exec_spaConfigAccess_write {v : W32} {dev : Option W32} :
    exec (.spaConfigAccess i port (some v) dev) s = .next { respOk s 0 with sent := .cfg port true (getSpa s port).cfgAddr v } := by
  show execSpaConfigAccess i port (some v) dev s = _
  exact congrArg Host.Outcome.next ((if_pos rfl).trans ((regWrite_accepted s i _ _ h).trans (if_neg (by simp [hu]))))

/-- A read of CFGDATA goes to the device, and is answered with what the device gives. -/
theorem exec_spaConfigAccess_read {dev : Option W32} :
    exec (.spaConfigAccess i port none dev) s = .next (match dev with
      | some v => respOk { setSpa s port { getSpa s port with outs := (getSpa s port).outs.erase i } with
          sent := .cfg port false (getSpa s port).cfgAddr 0 } (w32 v)
      | none => { setSpa s port { getSpa s port with outs := (getSpa s port).outs ++ [i] } with
          sent := .cfg port false (getSpa s port).cfgAddr 0, resp := .none }) := by
  show execSpaConfigAccess i port none dev s = _
  refine congrArg Host.Outcome.next ((if_neg (by simp)).trans ((regRead_accepted s i _ _ h).trans ((if_neg (by simp [hu])).trans ?_)))
  cases dev <;> rfl

end

/-- Settles O29: an inbound request by the BAR and the offset that it names, an outbound access by what nothing refuses. -/
theorem hostPortCommandsComplete : Obligations.HostPortCommandsComplete := by
  unfold Obligations.HostPortCommandsComplete
  refine ⟨?pageRead, ?pageWrite, ?dram, ?coreRead, ?coreWrite, ?msixRead, ?msixWrite, ?pba, ?disabled, ?cfgRead, ?cfgMse, ?cfgOther,
    ?send, ?sendRead, ?refused, ?completion, ?timeout, ?linkDown, ?linkUp, ?flr, ?vmap, ?message, ?spaWrite, ?spaRead, ?spaWaits,
    ?vector, ?dma, ?spaDown, ?spaUp⟩
  case pageRead =>
    intro s port fn bar off n hu he hb ho
    rw [exec_hpInboundRequest hu he (by simp), hpServe_page (congrArg BitVec.toNat hb) ho]
  case pageWrite =>
    intro s port fn bar off l hu he hb ho
    rw [exec_hpInboundRequest hu he (by simp), hpServe_page (congrArg BitVec.toNat hb) ho]
  case dram =>
    rintro s port fn bar off t _ hu he hb rfl hw ht
    have hc : ∀ l, t ≠ .wr l true := by
      rintro l rfl
      cases ht
    rw [exec_hpInboundRequest hu he hc, hpServe_dram (congrArg BitVec.toNat hb) hw]
  case coreRead =>
    intro s port fn bar off n hu he hb ho
    rw [exec_hpInboundRequest hu he (by simp), hpServe_bar4 (congrArg BitVec.toNat hb), if_pos ho]
  case coreWrite =>
    intro s port fn bar off l hu he hb ho
    rw [exec_hpInboundRequest hu he (by simp), hpServe_bar4 (congrArg BitVec.toNat hb), if_pos ho]
  case msixRead =>
    intro s port fn bar off n hu he hb ho
    rw [exec_hpInboundRequest hu he (by simp), hpServe_bar4 (congrArg BitVec.toNat hb), if_neg (by omega), if_pos ho]
  case msixWrite =>
    intro s port fn bar off l hu he hb ho
    rw [exec_hpInboundRequest hu he (by simp), hpServe_bar4 (congrArg BitVec.toNat hb), if_neg (by omega), if_pos ho]
  case pba =>
    intro s port fn bar off n hu he hb ho
    rw [exec_hpInboundRequest hu he (by simp), hpServe_bar4 (congrArg BitVec.toNat hb), if_neg (by omega), if_neg (by omega), if_pos ho]
  case disabled => exact fun s port fn bar off t hu he => exec_hpInboundRequest_disabled hu he
  case cfgRead => exact fun s port fn hu he => exec_hpConfigRequest hu he
  case cfgMse => exact fun s port fn on hu he => exec_hpConfigRequest hu he
  case cfgOther => exact fun s port fn hu he => exec_hpConfigRequest hu he
  case send => exact fun s i addr width v ha he hr => congrArg Host.Outcome.next (hostAccess_write ha he hr)
  case sendRead => exact fun s i addr width ha he hr => congrArg Host.Outcome.next (hostAccess_read ha he hr)
  case refused => exact fun s i addr width wr e ha he => congrArg Host.Outcome.next (hostAccess_failed ha he)
  case completion => exact fun s port tag v o h => exec_hpReadCompletion h
  case timeout => exact fun s port tag o h ht => exec_hpCompletionTimeout h ht
  case linkDown => exact fun s port h => congrArg Host.Outcome.next (if_pos h)
  case linkUp => exact fun s port rate width numvf ho hl => congrArg Host.Outcome.next (if_neg (by simp [ho, hl]))
  case flr => exact fun s port fn h => congrArg Host.Outcome.next (if_pos h)
  case vmap => exact fun s i port k v u h hu => next_regWriteOpt_accepted h hu
  case message => exact fun s port f v rest h hu => exec_hpMsixSend h hu
  case spaWrite => exact fun s i port v dev h hu => exec_spaConfigAccess_write h hu
  case spaRead => exact fun s i port dev h hu => exec_spaConfigAccess_read h hu
  case spaWaits => exact fun s i port h hu => exec_spaConfigAccess_read h hu
  case vector => exact fun s port v hn hu => congrArg Host.Outcome.next (if_pos (by simp [hn, hu]))
  case dma => exact fun s port addr req hn hu => congrArg Host.Outcome.next (if_pos (by simp [hn, hu]))
  case spaDown => exact fun s port hn hu => congrArg Host.Outcome.next (if_pos (by simp [hn, hu]))
  case spaUp => exact fun s port hn hu => congrArg Host.Outcome.next (if_pos (by simp [hn, hu]))

end Sys2Proof.Machine
end

section
/-! PROOFS of O28. The queue engine and its DMA channels: rings, enqueue and dequeue, commands of a channel (R377 to R393). -/

namespace Sys2Proof.Machine

variable {s : State}

/-! ## Writes through a partition's page (R379, R387) -/

section

variable {i : Initiator} {p n : Nat} {q : RegAddr} {f : State → Nat → Option State} {u : State}

/-- A page writes the ring that it selects, where it is page 0 or its partition owns the ring. -/
theorem ringRegWrite_owned (h : Safety.Accepted s i q) (hn : n = rf s (Reg.QEP_RSEL p) 0 13) (ho : p = 0 ∨ (getRing s n).owner = p)
    (hf : f (respOk s 0) n = some u) : ringRegWrite s i p q f = u := by
  subst hn
  rw [ringRegWrite, regWrite_accepted s i q _ h]
  refine (if_neg ?_).trans ?_
  · rintro ⟨hp, hw⟩
    exact ho.elim hp hw
  · rw [show f (respOk s 0) (rf (respOk s 0) (Reg.QEP_RSEL p) 0 13) = some u from hf]

/-- A page writes the DMA channel that it selects, where it is page 0 or its partition owns the channel. -/
theorem dmaRegWrite_owned (h : Safety.Accepted s i q) (hn : n = rf s (Reg.QEP_DSEL p) 0 6) (ho : p = 0 ∨ dmaOwner s n = p)
    (hf : f (respOk s 0) n = some u) : dmaRegWrite s i p q f = u := by
  subst hn
  rw [dmaRegWrite, regWrite_accepted s i q _ h]
  refine (if_neg ?_).trans ?_
  · rintro ⟨hp, hw⟩
    exact ho.elim hp hw
  · rw [show f (respOk s 0) (rf (respOk s 0) (Reg.QEP_DSEL p) 0 6) = some u from hf]

end

/-! ## Enqueue and dequeue (R380, R381) -/

section

variable {i : Initiator} {p : Nat} {v : Word} {e : Nat}

theorem enqStart_started (h : opRefusal s i p (fld v 0 13) (fld v 16 43 * 32) false = none)
    (hq : quotaOk s (getRing s (fld v 0 13)) = true) :
    enqStart s i p v = { setRing s (fld v 0 13) { getRing s (fld v 0 13) with
      ops := (getRing s (fld v 0 13)).ops ++ [{ deq := false, ini := i, page := p, addr := fld v 16 43 * 32, entry := none }] } with
      resp := .none } := by
  simp only [enqStart, h, hq, Bool.not_true, Bool.false_eq_true, if_false]

theorem enqStart_refused (h : opRefusal s i p (fld v 0 13) (fld v 16 43 * 32) false = some e) :
    enqStart s i p v = postResult s i e 0 := by
  simp only [enqStart, h]

theorem deqStart_started (h : opRefusal s i p (fld v 0 13) (fld v 16 43 * 32) true = none)
    (hc : (getRing s (fld v 0 13)).taking < (getRing s (fld v 0 13)).count) :
    deqStart s i p v = { setRing s (fld v 0 13) { getRing s (fld v 0 13) with
      ops := (getRing s (fld v 0 13)).ops ++ [{ deq := true, ini := i, page := p, addr := fld v 16 43 * 32, entry := none }] } with
      resp := .none } := by
  simp only [deqStart, h, if_neg (Nat.not_le.mpr hc)]

theorem deqStart_refused (h : opRefusal s i p (fld v 0 13) (fld v 16 43 * 32) true = some e) :
    deqStart s i p v = postResult s i e 0 := by
  simp only [deqStart, h]

end

section

variable {r : Nat} {o : QeOp} {rest : List QeOp} {l : List Byte} {t u : State}

/-- An entry that is read without fault, for which the ring has a slot and the partition quota, is stamped and waits for its buffer write. -/
theorem enqRead_reserved {k : Nat} (hk : takeOpAt isReading k (getRing s r).ops = some (o, rest))
    (ht : targetRefuses s o.page o.addr (getRing s r).esize 1 = none)
    (hl : agRead s (endpointOf .qe 0) o.addr (getRing s r).esize = .data l false)
    (hm : (!(getRing s r).mirror || pairsOk l) = true) (hh : (getRing s r).held < (getRing s r).size)
    (hq : quotaOk s (getRing s r) = true) :
    enqRead s r k false = setRing s r { getRing s r with
      ops := rest ++ [{ o with entry := some (stampEntry s (getRing s r) l) }] } := by
  have hm' : ((getRing s r).mirror && !pairsOk l) = false := by simpa [Bool.or_eq_true, imp_iff_not_or] using hm
  simp only [enqRead, hk, ht, hl, hm', hq, if_neg (Nat.not_le.mpr hh), Bool.not_true, Bool.false_eq_true, if_false]

theorem slotWrite_ok {x : Ring} (hm : mirrorStuck s x = none)
    (hw : (agWrite s (endpointOf .qe 0) (x.slotAddr x.tail) l false).toOption = some t) : slotWrite s x l = (t, none) := by
  simp only [slotWrite, hm, eq_ok_of_toOption hw]

/-- A buffer write that ends without fault makes the entry visible (R380). -/
theorem enqDone_visible (ho : takeOp isWriting (getRing s r).ops = some (o, rest))
    (hm : mirrorStuck (setRing s r { getRing s r with ops := rest }) (getRing s r) = none)
    (hw : (agWrite (setRing s r { getRing s r with ops := rest }) (endpointOf .qe 0) ((getRing s r).slotAddr (getRing s r).tail)
      (o.entry.getD []) false).toOption = some t) :
    enqDone s r false = postResult (slotDone t r (o.entry.getD [])) o.ini 0 (getRing s r).tail := by
  simp only [enqDone, ho, slotWrite_ok hm hw, Bool.false_eq_true, if_false]

/-- A dequeue copies the head entry to its target and frees the slot (R381). -/
theorem deqDone_copied (ho : takeOp QeOp.deq (getRing s r).ops = some (o, rest)) (hu : u = setRing s r { getRing s r with ops := rest })
    (hl : agRead u (endpointOf .qe 0) ((getRing s r).slotAddr (getRing s r).head) (getRing s r).esize = .data l false)
    (hm : (!(getRing s r).mirror || pairsOk l) = true) (ht : targetRefuses u o.page o.addr (getRing s r).esize 2 = none)
    (hw : (agWrite u (endpointOf .qe 0) o.addr l false).toOption = some t) {w : State}
    (hc : w = poisonCopied u t ((getRing s r).slotAddr (getRing s r).head) o.addr (getRing s r).esize) :
    deqDone s r false false = postResult (setRing w r { getRing w r with head := ((getRing w r).head + 1) % (getRing w r).size, count := (getRing w r).count - 1 })
      o.ini 0 (getRing s r).head := by
  have hm' : ((getRing s r).mirror && !pairsOk l) = false := by simpa [Bool.or_eq_true, imp_iff_not_or] using hm
  subst hu hc
  simp only [deqDone, ho, hl, ht, hm', eq_ok_of_toOption hw, Bool.not_false, Bool.and_true, Bool.false_eq_true, if_false]

end

/-! ## DMA channels (R389 to R393) -/

section

variable {c : Nat} {m : DmaCmd}

/-- A command whose addresses the channel's partition may reach joins the channel's commands. -/
theorem dmaFetch_joined {l : List Byte} {t u : State} (he : (getDma s c).en = true)
    (hd : hwDeq s (fld (getDma s c).ctl 1 13) = (some (l, false, t), s)) (hm : m = parseCmd l)
    (hu : u = setDma t c { getDma t c with cmds := (getDma t c).cmds ++ [m] })
    (ha : (dmaAddrOk u (dmaOwner s c) m.src m.len 1 && dmaAddrOk u (dmaOwner s c) m.dst m.len 2) = true) :
    dmaFetch s c = u := by
  subst hm hu
  simp only [dmaFetch, he, hd, ha, Bool.not_true, Bool.false_eq_true, if_false, if_true]

theorem dmaStart_started {k : Nat} (hk : ((getDma s c).cmds.findIdx? fun m => !m.started) = some k) (hm : (getDma s c).cmds[k]? = some m)
    (hs : ((getDma s c).started < (getDma s c).limit && (getDma s c).cpls.isEmpty && (!m.fence || k == 0)) = true) :
    dmaStart s c = setDma s c { getDma s c with cmds := listSet (getDma s c).cmds k { m with started := true } } := by
  simp only [dmaStart, hk, hm]
  exact if_pos hs

theorem dmaDone_ended {tag : Nat} {err : Bool} (hm : ((getDma s c).cmds.find? fun m => m.started && m.tag == tag) = some m) :
    dmaDone s c tag err = dmaEnd (dmaCopy s c m m.len).1 c m (if (dmaCopy s c m m.len).2.2 || err then 9 else 0) (dmaCopy s c m m.len).2.1 := by
  simp only [dmaDone, hm]

theorem dmaPost_posted {l : List Byte} {rest : List (List Byte)} {t : State} (hc : (getDma s c).cpls = l :: rest)
    (he : hwEnq s (fld (getDma s c).ctl 14 13) l = some t) : dmaPost s c = setDma t c { getDma t c with cpls := rest } := by
  simp only [dmaPost, hc, he]

/-- A command that has not started is taken back without a byte copied. -/
theorem dmaAbort_waiting {i : Initiator} {p done tag : Nat} {v : Word} (hc : c = fld v 0 6) (ht : tag = fld v 16 16)
    (ho : p = 0 ∨ dmaOwner s c = p) (hm : ((getDma s c).cmds.find? fun m => m.tag == tag) = some m) (hs : m.started = false) :
    dmaAbort s i p v done = postResult (dmaEnd s c m 0xD 0) i 0 0 := by
  have hp : ¬(dmaOwner s c ≠ p ∧ p ≠ 0) := fun h => ho.elim h.2 h.1
  have he : (getDma s c).cmds.isEmpty = false := by
    cases hl : (getDma s c).cmds with
    | nil => rw [hl] at hm; cases hm
    | cons x xs => rfl
  subst hc ht
  simp only [dmaAbort, if_neg hp, he, hm, hs, Bool.and_false, Bool.false_eq_true, if_false, if_true]

end

/-- Settles O28: what each operation of the queue engine and of a channel comes to when nothing refuses it. -/
theorem queueEngineCommandsComplete : Obligations.QueueEngineCommandsComplete := by
  unfold Obligations.QueueEngineCommandsComplete
  refine ⟨?own, ?ringEnable, ?ringDisable, ?dmaEnable, ?dmaDisable, ?enq, ?enqRefused, ?deq, ?deqRefused, ?sourceRead, ?enqComplete,
    ?deqComplete, ?fetch, ?start, ?complete, ?post, ?abort⟩
  case own => exact fun s i v u h hu => next_regWriteOpt_accepted h hu
  case ringEnable => exact fun s i p v n u h hn ho hu => congrArg Host.Outcome.next (ringRegWrite_owned h hn (ho.imp_left (congrArg Fin.val)) hu)
  case ringDisable => exact fun s i p v n u h hn ho hu => congrArg Host.Outcome.next (ringRegWrite_owned h hn (ho.imp_left (congrArg Fin.val)) hu)
  case dmaEnable => exact fun s i p v n u h hn ho hu => congrArg Host.Outcome.next (dmaRegWrite_owned h hn (ho.imp_left (congrArg Fin.val)) hu)
  case dmaDisable => exact fun s i p v n u h hn ho hu => congrArg Host.Outcome.next (dmaRegWrite_owned h hn (ho.imp_left (congrArg Fin.val)) hu)
  case enq =>
    rintro s i p v r a h rfl rfl hr hq
    exact congrArg Host.Outcome.next ((regWrite_accepted s i _ _ h).trans (enqStart_started hr hq))
  case enqRefused =>
    rintro s i p v r a e h rfl rfl hr
    exact congrArg Host.Outcome.next ((regWrite_accepted s i _ _ h).trans (enqStart_refused hr))
  case deq =>
    rintro s i p v r a h rfl rfl hr hc
    exact congrArg Host.Outcome.next ((regWrite_accepted s i _ _ h).trans (deqStart_started hr hc))
  case deqRefused =>
    rintro s i p v r a e h rfl rfl hr
    exact congrArg Host.Outcome.next ((regWrite_accepted s i _ _ h).trans (deqStart_refused hr))
  case sourceRead => exact fun s r k o rest l hk ht hl hm hh hq => congrArg Host.Outcome.next (enqRead_reserved hk ht hl hm hh hq)
  case enqComplete => exact fun s r o rest t ho hm hw => congrArg Host.Outcome.next (enqDone_visible ho hm hw)
  case deqComplete => exact fun s r o rest l t u w ho hu hl hm ht hw hc => congrArg Host.Outcome.next (deqDone_copied ho hu hl hm ht hw hc)
  case fetch => exact fun s ch l t u m he hd hm hu ha => congrArg Host.Outcome.next (dmaFetch_joined he hd hm hu ha)
  case start => exact fun s ch k m hk hm hs => congrArg Host.Outcome.next (dmaStart_started hk hm hs)
  case complete => exact fun s ch tag err m hm => congrArg Host.Outcome.next (dmaDone_ended hm)
  case post => exact fun s ch l rest t hc he => congrArg Host.Outcome.next (dmaPost_posted hc he)
  case abort =>
    intro s i p v done c tag m h hc ht ho hm hs
    exact congrArg Host.Outcome.next ((regWrite_accepted s i _ _ h).trans (dmaAbort_waiting hc ht (ho.imp_left (congrArg Fin.val)) hm hs))

end Sys2Proof.Machine
end
